-- ==== Sys2Proof/Word.lean ====
section
/-!
DEFINITION. The word types of the IZ-3240 (00_scope R4, R8) and the one shape of a sparse table used in the state.
-/

namespace Sys2Proof

/-- A byte of memory (R4). -/
abbrev Byte := BitVec 8

/-- A general register, an address or a doubleword (R4, R8). -/
abbrev Word := BitVec 64

/-- A membership set: bit `q` stands for query `q` (R8, R209). -/
abbrev MSet := BitVec 1024

/-- A vector register: lane `i` is bits `32*i+31 : 32*i` (R8, R187). -/
abbrev Vec := BitVec 1024

/-- A version context: 128 opaque bits (R8, R162). -/
abbrev VCtx := BitVec 128

/-- A sparse table by a natural key: keys strictly rising, no entry equal to what an unlisted key reads as. -/
abbrev Tbl (α : Type) := List (Nat × α)

end Sys2Proof
end

