-- ==== Sys2Proof/Machine/Bits.lean ====
section
/-!
DEFINITION. Sparse tables, bit fields, byte order (00 R3, R4), lanes (10 R187), and the integer helpers the meanings share.
-/

namespace Sys2Proof.Machine

/-- The entry of key `k`; `d` where the table lists none. -/
def tget {α : Type} (d : α) (t : Tbl α) (k : Nat) : α :=
  match t with
  | [] => d
  | e :: r => if e.1 = k then e.2 else tget d r k

/-- The table without key `k`. -/
def terase {α : Type} (t : Tbl α) (k : Nat) : Tbl α :=
  t.filter (fun e => e.1 != k)

/-- An entry put at its place by key. -/
def tins {α : Type} (t : Tbl α) (k : Nat) (v : α) : Tbl α :=
  match t with
  | [] => [(k, v)]
  | e :: r => if k < e.1 then (k, v) :: e :: r else e :: tins r k v

/-- The table in which `k` reads as `v`; an entry equal to what an unlisted key reads as is not listed. -/
def tput {α : Type} [DecidableEq α] (d : α) (t : Tbl α) (k : Nat) (v : α) : Tbl α :=
  if v = d then terase t k else tins (terase t k) k v

/-- The canonical form: keys strictly rising, no entry equal to the default. -/
def twf {α : Type} [DecidableEq α] (d : α) (t : Tbl α) : Bool :=
  match t with
  | [] => true
  | [e] => decide (e.2 ≠ d)
  | e :: e' :: r => decide (e.1 < e'.1) && decide (e.2 ≠ d) && twf d (e' :: r)

/-- The sorted list of numbers with `k`. -/
def sinsert (l : List Nat) (k : Nat) : List Nat :=
  match l with
  | [] => [k]
  | a :: r => if k < a then k :: a :: r else if k = a then a :: r else a :: sinsert r k

/-- The sorted list of numbers without `k`. -/
def serase (l : List Nat) (k : Nat) : List Nat := l.filter (fun a => a != k)

/-- Bits `hi:lo` of a number. -/
def bits (w hi lo : Nat) : Nat := w / 2 ^ lo % 2 ^ (hi + 1 - lo)

/-- One bit of a number. -/
def bit (w i : Nat) : Bool := w / 2 ^ i % 2 = 1

/-- Sign extension of an `n`-bit field to 64 bits (R65). -/
def sext {n : Nat} (x : BitVec n) : Word := x.signExtend 64

/-- Zero extension to 64 bits. -/
def zext {n : Nat} (x : BitVec n) : Word := x.setWidth 64

/-- A 64-bit 0 or 1. -/
def ofBool (b : Bool) : Word := if b then 1 else 0

/-- The little-endian number of a list of bytes (R4). -/
def bytesToNat (l : List Byte) : Nat := l.foldr (fun b n => b.toNat + 256 * n) 0

/-- The `n` little-endian bytes of a number (R4). -/
def natToBytes (n v : Nat) : List Byte :=
  match n with
  | 0 => []
  | n + 1 => BitVec.ofNat 8 v :: natToBytes n (v / 256)

/-- `n` bytes of a list from position `i`, zero beyond its end, as a little-endian number. -/
def fieldOf (l : List Byte) (i n : Nat) : Nat := bytesToNat ((l.drop i).take n)

/-- Lane `i` of a vector (R187). -/
def lane (v : Vec) (i : Nat) : BitVec 32 := v.extractLsb' (32 * i) 32

/-- The vector whose lane `i` is `f i`. -/
def ofLanes (f : Nat → BitVec 32) : Vec :=
  BitVec.ofNat 1024 (bytesToNatLanes ((List.range 32).map f))
where
  bytesToNatLanes (l : List (BitVec 32)) : Nat := l.foldr (fun x n => x.toNat + 2 ^ 32 * n) 0

/-- Bit `i` of a mask. -/
def maskBit (k : BitVec 32) (i : Nat) : Bool := k.getLsbD i

/-- The 32-bit mask whose bit `i` is `f i`. -/
def ofMask (f : Nat → Bool) : BitVec 32 :=
  BitVec.ofNat 32 ((List.range 32).foldr (fun i n => (if f i then 1 else 0) + 2 * n) 0)

/-- Doubleword `i` of a 1,024-bit register. -/
def dword (v : BitVec 1024) (i : Nat) : Word := v.extractLsb' (64 * i) 64

/-- The 1,024-bit register whose doubleword `i` is `f i`. -/
def ofDwords (f : Nat → Word) : BitVec 1024 :=
  BitVec.ofNat 1024 ((List.range 16).foldr (fun i n => (f i).toNat + 2 ^ 64 * n) 0)

/-- The number of one bits of the low `n` bits. -/
def popc (w n : Nat) : Nat := (List.range n).foldl (fun c i => if bit w i then c + 1 else c) 0

/-- The lowest set bit at or above `from`, below `n`; `n` where there is none. -/
def lowestBit (w n start : Nat) : Nat := ((List.range n).find? (fun i => decide (start ≤ i) && bit w i)).getD n

/-- The number of leading zero bits of a 64-bit value (R79). -/
def clz64 (w : Word) : Nat := if w.toNat = 0 then 64 else 63 - Nat.log2 w.toNat

/-- Bit reversal (R79). -/
def brev64 (w : Word) : Word := w.reverse

/-- Byte reversal (R79). -/
def bswap64 (w : Word) : Word := BitVec.ofNat 64 (bytesToNat (natToBytes 8 w.toNat).reverse)

/-- Signed division truncated towards zero, with R80's corners. -/
def divS (a b : Word) : Word := if b = 0 then -1 else BitVec.sdiv a b

/-- Unsigned division with R80's corner. -/
def divU (a b : Word) : Word := if b = 0 then -1 else a / b

/-- Signed remainder with R80's corners: the sign of the dividend. -/
def remS (a b : Word) : Word := if b = 0 then a else BitVec.srem a b

/-- Unsigned remainder with R80's corner. -/
def remU (a b : Word) : Word := if b = 0 then a else a % b

/-- Bits 127:64 of an exact product (R79). -/
def highOf (p : Int) : Word := BitVec.ofInt 64 (p / 2 ^ 64)

/-- The signed minimum and maximum (R78). -/
def minS {n : Nat} (a b : BitVec n) : BitVec n := if a.slt b then a else b
/-- See `minS`. -/
def maxS {n : Nat} (a b : BitVec n) : BitVec n := if a.slt b then b else a
/-- The unsigned minimum and maximum (R78). -/
def minU {n : Nat} (a b : BitVec n) : BitVec n := if a.ult b then a else b
/-- See `minU`. -/
def maxU {n : Nat} (a b : BitVec n) : BitVec n := if a.ult b then b else a

/-- The smaller of a sum and a bound, saturated to the signed 32-bit range (R193). -/
def sat32 (x : Int) : BitVec 32 :=
  BitVec.ofInt 32 (max (-(2 ^ 31)) (min (2 ^ 31 - 1) x))

/-- A list without the first element that meets a condition. -/
def removeFirst {α : Type} (p : α → Bool) (l : List α) : List α :=
  match l with
  | [] => []
  | e :: r => if p e then r else e :: removeFirst p r

/-- Every element that meets a test, replaced by `f` of it. -/
def updEach {α : Type} (p : α → Bool) (f : α → α) (l : List α) : List α :=
  l.map (fun x => if p x then f x else x)

/-- The largest of a list of numbers, 0 for none. -/
def maxOf (l : List Nat) : Nat := l.foldl max 0

/-- Rounding up division. -/
def ceilDiv (a b : Nat) : Nat := (a + b - 1) / b

end Sys2Proof.Machine
end

