-- ==== Sys2Proof/Machine/Float.lean ====
section
/-!
DEFINITION. IEEE 754-2019 arithmetic as the spec uses it (05 R100-R107, 09 R172-R176): values are unpacked, computed
exactly as a sign, a natural significand and a power of two, and rounded once. Subnormals are kept; tininess is detected
after rounding (R100).
-/

namespace Sys2Proof.Machine

/-- A floating-point layout with infinities and NaNs (R172, R173): exponent bits, fraction bits. -/
structure FFmt where
  e : Nat
  f : Nat
deriving DecidableEq, Repr

/-- FP64 (R172). -/
def fp64 : FFmt := ⟨11, 52⟩
/-- FP32 (R172). -/
def fp32 : FFmt := ⟨8, 23⟩
/-- BF16 (R172). -/
def bf16 : FFmt := ⟨8, 7⟩
/-- FP16 (R172). -/
def fp16 : FFmt := ⟨5, 10⟩
/-- E5M2 (R172). -/
def e5m2 : FFmt := ⟨5, 2⟩

/-- The exponent bias (R172). -/
def FFmt.bias (t : FFmt) : Nat := 2 ^ (t.e - 1) - 1
/-- The width in bits. -/
def FFmt.width (t : FFmt) : Nat := t.e + t.f + 1
/-- The all-ones exponent field. -/
def FFmt.emax (t : FFmt) : Nat := 2 ^ t.e - 1
/-- The encoding of an infinity (R173). -/
def FFmt.infBits (t : FFmt) (neg : Bool) : Nat := (if neg then 2 ^ (t.e + t.f) else 0) + t.emax * 2 ^ t.f
/-- The canonical quiet NaN (R100, R173). -/
def FFmt.qnan (t : FFmt) : Nat := t.emax * 2 ^ t.f + 2 ^ (t.f - 1)
/-- The largest finite magnitude (R172). -/
def FFmt.maxBits (t : FFmt) (neg : Bool) : Nat := t.infBits neg - 1

/-- An unpacked value: `fin neg man exp` is (-1)^neg * man * 2^exp. -/
inductive FVal where
  | nan (signalling : Bool)
  | inf (neg : Bool)
  | fin (neg : Bool) (man : Nat) (exp : Int)
deriving DecidableEq, Repr

/-- The five flags (R101). -/
structure FFlags where
  nv : Bool := false
  dz : Bool := false
  ovf : Bool := false
  uf : Bool := false
  nx : Bool := false
deriving DecidableEq, Repr

/-- The union of two flag sets. -/
def FFlags.or (a b : FFlags) : FFlags :=
  ⟨a.nv || b.nv, a.dz || b.dz, a.ovf || b.ovf, a.uf || b.uf, a.nx || b.nx⟩

/-- Bits NV, DZ, OF, UF, NX from bit 0 (R102). -/
def FFlags.toBits (a : FFlags) : BitVec 5 :=
  BitVec.ofNat 5 (a.nv.toNat + 2 * a.dz.toNat + 4 * a.ovf.toNat + 8 * a.uf.toNat + 16 * a.nx.toNat)

/-- Rounding modes by their code in FPCTL.rm (R101). -/
inductive RM where
  | rne | rtz | rdn | rup | rna
deriving DecidableEq, Repr

/-- The rounding mode of a code; 5 to 7 are never stored (R101). -/
def rmOf (n : Nat) : RM :=
  match n with
  | 1 => .rtz
  | 2 => .rdn
  | 3 => .rup
  | 4 => .rna
  | _ => .rne

/-- Unpack the low bits of a number in a format (R172, R173). -/
def unpackF (t : FFmt) (w : Nat) : FVal :=
  let s := bit w (t.e + t.f)
  let x := bits w (t.e + t.f - 1) t.f
  let fr := w % 2 ^ t.f
  if x = t.emax then
    if fr = 0 then .inf s else .nan (! bit w (t.f - 1))
  else if x = 0 then .fin s fr (1 - (t.bias : Int) - t.f)
  else .fin s (2 ^ t.f + fr) ((x : Int) - t.bias - t.f)

/-- Whether rounding increments a magnitude `q` whose remainder is `r` of `2^sh`. -/
def roundsUp (rm : RM) (neg : Bool) (q r half : Nat) : Bool :=
  match rm with
  | .rne => decide (r > half) || (decide (r = half) && decide (q % 2 = 1))
  | .rna => decide (r ≥ half)
  | .rtz => false
  | .rdn => neg && decide (r ≠ 0)
  | .rup => !neg && decide (r ≠ 0)

/-- A magnitude `man * 2^exp` as a multiple of `2^lsb`: the rounded multiple, and whether it is inexact. -/
def roundTo (rm : RM) (neg : Bool) (man : Nat) (exp lsb : Int) : Nat × Bool :=
  if exp ≥ lsb then (man * 2 ^ (exp - lsb).toNat, false)
  else
    let sh := (lsb - exp).toNat
    let q := man / 2 ^ sh
    let r := man % 2 ^ sh
    ((if roundsUp rm neg q r (2 ^ (sh - 1)) then q + 1 else q), decide (r ≠ 0))

/-- Round an exact nonzero or zero magnitude into a format: the bits and the flags OF, UF, NX (R100, R102, R107). -/
def roundF (t : FFmt) (rm : RM) (neg : Bool) (man : Nat) (exp : Int) : Nat × FFlags :=
  let sb := if neg then 2 ^ (t.e + t.f) else 0
  if man = 0 then (sb, {})
  else
    let top : Int := exp + Nat.log2 man
    let emin : Int := 1 - (t.bias : Int)
    -- with an unbounded exponent, for the tininess test after rounding
    let u := roundTo rm neg man exp (top - t.f)
    let uTop : Int := if u.1 ≥ 2 ^ (t.f + 1) then top + 1 else top
    let tiny := decide (uTop < emin)
    let lsb : Int := (if top < emin then emin else top) - t.f
    let q := roundTo rm neg man exp lsb
    -- the field is the multiple plus the exponent offset, so a carry moves into the exponent
    let e0 := if top < emin then 0 else (top - emin).toNat
    let w := q.1 + e0 * 2 ^ t.f
    if w ≥ t.emax * 2 ^ t.f then
      let toInf := match rm with
        | .rne => true
        | .rna => true
        | .rtz => false
        | .rdn => neg
        | .rup => !neg
      ((if toInf then t.infBits neg else t.maxBits neg), { ovf := true, nx := true })
    else (sb + w, { uf := tiny && q.2, nx := q.2 })

/-- A result that is an unpacked value: NaN is the canonical one (R100). -/
def packF (t : FFmt) (rm : RM) (v : FVal) : Nat × FFlags :=
  match v with
  | .nan _ => (t.qnan, {})
  | .inf n => (t.infBits n, {})
  | .fin n m e => roundF t rm n m e

/-- Whether a value is a signalling NaN. -/
def FVal.isSNaN (v : FVal) : Bool := match v with | .nan s => s | _ => false
/-- Whether a value is a NaN. -/
def FVal.isNaN (v : FVal) : Bool := match v with | .nan _ => true | _ => false
/-- Whether a value is a zero. -/
def FVal.isZero (v : FVal) : Bool := match v with | .fin _ m _ => decide (m = 0) | _ => false
/-- The negated value. -/
def FVal.neg (v : FVal) : FVal :=
  match v with
  | .nan s => .nan s
  | .inf n => .inf (!n)
  | .fin n m e => .fin (!n) m e

/-- A signed significand. -/
def sgn (neg : Bool) (m : Nat) : Int := if neg then -(m : Int) else m

/-- The exact sum of two finite values over the lower exponent. -/
def addExact (n1 : Bool) (m1 : Nat) (e1 : Int) (n2 : Bool) (m2 : Nat) (e2 : Int) : Int × Int :=
  let e := min e1 e2
  (sgn n1 (m1 * 2 ^ (e1 - e).toNat) + sgn n2 (m2 * 2 ^ (e2 - e).toNat), e)

/-- The exact sum of two values before rounding, with the sign of an exact zero (R105, R194), and NV (R102). -/
def addV (rm : RM) (a b : FVal) : FVal × FFlags :=
  let inv := a.isSNaN || b.isSNaN
  match a, b with
  | .nan _, _ => (.nan false, { nv := inv })
  | _, .nan _ => (.nan false, { nv := inv })
  | .inf x, .inf y => if x = y then (.inf x, {}) else (.nan false, { nv := true })
  | .inf x, .fin _ _ _ => (.inf x, {})
  | .fin _ _ _, .inf y => (.inf y, {})
  | .fin n1 m1 e1, .fin n2 m2 e2 =>
    let s := addExact n1 m1 e1 n2 m2 e2
    let zneg := if m1 = 0 && m2 = 0 && n1 == n2 then n1 else decide (rm = .rdn)
    if s.1 = 0 then (.fin zneg 0 0, {}) else (.fin (decide (s.1 < 0)) s.1.natAbs s.2, {})

/-- The exact product before rounding, and NV (R102). -/
def mulV (a b : FVal) : FVal × FFlags :=
  let inv := a.isSNaN || b.isSNaN
  match a, b with
  | .nan _, _ => (.nan false, { nv := inv })
  | _, .nan _ => (.nan false, { nv := inv })
  | .inf x, .inf y => (.inf (x != y), {})
  | .inf x, .fin n m _ => if m = 0 then (.nan false, { nv := true }) else (.inf (x != n), {})
  | .fin n m _, .inf y => if m = 0 then (.nan false, { nv := true }) else (.inf (n != y), {})
  | .fin n1 m1 e1, .fin n2 m2 e2 => (.fin (n1 != n2) (m1 * m2) (e1 + e2), {})

/-- The rounded sum (R103). -/
def addF (t : FFmt) (rm : RM) (a b : FVal) : Nat × FFlags :=
  let x := addV rm a b
  let y := packF t rm x.1
  (y.1, x.2.or y.2)

/-- The rounded product (R103). -/
def mulF (t : FFmt) (rm : RM) (a b : FVal) : Nat × FFlags :=
  let x := mulV a b
  let y := packF t rm x.1
  (y.1, x.2.or y.2)

/-- The rounded a × b + c with one rounding (R105): ∞ × 0 is invalid even with a quiet NaN addend. -/
def fmaF (t : FFmt) (rm : RM) (a b c : FVal) : Nat × FFlags :=
  let p := mulV a b
  let x := addV rm p.1 c
  let y := packF t rm x.1
  (y.1, (p.2.or x.2).or y.2)

/-- The rounded quotient (R103), with DZ and NV (R102). -/
def divF (t : FFmt) (rm : RM) (a b : FVal) : Nat × FFlags :=
  let inv := a.isSNaN || b.isSNaN
  match a, b with
  | .nan _, _ => (t.qnan, { nv := inv })
  | _, .nan _ => (t.qnan, { nv := inv })
  | .inf x, .fin n _ _ => (t.infBits (x != n), {})
  | .inf _, .inf _ => (t.qnan, { nv := true })
  | .fin n _ _, .inf y => packF t rm (.fin (n != y) 0 0)
  | .fin n1 m1 e1, .fin n2 m2 e2 =>
    if m2 = 0 then
      if m1 = 0 then (t.qnan, { nv := true }) else (t.infBits (n1 != n2), { dz := true })
    else
      let k := t.f + 3 + Nat.log2 m2 + 1
      let q := m1 * 2 ^ k / m2
      let r := m1 * 2 ^ k % m2
      packF t rm (.fin (n1 != n2) (2 * q + (if r = 0 then 0 else 1)) (e1 - e2 - k - 1))

/-- The integer square root by bits, from bit `n` down. -/
def isqrtAux (n : Nat) (x r : Nat) : Nat :=
  match n with
  | 0 => r
  | n + 1 =>
    let c := r + 2 ^ n
    isqrtAux n x (if c * c ≤ x then c else r)

/-- The integer square root. -/
def isqrt (x : Nat) : Nat := isqrtAux (Nat.log2 x / 2 + 1) x 0

/-- The rounded square root (R103): √(−0) = −0, invalid below −0. -/
def sqrtF (t : FFmt) (rm : RM) (a : FVal) : Nat × FFlags :=
  match a with
  | .nan s => (t.qnan, { nv := s })
  | .inf n => if n then (t.qnan, { nv := true }) else (t.infBits false, {})
  | .fin n m e =>
    if m = 0 then packF t rm (.fin n 0 0)
    else if n then (t.qnan, { nv := true })
    else
      let odd := decide (e % 2 ≠ 0)
      let k := 2 * (t.f + 3)
      let x := (if odd then 2 * m else m) * 2 ^ k
      let e' := (if odd then e - 1 else e) - k
      let q := isqrt x
      packF t rm (.fin false (2 * q + (if q * q = x then 0 else 1)) (e' / 2 - 1))

/-- The order of two values that are no NaN: less, with −0 = +0. -/
def ltV (a b : FVal) : Bool :=
  match a, b with
  | .nan _, _ => false
  | _, .nan _ => false
  | .inf x, .inf y => x && !y
  | .inf x, .fin _ _ _ => x
  | .fin _ _ _, .inf y => !y
  | .fin n1 m1 e1, .fin n2 m2 e2 => decide ((addExact n1 m1 e1 (!n2) m2 e2).1 < 0)

/-- Equality of two values, with −0 = +0; a NaN is unequal to everything (R103). -/
def eqV (a b : FVal) : Bool := !a.isNaN && !b.isNaN && !ltV a b && !ltV b a

/-- The sign bit of a number in a format. -/
def signBit (t : FFmt) (w : Nat) : Bool := bit w (t.e + t.f)

/-- The minimum or maximum by R104: −0 below +0, one NaN gives the other operand, two give the canonical NaN. -/
def minMaxF (t : FFmt) (max : Bool) (a b : Nat) : Nat × FFlags :=
  let x := unpackF t a
  let y := unpackF t b
  let fl : FFlags := { nv := x.isSNaN || y.isSNaN }
  if x.isNaN && y.isNaN then (t.qnan, fl)
  else if x.isNaN then (b, fl)
  else if y.isNaN then (a, fl)
  else
    let less := if x.isZero && y.isZero then signBit t a && !signBit t b else ltV x y
    ((if less != max then a else b), fl)

/-- The class mask of R104. -/
def classF (t : FFmt) (w : Nat) : Nat :=
  match unpackF t w with
  | .nan s => if s then 2 ^ 8 else 2 ^ 9
  | .inf n => if n then 1 else 2 ^ 7
  | .fin n m _ =>
    if m = 0 then (if n then 2 ^ 3 else 2 ^ 4)
    else if bits w (t.e + t.f - 1) t.f = 0 then (if n then 2 ^ 2 else 2 ^ 5)
    else (if n then 2 else 2 ^ 6)

/-- A conversion to an integer range (R107): rounded, saturated with NV, a NaN gives 0 with NV. -/
def toIntF (rm : RM) (lo hi : Int) (v : FVal) : Int × FFlags :=
  match v with
  | .nan _ => (0, { nv := true })
  | .inf n => ((if n then lo else hi), { nv := true })
  | .fin n m e =>
    let q := roundTo rm n m e 0
    let x := sgn n q.1
    if x < lo then (lo, { nv := true })
    else if x > hi then (hi, { nv := true })
    else (x, { nx := q.2 })

/-- A conversion from an integer (R106). -/
def ofIntF (t : FFmt) (rm : RM) (x : Int) : Nat × FFlags := roundF t rm (decide (x < 0)) x.natAbs 0

/-- A conversion between formats (R106, R107): a signalling NaN raises NV. -/
def cvtF (src dst : FFmt) (rm : RM) (w : Nat) : Nat × FFlags :=
  let v := unpackF src w
  let y := packF dst rm v
  (y.1, { nv := v.isSNaN : FFlags }.or y.2)

end Sys2Proof.Machine
end

