-- ==== Sys2Proof/Config.lean ====
section
/-!
DEFINITION. What the module fixes (sizes, unloaded latencies) and the free values: constants without a body, about which
nothing can be proved.
-/

namespace Sys2Proof.Config

/-- Which of the old values and the new one a fetch sees of a halfword changed since `ICINV`: free at each fetch (R51; log 8). -/
opaque fetchPick : Nat → Nat

/-- The same at FIXED, by the number of the context's own accesses (R28; log 8). -/
opaque fixedPick : Nat → Nat

/-- The vector to which a thread at F takes its traps, by cause (R318: firmware vectors that software cannot reach; log 11). -/
opaque firmwareVector : Nat → Word

/-- A status or value the manual does not state (log 15), by a counter of the state. -/
opaque freeWord : Nat → Word

/-- Whether the proctor's overflow memory is full when a RESOURCE request comes to it (R327; log 10). -/
opaque overflowFull : Nat → Bool

/-- The host agent's part of an access to a host window, in cycles (R46: not bounded by the module; log 9). -/
opaque hostDelay : Nat → Nat

/-- Whether a home slice lacks the line of HBM that an access names (R46: the manual does not say which lines it holds; log 5): at FIXED by the
number of the context's own accesses (R299). -/
opaque lineMiss : Nat → Bool
opaque fixedMiss : Nat → Bool

/-! ## Unloaded latencies (R46, R80, R199, R220, R223, R239, R249, R254, R258, R354), taken exactly (log 5) -/

def ownCluster : Nat := 24
def ownCoreF4 : Nat := 24
def sameDieCore : Nat := 48
def ownDie : Nat := 40
def homeOwnDie : Nat := 63
def homeElsewhere : Nat := 420
def broino : Nat := 893
def hbmMiss : Nat := 105
def farTier : Nat := 1050
def cacheHit : Nat := 24
def divider : Nat := 48
def plbRefill : Nat := 360
def copyAccept : Nat := 4
def tileAccept : Nat := 24
def tileDispatch : Nat := 4
def poll : Nat := 64
def retry : Nat := 1024
def stealWait : Nat := 64
def gateWait : Nat := 2048
def gateWake : Nat := 96
def outputAge : Nat := 64
def queueAge : Nat := 1048576
def turnDwell : Nat := 2048
def turnTime : Nat := 40
def dispatchEvery : Nat := 16
def correctionGap : Nat := 65536
def interval : Nat := 256

/-! ## Sizes -/

def dequeSize : Nat := 64
/-- The bytes of a segment that the proctor links to a spill ring (R377 gives none; DESIGN CHOICE, log 52). -/
def spillSegment : Nat := 65536
def dequeMove : Nat := 32
def msgQueue : Nat := 32
def bankWaiters : Nat := 32
def syncQueue : Nat := 256
def sibEntries : Nat := 65536
def maxSiblings : Nat := 8
def maxDots : Nat := 6
def rollEntries : Nat := 256
def copyEntries : Nat := 16
def postEntries : Nat := 32
def tileEntries : Nat := 256
def plbEntries : Nat := 64
def maxOutstanding : Nat := 62
def parkEntries : Nat := 256
def counterEntries : Nat := 4096
def turnEntries : Nat := 8
def lowRoll : Nat := 64
def replayQueue : Nat := 256
def elogSize : Nat := 256
def heldEvents : Nat := 16
def peQueue : Nat := 8
/-- The bytes of HBM behind one channel: pages end at or below this offset (R359). -/
def channelBytes : Nat := 0x9502F900
/-- The far-tier capacity (R1: up to 8 TB addressable). -/
def farBytes : Nat := 8000000000000
/-- The area of a chrysalis image (R375). -/
def imageArea : Nat := 1228800

end Sys2Proof.Config
end

