-- ==== Sys2Proof/Syntax.lean ====
section
/-!
DEFINITION. The syntax of the machine: one constructor for each row of the spec's opcode table. The first part holds
the steps of the hardware that have no encoding (95_what_each_step_holds), whose arguments name the unit or the operation
in flight, or carry what an agent outside the module sends in; the second part holds the instructions, whose arguments are
the row's fields at the field's width (04_formats R53-R62).
-/

namespace Sys2Proof

/-- One update an engine applies to a bell (R45, R236, R262): the bell's storage key, the credit, the status code, the
start stamp when timestamps are on, the NaN report of R268, and the command that is credited. -/
structure Credit where
  bell : Nat
  amount : Nat
  code : Nat
  stamp : Option Nat
  report : Option (BitVec 128)
  cmd : Nat
deriving DecidableEq, Repr

/-- A part that reset training or later operation marks failed (R411, R284): fenced and logged. -/
inductive FailedPart where
  | channel (die ch : Nat)
  | group (link group : Nat)
  | port (port : Nat)
deriving DecidableEq, Repr

/-- A host access through the data aperture (R405): aperture window, offset in it, size in bytes, and the value of a write. -/
structure HostAccess where
  aperture : Nat
  offset : Nat
  size : Nat
  write : Option Word
deriving DecidableEq, Repr

/-- A management or control register whose write has no step of its own (R362, R375, R403, R405, R408, R409, R334,
R335, R285, R357, R415, R299, R410). -/
inductive MgmtReg where
  | faultPage (die offset : Nat)
  | preemptPage (die offset : Nat)
  | eldrop (die : Nat)
  | firmware (die offset : Nat)
  | root (index : Nat)
  | window (index : Nat)
  | modnum
  | hapsel (index : Nat)
  | ftports
  | ptpport
  | tenant (unit : Nat)
  | frame (unit entry : Nat)
  | partRect (part : Nat)
  | partCtx (part : Nat)
  | partBanks (part die : Nat)
  | partQueue0 (part : Nat)
  | partLink (part link : Nat)
  | partRoot (part : Nat)
  | partNotify (part : Nat)
  | partDelete (part : Nat)
  | msgSpill (core : Nat)
  | ethRing (port kind : Nat)
  /-- an access of another size than 64 bits to a register of a die's control pages or error log -/
  | narrow (die offset size : Nat)
deriving DecidableEq, Repr

/-- An access at its bank or home: the request, and which of its words (R36, R198). -/
structure AccessStep where
  id : Nat
  piece : Nat
deriving DecidableEq, Repr

/-- A step of a copy unit: the command, the unit, and the word that stands at its bank or home; none where the unit comes to issue (R227). -/
structure CopyStep where
  id : Nat
  share : Nat
  word : Option Nat
deriving DecidableEq, Repr

/-- The instructions and steps of the IZ-3240 (opcode table; R68-R71 for the encodings). -/
inductive Instr where
  /-- R13. An owned cycle whose owner does not issue is lent to a ready thread. -/
  | lentCycle (core : Nat)
  /-- R22. An awaited fill arrives and the register becomes FULL. -/
  | fillLands (id : Nat)
  /-- R22. A long operation ends in an error and its register becomes VOID with a mark. -/
  | errorResponse (id : Nat)
  /-- R108. A posted access is acknowledged and leaves its outstanding count. -/
  | storeAck (id : Nat)
  /-- R80. The divider fills its destination 48 cycles after issue. -/
  | dividerFill (tid epoch reg : Nat) (value : Word)
  /-- R24. A page-fault notice reaches the core and drops the thread from the rotation. -/
  | faultNotice (id : Nat)
  /-- R24. Once every faulted access is woken the thread rejoins the rotation. -/
  | faultWakeRejoin (tid : Nat)
  /-- R20. A free program slot takes the oldest entry of its core's deque. -/
  | dequeTake (core : Nat)
  /-- R20. After 64 idle cycles a core starts a steal attempt. -/
  | stealAttempt (core : Nat)
  /-- R20. A victim's port replies with its oldest deque entry or empty. -/
  | stealRequest (thief victim : Nat)
  /-- R20. A steal reply reaches the thief and starts an entry or tries the next victim. -/
  | stealReply (thief victim : Nat) (found : Bool)
  /-- R18. The proctor refills the emptied hardware deque from the overflow area. -/
  | dequeRefill (core : Nat)
  /-- R327. A unit with an exhausted resource asks its die's proctor to restart or proxy the operation. -/
  | resourceRequest (die kind addr : Nat) (tid : Option Nat)
  /-- R327. The proctor's restart message lets the parked thread reissue. -/
  | resourceRestart (tid : Nat)
  /-- R26. An active message is queued at the core, or spilled when the queue is full. -/
  | messageArrival (pkt : Nat)
  /-- R290. Slot 15 starts the handler of the next queued message. -/
  | handlerStart (core : Nat)
  /-- R292. A register fill reaches the target core and fills or is dropped. -/
  | rfillArrival (pkt : Nat)
  /-- R329. An EVSIG sets the event latches of the named slots. -/
  | evsigDelivery (id : Nat)
  /-- R46. A bank serves one access in its cycle. -/
  | bankAccess (id : AccessStep)
  /-- R37. A home slice translates and serves a global access. -/
  | homeAccess (id : AccessStep)
  /-- R168. An evicted partial line is sent to the home and combined into its held partial. -/
  | partialEviction (core line : Nat)
  /-- R45. A bell's bank applies one credit, report or store atomically. -/
  | bellUpdate (credit : Credit)
  /-- R137. A barrier arrival advances the count and possibly the generation. -/
  | barrierArrival (id : Nat)
  /-- R234. A bank notifies an engine that a bell's generation changed. -/
  | waitBellNotice (cmd : Nat)
  /-- R135. A probe reaches its group behind the thread's accesses and is echoed. -/
  | fenceProbe (tid epoch group : Nat)
  /-- R135. A fence echo returns to the core. -/
  | fenceEcho (tid epoch group : Nat)
  /-- R126. At FIXED the atomics of an interval are applied in thread-key order. -/
  | atomicIntervalEnd (interval : Nat)
  /-- R354. A PLB miss refill from the domain tables completes. -/
  | plbRefill (core tid region : Nat)
  /-- R239. The copy engine accepts a command 4 cycles after issue. -/
  | copyAccept (id : Nat)
  /-- R234. A command starts once its wait-bell generation differs. -/
  | copyStart (id : Nat)
  /-- R227. A memory core's copy unit takes a 4 KiB block's share of a command. -/
  | copyShare (id : CopyStep)
  /-- R236. A command completes and credits its signal bell. -/
  | copyComplete (id : Nat)
  /-- R232. A post reaches the memory core and starts or queues its program. -/
  | mcpostDelivery (id : Nat)
  /-- R249. The scheduler reads a descriptor and writes the tensor entry. -/
  | ttsetServe (id : Nat)
  /-- R255. The scheduler accepts a tile task and checks it. -/
  | taskAccept (id : Nat)
  /-- R258. A ready task is dispatched to an engine. -/
  | taskDispatch (id : Nat)
  /-- R260. An engine completes one k-step into the accumulator. -/
  | kStep (core : Nat)
  /-- R261. The engine drains the tile into D. -/
  | taskDrain (core : Nat)
  /-- R262. A task completes and its signal bell is credited. -/
  | taskComplete (id : Nat)
  /-- R264. An ACCSV, ACCSVK or ACCLD runs on its engine. -/
  | accumulatorMoveRun (id : Nat)
  /-- R270. After 256 tasks or 64 idle cycles the engine tests its array. -/
  | engineSelfTest (core : Nat) (failing : BitVec 16)
  /-- R217. The home bank opens, displaces or absorbs at a node entry. -/
  | rollCallArrival (id : Nat)
  /-- R218. The home bank closes the entry or replies DISPLACED. -/
  | rollCallLeave (id : Nat)
  /-- R278. A packet is admitted at the next router and advances. -/
  | packetHop (pkt : Nat)
  /-- R281. A packet waiting 64 cycles for an output reaches class 1. -/
  | outputAging (pkt : Nat)
  /-- R278. A packet is delivered to its core. -/
  | packetDelivery (pkt : Nat)
  /-- R293. A turn request reaches the link's turn queue. -/
  | turnRequest (id : Nat)
  /-- R294. At a turn boundary the link serves its turn queue. -/
  | turnBoundary (link : Nat)
  /-- R294. A turning group carries flits in its new direction after 40 cycles. -/
  | groupTurnDone (link group : Nat)
  /-- R339. A store to a notify register advances the notified index. -/
  | notifyStore (part queue : Nat) (value : Word) (host : Bool)
  /-- R340. The command processor re-reads an invalid packet header every 64 cycles. -/
  | headerPoll (part queue : Nat)
  /-- R345. Every 16 cycles the command processor chooses a packet to start. -/
  | dispatchOpportunity (die : Nat)
  /-- R345. A packet waiting 1,048,576 cycles counts as priority 3. -/
  | queueAging (part queue : Nat)
  /-- R343. Read and check a LAUNCH packet. -/
  | launch (part queue : Nat)
  /-- R344. A launch starts once its cores are free. -/
  | launchStart (part queue : Nat)
  /-- R346. A core receives launch state and readies its threads. -/
  | launchStateArrival (launch core : Nat)
  /-- R347. A finished launch is probed, signalled and its cores freed. -/
  | launchComplete (launch : Nat)
  /-- R338. A WAITSIG packet polls its word until it reads 0. -/
  | waitsig (part queue : Nat)
  /-- R338. A NOP packet completes when it starts. -/
  | nopPacket (part queue : Nat)
  /-- R350. Stop dispatch to change the context's level. -/
  | setdet (part : Nat)
  /-- R350. Once started packets complete, the roll closes and the new level applies. -/
  | setdetComplete (part : Nat)
  /-- R338. Write a per-context CSR of the partition's context. -/
  | csrw (part : Nat)
  /-- R338. Set up a user queue. -/
  | qcreate (part : Nat)
  /-- R338. Destroy a user queue once its started packets complete. -/
  | qdestroy (part : Nat)
  /-- R351. Grow or shrink the partition's rectangle by one edge. -/
  | resize (part : Nat)
  /-- R349. Retire every thread of a launch at once and complete it. -/
  | abort (part : Nat)
  /-- R338. A packet of reserved type stops its queue with code 1. -/
  | reservedPacketType (part queue : Nat)
  /-- R330. A unit retries writing held event records every 1,024 cycles. -/
  | eventRetry (die : Nat)
  /-- R364. A slice retries a fault record on a full queue every 1,024 cycles. -/
  | faultRetry (slice : Nat)
  /-- R362. Consume fault records and clear the pending fault interrupt. -/
  | fqtailWrite (die : Nat) (value : Word)
  /-- R364. A wake token re-walks and performs or fails the parked accesses. -/
  | wake (die : Nat) (value : Word)
  /-- R368. Consume notifications and clear the pending notification interrupt. -/
  | nqtailWrite (die : Nat) (value : Word)
  /-- R369. Reset a migration counter entry to IDLE. -/
  | ndone (die : Nat) (value : Word)
  /-- R362. A write of 0 to NOVF rearms the overflow interrupt. -/
  | novfWrite (die : Nat) (value : Word)
  /-- R365. Start a module-wide invalidation of one page. -/
  | inval (die : Nat) (value : Word)
  /-- R365. Old-translation accesses are performed and INVDONE advances. -/
  | invalidationDone (die : Nat)
  /-- R330. Consume event records and clear the pending event interrupt. -/
  | eqtailWrite (die : Nat) (value : Word)
  /-- R362. A write to a management or control register with no behaviour of its own. -/
  | managementWrite (reg : MgmtReg) (value : Word)
  /-- R376. A PECMD save request begins pre-empting a core. -/
  | preemptSave (die core tag : Nat)
  /-- R383. A PECMD resume request restores an image onto a core. -/
  | preemptResume (die core tag : Nat)
  /-- R375. Reading PESTAT returns the status and clears the interrupt. -/
  | pestatRead (die : Nat)
  /-- R375. Install a remap entry in every router of the partition. -/
  | rmdata (die : Nat) (value : Word)
  /-- R375. A remap install completes and RMDONE advances. -/
  | remapInstallDone (die : Nat)
  /-- R376. A mesh interrupt reaches the core to be saved. -/
  | meshInterrupt (die : Nat)
  /-- R376. At the next cycle with c mod 16 = 0 every slot stops. -/
  | coreStop (die : Nat)
  /-- R376. Fills and started copies end, the core diverts and the image write begins. -/
  | quiesceDone (die : Nat)
  /-- R376. The chrysalis image is written and the core is freed. -/
  | imageWritten (die : Nat)
  /-- R378. The scheduler restores a saved accumulator on another engine. -/
  | engineSectionRestore (die : Nat) (image : Nat)
  /-- R384. A spilled packet is redelivered to the resumed core. -/
  | spillRedelivery (core : Nat)
  /-- R383. The spill queue empties, the divert ends and threads issue. -/
  | resumeDone (core : Nat)
  /-- R388. A core idle for 2,048 cycles is gated. -/
  | coreGate (core : Nat)
  /-- R388. A waking event restarts a gated core, which issues 96 cycles later. -/
  | coreWake (core : Nat)
  /-- R396. The roll unit writes a record and advances LOGHEAD. -/
  | rollRecordWrite (ctx : Nat)
  /-- R396. The driver drains or supplies roll records by writing LOGTAIL. -/
  | logtailWrite (ctx : Nat) (value : Word)
  /-- R398. At REPLAY the roll unit sends a record to its object queue and cursor. -/
  | rollRecordTake (ctx : Nat)
  /-- R405. A host access through the data aperture is served at its home. -/
  | hostAccess (access : HostAccess)
  /-- R371. A host atomic is performed or refused at a device home. -/
  | hostAtomic (access : HostAccess) (op : BitVec 4) (wide : Bool) (cmp : Word)
  /-- R372. The Broino port performs a host-page atomic as a compare-and-swap loop. -/
  | sysatomCasLoop (id : Nat)
  /-- R407. The fabric switch takes a contribution and merges once all have arrived. -/
  | reductionContribution (window offset module : Nat) (value : Word)
  /-- R409. A clock correction advances or holds back every die's count. -/
  | timestampCorrection (forward : Bool)
  /-- R410. A port transmits the frame of a valid transmit descriptor. -/
  | ethernetTransmit (port : Nat)
  /-- R410. A port receives a frame into a receive descriptor. -/
  | ethernetReceive (port : Nat) (frame : List Byte) (fcsGood : Bool)
  /-- R411. A module reset begins the reset sequence. -/
  | moduleReset
  /-- R411. A reset step ends and BUSTAT advances. -/
  | resetStepDone (failed : List FailedPart)
  /-- R413. Check a firmware image and start the proctor and command processor. -/
  | fwgo (die : Nat) (value : Word)
  /-- R413. The firmware reports ready and FWSTAT reads 3. -/
  | firmwareReady (die : Nat)
  /-- R413. The firmware stops with a fault and FWSTAT reads 4. -/
  | firmwareFault (die : Nat)
  /-- R414. The scrubber reads and corrects a word. -/
  | scrubRead (word : Nat)
  /-- R415. Consume error-log records and clear the pending error-log interrupt. -/
  | eltailWrite (die : Nat) (value : Word)
  /-- R70. A thread comes to issue a word that is not an instruction (an unassigned major, an absent fn7, a nonzero rsv bit and the like) and raises ILLEGAL precisely. -/
  | illegalEncoding (word : BitVec 32)
  /-- R327. The proctor's firmware finishes a proxied operation, or hands it back to its unit, in its place in the unit's order. -/
  | proctorProxyComplete (die : Nat)
  /-- R327. The driver grants the proctor more overflow memory, and operations waiting for it go on. -/
  | overflowMemoryGrant (die amount : Nat)
  /-- R409. The module's IEEE 1588 clock locks to the fabric grandmaster, and lock is reported in a management register. -/
  | clockLock (locked : Bool)
  /-- R284. A Zwiale lane group, HBM channel or port that fails after reset is fenced and logged, and it carries nothing from then on. -/
  | linkGroupFence (part : FailedPart)
  /-- R71. 16-bit register move d <- s. -/
  | mv (s : BitVec 5) (d : BitVec 5)
  /-- R71. 16-bit load of a sign-extended 5-bit immediate. -/
  | li (i : BitVec 5) (d : BitVec 5)
  /-- R71. 16-bit two-address add d <- d + s. -/
  | addC16 (s : BitVec 5) (d : BitVec 5)
  /-- R71. 16-bit add of a sign-extended immediate. -/
  | addiC16 (i : BitVec 5) (d : BitVec 5)
  /-- R71. 16-bit two-address subtract. -/
  | subC16 (s : BitVec 5) (d : BitVec 5)
  /-- R71. 16-bit subtract of a zero-extended immediate. -/
  | subi (i : BitVec 5) (d : BitVec 5)
  /-- R71. 16-bit two-address AND. -/
  | andC16 (s : BitVec 5) (d : BitVec 5)
  /-- R71. 16-bit AND with a zero-extended immediate. -/
  | andiC16 (i : BitVec 5) (d : BitVec 5)
  /-- R71. 16-bit two-address OR. -/
  | orC16 (s : BitVec 5) (d : BitVec 5)
  /-- R71. 16-bit OR with a zero-extended immediate. -/
  | oriC16 (i : BitVec 5) (d : BitVec 5)
  /-- R71. 16-bit two-address XOR. -/
  | xorC16 (s : BitVec 5) (d : BitVec 5)
  /-- R71. 16-bit XOR with a zero-extended immediate. -/
  | xoriC16 (i : BitVec 5) (d : BitVec 5)
  /-- R71. 16-bit shift left by register. -/
  | shlC16 (s : BitVec 5) (d : BitVec 5)
  /-- R71. 16-bit shift left by 0-31. -/
  | shliC16 (n : BitVec 5) (d : BitVec 5)
  /-- R71. 16-bit logical shift right by register. -/
  | shrC16 (s : BitVec 5) (d : BitVec 5)
  /-- R71. 16-bit logical shift right by 0-31. -/
  | shriC16 (n : BitVec 5) (d : BitVec 5)
  /-- R71. 16-bit arithmetic shift right by register. -/
  | sarC16 (s : BitVec 5) (d : BitVec 5)
  /-- R71. 16-bit arithmetic shift right by 0-31. -/
  | sariC16 (n : BitVec 5) (d : BitVec 5)
  /-- R71. 16-bit two-address multiply, low 64 bits. -/
  | mulC16 (s : BitVec 5) (d : BitVec 5)
  /-- R71. 16-bit multiply by a sign-extended immediate. -/
  | muliC16 (i : BitVec 5) (d : BitVec 5)
  /-- R71. 16-bit signed minimum. -/
  | minC16 (s : BitVec 5) (d : BitVec 5)
  /-- R71. 16-bit signed minimum with an immediate. -/
  | mini (i : BitVec 5) (d : BitVec 5)
  /-- R71. 16-bit signed maximum. -/
  | maxC16 (s : BitVec 5) (d : BitVec 5)
  /-- R71. 16-bit signed maximum with an immediate. -/
  | maxi (i : BitVec 5) (d : BitVec 5)
  /-- R71. 16-bit signed set-less-than. -/
  | sltC16 (s : BitVec 5) (d : BitVec 5)
  /-- R71. 16-bit signed set-less-than an immediate. -/
  | sltiC16 (i : BitVec 5) (d : BitVec 5)
  /-- R71. 16-bit 64-bit load at the address in s. -/
  | lddC16 (s : BitVec 5) (d : BitVec 5)
  /-- R71. 16-bit 64-bit load at g2 + imm5 x 8. -/
  | lddG2C16 (i : BitVec 5) (d : BitVec 5)
  /-- R71. 16-bit 64-bit store of d at the address in s. -/
  | stdC16 (s : BitVec 5) (d : BitVec 5)
  /-- R71. 16-bit 64-bit store of d at g2 + imm5 x 8. -/
  | stdG2C16 (i : BitVec 5) (d : BitVec 5)
  /-- R71. 16-bit branch when d is zero. -/
  | bez (i : BitVec 5) (d : BitVec 5)
  /-- R71. 16-bit branch when d is nonzero. -/
  | bnz (i : BitVec 5) (d : BitVec 5)
  /-- R331. 16-bit breakpoint word 0x001E raising BREAK. -/
  | brkC16
  /-- R78. d <- a + b. -/
  | add (b : BitVec 6) (a : BitVec 6) (d : BitVec 6)
  /-- R78. d <- a - b. -/
  | sub (b : BitVec 6) (a : BitVec 6) (d : BitVec 6)
  /-- R78. d <- a AND b. -/
  | and (b : BitVec 6) (a : BitVec 6) (d : BitVec 6)
  /-- R78. d <- a OR b. -/
  | or (b : BitVec 6) (a : BitVec 6) (d : BitVec 6)
  /-- R78. d <- a XOR b. -/
  | xor (b : BitVec 6) (a : BitVec 6) (d : BitVec 6)
  /-- R78. d <- a shifted left by b[5:0]. -/
  | shl (b : BitVec 6) (a : BitVec 6) (d : BitVec 6)
  /-- R78. d <- a logically shifted right by b[5:0]. -/
  | shr (b : BitVec 6) (a : BitVec 6) (d : BitVec 6)
  /-- R78. d <- a arithmetically shifted right by b[5:0]. -/
  | sar (b : BitVec 6) (a : BitVec 6) (d : BitVec 6)
  /-- R78. d <- low 64 bits of a x b. -/
  | mul (b : BitVec 6) (a : BitVec 6) (d : BitVec 6)
  /-- R78. Signed minimum. -/
  | min (b : BitVec 6) (a : BitVec 6) (d : BitVec 6)
  /-- R78. Signed maximum. -/
  | max (b : BitVec 6) (a : BitVec 6) (d : BitVec 6)
  /-- R78. Unsigned minimum. -/
  | minu (b : BitVec 6) (a : BitVec 6) (d : BitVec 6)
  /-- R78. Unsigned maximum. -/
  | maxu (b : BitVec 6) (a : BitVec 6) (d : BitVec 6)
  /-- R78. Signed set-less-than. -/
  | slt (b : BitVec 6) (a : BitVec 6) (d : BitVec 6)
  /-- R78. Unsigned set-less-than. -/
  | sltu (b : BitVec 6) (a : BitVec 6) (d : BitVec 6)
  /-- R78. Set when equal. -/
  | seq (b : BitVec 6) (a : BitVec 6) (d : BitVec 6)
  /-- R78. Set when not equal. -/
  | sne (b : BitVec 6) (a : BitVec 6) (d : BitVec 6)
  /-- R78. 32-bit add, sign-extended. -/
  | addw (b : BitVec 6) (a : BitVec 6) (d : BitVec 6)
  /-- R78. 32-bit subtract, sign-extended. -/
  | subw (b : BitVec 6) (a : BitVec 6) (d : BitVec 6)
  /-- R79. Count leading zeros. -/
  | clz (a : BitVec 6) (d : BitVec 6)
  /-- R79. Count trailing zeros. -/
  | ctz (a : BitVec 6) (d : BitVec 6)
  /-- R79. Count one bits. -/
  | popc (a : BitVec 6) (d : BitVec 6)
  /-- R79. Reverse bits. -/
  | brev (a : BitVec 6) (d : BitVec 6)
  /-- R79. Reverse bytes. -/
  | bswap (a : BitVec 6) (d : BitVec 6)
  /-- R79. Rotate left by b[5:0]. -/
  | rol (b : BitVec 6) (a : BitVec 6) (d : BitVec 6)
  /-- R79. Rotate right by b[5:0]. -/
  | ror (b : BitVec 6) (a : BitVec 6) (d : BitVec 6)
  /-- R79. a AND NOT b. -/
  | andn (b : BitVec 6) (a : BitVec 6) (d : BitVec 6)
  /-- R79. Sign-extend byte. -/
  | sextb (a : BitVec 6) (d : BitVec 6)
  /-- R79. Sign-extend halfword. -/
  | sexth (a : BitVec 6) (d : BitVec 6)
  /-- R79. Sign-extend word. -/
  | sextw (a : BitVec 6) (d : BitVec 6)
  /-- R79. Zero-extend word. -/
  | zextw (a : BitVec 6) (d : BitVec 6)
  /-- R79. High 64 bits of a signed product. -/
  | mulh (b : BitVec 6) (a : BitVec 6) (d : BitVec 6)
  /-- R79. High 64 bits of an unsigned product. -/
  | mulhu (b : BitVec 6) (a : BitVec 6) (d : BitVec 6)
  /-- R79. High 64 bits of a signed-by-unsigned product. -/
  | mulhsu (b : BitVec 6) (a : BitVec 6) (d : BitVec 6)
  /-- R80. Long signed division, filled 48 cycles later. -/
  | div (b : BitVec 6) (a : BitVec 6) (d : BitVec 6)
  /-- R80. Long unsigned division. -/
  | divu (b : BitVec 6) (a : BitVec 6) (d : BitVec 6)
  /-- R80. Long signed remainder. -/
  | rem (b : BitVec 6) (a : BitVec 6) (d : BitVec 6)
  /-- R80. Long unsigned remainder. -/
  | remu (b : BitVec 6) (a : BitVec 6) (d : BitVec 6)
  /-- R81. Add a sign-extended 13-bit immediate. -/
  | addi (i : BitVec 13) (a : BitVec 6) (d : BitVec 6)
  /-- R81. AND with a sign-extended immediate. -/
  | andi (i : BitVec 13) (a : BitVec 6) (d : BitVec 6)
  /-- R81. OR with a sign-extended immediate. -/
  | ori (i : BitVec 13) (a : BitVec 6) (d : BitVec 6)
  /-- R81. XOR with a sign-extended immediate. -/
  | xori (i : BitVec 13) (a : BitVec 6) (d : BitVec 6)
  /-- R81. Multiply by a sign-extended immediate. -/
  | muli (i : BitVec 13) (a : BitVec 6) (d : BitVec 6)
  /-- R82. Shift left by an immediate 0-63. -/
  | shli (n : BitVec 6) (a : BitVec 6) (d : BitVec 6)
  /-- R82. Logical shift right by an immediate. -/
  | shri (n : BitVec 6) (a : BitVec 6) (d : BitVec 6)
  /-- R82. Arithmetic shift right by an immediate. -/
  | sari (n : BitVec 6) (a : BitVec 6) (d : BitVec 6)
  /-- R82. Rotate right by an immediate. -/
  | rori (n : BitVec 6) (a : BitVec 6) (d : BitVec 6)
  /-- R83. Set when a equals the immediate. -/
  | seqi (v : BitVec 10) (a : BitVec 6) (d : BitVec 6)
  /-- R83. Set when a differs from the immediate. -/
  | snei (v : BitVec 10) (a : BitVec 6) (d : BitVec 6)
  /-- R83. Set when a is below the immediate, signed. -/
  | slti (v : BitVec 10) (a : BitVec 6) (d : BitVec 6)
  /-- R83. Set when a is at least the immediate, signed. -/
  | sgei (v : BitVec 10) (a : BitVec 6) (d : BitVec 6)
  /-- R83. Set when a is below the immediate, unsigned. -/
  | sltui (v : BitVec 10) (a : BitVec 6) (d : BitVec 6)
  /-- R83. Set when a is at least the immediate, unsigned. -/
  | sgeui (v : BitVec 10) (a : BitVec 6) (d : BitVec 6)
  /-- R84. d <- sext(imm19) x 2^13. -/
  | liu (i : BitVec 19) (d : BitVec 6)
  /-- R84. d <- PC + sext(imm19) x 2^13. -/
  | addpc (i : BitVec 19) (d : BitVec 6)
  /-- R85. Form the 0xF4 base address of a named core. -/
  | lic (c : BitVec 7) (r : BitVec 4) (d : BitVec 6)
  /-- R85. Form a 0xF4 address of a named core plus an offset from a. -/
  | lico (c : BitVec 7) (r : BitVec 4) (a : BitVec 6) (d : BitVec 6)
  /-- R85. Load the 11-bit coordinate of a named core. -/
  | licn (c : BitVec 7) (r : BitVec 4) (d : BitVec 6)
  /-- R86. Branch when a equals b. -/
  | beq (i : BitVec 10) (b : BitVec 6) (a : BitVec 6)
  /-- R86. Branch when a differs from b. -/
  | bne (i : BitVec 10) (b : BitVec 6) (a : BitVec 6)
  /-- R86. Branch when a < b signed. -/
  | blt (i : BitVec 10) (b : BitVec 6) (a : BitVec 6)
  /-- R86. Branch when a >= b signed. -/
  | bge (i : BitVec 10) (b : BitVec 6) (a : BitVec 6)
  /-- R86. Branch when a < b unsigned. -/
  | bltu (i : BitVec 10) (b : BitVec 6) (a : BitVec 6)
  /-- R86. Branch when a >= b unsigned. -/
  | bgeu (i : BitVec 10) (b : BitVec 6) (a : BitVec 6)
  /-- R86. Branch when register a is FULL, without parking. -/
  | bfull (i : BitVec 10) (a : BitVec 6)
  /-- R86. Branch when register a is VOID, without parking. -/
  | bvoid (i : BitVec 10) (a : BitVec 6)
  /-- R87. PC-relative jump. -/
  | j (i : BitVec 25)
  /-- R87. Jump and write the return address to g1. -/
  | jal (i : BitVec 25)
  /-- R88. Jump to a + imm and write the return address to d. -/
  | jalr (i : BitVec 13) (a : BitVec 6) (d : BitVec 6)
  /-- R89. Capture a body into the loop buffer and run it a times. -/
  | loop (i : BitVec 13) (a : BitVec 6)
  /-- R94. Bump the frame header, push the continuation and run the child. -/
  | spawn (i : BitVec 18)
  /-- R95. Acquire-read the child count and park until it is zero. -/
  | join
  /-- R96. Drain, decrement the parent count, resume an own continuation or retire. -/
  | exit
  /-- R97. Turn a general register PENDING for a remote fill. -/
  | expect (d : BitVec 6)
  /-- R97. Turn a membership register PENDING for a remote fill. -/
  | expectm (d : BitVec 2)
  /-- R97. Turn a vector register PENDING for a remote fill. -/
  | expectv (d : BitVec 4)
  /-- R97. Turn a version-context register PENDING for a remote fill. -/
  | expectc (d : BitVec 3)
  /-- R98. Read the number of free program slots on the core. -/
  | qslot (d : BitVec 6)
  /-- R98. Read the number of entries in the hardware deque. -/
  | qdeq (d : BitVec 6)
  /-- R98. Read the thread's join link. -/
  | qlink (d : BitVec 6)
  /-- R103. Scalar FP add, FP32 or FP64. -/
  | fadd (p : BitVec 1) (b : BitVec 6) (a : BitVec 6) (d : BitVec 6)
  /-- R103. Scalar FP subtract. -/
  | fsub (p : BitVec 1) (b : BitVec 6) (a : BitVec 6) (d : BitVec 6)
  /-- R103. Scalar FP multiply. -/
  | fmul (p : BitVec 1) (b : BitVec 6) (a : BitVec 6) (d : BitVec 6)
  /-- R103. Scalar FP divide. -/
  | fdiv (p : BitVec 1) (b : BitVec 6) (a : BitVec 6) (d : BitVec 6)
  /-- R103. Scalar FP square root. -/
  | fsqrt (p : BitVec 1) (a : BitVec 6) (d : BitVec 6)
  /-- R104. Scalar FP minimum. -/
  | fmin (p : BitVec 1) (b : BitVec 6) (a : BitVec 6) (d : BitVec 6)
  /-- R104. Scalar FP maximum. -/
  | fmax (p : BitVec 1) (b : BitVec 6) (a : BitVec 6) (d : BitVec 6)
  /-- R103. a with the sign of b. -/
  | fsgnj (p : BitVec 1) (b : BitVec 6) (a : BitVec 6) (d : BitVec 6)
  /-- R103. a with the inverse of b's sign. -/
  | fsgnjn (p : BitVec 1) (b : BitVec 6) (a : BitVec 6) (d : BitVec 6)
  /-- R103. a with sign(a) XOR sign(b). -/
  | fsgnjx (p : BitVec 1) (b : BitVec 6) (a : BitVec 6) (d : BitVec 6)
  /-- R103. FP equality compare. -/
  | feq (p : BitVec 1) (b : BitVec 6) (a : BitVec 6) (d : BitVec 6)
  /-- R103. FP less-than compare. -/
  | flt (p : BitVec 1) (b : BitVec 6) (a : BitVec 6) (d : BitVec 6)
  /-- R103. FP less-or-equal compare. -/
  | fle (p : BitVec 1) (b : BitVec 6) (a : BitVec 6) (d : BitVec 6)
  /-- R104. FP class mask. -/
  | fclass (p : BitVec 1) (a : BitVec 6) (d : BitVec 6)
  /-- R105. Scalar fused multiply-add with one rounding. -/
  | fma (x : BitVec 1) (c : BitVec 6) (b : BitVec 6) (a : BitVec 6) (d : BitVec 6)
  /-- R106. FP64 to FP32. -/
  | fcvtSD (a : BitVec 6) (d : BitVec 6)
  /-- R106. FP32 to FP64. -/
  | fcvtDS (a : BitVec 6) (d : BitVec 6)
  /-- R106. Signed 64-bit integer to FP32. -/
  | fcvtSL (a : BitVec 6) (d : BitVec 6)
  /-- R106. Unsigned 64-bit integer to FP32. -/
  | fcvtSLu (a : BitVec 6) (d : BitVec 6)
  /-- R106. Signed 64-bit integer to FP64. -/
  | fcvtDL (a : BitVec 6) (d : BitVec 6)
  /-- R106. Unsigned 64-bit integer to FP64. -/
  | fcvtDLu (a : BitVec 6) (d : BitVec 6)
  /-- R107. FP32 to signed 64-bit integer. -/
  | fcvtLS (a : BitVec 6) (d : BitVec 6)
  /-- R107. FP32 to unsigned 64-bit integer. -/
  | fcvtLuS (a : BitVec 6) (d : BitVec 6)
  /-- R107. FP64 to signed 64-bit integer. -/
  | fcvtLD (a : BitVec 6) (d : BitVec 6)
  /-- R107. FP64 to unsigned 64-bit integer. -/
  | fcvtLuD (a : BitVec 6) (d : BitVec 6)
  /-- R107. FP32 to signed 32-bit integer. -/
  | fcvtWS (a : BitVec 6) (d : BitVec 6)
  /-- R107. FP64 to signed 32-bit integer. -/
  | fcvtWD (a : BitVec 6) (d : BitVec 6)
  /-- R107. FP32 to FP16. -/
  | fcvtHS (a : BitVec 6) (d : BitVec 6)
  /-- R106. FP16 to FP32. -/
  | fcvtSH (a : BitVec 6) (d : BitVec 6)
  /-- R107. FP32 to BF16. -/
  | fcvtBS (a : BitVec 6) (d : BitVec 6)
  /-- R106. BF16 to FP32. -/
  | fcvtSB (a : BitVec 6) (d : BitVec 6)
  /-- R112. Load a sign-extended byte. -/
  | ldb (i : BitVec 9) (o : BitVec 2) (q : BitVec 2) (a : BitVec 6) (d : BitVec 6)
  /-- R112. Load a zero-extended byte. -/
  | ldbu (i : BitVec 9) (o : BitVec 2) (q : BitVec 2) (a : BitVec 6) (d : BitVec 6)
  /-- R112. Load a sign-extended halfword. -/
  | ldh (i : BitVec 9) (o : BitVec 2) (q : BitVec 2) (a : BitVec 6) (d : BitVec 6)
  /-- R112. Load a zero-extended halfword. -/
  | ldhu (i : BitVec 9) (o : BitVec 2) (q : BitVec 2) (a : BitVec 6) (d : BitVec 6)
  /-- R112. Load a sign-extended word. -/
  | ldw (i : BitVec 9) (o : BitVec 2) (q : BitVec 2) (a : BitVec 6) (d : BitVec 6)
  /-- R112. Load a zero-extended word. -/
  | ldwu (i : BitVec 9) (o : BitVec 2) (q : BitVec 2) (a : BitVec 6) (d : BitVec 6)
  /-- R112. Load a doubleword. -/
  | ldd (i : BitVec 9) (o : BitVec 2) (q : BitVec 2) (a : BitVec 6) (d : BitVec 6)
  /-- R112. Store a byte. -/
  | stb (i : BitVec 9) (o : BitVec 2) (q : BitVec 2) (a : BitVec 6) (d : BitVec 6)
  /-- R112. Store a halfword. -/
  | sth (i : BitVec 9) (o : BitVec 2) (q : BitVec 2) (a : BitVec 6) (d : BitVec 6)
  /-- R112. Store a word. -/
  | stw (i : BitVec 9) (o : BitVec 2) (q : BitVec 2) (a : BitVec 6) (d : BitVec 6)
  /-- R112. Store a doubleword. -/
  | std (i : BitVec 9) (o : BitVec 2) (q : BitVec 2) (a : BitVec 6) (d : BitVec 6)
  /-- R116. Indexed signed byte load. -/
  | ldbx (q : BitVec 2) (b : BitVec 6) (a : BitVec 6) (d : BitVec 6)
  /-- R116. Indexed unsigned byte load. -/
  | ldbux (q : BitVec 2) (b : BitVec 6) (a : BitVec 6) (d : BitVec 6)
  /-- R116. Indexed signed halfword load. -/
  | ldhx (q : BitVec 2) (b : BitVec 6) (a : BitVec 6) (d : BitVec 6)
  /-- R116. Indexed unsigned halfword load. -/
  | ldhux (q : BitVec 2) (b : BitVec 6) (a : BitVec 6) (d : BitVec 6)
  /-- R116. Indexed signed word load. -/
  | ldwx (q : BitVec 2) (b : BitVec 6) (a : BitVec 6) (d : BitVec 6)
  /-- R116. Indexed unsigned word load. -/
  | ldwux (q : BitVec 2) (b : BitVec 6) (a : BitVec 6) (d : BitVec 6)
  /-- R116. Indexed doubleword load. -/
  | lddx (q : BitVec 2) (b : BitVec 6) (a : BitVec 6) (d : BitVec 6)
  /-- R116. Indexed byte store. -/
  | stbx (q : BitVec 2) (b : BitVec 6) (a : BitVec 6) (d : BitVec 6)
  /-- R116. Indexed halfword store. -/
  | sthx (q : BitVec 2) (b : BitVec 6) (a : BitVec 6) (d : BitVec 6)
  /-- R116. Indexed word store. -/
  | stwx (q : BitVec 2) (b : BitVec 6) (a : BitVec 6) (d : BitVec 6)
  /-- R116. Indexed doubleword store. -/
  | stdx (q : BitVec 2) (b : BitVec 6) (a : BitVec 6) (d : BitVec 6)
  /-- R117. Scoped ordered word load. -/
  | ldwo (q : BitVec 2) (s : BitVec 3) (o : BitVec 2) (a : BitVec 6) (d : BitVec 6)
  /-- R117. Scoped ordered doubleword load. -/
  | lddo (q : BitVec 2) (s : BitVec 3) (o : BitVec 2) (a : BitVec 6) (d : BitVec 6)
  /-- R117. Scoped ordered word store. -/
  | stwo (q : BitVec 2) (s : BitVec 3) (o : BitVec 2) (a : BitVec 6) (d : BitVec 6)
  /-- R117. Scoped ordered doubleword store. -/
  | stdo (q : BitVec 2) (s : BitVec 3) (o : BitVec 2) (a : BitVec 6) (d : BitVec 6)
  /-- R118. Wait for FULL, load, leave FULL; acquire. -/
  | ldf (a : BitVec 6) (d : BitVec 6)
  /-- R118. Wait for FULL, load, set EMPTY; acquire. -/
  | ldtk (a : BitVec 6) (d : BitVec 6)
  /-- R118. Wait for EMPTY, store, set FULL; release. -/
  | stf (a : BitVec 6) (d : BitVec 6)
  /-- R120. Load and reserve a granule. -/
  | lres (a : BitVec 6) (d : BitVec 6)
  /-- R121. Store-conditional on the reservation. -/
  | scond (b : BitVec 6) (a : BitVec 6) (d : BitVec 6)
  /-- R121. LRES with acquire. -/
  | lresAcq (a : BitVec 6) (d : BitVec 6)
  /-- R121. SCOND with release. -/
  | scondRel (b : BitVec 6) (a : BitVec 6) (d : BitVec 6)
  /-- R122. Write back and drop a cache line. -/
  | cflush (a : BitVec 6)
  /-- R122. Write back a cache line and keep it. -/
  | cwb (a : BitVec 6)
  /-- R122. Write back every dirty line of the core. -/
  | cwball
  /-- R124. Atomic add at the home. -/
  | amoadd (s : BitVec 1) (o : BitVec 2) (b : BitVec 6) (a : BitVec 6) (d : BitVec 6)
  /-- R124. Atomic AND. -/
  | amoand (s : BitVec 1) (o : BitVec 2) (b : BitVec 6) (a : BitVec 6) (d : BitVec 6)
  /-- R124. Atomic OR. -/
  | amoor (s : BitVec 1) (o : BitVec 2) (b : BitVec 6) (a : BitVec 6) (d : BitVec 6)
  /-- R124. Atomic XOR. -/
  | amoxor (s : BitVec 1) (o : BitVec 2) (b : BitVec 6) (a : BitVec 6) (d : BitVec 6)
  /-- R124. Atomic signed minimum. -/
  | amomin (s : BitVec 1) (o : BitVec 2) (b : BitVec 6) (a : BitVec 6) (d : BitVec 6)
  /-- R124. Atomic signed maximum. -/
  | amomax (s : BitVec 1) (o : BitVec 2) (b : BitVec 6) (a : BitVec 6) (d : BitVec 6)
  /-- R124. Atomic unsigned minimum. -/
  | amominu (s : BitVec 1) (o : BitVec 2) (b : BitVec 6) (a : BitVec 6) (d : BitVec 6)
  /-- R124. Atomic unsigned maximum. -/
  | amomaxu (s : BitVec 1) (o : BitVec 2) (b : BitVec 6) (a : BitVec 6) (d : BitVec 6)
  /-- R124. Atomic swap. -/
  | amoswap (s : BitVec 1) (o : BitVec 2) (b : BitVec 6) (a : BitVec 6) (d : BitVec 6)
  /-- R124. Atomic compare-and-swap against d. -/
  | amocas (s : BitVec 1) (o : BitVec 2) (b : BitVec 6) (a : BitVec 6) (d : BitVec 6)
  /-- R127. Floating-point atomic add, round to nearest even. -/
  | famoadd (s : BitVec 1) (o : BitVec 2) (b : BitVec 6) (a : BitVec 6) (d : BitVec 6)
  /-- R127. Floating-point atomic minimum. -/
  | famomin (s : BitVec 1) (o : BitVec 2) (b : BitVec 6) (a : BitVec 6) (d : BitVec 6)
  /-- R127. Floating-point atomic maximum. -/
  | famomax (s : BitVec 1) (o : BitVec 2) (b : BitVec 6) (a : BitVec 6) (d : BitVec 6)
  /-- R129. Count siblings and take a context observing them. -/
  | ldv (k : BitVec 3) (a : BitVec 6) (d : BitVec 6)
  /-- R129. Load every sibling into a vector and take a context. -/
  | ldvv (k : BitVec 3) (a : BitVec 6) (d : BitVec 4)
  /-- R130. Versioned store replacing the observed siblings. -/
  | stv (k : BitVec 3) (b : BitVec 6) (a : BitVec 6) (d : BitVec 6)
  /-- R129. Set a context that observes nothing. -/
  | cvclr (k : BitVec 3)
  /-- R131. Reconcile siblings to their signed minimum. -/
  | reconMin (k : BitVec 3) (a : BitVec 6) (d : BitVec 6)
  /-- R131. Reconcile siblings to their signed maximum. -/
  | reconMax (k : BitVec 3) (a : BitVec 6) (d : BitVec 6)
  /-- R131. Reconcile siblings to their sum. -/
  | reconAdd (k : BitVec 3) (a : BitVec 6) (d : BitVec 6)
  /-- R131. Reconcile siblings to their OR. -/
  | reconOr (k : BitVec 3) (a : BitVec 6) (d : BitVec 6)
  /-- R131. Reconcile siblings to their AND. -/
  | reconAnd (k : BitVec 3) (a : BitVec 6) (d : BitVec 6)
  /-- R131. Reconcile to the lowest writer's value. -/
  | reconLowest (k : BitVec 3) (a : BitVec 6) (d : BitVec 6)
  /-- R131. Reconcile to the highest writer's value. -/
  | reconHighest (k : BitVec 3) (a : BitVec 6) (d : BitVec 6)
  /-- R131. Reconcile siblings to the value b. -/
  | reconValue (k : BitVec 3) (b : BitVec 6) (a : BitVec 6) (d : BitVec 6)
  /-- R132. Fold a 32-bit value into the core's partial copy. -/
  | redW (b : BitVec 6) (a : BitVec 6)
  /-- R132. Fold a 64-bit value into the core's partial copy. -/
  | redD (b : BitVec 6) (a : BitVec 6)
  /-- R135. Release fence then acquire fence of a scope. -/
  | fence (s : BitVec 3)
  /-- R135. Acquire fence of a scope. -/
  | fenceAcq (s : BitVec 3)
  /-- R135. Release fence with probes to touched groups. -/
  | fenceRel (s : BitVec 3)
  /-- R137. Release and arrive at a barrier. -/
  | bara (s : BitVec 3) (a : BitVec 6) (d : BitVec 6)
  /-- R137. Wait for a new barrier generation, then acquire. -/
  | barw (s : BitVec 3) (b : BitVec 6) (a : BitVec 6)
  /-- R138. Release and credit a bell. -/
  | belladd (s : BitVec 3) (b : BitVec 6) (a : BitVec 6)
  /-- R138. Wait for a new bell generation, then acquire. -/
  | bellwait (s : BitVec 3) (b : BitVec 6) (a : BitVec 6)
  /-- R139. Park until the reservation is lost. -/
  | waitres
  /-- R141. Wait until outstanding counts fall to limits, then raise held reports. -/
  | waitk (t : BitVec 6) (c : BitVec 6) (s : BitVec 6) (l : BitVec 6)
  /-- R193. Lane add. -/
  | vadd (b : BitVec 4) (a : BitVec 4) (k : BitVec 3) (z : BitVec 1) (d : BitVec 4)
  /-- R193. Lane subtract. -/
  | vsub (b : BitVec 4) (a : BitVec 4) (k : BitVec 3) (z : BitVec 1) (d : BitVec 4)
  /-- R193. Lane multiply, low half. -/
  | vmul (b : BitVec 4) (a : BitVec 4) (k : BitVec 3) (z : BitVec 1) (d : BitVec 4)
  /-- R193. Lane signed multiply, high half. -/
  | vmulh (b : BitVec 4) (a : BitVec 4) (k : BitVec 3) (z : BitVec 1) (d : BitVec 4)
  /-- R193. Lane unsigned multiply, high half. -/
  | vmulhu (b : BitVec 4) (a : BitVec 4) (k : BitVec 3) (z : BitVec 1) (d : BitVec 4)
  /-- R193. Lane signed minimum. -/
  | vmin (b : BitVec 4) (a : BitVec 4) (k : BitVec 3) (z : BitVec 1) (d : BitVec 4)
  /-- R193. Lane signed maximum. -/
  | vmax (b : BitVec 4) (a : BitVec 4) (k : BitVec 3) (z : BitVec 1) (d : BitVec 4)
  /-- R193. Lane unsigned minimum. -/
  | vminu (b : BitVec 4) (a : BitVec 4) (k : BitVec 3) (z : BitVec 1) (d : BitVec 4)
  /-- R193. Lane unsigned maximum. -/
  | vmaxu (b : BitVec 4) (a : BitVec 4) (k : BitVec 3) (z : BitVec 1) (d : BitVec 4)
  /-- R193. Lane AND. -/
  | vand (b : BitVec 4) (a : BitVec 4) (k : BitVec 3) (z : BitVec 1) (d : BitVec 4)
  /-- R193. Lane OR. -/
  | vor (b : BitVec 4) (a : BitVec 4) (k : BitVec 3) (z : BitVec 1) (d : BitVec 4)
  /-- R193. Lane XOR. -/
  | vxor (b : BitVec 4) (a : BitVec 4) (k : BitVec 3) (z : BitVec 1) (d : BitVec 4)
  /-- R193. Lane AND NOT. -/
  | vandn (b : BitVec 4) (a : BitVec 4) (k : BitVec 3) (z : BitVec 1) (d : BitVec 4)
  /-- R193. Lane shift left. -/
  | vshl (b : BitVec 4) (a : BitVec 4) (k : BitVec 3) (z : BitVec 1) (d : BitVec 4)
  /-- R193. Lane logical shift right. -/
  | vshr (b : BitVec 4) (a : BitVec 4) (k : BitVec 3) (z : BitVec 1) (d : BitVec 4)
  /-- R193. Lane arithmetic shift right. -/
  | vsar (b : BitVec 4) (a : BitVec 4) (k : BitVec 3) (z : BitVec 1) (d : BitVec 4)
  /-- R193. Lane saturating add. -/
  | vaddsat (b : BitVec 4) (a : BitVec 4) (k : BitVec 3) (z : BitVec 1) (d : BitVec 4)
  /-- R193. Lane saturating subtract. -/
  | vsubsat (b : BitVec 4) (a : BitVec 4) (k : BitVec 3) (z : BitVec 1) (d : BitVec 4)
  /-- R193. Lane absolute value. -/
  | vabs (a : BitVec 4) (k : BitVec 3) (z : BitVec 1) (d : BitVec 4)
  /-- R193. Lane move. -/
  | vmov (a : BitVec 4) (k : BitVec 3) (z : BitVec 1) (d : BitVec 4)
  /-- R194. Lane FP32 add. -/
  | vfadd (b : BitVec 4) (a : BitVec 4) (k : BitVec 3) (z : BitVec 1) (d : BitVec 4)
  /-- R194. Lane FP32 subtract. -/
  | vfsub (b : BitVec 4) (a : BitVec 4) (k : BitVec 3) (z : BitVec 1) (d : BitVec 4)
  /-- R194. Lane FP32 multiply. -/
  | vfmul (b : BitVec 4) (a : BitVec 4) (k : BitVec 3) (z : BitVec 1) (d : BitVec 4)
  /-- R194. Lane FP32 minimum. -/
  | vfmin (b : BitVec 4) (a : BitVec 4) (k : BitVec 3) (z : BitVec 1) (d : BitVec 4)
  /-- R194. Lane FP32 maximum. -/
  | vfmax (b : BitVec 4) (a : BitVec 4) (k : BitVec 3) (z : BitVec 1) (d : BitVec 4)
  /-- R194. Clear the sign bit of each lane. -/
  | vfabs (a : BitVec 4) (k : BitVec 3) (z : BitVec 1) (d : BitVec 4)
  /-- R194. Invert the sign bit of each lane. -/
  | vfneg (a : BitVec 4) (k : BitVec 3) (z : BitVec 1) (d : BitVec 4)
  /-- R193. Lane add of a scalar. -/
  | vadds (g : BitVec 6) (a : BitVec 4) (k : BitVec 3) (z : BitVec 1) (d : BitVec 4)
  /-- R193. Lane subtract of a scalar. -/
  | vsubs (g : BitVec 6) (a : BitVec 4) (k : BitVec 3) (z : BitVec 1) (d : BitVec 4)
  /-- R193. Lane multiply by a scalar. -/
  | vmuls (g : BitVec 6) (a : BitVec 4) (k : BitVec 3) (z : BitVec 1) (d : BitVec 4)
  /-- R193. Lane signed high multiply by a scalar. -/
  | vmulhs (g : BitVec 6) (a : BitVec 4) (k : BitVec 3) (z : BitVec 1) (d : BitVec 4)
  /-- R193. Lane unsigned high multiply by a scalar. -/
  | vmulhus (g : BitVec 6) (a : BitVec 4) (k : BitVec 3) (z : BitVec 1) (d : BitVec 4)
  /-- R193. Lane signed minimum with a scalar. -/
  | vmins (g : BitVec 6) (a : BitVec 4) (k : BitVec 3) (z : BitVec 1) (d : BitVec 4)
  /-- R193. Lane signed maximum with a scalar. -/
  | vmaxs (g : BitVec 6) (a : BitVec 4) (k : BitVec 3) (z : BitVec 1) (d : BitVec 4)
  /-- R193. Lane unsigned minimum with a scalar. -/
  | vminus (g : BitVec 6) (a : BitVec 4) (k : BitVec 3) (z : BitVec 1) (d : BitVec 4)
  /-- R193. Lane unsigned maximum with a scalar. -/
  | vmaxus (g : BitVec 6) (a : BitVec 4) (k : BitVec 3) (z : BitVec 1) (d : BitVec 4)
  /-- R193. Lane AND with a scalar. -/
  | vands (g : BitVec 6) (a : BitVec 4) (k : BitVec 3) (z : BitVec 1) (d : BitVec 4)
  /-- R193. Lane OR with a scalar. -/
  | vors (g : BitVec 6) (a : BitVec 4) (k : BitVec 3) (z : BitVec 1) (d : BitVec 4)
  /-- R193. Lane XOR with a scalar. -/
  | vxors (g : BitVec 6) (a : BitVec 4) (k : BitVec 3) (z : BitVec 1) (d : BitVec 4)
  /-- R193. Lane AND NOT a scalar. -/
  | vandns (g : BitVec 6) (a : BitVec 4) (k : BitVec 3) (z : BitVec 1) (d : BitVec 4)
  /-- R193. Lane shift left by a scalar. -/
  | vshls (g : BitVec 6) (a : BitVec 4) (k : BitVec 3) (z : BitVec 1) (d : BitVec 4)
  /-- R193. Lane logical shift right by a scalar. -/
  | vshrs (g : BitVec 6) (a : BitVec 4) (k : BitVec 3) (z : BitVec 1) (d : BitVec 4)
  /-- R193. Lane arithmetic shift right by a scalar. -/
  | vsars (g : BitVec 6) (a : BitVec 4) (k : BitVec 3) (z : BitVec 1) (d : BitVec 4)
  /-- R193. Lane saturating add of a scalar. -/
  | vaddsats (g : BitVec 6) (a : BitVec 4) (k : BitVec 3) (z : BitVec 1) (d : BitVec 4)
  /-- R193. Lane saturating subtract of a scalar. -/
  | vsubsats (g : BitVec 6) (a : BitVec 4) (k : BitVec 3) (z : BitVec 1) (d : BitVec 4)
  /-- R194. Lane FP32 add of a scalar. -/
  | vfadds (g : BitVec 6) (a : BitVec 4) (k : BitVec 3) (z : BitVec 1) (d : BitVec 4)
  /-- R194. Lane FP32 subtract of a scalar. -/
  | vfsubs (g : BitVec 6) (a : BitVec 4) (k : BitVec 3) (z : BitVec 1) (d : BitVec 4)
  /-- R194. Lane FP32 multiply by a scalar. -/
  | vfmuls (g : BitVec 6) (a : BitVec 4) (k : BitVec 3) (z : BitVec 1) (d : BitVec 4)
  /-- R194. Lane FP32 minimum with a scalar. -/
  | vfmins (g : BitVec 6) (a : BitVec 4) (k : BitVec 3) (z : BitVec 1) (d : BitVec 4)
  /-- R194. Lane FP32 maximum with a scalar. -/
  | vfmaxs (g : BitVec 6) (a : BitVec 4) (k : BitVec 3) (z : BitVec 1) (d : BitVec 4)
  /-- R195. Lane fused a x b + d. -/
  | vfma (b : BitVec 4) (a : BitVec 4) (k : BitVec 3) (z : BitVec 1) (d : BitVec 4)
  /-- R195. Lane fused a x b - d. -/
  | vfms (b : BitVec 4) (a : BitVec 4) (k : BitVec 3) (z : BitVec 1) (d : BitVec 4)
  /-- R195. Lane fused -(a x b) + d. -/
  | vfnma (b : BitVec 4) (a : BitVec 4) (k : BitVec 3) (z : BitVec 1) (d : BitVec 4)
  /-- R195. Lane fused -(a x b) - d. -/
  | vfnms (b : BitVec 4) (a : BitVec 4) (k : BitVec 3) (z : BitVec 1) (d : BitVec 4)
  /-- R195. Lane integer multiply-add. -/
  | vmad (b : BitVec 4) (a : BitVec 4) (k : BitVec 3) (z : BitVec 1) (d : BitVec 4)
  /-- R195. Lane 4-way INT8 dot product accumulate. -/
  | vdot4i8 (b : BitVec 4) (a : BitVec 4) (k : BitVec 3) (z : BitVec 1) (d : BitVec 4)
  /-- R195. VFMA with a scalar b. -/
  | vfmas (g : BitVec 6) (a : BitVec 4) (k : BitVec 3) (z : BitVec 1) (d : BitVec 4)
  /-- R195. VFMS with a scalar b. -/
  | vfmss (g : BitVec 6) (a : BitVec 4) (k : BitVec 3) (z : BitVec 1) (d : BitVec 4)
  /-- R195. VFNMA with a scalar b. -/
  | vfnmas (g : BitVec 6) (a : BitVec 4) (k : BitVec 3) (z : BitVec 1) (d : BitVec 4)
  /-- R195. VFNMS with a scalar b. -/
  | vfnmss (g : BitVec 6) (a : BitVec 4) (k : BitVec 3) (z : BitVec 1) (d : BitVec 4)
  /-- R195. VMAD with a scalar b. -/
  | vmads (g : BitVec 6) (a : BitVec 4) (k : BitVec 3) (z : BitVec 1) (d : BitVec 4)
  /-- R195. VDOT4I8 with a scalar b. -/
  | vdot4i8s (g : BitVec 6) (a : BitVec 4) (k : BitVec 3) (z : BitVec 1) (d : BitVec 4)
  /-- R196. Lane compare into a mask. -/
  | vcmp (c : BitVec 4) (b : BitVec 4) (a : BitVec 4) (k : BitVec 3) (z : BitVec 1) (d : BitVec 3)
  /-- R196. Lane compare with a scalar into a mask. -/
  | vcmps (c : BitVec 4) (g : BitVec 6) (a : BitVec 4) (k : BitVec 3) (z : BitVec 1) (d : BitVec 3)
  /-- R198. Vector load of 32 lane words. -/
  | vld (q : BitVec 2) (g : BitVec 6) (k : BitVec 3) (z : BitVec 1) (d : BitVec 4)
  /-- R198. Vector store of 32 lane words. -/
  | vst (q : BitVec 2) (g : BitVec 6) (k : BitVec 3) (z : BitVec 1) (d : BitVec 4)
  /-- R199. Vector gather. -/
  | vgath (q : BitVec 2) (g : BitVec 6) (a : BitVec 4) (k : BitVec 3) (z : BitVec 1) (d : BitVec 4)
  /-- R199. Vector scatter. -/
  | vscat (q : BitVec 2) (g : BitVec 6) (a : BitVec 4) (k : BitVec 3) (z : BitVec 1) (d : BitVec 4)
  /-- R200. Lane-slice load at a common offset. -/
  | vlds (g : BitVec 6) (k : BitVec 3) (z : BitVec 1) (d : BitVec 4)
  /-- R200. Lane-slice store at a common offset. -/
  | vsts (g : BitVec 6) (k : BitVec 3) (z : BitVec 1) (d : BitVec 4)
  /-- R200. Indexed lane-slice load. -/
  | vldsx (g : BitVec 6) (a : BitVec 4) (k : BitVec 3) (z : BitVec 1) (d : BitVec 4)
  /-- R200. Indexed lane-slice store. -/
  | vstsx (g : BitVec 6) (a : BitVec 4) (k : BitVec 3) (z : BitVec 1) (d : BitVec 4)
  /-- R202. Tree reduction: integer sum. -/
  | vredadd (g : BitVec 6) (a : BitVec 4) (k : BitVec 3)
  /-- R202. Tree reduction: signed minimum. -/
  | vredmin (g : BitVec 6) (a : BitVec 4) (k : BitVec 3)
  /-- R202. Tree reduction: signed maximum. -/
  | vredmax (g : BitVec 6) (a : BitVec 4) (k : BitVec 3)
  /-- R202. Tree reduction: unsigned minimum. -/
  | vredminu (g : BitVec 6) (a : BitVec 4) (k : BitVec 3)
  /-- R202. Tree reduction: unsigned maximum. -/
  | vredmaxu (g : BitVec 6) (a : BitVec 4) (k : BitVec 3)
  /-- R202. Tree reduction: OR. -/
  | vredor (g : BitVec 6) (a : BitVec 4) (k : BitVec 3)
  /-- R202. Tree reduction: AND. -/
  | vredand (g : BitVec 6) (a : BitVec 4) (k : BitVec 3)
  /-- R202. Tree reduction: FP32 sum. -/
  | vredfadd (g : BitVec 6) (a : BitVec 4) (k : BitVec 3)
  /-- R202. Tree reduction: FP32 minimum. -/
  | vredfmin (g : BitVec 6) (a : BitVec 4) (k : BitVec 3)
  /-- R202. Tree reduction: FP32 maximum. -/
  | vredfmax (g : BitVec 6) (a : BitVec 4) (k : BitVec 3)
  /-- R201. Broadcast g[31:0] to lanes. -/
  | vbcast (g : BitVec 6) (k : BitVec 3) (z : BitVec 1) (d : BitVec 4)
  /-- R201. Extract the lowest active lane to g. -/
  | vext (g : BitVec 6) (a : BitVec 4) (k : BitVec 3)
  /-- R201. Permute lanes by an index vector. -/
  | vperm (b : BitVec 4) (a : BitVec 4) (k : BitVec 3) (z : BitVec 1) (d : BitVec 4)
  /-- R201. Rotate lanes by g[4:0]. -/
  | vrotl (g : BitVec 6) (a : BitVec 4) (k : BitVec 3) (z : BitVec 1) (d : BitVec 4)
  /-- R201. Compress active lanes. -/
  | vcomp (a : BitVec 4) (k : BitVec 3) (d : BitVec 4)
  /-- R201. Write lane indices. -/
  | viota (k : BitVec 3) (z : BitVec 1) (d : BitVec 4)
  /-- R201. Mask AND. -/
  | kand (b : BitVec 3) (a : BitVec 3) (d : BitVec 3)
  /-- R201. Mask OR. -/
  | kor (b : BitVec 3) (a : BitVec 3) (d : BitVec 3)
  /-- R201. Mask XOR. -/
  | kxor (b : BitVec 3) (a : BitVec 3) (d : BitVec 3)
  /-- R201. Mask AND NOT. -/
  | kandn (b : BitVec 3) (a : BitVec 3) (d : BitVec 3)
  /-- R201. Mask NOT. -/
  | knot (a : BitVec 3) (d : BitVec 3)
  /-- R201. Mask from a general register. -/
  | kmovg (a : BitVec 6) (d : BitVec 3)
  /-- R201. Read a mask into a general register. -/
  | krd (a : BitVec 3) (d : BitVec 6)
  /-- R201. Count mask bits. -/
  | kpopc (a : BitVec 3) (d : BitVec 6)
  /-- R201. Index of the lowest mask bit. -/
  | kfirst (a : BitVec 3) (d : BitVec 6)
  /-- R204. FP32 to signed 32-bit integer per lane. -/
  | vcvtfi (a : BitVec 4) (k : BitVec 3) (z : BitVec 1) (d : BitVec 4)
  /-- R204. Signed 32-bit integer to FP32 per lane. -/
  | vcvtif (a : BitVec 4) (k : BitVec 3) (z : BitVec 1) (d : BitVec 4)
  /-- R204. Unsigned 32-bit integer to FP32 per lane. -/
  | vcvtuf (a : BitVec 4) (k : BitVec 3) (z : BitVec 1) (d : BitVec 4)
  /-- R204. FP32 to unsigned 32-bit integer per lane. -/
  | vcvtfu (a : BitVec 4) (k : BitVec 3) (z : BitVec 1) (d : BitVec 4)
  /-- R205. Convert and pack lanes into part p of a narrow format. -/
  | vpack (f : BitVec 3) (p : BitVec 4) (a : BitVec 4) (k : BitVec 3) (z : BitVec 1) (d : BitVec 4)
  /-- R205. Unpack part p of a narrow format to FP32 lanes. -/
  | vunpk (f : BitVec 3) (p : BitVec 4) (a : BitVec 4) (k : BitVec 3) (z : BitVec 1) (d : BitVec 4)
  /-- R206. Decode a CB2 block to FP32 lanes. -/
  | vcbd (g : BitVec 6) (a : BitVec 4) (k : BitVec 3) (z : BitVec 1) (d : BitVec 4)
  /-- R206. Decode a CB2 block to half-unit integers. -/
  | vcbdi (g : BitVec 6) (a : BitVec 4) (k : BitVec 3) (z : BitVec 1) (d : BitVec 4)
  /-- R207. Scalar wing32 of key a and counter b. -/
  | wing (b : BitVec 6) (a : BitVec 6) (d : BitVec 6)
  /-- R207. Lane-wise wing32 with a scalar key. -/
  | vwing (g : BitVec 6) (a : BitVec 4) (k : BitVec 3) (z : BitVec 1) (d : BitVec 4)
  /-- R212. Membership intersection. -/
  | mand (b : BitVec 2) (a : BitVec 2) (d : BitVec 2)
  /-- R212. Membership union. -/
  | mor (b : BitVec 2) (a : BitVec 2) (d : BitVec 2)
  /-- R212. Membership symmetric difference. -/
  | mxor (b : BitVec 2) (a : BitVec 2) (d : BitVec 2)
  /-- R212. Membership difference. -/
  | mandn (b : BitVec 2) (a : BitVec 2) (d : BitVec 2)
  /-- R212. Membership complement. -/
  | mnot (a : BitVec 2) (d : BitVec 2)
  /-- R212. Membership move. -/
  | mmov (a : BitVec 2) (d : BitVec 2)
  /-- R212. Clear a membership set. -/
  | mclr (d : BitVec 2)
  /-- R212. Fill a set with queries below ga. -/
  | mfill (a : BitVec 6) (d : BitVec 2)
  /-- R212. Add query ga to a set. -/
  | mbset (a : BitVec 6) (d : BitVec 2)
  /-- R212. Remove query ga from a set. -/
  | mbclr (a : BitVec 6) (d : BitVec 2)
  /-- R212. Test membership of query gb. -/
  | mbtst (b : BitVec 6) (a : BitVec 2) (d : BitVec 6)
  /-- R212. Count set members. -/
  | mpopc (a : BitVec 2) (d : BitVec 6)
  /-- R212. Lowest member. -/
  | mfirst (a : BitVec 2) (d : BitVec 6)
  /-- R212. Lowest member above gb. -/
  | mnext (b : BitVec 6) (a : BitVec 2) (d : BitVec 6)
  /-- R212. Read a 64-bit word of a set. -/
  | mgetw (b : BitVec 6) (a : BitVec 2) (d : BitVec 6)
  /-- R212. Write a 64-bit word of a set. -/
  | mputw (b : BitVec 6) (a : BitVec 6) (d : BitVec 2)
  /-- R213. Load a 128-byte set image. -/
  | mld (a : BitVec 6) (d : BitVec 2)
  /-- R213. Store a 128-byte set image. -/
  | mst (b : BitVec 2) (a : BitVec 6)
  /-- R217. Arrive at a node's roll-call entry with a query set. -/
  | stand (b : BitVec 2) (a : BitVec 6) (d : BitVec 6)
  /-- R218. Close the entry or learn of displacement. -/
  | leave (a : BitVec 6)
  /-- R225. Divide a query set and start a new thread for the passing part. -/
  | split (s : BitVec 2) (t : BitVec 2) (i : BitVec 14)
  /-- R224. Load a 32-bit query-record field. -/
  | qld (w : BitVec 6) (a : BitVec 6) (d : BitVec 6)
  /-- R224. Load a 64-bit query-record field. -/
  | qldd (w : BitVec 6) (a : BitVec 6) (d : BitVec 6)
  /-- R224. Store a 32-bit query-record field. -/
  | qst (b : BitVec 6) (a : BitVec 6) (w : BitVec 6)
  /-- R224. Store a 64-bit query-record field. -/
  | qstd (b : BitVec 6) (a : BitVec 6) (w : BitVec 6)
  /-- R223. Evaluate a record field of every member against a value. -/
  | qeval (c : BitVec 4) (b : BitVec 6) (a : BitVec 2) (d : BitVec 2) (w : BitVec 6)
  /-- R230. Issue a byte copy command. -/
  | cpy (s : BitVec 3) (q : BitVec 1) (r : BitVec 1) (t : BitVec 1) (n : BitVec 6)
  /-- R231. Issue an indexed row copy command. -/
  | cpyg (s : BitVec 3) (q : BitVec 1) (r : BitVec 1) (t : BitVec 1) (n : BitVec 6)
  /-- R232. Post a program to a memory core. -/
  | mcpost (s : BitVec 3) (q : BitVec 1) (r : BitVec 1) (t : BitVec 1) (n : BitVec 6)
  /-- R249. Load a tensor table entry from a descriptor. -/
  | ttset (b : BitVec 6) (a : BitVec 6) (d : BitVec 6)
  /-- R254. Hand a tile-task record to the die's scheduler. -/
  | tqadd (a : BitVec 6)
  /-- R264. Save a held accumulator and release its tag. -/
  | accsv (b : BitVec 6) (a : BitVec 6)
  /-- R264. Save a held accumulator and keep it held. -/
  | accsvk (b : BitVec 6) (a : BitVec 6)
  /-- R264. Load an accumulator image and hold it under a tag. -/
  | accld (b : BitVec 6) (a : BitVec 6)
  /-- R289. Send an active message with payload registers. -/
  | send (r : BitVec 2) (n : BitVec 4) (b : BitVec 6) (a : BitVec 6) (p : BitVec 6)
  /-- R291. Drain and retire a message handler. -/
  | amret
  /-- R292. Fill a remote general register awaited by EXPECT. -/
  | rfill (b : BitVec 6) (a : BitVec 6) (d : BitVec 6)
  /-- R292. Fill a remote membership register. -/
  | rfillm (b : BitVec 2) (a : BitVec 6) (d : BitVec 6)
  /-- R292. Fill a remote vector register. -/
  | rfillv (b : BitVec 4) (a : BitVec 6) (d : BitVec 6)
  /-- R292. Fill a remote version-context register. -/
  | rfillc (b : BitVec 3) (a : BitVec 6) (d : BitVec 6)
  /-- R293. Queue a request to turn Zwiale lane groups. -/
  | lturn (b : BitVec 6) (a : BitVec 6) (d : BitVec 6)
  /-- R329. Read a CSR. -/
  | rds (c : BitVec 12) (d : BitVec 6)
  /-- R329. Write a CSR. -/
  | wrs (c : BitVec 12) (s : BitVec 6)
  /-- R329. Read the global timestamp. -/
  | rdts (d : BitVec 6)
  /-- R329. Append or check a mark record in the order roll. -/
  | logmark (a : BitVec 6)
  /-- R321. Trap with cause TRAP and the immediate in EINFO. -/
  | trap (i : BitVec 12)
  /-- R329. Trap with cause BREAK. -/
  | brk
  /-- R329. Return from trap to EPC at level U, restoring the loop. -/
  | rtt
  /-- R329. Discard fetched code after stores are acknowledged. -/
  | icinv
  /-- R329. Invalidate PLB entries. -/
  | plbinv (a : BitVec 6)
  /-- R329. Consume the event latch or park until EVSIG sets it. -/
  | halt
  /-- R329. Set event latches on a core or post to the driver's event queue. -/
  | evsig (b : BitVec 6) (a : BitVec 6)
deriving DecidableEq, Repr

end Sys2Proof
end

