-- ==== Sys2Proof/WellFormed.lean ====
section
/-!
DEFINITION. Which instructions are well formed: the field values that their chapters call ILLEGAL are refused (04 R70).
The named checks are those the meanings make at step 3 of R74.
-/

namespace Sys2Proof

/-- Loads admit ord 0b00, 0b01 and 0b11 (R113). -/
def ordLoadOk (o : BitVec 2) : Bool := o != 2
/-- Stores admit ord 0b00, 0b10 and 0b11 (R113). -/
def ordStoreOk (o : BitVec 2) : Bool := o != 1
/-- Scopes 6 and 7 are reserved (R6). -/
def scopeOk (s : BitVec 3) : Bool := decide (s.toNat ≤ 5)
/-- Scoped loads: an ord of 0b00 is refused too (R117). -/
def scopedLoadOk (s : BitVec 3) (o : BitVec 2) : Bool := scopeOk s && (o == 1 || o == 3)
/-- Scoped stores (R117). -/
def scopedStoreOk (s : BitVec 3) (o : BitVec 2) : Bool := scopeOk s && (o == 2 || o == 3)
/-- z = 1 with k = 0 is refused (R189). -/
def predOk (k : BitVec 3) (z : BitVec 1) : Bool := !(k == 0 && z == 1)
/-- The conditions of VCMP (R196). -/
def vcmpOk (c : BitVec 4) : Bool := decide (c.toNat ≤ 5) || (decide (8 ≤ c.toNat) && decide (c.toNat ≤ 12))
/-- The format codes and parts of VPACK and VUNPK (R203, R205): `p` runs to 32/w - 1. -/
def packOk (f : BitVec 3) (p : BitVec 4) : Bool :=
  match f.toNat with
  | 1 => decide (p.toNat < 2)
  | 2 => decide (p.toNat < 2)
  | 3 => decide (p.toNat < 4)
  | 4 => decide (p.toNat < 4)
  | 5 => decide (p.toNat < 8)
  | 6 => decide (p.toNat < 4)
  | _ => false
/-- The conditions of QEVAL (R223). -/
def qevalOk (c : BitVec 4) : Bool := decide (c.toNat ≤ 9)
/-- The first group register of a copy command: a nonzero multiple of 8 (R228). -/
def groupOk (n : BitVec 6) : Bool := n != 0 && decide (n.toNat % 8 = 0)
/-- The body length of LOOP: 1 to 256 (R89). -/
def loopLenOk (i : BitVec 13) : Bool := decide (1 ≤ i.toNat) && decide (i.toNat ≤ 256)
/-- The route and the payload registers of SEND (R288). -/
def sendOk (r : BitVec 2) (n : BitVec 4) (p : BitVec 6) : Bool := r != 3 && decide (p.toNat + 2 * n.toNat ≤ 64)
/-- The 16-bit word 0x001E is the breakpoint, not a branch (R71). -/
def bezOk (i d : BitVec 5) : Bool := !(i == 0 && d == 0)

/-- The well-formed instructions; the hardware's own steps carry no encoding and are always well formed. -/
def Instr.wf (x : Instr) : Bool :=
  match x with
  | .mv _ _ => true
  | .li _ _ => true
  | .addC16 _ _ => true
  | .addiC16 _ _ => true
  | .subC16 _ _ => true
  | .subi _ _ => true
  | .andC16 _ _ => true
  | .andiC16 _ _ => true
  | .orC16 _ _ => true
  | .oriC16 _ _ => true
  | .xorC16 _ _ => true
  | .xoriC16 _ _ => true
  | .shlC16 _ _ => true
  | .shliC16 _ _ => true
  | .shrC16 _ _ => true
  | .shriC16 _ _ => true
  | .sarC16 _ _ => true
  | .sariC16 _ _ => true
  | .mulC16 _ _ => true
  | .muliC16 _ _ => true
  | .minC16 _ _ => true
  | .mini _ _ => true
  | .maxC16 _ _ => true
  | .maxi _ _ => true
  | .sltC16 _ _ => true
  | .sltiC16 _ _ => true
  | .lddC16 _ _ => true
  | .lddG2C16 _ _ => true
  | .stdC16 _ _ => true
  | .stdG2C16 _ _ => true
  | .bez i d => bezOk i d
  | .bnz _ _ => true
  | .brkC16 => true
  | .add _ _ _ => true
  | .sub _ _ _ => true
  | .and _ _ _ => true
  | .or _ _ _ => true
  | .xor _ _ _ => true
  | .shl _ _ _ => true
  | .shr _ _ _ => true
  | .sar _ _ _ => true
  | .mul _ _ _ => true
  | .min _ _ _ => true
  | .max _ _ _ => true
  | .minu _ _ _ => true
  | .maxu _ _ _ => true
  | .slt _ _ _ => true
  | .sltu _ _ _ => true
  | .seq _ _ _ => true
  | .sne _ _ _ => true
  | .addw _ _ _ => true
  | .subw _ _ _ => true
  | .clz _ _ => true
  | .ctz _ _ => true
  | .popc _ _ => true
  | .brev _ _ => true
  | .bswap _ _ => true
  | .rol _ _ _ => true
  | .ror _ _ _ => true
  | .andn _ _ _ => true
  | .sextb _ _ => true
  | .sexth _ _ => true
  | .sextw _ _ => true
  | .zextw _ _ => true
  | .mulh _ _ _ => true
  | .mulhu _ _ _ => true
  | .mulhsu _ _ _ => true
  | .div _ _ _ => true
  | .divu _ _ _ => true
  | .rem _ _ _ => true
  | .remu _ _ _ => true
  | .addi _ _ _ => true
  | .andi _ _ _ => true
  | .ori _ _ _ => true
  | .xori _ _ _ => true
  | .muli _ _ _ => true
  | .shli _ _ _ => true
  | .shri _ _ _ => true
  | .sari _ _ _ => true
  | .rori _ _ _ => true
  | .seqi _ _ _ => true
  | .snei _ _ _ => true
  | .slti _ _ _ => true
  | .sgei _ _ _ => true
  | .sltui _ _ _ => true
  | .sgeui _ _ _ => true
  | .liu _ _ => true
  | .addpc _ _ => true
  | .lic _ _ _ => true
  | .lico _ _ _ _ => true
  | .licn _ _ _ => true
  | .beq _ _ _ => true
  | .bne _ _ _ => true
  | .blt _ _ _ => true
  | .bge _ _ _ => true
  | .bltu _ _ _ => true
  | .bgeu _ _ _ => true
  | .bfull _ _ => true
  | .bvoid _ _ => true
  | .j _ => true
  | .jal _ => true
  | .jalr _ _ _ => true
  | .loop i _ => loopLenOk i
  | .spawn _ => true
  | .join => true
  | .exit => true
  | .expect _ => true
  | .expectm _ => true
  | .expectv _ => true
  | .expectc _ => true
  | .qslot _ => true
  | .qdeq _ => true
  | .qlink _ => true
  | .fadd _ _ _ _ => true
  | .fsub _ _ _ _ => true
  | .fmul _ _ _ _ => true
  | .fdiv _ _ _ _ => true
  | .fsqrt _ _ _ => true
  | .fmin _ _ _ _ => true
  | .fmax _ _ _ _ => true
  | .fsgnj _ _ _ _ => true
  | .fsgnjn _ _ _ _ => true
  | .fsgnjx _ _ _ _ => true
  | .feq _ _ _ _ => true
  | .flt _ _ _ _ => true
  | .fle _ _ _ _ => true
  | .fclass _ _ _ => true
  | .fma _ _ _ _ _ => true
  | .fcvtSD _ _ => true
  | .fcvtDS _ _ => true
  | .fcvtSL _ _ => true
  | .fcvtSLu _ _ => true
  | .fcvtDL _ _ => true
  | .fcvtDLu _ _ => true
  | .fcvtLS _ _ => true
  | .fcvtLuS _ _ => true
  | .fcvtLD _ _ => true
  | .fcvtLuD _ _ => true
  | .fcvtWS _ _ => true
  | .fcvtWD _ _ => true
  | .fcvtHS _ _ => true
  | .fcvtSH _ _ => true
  | .fcvtBS _ _ => true
  | .fcvtSB _ _ => true
  | .ldb _ o _ _ _ => ordLoadOk o
  | .ldbu _ o _ _ _ => ordLoadOk o
  | .ldh _ o _ _ _ => ordLoadOk o
  | .ldhu _ o _ _ _ => ordLoadOk o
  | .ldw _ o _ _ _ => ordLoadOk o
  | .ldwu _ o _ _ _ => ordLoadOk o
  | .ldd _ o _ _ _ => ordLoadOk o
  | .stb _ o _ _ _ => ordStoreOk o
  | .sth _ o _ _ _ => ordStoreOk o
  | .stw _ o _ _ _ => ordStoreOk o
  | .std _ o _ _ _ => ordStoreOk o
  | .ldbx _ _ _ _ => true
  | .ldbux _ _ _ _ => true
  | .ldhx _ _ _ _ => true
  | .ldhux _ _ _ _ => true
  | .ldwx _ _ _ _ => true
  | .ldwux _ _ _ _ => true
  | .lddx _ _ _ _ => true
  | .stbx _ _ _ _ => true
  | .sthx _ _ _ _ => true
  | .stwx _ _ _ _ => true
  | .stdx _ _ _ _ => true
  | .ldwo _ s o _ _ => scopedLoadOk s o
  | .lddo _ s o _ _ => scopedLoadOk s o
  | .stwo _ s o _ _ => scopedStoreOk s o
  | .stdo _ s o _ _ => scopedStoreOk s o
  | .ldf _ _ => true
  | .ldtk _ _ => true
  | .stf _ _ => true
  | .lres _ _ => true
  | .scond _ _ _ => true
  | .lresAcq _ _ => true
  | .scondRel _ _ _ => true
  | .cflush _ => true
  | .cwb _ => true
  | .cwball => true
  | .amoadd _ _ _ _ _ => true
  | .amoand _ _ _ _ _ => true
  | .amoor _ _ _ _ _ => true
  | .amoxor _ _ _ _ _ => true
  | .amomin _ _ _ _ _ => true
  | .amomax _ _ _ _ _ => true
  | .amominu _ _ _ _ _ => true
  | .amomaxu _ _ _ _ _ => true
  | .amoswap _ _ _ _ _ => true
  | .amocas _ _ _ _ _ => true
  | .famoadd _ _ _ _ _ => true
  | .famomin _ _ _ _ _ => true
  | .famomax _ _ _ _ _ => true
  | .ldv _ _ _ => true
  | .ldvv _ _ _ => true
  | .stv _ _ _ _ => true
  | .cvclr _ => true
  | .reconMin _ _ _ => true
  | .reconMax _ _ _ => true
  | .reconAdd _ _ _ => true
  | .reconOr _ _ _ => true
  | .reconAnd _ _ _ => true
  | .reconLowest _ _ _ => true
  | .reconHighest _ _ _ => true
  | .reconValue _ _ _ _ => true
  | .redW _ _ => true
  | .redD _ _ => true
  | .fence s => scopeOk s
  | .fenceAcq s => scopeOk s
  | .fenceRel s => scopeOk s
  | .bara s _ _ => scopeOk s
  | .barw s _ _ => scopeOk s
  | .belladd s _ _ => scopeOk s
  | .bellwait s _ _ => scopeOk s
  | .waitres => true
  | .waitk _ _ _ _ => true
  | .vadd _ _ k z _ => predOk k z
  | .vsub _ _ k z _ => predOk k z
  | .vmul _ _ k z _ => predOk k z
  | .vmulh _ _ k z _ => predOk k z
  | .vmulhu _ _ k z _ => predOk k z
  | .vmin _ _ k z _ => predOk k z
  | .vmax _ _ k z _ => predOk k z
  | .vminu _ _ k z _ => predOk k z
  | .vmaxu _ _ k z _ => predOk k z
  | .vand _ _ k z _ => predOk k z
  | .vor _ _ k z _ => predOk k z
  | .vxor _ _ k z _ => predOk k z
  | .vandn _ _ k z _ => predOk k z
  | .vshl _ _ k z _ => predOk k z
  | .vshr _ _ k z _ => predOk k z
  | .vsar _ _ k z _ => predOk k z
  | .vaddsat _ _ k z _ => predOk k z
  | .vsubsat _ _ k z _ => predOk k z
  | .vabs _ k z _ => predOk k z
  | .vmov _ k z _ => predOk k z
  | .vfadd _ _ k z _ => predOk k z
  | .vfsub _ _ k z _ => predOk k z
  | .vfmul _ _ k z _ => predOk k z
  | .vfmin _ _ k z _ => predOk k z
  | .vfmax _ _ k z _ => predOk k z
  | .vfabs _ k z _ => predOk k z
  | .vfneg _ k z _ => predOk k z
  | .vadds _ _ k z _ => predOk k z
  | .vsubs _ _ k z _ => predOk k z
  | .vmuls _ _ k z _ => predOk k z
  | .vmulhs _ _ k z _ => predOk k z
  | .vmulhus _ _ k z _ => predOk k z
  | .vmins _ _ k z _ => predOk k z
  | .vmaxs _ _ k z _ => predOk k z
  | .vminus _ _ k z _ => predOk k z
  | .vmaxus _ _ k z _ => predOk k z
  | .vands _ _ k z _ => predOk k z
  | .vors _ _ k z _ => predOk k z
  | .vxors _ _ k z _ => predOk k z
  | .vandns _ _ k z _ => predOk k z
  | .vshls _ _ k z _ => predOk k z
  | .vshrs _ _ k z _ => predOk k z
  | .vsars _ _ k z _ => predOk k z
  | .vaddsats _ _ k z _ => predOk k z
  | .vsubsats _ _ k z _ => predOk k z
  | .vfadds _ _ k z _ => predOk k z
  | .vfsubs _ _ k z _ => predOk k z
  | .vfmuls _ _ k z _ => predOk k z
  | .vfmins _ _ k z _ => predOk k z
  | .vfmaxs _ _ k z _ => predOk k z
  | .vfma _ _ k z _ => predOk k z
  | .vfms _ _ k z _ => predOk k z
  | .vfnma _ _ k z _ => predOk k z
  | .vfnms _ _ k z _ => predOk k z
  | .vmad _ _ k z _ => predOk k z
  | .vdot4i8 _ _ k z _ => predOk k z
  | .vfmas _ _ k z _ => predOk k z
  | .vfmss _ _ k z _ => predOk k z
  | .vfnmas _ _ k z _ => predOk k z
  | .vfnmss _ _ k z _ => predOk k z
  | .vmads _ _ k z _ => predOk k z
  | .vdot4i8s _ _ k z _ => predOk k z
  | .vcmp c _ _ k z _ => predOk k z && vcmpOk c
  | .vcmps c _ _ k z _ => predOk k z && vcmpOk c
  | .vld _ _ k z _ => predOk k z
  | .vst _ _ k z _ => predOk k z
  | .vgath _ _ _ k z _ => predOk k z
  | .vscat _ _ _ k z _ => predOk k z
  | .vlds _ k z _ => predOk k z
  | .vsts _ k z _ => predOk k z
  | .vldsx _ _ k z _ => predOk k z
  | .vstsx _ _ k z _ => predOk k z
  | .vredadd _ _ _ => true
  | .vredmin _ _ _ => true
  | .vredmax _ _ _ => true
  | .vredminu _ _ _ => true
  | .vredmaxu _ _ _ => true
  | .vredor _ _ _ => true
  | .vredand _ _ _ => true
  | .vredfadd _ _ _ => true
  | .vredfmin _ _ _ => true
  | .vredfmax _ _ _ => true
  | .vbcast _ k z _ => predOk k z
  | .vext _ _ _ => true
  | .vperm _ _ k z _ => predOk k z
  | .vrotl _ _ k z _ => predOk k z
  | .vcomp _ _ _ => true
  | .viota k z _ => predOk k z
  | .kand _ _ _ => true
  | .kor _ _ _ => true
  | .kxor _ _ _ => true
  | .kandn _ _ _ => true
  | .knot _ _ => true
  | .kmovg _ _ => true
  | .krd _ _ => true
  | .kpopc _ _ => true
  | .kfirst _ _ => true
  | .vcvtfi _ k z _ => predOk k z
  | .vcvtif _ k z _ => predOk k z
  | .vcvtuf _ k z _ => predOk k z
  | .vcvtfu _ k z _ => predOk k z
  | .vpack f p _ k z _ => predOk k z && packOk f p
  | .vunpk f p _ k z _ => predOk k z && packOk f p
  | .vcbd _ _ k z _ => predOk k z
  | .vcbdi _ _ k z _ => predOk k z
  | .wing _ _ _ => true
  | .vwing _ _ k z _ => predOk k z
  | .mand _ _ _ => true
  | .mor _ _ _ => true
  | .mxor _ _ _ => true
  | .mandn _ _ _ => true
  | .mnot _ _ => true
  | .mmov _ _ => true
  | .mclr _ => true
  | .mfill _ _ => true
  | .mbset _ _ => true
  | .mbclr _ _ => true
  | .mbtst _ _ _ => true
  | .mpopc _ _ => true
  | .mfirst _ _ => true
  | .mnext _ _ _ => true
  | .mgetw _ _ _ => true
  | .mputw _ _ _ => true
  | .mld _ _ => true
  | .mst _ _ => true
  | .stand _ _ _ => true
  | .leave _ => true
  | .split _ _ _ => true
  | .qld _ _ _ => true
  | .qldd _ _ _ => true
  | .qst _ _ _ => true
  | .qstd _ _ _ => true
  | .qeval c _ _ _ _ => qevalOk c
  | .cpy s _ _ _ n => scopeOk s && groupOk n
  | .cpyg s _ _ _ n => scopeOk s && groupOk n
  | .mcpost s _ _ _ n => scopeOk s && groupOk n
  | .ttset _ _ _ => true
  | .tqadd _ => true
  | .accsv _ _ => true
  | .accsvk _ _ => true
  | .accld _ _ => true
  | .send r n _ _ p => sendOk r n p
  | .amret => true
  | .rfill _ _ _ => true
  | .rfillm _ _ _ => true
  | .rfillv _ _ _ => true
  | .rfillc _ _ _ => true
  | .lturn _ _ _ => true
  | .rds _ _ => true
  | .wrs _ _ => true
  | .rdts _ => true
  | .logmark _ => true
  | .trap _ => true
  | .brk => true
  | .rtt => true
  | .icinv => true
  | .plbinv _ => true
  | .halt => true
  | .evsig _ _ => true
  | .lentCycle _ => true
  | .fillLands _ => true
  | .errorResponse _ => true
  | .storeAck _ => true
  | .dividerFill _ _ _ _ => true
  | .faultNotice _ => true
  | .faultWakeRejoin _ => true
  | .dequeTake _ => true
  | .stealAttempt _ => true
  | .stealRequest _ _ => true
  | .stealReply _ _ _ => true
  | .dequeRefill _ => true
  | .resourceRequest _ _ _ _ => true
  | .resourceRestart _ => true
  | .messageArrival _ => true
  | .handlerStart _ => true
  | .rfillArrival _ => true
  | .evsigDelivery _ => true
  | .bankAccess _ => true
  | .homeAccess _ => true
  | .partialEviction _ _ => true
  | .bellUpdate _ => true
  | .barrierArrival _ => true
  | .waitBellNotice _ => true
  | .fenceProbe _ _ _ => true
  | .fenceEcho _ _ _ => true
  | .atomicIntervalEnd _ => true
  | .plbRefill _ _ _ => true
  | .copyAccept _ => true
  | .copyStart _ => true
  | .copyShare _ => true
  | .copyComplete _ => true
  | .mcpostDelivery _ => true
  | .ttsetServe _ => true
  | .taskAccept _ => true
  | .taskDispatch _ => true
  | .kStep _ => true
  | .taskDrain _ => true
  | .taskComplete _ => true
  | .accumulatorMoveRun _ => true
  | .engineSelfTest _ _ => true
  | .rollCallArrival _ => true
  | .rollCallLeave _ => true
  | .packetHop _ => true
  | .outputAging _ => true
  | .packetDelivery _ => true
  | .turnRequest _ => true
  | .turnBoundary _ => true
  | .groupTurnDone _ _ => true
  | .notifyStore _ _ _ _ => true
  | .headerPoll _ _ => true
  | .dispatchOpportunity _ => true
  | .queueAging _ _ => true
  | .launch _ _ => true
  | .launchStart _ _ => true
  | .launchStateArrival _ _ => true
  | .launchComplete _ => true
  | .waitsig _ _ => true
  | .nopPacket _ _ => true
  | .setdet _ => true
  | .setdetComplete _ => true
  | .csrw _ => true
  | .qcreate _ => true
  | .qdestroy _ => true
  | .resize _ => true
  | .abort _ => true
  | .reservedPacketType _ _ => true
  | .eventRetry _ => true
  | .faultRetry _ => true
  | .fqtailWrite _ _ => true
  | .wake _ _ => true
  | .nqtailWrite _ _ => true
  | .ndone _ _ => true
  | .novfWrite _ _ => true
  | .inval _ _ => true
  | .invalidationDone _ => true
  | .eqtailWrite _ _ => true
  | .managementWrite _ _ => true
  | .preemptSave _ _ _ => true
  | .preemptResume _ _ _ => true
  | .pestatRead _ => true
  | .rmdata _ _ => true
  | .remapInstallDone _ => true
  | .meshInterrupt _ => true
  | .coreStop _ => true
  | .quiesceDone _ => true
  | .imageWritten _ => true
  | .engineSectionRestore _ _ => true
  | .spillRedelivery _ => true
  | .resumeDone _ => true
  | .coreGate _ => true
  | .coreWake _ => true
  | .rollRecordWrite _ => true
  | .logtailWrite _ _ => true
  | .rollRecordTake _ => true
  | .hostAccess _ => true
  | .hostAtomic _ _ _ _ => true
  | .sysatomCasLoop _ => true
  | .reductionContribution _ _ _ _ => true
  | .timestampCorrection _ => true
  | .ethernetTransmit _ => true
  | .ethernetReceive _ _ _ => true
  | .moduleReset => true
  | .resetStepDone _ => true
  | .fwgo _ _ => true
  | .firmwareReady _ => true
  | .firmwareFault _ => true
  | .scrubRead _ => true
  | .eltailWrite _ _ => true
  | .illegalEncoding _ => true
  | .proctorProxyComplete _ => true
  | .overflowMemoryGrant _ _ => true
  | .clockLock _ => true
  | .linkGroupFence _ => true

end Sys2Proof
end

