-- ==== Sys2Proof/Decode.lean ====
section
/-!
DEFINITION. Decoding (04_formats R53-R71 and the chapters' encoding tables) and its inverse. The decoder reads a row of the
opcode table from its fixed bits and takes the row's fields as they stand; a field value that the row's own chapter refuses
is left to `Instr.wf` and to the meaning, which raises ILLEGAL. What no row matches is refused by name. The decoder is marked
as having no compiled code, because Lean's runtime cannot build a value of more than 245 constructors with arguments; the
kernel evaluates it as any other function.
-/

namespace Sys2Proof

open Machine

/-- Why bytes are no instruction. -/
inductive DecodeError where
  /-- fewer bytes than the instruction has -/
  | tooShort
  /-- bit 0 is 1 and no 32-bit row has the word's fixed bits (R70) -/
  | noSuchWord
  /-- no 16-bit row has the halfword's fixed bits; R70 says that every even halfword is one -/
  | noSuchHalfword
deriving DecidableEq, Repr

/-- The field of an instruction word whose lowest bit is `lo`. -/
def fld (n w lo : Nat) : BitVec n := BitVec.ofNat n (w / 2 ^ lo)

/-- The 16-bit instructions (R53, R71). The word 0x001E is the breakpoint. -/
def decode16 (w : Nat) : Option Instr :=
  if w = 30 then some .brkC16
  else if bits w 15 15 = 0 ∧ bits w 4 0 = 0 then some (.mv (fld 5 w 10) (fld 5 w 5))
  else if bits w 15 15 = 1 ∧ bits w 4 0 = 0 then some (.li (fld 5 w 10) (fld 5 w 5))
  else if bits w 15 15 = 0 ∧ bits w 4 0 = 2 then some (.addC16 (fld 5 w 10) (fld 5 w 5))
  else if bits w 15 15 = 1 ∧ bits w 4 0 = 2 then some (.addiC16 (fld 5 w 10) (fld 5 w 5))
  else if bits w 15 15 = 0 ∧ bits w 4 0 = 4 then some (.subC16 (fld 5 w 10) (fld 5 w 5))
  else if bits w 15 15 = 1 ∧ bits w 4 0 = 4 then some (.subi (fld 5 w 10) (fld 5 w 5))
  else if bits w 15 15 = 0 ∧ bits w 4 0 = 6 then some (.andC16 (fld 5 w 10) (fld 5 w 5))
  else if bits w 15 15 = 1 ∧ bits w 4 0 = 6 then some (.andiC16 (fld 5 w 10) (fld 5 w 5))
  else if bits w 15 15 = 0 ∧ bits w 4 0 = 8 then some (.orC16 (fld 5 w 10) (fld 5 w 5))
  else if bits w 15 15 = 1 ∧ bits w 4 0 = 8 then some (.oriC16 (fld 5 w 10) (fld 5 w 5))
  else if bits w 15 15 = 0 ∧ bits w 4 0 = 10 then some (.xorC16 (fld 5 w 10) (fld 5 w 5))
  else if bits w 15 15 = 1 ∧ bits w 4 0 = 10 then some (.xoriC16 (fld 5 w 10) (fld 5 w 5))
  else if bits w 15 15 = 0 ∧ bits w 4 0 = 12 then some (.shlC16 (fld 5 w 10) (fld 5 w 5))
  else if bits w 15 15 = 1 ∧ bits w 4 0 = 12 then some (.shliC16 (fld 5 w 10) (fld 5 w 5))
  else if bits w 15 15 = 0 ∧ bits w 4 0 = 14 then some (.shrC16 (fld 5 w 10) (fld 5 w 5))
  else if bits w 15 15 = 1 ∧ bits w 4 0 = 14 then some (.shriC16 (fld 5 w 10) (fld 5 w 5))
  else if bits w 15 15 = 0 ∧ bits w 4 0 = 16 then some (.sarC16 (fld 5 w 10) (fld 5 w 5))
  else if bits w 15 15 = 1 ∧ bits w 4 0 = 16 then some (.sariC16 (fld 5 w 10) (fld 5 w 5))
  else if bits w 15 15 = 0 ∧ bits w 4 0 = 18 then some (.mulC16 (fld 5 w 10) (fld 5 w 5))
  else if bits w 15 15 = 1 ∧ bits w 4 0 = 18 then some (.muliC16 (fld 5 w 10) (fld 5 w 5))
  else if bits w 15 15 = 0 ∧ bits w 4 0 = 20 then some (.minC16 (fld 5 w 10) (fld 5 w 5))
  else if bits w 15 15 = 1 ∧ bits w 4 0 = 20 then some (.mini (fld 5 w 10) (fld 5 w 5))
  else if bits w 15 15 = 0 ∧ bits w 4 0 = 22 then some (.maxC16 (fld 5 w 10) (fld 5 w 5))
  else if bits w 15 15 = 1 ∧ bits w 4 0 = 22 then some (.maxi (fld 5 w 10) (fld 5 w 5))
  else if bits w 15 15 = 0 ∧ bits w 4 0 = 24 then some (.sltC16 (fld 5 w 10) (fld 5 w 5))
  else if bits w 15 15 = 1 ∧ bits w 4 0 = 24 then some (.sltiC16 (fld 5 w 10) (fld 5 w 5))
  else if bits w 15 15 = 0 ∧ bits w 4 0 = 26 then some (.lddC16 (fld 5 w 10) (fld 5 w 5))
  else if bits w 15 15 = 1 ∧ bits w 4 0 = 26 then some (.lddG2C16 (fld 5 w 10) (fld 5 w 5))
  else if bits w 15 15 = 0 ∧ bits w 4 0 = 28 then some (.stdC16 (fld 5 w 10) (fld 5 w 5))
  else if bits w 15 15 = 1 ∧ bits w 4 0 = 28 then some (.stdG2C16 (fld 5 w 10) (fld 5 w 5))
  else if bits w 15 15 = 0 ∧ bits w 4 0 = 30 then some (.bez (fld 5 w 10) (fld 5 w 5))
  else if bits w 15 15 = 1 ∧ bits w 4 0 = 30 then some (.bnz (fld 5 w 10) (fld 5 w 5))
  else none

/-- The words of major 0x00 (R68). -/
noncomputable def decodeMajor00 (w : Nat) : Option Instr :=
  if bits w 31 25 = 0 then some (.add (fld 6 w 19) (fld 6 w 13) (fld 6 w 7))
  else if bits w 31 25 = 1 then some (.sub (fld 6 w 19) (fld 6 w 13) (fld 6 w 7))
  else if bits w 31 25 = 2 then some (.and (fld 6 w 19) (fld 6 w 13) (fld 6 w 7))
  else if bits w 31 25 = 3 then some (.or (fld 6 w 19) (fld 6 w 13) (fld 6 w 7))
  else if bits w 31 25 = 4 then some (.xor (fld 6 w 19) (fld 6 w 13) (fld 6 w 7))
  else if bits w 31 25 = 5 then some (.shl (fld 6 w 19) (fld 6 w 13) (fld 6 w 7))
  else if bits w 31 25 = 6 then some (.shr (fld 6 w 19) (fld 6 w 13) (fld 6 w 7))
  else if bits w 31 25 = 7 then some (.sar (fld 6 w 19) (fld 6 w 13) (fld 6 w 7))
  else if bits w 31 25 = 8 then some (.mul (fld 6 w 19) (fld 6 w 13) (fld 6 w 7))
  else if bits w 31 25 = 9 then some (.min (fld 6 w 19) (fld 6 w 13) (fld 6 w 7))
  else if bits w 31 25 = 10 then some (.max (fld 6 w 19) (fld 6 w 13) (fld 6 w 7))
  else if bits w 31 25 = 11 then some (.minu (fld 6 w 19) (fld 6 w 13) (fld 6 w 7))
  else if bits w 31 25 = 12 then some (.maxu (fld 6 w 19) (fld 6 w 13) (fld 6 w 7))
  else if bits w 31 25 = 13 then some (.slt (fld 6 w 19) (fld 6 w 13) (fld 6 w 7))
  else if bits w 31 25 = 14 then some (.sltu (fld 6 w 19) (fld 6 w 13) (fld 6 w 7))
  else if bits w 31 25 = 15 then some (.seq (fld 6 w 19) (fld 6 w 13) (fld 6 w 7))
  else if bits w 31 25 = 16 then some (.sne (fld 6 w 19) (fld 6 w 13) (fld 6 w 7))
  else if bits w 31 25 = 17 then some (.addw (fld 6 w 19) (fld 6 w 13) (fld 6 w 7))
  else if bits w 31 25 = 18 then some (.subw (fld 6 w 19) (fld 6 w 13) (fld 6 w 7))
  else none

/-- The words of major 0x01 (R68). -/
noncomputable def decodeMajor01 (w : Nat) : Option Instr :=
  if bits w 31 19 = 0 then some (.clz (fld 6 w 13) (fld 6 w 7))
  else if bits w 31 19 = 64 then some (.ctz (fld 6 w 13) (fld 6 w 7))
  else if bits w 31 19 = 128 then some (.popc (fld 6 w 13) (fld 6 w 7))
  else if bits w 31 19 = 192 then some (.brev (fld 6 w 13) (fld 6 w 7))
  else if bits w 31 19 = 256 then some (.bswap (fld 6 w 13) (fld 6 w 7))
  else if bits w 31 25 = 5 then some (.rol (fld 6 w 19) (fld 6 w 13) (fld 6 w 7))
  else if bits w 31 25 = 6 then some (.ror (fld 6 w 19) (fld 6 w 13) (fld 6 w 7))
  else if bits w 31 25 = 7 then some (.andn (fld 6 w 19) (fld 6 w 13) (fld 6 w 7))
  else if bits w 31 19 = 512 then some (.sextb (fld 6 w 13) (fld 6 w 7))
  else if bits w 31 19 = 576 then some (.sexth (fld 6 w 13) (fld 6 w 7))
  else if bits w 31 19 = 640 then some (.sextw (fld 6 w 13) (fld 6 w 7))
  else if bits w 31 19 = 704 then some (.zextw (fld 6 w 13) (fld 6 w 7))
  else if bits w 31 25 = 16 then some (.mulh (fld 6 w 19) (fld 6 w 13) (fld 6 w 7))
  else if bits w 31 25 = 17 then some (.mulhu (fld 6 w 19) (fld 6 w 13) (fld 6 w 7))
  else if bits w 31 25 = 18 then some (.mulhsu (fld 6 w 19) (fld 6 w 13) (fld 6 w 7))
  else if bits w 31 25 = 32 then some (.div (fld 6 w 19) (fld 6 w 13) (fld 6 w 7))
  else if bits w 31 25 = 33 then some (.divu (fld 6 w 19) (fld 6 w 13) (fld 6 w 7))
  else if bits w 31 25 = 34 then some (.rem (fld 6 w 19) (fld 6 w 13) (fld 6 w 7))
  else if bits w 31 25 = 35 then some (.remu (fld 6 w 19) (fld 6 w 13) (fld 6 w 7))
  else none

/-- The words of major 0x02 (R68). -/
noncomputable def decodeMajor02 (w : Nat) : Option Instr :=
  some (.addi (fld 13 w 19) (fld 6 w 13) (fld 6 w 7))

/-- The words of major 0x03 (R68). -/
noncomputable def decodeMajor03 (w : Nat) : Option Instr :=
  some (.andi (fld 13 w 19) (fld 6 w 13) (fld 6 w 7))

/-- The words of major 0x04 (R68). -/
noncomputable def decodeMajor04 (w : Nat) : Option Instr :=
  some (.ori (fld 13 w 19) (fld 6 w 13) (fld 6 w 7))

/-- The words of major 0x05 (R68). -/
noncomputable def decodeMajor05 (w : Nat) : Option Instr :=
  some (.xori (fld 13 w 19) (fld 6 w 13) (fld 6 w 7))

/-- The words of major 0x08 (R68). -/
noncomputable def decodeMajor08 (w : Nat) : Option Instr :=
  some (.muli (fld 13 w 19) (fld 6 w 13) (fld 6 w 7))

/-- The words of major 0x06 (R68). -/
noncomputable def decodeMajor06 (w : Nat) : Option Instr :=
  if bits w 31 25 = 0 then some (.shli (fld 6 w 19) (fld 6 w 13) (fld 6 w 7))
  else if bits w 31 25 = 32 then some (.shri (fld 6 w 19) (fld 6 w 13) (fld 6 w 7))
  else if bits w 31 25 = 64 then some (.sari (fld 6 w 19) (fld 6 w 13) (fld 6 w 7))
  else if bits w 31 25 = 96 then some (.rori (fld 6 w 19) (fld 6 w 13) (fld 6 w 7))
  else none

/-- The words of major 0x07 (R68). -/
noncomputable def decodeMajor07 (w : Nat) : Option Instr :=
  if bits w 31 29 = 0 then some (.seqi (fld 10 w 19) (fld 6 w 13) (fld 6 w 7))
  else if bits w 31 29 = 1 then some (.snei (fld 10 w 19) (fld 6 w 13) (fld 6 w 7))
  else if bits w 31 29 = 2 then some (.slti (fld 10 w 19) (fld 6 w 13) (fld 6 w 7))
  else if bits w 31 29 = 3 then some (.sgei (fld 10 w 19) (fld 6 w 13) (fld 6 w 7))
  else if bits w 31 29 = 4 then some (.sltui (fld 10 w 19) (fld 6 w 13) (fld 6 w 7))
  else if bits w 31 29 = 5 then some (.sgeui (fld 10 w 19) (fld 6 w 13) (fld 6 w 7))
  else none

/-- The words of major 0x09 (R68). -/
noncomputable def decodeMajor09 (w : Nat) : Option Instr :=
  some (.liu (fld 19 w 13) (fld 6 w 7))

/-- The words of major 0x0A (R68). -/
noncomputable def decodeMajor0A (w : Nat) : Option Instr :=
  some (.addpc (fld 19 w 13) (fld 6 w 7))

/-- The words of major 0x0B (R68). -/
noncomputable def decodeMajor0B (w : Nat) : Option Instr :=
  if bits w 31 30 = 0 ∧ bits w 18 13 = 0 then some (.lic (fld 7 w 23) (fld 4 w 19) (fld 6 w 7))
  else if bits w 31 30 = 1 then some (.lico (fld 7 w 23) (fld 4 w 19) (fld 6 w 13) (fld 6 w 7))
  else if bits w 31 30 = 2 ∧ bits w 18 13 = 0 then some (.licn (fld 7 w 23) (fld 4 w 19) (fld 6 w 7))
  else none

/-- The words of major 0x20 (R68). -/
noncomputable def decodeMajor20 (w : Nat) : Option Instr :=
  if bits w 21 19 = 0 then some (.beq (fld 10 w 22) (fld 6 w 13) (fld 6 w 7))
  else if bits w 21 19 = 1 then some (.bne (fld 10 w 22) (fld 6 w 13) (fld 6 w 7))
  else if bits w 21 19 = 2 then some (.blt (fld 10 w 22) (fld 6 w 13) (fld 6 w 7))
  else if bits w 21 19 = 3 then some (.bge (fld 10 w 22) (fld 6 w 13) (fld 6 w 7))
  else if bits w 21 19 = 4 then some (.bltu (fld 10 w 22) (fld 6 w 13) (fld 6 w 7))
  else if bits w 21 19 = 5 then some (.bgeu (fld 10 w 22) (fld 6 w 13) (fld 6 w 7))
  else if bits w 21 13 = 384 then some (.bfull (fld 10 w 22) (fld 6 w 7))
  else if bits w 21 13 = 448 then some (.bvoid (fld 10 w 22) (fld 6 w 7))
  else none

/-- The words of major 0x21 (R68). -/
noncomputable def decodeMajor21 (w : Nat) : Option Instr :=
  some (.j (fld 25 w 7))

/-- The words of major 0x22 (R68). -/
noncomputable def decodeMajor22 (w : Nat) : Option Instr :=
  some (.jal (fld 25 w 7))

/-- The words of major 0x23 (R68). -/
noncomputable def decodeMajor23 (w : Nat) : Option Instr :=
  some (.jalr (fld 13 w 19) (fld 6 w 13) (fld 6 w 7))

/-- The words of major 0x24 (R68). -/
noncomputable def decodeMajor24 (w : Nat) : Option Instr :=
  if bits w 12 7 = 0 then some (.loop (fld 13 w 19) (fld 6 w 13))
  else none

/-- The words of major 0x25 (R68). -/
noncomputable def decodeMajor25 (w : Nat) : Option Instr :=
  if bits w 31 25 = 0 then some (.spawn (fld 18 w 7))
  else if bits w 31 7 = 262144 then some (.join)
  else if bits w 31 7 = 524288 then some (.exit)
  else if bits w 31 13 = 16384 then some (.expect (fld 6 w 7))
  else if bits w 31 9 = 327680 then some (.expectm (fld 2 w 7))
  else if bits w 31 11 = 98304 then some (.expectv (fld 4 w 7))
  else if bits w 31 10 = 229376 then some (.expectc (fld 3 w 7))
  else if bits w 31 13 = 32768 then some (.qslot (fld 6 w 7))
  else if bits w 31 13 = 36864 then some (.qdeq (fld 6 w 7))
  else if bits w 31 13 = 40960 then some (.qlink (fld 6 w 7))
  else none

/-- The words of major 0x28 (R68). -/
noncomputable def decodeMajor28 (w : Nat) : Option Instr :=
  if bits w 31 30 = 0 ∧ bits w 28 25 = 0 then some (.fadd (fld 1 w 29) (fld 6 w 19) (fld 6 w 13) (fld 6 w 7))
  else if bits w 31 30 = 0 ∧ bits w 28 25 = 1 then some (.fsub (fld 1 w 29) (fld 6 w 19) (fld 6 w 13) (fld 6 w 7))
  else if bits w 31 30 = 0 ∧ bits w 28 25 = 2 then some (.fmul (fld 1 w 29) (fld 6 w 19) (fld 6 w 13) (fld 6 w 7))
  else if bits w 31 30 = 0 ∧ bits w 28 25 = 3 then some (.fdiv (fld 1 w 29) (fld 6 w 19) (fld 6 w 13) (fld 6 w 7))
  else if bits w 31 30 = 0 ∧ bits w 28 19 = 256 then some (.fsqrt (fld 1 w 29) (fld 6 w 13) (fld 6 w 7))
  else if bits w 31 30 = 0 ∧ bits w 28 25 = 5 then some (.fmin (fld 1 w 29) (fld 6 w 19) (fld 6 w 13) (fld 6 w 7))
  else if bits w 31 30 = 0 ∧ bits w 28 25 = 6 then some (.fmax (fld 1 w 29) (fld 6 w 19) (fld 6 w 13) (fld 6 w 7))
  else if bits w 31 30 = 0 ∧ bits w 28 25 = 7 then some (.fsgnj (fld 1 w 29) (fld 6 w 19) (fld 6 w 13) (fld 6 w 7))
  else if bits w 31 30 = 0 ∧ bits w 28 25 = 8 then some (.fsgnjn (fld 1 w 29) (fld 6 w 19) (fld 6 w 13) (fld 6 w 7))
  else if bits w 31 30 = 0 ∧ bits w 28 25 = 9 then some (.fsgnjx (fld 1 w 29) (fld 6 w 19) (fld 6 w 13) (fld 6 w 7))
  else if bits w 31 30 = 0 ∧ bits w 28 25 = 10 then some (.feq (fld 1 w 29) (fld 6 w 19) (fld 6 w 13) (fld 6 w 7))
  else if bits w 31 30 = 0 ∧ bits w 28 25 = 11 then some (.flt (fld 1 w 29) (fld 6 w 19) (fld 6 w 13) (fld 6 w 7))
  else if bits w 31 30 = 0 ∧ bits w 28 25 = 12 then some (.fle (fld 1 w 29) (fld 6 w 19) (fld 6 w 13) (fld 6 w 7))
  else if bits w 31 30 = 0 ∧ bits w 28 19 = 832 then some (.fclass (fld 1 w 29) (fld 6 w 13) (fld 6 w 7))
  else none

/-- The words of major 0x29 (R68). -/
noncomputable def decodeMajor29 (w : Nat) : Option Instr :=
  some (.fma (fld 1 w 31) (fld 6 w 25) (fld 6 w 19) (fld 6 w 13) (fld 6 w 7))

/-- The words of major 0x2A (R68). -/
noncomputable def decodeMajor2A (w : Nat) : Option Instr :=
  if bits w 31 19 = 0 then some (.fcvtSD (fld 6 w 13) (fld 6 w 7))
  else if bits w 31 19 = 64 then some (.fcvtDS (fld 6 w 13) (fld 6 w 7))
  else if bits w 31 19 = 128 then some (.fcvtSL (fld 6 w 13) (fld 6 w 7))
  else if bits w 31 19 = 192 then some (.fcvtSLu (fld 6 w 13) (fld 6 w 7))
  else if bits w 31 19 = 256 then some (.fcvtDL (fld 6 w 13) (fld 6 w 7))
  else if bits w 31 19 = 320 then some (.fcvtDLu (fld 6 w 13) (fld 6 w 7))
  else if bits w 31 19 = 384 then some (.fcvtLS (fld 6 w 13) (fld 6 w 7))
  else if bits w 31 19 = 448 then some (.fcvtLuS (fld 6 w 13) (fld 6 w 7))
  else if bits w 31 19 = 512 then some (.fcvtLD (fld 6 w 13) (fld 6 w 7))
  else if bits w 31 19 = 576 then some (.fcvtLuD (fld 6 w 13) (fld 6 w 7))
  else if bits w 31 19 = 640 then some (.fcvtWS (fld 6 w 13) (fld 6 w 7))
  else if bits w 31 19 = 704 then some (.fcvtWD (fld 6 w 13) (fld 6 w 7))
  else if bits w 31 19 = 768 then some (.fcvtHS (fld 6 w 13) (fld 6 w 7))
  else if bits w 31 19 = 832 then some (.fcvtSH (fld 6 w 13) (fld 6 w 7))
  else if bits w 31 19 = 896 then some (.fcvtBS (fld 6 w 13) (fld 6 w 7))
  else if bits w 31 19 = 960 then some (.fcvtSB (fld 6 w 13) (fld 6 w 7))
  else none

/-- The words of major 0x10 (R68). -/
noncomputable def decodeMajor10 (w : Nat) : Option Instr :=
  some (.ldb (fld 9 w 23) (fld 2 w 21) (fld 2 w 19) (fld 6 w 13) (fld 6 w 7))

/-- The words of major 0x11 (R68). -/
noncomputable def decodeMajor11 (w : Nat) : Option Instr :=
  some (.ldbu (fld 9 w 23) (fld 2 w 21) (fld 2 w 19) (fld 6 w 13) (fld 6 w 7))

/-- The words of major 0x12 (R68). -/
noncomputable def decodeMajor12 (w : Nat) : Option Instr :=
  some (.ldh (fld 9 w 23) (fld 2 w 21) (fld 2 w 19) (fld 6 w 13) (fld 6 w 7))

/-- The words of major 0x13 (R68). -/
noncomputable def decodeMajor13 (w : Nat) : Option Instr :=
  some (.ldhu (fld 9 w 23) (fld 2 w 21) (fld 2 w 19) (fld 6 w 13) (fld 6 w 7))

/-- The words of major 0x14 (R68). -/
noncomputable def decodeMajor14 (w : Nat) : Option Instr :=
  some (.ldw (fld 9 w 23) (fld 2 w 21) (fld 2 w 19) (fld 6 w 13) (fld 6 w 7))

/-- The words of major 0x15 (R68). -/
noncomputable def decodeMajor15 (w : Nat) : Option Instr :=
  some (.ldwu (fld 9 w 23) (fld 2 w 21) (fld 2 w 19) (fld 6 w 13) (fld 6 w 7))

/-- The words of major 0x16 (R68). -/
noncomputable def decodeMajor16 (w : Nat) : Option Instr :=
  some (.ldd (fld 9 w 23) (fld 2 w 21) (fld 2 w 19) (fld 6 w 13) (fld 6 w 7))

/-- The words of major 0x17 (R68). -/
noncomputable def decodeMajor17 (w : Nat) : Option Instr :=
  some (.stb (fld 9 w 23) (fld 2 w 21) (fld 2 w 19) (fld 6 w 13) (fld 6 w 7))

/-- The words of major 0x18 (R68). -/
noncomputable def decodeMajor18 (w : Nat) : Option Instr :=
  some (.sth (fld 9 w 23) (fld 2 w 21) (fld 2 w 19) (fld 6 w 13) (fld 6 w 7))

/-- The words of major 0x19 (R68). -/
noncomputable def decodeMajor19 (w : Nat) : Option Instr :=
  some (.stw (fld 9 w 23) (fld 2 w 21) (fld 2 w 19) (fld 6 w 13) (fld 6 w 7))

/-- The words of major 0x1A (R68). -/
noncomputable def decodeMajor1A (w : Nat) : Option Instr :=
  some (.std (fld 9 w 23) (fld 2 w 21) (fld 2 w 19) (fld 6 w 13) (fld 6 w 7))

/-- The words of major 0x1B (R68). -/
noncomputable def decodeMajor1B (w : Nat) : Option Instr :=
  if bits w 31 31 = 0 ∧ bits w 28 25 = 0 then some (.ldbx (fld 2 w 29) (fld 6 w 19) (fld 6 w 13) (fld 6 w 7))
  else if bits w 31 31 = 0 ∧ bits w 28 25 = 1 then some (.ldbux (fld 2 w 29) (fld 6 w 19) (fld 6 w 13) (fld 6 w 7))
  else if bits w 31 31 = 0 ∧ bits w 28 25 = 2 then some (.ldhx (fld 2 w 29) (fld 6 w 19) (fld 6 w 13) (fld 6 w 7))
  else if bits w 31 31 = 0 ∧ bits w 28 25 = 3 then some (.ldhux (fld 2 w 29) (fld 6 w 19) (fld 6 w 13) (fld 6 w 7))
  else if bits w 31 31 = 0 ∧ bits w 28 25 = 4 then some (.ldwx (fld 2 w 29) (fld 6 w 19) (fld 6 w 13) (fld 6 w 7))
  else if bits w 31 31 = 0 ∧ bits w 28 25 = 5 then some (.ldwux (fld 2 w 29) (fld 6 w 19) (fld 6 w 13) (fld 6 w 7))
  else if bits w 31 31 = 0 ∧ bits w 28 25 = 6 then some (.lddx (fld 2 w 29) (fld 6 w 19) (fld 6 w 13) (fld 6 w 7))
  else if bits w 31 31 = 0 ∧ bits w 28 25 = 7 then some (.stbx (fld 2 w 29) (fld 6 w 19) (fld 6 w 13) (fld 6 w 7))
  else if bits w 31 31 = 0 ∧ bits w 28 25 = 8 then some (.sthx (fld 2 w 29) (fld 6 w 19) (fld 6 w 13) (fld 6 w 7))
  else if bits w 31 31 = 0 ∧ bits w 28 25 = 9 then some (.stwx (fld 2 w 29) (fld 6 w 19) (fld 6 w 13) (fld 6 w 7))
  else if bits w 31 31 = 0 ∧ bits w 28 25 = 10 then some (.stdx (fld 2 w 29) (fld 6 w 19) (fld 6 w 13) (fld 6 w 7))
  else if bits w 31 27 = 16 ∧ bits w 19 19 = 0 then some (.ldwo (fld 2 w 25) (fld 3 w 22) (fld 2 w 20) (fld 6 w 13) (fld 6 w 7))
  else if bits w 31 27 = 17 ∧ bits w 19 19 = 0 then some (.lddo (fld 2 w 25) (fld 3 w 22) (fld 2 w 20) (fld 6 w 13) (fld 6 w 7))
  else if bits w 31 27 = 18 ∧ bits w 19 19 = 0 then some (.stwo (fld 2 w 25) (fld 3 w 22) (fld 2 w 20) (fld 6 w 13) (fld 6 w 7))
  else if bits w 31 27 = 19 ∧ bits w 19 19 = 0 then some (.stdo (fld 2 w 25) (fld 3 w 22) (fld 2 w 20) (fld 6 w 13) (fld 6 w 7))
  else if bits w 31 19 = 5120 then some (.ldf (fld 6 w 13) (fld 6 w 7))
  else if bits w 31 19 = 5184 then some (.ldtk (fld 6 w 13) (fld 6 w 7))
  else if bits w 31 19 = 5248 then some (.stf (fld 6 w 13) (fld 6 w 7))
  else if bits w 31 19 = 5376 then some (.lres (fld 6 w 13) (fld 6 w 7))
  else if bits w 31 25 = 85 then some (.scond (fld 6 w 19) (fld 6 w 13) (fld 6 w 7))
  else if bits w 31 19 = 5504 then some (.lresAcq (fld 6 w 13) (fld 6 w 7))
  else if bits w 31 25 = 87 then some (.scondRel (fld 6 w 19) (fld 6 w 13) (fld 6 w 7))
  else if bits w 31 19 = 6144 ∧ bits w 12 7 = 0 then some (.cflush (fld 6 w 13))
  else if bits w 31 19 = 6208 ∧ bits w 12 7 = 0 then some (.cwb (fld 6 w 13))
  else if bits w 31 7 = 25690112 then some (.cwball)
  else none

/-- The words of major 0x1C (R68). -/
noncomputable def decodeMajor1C (w : Nat) : Option Instr :=
  if bits w 31 28 = 0 then some (.amoadd (fld 1 w 27) (fld 2 w 25) (fld 6 w 19) (fld 6 w 13) (fld 6 w 7))
  else if bits w 31 28 = 1 then some (.amoand (fld 1 w 27) (fld 2 w 25) (fld 6 w 19) (fld 6 w 13) (fld 6 w 7))
  else if bits w 31 28 = 2 then some (.amoor (fld 1 w 27) (fld 2 w 25) (fld 6 w 19) (fld 6 w 13) (fld 6 w 7))
  else if bits w 31 28 = 3 then some (.amoxor (fld 1 w 27) (fld 2 w 25) (fld 6 w 19) (fld 6 w 13) (fld 6 w 7))
  else if bits w 31 28 = 4 then some (.amomin (fld 1 w 27) (fld 2 w 25) (fld 6 w 19) (fld 6 w 13) (fld 6 w 7))
  else if bits w 31 28 = 5 then some (.amomax (fld 1 w 27) (fld 2 w 25) (fld 6 w 19) (fld 6 w 13) (fld 6 w 7))
  else if bits w 31 28 = 6 then some (.amominu (fld 1 w 27) (fld 2 w 25) (fld 6 w 19) (fld 6 w 13) (fld 6 w 7))
  else if bits w 31 28 = 7 then some (.amomaxu (fld 1 w 27) (fld 2 w 25) (fld 6 w 19) (fld 6 w 13) (fld 6 w 7))
  else if bits w 31 28 = 8 then some (.amoswap (fld 1 w 27) (fld 2 w 25) (fld 6 w 19) (fld 6 w 13) (fld 6 w 7))
  else if bits w 31 28 = 9 then some (.amocas (fld 1 w 27) (fld 2 w 25) (fld 6 w 19) (fld 6 w 13) (fld 6 w 7))
  else none

/-- The words of major 0x1D (R68). -/
noncomputable def decodeMajor1D (w : Nat) : Option Instr :=
  if bits w 31 28 = 0 then some (.famoadd (fld 1 w 27) (fld 2 w 25) (fld 6 w 19) (fld 6 w 13) (fld 6 w 7))
  else if bits w 31 28 = 1 then some (.famomin (fld 1 w 27) (fld 2 w 25) (fld 6 w 19) (fld 6 w 13) (fld 6 w 7))
  else if bits w 31 28 = 2 then some (.famomax (fld 1 w 27) (fld 2 w 25) (fld 6 w 19) (fld 6 w 13) (fld 6 w 7))
  else none

/-- The words of major 0x1E (R68). -/
noncomputable def decodeMajor1E (w : Nat) : Option Instr :=
  if bits w 31 28 = 0 ∧ bits w 24 19 = 0 then some (.ldv (fld 3 w 25) (fld 6 w 13) (fld 6 w 7))
  else if bits w 31 28 = 1 ∧ bits w 24 19 = 0 ∧ bits w 12 11 = 0 then some (.ldvv (fld 3 w 25) (fld 6 w 13) (fld 4 w 7))
  else if bits w 31 28 = 2 then some (.stv (fld 3 w 25) (fld 6 w 19) (fld 6 w 13) (fld 6 w 7))
  else if bits w 31 28 = 3 ∧ bits w 24 7 = 0 then some (.cvclr (fld 3 w 25))
  else if bits w 31 28 = 4 ∧ bits w 24 19 = 0 then some (.reconMin (fld 3 w 25) (fld 6 w 13) (fld 6 w 7))
  else if bits w 31 28 = 5 ∧ bits w 24 19 = 0 then some (.reconMax (fld 3 w 25) (fld 6 w 13) (fld 6 w 7))
  else if bits w 31 28 = 6 ∧ bits w 24 19 = 0 then some (.reconAdd (fld 3 w 25) (fld 6 w 13) (fld 6 w 7))
  else if bits w 31 28 = 7 ∧ bits w 24 19 = 0 then some (.reconOr (fld 3 w 25) (fld 6 w 13) (fld 6 w 7))
  else if bits w 31 28 = 8 ∧ bits w 24 19 = 0 then some (.reconAnd (fld 3 w 25) (fld 6 w 13) (fld 6 w 7))
  else if bits w 31 28 = 9 ∧ bits w 24 19 = 0 then some (.reconLowest (fld 3 w 25) (fld 6 w 13) (fld 6 w 7))
  else if bits w 31 28 = 10 ∧ bits w 24 19 = 0 then some (.reconHighest (fld 3 w 25) (fld 6 w 13) (fld 6 w 7))
  else if bits w 31 28 = 11 then some (.reconValue (fld 3 w 25) (fld 6 w 19) (fld 6 w 13) (fld 6 w 7))
  else if bits w 31 25 = 96 ∧ bits w 12 7 = 0 then some (.redW (fld 6 w 19) (fld 6 w 13))
  else if bits w 31 25 = 97 ∧ bits w 12 7 = 0 then some (.redD (fld 6 w 19) (fld 6 w 13))
  else none

/-- The words of major 0x1F (R68). -/
noncomputable def decodeMajor1F (w : Nat) : Option Instr :=
  if bits w 31 28 = 0 ∧ bits w 24 7 = 0 then some (.fence (fld 3 w 25))
  else if bits w 31 28 = 1 ∧ bits w 24 7 = 0 then some (.fenceAcq (fld 3 w 25))
  else if bits w 31 28 = 2 ∧ bits w 24 7 = 0 then some (.fenceRel (fld 3 w 25))
  else if bits w 31 28 = 3 ∧ bits w 24 19 = 0 then some (.bara (fld 3 w 25) (fld 6 w 13) (fld 6 w 7))
  else if bits w 31 28 = 4 ∧ bits w 12 7 = 0 then some (.barw (fld 3 w 25) (fld 6 w 19) (fld 6 w 13))
  else if bits w 31 28 = 5 ∧ bits w 12 7 = 0 then some (.belladd (fld 3 w 25) (fld 6 w 19) (fld 6 w 13))
  else if bits w 31 28 = 6 ∧ bits w 12 7 = 0 then some (.bellwait (fld 3 w 25) (fld 6 w 19) (fld 6 w 13))
  else if bits w 31 7 = 14680064 then some (.waitres)
  else none

/-- The words of major 0x27 (R68). -/
noncomputable def decodeMajor27 (w : Nat) : Option Instr :=
  if bits w 31 31 = 0 then some (.waitk (fld 6 w 25) (fld 6 w 19) (fld 6 w 13) (fld 6 w 7))
  else none

/-- The words of major 0x30 (R68). -/
noncomputable def decodeMajor30 (w : Nat) : Option Instr :=
  if bits w 31 25 = 0 ∧ bits w 12 11 = 0 then some (.vadd (fld 4 w 21) (fld 4 w 17) (fld 3 w 14) (fld 1 w 13) (fld 4 w 7))
  else if bits w 31 25 = 1 ∧ bits w 12 11 = 0 then some (.vsub (fld 4 w 21) (fld 4 w 17) (fld 3 w 14) (fld 1 w 13) (fld 4 w 7))
  else if bits w 31 25 = 2 ∧ bits w 12 11 = 0 then some (.vmul (fld 4 w 21) (fld 4 w 17) (fld 3 w 14) (fld 1 w 13) (fld 4 w 7))
  else if bits w 31 25 = 3 ∧ bits w 12 11 = 0 then some (.vmulh (fld 4 w 21) (fld 4 w 17) (fld 3 w 14) (fld 1 w 13) (fld 4 w 7))
  else if bits w 31 25 = 4 ∧ bits w 12 11 = 0 then some (.vmulhu (fld 4 w 21) (fld 4 w 17) (fld 3 w 14) (fld 1 w 13) (fld 4 w 7))
  else if bits w 31 25 = 5 ∧ bits w 12 11 = 0 then some (.vmin (fld 4 w 21) (fld 4 w 17) (fld 3 w 14) (fld 1 w 13) (fld 4 w 7))
  else if bits w 31 25 = 6 ∧ bits w 12 11 = 0 then some (.vmax (fld 4 w 21) (fld 4 w 17) (fld 3 w 14) (fld 1 w 13) (fld 4 w 7))
  else if bits w 31 25 = 7 ∧ bits w 12 11 = 0 then some (.vminu (fld 4 w 21) (fld 4 w 17) (fld 3 w 14) (fld 1 w 13) (fld 4 w 7))
  else if bits w 31 25 = 8 ∧ bits w 12 11 = 0 then some (.vmaxu (fld 4 w 21) (fld 4 w 17) (fld 3 w 14) (fld 1 w 13) (fld 4 w 7))
  else if bits w 31 25 = 9 ∧ bits w 12 11 = 0 then some (.vand (fld 4 w 21) (fld 4 w 17) (fld 3 w 14) (fld 1 w 13) (fld 4 w 7))
  else if bits w 31 25 = 10 ∧ bits w 12 11 = 0 then some (.vor (fld 4 w 21) (fld 4 w 17) (fld 3 w 14) (fld 1 w 13) (fld 4 w 7))
  else if bits w 31 25 = 11 ∧ bits w 12 11 = 0 then some (.vxor (fld 4 w 21) (fld 4 w 17) (fld 3 w 14) (fld 1 w 13) (fld 4 w 7))
  else if bits w 31 25 = 12 ∧ bits w 12 11 = 0 then some (.vandn (fld 4 w 21) (fld 4 w 17) (fld 3 w 14) (fld 1 w 13) (fld 4 w 7))
  else if bits w 31 25 = 13 ∧ bits w 12 11 = 0 then some (.vshl (fld 4 w 21) (fld 4 w 17) (fld 3 w 14) (fld 1 w 13) (fld 4 w 7))
  else if bits w 31 25 = 14 ∧ bits w 12 11 = 0 then some (.vshr (fld 4 w 21) (fld 4 w 17) (fld 3 w 14) (fld 1 w 13) (fld 4 w 7))
  else if bits w 31 25 = 15 ∧ bits w 12 11 = 0 then some (.vsar (fld 4 w 21) (fld 4 w 17) (fld 3 w 14) (fld 1 w 13) (fld 4 w 7))
  else if bits w 31 25 = 16 ∧ bits w 12 11 = 0 then some (.vaddsat (fld 4 w 21) (fld 4 w 17) (fld 3 w 14) (fld 1 w 13) (fld 4 w 7))
  else if bits w 31 25 = 17 ∧ bits w 12 11 = 0 then some (.vsubsat (fld 4 w 21) (fld 4 w 17) (fld 3 w 14) (fld 1 w 13) (fld 4 w 7))
  else if bits w 31 21 = 288 ∧ bits w 12 11 = 0 then some (.vabs (fld 4 w 17) (fld 3 w 14) (fld 1 w 13) (fld 4 w 7))
  else if bits w 31 21 = 304 ∧ bits w 12 11 = 0 then some (.vmov (fld 4 w 17) (fld 3 w 14) (fld 1 w 13) (fld 4 w 7))
  else if bits w 31 25 = 32 ∧ bits w 12 11 = 0 then some (.vfadd (fld 4 w 21) (fld 4 w 17) (fld 3 w 14) (fld 1 w 13) (fld 4 w 7))
  else if bits w 31 25 = 33 ∧ bits w 12 11 = 0 then some (.vfsub (fld 4 w 21) (fld 4 w 17) (fld 3 w 14) (fld 1 w 13) (fld 4 w 7))
  else if bits w 31 25 = 34 ∧ bits w 12 11 = 0 then some (.vfmul (fld 4 w 21) (fld 4 w 17) (fld 3 w 14) (fld 1 w 13) (fld 4 w 7))
  else if bits w 31 25 = 35 ∧ bits w 12 11 = 0 then some (.vfmin (fld 4 w 21) (fld 4 w 17) (fld 3 w 14) (fld 1 w 13) (fld 4 w 7))
  else if bits w 31 25 = 36 ∧ bits w 12 11 = 0 then some (.vfmax (fld 4 w 21) (fld 4 w 17) (fld 3 w 14) (fld 1 w 13) (fld 4 w 7))
  else if bits w 31 21 = 592 ∧ bits w 12 11 = 0 then some (.vfabs (fld 4 w 17) (fld 3 w 14) (fld 1 w 13) (fld 4 w 7))
  else if bits w 31 21 = 608 ∧ bits w 12 11 = 0 then some (.vfneg (fld 4 w 17) (fld 3 w 14) (fld 1 w 13) (fld 4 w 7))
  else if bits w 31 25 = 64 then some (.vadds (fld 6 w 19) (fld 4 w 15) (fld 3 w 12) (fld 1 w 11) (fld 4 w 7))
  else if bits w 31 25 = 65 then some (.vsubs (fld 6 w 19) (fld 4 w 15) (fld 3 w 12) (fld 1 w 11) (fld 4 w 7))
  else if bits w 31 25 = 66 then some (.vmuls (fld 6 w 19) (fld 4 w 15) (fld 3 w 12) (fld 1 w 11) (fld 4 w 7))
  else if bits w 31 25 = 67 then some (.vmulhs (fld 6 w 19) (fld 4 w 15) (fld 3 w 12) (fld 1 w 11) (fld 4 w 7))
  else if bits w 31 25 = 68 then some (.vmulhus (fld 6 w 19) (fld 4 w 15) (fld 3 w 12) (fld 1 w 11) (fld 4 w 7))
  else if bits w 31 25 = 69 then some (.vmins (fld 6 w 19) (fld 4 w 15) (fld 3 w 12) (fld 1 w 11) (fld 4 w 7))
  else if bits w 31 25 = 70 then some (.vmaxs (fld 6 w 19) (fld 4 w 15) (fld 3 w 12) (fld 1 w 11) (fld 4 w 7))
  else if bits w 31 25 = 71 then some (.vminus (fld 6 w 19) (fld 4 w 15) (fld 3 w 12) (fld 1 w 11) (fld 4 w 7))
  else if bits w 31 25 = 72 then some (.vmaxus (fld 6 w 19) (fld 4 w 15) (fld 3 w 12) (fld 1 w 11) (fld 4 w 7))
  else if bits w 31 25 = 73 then some (.vands (fld 6 w 19) (fld 4 w 15) (fld 3 w 12) (fld 1 w 11) (fld 4 w 7))
  else if bits w 31 25 = 74 then some (.vors (fld 6 w 19) (fld 4 w 15) (fld 3 w 12) (fld 1 w 11) (fld 4 w 7))
  else if bits w 31 25 = 75 then some (.vxors (fld 6 w 19) (fld 4 w 15) (fld 3 w 12) (fld 1 w 11) (fld 4 w 7))
  else if bits w 31 25 = 76 then some (.vandns (fld 6 w 19) (fld 4 w 15) (fld 3 w 12) (fld 1 w 11) (fld 4 w 7))
  else if bits w 31 25 = 77 then some (.vshls (fld 6 w 19) (fld 4 w 15) (fld 3 w 12) (fld 1 w 11) (fld 4 w 7))
  else if bits w 31 25 = 78 then some (.vshrs (fld 6 w 19) (fld 4 w 15) (fld 3 w 12) (fld 1 w 11) (fld 4 w 7))
  else if bits w 31 25 = 79 then some (.vsars (fld 6 w 19) (fld 4 w 15) (fld 3 w 12) (fld 1 w 11) (fld 4 w 7))
  else if bits w 31 25 = 80 then some (.vaddsats (fld 6 w 19) (fld 4 w 15) (fld 3 w 12) (fld 1 w 11) (fld 4 w 7))
  else if bits w 31 25 = 81 then some (.vsubsats (fld 6 w 19) (fld 4 w 15) (fld 3 w 12) (fld 1 w 11) (fld 4 w 7))
  else if bits w 31 25 = 96 then some (.vfadds (fld 6 w 19) (fld 4 w 15) (fld 3 w 12) (fld 1 w 11) (fld 4 w 7))
  else if bits w 31 25 = 97 then some (.vfsubs (fld 6 w 19) (fld 4 w 15) (fld 3 w 12) (fld 1 w 11) (fld 4 w 7))
  else if bits w 31 25 = 98 then some (.vfmuls (fld 6 w 19) (fld 4 w 15) (fld 3 w 12) (fld 1 w 11) (fld 4 w 7))
  else if bits w 31 25 = 99 then some (.vfmins (fld 6 w 19) (fld 4 w 15) (fld 3 w 12) (fld 1 w 11) (fld 4 w 7))
  else if bits w 31 25 = 100 then some (.vfmaxs (fld 6 w 19) (fld 4 w 15) (fld 3 w 12) (fld 1 w 11) (fld 4 w 7))
  else none

/-- The words of major 0x31 (R68). -/
noncomputable def decodeMajor31 (w : Nat) : Option Instr :=
  if bits w 31 25 = 0 ∧ bits w 12 11 = 0 then some (.vfma (fld 4 w 21) (fld 4 w 17) (fld 3 w 14) (fld 1 w 13) (fld 4 w 7))
  else if bits w 31 25 = 1 ∧ bits w 12 11 = 0 then some (.vfms (fld 4 w 21) (fld 4 w 17) (fld 3 w 14) (fld 1 w 13) (fld 4 w 7))
  else if bits w 31 25 = 2 ∧ bits w 12 11 = 0 then some (.vfnma (fld 4 w 21) (fld 4 w 17) (fld 3 w 14) (fld 1 w 13) (fld 4 w 7))
  else if bits w 31 25 = 3 ∧ bits w 12 11 = 0 then some (.vfnms (fld 4 w 21) (fld 4 w 17) (fld 3 w 14) (fld 1 w 13) (fld 4 w 7))
  else if bits w 31 25 = 8 ∧ bits w 12 11 = 0 then some (.vmad (fld 4 w 21) (fld 4 w 17) (fld 3 w 14) (fld 1 w 13) (fld 4 w 7))
  else if bits w 31 25 = 9 ∧ bits w 12 11 = 0 then some (.vdot4i8 (fld 4 w 21) (fld 4 w 17) (fld 3 w 14) (fld 1 w 13) (fld 4 w 7))
  else if bits w 31 25 = 64 then some (.vfmas (fld 6 w 19) (fld 4 w 15) (fld 3 w 12) (fld 1 w 11) (fld 4 w 7))
  else if bits w 31 25 = 65 then some (.vfmss (fld 6 w 19) (fld 4 w 15) (fld 3 w 12) (fld 1 w 11) (fld 4 w 7))
  else if bits w 31 25 = 66 then some (.vfnmas (fld 6 w 19) (fld 4 w 15) (fld 3 w 12) (fld 1 w 11) (fld 4 w 7))
  else if bits w 31 25 = 67 then some (.vfnmss (fld 6 w 19) (fld 4 w 15) (fld 3 w 12) (fld 1 w 11) (fld 4 w 7))
  else if bits w 31 25 = 72 then some (.vmads (fld 6 w 19) (fld 4 w 15) (fld 3 w 12) (fld 1 w 11) (fld 4 w 7))
  else if bits w 31 25 = 73 then some (.vdot4i8s (fld 6 w 19) (fld 4 w 15) (fld 3 w 12) (fld 1 w 11) (fld 4 w 7))
  else none

/-- The words of major 0x35 (R68). -/
noncomputable def decodeMajor35 (w : Nat) : Option Instr :=
  if bits w 31 29 = 0 ∧ bits w 12 10 = 0 then some (.vcmp (fld 4 w 25) (fld 4 w 21) (fld 4 w 17) (fld 3 w 14) (fld 1 w 13) (fld 3 w 7))
  else if bits w 31 29 = 4 ∧ bits w 10 10 = 0 then some (.vcmps (fld 4 w 25) (fld 6 w 19) (fld 4 w 15) (fld 3 w 12) (fld 1 w 11) (fld 3 w 7))
  else none

/-- The words of major 0x32 (R68). -/
noncomputable def decodeMajor32 (w : Nat) : Option Instr :=
  if bits w 31 31 = 0 ∧ bits w 28 25 = 0 ∧ bits w 18 15 = 0 then some (.vld (fld 2 w 29) (fld 6 w 19) (fld 3 w 12) (fld 1 w 11) (fld 4 w 7))
  else if bits w 31 31 = 0 ∧ bits w 28 25 = 1 ∧ bits w 18 15 = 0 then some (.vst (fld 2 w 29) (fld 6 w 19) (fld 3 w 12) (fld 1 w 11) (fld 4 w 7))
  else if bits w 31 31 = 0 ∧ bits w 28 25 = 2 then some (.vgath (fld 2 w 29) (fld 6 w 19) (fld 4 w 15) (fld 3 w 12) (fld 1 w 11) (fld 4 w 7))
  else if bits w 31 31 = 0 ∧ bits w 28 25 = 3 then some (.vscat (fld 2 w 29) (fld 6 w 19) (fld 4 w 15) (fld 3 w 12) (fld 1 w 11) (fld 4 w 7))
  else if bits w 31 25 = 4 ∧ bits w 18 15 = 0 then some (.vlds (fld 6 w 19) (fld 3 w 12) (fld 1 w 11) (fld 4 w 7))
  else if bits w 31 25 = 5 ∧ bits w 18 15 = 0 then some (.vsts (fld 6 w 19) (fld 3 w 12) (fld 1 w 11) (fld 4 w 7))
  else if bits w 31 25 = 6 then some (.vldsx (fld 6 w 19) (fld 4 w 15) (fld 3 w 12) (fld 1 w 11) (fld 4 w 7))
  else if bits w 31 25 = 7 then some (.vstsx (fld 6 w 19) (fld 4 w 15) (fld 3 w 12) (fld 1 w 11) (fld 4 w 7))
  else none

/-- The words of major 0x33 (R68). -/
noncomputable def decodeMajor33 (w : Nat) : Option Instr :=
  if bits w 31 25 = 0 ∧ bits w 11 7 = 0 then some (.vredadd (fld 6 w 19) (fld 4 w 15) (fld 3 w 12))
  else if bits w 31 25 = 1 ∧ bits w 11 7 = 0 then some (.vredmin (fld 6 w 19) (fld 4 w 15) (fld 3 w 12))
  else if bits w 31 25 = 2 ∧ bits w 11 7 = 0 then some (.vredmax (fld 6 w 19) (fld 4 w 15) (fld 3 w 12))
  else if bits w 31 25 = 3 ∧ bits w 11 7 = 0 then some (.vredminu (fld 6 w 19) (fld 4 w 15) (fld 3 w 12))
  else if bits w 31 25 = 4 ∧ bits w 11 7 = 0 then some (.vredmaxu (fld 6 w 19) (fld 4 w 15) (fld 3 w 12))
  else if bits w 31 25 = 5 ∧ bits w 11 7 = 0 then some (.vredor (fld 6 w 19) (fld 4 w 15) (fld 3 w 12))
  else if bits w 31 25 = 6 ∧ bits w 11 7 = 0 then some (.vredand (fld 6 w 19) (fld 4 w 15) (fld 3 w 12))
  else if bits w 31 25 = 8 ∧ bits w 11 7 = 0 then some (.vredfadd (fld 6 w 19) (fld 4 w 15) (fld 3 w 12))
  else if bits w 31 25 = 9 ∧ bits w 11 7 = 0 then some (.vredfmin (fld 6 w 19) (fld 4 w 15) (fld 3 w 12))
  else if bits w 31 25 = 10 ∧ bits w 11 7 = 0 then some (.vredfmax (fld 6 w 19) (fld 4 w 15) (fld 3 w 12))
  else if bits w 31 25 = 16 ∧ bits w 18 15 = 0 then some (.vbcast (fld 6 w 19) (fld 3 w 12) (fld 1 w 11) (fld 4 w 7))
  else if bits w 31 25 = 17 ∧ bits w 11 7 = 0 then some (.vext (fld 6 w 19) (fld 4 w 15) (fld 3 w 12))
  else if bits w 31 25 = 18 ∧ bits w 12 11 = 0 then some (.vperm (fld 4 w 21) (fld 4 w 17) (fld 3 w 14) (fld 1 w 13) (fld 4 w 7))
  else if bits w 31 25 = 19 then some (.vrotl (fld 6 w 19) (fld 4 w 15) (fld 3 w 12) (fld 1 w 11) (fld 4 w 7))
  else if bits w 31 21 = 320 ∧ bits w 13 11 = 0 then some (.vcomp (fld 4 w 17) (fld 3 w 14) (fld 4 w 7))
  else if bits w 31 17 = 5376 ∧ bits w 12 11 = 0 then some (.viota (fld 3 w 14) (fld 1 w 13) (fld 4 w 7))
  else if bits w 31 22 = 256 ∧ bits w 18 16 = 0 ∧ bits w 12 10 = 0 then some (.kand (fld 3 w 19) (fld 3 w 13) (fld 3 w 7))
  else if bits w 31 22 = 264 ∧ bits w 18 16 = 0 ∧ bits w 12 10 = 0 then some (.kor (fld 3 w 19) (fld 3 w 13) (fld 3 w 7))
  else if bits w 31 22 = 272 ∧ bits w 18 16 = 0 ∧ bits w 12 10 = 0 then some (.kxor (fld 3 w 19) (fld 3 w 13) (fld 3 w 7))
  else if bits w 31 22 = 280 ∧ bits w 18 16 = 0 ∧ bits w 12 10 = 0 then some (.kandn (fld 3 w 19) (fld 3 w 13) (fld 3 w 7))
  else if bits w 31 16 = 18432 ∧ bits w 12 10 = 0 then some (.knot (fld 3 w 13) (fld 3 w 7))
  else if bits w 31 19 = 2368 ∧ bits w 12 10 = 0 then some (.kmovg (fld 6 w 13) (fld 3 w 7))
  else if bits w 31 16 = 19456 then some (.krd (fld 3 w 13) (fld 6 w 7))
  else if bits w 31 16 = 19968 then some (.kpopc (fld 3 w 13) (fld 6 w 7))
  else if bits w 31 16 = 20480 then some (.kfirst (fld 3 w 13) (fld 6 w 7))
  else none

/-- The words of major 0x34 (R68). -/
noncomputable def decodeMajor34 (w : Nat) : Option Instr :=
  if bits w 31 21 = 0 ∧ bits w 12 11 = 0 then some (.vcvtfi (fld 4 w 17) (fld 3 w 14) (fld 1 w 13) (fld 4 w 7))
  else if bits w 31 21 = 16 ∧ bits w 12 11 = 0 then some (.vcvtif (fld 4 w 17) (fld 3 w 14) (fld 1 w 13) (fld 4 w 7))
  else if bits w 31 21 = 32 ∧ bits w 12 11 = 0 then some (.vcvtuf (fld 4 w 17) (fld 3 w 14) (fld 1 w 13) (fld 4 w 7))
  else if bits w 31 21 = 48 ∧ bits w 12 11 = 0 then some (.vcvtfu (fld 4 w 17) (fld 3 w 14) (fld 1 w 13) (fld 4 w 7))
  else if bits w 31 28 = 1 ∧ bits w 12 11 = 0 then some (.vpack (fld 3 w 25) (fld 4 w 21) (fld 4 w 17) (fld 3 w 14) (fld 1 w 13) (fld 4 w 7))
  else if bits w 31 28 = 2 ∧ bits w 12 11 = 0 then some (.vunpk (fld 3 w 25) (fld 4 w 21) (fld 4 w 17) (fld 3 w 14) (fld 1 w 13) (fld 4 w 7))
  else if bits w 31 25 = 32 then some (.vcbd (fld 6 w 19) (fld 4 w 15) (fld 3 w 12) (fld 1 w 11) (fld 4 w 7))
  else if bits w 31 25 = 33 then some (.vcbdi (fld 6 w 19) (fld 4 w 15) (fld 3 w 12) (fld 1 w 11) (fld 4 w 7))
  else if bits w 31 25 = 48 then some (.wing (fld 6 w 19) (fld 6 w 13) (fld 6 w 7))
  else if bits w 31 25 = 49 then some (.vwing (fld 6 w 19) (fld 4 w 15) (fld 3 w 12) (fld 1 w 11) (fld 4 w 7))
  else none

/-- The words of major 0x38 (R68). -/
noncomputable def decodeMajor38 (w : Nat) : Option Instr :=
  if bits w 31 21 = 0 ∧ bits w 18 15 = 0 ∧ bits w 12 9 = 0 then some (.mand (fld 2 w 19) (fld 2 w 13) (fld 2 w 7))
  else if bits w 31 21 = 16 ∧ bits w 18 15 = 0 ∧ bits w 12 9 = 0 then some (.mor (fld 2 w 19) (fld 2 w 13) (fld 2 w 7))
  else if bits w 31 21 = 32 ∧ bits w 18 15 = 0 ∧ bits w 12 9 = 0 then some (.mxor (fld 2 w 19) (fld 2 w 13) (fld 2 w 7))
  else if bits w 31 21 = 48 ∧ bits w 18 15 = 0 ∧ bits w 12 9 = 0 then some (.mandn (fld 2 w 19) (fld 2 w 13) (fld 2 w 7))
  else if bits w 31 15 = 4096 ∧ bits w 12 9 = 0 then some (.mnot (fld 2 w 13) (fld 2 w 7))
  else if bits w 31 15 = 5120 ∧ bits w 12 9 = 0 then some (.mmov (fld 2 w 13) (fld 2 w 7))
  else if bits w 31 9 = 393216 then some (.mclr (fld 2 w 7))
  else if bits w 31 19 = 448 ∧ bits w 12 9 = 0 then some (.mfill (fld 6 w 13) (fld 2 w 7))
  else if bits w 31 19 = 512 ∧ bits w 12 9 = 0 then some (.mbset (fld 6 w 13) (fld 2 w 7))
  else if bits w 31 19 = 576 ∧ bits w 12 9 = 0 then some (.mbclr (fld 6 w 13) (fld 2 w 7))
  else if bits w 31 25 = 10 ∧ bits w 18 15 = 0 then some (.mbtst (fld 6 w 19) (fld 2 w 13) (fld 6 w 7))
  else if bits w 31 15 = 11264 then some (.mpopc (fld 2 w 13) (fld 6 w 7))
  else if bits w 31 15 = 12288 then some (.mfirst (fld 2 w 13) (fld 6 w 7))
  else if bits w 31 25 = 13 ∧ bits w 18 15 = 0 then some (.mnext (fld 6 w 19) (fld 2 w 13) (fld 6 w 7))
  else if bits w 31 25 = 14 ∧ bits w 18 15 = 0 then some (.mgetw (fld 6 w 19) (fld 2 w 13) (fld 6 w 7))
  else if bits w 31 25 = 15 ∧ bits w 12 9 = 0 then some (.mputw (fld 6 w 19) (fld 6 w 13) (fld 2 w 7))
  else if bits w 31 19 = 1024 ∧ bits w 12 9 = 0 then some (.mld (fld 6 w 13) (fld 2 w 7))
  else if bits w 31 21 = 272 ∧ bits w 12 7 = 0 then some (.mst (fld 2 w 19) (fld 6 w 13))
  else none

/-- The words of major 0x39 (R68). -/
noncomputable def decodeMajor39 (w : Nat) : Option Instr :=
  if bits w 31 21 = 0 then some (.stand (fld 2 w 19) (fld 6 w 13) (fld 6 w 7))
  else if bits w 31 19 = 64 ∧ bits w 12 7 = 0 then some (.leave (fld 6 w 13))
  else if bits w 31 25 = 2 then some (.split (fld 2 w 23) (fld 2 w 21) (fld 14 w 7))
  else if bits w 31 25 = 8 then some (.qld (fld 6 w 19) (fld 6 w 13) (fld 6 w 7))
  else if bits w 31 25 = 9 then some (.qldd (fld 6 w 19) (fld 6 w 13) (fld 6 w 7))
  else if bits w 31 25 = 10 then some (.qst (fld 6 w 19) (fld 6 w 13) (fld 6 w 7))
  else if bits w 31 25 = 11 then some (.qstd (fld 6 w 19) (fld 6 w 13) (fld 6 w 7))
  else if bits w 31 29 = 1 ∧ bits w 14 13 = 0 then some (.qeval (fld 4 w 25) (fld 6 w 19) (fld 2 w 17) (fld 2 w 15) (fld 6 w 7))
  else none

/-- The words of major 0x3A (R68). -/
noncomputable def decodeMajor3A (w : Nat) : Option Instr :=
  if bits w 31 25 = 0 ∧ bits w 18 13 = 0 then some (.cpy (fld 3 w 22) (fld 1 w 21) (fld 1 w 20) (fld 1 w 19) (fld 6 w 7))
  else if bits w 31 25 = 1 ∧ bits w 18 13 = 0 then some (.cpyg (fld 3 w 22) (fld 1 w 21) (fld 1 w 20) (fld 1 w 19) (fld 6 w 7))
  else if bits w 31 25 = 2 ∧ bits w 18 13 = 0 then some (.mcpost (fld 3 w 22) (fld 1 w 21) (fld 1 w 20) (fld 1 w 19) (fld 6 w 7))
  else if bits w 31 25 = 64 then some (.ttset (fld 6 w 19) (fld 6 w 13) (fld 6 w 7))
  else if bits w 31 19 = 4160 ∧ bits w 12 7 = 0 then some (.tqadd (fld 6 w 13))
  else if bits w 31 25 = 66 ∧ bits w 12 7 = 0 then some (.accsv (fld 6 w 19) (fld 6 w 13))
  else if bits w 31 25 = 67 ∧ bits w 12 7 = 0 then some (.accsvk (fld 6 w 19) (fld 6 w 13))
  else if bits w 31 25 = 68 ∧ bits w 12 7 = 0 then some (.accld (fld 6 w 19) (fld 6 w 13))
  else none

/-- The words of major 0x3B (R68). -/
noncomputable def decodeMajor3B (w : Nat) : Option Instr :=
  if bits w 31 31 = 0 then some (.send (fld 2 w 29) (fld 4 w 25) (fld 6 w 19) (fld 6 w 13) (fld 6 w 7))
  else if bits w 31 7 = 16777216 then some (.amret)
  else if bits w 31 25 = 65 then some (.rfill (fld 6 w 19) (fld 6 w 13) (fld 6 w 7))
  else if bits w 31 21 = 1056 then some (.rfillm (fld 2 w 19) (fld 6 w 13) (fld 6 w 7))
  else if bits w 31 23 = 268 then some (.rfillv (fld 4 w 19) (fld 6 w 13) (fld 6 w 7))
  else if bits w 31 22 = 544 then some (.rfillc (fld 3 w 19) (fld 6 w 13) (fld 6 w 7))
  else if bits w 31 25 = 72 then some (.lturn (fld 6 w 19) (fld 6 w 13) (fld 6 w 7))
  else none

/-- The words of major 0x3C (R68). -/
noncomputable def decodeMajor3C (w : Nat) : Option Instr :=
  if bits w 31 25 = 0 then some (.rds (fld 12 w 13) (fld 6 w 7))
  else if bits w 31 25 = 1 then some (.wrs (fld 12 w 13) (fld 6 w 7))
  else if bits w 31 13 = 8192 then some (.rdts (fld 6 w 7))
  else if bits w 31 19 = 192 ∧ bits w 12 7 = 0 then some (.logmark (fld 6 w 13))
  else if bits w 31 25 = 8 ∧ bits w 12 7 = 0 then some (.trap (fld 12 w 13))
  else if bits w 31 7 = 2359296 then some (.brk)
  else if bits w 31 7 = 2621440 then some (.rtt)
  else if bits w 31 7 = 2883584 then some (.icinv)
  else if bits w 31 19 = 1024 ∧ bits w 12 7 = 0 then some (.plbinv (fld 6 w 13))
  else if bits w 31 7 = 4456448 then some (.halt)
  else if bits w 31 25 = 18 ∧ bits w 12 7 = 0 then some (.evsig (fld 6 w 19) (fld 6 w 13))
  else none

/-- The 32-bit instructions, by major opcode (R68). -/
noncomputable def decode32 (w : Nat) : Option Instr :=
  if bits w 6 0 = 1 then decodeMajor00 w
  else if bits w 6 0 = 3 then decodeMajor01 w
  else if bits w 6 0 = 5 then decodeMajor02 w
  else if bits w 6 0 = 7 then decodeMajor03 w
  else if bits w 6 0 = 9 then decodeMajor04 w
  else if bits w 6 0 = 11 then decodeMajor05 w
  else if bits w 6 0 = 17 then decodeMajor08 w
  else if bits w 6 0 = 13 then decodeMajor06 w
  else if bits w 6 0 = 15 then decodeMajor07 w
  else if bits w 6 0 = 19 then decodeMajor09 w
  else if bits w 6 0 = 21 then decodeMajor0A w
  else if bits w 6 0 = 23 then decodeMajor0B w
  else if bits w 6 0 = 65 then decodeMajor20 w
  else if bits w 6 0 = 67 then decodeMajor21 w
  else if bits w 6 0 = 69 then decodeMajor22 w
  else if bits w 6 0 = 71 then decodeMajor23 w
  else if bits w 6 0 = 73 then decodeMajor24 w
  else if bits w 6 0 = 75 then decodeMajor25 w
  else if bits w 6 0 = 81 then decodeMajor28 w
  else if bits w 6 0 = 83 then decodeMajor29 w
  else if bits w 6 0 = 85 then decodeMajor2A w
  else if bits w 6 0 = 33 then decodeMajor10 w
  else if bits w 6 0 = 35 then decodeMajor11 w
  else if bits w 6 0 = 37 then decodeMajor12 w
  else if bits w 6 0 = 39 then decodeMajor13 w
  else if bits w 6 0 = 41 then decodeMajor14 w
  else if bits w 6 0 = 43 then decodeMajor15 w
  else if bits w 6 0 = 45 then decodeMajor16 w
  else if bits w 6 0 = 47 then decodeMajor17 w
  else if bits w 6 0 = 49 then decodeMajor18 w
  else if bits w 6 0 = 51 then decodeMajor19 w
  else if bits w 6 0 = 53 then decodeMajor1A w
  else if bits w 6 0 = 55 then decodeMajor1B w
  else if bits w 6 0 = 57 then decodeMajor1C w
  else if bits w 6 0 = 59 then decodeMajor1D w
  else if bits w 6 0 = 61 then decodeMajor1E w
  else if bits w 6 0 = 63 then decodeMajor1F w
  else if bits w 6 0 = 79 then decodeMajor27 w
  else if bits w 6 0 = 97 then decodeMajor30 w
  else if bits w 6 0 = 99 then decodeMajor31 w
  else if bits w 6 0 = 107 then decodeMajor35 w
  else if bits w 6 0 = 101 then decodeMajor32 w
  else if bits w 6 0 = 103 then decodeMajor33 w
  else if bits w 6 0 = 105 then decodeMajor34 w
  else if bits w 6 0 = 113 then decodeMajor38 w
  else if bits w 6 0 = 115 then decodeMajor39 w
  else if bits w 6 0 = 117 then decodeMajor3A w
  else if bits w 6 0 = 119 then decodeMajor3B w
  else if bits w 6 0 = 121 then decodeMajor3C w
  else none

/-- Whether the halfword is a whole instruction (R53, R54): its bit 0 is 0. -/
def isShort (h : Nat) : Bool := h % 2 = 0

/-- The instruction at the head of a list of bytes, and the bytes after it (R4, R48: little-endian halfwords). -/
noncomputable def decode (l : List Byte) : Except DecodeError (Instr × List Byte) :=
  match l with
  | b0 :: b1 :: r =>
    let h := b0.toNat + 256 * b1.toNat
    if isShort h then
      match decode16 h with
      | some i => .ok (i, r)
      | none => .error .noSuchHalfword
    else
      match r with
      | b2 :: b3 :: r' =>
        match decode32 (h + 65536 * (b2.toNat + 256 * b3.toNat)) with
        | some i => .ok (i, r')
        | none => .error .noSuchWord
      | _ => .error .tooShort
  | _ => .error .tooShort

/-- What the decoder reads from an instruction whose bits are `w`, of which the table gives `nbits`. -/
noncomputable def decodeTableWord (nbits w : Nat) : Option Instr :=
  match decode (natToBytes 4 (w % 2 ^ nbits)) with
  | .ok (i, _) => some i
  | .error _ => none

/-! ## Encoding -/

/-- The length of an instruction in bytes (R48); a step of the hardware has none. -/
def Instr.size (x : Instr) : Nat :=
  match x with
  | .mv _ _ => 2
  | .li _ _ => 2
  | .addC16 _ _ => 2
  | .addiC16 _ _ => 2
  | .subC16 _ _ => 2
  | .subi _ _ => 2
  | .andC16 _ _ => 2
  | .andiC16 _ _ => 2
  | .orC16 _ _ => 2
  | .oriC16 _ _ => 2
  | .xorC16 _ _ => 2
  | .xoriC16 _ _ => 2
  | .shlC16 _ _ => 2
  | .shliC16 _ _ => 2
  | .shrC16 _ _ => 2
  | .shriC16 _ _ => 2
  | .sarC16 _ _ => 2
  | .sariC16 _ _ => 2
  | .mulC16 _ _ => 2
  | .muliC16 _ _ => 2
  | .minC16 _ _ => 2
  | .mini _ _ => 2
  | .maxC16 _ _ => 2
  | .maxi _ _ => 2
  | .sltC16 _ _ => 2
  | .sltiC16 _ _ => 2
  | .lddC16 _ _ => 2
  | .lddG2C16 _ _ => 2
  | .stdC16 _ _ => 2
  | .stdG2C16 _ _ => 2
  | .bez _ _ => 2
  | .bnz _ _ => 2
  | .brkC16 => 2
  | .add _ _ _ => 4
  | .sub _ _ _ => 4
  | .and _ _ _ => 4
  | .or _ _ _ => 4
  | .xor _ _ _ => 4
  | .shl _ _ _ => 4
  | .shr _ _ _ => 4
  | .sar _ _ _ => 4
  | .mul _ _ _ => 4
  | .min _ _ _ => 4
  | .max _ _ _ => 4
  | .minu _ _ _ => 4
  | .maxu _ _ _ => 4
  | .slt _ _ _ => 4
  | .sltu _ _ _ => 4
  | .seq _ _ _ => 4
  | .sne _ _ _ => 4
  | .addw _ _ _ => 4
  | .subw _ _ _ => 4
  | .clz _ _ => 4
  | .ctz _ _ => 4
  | .popc _ _ => 4
  | .brev _ _ => 4
  | .bswap _ _ => 4
  | .rol _ _ _ => 4
  | .ror _ _ _ => 4
  | .andn _ _ _ => 4
  | .sextb _ _ => 4
  | .sexth _ _ => 4
  | .sextw _ _ => 4
  | .zextw _ _ => 4
  | .mulh _ _ _ => 4
  | .mulhu _ _ _ => 4
  | .mulhsu _ _ _ => 4
  | .div _ _ _ => 4
  | .divu _ _ _ => 4
  | .rem _ _ _ => 4
  | .remu _ _ _ => 4
  | .addi _ _ _ => 4
  | .andi _ _ _ => 4
  | .ori _ _ _ => 4
  | .xori _ _ _ => 4
  | .muli _ _ _ => 4
  | .shli _ _ _ => 4
  | .shri _ _ _ => 4
  | .sari _ _ _ => 4
  | .rori _ _ _ => 4
  | .seqi _ _ _ => 4
  | .snei _ _ _ => 4
  | .slti _ _ _ => 4
  | .sgei _ _ _ => 4
  | .sltui _ _ _ => 4
  | .sgeui _ _ _ => 4
  | .liu _ _ => 4
  | .addpc _ _ => 4
  | .lic _ _ _ => 4
  | .lico _ _ _ _ => 4
  | .licn _ _ _ => 4
  | .beq _ _ _ => 4
  | .bne _ _ _ => 4
  | .blt _ _ _ => 4
  | .bge _ _ _ => 4
  | .bltu _ _ _ => 4
  | .bgeu _ _ _ => 4
  | .bfull _ _ => 4
  | .bvoid _ _ => 4
  | .j _ => 4
  | .jal _ => 4
  | .jalr _ _ _ => 4
  | .loop _ _ => 4
  | .spawn _ => 4
  | .join => 4
  | .exit => 4
  | .expect _ => 4
  | .expectm _ => 4
  | .expectv _ => 4
  | .expectc _ => 4
  | .qslot _ => 4
  | .qdeq _ => 4
  | .qlink _ => 4
  | .fadd _ _ _ _ => 4
  | .fsub _ _ _ _ => 4
  | .fmul _ _ _ _ => 4
  | .fdiv _ _ _ _ => 4
  | .fsqrt _ _ _ => 4
  | .fmin _ _ _ _ => 4
  | .fmax _ _ _ _ => 4
  | .fsgnj _ _ _ _ => 4
  | .fsgnjn _ _ _ _ => 4
  | .fsgnjx _ _ _ _ => 4
  | .feq _ _ _ _ => 4
  | .flt _ _ _ _ => 4
  | .fle _ _ _ _ => 4
  | .fclass _ _ _ => 4
  | .fma _ _ _ _ _ => 4
  | .fcvtSD _ _ => 4
  | .fcvtDS _ _ => 4
  | .fcvtSL _ _ => 4
  | .fcvtSLu _ _ => 4
  | .fcvtDL _ _ => 4
  | .fcvtDLu _ _ => 4
  | .fcvtLS _ _ => 4
  | .fcvtLuS _ _ => 4
  | .fcvtLD _ _ => 4
  | .fcvtLuD _ _ => 4
  | .fcvtWS _ _ => 4
  | .fcvtWD _ _ => 4
  | .fcvtHS _ _ => 4
  | .fcvtSH _ _ => 4
  | .fcvtBS _ _ => 4
  | .fcvtSB _ _ => 4
  | .ldb _ _ _ _ _ => 4
  | .ldbu _ _ _ _ _ => 4
  | .ldh _ _ _ _ _ => 4
  | .ldhu _ _ _ _ _ => 4
  | .ldw _ _ _ _ _ => 4
  | .ldwu _ _ _ _ _ => 4
  | .ldd _ _ _ _ _ => 4
  | .stb _ _ _ _ _ => 4
  | .sth _ _ _ _ _ => 4
  | .stw _ _ _ _ _ => 4
  | .std _ _ _ _ _ => 4
  | .ldbx _ _ _ _ => 4
  | .ldbux _ _ _ _ => 4
  | .ldhx _ _ _ _ => 4
  | .ldhux _ _ _ _ => 4
  | .ldwx _ _ _ _ => 4
  | .ldwux _ _ _ _ => 4
  | .lddx _ _ _ _ => 4
  | .stbx _ _ _ _ => 4
  | .sthx _ _ _ _ => 4
  | .stwx _ _ _ _ => 4
  | .stdx _ _ _ _ => 4
  | .ldwo _ _ _ _ _ => 4
  | .lddo _ _ _ _ _ => 4
  | .stwo _ _ _ _ _ => 4
  | .stdo _ _ _ _ _ => 4
  | .ldf _ _ => 4
  | .ldtk _ _ => 4
  | .stf _ _ => 4
  | .lres _ _ => 4
  | .scond _ _ _ => 4
  | .lresAcq _ _ => 4
  | .scondRel _ _ _ => 4
  | .cflush _ => 4
  | .cwb _ => 4
  | .cwball => 4
  | .amoadd _ _ _ _ _ => 4
  | .amoand _ _ _ _ _ => 4
  | .amoor _ _ _ _ _ => 4
  | .amoxor _ _ _ _ _ => 4
  | .amomin _ _ _ _ _ => 4
  | .amomax _ _ _ _ _ => 4
  | .amominu _ _ _ _ _ => 4
  | .amomaxu _ _ _ _ _ => 4
  | .amoswap _ _ _ _ _ => 4
  | .amocas _ _ _ _ _ => 4
  | .famoadd _ _ _ _ _ => 4
  | .famomin _ _ _ _ _ => 4
  | .famomax _ _ _ _ _ => 4
  | .ldv _ _ _ => 4
  | .ldvv _ _ _ => 4
  | .stv _ _ _ _ => 4
  | .cvclr _ => 4
  | .reconMin _ _ _ => 4
  | .reconMax _ _ _ => 4
  | .reconAdd _ _ _ => 4
  | .reconOr _ _ _ => 4
  | .reconAnd _ _ _ => 4
  | .reconLowest _ _ _ => 4
  | .reconHighest _ _ _ => 4
  | .reconValue _ _ _ _ => 4
  | .redW _ _ => 4
  | .redD _ _ => 4
  | .fence _ => 4
  | .fenceAcq _ => 4
  | .fenceRel _ => 4
  | .bara _ _ _ => 4
  | .barw _ _ _ => 4
  | .belladd _ _ _ => 4
  | .bellwait _ _ _ => 4
  | .waitres => 4
  | .waitk _ _ _ _ => 4
  | .vadd _ _ _ _ _ => 4
  | .vsub _ _ _ _ _ => 4
  | .vmul _ _ _ _ _ => 4
  | .vmulh _ _ _ _ _ => 4
  | .vmulhu _ _ _ _ _ => 4
  | .vmin _ _ _ _ _ => 4
  | .vmax _ _ _ _ _ => 4
  | .vminu _ _ _ _ _ => 4
  | .vmaxu _ _ _ _ _ => 4
  | .vand _ _ _ _ _ => 4
  | .vor _ _ _ _ _ => 4
  | .vxor _ _ _ _ _ => 4
  | .vandn _ _ _ _ _ => 4
  | .vshl _ _ _ _ _ => 4
  | .vshr _ _ _ _ _ => 4
  | .vsar _ _ _ _ _ => 4
  | .vaddsat _ _ _ _ _ => 4
  | .vsubsat _ _ _ _ _ => 4
  | .vabs _ _ _ _ => 4
  | .vmov _ _ _ _ => 4
  | .vfadd _ _ _ _ _ => 4
  | .vfsub _ _ _ _ _ => 4
  | .vfmul _ _ _ _ _ => 4
  | .vfmin _ _ _ _ _ => 4
  | .vfmax _ _ _ _ _ => 4
  | .vfabs _ _ _ _ => 4
  | .vfneg _ _ _ _ => 4
  | .vadds _ _ _ _ _ => 4
  | .vsubs _ _ _ _ _ => 4
  | .vmuls _ _ _ _ _ => 4
  | .vmulhs _ _ _ _ _ => 4
  | .vmulhus _ _ _ _ _ => 4
  | .vmins _ _ _ _ _ => 4
  | .vmaxs _ _ _ _ _ => 4
  | .vminus _ _ _ _ _ => 4
  | .vmaxus _ _ _ _ _ => 4
  | .vands _ _ _ _ _ => 4
  | .vors _ _ _ _ _ => 4
  | .vxors _ _ _ _ _ => 4
  | .vandns _ _ _ _ _ => 4
  | .vshls _ _ _ _ _ => 4
  | .vshrs _ _ _ _ _ => 4
  | .vsars _ _ _ _ _ => 4
  | .vaddsats _ _ _ _ _ => 4
  | .vsubsats _ _ _ _ _ => 4
  | .vfadds _ _ _ _ _ => 4
  | .vfsubs _ _ _ _ _ => 4
  | .vfmuls _ _ _ _ _ => 4
  | .vfmins _ _ _ _ _ => 4
  | .vfmaxs _ _ _ _ _ => 4
  | .vfma _ _ _ _ _ => 4
  | .vfms _ _ _ _ _ => 4
  | .vfnma _ _ _ _ _ => 4
  | .vfnms _ _ _ _ _ => 4
  | .vmad _ _ _ _ _ => 4
  | .vdot4i8 _ _ _ _ _ => 4
  | .vfmas _ _ _ _ _ => 4
  | .vfmss _ _ _ _ _ => 4
  | .vfnmas _ _ _ _ _ => 4
  | .vfnmss _ _ _ _ _ => 4
  | .vmads _ _ _ _ _ => 4
  | .vdot4i8s _ _ _ _ _ => 4
  | .vcmp _ _ _ _ _ _ => 4
  | .vcmps _ _ _ _ _ _ => 4
  | .vld _ _ _ _ _ => 4
  | .vst _ _ _ _ _ => 4
  | .vgath _ _ _ _ _ _ => 4
  | .vscat _ _ _ _ _ _ => 4
  | .vlds _ _ _ _ => 4
  | .vsts _ _ _ _ => 4
  | .vldsx _ _ _ _ _ => 4
  | .vstsx _ _ _ _ _ => 4
  | .vredadd _ _ _ => 4
  | .vredmin _ _ _ => 4
  | .vredmax _ _ _ => 4
  | .vredminu _ _ _ => 4
  | .vredmaxu _ _ _ => 4
  | .vredor _ _ _ => 4
  | .vredand _ _ _ => 4
  | .vredfadd _ _ _ => 4
  | .vredfmin _ _ _ => 4
  | .vredfmax _ _ _ => 4
  | .vbcast _ _ _ _ => 4
  | .vext _ _ _ => 4
  | .vperm _ _ _ _ _ => 4
  | .vrotl _ _ _ _ _ => 4
  | .vcomp _ _ _ => 4
  | .viota _ _ _ => 4
  | .kand _ _ _ => 4
  | .kor _ _ _ => 4
  | .kxor _ _ _ => 4
  | .kandn _ _ _ => 4
  | .knot _ _ => 4
  | .kmovg _ _ => 4
  | .krd _ _ => 4
  | .kpopc _ _ => 4
  | .kfirst _ _ => 4
  | .vcvtfi _ _ _ _ => 4
  | .vcvtif _ _ _ _ => 4
  | .vcvtuf _ _ _ _ => 4
  | .vcvtfu _ _ _ _ => 4
  | .vpack _ _ _ _ _ _ => 4
  | .vunpk _ _ _ _ _ _ => 4
  | .vcbd _ _ _ _ _ => 4
  | .vcbdi _ _ _ _ _ => 4
  | .wing _ _ _ => 4
  | .vwing _ _ _ _ _ => 4
  | .mand _ _ _ => 4
  | .mor _ _ _ => 4
  | .mxor _ _ _ => 4
  | .mandn _ _ _ => 4
  | .mnot _ _ => 4
  | .mmov _ _ => 4
  | .mclr _ => 4
  | .mfill _ _ => 4
  | .mbset _ _ => 4
  | .mbclr _ _ => 4
  | .mbtst _ _ _ => 4
  | .mpopc _ _ => 4
  | .mfirst _ _ => 4
  | .mnext _ _ _ => 4
  | .mgetw _ _ _ => 4
  | .mputw _ _ _ => 4
  | .mld _ _ => 4
  | .mst _ _ => 4
  | .stand _ _ _ => 4
  | .leave _ => 4
  | .split _ _ _ => 4
  | .qld _ _ _ => 4
  | .qldd _ _ _ => 4
  | .qst _ _ _ => 4
  | .qstd _ _ _ => 4
  | .qeval _ _ _ _ _ => 4
  | .cpy _ _ _ _ _ => 4
  | .cpyg _ _ _ _ _ => 4
  | .mcpost _ _ _ _ _ => 4
  | .ttset _ _ _ => 4
  | .tqadd _ => 4
  | .accsv _ _ => 4
  | .accsvk _ _ => 4
  | .accld _ _ => 4
  | .send _ _ _ _ _ => 4
  | .amret => 4
  | .rfill _ _ _ => 4
  | .rfillm _ _ _ => 4
  | .rfillv _ _ _ => 4
  | .rfillc _ _ _ => 4
  | .lturn _ _ _ => 4
  | .rds _ _ => 4
  | .wrs _ _ => 4
  | .rdts _ => 4
  | .logmark _ => 4
  | .trap _ => 4
  | .brk => 4
  | .rtt => 4
  | .icinv => 4
  | .plbinv _ => 4
  | .halt => 4
  | .evsig _ _ => 4
  | .lentCycle _ => 0
  | .fillLands _ => 0
  | .errorResponse _ => 0
  | .storeAck _ => 0
  | .dividerFill _ _ _ _ => 0
  | .faultNotice _ => 0
  | .faultWakeRejoin _ => 0
  | .dequeTake _ => 0
  | .stealAttempt _ => 0
  | .stealRequest _ _ => 0
  | .stealReply _ _ _ => 0
  | .dequeRefill _ => 0
  | .resourceRequest _ _ _ _ => 0
  | .resourceRestart _ => 0
  | .messageArrival _ => 0
  | .handlerStart _ => 0
  | .rfillArrival _ => 0
  | .evsigDelivery _ => 0
  | .bankAccess _ => 0
  | .homeAccess _ => 0
  | .partialEviction _ _ => 0
  | .bellUpdate _ => 0
  | .barrierArrival _ => 0
  | .waitBellNotice _ => 0
  | .fenceProbe _ _ _ => 0
  | .fenceEcho _ _ _ => 0
  | .atomicIntervalEnd _ => 0
  | .plbRefill _ _ _ => 0
  | .copyAccept _ => 0
  | .copyStart _ => 0
  | .copyShare _ => 0
  | .copyComplete _ => 0
  | .mcpostDelivery _ => 0
  | .ttsetServe _ => 0
  | .taskAccept _ => 0
  | .taskDispatch _ => 0
  | .kStep _ => 0
  | .taskDrain _ => 0
  | .taskComplete _ => 0
  | .accumulatorMoveRun _ => 0
  | .engineSelfTest _ _ => 0
  | .rollCallArrival _ => 0
  | .rollCallLeave _ => 0
  | .packetHop _ => 0
  | .outputAging _ => 0
  | .packetDelivery _ => 0
  | .turnRequest _ => 0
  | .turnBoundary _ => 0
  | .groupTurnDone _ _ => 0
  | .notifyStore _ _ _ _ => 0
  | .headerPoll _ _ => 0
  | .dispatchOpportunity _ => 0
  | .queueAging _ _ => 0
  | .launch _ _ => 0
  | .launchStart _ _ => 0
  | .launchStateArrival _ _ => 0
  | .launchComplete _ => 0
  | .waitsig _ _ => 0
  | .nopPacket _ _ => 0
  | .setdet _ => 0
  | .setdetComplete _ => 0
  | .csrw _ => 0
  | .qcreate _ => 0
  | .qdestroy _ => 0
  | .resize _ => 0
  | .abort _ => 0
  | .reservedPacketType _ _ => 0
  | .eventRetry _ => 0
  | .faultRetry _ => 0
  | .fqtailWrite _ _ => 0
  | .wake _ _ => 0
  | .nqtailWrite _ _ => 0
  | .ndone _ _ => 0
  | .novfWrite _ _ => 0
  | .inval _ _ => 0
  | .invalidationDone _ => 0
  | .eqtailWrite _ _ => 0
  | .managementWrite _ _ => 0
  | .preemptSave _ _ _ => 0
  | .preemptResume _ _ _ => 0
  | .pestatRead _ => 0
  | .rmdata _ _ => 0
  | .remapInstallDone _ => 0
  | .meshInterrupt _ => 0
  | .coreStop _ => 0
  | .quiesceDone _ => 0
  | .imageWritten _ => 0
  | .engineSectionRestore _ _ => 0
  | .spillRedelivery _ => 0
  | .resumeDone _ => 0
  | .coreGate _ => 0
  | .coreWake _ => 0
  | .rollRecordWrite _ => 0
  | .logtailWrite _ _ => 0
  | .rollRecordTake _ => 0
  | .hostAccess _ => 0
  | .hostAtomic _ _ _ _ => 0
  | .sysatomCasLoop _ => 0
  | .reductionContribution _ _ _ _ => 0
  | .timestampCorrection _ => 0
  | .ethernetTransmit _ => 0
  | .ethernetReceive _ _ _ => 0
  | .moduleReset => 0
  | .resetStepDone _ => 0
  | .fwgo _ _ => 0
  | .firmwareReady _ => 0
  | .firmwareFault _ => 0
  | .scrubRead _ => 0
  | .eltailWrite _ _ => 0
  | .illegalEncoding _ => 0
  | .proctorProxyComplete _ => 0
  | .overflowMemoryGrant _ _ => 0
  | .clockLock _ => 0
  | .linkGroupFence _ => 0

/-- The word of an instruction (R53-R71 and the encoding tables of the chapters): the row's fixed bits and its fields. -/
def Instr.word (x : Instr) : Nat :=
  match x with
  | .mv s d => 0 + s.toNat * 1024 + d.toNat * 32
  | .li i d => 32768 + i.toNat * 1024 + d.toNat * 32
  | .addC16 s d => 2 + s.toNat * 1024 + d.toNat * 32
  | .addiC16 i d => 32770 + i.toNat * 1024 + d.toNat * 32
  | .subC16 s d => 4 + s.toNat * 1024 + d.toNat * 32
  | .subi i d => 32772 + i.toNat * 1024 + d.toNat * 32
  | .andC16 s d => 6 + s.toNat * 1024 + d.toNat * 32
  | .andiC16 i d => 32774 + i.toNat * 1024 + d.toNat * 32
  | .orC16 s d => 8 + s.toNat * 1024 + d.toNat * 32
  | .oriC16 i d => 32776 + i.toNat * 1024 + d.toNat * 32
  | .xorC16 s d => 10 + s.toNat * 1024 + d.toNat * 32
  | .xoriC16 i d => 32778 + i.toNat * 1024 + d.toNat * 32
  | .shlC16 s d => 12 + s.toNat * 1024 + d.toNat * 32
  | .shliC16 n d => 32780 + n.toNat * 1024 + d.toNat * 32
  | .shrC16 s d => 14 + s.toNat * 1024 + d.toNat * 32
  | .shriC16 n d => 32782 + n.toNat * 1024 + d.toNat * 32
  | .sarC16 s d => 16 + s.toNat * 1024 + d.toNat * 32
  | .sariC16 n d => 32784 + n.toNat * 1024 + d.toNat * 32
  | .mulC16 s d => 18 + s.toNat * 1024 + d.toNat * 32
  | .muliC16 i d => 32786 + i.toNat * 1024 + d.toNat * 32
  | .minC16 s d => 20 + s.toNat * 1024 + d.toNat * 32
  | .mini i d => 32788 + i.toNat * 1024 + d.toNat * 32
  | .maxC16 s d => 22 + s.toNat * 1024 + d.toNat * 32
  | .maxi i d => 32790 + i.toNat * 1024 + d.toNat * 32
  | .sltC16 s d => 24 + s.toNat * 1024 + d.toNat * 32
  | .sltiC16 i d => 32792 + i.toNat * 1024 + d.toNat * 32
  | .lddC16 s d => 26 + s.toNat * 1024 + d.toNat * 32
  | .lddG2C16 i d => 32794 + i.toNat * 1024 + d.toNat * 32
  | .stdC16 s d => 28 + s.toNat * 1024 + d.toNat * 32
  | .stdG2C16 i d => 32796 + i.toNat * 1024 + d.toNat * 32
  | .bez i d => 30 + i.toNat * 1024 + d.toNat * 32
  | .bnz i d => 32798 + i.toNat * 1024 + d.toNat * 32
  | .brkC16 => 30
  | .add b a d => 1 + b.toNat * 524288 + a.toNat * 8192 + d.toNat * 128
  | .sub b a d => 33554433 + b.toNat * 524288 + a.toNat * 8192 + d.toNat * 128
  | .and b a d => 67108865 + b.toNat * 524288 + a.toNat * 8192 + d.toNat * 128
  | .or b a d => 100663297 + b.toNat * 524288 + a.toNat * 8192 + d.toNat * 128
  | .xor b a d => 134217729 + b.toNat * 524288 + a.toNat * 8192 + d.toNat * 128
  | .shl b a d => 167772161 + b.toNat * 524288 + a.toNat * 8192 + d.toNat * 128
  | .shr b a d => 201326593 + b.toNat * 524288 + a.toNat * 8192 + d.toNat * 128
  | .sar b a d => 234881025 + b.toNat * 524288 + a.toNat * 8192 + d.toNat * 128
  | .mul b a d => 268435457 + b.toNat * 524288 + a.toNat * 8192 + d.toNat * 128
  | .min b a d => 301989889 + b.toNat * 524288 + a.toNat * 8192 + d.toNat * 128
  | .max b a d => 335544321 + b.toNat * 524288 + a.toNat * 8192 + d.toNat * 128
  | .minu b a d => 369098753 + b.toNat * 524288 + a.toNat * 8192 + d.toNat * 128
  | .maxu b a d => 402653185 + b.toNat * 524288 + a.toNat * 8192 + d.toNat * 128
  | .slt b a d => 436207617 + b.toNat * 524288 + a.toNat * 8192 + d.toNat * 128
  | .sltu b a d => 469762049 + b.toNat * 524288 + a.toNat * 8192 + d.toNat * 128
  | .seq b a d => 503316481 + b.toNat * 524288 + a.toNat * 8192 + d.toNat * 128
  | .sne b a d => 536870913 + b.toNat * 524288 + a.toNat * 8192 + d.toNat * 128
  | .addw b a d => 570425345 + b.toNat * 524288 + a.toNat * 8192 + d.toNat * 128
  | .subw b a d => 603979777 + b.toNat * 524288 + a.toNat * 8192 + d.toNat * 128
  | .clz a d => 3 + a.toNat * 8192 + d.toNat * 128
  | .ctz a d => 33554435 + a.toNat * 8192 + d.toNat * 128
  | .popc a d => 67108867 + a.toNat * 8192 + d.toNat * 128
  | .brev a d => 100663299 + a.toNat * 8192 + d.toNat * 128
  | .bswap a d => 134217731 + a.toNat * 8192 + d.toNat * 128
  | .rol b a d => 167772163 + b.toNat * 524288 + a.toNat * 8192 + d.toNat * 128
  | .ror b a d => 201326595 + b.toNat * 524288 + a.toNat * 8192 + d.toNat * 128
  | .andn b a d => 234881027 + b.toNat * 524288 + a.toNat * 8192 + d.toNat * 128
  | .sextb a d => 268435459 + a.toNat * 8192 + d.toNat * 128
  | .sexth a d => 301989891 + a.toNat * 8192 + d.toNat * 128
  | .sextw a d => 335544323 + a.toNat * 8192 + d.toNat * 128
  | .zextw a d => 369098755 + a.toNat * 8192 + d.toNat * 128
  | .mulh b a d => 536870915 + b.toNat * 524288 + a.toNat * 8192 + d.toNat * 128
  | .mulhu b a d => 570425347 + b.toNat * 524288 + a.toNat * 8192 + d.toNat * 128
  | .mulhsu b a d => 603979779 + b.toNat * 524288 + a.toNat * 8192 + d.toNat * 128
  | .div b a d => 1073741827 + b.toNat * 524288 + a.toNat * 8192 + d.toNat * 128
  | .divu b a d => 1107296259 + b.toNat * 524288 + a.toNat * 8192 + d.toNat * 128
  | .rem b a d => 1140850691 + b.toNat * 524288 + a.toNat * 8192 + d.toNat * 128
  | .remu b a d => 1174405123 + b.toNat * 524288 + a.toNat * 8192 + d.toNat * 128
  | .addi i a d => 5 + i.toNat * 524288 + a.toNat * 8192 + d.toNat * 128
  | .andi i a d => 7 + i.toNat * 524288 + a.toNat * 8192 + d.toNat * 128
  | .ori i a d => 9 + i.toNat * 524288 + a.toNat * 8192 + d.toNat * 128
  | .xori i a d => 11 + i.toNat * 524288 + a.toNat * 8192 + d.toNat * 128
  | .muli i a d => 17 + i.toNat * 524288 + a.toNat * 8192 + d.toNat * 128
  | .shli n a d => 13 + n.toNat * 524288 + a.toNat * 8192 + d.toNat * 128
  | .shri n a d => 1073741837 + n.toNat * 524288 + a.toNat * 8192 + d.toNat * 128
  | .sari n a d => 2147483661 + n.toNat * 524288 + a.toNat * 8192 + d.toNat * 128
  | .rori n a d => 3221225485 + n.toNat * 524288 + a.toNat * 8192 + d.toNat * 128
  | .seqi v a d => 15 + v.toNat * 524288 + a.toNat * 8192 + d.toNat * 128
  | .snei v a d => 536870927 + v.toNat * 524288 + a.toNat * 8192 + d.toNat * 128
  | .slti v a d => 1073741839 + v.toNat * 524288 + a.toNat * 8192 + d.toNat * 128
  | .sgei v a d => 1610612751 + v.toNat * 524288 + a.toNat * 8192 + d.toNat * 128
  | .sltui v a d => 2147483663 + v.toNat * 524288 + a.toNat * 8192 + d.toNat * 128
  | .sgeui v a d => 2684354575 + v.toNat * 524288 + a.toNat * 8192 + d.toNat * 128
  | .liu i d => 19 + i.toNat * 8192 + d.toNat * 128
  | .addpc i d => 21 + i.toNat * 8192 + d.toNat * 128
  | .lic c r d => 23 + c.toNat * 8388608 + r.toNat * 524288 + d.toNat * 128
  | .lico c r a d => 1073741847 + c.toNat * 8388608 + r.toNat * 524288 + a.toNat * 8192 + d.toNat * 128
  | .licn c r d => 2147483671 + c.toNat * 8388608 + r.toNat * 524288 + d.toNat * 128
  | .beq i b a => 65 + i.toNat * 4194304 + b.toNat * 8192 + a.toNat * 128
  | .bne i b a => 524353 + i.toNat * 4194304 + b.toNat * 8192 + a.toNat * 128
  | .blt i b a => 1048641 + i.toNat * 4194304 + b.toNat * 8192 + a.toNat * 128
  | .bge i b a => 1572929 + i.toNat * 4194304 + b.toNat * 8192 + a.toNat * 128
  | .bltu i b a => 2097217 + i.toNat * 4194304 + b.toNat * 8192 + a.toNat * 128
  | .bgeu i b a => 2621505 + i.toNat * 4194304 + b.toNat * 8192 + a.toNat * 128
  | .bfull i a => 3145793 + i.toNat * 4194304 + a.toNat * 128
  | .bvoid i a => 3670081 + i.toNat * 4194304 + a.toNat * 128
  | .j i => 67 + i.toNat * 128
  | .jal i => 69 + i.toNat * 128
  | .jalr i a d => 71 + i.toNat * 524288 + a.toNat * 8192 + d.toNat * 128
  | .loop i a => 73 + i.toNat * 524288 + a.toNat * 8192
  | .spawn i => 75 + i.toNat * 128
  | .join => 33554507
  | .exit => 67108939
  | .expect d => 134217803 + d.toNat * 128
  | .expectm d => 167772235 + d.toNat * 128
  | .expectv d => 201326667 + d.toNat * 128
  | .expectc d => 234881099 + d.toNat * 128
  | .qslot d => 268435531 + d.toNat * 128
  | .qdeq d => 301989963 + d.toNat * 128
  | .qlink d => 335544395 + d.toNat * 128
  | .fadd p b a d => 81 + p.toNat * 536870912 + b.toNat * 524288 + a.toNat * 8192 + d.toNat * 128
  | .fsub p b a d => 33554513 + p.toNat * 536870912 + b.toNat * 524288 + a.toNat * 8192 + d.toNat * 128
  | .fmul p b a d => 67108945 + p.toNat * 536870912 + b.toNat * 524288 + a.toNat * 8192 + d.toNat * 128
  | .fdiv p b a d => 100663377 + p.toNat * 536870912 + b.toNat * 524288 + a.toNat * 8192 + d.toNat * 128
  | .fsqrt p a d => 134217809 + p.toNat * 536870912 + a.toNat * 8192 + d.toNat * 128
  | .fmin p b a d => 167772241 + p.toNat * 536870912 + b.toNat * 524288 + a.toNat * 8192 + d.toNat * 128
  | .fmax p b a d => 201326673 + p.toNat * 536870912 + b.toNat * 524288 + a.toNat * 8192 + d.toNat * 128
  | .fsgnj p b a d => 234881105 + p.toNat * 536870912 + b.toNat * 524288 + a.toNat * 8192 + d.toNat * 128
  | .fsgnjn p b a d => 268435537 + p.toNat * 536870912 + b.toNat * 524288 + a.toNat * 8192 + d.toNat * 128
  | .fsgnjx p b a d => 301989969 + p.toNat * 536870912 + b.toNat * 524288 + a.toNat * 8192 + d.toNat * 128
  | .feq p b a d => 335544401 + p.toNat * 536870912 + b.toNat * 524288 + a.toNat * 8192 + d.toNat * 128
  | .flt p b a d => 369098833 + p.toNat * 536870912 + b.toNat * 524288 + a.toNat * 8192 + d.toNat * 128
  | .fle p b a d => 402653265 + p.toNat * 536870912 + b.toNat * 524288 + a.toNat * 8192 + d.toNat * 128
  | .fclass p a d => 436207697 + p.toNat * 536870912 + a.toNat * 8192 + d.toNat * 128
  | .fma x c b a d => 83 + x.toNat * 2147483648 + c.toNat * 33554432 + b.toNat * 524288 + a.toNat * 8192 + d.toNat * 128
  | .fcvtSD a d => 85 + a.toNat * 8192 + d.toNat * 128
  | .fcvtDS a d => 33554517 + a.toNat * 8192 + d.toNat * 128
  | .fcvtSL a d => 67108949 + a.toNat * 8192 + d.toNat * 128
  | .fcvtSLu a d => 100663381 + a.toNat * 8192 + d.toNat * 128
  | .fcvtDL a d => 134217813 + a.toNat * 8192 + d.toNat * 128
  | .fcvtDLu a d => 167772245 + a.toNat * 8192 + d.toNat * 128
  | .fcvtLS a d => 201326677 + a.toNat * 8192 + d.toNat * 128
  | .fcvtLuS a d => 234881109 + a.toNat * 8192 + d.toNat * 128
  | .fcvtLD a d => 268435541 + a.toNat * 8192 + d.toNat * 128
  | .fcvtLuD a d => 301989973 + a.toNat * 8192 + d.toNat * 128
  | .fcvtWS a d => 335544405 + a.toNat * 8192 + d.toNat * 128
  | .fcvtWD a d => 369098837 + a.toNat * 8192 + d.toNat * 128
  | .fcvtHS a d => 402653269 + a.toNat * 8192 + d.toNat * 128
  | .fcvtSH a d => 436207701 + a.toNat * 8192 + d.toNat * 128
  | .fcvtBS a d => 469762133 + a.toNat * 8192 + d.toNat * 128
  | .fcvtSB a d => 503316565 + a.toNat * 8192 + d.toNat * 128
  | .ldb i o q a d => 33 + i.toNat * 8388608 + o.toNat * 2097152 + q.toNat * 524288 + a.toNat * 8192 + d.toNat * 128
  | .ldbu i o q a d => 35 + i.toNat * 8388608 + o.toNat * 2097152 + q.toNat * 524288 + a.toNat * 8192 + d.toNat * 128
  | .ldh i o q a d => 37 + i.toNat * 8388608 + o.toNat * 2097152 + q.toNat * 524288 + a.toNat * 8192 + d.toNat * 128
  | .ldhu i o q a d => 39 + i.toNat * 8388608 + o.toNat * 2097152 + q.toNat * 524288 + a.toNat * 8192 + d.toNat * 128
  | .ldw i o q a d => 41 + i.toNat * 8388608 + o.toNat * 2097152 + q.toNat * 524288 + a.toNat * 8192 + d.toNat * 128
  | .ldwu i o q a d => 43 + i.toNat * 8388608 + o.toNat * 2097152 + q.toNat * 524288 + a.toNat * 8192 + d.toNat * 128
  | .ldd i o q a d => 45 + i.toNat * 8388608 + o.toNat * 2097152 + q.toNat * 524288 + a.toNat * 8192 + d.toNat * 128
  | .stb i o q a d => 47 + i.toNat * 8388608 + o.toNat * 2097152 + q.toNat * 524288 + a.toNat * 8192 + d.toNat * 128
  | .sth i o q a d => 49 + i.toNat * 8388608 + o.toNat * 2097152 + q.toNat * 524288 + a.toNat * 8192 + d.toNat * 128
  | .stw i o q a d => 51 + i.toNat * 8388608 + o.toNat * 2097152 + q.toNat * 524288 + a.toNat * 8192 + d.toNat * 128
  | .std i o q a d => 53 + i.toNat * 8388608 + o.toNat * 2097152 + q.toNat * 524288 + a.toNat * 8192 + d.toNat * 128
  | .ldbx q b a d => 55 + q.toNat * 536870912 + b.toNat * 524288 + a.toNat * 8192 + d.toNat * 128
  | .ldbux q b a d => 33554487 + q.toNat * 536870912 + b.toNat * 524288 + a.toNat * 8192 + d.toNat * 128
  | .ldhx q b a d => 67108919 + q.toNat * 536870912 + b.toNat * 524288 + a.toNat * 8192 + d.toNat * 128
  | .ldhux q b a d => 100663351 + q.toNat * 536870912 + b.toNat * 524288 + a.toNat * 8192 + d.toNat * 128
  | .ldwx q b a d => 134217783 + q.toNat * 536870912 + b.toNat * 524288 + a.toNat * 8192 + d.toNat * 128
  | .ldwux q b a d => 167772215 + q.toNat * 536870912 + b.toNat * 524288 + a.toNat * 8192 + d.toNat * 128
  | .lddx q b a d => 201326647 + q.toNat * 536870912 + b.toNat * 524288 + a.toNat * 8192 + d.toNat * 128
  | .stbx q b a d => 234881079 + q.toNat * 536870912 + b.toNat * 524288 + a.toNat * 8192 + d.toNat * 128
  | .sthx q b a d => 268435511 + q.toNat * 536870912 + b.toNat * 524288 + a.toNat * 8192 + d.toNat * 128
  | .stwx q b a d => 301989943 + q.toNat * 536870912 + b.toNat * 524288 + a.toNat * 8192 + d.toNat * 128
  | .stdx q b a d => 335544375 + q.toNat * 536870912 + b.toNat * 524288 + a.toNat * 8192 + d.toNat * 128
  | .ldwo q s o a d => 2147483703 + q.toNat * 33554432 + s.toNat * 4194304 + o.toNat * 1048576 + a.toNat * 8192 + d.toNat * 128
  | .lddo q s o a d => 2281701431 + q.toNat * 33554432 + s.toNat * 4194304 + o.toNat * 1048576 + a.toNat * 8192 + d.toNat * 128
  | .stwo q s o a d => 2415919159 + q.toNat * 33554432 + s.toNat * 4194304 + o.toNat * 1048576 + a.toNat * 8192 + d.toNat * 128
  | .stdo q s o a d => 2550136887 + q.toNat * 33554432 + s.toNat * 4194304 + o.toNat * 1048576 + a.toNat * 8192 + d.toNat * 128
  | .ldf a d => 2684354615 + a.toNat * 8192 + d.toNat * 128
  | .ldtk a d => 2717909047 + a.toNat * 8192 + d.toNat * 128
  | .stf a d => 2751463479 + a.toNat * 8192 + d.toNat * 128
  | .lres a d => 2818572343 + a.toNat * 8192 + d.toNat * 128
  | .scond b a d => 2852126775 + b.toNat * 524288 + a.toNat * 8192 + d.toNat * 128
  | .lresAcq a d => 2885681207 + a.toNat * 8192 + d.toNat * 128
  | .scondRel b a d => 2919235639 + b.toNat * 524288 + a.toNat * 8192 + d.toNat * 128
  | .cflush a => 3221225527 + a.toNat * 8192
  | .cwb a => 3254779959 + a.toNat * 8192
  | .cwball => 3288334391
  | .amoadd s o b a d => 57 + s.toNat * 134217728 + o.toNat * 33554432 + b.toNat * 524288 + a.toNat * 8192 + d.toNat * 128
  | .amoand s o b a d => 268435513 + s.toNat * 134217728 + o.toNat * 33554432 + b.toNat * 524288 + a.toNat * 8192 + d.toNat * 128
  | .amoor s o b a d => 536870969 + s.toNat * 134217728 + o.toNat * 33554432 + b.toNat * 524288 + a.toNat * 8192 + d.toNat * 128
  | .amoxor s o b a d => 805306425 + s.toNat * 134217728 + o.toNat * 33554432 + b.toNat * 524288 + a.toNat * 8192 + d.toNat * 128
  | .amomin s o b a d => 1073741881 + s.toNat * 134217728 + o.toNat * 33554432 + b.toNat * 524288 + a.toNat * 8192 + d.toNat * 128
  | .amomax s o b a d => 1342177337 + s.toNat * 134217728 + o.toNat * 33554432 + b.toNat * 524288 + a.toNat * 8192 + d.toNat * 128
  | .amominu s o b a d => 1610612793 + s.toNat * 134217728 + o.toNat * 33554432 + b.toNat * 524288 + a.toNat * 8192 + d.toNat * 128
  | .amomaxu s o b a d => 1879048249 + s.toNat * 134217728 + o.toNat * 33554432 + b.toNat * 524288 + a.toNat * 8192 + d.toNat * 128
  | .amoswap s o b a d => 2147483705 + s.toNat * 134217728 + o.toNat * 33554432 + b.toNat * 524288 + a.toNat * 8192 + d.toNat * 128
  | .amocas s o b a d => 2415919161 + s.toNat * 134217728 + o.toNat * 33554432 + b.toNat * 524288 + a.toNat * 8192 + d.toNat * 128
  | .famoadd s o b a d => 59 + s.toNat * 134217728 + o.toNat * 33554432 + b.toNat * 524288 + a.toNat * 8192 + d.toNat * 128
  | .famomin s o b a d => 268435515 + s.toNat * 134217728 + o.toNat * 33554432 + b.toNat * 524288 + a.toNat * 8192 + d.toNat * 128
  | .famomax s o b a d => 536870971 + s.toNat * 134217728 + o.toNat * 33554432 + b.toNat * 524288 + a.toNat * 8192 + d.toNat * 128
  | .ldv k a d => 61 + k.toNat * 33554432 + a.toNat * 8192 + d.toNat * 128
  | .ldvv k a d => 268435517 + k.toNat * 33554432 + a.toNat * 8192 + d.toNat * 128
  | .stv k b a d => 536870973 + k.toNat * 33554432 + b.toNat * 524288 + a.toNat * 8192 + d.toNat * 128
  | .cvclr k => 805306429 + k.toNat * 33554432
  | .reconMin k a d => 1073741885 + k.toNat * 33554432 + a.toNat * 8192 + d.toNat * 128
  | .reconMax k a d => 1342177341 + k.toNat * 33554432 + a.toNat * 8192 + d.toNat * 128
  | .reconAdd k a d => 1610612797 + k.toNat * 33554432 + a.toNat * 8192 + d.toNat * 128
  | .reconOr k a d => 1879048253 + k.toNat * 33554432 + a.toNat * 8192 + d.toNat * 128
  | .reconAnd k a d => 2147483709 + k.toNat * 33554432 + a.toNat * 8192 + d.toNat * 128
  | .reconLowest k a d => 2415919165 + k.toNat * 33554432 + a.toNat * 8192 + d.toNat * 128
  | .reconHighest k a d => 2684354621 + k.toNat * 33554432 + a.toNat * 8192 + d.toNat * 128
  | .reconValue k b a d => 2952790077 + k.toNat * 33554432 + b.toNat * 524288 + a.toNat * 8192 + d.toNat * 128
  | .redW b a => 3221225533 + b.toNat * 524288 + a.toNat * 8192
  | .redD b a => 3254779965 + b.toNat * 524288 + a.toNat * 8192
  | .fence s => 63 + s.toNat * 33554432
  | .fenceAcq s => 268435519 + s.toNat * 33554432
  | .fenceRel s => 536870975 + s.toNat * 33554432
  | .bara s a d => 805306431 + s.toNat * 33554432 + a.toNat * 8192 + d.toNat * 128
  | .barw s b a => 1073741887 + s.toNat * 33554432 + b.toNat * 524288 + a.toNat * 8192
  | .belladd s b a => 1342177343 + s.toNat * 33554432 + b.toNat * 524288 + a.toNat * 8192
  | .bellwait s b a => 1610612799 + s.toNat * 33554432 + b.toNat * 524288 + a.toNat * 8192
  | .waitres => 1879048255
  | .waitk t c s l => 79 + t.toNat * 33554432 + c.toNat * 524288 + s.toNat * 8192 + l.toNat * 128
  | .vadd b a k z d => 97 + b.toNat * 2097152 + a.toNat * 131072 + k.toNat * 16384 + z.toNat * 8192 + d.toNat * 128
  | .vsub b a k z d => 33554529 + b.toNat * 2097152 + a.toNat * 131072 + k.toNat * 16384 + z.toNat * 8192 + d.toNat * 128
  | .vmul b a k z d => 67108961 + b.toNat * 2097152 + a.toNat * 131072 + k.toNat * 16384 + z.toNat * 8192 + d.toNat * 128
  | .vmulh b a k z d => 100663393 + b.toNat * 2097152 + a.toNat * 131072 + k.toNat * 16384 + z.toNat * 8192 + d.toNat * 128
  | .vmulhu b a k z d => 134217825 + b.toNat * 2097152 + a.toNat * 131072 + k.toNat * 16384 + z.toNat * 8192 + d.toNat * 128
  | .vmin b a k z d => 167772257 + b.toNat * 2097152 + a.toNat * 131072 + k.toNat * 16384 + z.toNat * 8192 + d.toNat * 128
  | .vmax b a k z d => 201326689 + b.toNat * 2097152 + a.toNat * 131072 + k.toNat * 16384 + z.toNat * 8192 + d.toNat * 128
  | .vminu b a k z d => 234881121 + b.toNat * 2097152 + a.toNat * 131072 + k.toNat * 16384 + z.toNat * 8192 + d.toNat * 128
  | .vmaxu b a k z d => 268435553 + b.toNat * 2097152 + a.toNat * 131072 + k.toNat * 16384 + z.toNat * 8192 + d.toNat * 128
  | .vand b a k z d => 301989985 + b.toNat * 2097152 + a.toNat * 131072 + k.toNat * 16384 + z.toNat * 8192 + d.toNat * 128
  | .vor b a k z d => 335544417 + b.toNat * 2097152 + a.toNat * 131072 + k.toNat * 16384 + z.toNat * 8192 + d.toNat * 128
  | .vxor b a k z d => 369098849 + b.toNat * 2097152 + a.toNat * 131072 + k.toNat * 16384 + z.toNat * 8192 + d.toNat * 128
  | .vandn b a k z d => 402653281 + b.toNat * 2097152 + a.toNat * 131072 + k.toNat * 16384 + z.toNat * 8192 + d.toNat * 128
  | .vshl b a k z d => 436207713 + b.toNat * 2097152 + a.toNat * 131072 + k.toNat * 16384 + z.toNat * 8192 + d.toNat * 128
  | .vshr b a k z d => 469762145 + b.toNat * 2097152 + a.toNat * 131072 + k.toNat * 16384 + z.toNat * 8192 + d.toNat * 128
  | .vsar b a k z d => 503316577 + b.toNat * 2097152 + a.toNat * 131072 + k.toNat * 16384 + z.toNat * 8192 + d.toNat * 128
  | .vaddsat b a k z d => 536871009 + b.toNat * 2097152 + a.toNat * 131072 + k.toNat * 16384 + z.toNat * 8192 + d.toNat * 128
  | .vsubsat b a k z d => 570425441 + b.toNat * 2097152 + a.toNat * 131072 + k.toNat * 16384 + z.toNat * 8192 + d.toNat * 128
  | .vabs a k z d => 603979873 + a.toNat * 131072 + k.toNat * 16384 + z.toNat * 8192 + d.toNat * 128
  | .vmov a k z d => 637534305 + a.toNat * 131072 + k.toNat * 16384 + z.toNat * 8192 + d.toNat * 128
  | .vfadd b a k z d => 1073741921 + b.toNat * 2097152 + a.toNat * 131072 + k.toNat * 16384 + z.toNat * 8192 + d.toNat * 128
  | .vfsub b a k z d => 1107296353 + b.toNat * 2097152 + a.toNat * 131072 + k.toNat * 16384 + z.toNat * 8192 + d.toNat * 128
  | .vfmul b a k z d => 1140850785 + b.toNat * 2097152 + a.toNat * 131072 + k.toNat * 16384 + z.toNat * 8192 + d.toNat * 128
  | .vfmin b a k z d => 1174405217 + b.toNat * 2097152 + a.toNat * 131072 + k.toNat * 16384 + z.toNat * 8192 + d.toNat * 128
  | .vfmax b a k z d => 1207959649 + b.toNat * 2097152 + a.toNat * 131072 + k.toNat * 16384 + z.toNat * 8192 + d.toNat * 128
  | .vfabs a k z d => 1241514081 + a.toNat * 131072 + k.toNat * 16384 + z.toNat * 8192 + d.toNat * 128
  | .vfneg a k z d => 1275068513 + a.toNat * 131072 + k.toNat * 16384 + z.toNat * 8192 + d.toNat * 128
  | .vadds g a k z d => 2147483745 + g.toNat * 524288 + a.toNat * 32768 + k.toNat * 4096 + z.toNat * 2048 + d.toNat * 128
  | .vsubs g a k z d => 2181038177 + g.toNat * 524288 + a.toNat * 32768 + k.toNat * 4096 + z.toNat * 2048 + d.toNat * 128
  | .vmuls g a k z d => 2214592609 + g.toNat * 524288 + a.toNat * 32768 + k.toNat * 4096 + z.toNat * 2048 + d.toNat * 128
  | .vmulhs g a k z d => 2248147041 + g.toNat * 524288 + a.toNat * 32768 + k.toNat * 4096 + z.toNat * 2048 + d.toNat * 128
  | .vmulhus g a k z d => 2281701473 + g.toNat * 524288 + a.toNat * 32768 + k.toNat * 4096 + z.toNat * 2048 + d.toNat * 128
  | .vmins g a k z d => 2315255905 + g.toNat * 524288 + a.toNat * 32768 + k.toNat * 4096 + z.toNat * 2048 + d.toNat * 128
  | .vmaxs g a k z d => 2348810337 + g.toNat * 524288 + a.toNat * 32768 + k.toNat * 4096 + z.toNat * 2048 + d.toNat * 128
  | .vminus g a k z d => 2382364769 + g.toNat * 524288 + a.toNat * 32768 + k.toNat * 4096 + z.toNat * 2048 + d.toNat * 128
  | .vmaxus g a k z d => 2415919201 + g.toNat * 524288 + a.toNat * 32768 + k.toNat * 4096 + z.toNat * 2048 + d.toNat * 128
  | .vands g a k z d => 2449473633 + g.toNat * 524288 + a.toNat * 32768 + k.toNat * 4096 + z.toNat * 2048 + d.toNat * 128
  | .vors g a k z d => 2483028065 + g.toNat * 524288 + a.toNat * 32768 + k.toNat * 4096 + z.toNat * 2048 + d.toNat * 128
  | .vxors g a k z d => 2516582497 + g.toNat * 524288 + a.toNat * 32768 + k.toNat * 4096 + z.toNat * 2048 + d.toNat * 128
  | .vandns g a k z d => 2550136929 + g.toNat * 524288 + a.toNat * 32768 + k.toNat * 4096 + z.toNat * 2048 + d.toNat * 128
  | .vshls g a k z d => 2583691361 + g.toNat * 524288 + a.toNat * 32768 + k.toNat * 4096 + z.toNat * 2048 + d.toNat * 128
  | .vshrs g a k z d => 2617245793 + g.toNat * 524288 + a.toNat * 32768 + k.toNat * 4096 + z.toNat * 2048 + d.toNat * 128
  | .vsars g a k z d => 2650800225 + g.toNat * 524288 + a.toNat * 32768 + k.toNat * 4096 + z.toNat * 2048 + d.toNat * 128
  | .vaddsats g a k z d => 2684354657 + g.toNat * 524288 + a.toNat * 32768 + k.toNat * 4096 + z.toNat * 2048 + d.toNat * 128
  | .vsubsats g a k z d => 2717909089 + g.toNat * 524288 + a.toNat * 32768 + k.toNat * 4096 + z.toNat * 2048 + d.toNat * 128
  | .vfadds g a k z d => 3221225569 + g.toNat * 524288 + a.toNat * 32768 + k.toNat * 4096 + z.toNat * 2048 + d.toNat * 128
  | .vfsubs g a k z d => 3254780001 + g.toNat * 524288 + a.toNat * 32768 + k.toNat * 4096 + z.toNat * 2048 + d.toNat * 128
  | .vfmuls g a k z d => 3288334433 + g.toNat * 524288 + a.toNat * 32768 + k.toNat * 4096 + z.toNat * 2048 + d.toNat * 128
  | .vfmins g a k z d => 3321888865 + g.toNat * 524288 + a.toNat * 32768 + k.toNat * 4096 + z.toNat * 2048 + d.toNat * 128
  | .vfmaxs g a k z d => 3355443297 + g.toNat * 524288 + a.toNat * 32768 + k.toNat * 4096 + z.toNat * 2048 + d.toNat * 128
  | .vfma b a k z d => 99 + b.toNat * 2097152 + a.toNat * 131072 + k.toNat * 16384 + z.toNat * 8192 + d.toNat * 128
  | .vfms b a k z d => 33554531 + b.toNat * 2097152 + a.toNat * 131072 + k.toNat * 16384 + z.toNat * 8192 + d.toNat * 128
  | .vfnma b a k z d => 67108963 + b.toNat * 2097152 + a.toNat * 131072 + k.toNat * 16384 + z.toNat * 8192 + d.toNat * 128
  | .vfnms b a k z d => 100663395 + b.toNat * 2097152 + a.toNat * 131072 + k.toNat * 16384 + z.toNat * 8192 + d.toNat * 128
  | .vmad b a k z d => 268435555 + b.toNat * 2097152 + a.toNat * 131072 + k.toNat * 16384 + z.toNat * 8192 + d.toNat * 128
  | .vdot4i8 b a k z d => 301989987 + b.toNat * 2097152 + a.toNat * 131072 + k.toNat * 16384 + z.toNat * 8192 + d.toNat * 128
  | .vfmas g a k z d => 2147483747 + g.toNat * 524288 + a.toNat * 32768 + k.toNat * 4096 + z.toNat * 2048 + d.toNat * 128
  | .vfmss g a k z d => 2181038179 + g.toNat * 524288 + a.toNat * 32768 + k.toNat * 4096 + z.toNat * 2048 + d.toNat * 128
  | .vfnmas g a k z d => 2214592611 + g.toNat * 524288 + a.toNat * 32768 + k.toNat * 4096 + z.toNat * 2048 + d.toNat * 128
  | .vfnmss g a k z d => 2248147043 + g.toNat * 524288 + a.toNat * 32768 + k.toNat * 4096 + z.toNat * 2048 + d.toNat * 128
  | .vmads g a k z d => 2415919203 + g.toNat * 524288 + a.toNat * 32768 + k.toNat * 4096 + z.toNat * 2048 + d.toNat * 128
  | .vdot4i8s g a k z d => 2449473635 + g.toNat * 524288 + a.toNat * 32768 + k.toNat * 4096 + z.toNat * 2048 + d.toNat * 128
  | .vcmp c b a k z d => 107 + c.toNat * 33554432 + b.toNat * 2097152 + a.toNat * 131072 + k.toNat * 16384 + z.toNat * 8192 + d.toNat * 128
  | .vcmps c g a k z d => 2147483755 + c.toNat * 33554432 + g.toNat * 524288 + a.toNat * 32768 + k.toNat * 4096 + z.toNat * 2048 + d.toNat * 128
  | .vld q g k z d => 101 + q.toNat * 536870912 + g.toNat * 524288 + k.toNat * 4096 + z.toNat * 2048 + d.toNat * 128
  | .vst q g k z d => 33554533 + q.toNat * 536870912 + g.toNat * 524288 + k.toNat * 4096 + z.toNat * 2048 + d.toNat * 128
  | .vgath q g a k z d => 67108965 + q.toNat * 536870912 + g.toNat * 524288 + a.toNat * 32768 + k.toNat * 4096 + z.toNat * 2048 + d.toNat * 128
  | .vscat q g a k z d => 100663397 + q.toNat * 536870912 + g.toNat * 524288 + a.toNat * 32768 + k.toNat * 4096 + z.toNat * 2048 + d.toNat * 128
  | .vlds g k z d => 134217829 + g.toNat * 524288 + k.toNat * 4096 + z.toNat * 2048 + d.toNat * 128
  | .vsts g k z d => 167772261 + g.toNat * 524288 + k.toNat * 4096 + z.toNat * 2048 + d.toNat * 128
  | .vldsx g a k z d => 201326693 + g.toNat * 524288 + a.toNat * 32768 + k.toNat * 4096 + z.toNat * 2048 + d.toNat * 128
  | .vstsx g a k z d => 234881125 + g.toNat * 524288 + a.toNat * 32768 + k.toNat * 4096 + z.toNat * 2048 + d.toNat * 128
  | .vredadd g a k => 103 + g.toNat * 524288 + a.toNat * 32768 + k.toNat * 4096
  | .vredmin g a k => 33554535 + g.toNat * 524288 + a.toNat * 32768 + k.toNat * 4096
  | .vredmax g a k => 67108967 + g.toNat * 524288 + a.toNat * 32768 + k.toNat * 4096
  | .vredminu g a k => 100663399 + g.toNat * 524288 + a.toNat * 32768 + k.toNat * 4096
  | .vredmaxu g a k => 134217831 + g.toNat * 524288 + a.toNat * 32768 + k.toNat * 4096
  | .vredor g a k => 167772263 + g.toNat * 524288 + a.toNat * 32768 + k.toNat * 4096
  | .vredand g a k => 201326695 + g.toNat * 524288 + a.toNat * 32768 + k.toNat * 4096
  | .vredfadd g a k => 268435559 + g.toNat * 524288 + a.toNat * 32768 + k.toNat * 4096
  | .vredfmin g a k => 301989991 + g.toNat * 524288 + a.toNat * 32768 + k.toNat * 4096
  | .vredfmax g a k => 335544423 + g.toNat * 524288 + a.toNat * 32768 + k.toNat * 4096
  | .vbcast g k z d => 536871015 + g.toNat * 524288 + k.toNat * 4096 + z.toNat * 2048 + d.toNat * 128
  | .vext g a k => 570425447 + g.toNat * 524288 + a.toNat * 32768 + k.toNat * 4096
  | .vperm b a k z d => 603979879 + b.toNat * 2097152 + a.toNat * 131072 + k.toNat * 16384 + z.toNat * 8192 + d.toNat * 128
  | .vrotl g a k z d => 637534311 + g.toNat * 524288 + a.toNat * 32768 + k.toNat * 4096 + z.toNat * 2048 + d.toNat * 128
  | .vcomp a k d => 671088743 + a.toNat * 131072 + k.toNat * 16384 + d.toNat * 128
  | .viota k z d => 704643175 + k.toNat * 16384 + z.toNat * 8192 + d.toNat * 128
  | .kand b a d => 1073741927 + b.toNat * 524288 + a.toNat * 8192 + d.toNat * 128
  | .kor b a d => 1107296359 + b.toNat * 524288 + a.toNat * 8192 + d.toNat * 128
  | .kxor b a d => 1140850791 + b.toNat * 524288 + a.toNat * 8192 + d.toNat * 128
  | .kandn b a d => 1174405223 + b.toNat * 524288 + a.toNat * 8192 + d.toNat * 128
  | .knot a d => 1207959655 + a.toNat * 8192 + d.toNat * 128
  | .kmovg a d => 1241514087 + a.toNat * 8192 + d.toNat * 128
  | .krd a d => 1275068519 + a.toNat * 8192 + d.toNat * 128
  | .kpopc a d => 1308622951 + a.toNat * 8192 + d.toNat * 128
  | .kfirst a d => 1342177383 + a.toNat * 8192 + d.toNat * 128
  | .vcvtfi a k z d => 105 + a.toNat * 131072 + k.toNat * 16384 + z.toNat * 8192 + d.toNat * 128
  | .vcvtif a k z d => 33554537 + a.toNat * 131072 + k.toNat * 16384 + z.toNat * 8192 + d.toNat * 128
  | .vcvtuf a k z d => 67108969 + a.toNat * 131072 + k.toNat * 16384 + z.toNat * 8192 + d.toNat * 128
  | .vcvtfu a k z d => 100663401 + a.toNat * 131072 + k.toNat * 16384 + z.toNat * 8192 + d.toNat * 128
  | .vpack f p a k z d => 268435561 + f.toNat * 33554432 + p.toNat * 2097152 + a.toNat * 131072 + k.toNat * 16384 + z.toNat * 8192 + d.toNat * 128
  | .vunpk f p a k z d => 536871017 + f.toNat * 33554432 + p.toNat * 2097152 + a.toNat * 131072 + k.toNat * 16384 + z.toNat * 8192 + d.toNat * 128
  | .vcbd g a k z d => 1073741929 + g.toNat * 524288 + a.toNat * 32768 + k.toNat * 4096 + z.toNat * 2048 + d.toNat * 128
  | .vcbdi g a k z d => 1107296361 + g.toNat * 524288 + a.toNat * 32768 + k.toNat * 4096 + z.toNat * 2048 + d.toNat * 128
  | .wing b a d => 1610612841 + b.toNat * 524288 + a.toNat * 8192 + d.toNat * 128
  | .vwing g a k z d => 1644167273 + g.toNat * 524288 + a.toNat * 32768 + k.toNat * 4096 + z.toNat * 2048 + d.toNat * 128
  | .mand b a d => 113 + b.toNat * 524288 + a.toNat * 8192 + d.toNat * 128
  | .mor b a d => 33554545 + b.toNat * 524288 + a.toNat * 8192 + d.toNat * 128
  | .mxor b a d => 67108977 + b.toNat * 524288 + a.toNat * 8192 + d.toNat * 128
  | .mandn b a d => 100663409 + b.toNat * 524288 + a.toNat * 8192 + d.toNat * 128
  | .mnot a d => 134217841 + a.toNat * 8192 + d.toNat * 128
  | .mmov a d => 167772273 + a.toNat * 8192 + d.toNat * 128
  | .mclr d => 201326705 + d.toNat * 128
  | .mfill a d => 234881137 + a.toNat * 8192 + d.toNat * 128
  | .mbset a d => 268435569 + a.toNat * 8192 + d.toNat * 128
  | .mbclr a d => 301990001 + a.toNat * 8192 + d.toNat * 128
  | .mbtst b a d => 335544433 + b.toNat * 524288 + a.toNat * 8192 + d.toNat * 128
  | .mpopc a d => 369098865 + a.toNat * 8192 + d.toNat * 128
  | .mfirst a d => 402653297 + a.toNat * 8192 + d.toNat * 128
  | .mnext b a d => 436207729 + b.toNat * 524288 + a.toNat * 8192 + d.toNat * 128
  | .mgetw b a d => 469762161 + b.toNat * 524288 + a.toNat * 8192 + d.toNat * 128
  | .mputw b a d => 503316593 + b.toNat * 524288 + a.toNat * 8192 + d.toNat * 128
  | .mld a d => 536871025 + a.toNat * 8192 + d.toNat * 128
  | .mst b a => 570425457 + b.toNat * 524288 + a.toNat * 8192
  | .stand b a d => 115 + b.toNat * 524288 + a.toNat * 8192 + d.toNat * 128
  | .leave a => 33554547 + a.toNat * 8192
  | .split s t i => 67108979 + s.toNat * 8388608 + t.toNat * 2097152 + i.toNat * 128
  | .qld w a d => 268435571 + w.toNat * 524288 + a.toNat * 8192 + d.toNat * 128
  | .qldd w a d => 301990003 + w.toNat * 524288 + a.toNat * 8192 + d.toNat * 128
  | .qst b a w => 335544435 + b.toNat * 524288 + a.toNat * 8192 + w.toNat * 128
  | .qstd b a w => 369098867 + b.toNat * 524288 + a.toNat * 8192 + w.toNat * 128
  | .qeval c b a d w => 536871027 + c.toNat * 33554432 + b.toNat * 524288 + a.toNat * 131072 + d.toNat * 32768 + w.toNat * 128
  | .cpy s q r t n => 117 + s.toNat * 4194304 + q.toNat * 2097152 + r.toNat * 1048576 + t.toNat * 524288 + n.toNat * 128
  | .cpyg s q r t n => 33554549 + s.toNat * 4194304 + q.toNat * 2097152 + r.toNat * 1048576 + t.toNat * 524288 + n.toNat * 128
  | .mcpost s q r t n => 67108981 + s.toNat * 4194304 + q.toNat * 2097152 + r.toNat * 1048576 + t.toNat * 524288 + n.toNat * 128
  | .ttset b a d => 2147483765 + b.toNat * 524288 + a.toNat * 8192 + d.toNat * 128
  | .tqadd a => 2181038197 + a.toNat * 8192
  | .accsv b a => 2214592629 + b.toNat * 524288 + a.toNat * 8192
  | .accsvk b a => 2248147061 + b.toNat * 524288 + a.toNat * 8192
  | .accld b a => 2281701493 + b.toNat * 524288 + a.toNat * 8192
  | .send r n b a p => 119 + r.toNat * 536870912 + n.toNat * 33554432 + b.toNat * 524288 + a.toNat * 8192 + p.toNat * 128
  | .amret => 2147483767
  | .rfill b a d => 2181038199 + b.toNat * 524288 + a.toNat * 8192 + d.toNat * 128
  | .rfillm b a d => 2214592631 + b.toNat * 524288 + a.toNat * 8192 + d.toNat * 128
  | .rfillv b a d => 2248147063 + b.toNat * 524288 + a.toNat * 8192 + d.toNat * 128
  | .rfillc b a d => 2281701495 + b.toNat * 524288 + a.toNat * 8192 + d.toNat * 128
  | .lturn b a d => 2415919223 + b.toNat * 524288 + a.toNat * 8192 + d.toNat * 128
  | .rds c d => 121 + c.toNat * 8192 + d.toNat * 128
  | .wrs c s => 33554553 + c.toNat * 8192 + s.toNat * 128
  | .rdts d => 67108985 + d.toNat * 128
  | .logmark a => 100663417 + a.toNat * 8192
  | .trap i => 268435577 + i.toNat * 8192
  | .brk => 301990009
  | .rtt => 335544441
  | .icinv => 369098873
  | .plbinv a => 536871033 + a.toNat * 8192
  | .halt => 570425465
  | .evsig b a => 603979897 + b.toNat * 524288 + a.toNat * 8192
  | .lentCycle _ => 0
  | .fillLands _ => 0
  | .errorResponse _ => 0
  | .storeAck _ => 0
  | .dividerFill _ _ _ _ => 0
  | .faultNotice _ => 0
  | .faultWakeRejoin _ => 0
  | .dequeTake _ => 0
  | .stealAttempt _ => 0
  | .stealRequest _ _ => 0
  | .stealReply _ _ _ => 0
  | .dequeRefill _ => 0
  | .resourceRequest _ _ _ _ => 0
  | .resourceRestart _ => 0
  | .messageArrival _ => 0
  | .handlerStart _ => 0
  | .rfillArrival _ => 0
  | .evsigDelivery _ => 0
  | .bankAccess _ => 0
  | .homeAccess _ => 0
  | .partialEviction _ _ => 0
  | .bellUpdate _ => 0
  | .barrierArrival _ => 0
  | .waitBellNotice _ => 0
  | .fenceProbe _ _ _ => 0
  | .fenceEcho _ _ _ => 0
  | .atomicIntervalEnd _ => 0
  | .plbRefill _ _ _ => 0
  | .copyAccept _ => 0
  | .copyStart _ => 0
  | .copyShare _ => 0
  | .copyComplete _ => 0
  | .mcpostDelivery _ => 0
  | .ttsetServe _ => 0
  | .taskAccept _ => 0
  | .taskDispatch _ => 0
  | .kStep _ => 0
  | .taskDrain _ => 0
  | .taskComplete _ => 0
  | .accumulatorMoveRun _ => 0
  | .engineSelfTest _ _ => 0
  | .rollCallArrival _ => 0
  | .rollCallLeave _ => 0
  | .packetHop _ => 0
  | .outputAging _ => 0
  | .packetDelivery _ => 0
  | .turnRequest _ => 0
  | .turnBoundary _ => 0
  | .groupTurnDone _ _ => 0
  | .notifyStore _ _ _ _ => 0
  | .headerPoll _ _ => 0
  | .dispatchOpportunity _ => 0
  | .queueAging _ _ => 0
  | .launch _ _ => 0
  | .launchStart _ _ => 0
  | .launchStateArrival _ _ => 0
  | .launchComplete _ => 0
  | .waitsig _ _ => 0
  | .nopPacket _ _ => 0
  | .setdet _ => 0
  | .setdetComplete _ => 0
  | .csrw _ => 0
  | .qcreate _ => 0
  | .qdestroy _ => 0
  | .resize _ => 0
  | .abort _ => 0
  | .reservedPacketType _ _ => 0
  | .eventRetry _ => 0
  | .faultRetry _ => 0
  | .fqtailWrite _ _ => 0
  | .wake _ _ => 0
  | .nqtailWrite _ _ => 0
  | .ndone _ _ => 0
  | .novfWrite _ _ => 0
  | .inval _ _ => 0
  | .invalidationDone _ => 0
  | .eqtailWrite _ _ => 0
  | .managementWrite _ _ => 0
  | .preemptSave _ _ _ => 0
  | .preemptResume _ _ _ => 0
  | .pestatRead _ => 0
  | .rmdata _ _ => 0
  | .remapInstallDone _ => 0
  | .meshInterrupt _ => 0
  | .coreStop _ => 0
  | .quiesceDone _ => 0
  | .imageWritten _ => 0
  | .engineSectionRestore _ _ => 0
  | .spillRedelivery _ => 0
  | .resumeDone _ => 0
  | .coreGate _ => 0
  | .coreWake _ => 0
  | .rollRecordWrite _ => 0
  | .logtailWrite _ _ => 0
  | .rollRecordTake _ => 0
  | .hostAccess _ => 0
  | .hostAtomic _ _ _ _ => 0
  | .sysatomCasLoop _ => 0
  | .reductionContribution _ _ _ _ => 0
  | .timestampCorrection _ => 0
  | .ethernetTransmit _ => 0
  | .ethernetReceive _ _ _ => 0
  | .moduleReset => 0
  | .resetStepDone _ => 0
  | .fwgo _ _ => 0
  | .firmwareReady _ => 0
  | .firmwareFault _ => 0
  | .scrubRead _ => 0
  | .eltailWrite _ _ => 0
  | .illegalEncoding _ => 0
  | .proctorProxyComplete _ => 0
  | .overflowMemoryGrant _ _ => 0
  | .clockLock _ => 0
  | .linkGroupFence _ => 0

/-- The bytes of an instruction in memory (R4, R48). -/
def encode (x : Instr) : List Byte := natToBytes x.size x.word

end Sys2Proof
end

