-- ==== Sys2Proof/Machine/State.lean ====
section
/-!
DEFINITION. The state of the module as plain data, the reasons a step can stop, and the state after reset (23 R412).
INVENTORY.md lists each piece of state with its rule and its reset value.
-/

namespace Sys2Proof.Machine

/-- Why the machine stops with a fault. -/
inductive Fault where
  /-- Raised by SCRUB_READ alone, for a storage word that is neither SRAM nor HBM (R414 scrubs only those). Safe: the
  scrubber of the module never reads one. -/
  | noSuchWord
deriving DecidableEq, Repr

/-- Why a step has no meaning. -/
inductive Refusal where
  /-- Raised by an arm of the dispatch that is not modelled yet, by its mnemonic; no arm uses it now. Safe: the run stops. -/
  | notModelled (mnemonic : String)
deriving DecidableEq, Repr

/-! ## Registers and threads -/

/-- The full/empty state of a register, with the marks of an error, a refusal or a divergence (R22, R125, R325; the
codes are those of R381). A marked register's value holds its mark address. -/
inductive RegState where
  | void | full | pending | expecting | errorMark | refusalMark | divergeMark
deriving DecidableEq, Repr, Inhabited

/-- A register of width `w` with its full/empty state (R8, R22). -/
structure Reg (w : Nat) where
  val : BitVec w := 0
  st : RegState := .void
deriving DecidableEq, Repr, Inhabited

/-- The four register classes that carry a full/empty state (R8); the order is that of R326. -/
inductive RegClass where
  | g | m | v | c
deriving DecidableEq, Repr, Inhabited

/-- A register of a thread by class and index. -/
structure RegRef where
  cls : RegClass
  idx : Nat
deriving DecidableEq, Repr, Inhabited

/-- Privilege levels (R318). -/
inductive Level where
  | U | S | F
deriving DecidableEq, Repr, Inhabited

/-- The five thread kinds (R14), and the firmware threads of R318. -/
inductive Kind where
  | launch | continuation | split | memCore | handler | firmware
deriving DecidableEq, Repr, Inhabited

/-- An active loop: start, end and remaining passes (R89, R90). -/
structure LoopState where
  start : Word
  stop : Word
  remaining : Word
deriving DecidableEq, Repr, Inhabited

/-- Why a thread is parked; each reason names what makes it try its instruction again (R22, R27, R74, R327). -/
inductive Park where
  /-- on a register that is PENDING (R22) -/
  | reg (r : RegRef)
  /-- on a count of outstanding operations, a full unit queue or a held release (R140, R141, R239, R256) -/
  | count
  /-- on an acquire that holds later accesses (R110) -/
  | acquire
  /-- on a reply, wait or echo of the instruction itself (R94-R96, R118, R135-R139, R218) -/
  | reply
  /-- on a PLB refill (R354) -/
  | plb
  /-- on a page fault of the fetch (R50) -/
  | fetch
  /-- on the proctor's restart (R327) -/
  | restart
  /-- on the order roll: low space (R397) or a record not yet taken (R400) -/
  | roll
  /-- on its event latch (R329 HALT) -/
  | latch
deriving DecidableEq, Repr, Inhabited

/-- How far an instruction of several parts has come while its thread is parked (R94-R96, R118, R135, R137, R218). -/
inductive Phase where
  | idle
  | sent
  | done
  | failed (cause : Nat) (addr : Word)
  | left (closed : Bool)
  /-- the rights of this many of its regions are checked (R233, R354) -/
  | rights (regions : Nat)
  /-- a `SPAWN` with this many header replies to come (R94) -/
  | spawn (replies : Nat)
  | searched
deriving DecidableEq, Repr, Inhabited

/-- A thread of one slot: everything R381 saves, and the model's own bookkeeping of its parking. -/
structure Thread where
  occupied : Bool := false
  kind : Kind := .launch
  epoch : Nat := 0
  lti : BitVec 32 := 0
  part : Nat := 0
  ctx : Nat := 0
  launch : Option Nat := none
  level : Level := .U
  pc : Word := 0
  link : Word := 0
  g : Tbl (Reg 64) := []
  m : Tbl (Reg 1024) := []
  v : Tbl (Reg 1024) := []
  c : Tbl (Reg 128) := []
  k : Tbl (BitVec 32) := []
  loopU : Option LoopState := none
  loopS : Option LoopState := none
  bufU : List Byte := []
  bufS : List Byte := []
  fpctl : Word := 0
  qbase : Word := 0
  qrec : Word := 0
  tbanks : Word := 0
  epc : Word := 0
  ecause : Word := 0
  einfo : Word := 0
  estat : Word := 0
  escr : Word := 0
  elcnt : Word := 0
  elctl : Word := 0
  elstart : Word := 0
  ctxsel : Word := 0
  loads : Nat := 0
  stores : Nat := 0
  copies : Nat := 0
  tiles : Nat := 0
  storeErr : Option Word := none
  atomScope : Option Word := none
  sibLimit : Option Word := none
  /-- `STV` statuses of 1 that the thread has not read yet (R130): the register (64 for g0) and the word's address. -/
  sibUnread : List (Nat × Word) := []
  nanTile : Option Word := none
  /-- A divergence report of an operation without a destination (R325). -/
  replayDiv : Option Word := none
  /-- The signal bell of the task that left the NAN report (R269), by storage key. -/
  nanBell : Option Nat := none
  /-- A `BELLWAIT` whose wait has ended, and which NAN_TILE then interrupted (R323): its address and its bell. -/
  bellDone : Option (Word × Nat) := none
  resv : Option Nat := none
  /-- The address of the `LRES` that made the reservation, by which a page's migration loses it (R120, R365). -/
  resvVa : Nat := 0
  stand : Option (Word × Nat) := none
  latch : Bool := false
  park : Option Park := none
  phase : Phase := .idle
  faulted : Nat := 0
  stopped : Bool := false
  dskip : Bool := false
  /-- A trap the thread takes before its first instruction: its cause and EINFO (R93, R346). -/
  startFault : Option (Nat × Word) := none
  /-- What the first issue of a launched thread still waits for (R298, R346): the writes of its first frame, and the start of FIXED. -/
  hold : Nat := 0
  lastIssue : Option Nat := none
  /-- The instruction a parked thread has come to issue: its checks resume behind its fetch and its debug compares (R74). -/
  word : Option (BitVec 32) := none
  /-- The thread's next issue falls in a cycle of its own slot, not a lent one (R225, R346, R383). -/
  ownCycle : Bool := false
  /-- Accesses whose acquire holds later accesses (R110). -/
  acquires : List Nat := []
  /-- Registers filled by an `RFILL`; the first read of one is an acquire (R292). -/
  rfilled : List RegRef := []
  /-- Groups whose fence echo is awaited (R135). -/
  probes : List Nat := []
  /-- Its copy commands and tile tasks that ended while its core was absent (R238, R256): its saved counts lack them. -/
  ended : Nat × Nat := (0, 0)
deriving DecidableEq, Repr, Inhabited

/-! ## Addresses and accesses in flight -/

/-- Where an address leads (R31, R36, R37): a byte of a core's scratchpad or contribution (through 0xF1, 0xF2 or 0xF4),
of a die scratchpad, or of the translated global space. -/
inductive Place where
  | global (va : Nat)
  | core (core off : Nat)
  | die (die off : Nat)
deriving DecidableEq, Repr, Inhabited

/-- Access rights of a protection region (R353). -/
structure Rights where
  r : Bool := false
  w : Bool := false
  x : Bool := false
  a : Bool := false
deriving DecidableEq, Repr, Inhabited

/-- What an access does at its bank or home (06, 08, 10, 11; R93, R136). -/
inductive MemOp where
  | load (size : Nat) (signed : Bool)
  | store (size : Nat) (value : Word)
  | amo (op : BitVec 4) (wide : Bool) (b cmp : Word)
  | famo (op : BitVec 4) (wide : Bool) (b : Word)
  | ldf | ldtk | stf (value : Word)
  | lres | scond (value : Word)
  | ldv | ldvv | stv (value : Word) | recon (op : Nat) (value : Word)
  | red (wide : Bool) (value : Word)
  | bara | barw (gen : BitVec 32)
  | bellAdd (n : BitVec 32) | bellWait (gen : BitVec 32)
  | lanesLoad (lanes : List (Nat × Nat)) (keep : BitVec 1024)
  | lanesStore (lanes : List (Nat × Nat)) (data : BitVec 1024)
  | setLoad | setStore (value : BitVec 1024)
  | eval (cond : BitVec 4) (set : BitVec 1024) (value : BitVec 32) (size : Nat)
  | codebook (block : BitVec 1024) (ints : Bool) (active : BitVec 32) (keep : BitVec 1024)
  | flush (keep : Bool) | flushAll
  | frameLink (link : Word) | frameInc | frameDec | joinRead | linkRead | startZero | ttset
  /-- operations that are no memory accesses: roll call (R217, R218), messages (R289, R292), turn requests (R293), events
  signalled to a latch (R329) -/
  | stand (set : MSet) | leave | send | rfill (cls : RegClass) (value : BitVec 1024)
  | lturn (link request : Word) | evsig (target : Nat)
deriving DecidableEq, Repr, Inhabited

/-- The outstanding class an access counts in (R140). -/
inductive CountClass where
  | none | loads | stores
deriving DecidableEq, Repr, Inhabited

/-- How an access in flight stands. -/
inductive ReqState where
  /-- on its way to its bank or home -/
  | going
  /-- in a word's queue, or a waiter of a bell, barrier or count (R119, R137, R95) -/
  | waiting
  /-- parked at its home on a page fault (R364) -/
  | parked
  /-- performed; the reply is on its way -/
  | performed
  /-- ended in an error response -/
  | failed
  /-- refused with ATOM_SCOPE (R125) -/
  | refused
  /-- refused by the replay (R325) -/
  | diverged
deriving DecidableEq, Repr, Inhabited

/-- A word of an access that names several (R36, R198, R199, R213, R223): its address and size, how it stands, and the bytes it brings back
or takes there. -/
structure Piece where
  va : Nat
  len : Nat
  /-- where it leads, as its core's names stood when it left (R273, R286) -/
  place : Place := .global va
  state : ReqState := .going
  data : List Byte := []
  /-- The word was refused by SIB_LIMIT (R165, R166). -/
  full : Bool := false
  /-- Its home slice has its line (R46). -/
  line : Bool := false
deriving DecidableEq, Repr, Inhabited

/-- A long access between its issue and its reply (R108), or a short access that waits (R118). -/
structure Req where
  id : Nat
  tid : Nat
  epoch : Nat
  op : MemOp
  va : Word
  place : Place
  dst : Option RegRef := none
  ctxReg : Option Nat := none
  vctx : VCtx := 0
  cls : CountClass := .none
  acq : Bool := false
  rel : Bool := false
  scope : Nat := 4
  typ : BitVec 2 := 0
  issued : Nat := 0
  state : ReqState := .going
  /-- The value the reply carries, and the version context it sets. -/
  val : BitVec 1024 := 0
  newCtx : VCtx := 0
  flags : BitVec 5 := 0
  errAddr : Word := 0
  /-- The slot ordinal it took (R393), for the order roll. -/
  ord : Option Nat := none
  /-- At REPLAY, its word's latest write when the acquire began to wait for its release (R400). -/
  seen : Option (Nat × Nat) := none
  /-- The words of an access of several, each with its own way to its bank or home. -/
  words : List Piece := []
  /-- The cycles from issue to a word's service and from there to its reply where its form gives them (R199, R223). -/
  back : Option Nat := none
  /-- The cycle in which the last reply of its words so far is at the core. -/
  due : Nat := 0
  /-- The address of a word that SIB_LIMIT refused (R165). -/
  sib : Option Word := none
  /-- Its home slice has the line of its word (R46). -/
  line : Bool := false
  /-- A short access that could not be performed at issue: later accesses of its thread wait for it (R109, R147). -/
  short : Bool := false
  /-- The event record that an `EVSIG` has left with a die's unit, and the die (R330). -/
  posted : Option (Nat × List Byte) := none
deriving DecidableEq, Repr, Inhabited

/-! ## Banks -/

/-- What serves one access per cycle (R46, R47, R220, R240): a bank of a core's own scratchpad, of its contribution to cluster memory or of a
die scratchpad, a home slice, a home slice of a peer module (R404), and the bank of a core's roll call. -/
inductive Server where
  | pad (core bank : Nat)
  | share (core bank : Nat)
  | die (die bank : Nat)
  | home (slice : Nat)
  | peer (modnum slice : Nat)
  | roll (core : Nat)
deriving DecidableEq, Repr, Inhabited

/-- The three window classes of a bank (R240): port traffic, copies, tile tasks. -/
inductive BankClass where
  | P | C | T
deriving DecidableEq, Repr, Inhabited

/-! ## Cores -/

/-- A deque entry (R17). -/
structure DequeEntry where
  pc : Word
  frame : Word
  lti : BitVec 32
  isSplit : Bool
  slot : Nat
  launch : Option Nat
  regs : Tbl (Reg 64)
  msReg : Nat
  ms : MSet
  ord : Nat
  core : Nat
deriving DecidableEq, Repr, Inhabited

/-- An active message in a core's queue (R26, R289, R290): handler, sender's name, slot, `LTI`, key and payload. -/
structure Msg where
  handler : Word
  src : Nat
  lti : BitVec 32
  part : Nat
  ctx : Nat
  payload : List Word
  actor : Nat
  ord : Nat
deriving DecidableEq, Repr, Inhabited

/-- A packet of the spill queue of a pre-empted core (R377): the step that serves it, the cycle of its arrival, the input port it came in by
(0 north, 1 east, 2 south, 3 west, 4 gateway, 5 the router's own), and its flits. -/
structure Spilled where
  step : Instr
  came : Nat
  port : Nat
  flits : Nat
deriving DecidableEq, Repr

/-- A thread key (R16) with the thread's place. -/
structure Key where
  lti : Nat
  name : Nat
  slot : Nat
deriving DecidableEq, Repr, Inhabited

/-- A request that waits at a server for its cycle (R240): its class, the cycle it came in, its thread's key, partition and context, the step
that serves it, and its place in the order in which requests joined. -/
structure BankItem where
  server : Server
  cls : BankClass
  came : Nat
  key : Key
  part : Nat
  ctx : Nat
  who : Instr
  turn : Nat := 0
deriving DecidableEq, Repr

/-- A server's cycles (R240): the one in which it served last, the one that a short access takes, and its pointer over the classes. -/
structure Bank where
  server : Server
  served : Option Nat := none
  short : Option Nat := none
  next : BankClass := .P
deriving DecidableEq, Repr

/-- An open roll-call entry (R215). -/
structure RollEntry where
  node : Word
  owner : Key
  tid : Nat
  reg : Nat
  set : MSet
deriving DecidableEq, Repr, Inhabited

/-- The kind of a data-cache line (R38, R39, R168). -/
inductive LineKind where
  | ow | wt | si | partialSum
deriving DecidableEq, Repr, Inhabited

/-- A 128-byte line of a core's data cache. `key` is the storage key of its first byte; `siBy` and `dirtyBy` are the
threads that loaded the SI copy and wrote the OW line (R110). A partial line holds its words' partial sums (R168). -/
structure Line where
  line : Nat
  key : Nat
  kind : LineKind
  dirty : Bool
  data : BitVec 1024
  used : Nat
  siBy : List Nat
  dirtyBy : List Nat
  /-- For a partial line: launch sequence, lci and operation (R168, R167), and which words hold a fold. -/
  launchSeq : Nat
  lci : Nat
  aop : Nat
  words : BitVec 32
  /-- an evicted partial line on its way to its home (R168): it has left the set's ways -/
  leaving : Bool := false
deriving DecidableEq, Repr, Inhabited

/-- A PLB entry (R354). -/
structure PlbEntry where
  region : Nat
  rights : Rights
  used : Nat
deriving DecidableEq, Repr, Inhabited

/-- A steal attempt in flight: its launch, the victims not yet asked (R20), and an entry a reply carries. -/
structure StealAttempt where
  launch : Nat
  victims : List Nat
  carried : Option DequeEntry
  /-- at REPLAY the slot in which the recorded entry starts (R400) -/
  slot : Option Nat
deriving DecidableEq, Repr, Inhabited

/-- A word that a copy command reads or writes once (R230, R231): the core whose unit performs it, its address and size, the bytes of the command
it holds or takes from `at_` on, how it stands (`waiting` before it is issued), the cycle of its issue, that from which the unit has what it
read, and whether its home slice has its line (R46). -/
structure CopyWord where
  unit : Nat
  write : Bool
  va : Nat
  len : Nat
  at_ : Nat
  state : ReqState
  data : List Byte
  sent : Nat
  ready : Nat
  line : Bool
deriving DecidableEq, Repr, Inhabited

/-- A command of a copy engine or copy unit (R229, R239), or a post (R232). -/
structure CopyCmd where
  id : Nat
  kind : Nat
  tid : Nat
  epoch : Nat
  core : Nat
  part : Nat
  ctx : Nat
  launch : Option Nat
  scope : Nat
  acq : Bool
  rel : Bool
  ts : Bool
  dst : Word
  src : Word
  len : Nat
  index : Word
  rowBytes : Nat
  rows : Nat
  dstStride : Nat
  srcStride : Nat
  signal : Option Nat
  waitBell : Option Nat
  waitGen : BitVec 32
  arg : Word
  unit : Nat
  lti : BitVec 32
  /-- the program's thread and its epoch, once it has started (R232) -/
  prog : Option (Nat × Nat)
  started : Option Nat
  accepted : Bool
  failed : Option Word
  /-- its start condition has held, and its first step been placed (R234) -/
  begun : Bool
  /-- the words of the index vector and then, once `rows` are made, those of its rows; the indices read (R230, R231) -/
  words : List CopyWord
  idx : List Nat
  rowsMade : Bool
  /-- it reads everything before it writes (R231, R235); it runs inside its core's own scratchpad (R242) -/
  whole : Bool
  inPad : Bool
  ended : Bool
  ord : Option Nat
  /-- the regions of its rows whose read right is checked (R231, R354) -/
  cleared : Nat := 0
deriving DecidableEq, Repr, Inhabited

/-- A tensor-table entry (R247) with its addresses resolved to places. -/
structure Tensor where
  base : Word
  sbase : Word
  cbook : Word
  rows : Nat
  cols : Nat
  stride : Nat
  sstride : Nat
  fmt : Nat
  core : Nat
deriving DecidableEq, Repr, Inhabited

/-- A command of a die's tile-task scheduler (R256): 0 TTSET, 1 task, 2 ACCSV, 3 ACCSVK, 4 ACCLD. `tag` is the output tag, `chainTag`
the input tag; a wait-bell is none once its generation has been seen to differ (R257). -/
structure TileCmd where
  id : Nat
  kind : Nat
  tid : Nat
  epoch : Nat
  core : Nat
  part : Nat
  ctx : Nat
  launch : Option Nat
  die : Nat
  record : List Byte
  addr : Nat
  operand : Word
  tag : Option Nat
  chainTag : Option Nat
  signal : Option Nat
  a : Option Tensor
  b : Option Tensor
  cT : Option Tensor
  d : Option Tensor
  r : Option Tensor
  wb0 : Option Nat
  gen0 : BitVec 32
  wb1 : Option Nat
  gen1 : BitVec 32
  idx : List Nat
  accepted : Option Nat
  /-- its place in the order of acceptance -/
  order : Nat
  engine : Option Nat
  dispatched : Option Nat
  step : Nat
  /-- the operands read for the next k-step and the one behind it (R260): of each feeding row of A and of B the codes, or a CB2 group's indices
  and codebook entries, and the scale byte -/
  latch : List (List (List Nat × Nat) × List (List Nat × Nat))
  code : Nat
  report : Option (BitVec 128)
  ended : Bool
  ord : Option Nat
  /-- its thread's `LTI`, for its key at the banks (R240) -/
  lti : BitVec 32 := 0
  /-- the words that the present phase reads or writes, each with the cycle from which it is at its bank and, once performed, that of its answer (R240, R271) -/
  words : List CopyWord := []
  /-- the cycle in which the present phase began, and that before which it does not end: its unloaded time (R271) -/
  from_ : Nat := 0
  upto : Nat := 0
  /-- the cycle in which the running k-step ends (R260) -/
  ends : Option Nat := none
deriving DecidableEq, Repr, Inhabited

/-- A matrix engine (R245, R263, R270): its accumulator, the command that runs, the held tags (context and tag) with the accumulator's
rows and columns, the tasks run, whether it is out of service, and the signal bell of its latest task. -/
structure Engine where
  acc : Tbl (BitVec 32) := []
  task : Option Nat := none
  held : List (Nat × Nat) := []
  dims : Nat × Nat := (0, 0)
  count : Nat := 0
  /-- the test behind each 256th task delays the next dispatch (R270) -/
  test : Bool := false
  out : Bool := false
  /-- the sub-arrays fenced since reset (R270) -/
  fenced : BitVec 16 := 0
  lastBell : Option Nat := none
  idleSince : Nat := 0
deriving DecidableEq, Repr, Inhabited

/-- A compute core or a memory core (R10, R17, R26, R38, R215, R239, R354, R376, R388). -/
structure Core where
  moved : Option Nat := none
  lendPtr : Nat := 0
  /-- the slot a cycle is lent to, the cycle, and the lending pointer from before it (R13) -/
  grant : Option (Nat × Nat × Nat) := none
  /-- the cycle of its latest issue (R10) -/
  issuedAt : Option Nat := none
  deque : List DequeEntry := []
  /-- the deque's overflow area (R18), as a list: where in memory it lies and in what form the manual does not say, and no byte of memory changes
  with it (DESIGN CHOICE, log 10) -/
  dequeOvf : List DequeEntry := []
  idle : Nat := 0
  steal : Option StealAttempt := none
  stolen : Option DequeEntry := none
  /-- At REPLAY, new threads of `SPLIT` that wait for their recorded slot (R226). -/
  held : List (Nat × DequeEntry) := []
  msgs : List Msg := []
  msgSpill : List Msg := []
  roll : List RollEntry := []
  rollOvf : List RollEntry := []
  lines : List Line := []
  fetched : Tbl (BitVec 16) := []
  /-- how many overwritten halfwords there were at its latest `ICINV` (R51) -/
  icinv : Nat := 0
  plb : List PlbEntry := []
  copyq : List Nat := []
  engine : Engine := {}
  postq : List Nat := []
  postOvf : List Nat := []
  gated : Bool := false
  quiet : Nat := 0
  halted : Bool := false
  diverted : Bool := false
  /-- the divert cycle (R376, R379) -/
  divertAt : Nat := 0
  /-- what has arrived for the core since the divert cycle, in arrival order (R377) -/
  spilled : List Spilled := []
  /-- what has been delivered again of it since its resume (R384) -/
  resent : List Instr := []
  /-- its spill ring, as PESPILL gives it, the size in bytes of the ring and the segments linked to it, and the bytes of the records that have
  been delivered again -/
  spillArea : Option Word := none
  spillSize : Nat := 0
  spillBase : Nat := 0
  dirty : BitVec 256 := 0
  steals : Nat := 0
  /-- the first cycle in which its query evaluator takes members again (R223) -/
  evalAt : Nat := 0
deriving DecidableEq, Repr, Inhabited

/-! ## Homes, dies, links -/

/-- A sibling of a SIB word (R160): value, writer, vector of dots, sequence number. -/
structure Sibling where
  value : Word
  writer : Nat
  vec : List (Nat × Nat)
  seq : Nat
deriving DecidableEq, Repr, Inhabited

/-- The sibling header of a word (R160); `overflow` says its entries lie in the overflow region (R161). -/
structure SibWord where
  seq : Nat
  live : List Sibling
  /-- what a context names the word by: the address of its first write (R162) -/
  name : Nat
  /-- the dots of every accepted write of the word with its sequence number, for what a context observes (R162) -/
  past : List Sibling
  used : Nat
  overflow : Bool
  /-- the address it was last written through (R365) -/
  va : Nat
deriving DecidableEq, Repr, Inhabited

/-- A partial held at a home for one contributing core (R168): launch sequence, lci, word key, value. -/
structure Partial where
  key : Nat
  launchSeq : Nat
  lci : Nat
  aop : Nat
  value : Word
  /-- the word's address (R365) -/
  va : Nat
deriving DecidableEq, Repr, Inhabited

/-- What is parked on a faulting block (R364): an access, a fetch, a copy or tile command, or another agent: 1 the roll unit of
context `unit`, 2 the command processor for queue `unit`, 4 a launch of that number. -/
inductive Parked where
  | req (id piece : Nat)
  | fetch (tid epoch : Nat)
  | copy (id word : Nat)
  | tile (id : Nat)
  | agent (kind unit : Nat)
deriving DecidableEq, Repr, Inhabited

/-- A parked list of one 4 KiB block (R364). -/
structure ParkList where
  block : Nat
  token : Nat
  cause : Nat
  written : Bool
  items : List Parked
  record : List Byte
deriving DecidableEq, Repr, Inhabited

/-- A migration counter entry (R366, R367): 0 IDLE, 1 QUEUED, 2 LOST. -/
structure Counter where
  page : Nat
  big : Bool
  count : Nat
  cand : Nat
  weight : Nat
  state : Nat
deriving DecidableEq, Repr, Inhabited

/-- A translated page: attributes of its leaf, and the physical address of the byte (R358, R359). -/
structure Page where
  place : Nat
  pa : Nat
  cls : Nat
  sib : Bool
  accum : Bool
  aop : Nat
  sysatom : Bool
  bias : Nat
  homed : Bool
  die : Nat
  /-- log2 of the page's size -/
  log : Nat
  /-- for a page in a peer-module window, 1 and the peer's module number; otherwise 0 (R404) -/
  peer : Nat := 0
deriving DecidableEq, Repr, Inhabited

/-- A translation that a home slice holds (R361): its 4 KiB block with the page of the block's first byte, the cycle at which its walk ends, and the
FIXED context in whose reserved entries it lies. -/
structure Walk where
  block : Nat
  page : Page
  ready : Nat
  ctx : Option Nat
deriving DecidableEq, Repr, Inhabited

/-- A request to a sibling word that its slice's proctor serves (R161): the word, the step that performs the request, and whether the proctor
has come to it. -/
structure SibProxy where
  key : Nat
  who : Instr
  granted : Bool
deriving DecidableEq, Repr

/-- A home slice (R37, R160, R168, R361, R364, R366, R370). -/
structure Slice where
  parked : List ParkList := []
  /-- the faulting accesses beyond 256 that wait at its input, in arrival order (R364) -/
  faultIn : List Parked := []
  sibs : Tbl SibWord := []
  /-- the requests that wait for the proctor, in arrival order (R161) -/
  proxies : List SibProxy := []
  partials : List Partial := []
  counters : Tbl Counter := []
  samples : Nat := 0
  /-- the translations it holds, oldest first -/
  walks : List Walk := []
deriving DecidableEq, Repr, Inhabited

/-- A ring of the fault control page (R362): base, log2 size, records written, records consumed. -/
structure Ring where
  base : Word := 0
  size : Nat := 0
  head : Word := 0
  tail : Word := 0
  irq : Bool := false
deriving DecidableEq, Repr, Inhabited

/-- A request of the pre-emption unit (R375): save or resume, core, tag and the latched areas. -/
structure PeReq where
  save : Bool
  core : Nat
  tag : Nat
  /-- none for a request of the command processor, which keeps the image in its own memory (R351); `spill` then numbers the absent core
  that a resume brings back -/
  img : Option Word
  spill : Word
  stage : Nat
deriving DecidableEq, Repr, Inhabited

/-- A pending RESOURCE request of a die (R327): its kind, address and the place of its issuer's thread, and whether it waits until the driver grants
overflow memory. -/
structure Resource where
  kind : Nat
  addr : Nat
  tid : Option Nat
  waits : Bool
deriving DecidableEq, Repr, Inhabited

/-- The units and registers of one die. -/
structure Die where
  fq : Ring := {}
  nq : Ring := {}
  hr : Ring := {}
  eq : Ring := {}
  novf : Word := 0
  novfIrq : Bool := false
  mctl : Word := 0
  hctl : Word := 0
  hdrop : Word := 0
  invDone : Word := 0
  invals : List (Nat × Nat) := []
  events : List (List Byte) := []
  nextToken : Nat := 0
  peImg : Word := 0
  peSpill : Word := 0
  peStat : Word := 0
  peLen : Word := 0
  peIrq : Bool := false
  peReqs : List PeReq := []
  rmSel : Word := 0
  rmDone : Word := 0
  /-- remap installs that are under way: partition, entry, value (R375) -/
  installs : List (Nat × Nat × Word) := []
  elog : Tbl (List Byte) := []
  elHead : Word := 0
  elTail : Word := 0
  elDrop : Word := 0
  elIrq : Bool := false
  fwLength : BitVec 32 := 0
  fwStat : Nat := 0
  firmware : Tbl Byte := []
  resources : List Resource := []
  memory : Nat := 0
  tileq : List Nat := []
  lastPart : Nat := 0
deriving DecidableEq, Repr, Inhabited

/-- A group of a Zwiale link (R284, R294): away from the lower-numbered die or not, last turn, carrying, working. -/
structure Group where
  away : Bool
  since : Nat
  carrying : Bool
  working : Bool
deriving DecidableEq, Repr, Inhabited

/-- A turn request in a link's queue (R293): whether the die it names is the link's lower-numbered one, its target, and for the
order roll the request's context, actor and link name. -/
structure TurnReq where
  fromLower : Bool
  target : Nat
  ctx : Nat
  actor : Nat
  name : Nat
deriving DecidableEq, Repr, Inhabited

/-- A Zwiale link (R284, R293, R294). -/
structure Link where
  groups : List Group
  queue : List TurnReq
deriving DecidableEq, Repr, Inhabited

/-! ## Contexts, partitions, queues, launches -/

/-- An order-roll record (R392), as one 128-bit value. -/
abbrev RollRecord := BitVec 128

/-- A per-context order roll, its unit's queues and cursors (R390, R393, R396-R401). -/
structure Roll where
  base : Word := 0
  size : Nat := 0
  head : Word := 0
  tail : Word := 0
  unwritten : List RollRecord := []
  lowPosted : Bool := false
  ords : Tbl Nat := []
  queues : List (Nat × Nat × RollRecord) := []
  cursors : List (Nat × Nat × RollRecord) := []
  opened : Bool := false
  closed : Bool := false
  bad : Bool := false
  reports : Nat := 0
  parked : Bool := false
deriving DecidableEq, Repr, Inhabited

/-- A context: per-context CSRs (R320), tensor tables (R246), roll. -/
structure Ctx where
  level : Nat := 0
  tvec : Word := 0
  dbgctl : Word := 0
  dbgpc : Tbl Word := []
  seq : Nat := 0
  tensors : Tbl Tensor := []
  roll : Roll := {}
  /-- the accesses that home slices have served for it, on which at FIXED the hits of its lines depend (R299) -/
  served : Nat := 0
  poisoned : List Nat := []
  claimed : List Nat := []
  /-- at FIXED, the program slot reserved for it at every memory core (R299) -/
  postSlot : Nat := 0
deriving DecidableEq, Repr, Inhabited

/-- A queue of a partition (R336, R339, R345, R348). -/
structure Queue where
  base : Word
  n : Nat
  prio : Nat
  notified : Word
  read : Word
  stopped : Bool
  status : Word
  since : Option Nat
  aged : Bool
  /-- the cores that its waiting LAUNCH has found busy and keeps in reserve (R345) -/
  reserves : List Nat
  /-- its WAITSIG has read 0 and may start (R338) -/
  zero : Bool
  /-- the packet held at the read index once it is read and checked (R340) -/
  packet : Option (List Byte)
  checked : Bool
  /-- the command processor's own writes to the ring that are still to be made, in order (R340, R348): addresses and bytes -/
  writes : List (Nat × List Byte)
deriving DecidableEq, Repr, Inhabited

/-- What completes a packet (R337, R347): its queue and index, its signal and intr bit; for a SETDET the new level and whether the
closing level record has been written, for an ABORT its launch. -/
structure Job where
  queue : Nat
  index : Word
  signal : Word
  intr : Bool
  arg : Nat
  sent : Bool
deriving DecidableEq, Repr, Inhabited

/-- A RESIZE that shrinks (R351): the new rectangle, the cores that still have to leave, and how far the first of them has come: 0 not
begun, 1 being saved, 2 saved, 3 its remap entry being installed, 4 being resumed on `target`. -/
structure Shrink where
  job : Job
  shape : Nat
  leaving : List Nat
  stage : Nat
  target : Nat
deriving DecidableEq, Repr, Inhabited

/-- A partition (R334, R286). -/
structure Part where
  col0 : Nat
  row0 : Nat
  w : Nat
  h : Nat
  ctx : Nat
  banks : Tbl (BitVec 16)
  links : List Nat
  root : Word
  notify : Word
  remap : Tbl (Nat × Nat)
  queues : Tbl Queue
  /-- by priority, the queue served last (R345) -/
  lastQueue : Tbl Nat
  /-- started packets that complete later: a SETDET (R350), a RESIZE (R351), QDESTROYs by queue (R338), ABORTs by launch (R349), and those
  whose signal waits for a page (R347) -/
  setdet : Option Job
  resize : Option Shrink
  destroying : List (Nat × Job)
  aborts : List (Nat × Job)
  finishing : List Job
deriving DecidableEq, Repr, Inhabited

/-- A started launch (R342, R344, R347). -/
structure Launch where
  part : Nat
  ctx : Nat
  queue : Nat
  index : Word
  seq : Nat
  entry : Word
  args : Word
  signal : Word
  stack : Word
  stride : Nat
  size16 : Nat
  steal : Nat
  t : Nat
  h : Nat
  w : Nat
  row0 : Nat
  col0 : Nat
  qbase : Word
  intr : Bool
  touched : Word
  arrived : Nat
  aborted : Bool
  /-- 0 while it runs, 1 while its groups are probed, 2 while its signal waits for a page (R347) -/
  stage : Nat
deriving DecidableEq, Repr, Inhabited

/-! ## Network -/

/-- Where a packet is: not injected, in an input pool or escape channel of a router, delivered (R278, R280). -/
inductive PktPlace where
  | source
  | pool
  | escape
  | arrived
deriving DecidableEq, Repr, Inhabited

/-- An input that a packet's header has entered (R280, R287): the router, its port, whether it took the escape channel, the stop at which the
packet entered the ring, and the cycle. -/
structure Berth where
  router : Nat
  port : Nat
  escape : Bool
  stop : Nat
  since : Nat
deriving DecidableEq, Repr, Inhabited

/-- A packet (R275): header fields, payload, and its place on its route. `name` is the destination as the partition names it;
`at_` the router that holds its head, `onColumn` the kind of the ring it entered, `cw` its direction there, `stop` the stop
where it entered that ring; `trail` the inputs its flits may still hold, newest first; `born` the cycle of its instruction's issue. -/
structure Packet where
  id : Nat
  typ : Nat
  src : Nat
  sslot : Nat
  route : Nat
  tenant : Nat
  vc : Bool
  dst : Nat
  name : Nat
  arg : Nat
  handler : Word
  payload : List Word
  flits : Nat
  lti : BitVec 32
  tid : Nat
  epoch : Nat
  req : Nat
  born : Nat
  at_ : Nat
  onColumn : Bool
  cw : Bool
  stop : Nat
  place : PktPlace
  waited : Nat
  aged : Bool
  entered : Nat
  trail : List Berth
  ctx : Nat
  ord : Nat
deriving DecidableEq, Repr, Inhabited

/-- What waits on a bell's or barrier's generation, or on a child count (R137, R138, R95). -/
inductive Waiter where
  | req (id : Nat)
  | cmd (id : Nat)
  | tile (id which : Nat)
deriving DecidableEq, Repr, Inhabited

/-- ECC condition of a stored word (R414). -/
inductive Ecc where
  | ok
  | single (bit : Nat)
  | double
deriving DecidableEq, Repr, Inhabited

/-- A saved core (R376-R380): its name, the core it was saved from, its partition and context, the number under which what the image's
device-internal sections hold is kept while it is absent, its areas, and whether the scheduler has taken its engine section. -/
structure Saved where
  name : Nat
  phys : Nat
  part : Nat
  ctx : Nat
  virt : Nat
  img : Word
  spill : Word
  taken : Bool
deriving DecidableEq, Repr, Inhabited

/-- An Ethernet ring (R410): base, log2 of descriptors, next descriptor. -/
structure EthRing where
  base : Word
  n : Nat
  next : Nat
deriving DecidableEq, Repr, Inhabited

/-- The state of the module. -/
structure State where
  /-- global timestamp (R1, R409, R412) -/
  now : Nat
  busStat : Nat
  mem : List Host.Cell
  empty : List Nat
  ecc : Tbl Ecc
  /-- halfwords of translated memory that have been overwritten, newest first, and the value before (R51) -/
  was : List (Nat × BitVec 16)
  /-- for a 4 KiB frame of HBM, the blocks of the global window whose translations to it home slices have held (R43) -/
  mapped : Tbl (List Nat)
  root : Tbl Word
  windows : Tbl Word
  modnum : Nat
  hapsel : Tbl (BitVec 8)
  ftports : Word
  ptpport : Word
  clockLock : Bool
  lastCorr : Option Nat
  /-- a correction holds the count back in this cycle (R409) -/
  heldBack : Bool
  tenants : Tbl Word
  frames : Tbl Nat
  threads : Tbl Thread
  cores : Tbl Core
  dies : Tbl Die
  slices : Tbl Slice
  links : Tbl Link
  ctxs : Tbl Ctx
  parts : Tbl Part
  launches : Tbl Launch
  nextLaunch : Nat
  reqs : List Req
  /-- the servers' cycles, and the requests that wait at them (R240) -/
  banks : List Bank
  bankq : List BankItem
  syncq : List (Nat × Nat)
  /-- synchronising requests that wait at the input of a bank or slice which holds 256 (R119), in arrival order -/
  syncIn : List (Nat × Nat)
  /-- The actor and ordinal of the latest release that a word's latest write belongs to, for the order roll (R394, R400);
  0x20000 + actor and 0 where that write is no release. Kept for contexts at RECORD and REPLAY. -/
  lastWrite : Tbl (Nat × Nat)
  waiters : List (Nat × Waiter)
  copies : List CopyCmd
  tileCmds : List TileCmd
  packets : List Packet
  reductions : List (Nat × Nat × Word)
  /-- AMO, FAMO, STV and RECON held to the end of their FIXED interval (R126, R170) -/
  batch : List (Nat × Nat)
  /-- what the host has been answered, oldest first: 0 a read or the old value of an atomic, 1 `PESTAT`, 2 an error response, 3 a
  die whose proctor asks for overflow memory (R327) -/
  hostOut : List (Nat × Word)
  driverIrq : List Nat
  /-- host accesses that wait at a page, with the address that each was made with (R365, R405) -/
  hostHeld : List (Instr × Nat)
  msgSpillBase : Tbl Word
  eths : Tbl EthRing
  ethDrops : Tbl Nat
  /-- the frames that the Ethernet ports have sent, oldest first: port and bytes, without the frame check sequence -/
  ethOut : List (Nat × List Byte)
  fenced : List FailedPart
  saved : Tbl Saved
  /-- steps that outside agents have put before the machine, in order -/
  agenda : List Instr
  /-- the hardware's own work that earlier steps started, by the cycle it is due -/
  pend : Tbl Instr
  /-- the issuing thread, the word it issues and the address after it -/
  cur : Nat
  iword : BitVec 32
  free : Nat
  nextId : Nat
deriving DecidableEq, Repr

/-- The module right after reset (R412): nothing exists, memory is zero, every word FULL, no step of R411 completed. -/
def State.reset : State where
  now := 0
  busStat := 0
  mem := []
  empty := []
  ecc := []
  was := []
  mapped := []
  root := []
  windows := []
  modnum := 0
  hapsel := []
  ftports := 0
  ptpport := 0
  clockLock := false
  lastCorr := none
  heldBack := false
  tenants := []
  frames := []
  threads := []
  cores := []
  dies := []
  slices := []
  links := []
  ctxs := []
  parts := []
  launches := []
  nextLaunch := 0
  reqs := []
  banks := []
  bankq := []
  syncq := []
  syncIn := []
  lastWrite := []
  waiters := []
  copies := []
  tileCmds := []
  packets := []
  reductions := []
  batch := []
  hostOut := []
  driverIrq := []
  hostHeld := []
  msgSpillBase := []
  eths := []
  ethDrops := []
  ethOut := []
  fenced := []
  saved := []
  agenda := []
  pend := []
  cur := 0
  iword := 0
  free := 0
  nextId := 1

end Sys2Proof.Machine
end

