-- ==== Sys2Proof/Machine/Ops.lean ====
section
/-!
DEFINITION. The named operations over the state that every meaning shares: access to the parts of the machine, registers
(02 R22, 04 R63, R64), the order of checks at issue (04 R74, R75), taking a trap and returning (17 R321, R329), the active
loop (05 R90), parking and waking, the module's own later work, event and error-log records (17 R330, 23 R415).
-/

namespace Sys2Proof.Machine

/-- What a step answers. -/
abbrev Out := Host.Outcome State Fault Refusal

/-! ## Parts of the machine -/

/-- The entry of a table that lists only what exists. -/
def tfind {α : Type} (t : Tbl α) (k : Nat) : Option α :=
  match t with
  | [] => none
  | e :: r => if e.1 = k then some e.2 else tfind r k

/-- An entry of such a table, set. -/
def tset {α : Type} (t : Tbl α) (k : Nat) (v : α) : Tbl α := tins (terase t k) k v

/-- An entry of such a table changed, where it exists. -/
def tmod {α : Type} (t : Tbl α) (k : Nat) (f : α → α) : Tbl α :=
  match tfind t k with
  | some v => tset t k (f v)
  | none => t

def State.thread (s : State) (t : Nat) : Thread := tget {} s.threads t
def State.core (s : State) (c : Nat) : Core := tget {} s.cores c
def State.die (s : State) (d : Nat) : Die := tget {} s.dies d
def State.slice (s : State) (x : Nat) : Slice := tget {} s.slices x
def State.ctx (s : State) (c : Nat) : Ctx := tget {} s.ctxs c

def State.setThread (s : State) (t : Nat) (v : Thread) : State := { s with threads := tput {} s.threads t v }
def State.setCore (s : State) (c : Nat) (v : Core) : State := { s with cores := tput {} s.cores c v }
def State.setDie (s : State) (d : Nat) (v : Die) : State := { s with dies := tput {} s.dies d v }
def State.setSlice (s : State) (x : Nat) (v : Slice) : State := { s with slices := tput {} s.slices x v }
def State.setCtx (s : State) (c : Nat) (v : Ctx) : State := { s with ctxs := tput {} s.ctxs c v }

def State.updThread (s : State) (t : Nat) (f : Thread → Thread) : State := s.setThread t (f (s.thread t))
def State.updCore (s : State) (c : Nat) (f : Core → Core) : State := s.setCore c (f (s.core c))
def State.updDie (s : State) (d : Nat) (f : Die → Die) : State := s.setDie d (f (s.die d))
def State.updSlice (s : State) (x : Nat) (f : Slice → Slice) : State := s.setSlice x (f (s.slice x))
def State.updCtx (s : State) (c : Nat) (f : Ctx → Ctx) : State := s.setCtx c (f (s.ctx c))

/-- The issuing thread. -/
def State.me (s : State) : Thread := s.thread s.cur
/-- The issuing thread changed. -/
def State.upd (s : State) (f : Thread → Thread) : State := s.updThread s.cur f

/-- The core and the slot of a thread's place (R10). -/
def coreOf (t : Nat) : Nat := t / 16
def slotOf (t : Nat) : Nat := t % 16
/-- A core that is saved and absent (R376) keeps its threads under a number of its own, a multiple of this above its core's. -/
def absentBase : Nat := 65536
/-- Whether a core is a memory core (R33). -/
def isMem (c : Nat) : Bool := decide (2048 ≤ c % absentBase)
/-- Column and row of a compute core (R5). -/
def colOf (c : Nat) : Nat := c % absentBase / 16
def rowOf (c : Nat) : Nat := c % 16
/-- The die of a core (R5, R33). -/
def dieOf (c : Nat) : Nat := if isMem c then c / 16 % 32 else colOf c / 8 + 16 * (rowOf c / 8)
/-- The coordinate of a column and a row (R5). -/
def coordOf (col row : Nat) : Nat := col * 16 + row
/-- The four cores of a core's cluster, by their place in the block (R36). -/
def clusterOf (c : Nat) : List Nat :=
  let x := colOf c / 2 * 2
  let y := rowOf c / 2 * 2
  [coordOf x y, coordOf (x + 1) y, coordOf x (y + 1), coordOf (x + 1) (y + 1)]
/-- The compute cores of a die, ascending. -/
def coresOfDie (d : Nat) : List Nat :=
  (List.range 64).map (fun i => coordOf (d % 16 * 8 + i / 8) (d / 16 * 8 + i % 8))
/-- The memory core of a die's channel (R33). -/
def memCore (d ch : Nat) : Nat := 2048 + d * 16 + ch

/-- A core of a partition's rectangle (R334), by the partition's names. -/
def Part.has (p : Part) (c : Nat) : Bool :=
  !isMem c && decide (p.col0 ≤ colOf c) && decide (colOf c < p.col0 + p.w) && decide (p.row0 ≤ rowOf c) &&
    decide (rowOf c < p.row0 + p.h)

/-- The cores of a partition's rectangle, ascending. -/
def Part.cores (p : Part) : List Nat :=
  (List.range p.w).flatMap (fun x => (List.range p.h).map (fun y => coordOf (p.col0 + x) (p.row0 + y)))

/-- The physical core of a core's name in a partition (R32, R286). -/
def Part.phys (p : Part) (name : Nat) : Nat :=
  match p.remap.find? (fun e => e.2.1 = name) with
  | some e => e.2.2
  | none => name

/-- Whether a partition names a core so: a core of its rectangle, or one that was moved and keeps its name (R385). -/
def Part.named (p : Part) (name : Nat) : Bool := p.has name || p.remap.any (fun e => e.2.1 == name)

/-- The lead die of a partition: the die of its north-west core (R334). -/
def Part.lead (p : Part) : Nat := dieOf (coordOf p.col0 p.row0)

/-- The name of a core: the coordinate from before any move (R16); a memory core's is its own number. -/
def State.nameOf (s : State) (c : Nat) : Nat := (s.core c).moved.getD c

/-- The partition of a thread. -/
def State.partOf (s : State) (t : Nat) : Option Part := tfind s.parts (s.thread t).part

/-- The determinism level of a context (R7): 0 FREE, 1 RECORD, 2 REPLAY, 3 FIXED. -/
def State.levelOf (s : State) (c : Nat) : Nat := (s.ctx c).level
/-- The level of the issuing thread's context. -/
def State.myLevel (s : State) : Nat := s.levelOf s.me.ctx

/-- The thread key (R16). -/
def State.keyOf (s : State) (t : Nat) : Key :=
  { lti := (s.thread t).lti.toNat, name := s.nameOf (coreOf t), slot := slotOf t }
/-- The order of thread keys (R16). -/
def Key.lt (a b : Key) : Bool :=
  decide (a.lti < b.lti) || (a.lti == b.lti && (decide (a.name < b.name) || (a.name == b.name && decide (a.slot < b.slot))))

/-! ## Registers -/

/-- A register that waits for a fill (R22). -/
def RegState.waits (r : RegState) : Bool := r == .pending || r == .expecting
/-- A register without a value (R22). -/
def RegState.empty (r : RegState) : Bool := r == .void || r == .errorMark || r == .refusalMark || r == .divergeMark

def gRef (i : Nat) : RegRef := ⟨.g, i⟩
def mRef (i : Nat) : RegRef := ⟨.m, i⟩
def vRef (i : Nat) : RegRef := ⟨.v, i⟩
def cRef (i : Nat) : RegRef := ⟨.c, i⟩

/-- A general register: g0 is always FULL and zero (R22). -/
def Thread.gReg (t : Thread) (i : Nat) : Reg 64 := if i = 0 then ⟨0, .full⟩ else tget {} t.g i
def Thread.mReg (t : Thread) (i : Nat) : Reg 1024 := tget {} t.m i
def Thread.vReg (t : Thread) (i : Nat) : Reg 1024 := tget {} t.v i
def Thread.cReg (t : Thread) (i : Nat) : Reg 128 := tget {} t.c i
/-- A mask register, 0xFFFF_FFFF until written (R15, R191). -/
def Thread.kReg (t : Thread) (i : Nat) : BitVec 32 := tget 0xFFFFFFFF t.k i

/-- The values of registers. -/
def Thread.gv (t : Thread) {n : Nat} (i : BitVec n) : Word := (t.gReg i.toNat).val
def Thread.mv (t : Thread) {n : Nat} (i : BitVec n) : MSet := (t.mReg i.toNat).val
def Thread.vv (t : Thread) {n : Nat} (i : BitVec n) : Vec := (t.vReg i.toNat).val
def Thread.cv (t : Thread) {n : Nat} (i : BitVec n) : VCtx := (t.cReg i.toNat).val
def Thread.kv (t : Thread) {n : Nat} (i : BitVec n) : BitVec 32 := t.kReg i.toNat

/-- The full/empty state of a register (R22). -/
def Thread.stOf (t : Thread) (r : RegRef) : RegState :=
  match r.cls with
  | .g => (t.gReg r.idx).st
  | .m => (t.mReg r.idx).st
  | .v => (t.vReg r.idx).st
  | .c => (t.cReg r.idx).st

/-- A register's value or mark address as a number. -/
def Thread.valOf (t : Thread) (r : RegRef) : Nat :=
  match r.cls with
  | .g => (t.gReg r.idx).val.toNat
  | .m => (t.mReg r.idx).val.toNat
  | .v => (t.vReg r.idx).val.toNat
  | .c => (t.cReg r.idx).val.toNat

/-- A register written with a value and a state; a write to g0 is discarded (R22, R64). -/
def Thread.put (t : Thread) (r : RegRef) (v : Nat) (st : RegState) : Thread :=
  match r.cls with
  | .g => if r.idx = 0 then t else { t with g := tput {} t.g r.idx ⟨BitVec.ofNat 64 v, st⟩ }
  | .m => { t with m := tput {} t.m r.idx ⟨BitVec.ofNat 1024 v, st⟩ }
  | .v => { t with v := tput {} t.v r.idx ⟨BitVec.ofNat 1024 v, st⟩ }
  | .c => { t with c := tput {} t.c r.idx ⟨BitVec.ofNat 128 v, st⟩ }

/-- Writes that make a register FULL. -/
def Thread.setG (t : Thread) {n : Nat} (i : BitVec n) (v : Word) : Thread :=
  if i.toNat = 0 then t else { t with g := tput {} t.g i.toNat ⟨v, .full⟩ }
def Thread.setM (t : Thread) {n : Nat} (i : BitVec n) (v : MSet) : Thread := { t with m := tput {} t.m i.toNat ⟨v, .full⟩ }
def Thread.setV (t : Thread) {n : Nat} (i : BitVec n) (v : Vec) : Thread := { t with v := tput {} t.v i.toNat ⟨v, .full⟩ }
def Thread.setC (t : Thread) {n : Nat} (i : BitVec n) (v : VCtx) : Thread := { t with c := tput {} t.c i.toNat ⟨v, .full⟩ }
def Thread.setK (t : Thread) {n : Nat} (i : BitVec n) (v : BitVec 32) : Thread :=
  { t with k := tput 0xFFFFFFFF t.k i.toNat v }

/-- A register turned PENDING (R22). -/
def Thread.pendReg (t : Thread) (r : RegRef) : Thread := t.put r 0 .pending

/-! ## Time and the module's own later work -/

/-- The hardware's own step `i` placed `n` cycles on. -/
def State.after (s : State) (n : Nat) (i : Instr) : State := { s with pend := tins s.pend (s.now + n) i }

/-- The module's own step `i` placed `n` cycles on, unless one like it is placed already. -/
def State.afterOnce (s : State) (n : Nat) (i : Instr) : State :=
  if s.pend.any (fun e => decide (e.2 = i)) then s else s.after n i

/-- A free value: a value that the manual does not state (log 15). -/
def State.freeVal (s : State) : Word := Config.freeWord s.free
/-- The next free value is a new one. -/
def State.nextFree (s : State) : State := { s with free := s.free + 1 }

/-- Whether a core has held no thread since reset for the 2,048 cycles after which it is gated, at a level other than FIXED (R388). -/
def State.restedFromReset (s : State) (c : Nat) : Bool :=
  !isMem c && decide (Config.gateWait ≤ s.now) && !s.threads.any (fun e => coreOf e.1 == c) &&
    !(match s.parts.find? (fun p => p.2.has c) with | some (_, p) => (s.ctx p.ctx).level == 3 | none => false)

/-- A waking event reaches a core: if it is gated, it issues 96 cycles later (R388). -/
def State.wakeCore (s : State) (c : Nat) : State :=
  let s1 := if s.restedFromReset c then s.updCore c (fun x => { x with gated := true }) else s
  if (s1.core c).gated then s1.afterOnce Config.gateWake (.coreWake c) else s1

/-- A thread tries its instruction again (R22, R27). -/
def State.wake (s : State) (t : Nat) : State :=
  if (s.thread t).park.isSome then (s.updThread t (fun x => { x with park := none })).wakeCore (coreOf t) else s

/-- A core may have come to rest: after 2,048 cycles in which nothing moves it is gated (R388). -/
def State.restCore (s : State) (c : Nat) : State :=
  if isMem c then s else (s.updCore c (fun x => { x with quiet := s.now })).afterOnce Config.gateWait (.coreGate c)

/-- The issuing thread parks at its instruction (R22, R74). -/
def State.parkOn (s : State) (p : Park) : State := s.upd (fun t => { t with park := some p })

/-! ## Bytes of memory by storage key -/

/-- The storage key of a byte of a core's scratchpad and contribution: its address in window 0xF4 (R31). -/
def coreKey (c off : Nat) : Nat := 0xF4 * 2 ^ 48 + c * 2 ^ 20 + off
/-- The storage key of a byte of a die scratchpad: its address in window 0xF5 (R31). -/
def dieKey (d off : Nat) : Nat := 0xF5 * 2 ^ 48 + d * 2 ^ 26 + off
/-- The storage key of a byte of a lane slice (R31, R200). -/
def laneKey (c lane off : Nat) : Nat := 0xF0 * 2 ^ 48 + c * 2 ^ 17 + lane * 2 ^ 12 + off
/-- The storage key of a physical byte by place code: 0 HBM, 1 far tier, 2 host (R359). -/
def physKey (place pa : Nat) : Nat := (place + 1) * 2 ^ 56 + pa

/-- The bytes of memory, in the one canonical form; an unlisted byte reads 0. -/
abbrev Memory := List Host.Cell
/-- The form: keys strictly rising, no entry equal to 0. -/
abbrev Memory.wf (m : Memory) : Bool := twf (0 : Byte) m

/-- One byte of memory. -/
def State.byte (s : State) (k : Nat) : Byte := tget 0 s.mem k
/-- One byte of memory written. -/
def State.setByte (s : State) (k : Nat) (b : Byte) : State := { s with mem := tput 0 s.mem k b }

/-- `n` bytes from key `k`, as a little-endian number (R4). -/
def State.getN (s : State) (k n : Nat) : Nat :=
  match n with
  | 0 => 0
  | n + 1 => (s.byte k).toNat + 256 * s.getN (k + 1) n

/-- Bytes written to memory from key `k` on, without the effects of a write at its bank. -/
def pokeMem (m : Memory) (k : Nat) (l : List Byte) : Memory :=
  match l with
  | [] => m
  | b :: r => pokeMem (tput 0 m k b) (k + 1) r

/-- The 4 KiB regions of a core's scratchpad and contribution that bytes of its range touch (R379): a region is dirty once a write
has reached it. -/
def dirtyMask (off n : Nat) : BitVec 256 :=
  let region := fun (o : Nat) => if o < 0x80000 then o / 4096 else 128 + (o - 0x80000) / 4096
  BitVec.ofNat 256 (2 ^ region off) ||| BitVec.ofNat 256 (2 ^ region (off + n - 1))

/-- A write to a core's scratchpad makes its regions dirty (R379). -/
def State.markDirty (s : State) (k n : Nat) : State :=
  if k / 2 ^ 48 = 0xF4 ∧ n ≠ 0 then s.updCore (k % 2 ^ 48 / 2 ^ 20) (fun c => { c with dirty := c.dirty ||| dirtyMask (k % 2 ^ 20) n })
  else s

/-- The same on a state. -/
def State.poke (s : State) (k : Nat) (l : List Byte) : State :=
  ({ s with mem := pokeMem s.mem k l }).markDirty k l.length

/-- The bytes from key `k`. -/
def State.peek (s : State) (k n : Nat) : List Byte := (List.range n).map (fun i => s.byte (k + i))

/-- Whether the aligned word holding a byte is EMPTY (R43). -/
def State.isEmpty (s : State) (k : Nat) : Bool := s.empty.contains (k / 8 * 8)

/-! ## Records to the driver -/

/-- A ring whose HEAD - TAIL equals its size is full, and so is one that is not set up (R362). -/
def Ring.full (r : Ring) : Bool := r.size == 0 || decide (2 ^ r.size ≤ (r.head - r.tail).toNat)

/-- The storage key of the next record of a ring: its base is a physical address with the place in bits 49:48 (R362). -/
def Ring.slot (r : Ring) (len : Nat) : Nat :=
  physKey (bits r.base.toNat 49 48) (bits r.base.toNat 47 0 + r.head.toNat % 2 ^ r.size * len)

/-- A 32-byte record from its four doublewords, low first (R330, R363, R367, R370, R415). -/
def record32 (d0 d1 d2 d3 : Nat) : List Byte :=
  natToBytes 8 d0 ++ natToBytes 8 d1 ++ natToBytes 8 d2 ++ natToBytes 8 d3

/-- The held event records written while the ring has room; the unit tries again every 1,024 cycles (R330). -/
def State.flushEvents (s : State) (d : Nat) : State :=
  match (s.die d).events with
  | [] => s
  | l => go l s
where
  go (l : List (List Byte)) (s : State) : State :=
    match l with
    | [] => s.updDie d (fun x => { x with events := [] })
    | r :: rest =>
      let q := (s.die d).eq
      if q.full then (s.updDie d (fun x => { x with events := r :: rest })).afterOnce Config.retry (.eventRetry d)
      else go rest ((s.poke (q.slot 32) r).updDie d (fun x => { x with eq := { q with head := q.head + 1, irq := true } }))

/-- An event record posted to a die's event queue (R330). -/
def State.postEvent (s : State) (d source code extra who payload : Nat) : State :=
  let r := record32 (source + 2 ^ 8 * code + 2 ^ 16 * extra) who payload s.now
  (s.updDie d (fun x => { x with events := x.events ++ [r] })).flushEvents d

/-- The who field of an event record for a thread (R330). -/
def State.eventWho (s : State) (t : Nat) : Nat :=
  coreOf t % 2 ^ 12 + 2 ^ 12 * slotOf t + 2 ^ 18 * (s.thread t).part + 2 ^ 24 * (s.thread t).ctx

/-- The unit number and the cycle of an error record (R415). -/
def recordUnit (r : List Byte) : Nat := bytesToNat (r.take 4) / 2 ^ 16 % 2 ^ 12
def recordTime (r : List Byte) : Nat := bytesToNat ((r.drop 24).take 8)

/-- An error record put at index `n` of a log, before the records of its cycle that have higher unit numbers (R415); `fuel` records lie before it. -/
def putRecord (log : Tbl (List Byte)) (r : List Byte) (n fuel : Nat) : Tbl (List Byte) :=
  match fuel with
  | 0 => tput [] log (n % Config.elogSize) r
  | fuel + 1 =>
    let p := tget [] log ((n - 1) % Config.elogSize)
    if recordTime p = recordTime r ∧ recordUnit r < recordUnit p then putRecord (tput [] log (n % Config.elogSize) p) r (n - 1) fuel
    else tput [] log (n % Config.elogSize) r

/-- A record of a die's error log: on a full ring one is dropped and counted, of one cycle the highest unit's (R415). -/
def State.logError (s : State) (d code kind unit addr detail : Nat) : State :=
  let x := s.die d
  let n := x.elHead.toNat
  let r := record32 (code + 2 ^ 8 * kind + 2 ^ 16 * unit) addr detail s.now
  if (x.elHead - x.elTail).toNat ≥ Config.elogSize then
    let last := tget [] x.elog ((n - 1) % Config.elogSize)
    let log := if recordTime last = recordTime r ∧ recordUnit r < recordUnit last then putRecord x.elog r (n - 1) (Config.elogSize - 1) else x.elog
    s.updDie d (fun x => { x with elog := log, elDrop := x.elDrop + 1 })
  else
    s.updDie d (fun x => { x with elog := putRecord x.elog r n (x.elHead - x.elTail).toNat, elHead := x.elHead + 1, elIrq := true })

/-- The requester's thread key as an error record's detail (R415). -/
def State.keyDetail (s : State) (t : Nat) : Nat :=
  let k := s.keyOf t
  k.lti + 2 ^ 32 * k.name + 2 ^ 44 * k.slot

/-! ## Traps -/

/-- The cause codes (R326). -/
def cILLEGAL : Nat := 0x01
def cPRIV : Nat := 0x02
def cREG_VOID : Nat := 0x03
def cALIGN : Nat := 0x04
def cPROT : Nat := 0x05
def cBUS_ERROR : Nat := 0x06
def cATOM_SCOPE : Nat := 0x07
def cSIB_LIMIT : Nat := 0x08
def cNAN_TILE : Nat := 0x09
def cBREAK : Nat := 0x0A
def cTRAP : Nat := 0x0B
def cFP : Nat := 0x0D
def cREPLAY_DIV : Nat := 0x20

/-- A thread has issued in this cycle (R11): its spacing counts from here, and no part of an instruction is left over. -/
def Thread.issued (t : Thread) (now : Nat) : Thread :=
  { t with lastIssue := some now, ownCycle := false, park := none, phase := .idle, dskip := false, word := none }

/-- Whether an instruction is 32 bits long, as ESTAT.ilen says it (R320). -/
def ilenOf (len : Nat) : Nat := if len = 2 then 0 else 1

/-- The loop that a thread's level runs (R89, R322). -/
def Thread.loop (t : Thread) : Option LoopState := if t.level = .S then t.loopS else t.loopU
/-- The loop of a thread's level changed. -/
def Thread.setLoop (t : Thread) (l : Option LoopState) : Thread :=
  if t.level = .S then { t with loopS := l } else { t with loopU := l }

/-- The registers a trap saves and where it goes (R321), for a thread at U with a handler; the bits of EPC and ELCTL that R320 does not list read as
zero. -/
def Thread.enter (t : Thread) (cause : Nat) (info : Word) (len : Nat) (tvec : Word) : Thread :=
  { t with
    epc := t.pc &&& 0x00FFFFFFFFFFFFFF
    ecause := BitVec.ofNat 64 cause
    einfo := info
    estat := BitVec.ofNat 64 (ilenOf len + (if cause = cBREAK ∧ info ≠ 0 then 2 else 0))
    elstart := match t.loopU with | some l => l.start | none => t.elstart
    elcnt := match t.loopU with | some l => l.remaining | none => t.elcnt
    elctl := match t.loopU with
      | some l => BitVec.ofNat 64 (2 ^ 63 + (l.stop - l.start).toNat / 2 % 2 ^ 9)
      | none => 0
    loopU := none
    level := .S
    pc := tvec }

/-- A thread takes a trap at the instruction its PC names: `info` goes to EINFO, `len` is the instruction's length (R321).
At S, or with no handler, the thread stops and a source-5 record is posted; at F the firmware's own vectors apply (R318). -/
def State.takeTrap (s : State) (t cause : Nat) (info : Word) (len : Nat) : State :=
  let th := s.thread t
  let tvec := (s.ctx th.ctx).tvec
  let s1 := s.updThread t (fun x => { x.issued s.now with resv := none })
  match th.level with
  | .F => s1.updThread t (fun x => { x with pc := Config.firmwareVector cause })
  | .S => stop s1 th 1
  | .U => if tvec = 0 then stop s1 th 0 else s1.updThread t (fun x => x.enter cause info len tvec)
where
  /-- The thread stops issuing; its registers and E-CSRs are kept. -/
  stop (s1 : State) (th : Thread) (double : Nat) : State :=
    (s1.updThread t (fun x => { x with stopped := true })).postEvent (dieOf (coreOf t)) 5 cause double
      (s.eventWho t + 2 ^ 32 * th.lti.toNat) th.pc.toNat

/-- The issuing thread takes a trap. -/
def State.trap (s : State) (cause : Nat) (info : Word) (len : Nat) : State := s.takeTrap s.cur cause info len

/-- The instruction word in EINFO (R70, R326). -/
def State.insnWord (s : State) : Word := s.iword.setWidth 64
/-- ILLEGAL at the instruction (R70). -/
def State.illegal (s : State) (len : Nat) : State := s.trap cILLEGAL s.insnWord len
/-- PRIV at the instruction (R319). -/
def State.priv (s : State) (len : Nat) : State := s.trap cPRIV s.insnWord len

/-- EINFO of REG_VOID: the class and the index (R326). -/
def RegRef.info (r : RegRef) : Word :=
  BitVec.ofNat 64 (r.idx + 64 * (match r.cls with | .g => 0 | .m => 1 | .v => 2 | .c => 3))

/-- The trap of a register without a value: REG_VOID, or what its mark says (R22, R125, R325). -/
def State.voidTrap (s : State) (r : RegRef) (len : Nat) : State :=
  let a := BitVec.ofNat 64 (s.me.valOf r)
  match s.me.stOf r with
  | .errorMark => s.trap cBUS_ERROR a len
  | .refusalMark => s.trap cATOM_SCOPE a len
  | .divergeMark => s.trap cREPLAY_DIV a len
  | _ => s.trap cREG_VOID r.info len

/-! ## The checks at issue -/

/-- What the core checks of an instruction before its own checks (R74 steps 3 to 7): its length, whether its encoding is
legal, its least privilege level, the registers it reads in the order of R75, and the registers it writes. -/
structure Issue where
  len : Nat
  legal : Bool := true
  min : Level := .U
  srcs : List RegRef := []
  dsts : List RegRef := []

/-- Whether a level reaches another (R318, R319). -/
def Level.reaches (l m : Level) : Bool :=
  match l, m with
  | .F, _ => true
  | .S, .F => false
  | .S, _ => true
  | .U, .U => true
  | .U, _ => false

/-- What an acquire of cluster scope or wider does at the thread's core: every SI copy the thread has loaded goes (R110). -/
def State.dropSI (s : State) (t : Nat) : State :=
  if (s.core (coreOf t)).lines.any (fun l => l.kind == .si && l.siBy.contains t) then
    s.updCore (coreOf t) (fun c => { c with lines := c.lines.filter (fun l => !(l.kind == .si && l.siBy.contains t)) })
  else s

/-- The effects of reading registers: an STV status is read (R130), and the first read of a register that an RFILL filled is
an acquire (R292). -/
def State.noteReads (s : State) (l : List RegRef) : State :=
  let t := s.me
  let s1 := if t.sibUnread.any (fun e => l.contains (gRef e.1)) then
      s.upd (fun t => { t with sibUnread := t.sibUnread.filter (fun e => !l.contains (gRef e.1)) })
    else s
  if l.any (fun r => t.rfilled.contains r) then
    (s1.upd (fun t => { t with rfilled := t.rfilled.filter (fun r => !l.contains r) })).dropSI s.cur
  else s1

/-- The checks of R74 steps 3 to 7, then the rest of the instruction. An ILLEGAL that depends on the slot, the kind of core or the thread's state is
made at step 3 as well (DESIGN CHOICE, log 24: R74 does not place it). -/
def issue (x : Issue) (k : State → State) (s : State) : State :=
  if !x.legal then s.illegal x.len
  else if !(s.me.level.reaches x.min) then s.priv x.len
  else
    match x.srcs.find? (fun r => (s.me.stOf r).empty) with
    | some r => s.voidTrap r x.len
    | none =>
      match x.srcs.find? (fun r => (s.me.stOf r).waits) with
      | some r => s.parkOn (.reg r)
      | none =>
        match x.dsts.find? (fun r => (s.me.stOf r).waits) with
        | some r => s.parkOn (.reg r)
        | none => k (s.noteReads x.srcs)

/-! ## Going on -/

/-- Whether the thread issues from a loop buffer (R90): its loop is active and the PC lies in the body. -/
def Thread.inLoop (t : Thread) : Bool :=
  match t.loop with
  | some l => decide (l.start.toNat ≤ t.pc.toNat) && decide (t.pc.toNat < l.stop.toNat)
  | none => false


/-- The PC after an instruction of `len` bytes that did not transfer control (R48, R90). -/
def Thread.advance (t : Thread) (len now : Nat) : Thread :=
  let t1 := t.issued now
  let next := t.pc + BitVec.ofNat 64 len
  match t.loop with
  | some l =>
    if t.inLoop && next == l.stop then
      if l.remaining.toNat ≤ 1 then { t1.setLoop none with pc := next }
      else { t1.setLoop (some { l with remaining := l.remaining - 1 }) with pc := l.start }
    else { t1 with pc := next }
  | none => { t1 with pc := next }

/-- The PC after a transfer of control to `target`; from the body, JAL and JALR end an active loop (R90). -/
def Thread.transfer (t : Thread) (target : Word) (call : Bool) (now : Nat) : Thread :=
  let t1 := t.issued now
  match t.loop with
  | some l =>
    if !t.inLoop || (!call && decide (l.start.toNat ≤ target.toNat) && decide (target.toNat < l.stop.toNat)) then { t1 with pc := target }
    else { t1.setLoop none with pc := target }
  | none => { t1 with pc := target }

/-- The issuing thread goes on behind its instruction. -/
def State.advance (s : State) (len : Nat) : State := s.upd (fun t => t.advance len s.now)
/-- The issuing thread goes on at a target. -/
def State.transfer (s : State) (target : Word) (call : Bool) : State := s.upd (fun t => t.transfer target call s.now)
/-- The issuing thread's registers change, and it goes on behind its instruction. -/
def State.done (s : State) (len : Nat) (f : Thread → Thread) : State := (s.upd f).advance len

/-! ## Pre-empted cores -/

/-- Whether a step that reaches core `c` is spilled there (R377): every one does from the divert cycle on, but those that a resume delivers
again (R384). -/
def State.diverts (s : State) (c : Nat) (i : Instr) : Bool := (s.core c).diverted && !decide (i ∈ (s.core c).resent)

/-! ## RESOURCE -/

/-- A RESOURCE request to a die's proctor, and its service by the proctor's firmware (R327; log 10). -/
def State.request (s : State) (die kind addr : Nat) (t : Option Nat) : State :=
  s.after 1 (.resourceRequest die kind addr t)

/-- The requests of a kind for an address, of one issuer or of all, that the proctor has not come to yet: the operations behind them are not carried
out, and not handed back to their unit (R327). -/
def State.asks (s : State) (kind addr : Nat) (t : Option Nat) : Nat :=
  s.dies.foldl (fun n d => n + (d.2.resources.filter (fun r => r.kind == kind && r.addr == addr && (t.isNone || r.tid == t))).length)
    (s.pend.filter (fun e => match e.2 with | .resourceRequest _ k a x => k == kind && a == addr && (t.isNone || x == t) | _ => false)).length

/-- How many of the `n` operations that a unit has handed to the proctor, oldest first, may be handed back or carried out now (R327). -/
def State.handed (s : State) (kind addr n : Nat) : Nat := n - s.asks kind addr none

/-- Whether a request of a kind and address waits for overflow memory (R327): the operation waits with it. -/
def State.starves (s : State) (kind addr : Nat) (t : Option Nat) : Bool :=
  s.dies.any (fun d => d.2.resources.any (fun r => r.waits && r.kind == kind && r.addr == addr && (t.isNone || r.tid == t)))

end Sys2Proof.Machine
end

