-- ==== Sys2Proof/Machine/Flags.lean ====
section
/-!
DEFINITION. `FPCTL` (05 R101, R102): the rounding mode, the sticky flags and the trap enables of a thread.
-/

namespace Sys2Proof.Machine

/-- The rounding mode of a thread (R101). -/
def Thread.rm (t : Thread) : RM := rmOf (bits t.fpctl.toNat 2 0)
/-- The trap enables, in the order of the flags (R101). -/
def Thread.enables (t : Thread) : BitVec 5 := BitVec.ofNat 5 (bits t.fpctl.toNat 12 8)
/-- Flags ORed into `FPCTL` bits 7:3 (R101, R102). -/
def Thread.raise (t : Thread) (f : BitVec 5) : Thread := { t with fpctl := t.fpctl ||| (f.setWidth 64 <<< 3) }
/-- A value written to `FPCTL`: reserved bits read as zero, and rm codes 5 to 7 store 0 (R101). -/
def fpctlWrite (v : Word) : Word :=
  let x := v.toNat % 2 ^ 13
  BitVec.ofNat 64 (if x % 8 ≥ 5 then x / 8 * 8 else x)

/-- A scalar floating-point result: FP trap when an enabled flag is raised, else the result is written (R102). -/
def fpResult (d : BitVec 6) (v : Word) (f : FFlags) (s : State) : State :=
  let b := f.toBits
  if b &&& s.me.enables ≠ 0 then (s.upd (fun t => t.raise b)).trap cFP (b.setWidth 64) 4
  else s.done 4 (fun t => (t.raise b).setG d v)

end Sys2Proof.Machine
end

