-- ==== Sys2Proof/Machine/Formats.lean ====
section
/-!
DEFINITION. The number formats of the matrix and vector units (09 R171-R186): widening, narrowing, CB2, the exact sum of a
k-step, the drain and the wing generator.
-/

namespace Sys2Proof.Machine

/-- Round to nearest even in FP32 without flags (R176, R181). -/
def rne32 (v : FVal) : BitVec 32 := BitVec.ofNat 32 (packF fp32 .rne v).1

/-- An FP32 value unpacked. -/
def f32 (x : BitVec 32) : FVal := unpackF fp32 x.toNat

/-- FP32 sum, product and fused forms, rounded to nearest even (R194, R195). -/
def add32 (a b : BitVec 32) : BitVec 32 := rne32 (addV .rne (f32 a) (f32 b)).1
/-- See `add32`. -/
def sub32 (a b : BitVec 32) : BitVec 32 := rne32 (addV .rne (f32 a) (f32 b).neg).1
/-- See `add32`. -/
def mul32 (a b : BitVec 32) : BitVec 32 := rne32 (mulV (f32 a) (f32 b)).1
/-- RNE32 of (±(a × b)) ± c: the signs of the product and of the addend inverted where asked (R195). -/
def fma32 (negProd negAdd : Bool) (a b c : BitVec 32) : BitVec 32 :=
  let p := (mulV (f32 a) (f32 b)).1
  rne32 (addV .rne (if negProd then p.neg else p) (if negAdd then (f32 c).neg else f32 c)).1
/-- FP32 minimum and maximum by R104, no flags. -/
def min32 (a b : BitVec 32) : BitVec 32 := BitVec.ofNat 32 (minMaxF fp32 false a.toNat b.toNat).1
/-- See `min32`. -/
def max32 (a b : BitVec 32) : BitVec 32 := BitVec.ofNat 32 (minMaxF fp32 true a.toNat b.toNat).1

/-- The canonical quiet NaN of FP32 (R173). -/
def nan32 : BitVec 32 := 0x7FC00000

/-! ## Format codes -/

/-- Element width in bits of a format code (R171); CB2 has none of its own. -/
def fmtBits (code : Nat) : Nat :=
  match code with
  | 0 => 32
  | 1 => 16
  | 2 => 16
  | 3 => 8
  | 4 => 8
  | 5 => 4
  | 6 => 8
  | _ => 0

/-- An E4M3 value (R172, R173): no infinity, NaN only at 0x7F and 0xFF. -/
def unpackE4M3 (w : Nat) : FVal :=
  let s := bit w 7
  if w % 128 = 127 then .nan false
  else if bits w 6 3 = 0 then .fin s (w % 8) (-9)
  else .fin s (8 + w % 8) ((bits w 6 3 : Int) - 10)

/-- An E2M1 value (R173). -/
def unpackE2M1 (w : Nat) : FVal :=
  let s := bit w 3
  if bits w 2 1 = 0 then .fin s (w % 2) (-1)
  else .fin s (2 + w % 2) ((bits w 2 1 : Int) - 2)

/-- An INT8 value as a number (R174). Its 0 counts as +0 where the sign of a zero product is formed (DESIGN CHOICE, log 64: INT8 has no zero sign, and
R183 does not say what a product of an INT8 0 takes). -/
def unpackInt8 (w : Nat) : FVal :=
  let x : Int := (BitVec.ofNat 8 w).toInt
  .fin (decide (x < 0)) x.natAbs 0

/-- The value of an element of a format code (R171-R174). -/
def unpackCode (code w : Nat) : FVal :=
  match code with
  | 0 => unpackF fp32 w
  | 1 => unpackF bf16 w
  | 2 => unpackF fp16 w
  | 3 => unpackE4M3 w
  | 4 => unpackF e5m2 w
  | 5 => unpackE2M1 w
  | _ => unpackInt8 w

/-- Widening to FP32, exact (R177 step 1). -/
def widen (code w : Nat) : BitVec 32 :=
  let v := unpackCode code w
  if v.isNaN then nan32 else rne32 v

/-- Narrowing of a finite value to a saturating format of `f` fraction bits, least exponent `emin`, largest magnitude
`maxBits` (R177: E4M3, E2M1). -/
def narrowSat (f : Nat) (emin : Int) (maxBits : Nat) (man : Nat) (exp : Int) : Nat :=
  if man = 0 then 0
  else
    let top : Int := exp + Nat.log2 man
    let lsb : Int := (if top < emin then emin else top) - f
    let q := roundTo .rne false man exp lsb
    let e0 := if top < emin then 0 else (top - emin).toNat
    min (q.1 + e0 * 2 ^ f) maxBits

/-- Conversion of an FP32 value to a format code (R177 and its table). -/
def narrow (code : Nat) (x : BitVec 32) : Nat :=
  let v := f32 x
  match code with
  | 0 => if v.isNaN then nan32.toNat else x.toNat
  | 1 => (packF bf16 .rne v).1
  | 2 => (packF fp16 .rne v).1
  | 3 =>
    match v with
    | .nan _ => 0x7F
    | .inf n => (if n then 0x80 else 0) + 0x7E
    | .fin n m e => (if n then 0x80 else 0) + narrowSat 3 (-6) 0x7E m e
  | 4 => (packF e5m2 .rne v).1
  | 5 =>
    match v with
    | .nan _ => 0
    | .inf n => (if n then 8 else 0) + 7
    | .fin n m e => (if n then 8 else 0) + narrowSat 1 0 7 m e
  | _ =>
    match v with
    | .nan _ => 0
    | .inf n => if n then 0x80 else 0x7F
    | .fin n m e =>
      (BitVec.ofInt 8 (max (-128) (min 127 (sgn n (roundTo .rne n m e 0).1)))).toNat

/-! ## CB2 -/

/-- The half-unit magnitude and sign of element `j` of an index with its codebook entry (R179, R180). -/
def cb2Elem (index entry j : Nat) : Bool × Nat :=
  let h := bits index 15 15
  let s := if j < 7 then bit index (8 + j) else decide (popc (bits index 14 8) 7 % 2 = 1)
  (s, 2 * bits entry (4 * j + 3) (4 * j) + h)

/-! ## Matrix sums -/

/-- An exact partial sum of products (R181, R182): a NaN, an infinity of one sign, or a dyadic number with the sign rule
of R183 for zero: whether any product is present and whether every present product is −0. -/
structure KSum where
  nan : Bool := false
  posInf : Bool := false
  negInf : Bool := false
  num : Int := 0
  exp : Int := 0
  any : Bool := false
  allNegZero : Bool := true
deriving DecidableEq, Repr

/-- A product added to the exact sum (R181-R183). -/
def KSum.add (k : KSum) (a b : FVal) : KSum :=
  match (mulV a b).1 with
  | .nan _ => { k with nan := true, any := true, allNegZero := false }
  | .inf n => { k with posInf := k.posInf || !n, negInf := k.negInf || n, any := true, allNegZero := false }
  | .fin n m e =>
    let e' := min k.exp e
    { k with
      num := k.num * 2 ^ (k.exp - e').toNat + sgn n m * 2 ^ (e - e').toNat
      exp := e'
      any := true
      allNegZero := k.allNegZero && n && decide (m = 0) }

/-- F: the exact sum with the block scales and the CB2 halves (R181, R182). -/
def KSum.scaled (k : KSum) (ea eb : Nat) (halves : Nat) : FVal :=
  if k.nan || (ea == 255) || (eb == 255) || (k.posInf && k.negInf) then .nan false
  else if k.posInf then .inf false
  else if k.negInf then .inf true
  else if k.num = 0 then .fin (k.any && k.allNegZero) 0 0
  else .fin (decide (k.num < 0)) k.num.natAbs (k.exp + ea - 127 + eb - 127 - halves)

/-- One accumulator update (R181): unchanged when no product is present. -/
def kstepAcc (acc : BitVec 32) (k : KSum) (ea eb halves : Nat) : BitVec 32 :=
  if !k.any && !(ea == 255) && !(eb == 255) then acc
  else rne32 (addV .rne (f32 acc) (k.scaled ea eb halves)).1

/-! ## The wing generator -/

/-- wing32 (R185). -/
def wing32 (key ctr : BitVec 32) : BitVec 32 :=
  let x := (ctr ^^^ key) * 0x6B2F9E4D
  let x := x ^^^ (x >>> 16)
  let x := x * 0x3A1C5D87
  x ^^^ (x >>> 16)

/-- The dropout decision of element (row, col) (R186). -/
def dropKeep (seed q : BitVec 32) (row col : Nat) : Bool :=
  decide ((wing32 seed (BitVec.ofNat 32 (row % 2 ^ 16 * 2 ^ 16 + col % 2 ^ 16))).toNat ≥ q.toNat)

/-- The drained value of an element before conversion (R184): residual, then dropout. -/
def drainY (acc : BitVec 32) (residual : Option (BitVec 32)) (drop : Option (Bool × BitVec 32)) : BitVec 32 :=
  let y := match residual with
    | some r => add32 acc r
    | none => acc
  match drop with
  | some (keep, scale) => if keep then mul32 y scale else 0
  | none => y

/-- The block hash of a global virtual address (R37). -/
def blockHash (va : Nat) : Nat :=
  let b := bits va 55 12
  (wing32 0 (BitVec.ofNat 32 (Nat.xor (b % 2 ^ 32) (bits b 43 32)))).toNat

/-- The node hash of roll call (R216). -/
def nodeHash (n : Nat) : Nat :=
  (wing32 0 (BitVec.ofNat 32 (Nat.xor (bits n 34 3) (bits n 55 35)))).toNat

end Sys2Proof.Machine
end

