-- ==== Sys2Proof/Machine/Address.lean ====
section
/-!
DEFINITION. Addresses: windows, partitions and bank grants (03 R31-R36), the rights of the PLB (19 R352-R356), the walk of the
page table (19 R357-R361), homes (03 R37), and the unloaded latency of each level (03 R46).
-/

namespace Sys2Proof.Machine

/-- The window of an address (R31). -/
def windowOf (va : Nat) : Nat := va / 2 ^ 48 % 256
/-- An address of the global window without nonzero high bits (R31). -/
def isGlobal (va : Nat) : Bool := decide (va < 0xF0 * 2 ^ 48)
/-- The protection region of an address (R352). -/
def regionOf (va : Nat) : Nat := va / 2 ^ 26

/-- Whether a die holds a core of a partition (R32, R334). -/
def Part.onDie (p : Part) (d : Nat) : Bool := (coresOfDie d).any p.has
/-- Whether a partition holds a bank of a die's scratchpad (R32). -/
def Part.grants (p : Part) (d bank : Nat) : Bool := p.onDie d && (tget 0 p.banks d).getLsbD bank

/-- A contribution byte of a cluster's core, by its place, in that core's 0xF4 range, where the cluster belongs to the
partition (R32, R36). -/
def Part.inCluster (p : Part) (name : Nat) : Bool := (clusterOf name).all p.named

/-- Where an address of a scalar access, atomic or command leads, by R31 to R34, for core `c` in partition `part`; none is PROT. -/
def State.resolveIn (s : State) (part c va : Nat) : Option Place :=
  let off := va % 2 ^ 48
  match tfind s.parts part with
  | none => none
  | some p =>
    if va ≥ 2 ^ 56 then none
    else if windowOf va ≤ 0xEF then some (.global va)
    else match windowOf va with
      | 0xF1 => if isMem c || decide (off ≥ 2 ^ 19) then none else some (.core c off)
      | 0xF2 =>
        if isMem c || decide (off ≥ 2 ^ 20) || !p.inCluster (s.nameOf c) then none
        else
          let name := (clusterOf (s.nameOf c)).getD (off / 256 % 4) 0
          some (.core (p.phys name) (0x80000 + off / 1024 * 256 + off % 256))
      | 0xF3 => if off ≥ 2 ^ 26 || !p.grants (dieOf c) (off / 2 ^ 22) then none else some (.die (dieOf c) off)
      | 0xF4 =>
        let name := off / 2 ^ 20
        let o := off % 2 ^ 20
        if off ≥ 2 ^ 31 || decide (o ≥ 0xC0000) || !p.named name || (decide (o ≥ 0x80000) && !p.inCluster name) then none
        else some (.core (p.phys name) o)
      | 0xF5 =>
        let d := off / 2 ^ 26
        if off ≥ 2 ^ 31 || !p.grants d (off % 2 ^ 26 / 2 ^ 22) then none else some (.die d (off % 2 ^ 26))
      | _ => none

/-- The same for thread `t`. -/
def State.resolve (s : State) (t va : Nat) : Option Place := s.resolveIn (s.thread t).part (coreOf t) va

/-- Whether an address lies in the issuing core's short window (R11). -/
def isShort1 (va : Nat) : Bool := windowOf va == 0xF1

/-- The storage key of a place on chip. -/
def Place.chipKey (p : Place) : Nat :=
  match p with
  | .core c off => coreKey c off
  | .die d off => dieKey d off
  | .global va => va

/-! ## Rights -/

/-- The rights of a region in the domain table at physical root `root` (R353). -/
def State.domainRights (s : State) (root : Word) (region : Nat) : Rights :=
  let place := bits root.toNat 49 48
  let a := s.getN (physKey place (bits root.toNat 47 0 + region / 2 ^ 16 * 8)) 8
  if bits a 63 50 ≠ 0 ∨ bits a 14 1 ≠ 0 ∨ bit a 0 = false then {}
  else
    let i := region % 2 ^ 16
    let b := (s.byte (physKey (bits a 49 48) (bits a 47 15 * 2 ^ 15 + i / 2))).toNat / 16 ^ (i % 2)
    { r := bit b 0, w := bit b 1, x := bit b 2, a := bit b 3 }

/-- The PLB entry of a region on a core (R354). -/
def Core.plbFind (c : Core) (region : Nat) : Option Rights := (c.plb.find? (fun e => e.region = region)).map PlbEntry.rights

/-- The PLB with the entry of `region` just used. -/
def Core.plbTouch (c : Core) (region now : Nat) : Core :=
  { c with plb := updEach (fun e => e.region == region) (fun e => { e with used := now }) c.plb }

/-- The PLB with a new entry: a free one, or the least recently used (R354). -/
def Core.plbFill (c : Core) (region : Nat) (r : Rights) (now : Nat) : Core :=
  let rest := c.plb.filter (fun e => e.region != region)
  let rest := if rest.length < Config.plbEntries then rest
    else
      let oldest := rest.foldl (fun m e => min m e.used) now
      match rest.find? (fun e => e.used = oldest) with
      | some v => rest.filter (fun e => e.region != v.region)
      | none => rest
  { c with plb := rest ++ [{ region := region, rights := r, used := now }] }

/-- Step 10 of R74: the right an access to a global address needs; a miss starts the refill and parks the thread (R354). -/
def checkRight (va : Nat) (need : Rights → Bool) (len : Nat) (k : State → State) (s : State) : State :=
  if !isGlobal va then k s
  else
    let c := coreOf s.cur
    match (s.core c).plbFind (regionOf va) with
    | some r =>
      let s1 := s.updCore c (fun x => x.plbTouch (regionOf va) s.now)
      if need r then k s1 else s1.trap cPROT (BitVec.ofNat 64 va) len
    | none => (s.parkOn .plb).afterOnce Config.plbRefill (.plbRefill c s.cur (regionOf va))

/-- Steps 8 to 10 of R74 for one address: PROT, ALIGN, rights; `k` goes on with the place. -/
def checkAddr (va : Word) (size : Nat) (need : Rights → Bool) (len : Nat) (k : Place → State → State) (s : State) : State :=
  match s.resolve s.cur va.toNat with
  | none => s.trap cPROT va len
  | some p =>
    if va.toNat % size ≠ 0 then s.trap cALIGN va len
    else checkRight va.toNat need len (k p) s

/-- The check of a transfer target (R49, R77): ALIGN for bit 0, PROT for the window and for a region without execute right. -/
def checkTarget (t : Word) (len : Nat) (k : State → State) (s : State) : State :=
  if t.toNat % 2 = 1 then s.trap cALIGN t len
  else if !isGlobal t.toNat then s.trap cPROT t len
  else checkRight t.toNat Rights.x len k s

/-! ## Translation -/

/-- Whether a physical range of `2^log` bytes meets R359 for its place. -/
def physOk (place pa log : Nat) : Bool :=
  pa % 2 ^ log == 0 &&
  match place with
  | 0 => pa / 2 ^ 42 == 0 && !bit pa 32 && decide (pa % 2 ^ 32 + 2 ^ log ≤ Config.channelBytes)
  | 1 => pa / 2 ^ 43 == 0 && decide (pa + 2 ^ log ≤ Config.farBytes)
  | 2 => true
  | _ => false

/-- log2 of the size of the page that a leaf of a level maps (R357, R360). -/
def leafLog (level : Nat) (c64 : Bool) : Nat := if level = 4 then (if c64 then 16 else 12) else if level = 3 then 21 else 30

/-- Whether an entry at a level (0 root to 4) is malformed (R358, R360); `c64` says that it is the first of a 64 KiB page. -/
def pteBad (e level : Nat) (c64 : Bool) : Bool :=
  let leaf := bit e 1
  bits e 63 58 != 0 || bit e 11 || (decide (level ≤ 1) && leaf) || (level == 4 && !leaf) || (bit e 10 && level != 4) ||
  (if leaf then
    bits e 57 56 == 3 || bits e 3 2 == 3 || (bit e 50 && bits e 49 48 == 0) || (bit e 5 && decide (4 ≤ bits e 8 6)) ||
    (bit e 4 && bit e 5) || !physOk (bits e 49 48) (bits e 47 12 * 4096) (leafLog level c64)
  else !physOk (bits e 49 48) (bits e 47 12 * 4096) 12)

/-- The page of a leaf entry at a level, for an address (R358-R360). -/
def pageOf (e level : Nat) (c64 : Bool) (va : Nat) : Page :=
  let log := leafLog level c64
  { place := bits e 49 48
    pa := bits e 47 12 * 4096 + va % 2 ^ log
    cls := bits e 3 2, sib := bit e 4, accum := bit e 5, aop := bits e 8 6, sysatom := bit e 9, bias := bits e 57 56
    homed := bit e 50, die := bits e 55 51, log := log }

/-- The walk from an entry of a level down: a page, or the cause of the fault, 1 or 2 (R357-R360). The result counts the
levels read. `n` is the number of levels that may still be read. -/
def walkFrom (s : State) (n : Nat) (e level : Nat) (c64 : Bool) (va : Nat) : Except Nat (Page × Nat) :=
  if bit e 0 = false then .error 1
  else if pteBad e level c64 then .error 2
  else if bit e 1 then .ok (pageOf e level c64 va, level)
  else
    match n with
    | 0 => .error 2
    | n + 1 =>
      let idx := va / 2 ^ (39 - 9 * level) % 512
      let big := level == 3 && (bit (entry e (idx / 16 * 16)) 10 || (bit (entry e idx) 0 && bit (entry e idx) 10))
      walkFrom s n (entry e (if big then idx / 16 * 16 else idx)) (level + 1) big va
where
  /-- Entry `i` of the table that an entry names. At L4 a page whose own entry or whose aligned group's first entry has C64 set uses the first entry of
  the group alone (R360; log 67). -/
  entry (e i : Nat) : Nat := s.getN (physKey (bits e 49 48) (bits e 47 12 * 4096 + 8 * i)) 8

/-- The block hash h of an address (R37). -/
def hashOf (va : Nat) : Nat := blockHash va

/-- The home slice of a far-tier or host page: its number die*16 + slice (R37). -/
def slicesOf (p : Page) (va : Nat) : Nat :=
  let h := hashOf va
  if p.homed then p.die * 16 + h / 2 ^ 28 else h * 512 / 2 ^ 32

/-- The home slice of a translated address: die*16 + slice (R37). -/
def homeOf (p : Page) (va : Nat) : Nat :=
  if p.place = 0 then bits p.pa 41 37 * 16 + bits p.pa 36 33 else slicesOf p va

/-- The slice that takes an access without a valid translation: slice h >> 28 of a die (R37). -/
def faultSlice (die va : Nat) : Nat := die * 16 + hashOf va / 2 ^ 28

/-- The storage key of a translated byte; a peer's word by its module and its physical address there, whichever window leads to it (R404). -/
def Page.key (p : Page) : Nat := if p.peer = 0 then physKey p.place p.pa else physKey 2 (2 ^ 48 + (p.peer - 1) * 2 ^ 42 + p.pa % 2 ^ 42)

/-! ## Host windows -/

/-- The kind of the window of a physical host address: 0 invalid, 1 host memory, 2 peer module, 3 reduction (R403). -/
def State.windowEntry (s : State) (pa : Nat) : Nat := (tget 0 s.windows (pa / 2 ^ 42)).toNat
def windowKind (e : Nat) : Nat :=
  if (bits e 32 30 ≥ 4) ∨ bits e 56 33 = 0 then 0 else bits e 63 62
/-- The kind of a page's window; 0 for HBM and the far tier too, and for a page at whose offset the peer has no HBM (R359, R404; log 43). -/
def State.hostKind (s : State) (p : Page) : Nat :=
  if p.place = 2 then
    let k := windowKind (s.windowEntry p.pa)
    if k = 2 ∧ !physOk 0 (p.pa % 2 ^ 42 / 2 ^ p.log * 2 ^ p.log) p.log then 0 else k
  else 0

/-! ## Walks -/

/-- The walk of an address in the tables (R357), with the peer module of a page in a peer window (R404). -/
def State.walkMem (s : State) (va : Nat) : Except Nat (Page × Nat) :=
  match walkFrom s 4 (tget 0 s.root (va / 2 ^ 48)).toNat 0 false va with
  | .ok (pg, levels) =>
    let e := s.windowEntry pg.pa
    .ok (if pg.place = 2 ∧ windowKind e = 2 then { pg with peer := bits e 61 57 + 1 } else pg, levels)
  | .error c => .error c

/-- The translation of an address that its home slice holds (R361). -/
def State.heldWalk (s : State) (va : Nat) : Option Page :=
  (s.slices.findSome? (fun e => e.2.walks.find? (fun w => w.block == va / 4096 && homeOf w.page va == e.1))).map (fun w =>
    { w.page with pa := w.page.pa + va % 4096 })

/-- The translation of an address (R357, R361): the one that its home slice holds, or a walk. -/
def State.walk (s : State) (va : Nat) : Except Nat (Page × Nat) :=
  match s.heldWalk va with
  | some pg => .ok (pg, match s.walkMem va with | .ok (_, levels) => levels | .error _ => 4)
  | none => s.walkMem va

/-- The FIXED context in whose reserved entries and lines an access's translation and line lie (R299, R361). -/
def State.reserve (s : State) (ctx : Nat) : Option Nat := if s.levelOf ctx = 3 then some ctx else none

/-- Whether a home slice holds the translation of a block for a context: its walk has ended (R361). -/
def State.walkCached (s : State) (slice va ctx : Nat) : Bool :=
  (s.slice slice).walks.any (fun e => e.block == va / 4096 && e.ctx == s.reserve ctx && decide (e.ready ≤ s.now))

/-- A frame of HBM given to a block whose translation a slice comes to hold (R43): where none of the blocks that had it is mapped to it any more, this is
the allocation of a page, and its words are FULL (log 65). -/
def State.allocated (s : State) (pg : Page) (va : Nat) : State :=
  let f := pg.key / 4096
  let had := tget [] s.mapped f
  if pg.place ≠ 0 ∨ had.contains (va / 4096) then s
  else
    let still := had.filter (fun b => match s.walkMem (b * 4096) with | .ok (p, _) => p.key / 4096 == f | .error _ => false)
    { s with mapped := tput [] s.mapped f (still ++ [va / 4096])
             empty := if still.isEmpty then s.empty.filter (fun w => w / 4096 != f) else s.empty }

/-- A walk that ends at a cycle, with its translation; the oldest translation goes where a context's 64 reserved entries, or the others of the slice's
1,024, are full (R361; which one goes is the model's choice, log 5). -/
def State.cacheWalk (s : State) (pg : Page) (va ctx ready : Nat) : State :=
  let slice := homeOf pg va
  let own := s.reserve ctx
  let room := if own.isSome then 64 else 1024 - 64 * (s.ctxs.filter (fun e => e.2.level == 3)).length
  if (s.slice slice).walks.any (fun e => e.block == va / 4096 && e.ctx == own) then s
  else (s.allocated pg va).updSlice slice (fun x =>
    let kept := if room ≤ (x.walks.filter (fun e => e.ctx == own)).length then removeFirst (fun e => e.ctx == own) x.walks else x.walks
    { x with walks := kept ++ [{ block := va / 4096, page := { pg with pa := pg.pa - va % 4096 }, ready := ready, ctx := own }] })

/-- The cycles a walk adds: 105 for each level read, at FIXED exactly 420 (R361). -/
def walkCost (fixed : Bool) (levels : Nat) : Nat := if fixed then 420 else 105 * levels

/-- An access of a context once its home holds the translation (R361): the step `ev` comes again when the walk ends. -/
def State.walked (s : State) (ctx va : Nat) (ev : Instr) (k : State → State) : State :=
  match s.walk va with
  | .error _ => k s
  | .ok (pg, levels) =>
    if !isGlobal va || s.walkCached (homeOf pg va) va ctx then k s
    else
      let cost := walkCost (s.levelOf ctx = 3) levels
      (s.cacheWalk pg va ctx (s.now + cost)).after cost ev

/-! ## What a page's words have -/

/-- Whether the words of a page carry full/empty bits: HBM and peer-module words (R43). -/
def State.hasBits (s : State) (p : Page) : Bool := p.place == 0 || (p.place == 2 && s.hostKind p == 2)

/-- The Broino port of an address's 4 KiB block among the ports that bits 56:33 of a window entry name (R404); an entry that names none is
invalid, and its accesses are logged at a port of all 24. -/
def linkPort (e va : Nat) : Nat :=
  let ps := (List.range 24).filter (fun p => bit (bits e 56 33) p)
  let l := if ps.isEmpty then List.range 24 else ps
  l.getD (hashOf va * l.length / 2 ^ 32) 0

/-- The die of a Broino port (R402). -/
def portDie (p : Nat) : Nat := 16 * (p / 12) + 2 + p % 12

/-- Whether the part of the module that would carry an access to a page's word is fenced: its channel, or its block's port (R411); the far
tier is reached through the ports of FTPORTS alone (R408). -/
def State.pageDead (s : State) (p : Page) (va : Nat) : Bool :=
  match p.place with
  | 0 => s.fenced.any (fun f => decide (f = .channel (bits p.pa 41 37) (bits p.pa 36 33)))
  | 1 => bits s.ftports.toNat 23 0 == 0 || s.fenced.any (fun f => decide (f = .port (linkPort (bits s.ftports.toNat 23 0 * 2 ^ 33) va)))
  | _ => s.fenced.any (fun f => decide (f = .port (linkPort (s.windowEntry p.pa) va)))

/-! ## Groups and latencies -/

/-- The group of TBANKS that serves a place for a thread's core (R134). -/
def State.groupOf (s : State) (c : Nat) (p : Place) : Nat :=
  match p with
  | .core k _ => dieOf k
  | .die d _ => d
  | .global va =>
    match s.walk va with
    | .error _ => dieOf c
    | .ok (pg, _) => if pg.place = 2 then (if s.hostKind pg = 2 then 32 else 33) else homeOf pg va / 16

/-- The unloaded bound of R46 for an access of a core to a place, without the walk and the fill of a line that `atSlice` adds. R46 has no row for
another die's core scratchpad in window 0xF4: it has the bound of another die's scratchpad (DESIGN CHOICE, log 60). -/
def State.latency (s : State) (c : Nat) (p : Place) : Nat :=
  match p with
  | .core k off =>
    if k = c then Config.ownCoreF4
    else if off ≥ 0x80000 && (clusterOf (s.nameOf c)).contains (s.nameOf k) then Config.ownCluster
    else if dieOf k = dieOf c then Config.sameDieCore
    else Config.homeElsewhere
  | .die d _ => if d = dieOf c then Config.ownDie else Config.homeElsewhere
  | .global va =>
    match s.walk va with
    | .error _ => Config.homeOwnDie
    | .ok (pg, _) =>
      match pg.place with
      | 0 => if homeOf pg va / 16 = dieOf c then Config.homeOwnDie else Config.homeElsewhere
      | 1 => Config.farTier
      | _ => if s.hostKind pg = 2 then Config.broino else Config.broino + Config.hostDelay s.now

/-- Half of a bound, rounded up: when the bank or home serves the request (R46). -/
def halfUp (n : Nat) : Nat := (n + 1) / 2

end Sys2Proof.Machine
end

