-- ==== Sys2Proof/Machine/Arbiter.lean ====
section
/-!
DEFINITION. What serves one access in each cycle (03 R46, R47; 12 R240, R241; 11 R220; 15 R299): the banks, the home slices and the
roll-call banks, which request has its cycle, and the frames of FIXED partitions.
-/

namespace Sys2Proof.Machine

/-! ## Servers -/

/-- The server of a place's byte: 16 banks interleaved on 8-byte words in a core's own scratchpad (R47) and in its contribution to cluster
memory (DESIGN CHOICE, log 60: the manual gives the contribution's banks no number), a die scratchpad's banks of 4 MiB (R35), a home slice, for a peer's word that of the peer (R37, R404). -/
def State.serverOf (s : State) (p : Place) : Server :=
  match p with
  | .core c o => if o < 2 ^ 19 then .pad c (o / 8 % 16) else if o < 2 ^ 20 then .share c (o / 8 % 16) else .roll c
  | .die d o => .die d (o / 2 ^ 22)
  | .global va => match s.walk va with
    | .ok (pg, _) => if s.hostKind pg = 2 then .peer (pg.peer - 1) (bits pg.pa 41 37 * 16 + bits pg.pa 36 33) else .home (homeOf pg va)
    | .error _ => .home 0

/-- A server's cycles so far. -/
def State.bank (s : State) (v : Server) : Bank := (s.banks.find? (fun b => b.server == v)).getD { server := v }
/-- A server's cycles replaced. -/
def State.setBank (s : State) (b : Bank) : State :=
  { s with banks := if s.banks.any (fun x => x.server == b.server) then updEach (fun x => x.server == b.server) (fun _ => b) s.banks
                    else s.banks ++ [b] }

/-- Short accesses of the issuing thread take the cycle after this one at their banks (R47, R240). -/
def State.takeShort (s : State) (vs : List Server) : State :=
  vs.foldl (fun s v => s.setBank { s.bank v with short := some (s.now + 1) }) s

/-! ## Frames (R287, R299, R335) -/

/-- A home slice, a memory core's copy unit, a channel of HBM and a Zwiale link as units of the frame tables; the gateways are those of
`gateUnit`. -/
def sliceUnit (slice : Nat) : Nat := 8192 + slice
def copyUnit (core : Nat) : Nat := 9216 + core % 512
def channelUnit (slice : Nat) : Nat := 10240 + slice
def linkUnit (link : Nat) : Nat := 11264 + link

/-- Whether a partition runs at FIXED. -/
def State.partFixed (s : State) (part : Nat) : Bool := match tfind s.parts part with | some p => s.levelOf p.ctx == 3 | none => false

/-- Whether a unit may start a partition's request or packet in the present frame (R299, R335): a FIXED partition's only in a frame it owns,
another's in one that no FIXED partition owns. -/
def State.frameOpen (s : State) (unit part : Nat) : Bool :=
  match tget 0 s.frames (unit * 16 + s.now / 16 % 16) with
  | 0 => !s.partFixed part
  | q => if s.partFixed part then q == part + 1 else !s.partFixed (q - 1)

/-- Whether a packet of `len` flits that starts now through a unit keeps out of the frames that other FIXED partitions own, to its last flit (R335). -/
def State.frameClear (s : State) (unit part len : Nat) : Bool :=
  match tget 0 s.frames (unit * 16 + (s.now + len - 1) / 16 % 16) with
  | 0 => true
  | q => q == part + 1 || !s.partFixed (q - 1)

/-! ## Whose cycle it is -/

/-- The class whose window a cycle is at FIXED (R241). -/
def windowClass (now : Nat) : BankClass := match now % 16 % 3 with | 0 => .P | 1 => .C | _ => .T

/-- The class behind another in the pointer's round (R240). -/
def BankClass.after (c : BankClass) : BankClass := match c with | .P => .C | .C => .T | .T => .P

/-- Whether a request comes before another of its class (R240): the earlier arrival, then the lower thread key; of two requests of one thread
that came in one cycle, the one that joined first. -/
def BankItem.before (a b : BankItem) : Bool :=
  decide (a.came < b.came) || (a.came == b.came && (a.key.lt b.key || (a.key == b.key && decide (a.turn < b.turn))))

/-- The first of a list of requests. -/
def firstItem (l : List BankItem) : Option BankItem :=
  l.foldl (fun m x => match m with | some y => if x.before y then some x else some y | none => some x) none

/-- The servers that keep window classes (R240): the banks of the scratchpad levels. -/
def Server.windows (v : Server) : Bool := match v with | .home _ => false | .peer .. => false | .roll _ => false | _ => true

/-- Whether a waiting request may start at its server in the present frame (R299). -/
def State.inFrame (s : State) (x : BankItem) : Bool := match x.server with | .home n => s.frameOpen (sliceUnit n) x.part | _ => true

/-- The request that has a server's present cycle (R46, R220, R240, R241): none where an access was served in it or a short access takes
it. -/
def State.cycleOf (s : State) (v : Server) : Option BankItem :=
  let b := s.bank v
  if b.served == some s.now || b.short == some s.now then none
  else
    let l := s.bankq.filter (fun x => x.server == v && s.inFrame x)
    if !v.windows then firstItem l
    else
      let head := fun (c : BankClass) => firstItem (l.filter (fun x => x.cls == c))
      if l.any (fun x => s.levelOf x.ctx == 3) then head (windowClass s.now)
      else match head b.next with
        | some x => some x
        | none => match head b.next.after with
          | some x => some x
          | none => head b.next.after.after

/-- The request that a step serves, where it waits at a server. -/
def State.itemOf (s : State) (i : Instr) : Option BankItem := s.bankq.find? (fun x => decide (x.who = i))

/-- The place of a request that joins: behind every one that waits. -/
def State.nextTurn (s : State) : Nat := s.bankq.foldl (fun m x => max m x.turn) 0 + 1

/-- A step's request leaves its server. -/
def State.leaveBank (s : State) (i : Instr) : State := { s with bankq := s.bankq.filter (fun x => decide (x.who ≠ i)) }

/-- A step tries again in the next cycle. -/
def State.again (s : State) (i : Instr) : State := s.after 1 i

/-- A request at its server. `old` is its place in the queue, which its step has left; a new one waits until every request of this cycle has
come. With the cycle it is served, the pointer goes on behind its class, and `k` does the rest. -/
def State.atServer (s : State) (old : Option BankItem) (x : BankItem) (k : State → State) : State :=
  match old with
  | none => { s with bankq := s.bankq ++ [{ x with turn := s.nextTurn }] }.after 0 x.who
  | some y =>
    let z := { y with server := x.server }
    let s1 := { s with bankq := s.bankq ++ [z] }
    match s1.cycleOf z.server with
    | some w =>
      if w.who = x.who then k (s.setBank { s.bank z.server with served := some s.now, next := z.cls.after })
      else s1.again x.who
    | none => s1.again x.who

/-- A thread's request at the server of a place. -/
def State.threadItem (s : State) (t : Nat) (cls : BankClass) (p : Place) (i : Instr) : BankItem :=
  { server := s.serverOf p, cls := cls, came := s.now, key := s.keyOf t, part := (s.thread t).part, ctx := (s.thread t).ctx, who := i }

end Sys2Proof.Machine
end

