-- ==== Sys2Proof/Machine/Record.lean ====
section
/-!
DEFINITION. Records of the order roll (21 R392-R394): their layout, slot ordinals, how an object writes its records at RECORD
and keeps their order at REPLAY (R396, R400).
-/

namespace Sys2Proof.Machine

/-- A record from its fields (R392). -/
def mkRecord (typ op nv actor ord val obj : Nat) : RollRecord :=
  BitVec.ofNat 128 (obj % 2 ^ 56 + 2 ^ 56 * (val % 2 ^ 31) + 2 ^ 87 * (ord % 2 ^ 16) + 2 ^ 103 * (actor % 2 ^ 16) + 2 ^ 119 * nv +
    2 ^ 120 * op + 2 ^ 123 * typ)

def recType (r : RollRecord) : Nat := bits r.toNat 127 123
def recOp (r : RollRecord) : Nat := bits r.toNat 122 120
def recNv (r : RollRecord) : Bool := bit r.toNat 119
def recActor (r : RollRecord) : Nat := bits r.toNat 118 103
def recOrd (r : RollRecord) : Nat := bits r.toNat 102 87
def recVal (r : RollRecord) : Nat := bits r.toNat 86 56
def recObj (r : RollRecord) : Nat := bits r.toNat 55 0

/-- The actor of a thread: its core's name and its slot (R392). -/
def State.actorOf (s : State) (t : Nat) : Nat := s.nameOf (coreOf t) * 16 + slotOf t

/-- The name of a place's word in a record: its 56-bit address, on-chip bytes in their 0xF4 or 0xF5 form (R392). -/
def State.objOf (s : State) (p : Place) : Nat :=
  match p with
  | .core c off => coreKey (s.nameOf c) off
  | .die d off => dieKey d off
  | .global va => va

/-- The Zwiale link that a name of `LTURN` means (R293): link `2d` is east of die `d`, link `2c + 1` the cross-row link of die
column `c`; none where the die has no such link. -/
def linkOf (name : Nat) : Option Nat :=
  let d := name % 32
  match name / 32 % 4 with
  | 0 => if d % 16 = 15 then none else some (2 * d)
  | 1 => if d % 16 = 0 then none else some (2 * (d - 1))
  | 2 => some (2 * (d % 16) + 1)
  | _ => none

/-- The queue of a record's object: memory objects by address; the deque, slot, message, register and link objects each in a
queue of their own kind (R394, R398); a link has one queue, whichever side names it (R293). -/
def recQueue (typ obj : Nat) : Nat :=
  if typ ≤ 7 then obj
  else if typ = 0x0D ∨ typ = 0x0E then (match linkOf obj with | some l => l | none => 256 + obj) + 2 ^ 56 * 0x0D
  else obj + 2 ^ 56 * typ

/-- Whether a context records, and whether it replays (R7). -/
def State.recording (s : State) (c : Nat) : Bool := s.levelOf c == 1
def State.replaying (s : State) (c : Nat) : Bool := s.levelOf c == 2

/-- A slot's next ordinal (R393). -/
def State.ordOf (s : State) (t : Nat) : Nat := tget 0 (s.ctx (s.thread t).ctx).roll.ords (s.actorOf t)

/-- The ordinal of a slot advanced (R393). -/
def State.nextOrd (s : State) (t : Nat) : State :=
  s.updCtx (s.thread t).ctx (fun c => { c with roll := { c.roll with
    ords := tput 0 c.roll.ords (s.actorOf t) ((s.ordOf t + 1) % 2 ^ 16) } })

/-- Free records of a roll (R396). -/
def Roll.free (r : Roll) : Nat := 2 ^ r.size - (r.head - r.tail).toNat

/-- A record handed to the roll unit (R396). -/
def State.record (s : State) (c : Nat) (r : RollRecord) : State :=
  (s.updCtx c (fun x => { x with roll := { x.roll with unwritten := x.roll.unwritten ++ [r] } })).afterOnce 1 (.rollRecordWrite c)

/-- A record of type `typ` for an operation of thread `t`, written at RECORD (R394). -/
def State.note (s : State) (t typ op ord val obj : Nat) : State :=
  let c := (s.thread t).ctx
  if s.recording c then s.record c (mkRecord typ op 0 (s.actorOf t) ord val obj) else s

/-- The first record of a slot's cursor (R400). -/
def Roll.cursor (r : Roll) (actor : Nat) : Option (Nat × RollRecord) := (r.cursors.find? (fun e => e.1 = actor)).map (fun e => e.2)
/-- The head of an object's queue (R400). -/
def Roll.headOf (r : Roll) (q : Nat) : Option (Nat × RollRecord) := (r.queues.find? (fun e => e.1 = q)).map (fun e => e.2)

/-- A record taken out of its queue and its cursor once its operation is served (R400). -/
def Roll.remove (r : Roll) (idx : Nat) : Roll :=
  { r with queues := r.queues.filter (fun e => e.2.1 != idx), cursors := r.cursors.filter (fun e => e.2.1 != idx) }

/-- What an object says of an operation at REPLAY (R400). -/
inductive Turn where
  | free
  | wait
  | mine (idx : Nat) (r : RollRecord)
deriving DecidableEq, Repr

/-- The type and op of the record a memory operation writes, with the op's meaning (R394). -/
def recKind (op : MemOp) (acq : Bool) : Option (Nat × Nat) :=
  match op with
  | .amo .. => some (3, 0)
  | .famo .. => some (3, 1)
  | .stv .. => some (3, 2)
  | .recon .. => some (3, 3)
  | .scond .. => some (4, 0)
  | .ldf => some (5, 0)
  | .ldtk => some (5, 1)
  | .stf .. => some (5, 2)
  | .load .. => if acq then some (6, 0) else none
  | .lres => if acq then some (6, 0) else none
  | .joinRead => some (6, 1)
  | .barw _ => some (7, 0)
  | .bellWait _ => some (7, 1)
  | .stand _ => some (8, 0)
  | .leave => some (8, 3)
  | _ => none

/-- Ordinal `a` stands before ordinal `b` of one slot; ordinals count modulo 2¹⁶ (R393). -/
def ordBefore (a b : Nat) : Bool := let d := (b + 2 ^ 16 - a) % 2 ^ 16; decide (0 < d) && decide (d < 2 ^ 15)

/-- The object of a memory operation's record (R394): a reservation's granule, a barrier or bell, a node, otherwise the aligned word. -/
def State.recordObj (s : State) (r : Req) : Nat :=
  match r.op with
  | .scond _ => s.objOf r.place / 128 * 128
  | .barw _ => s.objOf r.place
  | .bellWait _ => s.objOf r.place
  | .stand _ => r.va.toNat
  | .leave => r.va.toNat
  | _ => s.objOf r.place / 8 * 8

/-- The queue of the record that an access writes once its object resolves it (R394); none where it writes none. -/
def State.reqQueue (s : State) (r : Req) : Option Nat :=
  match r.op with
  | .send => some (recQueue 0x0B r.va.toNat)
  | .rfill .. => some (recQueue 0x0C (r.va.toNat % 2 ^ 21))
  | .lturn .. => some (recQueue 0x0D r.va.toNat)
  | _ => (recKind r.op r.acq).map (fun k => recQueue k.1 (s.recordObj r % 2 ^ 56))

/-- The record name of an engine address on chip (R392). -/
def State.bellObj (s : State) (part core va : Nat) : Nat :=
  match s.resolveIn part core va with | some p => s.objOf p | none => va

/-- The acquire flag of a tile task (R252). -/
def TileCmd.acq (c : TileCmd) : Bool := c.kind == 1 && bit (fieldOf c.record 0 4) 24

/-- A record that is still to be written, or an operation that will write one: its object's queue, its actor and ordinal where it names an
instruction, and the place of a record among those handed over (R395). -/
structure OrderNode where
  queue : Nat
  by_ : Option (Nat × Nat)
  place : Option Nat
deriving DecidableEq, Repr

/-- The operations of a context that their objects have not resolved yet. -/
def State.openOps (s : State) (ctx : Nat) : List OrderNode :=
  let node := fun (tid : Nat) (ord : Option Nat) (q : Nat) => ord.map (fun o => ({ queue := q, by_ := some (s.actorOf tid, o), place := none } : OrderNode))
  let bells := fun (part core : Nat) (l : List Nat) => l.map (fun w => recQueue 7 (s.bellObj part core w % 2 ^ 56))
  s.reqs.filterMap (fun r =>
    if (s.thread r.tid).ctx == ctx && (r.state == .going || r.state == .waiting || r.state == .parked) then (s.reqQueue r).bind (node r.tid r.ord) else none) ++
  s.copies.flatMap (fun c => if c.ctx == ctx && c.acq then (bells c.part c.core c.waitBell.toList).filterMap (node c.tid c.ord) else []) ++
  s.tileCmds.flatMap (fun c => if c.ctx == ctx && c.acq && !c.ended then (bells c.part c.core (c.wb0.toList ++ c.wb1.toList)).filterMap (node c.tid c.ord) else [])

/-- Whether `m` stands before `n` in the ring (R395): an earlier ordinal of the same actor, or an earlier record of the same object. -/
def OrderNode.precedes (m n : OrderNode) : Bool :=
  (match m.by_, n.by_ with | some (a, o), some (b, p) => a == b && ordBefore o p | _, _ => false) ||
  (m.queue == n.queue && (match m.place, n.place with | some i, some j => decide (i < j) | some _, none => true | none, _ => false))

/-- The nodes that stand before those of a set, by `n` steps of `precedes`. -/
def precursors (all l : List OrderNode) (n : Nat) : List OrderNode :=
  match n with
  | 0 => l
  | n + 1 => precursors all (all.filter (fun m => l.contains m || l.any (fun x => m.precedes x))) n

/-- Whether an operation that its object has still to resolve must stand before this one (R395): the object serves that one first, so that the ring
can keep both orders (log 38). -/
def State.recordsFirst (s : State) (c typ obj actor : Nat) (ord : Option Nat) : Bool :=
  let l := (s.ctx c).roll.unwritten
  match ord with
  | none => false
  | some o =>
    if !s.recording c || l.isEmpty then false
    else
      let q := recQueue typ (obj % 2 ^ 56)
      let me : OrderNode := { queue := q, by_ := some (actor, o), place := none }
      let node := fun (e : RollRecord × Nat) =>
        (OrderNode.mk (recQueue (recType e.1) (recObj e.1)) (if recNv e.1 then none else some (recActor e.1, recOrd e.1)) (some e.2))
      let all := l.zipIdx.map node ++ s.openOps c
      (precursors all [me] all.length).any (fun m => m.place.isNone && m.queue == q && m != me)

/-- Whether an object holds a record for which the ring has no slot: until it is written, the object serves nothing that would write a record
(R397). -/
def State.rollFull (s : State) (c typ obj : Nat) : Bool :=
  let r := (s.ctx c).roll
  s.recording c &&
    (r.unwritten.drop (2 ^ r.size - (r.head - r.tail).toNat)).any (fun y => recQueue (recType y) (recObj y) == recQueue typ (obj % 2 ^ 56))

/-- Whether an object may serve an operation of `actor` now: at RECORD while no record waits at it and no order of R395 forbids it, at REPLAY only
the head of its queue. -/
def State.turnOf (s : State) (c typ obj actor : Nat) (ord : Option Nat) : Turn :=
  if !s.replaying c then (if s.rollFull c typ obj || s.recordsFirst c typ obj actor ord then .wait else .free)
  else
    match (s.ctx c).roll.headOf (recQueue typ (obj % 2 ^ 56)) with
    | some (i, r) => if recActor r = actor ∧ recType r = typ ∧ (recNv r ∨ some (recOrd r) = ord) then .mine i r else .wait
    | none => .wait

/-- The threads of a context that wait for the roll try again (R397, R400). -/
def State.wakeRoll (s : State) (c : Nat) : State :=
  (s.threads.filter (fun e => e.2.ctx == c && e.2.park == some .roll)).foldl (fun s e => s.wake e.1) s

/-- A record served. -/
def State.unqueue (s : State) (c idx : Nat) : State :=
  (s.updCtx c (fun x => { x with roll := x.roll.remove idx })).wakeRoll c

/-- The release that the word's latest write belongs to, as an ACQ record's val and op bit (R394). -/
def State.releaseOf (s : State) (key : Nat) : Nat × Nat := tget (0x1FFFF, 0) s.lastWrite (key / 8 * 8)

/-- The releasing actor that an ACQ record names (R394). -/
def recReleaser (r : RollRecord) : Nat := recOp r / 4 % 2 * 2 ^ 15 + bits (recVal r) 30 16

/-- A write of a thread remembered as its word's latest, for the order roll (R394). -/
def State.noteWrite (s : State) (t key : Nat) (rel : Bool) (ord : Option Nat) (rmw : Bool) : State :=
  if s.recording (s.thread t).ctx || s.replaying (s.thread t).ctx then
    if rel then { s with lastWrite := tput (0x1FFFF, 0) s.lastWrite (key / 8 * 8) (s.actorOf t, ord.getD 0) }
    else if rmw then s
    else { s with lastWrite := tput (0x1FFFF, 0) s.lastWrite (key / 8 * 8) (0x20000 + s.actorOf t, 0) }
  else s

/-- A write of an agent that is no thread: no release of a recorded actor (R394). -/
def State.forget (s : State) (key len : Nat) : State :=
  if s.lastWrite.isEmpty then s
  else { s with lastWrite := s.lastWrite.filter (fun e => !(decide (key / 8 ≤ e.1 / 8) && decide (e.1 / 8 ≤ (key + len - 1) / 8))) }

/-- The ACQ record's op and val for a release (R394). -/
def acqVal (kind : Nat) (rel : Nat × Nat) : Nat × Nat :=
  if rel.1 ≥ 0x1FFFF then (kind, 2 ^ 31 - 1)
  else (kind + 4 * (rel.1 / 2 ^ 15), rel.1 % 2 ^ 15 * 2 ^ 16 + rel.2)

/-- An operation served by its object: at RECORD its record is written, at REPLAY its record leaves the queue (R394, R400). -/
def State.served (s : State) (r : Req) (key val : Nat) : State :=
  match recKind r.op r.acq with
  | none => s
  | some (typ, op) =>
    let c := (s.thread r.tid).ctx
    let word := s.recordObj r
    if s.recording c then
      let x := if typ = 6 then acqVal op (s.releaseOf key) else (op, val)
      let s1 := s.note r.tid typ x.1 (r.ord.getD 0) x.2 word
      if both r then
        let y := acqVal 0 (s.releaseOf key)
        s1.note r.tid 6 y.1 (r.ord.getD 0) y.2 word
      else s1
    else if s.replaying c then
      let s1 := takeOut c typ s
      if both r then takeOut c 6 s1 else s1
    else s
where
  /-- An acquire AMO or FAMO writes an ACQ record behind its AMO record, under one ordinal (R394). -/
  both (r : Req) : Bool := r.acq && (match r.op with | .amo .. => true | .famo .. => true | _ => false)
  takeOut (c typ : Nat) (s : State) : State :=
    match (s.ctx c).roll.queues.find? (fun e => recActor e.2.2 = s.actorOf r.tid ∧ recType e.2.2 = typ ∧ some (recOrd e.2.2) = r.ord) with
    | some e => s.unqueue c e.2.1
    | none => s

/-- Whether a recorded generation has come at its object (R400): the wait that the record names ends with it, also once the object's generation has
passed it. Generations count modulo 2³¹ in a record. -/
def genReached (want now : Nat) : Bool := decide ((now + 2 ^ 31 - want) % 2 ^ 31 < 2 ^ 30)

end Sys2Proof.Machine
end

