-- ==== Sys2Proof/Machine/Route.lean ====
section
/-!
DEFINITION. Routes between agents of the module (14 R274, R277, R283, R285): places, rings, gateways, links, membership bitmaps, unloaded
times (R278), and what fails on a route, for packets and for memory requests (R411).
-/

namespace Sys2Proof.Machine

/-! ## Places (R274) -/

/-- Local column and row of a core on its die. -/
def lcol (c : Nat) : Nat := colOf c % 8
def lrow (c : Nat) : Nat := rowOf c % 8
/-- The core of a die at a local column and row. -/
def localCore (d x y : Nat) : Nat := coordOf (d % 16 * 8 + x) (d / 16 * 8 + y)
/-- The router at which an agent enters the mesh: a memory core's is that of its channel (R274). -/
def routerOf (c : Nat) : Nat := if isMem c then localCore (dieOf c) (c % 16 % 8) (if c % 16 < 8 then 0 else 7) else c % absentBase

/-- The routers of a die's proctor and command processor (R274). -/
def proctorAt (d : Nat) : Nat := localCore d 0 0
def processorAt (d : Nat) : Nat := localCore d 7 7

/-! ## Rings (R277) -/

/-- Whether all eight stops of a core's row or column ring lie in a partition. -/
def ringWhole (p : Part) (c : Nat) (column : Bool) : Bool :=
  (List.range 8).all (fun i => p.has (if column then localCore (dieOf c) (lcol c) i else localCore (dieOf c) i (lrow c)))

/-- The direction on a ring from stop `a` to stop `b`, clockwise or not; none when a forced direction leaves the rectangle. -/
def ringDir (route a b : Nat) (whole : Bool) : Option Bool :=
  if whole then
    match route with
    | 0 => some (decide ((b + 8 - a) % 8 ≤ 4))
    | 1 => some true
    | _ => some false
  else
    let cw := decide (a < b)
    match route with
    | 0 => some cw
    | 1 => if cw then some true else none
    | _ => if cw then none else some false

/-- What a packet does next at a router: it has arrived, it goes on along a ring, or it crosses a link to an input of another die. -/
inductive Hop where
  | arrive
  | ring (column : Bool) (toward : Nat)
  | gate (next port cost link : Nat) (units : List Nat)
deriving DecidableEq, Repr

/-- The gateway of a die as a unit of the tenancy and frame tables: 0 east, 1 west, 2 cross-row. -/
def gateUnit (d side : Nat) : Nat := 4096 + d * 4 + side

/-- The next hop from router `r` to router `dst` (R277, R283). A die that is only passed is crossed from gateway to gateway: the packet stands
behind its further gateway, at port 7, and enters no ring. -/
def hopOf (r dst : Nat) : Hop :=
  let d := dieOf r
  let e := dieOf dst
  if d % 16 ≠ e % 16 then
    let east := decide (d % 16 < e % 16)
    let edge := if east then 7 else 0
    if lcol r ≠ edge then .ring false edge
    else
      let x := if east then d + 1 else d - 1
      let last := x % 16 == e % 16
      .gate (localCore x (if last then 7 - edge else edge) (lrow r)) (if last then 4 else 7) (if last then 5 else 11) (2 * min d x)
        [gateUnit d (if east then 0 else 1), gateUnit x (if east then 1 else 0)]
  else if d ≠ e then
    let edge := if d < 16 then 7 else 0
    if lrow r ≠ edge then .ring true edge
    else .gate (localCore e (lcol r) (7 - edge)) 6 5 (2 * (d % 16) + 1) [gateUnit d 2, gateUnit e 2]
  else if lcol r ≠ lcol dst then .ring false (lcol dst)
  else if lrow r ≠ lrow dst then .ring true (lrow dst)
  else .arrive

/-- The next stop on a ring. -/
def ringStep (r : Nat) (column cw : Bool) : Nat :=
  let i := if column then lrow r else lcol r
  let j := if cw then (i + 1) % 8 else (i + 7) % 8
  if column then localCore (dieOf r) (lcol r) j else localCore (dieOf r) j (lrow r)

/-- The unloaded hops and gateway cycles from a router to another, and whether the route stays in the rectangle (R277, R283). -/
def walkRoute (p : Part) (route n r dst : Nat) : Option (Nat × Nat) :=
  match n with
  | 0 => some (0, 0)
  | n + 1 =>
    match hopOf r dst with
    | .arrive => some (0, 0)
    | .gate next _ cost _ _ => (walkRoute p route n next dst).map (fun x => (x.1, x.2 + cost))
    | .ring column toward =>
      let i := if column then lrow r else lcol r
      match ringDir route i toward (ringWhole p r column) with
      | none => none
      | some cw =>
        let h := if cw then (toward + 8 - i) % 8 else (i + 8 - toward) % 8
        let next := if column then localCore (dieOf r) (lcol r) toward else localCore (dieOf r) toward (lrow r)
        (walkRoute p route n next dst).map (fun x => (x.1 + h, x.2))

/-- The unloaded time of a packet of `len` flits between two agents (R278, R283). -/
def State.flight (s : State) (part src dst len : Nat) : Nat :=
  match tfind s.parts part with
  | none => len + 2
  | some p =>
    match walkRoute p 0 40 (routerOf src) (routerOf dst) with
    | some (h, g) => 2 * h + g + len + 2
    | none => len + 2

/-- The input port by which a packet of a partition's agent comes into its last router (R377): 0 north, 1 east, 2 south, 3 west, 4 a gateway,
5 the router's own agents. -/
def lastPort (p : Part) (n r dst side : Nat) : Nat :=
  match n with
  | 0 => side
  | n + 1 =>
    match hopOf r dst with
    | .arrive => side
    | .gate next .. => lastPort p n next dst 4
    | .ring column toward =>
      let cw := (ringDir 0 (if column then lrow r else lcol r) toward (ringWhole p r column)).getD true
      let next := if column then localCore (dieOf r) (lcol r) toward else localCore (dieOf r) toward (lrow r)
      lastPort p n next dst (if column then (if cw then 0 else 2) else (if cw then 3 else 1))

/-- A partition's partition identifier in a membership bitmap (R285). -/
def State.tenantOk (s : State) (unit part : Nat) : Bool := (tget 0 s.tenants unit).toNat.testBit part

/-- Whether a link carries traffic: fewer than 8 working groups fence it whole (R411). -/
def State.linkAlive (s : State) (link : Nat) : Bool :=
  match tfind s.links link with
  | some l => decide (8 ≤ (l.groups.filter Group.working).length)
  | none => false

/-- A unit on the way from router `r` to `dst` that does not let a partition through, with the code logged: 3 for a clear bit of its
membership bitmap (R285), 6 for a dead link (R411). `inside` says whether the routers of a die count; a router whose gateway only passes the
packet on does not. -/
def State.blocked (s : State) (p : Part) (part n r dst : Nat) (pass : Bool) (inside : Nat → Bool) : Option (Nat × Nat) :=
  match n with
  | 0 => none
  | n + 1 =>
    if !pass && inside r && !s.tenantOk r part then some (r, 3)
    else
      match hopOf r dst with
      | .arrive => none
      | .gate next port _ link units =>
        match units.find? (fun u => !s.tenantOk u part) with
        | some u => some (u, 3)
        | none => if !s.linkAlive link then some (units.headD 0, 6) else s.blocked p part n next dst (port == 7) inside
      | .ring column toward =>
        match ringDir 0 (if column then lrow r else lcol r) toward (ringWhole p r column) with
        | none => none
        | some cw => s.blocked p part n (ringStep r column cw) dst false inside

/-- The gateway router of a die by which a core's request reaches a Broino port that attaches to the die's gateway routers (R402): the one at which
R283 brings it onto the die, on the own die that of the east gateway in the core's row (log 43). -/
def portRouter (c die : Nat) : Nat :=
  let r := routerOf c
  let d := dieOf r
  let side := if d % 16 < die % 16 then 0 else 7
  if d = die then localCore die 7 (lrow r)
  else if d / 16 = die / 16 then localCore die side (lrow r)
  else localCore die (if d % 16 = die % 16 then lcol r else side) (if die < 16 then 7 else 0)

/-- Where a memory request of core `c` to a place goes: a router, or a die without a router the manual names (a die scratchpad); none where it does
not leave its core. -/
def State.destOf (s : State) (c : Nat) (p : Place) : Option (Nat × Bool) :=
  match p with
  | .core k _ => if k = c then none else some (routerOf k, true)
  | .die d _ => some (localCore d (lcol (routerOf c)) (lrow (routerOf c)), false)
  | .global va =>
    match s.walk va with
    | .error _ => some (routerOf (memCore (dieOf c) (faultSlice (dieOf c) va % 16)), true)
    | .ok (pg, _) =>
      if pg.place = 2 ∧ s.hostKind pg = 2 then
        some (portRouter c (portDie (linkPort (s.windowEntry pg.pa) va)), true)
      else some (routerOf (memCore (homeOf pg va / 16) (homeOf pg va % 16)), true)

/-- What stops a memory request of a partition's core on its way to a place, or its reply on the way back (R285, R411): the unit and
the code. -/
def State.routeFault (s : State) (part c : Nat) (place : Place) (back : Bool) : Option (Nat × Nat) :=
  match s.destOf c place, tfind s.parts part with
  | some (dst, router), some p =>
    let ok := fun (r : Nat) => router || dieOf r != dieOf dst || dieOf r == dieOf c && r == routerOf c
    if back then s.blocked p part 64 dst (routerOf c) false ok else s.blocked p part 64 (routerOf c) dst false ok
  | _, _ => none

end Sys2Proof.Machine
end

