-- ==== Sys2Proof/Machine/Bank.lean ====
section
/-!
DEFINITION. What happens at a bank or home when bytes are written: full/empty bits and the serving loop (03 R43, 06 R119),
reservations (R120), bells (03 R44, R45), the waiters on generations and counts (R137, R138, R95), and the data caches' lines
(03 R38, R39, 07 R145).
-/

namespace Sys2Proof.Machine

/-! ## Accesses in flight -/

def State.req (s : State) (id : Nat) : Option Req := s.reqs.find? (fun r => r.id = id)
def State.updReq (s : State) (id : Nat) (f : Req → Req) : State :=
  { s with reqs := updEach (fun r => r.id == id) f s.reqs }
def State.dropReq (s : State) (id : Nat) : State := { s with reqs := s.reqs.filter (fun r => r.id != id) }

/-- The step that performs an access, or one of its words, at its bank or at its home. -/
def Req.event (r : Req) (piece : Nat) : Instr :=
  match r.op, r.place with
  | .bara, _ => .barrierArrival r.id
  | _, .global _ => .homeAccess ⟨r.id, piece⟩
  | _, _ => .bankAccess ⟨r.id, piece⟩

/-- Whether atomics of this kind are batched at FIXED (R126, R170). -/
def MemOp.batched (op : MemOp) : Bool :=
  match op with | .amo .. => true | .famo .. => true | .stv _ => true | .recon .. => true | _ => false

/-- The unloaded bound of an access to a place: in 0xF1 the 8 cycles of a short result for an atomic, and none for one that has waited at its word
or object, whose thread goes on when the wait ends (R11, R118, R138); else R46's. -/
def State.boundTo (s : State) (r : Req) (p : Place) : Nat :=
  match p with
  | .core .. => if windowOf r.va.toNat = 0xF1 then (if r.op.batched then 8 else 0) else s.latency (coreOf r.tid) p
  | _ => s.latency (coreOf r.tid) p
/-- The unloaded bound of an access of one word. -/
def State.bound (s : State) (r : Req) : Nat := s.boundTo r r.place

/-- The part of an access's bound that carries the reply (R46): the whole of it for an atomic of a FIXED interval (R126). -/
def State.replyTime (s : State) (r : Req) : Nat :=
  match r.op with
  | .startZero => 0
  | _ => if s.levelOf (s.thread r.tid).ctx = 3 ∧ r.op.batched then s.bound r else s.bound r - halfUp (s.bound r)

/-- A memory request or its reply that a unit on its way does not let through (R285, R411), in the unit's error log: the header's fields
that the manual gives, with a free arg (R275). -/
def State.logUnit (s : State) (tid part c : Nat) (place : Place) (u : Nat × Nat) : State :=
  let dst := match s.destOf c place with | some (d, _) => d | none => 0
  let header := (Config.freeWord s.free).toNat % 2 ^ 30 + 2 ^ 30 * dst + 2 ^ 42 * part + 2 ^ 50 * slotOf tid + 2 ^ 54 * (s.nameOf c % 2 ^ 10)
  let d := if u.1 < 4096 then dieOf u.1 else (u.1 - 4096) / 4
  (s.logError d u.2 (if u.1 < 4096 then 1 else 2) (u.1 % 4096) 0 (if u.2 = 3 then header else s.keyDetail tid)).nextFree
/-- The same for a thread's access. -/
def State.logRoute (s : State) (r : Req) (u : Nat × Nat) : State := s.logUnit r.tid (s.thread r.tid).part (coreOf r.tid) r.place u

/-- An access performed: its reply is on its way; a reply that its route does not let through becomes an error response (R285). -/
def State.reply (s : State) (r0 : Req) : State :=
  let bad := if r0.state = .performed then s.routeFault (s.thread r0.tid).part (coreOf r0.tid) r0.place true else none
  let s := match bad with | some u => s.logRoute r0 u | none => s
  let r := if bad.isSome then { r0 with state := .failed, errAddr := r0.va } else r0
  let ev := match r.state with
    | .failed => Instr.errorResponse r.id
    | .refused => Instr.errorResponse r.id
    | .diverged => Instr.errorResponse r.id
    | _ => if r.cls = .stores then Instr.storeAck r.id else Instr.fillLands r.id
  (s.updReq r.id (fun _ => r)).after (s.replyTime r) ev

/-! ## Waiters on bells, barriers and counts -/

/-- The generation of a bell or barrier by its key (R44, R136). -/
def State.genOf (s : State) (key : Nat) : BitVec 32 := BitVec.ofNat 32 (s.getN (key + 8) 4)

/-- Whether a waiter's condition holds (R155). -/
def State.waitOver (s : State) (key : Nat) (w : Waiter) : Bool :=
  match w with
  | .req id =>
    match s.req id with
    | some r =>
      match r.op with
      | .barw g => s.genOf key != g
      | .bellWait g => s.genOf key != g
      | .joinRead => s.getN key 8 == 0
      | _ => true
    | none => true
  | .cmd id =>
    match s.copies.find? (fun c => c.id = id) with
    | some c => s.genOf key != c.waitGen
    | none => true
  | .tile id which =>
    match s.tileCmds.find? (fun c => c.id = id) with
    | some c => s.genOf key != (if which = 0 then c.gen0 else c.gen1)
    | none => true

/-- The time of a read of a bell by an engine, or of the bank's notice to it (R234): half of 8 cycles in the own core's scratchpad (R46). -/
def State.bellTrip (s : State) (part core : Nat) (bell : Option Nat) : Nat :=
  match bell with
  | some va =>
    match s.resolveIn part core va with
    | some (.core k o) => if k = core ∧ o < 2 ^ 19 then 4 else halfUp (s.latency core (.core k o))
    | some p => halfUp (s.latency core p)
    | none => 1
  | none => 1

/-- What a waiter whose wait is over gets: a reply, or a notice to its engine (R137, R234). -/
def State.endWait (s : State) (key : Nat) (w : Waiter) : State :=
  match w with
  | .req id =>
    match s.req id with
    | some r =>
      let g := match r.op with | .joinRead => 0 | _ => (s.genOf key).toNat % 2 ^ 31
      (s.served r key g).reply { r with state := .performed }
    | none => s
  | .cmd id =>
    match s.copies.find? (fun c => c.id = id) with
    | some c => s.after (s.bellTrip c.part c.core c.waitBell) (.waitBellNotice id)
    | none => s
  | .tile id which =>
    match s.tileCmds.find? (fun c => c.id = id) with
    | some c => s.after (s.bellTrip c.part c.core (if which = 0 then c.wb0 else c.wb1)) (.waitBellNotice id)
    | none => s

/-- The thread that a waiter belongs to; an engine's is its command's issuer (R240). -/
def State.waiterThread (s : State) (w : Waiter) : Nat :=
  match w with
  | .req id => (match s.req id with | some r => r.tid | none => 0)
  | .cmd id => (match s.copies.find? (fun c => c.id = id) with | some c => c.tid | none => 0)
  | .tile id _ => (match s.tileCmds.find? (fun c => c.id = id) with | some c => c.tid | none => 0)

/-- Whether an object may not resolve an operation that waits at it: a record waits there for a slot of the ring, or another operation comes first
(R395, R397). At REPLAY an operation waits at its object in its own turn. -/
def State.recordWaits (s : State) (id : Nat) : Bool :=
  match s.req id with
  | none => false
  | some r =>
    let c := (s.thread r.tid).ctx
    s.recording c && (match recKind r.op r.acq with
      | some (typ, _) => s.turnOf c typ (s.recordObj r) (s.actorOf r.tid) r.ord == .wait
      | none => false)

/-- The waiters of one object whose condition holds now end their wait, in the order they wait (R27); one whose request the proctor has not
come to waits on (R327), and one that the order roll holds (R397). -/
def State.wakeWaiters (s : State) (key : Nat) : State :=
  let ends : Nat × Waiter → Bool := fun w => w.1 == key && s.waitOver key w.2 && s.asks 3 key (some (s.waiterThread w.2)) == 0
  (s.waiters.filter ends).foldl (fun s w =>
    match w.2 with
    | .req id => if s.recordWaits id then s else ({ s with waiters := s.waiters.filter (fun x => x != w) } : State).endWait key w.2
    | _ => ({ s with waiters := s.waiters.filter (fun x => x != w) } : State).endWait key w.2) s

/-! ## Full/empty bits and their queues -/

/-- A word set FULL or EMPTY (R43). -/
def State.setFull (s : State) (word : Nat) : State :=
  if s.empty.contains word then { s with empty := serase s.empty word } else s
def State.setEmpty (s : State) (word : Nat) : State := { s with empty := sinsert s.empty word }

/-- A write landed at a granule: reservations there are lost, and a `WAITRES` on one goes on (R120, R139). The thread `own`
keeps its own. -/
def State.breakResv (s : State) (granule : Nat) (own : Option Nat) : State :=
  (s.threads.filter (fun e => e.2.resv == some granule && some e.1 != own)).foldl
    (fun s e => (s.updThread e.1 (fun t => { t with resv := none })).wake e.1) s

/-- A store acknowledged by the home updates its own core's copy (R145). -/
def State.updateCopy (s : State) (c key : Nat) (l : List Byte) : State :=
  let k := key / 128 * 128
  if (s.core c).lines.any (fun x => x.key == k && (x.kind == .wt || x.kind == .si)) then
    s.updCore c (fun x => { x with lines := x.lines.map (fun ln =>
      if ln.key == k && (ln.kind == .wt || ln.kind == .si) then { ln with data := patch ln.data (key - k) l } else ln) })
  else s
where
  /-- Bytes replaced in a line. -/
  patch (d : BitVec 1024) (off : Nat) (l : List Byte) : BitVec 1024 :=
    let old := natToBytes 128 d.toNat
    BitVec.ofNat 1024 (bytesToNat (old.take off ++ l ++ old.drop (off + l.length)))

/-- The WT copies of a line in other cores invalidated (R39, R145). -/
def State.dropWt (s : State) (key own : Nat) : State :=
  let k := key / 128 * 128
  if s.cores.any (fun e => e.1 != own && e.2.lines.any (fun l => l.key == k && l.kind == .wt)) then
    { s with cores := s.cores.map (fun e => if e.1 = own then e else
        (e.1, { e.2 with lines := e.2.lines.filter (fun l => !(l.key == k && l.kind == .wt)) })) }
  else s

/-- The halfwords of translated memory that a write changes, as they were: a fetch may still see them (R51). -/
def State.noteOld (s : State) (key n : Nat) : State :=
  if key < 2 ^ 56 then s
  else { s with was := (List.range ((key + n + 1) / 2 - key / 2)).map (fun i => (key / 2 + i, BitVec.ofNat 16 (s.getN (2 * (key / 2 + i)) 2))) ++ s.was }

/-- The same for a store into a core's line, which holds the halfwords' values. -/
def State.noteLine (s : State) (l : Line) (off n : Nat) : State :=
  { s with was := (List.range ((off + n + 1) / 2 - off / 2)).map (fun i => ((l.key + off) / 2 + i, l.data.extractLsb' (16 * (off / 2 + i)) 16)) ++ s.was }

/-- Bytes stored; an uncorrectable word becomes good when written (R414). -/
def State.putRaw (s : State) (key : Nat) (l : List Byte) : State :=
  let s1 := s.poke key l
  if s1.ecc.isEmpty then s1
  else { s1 with ecc := s1.ecc.filter (fun e => !(decide (key / 8 ≤ e.1 / 8) && decide (e.1 / 8 ≤ (key + l.length - 1) / 8))) }

/-- Bytes written at a bank or home. -/
def State.putBytes (s : State) (key : Nat) (l : List Byte) : State := (s.noteOld key l.length).putRaw key l

/-- The SI copies of a line leave a core: they are evicted where a thread of it has read the line's home (R145, R152: a later copy read is not
older), for the home does not track them. -/
def State.evictSI (s : State) (c key : Nat) : State :=
  let k := key / 128 * 128
  if (s.core c).lines.any (fun l => l.key == k && l.kind == .si) then
    s.updCore c (fun x => { x with lines := x.lines.filter (fun l => !(l.key == k && l.kind == .si)) })
  else s

/-- A synchronising form performed on its word, whose condition holds (R118, R119): an `STF` updates its own core's copies of the line and
invalidates the WT copies of others (R145); it is the word's latest write, a release (R394). -/
def State.doSync (s : State) (r : Req) (word : Nat) : State :=
  let s := s.served r word 0
  match r.op with
  | .ldtk =>
    (((s.evictSI (coreOf r.tid) word).setEmpty word).breakResv (word / 128) none).reply
      { r with state := .performed, val := BitVec.ofNat 1024 (s.getN word 8) }
  | .stf v =>
    let s0 := ((s.noteWrite r.tid word true r.ord false).dropWt word (coreOf r.tid)).putBytes word (natToBytes 8 v.toNat)
    let s1 := ((s0.updateCopy (coreOf r.tid) word (natToBytes 8 v.toNat)).setFull word).breakResv (word / 128) none
    let s2 := s1.wakeWaiters (word / 16 * 16)
    (if word % 16 = 0 then s2 else s2.wakeWaiters word).reply { r with state := .performed }
  | _ => (s.evictSI (coreOf r.tid) word).reply { r with state := .performed, val := BitVec.ofNat 1024 (s.getN word 8) }

/-- Whether a synchronising form's condition holds at its word (R118). -/
def State.syncReady (s : State) (r : Req) (word : Nat) : Bool :=
  match r.op with
  | .stf _ => s.isEmpty word
  | _ => !s.isEmpty word

/-- The synchronising requests that wait at a bank or slice (R119). -/
def State.syncLoad (s : State) (v : Server) : Nat :=
  (s.syncq.filter (fun e => match s.req e.2 with | some r => s.serverOf r.place == v | none => false)).length

/-- A request put into a word's queue: at its tail, at FIXED in ascending thread key (R27, R119, R142). -/
def State.placeSync (s : State) (l : List (Nat × Nat)) (w : Nat × Nat) (r : Req) : List (Nat × Nat) :=
  if s.levelOf (s.thread r.tid).ctx = 3 then go l else l ++ [w]
where
  go (l : List (Nat × Nat)) : List (Nat × Nat) :=
    match l with
    | [] => [w]
    | x :: rest =>
      let later := x.1 == w.1 && (match s.req x.2 with | some q => (s.keyOf r.tid).lt (s.keyOf q.tid) | none => false)
      if later then w :: x :: rest else x :: go rest

/-- The first request at the input of a bank or slice comes in once a place is free, in its place behind those that came before it (R119). -/
def State.admitSync (s : State) (v : Server) : State :=
  if s.syncLoad v < Config.syncQueue then
    match s.syncIn.find? (fun e => match s.req e.2 with | some r => s.serverOf r.place == v | none => false) with
    | some e =>
      match s.req e.2 with
      | some r => { s with syncIn := s.syncIn.filter (fun x => x.2 != e.2), syncq := s.placeSync s.syncq e r }
      | none => s
    | none => s
  else s

/-- The serving loop of one word (R119), at most one pass for each queued request; those of the word that wait at the input keep their place
behind the others. -/
def State.serveWord (s : State) (word : Nat) : State := go ((s.syncq ++ s.syncIn).filter (fun e => e.1 == word)) s
where
  /-- A request leaves the queue or the input. -/
  out (s : State) (id : Nat) : State := { s with syncq := s.syncq.filter (fun e => e.2 != id), syncIn := s.syncIn.filter (fun e => e.2 != id) }
  go (l : List (Nat × Nat)) (s : State) : State :=
    match l with
    | [] => s
    | (_, id) :: rest =>
      match s.req id with
      | none => go rest (out s id)
      | some r => if s.syncReady r word && !s.recordWaits id then go rest (((out s id).doSync r word).admitSync (s.serverOf r.place)) else s

/-- The effects of a write of `len` bytes from key `key` at its bank or home: the words become FULL and their queues are
served, reservations are lost, waiters are checked (R43, R119, R120, R137). -/
def State.landed (s : State) (key len : Nat) : State :=
  let words := (List.range ((key + len + 7) / 8 - key / 8)).map (fun i => (key / 8 + i) * 8)
  let s1 := words.foldl (fun s w => (s.setFull w).serveWord w) s
  let s2 := (List.range ((key + len + 127) / 128 - key / 128)).foldl (fun s i => s.breakResv (key / 128 + i) none) s1
  if s2.waiters.isEmpty then s2
  else
    let objs := (words.map (fun w => w / 16 * 16)).eraseDups
    let s3 := objs.foldl (fun s o => s.wakeWaiters o) s2
    words.foldl (fun s w => if w % 16 = 0 then s else s.wakeWaiters w) s3

/-- Bytes written at a bank or home, with the effects of the write. -/
def State.bankWrite (s : State) (key : Nat) (l : List Byte) : State := (s.putBytes key l).landed key l.length

/-- Whether a read of bytes meets an uncorrectable word (R414). -/
def State.eccBad (s : State) (key len : Nat) : Bool :=
  s.ecc.any (fun e => decide (e.2 = .double) && decide (key / 8 ≤ e.1 / 8) && decide (e.1 / 8 ≤ (key + len - 1) / 8))

/-- The unit whose die's error log takes an ECC error of a storage key: die, unit kind, unit number, and the address (R415): an HBM word's
channel, an on-chip word's router (log 34). -/
def eccUnit (key : Nat) : Nat × Nat × Nat × Nat :=
  if key < 2 ^ 56 then
    if windowOf key = 0xF5 then (key % 2 ^ 48 / 2 ^ 26, 1, localCore (key % 2 ^ 48 / 2 ^ 26) 0 0, key)
    else
      let c := if windowOf key = 0xF4 then key % 2 ^ 48 / 2 ^ 20 else key % 2 ^ 48 / 2 ^ 17
      (dieOf c, 1, c % 2048, key)
  else (bits key 41 37, 6, bits key 36 33, key % 2 ^ 48)

/-- A read of bytes at their bank: single-bit errors are corrected, the word rewritten and the error logged; a double-bit error is
logged and stays (R414). -/
def State.eccRead (s : State) (key len detail : Nat) : State :=
  (s.ecc.filter (fun e => decide (key / 8 ≤ e.1 / 8) && decide (e.1 / 8 ≤ (key + len - 1) / 8))).foldl (fun (s : State) e =>
    let u := eccUnit e.1
    match e.2 with
    | .ok => s
    | .single _ => { s with ecc := terase s.ecc e.1 }.logError u.1 1 u.2.1 u.2.2.1 u.2.2.2 detail
    | .double => s.logError u.1 2 u.2.1 u.2.2.1 u.2.2.2 detail) s

/-! ## Data-cache lines -/

/-- The bytes of a line's 4-byte word `i`. -/
def Line.word (l : Line) (i : Nat) : List Byte := natToBytes 4 (lane l.data i).toNat

/-- The bit of a group in `TBANKS` (R134). -/
def groupBit (g : Nat) : Word := BitVec.ofNat 64 (2 ^ g)

/-- A thread that has touched a group; its launch's touched mask remembers it (R134, R347). -/
def State.touch (s : State) (t g : Nat) : State :=
  let s1 := s.updThread t (fun x => { x with tbanks := x.tbanks ||| groupBit g })
  match (s.thread t).launch with
  | some n => { s1 with launches := tmod s1.launches n (fun l => { l with touched := l.touched ||| groupBit g }) }
  | none => s1

/-- A dirty OW line written back to its home: the words written in it land there (R39; their old values were noted as they were stored, R51), and the threads that wrote it have touched the
home's group (R134). -/
def State.writeBack (s : State) (l : Line) : State :=
  if l.kind = .ow ∧ l.dirty then
    let ws := (List.range 32).filter (fun i => l.words.getLsbD i)
    let s0 := l.dirtyBy.foldl (fun (s : State) t => s.touch t (s.groupOf (coreOf t) (.global (l.line * 128)))) s
    let s1 := ws.foldl (fun (s : State) i => s.putRaw (l.key + 4 * i) (l.word i)) s0
    ws.foldl (fun (s : State) i => s.landed (l.key + 4 * i) 4) s1
  else s

/-- The cores that hold a line of a key. -/
def State.holders (s : State) (key : Nat) : List Nat :=
  (s.cores.filter (fun e => e.2.lines.any (fun l => l.key == key))).map (fun e => e.1)

/-- A core's lines of a key taken away, dirty ones written back first. -/
def State.dropLine (s : State) (c key : Nat) (p : Line → Bool) : State :=
  let ls := (s.core c).lines.filter (fun l => l.key == key && p l)
  let s1 := s.updCore c (fun x => { x with lines := x.lines.filter (fun l => !(l.key == key && p l)) })
  ls.foldl (fun s l => s.writeBack l) s1

/-- A store into a line that its core holds as OW: its words are FULL; where requests wait at one, the home recalls the line and serves
them (R39, R43, R119; log 37). -/
def State.lineStored (s : State) (c key len : Nat) : State :=
  let words := (List.range ((key + len + 7) / 8 - key / 8)).map (fun i => (key / 8 + i) * 8)
  if words.any (fun w => (s.syncq ++ s.syncIn).any (fun e => e.1 == w)) then s.dropLine c (key / 128 * 128) (fun l => l.kind == .ow)
  else words.foldl (fun s w => s.setFull w) s

/-- Before a home serves a request to a key: OW lines are recalled; before a write, WT copies elsewhere are invalidated too
(R39, R145). `own` is the core whose own WT and SI copies stay. -/
def State.recall (s : State) (key : Nat) (write : Bool) (own : Option Nat) : State :=
  let k := key / 128 * 128
  (s.holders k).foldl
    (fun s c => s.dropLine c k (fun l => l.kind == .ow || (write && l.kind == .wt && some c != own))) s

/-- A line put into a core's cache; the set's least recently used line goes when its 8 ways are full (R38). A partial line that
goes leaves its way at once and is sent to its home (R168). -/
def State.install (s : State) (c : Nat) (ln : Line) : State :=
  let x := s.core c
  let set := x.lines.filter (fun l => l.line % 64 == ln.line % 64 && !l.leaving)
  let victim := if set.length < 8 then none
    else set.find? (fun l => l.used == set.foldl (fun m l => min m l.used) s.now)
  match victim with
  | none => s.updCore c (fun x => { x with lines := x.lines ++ [ln] })
  | some v =>
    if v.kind = .partialSum then
      let out : Line → Bool := fun l => l.line == v.line && l.kind == .partialSum && l.launchSeq == v.launchSeq && l.lci == v.lci && !l.leaving
      (s.updCore c (fun x => { x with lines := updEach out (fun l => { l with leaving := true }) x.lines ++ [ln] })).after 0 (.partialEviction c v.line)
    else
      (s.updCore c (fun x => { x with lines := (x.lines.filter (fun l => !(l.line == v.line && l.kind == v.kind))) ++ [ln] })).writeBack v

/-- Every dirty OW line that a thread wrote is written back and kept (R110, R135). -/
def State.writeBackThread (s : State) (t : Nat) : State :=
  let c := coreOf t
  let ls := (s.core c).lines.filter (fun l => l.kind == .ow && l.dirty && l.dirtyBy.contains t)
  if ls.isEmpty then s
  else
    let clean := s.updCore c (fun x => { x with lines := x.lines.map (fun l =>
      if l.kind == .ow && l.dirty && l.dirtyBy.contains t then { l with dirty := false, dirtyBy := [], words := 0 } else l) })
    ls.foldl (fun s l => s.writeBack l) clean

/-! ## Bells -/

/-- One credit, status report and timestamp applied to a bell (R45, R236, R262). A disarmed bell discards it, and the full/empty bits of its words stay as
they are (DESIGN CHOICE, log 65: R43's table sets the bit for an update of a bell, R45 has the update discarded). -/
def State.credit (s : State) (bell amount code : Nat) : State :=
  let target := s.getN bell 4
  if target = 0 then s
  else
    let count := s.getN (bell + 4) 4
    let status := max (s.getN (bell + 12) 4) code
    let n := count + amount
    let put := fun (s : State) (off v : Nat) => s.poke (bell + off) (natToBytes 4 v)
    let s1 := if n < target then put (put s 4 n) 12 status
      else
        let status := if n > target then max status 3 else status
        put (put (put s 4 0) 8 ((s.getN (bell + 8) 4 + 1) % 2 ^ 32)) 12 status
    s1.landed bell 16

/-- A status report without a credit (R270). A disarmed bell discards it. -/
def State.bellReport (s : State) (bell code : Nat) : State :=
  if s.getN bell 4 = 0 then s
  else (s.poke (bell + 12) (natToBytes 4 (max (s.getN (bell + 12) 4) code))).landed bell 16

/-- The flits of a spilled packet (R377). -/
def State.spillFlits (s : State) (i : Instr) : Nat :=
  match i with
  | .messageArrival k => (match s.packets.find? (fun p => p.id = k) with | some p => p.flits | none => 1)
  | .rfillArrival k => (match s.packets.find? (fun p => p.id = k) with | some p => p.flits | none => 1)
  | _ => 1

/-! ## Spill queues -/

/-- The storage key of an image or spill area (R375). -/
def areaKey (v : Word) : Nat := physKey (bits v.toNat 49 48) (bits v.toNat 47 12 * 4096)

/-- The name of a core in an address of window 0xF4. -/
def nameIn (va : Nat) : Option Nat := if windowOf va = 0xF4 then some (va % 2 ^ 48 / 2 ^ 20) else none

/-- The name by which a step's packet was sent to its core, where it carries one (R286). -/
def State.sentTo (s : State) (i : Instr) : Option Nat :=
  let mesh := fun (k : Nat) => (s.packets.find? (fun p => p.id = k)).map (fun p => p.name)
  let access := fun (id piece : Nat) => match s.req id with
    | some r => nameIn (match r.words[piece]? with | some w => w.va | none => r.va.toNat)
    | none => none
  match i with
  | .messageArrival k => mesh k
  | .rfillArrival k => mesh k
  | .bankAccess x => access x.id x.piece
  | .barrierArrival id => access id 0
  | .copyShare x => match s.copies.find? (fun k => k.id = x.id), x.word with
    | some k, some w => (match k.words[w]? with | some w => nameIn w.va | none => none)
    | _, _ => none
  | _ => none

/-- The core at which a step that arrives at core `c` for a thread or a bank of partition `part` is spilled (R377, R385): the core
itself from its divert cycle on, or the absent core of the packet's name that was saved from it. A packet that carries no name is the absent core's
unless another image has been resumed there; what was on its way when a core was saved names the absent core itself. -/
def State.spillAt (s : State) (c part : Nat) (i : Instr) : Option Nat :=
  if absentBase ≤ c then some c
  else if (s.core c).diverted then (if s.diverts c i then some c else none)
  else (s.saved.find? (fun e => e.2.phys == c && e.2.part == part &&
    (match s.sentTo i with | some n => e.2.name == n | none => (s.core c).moved.isNone))).map (fun e => e.2.virt)

/-- The router from which a step's packet comes to core `c`. -/
def State.senderOf (s : State) (c : Nat) (i : Instr) : Nat :=
  let asks := fun (id : Nat) => match s.req id with | some r => routerOf (coreOf r.tid) | none => routerOf c
  let answers := fun (id : Nat) => match s.req id with
    | some r => (match s.destOf (coreOf r.tid) r.place with | some (d, _) => d | none => routerOf c)
    | none => routerOf c
  match i with
  | .bankAccess x => asks x.id
  | .barrierArrival id => asks id
  | .rollCallArrival id => asks id
  | .rollCallLeave id => asks id
  | .evsigDelivery id => asks id
  | .fillLands id => answers id
  | .storeAck id => answers id
  | .errorResponse id => answers id
  | .copyShare x => routerOf x.share
  | .bellUpdate x => match s.copies.find? (fun k => k.id = x.cmd), s.tileCmds.find? (fun k => k.id = x.cmd) with
    | some k, _ => routerOf k.core
    | none, some k => routerOf (k.engine.getD k.core)
    | none, none => routerOf c
  | .stealRequest t _ => routerOf t
  | .stealReply _ v _ => routerOf v
  | _ => routerOf c

/-- The input port by which a step's packet comes to core `c` (R377). -/
def State.arrivalPort (s : State) (c : Nat) (i : Instr) : Nat :=
  let mesh := fun (k : Nat) => match s.packets.find? (fun p => p.id = k) with
    | some p => (match p.trail with
      | b :: _ => (match b.port with | 0 => 1 | 1 => 3 | 2 => 2 | 3 => 0 | 5 => 5 | _ => 4)
      | [] => 5)
    | none => 5
  match i with
  | .messageArrival k => mesh k
  | .rfillArrival k => mesh k
  | _ => match s.parts.find? (fun p => p.2.has (c % absentBase)) with
    | some p => lastPort p.2 40 (s.senderOf c i) (routerOf c) 5
    | none => 5

/-- The type of the packet that a step serves (R276). -/
def packetType (i : Instr) : Nat :=
  match i with
  | .messageArrival _ => 0 | .rfillArrival _ => 1 | .bankAccess _ => 3 | .barrierArrival _ => 4 | .bellUpdate _ => 4
  | .fillLands _ => 5 | .errorResponse _ => 5 | .storeAck _ => 2 | .fenceProbe .. => 6 | .fenceEcho .. => 6 | .copyShare _ => 7
  | .rollCallArrival _ => 8 | .rollCallLeave _ => 8 | _ => 10

/-- The flits of a spilled packet as bytes: the header of R275 and the payload of a message or fill. What the manual does not lay out of a request's
packet is free (log 52). -/
def State.flitBytes (s : State) (c : Nat) (e : Spilled) : List Byte :=
  let head := fun (pc len typ src slot tenant arg : Nat) =>
    natToBytes 16 (arg % 2 ^ 30 + 2 ^ 30 * (c % 2 ^ 11) + 2 ^ 42 * tenant + 2 ^ 50 * slot + 2 ^ 54 * src + 2 ^ 65 * typ + 2 ^ 69 * (len - 1) + 2 ^ 73 * (pc / 2))
  let mesh := fun (k : Nat) => match s.packets.find? (fun p => p.id = k) with
    | some p => head p.handler.toNat p.flits p.typ (p.src % 2 ^ 11) p.sslot p.tenant p.arg ++
        (p.payload.flatMap (fun (w : Word) => natToBytes 8 w.toNat) ++ List.replicate (16 * p.flits) 0).take (16 * (p.flits - 1))
    | none => natToBytes 16 0
  match e.step with
  | .messageArrival k => mesh k
  | .rfillArrival k => mesh k
  | i => head 0 1 (packetType i) (s.senderOf c i % 2 ^ 11) 0 (match s.parts.find? (fun p => p.2.has (c % absentBase)) with | some p => p.1 | none => 0)
      (Config.freeWord s.free).toNat

/-- The bytes of a record: a header of 16 bytes and its flits (R377). -/
def Spilled.size (e : Spilled) : Nat := 16 + 16 * e.flits

/-- A record put behind those that came before it: of one cycle in ascending input port (R377). -/
def putSpilled (l : List Spilled) (e : Spilled) : List Spilled :=
  match l with
  | [] => [e]
  | x :: r => if x.came = e.came ∧ e.port < x.port then e :: x :: r else x :: putSpilled r e

/-- The records of a core's spill queue that came in the present cycle, or all of them, written to its ring; those beyond the ring's own size lie in the
proctor's segments (log 52). -/
def State.writeSpill (s : State) (c : Nat) (all : Bool) : State :=
  let x := s.core c
  match x.spillArea with
  | none => s
  | some a =>
    let size := 2 ^ (a.toNat % 32)
    (x.spilled.foldl (fun (acc : Nat × State) e =>
      let o := acc.1
      if (!all && e.came != s.now) ∨ x.spillBase + size < o + e.size then (o + e.size, acc.2)
      else
        let l := natToBytes 8 e.came ++ natToBytes 8 e.flits ++ acc.2.flitBytes c e
        (o + e.size, (l.zipIdx).foldl (fun s b => s.bankWrite (areaKey a + (o + b.2) % size) [b.1]) acc.2)) (x.spillBase, s)).2.nextFree

/-- The address of a core's spill ring in a RESOURCE request, apart from that of its message queue (DESIGN CHOICE, log 52). -/
def ringAddr (c : Nat) : Nat := 2 ^ 62 + c

/-- A packet that reaches a pre-empted core is stored in its spill queue (R377). Where the ring is full, the router holds it until the proctor has
linked a further segment. -/
def State.spill (s : State) (c : Nat) (i : Instr) : State :=
  let x := s.core c
  let e : Spilled := { step := i, came := s.now, port := s.arrivalPort c i, flits := s.spillFlits i }
  if x.spillSize < (x.spilled.map Spilled.size).sum + e.size then
    (if 0 < s.asks 2 (ringAddr c) none then s else s.request (dieOf c) 2 (ringAddr c) none).again i
  else (s.updCore c (fun x => { x with spilled := putSpilled x.spilled e })).writeSpill c false

/-- A completion that reaches a thread's core: at a pre-empted core it is spilled (R377, R386). -/
def State.atCore (s : State) (t : Nat) (i : Instr) (k : State → State) : State :=
  if s.diverts (coreOf t) i then s.spill (coreOf t) i else k s

end Sys2Proof.Machine
end

