-- ==== Sys2Proof/Machine/Siblings.lean ====
section
/-!
DEFINITION. Sibling words and accumulate ranges at the home (08): writers and dots, contexts, a write to a SIB word, compaction,
reconciliation; folds, partial lines and their combination.
-/

namespace Sys2Proof.Machine

/-! ## Writers, dots and contexts -/

/-- The writer index of a thread (R158): none for slot 15 and for a memory-core thread. -/
def State.writerOf (s : State) (t : Nat) : Option Nat :=
  if slotOf t = 15 || isMem (coreOf t) then none
  else some (s.modnum % 32 * 2 ^ 15 + s.nameOf (coreOf t) % 2 ^ 11 * 16 + slotOf t)

/-- A version context: bit 112 valid, bits 111:48 the word's name, bits 47:0 the point (R162; the layout is log 14). A word keeps its name, the address of
its first write, when its page moves (R365). -/
def mkCtx (name point : Nat) : VCtx := BitVec.ofNat 128 (2 ^ 112 + name % 2 ^ 64 * 2 ^ 48 + point % 2 ^ 48)
/-- The point a context names in a word's write sequence; none where it names no word or another one (R162). -/
def ctxPoint (c : VCtx) (name : Nat) : Option Nat :=
  if bit c.toNat 112 && bits c.toNat 111 48 == name % 2 ^ 64 then some (bits c.toNat 47 0) else none

/-- The largest counter of a writer in a set of dots (R159). -/
def dotOf (v : List (Nat × Nat)) (w : Nat) : Nat := (v.filter (fun d => d.1 == w)).foldl (fun m d => max m d.2) 0

/-- A dot joined into a vector: per writer the larger counter (R163). -/
def joinDot (v : List (Nat × Nat)) (d : Nat × Nat) : List (Nat × Nat) :=
  if v.any (fun e => e.1 == d.1) then v.map (fun e => if e.1 = d.1 then (e.1, max e.2 d.2) else e) else v ++ [d]

/-- The join of the vectors of writes. -/
def joinAll (l : List Sibling) : List (Nat × Nat) := l.foldl (fun v x => x.vec.foldl joinDot v) []

/-- A word of a SIB page that has never been written (R160). -/
def SibWord.new (va : Nat) : SibWord := { seq := 0, live := [], name := va / 8 * 8, past := [], used := 0, overflow := false, va := va }

/-- The sibling state of a word. -/
def State.sib (s : State) (slice key va : Nat) : SibWord := (tfind (s.slice slice).sibs key).getD (SibWord.new va)

/-- The table entries of a word: a header and one entry for each further sibling; none in the table while they lie in the overflow region
(R160, R161). -/
def SibWord.entries (w : SibWord) : Nat := if w.overflow then 0 else max 1 w.live.length
/-- The table entries a slice holds (R160). -/
def Slice.sibEntries (x : Slice) : Nat := x.sibs.foldl (fun n e => n + e.2.entries) 0
/-- Whether a word that comes to have `need` entries has room where they lie (R161): in the table, or in the overflow region for those it has there. -/
def Slice.sibRoom (x : Slice) (key need : Nat) : Bool :=
  match tfind x.sibs key with
  | some w => if w.overflow then decide (need ≤ max 1 w.live.length) else decide (x.sibEntries - w.entries + need ≤ Config.sibEntries)
  | none => decide (x.sibEntries + need ≤ Config.sibEntries)

/-- The word of a list that was written longest ago, other than `key` (R161). -/
def oldestSib (l : Tbl SibWord) (key : Nat) : Option Nat :=
  (l.foldl (fun m e => if e.1 = key ∨ e.2.overflow then m else match m with
    | some (k, u) => if e.2.used < u then some (e.1, e.2.used) else some (k, u)
    | none => some (e.1, e.2.used)) none).map (fun m => m.1)

/-- The proctor moves the entries of the least recently written words to the overflow region until a word has room (R161); `n` bounds the words
moved. -/
def Slice.makeRoom (x : Slice) (key need n : Nat) : Slice :=
  match n with
  | 0 => x
  | n + 1 =>
    if x.sibRoom key need then x
    else match oldestSib x.sibs key with
      | some k => { x with sibs := tmod x.sibs k (fun w => { w with overflow := true }) }.makeRoom key need n
      | none => x

/-- Whether a live sibling is observed by a point; the initial value always is (R162). -/
def observed (point : Option Nat) (x : Sibling) : Bool :=
  match point with
  | some p => decide (x.seq ≤ p)
  | none => false

/-- A new dot compacted out when every kept sibling dominates it (R164). -/
def compact (own : Nat) (keep : List Sibling) (v : List (Nat × Nat)) : List (Nat × Nat) :=
  v.filter (fun d => d.1 == own || !keep.all (fun x => decide (d.2 ≤ dotOf x.vec d.1)))

/-- The live sibling with the lowest writer index (R160); of two of one writer the older (DESIGN CHOICE, log 61: the manual does not break this
tie). -/
def lowestWriter (l : List Sibling) : Option Sibling :=
  l.foldl (fun m x => match m with
    | some y => if x.writer < y.writer then some x else m
    | none => some x) none

/-- The siblings in ascending writer index (R129), those of one writer by age (log 61). -/
def sortSibs (l : List Sibling) : List Sibling := l.foldl ins []
where
  ins (acc : List Sibling) (x : Sibling) : List Sibling :=
    match acc with
    | [] => [x]
    | y :: r => if x.writer < y.writer then x :: y :: r else y :: ins r x

/-- A write to a SIB word (R163): the context observes writes up to `points` for STV, the writer's own last write for a plain
store, every live sibling for RECON (`all`). None is a refusal. -/
def sibWrite (w : SibWord) (writer : Nat) (obs : Sibling → Bool) (all : Bool) (value : Word) (now : Nat) : Option SibWord :=
  let keep := if all then [] else w.live.filter (fun x => !obs x)
  let seen := w.past.filter obs ++ (if all then w.live else [])
  let joined := joinAll seen
  let n := max (dotOf joined writer) (maxOf (w.live.map (fun x => dotOf x.vec writer)))
  let vec := joinDot joined (writer, min 4095 (n + 1))
  let vec := if vec.length > Config.maxDots then compact writer keep vec else vec
  if keep.length + 1 > Config.maxSiblings || decide (vec.length > Config.maxDots) then none
  else
    let new : Sibling := { value := value, writer := writer, vec := vec, seq := w.seq + 1 }
    some { w with seq := w.seq + 1, live := keep ++ [new], past := w.past ++ [new], used := now }

/-- The request of a word that the proctor serves next, in the order they came (R161): it is asked for once none of them is being served. -/
def State.nextProxy (s : State) (slice key : Nat) : State :=
  let l := (s.slice slice).proxies.filter (fun p => p.key == key)
  if l.isEmpty || l.any (fun p => p.granted) || decide (0 < s.asks 4 key none) then s else s.request (slice / 16) 4 key none

/-- A step that is not to be performed any more waits for the proctor no longer; the next request of its word is served. -/
def State.dropProxy (s : State) (who : Instr) : State :=
  match s.slices.findSome? (fun e => (e.2.proxies.find? (fun q => decide (q.who = who))).map (fun q => (e.1, q.key))) with
  | some (n, key) => (s.updSlice n (fun x => { x with proxies := x.proxies.filter (fun q => decide (q.who ≠ who)) })).nextProxy n key
  | none => s

/-- A request to a sibling word goes on, or waits for the proctor (R161): where the word's entries lie in the overflow region, where it needs
`need` entries and the table has no room for them, and behind a request that waits. A request that the proctor has come to first gets its room, in the
table or in the overflow region; where that is full as well, it is refused. -/
def State.sibGate (s : State) (slice key : Nat) (who : Instr) (need : Nat) (refuse k : State → State) : State :=
  let x := s.slice slice
  let away := match tfind x.sibs key with | some w => w.overflow | none => false
  match x.proxies.find? (fun p => decide (p.who = who)) with
  | some p =>
    if !p.granted then s
    else
      let s1 := s.dropProxy who
      if x.sibRoom key need then k s1
      else if Config.overflowFull s.free then refuse s1.nextFree
      else if away then k s1.nextFree
      else k (s1.nextFree.updSlice slice (fun y => y.makeRoom key need y.sibs.length))
  | none =>
    let first := !x.proxies.any (fun q => q.key == key)
    if first && !away && x.sibRoom key need then k s
    else (s.updSlice slice (fun y => { y with proxies := y.proxies ++ [{ key := key, who := who, granted := false }] })).nextProxy slice key

/-- Whether a read of a sibling word by the step `who` goes on at once (R161): the word's entries lie in the table and nothing waits at it, or the proctor
has come to the step. -/
def State.sibReady (s : State) (slice key : Nat) (who : Instr) : Bool :=
  let x := s.slice slice
  match x.proxies.find? (fun p => decide (p.who = who)) with
  | some p => p.granted
  | none => !x.proxies.any (fun q => q.key == key) && !(match tfind x.sibs key with | some w => w.overflow | none => false)

/-- The proctor has come to the first request that waits at a sibling word (R161, R327): its step goes on. -/
def State.sibProxy (s : State) (die key : Nat) : State :=
  match s.slices.find? (fun e => e.1 / 16 == die && e.2.proxies.any (fun p => p.key == key && !p.granted)) with
  | none => s
  | some (n, x) =>
    match x.proxies.find? (fun p => p.key == key && !p.granted) with
    | none => s
    | some p =>
      (s.updSlice n (fun y => { y with proxies := updEach (fun q => decide (q.who = p.who)) (fun q => { q with granted := true }) y.proxies })).after 0 p.who

/-- A word's new sibling state stored, and its memory word set to the lowest writer's value (R160). -/
def State.putSib (s : State) (slice key va : Nat) (w : SibWord) : State :=
  let s1 := s.updSlice slice (fun x => { x with sibs := tset x.sibs key { w with va := va } })
  match lowestWriter w.live with
  | some x => s1.bankWrite key (natToBytes 8 x.value.toNat)
  | none => s1

/-- What a plain store or an engine write of a whole SIB word by a writer leaves (R162, R163): its context is the writer's own last write. None
is a refusal. -/
def State.sibStored (s : State) (slice key va writer : Nat) (value : Word) : Option SibWord :=
  let w := s.sib slice key va
  let last := maxOf ((w.live.filter (fun x => x.writer == writer)).map (fun x => x.seq))
  sibWrite w writer (fun x => x.writer == writer && x.seq == last) false value s.now

/-- Such a write at its home by the step `who`: `done` once it is made, `full` where R163 refuses it (R165), `refuse` where the overflow region is
full (R161). -/
def State.sibStore (s : State) (who : Instr) (slice key va writer : Nat) (value : Word) (refuse full done : State → State) : State :=
  match s.sibStored slice key va writer value with
  | none => s.sibGate slice key who 0 refuse full
  | some w => s.sibGate slice key who (max 1 w.live.length) refuse (fun s => done (s.putSib slice key va w))

/-- The value RECON leaves (R131). -/
def reconValue (op : Nat) (sibs : List Word) (lowest highest b : Word) : Word :=
  match op with
  | 0 => sibs.foldl minS (sibs.headD 0)
  | 1 => sibs.foldl maxS (sibs.headD 0)
  | 2 => sibs.foldl (· + ·) 0
  | 3 => sibs.foldl (· ||| ·) 0
  | 4 => sibs.foldl (· &&& ·) (-1)
  | 5 => lowest
  | 6 => highest
  | _ => b

/-! ## Accumulate ranges -/

/-- One fold (R167). -/
def foldOp (aop : Nat) (a b : Word) : Word :=
  let x : BitVec 32 := a.setWidth 32
  let y : BitVec 32 := b.setWidth 32
  match aop with
  | 0 => zext (add32 x y)
  | 1 => a + b
  | 2 => zext (max32 x y)
  | _ => zext (min32 x y)

/-- The identity of a fold (R167). -/
def foldId (aop : Nat) : Word :=
  match aop with
  | 0 => 0x80000000
  | 1 => 0
  | 2 => 0xFF800000
  | _ => 0x7F800000

/-- The size of a fold in bytes (R167). -/
def foldSize (aop : Nat) : Nat := if aop = 1 then 8 else 4

/-- A thread's lci in its launch (R15). -/
def State.lciOf (s : State) (t : Nat) : Nat :=
  match (s.thread t).launch with
  | some n => match tfind s.launches n with
    | some l => (rowOf (s.nameOf (coreOf t)) - l.row0) * l.w + (colOf (s.nameOf (coreOf t)) - l.col0)
    | none => 0
  | none => 0

/-- A thread's launch sequence number (R168). -/
def State.launchSeq (s : State) (t : Nat) : Nat :=
  match (s.thread t).launch with
  | some n => match tfind s.launches n with
    | some l => l.seq
    | none => 0
  | none => 0

/-- The partials of a word that the cores' partial lines hold. -/
def State.linePartials (s : State) (key size : Nat) : List Partial :=
  s.cores.flatMap (fun c => c.2.lines.filterMap (fun l =>
    if l.kind = .partialSum ∧ l.key = key / 128 * 128 ∧ l.words.getLsbD (key % 128 / 4) then
      some { key := key, launchSeq := l.launchSeq, lci := l.lci, aop := l.aop,
             value := BitVec.ofNat 64 (bits l.data.toNat (8 * (key % 128 + size) - 1) (8 * (key % 128))),
             va := l.line * 128 + key % 128 }
    else none))

/-- A partial combined into the one the home holds for the same launch and lci (R168). -/
def addPartial (l : List Partial) (p : Partial) : List Partial :=
  if l.any (fun q => q.key == p.key && q.launchSeq == p.launchSeq && q.lci == p.lci) then
    l.map (fun q => if q.key = p.key ∧ q.launchSeq = p.launchSeq ∧ q.lci = p.lci then { q with value := foldOp p.aop q.value p.value } else q)
  else l ++ [p]

/-- Partials in ascending launch sequence and lci (R169). -/
def sortPartials (l : List Partial) : List Partial := l.foldl ins []
where
  ins (acc : List Partial) (x : Partial) : List Partial :=
    match acc with
    | [] => [x]
    | y :: r => if x.launchSeq < y.launchSeq || (x.launchSeq == y.launchSeq && decide (x.lci < y.lci)) then x :: y :: r else y :: ins r x

/-- One word of an accumulate range combined at its home (R169). -/
def State.combineWord (s : State) (slice key aop : Nat) : State :=
  let size := foldSize aop
  let held := (s.slice slice).partials.filter (fun p => p.key == key)
  let all := sortPartials ((s.linePartials key size).foldl addPartial held)
  if all.isEmpty then s
  else
    let v := all.foldl (fun v p => foldOp aop v p.value) (BitVec.ofNat 64 (s.getN key size))
    let s1 := s.updSlice slice (fun x => { x with partials := x.partials.filter (fun p => p.key != key) })
    s1.bankWrite key (natToBytes size v.toNat)

/-- Every word of a line combined, and the cores' partial lines of it recalled (R169). -/
def State.combineLine (s : State) (slice key aop : Nat) : State :=
  let k := key / 128 * 128
  let size := foldSize aop
  let s1 := (List.range (128 / size)).foldl (fun s i => s.combineWord slice (k + size * i) aop) s
  (s1.holders k).foldl (fun s c => s.updCore c (fun x => { x with lines := x.lines.filter (fun l => !(l.key == k && l.kind == .partialSum)) })) s1

/-- A fold of a thread into its core's partial line of a word (R132, R168). -/
def State.foldAt (s : State) (t va key aop : Nat) (v : Word) : State :=
  let c := coreOf t
  let k := key / 128 * 128
  let size := foldSize aop
  let seq := s.launchSeq t
  let lci := s.lciOf t
  let mine := fun (l : Line) => l.key == k && l.kind == .partialSum && !l.leaving && l.launchSeq == seq && l.lci == lci
  let s1 := if (s.core c).lines.any mine then s
    else s.install c { line := va / 128, key := k, kind := .partialSum, dirty := false, data := 0, used := s.now,
                       siBy := [], dirtyBy := [], launchSeq := seq, lci := lci, aop := aop, words := 0 }
  s1.updCore c (fun x => { x with lines := x.lines.map (fun l => if mine l then foldIn l (key - k) size aop v s.now else l) })
where
  /-- The fold in the line's data: a word that holds no fold yet starts at the identity. -/
  foldIn (l : Line) (off size aop : Nat) (v : Word) (now : Nat) : Line :=
    let old := if l.words.getLsbD (off / 4) then BitVec.ofNat 64 (bits l.data.toNat (8 * (off + size) - 1) (8 * off)) else foldId aop
    let new := foldOp aop old v
    { l with used := now, words := l.words ||| BitVec.ofNat 32 (2 ^ (off / 4)),
             data := State.updateCopy.patch l.data off (natToBytes size new.toNat) }

end Sys2Proof.Machine
end

