-- ==== Sys2Proof/Machine/Faults.lean ====
section
/-!
DEFINITION. Page faults parked at their home (19 R363, R364), and the accesses of agents that are no threads: a walk, then the
bytes at the home, coherent with the data caches, the partial sums and the siblings (03 R37, R39; 08 R158, R169).
-/

namespace Sys2Proof.Machine

/-- The who field of a fault record (R363): core, slot, kind, engine, partition, context, slice, agent. -/
def faultWho (core slot kind : Nat) (engine : Bool) (part ctx slice agent : Nat) : Nat :=
  core % 2 ^ 12 + 2 ^ 12 * slot + 2 ^ 16 * kind + 2 ^ 18 * (if engine then 1 else 0) + 2 ^ 19 * part + 2 ^ 25 * ctx +
    2 ^ 33 * slice + 2 ^ 37 * agent

/-- A fault record written to its die's queue, or kept and tried again every 1,024 cycles while the queue is full (R364). -/
def State.writeFault (s : State) (slice block : Nat) : State :=
  let d := slice / 16
  match (s.slice slice).parked.find? (fun p => p.block = block) with
  | none => s
  | some p =>
    let q := (s.die d).fq
    if q.full then s.afterOnce Config.retry (.faultRetry slice)
    else
      let s1 := s.poke (q.slot 32) p.record
      let s2 := s1.updDie d (fun x => { x with fq := { q with head := q.head + 1, irq := true } })
      s2.updSlice slice (fun x => { x with parked := updEach (fun e => e.block == block) (fun e => { e with written := true }) x.parked })

/-- The accesses that a slice holds parked. -/
def Slice.held (x : Slice) : Nat := (x.parked.map (fun p => p.items.length)).sum

/-- A faulting access parks at a slice: the first fault of a block writes a record, later ones join its list; beyond 256 it waits at the input
(R364). -/
def State.parkFault (s : State) (slice va cause who : Nat) (item : Parked) : State :=
  let block := va / 4096
  let x := s.slice slice
  if Config.parkEntries ≤ x.held then s.setSlice slice { x with faultIn := x.faultIn ++ [item] }
  else if x.parked.any (fun p => p.block == block) then
    s.setSlice slice { x with parked := updEach (fun p => p.block == block) (fun p => { p with items := p.items ++ [item] }) x.parked }
  else
    let d := slice / 16
    let token := (s.die d).nextToken
    let rec_ := record32 (va % 2 ^ 56 + 2 ^ 56 * cause) who token s.now
    let s1 := s.updDie d (fun y => { y with nextToken := (token + 1) % 2 ^ 32 })
    (s1.updSlice slice (fun y => { y with parked := y.parked ++
      [{ block := block, token := token, cause := cause, written := false, items := [item], record := rec_ }] })).writeFault slice block

/-- Whether a block has a parked list at a slice: later accesses to it join the list in arrival order (R364). -/
def State.isParked (s : State) (slice va : Nat) : Bool := (s.slice slice).parked.any (fun p => p.block == va / 4096)

/-- Where an access of an agent of a die to a global address parks now, and the cause: at slice h >> 28 of that die while the page is not mapped
(R37), at its home while that holds a parked list of its block (R364). -/
def State.missAt (s : State) (die va : Nat) : Option (Nat × Nat) :=
  match s.walk va with
  | .error c => some (faultSlice die va, c)
  | .ok (pg, _) => if s.isParked (homeOf pg va) va then some (homeOf pg va, 1) else none

/-- The slice at which such an access parks. -/
def State.faultAtSlice (s : State) (die va : Nat) : Nat := match s.missAt die va with | some e => e.1 | none => faultSlice die va

/-- Whether an invalidation of the page of an address is under way: accesses that reach a home wait for it (R365). -/
def State.invalidating (s : State) (va : Nat) : Bool :=
  s.dies.any (fun d => d.2.invals.any (fun e => e.1 / 2 ^ e.2 == va / 2 ^ e.2))

/-! ## Migration counters -/

/-- A counted access of a requester's die to a page (R366, R367); the slices of this module serve no word of a peer's (R37). -/
def State.countPage (s : State) (slice va : Nat) (pg : Page) (from_ : Nat) : State :=
  let d := slice / 16
  let mctl := (s.die d).mctl.toNat
  let m := mctl % 32
  if !bit mctl 8 || pg.sib || pg.accum || pg.bias = 1 || (pg.log != 12 && pg.log != 16) || (pg.place = 0 && from_ = d) || pg.peer != 0 then s
  else
    let x := s.slice slice
    let page := va / 2 ^ pg.log * 2 ^ pg.log
    let slot := match x.counters.find? (fun e => e.2.page = page) with
      | some e => some e.1
      | none =>
        if x.counters.length < Config.counterEntries then (List.range Config.counterEntries).find? (fun i => (tfind x.counters i).isNone)
        else
          let free := x.counters.filter (fun e => e.2.state != 1)
          let least := free.foldl (fun m e => min m e.2.count) (2 ^ 16)
          (free.find? (fun e => e.2.count = least)).map (fun e => e.1)
    match slot with
    | none => s
    | some i =>
      let e0 : Counter := match tfind x.counters i with
        | some e => if e.page = page then e else { page := page, big := pg.log == 16, count := 0, cand := 0, weight := 0, state := 0 }
        | none => { page := page, big := pg.log == 16, count := 0, cand := 0, weight := 0, state := 0 }
      let e1 := if from_ = e0.cand ∧ e0.weight ≠ 0 then { e0 with weight := e0.weight + 1 }
        else if e0.weight = 0 then { e0 with cand := from_, weight := 1 } else { e0 with weight := e0.weight - 1 }
      let t := 2 ^ m / (if pg.bias = 2 then 4 else 1)
      let f := 2 ^ m / 2 / (if pg.bias = 2 then 8 else 1)
      let e2 := { e1 with count := e1.count + 1 }
      if e2.count < t then s.updSlice slice (fun y => { y with counters := tset y.counters i e2 })
      else
        let e3 := { e2 with count := f }
        if e3.state = 1 then s.updSlice slice (fun y => { y with counters := tset y.counters i e3 })
        else
          let q := (s.die d).nq
          if q.full then
            (s.updSlice slice (fun y => { y with counters := tset y.counters i { e3 with state := 2 } })).updDie d
              (fun y => { y with novf := y.novf + 1, novfIrq := y.novfIrq || y.novf == 0 })
          else
            let id := e3.cand + 2 ^ 5 * (if e3.state = 2 then 1 else 0) + 2 ^ 6 * (if e3.big then 1 else 0) + 2 ^ 8 * i + 2 ^ 20 * (slice % 16)
            ((s.poke (q.slot 32) (record32 page 0 id s.now)).updSlice slice
              (fun y => { y with counters := tset y.counters i { e3 with state := 1 } })).updDie d
              (fun y => { y with nq := { q with head := q.head + 1, irq := true } })

/-! ## Accesses of other agents -/

/-- Bytes at a home, after the recall of OW lines (R39). -/
def State.homeRead (s : State) (key n : Nat) : List Byte × State :=
  let s1 := (List.range ((key + n + 127) / 128 - key / 128)).foldl (fun s i => s.recall ((key / 128 + i) * 128) false none) s
  (s1.peek key n, s1.eccRead key n 0)

/-- Bytes written at a home, after OW lines and WT copies are taken away (R39, R145). -/
def State.homeWrite (s : State) (key : Nat) (l : List Byte) : State :=
  let s1 := (List.range ((key + l.length + 127) / 128 - key / 128)).foldl (fun s i => s.recall ((key / 128 + i) * 128) true none) s
  (s1.forget key l.length).bankWrite key l

/-- The words of an accumulate range that an access of other agents meets, combined first (R155, R169). -/
def State.combineRange (s : State) (pg : Page) (va n : Nat) : State :=
  if pg.accum then
    (List.range ((pg.key + n + 127) / 128 - pg.key / 128)).foldl (fun s i => s.combineLine (homeOf pg va) ((pg.key / 128 + i) * 128) pg.aop) s
  else s

/-- An error response at an address, in the log of its home; of a window entry that is invalid in the log of the word's Broino port (R403, R415).
`slice` takes an access to a page that is not mapped. -/
def State.logHome (s : State) (va slice detail : Nat) : State :=
  match s.walk va with
  | .ok (pg, _) =>
    if pg.place = 2 ∧ s.hostKind pg = 0 then
      let port := linkPort (s.windowEntry pg.pa) va
      s.logError (portDie port) 8 5 port va detail
    else s.logError (homeOf pg va / 16) 6 0 (homeOf pg va) va detail
  | .error _ => s.logError (slice / 16) 6 0 slice va detail

/-- Whether no agent reaches a page's words: behind a fenced unit, through an invalid window entry or a reduction window (R403, R406, R411). -/
def State.agentBad (s : State) (pg : Page) (va : Nat) : Bool :=
  s.pageDead pg va || (pg.place == 2 && (s.hostKind pg == 0 || s.hostKind pg == 3))

/-- What an agent that is no thread meets at an address of the global window: a page fault and its cause (R360), an error response, which is logged,
or its home. -/
inductive Reach where
  | miss (cause : Nat)
  | bad (s : State)
  | ok (bytes : List Byte) (s : State)

/-- Bytes of a page read by an agent at their home. -/
def State.pageRead (s : State) (pg : Page) (va n : Nat) : List Byte × State := (s.combineRange pg va n).homeRead pg.key n

/-- Bytes of the global window read by an agent of a die; the access is counted (R366). -/
def State.globalRead (s : State) (die va n : Nat) : Reach :=
  match s.walk va with
  | .error c => .miss c
  | .ok (pg, _) =>
    if s.isParked (homeOf pg va) va then .miss 1
    else if s.agentBad pg va then .bad (s.logHome va (faultSlice die va) 0)
    else if s.eccBad pg.key n then .bad (s.eccRead pg.key n 0)
    else
      let x := (s.countPage (homeOf pg va) va pg die).pageRead pg va n
      .ok x.1 x.2

/-- Bytes of the global window written by an agent of a die. One without a writer index changes nothing on a sibling page (R158, R166). -/
def State.globalWrite (s : State) (die va : Nat) (l : List Byte) : Reach :=
  match s.walk va with
  | .error c => .miss c
  | .ok (pg, _) =>
    if s.isParked (homeOf pg va) va then .miss 1
    else if s.agentBad pg va || pg.sib then .bad (s.logHome va (faultSlice die va) 0)
    else .ok [] (((s.countPage (homeOf pg va) va pg die).combineRange pg va l.length).homeWrite pg.key l)

end Sys2Proof.Machine
end

