-- ==== Sys2Proof/Machine/Roll.lean ====
section
/-!
DEFINITION. The order roll at issue (21 R393, R397, R400): what a loggable operation does before its effect at RECORD and at
REPLAY, the driver's events of a roll, and the divergence report (R401).
-/

namespace Sys2Proof.Machine


/-- The partition of a context. -/
def State.partOfCtx (s : State) (c : Nat) : Option (Nat × Part) := s.parts.find? (fun p => p.2.ctx = c)
/-- The die whose roll unit serves a context: its partition's lead die (log 13). -/
def State.rollDie (s : State) (c : Nat) : Nat := match s.partOfCtx c with | some (_, p) => p.lead | none => 0

def State.updRoll (s : State) (c : Nat) (f : Roll → Roll) : State := s.updCtx c (fun x => { x with roll := f x.roll })

/-- A source-4 event record of a roll (R330, R397 to R399). -/
def State.rollEvent (s : State) (c code : Nat) : State :=
  let part := match s.partOfCtx c with | some (n, _) => n | none => 0
  s.postEvent (s.rollDie c) 4 code 0 (2 ^ 18 * part + 2 ^ 24 * c) (s.ctx c).roll.head.toNat

/-- The roll unit parks on a fault of its ring or of the divergence page (R390): at slice h >> 28 of its die, or at the home that holds the block's
list (R37, R364). -/
def State.parkRoll (s : State) (c va cause kind : Nat) : State :=
  let slice := s.faultAtSlice (s.rollDie c) va
  let part := match s.partOfCtx c with | some (n, _) => n | none => 0
  (s.updRoll c (fun r => { r with parked := true })).parkFault slice va cause
    (faultWho 0 0 kind false part c (slice % 16) 1) (.agent 1 c)

/-- A divergence report written below the ring (R401): its address, or none where the page faults. -/
def State.report (s : State) (t : Nat) (expected : Option (Nat × RollRecord)) (actual : RollRecord) : Except Nat (Word × State) :=
  let c := (s.thread t).ctx
  let r := (s.ctx c).roll
  let a := r.base.toNat - 4096 + 64 * (r.reports % 64)
  let bytes := (match expected with | some (_, e) => natToBytes 16 e.toNat | none => natToBytes 16 0) ++ natToBytes 16 actual.toNat ++
    natToBytes 8 (match expected with | some (i, _) => i | none => 2 ^ 64 - 1) ++ natToBytes 8 (s.keyDetail t) ++
    natToBytes 8 s.now ++ natToBytes 8 0
  let done := fun (s : State) => (BitVec.ofNat 64 a, s.updCtx c (fun x => { x with roll := { x.roll with reports := x.roll.reports + 1 } }))
  match s.globalWrite (s.rollDie c) a bytes with
  | .miss e => .error e
  | .bad s1 => .ok (done s1)
  | .ok _ s1 => .ok (done s1)

/-- A divergence of a thread (R325, R400): its report is written and `k` goes on with the report's address. A fault of the divergence page parks the
roll unit (R390); while it is parked, `hold` keeps the operation where it is (R401). -/
def State.diverge (s : State) (t : Nat) (expected : Option (Nat × RollRecord)) (actual : RollRecord) (hold : State → State)
    (k : Word → State → State) : State :=
  let c := (s.thread t).ctx
  if (s.ctx c).roll.parked then hold s
  else match s.report t expected actual with
    | .ok (a, s1) => k a s1
    | .error cause => hold (s.parkRoll c ((s.ctx c).roll.base.toNat - 4096) cause 1)

/-- REPLAY_DIV found at issue (R325, R400): the report, then the trap; a faulting divergence page holds the thread (R401). -/
def State.divergeAtIssue (s : State) (len : Nat) (expected : Option (Nat × RollRecord)) (actual : RollRecord) : State :=
  s.diverge s.cur expected actual (fun s => s.parkOn .roll) (fun a s => s.trap cREPLAY_DIV a len)

/-- An operation that its object, or a unit on its way, ends with an error response: its record is written, or leaves its queue, at its place in the
object's order (R393), with val 0 (log 38); until then `hold`. -/
def State.refusedAt (s : State) (c typ op obj t : Nat) (ord : Option Nat) (hold k : State → State) : State :=
  match s.turnOf c typ obj (s.actorOf t) ord with
  | .wait => hold s
  | .free => k (if s.recording c then s.record c (mkRecord typ op 0 (s.actorOf t) (ord.getD 0) 0 obj) else s)
  | .mine i _ => k (s.unqueue c i)

/-- Records that an operation has taken at its issue: they leave their slot's cursor, and stay in their object's queue (R400). -/
def State.claim (s : State) (c : Nat) (l : List Nat) : State :=
  s.updCtx c (fun x => { x with roll := { x.roll with cursors := x.roll.cursors.filter (fun e => !l.contains e.2.1) } })

/-- A loggable operation at issue (R393, R397, R400): `k` goes on with its ordinal. The record is given as the operation
would write it at RECORD; `byOp` says that its op names the operation. With `also`, an acquire AMO or FAMO, whose ACQ record
of the same ordinal is checked after its AMO record. -/
def loggable (len typ op obj : Nat) (byOp : Nat → Bool) (also : Bool) (k : Option Nat → State → State) (s : State) : State :=
  let c := s.me.ctx
  let r := (s.ctx c).roll
  let ord := s.ordOf s.cur
  -- a `LOGMARK`'s value has its high bits in val (R394)
  let val := if typ = 2 then obj / 2 ^ 56 else 0
  match s.levelOf c with
  | 1 =>
    if r.parked then s.parkOn .roll
    else if r.free < Config.lowRoll then
      let s1 := if r.lowPosted then s else (s.updCtx c (fun x => { x with roll := { x.roll with lowPosted := true } })).rollEvent c 1
      s1.parkOn .roll
    else k (some ord) (s.nextOrd s.cur)
  | 2 =>
    let actual := mkRecord typ op 0 (s.actorOf s.cur) ord val obj
    if r.parked then s.parkOn .roll
    else match r.cursor (s.actorOf s.cur) with
    | none => if r.closed then s.divergeAtIssue len none actual else s.parkOn .roll
    | some (i, e) =>
      if recOrd e ≠ ord ∨ recType e ≠ typ ∨ recObj e ≠ obj % 2 ^ 56 ∨ !byOp (recOp e) then s.divergeAtIssue len (some (i, e)) actual
      else if also then
        match r.cursors.find? (fun x => x.1 = s.actorOf s.cur ∧ x.2.1 ≠ i) with
        | none =>
          if r.closed then s.divergeAtIssue len none (mkRecord 6 0 0 (s.actorOf s.cur) ord 0 obj) else s.parkOn .roll
        | some (_, j, a) =>
          if recOrd a ≠ ord ∨ recType a ≠ 6 ∨ recObj a ≠ obj % 2 ^ 56 ∨ recOp a % 4 ≠ 0 then
            s.divergeAtIssue len (some (j, a)) (mkRecord 6 0 0 (s.actorOf s.cur) ord 0 obj)
          else k (some ord) ((s.claim c [i, j]).nextOrd s.cur)
      else k (some ord) ((s.claim c [i]).nextOrd s.cur)
  | _ => k none s

/-- An operation that takes an ordinal without a record of its own (R393, R400). -/
def ordinal (len : Nat) (k : Option Nat → State → State) (s : State) : State :=
  let c := s.me.ctx
  let ord := s.ordOf s.cur
  match s.levelOf c with
  | 1 => k (some ord) (s.nextOrd s.cur)
  | 2 =>
    match (s.ctx c).roll.cursor (s.actorOf s.cur) with
    | some (i, e) =>
      if recOrd e = ord then s.divergeAtIssue len (some (i, e)) 0 else k (some ord) (s.nextOrd s.cur)
    | none => k (some ord) (s.nextOrd s.cur)
  | _ => k none s

end Sys2Proof.Machine
end

