-- ==== Sys2Proof/Machine/Home.lean ====
section
/-!
DEFINITION. What a bank or home does with an access (03 R37-R43, 06 R112-R139, 08 R166, 19 R364-R372): atomics, reservations,
synchronising forms, barriers and bells, loads and stores with the lines they bring to the core's cache, versioned words and
accumulate ranges, host pages, and the checks that an access may be performed now (R109, R110, R126, R400).
-/

namespace Sys2Proof.Machine

/-! ## Atomics -/

/-- The new memory value of an integer atomic on `n`-bit operands (R123). -/
def amoNew {n : Nat} (op : Nat) (old b cmp : BitVec n) : BitVec n :=
  match op with
  | 0 => old + b
  | 1 => old &&& b
  | 2 => old ||| b
  | 3 => old ^^^ b
  | 4 => minS old b
  | 5 => maxS old b
  | 6 => minU old b
  | 7 => maxU old b
  | 8 => b
  | _ => if old = cmp then b else old

/-- An integer atomic of a size on an old value: the new value (R123). -/
def amoValue (op : BitVec 4) (wide : Bool) (old b cmp : Word) : Word :=
  if wide then amoNew op.toNat old b cmp
  else zext (amoNew op.toNat (old.setWidth 32) (b.setWidth 32) (cmp.setWidth 32))

/-- A floating-point atomic: the new value and the flags raised (R127). -/
def famoValue (op : BitVec 4) (wide : Bool) (old b : Word) : Word × FFlags :=
  let t := if wide then fp64 else fp32
  let m := 2 ^ (if wide then 64 else 32)
  let x := old.toNat % m
  let y := b.toNat % m
  let r := match op.toNat with
    | 0 => addF t .rne (unpackF t x) (unpackF t y)
    | 1 => minMaxF t false x y
    | _ => minMaxF t true x y
  (BitVec.ofNat 64 r.1, r.2)

/-- The size in bytes of an atomic. -/
def amoSize (wide : Bool) : Nat := if wide then 8 else 4

/-! ## Order of accesses -/

/-- Whether an access has not been performed yet. -/
def Req.open (r : Req) : Bool := r.state == .going || r.state == .waiting || r.state == .parked

/-- The addresses and sizes of the words an access touches; of an access of several words, those not performed yet. -/
def Req.pieces (r : Req) : List (Nat × Nat) :=
  let va := r.va.toNat
  match r.op with
  | .load n _ => [(va, n)]
  | .store n _ => [(va, n)]
  | .amo _ w _ _ => [(va, amoSize w)]
  | .famo _ w _ => [(va, amoSize w)]
  | .red w _ => [(va, amoSize w)]
  | .bara => [(va, 16)]
  | .barw _ => [(va, 16)]
  | .bellAdd _ => [(va, 16)]
  | .bellWait _ => [(va, 16)]
  | .lanesLoad .. => words
  | .lanesStore .. => words
  | .setLoad => words
  | .setStore _ => words
  | .eval .. => words
  | .codebook .. => words
  | .ttset => (List.range 8).map (fun i => (va + 8 * i, 8))
  | .flush _ => []
  | .flushAll => []
  | .stand _ => []
  | .leave => []
  | .send => []
  | .rfill .. => []
  | .lturn .. => []
  | .evsig _ => []
  | _ => [(va, 8)]
where
  /-- Those words of an access of several that are not performed yet. -/
  words : List (Nat × Nat) := (r.words.filter (fun p => p.state == .going || p.state == .parked)).map (fun p => (p.va, p.len))

/-- Whether an operation is one of the issuing core's data cache (R122). -/
def MemOp.cached (op : MemOp) : Bool := match op with | .flush _ => true | .flushAll => true | _ => false

/-- Whether an operation is an access of R144 that a release waits for; roll call, messages, turn requests and events to a latch
are none. -/
def MemOp.accesses (op : MemOp) : Bool :=
  match op with
  | .stand _ => false | .leave => false | .send => false | .rfill .. => false | .lturn .. => false | .evsig _ => false
  | _ => true

/-- Whether an operation reads the bytes of its word; a plain write, a fill of a word or a cache operation does not. -/
def MemOp.reads (op : MemOp) : Bool :=
  match op with
  | .store .. => false | .stf _ => false | .frameLink _ => false | .startZero => false | .lanesStore .. => false | .setStore _ => false
  | .flush _ => false | .flushAll => false
  | _ => true

/-- The aligned word of an address, by its storage on chip, whichever window names it (R109). -/
def State.wordKey (s : State) (t va : Nat) : Nat := (match s.resolve t va with | some p => p.chipKey | none => va) / 8

/-- The aligned words of an access that are still to be performed, by their storage on chip; those of its line for a cache operation. -/
def Req.accessWords (r : Req) : List Nat :=
  match r.op with
  | .flush _ => (List.range 16).map (fun i => r.va.toNat / 128 * 16 + i)
  | _ =>
    if r.words.isEmpty then r.pieces.flatMap (fun e => (List.range ((e.2 + 7) / 8)).map (fun i => (r.place.chipKey + (e.1 - r.va.toNat)) / 8 + i))
    else (r.words.filter (fun p => p.state == .going || p.state == .parked)).flatMap (fun p =>
      (List.range ((p.len + 7) / 8)).map (fun i => p.place.chipKey / 8 + i))

/-- An access, or one of its words, that a wake lets go on (R364). -/
def Req.unparked (r : Req) (piece : Nat) : Req :=
  if r.words.isEmpty then { r with state := .going } else { r with words := r.words.modify piece (fun p => { p with state := .going }) }

/-- Whether a word of an access is parked on a page fault. -/
def Req.parkedNow (r : Req) : Bool := r.state == .parked || r.words.any (fun p => p.state == .parked)

/-- Whether two accesses touch one aligned word (R109). -/
def Req.sameWord (a b : Req) : Bool :=
  let y := b.accessWords
  a.op.accesses && b.op.accesses && a.accessWords.any (fun w => y.contains w)

/-- Whether an earlier access of the thread holds this one: any for a release (R110), a short one that waits (R147), one of the same word
otherwise (R109). -/
def State.held (s : State) (r : Req) : Bool :=
  s.reqs.any (fun q => decide (q.id < r.id) && q.tid == r.tid && q.epoch == r.epoch && q.open &&
    ((r.rel && q.op.accesses) || q.short || q.sameWord r))

/-- Whether an earlier access of the thread holds one word of an access of several (R109, R147). -/
def State.heldWord (s : State) (r : Req) (p : Piece) : Bool :=
  let ws := (List.range ((p.len + 7) / 8)).map (fun i => p.place.chipKey / 8 + i)
  s.reqs.any (fun q => decide (q.id < r.id) && q.tid == r.tid && q.epoch == r.epoch && q.open && q.op.accesses &&
    (q.short || q.accessWords.any (fun w => ws.contains w)))

/-! ## Faults and errors of an access -/

/-- An access refused with an error response (R22, R114); the home logs the address (R415). -/
def State.failAt (s : State) (r : Req) (slice addr code : Nat) : State :=
  let s1 := match r.place with
    | .global _ =>
      if code = 2 then s
      else if code = 6 then s.logHome addr slice (s.keyDetail r.tid)
      else s.logError (slice / 16) code 0 slice addr (s.keyDetail r.tid)
    | _ => s
  (s1.served r r.place.chipKey 0).reply { r with state := .failed, errAddr := BitVec.ofNat 64 addr }

/-- The kind of an access in a fault record (R363). -/
def MemOp.faultKind (op : MemOp) : Nat :=
  match op with
  | .load .. => 0 | .ldf => 0 | .lres => 0 | .ldv => 0 | .ldvv => 0 | .lanesLoad .. => 0 | .setLoad => 0 | .eval .. => 0
  | .codebook .. => 0 | .flush _ => 0 | .flushAll => 0 | .joinRead => 0 | .linkRead => 0
  | .store .. => 1 | .stf _ => 1 | .scond _ => 1 | .red .. => 1 | .lanesStore .. => 1 | .setStore _ => 1 | .startZero => 1
  | _ => 2

/-- An access, or one of its words, parks at the slice that takes it, and a notice goes to the core (R24, R37, R364). -/
def State.faultReq (s : State) (r : Req) (piece slice va cause : Nat) : State :=
  let c := coreOf r.tid
  let t := s.thread r.tid
  let park : Req → Req := fun x =>
    if x.words.isEmpty then { x with state := .parked } else { x with words := x.words.modify piece (fun p => { p with state := .parked }) }
  let s1 := (s.updReq r.id park).parkFault slice va cause
    (faultWho c (slotOf r.tid) r.op.faultKind false t.part t.ctx (slice % 16) 0) (.req r.id piece)
  s1.after (halfUp Config.homeOwnDie) (.faultNotice r.id)

/-! ## Reads and writes of one piece -/

/-- The type of an access at its page: the more restrictive of the request's and the page's (R40); sibling, accumulate and
peer or reduction pages are UC (R37, R166), and so is every access of a memory core, which has no data cache (R38; log 60). A line with an uncorrectable word is
not brought to a core (log 34). -/
def State.effType (s : State) (c : Nat) (typ : BitVec 2) (pg : Page) : Nat :=
  let k := s.hostKind pg
  if isMem c || s.eccBad (pg.key / 128 * 128) 128 || pg.sib || pg.accum || k = 2 || k = 3 then 3
  else match pg.cls with
    | 0 => typ.toNat
    | 1 => if typ = 0 then 1 else typ.toNat
    | _ => 3

/-- The partition whose notify page holds a byte, and the offset in it (R339). The page's physical address has its place in bits
49:48. -/
def State.notifyPart (s : State) (pg : Page) : Option (Nat × Nat) :=
  (s.parts.find? (fun p => p.2.notify ≠ 0 ∧ bits p.2.notify.toNat 49 48 = pg.place ∧ bits p.2.notify.toNat 47 12 = pg.pa / 4096)).map
    (fun p => (p.1, pg.pa % 4096))

/-- Whether a home can serve a plain access of an engine or of several words to a page at all: a malformed window, a reduction window
and a notify page cannot (R339, R403, R406). -/
def State.hostBad (s : State) (pg : Page) (va : Nat) : Bool :=
  s.pageDead pg va || (pg.place == 2 && (s.hostKind pg == 0 || s.hostKind pg == 3)) || (s.notifyPart pg).isSome

/-- The time of a command processor's access to an address (R338, R346): R46's bound from its router (R274). -/
def State.cpLat (s : State) (part va : Nat) : Nat :=
  match tfind s.parts part with
  | some p => s.latency (processorAt p.lead) (.global va)
  | none => 1

/-- The slot of a packet in its ring (R336). -/
def Queue.slot (q : Queue) (i : Word) : Nat := q.base.toNat + 64 * (i.toNat % 2 ^ q.n)

/-- The command processor comes to read the header at a queue's read index (R340). -/
def State.pollQueue (s : State) (part queue : Nat) : State :=
  match (match tfind s.parts part with | some p => tfind p.queues queue | none => none) with
  | some q =>
    if q.stopped || q.packet.isSome || q.read == q.notified then s
    else s.afterOnce (s.cpLat part (q.slot q.read)) (.headerPoll part queue)
  | none => s

/-- A store to a notify register (R339): none is an error response. -/
def State.notify (s : State) (part queue : Nat) (v : Word) (host : Bool) : Option State :=
  match tfind s.parts part with
  | none => none
  | some p =>
    match tfind p.queues queue with
    | none => none
    | some q =>
      let a := (q.notified - q.read).toNat
      let b := (v - q.read).toNat
      if (queue = 0 ∧ !host) ∨ p.destroying.any (fun d => d.1 == queue) ∨ 2 ^ q.n < b then none
      else if a < b then
        some (({ s with parts := tmod s.parts part (fun p => { p with queues := tset p.queues queue { q with notified := v } }) }).pollQueue part queue)
      else some s

/-- An access to a notify page (R339). -/
def State.notifyAccess (s : State) (r : Req) (key part off : Nat) (err : State → State) : State :=
  match tfind s.parts part with
  | none => err s
  | some p =>
    match r.op, tfind p.queues (off / 8) with
    | .load 8 _, some q =>
      if off % 8 = 0 ∧ off < 0x200 then (s.served r key 0).reply { r with state := .performed, val := BitVec.ofNat 1024 q.notified.toNat } else err s
    | .store 8 v, some _ =>
      if off % 8 = 0 ∧ off < 0x200 then
        (match (s.noteWrite r.tid key r.rel r.ord false).notify part (off / 8) v false with
         | some s1 => s1.reply { r with state := .performed }
         | none => err s)
      else err s
    | _, _ => err s

/-! ## Words on chip and plain words of a page -/

/-- The value a load leaves in its register (R111). -/
def loadValue (n : Nat) (signed : Bool) (v : Nat) : Word :=
  if signed then
    match n with
    | 1 => sext (BitVec.ofNat 8 v)
    | 2 => sext (BitVec.ofNat 16 v)
    | 4 => sext (BitVec.ofNat 32 v)
    | _ => BitVec.ofNat 64 v
  else BitVec.ofNat 64 v

/-- The bank of an object on chip by its storage key, and the die it lies on. -/
def keyBank (key : Nat) : Server × Nat :=
  if windowOf key = 0xF5 then (.die (key % 2 ^ 48 / 2 ^ 26) (key % 2 ^ 26 / 2 ^ 22), key % 2 ^ 48 / 2 ^ 26)
  else
    let c := key % 2 ^ 48 / 2 ^ 20
    (if key % 2 ^ 20 < 2 ^ 19 then .pad c (key / 8 % 16) else .share c (key / 8 % 16), dieOf c)

/-- The waiters that a bank tracks: those of generations, not those of a child count (R137). -/
def State.bankWaits (s : State) (v : Server) : Nat :=
  (s.waiters.filter (fun w => (keyBank w.1).1 == v && decide (w.1 < 2 ^ 56) && (match w.2 with
    | .req id => (match s.req id with | some r => (match r.op with | .joinRead => false | _ => true) | none => false)
    | _ => true))).length

/-- Adds a waiter to an object; at FIXED in ascending thread key, otherwise last (R27). A bank that already tracks 32 raises RESOURCE to its
die's proctor, which holds the waiter in its place (R137). -/
def State.wait (s : State) (key ctx : Nat) (w : Waiter) (counted : Bool) : State :=
  let b := keyBank key
  let s1 := if counted && decide (Config.bankWaiters ≤ s.bankWaits b.1) then s.request b.2 3 key (some (s.waiterThread w)) else s
  if s.levelOf ctx = 3 then { s1 with waiters := place s1 s1.waiters } else { s1 with waiters := s1.waiters ++ [(key, w)] }
where
  /-- The place of the waiter by thread key among those of its object. -/
  place (s : State) (l : List (Nat × Waiter)) : List (Nat × Waiter) :=
    match l with
    | [] => [(key, w)]
    | x :: rest =>
      if x.1 == key && (s.keyOf (s.waiterThread w)).lt (s.keyOf (s.waiterThread x.2)) then (key, w) :: x :: rest else x :: place s rest

/-- A waiting access added to its object's waiters. -/
def State.addWaiter (s : State) (key : Nat) (r : Req) : State :=
  (s.updReq r.id (fun x => { x with state := .waiting })).wait key (s.thread r.tid).ctx (.req r.id) (match r.op with | .joinRead => false | _ => true)

/-- Adds a synchronising request to its word's queue; at FIXED in ascending thread key (R119, R142). Where its bank or slice holds 256, it waits
at the input, in arrival order (R119). -/
def State.addSync (s : State) (word : Nat) (r : Req) : State :=
  let v := s.serverOf r.place
  let s1 := s.updReq r.id (fun x => { x with state := .waiting })
  let input := s.syncIn.any (fun e => match s.req e.2 with | some q => s.serverOf q.place == v | none => false)
  if input || decide (Config.syncQueue ≤ s.syncLoad v) then { s1 with syncIn := s1.syncIn ++ [(word, r.id)] }
  else { s1 with syncq := s1.placeSync s1.syncq (word, r.id) r }

/-- An arrival at a barrier object (R137). -/
def State.arrive (s : State) (key : Nat) : State :=
  let g := s.getN (key + 8) 4
  let p := s.getN key 4
  let a := s.getN (key + 4) 4 + 1
  if p = 0 then s
  else if a ≥ p then
    (s.poke (key + 4) (natToBytes 4 0 ++ natToBytes 4 ((g + 1) % 2 ^ 32))).landed key 16
  else s.bankWrite (key + 4) (natToBytes 4 a)

/-- A memory operation performed on its word or object at storage key `key`, once OW lines are recalled. `forced` is the
outcome the roll imposes on a `SCOND` (R400). -/
def State.atKey (s : State) (r : Req) (key : Nat) (forced : Option Bool) : State :=
  let ok : State → Word → State := fun s v => s.reply { r with state := .performed, val := BitVec.ofNat 1024 v.toNat }
  let c := coreOf r.tid
  let put : State → Nat → Word → State := fun s n v =>
    ((s.noteWrite r.tid key r.rel r.ord true).bankWrite key (natToBytes n v.toNat)).updateCopy c key (natToBytes n v.toNat)
  match r.op with
  | .load n sg => ok (s.served r key 0) (loadValue n sg (s.getN key n))
  | .store n v =>
    let l := natToBytes n v.toNat
    ok (((s.noteWrite r.tid key r.rel r.ord false).bankWrite key l).updateCopy c key l) 0
  | .amo op w b cmp =>
    let old := BitVec.ofNat 64 (s.getN key (amoSize w))
    ok (put (s.served r key 0) (amoSize w) (amoValue op w old b cmp)) old
  | .famo op w b =>
    let old := BitVec.ofNat 64 (s.getN key (amoSize w))
    let x := famoValue op w old b
    (put (s.served r key 0) (amoSize w) x.1).reply
      { r with state := .performed, val := BitVec.ofNat 1024 old.toNat, flags := x.2.toBits }
  | .ldf => sync s
  | .ldtk => sync s
  | .stf _ => sync s
  | .lres =>
    ok ((s.served r key 0).updThread r.tid (fun t => { t with resv := some (key / 128), resvVa := r.va.toNat })) (BitVec.ofNat 64 (s.getN key 8))
  | .scond v =>
    let holds := (s.thread r.tid).resv == some (key / 128)
    if forced == some true && !holds then lostOut s
    else
      let s1 := s.updThread r.tid (fun t => { t with resv := none })
      if holds && forced.getD true then ok (put (s1.served r key 0) 8 v) 0 else ok (s1.served r key 1) 1
  | .bara =>
    ok ((bothWords s true).arrive key) (BitVec.ofNat 64 (s.getN (key + 8) 4))
  | .barw _ => wait s
  | .bellWait _ => wait s
  | .joinRead => wait s
  | .bellAdd n => ok ((if s.getN key 4 = 0 then s else bothWords s true).credit key n.toNat 0) 0
  | .frameLink l => ok (put s 8 l) 0
  | .frameInc => ok (put s 8 (BitVec.ofNat 64 (s.getN key 8) + 1)) 0
  | .frameDec => ok (put s 8 (BitVec.ofNat 64 (s.getN key 8) - 1)) 0
  | .linkRead => ok s (BitVec.ofNat 64 (s.getN key 8))
  | .startZero => ok (put s 8 0) 0
  | _ => ok s 0
where
  /-- Both words of a bell or barrier object are written by one release (R45, R136). -/
  bothWords (s : State) (rel : Bool) : State := (s.noteWrite r.tid key rel r.ord true).noteWrite r.tid (key + 8) rel r.ord true
  /-- A `SCOND` that the roll lets succeed and that has lost its reservation diverges (R325, R400). -/
  lostOut (s : State) : State :=
    match s.turnOf (s.thread r.tid).ctx 4 (s.objOf r.place / 128 * 128) (s.actorOf r.tid) r.ord with
    | .mine i x =>
      s.diverge r.tid (some (i, x)) (mkRecord 4 0 0 (s.actorOf r.tid) (r.ord.getD 0) 1 (recObj x)) (fun s => s.again (r.event 0))
        (fun a s => s.reply { r with state := .diverged, errAddr := a })
    | _ => s.again (r.event 0)
  /-- A synchronising form: done at once if its condition holds, else queued. While requests of the other kind wait, their condition does
  not hold, so one whose condition holds passes them (R119; log 36). -/
  sync (s : State) : State :=
    let word := key / 8 * 8
    if s.syncReady r word then (s.doSync r word).serveWord word
    else s.addSync word r
  /-- A wait on a generation or a count: over at once, or a waiter (R137, R138, R95). -/
  wait (s : State) : State :=
    if s.waitOver key (.req r.id) then s.endWait key (.req r.id) else s.addWaiter key r

/-! ## Lines brought to the core -/

/-- The line of a key as the home has it. -/
def State.lineAt (s : State) (va key : Nat) (kind : LineKind) (t : Nat) : Line :=
  let k := key / 128 * 128
  { line := va / 128, key := k, kind := kind, dirty := false, data := BitVec.ofNat 1024 (s.getN k 128), used := s.now,
    siBy := if kind = .si then [t] else [], dirtyBy := [], launchSeq := 0, lci := 0, aop := 0, words := 0 }

/-- The type of a core's access at the page of its address (R40), where the page is mapped. -/
def State.typeAt (s : State) (c va : Nat) (typ : BitVec 2) : BitVec 2 :=
  match s.walk va with
  | .ok (pg, _) => BitVec.ofNat 2 (s.effType c typ pg)
  | .error _ => typ

/-- The line that may serve a load at the core: OW for an OW load, OW or WT for WT, any but a partial line for a plain SI load
(R39, R145). -/
def Core.loadLine (c : Core) (va : Nat) (typ : BitVec 2) (acq : Bool) : Option Line :=
  c.lines.find? (fun l => l.line == va / 128 &&
    (match l.kind with
     | .ow => typ != 3
     | .wt => typ == 1 || typ == 2
     | .si => typ == 2 && !acq
     | .partialSum => false))

/-- Bytes of a line. -/
def Line.bytes (l : Line) (off n : Nat) : List Byte := natToBytes n (bits l.data.toNat (8 * (off + n) - 1) (8 * off))

/-- A line that serves a load of a thread: it is the set's latest used, and an SI copy is the thread's too (R38, R145). -/
def State.useLine (s : State) (t : Nat) (l : Line) : State :=
  let hit : Line → Line := fun y =>
    { y with used := s.now, siBy := if y.kind == .si && !y.siBy.contains t then y.siBy ++ [t] else y.siBy }
  s.updCore (coreOf t) (fun x => { x with lines := updEach (fun y => y.line == l.line && y.kind == l.kind) hit x.lines })

/-- The line of a load that misses, brought to the thread's core by its home with the kind of its type (R39; log 12). -/
def State.fetchLine (s : State) (t va key typ : Nat) : State :=
  let c := coreOf t
  let s1 := ((s.recall key (typ = 0) none).dropLine c (key / 128 * 128) (fun _ => true)).eccRead (key / 128 * 128) 128 (s.keyDetail t)
  s1.install c (s1.lineAt va key (if typ = 0 then .ow else if typ = 1 then .wt else .si) t)

/-- A cached load performed at the home: the line comes to the core (R39; log 12). -/
def State.cachedLoad (s : State) (r : Req) (va key n : Nat) (sg : Bool) (typ : Nat) : State :=
  let s1 := s.fetchLine r.tid va key typ
  (s1.served r key 0).reply { r with state := .performed, val := BitVec.ofNat 1024 (loadValue n sg (s1.getN key n)).toNat }

/-- A store written into a line that its core holds as OW (R39). -/
def Line.store (l : Line) (off : Nat) (b : List Byte) (t now : Nat) : Line :=
  { l with data := State.updateCopy.patch l.data off b, dirty := true, used := now,
           dirtyBy := if l.dirtyBy.contains t then l.dirtyBy else l.dirtyBy ++ [t],
           words := l.words ||| BitVec.ofNat 32 (2 ^ (off / 4)) ||| BitVec.ofNat 32 (2 ^ ((off + b.length - 1) / 4)) }

/-- The OW line that takes a store of type `typ` at the core. -/
def Core.storeLine (c : Core) (va : Nat) (typ : BitVec 2) : Option Line :=
  if typ = 0 then c.lines.find? (fun l => l.line == va / 128 && l.kind == .ow) else none

/-- A store into an OW line that the thread's core holds. -/
def State.storeHit (s : State) (t va : Nat) (l : Line) (b : List Byte) : State :=
  let c := coreOf t
  let key := l.key + va % 128
  let s1 := (s.noteLine l (va % 128) b.length).updCore c (fun x => { x with lines := updEach (fun y => y.line == l.line && y.kind == .ow) (fun y => y.store (va % 128) b t s.now) x.lines })
  ((s1.breakResv (key / 128) none).noteWrite t key false none false).lineStored c key b.length

/-- An OW store that misses: its home brings the line to the core exclusively, and the line takes the bytes (R39; log 12). -/
def State.fetchStore (s : State) (t va key : Nat) (b : List Byte) (rel : Bool) (ord : Option Nat) : State :=
  let c := coreOf t
  let k := key / 128 * 128
  let s1 := (s.recall key true none).dropLine c k (fun _ => true)
  let s2 := ((s1.breakResv (key / 128) none).noteWrite t key rel ord false).eccRead k 128 (s.keyDetail t) |>.noteOld key b.length
  (s2.install c ((s2.lineAt va key .ow t).store (key - k) b t s.now)).lineStored c key b.length

/-- An OW store performed at the home. -/
def State.cachedStore (s : State) (r : Req) (va key n : Nat) (v : Word) : State :=
  (s.fetchStore r.tid va key (natToBytes n v.toNat) r.rel r.ord).reply { r with state := .performed }

/-! ## Reads and writes of several pieces -/

/-- How one word of an access of several ends: with bytes read, written, refused by SIB_LIMIT (R165), refused with an error, or held for the
proctor (R161). -/
inductive WordEnd where
  | read (b : List Byte)
  | wrote
  | full
  | bad
deriving DecidableEq, Repr

/-! ## Hotness samples -/

/-- Every Nth access a slice serves writes a hotness sample (R370). -/
def State.sample (s : State) (slice va core slot typ part : Nat) : State :=
  let d := slice / 16
  let hctl := (s.die d).hctl.toNat
  if !bit hctl 8 then s
  else
    let n := (s.slice slice).samples + 1
    if n < 2 ^ (hctl % 32) then s.updSlice slice (fun x => { x with samples := n })
    else
      let s1 := s.updSlice slice (fun x => { x with samples := 0 })
      let q := (s1.die d).hr
      if q.full then s1.updDie d (fun x => { x with hdrop := x.hdrop + 1 })
      else
        let who := core + 2 ^ 12 * slot + 2 ^ 16 * typ + 2 ^ 19 * part + 2 ^ 25 * (slice % 16)
        (s1.poke (q.slot 32) (record32 va 0 who s.now)).updDie d (fun x => { x with hr := { q with head := q.head + 1 } })

/-! ## The fence of a release -/

/-- The groups that still have to perform an access of a thread, or words of it (R134, R135). -/
def State.openGroups (s : State) (r : Req) : List Nat :=
  if r.words.isEmpty then [s.groupOf (coreOf r.tid) r.place]
  else (r.words.filter (fun p => p.state == .going || p.state == .parked)).map (fun p => s.groupOf (coreOf r.tid) p.place)

/-- The fence of a release of cluster scope or wider (R110, R135): the thread's dirty OW lines are written back, and the groups
that stay in `TBANKS` are those of its accesses that are not performed yet. -/
def State.releaseFence (s : State) (t : Nat) : State :=
  let s1 := s.writeBackThread t
  let own := s1.reqs.filter (fun q => q.tid == t && q.epoch == (s1.thread t).epoch && q.open)
  s1.updThread t (fun x => { x with tbanks := (own.flatMap (fun q => s1.openGroups q)).foldl (fun m g => m ||| groupBit g) 0 })

/-! ## An access at its home -/

/-- The operations that a sibling or accumulate page refuses, and those that only a page of their own kind takes (R166, R169). -/
def MemOp.plain (op : MemOp) : Bool :=
  match op with
  | .load .. => true | .store .. => true | .flush _ => true | .flushAll => true | _ => false

/-- Versioned operations (R129-R131) at a SIB word by the step `ev`; one that the proctor serves comes again (R161). -/
def State.versioned (s : State) (r : Req) (slice key : Nat) (ev : Instr) : State :=
  let w := s.sib slice key r.va.toNat
  let sibs := sortSibs w.live
  let mem := BitVec.ofNat 64 (s.getN key 8)
  let vals := if sibs.isEmpty then [mem] else sibs.map (fun x => x.value)
  let obs : Sibling → Bool := observed (ctxPoint r.vctx w.name)
  let err := fun (s : State) => s.failAt r slice r.va.toNat 6
  let done := fun (s : State) (v : BitVec 1024) (c : VCtx) => (s.served r key 0).reply { r with state := .performed, val := v, newCtx := c }
  match r.op with
  | .ldv => s.sibGate slice key ev 0 err (fun s => done s (BitVec.ofNat 1024 vals.length) (mkCtx w.name w.seq))
  | .ldvv =>
    let v := ofLanes (fun i => if i = 16 then BitVec.ofNat 32 vals.length
      else if i < 16 then ((vals.getD (i / 2) 0).extractLsb' (32 * (i % 2)) 32) else 0)
    s.sibGate slice key ev 0 err (fun s => done s v (mkCtx w.name w.seq))
  | .stv v =>
    match s.writerOf r.tid with
    | none => err s
    | some wr =>
      match sibWrite w wr obs false v s.now with
      | some w' =>
        s.sibGate slice key ev (max 1 w'.live.length) err (fun s =>
          done ((s.noteWrite r.tid key false none false).putSib slice key r.va.toNat w') 0 (mkCtx w.name w'.seq))
      | none => s.sibGate slice key ev 0 err (fun s => done (s.logError (slice / 16) 5 0 slice r.va.toNat (s.keyDetail r.tid)) 1 r.vctx)
  | .recon op b =>
    match s.writerOf r.tid with
    | none => err s
    | some wr =>
      let v := reconValue op vals (vals.headD 0) (vals.getLastD 0) b
      match sibWrite w wr obs true v s.now with
      | some w' => s.sibGate slice key ev 1 err (fun s =>
          done ((s.noteWrite r.tid key false none true).putSib slice key r.va.toNat w') (BitVec.ofNat 1024 v.toNat) (mkCtx w.name w'.seq))
      | none => err s
  | _ => err s

/-- Whether an operation is an atomic of R123, R127. -/
def MemOp.isAmo (op : MemOp) : Bool := match op with | .amo .. => true | .famo .. => true | _ => false

/-- Whether an operation is a synchronising form (R118). -/
def MemOp.isSync (op : MemOp) : Bool := match op with | .ldf => true | .ldtk => true | .stf _ => true | _ => false

/-- An access to one word of a page at its home slice, translation in hand. The header atomics of `SPAWN` and `EXIT` on a host page without SYSATOM
end in an error response, so in BUS_ERROR (DESIGN CHOICE, log 61: R94 and R96 name no ATOM_SCOPE). -/
def State.atHome (s : State) (r : Req) (pg : Page) (va : Nat) (forced : Option Bool) : State :=
  let slice := homeOf pg va
  let key := pg.key
  let kind := s.hostKind pg
  let typ := s.effType (coreOf r.tid) r.typ pg
  let err := fun (s : State) => s.failAt r slice va 6
  let own := some (coreOf r.tid)
  let ev := r.event 0
  let s := if r.op.reads && !(match r.op with | .load .. => decide (typ ≤ 2) | _ => false) then s.evictSI (coreOf r.tid) key else s
  if let some (part, off) := s.notifyPart pg then s.notifyAccess r key part off err
  else if pg.place = 2 ∧ kind = 0 then err s
  else if s.pageDead pg va then err s
  else if kind = 3 then
    match r.op with
    | .store n v =>
      let rop := bits (s.windowEntry pg.pa) 32 30
      let word := (pg.pa / 2 ^ 42) * 2 ^ 42 + pg.pa % 2 ^ 42
      let again := s.reductions.any (fun e => e.1 == word && e.2.1 == s.modnum) ||
        s.pend.any (fun e => match e.2 with
          | .reductionContribution w o m _ => w == pg.pa / 2 ^ 42 && o == pg.pa % 2 ^ 42 && m == s.modnum
          | _ => false)
      -- a contribution is a release of system scope (R406)
      if s.held { r with rel := true } then s.again ev
      else if n = foldSize rop && !again then
        let s := s.releaseFence r.tid
        ((s.after 0 (.reductionContribution (pg.pa / 2 ^ 42) (pg.pa % 2 ^ 42) s.modnum v))).reply { r with state := .performed }
      else err s
    | _ => err s
  else if pg.sib then
    match r.op with
    | .load n sg =>
      s.sibGate slice key ev 0 err (fun s =>
        (s.served r key 0).reply { r with state := .performed, val := BitVec.ofNat 1024 (loadValue n sg (s.getN key n)).toNat })
    | .store n v =>
      if n ≠ 8 then err s
      else match s.writerOf r.tid with
        | none => err s
        | some w =>
          s.sibStore ev slice key va w v err
            (fun s => (s.logError (slice / 16) 5 0 slice va (s.keyDetail r.tid)).reply { r with state := .performed, sib := some r.va })
            (fun s => (s.noteWrite r.tid key r.rel r.ord false).reply { r with state := .performed })
    | .flush _ => s.reply { r with state := .performed }
    | .joinRead => s.sibGate slice key ev 0 err (fun s => s.atKey r key forced)
    | .linkRead => s.sibGate slice key ev 0 err (fun s => s.atKey r key forced)
    | _ => s.versioned r slice key ev
  else
    match r.op with
    | .ldv => err s
    | .ldvv => err s
    | .stv _ => err s
    | .recon .. => err s
    | .red w v =>
      if pg.accum && foldSize pg.aop = amoSize w then (s.foldAt r.tid va key pg.aop v).reply { r with state := .performed } else err s
    | .load n sg =>
      if pg.accum then ((s.recall key false none).combineLine slice key pg.aop).atKey r key forced
      else if typ ≤ 2 then s.cachedLoad r va key n sg typ
      else (s.recall key false none).atKey r key forced
    | .store n v =>
      if pg.accum then ((s.recall key true none).combineLine slice key pg.aop).atKey r key forced
      else if typ = 0 then s.cachedStore r va key n v
      else (s.recall key true own).atKey r key forced
    | op =>
      if pg.accum then
        match op with
        | .joinRead => ((s.recall key false none).combineLine slice key pg.aop).atKey r key forced
        | .linkRead => ((s.recall key false none).combineLine slice key pg.aop).atKey r key forced
        | _ => err s
      else if !s.hasBits pg && op.isSync then err s
      else if kind = 1 then
        match op with
        | .lres => (s.recall key true own).atKey r key forced
        | .scond _ => (s.recall key true own).atKey r key forced
        | .linkRead => (s.recall key false none).atKey r key forced
        | .joinRead => (s.recall key false none).atKey r key forced
        | .startZero => (s.recall key true own).atKey r key forced
        | _ =>
          let e := s.windowEntry pg.pa
          let native := match op with | .famo .. => bit e 22 | _ => bit e 23
          if !pg.sysatom then (s.served r key 0).reply { r with state := if op.isAmo then .refused else .failed, errAddr := r.va }
          else if native then (s.recall key true own).atKey r key forced
          else if bit e 24 then (s.recall key true own).after 0 (.sysatomCasLoop r.id)
          else err s
      else (s.recall key true own).atKey r key forced

/-- An access that a slice serves, counted and sampled (R366, R370); on chip nothing. -/
def State.servedFor (s : State) (core slot part va typ : Nat) : State :=
  if !isGlobal va then s
  else match s.walk va with
    | .ok (pg, _) =>
      let slice := homeOf pg va
      if pg.peer ≠ 0 then s else (s.countPage slice va pg (dieOf core)).sample slice va core slot typ part
    | .error _ => s

/-! ## Words of an access of several -/

/-- Bytes of one word read for a thread: from the data cache, with its line brought there where it is absent (R39), or at its bank or home, which
counts the access (R366, R370); combined on an accumulate page (R169); an error by R414, R403. The answer goes to `k`. -/
def State.readWord (s0 : State) (t : Nat) (q : Place) (n : Nat) (typ : BitVec 2) (ev : Instr) (k : WordEnd → State → State) : State :=
  match q with
  | .global va =>
    match s0.walk va with
    | .error _ => k .bad s0
    | .ok (pg, _) =>
      let e := s0.effType (coreOf t) typ pg
      match (if e ≤ 2 then (s0.core (coreOf t)).loadLine va (BitVec.ofNat 2 e) false else none) with
      | some l => k (.read (l.bytes (va % 128) n)) (s0.useLine t l)
      | none =>
        let got := fun (s : State) =>
          if s.eccBad pg.key n then k .bad (s.eccRead pg.key n (s.keyDetail t))
          else
            let s1 := (if e ≤ 2 then s.fetchLine t va pg.key e else (s.recall pg.key false none).evictSI (coreOf t) pg.key).eccRead pg.key n (s.keyDetail t)
            let s2 := if pg.accum then s1.combineLine (homeOf pg va) pg.key pg.aop else s1
            k (.read (s2.peek pg.key n)) s2
        let s := s0.servedFor (coreOf t) (slotOf t) (s0.thread t).part va 0
        if s.hostBad pg va || (pg.sib && pg.accum) then k .bad s
        else if pg.sib then s.sibGate (homeOf pg va) (pg.key / 8 * 8) ev 0 (k .bad) got
        else got s
  | p =>
    let s1 := s0.eccRead p.chipKey n (s0.keyDetail t)
    if s0.eccBad p.chipKey n then k .bad s1 else k (.read (s0.peek p.chipKey n)) s1

/-- Bytes of one word written for a thread: into its OW line, which comes to the core where it is absent (R39), or at its bank or home, which
counts the access; on a sibling page only a whole word is accepted, as a write by R163 (R166). The answer goes to `k`. -/
def State.writeWord (s0 : State) (t : Nat) (q : Place) (l : List Byte) (typ : BitVec 2) (ev : Instr) (k : WordEnd → State → State) : State :=
  match q with
  | .global va =>
    match s0.walk va with
    | .error _ => k .bad s0
    | .ok (pg, _) =>
      let slice := homeOf pg va
      match (if s0.effType (coreOf t) typ pg = 0 then (s0.core (coreOf t)).storeLine va 0 else none) with
      | some y => k .wrote (s0.storeHit t va y l)
      | none =>
        let s := s0.servedFor (coreOf t) (slotOf t) (s0.thread t).part va 1
        if s.hostBad pg va || (pg.sib && pg.accum) then k .bad s
        else if pg.sib then
          match s.writerOf t with
          | some w =>
            if l.length = 8 then
              s.sibStore ev slice pg.key va w (BitVec.ofNat 64 (bytesToNat l)) (k .bad)
                (fun s => k .full (s.logError (slice / 16) 5 0 slice va (s.keyDetail t)))
                (fun s => k .wrote (s.noteWrite t pg.key false none false))
            else k .bad s
          | none => k .bad s
        else if s.effType (coreOf t) typ pg = 0 then k .wrote (s.fetchStore t va pg.key l false none)
        else
          let s0 := s.recall pg.key true (some (coreOf t))
          let s1 := if pg.accum then s0.combineLine slice pg.key pg.aop else s0
          k .wrote (((s1.noteWrite t pg.key false none false).bankWrite pg.key l).updateCopy (coreOf t) pg.key l)
  | p => k .wrote ((s0.noteWrite t p.chipKey false none false).bankWrite p.chipKey l)

/-- The class of an access in a hotness sample (R370). -/
def MemOp.sampleKind (op : MemOp) : Nat := match op.faultKind with | 0 => 0 | 1 => 1 | _ => 2

/-- Whether member `f` passes a QEVAL condition against `v` (R223). -/
def qevalHolds (cond : Nat) (f v : BitVec 32) : Bool :=
  match cond with
  | 0 => f == v
  | 1 => f != v
  | 2 => f.slt v
  | 3 => !f.slt v
  | 4 => f.ult v
  | 5 => !f.ult v
  | 6 => ltV (f32 f) (f32 v)
  | 7 => !(f32 f).isNaN && !(f32 v).isNaN && !ltV (f32 f) (f32 v)
  | 8 => f &&& v != 0
  | _ => f &&& v == 0

/-- One element of a decoded CB2 block (R206): a signed integer, or the scaled FP32 value. -/
def cb2Lane (ints : Bool) (index entry j scale : Nat) : BitVec 32 :=
  let x := cb2Elem index entry j
  if ints then BitVec.ofInt 32 (if x.1 then -(x.2 : Int) else x.2)
  else if scale = 255 then nan32
  else rne32 (.fin x.1 x.2 ((scale : Int) - 128))

/-- The decoded block of `VCBD` and `VCBDI`, lane `8q + j` from entry `q` (R206); inactive lanes take `keep`. -/
def cb2Block (block : Vec) (entries : List Nat) (ints : Bool) (active : BitVec 32) (keep : Vec) : Vec :=
  ofLanes (fun i =>
    if active.getLsbD i then
      let q := i / 8
      cb2Lane ints (bits (lane block (q / 2)).toNat (16 * (q % 2) + 15) (16 * (q % 2))) (entries.getD q 0) (i % 8) ((lane block 2).toNat % 256)
    else lane keep i)

/-- The stores of a vector's lanes: two lanes of one aligned word are one write of the whole word (R166). The addresses differ. -/
def pairLanes (l : List (Nat × BitVec 32)) : List (Nat × List Byte) :=
  l.filterMap (fun e =>
    let other := if e.1 % 8 = 0 then e.1 + 4 else e.1 - 4
    match l.find? (fun x => x.1 = other) with
    | some x => if e.1 % 8 = 0 then some (e.1, natToBytes 4 e.2.toNat ++ natToBytes 4 x.2.toNat) else none
    | none => some (e.1, natToBytes 4 e.2.toNat))

/-- The lanes of a store, keeping of each element only its highest-numbered lane (R199). -/
def lastLanes (l : List (Nat × Nat)) : List (Nat × Nat) :=
  l.filter (fun e => !l.any (fun x => x.2 == e.2 && decide (e.1 < x.1)))

end Sys2Proof.Machine
end

