-- ==== Sys2Proof/Machine/Access.lean ====
section
/-!
DEFINITION. An access from its issue to its reply (06 R108-R110, R114, R140): posting a long access, its bank or home performing
it, and what its reply does at the core (02 R22, R24).
-/

namespace Sys2Proof.Machine

/-! ## Issue -/

/-- The count of a class of outstanding operations (R140). -/
def Thread.count (t : Thread) (c : CountClass) : Nat :=
  match c with | .loads => t.loads | .stores => t.stores | .none => 0

/-- A class's count changed by one. -/
def Thread.countUp (t : Thread) (c : CountClass) : Thread :=
  match c with | .loads => { t with loads := t.loads + 1 } | .stores => { t with stores := t.stores + 1 } | .none => t
def Thread.countDown (t : Thread) (c : CountClass) : Thread :=
  match c with | .loads => { t with loads := t.loads - 1 } | .stores => { t with stores := t.stores - 1 } | .none => t

/-- An access that leaves the core (R108): it is counted, its destinations turn PENDING, its groups are touched (R134), and an acquire holds later
accesses. The answer is the access with its number. -/
def State.leave (s : State) (r0 : Req) (groups : List Nat) : Req × State :=
  let id := s.nextId
  let r := { r0 with id := id, tid := s.cur, epoch := s.me.epoch, issued := s.now }
  let s1 := { s with nextId := id + 1, reqs := s.reqs ++ [r] }
  let s2 := s1.upd (fun t =>
    let t1 := t.countUp r.cls
    let t2 := match r.dst with | some d => t1.pendReg d | none => t1
    let t3 := match r.ctxReg with | some k => t2.pendReg (cRef k) | none => t2
    { t3 with acquires := if r.acq then t3.acquires ++ [id] else t3.acquires })
  (r, groups.foldl (fun s g => s.touch s.cur g) s2)

/-- Whether an atomic waits for the end of its interval: a long one at FIXED (R126). -/
def Req.longBatch (r : Req) : Bool := r.op.batched && !r.short

/-- A long access of one word leaves the core (R108): it reaches its bank or home within half of R46's bound, or in `delay` cycles. At FIXED a
long atomic waits for the end of its interval (R126). -/
def State.postIn (delay : Option Nat) (s : State) (r0 : Req) : State :=
  let (r, s1) := s.leave r0 [s.groupOf (coreOf s.cur) r0.place]
  if s.myLevel = 3 && r.longBatch then
    let k := s.now / Config.interval
    { s1 with batch := s1.batch ++ [(k, r.id)] }.afterOnce (Config.interval * (k + 1) - s.now) (.atomicIntervalEnd k)
  else s1.after (delay.getD (halfUp (s.bound r))) (r.event 0)

/-- A long access leaves the core with R46's own time. -/
def State.post (s : State) (r : Req) : State := s.postIn none r

/-- A memory access at issue, after its checks: it parks while an earlier acquire is not performed (R110) or its class has 62
outstanding (R140). -/
def memIssue (cls : CountClass) (k : State → State) (s : State) : State :=
  if !s.me.acquires.isEmpty then s.parkOn .acquire
  else if cls ≠ .none ∧ s.me.count cls ≥ Config.maxOutstanding then s.parkOn .count
  else k s

/-- A long access with its ordinal, if it takes one (R393): loggable, a release, or neither. -/
def postAccess (len : Nat) (r : Req) (s : State) : State :=
  match recKind r.op r.acq with
  | some (typ, op) =>
    loggable len typ op (s.recordObj r) (fun o => o % 4 = op) (r.acq && r.op.isAmo) (fun ord s => (s.post { r with ord := ord }).advance len) s
  | none =>
    if r.rel then ordinal len (fun ord s => (s.post { r with ord := ord }).advance len) s
    else (s.post r).advance len

/-! ## Accesses of several words (R36, R198, R199, R206, R213, R223) -/

/-- The register that a load of several words fills: each lane from the word that holds its element (R190, R191). -/
def mergeLanes (l : List (Nat × Nat)) (ws : List Piece) (keep : Vec) : Vec :=
  ofLanes (fun i =>
    match l.find? (fun e => e.1 = i) with
    | some e =>
      match ws.find? (fun p => decide (p.va ≤ e.2) && decide (e.2 + 4 ≤ p.va + p.len)) with
      | some p => BitVec.ofNat 32 (bytesToNat ((p.data.drop (e.2 - p.va)).take 4))
      | none => 0
    | none => lane keep i)

/-- The words of the lanes of a load: lanes that name one 8-byte word are one access (R199). -/
def laneWords (l : List (Nat × Nat)) : List Piece :=
  (l.map (fun e => e.2 / 8)).eraseDups.map (fun w =>
    let mine := (l.filter (fun e => e.2 / 8 == w)).map (fun e => e.2)
    let low := mine.foldl min (8 * w + 4)
    { va := low, len := if mine.any (fun a => a != low) then 8 else 4 })

/-- The words that an access of several words names, in the order of its lanes, members or words. -/
def MemOp.wordsAt (op : MemOp) (va : Nat) : List Piece :=
  match op with
  | .lanesLoad l _ => laneWords l
  | .lanesStore l d => (pairLanes ((lastLanes l).map (fun e => (e.2, lane d e.1)))).map (fun e => { va := e.1, len := e.2.length, data := e.2 })
  | .setLoad => (List.range 16).map (fun i => { va := va + 8 * i, len := 8 })
  | .setStore v => (List.range 16).map (fun i => { va := va + 8 * i, len := 8, data := natToBytes 8 (dword v i).toNat })
  | .eval _ set _ size => ((List.range 1024).filter (fun q => set.getLsbD q)).map (fun q => { va := va + q * size, len := 4 })
  | .codebook block _ _ _ =>
    (List.range 4).map (fun q => { va := va + 4 * (bits (lane block (q / 2)).toNat (16 * (q % 2) + 7) (16 * (q % 2))), len := 4 })
  | _ => []

/-- The value that an access of several words brings back, from its words. -/
def MemOp.valueOf (op : MemOp) (ws : List Piece) : BitVec 1024 :=
  match op with
  | .lanesLoad l keep => mergeLanes l ws keep
  | .setLoad => BitVec.ofNat 1024 (bytesToNat (ws.flatMap (fun p => p.data)))
  | .eval c set v _ =>
    let qs := (List.range 1024).filter (fun q => set.getLsbD q)
    BitVec.ofNat 1024 (((qs.zip ws).filter (fun e => qevalHolds c.toNat (BitVec.ofNat 32 (bytesToNat e.2.data)) v)).foldl (fun n e => n + 2 ^ e.1) 0)
  | .codebook b ints act keep => cb2Block b (ws.map (fun p => bytesToNat p.data)) ints act keep
  | _ => 0

/-- The address of the lowest-numbered lane that a word which failed serves (R191); of the other forms the word's own. -/
def MemOp.failAddr (op : MemOp) (p : Piece) : Nat :=
  match op with
  | .lanesLoad l _ => go l
  | .lanesStore l _ => go l
  | _ => p.va
where
  go (l : List (Nat × Nat)) : Nat :=
    match l.find? (fun e => decide (p.va ≤ e.2) && decide (e.2 < p.va + p.len)) with | some e => e.2 | none => p.va

/-- An access of several words as its words leave it: open, performed with its value, or failed at its first failing word (R22, R191). -/
def Req.gathered (r : Req) : Req :=
  if r.words.any (fun p => p.state == .going || p.state == .parked) then r
  else
    let sib := (r.words.find? (fun p => p.full)).map (fun p => BitVec.ofNat 64 p.va)
    match r.words.find? (fun p => p.state == .failed) with
    | some p => { r with state := .failed, errAddr := BitVec.ofNat 64 (r.op.failAddr p), sib := sib }
    | none => { r with state := .performed, val := r.op.valueOf r.words, sib := sib }

/-- The step by which the reply of an access reaches its core. -/
def Req.replyStep (r : Req) : Instr :=
  match r.state with
  | .performed => if r.cls = .stores then .storeAck r.id else .fillLands r.id
  | _ => .errorResponse r.id

/-- A word of an access has ended; its reply is `back` cycles on, and behind the last of them the access ends (R36). -/
def State.endWord (s : State) (id i back : Nat) (f : Piece → Piece) : State :=
  match s.req id with
  | none => s
  | some r =>
    let r1 := { r with words := r.words.modify i f, due := max r.due (s.now + back) }.gathered
    let s1 := s.updReq id (fun _ => r1)
    if r1.state = .going then s1 else s1.after (r1.due - s.now) r1.replyStep

/-- A word with what its bank, home or data cache answered. -/
def Piece.ends (p : Piece) (w : WordEnd) : Piece :=
  match w with
  | .read b => { p with state := .performed, data := b }
  | .wrote => { p with state := .performed }
  | .full => { p with state := .performed, full := true }
  | .bad => { p with state := .failed }

/-- The cycles that carry a word's reply back (R46). -/
def State.wordBack (s : State) (r : Req) (p : Piece) : Nat := r.back.getD (s.boundTo r p.place - halfUp (s.boundTo r p.place))

/-- A word's answer on its way to the core; where its route does not let the reply through, it becomes an error response (R285). -/
def State.answerWord (s : State) (r : Req) (i : Nat) (w : WordEnd) : State :=
  match r.words[i]? with
  | none => s
  | some p =>
    match w, s.routeFault (s.thread r.tid).part (coreOf r.tid) p.place true with
    | .bad, _ => s.endWord r.id i (s.wordBack r p) (fun p => p.ends .bad)
    | _, some u => (s.logRoute { r with place := p.place } u).endWord r.id i (s.wordBack r p) (fun p => p.ends .bad)
    | w, none => s.endWord r.id i (s.wordBack r p) (fun p => p.ends w)

/-- A word's error, logged where its home or port is (R403, R415). -/
def State.failWord (s : State) (r : Req) (i : Nat) : State :=
  match r.words[i]? with
  | none => s
  | some p =>
    let s1 := match p.place with
      | .global va => s.logHome va (faultSlice (dieOf (coreOf r.tid)) va) (s.keyDetail r.tid)
      | _ => s
    s1.answerWord r i .bad

/-- A word read or written for its access, once it has its cycle. -/
def State.moveWord (s : State) (r : Req) (i : Nat) (ev : Instr) : State :=
  match r.words[i]? with
  | none => s
  | some p =>
    let bad := match p.place with
      | .global va => (match s.walk va with | .ok (pg, _) => s.eccBad pg.key p.len | .error _ => false)
      | q => s.eccBad q.chipKey p.len
    let k : WordEnd → State → State := fun w s => match w with
      | .bad => if bad then s.answerWord r i .bad else s.failWord r i
      | w => s.answerWord r i w
    if r.cls = .stores then s.writeWord r.tid p.place p.data r.typ ev k else s.readWord r.tid p.place p.len r.typ ev k

/-- The words that an access names, each with the place to which it leaves the issuing thread's core (R286). -/
def State.wordsOf (s : State) (r : Req) : List Piece :=
  (r.op.wordsAt r.va.toNat).map (fun p => { p with place := (s.resolve s.cur p.va).getD (.global p.va) })

/-- An access of several words leaves the core: word `i` goes on its way with `delay i`, or ends at the data cache where `hit i` says that the
cache holds it (R46). -/
def State.postWords (s : State) (r0 : Req) (hit : Piece → Bool) (delay : Nat → Piece → Nat) : State :=
  let ws := s.wordsOf r0
  let groups := ws.filterMap (fun p => if hit p then none else some (s.groupOf (coreOf s.cur) p.place))
  let (r, s1) := s.leave { r0 with words := ws } groups.eraseDups
  if ws.isEmpty then
    let r1 := r.gathered
    (s1.updReq r.id (fun _ => r1)).after (s.bound r) r1.replyStep
  else
    (ws.zipIdx).foldl (fun (s : State) (e : Piece × Nat) =>
      if hit e.1 then
        let k : WordEnd → State → State := fun w s => s.endWord r.id e.2 Config.cacheHit (fun p => p.ends w)
        if r.cls = .stores then s.writeWord r.tid e.1.place e.1.data r.typ (r.event e.2) k else s.readWord r.tid e.1.place e.1.len r.typ (r.event e.2) k
      else s.after (delay e.2 e.1) (r.event e.2)) s1

/-- Words of the issuing thread's own scratchpad read at issue: the bytes of each, or the first address that fails (R414). -/
def State.readShort (s : State) (l : List (Nat × Nat)) : Except Nat (List (List Byte)) × State :=
  match l with
  | [] => (.ok [], s)
  | (va, n) :: rest =>
    match s.resolve s.cur va with
    | none => (.error va, s)
    | some p =>
      let bad := s.eccBad p.chipKey n
      let x := (s.eccRead p.chipKey n (s.keyDetail s.cur)).readShort rest
      if bad then (.error va, x.2)
      else match x.1 with
        | .ok bs => (.ok (s.peek p.chipKey n :: bs), x.2)
        | .error e => (.error e, x.2)

/-- Words of the issuing thread's own scratchpad written at issue. -/
def State.writeShort (s : State) (l : List (Nat × List Byte)) : State :=
  l.foldl (fun s e => match s.resolve s.cur e.1 with
    | some p => (s.noteWrite s.cur p.chipKey false none false).bankWrite p.chipKey e.2
    | none => s) s

/-- The banks of a short access's words take the next cycle (R47, R240). -/
def State.shortWords (s : State) (l : List Nat) : State :=
  s.takeShort (l.filterMap (fun va => (s.resolve s.cur va).map s.serverOf)).eraseDups

/-! ## Performing -/

/-- A write-back that a thread's cache operation makes: the thread has touched the home's group (R134). -/
def State.writeBackFor (s : State) (t : Nat) (l : Line) : State :=
  if l.kind = .ow ∧ l.dirty then (s.touch t (s.groupOf (coreOf t) (.global (l.line * 128)))).writeBack l else s

/-- A cache operation on the issuing core's line (R122). -/
def State.flushLine (s : State) (r : Req) (keep : Bool) : State :=
  let c := coreOf r.tid
  let line := r.va.toNat / 128
  let ls := (s.core c).lines.filter (fun l => l.line == line && l.kind != .partialSum)
  let s1 := ls.foldl (fun s l => s.writeBackFor r.tid l) s
  let clean : Line → Line := fun l => if l.line == line && l.kind == .ow then { l with dirty := false, dirtyBy := [], words := 0 } else l
  let other : Line → Bool := fun l => !(l.line == line && l.kind != .partialSum)
  let s2 := s1.updCore c (fun x => { x with lines := (if keep then x.lines.map clean else x.lines.filter other) })
  s2.reply { r with state := .performed }

/-- Every dirty line of the issuing core written back and kept (R122). -/
def State.flushAll (s : State) (r : Req) : State :=
  let c := coreOf r.tid
  let s1 := (s.core c).lines.foldl (fun s l => s.writeBackFor r.tid l) s
  let clean : Line → Line := fun l => if l.kind == .ow then { l with dirty := false, dirtyBy := [], words := 0 } else l
  (s1.updCore c (fun x => { x with lines := x.lines.map clean })).reply { r with state := .performed }

/-- The turn of an access at REPLAY (R400): its record's queue, and for an acquire the release it must read. -/
def State.accessTurn (s : State) (r : Req) (key : Nat) : Turn :=
  match recKind r.op r.acq with
  | none => .free
  | some (typ, _) =>
    match s.turnOf (s.thread r.tid).ctx typ (s.recordObj r) (s.actorOf r.tid) r.ord with
    | .mine i rec_ =>
      let want := acqVal (recOp rec_ % 4) (s.releaseOf key)
      if typ = 6 then
        if recVal rec_ = 2 ^ 31 - 1 ∨ (recVal rec_ = want.2 ∧ recOp rec_ = want.1) then .mine i rec_ else .wait
      else if typ = 7 then (if genReached (recVal rec_) ((s.genOf key).toNat % 2 ^ 31) then .mine i rec_ else .wait)
      else if r.acq && r.op.isAmo then
        match (s.ctx (s.thread r.tid).ctx).roll.queues.find? (fun e => recActor e.2.2 = s.actorOf r.tid ∧ recType e.2.2 = 6 ∧ some (recOrd e.2.2) = r.ord) with
        | some (_, _, a) =>
          let w := acqVal 0 (s.releaseOf key)
          if recVal a = 2 ^ 31 - 1 ∨ (recVal a = w.2 ∧ recOp a = w.1) then .mine i rec_ else .wait
        | none => .wait
      else .mine i rec_
    | x => x

/-- The storage key of an access's word, where its page is mapped. -/
def State.keyOfReq (s : State) (r : Req) : Nat :=
  match r.place with
  | .global va => match s.walk va with | .ok (pg, _) => pg.key | .error _ => 0
  | p => p.chipKey

/-- Whether a home slice must fetch a line of HBM for an access (R46), and the state behind the question: at FIXED it depends on the context's own
accesses alone (R299). Which lines a slice holds is a free value (log 5). -/
def State.lineMiss (s : State) (ctx : Nat) : Bool × State :=
  if s.levelOf ctx = 3 then
    (Config.fixedMiss (s.ctx ctx).served, { s with ctxs := tput {} s.ctxs ctx { s.ctx ctx with served := (s.ctx ctx).served + 1 } })
  else (Config.lineMiss s.free, s.nextFree)

/-- The ACQ record of an access whose turn at its object has come: its own, or the one behind an acquire AMO's or FAMO's record (R394, R400). -/
def State.acqRecord (s : State) (r : Req) : Option (Nat × RollRecord) :=
  let c := (s.thread r.tid).ctx
  let turn := fun (typ : Nat) => s.turnOf c typ (s.objOf r.place / 8 * 8) (s.actorOf r.tid) r.ord
  match turn 6, turn 3 with
  | .mine i x, _ => some (i, x)
  | _, .mine _ _ =>
    if r.acq && r.op.isAmo then
      ((s.ctx c).roll.queues.find? (fun e => recActor e.2.2 = s.actorOf r.tid ∧ recType e.2.2 = 6 ∧ some (recOrd e.2.2) = r.ord)).map (fun e => e.2)
    else none
  | _, _ => none

/-- An access that is not served yet tries again. At REPLAY an acquire that waits for its release diverges when a write of another
actor lands on its word first (R400). -/
def State.acqWait (s : State) (r : Req) : State :=
  let now := s.releaseOf (s.keyOfReq r)
  match s.acqRecord r with
  | some (i, x) =>
    match r.seen with
    | none => (s.updReq r.id (fun q => { q with seen := some now })).again (r.event 0)
    | some old =>
      if now ≠ old ∧ now.1 % 2 ^ 16 ≠ recReleaser x then
        s.diverge r.tid (some (i, x)) (mkRecord 6 (recOp x % 4) 0 (s.actorOf r.tid) (r.ord.getD 0) (acqVal 0 now).2 (recObj x))
          (fun s => s.again (r.event 0)) (fun a s => s.reply { r with state := .diverged, errAddr := a })
      else s.again (r.event 0)
  | none => s.again (r.event 0)

/-- An access of a context to a global page once its slice has the translation and the line (R46, R361): the step `ev` comes again when the walk
or the fill from HBM ends; `mark` notes that the line is there. A walk and a fill start in the frames of the slice and the channel that the partition
may use (R299). -/
def State.atSlice (s : State) (ctx part va : Nat) (ev : Instr) (line free : Bool) (mark k : State → State) : State :=
  match s.walk va with
  | .error _ => s
  | .ok (pg, levels) =>
    let slice := homeOf pg va
    if free then k s
    else if !s.walkCached slice va ctx then
      if !s.frameOpen (sliceUnit slice) part then s.again ev
      else
        let cost := walkCost (s.levelOf ctx = 3) levels
        (s.cacheWalk pg va ctx (s.now + cost)).after cost ev
    else if line || pg.place ≠ 0 then k s
    else
      let y := s.lineMiss ctx
      if !y.1 then k (mark y.2)
      else if !s.frameOpen (channelUnit slice) part then s.again ev
      else (mark y.2).after Config.hbmMiss ev

/-- Where an access of core `c` to a place parks now: the slice, the address and the cause (R364). -/
def State.faultAt (s : State) (c : Nat) (p : Place) : Option (Nat × Nat × Nat) :=
  match p with
  | .global va => (s.missAt (dieOf c) va).map (fun e => (e.1, va, e.2))
  | _ => none

/-- What loses an access on its way to a place, or, where it faults there, the notice of the fault on its way back (R285, R411). -/
def State.lostOn (s : State) (r : Req) (p : Place) (faults : Bool) : Option (Nat × Nat) :=
  let t := s.thread r.tid
  match s.routeFault t.part (coreOf r.tid) p false with
  | some u => some u
  | none => if faults then s.routeFault t.part (coreOf r.tid) p true else none

/-- The words that are served with word `i` of an access in one cycle of its bank: of a query evaluation the eight members that the evaluator reads
together, as far as their fields lie in this bank (R223; DESIGN CHOICE, log 60). -/
def State.wordBatch (s : State) (r : Req) (i : Nat) (p : Piece) : List Nat :=
  match r.op with
  | .eval .. => ((List.range 8).map (fun n => i / 8 * 8 + n)).filter (fun j => j == i || (match r.words[j]? with
      | some q => q.state == .going && s.serverOf q.place == s.serverOf p.place && !s.heldWord r q
      | none => false))
  | _ => [i]

/-- One word of an access of several at its bank or home (R36): it tries again behind an earlier access of its thread to the word (R109) and while
its page is being invalidated (R365), parks on a page fault by itself (R198), and is served in its turn. -/
def State.performWord (s : State) (r : Req) (i : Nat) (old : Option BankItem) : State :=
  match r.words[i]? with
  | none => s
  | some p =>
    let ev := r.event i
    let t := s.thread r.tid
    if p.state ≠ .going then s
    else if s.heldWord r p || (match p.place with | .global va => s.invalidating va | _ => false) then s.again ev
    else match s.lostOn r p.place (s.faultAt (coreOf r.tid) p.place).isSome with
      | some u => (s.logRoute r u).answerWord r i .bad
      | none =>
        match s.faultAt (coreOf r.tid) p.place with
        | some (slice, va, c) => s.faultReq r i slice va c
        | none =>
          let serve := fun (s : State) => s.atServer old (s.threadItem r.tid .P p.place ev) (fun s =>
            (s.wordBatch r i p).foldl (fun s j => (s.leaveBank (r.event j)).moveWord r j (r.event j)) s)
          match p.place with
          | .global va =>
            s.atSlice t.ctx t.part va ev p.line false
              (fun s => s.updReq r.id (fun x => { x with words := x.words.modify i (fun y => { y with line := true }) })) serve
          | _ => serve s

/-- The bank or home performs an access, or lets it try again: an earlier access of the thread is not performed (R109, R110),
its page is being invalidated (R365), it is not its turn (R400), the walk or a fill is still to be made (R46, R361), or another access has the
cycle (R240). A release first writes back the OW lines its thread wrote (R110). `old` is its place at its server; `free` says that it waits for no
cycle there: the atomics of an interval (R126). A core's name that a held release carries is looked up as it leaves (R286). -/
def State.perform (s : State) (id piece : Nat) (old : Option BankItem) (free : Bool) : State :=
  match s.req id with
  | none => s
  | some r =>
    let ev := r.event 0
    if r.state ≠ .going then s
    else if !r.words.isEmpty then s.performWord r piece old
    else if s.held r then (s.updReq id (fun x => { x with place := (s.resolve x.tid x.va.toNat).getD x.place })).again ev
    else if !r.op.cached && (match r.place with | .global va => s.invalidating va | _ => false) then s.again ev
    else if let some u := s.lostOn r r.place (!r.op.cached && (s.faultAt (coreOf r.tid) r.place).isSome) then
      match s.accessTurn r (s.keyOfReq r) with
      | .wait => s.acqWait r
      | _ => ((s.logRoute r u).served r (s.keyOfReq r) 0).reply { r with state := .failed, errAddr := r.va }
    else
      match (if r.op.cached then none else s.faultAt (coreOf r.tid) r.place) with
      | some (slice, va, c) => s.faultReq r 0 slice va c
      | none =>
        match s.accessTurn r (s.keyOfReq r) with
        | .wait => s.acqWait r
        | .free => go s r none
        | .mine _ rec_ =>
          match r.op with
          | .scond _ => go s r (some (recVal rec_ % 2 = 0))
          | _ => go s r none
where
  /-- The fence that a release of cluster scope or wider makes (R110, R135). -/
  release (s : State) (r : Req) : State := if r.rel && decide (2 ≤ r.scope) then s.releaseFence r.tid else s
  /-- A read of the word that meets an uncorrectable error ends in an error response (R414). -/
  checked (s : State) (r : Req) (key slice : Nat) (k : State → State) : State :=
    let n := match r.pieces with | (_, n) :: _ => n | [] => 8
    if s.ecc.isEmpty || !r.op.reads then k s
    else
      let s1 := s.eccRead key n (s.keyDetail r.tid)
      if s.eccBad key n then s1.failAt r slice r.va.toNat 2 else k s1
  /-- A write of a thread's first frame, whose way takes no time of its own (R346). -/
  startZero (r : Req) : Bool := match r.op with | .startZero => true | _ => false
  /-- Its turn at its server. -/
  turn (s : State) (r : Req) (k : State → State) : State :=
    let f := fun (s : State) => k (release s r)
    if free || startZero r then f s else s.atServer old (s.threadItem r.tid .P r.place (r.event 0)) f
  /-- The access itself, once it may be performed. -/
  go (s : State) (r : Req) (forced : Option Bool) : State :=
    match r.op with
    | .flush keep => (release s r).flushLine r keep
    | .flushAll => (release s r).flushAll r
    | _ =>
      match r.place with
      | .global va =>
        s.atSlice (s.thread r.tid).ctx (s.thread r.tid).part va (r.event 0) r.line (startZero r) (fun s => s.updReq r.id (fun x => { x with line := true })) (fun s =>
          turn s r (fun s =>
            match s.walk va with
            | .error c => s.faultReq r 0 (faultSlice (dieOf (coreOf r.tid)) va) va c
            | .ok (pg, _) =>
              let s1 := s.servedFor (coreOf r.tid) (slotOf r.tid) (s.thread r.tid).part va r.op.sampleKind
              if pg.place = 0 then checked s1 r pg.key (homeOf pg va) (fun s => s.atHome r pg va forced) else s1.atHome r pg va forced))
      | p => turn s r (fun s => checked s r p.chipKey 0 (fun s => s.atKey r p.chipKey forced))

/-! ## Replies at the core -/

/-- Whether the thread that issued an access still lives in its slot (R30). -/
def State.lives (s : State) (r : Req) : Bool := (s.thread r.tid).occupied && (s.thread r.tid).epoch == r.epoch

/-- The end of an acquire at its core: later accesses may leave, and at cluster scope or wider the SI copies go (R110). -/
def State.endAcquire (s : State) (r : Req) : State :=
  if r.acq then
    let s1 := s.updThread r.tid (fun t => { t with acquires := t.acquires.filter (fun i => i != r.id) })
    if 2 ≤ r.scope then s1.dropSI r.tid else s1
  else s

/-- A register that an access fills, if it still awaits a fill (R22). -/
def Thread.fill (t : Thread) (r : RegRef) (v : Nat) : Thread := if (t.stOf r).waits then t.put r v .full else t
/-- A register that an error, a refusal or a divergence leaves VOID with its mark (R22, R125, R325). -/
def Thread.mark (t : Thread) (r : RegRef) (a : Nat) (st : RegState) : Thread := if (t.stOf r).waits then t.put r a st else t

/-- How the reply of a part of an instruction moves its thread on: `SPAWN` awaits two replies, the others one (R94, R218). -/
def Req.phaseAfter (r : Req) (p : Phase) : Phase :=
  match r.op with
  | .frameLink _ => spawned
  | .frameInc => spawned
  | .leave => .left (r.newCtx == 1)
  | .linkRead => p
  | .startZero => p
  | _ => .done
where
  /-- One of the two header replies of a `SPAWN` has come. -/
  spawned : Phase := match p with | .spawn n => .spawn (n - 1) | x => x

/-- The CLOSED reply of a `LEAVE`, which completes it at the reply: it issues no more (R218). The leave of an `EXIT` has flag 1 (R219). -/
def Req.closes (r : Req) : Bool := match r.op with | .leave => r.newCtx == 1 && r.flags == 0 | _ => false

/-- What a `STAND` or `LEAVE` reply does besides its register (R217, R218): an absorbed thread's stand register is empty and it
stands no more; a closed entry's set fills the stand register, unless the `LEAVE` is that of an `EXIT`. -/
def Thread.rollReply (t : Thread) (r : Req) : Thread :=
  match r.op with
  | .stand _ =>
    if r.val = 0 then
      match t.stand with
      | some (_, m) => { t.fill (mRef m) 0 with stand := none }
      | none => t
    else t
  | .leave =>
    match t.stand with
    | some (_, m) => { (if r.newCtx = 1 ∧ r.flags = 0 then t.fill (mRef m) r.val.toNat else t) with stand := none }
    | none => t
  | _ => t

/-- A plain store that SIB_LIMIT refused leaves a held report (R165). -/
def Thread.refusedSib (t : Thread) (r : Req) : Thread :=
  match r.sib with | some a => { t with sibLimit := some (t.sibLimit.getD a) } | none => t

/-- The reply of an access performed (R22, R108): destinations fill, the class counts down, flags of a FAMO are ORed (R127),
an `STV` status of 1 is remembered (R130), a refused plain store leaves a SIB_LIMIT (R165). -/
def State.fillReg (s : State) (id : Nat) : State :=
  match s.req id with
  | none => s
  | some r =>
    let s0 := s.dropReq id
    if !s.lives r then s0
    else
      let s1 := s0.updThread r.tid (fun t =>
        let t1 := match r.dst with | some d => t.fill d r.val.toNat | none => t
        let t2 := match r.ctxReg with | some k => t1.fill (cRef k) r.newCtx.toNat | none => t1
        let t3 := match r.op with
          | .famo .. => t2.raise r.flags
          | .stv _ =>
            if r.val = 1 then
              { t2 with sibUnread := t2.sibUnread ++ [((match r.dst with | some d => if d.idx = 0 then 64 else d.idx | none => 64), r.va)] }
            else t2
          | _ => t2.refusedSib r
        let t4 := { t3.rollReply r with phase := if r.cls = CountClass.none then r.phaseAfter t3.phase else t3.phase,
                                         hold := (match r.op with | .startZero => t3.hold - 1 | _ => t3.hold),
                                         link := match r.op with | .linkRead => BitVec.ofNat 64 r.val.toNat | _ => t3.link }
        (if r.closes then { t4.advance 4 s.now with lastIssue := t4.lastIssue } else t4).countDown r.cls)
      (s1.endAcquire r).wake r.tid

/-- Whether an operation is a register fill: its error is held as a posted-store error too (R285). -/
def MemOp.isFill (op : MemOp) : Bool := match op with | .rfill .. => true | _ => false

/-- The reply of an access that ended in an error, a refusal or a divergence (R22, R114, R125, R325). A posted store's error is
held for the thread, the one whose response comes first (DESIGN CHOICE, log 61: the manual does not say which of several is the earliest); an atomic without a destination holds its ATOM_SCOPE (R125). -/
def State.failReg (s : State) (id : Nat) : State :=
  match s.req id with
  | none => s
  | some r =>
    let s0 := s.dropReq id
    if !s.lives r then s0
    else
      let st : RegState := match r.state with | .refused => .refusalMark | .diverged => .divergeMark | _ => .errorMark
      let s1 := s0.updThread r.tid (fun t =>
        let t1 := match r.dst with | some d => t.mark d r.errAddr.toNat st | none => t
        let t2 := match r.ctxReg with | some k => t1.mark (cRef k) r.errAddr.toNat st | none => t1
        let nowhere := r.dst = none ∨ r.dst = some (gRef 0)
        let t3 := if r.state = .refused ∧ nowhere then { t2 with atomScope := some (t2.atomScope.getD r.errAddr) }
          else if r.state = .diverged ∧ nowhere ∧ r.cls ≠ .none then { t2 with replayDiv := some (t2.replayDiv.getD r.errAddr) }
          else if r.cls = .stores ∨ r.op.isFill then { t2 with storeErr := some (t2.storeErr.getD r.errAddr) } else t2
        let cause := match r.state with | .refused => cATOM_SCOPE | .diverged => cREPLAY_DIV | _ => cBUS_ERROR
        let t3 := match r.op, t3.stand with
          | .stand _, some (_, m) => { t3.mark (mRef m) r.errAddr.toNat st with stand := none }
          | _, _ => t3
        let t4 := { t3 with phase := (match r.op with
                              | .linkRead => t3.phase
                              | .startZero => t3.phase
                              | _ => if r.cls = CountClass.none then .failed cause r.errAddr else t3.phase),
                            hold := (match r.op with | .startZero => t3.hold - 1 | _ => t3.hold),
                            startFault := match r.op with
                              | .linkRead => some (cBUS_ERROR, r.errAddr)
                              | .startZero => some (t3.startFault.getD (cBUS_ERROR, r.errAddr))
                              | _ => t3.startFault }
        (t4.refusedSib r).countDown r.cls)
      (s1.endAcquire r).wake r.tid

end Sys2Proof.Machine
end

