-- ==== Sys2Proof/Machine/Operands.lean ====
section
/-!
DEFINITION. The operand forms (04 R53-R65, R71): which registers a form reads and writes, how its immediate is extended, and
the short instruction over them.
-/

namespace Sys2Proof.Machine

/-- `OP d, a, b` over general registers (R78, R79). -/
def alu3 (f : Word → Word → Word) (b a d : BitVec 6) (s : State) : State :=
  issue { len := 4, srcs := [gRef a.toNat, gRef b.toNat], dsts := [gRef d.toNat] }
    (fun s => s.done 4 (fun t => t.setG d (f (t.gv a) (t.gv b)))) s

/-- `OP d, a` over general registers (R79). -/
def alu2 (f : Word → Word) (a d : BitVec 6) (s : State) : State :=
  issue { len := 4, srcs := [gRef a.toNat], dsts := [gRef d.toNat] } (fun s => s.done 4 (fun t => t.setG d (f (t.gv a)))) s

/-- `OP d, a, imm` with an immediate already extended (R81-R83). -/
def aluImm (f : Word → Word → Word) (imm : Word) (a d : BitVec 6) (s : State) : State :=
  issue { len := 4, srcs := [gRef a.toNat], dsts := [gRef d.toNat] } (fun s => s.done 4 (fun t => t.setG d (f (t.gv a) imm))) s

/-- `OP d, imm`: no source (R84, R85). -/
def setImm (len : Nat) (v : Thread → Word) {n : Nat} (d : BitVec n) (s : State) : State :=
  issue { len := len, dsts := [gRef d.toNat] } (fun s => s.done len (fun t => t.setG d (v t))) s

/-- The 16-bit two-address register form `OP d, s` (R71). -/
def c16Reg (f : Word → Word → Word) (x d : BitVec 5) (s : State) : State :=
  issue { len := 2, srcs := [gRef d.toNat, gRef x.toNat], dsts := [gRef d.toNat] }
    (fun s => s.done 2 (fun t => t.setG d (f (t.gv d) (t.gv x)))) s

/-- The 16-bit two-address immediate form, the immediate already extended (R65, R71). -/
def c16Imm (f : Word → Word → Word) (imm : Word) (d : BitVec 5) (s : State) : State :=
  issue { len := 2, srcs := [gRef d.toNat], dsts := [gRef d.toNat] } (fun s => s.done 2 (fun t => t.setG d (f (t.gv d) imm))) s

/-- Shifts and rotates by the low six bits of an amount (R78, R79). -/
def shlW (a b : Word) : Word := a <<< (b.toNat % 64)
def shrW (a b : Word) : Word := a >>> (b.toNat % 64)
def sarW (a b : Word) : Word := a.sshiftRight (b.toNat % 64)
def rolW (a b : Word) : Word := a.rotateLeft (b.toNat % 64)
def rorW (a b : Word) : Word := a.rotateRight (b.toNat % 64)

/-- A displacement in halfwords from the instruction (R65, R66). -/
def Thread.rel (t : Thread) {n : Nat} (disp : BitVec n) : Word := t.pc + sext disp * 2

/-! ## Scalar loads and stores -/

/-- Whether an access is served inside its short window: 0xF1 on a compute core (R11). -/
def Place.short (p : Place) (va : Word) : Bool := match p with | .core .. => isShort1 va.toNat | _ => false

/-- The acquire and release of a two-bit ord field (R57, R113). -/
def isAcq (o : BitVec 2) : Bool := o == 1 || o == 3
def isRel (o : BitVec 2) : Bool := o == 2 || o == 3

/-- Whether an earlier access of the issuing thread to the word, or a cache operation on its line, is still on its way (R109, R122). -/
def State.busyWord (s : State) (va : Nat) : Bool :=
  s.reqs.any (fun q => q.tid == s.cur && q.open && q.accessWords.contains (s.wordKey s.cur va))

/-- Whether an earlier short access of the issuing thread still waits (R147). -/
def State.shortOpen (s : State) : Bool := s.reqs.any (fun q => q.tid == s.cur && q.open && q.short)

/-- Whether a 0xF1 access is performed at issue: no earlier access of the thread to its word is on its way, no earlier short one waits, and for a
release none is on its way at all (R11, R109, R110, R147). -/
def State.atOnce (s : State) (p : Place) (va : Word) (rel : Bool) : Bool :=
  p.short va && !s.busyWord va.toNat && !s.shortOpen && !(rel && s.reqs.any (fun q => q.tid == s.cur && q.open && q.op.accesses))

/-- The words of several addresses are all free for a short access of the issuing thread. -/
def State.padFree (s : State) (vas : List Nat) : Bool := !s.shortOpen && vas.all (fun va => !s.busyWord va)

/-- An access performed at issue, whose bank it takes in the next cycle (R47): its record (R394, R400), the fence of a release and the end of an
acquire (R110). One that its object may not serve yet waits there. `k` gets the outcome that the roll imposes on a `SCOND`. -/
def shortAccess (len : Nat) (r0 : Req) (k : Req → Option Bool → State → State) (s : State) : State :=
  let r := { r0 with tid := s.cur, epoch := s.me.epoch }
  match recKind r.op r.acq with
  | none => if r.rel then ordinal len (fun ord s => go { r with ord := ord } none s) s else go r none s
  | some (typ, op) =>
    loggable len typ op (s.recordObj r) (fun o => o % 4 = op) (r.acq && r.op.isAmo) (fun ord s1 =>
      let r := { r with ord := ord, short := true }
      match s1.accessTurn r r.place.chipKey with
      | .wait => if Config.maxOutstanding ≤ s.me.count r.cls then s.parkOn .count else (s1.post r).advance len
      | .free => go r none s1
      | .mine _ x => go r (some (recVal x % 2 = 0)) s1) s
where
  go (r : Req) (forced : Option Bool) (s : State) : State :=
    let s0 := s.shortWords (r.pieces.flatMap (fun e => (List.range ((e.2 + 7) / 8)).map (fun i => e.1 + 8 * i)))
    let s1 := k r forced (if r.rel && decide (2 ≤ r.scope) then s0.releaseFence s.cur else s0)
    if r.acq && decide (2 ≤ r.scope) then s1.dropSI s.cur else s1

/-- A load at `va`, checked (R112): short in 0xF1, from the data cache on a hit (24 cycles, R46), else at its bank or home. -/
def loadAt (len : Nat) (p : Place) (va : Word) (n : Nat) (sg : Bool) (typ : BitVec 2) (acq rel : Bool) (scope : Nat)
    (d : RegRef) (s : State) : State :=
  let r : Req := { id := 0, tid := 0, epoch := 0, op := .load n sg, va := va, place := p, dst := some d, cls := .loads,
                   acq := acq, rel := rel, scope := scope, typ := typ, short := p.short va }
  let once := s.atOnce p va rel
  memIssue (if once then .none else .loads) (fun s =>
    let c := coreOf s.cur
    if once then
      shortAccess len r (fun r _ s =>
        let s1 := (s.served r p.chipKey 0).eccRead p.chipKey n (s.keyDetail s.cur)
        if s.eccBad p.chipKey n then s1.done len (fun t => t.put d va.toNat .errorMark)
        else s1.done len (fun t => t.put d (loadValue n sg (s.getN p.chipKey n)).toNat .full)) s
    else
      match (if s.busyWord va.toNat ∨ !isGlobal va.toNat ∨ acq ∨ rel ∨ s.shortOpen then none
          else (s.core c).loadLine va.toNat (s.typeAt c va.toNat typ) acq) with
      | some l =>
        let v := loadValue n sg (bytesToNat (l.bytes (va.toNat % 128) n))
        let s1 := s.useLine s.cur l
        let id := s1.nextId
        let q := { r with id := id, tid := s.cur, epoch := s.me.epoch, issued := s.now, state := ReqState.performed, val := BitVec.ofNat 1024 v.toNat }
        (({ s1 with nextId := id + 1, reqs := s1.reqs ++ [q] }.upd (fun t => (t.countUp .loads).pendReg d)).after Config.cacheHit (.fillLands id)).advance len
      | none => postAccess len r s) s

/-- A store at `va`, checked (R112): short in 0xF1, into an OW line that the core holds, else posted. -/
def storeAt (len : Nat) (p : Place) (va : Word) (n : Nat) (v : Word) (typ : BitVec 2) (acq rel : Bool) (scope : Nat) (s : State) : State :=
  let r : Req := { id := 0, tid := 0, epoch := 0, op := .store n v, va := va, place := p, cls := .stores, acq := acq, rel := rel, scope := scope,
                   typ := typ, short := p.short va }
  let once := s.atOnce p va rel
  memIssue (if once then .none else .stores) (fun s =>
    let c := coreOf s.cur
    if once then
      shortAccess len r (fun r _ s => ((s.noteWrite s.cur p.chipKey rel r.ord false).bankWrite p.chipKey (natToBytes n v.toNat)).advance len) s
    else
      match (if s.busyWord va.toNat ∨ !isGlobal va.toNat ∨ acq ∨ rel ∨ s.shortOpen then none else (s.core c).storeLine va.toNat typ) with
      | some l =>
        let s2 := s.storeHit s.cur va.toNat l (natToBytes n v.toNat)
        let id := s2.nextId
        let q := { r with id := id, tid := s.cur, epoch := s.me.epoch, issued := s.now, state := ReqState.performed }
        (({ s2 with nextId := id + 1, reqs := s2.reqs ++ [q] }.upd (fun t => t.countUp .stores)).after
          Config.cacheHit (.storeAck id)).advance len
      | none => postAccess len r s) s

/-- The effective address of an FM access: a + sext(imm9) × size (R112). -/
def fmAddr (t : Thread) (i : BitVec 9) (n : Nat) (a : BitVec 6) : Word := t.gv a + sext i * BitVec.ofNat 64 n

/-- An FM load (R111-R113). -/
def fmLoad (n : Nat) (sg : Bool) (i : BitVec 9) (o q : BitVec 2) (a d : BitVec 6) (s : State) : State :=
  issue { len := 4, legal := ordLoadOk o, srcs := [gRef a.toNat], dsts := [gRef d.toNat] }
    (fun s => checkAddr (fmAddr s.me i n a) n Rights.r 4
      (fun p s => loadAt 4 p (fmAddr s.me i n a) n sg q (isAcq o) (isRel o) 4 (gRef d.toNat) s) s) s

/-- An FM store (R111-R113). -/
def fmStore (n : Nat) (i : BitVec 9) (o q : BitVec 2) (a d : BitVec 6) (s : State) : State :=
  issue { len := 4, legal := ordStoreOk o, srcs := [gRef d.toNat, gRef a.toNat] }
    (fun s => checkAddr (fmAddr s.me i n a) n Rights.w 4
      (fun p s => storeAt 4 p (fmAddr s.me i n a) n (s.me.gv d) q (isAcq o) (isRel o) 4 s) s) s

/-- The address of an indexed access: a + (b << log2 size) (R116). -/
def ixAddr (t : Thread) (n : Nat) (b a : BitVec 6) : Word := t.gv a + t.gv b * BitVec.ofNat 64 n

/-- An indexed load (R116). -/
def ixLoad (n : Nat) (sg : Bool) (q : BitVec 2) (b a d : BitVec 6) (s : State) : State :=
  issue { len := 4, srcs := [gRef a.toNat, gRef b.toNat], dsts := [gRef d.toNat] }
    (fun s => checkAddr (ixAddr s.me n b a) n Rights.r 4
      (fun p s => loadAt 4 p (ixAddr s.me n b a) n sg q false false 4 (gRef d.toNat) s) s) s

/-- An indexed store (R116). -/
def ixStore (n : Nat) (q : BitVec 2) (b a d : BitVec 6) (s : State) : State :=
  issue { len := 4, srcs := [gRef d.toNat, gRef a.toNat, gRef b.toNat] }
    (fun s => checkAddr (ixAddr s.me n b a) n Rights.w 4
      (fun p s => storeAt 4 p (ixAddr s.me n b a) n (s.me.gv d) q false false 4 s) s) s

/-- A scoped load (R117). -/
def scLoad (n : Nat) (q : BitVec 2) (sc : BitVec 3) (o : BitVec 2) (a d : BitVec 6) (s : State) : State :=
  issue { len := 4, legal := scopedLoadOk sc o, srcs := [gRef a.toNat], dsts := [gRef d.toNat] }
    (fun s => checkAddr (s.me.gv a) n Rights.r 4 (fun p s => loadAt 4 p (s.me.gv a) n false q (isAcq o) (isRel o) sc.toNat (gRef d.toNat) s) s) s

/-- A scoped store (R117). -/
def scStore (n : Nat) (q : BitVec 2) (sc : BitVec 3) (o : BitVec 2) (a d : BitVec 6) (s : State) : State :=
  issue { len := 4, legal := scopedStoreOk sc o, srcs := [gRef d.toNat, gRef a.toNat] }
    (fun s => checkAddr (s.me.gv a) n Rights.w 4 (fun p s => storeAt 4 p (s.me.gv a) n (s.me.gv d) q (isAcq o) (isRel o) sc.toNat s) s) s

/-- A 16-bit load at an address (R71). -/
def c16Load (srcs : List RegRef) (ea : Thread → Word) (d : BitVec 5) (s : State) : State :=
  issue { len := 2, srcs := srcs, dsts := [gRef d.toNat] }
    (fun s => checkAddr (ea s.me) 8 Rights.r 2 (fun p s => loadAt 2 p (ea s.me) 8 false 0 false false 4 (gRef d.toNat) s) s) s

/-- A 16-bit store at an address (R71). -/
def c16Store (srcs : List RegRef) (ea : Thread → Word) (d : BitVec 5) (s : State) : State :=
  issue { len := 2, srcs := srcs }
    (fun s => checkAddr (ea s.me) 8 Rights.w 2 (fun p s => storeAt 2 p (ea s.me) 8 (s.me.gv d) 0 false false 4 s) s) s

end Sys2Proof.Machine
end

