-- ==== Sys2Proof/Machine/Atomic.lean ====
section
/-!
DEFINITION. Atomics (06 R123-R127): AMO and FAMO, long at their bank or home, short in 0xF1.
-/

namespace Sys2Proof.Machine

/-- An atomic that is not short: posted, an outstanding load until it is performed (R124, R140). -/
def atomicPost (op : MemOp) (o : BitVec 2) (va : Word) (p : Place) (d : BitVec 6) (s : State) : State :=
  memIssue .loads (postAccess 4 { id := 0, tid := 0, epoch := 0, op := op, va := va, place := p, dst := some (gRef d.toNat), cls := .loads,
                                  acq := isAcq o, rel := isRel o, short := p.short va }) s

/-- An atomic in 0xF1, performed at issue (R124, R126): the new value of the old one, with the flags of a FAMO (R127). -/
def atomicShort (op : MemOp) (wide : Bool) (f : Word → Word × FFlags) (o : BitVec 2) (va : Word) (p : Place) (d : BitVec 6)
    (s : State) : State :=
  memIssue .none (shortAccess 4 { id := 0, tid := 0, epoch := 0, op := op, va := va, place := p, acq := isAcq o, rel := isRel o }
    (fun r _ s =>
      let key := p.chipKey
      let n := amoSize wide
      let old := BitVec.ofNat 64 (s.getN key n)
      let x := f old
      let s := s.eccRead key n (s.keyDetail s.cur)
      if s.eccBad key n then (s.served r key 0).done 4 (fun t => t.put (gRef d.toNat) va.toNat .errorMark)
      else
        (((s.served r key 0).noteWrite s.cur key r.rel r.ord true).bankWrite key (natToBytes n x.1.toNat)).done 4
          (fun t => (t.raise x.2.toBits).setG d old))) s

/-- An AMO (R123, R124): `CAS` reads d too. -/
def atomic (op : BitVec 4) (sz : BitVec 1) (o : BitVec 2) (b a d : BitVec 6) (s : State) : State :=
  issue { len := 4, srcs := (if op = 9 then [gRef d.toNat] else []) ++ [gRef a.toNat, gRef b.toNat], dsts := [gRef d.toNat] }
    (fun s =>
      let va := s.me.gv a
      let wide := sz == 1
      let y := s.me.gv b
      let cmp := if op = 9 then s.me.gv d else 0
      checkAddr va (amoSize wide) Rights.a 4 (fun p s =>
        if s.atOnce p va (isRel o) then atomicShort (.amo op wide y cmp) wide (fun old => (amoValue op wide old y cmp, {})) o va p d s
        else atomicPost (.amo op wide y cmp) o va p d s) s) s

/-- A FAMO (R127). -/
def atomicF (op : BitVec 4) (sz : BitVec 1) (o : BitVec 2) (b a d : BitVec 6) (s : State) : State :=
  issue { len := 4, srcs := [gRef a.toNat, gRef b.toNat], dsts := [gRef d.toNat] }
    (fun s =>
      let va := s.me.gv a
      let wide := sz == 1
      let y := s.me.gv b
      checkAddr va (amoSize wide) Rights.a 4 (fun p s =>
        if s.atOnce p va (isRel o) then atomicShort (.famo op wide y) wide (fun old => famoValue op wide old y) o va p d s
        else atomicPost (.famo op wide y) o va p d s) s) s

/-- R123. AMOADD. -/
def execAmoadd (sz : BitVec 1) (o : BitVec 2) (b a d : BitVec 6) (s : State) : Out := .next (atomic 0 sz o b a d s)
/-- R123. AMOAND. -/
def execAmoand (sz : BitVec 1) (o : BitVec 2) (b a d : BitVec 6) (s : State) : Out := .next (atomic 1 sz o b a d s)
/-- R123. AMOOR. -/
def execAmoor (sz : BitVec 1) (o : BitVec 2) (b a d : BitVec 6) (s : State) : Out := .next (atomic 2 sz o b a d s)
/-- R123. AMOXOR. -/
def execAmoxor (sz : BitVec 1) (o : BitVec 2) (b a d : BitVec 6) (s : State) : Out := .next (atomic 3 sz o b a d s)
/-- R123. AMOMIN. -/
def execAmomin (sz : BitVec 1) (o : BitVec 2) (b a d : BitVec 6) (s : State) : Out := .next (atomic 4 sz o b a d s)
/-- R123. AMOMAX. -/
def execAmomax (sz : BitVec 1) (o : BitVec 2) (b a d : BitVec 6) (s : State) : Out := .next (atomic 5 sz o b a d s)
/-- R123. AMOMINU. -/
def execAmominu (sz : BitVec 1) (o : BitVec 2) (b a d : BitVec 6) (s : State) : Out := .next (atomic 6 sz o b a d s)
/-- R123. AMOMAXU. -/
def execAmomaxu (sz : BitVec 1) (o : BitVec 2) (b a d : BitVec 6) (s : State) : Out := .next (atomic 7 sz o b a d s)
/-- R123. AMOSWAP. -/
def execAmoswap (sz : BitVec 1) (o : BitVec 2) (b a d : BitVec 6) (s : State) : Out := .next (atomic 8 sz o b a d s)
/-- R123. AMOCAS. -/
def execAmocas (sz : BitVec 1) (o : BitVec 2) (b a d : BitVec 6) (s : State) : Out := .next (atomic 9 sz o b a d s)
/-- R127. FAMOADD. -/
def execFamoadd (sz : BitVec 1) (o : BitVec 2) (b a d : BitVec 6) (s : State) : Out := .next (atomicF 0 sz o b a d s)
/-- R127. FAMOMIN. -/
def execFamomin (sz : BitVec 1) (o : BitVec 2) (b a d : BitVec 6) (s : State) : Out := .next (atomicF 1 sz o b a d s)
/-- R127. FAMOMAX. -/
def execFamomax (sz : BitVec 1) (o : BitVec 2) (b a d : BitVec 6) (s : State) : Out := .next (atomicF 2 sz o b a d s)

end Sys2Proof.Machine
end

