-- ==== Sys2Proof/Machine/Threads.lean ====
section
/-!
DEFINITION. How threads begin, take work and end (02 R14-R21, R29, R30; 05 R93, R96), and the code a thread fetches (04 R48-R51).
-/

namespace Sys2Proof.Machine

/-! ## Free slots and the core's own later work -/

/-- The program slots of a core that hold no thread, ascending (R10). -/
def State.freeSlots (s : State) (c : Nat) : List Nat := (List.range 15).filter (fun i => !(s.thread (c * 16 + i)).occupied)

/-- The free program slots that no recorded `SPLIT` waits for (R226). -/
def State.openSlots (s : State) (c : Nat) : List Nat := (s.freeSlots c).filter (fun i => !(s.core c).held.any (fun h => h.1 == i))

/-- Whether a core has a thread, of a program slot or of slot 15. -/
def State.coreBusy (s : State) (c : Nat) : Bool := (List.range 16).any (fun i => (s.thread (c * 16 + i)).occupied)

/-- The deque entries that a core holds in any of its places. -/
def Core.entries (c : Core) : List DequeEntry :=
  c.deque ++ c.dequeOvf ++ c.stolen.toList ++ c.held.map (fun h => h.2) ++
    (match c.steal with | some a => a.carried.toList | none => [])

/-- Whether a launch has a thread, a deque entry or a command left (R30, R347). -/
def State.launchOver (s : State) (n : Nat) : Bool :=
  !s.threads.any (fun e => e.2.occupied && e.2.launch == some n) &&
  !s.cores.any (fun e => e.2.entries.any (fun d => d.launch == some n)) &&
  !s.copies.any (fun c => c.launch == some n) && !s.tileCmds.any (fun c => c.launch == some n) &&
  (match tfind s.launches n with | some l => l.stage == 0 && l.arrived == l.w * l.h | none => false)

/-- A launch that is over is completed by the command processor (R347). -/
def State.checkLaunch (s : State) (n : Option Nat) : State :=
  match n with
  | some k => if s.launchOver k then s.afterOnce 1 (.launchComplete k) else s
  | none => s

/-- The `SPAWN`s of a core that hold an entry of its deque in reserve (R94). -/
def State.spawning (s : State) (c : Nat) : Nat :=
  (s.threads.filter (fun e => coreOf e.1 == c && (match e.2.phase with | .spawn _ => true | _ => false))).length

/-- The launch that runs on a core, and its number. -/
def State.launchOn (s : State) (core : Nat) : Option (Nat × Launch) :=
  s.launches.find? (fun e => e.2.stage == 0 &&
    (let n := s.nameOf core
     decide (e.2.col0 ≤ colOf n) && decide (colOf n < e.2.col0 + e.2.w) && decide (e.2.row0 ≤ rowOf n) && decide (rowOf n < e.2.row0 + e.2.h)) &&
    (match tfind s.parts e.2.part with | some p => p.has core && p.phys (s.nameOf core) == core | none => false) &&
    !s.saved.any (fun v => v.2.phys == core && v.2.part == e.2.part))

/-- The number of that launch. -/
def State.launchAt (s : State) (core : Nat) : Option Nat := (s.launchOn core).map (fun e => e.1)

/-- Whether a core's deque has no entry left beside those that `SPAWN`s on their way hold in reserve (R18, R94). -/
def State.dequeFull (s : State) (c : Nat) : Bool := decide (Config.dequeSize ≤ (s.core c).deque.length + s.spawning c)

/-- Whether a core has a steal attempt of its present launch in flight (R20). -/
def State.stealing (s : State) (c : Nat) : Bool :=
  match (s.core c).steal with
  | some a => s.launchAt c == some a.launch
  | none => false

/-- What a core does on its own once a slot is free or an entry is pushed: a free slot takes the oldest entry of the deque, or a
steal attempt follows 64 idle cycles (R20), and an idle core is gated after 2,048 cycles (R388); a memory core starts its next post (R232). -/
def State.coreWork (s : State) (c : Nat) : State :=
  let x := s.core c
  if (s.freeSlots c).isEmpty then s
  else if isMem c then
    (x.postq ++ x.postOvf).foldl (fun s id => s.afterOnce 0 (.mcpostDelivery id)) s
  else if x.held.any (fun h => (s.freeSlots c).contains h.1) then s.afterOnce 0 (.dequeTake c)
  else if (s.openSlots c).isEmpty then s
  else if !x.deque.isEmpty || x.stolen.isSome then s.afterOnce 0 (.dequeTake c)
  else if !x.dequeOvf.isEmpty then s.afterOnce 1 (.dequeRefill c)
  else
    let counting := s.pend.any (fun e => decide (e.2 = .stealAttempt c)) && decide (1 < (s.openSlots c).length)
    let s1 := if counting || s.stealing c then s else (s.updCore c (fun y => { y with idle := s.now })).afterOnce Config.stealWait (.stealAttempt c)
    if s.coreBusy c then s1 else s1.restCore c

/-! ## Beginnings -/

/-- A new thread of a slot (R14, R23): what the manual does not name is VOID and zero. -/
def newThread (old : Thread) (kind : Kind) (lti : BitVec 32) (part ctx : Nat) (launch : Option Nat) (pc : Word) : Thread :=
  { occupied := true, kind := kind, epoch := old.epoch + 1, lti := lti, part := part, ctx := ctx, launch := launch, pc := pc }

/-- A thread put into a slot. -/
def State.start (s : State) (t : Nat) (th : Thread) : State := (s.wakeCore (coreOf t)).setThread t th

/-- The launch values of QBASE and QREC (R210). -/
def State.launchQ (s : State) (n : Option Nat) : Word × Word :=
  match n with
  | some k => match tfind s.launches k with
    | some l => (l.qbase, BitVec.ofNat 64 (l.size16 * 16))
    | none => (0, 0)
  | none => (0, 0)

/-- The rights of a region for a thread that starts, from its core's PLB (R353, R354): they, the cycles of the refill where it misses, and the
state with the refill on its way. -/
def State.rightFor (s : State) (t va : Nat) : Rights × Nat × State :=
  let c := coreOf t
  if !isGlobal va then ({ r := true, w := true, a := true }, 0, s)
  else match (s.core c).plbFind (regionOf va) with
    | some r => (r, 0, s.updCore c (fun x => x.plbTouch (regionOf va) s.now))
    | none =>
      let r := match s.partOf t with | some p => s.domainRights p.root (regionOf va) | none => {}
      (r, Config.plbRefill, s.afterOnce Config.plbRefill (.plbRefill c t (regionOf va)))

/-- The read of a continuation's join link, mem64[frame − 16], when its entry is taken (R93): a failing header leaves link 0 and
a trap before the first instruction; an access that is on its way parks the slot. -/
def State.readLink (s : State) (t : Nat) (frame : Word) : State :=
  let a := frame - 16
  let bad := fun (c : Nat) => s.updThread t (fun x => { x with startFault := some (c, a) })
  match s.resolve t a.toNat with
  | none => bad cPROT
  | some p =>
    if a.toNat % 8 ≠ 0 then bad cALIGN
    else
      let x := s.rightFor t a.toNat
      if !x.1.a then
        let s1 := x.2.2.updThread t (fun x => { x with startFault := some (cPROT, a) })
        if x.2.1 = 0 then s1 else s1.updThread t (fun y => { y with park := some .plb })
      else
        let r : Req := { id := 0, tid := 0, epoch := 0, op := .linkRead, va := a, place := p }
        let s1 := { x.2.2 with cur := t }.postIn (if x.2.1 = 0 then none else some (x.2.1 + halfUp (s.latency (coreOf t) p))) r
        { s1 with cur := s.cur }.updThread t (fun x => { x with park := some .reply })

/-- A deque entry begins in a slot (R14): as a continuation, or as a split thread when it is a SPLIT entry. -/
def State.startEntry (s : State) (t : Nat) (e : DequeEntry) (part ctx : Nat) : State :=
  let q := s.launchQ e.launch
  let th := newThread (s.thread t) (if e.isSplit then .split else .continuation) e.lti part ctx e.launch e.pc
  let th1 := { th with qbase := q.1, qrec := q.2 }
  if e.isSplit then s.start t { th1 with g := e.regs, m := tput {} [] e.msReg ⟨e.ms, .full⟩ }
  else (s.start t { th1 with g := tput {} [] 2 ⟨e.frame, .full⟩ }).readLink t e.frame

/-- The push of a deque entry as a TAKE record names it: bits 14:0 of the pushing actor, and its ordinal (R394). -/
def State.pushOf (s : State) (e : DequeEntry) : Nat := (s.nameOf e.core * 16 + e.slot) % 2 ^ 15 * 2 ^ 16 + e.ord

/-- A TAKE record (R394): op 0 own-core take, 1 steal, 2 EXIT resume; the deque's core stands in obj. -/
def State.noteTake (s : State) (t op : Nat) (e : DequeEntry) (deque ctx : Nat) : State :=
  if s.recording ctx then s.record ctx (mkRecord 9 op 1 (s.actorOf t) 0 (s.pushOf e) (s.nameOf deque))
  else s

/-- The entry that slot `t` takes from a deque now, and the state without its record: the oldest, or at REPLAY the one whose push the record
at the head of the deque's queue names, if it names this taker (R20, R400). -/
def State.takeTurn (s : State) (t deque ctx op : Nat) : Option (DequeEntry × State) :=
  let l := (s.core deque).deque
  if s.rollFull ctx 9 (s.nameOf deque) then none
  else if !s.replaying ctx then l.head?.map (fun e => (e, s))
  else
    match s.turnOf ctx 9 (s.nameOf deque) (s.actorOf t) none with
    | .mine i r => if recOp r = op then (l.find? (fun e => s.pushOf e = recVal r)).map (fun e => (e, s.unqueue ctx i)) else none
    | _ => none

/-! ## Ends -/

/-- A thread retires and its slot is free (R29, R30): its registers receive no fills any more. -/
def State.retire (s : State) (t : Nat) : State :=
  let th := s.thread t
  let s1 := s.setThread t { epoch := th.epoch + 1 }
  let s1 := match s.copies.find? (fun c => c.prog == some (t, th.epoch)) with
    | some c => s1.after 0 (.copyComplete c.id)
    | none => s1
  let s2 := (s1.coreWork (coreOf t)).checkLaunch th.launch
  if slotOf t = 15 ∧ !(s.core (coreOf t)).msgs.isEmpty then s2.afterOnce 0 (.handlerStart (coreOf t)) else s2

/-! ## Fetch -/

/-- What the fetch of a halfword or an instruction gives. -/
inductive Fetched where
  | code (w len : Nat)
  | trap (cause : Nat) (info : Word) (len : Nat)
  | wait
deriving DecidableEq, Repr

/-- The values that a halfword has had since a core's latest `ICINV` (R51). -/
def State.oldCode (s : State) (c key : Nat) : List (BitVec 16) :=
  ((s.was.take (s.was.length - (s.core c).icinv)).filter (fun e => e.1 == key / 2)).map (fun e => e.2)

/-- A choice among the values that a halfword may have (R51): at FIXED by the number of the context's own accesses (R28). -/
def State.pick (s : State) (ctx : Nat) : Nat × State :=
  if s.levelOf ctx = 3 then (Config.fixedPick (s.ctx ctx).served, s.updCtx ctx (fun x => { x with served := x.served + 1 }))
  else (Config.fetchPick s.free, s.nextFree)

/-- A fetch that tries again `n` cycles on. -/
def State.fetchLater (s : State) (n : Nat) : Fetched × State := (.wait, (s.parkOn .restart).after n (.resourceRestart s.cur))

/-- A fetch that meets a page fault parks at its home (R50, R364). -/
def State.fetchFault (s : State) (slice va cause : Nat) : Fetched × State :=
  let t := s.me
  let item := Parked.fetch s.cur t.epoch
  let s1 := s.parkOn .fetch
  if (s.slice slice).parked.any (fun p => p.items.contains item) then (.wait, s1)
  else (.wait, s1.parkFault slice va cause (faultWho (coreOf s.cur) (slotOf s.cur) 3 false t.part t.ctx (slice % 16) 0) item)

/-- One halfword of code read at its home (R48, R51): the home's bytes, old or new until `ICINV`; `held` says that the core has it from an earlier
fetch. -/
def State.fetchHome (s : State) (pg : Page) (va len : Nat) (held : Bool) : Fetched × State :=
  let c := coreOf s.cur
  if s.hostBad pg va then (.trap cBUS_ERROR (BitVec.ofNat 64 va) len, s.logHome va (faultSlice (dieOf c) va) (s.keyDetail s.cur))
  else if s.eccBad pg.key 2 then (.trap cBUS_ERROR (BitVec.ofNat 64 va) len, s.eccRead pg.key 2 (s.keyDetail s.cur))
  else
    let x := s.pageRead pg va 2
    let new : BitVec 16 := BitVec.ofNat 16 (bytesToNat x.1)
    let s1 := if held then x.2 else x.2.servedFor c (slotOf s.cur) s.me.part va 5
    let keep := fun (v : BitVec 16) (s : State) => s.updCore c (fun y => { y with fetched := tset y.fetched (va / 2) v })
    match s1.oldCode c pg.key with
    | [] => (.code new.toNat len, if tfind (s1.core c).fetched (va / 2) = some new then s1 else keep new s1)
    | l =>
      let n := s1.pick s1.me.ctx
      let v := l.getD n.1 new
      (.code v.toNat len, keep v n.2)

/-- One halfword of code for the issuing thread (R48-R51): right X, its translation (R361), and the way to its home, on which a unit may stop it (R285,
R411). It waits while the page is being invalidated (R365), and on a sibling page for the proctor (R161). -/
def State.fetchHalf (s0 : State) (va len : Nat) : Fetched × State :=
  let c := coreOf s0.cur
  if !isGlobal va then (.trap cPROT (BitVec.ofNat 64 va) len, s0)
  else
    match (s0.core c).plbFind (regionOf va) with
    | none => (.wait, (s0.parkOn .plb).afterOnce Config.plbRefill (.plbRefill c s0.cur (regionOf va)))
    | some r =>
      let s := s0.updCore c (fun y => y.plbTouch (regionOf va) s0.now)
      let held := (tfind (s.core c).fetched (va / 2)).isSome
      let route := fun (back : Bool) => if held then none else s.routeFault s.me.part c (.global va) back
      let lost := fun (u : Nat × Nat) => (Fetched.trap cBUS_ERROR (BitVec.ofNat 64 va) len, s.logUnit s.cur s.me.part c (.global va) u)
      if !r.x then (.trap cPROT (BitVec.ofNat 64 va) len, s)
      else if s.invalidating va then s.fetchLater 1
      else match route false, route true with
        | some u, _ => lost u
        | none, some u => lost u
        | none, none =>
          match s.missAt (dieOf c) va, s.walk va with
          | some (slice, cause), _ => s.fetchFault slice va cause
          | none, .error cause => s.fetchFault (faultSlice (dieOf c) va) va cause
          | none, .ok (pg, levels) =>
            if !held && !s.walkCached (homeOf pg va) va s.me.ctx then
              let cost := walkCost (s.myLevel = 3) levels
              (s.cacheWalk pg va s.me.ctx (s.now + cost)).fetchLater cost
            else if pg.sib && !held && !s.sibReady (homeOf pg va) (pg.key / 8 * 8) (.resourceRestart s.cur) then
              (.wait, (s.parkOn .restart).sibGate (homeOf pg va) (pg.key / 8 * 8) (.resourceRestart s.cur) 0 (fun s => s) (fun s => s))
            else s.fetchHome pg va len held

/-- The instruction at an address for the issuing thread, fetched whole (R50). Where a halfword cannot be fetched, ESTAT.ilen is 0 for the first and 1
for the second, and EINFO that halfword's address (DESIGN CHOICE, log 62). -/
def State.fetchAt (s : State) (pc : Nat) : Fetched × State :=
  match s.fetchHalf pc 2 with
  | (.code h _, s1) =>
    if isShort h then (.code h 2, s1)
    else
      match s1.fetchHalf (pc + 2) 4 with
      | (.code h2 _, s2) => (.code (h + 65536 * h2) 4, s2)
      | x => x
  | x => x

/-- The length of the instruction at an address, by its first halfword as the core or its home holds it; 4 where no page holds one (R321, log 62). -/
def State.lengthAt (s : State) (va : Nat) : Nat :=
  match tfind (s.core (coreOf s.cur)).fetched (va / 2) with
  | some h => if isShort h.toNat then 2 else 4
  | none => match s.walk va with
    | .ok (pg, _) => if isShort (s.getN pg.key 2) then 2 else 4
    | .error _ => 4

/-- The instruction that a thread in a loop issues from its buffer (R90). -/
def Thread.fromBuffer (t : Thread) : Fetched :=
  match t.loop with
  | none => .wait
  | some l =>
    let b := if t.level = .S then t.bufS else t.bufU
    let o := (t.pc - l.start).toNat
    let h := fieldOf b o 2
    if isShort h then .code h 2 else .code (fieldOf b o 4) 4

/-- The instruction the issuing thread comes to issue: from its loop buffer, or fetched. -/
def State.fetch (s : State) : Fetched × State :=
  if s.me.inLoop then (s.me.fromBuffer, s) else s.fetchAt s.me.pc.toNat

/-- The loop body of `len` halfwords from an address, captured for the issuing thread (R89). -/
def State.capture (s : State) (va n : Nat) : (Except Fetched (List Byte)) × State :=
  match n with
  | 0 => (.ok [], s)
  | n + 1 =>
    match s.fetchHalf va 4 with
    | (.code h _, s1) =>
      match s1.capture (va + 2) n with
      | (.ok l, s2) => (.ok (natToBytes 2 h ++ l), s2)
      | x => x
    | (f, s1) => (.error f, s1)

/-- Whether the instructions of a captured body end exactly at its end (R89); `n` bounds the halfwords left. -/
def bodyEnds (l : List Byte) (n : Nat) : Bool :=
  match n with
  | 0 => true
  | n + 1 =>
    match l with
    | [] => true
    | _ :: [] => false
    | b :: _ :: r => if b.toNat % 2 = 0 then bodyEnds r n else (match r with | _ :: _ :: r' => bodyEnds r' n | _ => false)

end Sys2Proof.Machine
end

