-- ==== Sys2Proof/Machine/Copy.lean ====
section
/-!
DEFINITION. Copy engines and copy units (12 R227-R244): CPY, CPYG and MCPOST from issue to the credit of their bell.
-/

namespace Sys2Proof.Machine

/-! ## Ranges -/

/-- An address of an engine command as it is kept (R34): 0xF1 and 0xF3 in their 0xF4 and 0xF5 form. -/
def State.engineAddr (s : State) (core va : Nat) : Nat :=
  match windowOf va with
  | 0xF1 => if va < 2 ^ 56 then 0xF4 * 2 ^ 48 + s.nameOf core * 2 ^ 20 + va % 2 ^ 48 else va
  | 0xF3 => if va < 2 ^ 56 then 0xF5 * 2 ^ 48 + dieOf core * 2 ^ 26 + va % 2 ^ 48 else va
  | _ => va

/-- Whether a range lies within one window and its limits (R31-R35, R233); one of 0 bytes names no byte. -/
def State.rangeOk (s : State) (part core va len : Nat) : Bool :=
  let last := va + len - 1
  len == 0 ||
  (if isGlobal va then isGlobal last
   else
     windowOf va == windowOf last && decide (last < 2 ^ 56) && decide (len ≤ 2 ^ 26) &&
     (match windowOf va with
      | 0xF4 => va / 2 ^ 20 == last / 2 ^ 20
      | 0xF5 => va / 2 ^ 26 == last / 2 ^ 26
      | _ => true) &&
     (s.resolveIn part core va).isSome && (s.resolveIn part core last).isSome &&
     ((List.range (len / 2 ^ 18 + 1)).map (fun i => (va / 2 ^ 18 + i + 1) * 2 ^ 18)).all
       (fun x => decide (last < x) || (s.resolveIn part core x).isSome))

/-- The protection regions that a range touches, each by an address of the range in it (R233 step 6). -/
def regionsOf (va len : Nat) : List Nat :=
  if len = 0 ∨ !isGlobal va then []
  else (List.range (regionOf (va + len - 1) - regionOf va + 1)).map (fun i => if i = 0 then va else (regionOf va + i) * 2 ^ 26)

/-- The rights checks of several regions, each by an address in it (R233 step 6): a region that misses the PLB parks the thread for its refill,
and the check goes on with it (R354). -/
def checkRights (len : Nat) (l : List (Nat × (Rights → Bool))) (k : State → State) (s : State) : State :=
  let n := match s.me.phase with | .rights n => n | _ => 0
  go n (l.drop n) s
where
  go (n : Nat) (l : List (Nat × (Rights → Bool))) (s : State) : State :=
    match l with
    | [] => k s
    | (va, need) :: r =>
      let c := coreOf s.cur
      match (s.core c).plbFind (regionOf va) with
      | some x =>
        let s1 := s.updCore c (fun x => x.plbTouch (regionOf va) s.now)
        if need x then go (n + 1) r s1 else s1.trap cPROT (BitVec.ofNat 64 va) len
      | none => ((s.upd (fun t => { t with phase := .rights n })).parkOn .plb).afterOnce Config.plbRefill (.plbRefill c s.cur (regionOf va))

/-- A bell of a command in window 0xF0 (R233 step 4). -/
def checkLaneBell (va : Word) (k : State → State) (s : State) : State := if windowOf va.toNat = 0xF0 then s.trap cPROT va 4 else k s

/-- The check of a bell of a command (R44, R233 step 7); 0 is no bell. -/
def checkBell (va : Word) (align : Nat) (k : State → State) (s : State) : State :=
  if va = 0 then k s
  else if isGlobal va.toNat || (s.resolve s.cur va.toNat).isNone then s.trap cPROT va 4
  else if va.toNat % align ≠ 0 then s.trap cALIGN va 4
  else k s

/-! ## Issue -/

/-- The command group of a command (R229). -/
def group (t : Thread) (n : BitVec 6) (i : Nat) : Word := (t.gReg (n.toNat + i)).val

/-- A command accepted into the engine's entries 4 cycles on (R239): it parks while 16 entries or 62 copies are held, or an
acquire holds later accesses (R110, R140). -/
def postCopy (c : CopyCmd) (s : State) : State :=
  let core := coreOf s.cur
  if !s.me.acquires.isEmpty then s.parkOn .acquire
  else if Config.copyEntries ≤ (s.core core).copyq.length ∨ Config.maxOutstanding ≤ s.me.copies then s.parkOn .count
  else
    let send := fun (ord : Option Nat) (s : State) =>
      let id := s.nextId
      let cmd := { c with id := id, tid := s.cur, epoch := s.me.epoch, core := core, part := s.me.part, ctx := s.me.ctx, launch := s.me.launch,
                          lti := s.me.lti, ord := ord }
      let s1 := { s with nextId := id + 1, copies := s.copies ++ [cmd] }
      (((s1.updCore core (fun x => { x with copyq := x.copyq ++ [id] })).upd (fun t => { t with copies := t.copies + 1 })).after
        Config.copyAccept (.copyAccept id)).advance 4
    match c.acq, c.waitBell with
    | true, some w => loggable 4 7 2 (match s.resolve s.cur w with | some p => s.objOf p | none => w) (fun o => o = 2) false send s
    | _, _ => if c.rel then ordinal 4 send s else send none s

/-- The fields that every command has. -/
def State.newCopy (s : State) (kind : Nat) (sc : BitVec 3) (q r t : BitVec 1) (n : BitVec 6) : CopyCmd :=
  let x := s.me
  let bell := fun (v : Word) => if v = 0 then none else some (s.engineAddr (coreOf s.cur) v.toNat)
  { id := 0, kind := kind, tid := 0, epoch := 0, core := 0, part := 0, ctx := 0, launch := none, scope := sc.toNat, acq := q == 1,
    rel := r == 1, ts := t == 1, dst := BitVec.ofNat 64 (s.engineAddr (coreOf s.cur) (group x n 0).toNat),
    src := BitVec.ofNat 64 (s.engineAddr (coreOf s.cur) (group x n 1).toNat), len := (group x n 2).toNat, index := 0, rowBytes := 0, rows := 0,
    dstStride := 0, srcStride := 0, signal := bell (group x n 3), waitBell := bell (group x n 4), waitGen := (group x n 5).setWidth 32,
    arg := 0, unit := 0, lti := 0, prog := none, started := none, accepted := false, failed := none, begun := false, words := [],
    idx := [], rowsMade := false, whole := false, inPad := false, ended := false, ord := none }

/-- The alignment of a signal bell: 32 with stamps (R233 step 7). -/
def bellAlign (t : BitVec 1) : Nat := if t = 1 then 32 else 16

/-- The sources of a command: the first `m` group registers (R229). -/
def groupSrcs (n : BitVec 6) (m : Nat) : List RegRef := (List.range m).map (fun i => gRef (n.toNat + i))

/-- R230, R233. CPY. -/
def execCpy (sc : BitVec 3) (q r t : BitVec 1) (n : BitVec 6) (s : State) : Out := .next (
  issue { len := 4, legal := scopeOk sc && groupOk n, srcs := groupSrcs n 6 }
    (fun s =>
      let x := s.me
      let c := coreOf s.cur
      let dst := (group x n 0).toNat
      let src := (group x n 1).toNat
      let len := (group x n 2).toNat
      let bells := checkBell (group x n 3) (bellAlign t) (checkBell (group x n 4) 16 (postCopy (s.newCopy 0 sc q r t n)))
      if 2 ^ 32 ≤ len then s.trap cPROT (group x n 2) 4
      else if !s.rangeOk x.part c src len then s.trap cPROT (group x n 1) 4
      else if !s.rangeOk x.part c dst len then s.trap cPROT (group x n 0) 4
      else
        checkLaneBell (group x n 3) (checkLaneBell (group x n 4)
          (checkRights 4 ((regionsOf src len).map (fun a => (a, Rights.r)) ++ (regionsOf dst len).map (fun a => (a, Rights.w))) bells)) s) s)

/-- R231, R233. CPYG. -/
def execCpyg (sc : BitVec 3) (q r t : BitVec 1) (n : BitVec 6) (s : State) : Out := .next (
  issue { len := 4, legal := scopeOk sc && groupOk n, srcs := groupSrcs n 8 }
    (fun s =>
      let x := s.me
      let c := coreOf s.cur
      let dst := (group x n 0).toNat
      let index := (group x n 2).toNat
      let shape := (group x n 6).toNat
      let strides := (group x n 7).toNat
      let rowBytes := bits shape 31 0
      let rows := bits shape 47 32
      let total := rows * rowBytes
      let span := if total = 0 then 0 else (rows - 1) * bits strides 31 0 + rowBytes
      let iLen := if total = 0 then 0 else 4 * rows
      let cmd := { s.newCopy 1 sc q r t n with len := total, src := group x n 1, index := BitVec.ofNat 64 (s.engineAddr c index), rowBytes := rowBytes, rows := rows,
                                               dstStride := bits strides 31 0, srcStride := bits strides 63 32 }
      let bells := checkBell (group x n 3) (bellAlign t) (checkBell (group x n 4) 16 (postCopy cmd))
      if bits shape 63 48 ≠ 0 then s.trap cPROT (group x n 6) 4
      else if 2 ^ 32 ≤ total then s.trap cPROT (group x n 6) 4
      else if !s.rangeOk x.part c dst span then s.trap cPROT (group x n 0) 4
      else if !s.rangeOk x.part c index iLen then s.trap cPROT (group x n 2) 4
      else if total ≠ 0 ∧ windowOf (group x n 1).toNat = 0xF0 then s.trap cPROT (group x n 1) 4
      else
        checkLaneBell (group x n 3) (checkLaneBell (group x n 4) (fun s =>
          if total ≠ 0 ∧ index % 4 ≠ 0 then s.trap cALIGN (group x n 2) 4
          else checkRights 4 ((regionsOf index iLen).map (fun a => (a, Rights.r)) ++ (regionsOf dst span).map (fun a => (a, Rights.w))) bells s)) s) s)

/-- The argument of an `MCPOST` as the program gets it; none is PROT (R232). -/
def State.postArg (s : State) (v : Word) : Option Word :=
  match v.toNat / 2 ^ 48 with
  | 0xF1 => some (BitVec.ofNat 64 (s.engineAddr (coreOf s.cur) v.toNat))
  | 0xF3 => some (BitVec.ofNat 64 (s.engineAddr (coreOf s.cur) v.toNat))
  | 0xF0 => none
  | 0xF2 => none
  | _ => some v

/-- R232, R233. MCPOST. R232's own checks come before the bells' of R233 (DESIGN CHOICE, log 63: the manual does not order them). -/
def execMcpost (sc : BitVec 3) (q r t : BitVec 1) (n : BitVec 6) (s : State) : Out := .next (
  issue { len := 4, legal := scopeOk sc && groupOk n, srcs := groupSrcs n 6 }
    (fun s =>
      let x := s.me
      let target := (group x n 2).toNat
      let pc := group x n 0
      if 2 ^ 9 ≤ target then s.trap cPROT (group x n 2) 4
      else if !(match s.partOf s.cur with | some p => p.onDie (target / 16) | none => false) then s.trap cPROT (group x n 2) 4
      else if pc.toNat % 2 = 1 then s.trap cALIGN pc 4
      else if !isGlobal pc.toNat then s.trap cPROT pc 4
      else
        match s.postArg (group x n 1) with
        | none => s.trap cPROT (group x n 1) 4
        | some arg =>
          let cmd := { s.newCopy 2 sc q r t n with dst := pc, src := 0, len := 1, arg := arg, unit := memCore (target / 16) (target % 16) }
          checkBell (group x n 3) (bellAlign t) (checkBell (group x n 4) 16 (postCopy cmd)) s) s)

/-! ## Start -/

def State.copy (s : State) (id : Nat) : Option CopyCmd := s.copies.find? (fun c => c.id = id)
def State.updCopy (s : State) (id : Nat) (f : CopyCmd → CopyCmd) : State :=
  { s with copies := updEach (fun c => c.id == id) f s.copies }

/-- The storage key of an engine address on chip. -/
def State.bellKey (s : State) (part core va : Nat) : Nat :=
  match s.resolveIn part core va with | some p => p.chipKey | none => va

/-- The engine has read a generation (R234): where it differs the command starts 4 cycles on; else it waits at the bank. An
acquiring wait is recorded, and replayed (R243). -/
def State.copyLearn (s : State) (c : CopyCmd) (delay : Nat) : State :=
  match c.waitBell with
  | none => s
  | some w =>
    let key := s.bellKey c.part c.core w
    let g := (s.genOf key).toNat % 2 ^ 31
    let go := fun (s : State) => (s.updCopy c.id (fun x => { x with waitBell := none })).after (delay + 4) (.copyStart c.id)
    if s.genOf key = c.waitGen then
      ({ s with waiters := s.waiters.filter (fun x => x.2 != .cmd c.id) } : State).wait key c.ctx (.cmd c.id) true
    else if !c.acq then go s
    else
      match s.turnOf c.ctx 7 (s.bellObj c.part c.core w) (s.actorOf c.tid) c.ord with
      | .wait => s.after 1 (.waitBellNotice c.id)
      | .free =>
        if s.recording c.ctx then go (s.record c.ctx (mkRecord 7 2 0 (s.actorOf c.tid) (c.ord.getD 0) g (s.bellObj c.part c.core w))) else go s
      | .mine i x => if genReached (recVal x) g then go (s.unqueue c.ctx i) else s.after 1 (.waitBellNotice c.id)

/-- R239. The engine accepts a command, and reads its wait-bell. -/
def execCopyAccept (id : Nat) (s : State) : Out := .next (
  match s.copy id with
  | none => s
  | some c =>
    if c.accepted || (s.core c.core).halted then s
    else
      let s1 := s.updCopy id (fun x => { x with accepted := true })
      match c.waitBell with
      | none => s1.after 0 (.copyStart id)
      | some _ => s1.copyLearn c (s1.bellTrip c.part c.core c.waitBell))

/-- Whether a range of a command lies in the issuing core's own scratchpad, below its contribution (R242). -/
def State.ownPad (s : State) (c : CopyCmd) (va len : Nat) : Bool :=
  let mine := fun (a : Nat) => match s.resolveIn c.part c.core a with | some (.core k o) => k == c.core && decide (o < 2 ^ 19) | _ => false
  mine va && mine (va + len - 1)

/-- The core whose unit performs the access to a block of the global window (R37, R227): the memory core beside its home slice; for a block
without a translation the one at which its fault parks (log 63). -/
def State.copyUnitOf (s : State) (c : CopyCmd) (va : Nat) : Nat :=
  let n := match s.walk va with | .ok (pg, _) => homeOf pg va | .error _ => faultSlice (dieOf c.core) va
  memCore (n / 16) (n % 16)

/-- The words of a range, each wholly within one aligned 8-byte word (R230): `unit` performs the byte at an offset of the range, and the range
holds the command's bytes from `at_` on. -/
def wordsIn (write : Bool) (unit : Nat → Nat) (va len at_ : Nat) : List CopyWord :=
  if len = 0 then []
  else (List.range ((va + len + 7) / 8 - va / 8)).map (fun i =>
    let a := max va ((va / 8 + i) * 8)
    { unit := unit (a - va), write := write, va := a, len := min (va + len) ((va / 8 + i + 1) * 8) - a, at_ := at_ + (a - va), state := .waiting,
      data := [], sent := 0, ready := 0, line := false })

/-- The words of one row (R227, R230): the 4 KiB blocks of a global source decide which unit serves each of its bytes, else those of a global
destination. -/
def State.rowWords (s : State) (c : CopyCmd) (src dst len at_ : Nat) : List CopyWord :=
  let unit := fun (o : Nat) => if isGlobal src then s.copyUnitOf c (src + o) else if isGlobal dst then s.copyUnitOf c (dst + o) else c.core
  wordsIn false unit src len at_ ++ wordsIn true unit dst len at_

/-- The rows of a command: source, destination, length (R230, R231). -/
def CopyCmd.rowsOf (c : CopyCmd) : List (Nat × Nat × Nat) :=
  if c.kind = 0 then [(c.src.toNat, c.dst.toNat, c.len)]
  else (List.range c.rows).map (fun i => (c.src.toNat + c.idx.getD i 0 * c.srcStride, c.dst.toNat + i * c.dstStride, c.rowBytes))

/-- A range cut at every 256 bytes, so that each piece lies in one granule and one page (R36). -/
def cut (va len : Nat) : List (Nat × Nat) :=
  if len = 0 then []
  else (List.range ((va + len - 1) / 256 - va / 256 + 1)).map (fun i =>
    let a := if i = 0 then va else (va / 256 + i) * 256
    (a, min (va + len) ((a / 256 + 1) * 256) - a))

/-- The storage of a range, by its pieces (R235): virtual addresses where it is global. -/
def State.storage (s : State) (c : CopyCmd) (va len : Nat) : List (Nat × Nat) :=
  (cut va len).map (fun e => (s.bellKey c.part c.core e.1, e.2))

/-- Whether a command must read everything before it writes (R231, R235): source and destination share bytes, or rows overlap. -/
def State.overlaps (s : State) (c : CopyCmd) : Bool :=
  let rows := c.rowsOf
  let src := rows.flatMap (fun r => s.storage c r.1 r.2.2)
  let dst := rows.flatMap (fun r => s.storage c r.2.1 r.2.2)
  (c.kind == 1 && decide (1 < c.rows) && decide (c.dstStride < c.rowBytes)) ||
    src.any (fun a => dst.any (fun b => decide (a.1 < b.1 + b.2) && decide (b.1 < a.1 + a.2)))

/-- Whether a command's ranges and its bell lie in its core's own scratchpad (R242); until its indices are read, those of the index vector. -/
def State.copyLocal (s : State) (c : CopyCmd) : Bool :=
  (match c.signal with | some b => s.ownPad c b 16 | none => true) &&
  (if c.kind = 1 ∧ !c.rowsMade then s.ownPad c c.index.toNat (4 * c.rows)
   else c.rowsOf.all (fun r => s.ownPad c r.1 r.2.2 && s.ownPad c r.2.1 r.2.2))

/-- A unit looks at its words of a command, in `n` cycles. -/
def State.copyTick (s : State) (n id unit : Nat) : State :=
  if s.pend.any (fun e => decide (e = (s.now + n, Instr.copyShare ⟨id, unit, none⟩))) then s else s.after n (.copyShare ⟨id, unit, none⟩)

/-- Every unit that has words of a command still to issue looks at them, in `n` cycles. -/
def State.copyTicks (s : State) (n id : Nat) : State :=
  match s.copy id with
  | some c => (((c.words.filter (fun w => w.state == .waiting)).map (fun w => w.unit)).eraseDups).foldl (fun s u => s.copyTick n id u) s
  | none => s

/-- A command gets the words of its rows (R227, R230). -/
def State.makeRows (s : State) (c0 : CopyCmd) : State :=
  let c := { c0 with rowsMade := true }
  let rows := c.rowsOf
  let words := (rows.zipIdx).flatMap (fun e => s.rowWords c e.1.1 e.1.2.1 e.1.2.2 (e.2 * c.rowBytes))
  let inPad := s.copyLocal c
  (s.updCopy c.id (fun _ => { c with words := words, inPad := inPad, whole := inPad || s.overlaps c })).copyTicks 0 c.id

/-- A command's words are made and its first reads issued: of a `CPYG`, those of its index vector (R231). -/
def State.beginCopy (s : State) (c : CopyCmd) : State :=
  if c.kind = 0 then s.makeRows c
  else
    let unit := fun (o : Nat) => if isGlobal c.index.toNat then s.copyUnitOf c (c.index.toNat + o) else c.core
    (s.updCopy c.id (fun x => { x with words := wordsIn false unit c.index.toNat (4 * c.rows) 0, inPad := s.copyLocal c })).copyTicks 0 c.id

/-- R234. A command starts: with the release flag once every earlier access of its thread is performed. An `MCPOST` takes half of R46's bound of a home
slice to its memory core (DESIGN CHOICE, log 63: the manual gives no time). -/
def execCopyStart (id : Nat) (s : State) : Out := .next (
  match s.copy id with
  | none => s
  | some c =>
    if (s.core c.core).halted ∨ !c.accepted ∨ c.begun ∨ c.waitBell.isSome then s
    else if c.rel && s.reqs.any (fun q => decide (q.id < id) && q.tid == c.tid && q.epoch == c.epoch && q.open && q.op.accesses) then
      s.after 1 (.copyStart id)
    else
      let s0 := if c.rel && 2 ≤ c.scope && (s.thread c.tid).epoch == c.epoch then s.releaseFence c.tid else s
      let s1 := if c.acq && 2 ≤ c.scope && (s.thread c.tid).epoch == c.epoch then s0.dropSI c.tid else s0
      let s2 := s1.updCopy id (fun x => { x with begun := true })
      if c.kind = 2 then
        s2.after (halfUp (if c.unit / 16 % 32 = dieOf c.core then Config.homeOwnDie else Config.homeElsewhere)) (.mcpostDelivery id)
      else if c.len = 0 then 
        let inPad := match c.signal with | some b => s.ownPad c b 16 | none => false
        (s2.updCopy id (fun x => { x with started := some s.now, inPad := inPad, ended := true })).after 0 (.copyComplete id)
      else s2.beginCopy { c with begun := true })

/-- R234, R257. The bank's notice that a bell's generation changed reaches an engine. -/
def State.copyNotice (s : State) (id : Nat) : State :=
  match s.copy id with
  | some c =>
    if s.diverts c.core (.waitBellNotice id) then s.spill c.core (.waitBellNotice id)
    else if c.accepted ∧ c.started.isNone then s.copyLearn c 0 else s
  | none => s

/-! ## Transfers -/

/-- An engine's command that an error at an address ends: it makes no further transfer (R237). -/
def State.copyFail (s : State) (c : CopyCmd) (va : Nat) : State :=
  if c.ended then s
  else (s.updCopy c.id (fun x => { x with failed := some (BitVec.ofNat 64 va), started := some (x.started.getD s.now), ended := true })).after 0
    (.copyComplete c.id)

/-- An error response at an address, in the log of its home, or of the router of its bank, that of a die scratchpad at local column and row 0 (R237,
R415). Which code and which router log an error at a bank that is none of ECC's is a choice of the model: code 6 (DESIGN CHOICE, log 34). -/
def State.logPlace (s : State) (p : Option Place) (core va code detail : Nat) : State :=
  match p with
  | some (.global g) =>
    let n := match s.walk g with | .ok (pg, _) => homeOf pg g | .error _ => faultSlice (dieOf core) g
    if code = 6 then s.logHome va (faultSlice (dieOf core) g) detail else s.logError (n / 16) code 0 n va detail
  | some (.core k _) => s.logError (dieOf k) code 1 (routerOf k) va detail
  | some (.die d _) => s.logError d code 1 (localCore d 0 0) va detail
  | none => s.logError (dieOf core) code 1 (routerOf core) va detail

/-- Bytes read by an engine at their bank or home by the step `who` (R230): `bad` with the address after an error response, which is logged there
(R166, R169, R414). A read of a sibling word that waits for the proctor comes again (R161). -/
def State.engineRead (s : State) (who : Instr) (tid part core va n : Nat) (bad : Nat → State → State) (done : List Byte → State → State) : State :=
  let detail := s.keyDetail tid
  let ecc := fun (key : Nat) => (List.range ((key + n + 7) / 8 - key / 8)).find? (fun i => s.eccBad ((key / 8 + i) * 8) 8)
  match s.resolveIn part core va with
  | none => bad va (s.logPlace none core va 6 detail)
  | some (.global g) =>
    match s.walk g with
    | .error _ => bad g (s.logPlace (some (.global g)) core g 6 detail)
    | .ok (pg, _) =>
      let read := fun (s : State) =>
        let s1 := s.servedFor core (slotOf tid) part g 3
        match ecc pg.key with
        | some i => bad (max g (g + (pg.key / 8 + i) * 8 - pg.key)) (s1.eccRead pg.key n detail)
        | none => let x := (s1.eccRead pg.key n detail).pageRead pg g n; done x.1 x.2
      if s.hostBad pg g || (pg.sib && pg.accum) then bad g (s.logPlace (some (.global g)) core g 6 detail)
      else if pg.sib then s.sibGate (homeOf pg g) (pg.key / 8 * 8) who 0 (fun s => bad g (s.logPlace (some (.global g)) core g 6 detail)) read
      else read s
  | some p =>
    let s1 := s.eccRead p.chipKey n detail
    match ecc p.chipKey with
    | some i => bad (max va (va + (p.chipKey / 8 + i) * 8 - p.chipKey)) s1
    | none => done (s.peek p.chipKey n) s1

/-- The latest writes of an engine's words, for the order roll: no release (R394). -/
def State.noteEngine (s : State) (tid key len : Nat) : State :=
  if s.recording (s.thread tid).ctx || s.replaying (s.thread tid).ctx then
    (List.range ((key + len + 7) / 8 - key / 8)).foldl (fun s i => s.noteWrite tid ((key / 8 + i) * 8) false none false) s
  else s

/-- A word of an engine written for a thread at its bank or home by the step `who` (R158, R166, R169): `bad` after an error response, which is
logged there. -/
def State.engineWrite (s : State) (who : Instr) (tid part core va : Nat) (l : List Byte) (bad done : State → State) : State :=
  let fail := fun (code : Nat) (s : State) => bad (s.logPlace (s.resolveIn part core va) core va code (s.keyDetail tid))
  match s.resolveIn part core va with
  | none => fail 6 s
  | some (.global g) =>
    match s.walk g with
    | .error _ => fail 6 s
    | .ok (pg, _) =>
      let s1 := s.servedFor core (slotOf tid) part va 4
      if s.hostBad pg va || (pg.sib && pg.accum) then fail 6 s1
      else if pg.sib then
        match s.writerOf tid with
        | some w =>
          if va % 8 ≠ 0 ∨ l.length ≠ 8 then fail 6 s1
          else s1.sibStore who (homeOf pg g) pg.key g w (BitVec.ofNat 64 (bytesToNat l)) (fail 6) (fail 5) (fun s => done (s.noteEngine tid pg.key 8))
        | none => fail 6 s1
      else done (((s1.noteEngine tid pg.key l.length).combineRange pg g l.length).homeWrite pg.key l)
  | some p => done ((s.noteEngine tid p.chipKey l.length).bankWrite p.chipKey l)

def State.updWord (s : State) (id i : Nat) (f : CopyWord → CopyWord) : State :=
  s.updCopy id (fun c => { c with words := c.words.modify i f })
/-- The unit and the address of a word of a command. -/
def CopyCmd.unitOf (c : CopyCmd) (i : Nat) : Nat := match c.words[i]? with | some w => w.unit | none => c.core
def CopyCmd.wordVa (c : CopyCmd) (i : Nat) : Nat := match c.words[i]? with | some w => w.va | none => 0

/-- The bytes of a command that its reads have brought, from `o` on. -/
def CopyCmd.bytesAt (c : CopyCmd) (o n : Nat) : List Byte :=
  let l := c.words.filter (fun w => !w.write && decide (w.at_ < o + n) && decide (o < w.at_ + w.len))
  (List.range n).map (fun k => match l.find? (fun w => decide (w.at_ ≤ o + k) && decide (o + k < w.at_ + w.len)) with
    | some w => w.data.getD (o + k - w.at_) 0
    | none => 0)

/-- Whether a unit has what a word is to write (R235), and no earlier word of the command still has to write there (R231). -/
def CopyCmd.mayWrite (c : CopyCmd) (now i : Nat) (w : CopyWord) : Bool :=
  c.words.all (fun r => r.write || (!c.whole && (decide (w.at_ + w.len ≤ r.at_) || decide (r.at_ + r.len ≤ w.at_))) ||
    (r.state == .performed && decide (r.ready ≤ now))) &&
  (c.kind == 0 || (c.words.take i).all (fun x => !x.write || x.state == .performed || decide (x.va + x.len ≤ w.va) || decide (w.va + w.len ≤ x.va)))

/-- The words of a direction that a unit issues in a cycle for a command inside its core's own scratchpad: those of the next 64 bytes of the command
(R242). -/
def takeBlock (l : List (CopyWord × Nat)) : List Nat :=
  match l with
  | [] => []
  | (w, _) :: _ => (l.filter (fun e => e.1.at_ / 64 == w.at_ / 64)).map (fun e => e.2)

/-- The words of a direction that a unit still has to issue, or issues in this cycle, for a command. -/
def CopyCmd.unitHas (c : CopyCmd) (unit : Nat) (write : Bool) (now : Nat) : Bool :=
  c.begun && !c.ended && c.words.any (fun w => w.unit == unit && w.write == write && (w.state == .waiting || w.sent == now))

/-- The words of 8 bytes that a unit may issue of a direction for a command in a cycle (R242): its link takes 16 bytes, which the commands that go
through it have in turn (DESIGN CHOICE, log 63: the manual gives no order). -/
def State.linkRoom (s : State) (c : CopyCmd) (unit : Nat) (write : Bool) : Nat :=
  let l := (s.copies.filter (fun x => !x.inPad && x.unitHas unit write s.now)).map (fun x => x.id)
  let first := s.now % max 1 l.length
  ((List.range 2).filter (fun i => l[(first + i) % max 1 l.length]? == some c.id)).length

/-- The cycles from a unit to a place (R46): none to its core's own scratchpad (R242). -/
def State.unitTrip (s : State) (unit : Nat) (p : Place) : Nat :=
  match p with | .core k o => if k = unit ∧ o < 2 ^ 19 then 0 else s.latency unit p | _ => s.latency unit p

/-- A unit in one cycle of a command (R227, R242): in the core's own scratchpad it issues up to 64 bytes of reads and, behind them all, of
writes, at FIXED in the C windows (R241); elsewhere up to 16 bytes each way. At FIXED a copy unit issues in the frames that the partition owns
(R299). -/
def State.copyCycle (s : State) (c : CopyCmd) (unit : Nat) : State :=
  let mine := (c.words.zipIdx).filter (fun e => e.1.unit == unit)
  let next := mine.filter (fun e => e.1.state == .waiting)
  if next.isEmpty then s
  else if (isMem unit && !s.frameOpen (copyUnit unit) c.part) || (c.inPad && s.levelOf c.ctx == 3 && windowClass s.now != .C) then s.copyTick 1 c.id unit
  else
    let used := fun (write : Bool) => (mine.filter (fun e => e.1.write == write && e.1.state != .waiting && e.1.sent == s.now)).length
    let take := fun (write : Bool) (l : List (CopyWord × Nat)) =>
      if c.inPad then (if used write = 0 then takeBlock l else []) else (l.take (s.linkRoom c unit write - used write)).map (fun e => e.2)
    let ready := next.filter (fun e => !e.1.write || c.mayWrite s.now e.2 e.1)
    let reads := take false (ready.filter (fun e => !e.1.write))
    let writes := take true (ready.filter (fun e => e.1.write))
    let s1 := (reads ++ writes).foldl (fun (s : State) i =>
      let trip := match s.resolveIn c.part c.core (c.wordVa i) with | some p => halfUp (s.unitTrip unit p) | none => 0
      (s.updWord c.id i (fun w => { w with state := .going, sent := s.now, data := if w.write then c.bytesAt w.at_ w.len else [] })).after trip
        (.copyShare ⟨c.id, unit, some i⟩)) s
    if ready.isEmpty then s1 else s1.copyTick 1 c.id unit

/-- The rows of a `CPYG` once its indices are read: a row that leaves its window or its limits, or lacks the read right, ends the command
(R231). A region that misses the PLB is filled first (R354), and the check goes on with it. -/
def State.rowsReady (s : State) (c0 : CopyCmd) : State :=
  let b := c0.bytesAt 0 (4 * c0.rows)
  let c := { c0 with idx := (List.range c0.rows).map (fun i => fieldOf b (4 * i) 4) }
  let fail := fun (va : Nat) (s : State) => (s.logPlace (s.resolveIn c.part c.core va) c.core va 6 (s.keyDetail c.tid)).copyFail c va
  let checks := c.rowsOf.flatMap (fun r =>
    if s.rangeOk c.part c.core r.1 r.2.2 && windowOf r.1 != 0xF0 then (regionsOf r.1 r.2.2).map (fun a => (a, true)) else [(r.1, false)])
  go c fail c.cleared (checks.drop c.cleared) s
where
  go (c : CopyCmd) (fail : Nat → State → State) (n : Nat) (l : List (Nat × Bool)) (s : State) : State :=
    match l with
    | [] => s.makeRows c
    | (va, false) :: _ => fail va s
    | (va, true) :: r =>
      match (s.core c.core).plbFind (regionOf va) with
      | some x =>
        let s1 := s.updCore c.core (fun k => k.plbTouch (regionOf va) s.now)
        if x.r then go c fail (n + 1) r s1 else fail va s1
      | none =>
        ((s.updCopy c.id (fun x => { x with cleared := n })).afterOnce Config.plbRefill (.plbRefill c.core c.tid (regionOf va))).after
          Config.plbRefill (.copyShare ⟨c.id, c.core, none⟩)

/-- A word of a command is performed: the reads bring their bytes to the unit, the last index makes the rows, and with the last write the command
completes (R231, R236). -/
def State.wordDone (s : State) (id i : Nat) (data : List Byte) : State :=
  match s.copy id with
  | none => s
  | some c0 =>
    let back := match c0.words[i]?, s.resolveIn c0.part c0.core (c0.wordVa i) with
      | some w, some p => if w.write then 0 else s.unitTrip w.unit p - halfUp (s.unitTrip w.unit p)
      | _, _ => 0
    let s1 := (s.updWord id i (fun w => { w with state := .performed, data := data, ready := s.now + back })).updCopy id
      (fun x => { x with started := some (x.started.getD s.now) })
    match s1.copy id with
    | none => s1
    | some c =>
      if c.words.all (fun w => w.state == .performed) then
        if c.kind = 1 ∧ !c.rowsMade then s1.after (c.words.foldl (fun n w => max n (w.ready - s.now)) 0) (.copyShare ⟨id, c.core, none⟩)
        else (s1.updCopy id (fun x => { x with ended := true })).after 0 (.copyComplete id)
      else s1.copyTicks (max 1 back) id

/-- A word at its bank or home (R36, R237): a block without a translation parks it there while the other words go on; a bank of a pre-empted core
keeps it (R386); else it has its turn as a copy (R240). -/
def State.copyWord (s : State) (c : CopyCmd) (i : Nat) (w : CopyWord) (ev : Instr) (old : Option BankItem) : State :=
  let fail := fun (s : State) => match s.copy c.id with | some x => s.copyFail x w.va | none => s
  match s.resolveIn c.part c.core w.va with
  | none => fail (s.logPlace none c.core w.va 6 (s.keyDetail c.tid))
  | some p =>
    match (match p with | .core k _ => s.spillAt k c.part ev | _ => none) with
    | some v => s.spill v ev
    | none =>
      match (match s.routeFault c.part w.unit p false with | some u => some u | none => s.routeFault c.part w.unit p true) with
      | some u => fail (s.logUnit c.tid c.part w.unit p u)
      | none =>
        if (match p with | .global va => s.invalidating va | _ => false) then s.again ev
        else match s.faultAt c.core p with
        | some (slice, va, cause) =>
          (s.updWord c.id i (fun w => { w with state := .parked })).parkFault slice va cause
            (faultWho c.core (slotOf c.tid) (if w.write then 1 else 0) true c.part c.ctx (slice % 16) 0) (.copy c.id i)
        | none =>
          let key : Key := { lti := c.lti.toNat, name := s.nameOf c.core, slot := slotOf c.tid }
          let item : BankItem := { server := s.serverOf p, cls := .C, came := s.now, key := key, part := c.part, ctx := c.ctx, who := ev }
          let serve := fun (s : State) => s.atServer old item (fun s =>
            if w.write then s.engineWrite ev c.tid c.part c.core w.va w.data fail (fun s => s.wordDone c.id i w.data)
            else s.engineRead ev c.tid c.part c.core w.va w.len (fun va s => match s.copy c.id with | some y => s.copyFail y va | none => s)
              (fun b s => s.wordDone c.id i b))
          match p with
          | .global va => s.atSlice c.ctx c.part va ev w.line false (fun s => s.updWord c.id i (fun w => { w with line := true })) serve
          | _ => serve s

/-- R227. A copy unit or engine comes to its words of a command, or one of them reaches its bank or home. -/
def execCopyShare (id : CopyStep) (s0 : State) : Out := .next (
  let ev := Instr.copyShare id
  let old := s0.itemOf ev
  let s := s0.leaveBank ev
  match s.copy id.id, id.word with
  | some c, none =>
    if !c.begun ∨ c.ended then s
    else if c.kind = 1 ∧ !c.rowsMade ∧ c.words.all (fun w => w.state == .performed && decide (w.ready ≤ s.now)) then s.rowsReady c
    else s.copyCycle c id.share
  | some c, some i =>
    match c.words[i]? with
    | some w => if c.ended ∨ w.state ≠ .going ∨ w.unit ≠ id.share then s.dropProxy ev else s.copyWord c i w ev old
    | none => s
  | none, _ => s.dropProxy ev)

/-! ## Completion -/

/-- A command that has ended leaves its thread's count; an error that no bell reports is held for the thread (R237, R238). -/
def State.endCopy (s : State) (c : CopyCmd) (held : Bool) : State :=
  let s0 := { s with copies := s.copies.filter (fun x => x.id != c.id) }
  if (s0.thread c.tid).occupied && (s0.thread c.tid).epoch == c.epoch then
    ((s0.updThread c.tid (fun t => { t with
      copies := t.copies - 1
      ended := if absentBase ≤ coreOf c.tid then (t.ended.1 + 1, t.ended.2) else t.ended
      storeErr := match c.failed with | some a => (if held then some (t.storeErr.getD a) else t.storeErr) | none => t.storeErr })).wake c.tid).checkLaunch c.launch
  else s0.checkLaunch c.launch

/-- An engine entry freed (R239): a thread that waits for one tries again. -/
def State.freeEntry (s : State) (c : CopyCmd) : State :=
  let s1 := (s.updCore c.core (fun x => { x with copyq := x.copyq.filter (fun i => i != c.id) })).restCore c.core
  (List.range 16).foldl (fun s i => if (s.thread (c.core * 16 + i)).park = some .count then s.wake (c.core * 16 + i) else s) s1

/-- R236. A command completes: its signal bell is credited, with code 3 after an error; without one it ends here. -/
def execCopyComplete (id : Nat) (s : State) : Out := .next (
  match s.copy id with
  | none => s
  | some c =>
    let ended := match c.prog with
      | some (t, e) => !((s.thread t).occupied && (s.thread t).epoch == e)
      | none => c.ended
    if !ended then s
    else
      let s1 := s.freeEntry c
      match c.signal with
      | none => s1.endCopy c true
      | some b =>
        let credit : Credit := { bell := s.bellKey c.part c.core b, amount := c.len, code := if c.failed.isSome then 3 else 0,
                                 stamp := if c.ts then some (c.started.getD s.now) else none, report := none, cmd := id }
        let delay := if c.inPad then (if s.levelOf c.ctx = 3 then 1 else if c.len = 0 then 2 else 3) else s.bellTrip c.part (if c.kind = 2 then c.unit else c.core) (some b)
        s1.after delay (.bellUpdate credit))

/-- The free slots in which a post may start (R299): a FIXED context with cores on the die has one slot of its own, which it got as it entered
FIXED; other posts use the rest. -/
def State.postSlots (s : State) (c : CopyCmd) : List Nat :=
  let kept := (s.parts.filter (fun p => s.levelOf p.2.ctx == 3 && p.2.onDie (dieOf c.unit))).map (fun p => (s.ctx p.2.ctx).postSlot)
  (s.freeSlots c.unit).filter (fun i => if s.levelOf c.ctx = 3 then i == (s.ctx c.ctx).postSlot else !kept.contains i)

/-- Whether two posts start in order (R232, R299): those of one FIXED context, and those of the contexts that are not FIXED. -/
def State.sameLine (s : State) (a b : CopyCmd) : Bool :=
  if s.levelOf a.ctx = 3 then a.ctx == b.ctx else s.levelOf b.ctx != 3

/-- What stops a post on its way to its memory core (R285, R411): one that has not come to the core's queue yet. -/
def State.postStop (s : State) (c : CopyCmd) : Option (Nat × Nat) :=
  let x := s.core c.unit
  if (x.postq ++ x.postOvf).contains c.id then none else s.routeFault c.part c.core (.core c.unit 0) false

/-- R232. A post reaches its memory core: its program starts in the lowest free slot, or waits in the post queue; a full queue
raises RESOURCE. One that a unit on its way does not let through ends in an error response, whose address, which the manual does not give, is free (log
67). -/
def execMcpostDelivery (id : Nat) (s : State) : Out := .next (
  match s.copy id with
  | none => s
  | some c =>
    if c.kind ≠ 2 ∨ c.prog.isSome ∨ !c.begun ∨ c.ended then s
    else if let some u := s.postStop c then
      ((s.logUnit c.tid c.part c.core (.core c.unit 0) u).nextFree).copyFail c s.freeVal.toNat
    else
      let core := c.unit
      let s1 := s.freeEntry c
      let x := s1.core core
      let ahead := (x.postq ++ x.postOvf).takeWhile (fun i => i != id)
      let first := !ahead.any (fun i => match s1.copy i with | some d => s1.sameLine c d | none => false)
      let back := s1.handed 6 core x.postOvf.length
      let spilled := x.postOvf.contains id && !(x.postOvf.take back).contains id
      match (if first && !spilled then (s1.postSlots c).head? else none) with
      | some slot =>
        let t := core * 16 + slot
        let old := s1.thread t
        let posting := if isMem c.core then s.freeVal &&& 0x7FF else BitVec.ofNat 64 (s.nameOf c.core)
        let put := fun (g : Tbl (Reg 64)) (i : Nat) (v : Word) => tput ({} : Reg 64) g i ⟨v, .full⟩
        let regs := put (put (put (put [] 3 0xFFFFFFFF) 4 c.arg) 5 posting) 6 (c.lti.setWidth 64)
        let th := newThread old .memCore 0xFFFFFFFF c.part c.ctx none c.dst
        let q := x.postq.filter (fun i => i != id)
        let o := x.postOvf.filter (fun i => i != id)
        let n := min (back - (if x.postOvf.contains id then 1 else 0)) (Config.postEntries - q.length)
        let s2 := if isMem c.core then s1.nextFree else s1
        let s3 := s2.updCore core (fun y => { y with postq := q ++ o.take n, postOvf := o.drop n })
        let s4 := (s3.start t { th with g := regs }).updCopy id (fun y => { y with prog := some (t, th.epoch) })
        s4.coreWork core
      | none =>
        if (x.postq ++ x.postOvf).contains id then s1
        else if x.postq.length < Config.postEntries && x.postOvf.isEmpty then s1.updCore core (fun y => { y with postq := y.postq ++ [id] })
        else (s1.updCore core (fun y => { y with postOvf := y.postOvf ++ [id] })).request (dieOf core) 6 core (some c.tid))

/-- A memory-core program has issued for the first time: the start stamp of its `MCPOST` (R236). -/
def State.stampPost (s : State) (t epoch : Nat) : State :=
  if isMem (coreOf t) then
    { s with copies := updEach (fun c => c.prog == some (t, epoch) && c.started.isNone) (fun c => { c with started := some s.now }) s.copies }
  else s

end Sys2Proof.Machine
end

