-- ==== Sys2Proof/Machine/RollUnit.lean ====
section
/-!
DEFINITION. The roll unit of a die (21 R396-R399): it writes records at RECORD, takes them at REPLAY, and follows the driver's writes
of `LOGTAIL`.
-/

namespace Sys2Proof.Machine

/-- The global address of record `i` (R390). -/
def Roll.addr (r : Roll) (i : Nat) : Nat := r.base.toNat + 16 * (i % 2 ^ r.size)

/-- The event of low space at RECORD, once for each time the free space falls below 64 (R397). -/
def State.lowRecord (s : State) (c : Nat) : State :=
  let r := (s.ctx c).roll
  if r.free < Config.lowRoll ∧ !r.lowPosted then (s.updRoll c (fun r => { r with lowPosted := true })).rollEvent c 1 else s

/-- Whether an actor's loggable operation of an ordinal before `ord` is still to be resolved by its object (R395). -/
def State.awaits (s : State) (ctx actor ord : Nat) : Bool :=
  (s.openOps ctx).any (fun m => match m.by_ with | some (a, o) => a == actor && ordBefore o ord | none => false)

/-- Whether record `x`, handed over behind the records `before`, may stand next in the ring (R395): no record of its object and no record of
its actor with an earlier ordinal is still unwritten or to come, and a LEVEL record stands alone. A steal's TAKE record waits until its slot is
known. -/
def State.mayWrite (s : State) (ctx : Nat) (before all : List RollRecord) (x : RollRecord) : Bool :=
  !(recType x == 9 && recOp x == 1 && recActor x % 16 == 15) && !before.any (fun y => recType y == 1 || recQueue (recType y) (recObj y) == recQueue (recType x) (recObj x)) &&
    (recType x != 1 || before.isEmpty) &&
    (recNv x || (!all.any (fun y => !recNv y && recActor y == recActor x && ordBefore (recOrd y) (recOrd x)) &&
      !s.awaits ctx (recActor x) (recOrd x)))

/-- The record to write next: the first that may stand there. -/
def State.nextRecord (s : State) (ctx : Nat) (all : List RollRecord) : Option (RollRecord × List RollRecord) := go [] all
where
  go (before rest : List RollRecord) : Option (RollRecord × List RollRecord) :=
    match rest with
    | [] => none
    | x :: r => if s.mayWrite ctx before all x then some (x, before ++ r) else go (before ++ [x]) r

/-- What waits at words and objects is served as far as the roll lets it (R397). -/
def State.serveHeld (s : State) : State :=
  let s1 := ((s.syncq ++ s.syncIn).map (fun e => e.1)).eraseDups.foldl (fun s w => s.serveWord w) s
  (s1.waiters.map (fun e => e.1)).eraseDups.foldl (fun s k => s.wakeWaiters k) s1

/-- R395, R396. The roll unit writes the next record at `LOGHEAD` and advances it; a full ring, a fault or an invalidation of the page (R365) holds the
records. A record that meets an error response has no effect (log 50). -/
def execRollRecordWrite (ctx : Nat) (s : State) : Out := .next (
  let r := (s.ctx ctx).roll
  if r.unwritten.isEmpty then s
  else match s.nextRecord ctx r.unwritten with
  | none => s.afterOnce 1 (.rollRecordWrite ctx)
  | some (x, rest) =>
    let va := r.addr r.head.toNat
    if r.parked || r.free = 0 then s
    else if s.invalidating va then s.afterOnce 1 (.rollRecordWrite ctx)
    else
      let written := fun (s : State) =>
        let s1 := (((s.updRoll ctx (fun r => { r with head := r.head + 1, unwritten := rest })).lowRecord ctx).wakeRoll ctx).serveHeld
        if rest.isEmpty then s1 else s1.afterOnce 1 (.rollRecordWrite ctx)
      match s.globalWrite (s.rollDie ctx) va (natToBytes 16 x.toNat) with
      | .miss cause => s.parkRoll ctx va cause 1
      | .bad s1 => written s1
      | .ok _ s1 => written s1)

/-- The event of a short supply at REPLAY, once for each time that fewer than 64 records are left to take (R398). -/
def State.lowReplay (s : State) (c : Nat) : State :=
  let r := (s.ctx c).roll
  if (r.tail - r.head).toNat < Config.lowRoll ∧ !r.closed ∧ !r.lowPosted then
    (s.updRoll c (fun r => { r with lowPosted := true })).rollEvent c 2
  else s

/-- A malformed record: taking stops (R399). -/
def State.badRoll (s : State) (c : Nat) : State := (s.updRoll c (fun r => { r with bad := true })).rollEvent c 3

/-- A record sent to its object's queue, and with nv = 0 to its actor's cursor (R398). A `MARK` names no object but its actor. -/
def Roll.take (r : Roll) (x : RollRecord) : Roll :=
  let i := r.head.toNat
  { r with
    head := r.head + 1
    queues := if recType x = 2 then r.queues else r.queues ++ [(recQueue (recType x) (recObj x), i, x)]
    cursors := if recNv x then r.cursors else r.cursors ++ [(recActor x, i, x)] }

/-- The core of a launch rectangle with a logical core index, by name (R15). -/
def Launch.coreAt (l : Launch) (lci : Nat) : Nat := coordOf (l.col0 + lci % l.w) (l.row0 + lci / l.w)
/-- The logical core index of a core's name in a launch rectangle (R15). -/
def Launch.lciOf (l : Launch) (name : Nat) : Nat := (rowOf name - l.row0) * l.w + (colOf name - l.col0)

/-- The physical core of a node's home bank for a thread (R216). -/
def State.rollHome (s : State) (t : Nat) (node : Word) : Nat :=
  match (s.thread t).launch with
  | none => coreOf t
  | some n =>
    match tfind s.launches n, s.partOf t with
    | some l, some p => p.phys (l.coreAt (nodeHash node.toNat * (l.w * l.h) / 2 ^ 32))
    | _, _ => coreOf t

/-- The home slice, bank or core that queues a record of a context, with its die (R398): of a memory object its home or bank, of a node the core of its
home bank, of a deque, slot, message or fill the core; a link's queue is that of its gateway. -/
def State.recordAt (s : State) (ctx : Nat) (x : RollRecord) : Option (Server × Nat) :=
  let part := (s.partOfCtx ctx).map (fun p => p.2)
  let core := fun (name : Nat) => let k := (match part with | some p => p.phys name | none => name); (Server.roll k, dieOf k)
  let obj := recObj x
  if recType x ≤ 7 then
    (if windowOf obj = 0xF5 then some (.die (obj % 2 ^ 48 / 2 ^ 26) (obj % 2 ^ 26 / 2 ^ 22), obj % 2 ^ 48 / 2 ^ 26)
     else if windowOf obj = 0xF4 then
       let k := (core (obj % 2 ^ 48 / 2 ^ 20)).1
       some (match k with | .roll c => (s.serverOf (.core c (obj % 2 ^ 20)), dieOf c) | v => (v, 0))
     else match s.walk obj with | .ok (pg, _) => some (.home (homeOf pg obj), homeOf pg obj / 16) | .error _ => none)
  else if recType x = 8 then
    (s.threads.find? (fun e => s.actorOf e.1 == recActor x && e.2.ctx == ctx)).map (fun e => core (s.nameOf (s.rollHome e.1 (BitVec.ofNat 64 obj))))
  else if recType x ≤ 0x0B then some (core obj)
  else if recType x = 0x0C then some (core (obj % 2 ^ 11))
  else none

/-- R398. The roll unit takes the next record: the opening LEVEL record is dropped, the closing one ends the taking. A record whose read meets an error
response is malformed (log 50). -/
def execRollRecordTake (ctx : Nat) (s : State) : Out := .next (
  let r := (s.ctx ctx).roll
  if !s.replaying ctx || r.parked || r.bad || r.closed then s
  else if r.queues.any (fun e => s.starves 7 (recObj e.2.2) none) then s.afterOnce Config.poll (.rollRecordTake ctx)
  else if r.head = r.tail then s.lowReplay ctx
  else
    let va := r.addr r.head.toNat
    if s.invalidating va then s.afterOnce 1 (.rollRecordTake ctx)
    else match s.globalRead (s.rollDie ctx) va 16 with
    | .miss cause => s.parkRoll ctx va cause 0
    | .bad s1 => s1.badRoll ctx
    | .ok l s1 =>
      let x : RollRecord := BitVec.ofNat 128 (bytesToNat l)
      let typ := recType x
      if typ = 0 ∨ 0x0F ≤ typ ∨ (!r.opened ∧ typ ≠ 1) then s1.badRoll ctx
      else if !r.opened then next (s1.updRoll ctx (fun r => { r with head := r.head + 1, opened := true }))
      else if typ = 1 then (s1.updRoll ctx (fun r => { r with head := r.head + 1, closed := true })).wakeRoll ctx
      else
        let s2 := (s1.updRoll ctx (fun r => r.take x)).wakeRoll ctx
        next (match s.recordAt ctx x with
          | some (v, d) =>
            let here := s.ctxs.foldl (fun n e => n + (e.2.roll.queues.filter (fun q => (s.recordAt e.1 q.2.2).map (fun a => a.1) == some v)).length) 0
            if Config.replayQueue ≤ here then s2.request d 7 (recObj x) none else s2
          | none => s2))
where
  /-- The unit goes on with the next record. -/
  next (s : State) : State := (s.lowReplay ctx).afterOnce 1 (.rollRecordTake ctx)

/-- A write of `LOGTAIL` (R396, R398): one that would lower it, or raise it past its bound, is ignored. -/
def State.logTail (s : State) (c : Nat) (v : Word) : State :=
  let r := (s.ctx c).roll
  let bound := if s.replaying c then r.head.toNat + 2 ^ r.size else r.head.toNat
  if v.toNat < r.tail.toNat ∨ bound < v.toNat then s
  else
    let s1 := s.updRoll c (fun r => { r with tail := v })
    let r1 := (s1.ctx c).roll
    if s.replaying c then
      (if Config.lowRoll ≤ (r1.tail - r1.head).toNat then s1.updRoll c (fun r => { r with lowPosted := false }) else s1.lowReplay c).afterOnce 1 (.rollRecordTake c)
    else
      let s2 := if r1.unwritten.isEmpty then s1 else s1.afterOnce 1 (.rollRecordWrite c)
      if Config.lowRoll ≤ r1.free then (s2.updRoll c (fun r => { r with lowPosted := false })).wakeRoll c else s2

/-- R396, R398. The driver writes `LOGTAIL` of a context. -/
def execLogtailWrite (ctx : Nat) (value : Word) (s : State) : Out := .next (s.logTail ctx value)

/-- The roll unit goes on once its page is woken (R390), and the operations that wait behind it. -/
def State.resumeRoll (s : State) (c : Nat) : State :=
  let s1 := (s.updRoll c (fun r => { r with parked := false })).wakeRoll c
  if s.replaying c then s1.afterOnce 1 (.rollRecordTake c) else s1.afterOnce 1 (.rollRecordWrite c)

end Sys2Proof.Machine
end

