-- ==== Sys2Proof/Machine/Matrix.lean ====
section
/-!
DEFINITION. Matrix engines and tile tasks (13 R245-R272): the tensor table, tile-task records, the scheduler, the engines, held
accumulators, completion and status.
-/

namespace Sys2Proof.Machine

/-! ## Tensors -/

/-- The bytes of a row of `cols` elements (R248). -/
def rowBytesOf (fmt cols : Nat) : Nat := if fmt = 7 then cols / 32 * 8 else (cols * fmtBits fmt + 7) / 8
/-- The alignment of base and stride (R248). -/
def fmtAlign (fmt : Nat) : Nat := match fmt with | 0 => 4 | 1 => 2 | 2 => 2 | 7 => 8 | _ => 1

/-- A descriptor as the table keeps it (R247): addresses as the issuing core means them (R34). -/
def State.tensorOf (s : State) (core : Nat) (l : List Byte) : Tensor :=
  let addr := fun (o : Nat) => BitVec.ofNat 64 (s.engineAddr core (fieldOf l o 8))
  { base := addr 0, sbase := addr 8, cbook := addr 16, rows := fieldOf l 24 4, cols := fieldOf l 28 4, stride := fieldOf l 32 4,
    sstride := fieldOf l 36 4, fmt := fieldOf l 40 1 % 16, core := core }

/-- Whether an address lies in windows 0xF1 to 0xF5. -/
def inPads (va : Nat) : Bool := decide (0xF1 ≤ windowOf va) && decide (windowOf va ≤ 0xF5) && decide (va < 2 ^ 56)

/-- The first failing check of a descriptor (R249): statuses 1 to 3, or 0. -/
def State.tensorStatus (s : State) (part core : Nat) (l : List Byte) : Nat :=
  let t := s.tensorOf core l
  let base := fieldOf l 0 8
  let sbase := fieldOf l 8 8
  let cbook := fieldOf l 16 8
  let row := rowBytesOf t.fmt t.cols
  let blocks := (t.cols + 31) / 32
  if 8 ≤ t.fmt then 1
  else if t.rows = 0 ∨ t.cols = 0 ∨ (t.fmt = 7 ∧ t.cols % 32 ≠ 0) ∨ t.stride < row ∨ (sbase ≠ 0 ∧ t.sstride < blocks) ∨
      (cbook ≠ 0 ∧ t.fmt ≠ 7) then 2
  else if !inPads base ∨ (sbase ≠ 0 ∧ !inPads sbase) ∨ (t.fmt = 7 ∧ !inPads cbook) ∨ fieldOf l 41 1 ≠ windowOf base - 0xF0 ∨
      !s.rangeOk part core base ((t.rows - 1) * t.stride + row) ∨
      (sbase ≠ 0 ∧ !s.rangeOk part core sbase ((t.rows - 1) * t.sstride + blocks)) ∨
      (t.fmt = 7 ∧ !s.rangeOk part core cbook 1024) ∨
      base % fmtAlign t.fmt ≠ 0 ∨ t.stride % fmtAlign t.fmt ≠ 0 ∨ (t.fmt = 7 ∧ cbook % 4 ≠ 0) then 3
  else 0

/-- What stops an engine's access on its way to a place, or its reply (R285, R411). -/
def State.padStop (s : State) (part core : Nat) (p : Place) : Option (Nat × Nat) :=
  match s.routeFault part core p false with | some u => some u | none => s.routeFault part core p true

/-! ## Words at their banks -/

/-- A step of the module `n` cycles on, unless it is placed there already. -/
def State.tick (s : State) (n : Nat) (i : Instr) : State := if s.pend.any (fun e => decide (e = (s.now + n, i))) then s else s.after n i

def State.tile (s : State) (id : Nat) : Option TileCmd := s.tileCmds.find? (fun c => c.id = id)
def State.updTile (s : State) (id : Nat) (f : TileCmd → TileCmd) : State :=
  { s with tileCmds := updEach (fun c => c.id == id) f s.tileCmds }

/-- The latency L(w) of R271: 8 cycles for a core's own scratchpad, else the bound of R46. -/
def State.padLat (s : State) (part core eng va : Nat) : Nat :=
  match s.resolveIn part core va with
  | some (.core k o) => if k = eng ∧ o < 2 ^ 19 then 8 else s.latency eng (.core k o)
  | some p => s.latency eng p
  | none => 8

/-- The core whose engine, or for a `TTSET` whose scheduler, reads and writes for a command. -/
def TileCmd.at_ (c : TileCmd) : Nat := c.engine.getD c.core

/-- A command ended without running, or by an error (R267); the scheduler logs the address, and a unit that did not let the access through logs
it too (R285). -/
def State.tileFault (s : State) (c : TileCmd) (addr : Nat) : State :=
  let s0 := match s.resolveIn c.part c.core addr with
    | some p => (match s.padStop c.part c.at_ p with | some u => s.logUnit c.tid c.part c.at_ p u | none => s)
    | none => s
  let s1 := s0.logError c.die 6 3 c.die addr (s.keyDetail c.tid)
  (s1.updTile c.id (fun x => { x with code := 3, ended := true, words := [] })).after 0 (.taskComplete c.id)

/-- The words of a range that an engine reads or writes, as core `view` names it: each at its bank half of its latency behind `sent`. -/
def State.padWords (s : State) (c : TileCmd) (write : Bool) (view : Nat) (sent : Nat → Nat) (va len : Nat) : List CopyWord :=
  (wordsIn write (fun _ => view) va len 0).map (fun w => { w with sent := max s.now (sent w.at_ + halfUp (s.padLat c.part view c.at_ w.va)) })

/-- Words added to the present phase of a command, and its step `ev` placed at the first cycle in which one of them is at its bank. -/
def State.addWords (s : State) (c : TileCmd) (ev : Instr) (l : List CopyWord) : State :=
  let s1 := s.updTile c.id (fun x => { x with words := x.words ++ l })
  match l with
  | [] => s1
  | w :: r => s1.tick (r.foldl (fun m x => min m x.sent) w.sent - s.now) ev

/-- A word at its bank: read, or written for the issuing thread (R260, R261, R266), with the cycle from which the engine has the answer. An error
response ends the command. -/
def State.tileWord (s : State) (c : TileCmd) (i : Nat) (w : CopyWord) (failed : State → State) : State :=
  let did := fun (data : List Byte) (back : Nat) (s : State) => s.updTile c.id (fun x =>
    { x with words := x.words.modify i (fun w => { w with state := .performed, data := data, ready := s.now + back }) })
  match s.resolveIn c.part w.unit w.va with
  | none => failed s
  | some (.global _) => failed s
  | some p =>
    if (s.padStop c.part c.at_ p).isSome then failed s
    else if w.write then did w.data 0 ((s.noteEngine c.tid p.chipKey w.len).bankWrite p.chipKey w.data)
    else
      let s1 := s.eccRead p.chipKey w.len (s.keyDetail c.tid)
      let lat := s.padLat c.part w.unit c.at_ w.va
      if s.eccBad p.chipKey w.len then failed s1 else did (s.peek p.chipKey w.len) (lat - halfUp lat) s1

/-- The words of a command that stand at their banks (R240, R241): at each bank its first one has its turn as class T, with the key of the issuing
thread; `ev` is the step that serves them. Requests that have come in this cycle wait until every other one has. -/
def State.tileServe (s0 : State) (id : Nat) (ev : Instr) (failed : Nat → State → State) : State :=
  match s0.tile id with
  | none => s0.leaveBank ev
  | some c =>
    let old := s0.bankq.filter (fun x => decide (x.who = ev))
    let s := s0.leaveBank ev
    let here := (c.words.zipIdx).filter (fun e => e.1.state == .waiting && decide (e.1.sent ≤ s.now))
    let server := fun (w : CopyWord) => match s.resolveIn c.part w.unit w.va with | some p => s.serverOf p | none => .home 0
    let key : Key := { lti := c.lti.toNat, name := s.nameOf c.core, slot := slotOf c.tid }
    let heads := here.foldl (fun (l : List (Server × CopyWord × Nat)) e => if l.any (fun x => x.1 == server e.1) then l else l ++ [(server e.1, e.1, e.2)]) []
    let items : List BankItem := heads.map (fun h =>
      { server := h.1, cls := .T, came := h.2.1.sent, key := key, part := c.part, ctx := c.ctx, who := ev,
        turn := match old.find? (fun x => x.server == h.1) with | some x => x.turn | none => s.nextTurn })
    let seen := fun (v : Server) (w : CopyWord) => decide (w.sent < s.now) || old.any (fun x => x.server == v)
    let s1 := heads.foldl (fun (s : State) h =>
      if seen h.1 h.2.1 && (s.cycleOf h.1).any (fun x => decide (x.who = ev)) then
        match s.tile id with
        | some c1 => if c1.ended then s
          else (s.setBank { s.bank h.1 with served := some s.now, next := BankClass.T.after }).tileWord c1 h.2.2 h.2.1 (failed h.2.1.va)
        | none => s
      else s) { s with bankq := s.bankq ++ items }
    match s1.tile id with
    | none => s1.leaveBank ev
    | some c1 =>
      if c1.ended then s1.leaveBank ev
      else
        let rest := c1.words.filter (fun w => w.state == .waiting)
        let s2 := { s1 with bankq := s1.bankq.filter (fun x => !(decide (x.who = ev) && !rest.any (fun w => decide (w.sent ≤ s1.now) && server w == x.server))) }
        if rest.isEmpty then s2
        else if heads.any (fun h => !seen h.1 h.2.1) then s2.tick 0 ev
        else if rest.any (fun w => decide (w.sent ≤ s2.now)) then s2.tick 1 ev
        else s2.tick (rest.foldl (fun m w => min m w.sent) (rest.headD default).sent - s2.now) ev

/-- A phase of a command goes on: its words are served, and behind the last of them `k` does what follows. -/
def State.tileServed (s : State) (id : Nat) (ev : Instr) (failed : Nat → State → State) (k : TileCmd → State → State) : State :=
  let s1 := s.tileServe id ev failed
  match s1.tile id with
  | none => s1
  | some c => if c.ended || c.words.any (fun w => w.state == .waiting) then s1 else k c s1

/-- What follows once each word of a phase has its answer, and not before `upto`: until then its step `ev` comes again. -/
def State.answered (s : State) (c : TileCmd) (upto : Nat) (ev : Instr) (k : State → State) : State :=
  let t := c.words.foldl (fun n w => max n w.ready) upto
  if s.now < t then s.tick (t - s.now) ev else k s

/-- A phase of a command that has no further words to ask for. -/
def State.tilePhase (s : State) (id upto : Nat) (ev : Instr) (failed : Nat → State → State) (k : TileCmd → State → State) : State :=
  s.tileServed id ev failed (fun c s => s.answered c upto ev (k c))

/-! ## Operands -/

/-- The bytes that the words of a command's present phase have brought. -/
def TileCmd.bytes (c : TileCmd) (va n : Nat) : List Byte :=
  let l := c.words.filter (fun w => !w.write && decide (w.va < va + n) && decide (va < w.va + w.len))
  (List.range n).map (fun k => match l.find? (fun w => decide (w.va ≤ va + k) && decide (va + k < w.va + w.len)) with
    | some w => w.data.getD (va + k - w.va) 0
    | none => 0)

/-- The bytes of `n` elements of a row from column `c0`: their address and number (R248). -/
def Tensor.elemRange (t : Tensor) (row c0 n : Nat) : Nat × Nat :=
  let w := fmtBits t.fmt
  (t.base.toNat + row * t.stride + c0 * w / 8, ((c0 + n) * w + 7) / 8 - c0 * w / 8)

/-- Whether a tensor's rows have scale bytes (R178). -/
def Tensor.scaled (t : Tensor) : Bool := decide (2 < t.fmt) && t.sbase != 0

/-- The ranges that `n` elements of a row from column `c0` are read from: the elements and the scale bytes of their blocks (R178, R248). -/
def Tensor.rowRanges (t : Tensor) (row c0 n : Nat) : List (Nat × Nat) :=
  t.elemRange row c0 n ::
    (if t.scaled && decide (0 < n) then [(t.sbase.toNat + row * t.sstride + c0 / 32, (c0 + n - 1) / 32 - c0 / 32 + 1)] else [])

/-- The codes of `n` elements of a row from column `c0` (R248). -/
def TileCmd.elems (c : TileCmd) (t : Tensor) (row c0 n : Nat) : List Nat :=
  let w := fmtBits t.fmt
  let e := t.elemRange row c0 n
  let x := bytesToNat (c.bytes e.1 e.2)
  (List.range n).map (fun i => x / 2 ^ ((c0 + i) * w - 8 * (c0 * w / 8)) % 2 ^ w)

/-- The scale byte of a row's block (R178): 127 where the format carries none or the tensor has none. -/
def TileCmd.scaleOf (c : TileCmd) (t : Tensor) (row block : Nat) : Nat :=
  if t.scaled then bytesToNat (c.bytes (t.sbase.toNat + row * t.sstride + block) 1) else 127

/-- The four indices of a CB2 group, and the addresses of the codebook entries they name (R180). -/
def TileCmd.groupIdx (c : TileCmd) (t : Tensor) (row c0 : Nat) : List Nat :=
  let l := c.bytes (t.base.toNat + row * t.stride + c0 / 32 * 8) 8
  (List.range 4).map (fun q => fieldOf l (2 * q) 2)
def Tensor.entry (t : Tensor) (i : Nat) : Nat := t.cbook.toNat + 4 * (i % 256)

/-- What the operand latch takes of `n` elements of a row from column `c0`, a multiple of 32 (R260): their codes, or of a CB2 group the four
indices and the codebook entries they name (R180), and the block's scale byte. -/
def TileCmd.latchRow (c : TileCmd) (t : Tensor) (row c0 n : Nat) : List Nat × Nat :=
  let e := c.scaleOf t row (c0 / 32)
  if t.fmt = 7 then
    let idx := c.groupIdx t row c0
    (idx ++ idx.map (fun i => bytesToNat (c.bytes (t.entry i) 4)), e)
  else (c.elems t row c0 n, e)

/-- The ranges that such a row is read from; `more` says that a CB2 group's indices have been read, so that its codebook entries are known. -/
def TileCmd.latchRanges (c : TileCmd) (t : Tensor) (row c0 n : Nat) (more : Bool) : List (Nat × Nat) :=
  let scale := if t.scaled then [(t.sbase.toNat + row * t.sstride + c0 / 32, 1)] else []
  if t.fmt = 7 then
    let group := t.base.toNat + row * t.stride + c0 / 32 * 8
    scale ++ [(group, 8)] ++ (if more then (c.groupIdx t row c0).map (fun i => (t.entry i, 4)) else [])
  else scale ++ [t.elemRange row c0 n]

/-- An element widened with its block scale (R177, R178). -/
def widenScaled (fmt w e : Nat) : BitVec 32 :=
  if fmt ≤ 2 then widen fmt w
  else if e = 255 then nan32
  else match unpackCode fmt w with
    | .nan _ => nan32
    | .inf n => rne32 (.inf n)
    | .fin n m x => rne32 (.fin n m (x + e - 127))

/-- `n` widened elements of a row from any column. -/
def TileCmd.widenRow (c : TileCmd) (t : Tensor) (row c0 n : Nat) : List (BitVec 32) :=
  let l := c.elems t row c0 n
  (List.range n).map (fun i => widenScaled t.fmt (l.getD i 0) (c.scaleOf t row ((c0 + i) / 32)))

/-- The words of some ranges of a tensor that the present phase has not asked for yet. -/
def State.missing (s : State) (c : TileCmd) (view : Nat) (from_ : Nat) (l : List (Nat × Nat)) : List CopyWord :=
  ((l.flatMap (fun e => s.padWords c false view (fun _ => from_) e.1 e.2)).foldl (fun (acc : List CopyWord) w =>
    if (c.words ++ acc).any (fun x => !x.write && x.unit == w.unit && x.va == w.va && x.len == w.len) then acc else acc ++ [w]) [])

/-- The values of the `n` elements of a latched row, with the block's scale (R173, R180, R260). -/
def feedOf (fmt n : Nat) (x : List Nat × Nat) : List FVal × Nat :=
  if fmt = 7 then
    ((List.range n).map (fun i => let y := cb2Elem (x.1.getD (i / 8) 0) (x.1.getD (4 + i / 8) 0) (i % 8); FVal.fin y.1 y.2 0), x.2)
  else (x.1.map (unpackCode fmt), x.2)

/-! ## Issue -/

/-- Whether the matrix members are legal for the issuing thread (R250). -/
def State.matrixOk (s : State) : Bool := slotOf s.cur != 15 && !isMem (coreOf s.cur)

/-- A command without its kind's fields. -/
def State.newTile (s : State) (kind : Nat) : TileCmd :=
  { id := s.nextId, kind := kind, tid := s.cur, epoch := s.me.epoch, core := coreOf s.cur, part := s.me.part, ctx := s.me.ctx,
    launch := s.me.launch, die := dieOf (coreOf s.cur), record := [], addr := 0, operand := 0, tag := none, chainTag := none, signal := none, a := none, b := none,
    cT := none, d := none, r := none, wb0 := none, gen0 := 0, wb1 := none, gen1 := 0, idx := [], accepted := none, order := 0, engine := none,
    dispatched := none, step := 0, latch := [], code := 0, report := none, ended := false, ord := none, lti := s.me.lti }

/-- R249. TTSET: entry b[7:0] of the die's tensor table from the descriptor at a. -/
def execTtset (b a d : BitVec 6) (s : State) : Out := .next (
  issue { len := 4, legal := s.matrixOk, srcs := [gRef a.toNat, gRef b.toNat], dsts := [gRef d.toNat] }
    (fun s =>
      let ga := s.me.gv a
      let gb := s.me.gv b
      if 2 ^ 8 ≤ gb.toNat then s.trap cPROT gb 4
      else
        checkAddr ga 64 Rights.r 4 (fun p s =>
          memIssue .loads (fun s =>
            let id := s.nextId
            let r : Req := { id := id, tid := s.cur, epoch := s.me.epoch, op := .ttset, va := ga, place := p, dst := some (gRef d.toNat),
                             cls := .loads, issued := s.now, state := .waiting }
            let cmd := { s.newTile 0 with addr := s.engineAddr (coreOf s.cur) ga.toNat, operand := gb }
            let s1 := ({ s with nextId := id + 1, reqs := s.reqs ++ [r], tileCmds := s.tileCmds ++ [cmd] }).upd
              (fun t => (t.countUp .loads).pendReg (gRef d.toNat))
            ((s1.touch s.cur (s.groupOf (coreOf s.cur) p)).after Config.tileAccept (.ttsetServe id)).advance 4) s) s) s)

/-- A command of the tile queue posted (R256): it parks while the queue has no free entry or 62 are outstanding. -/
def postTile (cmd : TileCmd) (ord : Option Nat) (s : State) : State :=
  let id := s.nextId
  let c := { cmd with id := id, ord := ord }
  let s1 := ({ s with nextId := id + 1, tileCmds := s.tileCmds ++ [c] }).updDie c.die (fun x => { x with tileq := x.tileq ++ [id] })
  ((s1.upd (fun t => { t with tiles := t.tiles + 1 })).after Config.tileAccept (.taskAccept id)).advance 4

/-- The room that such a command needs (R110, R140, R256). -/
def tileRoom (k : State → State) (s : State) : State :=
  if !s.me.acquires.isEmpty then s.parkOn .acquire
  else if Config.tileEntries ≤ (s.die (dieOf (coreOf s.cur))).tileq.length ∨ Config.maxOutstanding ≤ s.me.tiles then s.parkOn .count
  else k s

/-- A field of a record (R251). -/
def TileCmd.field (c : TileCmd) (o n : Nat) : Nat := fieldOf c.record o n
/-- The control word and its flags (R252). -/
def TileCmd.ctl (c : TileCmd) : Nat := c.field 0 4
def TileCmd.op (c : TileCmd) : Nat := bits c.ctl 31 28
def TileCmd.scope (c : TileCmd) : Nat := if c.kind = 1 then bits c.ctl 27 25 else 4
def TileCmd.rel (c : TileCmd) : Bool := c.kind != 1 || bit c.ctl 23
def TileCmd.ts (c : TileCmd) : Bool := c.kind == 1 && bit c.ctl 22
def TileCmd.hold (c : TileCmd) : Bool := c.kind == 1 && bit c.ctl 21
def TileCmd.chain (c : TileCmd) : Bool := c.kind == 1 && bit c.ctl 20
def TileCmd.cpres (c : TileCmd) : Bool := c.kind == 1 && bit c.ctl 19
def TileCmd.rpres (c : TileCmd) : Bool := c.kind == 1 && bit c.ctl 18
def TileCmd.drop (c : TileCmd) : Bool := c.kind == 1 && bit c.ctl 17
def TileCmd.rows (c : TileCmd) : Nat := bits (c.field 10 1) 6 0 + 1
def TileCmd.cols (c : TileCmd) : Nat := bits (c.field 11 1) 6 0 + 1
def TileCmd.m0 (c : TileCmd) : Nat := c.field 12 4
def TileCmd.n0 (c : TileCmd) : Nat := c.field 16 4
def TileCmd.kstart (c : TileCmd) : Nat := c.field 20 4
def TileCmd.kcount (c : TileCmd) : Nat := c.field 24 4
def TileCmd.icnt (c : TileCmd) : Nat := c.field 4 1
/-- The number of k-steps (R260). -/
def TileCmd.steps (c : TileCmd) : Nat := (c.kcount + 31) / 32

/-- The address a short pointer names (R253); none is no address. -/
def shortPtr (p : Nat) : Option Nat := if bits p 31 29 = 0 then none else some ((0xF0 + bits p 31 29) * 2 ^ 48 + bits p 28 0 * 4)
/-- Whether a short pointer is well formed. -/
def shortPtrOk (p : Nat) : Bool := if bits p 31 29 = 0 then bits p 28 0 == 0 else decide (bits p 31 29 ≤ 5)

/-- The record name of a bell of a command (R392). -/
def State.tileObj (s : State) (va : Option Nat) : Nat :=
  match va with | some w => (match s.resolve s.cur w with | some p => s.objOf p | none => w) | none => 0

/-- The ordinal of a task (R393): each of the wait-bells of an acquiring task has its GEN record under it. -/
def tileOrdinal (c : TileCmd) (w0 w1 : Option Nat) (k : Option Nat → State → State) (s : State) : State :=
  match c.acq, w0, w1 with
  | true, some _, some _ =>
    let o0 := s.tileObj w0
    let o1 := s.tileObj w1
    let ctx := s.me.ctx
    let first := match (s.ctx ctx).roll.cursor (s.actorOf s.cur) with
      | some (_, e) => if recObj e = o1 % 2 ^ 56 then o1 else o0
      | none => o0
    let other := if first = o0 then o1 else o0
    loggable 4 7 3 first (fun o => o = 3) false (fun ord s1 =>
      if !s.replaying ctx then k ord s1
      else
        let r := (s1.ctx ctx).roll
        let actual := mkRecord 7 3 0 (s.actorOf s.cur) (ord.getD 0) 0 other
        match r.cursor (s.actorOf s.cur) with
        | none => if r.closed then s.divergeAtIssue 4 none actual else s.parkOn .roll
        | some (i, e) =>
          if some (recOrd e) ≠ ord ∨ recType e ≠ 7 ∨ recOp e ≠ 3 ∨ recObj e ≠ other % 2 ^ 56 then s.divergeAtIssue 4 (some (i, e)) actual
          else k ord (s1.claim ctx [i])) s
  | true, some w, none => loggable 4 7 3 (s.tileObj (some w)) (fun o => o = 3) false k s
  | true, none, some w => loggable 4 7 3 (s.tileObj (some w)) (fun o => o = 3) false k s
  | _, _, _ => if c.rel then ordinal 4 k s else k none s

/-- R254. TQADD: the record at a goes to the scheduler of the die; it is read short, in the next cycle of its banks. -/
def execTqadd (a : BitVec 6) (s : State) : Out := .next (
  issue { len := 4, legal := s.matrixOk, srcs := [gRef a.toNat] }
    (fun s =>
      let ga := s.me.gv a
      if windowOf ga.toNat ≠ 0xF1 then s.trap cPROT ga 4
      else
        checkAddr ga 64 Rights.r 4 (fun p s =>
          tileRoom (fun s =>
            if (List.range 8).any (fun i => s.busyWord (ga.toNat + 8 * i)) then s.parkOn .count
            else
              let s := (s.eccRead p.chipKey 64 (s.keyDetail s.cur)).shortWords ((List.range 8).map (fun i => ga.toNat + 8 * i))
              let rec_ := s.peek p.chipKey 64
              let bell := fun (o : Nat) => match shortPtr (fieldOf rec_ o 4) with | some x => some (s.engineAddr (coreOf s.cur) x) | none => none
              let c := { s.newTile 1 with record := rec_, addr := s.engineAddr (coreOf s.cur) ga.toNat, wb0 := bell 52, wb1 := bell 56,
                                          gen0 := BitVec.ofNat 32 (fieldOf rec_ 40 4), gen1 := BitVec.ofNat 32 (fieldOf rec_ 44 4),
                                          signal := bell 60, code := if s.eccBad p.chipKey 64 then 3 else 0 }
              let c1 := { c with chainTag := if c.chain then some (c.field 7 1) else none, tag := if c.hold then some (c.field 8 1) else none }
              tileOrdinal c1 c1.wb0 c1.wb1 (postTile c1) s) s) s) s)

/-- The size of an accumulator image (R265). -/
def imageSize : Nat := 65600

/-- ACCSV, ACCSVK and ACCLD at issue (R264). A malformed short pointer to the signal bell raises PROT with gb (DESIGN CHOICE, log 31: R264 names only
bits 31:8). -/
def accMove (kind : Nat) (b a : BitVec 6) (s : State) : State :=
  issue { len := 4, legal := s.matrixOk, srcs := [gRef a.toNat, gRef b.toNat] }
    (fun s =>
      let ga := s.me.gv a
      let gb := s.me.gv b
      let va := ga.toNat
      if bits gb.toNat 31 8 ≠ 0 ∨ !shortPtrOk (bits gb.toNat 63 32) then s.trap cPROT gb 4
      else if !inPads va ∨ !s.rangeOk s.me.part (coreOf s.cur) va imageSize then s.trap cPROT ga 4
      else if va % 64 ≠ 0 then s.trap cALIGN ga 4
      else
        tileRoom (fun s =>
          let tag := bits gb.toNat 7 0
          let sig := match shortPtr (bits gb.toNat 63 32) with | some x => some (s.engineAddr (coreOf s.cur) x) | none => none
          let c := { s.newTile kind with addr := s.engineAddr (coreOf s.cur) va, operand := gb, signal := sig,
                                         chainTag := if kind = 4 then none else some tag, tag := if kind = 4 then some tag else none }
          ordinal 4 (postTile c) s) s) s

/-- R264. ACCSV: saves the held accumulator and releases its tag. -/
def execAccsv (b a : BitVec 6) (s : State) : Out := .next (accMove 2 b a s)
/-- R264. ACCSVK: saves the held accumulator and keeps it. -/
def execAccsvk (b a : BitVec 6) (s : State) : Out := .next (accMove 3 b a s)
/-- R264. ACCLD: loads an accumulator under a tag. -/
def execAccld (b a : BitVec 6) (s : State) : Out := .next (accMove 4 b a s)

/-! ## The scheduler -/

/-- The key of a tag in its context's tag space of a die (R263). -/
def TileCmd.tagKey (c : TileCmd) (tag : Nat) : Nat := c.die * 256 + tag

/-- Whether a request of the thread that came before is not served yet: the requests of one thread are served in order (R249). -/
def State.tileBehind (s : State) (c : TileCmd) : Bool :=
  s.tileCmds.any (fun x => decide (x.id < c.id) && x.tid == c.tid && x.epoch == c.epoch && x.accepted.isNone && !x.ended)

/-- The address of a task's index vector. -/
def State.idxAddr (s : State) (c : TileCmd) : Nat := match shortPtr (c.field 48 4) with | some v => s.engineAddr c.core v | none => 0

/-- Whether a command's operands lie in a bank of a pre-empted core: it goes on once the core is back (R386). -/
def State.tileAway (s : State) (c : TileCmd) : Bool :=
  let vas := (c.a.toList ++ c.b.toList ++ c.cT.toList ++ c.d.toList ++ c.r.toList).flatMap (fun t => [t.base.toNat, t.sbase.toNat, t.cbook.toNat])
  !s.saved.isEmpty && (s.idxAddr c :: c.addr :: vas).any (fun va =>
    match s.resolveIn c.part c.core va with | some (.core k _) => (s.spillAt k c.part (.taskDispatch c.id)).isSome | _ => false)

/-- A TTSET ends (R249): its entry of the table is written or made invalid, and its status is on the way to gd, which it reaches 16 cycles and the
descriptor's latency behind the scheduler's read, with 8 cycles for window 0xF1. -/
def State.ttsetEnd (s : State) (c : TileCmd) (status : Nat) (t : Option Tensor) : State :=
  match s.req c.id with
  | none => s
  | some r =>
    let entry := c.die * 256 + c.operand.toNat % 256
    let lat := if windowOf r.va.toNat = 0xF1 then 8 else match s.resolveIn c.part c.core c.addr with | some p => s.latency c.core p | none => 8
    let s1 := { s with tileCmds := s.tileCmds.filter (fun x => x.id != c.id) }.updCtx c.ctx
      (fun x => { x with tensors := match t with | some t => tset x.tensors entry t | none => terase x.tensors entry })
    (s1.updReq c.id (fun r => { r with state := .performed, val := BitVec.ofNat 1024 status })).after
      (c.dispatched.getD s.now + 16 + lat - s.now) (.fillLands c.id)

/-- A descriptor that has been read: its checks, and the entry they allow (R249). -/
def State.ttsetRead (s : State) (c : TileCmd) (l : List Byte) : State :=
  match s.tensorStatus c.part c.core l with
  | 0 => s.ttsetEnd c 0 (some (s.tensorOf c.core l))
  | n => s.ttsetEnd c n none

/-- A request that reaches its die's scheduler has its turn (R256): of those of one cycle the one of the lowest thread key. -/
def State.tileTurn (s : State) (c : TileCmd) : Bool :=
  !s.pend.any (fun e => decide (e.1 ≤ s.now) && (match e.2 with
    | .taskAccept i => lower i
    | .ttsetServe i => lower i
    | _ => false))
where
  lower (i : Nat) : Bool :=
    match s.tile i with
    | some x => x.die == c.die && x.accepted.isNone && x.tid != c.tid && (s.keyOf x.tid).lt (s.keyOf c.tid)
    | none => false

/-- R249. The scheduler reads a descriptor and writes the tensor entry: from banks word by word, from a home in one access. -/
def execTtsetServe (id : Nat) (s0 : State) : Out := .next (
  let ev := Instr.ttsetServe id
  let old := s0.itemOf ev
  match s0.tile id with
  | none => s0.leaveBank ev
  | some c =>
    let s := s0.leaveBank ev
    let failed := fun (va : Nat) (s : State) => (s.logError (dieOf c.core) 6 3 c.die va (s.keyDetail c.tid)).ttsetEnd c 4 none
    if c.kind ≠ 0 then s
    else if c.dispatched.isNone && !s.tileTurn c then s.after 0 ev
    else if s.tileBehind c || s.tileAway c then s.after 1 ev
    else
      let from_ := c.dispatched.getD s.now
      match s.resolveIn c.part c.core c.addr with
      | none => failed c.addr s
      | some p =>
        match s.padStop c.part c.core p with
        | some u => (s.logUnit c.tid c.part c.core p u).ttsetEnd c 4 none
        | none =>
          match p with
          | .global va =>
            if s.invalidating va then s.after 1 ev
            else
              match s.faultAt c.core p with
              | some (slice, va, cause) => s.parkFault slice va cause (faultWho c.core (slotOf c.tid) 0 true c.part c.ctx (slice % 16) 0) (.tile id)
              | none =>
                let s1 := s.updTile id (fun x => { x with dispatched := some from_ })
                let key : Key := { lti := c.lti.toNat, name := s.nameOf c.core, slot := slotOf c.tid }
                let item : BankItem := { server := s.serverOf p, cls := .T, came := s.now, key := key, part := c.part, ctx := c.ctx, who := ev }
                let c1 := { c with dispatched := some from_ }
                s1.atSlice c.ctx c.part va ev (!c.words.isEmpty) false
                  (fun s => s.updTile id (fun x => { x with words := [{ unit := c.core, write := false, va := c.addr, len := 64, at_ := 0, state := .going, data := [], sent := s.now, ready := 0, line := true }] }))
                  (fun s => s.atServer old item (fun s =>
                    s.engineRead ev c.tid c.part c.core c.addr 64 (fun _ s => s.ttsetEnd c1 4 none) (fun l s => s.ttsetRead c1 l)))
          | _ =>
            if c.words.isEmpty then
              (s.updTile id (fun x => { x with dispatched := some from_ })).addWords c ev (s.padWords c false c.core (fun _ => s.now) c.addr 64)
            else
              s0.tilePhase id 0 ev failed (fun c s => s.ttsetRead c (c.words.flatMap (fun w => w.data))))

/-- The rows and columns that an accumulator of a tag has or comes to have (R263): those of the latest task accepted to leave it held, else of
the held one; an `ACCLD` that has not run yet leaves them open, and the check is made at the dispatch. -/
def State.tagDims (s : State) (c : TileCmd) (tag : Nat) : Option (Nat × Nat) :=
  let ahead := s.tileCmds.filter (fun x => x.ctx == c.ctx && x.die == c.die && x.id != c.id && x.accepted.isSome && !x.ended && x.tag == some tag)
  match ahead.foldl (fun (m : Option TileCmd) x => match m with | some y => if y.order < x.order then some x else some y | none => some x) none with
  | some x => if x.kind = 1 then some (x.rows, x.cols) else none
  | none => ((coresOfDie c.die).find? (fun e => (s.core e).engine.held.contains (c.ctx, tag))).map (fun e => (s.core e).engine.dims)

/-- The checks of a task at acceptance (R255, R263), with its snapshots taken. A scope code of 6 or 7 fails none of them and acts as the module's, and an
index count without an index vector fails (DESIGN CHOICE, log 31: R6 makes only an instruction ILLEGAL, and R255 does not list the second). -/
def State.taskOk (s : State) (c : TileCmd) : Bool :=
  let x := s.ctx c.ctx
  let inRows := fun (t : Option Tensor) => match t with | some t => decide (c.m0 + c.rows ≤ t.rows) && decide (c.n0 + c.cols ≤ t.cols) | none => false
  let claimed := fun (tag : Nat) => x.claimed.contains (c.tagKey tag)
  let ptr := fun (o align n : Nat) =>
    let p := c.field o 4
    shortPtrOk p && (match shortPtr p with
      | none => true
      | some v => v % align == 0 && s.rangeOk c.part c.core v n)
  c.code == 0 && c.op == 0 && ptr 60 32 32 && ptr 56 16 16 && ptr 52 16 16 &&
  ptr 48 4 (max 4 (4 * c.icnt)) && decide (c.icnt ≤ 128) && (c.icnt == 0 || (shortPtr (c.field 48 4)).isSome) &&
  (match c.a, c.b with
   | some a, some b =>
     decide (a.fmt ≤ 6) && decide (c.kstart + c.kcount ≤ a.cols) && decide (c.kstart + c.kcount ≤ b.cols) &&
       decide (c.n0 + c.cols ≤ b.rows) && (if c.icnt = 0 then decide (c.m0 + c.rows ≤ a.rows) else c.rows == c.icnt)
   | _, _ => false) &&
  c.kstart % 32 == 0 &&
  (c.hold || (match c.d with
    | some d => decide (d.fmt ≤ 6) && d.sbase == 0 && inRows c.d && (d.fmt != 5 || (c.n0 % 2 == 0 && c.cols % 2 == 0))
    | none => false)) &&
  (!c.cpres || ((match c.cT with | some t => decide (t.fmt ≤ 6) | none => false) && inRows c.cT)) &&
  (!c.rpres || ((match c.r with | some t => decide (t.fmt ≤ 6) | none => false) && inRows c.r)) &&
  !(c.hold && claimed (c.field 8 1) && !(c.chain && c.field 7 1 == c.field 8 1)) &&
  !(c.chain && !claimed (c.field 7 1)) && !(c.chain && c.cpres) && !(c.hold && (c.rpres || c.drop || c.ts)) &&
  (!c.chain || (match s.tagDims c (c.field 7 1) with | some d => d == (c.rows, c.cols) | none => true))

/-- The tags a command names. -/
def TileCmd.tags (c : TileCmd) : List Nat := (c.tag.toList ++ c.chainTag.toList).map c.tagKey

/-- Whether a command `x` was accepted before `c`. -/
def earlierTile (x c : TileCmd) : Bool :=
  match x.accepted, c.accepted with
  | some _, some _ => decide (x.order < c.order)
  | _, _ => false

/-- Whether an earlier accepted command on the input tag has not completed (R257). -/
def State.chainWaits (s : State) (c : TileCmd) : Bool :=
  match c.chainTag with
  | none => false
  | some t => s.tileCmds.any (fun x => x.ctx == c.ctx && earlierTile x c && !x.ended && x.tags.contains (c.tagKey t))

/-- Whether the release of a command is performed (R234, R257). -/
def State.tileReleased (s : State) (c : TileCmd) : Bool :=
  !c.rel || !s.reqs.any (fun q => decide (q.id < c.id) && q.tid == c.tid && q.epoch == c.epoch && q.open && q.op.accesses)

/-- The cores of a die in ascending local index from a core's own, wrapping (R258). -/
def engineOrder (core : Nat) : List Nat :=
  let d := dieOf core
  let own := rowOf core % 8 * 8 + colOf core % 8
  (List.range 64).map (fun i => coordOf (d % 16 * 8 + (own + i) % 64 % 8) (d / 16 * 8 + (own + i) % 64 / 8))

/-- Whether an engine may take tasks of a partition (R258). -/
def State.engineIn (s : State) (c : TileCmd) (e : Nat) : Bool :=
  !(s.core e).engine.out && !(s.core e).halted && (match tfind s.parts c.part with | some p => p.cores.any (fun n => p.phys n == e) | none => false)

/-- The engine that a command runs on now, if one is free for it (R258, R263). -/
def State.chooseEngine (s : State) (c : TileCmd) : Option Nat :=
  let free := fun (e : Nat) => s.engineIn c e && (s.core e).engine.task.isNone && (s.core e).engine.held.isEmpty
  match c.chainTag with
  | some t =>
    match (coresOfDie c.die).find? (fun e => (s.core e).engine.held.contains (c.ctx, t)) with
    | some e => if (s.core e).engine.task.isNone && !(s.core e).engine.out && !(s.core e).halted then some e else none
    | none => none
  | none =>
    if s.levelOf c.ctx = 3 then
      match (engineOrder c.core).find? (s.engineIn c) with
      | some e =>
        let waits := s.tileCmds.any (fun x => earlierTile x c && !x.ended && x.engine.isNone && x.chainTag.isNone && s.levelOf x.ctx == 3 &&
          (engineOrder x.core).find? (s.engineIn x) == some e)
        if free e && !waits then some e else none
      | none => none
    else (engineOrder c.core).find? free

/-- A held accumulator on an engine out of service moves to a free engine before its next command (R270). -/
def State.moveHeld (s : State) (c : TileCmd) : State :=
  match c.chainTag with
  | none => s
  | some t =>
    match (coresOfDie c.die).find? (fun e => (s.core e).engine.held.contains (c.ctx, t) && (s.core e).engine.out) with
    | none => s
    | some e =>
      match (engineOrder e).find? (fun f => s.engineIn c f && (s.core f).engine.task.isNone && (s.core f).engine.held.isEmpty) with
      | none => s
      | some f =>
        let x := (s.core e).engine
        (s.updCore f (fun k => { k with engine := { k.engine with acc := x.acc, held := x.held, dims := x.dims } })).updCore e
          (fun k => { k with engine := { k.engine with acc := [], held := [], dims := (0, 0) } })

/-- Whether the input tag of a command has been released by an `ACCSV` before it since its acceptance: it is an unclaimed tag now (R263; log 31). -/
def State.tagGone (s : State) (c : TileCmd) : Bool :=
  match c.chainTag with
  | some t => !(s.ctx c.ctx).claimed.contains (c.tagKey t)
  | none => false

/-- One command considered by the scheduler: ended on a poisoned tag, sent to its engine, or left (R257, R258, R263). -/
def State.trySchedule (s : State) (c0 : TileCmd) : State :=
  match s.tile c0.id with
  | none => s
  | some c =>
    if c.accepted.isNone ∨ c.engine.isSome ∨ c.ended ∨ c.wb0.isSome ∨ c.wb1.isSome ∨ s.chainWaits c then s
    else if c.tags.any (fun k => (s.ctx c.ctx).poisoned.contains k) || s.tagGone c then s.tileFault c c.addr
    else if !s.tileReleased c then s.afterOnce 1 (.taskAccept c.id)
    else
      let s1 := s.moveHeld c
      match s1.chooseEngine c with
      | none => s1
      | some e =>
        let s2 := if c.rel && 2 ≤ c.scope && (s1.thread c.tid).epoch == c.epoch then s1.releaseFence c.tid else s1
        let s3 := if c.acq && 2 ≤ c.scope && (s2.thread c.tid).epoch == c.epoch then s2.dropSI c.tid else s2
        let test := if (s3.core e).engine.test then 32 else 0
        let s4 := (s3.updCore e (fun k => { k with engine := { k.engine with task := some c.id, test := false } })).updTile c.id (fun x => { x with engine := some e })
        if c.kind = 1 then s4.after (Config.tileDispatch + test) (.taskDispatch c.id)
        else s4.after (Config.tileDispatch + test) (.accumulatorMoveRun c.id)

/-- Every accepted command of a die considered, in order of acceptance (R258). -/
def State.schedule (s : State) (die : Nat) : State :=
  let l := s.tileCmds.filter (fun c => c.die == die && c.accepted.isSome && c.engine.isNone && !c.ended)
  (sortTiles l).foldl (fun s c => s.trySchedule c) s
where
  sortTiles (l : List TileCmd) : List TileCmd := l.foldl ins []
  ins (acc : List TileCmd) (x : TileCmd) : List TileCmd :=
    match acc with
    | [] => [x]
    | y :: r => if earlierTile x y then x :: y :: r else y :: ins r x

/-- The scheduler has read the generation of a wait-bell (R234, R257): it differs, or the scheduler waits at the bank. -/
def State.tileLearn (s : State) (c : TileCmd) (which : Nat) : State :=
  match (if which = 0 then c.wb0 else c.wb1) with
  | none => s
  | some w =>
    let key := s.bellKey c.part c.core w
    let obj := s.bellObj c.part c.core w
    let g := (s.genOf key).toNat % 2 ^ 31
    let seen := fun (s : State) => s.updTile c.id (fun x => if which = 0 then { x with wb0 := none } else { x with wb1 := none })
    if s.genOf key = (if which = 0 then c.gen0 else c.gen1) then
      ({ s with waiters := s.waiters.filter (fun x => x.2 != .tile c.id which) } : State).wait key c.ctx (.tile c.id which) true
    else if !c.acq then seen s
    else
      match s.turnOf c.ctx 7 obj (s.actorOf c.tid) c.ord with
      | .wait => s.after 1 (.waitBellNotice c.id)
      | .free => if s.recording c.ctx then seen (s.record c.ctx (mkRecord 7 3 0 (s.actorOf c.tid) (c.ord.getD 0) g obj)) else seen s
      | .mine i x => if genReached (recVal x) g then seen (s.unqueue c.ctx i) else s.after 1 (.waitBellNotice c.id)

/-- Both wait-bells of a task read, and the scheduler's work done. -/
def State.tileNotice (s : State) (id : Nat) : State :=
  match s.tile id with
  | none => s
  | some c =>
    if c.accepted.isNone ∨ c.engine.isSome ∨ c.ended then s
    else
      let s1 := s.tileLearn c 0
      let s2 := match s1.tile id with | some c1 => s1.tileLearn c1 1 | none => s1
      s2.schedule c.die

/-- R234, R257. A bank's notice reaches a copy engine or the tile scheduler. -/
def execWaitBellNotice (cmd : Nat) (s : State) : Out := .next ((s.copyNotice cmd).tileNotice cmd)

/-- A task that fails at acceptance: the GEN records of its acquiring wait-bells are written, or leave their queues, at their places (R393); until then
it is not accepted. -/
def State.refuseTile (s : State) (c : TileCmd) (k : State → State) : State :=
  let one := fun (wb : Option Nat) (clear : TileCmd → TileCmd) (k : State → State) (s : State) =>
    match c.acq, wb with
    | true, some w => s.refusedAt c.ctx 7 3 (s.bellObj c.part c.core w) c.tid c.ord (fun s => s.after 1 (.taskAccept c.id)) (fun s => k (s.updTile c.id clear))
    | _, _ => k s
  one c.wb0 (fun x => { x with wb0 := none }) (one c.wb1 (fun x => { x with wb1 := none }) k) s

/-- A command accepted: its snapshots, checks and claims (R246, R255, R263, R264). -/
def State.acceptTile (s0 : State) (c1 : TileCmd) : State :=
  let s : State := { s0 with nextId := s0.nextId + 1 }
  let c0 : TileCmd := { c1 with order := s0.nextId }
  let x := s.ctx c0.ctx
  let entry := fun (o : Nat) => tfind x.tensors (c0.die * 256 + c0.field o 1)
  let c : TileCmd := if c0.kind = 1 then
      { c0 with accepted := some s.now, a := entry 5, b := entry 6, cT := if c0.cpres then entry 7 else none,
                d := if c0.hold then none else entry 8, r := if c0.rpres then entry 9 else none }
    else { c0 with accepted := some s.now }
  let s1 := s.updTile c.id (fun _ => c)
  let claim := fun (s : State) (t : Nat) =>
    s.updCtx c.ctx (fun x => { x with claimed := if x.claimed.contains (c.tagKey t) then x.claimed else x.claimed ++ [c.tagKey t] })
  let size := if c.kind = 1 then 32 else 16
  let sigOk := match c.signal with | some v => v % size == 0 && s.rangeOk c.part c.core v size | none => true
  let ok := match c.kind with
    | 1 => s1.taskOk c
    | 4 => sigOk && !x.claimed.contains (c.tagKey (c.tag.getD 0))
    | _ => sigOk && x.claimed.contains (c.tagKey (c.chainTag.getD 0))
  if !ok then
    -- a bell that fails its own check takes no credit; a refused claim is not a command on the tag (log 31)
    let refused := c.tag.isSome && c.chainTag.isNone
    s.refuseTile c (fun s => (s.updTile c.id (fun _ => { c with
      wb0 := none, wb1 := none, signal := if sigOk then c.signal else none, tag := if refused then none else c.tag })).tileFault c c.addr)
  else
    let s2 := match c.tag with | some t => claim s1 t | none => s1
    if c.wb0.isNone ∧ c.wb1.isNone then s2.schedule c.die
    else
      let trip := max (if c.wb0.isSome then s2.bellTrip c.part c.core c.wb0 else 0) (if c.wb1.isSome then s2.bellTrip c.part c.core c.wb1 else 0)
      s2.after trip (.waitBellNotice c.id)

/-- R255. The scheduler accepts a command, in its thread's order; an accepted one is considered again. -/
def execTaskAccept (id : Nat) (s : State) : Out := .next (
  match s.tile id with
  | none => s
  | some c =>
    if c.kind = 0 then s
    else if c.accepted.isSome then s.schedule c.die
    else if !s.tileTurn c then s.after 0 (.taskAccept id)
    else if s.tileBehind c then s.after 1 (.taskAccept id)
    else s.acceptTile c)

/-! ## Running a task -/

/-- The cycles of a k-step by input format (R245). -/
def stepCycles (fmt : Nat) : Nat := match fmt with | 0 => 512 | 1 => 128 | 2 => 128 | 3 => 64 | 4 => 64 | 6 => 64 | _ => 32
/-- The cycles of a task's k-steps: those of the slower of its two formats. -/
def TileCmd.cycles (c : TileCmd) : Nat :=
  max (match c.a with | some t => stepCycles t.fmt | none => 0) (match c.b with | some t => stepCycles t.fmt | none => 0)

/-- A tensor's latency for an engine, with that of its scales and codebook (R271). -/
def State.tensorLat (s : State) (c : TileCmd) (eng : Nat) (t : Option Tensor) : Nat :=
  match t with
  | none => 0
  | some t =>
    let l := fun (a : Word) => if a = 0 then 0 else s.padLat c.part t.core eng a.toNat
    max (l t.base) (max (l t.sbase) (l t.cbook))

/-- A tensor's latency for an engine, without that of its scales: of C, the residual and D (R271). -/
def State.baseLat (s : State) (c : TileCmd) (eng : Nat) (t : Option Tensor) : Nat :=
  match t with | none => 0 | some t => s.padLat c.part t.core eng t.base.toNat

/-- The cycles until the operands of step 0 are latched (R271). -/
def State.operandTime (s : State) (c : TileCmd) (eng : Nat) : Nat :=
  16 + (if c.icnt = 0 then 0 else s.padLat c.part c.core eng (s.idxAddr c)) +
    max (s.tensorLat c eng c.a) (max (s.tensorLat c eng c.b) (s.baseLat c eng c.cT))

/-- The cycles of a drain (R271). -/
def State.drainTime (s : State) (c : TileCmd) (eng : Nat) : Nat :=
  match c.d with
  | none => 0
  | some d =>
    16 + (if c.rpres then s.baseLat c eng c.r else 0) + (c.rows * c.cols * fmtBits d.fmt / 8 + 63) / 64 + s.baseLat c eng (some d)

/-- The tile's places: element (i, j) lies at 128 i + j of the accumulator. -/
def TileCmd.cells (c : TileCmd) : List (Nat × Nat) := (List.range c.rows).flatMap (fun i => (List.range c.cols).map (fun j => (i, j)))

/-- An engine's accumulator set. -/
def State.setAcc (s : State) (eng : Nat) (f : Tbl (BitVec 32) → Tbl (BitVec 32)) : State :=
  s.updCore eng (fun k => { k with engine := { k.engine with acc := f k.engine.acc } })

/-- What follows the latest k-step of a task: the next one, the drain, or the end (R260, R261). A chained task sums into the held accumulator, which
then stands under its input tag too (DESIGN CHOICE, log 31: R263 does not say what the input tag holds behind it). -/
def State.afterStep (s : State) (c : TileCmd) (eng : Nat) : State :=
  let phase := fun (n : Nat) (s : State) => s.updTile c.id (fun x => { x with from_ := s.now, upto := s.now + n, words := [] })
  if (s.core eng).halted then s
  else if c.step < c.steps then (phase 0 s).tick 0 (.kStep eng)
  else if c.hold then
    ((s.updCore eng (fun k => { k with engine := { k.engine with
      held := if k.engine.held.contains (c.ctx, c.field 8 1) then k.engine.held else k.engine.held ++ [(c.ctx, c.field 8 1)],
      dims := (c.rows, c.cols) } })).updTile c.id (fun x => { x with ended := true })).after 0 (.taskComplete c.id)
  else (phase (s.drainTime c eng) s).tick 0 (.taskDrain eng)

/-- The first element and the number of elements of a k-step (R260). -/
def TileCmd.slice (c : TileCmd) (step : Nat) : Nat × Nat := (c.kstart + 32 * step, min 32 (c.kcount - 32 * step))

/-- The row of A that feeds an output row (R259). -/
def TileCmd.rowA (c : TileCmd) (i : Nat) : Nat := if c.icnt = 0 then c.m0 + i else c.idx.getD i 0

/-- The words that the operands of a k-step still need (R260): none where the task has no such step. -/
def State.stepWords (s : State) (c : TileCmd) (step : Nat) : List CopyWord :=
  match c.a, c.b with
  | some a, some b =>
    if c.steps ≤ step then []
    else
      let x := c.slice step
      let rows := fun (more : Bool) => s.missing c b.core c.from_ ((List.range c.cols).flatMap (fun j => c.latchRanges b (c.n0 + j) x.1 x.2 more))
      let l := s.missing c a.core c.from_ ((List.range c.rows).flatMap (fun i => c.latchRanges a (c.rowA i) x.1 x.2 false)) ++ rows false
      if l.isEmpty ∧ b.fmt = 7 then rows true else l
  | _, _ => []

/-- The operands of a k-step as the latch takes them from the words read (R260). -/
def TileCmd.latchStep (c : TileCmd) (step : Nat) : List (List Nat × Nat) × List (List Nat × Nat) :=
  match c.a, c.b with
  | some a, some b =>
    let x := c.slice step
    ((List.range c.rows).map (fun i => c.latchRow a (c.rowA i) x.1 x.2), (List.range c.cols).map (fun j => c.latchRow b (c.n0 + j) x.1 x.2))
  | _, _ => ([], [])

/-- The words that the tile of C, or the residual, still needs (R259, R261). -/
def State.tileWords (s : State) (c : TileCmd) (t : Option Tensor) (from_ : Nat) : List CopyWord :=
  match t with
  | some t => s.missing c t.core from_ ((List.range c.rows).flatMap (fun i => t.rowRanges (c.m0 + i) c.n0 c.cols))
  | none => []

/-- The accumulator as a task starts it (R259). -/
def TileCmd.startAcc (c : TileCmd) : Tbl (BitVec 32) :=
  match c.cpres, c.cT with
  | true, some t =>
    let rows := (List.range c.rows).map (fun i => c.widenRow t (c.m0 + i) c.n0 c.cols)
    c.cells.foldl (fun m e => tput 0 m (128 * e.1 + e.2) ((rows.getD e.1 []).getD e.2 0)) []
  | _, _ => []

/-- A task's fault at an address, by number. -/
def State.faultTile (s : State) (id va : Nat) : State := match s.tile id with | some c => s.tileFault c va | none => s

/-- The operands that a dispatched task reads before its first k-step: of a gathered one the index vector first, then C and the operands of step 0,
a codebook's entries right behind the indices that name them (R271); with them it starts its accumulator (R259, R260). -/
def State.dispatchGo (s : State) (c : TileCmd) (eng : Nat) : State :=
  let ev := Instr.taskDispatch c.id
  let idx := (List.range c.icnt).map (fun i => fieldOf (c.bytes (s.idxAddr c) (4 * c.icnt)) (4 * i) 4)
  let limit := match c.a with | some t => t.rows | none => 0
  if c.idx.length < c.icnt then
    (if c.words.isEmpty then s.addWords c ev (s.padWords c false c.core (fun _ => s.now) (s.idxAddr c) (4 * c.icnt))
     else s.answered c 0 ev (fun s =>
       if idx.any (fun r => decide (limit ≤ r)) then s.tileFault c c.addr
       else (s.updTile c.id (fun x => { x with idx := idx, words := [], from_ := s.now })).tick 0 ev))
  else
    let l := (if c.cpres && !c.chain then s.tileWords c c.cT c.from_ else []) ++ s.stepWords c 0
    if !l.isEmpty then s.addWords c ev l
    else s.answered c c.upto ev (fun s =>
      let s1 := s.updTile c.id (fun x => { x with words := [], from_ := s.now, latch := if 0 < c.steps then [c.latchStep 0] else [] })
      (if c.chain then s1 else s1.setAcc eng (fun _ => c.startAcc)).tick 0 (.kStep eng))

/-- A command on the engine of a stopped core, before its first k-step or in a move: it begins again when an engine goes on with it (R376, R378). -/
def State.stopTile (s : State) (c : TileCmd) (ev : Instr) : State :=
  (s.leaveBank ev).updTile c.id (fun x => { x with dispatched := none, words := [] })

/-- R258, R259. A task is dispatched: it reads what its first k-step needs. -/
def execTaskDispatch (id : Nat) (s0 : State) : Out := .next (
  let ev := Instr.taskDispatch id
  match s0.tile id with
  | none => s0.leaveBank ev
  | some c =>
    match c.engine with
    | none => s0.leaveBank ev
    | some eng =>
      if c.kind ≠ 1 ∨ c.ended then s0.leaveBank ev
      else if (s0.core eng).halted then s0.stopTile c ev
      else if s0.tileAway c then (s0.leaveBank ev).afterOnce Config.poll ev
      else if c.dispatched.isNone then
        if c.chain && (s0.core eng).engine.dims != (c.rows, c.cols) then (s0.updTile id (fun x => { x with dispatched := some s0.now })).tileFault c c.addr
        else (s0.updTile id (fun x => { x with dispatched := some s0.now, from_ := s0.now, upto := s0.now + s0.operandTime c eng })).after 0 ev
      else s0.tileServed id ev (fun va s => s.faultTile id va) (fun c s => s.dispatchGo c eng))

/-- A NaN stops a task (R268, R269): its report, and the held accumulator discarded. -/
def State.tileNan (s : State) (c : TileCmd) (eng step : Nat) : State :=
  let engine := c.die * 64 + rowOf eng % 8 * 8 + colOf eng % 8
  let rep : BitVec 128 := BitVec.ofNat 128 (c.m0 + 2 ^ 32 * c.n0 + 2 ^ 64 * engine + 2 ^ 96 * step)
  let tags := (s.core eng).engine.held
  let s1 := (s.updCore eng (fun k => { k with engine := { k.engine with held := [], acc := [] } })).updCtx c.ctx
    (fun x => { x with poisoned := x.poisoned ++ (tags.filter (fun t => t.1 == c.ctx)).map (fun t => c.tagKey t.2) })
  (s1.updTile c.id (fun x => { x with code := 2, report := some rep, ended := true })).after 0 (.taskComplete c.id)

/-- The sum of one k-step for an element (R181-R183). -/
def stepSum (a b : List FVal) : KSum := (a.zip b).foldl (fun k e => k.add e.1 e.2) {}

/-- The command that a core's engine runs. -/
def State.engineTask (s : State) (core : Nat) : Option TileCmd := match (s.core core).engine.task with | some id => s.tile id | none => none

/-- The accumulator behind one k-step of latched operands: every element takes the exact sum of the step, rounded once (R181-R183, R260). -/
def TileCmd.stepAcc (c : TileCmd) (a b : Tensor) (n : Nat) (l : List (List Nat × Nat) × List (List Nat × Nat)) (acc : Tbl (BitVec 32)) : Tbl (BitVec 32) :=
  let as := l.1.map (feedOf a.fmt n)
  let bs := l.2.map (feedOf b.fmt n)
  let halves := if b.fmt = 7 then 1 else 0
  c.cells.foldl (fun m e =>
    let x := as.getD e.1 ([], 127)
    let y := bs.getD e.2 ([], 127)
    tput 0 m (128 * e.1 + e.2) (kstepAcc (tget 0 acc (128 * e.1 + e.2)) (stepSum x.1 y.1) x.2 y.2 halves)) acc

/-- The k-step that an engine has finished: every sum is added, and a NaN among them stops the task (R181, R260, R268). -/
def State.stepDone (s : State) (c : TileCmd) (core : Nat) : State :=
  match c.a, c.b, c.latch with
  | some a, some b, l :: rest =>
    let acc := c.stepAcc a b (c.slice c.step).2 l (s.core core).engine.acc
    let s1 := s.setAcc core (fun _ => acc)
    if c.cells.any (fun e => (f32 (tget 0 acc (128 * e.1 + e.2))).isNaN) then s1.tileNan c core c.step
    else s1.updTile c.id (fun x => { x with step := c.step + 1, latch := rest, ends := none })
  | _, _, _ => s

/-- The operands of the next k-step that the latch has not are asked for, and latched once they are all there (R260). -/
def State.latchMore (s : State) (c : TileCmd) (core : Nat) : State :=
  let n := c.step + c.latch.length
  if 2 ≤ c.latch.length ∨ c.steps ≤ n then s
  else
    let l := s.stepWords c n
    if !l.isEmpty then s.addWords c (.kStep core) l
    else
      s.answered c 0 (.kStep core) (fun s => s.updTile c.id (fun x => { x with latch := c.latch ++ [c.latchStep n], words := [] }))

/-- R260. An engine's k-steps: one that has run its cycles adds its sums; while one runs, the operands of the next are read; the next one starts once
they are latched, and a task without a further k-step drains or ends. -/
def execKStep (core : Nat) (s0 : State) : Out := .next (
  let ev := Instr.kStep core
  match s0.engineTask core with
  | none => s0.leaveBank ev
  | some c0 =>
    if c0.kind ≠ 1 ∨ c0.dispatched.isNone ∨ c0.ended then s0.leaveBank ev
    else
      let s1 := if c0.ends.any (fun e => decide (e ≤ s0.now)) then s0.stepDone c0 core else s0
      let with_ := fun (s : State) (k : TileCmd → State → State) => match s.tile c0.id with
        | some c => if c.ended then s.leaveBank ev else k c s
        | none => s.leaveBank ev
      with_ s1 (fun c s =>
        if (s.core core).halted then s.leaveBank ev
        else if s.tileAway c then (s.leaveBank ev).afterOnce Config.poll ev
        else if c.steps ≤ c.step then s.afterStep c core
        else
          let s2 := s.tileServe c.id ev (fun va s => s.faultTile c.id va)
          with_ s2 (fun c s =>
            let s3 := if c.words.any (fun w => w.state == .waiting) then s else s.latchMore c core
            with_ s3 (fun c s =>
              if c.ends.isSome ∨ c.latch.isEmpty then s
              else ((s.updTile c.id (fun x => { x with ends := some (s.now + c.cycles), from_ := s.now })).tick 0 ev).tick c.cycles ev))))

/-- The bytes of a row of drained elements: FP32 to 8-bit formats whole, E2M1 two to a byte (R248). -/
def packRow (fmt : Nat) (l : List Nat) : List Byte :=
  let w := fmtBits fmt
  natToBytes (l.length * w / 8) ((List.range l.length).foldl (fun n i => n + l.getD i 0 * 2 ^ (i * w)) 0)

/-- The elements of a row that a drain writes, before their conversion, of accumulator and residual (R184, R261). -/
def TileCmd.drained (c : TileCmd) (acc : Tbl (BitVec 32)) (i : Nat) : List (BitVec 32) :=
  let res := match c.rpres, c.r with | true, some t => c.widenRow t (c.m0 + i) c.n0 c.cols | _, _ => []
  (List.range c.cols).map (fun j => drainY (tget 0 acc (128 * i + j)) res[j]?
    (if c.drop then some (dropKeep (BitVec.ofNat 32 (c.field 28 4)) (BitVec.ofNat 32 (c.field 32 4)) (c.m0 + i) (c.n0 + j), BitVec.ofNat 32 (c.field 36 4)) else none))

/-- The bytes of D that a drain writes, row by row: address and bytes (R177, R248, R261). -/
def TileCmd.drainRows (c : TileCmd) (d : Tensor) (acc : Tbl (BitVec 32)) : List (Nat × List Byte) :=
  (List.range c.rows).map (fun i => (d.base.toNat + (c.m0 + i) * d.stride + c.n0 * fmtBits d.fmt / 8,
    packRow d.fmt ((c.drained acc i).map (narrow d.fmt))))

/-- The words of a drain: 64 bytes of D leave the engine in each cycle (R271). -/
def State.drainWords (s : State) (c : TileCmd) (d : Tensor) (first : Nat) (rows : List (Nat × List Byte)) : List CopyWord :=
  (rows.foldl (fun (acc : Nat × List CopyWord) r =>
    (acc.1 + r.2.length, acc.2 ++ (s.padWords c true d.core (fun o => first + (acc.1 + o) / 64) r.1 r.2.length).map (fun w =>
      { w with data := (r.2.drop w.at_).take w.len }))) (0, [])).2

/-- A drain once its words so far are there (R261): the whole residual is read, then every element formed, then D written. -/
def State.drainGo (s : State) (c : TileCmd) (d : Tensor) (core : Nat) : State :=
  let ev := Instr.taskDrain core
  let l := if c.rpres then s.tileWords c c.r c.from_ else []
  if c.words.any (fun w => w.write) then
    (if s.now < c.upto then s.tick (c.upto - s.now) ev
     else (s.updTile c.id (fun x => { x with ended := true, words := [] })).after 0 (.taskComplete c.id))
  else if !l.isEmpty then s.addWords c ev l
  else
    let acc := (s.core core).engine.acc
    if (List.range c.rows).any (fun i => (c.drained acc i).any (fun y => (f32 y).isNaN)) then s.tileNan c core (2 ^ 32 - 1)
    else s.addWords c ev (s.drainWords c d (max s.now (c.from_ + 16 + (if c.rpres then s.baseLat c core c.r else 0))) (c.drainRows d acc))

/-- R261. An engine drains its tile into D: residual, dropout, conversion. -/
def execTaskDrain (core : Nat) (s0 : State) : Out := .next (
  let ev := Instr.taskDrain core
  match s0.engineTask core with
  | none => s0.leaveBank ev
  | some c =>
    match c.d with
    | none => s0.leaveBank ev
    | some d =>
      if c.kind ≠ 1 ∨ c.dispatched.isNone ∨ c.ended ∨ c.step < c.steps ∨ ((s0.core core).halted ∧ !c.words.any (fun w => w.write)) then s0.leaveBank ev
      else if s0.tileAway c then (s0.leaveBank ev).afterOnce Config.poll ev
      else s0.tilePhase c.id 0 ev (fun va s => s.faultTile c.id va) (fun c s => s.drainGo c d core))

/-! ## Moves of held accumulators -/

/-- The image of an accumulator (R265). -/
def accImage (e : Engine) (tag : Nat) : List Byte :=
  natToBytes 64 (tag + 2 ^ 8 * (e.dims.1 - 1) + 2 ^ 16 * (e.dims.2 - 1)) ++
    (List.range 16384).flatMap (fun n =>
      natToBytes 4 (if n / 128 < e.dims.1 ∧ n % 128 < e.dims.2 then (tget 0 e.acc n).toNat else 0))

/-- The accumulator of an image (R265). -/
def imageAcc (l : List Byte) (m n : Nat) : Tbl (BitVec 32) :=
  (List.range 16384).foldl (fun a i => if i / 128 < m ∧ i % 128 < n then tput 0 a i (BitVec.ofNat 32 (fieldOf l (64 + 4 * i) 4)) else a) []

/-- The words of an accumulator image: 64 bytes pass in each cycle (R271). -/
def State.imageWords (s : State) (c : TileCmd) (l : List Byte) : List CopyWord :=
  (s.padWords c (c.kind != 4) c.core (fun o => s.now + o / 64) c.addr imageSize).zipIdx.map (fun e =>
    { e.1 with data := if c.kind = 4 then [] else (l.drop (8 * e.2)).take 8 })

/-- An image moved (R264, R265): an `ACCLD` leaves the accumulator held under its tag, an `ACCSV` releases it. -/
def State.moveDone (s : State) (c : TileCmd) (eng : Nat) : State :=
  let finish := fun (s : State) => (s.updTile c.id (fun x => { x with ended := true, words := [] })).after 0 (.taskComplete c.id)
  let tag := c.chainTag.getD 0
  match c.kind with
  | 4 =>
    let l := c.words.flatMap (fun w => w.data)
    if fieldOf l 16 48 ≠ 0 then s.tileFault c c.addr
    else
      let m := fieldOf l 1 1 % 128 + 1
      let n := fieldOf l 2 1 % 128 + 1
      finish (s.updCore eng (fun k => { k with engine := { k.engine with acc := imageAcc l m n, dims := (m, n), held := [(c.ctx, c.tag.getD 0)] } }))
  | 3 => finish s
  | _ =>
    finish ((s.updCore eng (fun k => { k with engine := { k.engine with held := k.engine.held.filter (fun t => t != (c.ctx, tag)) } })).updCtx
      c.ctx (fun x => { x with claimed := x.claimed.filter (fun t => t != c.tagKey tag) }))

/-- R264. An ACCSV, ACCSVK or ACCLD runs on its engine. -/
def execAccumulatorMoveRun (id : Nat) (s0 : State) : Out := .next (
  let ev := Instr.accumulatorMoveRun id
  match s0.tile id with
  | none => s0.leaveBank ev
  | some c =>
    match c.engine with
    | none => s0.leaveBank ev
    | some eng =>
      if c.kind ≤ 1 ∨ c.ended then s0.leaveBank ev
      else if (s0.core eng).halted then s0.stopTile c ev
      else if s0.tileAway c then (s0.leaveBank ev).afterOnce Config.poll ev
      else if c.dispatched.isNone then
        let c1 := { c with dispatched := some s0.now, from_ := s0.now, upto := s0.now + 1025 + s0.padLat c.part c.core eng c.addr }
        (s0.updTile id (fun _ => c1)).addWords c1 ev (s0.imageWords c1 (accImage (s0.core eng).engine (c.chainTag.getD 0)))
      else s0.tilePhase id c.upto ev (fun va s => s.faultTile id va) (fun c s => s.moveDone c eng))

/-! ## Completion -/

/-- What a command that ends with NAN or FAULT does to its tags, and the release of a poisoned tag (R263). -/
def State.poison (s : State) (c : TileCmd) : State :=
  let s1 := if c.code < 2 then s
    else s.updCtx c.ctx (fun x => { x with poisoned := x.poisoned ++ (c.tags.filter (fun k => !x.poisoned.contains k)) })
  c.tags.foldl (fun s k =>
    if (s.ctx c.ctx).poisoned.contains k &&
        !s.tileCmds.any (fun x => x.ctx == c.ctx && x.accepted.isSome && !x.ended && x.tags.contains k) then
      let s2 := s.updCtx c.ctx (fun x => { x with poisoned := x.poisoned.filter (fun y => y != k), claimed := x.claimed.filter (fun y => y != k) })
      (coresOfDie c.die).foldl (fun s e =>
        if (s.core e).engine.held.contains (c.ctx, k % 256) then
          s.updCore e (fun y => { y with engine := { y.engine with held := y.engine.held.filter (fun t => t != (c.ctx, k % 256)) } })
        else s) s2
    else s) s1

/-- A NaN report held for the thread, the earliest one (R269). -/
def State.holdNan (s : State) (c : TileCmd) : State :=
  match c.code, c.report with
  | 2, some r =>
    let info := BitVec.ofNat 64 (bits r.toNat 127 96 + 2 ^ 32 * bits r.toNat 74 64)
    let bell := match c.signal with | some b => some (s.bellKey c.part c.core b) | none => none
    if (s.thread c.tid).occupied && (s.thread c.tid).epoch == c.epoch then
      s.updThread c.tid (fun t => if t.nanTile.isSome then t else { t with nanTile := some info, nanBell := bell })
    else s
  | _, _ => s

/-- A command that has ended leaves its thread's class (R140, R256); a fault that no bell reports is held (R267). -/
def State.endTile (s : State) (c : TileCmd) (held : Bool) : State :=
  let s0 := { s with tileCmds := s.tileCmds.filter (fun x => x.id != c.id) }
  if (s0.thread c.tid).occupied && (s0.thread c.tid).epoch == c.epoch then
    ((s0.updThread c.tid (fun t => { t with
      tiles := t.tiles - 1
      ended := if absentBase ≤ coreOf c.tid then (t.ended.1, t.ended.2 + 1) else t.ended
      storeErr := if held ∧ c.code = 3 then some (t.storeErr.getD (BitVec.ofNat 64 c.addr)) else t.storeErr })).wake c.tid).checkLaunch c.launch
  else s0.checkLaunch c.launch

/-- R262. A command completes: its engine and its entry are free, its tags are settled, and its bell is credited. -/
def execTaskComplete (id : Nat) (s : State) : Out := .next (
  match s.tile id with
  | none => s
  | some c =>
    if !c.ended ∨ c.kind = 0 ∨ !(s.die c.die).tileq.contains id then s
    else
      let s1 := s.updDie c.die (fun x => { x with tileq := x.tileq.filter (fun i => i != id) })
      let bell := match c.signal with | some b => some (s.bellKey c.part c.core b) | none => none
      let s2 := match c.engine with
        | some e =>
          (s1.updCore e (fun k => { k with engine := { k.engine with
            task := none, count := k.engine.count + (if c.kind = 1 then 1 else 0), idleSince := s.now,
            test := k.engine.test || (c.kind == 1 && (k.engine.count + 1) % 256 == 0),
            lastBell := if c.kind = 1 then bell else k.engine.lastBell } })).after 64 (.engineSelfTest e 0) |>.restCore e
        | none => s1
      let s3 := (s2.poison c).holdNan c
      let s4 := s3.threads.foldl (fun s e => if dieOf (coreOf e.1) = c.die ∧ e.2.park = some .count then s.wake e.1 else s) s3
      let s5 := match bell with
        | none => s4.endTile c true
        | some b =>
          s4.after 0 (.bellUpdate { bell := b, amount := 1, code := c.code, stamp := if c.ts then some ((c.dispatched.getD (c.accepted.getD s.now))) else none,
                                      report := if c.code = 2 then c.report else none, cmd := id })
      (s5.restCore c.core).schedule c.die)

/-- A credit is its bell's latest write: of a command with the release flag a release (R156, R234, R394). -/
def State.creditWrite (s : State) (x : Credit) : State :=
  let who : Option (Nat × Bool × Option Nat) := match s.copy x.cmd, s.tile x.cmd with
    | some c, _ => some (c.tid, c.rel, c.ord)
    | none, some c => some (c.tid, c.rel, c.ord)
    | none, none => none
  let n := if x.report.isSome ∨ x.stamp.isSome then 4 else 2
  match who with
  | some (t, rel, ord) => (List.range n).foldl (fun s i => s.noteWrite t (x.bell + 8 * i) rel ord true) s
  | none => s

/-- The update that an engine's credit makes at its bell (R45, R236, R262): credit, status, stamps or NaN report; then the engine's command ends. A
disarmed bell discards it, and tells the engine of a code 3. -/
def State.applyCredit (s : State) (x : Credit) : State :=
  let armed := s.getN x.bell 4 ≠ 0
  let s1 := if !armed then s
    else if x.code = 1 then s.bellReport x.bell 1
    else
      let s := s.creditWrite x
      let s2 := match x.report, x.stamp with
        | some r, _ => s.poke (x.bell + 16) (natToBytes 16 r.toNat)
        | none, some t => s.poke (x.bell + 16) (natToBytes 8 t ++ natToBytes 8 s.now)
        | none, none => s
      let s3 := if x.report.isSome ∨ x.stamp.isSome then s2.landed (x.bell + 16) 16 else s2
      s3.credit x.bell x.amount x.code
  let s4 := match s1.copy x.cmd with
    | some c => if c.signal.isSome then s1.endCopy c (!armed) else s1
    | none => s1
  match s4.tile x.cmd with
  | some c => if c.ended then s4.endTile c (!armed) else s4
  | none => s4

/-- R45, R236, R240, R262. An update of an engine reaches its bell's bank, as port traffic with its issuer's key. -/
def execBellUpdate (x : Credit) (s0 : State) : Out := .next (
  let ev := Instr.bellUpdate x
  let old := s0.itemOf ev
  let s := s0.leaveBank ev
  let key := fun (lti : BitVec 32) (core tid : Nat) => ({ lti := lti.toNat, name := s.nameOf core, slot := slotOf tid } : Key)
  let who : Key × Nat × Nat := match s.copy x.cmd, s.tile x.cmd with
    | some c, _ => (key c.lti c.core c.tid, c.part, c.ctx)
    | none, some c => (key c.lti c.core c.tid, c.part, c.ctx)
    | none, none => (key 0 0 0, 0, 0)
  match (if x.bell / 2 ^ 48 = 0xF4 then s.spillAt (x.bell % 2 ^ 48 / 2 ^ 20) who.2.1 ev else none) with
  | some v => s.spill v ev
  | none =>
    s.atServer old { server := (keyBank x.bell).1, cls := .P, came := s.now, key := who.1, part := who.2.1, ctx := who.2.2, who := ev }
      (fun s => s.applyCredit x))

/-- R270. A self-test of an engine's array: a failing sub-array is fenced and takes the engine out of service until reset. -/
def execEngineSelfTest (core : Nat) (failing : BitVec 16) (s : State) : Out := .next (
  let e := (s.core core).engine
  if failing = 0 ∨ isMem core ∨ e.out then s
  else
    let d := dieOf core
    let unit := d * 64 + rowOf core % 8 * 8 + colOf core % 8
    let s1 := (s.updCore core (fun k => { k with engine := { k.engine with out := true, fenced := k.engine.fenced ||| failing } })).logError d 7 3 unit 0 0
    let s2 := match e.lastBell with
      | some b => s1.after 0 (.bellUpdate { bell := b, amount := 0, code := 1, stamp := none, report := none, cmd := 0 })
      | none => s1
    s2.schedule d)

end Sys2Proof.Machine
end

