-- ==== Sys2Proof/Machine/Fabric.lean ====
section
/-!
DEFINITION. The host, the Broino fabric, the clock and the Ethernet ports (22 R405-R410), and atomics across the host link (19 R371,
R372).
-/

namespace Sys2Proof.Machine

/-! ## Host accesses -/

/-- The global address of a host access: none where its aperture window does not exist or is set above 0xEF, or where it is no
aligned access of 1, 2, 4 or 8 bytes (R405; log 32). -/
def State.hostVa (s : State) (a : HostAccess) : Option Nat :=
  let h := (tget 0 s.hapsel a.aperture).toNat
  if a.aperture < 4 ∧ h ≤ 0xEF ∧ (a.size = 1 ∨ a.size = 2 ∨ a.size = 4 ∨ a.size = 8) ∧ a.offset % a.size = 0 ∧ a.offset < 2 ^ 48 then
    some (h * 2 ^ 48 + a.offset)
  else none

/-- An error response to the host (R371, R405). -/
def State.hostError (s : State) (va : Nat) : State := { s with hostOut := s.hostOut ++ [(2, BitVec.ofNat 64 va)] }

/-- A value the host receives. -/
def State.hostAnswer (s : State) (v : Nat) : State := { s with hostOut := s.hostOut ++ [(0, BitVec.ofNat 64 v)] }

/-- A host access at the address that it was made with (R405): one that has waited keeps its own. -/
def State.hostAt (s : State) (i : Instr) (a : HostAccess) (k : Nat → State → State) : State :=
  match s.hostHeld.find? (fun e => decide (e.1 = i)) with
  | some e => k e.2 { s with hostHeld := removeFirst (fun e => decide (e.1 = i)) s.hostHeld }
  | none => match s.hostVa a with | some va => k va s | none => s.hostError a.offset

/-- A host access that waits with its address; its step comes again. -/
def State.hostHold (s : State) (i : Instr) (va : Nat) : State := { s with hostHeld := s.hostHeld ++ [(i, va)] }
def State.hostWait (s : State) (i : Instr) (va : Nat) : State := (s.hostHold i va).after 1 i

/-- Whether a host access waits: for the invalidation of its page (R365), or behind the parked list of its block (R364). -/
def State.hostLate (s : State) (va : Nat) : Bool :=
  s.invalidating va || (match s.walk va with | .ok (pg, _) => s.isParked (homeOf pg va) va | .error _ => false)

/-- An error response to the host, the address logged at its home, or of an invalid window at its port (R371, R403, R415). -/
def State.hostRefuse (s : State) (pg : Page) (va code : Nat) : State :=
  let s1 := if code = 8 then
      let port := linkPort (s.windowEntry pg.pa) va
      s.logError (portDie port) 8 5 port va 0
    else s.logError (homeOf pg va / 16) code 0 (homeOf pg va) va 0
  s1.hostError va

/-- A host access that a page serves, counted and sampled (R366, R370); the die of the port by which it came and whom a sample names are open, for the
host is no core (log 32). -/
def State.hostSample (s : State) (pg : Page) (va kind : Nat) : State :=
  let w := s.freeVal.toNat
  ((s.nextFree).countPage (homeOf pg va) va pg (w / 2 ^ 22 % 32)).sample (homeOf pg va) va (w % 2 ^ 12) (w / 2 ^ 12 % 16) kind (w / 2 ^ 16 % 64)

/-- What stops a host access at a page: an invalid or reduction window, a fenced unit, an uncorrectable word. -/
def State.hostBlocked (s : State) (pg : Page) (va n : Nat) (read : Bool) : Option Nat :=
  if pg.place = 2 ∧ s.hostKind pg = 0 then some 8
  else if (pg.place = 2 ∧ s.hostKind pg = 3) ∨ s.pageDead pg va then some 6
  else if read && s.eccBad pg.key n then some 2
  else none

/-- A host read or write of a notify page (R339, R405). -/
def State.hostNotify (s : State) (pg : Page) (va part off : Nat) (access : HostAccess) : State :=
  if access.size ≠ 8 ∨ 0x200 ≤ off then s.hostRefuse pg va 6
  else
    match access.write with
    | some v => (match s.notify part (off / 8) v true with | some s1 => s1 | none => s.hostRefuse pg va 6)
    | none =>
      match (match tfind s.parts part with | some p => tfind p.queues (off / 8) | none => none) with
      | some q => s.hostAnswer q.notified.toNat
      | none => s.hostRefuse pg va 6

/-- R405. A host access through the data aperture, served at its home with system scope and no check of rights. A read of a sibling word waits for the
proctor as any does (R161). -/
def execHostAccess (access : HostAccess) (s : State) : Out := .next (
  s.hostAt (.hostAccess access) access (fun va s =>
    if s.hostLate va then s.hostWait (.hostAccess access) va
    else match s.walk va with
    | .error _ => s.hostError va
    | .ok (pg, _) =>
      match s.notifyPart pg with
      | some (part, off) => s.hostNotify pg va part off access
      | none =>
        match s.hostBlocked pg va access.size access.write.isNone with
        | some code => s.hostRefuse pg va code
        | none =>
          let serve := fun (s : State) =>
            let s1 := s.hostSample pg va (if access.write.isSome then 1 else 0)
            if pg.accum then (s1.recall pg.key true none).combineLine (homeOf pg va) pg.key pg.aop else s1
          let read := fun (s : State) =>
            let x := (serve s).homeRead pg.key access.size
            x.2.hostAnswer (bytesToNat x.1)
          match access.write with
          | some v => if pg.sib then (serve s).hostRefuse pg va 6 else (serve s).homeWrite pg.key (natToBytes access.size v.toNat)
          | none =>
            if !pg.sib then read s
            else
              let free := fun (s : State) => ({ s with hostHeld := removeFirst (fun e => decide (e.1 = .hostAccess access)) s.hostHeld } : State)
              (s.hostHold (.hostAccess access) va).sibGate (homeOf pg va) (pg.key / 8 * 8) (.hostAccess access) 0
                (fun s => (free s).hostRefuse pg va 6) (fun s => read (free s))))

/-- R371. A host atomic on a device page: one indivisible step at the home, or a refusal. -/
def execHostAtomic (access : HostAccess) (op : BitVec 4) (wide : Bool) (cmp : Word) (s : State) : Out := .next (
  s.hostAt (.hostAtomic access op wide cmp) access (fun va s =>
    if s.hostLate va then s.hostWait (.hostAtomic access op wide cmp) va
    else match s.walk va with
    | .error _ => s.hostError va
    | .ok (pg, _) =>
      if access.size ≠ amoSize wide ∨ 10 ≤ op.toNat then s.hostError va
      else if !pg.sysatom || pg.sib || pg.accum || pg.cls == 2 || (s.notifyPart pg).isSome then s.hostRefuse pg va 6
      else
        match s.hostBlocked pg va 8 true with
        | some code => s.hostRefuse pg va code
        | none =>
          let x := (s.hostSample pg va 2).homeRead pg.key (amoSize wide)
          let old := BitVec.ofNat 64 (bytesToNat x.1)
          let new := amoValue op wide old (access.write.getD 0) cmp
          (x.2.homeWrite pg.key (natToBytes (amoSize wide) new.toNat)).hostAnswer old.toNat))

/-- R372. The compare-and-swap loop of a device atomic at the host home: it ends with a swap between whose read and write no write
reached the doubleword, which is one indivisible step here. -/
def execSysatomCasLoop (id : Nat) (s : State) : Out := .next (
  match s.req id with
  | none => s
  | some r =>
    match r.state, s.walk r.va.toNat with
    | .going, .ok (pg, _) => (s.recall pg.key true (some (coreOf r.tid))).atKey r pg.key none
    | _, _ => s)

/-! ## Reduction windows -/

/-- The identity of a reduction as its own size (R167). -/
def reductionFold (rop : Nat) (l : List Word) : Word := l.foldl (foldOp rop) (foldId rop)

/-- The contributions to a word in ascending module number. -/
def byModule (l : List (Nat × Nat × Word)) : List (Nat × Nat × Word) := l.foldl ins []
where
  ins (acc : List (Nat × Nat × Word)) (x : Nat × Nat × Word) : List (Nat × Nat × Word) :=
    match acc with
    | [] => [x]
    | y :: r => if x.2.1 < y.2.1 then x :: y :: r else y :: ins r x

/-- R407. The fabric switch takes a contribution; with the last one it folds them in ascending module number and writes the result
to window tgt at the same offset. A module's second contribution before the merge does not count (R406). -/
def execReductionContribution (window offset module : Nat) (value : Word) (s : State) : Out := .next (
  let e := (tget 0 s.windows window).toNat
  let word := window * 2 ^ 42 + offset
  if windowKind e ≠ 3 ∨ s.reductions.any (fun x => x.1 == word && x.2.1 == module) then s
  else
    let s1 := { s with reductions := s.reductions ++ [(word, module, value)] }
    let all := byModule (s1.reductions.filter (fun x => x.1 == word))
    if all.length < bits e 29 25 + 1 then s1
    else
      let s2 := { s1 with reductions := s1.reductions.filter (fun x => x.1 != word) }
      let v := reductionFold (bits e 32 30) (all.map (fun x => x.2.2))
      let tgt := bits e 21 14
      let pa := tgt * 2 ^ 42 + offset
      let kind := windowKind (tget 0 s.windows tgt).toNat
      if tgt < 64 ∧ (kind = 1 ∨ kind = 2) then s2.homeWrite (physKey 2 pa) (natToBytes (foldSize (bits e 32 30)) v.toNat)
      else
        let port := linkPort e pa
        s2.logError (portDie port) 8 5 port pa 0)

/-! ## The clock -/

/-- R409, R412. A correction advances or holds back the count by one, at most once every 65,536 cycles, once lock is reported: the count that is held back
stands for one cycle more (log 45). -/
def execTimestampCorrection (forward : Bool) (s : State) : Out := .next (
  let early := match s.lastCorr with | some t => decide (s.now < t + Config.correctionGap) | none => false
  if early || !s.clockLock then s
  else if forward then { s with now := s.now + 1, lastCorr := some (s.now + 1) }
  else { s with lastCorr := some s.now, heldBack := true })

/-- R409. Lock with the fabric's grandmaster is reported. -/
def execClockLock (locked : Bool) (s : State) : Out := .next { s with clockLock := locked }

/-! ## Ethernet -/

/-- The address of an Ethernet ring's next descriptor (R410). -/
def EthRing.at_ (r : EthRing) : Nat := r.base.toNat + 16 * (r.next % 2 ^ r.n)

/-- The bell that a port's short pointer names: one of window 0xF4 or 0xF5, for a port has no core of its own (R253, R410; log 33). -/
def ethBell (p : Nat) : Option Nat :=
  match shortPtr p with
  | some va =>
    let off := va % 2 ^ 48
    if va % 16 ≠ 0 then none
    else if windowOf va = 0xF4 then (if off % 2 ^ 20 < 0xC0000 then some va else none)
    else if windowOf va = 0xF5 then some va
    else none
  | none => none

/-- The die of an Ethernet port, from which its accesses come: the manual names none (DESIGN CHOICE, log 33). -/
def ethDie : Nat := 0

/-- Whether an Ethernet port is fenced (R411): the Ethernet ports are the failed parts of numbers 24 to 27 (DESIGN CHOICE, log 33). -/
def State.ethDead (s : State) (port : Nat) : Bool := s.fenced.contains (.port (24 + port))

/-- Whether a port's access to a page is refused: by a window or a page that serves no plain access, by an uncorrectable word read, by a sibling page
written (R158, R403, R414). -/
def State.portBad (s : State) (pg : Page) (va n : Nat) (read : Bool) : Bool :=
  s.hostBad pg va || (read && s.eccBad pg.key n) || (!read && pg.sib)

/-- The record of a refused access (R403, R415): the home's, of an uncorrectable word or otherwise, or of an invalid window the Broino port's. -/
def State.portRefused (s : State) (pg : Page) (va n : Nat) (read : Bool) : State :=
  if read && !s.hostBad pg va then s.eccRead pg.key n 0 else s.logHome va (faultSlice ethDie va) 0

/-- Bytes of the global window read by a port, page by page, and whether all could be; the home that refuses a piece logs it. A page that is not mapped
is an error like another (DESIGN CHOICE, log 33). -/
def State.portRead (s : State) (l : List (Nat × Nat)) : Bool × List Byte × State :=
  match l with
  | [] => (true, [], s)
  | (va, n) :: rest =>
    match s.walk va with
    | .error _ => (false, [], s)
    | .ok (pg, _) =>
      if s.portBad pg va n true then (false, [], s.portRefused pg va n true)
      else
        let x := (s.countPage (homeOf pg va) va pg ethDie).pageRead pg va n
        let y := x.2.portRead rest
        (y.1, x.1 ++ y.2.1, y.2.2)
/-- Bytes of the global window written by a port, in the same way. -/
def State.portWrite (s : State) (l : List (Nat × Nat)) (b : List Byte) : Bool × State :=
  match l with
  | [] => (true, s)
  | (va, n) :: rest =>
    match s.walk va with
    | .error _ => (false, s)
    | .ok (pg, _) =>
      if s.portBad pg va n false then (false, s.portRefused pg va n false)
      else (((s.countPage (homeOf pg va) va pg ethDie).combineRange pg va n).homeWrite pg.key (b.take n)).portWrite rest (b.drop n)

/-- A range of the global window cut at 4 KiB blocks. -/
def blocks (va len fuel : Nat) : List (Nat × Nat) :=
  match fuel with
  | 0 => []
  | fuel + 1 =>
    if len = 0 then []
    else
      let n := min len (4096 - va % 4096)
      (va, n) :: blocks (va + n) (len - n) fuel

/-- A descriptor completed: its length and its flags are written, the valid bit clear and a good frame's error bit too, its bell is credited with the byte
count, and the ring goes on (R410). A ring whose descriptor cannot be written goes on as well (DESIGN CHOICE, log 33). -/
def State.ethDone (s : State) (port kind : Nat) (r : EthRing) (d : List Byte) (len : Nat) (ok : Bool) : State :=
  let flags := if kind = 1 then fieldOf d 10 2 / 4 * 4 else fieldOf d 10 2 / 2 * 2
  let s1 := match s.globalWrite ethDie (r.at_ + 8) (natToBytes 2 len ++ natToBytes 2 flags) with | .ok _ x => x | .bad x => x | .miss _ => s
  let s2 := { s1 with eths := tset s1.eths (port * 2 + kind) { r with next := r.next + 1 } }
  match ethBell (fieldOf d 12 4) with
  | some bell => s2.credit bell len (if ok then 0 else 3)
  | none => s2

/-- R410. A port transmits the frame of its next valid transmit descriptor, and looks for the next one. A descriptor that cannot be read is looked at again
later (DESIGN CHOICE, log 33). -/
def execEthernetTransmit (port : Nat) (s : State) : Out := .next (
  match tfind s.eths (port * 2) with
  | none => s
  | some r =>
    let later := fun (s : State) => s.afterOnce Config.poll (.ethernetTransmit port)
    if s.ethDead port then s
    else match s.globalRead ethDie r.at_ 16 with
    | .miss _ => later s
    | .bad s1 => later s1
    | .ok d s1 =>
      if fieldOf d 10 2 % 2 = 0 then later s1
      else
        let len := fieldOf d 8 2
        let frame := if len ≤ 9216 then s1.portRead (blocks (fieldOf d 0 8) len 4) else (false, [], s1)
        let s2 := if frame.1 then ({ frame.2.2 with ethOut := frame.2.2.ethOut ++ [(port, frame.2.1)] }).ethDone port 0 r d len true
          else frame.2.2.ethDone port 0 r d len false
        s2.afterOnce 1 (.ethernetTransmit port))

/-- R410. A port receives a frame: one that fails its check sequence is dropped and counted; another goes to the next valid receive
descriptor, and is lost where there is none (log 33). -/
def execEthernetReceive (port : Nat) (frame : List Byte) (fcsGood : Bool) (s : State) : Out := .next (
  if s.ethDead port then s
  else if !fcsGood then { s with ethDrops := tput 0 s.ethDrops port (tget 0 s.ethDrops port + 1) }
  else if 9216 < frame.length then s
  else
    match tfind s.eths (port * 2 + 1) with
    | none => s
    | some r =>
      match s.globalRead ethDie r.at_ 16 with
      | .miss _ => s
      | .bad s1 => s1
      | .ok d s1 =>
        if fieldOf d 10 2 % 2 = 0 then s1
        else
          let x := s1.portWrite (blocks (fieldOf d 0 8) frame.length 4) frame
          x.2.ethDone port 1 r d frame.length x.1)

end Sys2Proof.Machine
end

