-- ==== Sys2Proof/Machine/Reports.lean ====
section
/-!
DEFINITION. Held reports (06 R114, R125, R130, R141; 13 R269) and the wait of the instructions that end a thread (02 R29).
-/

namespace Sys2Proof.Machine

/-- The earliest held posted-store error (R114); taking a report clears it. -/
def reportBus (len : Nat) (k : State → State) (s : State) : State :=
  match s.me.storeErr with
  | some a => (s.upd (fun t => { t with storeErr := none })).trap cBUS_ERROR a len
  | none => k s

/-- Check 1 of R141: a held posted-store error, or a held ATOM_SCOPE refusal (R125). -/
def reportStores (len : Nat) (k : State → State) (s : State) : State :=
  reportBus len (fun s =>
    match s.me.atomScope with
    | some a => (s.upd (fun t => { t with atomScope := none })).trap cATOM_SCOPE a len
    | none => k s) s

/-- A divergence of an operation without a destination (R325). -/
def reportDiv (len : Nat) (k : State → State) (s : State) : State :=
  match s.me.replayDiv with
  | some a => (s.upd (fun t => { t with replayDiv := none })).trap cREPLAY_DIV a len
  | none => k s

/-- Check 2 of R141: a SIB_LIMIT that a refused store or an unread `STV` status of 1 left (R130). -/
def reportSib (len : Nat) (k : State → State) (s : State) : State :=
  match s.me.sibLimit with
  | some a => (s.upd (fun t => { t with sibLimit := none })).trap cSIB_LIMIT a len
  | none =>
    match s.me.sibUnread with
    | (_, a) :: l => (s.upd (fun t => { t with sibUnread := l })).trap cSIB_LIMIT a len
    | [] => k s

/-- Check 3 of R141: a held NAN_TILE report. -/
def reportNan (len : Nat) (k : State → State) (s : State) : State :=
  match s.me.nanTile with
  | some a => (s.upd (fun t => { t with nanTile := none, nanBell := none })).trap cNAN_TILE a len
  | none => k s

/-- The wait of `EXIT` and `AMRET` for every load and posted store, and the error it finds (R29, R324). -/
def endWaitFor (len : Nat) (k : State → State) (s : State) : State :=
  if s.me.loads ≠ 0 ∨ s.me.stores ≠ 0 then s.parkOn .count else reportBus len k s

end Sys2Proof.Machine
end

