-- ==== Sys2Proof/Machine/Net.lean ====
section
/-!
DEFINITION. The network that messages and register fills cross (14 R273-R287): admission, arbitration, frames, hops and
delivery.
-/

namespace Sys2Proof.Machine

/-! ## Packets in flight -/

def State.packet (s : State) (id : Nat) : Option Packet := s.packets.find? (fun p => p.id = id)
def State.updPacket (s : State) (id : Nat) (f : Packet → Packet) : State :=
  { s with packets := updEach (fun p => p.id == id) f s.packets }
def State.dropPacket (s : State) (id : Nat) : State := { s with packets := s.packets.filter (fun p => p.id != id) }

/-- The port of a router that a ring's direction enters: row or column, clockwise or not. Port 4 is that of a gateway of the row of dies, 5 the local
port, 6 that of the cross-row gateway, 7 that of a gateway that passes packets on (R283). -/
def portOf (column cw : Bool) : Nat := (if column then 2 else 0) + (if cw then 1 else 0)

/-- Whether a packet's context runs at FIXED. -/
def State.fixedPkt (s : State) (p : Packet) : Bool := s.levelOf p.ctx == 3

/-- The tail's distance behind the header: two flits of a frame at FIXED, else one flit a cycle (R278, R287). -/
def tailLag (fixed : Bool) (len : Nat) : Nat := if fixed then 16 * ((len - 1) / 2) + (len - 1) % 2 else len - 1

/-- The flits that have gone in the cycles from the header's on. -/
def flitsGone (fixed : Bool) (d : Nat) : Nat := if fixed then 2 * (d / 16) + min 2 (d % 16 + 1) else d + 1

/-- The flits of a packet that an input holds or has reserved for it at cycle `t`; `out` is when its header entered the next input (R280). -/
def heldFlits (fixed : Bool) (len t : Nat) (out : Option Nat) : Nat :=
  match out with | none => len | some o => if o ≤ t then len - min len (flitsGone fixed (t - o)) else len

/-- Whether the link into an input still carries the packet's flits at cycle `t`: until its tail has passed, which for a packet longer than the
pool waits for its earlier flits to leave (R280). -/
def onLink (fixed : Bool) (len since t : Nat) (out : Option Nat) : Bool :=
  decide (t ≤ since + tailLag fixed len) || (decide (12 < len) && (match out with | none => true | some o => decide (t ≤ o + tailLag fixed (len - 12))))

/-- The inputs of a packet, newest first, each with the cycle at which its header left it: at the destination its flits pass to the core. -/
def Packet.berths (p : Packet) : List (Berth × Option Nat) :=
  go p.trail (match hopOf p.at_ p.dst with | .arrive => some (p.entered + 2) | _ => none)
where
  go (l : List Berth) (out : Option Nat) : List (Berth × Option Nat) :=
    match l with
    | [] => []
    | b :: rest => (b, out) :: go rest (some b.since)

/-- Whether a packet's flits go two in a frame through a port: at FIXED, on a ring. -/
def State.inFrames (s : State) (p : Packet) (port : Nat) : Bool := s.fixedPkt p && decide (port < 4)

/-- The flits that the pool, or the escape channel, of an input holds at cycle `t`. -/
def State.occupied (s : State) (router port : Nat) (escape : Bool) (t : Nat) : Nat :=
  s.packets.foldl (fun n p =>
    n + ((p.berths.filter (fun e => e.1.router == router && e.1.port == port && e.1.escape == escape)).map
      (fun e => heldFlits (s.inFrames p port) p.flits t e.2)).sum) 0

/-- Whether an input may admit a packet as a whole at cycle `t`, and whether to the escape channel (R280), which is not used at FIXED (R287). -/
def State.admits (s : State) (p : Packet) (router port t : Nat) : Option Bool :=
  let used := s.occupied router port false t
  let esc := s.occupied router port true t
  if p.flits ≤ 12 ∧ used + p.flits ≤ 12 then some false
  else if 12 < p.flits ∧ used = 0 then some false
  else if !s.fixedPkt p ∧ p.flits ≤ 4 ∧ esc + p.flits ≤ 4 then some true
  else none

/-- The next input of a packet (R277, R283). -/
structure Output where
  next : Nat
  port : Nat
deriving DecidableEq, Repr

/-- Whether a packet stands on a ring that it goes on along. -/
def Packet.onRing (p : Packet) (column : Bool) : Bool :=
  match p.trail with | b :: _ => p.onColumn == column && decide (b.port < 4) | [] => false

/-- The output a packet asks for: the next router, and the port there. -/
def State.wants (s : State) (p : Packet) : Option Output :=
  match hopOf p.at_ p.dst, tfind s.parts p.tenant with
  | .gate next port .., _ => some ⟨next, port⟩
  | .ring column toward, some part =>
    let i := if column then lrow p.at_ else lcol p.at_
    match (if p.onRing column then some p.cw else ringDir p.route i toward (ringWhole part p.at_ column)) with
    | some cw => some ⟨ringStep p.at_ column cw, portOf column cw⟩
    | none => none
  | _, _ => none

/-- The stop at which a packet enters, or has entered, the ring of a port (R287). -/
def Packet.stopAt (p : Packet) (port : Nat) : Nat :=
  let column := decide (2 ≤ port)
  if p.onRing column then p.stop else if column then lrow p.at_ else lcol p.at_

/-- Whether a packet's header may start at an output now: at FIXED only at its stop's position (R287), through a gateway and a link only in a frame
that lets it, and where its tail comes into no frame of another FIXED partition (R335). -/
def State.mayStart (s : State) (p : Packet) (o : Output) : Bool :=
  match hopOf p.at_ p.dst with
  | .gate _ _ _ link units => (units ++ [linkUnit link]).all (fun u => s.frameOpen u p.tenant && s.frameClear u p.tenant p.flits)
  | _ => !s.fixedPkt p || s.now % 16 == 2 * p.stopAt o.port

/-- Whether the link of an output still carries an earlier packet's flits at cycle `t`; at FIXED packets of other stops have positions of their
own (R287). -/
def State.linkBusy (s : State) (p : Packet) (o : Output) (t : Nat) : Bool :=
  s.packets.any (fun q =>
    q.berths.any (fun e => e.1.router == o.next && e.1.port == o.port && onLink (s.inFrames q o.port) q.flits e.1.since t e.2 &&
      !(s.inFrames p o.port && s.inFrames q o.port && e.1.stop != p.stopAt o.port)))

/-- The class of a packet at an output (R281), less is earlier: 1 escape or aged, 2 straight, 3 turning or from a gateway, 4 injected. -/
def Packet.rank (p : Packet) (port : Nat) : Nat :=
  if p.place = .escape ∨ p.aged then 1
  else match p.trail with
    | [] => 4
    | b :: _ => if b.port = 5 then 4 else if b.port = port then 2 else 3

/-- Whether packet `q` goes before `p` at the output both want (R281): by class, then the earlier header, at FIXED the earlier issue (R287), then
the lower thread key. -/
def State.before (s : State) (q p : Packet) (port : Nat) : Bool :=
  let a := q.rank port
  let b := p.rank port
  let x := if s.fixedPkt p then q.born else q.entered
  let y := if s.fixedPkt p then p.born else p.entered
  decide (a < b) || (a == b && (decide (x < y) ||
    (x == y && ((s.keyOf q.tid).lt (s.keyOf p.tid) || (s.keyOf q.tid == s.keyOf p.tid && decide (q.id < p.id))))))

/-- Whether two packets keep their order (R282). -/
def sameStream (a b : Packet) : Bool :=
  a.tid == b.tid && a.dst == b.dst && a.route == b.route && (a.typ == 0 || a.typ == 1 || a.typ == 4) && (b.typ == 0 || b.typ == 1 || b.typ == 4)

/-- Whether a packet is the one that the output link starts now: none that may start goes before it, and none of its own stream is still behind. -/
def State.wins (s : State) (p : Packet) (o : Output) (t : Nat) : Bool :=
  !s.packets.any (fun q =>
    q.id != p.id && q.at_ == p.at_ && (q.place == .pool || q.place == .escape) && decide (q.entered + 2 ≤ s.now) && s.wants q == some o &&
    ((sameStream q p && decide (q.id < p.id)) || (s.mayStart q o && (s.admits q o.next o.port t).isSome && s.before q p o.port)))

/-- A packet's header (R275). -/
def Packet.header (p : Packet) : Nat :=
  p.arg % 2 ^ 30 + 2 ^ 30 * (p.dst % 2 ^ 11) + 2 ^ 41 * (if p.vc then 1 else 0) + 2 ^ 42 * (p.tenant % 64) + 2 ^ 48 * p.route +
    2 ^ 50 * p.sslot + 2 ^ 54 * (p.src % 2 ^ 11) + 2 ^ 65 * p.typ + 2 ^ 69 * (p.flits - 1) + 2 ^ 73 * (p.handler.toNat / 2 % 2 ^ 55)

/-- A packet dropped by a router or gateway (R276, R285, R411): its header's low half is logged (R415), and the request it belongs to ends
in an error that names its destination; its record keeps its place (R393). -/
def State.dropPkt (s : State) (p : Packet) (unit code : Nat) : State :=
  match p.typ with
  | 0 => s.refusedAt p.ctx 0x0B 0 p.name p.tid (some p.ord) (fun s => s.after 1 (.packetHop p.id)) drop
  | 1 => s.refusedAt p.ctx 0x0C (p.arg / 2 ^ 24 % 4) (match s.req p.req with | some r => r.va.toNat % 2 ^ 21 | none => 0) p.tid (some p.ord)
      (fun s => s.after 1 (.packetHop p.id)) drop
  | _ => drop s
where
  /-- The packet goes, and with it its request. -/
  drop (s : State) : State :=
    let d := if unit < 4096 then dieOf unit else (unit - 4096) / 4
    let s1 := (s.logError d code (if unit < 4096 then 1 else 2) (unit % 4096) 0 (if code = 6 then s.keyDetail p.tid else p.header % 2 ^ 64)).dropPacket p.id
    match s1.req p.req with
    | some r => (s1.updReq p.req (fun _ => { r with state := .failed, errAddr := r.va &&& 0x7FF })).after 1 (.errorResponse p.req)
    | none => s1

/-- The packet's next attempt: to its next input, or its delivery once its tail has passed (R278). -/
def State.nextHop (s : State) (p : Packet) (delay : Nat) : State :=
  match hopOf p.at_ p.dst with
  | .arrive => s.after (delay + tailLag (s.fixedPkt p && p.trail.any (fun e => decide (e.port < 4))) p.flits + 2) (.packetDelivery p.id)
  | _ => s.after (delay + 2) (.packetHop p.id)

/-- The physical core that a packet goes to: its source router looks its name up as it is injected (R273, R286). -/
def State.lookup (s : State) (p : Packet) : Nat :=
  match tfind s.parts p.tenant with
  | some part => if p.typ = 2 ∧ isMem (coreOf p.tid) then p.dst else part.phys p.name
  | none => p.dst

/-- Whether an earlier packet of a packet's stream meets a condition. -/
def State.streamAny (s : State) (p : Packet) (f : Packet → Bool) : Bool := s.packets.any (fun q => sameStream q p && decide (q.id < p.id) && f q)

/-- One attempt of a packet to enter its next input (R278-R283, R285, R287). -/
def State.hop (s : State) (id : Nat) : State :=
  match s.packet id with
  | none => s
  | some p =>
    match p.place with
    | .arrived => s
    | .source =>
      let held := match s.req p.req with | some r => p.typ != 2 && s.held r | none => false
      if held || s.streamAny p (fun q => q.place == .source) then s.after 1 (.packetHop id)
      else
        let s := if p.typ ≤ 1 then s.releaseFence p.tid else s
        let q := { p with dst := s.lookup p, place := PktPlace.pool, entered := s.now,
                          trail := [{ router := p.at_, port := 5, escape := false, stop := 0, since := s.now }] }
        if !s.tenantOk p.at_ p.tenant then s.dropPkt p p.at_ 3
        else if 11 ≤ p.typ then s.dropPkt p p.at_ 4
        else (s.updPacket id (fun _ => q)).nextHop q 0
    | _ =>
      match hopOf p.at_ p.dst, s.wants p with
      | .arrive, _ => s
      | _, none => s.dropPkt p p.at_ 6
      | .gate next port cost link units, some o =>
        match units.find? (fun u => !s.tenantOk u p.tenant) with
        | some u => s.dropPkt p u 3
        | none =>
          if !s.linkAlive link then s.dropPkt p (units.headD 0) 6
          else
            let t := s.now + (cost - 2)
            match s.admits p next port t with
            | none => wait s p
            | some esc =>
              if !s.mayStart p o || s.linkBusy p o t || !s.wins p o t then wait s p
              else if port ≠ 7 ∧ !s.tenantOk next p.tenant then s.dropPkt p next 3
              else enter s { p with vc := false } o esc t 0 (cost - 2)
      | .ring column _, some o =>
        match s.admits p o.next o.port s.now with
        | none => wait s p
        | some esc =>
          if !s.mayStart p o || s.linkBusy p o s.now || !s.wins p o s.now then wait s p
          else if !s.tenantOk o.next p.tenant then s.dropPkt p o.next 3
          else
            let cw := o.port % 2 == 1
            let here := if column then lrow p.at_ else lcol p.at_
            let dateline := (cw && here == 7) || (!cw && here == 0)
            enter s { p with onColumn := column, cw := cw, vc := (p.onRing column && p.vc) || dateline } o esc s.now (p.stopAt o.port) 0
where
  /-- The header enters its next input at cycle `t`. -/
  enter (s : State) (p : Packet) (o : Output) (esc : Bool) (t stop delay : Nat) : State :=
    let q := { p with at_ := o.next, stop := stop, entered := t, waited := 0, aged := false, place := if esc then PktPlace.escape else PktPlace.pool,
                      trail := { router := o.next, port := o.port, escape := esc, stop := stop, since := t } :: p.trail }
    (s.updPacket id (fun _ => q)).nextHop q delay
  /-- The packet waits; after 64 cycles at one output it moves to class 1 (R281), not at FIXED (R287). -/
  wait (s : State) (p : Packet) : State :=
    let s1 := (s.updPacket id (fun q => { q with waited := q.waited + 1 })).after 1 (.packetHop id)
    if p.waited = 0 && !s.fixedPkt p then s1.after Config.outputAge (.outputAging id) else s1

/-- A packet of a thread put at its source router (R275, R278). -/
def State.inject (s : State) (p : Packet) : State :=
  let id := s.nextId
  ({ s with nextId := id + 1, packets := s.packets ++ [{ p with id := id, place := .source }] }).after 1 (.packetHop id)

/-- The acknowledgement of a delivered message or fill, on the shortest route back, with a header of its own (R275, R278): its source is the core
that answers, and bit 0 of its arg carries the status. Its header enters its router one cycle after the delivery, as an instruction's does after its issue
(DESIGN CHOICE, log 5: R278 times an instruction's injection alone), and to a memory core its dst is the router of the core's channel (DESIGN CHOICE,
log 15: R275 gives a memory core no coordinate). -/
def State.ack (s : State) (p : Packet) (status : Nat) : State :=
  s.inject { p with typ := 2, src := s.nameOf p.dst, sslot := 0, handler := 0, arg := status % 2, route := 0, dst := routerOf (coreOf p.tid),
                    name := s.nameOf (coreOf p.tid), at_ := p.dst, payload := [], flits := 1, born := s.now, vc := false, onColumn := false,
                    cw := false, stop := 0, waited := 0, aged := false, trail := [] }

end Sys2Proof.Machine
end

