-- ==== Sys2Proof/Machine/RollCall.lean ====
section
/-!
DEFINITION. Roll call (11 R214-R222): the home bank of a node, a `STAND` or `LEAVE` on its way, and the bank that serves it.
-/

namespace Sys2Proof.Machine

/-- The times of R220 from issue: when the bank serves the request, and when the reply stands at the thread. -/
def rollTimes (own home : Nat) (leave : Bool) : Nat × Nat :=
  if own = home then (4, if leave then 12 else 8)
  else if dieOf own = dieOf home then (24, if leave then 56 else 48)
  else (210, if leave then 428 else 420)

/-- A request sent to a node's home bank. -/
def State.rollSend (s : State) (op : MemOp) (node : Word) (dst : Option RegRef) (cls : CountClass) (exiting : Bool)
    (ord : Option Nat) : State :=
  let id := s.nextId
  let home := s.rollHome s.cur node
  let leave := match op with | .leave => true | _ => false
  let r : Req := { id := id, tid := s.cur, epoch := s.me.epoch, op := op, va := node, place := .core home 0x100000, dst := dst,
                   cls := cls, issued := s.now, flags := if exiting then 1 else 0, ord := ord }
  let s1 := { s with nextId := id + 1, reqs := s.reqs ++ [r] }
  s1.after (rollTimes (coreOf s.cur) home leave).1 (if leave then .rollCallLeave id else .rollCallArrival id)

/-- The step that serves a request at its bank. -/
def Req.rollStep (r : Req) : Instr := match r.op with | .leave => .rollCallLeave r.id | _ => .rollCallArrival r.id

/-- The reply of a bank; one that its route does not let through becomes an error response (R285). -/
def State.rollReply (s0 : State) (r0 : Req) (home : Nat) : State :=
  let leave := match r0.op with | .leave => true | _ => false
  let x := rollTimes (coreOf r0.tid) home leave
  let bad := if r0.state = .performed then s0.routeFault (s0.thread r0.tid).part (coreOf r0.tid) r0.place true else none
  let r := if bad.isSome then { r0 with state := .failed, errAddr := r0.va } else r0
  let s := match bad with | some u => s0.logRoute r0 u | none => s0
  (s.updReq r.id (fun _ => r)).after (x.2 - x.1) (match r.state with | .performed => .fillLands r.id | _ => .errorResponse r.id)

/-- The outcome of a request at an entry, as the op of its ROLL record (R217, R218, R394). -/
def rollOutcome (op : MemOp) (key : Key) (e : Option RollEntry) : Nat :=
  match op, e with
  | .leave, some e => if e.owner = key then 3 else 4
  | .leave, none => 4
  | _, none => 0
  | _, some e => if key.lt e.owner then 1 else 2

/-- A request served at its bank, as one step: in the hardware entries, or by the proctor in the overflow table (R217, R218,
R221). At REPLAY the outcome is compared with the record (R400). -/
def State.rollServe (s : State) (r : Req) (home : Nat) : State :=
  let c := s.core home
  let key := s.keyOf r.tid
  let e := (c.roll ++ c.rollOvf).find? (fun e => e.node == r.va)
  let op := rollOutcome r.op key e
  let val := match e with | some e => if op = 1 ∨ op = 2 then s.actorOf e.tid % 2 ^ 15 * 2 ^ 16 else 0 | none => 0
  let ctx := (s.thread r.tid).ctx
  let actual := mkRecord 8 op 0 (s.actorOf r.tid) (r.ord.getD 0) val r.va.toNat
  match s.turnOf ctx 8 r.va.toNat (s.actorOf r.tid) r.ord with
  | .wait => s.again r.rollStep
  | .mine i x =>
    if recOp x ≠ op then
      s.diverge r.tid (some (i, x)) actual (fun s => s.again r.rollStep) (fun a s => s.rollReply { r with state := .diverged, errAddr := a } home)
    else apply (s.unqueue ctx i) c key op
  | .free => apply (s.note r.tid 8 op (r.ord.getD 0) val r.va.toNat) c key op
where
  /-- The entry changed by the outcome, and the reply. -/
  apply (s : State) (c : Core) (key : Key) (op : Nat) : State :=
    let set := match r.op with | .stand m => m | _ => 0
    let reg := match (s.thread r.tid).stand with | some (_, m) => m | none => 0
    let change : RollEntry → RollEntry := fun e =>
      if op = 1 then { e with owner := key, tid := r.tid, reg := reg, set := e.set ||| set } else { e with set := e.set ||| set }
    let edit : List RollEntry → List RollEntry := fun l =>
      if op = 3 then l.filter (fun e => e.node != r.va)
      else if op = 1 ∨ op = 2 then updEach (fun e => e.node == r.va) change l
      else l
    let fresh : RollEntry := { node := r.va, owner := key, tid := r.tid, reg := reg, set := set }
    let inHw := c.roll.length < Config.rollEntries && c.rollOvf.isEmpty
    let s1 := s.updCore home (fun c =>
      if op = 0 then (if inHw then { c with roll := c.roll ++ [fresh] } else { c with rollOvf := c.rollOvf ++ [fresh] })
      else { c with roll := edit c.roll, rollOvf := edit c.rollOvf })
    let left := match (c.roll ++ c.rollOvf).find? (fun e => e.node == r.va) with | some e => e.set | none => 0
    let done := { r with state := ReqState.performed }
    if op = 0 ∨ op = 1 then s1.rollReply { done with val := 1 } home
    else if op = 2 then s1.rollReply { done with val := 0 } home
    else if op = 3 then s1.rollReply { done with val := left, newCtx := 1 } home
    else s1.rollReply done home

/-- Whether the proctor serves a request at a bank (R221): it misses the hardware entries, and the overflow table holds an entry,
a request waits for the proctor, or a new entry finds no room. -/
def State.rollOverflows (s : State) (r : Req) (home : Nat) : Bool :=
  let c := s.core home
  let hit := c.roll.any (fun e => e.node == r.va)
  let waiting := s.reqs.any (fun q => decide (q.state = .waiting) && q.place == r.place && decide (q.id ≠ r.id))
  let opens := match r.op with | .leave => false | _ => true
  !hit && (!c.rollOvf.isEmpty || waiting || (opens && decide (Config.rollEntries ≤ c.roll.length)))

/-- A request at its home bank (R217, R218; 20 R377: held while the core is pre-empted): served in its turn, one request in each cycle in the order
they come (R220), or passed to the proctor (R221); ended in an error where a unit on its way does not let it through (R285, R411). -/
def State.rollArrive (s0 : State) (id : Nat) : State :=
  match s0.req id with
  | none => s0
  | some r =>
    let ev := r.rollStep
    let old := s0.itemOf ev
    let s := s0.leaveBank ev
    match r.place with
    | .core home _ =>
      let t := s.thread r.tid
      let came := if r.due = 0 then s.now else r.due
      let later := fun (s : State) => (s.updReq id (fun r => { r with due := came })).again ev
      if r.state ≠ .going then s
      else match s.spillAt home t.part ev with
      | some v => s.spill v ev
      | none => match s.routeFault t.part (coreOf r.tid) r.place false with
      | some u =>
        s.refusedAt t.ctx 8 (match r.op with | .leave => 3 | _ => 0) r.va.toNat r.tid r.ord later (fun s =>
          (s.logRoute r u).rollReply { r with state := .failed, errAddr := r.va } home)
      | none =>
        -- one that the order roll holds takes no cycle of the bank, and keeps its place by its arrival (R220)
        if s.turnOf t.ctx 8 r.va.toNat (s.actorOf r.tid) r.ord = .wait then later s
        else s.atServer old { s.threadItem r.tid .P r.place ev with came := came } (fun s =>
          if s.rollOverflows r home then
            (s.updReq id (fun r => { r with state := .waiting, due := came })).request (dieOf home) 5 home (some r.tid)
          else s.rollServe r home)
    | _ => s

/-- Requests in the order in which they came to their bank. -/
def byArrival (l : List Req) : List Req := l.foldl ins []
where
  ins (acc : List Req) (x : Req) : List Req :=
    match acc with
    | [] => [x]
    | y :: r => if x.due < y.due then x :: y :: r else y :: ins r x

/-- The requests that wait for the proctor at a bank, served in the order they came, as far as the proctor has come to their own requests (R221, R327). -/
def State.rollProxy (s : State) (home : Nat) : State :=
  let l := byArrival (s.reqs.filter (fun r => decide (r.state = .waiting) && r.place == .core home 0x100000))
  (l.take (s.handed 5 home l.length)).foldl
    (fun s r => (s.updReq r.id (fun q => { q with state := .going })).rollServe { r with state := .going } home) s

end Sys2Proof.Machine
end

