-- ==== Sys2Proof/Machine/Sync.lean ====
section
/-!
DEFINITION. Synchronisation (06 R133-R141): fences, barriers, bells, WAITRES and WAITK.
-/

namespace Sys2Proof.Machine

/-! ## Fences -/

/-- The bound of R46 for the farthest bank or home of a group (R135). -/
def groupBound (s : State) (c g : Nat) : Nat :=
  if g = 33 then Config.broino + Config.hostDelay s.now
  else if g = 32 then Config.broino
  else if g = dieOf c then Config.homeOwnDie else Config.homeElsewhere

/-- The groups of a mask (R134). -/
def groupsOf (m : Word) : List Nat := (List.range 34).filter (fun i => m.getLsbD i)

/-- The first part of a release fence (R135): the write-back of the thread's dirty OW lines, and one probe to each group. -/
def fenceProbes (scope : Nat) (s : State) : State :=
  let s1 := if 2 ≤ scope then s.writeBackThread s.cur else s
  let gs := if 1 ≤ scope then groupsOf s1.me.tbanks else []
  let e := s1.me.epoch
  gs.foldl (fun s g => s.after (halfUp (groupBound s (coreOf s.cur) g)) (.fenceProbe s.cur e g))
    (s1.upd (fun t => { t with probes := gs, phase := .sent }))

/-- A release fence (R135), then the rest of the instruction. -/
def releaseFence (scope : Nat) (k : State → State) (s : State) : State :=
  match s.me.phase with
  | .idle => go2 (fenceProbes scope s)
  | _ => go2 s
where
  /-- The echoes are awaited, then the acknowledgements; then held reports are raised. -/
  go2 (s : State) : State :=
    if !s.me.probes.isEmpty then s.parkOn .reply
    else
      let s1 := if 1 ≤ scope ∧ s.me.phase = .sent then s.upd (fun t => { t with tbanks := 0, phase := .done }) else s
      if s1.me.stores ≠ 0 then s1.parkOn .count else reportStores 4 (reportDiv 4 k) s1

/-- Whether an earlier `STF` or `BELLADD` of the issuing thread, which reads its word too, is on its way (R147). -/
def State.rmwOpen (s : State) : Bool :=
  s.reqs.any (fun q => q.tid == s.cur && q.epoch == s.me.epoch && q.open && (match q.op with | .stf _ => true | .bellAdd _ => true | _ => false))

/-- An acquire fence (R135), then the rest of the instruction: it waits for the thread's loads, and for its read-modify-writes without a
destination (R147). -/
def acquireFence (scope : Nat) (k : State → State) (s : State) : State :=
  if s.me.loads ≠ 0 || s.rmwOpen then s.parkOn .count else k (if 2 ≤ scope then s.dropSI s.cur else s)

/-- R135. FENCE: a release fence, then an acquire fence. -/
def execFence (sc : BitVec 3) (s : State) : Out := .next (
  issue { len := 4, legal := scopeOk sc } (releaseFence sc.toNat (acquireFence sc.toNat (fun s => s.advance 4))) s)
/-- R135. FENCE.ACQ. -/
def execFenceAcq (sc : BitVec 3) (s : State) : Out := .next (
  issue { len := 4, legal := scopeOk sc } (acquireFence sc.toNat (reportDiv 4 (fun s => s.advance 4))) s)
/-- R135. FENCE.REL. -/
def execFenceRel (sc : BitVec 3) (s : State) : Out := .next (
  issue { len := 4, legal := scopeOk sc } (releaseFence sc.toNat (fun s => s.advance 4)) s)

/-! ## Barriers and bells -/

/-- The checks of a barrier or bell address (R44, R136): windows 0xF1 to 0xF5, 16-byte alignment. -/
def checkObject (va : Word) (k : Place → State → State) (s : State) : State :=
  if isGlobal va.toNat then s.trap cPROT va 4 else checkAddr va 16 (fun _ => true) 4 k s

/-- R137. BARA: a release of scope s, then an arrival; d ← the generation it found. -/
def execBara (sc : BitVec 3) (a d : BitVec 6) (s : State) : Out := .next (
  issue { len := 4, legal := scopeOk sc, srcs := [gRef a.toNat], dsts := [gRef d.toNat] }
    (fun s =>
      let va := s.me.gv a
      checkObject va (fun p s =>
        let r : Req := { id := 0, tid := 0, epoch := 0, op := .bara, va := va, place := p, dst := some (gRef d.toNat), cls := .loads,
                         rel := true, scope := sc.toNat, short := p.short va }
        let once := s.atOnce p va true
        memIssue (if once then .none else .loads) (fun s =>
          if once then
            shortAccess 4 r (fun r _ s =>
              ((s.noteWrite s.cur (p.chipKey + 8) true r.ord true).arrive p.chipKey).done 4
                (fun t => t.setG d (BitVec.ofNat 64 (s.getN (p.chipKey + 8) 4)))) s
          else postAccess 4 r s) s) s) s)

/-- A wait on a generation (R137, R138), then an acquire of scope `sc`: `op` is its operation, `gop` the op of its GEN record.
`fin` runs when the wait has ended. -/
def waitGen (op : MemOp) (gop : Nat) (sc : BitVec 3) (va : Word) (fin : Place → State → State) (s : State) : State :=
  checkObject va (fun p s =>
    match s.me.phase with
    | .sent => s.parkOn .reply
    | .done => fin p s
    | .failed k e => s.trap k e 4
    | _ =>
      memIssue .none (fun s =>
        let r : Req := { id := 0, tid := 0, epoch := 0, op := op, va := va, place := p, acq := true, scope := sc.toNat }
        let ended := match op with
          | .barw g => s.genOf p.chipKey != g
          | .bellWait g => s.genOf p.chipKey != g
          | _ => true
        -- a wait that the roll orders goes to its object (R395, R400)
        let ordered := s.recording s.me.ctx || s.replaying s.me.ctx
        if s.atOnce p va false && ended && !ordered then
          shortAccess 4 r (fun r _ s => fin p (s.served r p.chipKey ((s.genOf p.chipKey).toNat % 2 ^ 31))) s
        else
          loggable 4 7 gop (s.objOf p) (fun o => o = gop) false (fun ord s =>
            (s.post { r with ord := ord }).upd (fun t => { t with phase := .sent, park := some .reply })) s) s) s

/-- R137. BARW: parks until the barrier's generation differs from b, then an acquire. -/
def execBarw (sc : BitVec 3) (b a : BitVec 6) (s : State) : Out := .next (
  issue { len := 4, legal := scopeOk sc, srcs := [gRef a.toNat, gRef b.toNat] }
    (fun s => waitGen (.barw ((s.me.gv b).setWidth 32)) 0 sc (s.me.gv a) (fun _ s => s.advance 4) s) s)

/-- R138. BELLADD: a release of scope s, then a credit of b[31:0]. -/
def execBelladd (sc : BitVec 3) (b a : BitVec 6) (s : State) : Out := .next (
  issue { len := 4, legal := scopeOk sc, srcs := [gRef a.toNat, gRef b.toNat] }
    (fun s =>
      let va := s.me.gv a
      let n : BitVec 32 := (s.me.gv b).setWidth 32
      checkObject va (fun p s =>
        let r : Req := { id := 0, tid := 0, epoch := 0, op := .bellAdd n, va := va, place := p, cls := .stores, rel := true, scope := sc.toNat,
                         short := p.short va }
        let once := s.atOnce p va true
        memIssue (if once then .none else .stores) (fun s =>
          if once then
            shortAccess 4 r (fun r _ s => ((s.noteWrite s.cur p.chipKey true r.ord true).credit p.chipKey n.toNat 0).advance 4) s
          else postAccess 4 r s) s) s) s)

/-- R138. BELLWAIT: parks until the bell's generation differs from b, then an acquire. A held NAN_TILE of a task on the bell is raised first
(R269, R323): where the bell has been waited for at its bank, the instruction issued again after the trap finds its wait ended. -/
def execBellwait (sc : BitVec 3) (b a : BitVec 6) (s : State) : Out := .next (
  issue { len := 4, legal := scopeOk sc, srcs := [gRef a.toNat, gRef b.toNat] }
    (fun s =>
      let va := s.me.gv a
      let gen : BitVec 32 := (s.me.gv b).setWidth 32
      checkObject va (fun p s =>
        let key := p.chipKey
        let nan := s.me.nanBell == some key
        if s.me.bellDone = some (s.me.pc, key) ∧ s.me.level = .U then (s.upd (fun t => { t with bellDone := none })).advance 4
        else if s.me.phase = .idle ∧ nan ∧ s.atOnce p va false ∧ s.genOf key ≠ gen then reportNan 4 (fun s => s.advance 4) s
        else waitGen (.bellWait gen) 1 sc va (fun p s =>
          if nan then reportNan 4 (fun s => s.advance 4) (s.upd (fun t => { t with bellDone := some (t.pc, p.chipKey) })) else s.advance 4) s) s) s)

/-- R139. WAITRES: parks until the reservation is lost. -/
def execWaitres (s : State) : Out := .next (
  issue { len := 4 } (fun s => if s.me.resv.isSome then s.parkOn .reply else s.advance 4) s)

/-! ## WAITK -/

/-- Whether a count is within a limit; 63 waits for nothing (R141). -/
def within (limit : BitVec 6) (n : Nat) : Bool := limit == 63 || decide (n ≤ limit.toNat)

/-- R141. WAITK: waits for the four classes, then raises the first held report. Behind a limit of 0 for copies or tile tasks no later load of the thread
reads a copy older than the engines' writes (R152): its SI copies go. -/
def execWaitk (t c sl l : BitVec 6) (s : State) : Out := .next (
  issue { len := 4 }
    (fun s =>
      let x := s.me
      if !(within l x.loads && within sl x.stores && within c x.copies && within t x.tiles) then s.parkOn .count
      else
        let last := reportSib 4 (fun s => if t ≠ 63 then reportNan 4 (reportDiv 4 (fun s => s.advance 4)) s else reportDiv 4 (fun s => s.advance 4) s)
        let s1 := if c = 0 ∨ t = 0 then s.dropSI s.cur else s
        if sl ≠ 63 then reportStores 4 last s1 else last s1) s)

end Sys2Proof.Machine
end

