-- ==== Sys2Proof/Machine/Hardware.lean ====
section
/-!
DEFINITION. The core's own steps (02 R13, R18-R24; 05 R80): lending, fills and errors, faults, the deque and stealing; the banks' and
homes' steps (03 R37, R46; 06 R126, R135, R137; 08 R168); PLB refills (19 R354) and the proctor (17 R327).
-/

namespace Sys2Proof.Machine

/-! ## Issue cycles -/

/-- Whether a core's slots issue at all: it is not stopped, saved or gated (R376, R388). -/
def Core.runs (c : Core) : Bool := !c.halted && !c.diverted && !c.gated

/-- Whether a thread is ready: not parked, not dropped from the rotation, not stopped (R10, R24, R321). -/
def State.ready (s : State) (t : Nat) : Bool :=
  let x := s.thread t
  x.occupied && x.park.isNone && x.faulted == 0 && x.hold == 0 && !x.stopped && (s.core (coreOf t)).runs

/-- Whether a thread's last issue lies 8 cycles back (R11, R13). -/
def State.spaced (s : State) (t : Nat) : Bool := match (s.thread t).lastIssue with | some i => decide (i + 8 ≤ s.now) | none => true

/-- Whether a slot of a core has issued in this cycle. -/
def State.issuedNow (s : State) (c : Nat) : Bool := (s.core c).issuedAt == some s.now

/-- The owner of a core's present cycle, if it issues now (R10, R12, R13). -/
def State.owner (s : State) (c : Nat) : Option Nat :=
  let t := c * 16 + s.now % 16
  if s.ready t && s.spaced t then some t else none

/-- The slot that a lent cycle goes to (R13): the first from the lending pointer on that is ready and spaced. At FIXED none (R12). -/
def State.lentSlot (s : State) (c : Nat) : Option Nat :=
  ((List.range 15).map (fun i => ((s.core c).lendPtr + i) % 15)).find? (fun i =>
    s.ready (c * 16 + i) && s.spaced (c * 16 + i) && !(s.thread (c * 16 + i)).ownCycle && decide (s.levelOf (s.thread (c * 16 + i)).ctx ≠ 3))

/-- R13. A cycle whose owner does not issue is granted to a ready thread, and the lending pointer moves behind it. -/
def execLentCycle (core : Nat) (s : State) : Out := .next (
  if (s.owner core).isSome || s.issuedNow core then s
  else match s.lentSlot core with
    | some i => s.updCore core (fun c => { c with grant := some (i, s.now, c.lendPtr), lendPtr := (i + 1) % 15 })
    | none => s)

/-! ## Fills, errors, faults -/

/-- R22. An awaited fill lands. -/
def execFillLands (id : Nat) (s : State) : Out := .next (
  match s.req id with
  | some r => if r.state = .performed then s.atCore r.tid (.fillLands id) (fun s => s.fillReg id) else s
  | none => s)

/-- R22, R114. An access ends in an error, a refusal or a divergence. -/
def execErrorResponse (id : Nat) (s : State) : Out := .next (
  match s.req id with
  | some r =>
    if r.state = .failed ∨ r.state = .refused ∨ r.state = .diverged then s.atCore r.tid (.errorResponse id) (fun s => s.failReg id) else s
  | none => s)

/-- R108. A posted access is acknowledged. -/
def execStoreAck (id : Nat) (s : State) : Out := .next (
  match s.req id with
  | some r => if r.state = .performed then s.atCore r.tid (.storeAck id) (fun s => s.fillReg id) else s
  | none => s)

/-- R80. The divider fills its destination. -/
def execDividerFill (tid epoch reg : Nat) (value : Word) (s : State) : Out := .next (
  let t := s.thread tid
  if t.occupied && t.epoch == epoch then ((s.updThread tid (fun t => t.fill (gRef reg) value.toNat)).wake tid).restCore (coreOf tid)
  else s)

/-- Whether a thread has a faulted access that is not woken yet (R24). -/
def State.faultsOpen (s : State) (t : Nat) : Bool :=
  s.reqs.any (fun r => r.tid == t && r.epoch == (s.thread t).epoch && r.parkedNow)

/-- R24. The fault notice reaches the core: the thread leaves the rotation. -/
def execFaultNotice (id : Nat) (s : State) : Out := .next (
  match s.req id with
  | some r => if r.parkedNow && s.lives r then s.updThread r.tid (fun t => { t with faulted := 1 }) else s
  | none => s)

/-- R24. The thread rejoins the rotation once every faulted access is woken. -/
def execFaultWakeRejoin (tid : Nat) (s : State) : Out := .next (
  if s.faultsOpen tid then s else (s.updThread tid (fun t => { t with faulted := 0 })).wakeCore (coreOf tid))

/-! ## The deque -/

/-- The partition and context of a deque entry: its launch's, or those of the partition that holds its core. -/
def State.entryHome (s : State) (e : DequeEntry) : Nat × Nat :=
  match (match e.launch with | some n => tfind s.launches n | none => none) with
  | some l => (l.part, l.ctx)
  | none => match s.parts.find? (fun p => p.2.has e.core) with
    | some (n, p) => (n, p.ctx)
    | none => (0, 0)

/-- An entry begins in a slot, and its core goes on looking for work. -/
def State.takeEntry (s : State) (t : Nat) (e : DequeEntry) : State :=
  let h := s.entryHome e
  let s1 := (s.startEntry t e h.1 h.2).updCore (coreOf t) (fun c => { c with idle := s.now })
  let c := s1.core (coreOf t)
  if c.deque.isEmpty ∧ !c.dequeOvf.isEmpty then s1.afterOnce 1 (.dequeRefill (coreOf t)) else s1.coreWork (coreOf t)

/-- The first open slot of core `taker` that takes an entry of a deque now, the entry, and the state without its record (R20, R400). -/
def State.turnSlot (s : State) (taker deque ctx op : Nat) : Option (Nat × DequeEntry × State) :=
  (s.openSlots taker).findSome? (fun i => (s.takeTurn (taker * 16 + i) deque ctx op).map (fun x => (i, x.1, x.2)))

/-- The context of a core's deque entries. -/
def State.dequeCtx (s : State) (core : Nat) : Nat := match (s.core core).deque.head? with | some e => (s.entryHome e).2 | none => 0

/-- At RECORD a steal's TAKE record waits for the slot in which the stolen entry starts: until then it names slot 15 (R394). -/
def State.placeSteal (s : State) (t : Nat) (e : DequeEntry) : State :=
  let ctx := (s.entryHome e).2
  let open_ : RollRecord → Bool := fun r =>
    recType r == 9 && recOp r == 1 && recActor r == s.nameOf (coreOf t) * 16 + 15 && recVal r == s.pushOf e
  s.updRoll ctx (fun r => { r with unwritten := updEach open_ (fun x => mkRecord 9 1 1 (s.actorOf t) 0 (recVal x) (recObj x)) r.unwritten })

/-- R20, R21, R226. A free program slot takes work: a `SPLIT` thread held for it, else a stolen entry, else the oldest entry of the deque; at
FIXED only `SPLIT` entries. -/
def execDequeTake (core : Nat) (s : State) : Out := .next (
  let x := s.core core
  if x.halted || x.diverted || isMem core then s
  else match x.held.find? (fun h => (s.freeSlots core).contains h.1) with
    | some (i, e) =>
      (s.updCore core (fun c => { c with held := removeFirst (fun h => decide (h = (i, e))) c.held })).takeEntry (core * 16 + i) e
    | none =>
      match (s.openSlots core).head? with
      | none => s
      | some i =>
        match x.stolen with
        | some e => ((s.updCore core (fun c => { c with stolen := none })).placeSteal (core * 16 + i) e).takeEntry (core * 16 + i) e
        | none =>
          if x.deque.isEmpty then s
          else if s.levelOf (s.dequeCtx core) = 3 then
            match x.deque.find? DequeEntry.isSplit with
            | some e => (s.updCore core (fun c => { c with deque := removeFirst DequeEntry.isSplit c.deque })).takeEntry (core * 16 + i) e
            | none => s
          else
            let ctx := s.dequeCtx core
            if s.rollFull ctx 9 (s.nameOf core) then s.afterOnce 1 (.dequeTake core)
            else match s.turnSlot core core ctx 0 with
            | some (j, e, s1) =>
              ((s1.noteTake (core * 16 + j) 0 e core ctx).updCore core (fun c => { c with deque := removeFirst (fun y => decide (y = e)) c.deque })).takeEntry
                (core * 16 + j) e
            | none => steal (s.afterOnce 1 (.dequeTake core)))
where
  /-- At REPLAY a deque that answers "empty" to its own core counts as empty for a steal attempt (R20, R400; log 39). -/
  steal (s : State) : State :=
    if (s.core core).steal.isSome || s.pend.any (fun e => decide (e.2 = .stealAttempt core)) then s
    else (s.updCore core (fun c => { c with idle := s.now })).afterOnce Config.stealWait (.stealAttempt core)

/-- The cores that a steal attempt asks, in ascending coordinates (R20): those of the launch's rectangle in its steal domain. -/
def State.victims (s : State) (core : Nat) (l : Launch) : List Nat :=
  let me := s.nameOf core
  let names := (List.range l.w).flatMap (fun x => (List.range l.h).map (fun y => coordOf (l.col0 + x) (l.row0 + y)))
  let domain := names.filter (fun n => n != me &&
    (match l.steal with
     | 0 => false
     | 1 => (clusterOf me).contains n
     | 2 => dieOf n == dieOf me
     | _ => true))
  match tfind s.parts l.part with
  | some p => domain.map p.phys
  | none => []

/-- R20. A core with a free slot and an empty deque for 64 cycles asks its first victim. -/
def execStealAttempt (core : Nat) (s : State) : Out := .next (
  let x := s.core core
  if isMem core || x.halted || x.diverted || x.steal.isSome || x.stolen.isSome || (s.openSlots core).isEmpty then s
  else if !x.deque.isEmpty && (!s.replaying (s.dequeCtx core) || (s.turnSlot core core (s.dequeCtx core) 0).isSome) then s
  else if s.now < x.idle + Config.stealWait then s.afterOnce (x.idle + Config.stealWait - s.now) (.stealAttempt core)
  else match s.launchOn core with
    | none => s
    | some (n, l) =>
      if s.levelOf l.ctx = 3 then s
      else match s.victims core l with
        | [] => s
        | v :: rest =>
          (s.updCore core (fun c => { c with steal := some { launch := n, victims := rest, carried := none, slot := none }, steals := c.steals + 1 })).after
            (s.flight l.part core v 1) (.stealRequest core v))

/-- The partition of the launch on a core, for the times of its steals. -/
def State.stealPart (s : State) (core : Nat) : Nat := match s.launchOn core with | some (_, l) => l.part | none => 0

/-- R20, R21, R400. A victim replies with its oldest hardware entry, or with empty: where the launch of the attempt has ended at either core,
and at REPLAY where the thief is not at the head of the deque's queue. Where a unit on the way lets the request or its reply not through (R285, R411),
the error response counts as an empty reply, and no entry leaves its deque (DESIGN CHOICE, log 39). -/
def execStealRequest (thief victim : Nat) (s : State) : Out := .next (
  match (s.core thief).steal with
  | none => s
  | some a =>
    let part := s.stealPart thief
    match s.spillAt victim part (.stealRequest thief victim) with
    | some v => s.spill v (.stealRequest thief victim)
    | none =>
      let back := fun (s : State) => s.after (s.flight part victim thief 1) (.stealReply thief victim false)
      let empty := back s
      let lost := match s.routeFault part thief (.core victim 0) false with | some u => some u | none => s.routeFault part thief (.core victim 0) true
      if let some u := lost then back (s.logUnit (thief * 16) part thief (.core victim 0) u) else
      let ctx := s.dequeCtx victim
      if s.rollFull ctx 9 (s.nameOf victim) then s.after 1 (.stealRequest thief victim) else
      let got := if s.launchAt thief ≠ some a.launch ∨ s.launchAt victim ≠ some a.launch ∨ s.levelOf ctx = 3 then none
        else if s.replaying ctx then s.turnSlot thief victim ctx 1 else (s.takeTurn (thief * 16 + 15) victim ctx 1).map (fun x => (15, x.1, x.2))
      match got with
      | none => empty
      | some (i, e, s1) =>
          let s2 := (s1.noteTake (thief * 16 + 15) 1 e victim ctx).updCore victim (fun c => { c with deque := removeFirst (fun y => decide (y = e)) c.deque })
          let s3 := if (s2.core victim).deque.isEmpty ∧ !(s2.core victim).dequeOvf.isEmpty then s2.afterOnce 1 (.dequeRefill victim) else s2
          (s3.updCore thief (fun c => { c with steal := some { a with carried := some e, slot := if s.replaying ctx then some i else none } })).after (s.flight part victim thief 20)
            (.stealReply thief victim true))

/-- R20. A steal reply at the thief: its entry starts in a free slot or waits for one; an empty reply sends the request to the next
victim, and after the last the 64-cycle count starts again. An attempt whose launch has ended goes no further. -/
def execStealReply (thief victim : Nat) (found : Bool) (s : State) : Out := .next (
  s.atCore (thief * 16) (.stealReply thief victim found) (fun s =>
    match (s.core thief).steal with
    | none => s
    | some a =>
      match a.carried with
      | some e => ((s.updCore thief (fun c => match a.slot with
          | some i => { c with steal := none, held := c.held ++ [(i, e)] }
          | none => { c with steal := none, stolen := some e })).afterOnce 0 (.dequeTake thief)).wakeCore thief
      | none =>
        if !s.stealing thief then
          (s.updCore thief (fun c => { c with steal := none })).afterOnce 0 (.stealAttempt thief)
        else match a.victims with
        | v :: rest =>
          (s.updCore thief (fun c => { c with steal := some { a with victims := rest, carried := none, slot := none }, steals := c.steals + 1 })).after
            (s.flight (s.stealPart thief) thief v 1) (.stealRequest thief v)
        | [] => (s.updCore thief (fun c => { c with steal := none, idle := s.now })).afterOnce Config.stealWait (.stealAttempt thief)))

/-- R18. The proctor refills an emptied hardware deque from the overflow area, oldest entries first, as many as fit beside the entries that
`SPAWN`s on their way hold in reserve (DESIGN CHOICE, log 10: R18 gives no number). -/
def execDequeRefill (core : Nat) (s : State) : Out := .next (
  let x := s.core core
  let room := Config.dequeSize - s.spawning core
  if !x.deque.isEmpty || x.dequeOvf.isEmpty || x.diverted then s
  else (s.updCore core (fun c => { c with deque := c.dequeOvf.take room, dequeOvf := c.dequeOvf.drop room })).coreWork core)

/-! ## The proctor -/

/-- The time from a thread's core to its die's proctor (R274). -/
def State.proctorTrip (s : State) (t : Nat) : Nat := s.flight (s.thread t).part (coreOf t) (proctorAt (dieOf (coreOf t))) 1

/-- The unit that holds a resource, by number (R327): of a waiter table its bank, of a sibling entry its slice, of a post, message or deque queue or a
roll-call bank its core; all replay queues are one unit's. -/
def State.unitOf (s : State) (kind addr : Nat) : Nat :=
  match kind with
  | 3 => if windowOf addr = 0xF5 then 2 ^ 60 + addr / 2 ^ 22
         else addr % 2 ^ 48 / 2 ^ 20 * 32 + (if addr % 2 ^ 20 < 2 ^ 19 then 0 else 16) + addr / 8 % 16
  | 4 => match s.slices.find? (fun e => e.2.proxies.any (fun p => p.key == addr)) with | some e => e.1 | none => addr
  | 7 => 0
  | _ => addr

/-- The oldest request that the proctor can serve: one that waits for memory holds back those of its kind from its unit (R327). -/
def State.servable (s : State) (l : List Resource) : Option Resource :=
  go l []
where
  go (l held : List Resource) : Option Resource :=
    match l with
    | [] => none
    | r :: rest =>
      if r.waits || held.any (fun h => h.kind == r.kind && s.unitOf h.kind h.addr == s.unitOf r.kind r.addr) then go rest (r :: held) else some r

/-- R327. A RESOURCE request reaches its die's proctor; when the overflow memory is full, the proctor asks the driver for more, and the operation
waits for the grant (log 10). -/
def execResourceRequest (die kind addr : Nat) (tid : Option Nat) (s : State) : Out := .next (
  let full := Config.overflowFull s.free
  let s1 := (s.updDie die (fun d => { d with resources := d.resources ++ [{ kind := kind, addr := addr, tid := tid, waits := full }] })).nextFree
  if full then { s1 with hostOut := s1.hostOut ++ [(3, BitVec.ofNat 64 die)] }
  else s1.afterOnce (match tid with | some t => s.proctorTrip t | none => 1) (.proctorProxyComplete die))

/-- R327. The restart message: the parked thread issues its instruction again. -/
def execResourceRestart (tid : Nat) (s : State) : Out := .next (
  if (s.thread tid).park = some .restart then s.wake tid else s)

/-- The 32 oldest entries of a hardware deque moved to its overflow area (R18). -/
def Core.makeRoom (c : Core) : Core :=
  { c with dequeOvf := c.dequeOvf ++ c.deque.take Config.dequeMove, deque := c.deque.drop Config.dequeMove }

/-- The youngest overflow entry of a slot, moved to the young end of the hardware deque (R19), in which the 32 oldest entries first make room where
`full` says that there is none. -/
def Core.searchOvf (c0 : Core) (slot : Nat) (full : Bool) : Core :=
  match c0.dequeOvf.reverse.find? (fun e => e.slot == slot) with
  | some e =>
    let c := { c0 with dequeOvf := (dropFirst c0.dequeOvf.reverse).reverse }
    let c1 := if full then c.makeRoom else c
    { c1 with deque := c1.deque ++ [e] }
  | none => c0
where
  /-- A list without its first entry of the slot. -/
  dropFirst (l : List DequeEntry) : List DequeEntry :=
    match l with
    | [] => []
    | e :: r => if e.slot = slot then r else e :: dropFirst r

/-- R18, R19, R221, R327. The proctor's firmware serves its oldest request: it moves 32 entries out of a full deque or searches the
overflow area for an `EXIT`, serves the roll calls that wait at a bank, or finishes an operation that the model holds in its place. It serves none before its firmware reports ready (R413). Of two
threads that found one full deque, the move for the first makes room for both (DESIGN CHOICE, log 10). -/
def execProctorProxyComplete (die : Nat) (s : State) : Out := .next (
  match (if (s.die die).fwStat = 3 then s.servable (s.die die).resources else none) with
  | none => s
  | some r =>
    let rest := (s.die die).resources.erase r
    let s1 := s.updDie die (fun d => { d with resources := rest })
    let s2 := match r.kind, r.tid with
      | 1, some t =>
        if (s.thread t).phase = .done ∧ (s.thread t).park = some .restart then
          ((s1.updCore r.addr (fun c => c.searchOvf (slotOf t) (s1.dequeFull r.addr))).updThread t (fun x => { x with phase := .searched })).wake t
        else
          refill r.addr ((if s1.dequeFull r.addr then s1.updCore r.addr Core.makeRoom else s1).after (s.proctorTrip t) (.resourceRestart t))
      | 2, _ =>
        if ringAddr 0 ≤ r.addr then s1.updCore (r.addr - ringAddr 0) (fun c => { c with spillSize := c.spillSize + Config.spillSegment })
        else (s1.updCore r.addr (unspill (s1.handed 2 r.addr (s1.core r.addr).msgSpill.length))).afterOnce 0 (.handlerStart r.addr)
      | 3, _ => s1.wakeWaiters r.addr
      | 4, _ => s1.sibProxy die r.addr
      | 5, _ => s1.rollProxy r.addr
      | 6, _ => (s1.core r.addr).postOvf.foldl (fun s i => s.after 0 (.mcpostDelivery i)) s1
      | _, _ => s1
    if rest.isEmpty then s2 else s2.afterOnce 1 (.proctorProxyComplete die))
where
  /-- An emptied hardware deque is refilled (R18). -/
  refill (core : Nat) (s : State) : State :=
    if (s.core core).deque.isEmpty && !(s.core core).dequeOvf.isEmpty then s.afterOnce 1 (.dequeRefill core) else s
  /-- Spilled messages that the proctor has come to and the queue has room for. -/
  unspill (n : Nat) (c : Core) : Core :=
    let room := min n (Config.msgQueue - c.msgs.length)
    { c with msgs := c.msgs ++ c.msgSpill.take room, msgSpill := c.msgSpill.drop room }

/-- R327. The driver grants more overflow memory, and what waits for it goes on. -/
def execOverflowMemoryGrant (die amount : Nat) (s : State) : Out := .next (
  let s1 := s.updDie die (fun d => { d with memory := d.memory + amount, resources := d.resources.map (fun r => { r with waits := false }) })
  if (s.die die).resources.isEmpty then s1 else s1.afterOnce 1 (.proctorProxyComplete die))

/-! ## Banks and homes -/

/-- The word of its access that a step serves. -/
def pieceOf (i : Instr) : Nat := match i with | .bankAccess x => x.piece | .homeAccess x => x.piece | _ => 0

/-- The place to which an access, or one of its words, has left its core (R273, R286). -/
def Req.placeOf (r : Req) (piece : Nat) : Place := match r.words[piece]? with | some p => p.place | none => r.place

/-- Whether an operation goes as a packet of type 4 (R276): a store, a `BELLADD` or a barrier arrival. -/
def MemOp.posts (op : MemOp) : Bool :=
  match op with
  | .store .. => true | .lanesStore .. => true | .setStore _ => true | .frameLink _ => true | .startZero => true | .bellAdd _ => true | .bara => true
  | _ => false

/-- Whether an earlier packet of a request's stream to core `k` is still on its way (R282): a message, a fill or a store of its thread that has neither
reached its bank nor been spilled there. -/
def State.follows (s : State) (r : Req) (k : Nat) : Bool :=
  s.reqs.any (fun q => decide (q.id < r.id) && q.tid == r.tid && q.epoch == r.epoch && q.state == .going &&
    (s.packets.any (fun p => p.req == q.id && decide (p.typ ≤ 1) && p.route == 0 && decide (p.place ≠ .arrived) && (if p.place = .source then s.lookup p else p.dst) == k) ||
     (q.op.posts && (List.range (max 1 q.words.length)).any (fun i =>
       (match q.words[i]? with | some w => w.state == .going | none => true) &&
       (match q.placeOf i with | .core c _ => c == k | _ => false) && (s.itemOf (q.event i)).isNone &&
       !s.cores.any (fun e => e.2.spilled.any (fun x => decide (x.step = q.event i)))))))

/-- An access, or one of its words, that reaches its bank or home by the step `i`, behind the earlier packets of its stream (R282): at a pre-empted core
it is spilled (R377), else it is performed in its turn. -/
def State.serve (s0 : State) (id : Nat) (i : Instr) (free : Bool) : State :=
  let old := s0.itemOf i
  let s := s0.leaveBank i
  match s.req id with
  | none => s
  | some r =>
    if r.event (pieceOf i) ≠ i ∨ !r.op.accesses ∨ r.op = .ttset then s
    else
      match r.placeOf (pieceOf i) with
      | .core c _ =>
        if old.isNone && r.op.posts && c != coreOf r.tid && s.follows r c then s.again i
        else match s.spillAt c (s.thread r.tid).part i with
          | some v => s.spill v i
          | none => s.perform id (pieceOf i) old free
      | _ => s.perform id (pieceOf i) old free
/-- An access that waits for its cycle at its server. -/
def State.serveAt (s : State) (id : Nat) (i : Instr) : State := s.serve id i false

/-- R46. A bank serves an access. -/
def execBankAccess (id : AccessStep) (s : State) : Out := .next (s.serveAt id.id (.bankAccess id))
/-- R37. A home slice translates and serves an access. -/
def execHomeAccess (id : AccessStep) (s : State) : Out := .next (s.serveAt id.id (.homeAccess id))
/-- R137. An arrival reaches its barrier. -/
def execBarrierArrival (id : Nat) (s : State) : Out := .next (s.serveAt id (.barrierArrival id))

/-- The slice that holds, or comes to hold, the partials of a word (R37, R168). -/
def State.partialSlice (s : State) (core key va : Nat) : Nat :=
  match s.slices.find? (fun e => e.2.partials.any (fun p => p.key == key)) with
  | some e => e.1
  | none => match s.walk va with | .ok (pg, _) => homeOf pg va | .error _ => faultSlice (dieOf core) va

/-- The partials of a partial line. -/
def Line.partials (l : Line) : List Partial :=
  (List.range 32).filterMap (fun i =>
    if l.words.getLsbD i then
      some { key := l.key + 4 * i, launchSeq := l.launchSeq, lci := l.lci, aop := l.aop,
             value := BitVec.ofNat 64 (bits l.data.toNat (32 * i + 8 * foldSize l.aop - 1) (32 * i)), va := l.line * 128 + 4 * i }
    else none)

/-- The partial lines of a core that meet a condition, sent to their homes and combined into the partials held there (R168). -/
def State.evictPartials (s : State) (core : Nat) (p : Line → Bool) : State :=
  let mine : Line → Bool := fun l => l.kind == .partialSum && p l
  let parts := ((s.core core).lines.filter mine).flatMap Line.partials
  let s1 := if parts.isEmpty then s else s.updCore core (fun c => { c with lines := c.lines.filter (fun l => !mine l) })
  parts.foldl (fun s p => s.updSlice (s.partialSlice core p.key p.va) (fun x => { x with partials := addPartial x.partials p })) s1

/-- R168. A partial line that was evicted is combined into the partials its home holds. -/
def execPartialEviction (core line : Nat) (s : State) : Out := .next (s.evictPartials core (fun l => l.line == line))

/-! ## Fences -/

/-- What stops a probe to the group of a die, or its echo on the way back (R285, R411). -/
def State.probeStop (s : State) (tid group : Nat) : Option (Nat × Nat) :=
  let part := (s.thread tid).part
  if 32 ≤ group then none
  else match s.routeFault part (coreOf tid) (.die group 0) false with | some u => some u | none => s.routeFault part (coreOf tid) (.die group 0) true

/-- The pre-empted core of a group's die that belongs to a thread's partition, whose banks a probe of the group is aimed at too (R386; log 52). -/
def State.probeAway (s : State) (part group : Nat) (i : Instr) : Option Nat :=
  match tfind s.parts part with
  | some p => ((p.cores.map p.phys).filter (fun c => dieOf c == group)).findSome? (fun c => s.spillAt c part i)
  | none => none

/-- A probe answered: its thread waits for this group no longer. -/
def State.probed (s : State) (tid group : Nat) : State :=
  (s.updThread tid (fun t => { t with probes := t.probes.filter (fun g => g != group) })).wake tid

/-- R135. A probe at its group waits behind the thread's accesses there, and is then echoed; one aimed at the banks of a pre-empted core is spilled
(R386). A probe or echo that a unit on its way does not let through ends in an error response: a held posted-store error (R114, R285), whose address,
which the manual does not give, is free (log 67). -/
def execFenceProbe (tid epoch group : Nat) (s : State) : Out := .next (
  let ev := Instr.fenceProbe tid epoch group
  let t := s.thread tid
  if !(t.occupied && t.epoch == epoch) then s
  else if let some u := s.probeStop tid group then
    (((s.logUnit tid t.part (coreOf tid) (.die group 0) u).nextFree.updThread tid (fun t => { t with storeErr := some (t.storeErr.getD s.freeVal) })).probed tid group)
  else if s.reqs.any (fun r => r.tid == tid && r.epoch == epoch && r.open && r.op.accesses && (s.openGroups r).contains group) then s.after 1 ev
  else match s.probeAway t.part group ev with
    | some v => s.spill v ev
    | none =>
      let b := groupBound s (coreOf tid) group
      s.after (b - halfUp b) (.fenceEcho tid epoch group))

/-- R135. An echo returns to the core. -/
def execFenceEcho (tid epoch group : Nat) (s : State) : Out := .next (
  s.atCore tid (.fenceEcho tid epoch group) (fun s =>
    let t := s.thread tid
    if t.occupied && t.epoch == epoch then s.probed tid group else s))

/-! ## Atomic intervals -/

/-- The requests of an interval in ascending thread key, those of one thread in program order (R126). -/
def State.keySort (s : State) (l : List Nat) : List Nat := l.foldl ins []
where
  ins (acc : List Nat) (x : Nat) : List Nat :=
    match acc with
    | [] => [x]
    | y :: r =>
      match s.req x, s.req y with
      | some a, some b => if (s.keyOf a.tid).lt (s.keyOf b.tid) then x :: y :: r else y :: ins r x
      | _, _ => y :: ins r x

/-- A translation that its slice holds from now on. -/
def State.warmWalk (s : State) (pg : Page) (va ctx : Nat) : State :=
  (s.updSlice (homeOf pg va) (fun x => { x with walks := x.walks.filter (fun e => !(e.block == va / 4096 && e.ctx == s.reserve ctx)) })).cacheWalk pg va ctx s.now

/-- The translation of an address, where it has one, is held for a context from now on (R361). -/
def State.warmAt (s : State) (va ctx : Nat) : State :=
  match s.walk va with
  | .ok (pg, _) => if s.walkCached (homeOf pg va) va ctx then s else s.warmWalk pg va ctx
  | .error _ => s

/-- The translation and the line that an atomic of an interval needs are there before it ends (R126, R361). -/
def State.warm (s : State) (r : Req) : State :=
  let s1 := s.updReq r.id (fun x => { x with line := true })
  match r.place with
  | .global va => s1.warmAt va (s.thread r.tid).ctx
  | _ => s1

/-- Whether an atomic cannot be applied with its interval: an earlier access of its thread holds it (R109, R110), or its page is being invalidated
(R365). -/
def State.late (s : State) (r : Req) : Bool := s.held r || (match r.place with | .global va => s.invalidating va | _ => false)

/-- The atomics held from an interval and from earlier ones, by interval and then by thread key (R126, R305). -/
def State.batchUpTo (s : State) (interval : Nat) : List (Nat × Nat) :=
  let ks := (s.batch.map (fun e => e.1)).filter (fun k => decide (k ≤ interval))
  (ks.foldl ins []).flatMap (fun k => (s.keySort ((s.batch.filter (fun e => e.1 == k)).map (fun e => e.2))).map (fun id => (k, id)))
where
  /-- The intervals, ascending and each once. -/
  ins (acc : List Nat) (x : Nat) : List Nat :=
    match acc with
    | [] => [x]
    | y :: r => if x < y then x :: y :: r else if x = y then y :: r else y :: ins r x

/-- R126. The atomics of an interval are applied in ascending thread key, those of an earlier interval before them (R305). One that cannot be applied yet
keeps its interval and its place, those behind it on its word with it, until the next interval ends (DESIGN CHOICE, log 61: the manual does not say
when). -/
def execAtomicIntervalEnd (interval : Nat) (s : State) : Out := .next (
  let l := s.batchUpTo interval
  ((l.foldl (fun (acc : List Nat × State) e =>
    let s := acc.2
    match s.req e.2 with
    | some r =>
      if s.late r || acc.1.contains (s.keyOfReq r) then
        (s.keyOfReq r :: acc.1,
          { s with batch := s.batch ++ [e] }.afterOnce (Config.interval * (interval + 2) - s.now) (.atomicIntervalEnd (interval + 1)))
      else (acc.1, (s.warm r).serve e.2 (r.event 0) true)
    | none => acc) ([], { s with batch := s.batch.filter (fun e => decide (interval < e.1)) })).2))

/-! ## PLB and roll call -/

/-- R354. A PLB refill ends: the entry is filled, even when it grants nothing, and the thread checks again. -/
def execPlbRefill (core tid region : Nat) (s : State) : Out := .next (
  let rights := match s.partOf tid with | some p => s.domainRights p.root region | none => {}
  let s1 := s.updCore core (fun c => c.plbFill region rights s.now)
  if (s.thread tid).park = some .plb then s1.wake tid else s1)

/-- R217, R221. A `STAND` reaches its home bank. -/
def execRollCallArrival (id : Nat) (s : State) : Out := .next (
  match s.req id with
  | some r => match r.op with | .stand _ => s.rollArrive id | _ => s
  | none => s)

/-- R218. A `LEAVE` reaches its home bank. -/
def execRollCallLeave (id : Nat) (s : State) : Out := .next (
  match s.req id with
  | some r => match r.op with | .leave => s.rollArrive id | _ => s
  | none => s)

/-- R330. A unit tries again to write its held event records. -/
def execEventRetry (die : Nat) (s : State) : Out := .next (s.flushEvents die)

end Sys2Proof.Machine
end

