-- ==== Sys2Proof/Machine/Message.lean ====
section
/-!
DEFINITION. The MSG major (14 R288-R293): active messages and their handlers, register fills, turn requests; the delivery of
packets (R278) and the turning of lane groups (R294).
-/

namespace Sys2Proof.Machine

/-! ## Sending -/

/-- The physical core that a name of a partition means, if it names one of its cores (R289, R292). -/
def State.namedCore (s : State) (t name : Nat) : Option Nat :=
  match s.partOf t with
  | some p => if p.named name then some (p.phys name) else none
  | none => none

/-- The source field of a packet: the core's name; a memory core's is a value the manual does not state (R275; log 15). -/
def State.srcField (s : State) : Nat :=
  if isMem (coreOf s.cur) then s.freeVal.toNat % 2 ^ 11 else s.nameOf (coreOf s.cur)

/-- A packet of the issuing thread to a core. -/
def State.newPacket (s : State) (typ route dst name req flits ord : Nat) (handler : Word) (payload : List Word) : Packet :=
  { id := 0, typ := typ, src := s.srcField, sslot := slotOf s.cur, route := route, tenant := s.me.part, vc := false, dst := dst,
    name := name, arg := 0, handler := handler, payload := payload, flits := flits, lti := s.me.lti, tid := s.cur,
    epoch := s.me.epoch, req := req, born := s.now, at_ := routerOf (coreOf s.cur), onColumn := false, cw := false, stop := 0,
    place := .source, waited := 0, aged := false, entered := 0, trail := [], ctx := s.me.ctx, ord := ord }

/-- A request of an operation that goes as a packet: counted, its destination PENDING. -/
def State.openReq (s : State) (op : MemOp) (va : Word) (core : Nat) (cls : CountClass) (dst : Option RegRef) (rel : Bool)
    (ord : Option Nat) (val : BitVec 1024 := 0) : State :=
  let r : Req := { id := s.nextId, tid := s.cur, epoch := s.me.epoch, op := op, va := va, place := .core core 0x100000, dst := dst,
                   cls := cls, rel := rel, issued := s.now, val := val, ord := ord }
  ({ s with nextId := s.nextId + 1, reqs := s.reqs ++ [r] }).upd (fun t =>
    let t1 := t.countUp cls
    match dst with | some d => t1.pendReg d | none => t1)

/-- Whether a route code may reach a core (R277): 0 always, 1 and 2 where the forced direction stays in the rectangle. -/
def State.routeOk (s : State) (route dst : Nat) : Bool :=
  match s.partOf s.cur with
  | some p => (walkRoute p route 40 (routerOf (coreOf s.cur)) (routerOf dst)).isSome
  | none => false

/-- The payload registers of a `SEND`, in the order they are read (R289). -/
def payloadRegs (p : BitVec 6) (n : BitVec 4) : List Nat := (List.range (2 * n.toNat)).map (fun i => p.toNat + i)

/-- The sources of a `SEND` in field order (R75, R288): the first payload register is its field d, the others are read implicitly. -/
def sendSources (p : BitVec 6) (n : BitVec 4) (a b : BitVec 6) : List RegRef :=
  let l := (payloadRegs p n).map gRef
  l.take 1 ++ [gRef a.toNat, gRef b.toNat] ++ l.drop 1

/-- R289. SEND: an active message of n payload flits. -/
def execSend (r : BitVec 2) (n : BitVec 4) (b a p : BitVec 6) (s : State) : Out := .next (
  issue { len := 4, legal := sendOk r n p, srcs := sendSources p n a b }
    (fun s =>
      let ga := s.me.gv a
      let gb := s.me.gv b
      match (if ga.toNat < 2 ^ 11 then s.namedCore s.cur ga.toNat else none) with
      | none => s.trap cPROT ga 4
      | some dst =>
        if !isGlobal gb.toNat then s.trap cPROT gb 4
        else if gb.toNat % 2 = 1 then s.trap cALIGN gb 4
        else if !s.routeOk r.toNat dst then s.trap cPROT ga 4
        else
          memIssue .stores (fun s =>
            loggable 4 0x0B 0 ga.toNat (fun o => o = 0) false (fun ord s =>
              let words := (payloadRegs p n).map (fun i => (s.me.gReg i).val)
              let pkt := s.newPacket 0 r.toNat dst ga.toNat s.nextId (n.toNat + 1) (ord.getD 0) gb words
              let s := if isMem (coreOf s.cur) then s.nextFree else s
              ((s.openReq .send ga dst .stores none true ord).inject pkt).advance 4) s) s) s)

/-- The number of registers of a class (R63). -/
def RegClass.size (c : RegClass) : Nat := match c with | .g => 64 | .m => 4 | .v => 16 | .c => 8
/-- The code of a class (R275). -/
def RegClass.code (c : RegClass) : Nat := match c with | .g => 0 | .m => 1 | .v => 2 | .c => 3

/-- The register that a fill's target names (R292). -/
def fillTarget (ga : Word) (cls : RegClass) : RegRef := ⟨cls, bits ga.toNat 20 15⟩

/-- A register fill of a class (R292). -/
def rfillOf (cls : RegClass) (src : RegRef) (a d : BitVec 6) (s : State) : State :=
  issue { len := 4, srcs := [gRef a.toNat, src], dsts := [gRef d.toNat] }
    (fun s =>
      let ga := s.me.gv a
      match (if ga.toNat < 2 ^ 21 ∧ bits ga.toNat 20 15 < cls.size then s.namedCore s.cur (bits ga.toNat 10 0) else none) with
      | none => s.trap cPROT ga 4
      | some dst =>
        memIssue .loads (fun s =>
          loggable 4 0x0C cls.code ga.toNat (fun o => o = cls.code) false (fun ord s =>
            let flits := match cls with | .g => 2 | .c => 2 | _ => 9
            let pkt := { s.newPacket 1 0 dst (bits ga.toNat 10 0) s.nextId flits (ord.getD 0) 0 [] with
              arg := bits ga.toNat 14 11 * 2 ^ 26 + cls.code * 2 ^ 24 + bits ga.toNat 20 15 * 2 ^ 18 }
            let v := BitVec.ofNat 1024 (s.me.valOf src)
            let s := if isMem (coreOf s.cur) then s.nextFree else s
            ((s.openReq (.rfill cls v) ga dst .loads (some (gRef d.toNat)) true ord).inject pkt).advance 4) s) s) s

/-- R292. RFILL: a general register. -/
def execRfill (b a d : BitVec 6) (s : State) : Out := .next (rfillOf .g (gRef b.toNat) a d s)
/-- R292. RFILLM: a membership register. -/
def execRfillm (b : BitVec 2) (a d : BitVec 6) (s : State) : Out := .next (rfillOf .m (mRef b.toNat) a d s)
/-- R292. RFILLV: a vector register. -/
def execRfillv (b : BitVec 4) (a d : BitVec 6) (s : State) : Out := .next (rfillOf .v (vRef b.toNat) a d s)
/-- R292. RFILLC: a version-context register. -/
def execRfillc (b : BitVec 3) (a d : BitVec 6) (s : State) : Out := .next (rfillOf .c (cRef b.toNat) a d s)

/-- R291. AMRET: ends the handler of slot 15. -/
def execAmret (s : State) : Out := .next (
  issue { len := 4, legal := slotOf s.cur == 15 } (endWaitFor 4 (fun s => s.retire s.cur)) s)

/-! ## Delivery -/

/-- A message in its core's queue, or in its spill space behind the queued ones (R26). The spill space is a list of the state, not bytes at the
core's spill base (DESIGN CHOICE, log 52). -/
def Core.enqueue (c : Core) (m : Msg) : Core :=
  if c.msgs.length < Config.msgQueue && c.msgSpill.isEmpty then { c with msgs := c.msgs ++ [m] } else { c with msgSpill := c.msgSpill ++ [m] }

/-- The message that a packet carries. -/
def Packet.msg (p : Packet) : Msg :=
  { handler := p.handler, src := p.src, lti := p.lti, part := p.tenant, ctx := p.ctx, payload := p.payload,
    actor := p.sslot + 16 * p.src, ord := p.ord }

/-- R26, R290. A message reaches its core: at REPLAY in the roll's order (R295), at a pre-empted core into its spill (R377). -/
def execMessageArrival (pkt : Nat) (s : State) : Out := .next (
  match s.packet pkt with
  | none => s
  | some p =>
    if p.typ ≠ 0 ∨ p.place ≠ .arrived then s
    else match s.spillAt p.dst p.tenant (.messageArrival pkt) with
    | some v => s.spill v (.messageArrival pkt)
    | none =>
      match s.turnOf p.ctx 0x0B p.name (s.actorOf p.tid) (some p.ord) with
      | .wait => s.after 1 (.messageArrival pkt)
      | .free => go s p
      | .mine i _ => go (s.unqueue p.ctx i) p)
where
  /-- The message is queued and acknowledged; slot 15 takes it when it is free. -/
  go (s : State) (p : Packet) : State :=
    let s1 := if s.recording p.ctx then s.record p.ctx (mkRecord 0x0B 0 0 (s.actorOf p.tid) p.ord 0 p.name) else s
    let full := decide (Config.msgQueue ≤ (s1.core p.dst).msgs.length) || !(s1.core p.dst).msgSpill.isEmpty
    let s2 := (s1.updCore p.dst (fun c => c.enqueue p.msg)).dropPacket p.id
    let s3 := if full then s2.request (dieOf p.dst) 2 p.dst none else s2
    ((s3.wakeCore p.dst).afterOnce 0 (.handlerStart p.dst)).ack p 0

/-- The registers a handler starts with (R290). -/
def handlerRegs (m : Msg) : Tbl (Reg 64) :=
  let put := fun (g : Tbl (Reg 64)) (i : Nat) (v : Word) => tput {} g i ⟨v, .full⟩
  let g := put (put (put (put [] 3 0xFFFFFFFF) 5 (BitVec.ofNat 64 m.src)) 6 (m.lti.setWidth 64)) 7 (BitVec.ofNat 64 (m.payload.length / 2))
  (List.range m.payload.length).foldl (fun g i => put g (8 + i) (m.payload.getD i 0)) g

/-- R290. Slot 15 takes the next queued message, an acquire of partition scope; a message that was spilled enters the queue. -/
def execHandlerStart (core : Nat) (s : State) : Out := .next (
  let t := core * 16 + 15
  let c := s.core core
  if (s.thread t).occupied || c.diverted || c.halted then s
  else
    match c.msgs with
    | [] => s
    | m :: rest =>
      let n := min 1 (s.handed 2 core c.msgSpill.length)
      let c1 := { c with msgs := rest ++ c.msgSpill.take n, msgSpill := c.msgSpill.drop n }
      let old := s.thread t
      let th := newThread old .handler 0xFFFFFFFF m.part m.ctx none m.handler
      ((s.setCore core c1).start t { th with g := handlerRegs m }).dropSI t)

/-- Whether a register awaits a fill by `EXPECT` (R97). -/
def State.expects (s : State) (t : Nat) (r : RegRef) : Bool := (s.thread t).occupied && (s.thread t).stOf r == .expecting

/-- R292. A register fill reaches its core: it fills a register that `EXPECT` left PENDING, or is dropped. -/
def execRfillArrival (pkt : Nat) (s : State) : Out := .next (
  match s.packet pkt with
  | none => s
  | some p =>
    if p.typ ≠ 1 ∨ p.place ≠ .arrived then s
    else match s.spillAt p.dst p.tenant (.rfillArrival pkt) with
    | some v => s.spill v (.rfillArrival pkt)
    | none =>
      match s.req p.req with
      | none => s.dropPacket pkt
      | some r =>
        match r.op with
        | .rfill cls v =>
          let t := p.dst * 16 + bits r.va.toNat 14 11
          let reg := fillTarget r.va cls
          let status := if s.expects t reg then 0 else 1
          match s.turnOf p.ctx 0x0C (r.va.toNat % 2 ^ 21) (s.actorOf p.tid) (some p.ord) with
          | .wait => s.after 1 (.rfillArrival pkt)
          | .free => go s p r t reg v status
          | .mine i x =>
            if recVal x % 2 ≠ status then
              s.diverge r.tid (some (i, x)) (mkRecord 0x0C cls.code 0 (s.actorOf p.tid) p.ord status (r.va.toNat % 2 ^ 21))
                (fun s => s.after 1 (.rfillArrival pkt))
                (fun a s => ((s.updReq r.id (fun q => { q with state := .diverged, errAddr := a })).dropPacket pkt).ack p 0)
            else go (s.unqueue p.ctx i) p r t reg v status
        | _ => s.dropPacket pkt)
where
  /-- The fill, its record and its acknowledgement. -/
  go (s : State) (p : Packet) (r : Req) (t : Nat) (reg : RegRef) (v : BitVec 1024) (status : Nat) : State :=
    let s1 := if s.recording p.ctx then
        s.record p.ctx (mkRecord 0x0C (match r.op with | .rfill cls _ => cls.code | _ => 0) 0 (s.actorOf p.tid) p.ord status (r.va.toNat % 2 ^ 21))
      else s
    let s2 := if status = 0 then
        (s1.updThread t (fun x => { x.put reg v.toNat .full with rfilled := if x.rfilled.contains reg then x.rfilled else x.rfilled ++ [reg] })).wake t
      else s1
    (s2.dropPacket p.id).ack p status

/-- R278, R282. A packet is delivered behind the earlier ones of its stream: a message or a fill to its core, an acknowledgement to the thread that awaits it. -/
def execPacketDelivery (pkt : Nat) (s : State) : Out := .next (
  match s.packet pkt with
  | none => s
  | some p =>
    if p.place = .source ∨ p.place = .arrived then s
    else if s.streamAny p (fun q => decide (q.place ≠ .arrived)) then s.after 1 (.packetDelivery pkt)
    else
      match hopOf p.at_ p.dst with
      | .arrive =>
        let s1 := s.updPacket pkt (fun q => { q with place := .arrived, trail := [] })
        match p.typ with
        | 0 => s1.after 0 (.messageArrival pkt)
        | 1 => s1.after 0 (.rfillArrival pkt)
        | _ =>
          let s2 := s1.dropPacket pkt
          match s2.req p.req with
          | none => s2
          | some r =>
            if r.state = .diverged then s2.atCore r.tid (.errorResponse r.id) (fun s => s.failReg r.id)
            else (s2.updReq r.id (fun q => { q with state := .performed, val := BitVec.ofNat 1024 (p.arg % 2) })).atCore r.tid (.fillLands r.id)
              (fun s => s.fillReg r.id)
      | _ => s)

/-- R278. A packet tries to enter its next input. -/
def execPacketHop (pkt : Nat) (s : State) : Out := .next (s.hop pkt)

/-- R281. A packet that has waited 64 cycles for an output reaches class 1. -/
def execOutputAging (pkt : Nat) (s : State) : Out := .next (
  match s.packet pkt with
  | some p => if Config.outputAge ≤ p.waited ∧ !s.fixedPkt p then s.updPacket pkt (fun q => { q with aged := true }) else s
  | none => s)

/-! ## Turning lanes -/

/-- The router that a turn request is carried to: the gateway of the link's lower-numbered die (R293). -/
def turnHome (c name : Nat) : Nat :=
  match linkOf name with
  | some l => if l % 2 = 1 then localCore (l / 2) (lcol (routerOf c)) 7 else localCore (l / 2) 7 (lrow (routerOf c))
  | none => localCore (name % 32) (lcol (routerOf c)) (lrow (routerOf c))

/-- The unloaded time of a turn request or its status reply (R293). -/
def State.turnTrip (s : State) (t name : Nat) : Nat := s.flight (s.thread t).part (coreOf t) (turnHome (coreOf t) name) 1

/-- R293. LTURN: a request to a link's turn queue. -/
def execLturn (b a d : BitVec 6) (s : State) : Out := .next (
  issue { len := 4, srcs := [gRef a.toNat, gRef b.toNat], dsts := [gRef d.toNat] }
    (fun s =>
      let ga := s.me.gv a
      let gb := s.me.gv b
      if 2 ^ 7 ≤ ga.toNat then s.trap cPROT ga 4
      else if 2 ^ 5 ≤ gb.toNat then s.trap cPROT gb 4
      else
        memIssue .loads (fun s =>
          loggable 4 0x0D 0 ga.toNat (fun o => o = 0) false (fun ord s =>
            let id := s.nextId
            (((s.openReq (.lturn ga gb) ga (coreOf s.cur) .loads (some (gRef d.toNat)) false ord)).after
              (s.turnTrip s.cur ga.toNat) (.turnRequest id)).advance 4) s) s) s)

/-- The working groups of a link, and those that run away from its lower-numbered die (R284). -/
def Link.workingCount (l : Link) : Nat := (l.groups.filter Group.working).length
def Link.awayCount (l : Link) : Nat := (l.groups.filter (fun g => g.working && g.away)).length

/-- The status of a turn request (R293): the first that applies. -/
def State.turnStatus (s : State) (r : Req) : Nat :=
  let name := r.va.toNat
  match linkOf name with
  | none => 4
  | some l =>
    let owned := match s.partOf r.tid with | some p => p.links.contains l | none => false
    let link := tget { groups := [], queue := [] } s.links l
    let g := link.workingCount
    let target := match r.op with | .lturn _ x => x.toNat | _ => 0
    if !owned then 1
    else if target < 4 ∨ g < target + 4 then 3
    else if Config.turnEntries ≤ link.queue.length then 2
    else 0

/-- The next turn boundary after now (R294). -/
def State.nextBoundary (s : State) (ctx : Nat) : Nat :=
  let m := if s.levelOf ctx = 3 then 4096 else 256
  m - s.now % m

/-- What loses a turn request, or its status, on its way (R285, R411). -/
def State.turnLost (s : State) (r : Req) : Option (Nat × Nat) :=
  let part := (s.thread r.tid).part
  let here := routerOf (coreOf r.tid)
  let there := turnHome (coreOf r.tid) r.va.toNat
  match tfind s.parts part with
  | none => none
  | some p =>
    match s.blocked p part 64 here there false (fun _ => true) with
    | some u => some u
    | none => s.blocked p part 64 there here false (fun _ => true)

/-- R293. A turn request at its link's turn queue; one that a router drops ends in an error (R285), with its record at its place in the queue's order
(R393). -/
def execTurnRequest (id : Nat) (s : State) : Out := .next (
  match s.req id with
  | none => s
  | some r =>
    if r.state ≠ .going then s
    else if let some u := s.turnLost r then
      s.refusedAt (s.thread r.tid).ctx 0x0D 0 r.va.toNat r.tid r.ord (fun s => s.after 1 (.turnRequest id)) (fun s =>
        ((s.logRoute r u).updReq id (fun q => { q with state := .failed, errAddr := r.va })).after (s.turnTrip r.tid r.va.toNat) (.errorResponse id))
    else
      match r.op with
      | .lturn _ _ =>
        let ctx := (s.thread r.tid).ctx
        let status := s.turnStatus r
        match s.turnOf ctx 0x0D r.va.toNat (s.actorOf r.tid) r.ord with
        | .wait => s.after 1 (.turnRequest id)
        | .free => go (s.note r.tid 0x0D 0 (r.ord.getD 0) status r.va.toNat) r ctx status
        | .mine i x =>
          if recVal x % 8 ≠ status then
            s.diverge r.tid (some (i, x)) (mkRecord 0x0D 0 0 (s.actorOf r.tid) (r.ord.getD 0) status r.va.toNat)
              (fun s => s.after 1 (.turnRequest id))
              (fun a s1 => (s1.updReq id (fun q => { q with state := .diverged, errAddr := a })).after (s.turnTrip r.tid r.va.toNat) (.errorResponse id))
          else go (s.unqueue ctx i) r ctx status
      | _ => s)
where
  /-- The request is queued, and its status goes back. -/
  go (s : State) (r : Req) (ctx status : Nat) : State :=
    let s1 := (s.updReq id (fun q => { q with state := .performed, val := BitVec.ofNat 1024 status })).after
      (s.turnTrip r.tid r.va.toNat) (.fillLands id)
    match status, linkOf r.va.toNat with
    | 0, some l =>
      let target := match r.op with | .lturn _ x => x.toNat | _ => 0
      let q : TurnReq := { fromLower := r.va.toNat / 32 % 4 = 0 || (r.va.toNat / 32 % 4 == 2 && decide (r.va.toNat % 32 < 16)), target := target, ctx := ctx,
                           actor := s.actorOf r.tid, name := r.va.toNat }
      ({ s1 with links := tmod s1.links l (fun x => { x with queue := x.queue ++ [q] }) }).afterOnce (s1.nextBoundary ctx) (.turnBoundary l)
    | _, _ => s1

/-- The eligible groups of a link that run away from the lower-numbered die, or towards it (R294). -/
def Link.eligible (l : Link) (away : Bool) (now : Nat) : List Nat :=
  (List.range l.groups.length).filter (fun i =>
    match l.groups[i]? with
    | some g => g.working && g.carrying && g.away == away && decide (g.since + Config.turnDwell ≤ now)
    | none => false)

/-- Groups turned (R294): they carry nothing for 40 cycles. -/
def Link.turn (l : Link) (which : List Nat) : Link :=
  { l with groups := (List.range l.groups.length).filterMap (fun i =>
      (l.groups[i]?).map (fun g => if which.contains i then { g with away := !g.away, carrying := false } else g)) }

/-- R294. A turn boundary: the link serves the head of its turn queue. -/
def execTurnBoundary (link : Nat) (s : State) : Out := .next (
  match tfind s.links link with
  | none => s
  | some l =>
    match l.queue with
    | [] => s
    | r :: rest =>
      let m := if s.levelOf r.ctx = 3 then 4096 else 256
      if s.now % m ≠ 0 then s.afterOnce (s.nextBoundary r.ctx) (.turnBoundary link)
      else
        let out := if r.fromLower then l.awayCount else l.workingCount - l.awayCount
        let more := decide (out < r.target)
        let want := if more then r.target - out else out - r.target
        let running := if more then !r.fromLower else r.fromLower
        let can := l.eligible running s.now
        let head := (s.ctx r.ctx).roll.headOf (recQueue 0x0E r.name)
        -- at REPLAY only what the roll's TURN record says (R400)
        let n := if s.replaying r.ctx then
            match head with
            | some (_, x) => if recType x = 0x0E ∧ recVal x % 32 ≤ can.length ∧ decide (recVal x / 32 % 2 = 1) = more then recVal x % 32 else 0
            | none => 0
          else if s.rollFull r.ctx 0x0E r.name then 0 else min want can.length
        let l1 := l.turn (can.take n)
        let done := decide (n = want)
        let l2 := if done then { l1 with queue := rest } else l1
        let s1 := { s with links := tset s.links link l2 }
        let s2 := (can.take n).foldl (fun s g => s.after Config.turnTime (.groupTurnDone link g)) s1
        let s3 := if n = 0 then s2
          else if s.replaying r.ctx then (match head with | some (i, _) => s2.unqueue r.ctx i | none => s2)
          else if s.recording r.ctx then
            s2.record r.ctx (mkRecord 0x0E 0 1 0 0xFFFF (n + 32 * (if more then 1 else 0) + 64 * (s.now / 256 % 2 ^ 25)) r.name)
          else s2
        if l2.queue.isEmpty then s3 else s3.afterOnce (s3.nextBoundary r.ctx) (.turnBoundary link))

/-- R294. A turned group carries flits in its new direction. -/
def execGroupTurnDone (link group : Nat) (s : State) : Out := .next (
  match tfind s.links link with
  | some l =>
    match l.groups[group]? with
    | some g =>
      if g.carrying then s
      else { s with links := tset s.links link { l with groups := l.groups.set group { g with carrying := true, since := s.now } } }
    | none => s
  | none => s)

end Sys2Proof.Machine
end

