-- ==== Sys2Proof/Machine/System.lean ====
section
/-!
DEFINITION. The SYS major (17 R318-R333): CSRs, time, marks, traps and the return from them, code and PLB invalidation, events.
-/

namespace Sys2Proof.Machine

/-! ## CSRs (R320) -/

/-- The assigned CSR numbers. -/
def csrKnown (n : Nat) : Bool :=
  n ≤ 0x002 || (decide (0x300 ≤ n) && decide (n ≤ 0x305)) || (decide (0x500 ≤ n) && decide (n ≤ 0x506)) ||
  (decide (0x600 ≤ n) && decide (n ≤ 0x605)) || n == 0x700 || n == 0x701 || (decide (0xA00 ≤ n) && decide (n ≤ 0xA03)) || n == 0xB00

/-- The level that a two-bit right of a CSR number asks for; 3 is none. -/
def csrLevel (b : Nat) : Option Level := match b with | 0 => some .U | 1 => some .S | 2 => some .F | _ => none
/-- The lowest level that may read a CSR, and that may write it (R320). -/
def csrReads (n : Nat) : Option Level := csrLevel (n / 1024)
def csrWrites (n : Nat) : Option Level := csrLevel (n / 256 % 4)

/-- The context that per-context CSRs mean: the thread's own, at F the one that `CTXSEL` names. -/
def Thread.csrCtx (t : Thread) : Nat := if t.level = .F then t.ctxsel.toNat % 256 else t.ctx

/-- What `CORE` reads: a core's name, or a memory core's number (R33, R320). -/
def State.coreCsr (s : State) (t : Nat) : Nat := if isMem (coreOf t) then coreOf t % 2 ^ 12 else s.nameOf (coreOf t) % 2 ^ 11

/-- A CSR's value for the issuing thread (R320). -/
def State.csrRead (s : State) (n : Nat) : Word :=
  let t := s.me
  let c := s.ctx t.csrCtx
  match n with
  | 0x000 => t.fpctl
  | 0x001 => t.qbase
  | 0x002 => t.qrec
  | 0x300 => BitVec.ofNat 64 s.now
  | 0x301 => BitVec.ofNat 64 (slotOf s.cur)
  | 0x302 => BitVec.ofNat 64 (s.coreCsr s.cur)
  | 0x303 => t.lti.setWidth 64
  | 0x304 => BitVec.ofNat 64 (c.level % 4)
  | 0x305 => t.tbanks
  | 0x500 => t.epc
  | 0x501 => t.ecause
  | 0x502 => t.einfo
  | 0x503 => t.estat
  | 0x504 => t.escr
  | 0x505 => t.elcnt
  | 0x506 => t.elctl
  | 0x600 => c.tvec
  | 0x601 => c.dbgctl
  | 0x602 => tget 0 c.dbgpc 0
  | 0x603 => tget 0 c.dbgpc 1
  | 0x604 => tget 0 c.dbgpc 2
  | 0x605 => tget 0 c.dbgpc 3
  | 0x700 => t.elstart
  | 0x701 => BitVec.ofNat 64 (t.ctx % 256 * 256 + t.part % 64)
  | 0xA00 => c.roll.base
  | 0xA01 => BitVec.ofNat 64 c.roll.size
  | 0xA02 => c.roll.tail
  | 0xA03 => t.ctxsel
  | 0xB00 => c.roll.head
  | _ => 0

/-- A context's CSR written, by `WRS` at F or by a command packet (R320, R338, R390). -/
def State.ctxCsrWrite (s : State) (c n : Nat) (v : Word) : State :=
  let fixed := s.recording c || s.replaying c
  match n with
  | 0x600 => s.updCtx c (fun x => { x with tvec := v &&& 0x00FFFFFFFFFFFFFE })
  | 0x601 => s.updCtx c (fun x => { x with dbgctl := v &&& 0xF })
  | 0x602 => compare 0
  | 0x603 => compare 1
  | 0x604 => compare 2
  | 0x605 => compare 3
  | 0xA00 => if fixed then s else s.updCtx c (fun x => { x with roll := { x.roll with base := v &&& 0x00FFFFFFFFFFF000 } })
  | 0xA01 =>
    let k := v.toNat % 32
    if fixed then s else s.updCtx c (fun x => { x with roll := { x.roll with size := if 8 ≤ k ∧ k ≤ 26 then k else 0 } })
  | 0xA02 => s.logTail c v
  | _ => s
where
  /-- A compare address; bit 0 reads as zero. -/
  compare (i : Nat) : State := s.updCtx c (fun x => { x with dbgpc := tput 0 x.dbgpc i (v &&& 0xFFFFFFFFFFFFFFFE) })

/-- A thread's CSR written (R101, R210, R320); unlisted bits keep zero. -/
def Thread.csrWrite (t : Thread) (n : Nat) (v : Word) : Thread :=
  match n with
  | 0x000 => { t with fpctl := fpctlWrite v }
  | 0x001 => { t with qbase := v }
  | 0x002 => { t with qrec := v &&& 0x1F0 }
  | 0x500 => { t with epc := v &&& 0x00FFFFFFFFFFFFFF }
  | 0x501 => { t with ecause := v &&& 0xFF }
  | 0x502 => { t with einfo := v }
  | 0x503 => { t with estat := v &&& 3 }
  | 0x504 => { t with escr := v }
  | 0x505 => { t with elcnt := v, elctl := if v = 0 then t.elctl &&& 0x7FFFFFFFFFFFFFFF else t.elctl }
  | 0x506 => { t with elctl := if v.toNat < 2 ^ 63 then t.elctl &&& 0x7FFFFFFFFFFFFFFF else t.elctl }
  | 0xA03 => { t with ctxsel := v &&& 0xFF }
  | _ => t

/-- Whether a CSR is per-context and written (R320). -/
def csrPerCtx (n : Nat) : Bool := (decide (0x600 ≤ n) && decide (n ≤ 0x605)) || (decide (0xA00 ≤ n) && decide (n ≤ 0xA02))

/-- R329. RDS: d ← the CSR. -/
def execRds (c : BitVec 12) (d : BitVec 6) (s : State) : Out := .next (
  issue { len := 4, legal := csrKnown c.toNat, min := (csrReads c.toNat).getD .F, dsts := [gRef d.toNat] }
    (fun s => s.done 4 (fun t => t.setG d (s.csrRead c.toNat))) s)

/-- R329. WRS: the CSR ← g. A CSR whose write level is 3 raises PRIV at every level (R320). -/
def execWrs (c : BitVec 12) (g : BitVec 6) (s : State) : Out := .next (
  match csrKnown c.toNat, csrWrites c.toNat with
  | true, none => s.priv 4
  | known, level =>
    issue { len := 4, legal := known, min := level.getD .F, srcs := [gRef g.toNat] }
      (fun s =>
        let v := s.me.gv g
        let s1 := if csrPerCtx c.toNat then s.ctxCsrWrite s.me.csrCtx c.toNat v else s.upd (fun t => t.csrWrite c.toNat v)
        s1.advance 4) s)

/-- R329. RDTS: d ← the timestamp of the issue cycle. -/
def execRdts (d : BitVec 6) (s : State) : Out := .next (setImm 4 (fun _ => BitVec.ofNat 64 s.now) d s)

/-! ## Marks -/

/-- R329, R394. LOGMARK: a mark record holding ga at RECORD, compared with it at REPLAY. -/
def execLogmark (a : BitVec 6) (s : State) : Out := .next (
  issue { len := 4, srcs := [gRef a.toNat] }
    (fun s =>
      let v := (s.me.gv a).toNat
      let c := s.me.ctx
      let ord := s.ordOf s.cur
      let actor := s.actorOf s.cur
      match (if s.replaying c then (s.ctx c).roll.cursor actor else none) with
      | some (i, x) =>
        if recType x = 2 ∧ recOrd x = ord ∧ recVal x ≠ v / 2 ^ 56 then
          s.divergeAtIssue 4 (some (i, x)) (mkRecord 2 0 0 actor ord (v / 2 ^ 56) v)
        else loggable 4 2 0 v (fun o => o = 0) false (fun _ s => (s.unqueue c i).advance 4) s
      | none => loggable 4 2 0 v (fun o => o = 0) false (fun o s => (s.note s.cur 2 0 (o.getD 0) (v / 2 ^ 56) v).advance 4) s) s)

/-! ## Traps and the return -/

/-- R329. TRAP: a trap of cause TRAP with the immediate. -/
def execTrap (i : BitVec 12) (s : State) : Out := .next (issue { len := 4 } (fun s => s.trap cTRAP (i.setWidth 64) 4) s)
/-- R329. BRK: a trap of cause BREAK. -/
def execBrk (s : State) : Out := .next (issue { len := 4 } (fun s => s.trap cBREAK 0 4) s)
/-- R331. BRK.C16: the 16-bit breakpoint. -/
def execBrkC16 (s : State) : Out := .next (issue { len := 2 } (fun s => s.trap cBREAK 0 2) s)

/-- The thread after its return from a trap (R329): level U, the saved loop restored, and dskip kept for the next instruction. -/
def Thread.leaveTrap (t : Thread) (now : Nat) : Thread :=
  let saved : Option LoopState :=
    if 2 ^ 63 ≤ t.elctl.toNat then
      some { start := t.elstart, stop := t.elstart + BitVec.ofNat 64 (2 * (t.elctl.toNat % 2 ^ 9)), remaining := t.elcnt }
    else t.loopU
  { t.transfer t.epc false now with
    level := .U, loopU := saved, dskip := bit t.estat.toNat 1, bellDone := t.bellDone.filter (fun b => b.1 == t.epc) }

/-- R329. RTT: the return from a trap; a target that fails its check is a double trap. -/
def execRtt (s : State) : Out := .next (
  issue { len := 4, min := .S }
    (fun s =>
      if s.me.level ≠ .S then s.priv 4
      else checkTarget s.me.epc 4 (fun s => s.upd (fun t => t.leaveTrap s.now)) s) s)

/-! ## Code, PLB and events -/

/-- R329. ICINV: once the thread's stores are acknowledged, the core's fetched code is discarded. -/
def execIcinv (s : State) : Out := .next (
  issue { len := 4 }
    (fun s =>
      if s.me.stores ≠ 0 then s.parkOn .count
      else (s.updCore (coreOf s.cur) (fun c => { c with fetched := [], icinv := s.was.length })).advance 4) s)

/-- R329. PLBINV: every entry of the core's PLB, or the one of the region of ga, is invalidated. -/
def execPlbinv (a : BitVec 6) (s : State) : Out := .next (
  issue { len := 4, min := .F, srcs := [gRef a.toNat] }
    (fun s =>
      let v := (s.me.gv a).toNat
      (s.updCore (coreOf s.cur) (fun c => { c with plb := if v = 0 then [] else c.plb.filter (fun e => e.region != regionOf v) })).advance 4) s)

/-- R329. HALT: parks until the event latch is set, then clears it; an acquire of partition scope. -/
def execHalt (s : State) : Out := .next (
  issue { len := 4, min := .S }
    (fun s =>
      if s.me.latch then ((s.upd (fun t => { t with latch := false })).dropSI s.cur).advance 4 else s.parkOn .latch) s)

/-- R329. EVSIG: a release, posted to the latches of a core or to the driver's event queue. -/
def execEvsig (b a : BitVec 6) (s : State) : Out := .next (
  issue { len := 4, min := .S, srcs := [gRef a.toNat, gRef b.toNat] }
    (fun s =>
      let ga := (s.me.gv a).toNat
      let gb := s.me.gv b
      let driver := bit ga 11
      let target := if driver then some (coreOf s.cur)
        else if s.me.level = .F then some (ga % 2 ^ 11) else s.namedCore s.cur (ga % 2 ^ 11)
      match target with
      | none => s.trap cPROT (s.me.gv a) 4
      | some c =>
        if s.me.level ≠ .F ∧ 2 ^ 12 ≤ ga then s.trap cPROT (s.me.gv a) 4
        else
          memIssue .stores (fun s =>
            ordinal 4 (fun ord s =>
              let id := s.nextId
              ((s.openReq (.evsig c) gb c .stores none true ord (if driver then 1 else 0)).after (s.flight s.me.part (coreOf s.cur) c 1) (.evsigDelivery id)).advance 4) s) s) s)

/-- Whether the record that an `EVSIG` has left with a die's unit is still held there (R330). -/
def State.eventHeld (s : State) (r : Req) : Bool :=
  match r.posted with
  | some (d, l) => (s.die d).events.contains l
  | none => false

/-- R329, R377. An `EVSIG` reaches its core, which a pre-empted one keeps, or the event queue of the thread's die: there it stays outstanding until its record is
written (R330). -/
def execEvsigDelivery (id : Nat) (s : State) : Out := .next (
  match s.req id with
  | none => s
  | some r =>
    match r.op with
    | .evsig c =>
      let d := dieOf (coreOf r.tid)
      if r.state = .waiting then
        if s.eventHeld r then s.after Config.retry (.evsigDelivery id) else ack s r c
      else if r.state ≠ .going then s
      else if s.held r then s.after 1 (.evsigDelivery id)
      else
        let s1 := s.releaseFence r.tid
        if r.val = 1 then
          let s2 := s1.postEvent d 2 0 0 (s.eventWho r.tid) r.va.toNat
          let r1 := { r with state := .waiting, posted := some (d, record32 2 (s.eventWho r.tid) r.va.toNat s.now) }
          if s2.eventHeld r1 then (s2.updReq id (fun _ => r1)).after Config.retry (.evsigDelivery id)
          else ack s2 r c
        else match s1.routeFault (s1.thread r.tid).part (coreOf r.tid) (.core c 0) false with
          | some u => refuse s1 r c u
          | none => match s1.spillAt c (s1.thread r.tid).part (.evsigDelivery id) with
            | some v => s1.spill v (.evsigDelivery id)
            | none => ack ((List.range 16).foldl (fun s i => if r.va.getLsbD i then latch s (c * 16 + i) else s) s1) r c
    | _ => s)
where
  /-- A latch set; a thread that halts there goes on. A free slot's is not set. -/
  latch (s : State) (t : Nat) : State :=
    if (s.thread t).occupied then
      let s1 := s.updThread t (fun x => { x with latch := true })
      if (s.thread t).park = some .latch then s1.wake t else s1
    else s
  /-- The acknowledgement, where its route lets it through. -/
  ack (s : State) (r : Req) (c : Nat) : State :=
    match s.routeFault (s.thread r.tid).part (coreOf r.tid) (.core c 0) true with
    | some u => refuse s r c u
    | none => (s.updReq id (fun q => { q with state := .performed })).after (s.flight (s.thread r.tid).part (coreOf r.tid) c 1) (.storeAck id)
  /-- An error response from a unit that does not let the event or its acknowledgement through (R285, R411); its address, which the manual does not give, is
  free (log 67). -/
  refuse (s : State) (r : Req) (c : Nat) (u : Nat × Nat) : State :=
    let s1 := s.logRoute { r with place := .core c 0 } u
    (s1.nextFree.updReq id (fun q => { q with state := .failed, errAddr := s1.freeVal })).after (s.flight (s.thread r.tid).part (coreOf r.tid) c 1) (.errorResponse id)

/-- R70. A word that is not an instruction raises ILLEGAL. -/
def execIllegalEncoding (word : BitVec 32) (s : State) : Out := .next (
  s.trap cILLEGAL (word.setWidth 64) (if isShort word.toNat then 2 else 4))

end Sys2Proof.Machine
end

