-- ==== Sys2Proof/Machine/Queues.lean ====
section
/-!
DEFINITION. Queues, launch and partitions (18 R334-R351): the command processor's steps. A queue's head packet is read and checked, waits
until it may start, and completes with its signal.
-/

namespace Sys2Proof.Machine

/-! ## Parts of a partition -/

def State.updPart (s : State) (n : Nat) (f : Part → Part) : State := { s with parts := tmod s.parts n f }
def State.queue (s : State) (n q : Nat) : Option Queue := match tfind s.parts n with | some p => tfind p.queues q | none => none
def State.updQueue (s : State) (n q : Nat) (f : Queue → Queue) : State := s.updPart n (fun p => { p with queues := tmod p.queues q f })

/-- The next opportunity of a die's command processor, one every 16 cycles (R345). -/
def State.dispatch (s : State) (die : Nat) : State := s.afterOnce (Config.dispatchEvery - s.now % Config.dispatchEvery) (.dispatchOpportunity die)
/-- The same for a partition's. -/
def State.dispatchPart (s : State) (n : Nat) : State := match tfind s.parts n with | some p => s.dispatch p.lead | none => s

/-! ## Accesses of the command processor -/

/-- Bytes read by the command processor of a die, with system scope (R339: a notify page is not read). -/
def State.cpRead (s : State) (die va n : Nat) : Reach :=
  let notify := match s.walk va with | .ok (pg, _) => (s.notifyPart pg).isSome && (s.missAt die va).isNone | .error _ => false
  if !isGlobal va then .bad s
  else if notify then .bad (s.logHome va (faultSlice die va) 0)
  else s.globalRead die va n

/-- An access of the command processor to a page of a partition's context: behind an invalidation of its page (R365), and once its home holds the
translation (R361); until then `ev` comes again. -/
def State.cpReady (s : State) (part va : Nat) (ev : Instr) (k : State → State) : State :=
  match tfind s.parts part with
  | none => k s
  | some p => if isGlobal va && s.invalidating va then s.after 1 ev else s.walked p.ctx va ev k

/-- The number under which a partition's jobs, and the writes of its queue `q`, that wait for a page are tried again by `headerPoll`: none of a queue. -/
def jobsRetry : Nat := 64
def writesRetry (q : Nat) : Nat := 65 + q

/-- The command processor parks on a page fault for a queue, at its home where that holds a list of the page (R363, R364). -/
def State.parkCp (s : State) (part va cause kind : Nat) (item : Parked) : State :=
  match tfind s.parts part with
  | none => s
  | some p =>
    let slice := s.faultAtSlice p.lead va
    if (s.slice slice).parked.any (fun x => x.items.contains item && x.block == va / 4096) then s
    else s.parkFault slice va cause (faultWho 0 0 kind false part p.ctx (slice % 16) 2) item

/-- The command processor's own writes for a queue, made in order until one waits or faults (R340, R348). `n` bounds their number. -/
def State.flushQueue (s : State) (part queue n : Nat) : State :=
  match n with
  | 0 => s
  | n + 1 =>
    match s.queue part queue with
    | none => s
    | some q =>
      match q.writes with
      | [] => s.pollQueue part queue
      | (va, l) :: rest =>
        s.cpReady part va (.headerPoll part (writesRetry queue)) (fun s =>
          match s.globalWrite (match tfind s.parts part with | some p => p.lead | none => 0) va l with
          | .miss c => s.parkCp part va c 1 (.agent 2 (part * 64 + queue))
          | .bad s1 => (s1.updQueue part queue (fun q => { q with writes := rest })).flushQueue part queue n
          | .ok _ s1 => (s1.updQueue part queue (fun q => { q with writes := rest })).flushQueue part queue n)

/-- Writes added to those of a queue. -/
def State.cpWrite (s : State) (part queue : Nat) (l : List (Nat × List Byte)) : State :=
  let s1 := s.updQueue part queue (fun q => { q with writes := q.writes ++ l })
  match s1.queue part queue with
  | some q => s1.flushQueue part queue (q.writes.length + 1)
  | none => s1

/-- The status of a queue written to its control block (R336, R348). -/
def State.setStatus (s : State) (part queue code : Nat) (stops : Bool) (index : Word) : State :=
  match s.queue part queue with
  | none => s
  | some q =>
    let v := code % 256 + (if q.stopped || stops then 2 ^ 8 else 0) + 2 ^ 16 * (index.toNat % 2 ^ 48)
    (s.updQueue part queue (fun q => { q with status := BitVec.ofNat 64 v, stopped := q.stopped || stops })).cpWrite part queue
      [(q.base.toNat - 64 + 16, natToBytes 8 v)]

/-- A queue stops with a code, and the driver is told (R348). -/
def State.stopQueue (s : State) (part queue code : Nat) (index : Word) : State :=
  match tfind s.parts part with
  | none => s
  | some p =>
    (s.setStatus part queue code true index).postEvent p.lead 3 code 0 (2 ^ 18 * part + 2 ^ 24 * p.ctx) (queue + 2 ^ 8 * index.toNat)

/-! ## Packets -/

def pktType (l : List Byte) : Nat := fieldOf l 1 1
def pktBarrier (l : List Byte) : Bool := bit (fieldOf l 0 1) 1
def pktIntr (l : List Byte) : Bool := bit (fieldOf l 0 1) 2
def pktSignal (l : List Byte) : Nat := fieldOf l 24 8
def pktBody (l : List Byte) : Nat := fieldOf l 8 8
def pktValue (l : List Byte) : Nat := fieldOf l 16 8
def pktShape (l : List Byte) : Nat := fieldOf l 40 8

/-- Fields of a launch's shape (R342), and the rectangle of a `RESIZE`. -/
def shapeCol (x : Nat) : Nat := bits x 6 0
def shapeRow (x : Nat) : Nat := bits x 10 7
def shapeW (x : Nat) : Nat := bits x 17 11 + 1
def shapeH (x : Nat) : Nat := bits x 21 18 + 1
def shapeT (x : Nat) : Nat := bits x 25 22
def shapeSteal (x : Nat) : Nat := bits x 27 26
def shapeSize16 (x : Nat) : Nat := bits x 32 28
def shapeStride (x : Nat) : Nat := bits x 56 33

/-- The cores of a rectangle, by name, ascending. -/
def rectCores (col row w h : Nat) : List Nat := (List.range w).flatMap (fun x => (List.range h).map (fun y => coordOf (col + x) (row + y)))
def shapeCores (x : Nat) : List Nat := rectCores (shapeCol x) (shapeRow x) (shapeW x) (shapeH x)

/-- Whether a completion signal address is good (R338): 0, or a doubleword of the global window on a plain page with read and atomic
right. A page that is not mapped yet is judged when it is used. -/
def State.signalOk (s : State) (p : Part) (va : Nat) : Bool :=
  va == 0 ||
  (isGlobal va && va % 8 == 0 &&
    (let r := s.domainRights p.root (regionOf va); r.r && r.a) &&
    (match s.walk va with | .ok (pg, _) => !pg.sib && !pg.accum | .error _ => true))

/-- The cores of a rectangle that leave, and those that come, with another (R351). -/
def Part.leaving (p : Part) (x : Nat) : List Nat := p.cores.filter (fun c => !(shapeCores x).contains c)
def Part.coming (p : Part) (x : Nat) : List Nat := (shapeCores x).filter (fun c => !p.cores.contains c)

/-- Whether a `RESIZE` names a legal rectangle (R351): exactly one edge moves, inside the module, over no other partition. -/
def State.resizeOk (s : State) (n : Nat) (p : Part) (x : Nat) : Bool :=
  let edges := [(p.col0, shapeCol x), (p.col0 + p.w, shapeCol x + shapeW x), (p.row0, shapeRow x), (p.row0 + p.h, shapeRow x + shapeH x)]
  (edges.filter (fun e => e.1 != e.2)).length == 1 && decide (shapeCol x + shapeW x ≤ 128) && decide (shapeRow x + shapeH x ≤ 16) &&
    (p.coming x).all (fun c => !s.parts.any (fun q => q.1 != n && q.2.has c))

/-- The code of a packet that stops its queue, or 0 (R338, R343). The state is that in which the packet is read. -/
def State.packetCode (s : State) (n : Nat) (p : Part) (queue : Nat) (l : List Byte) : Nat :=
  let a := pktBody l
  let sig := if s.signalOk p (pktSignal l) then 0 else 4
  match pktType l with
  | 1 =>
    let x := pktShape l
    if shapeT x = 0 ∨ 16 < shapeSize16 x ∨ shapeStride x % 16 ≠ 0 then 1
    else if 128 < shapeCol x + shapeW x ∨ 16 < shapeRow x + shapeH x ∨ !(shapeCores x).all p.has then 3
    else if a % 2 = 1 ∨ !isGlobal a then 4 else sig
  | 2 => sig
  | 3 => sig
  | 8 => if queue ≠ 0 then 2 else sig
  | 9 => if queue ≠ 0 then 2 else if !csrPerCtx (a % 2 ^ 12) ∨ (csrWrites (a % 2 ^ 12)).isNone then 1 else sig
  | 10 =>
    let k := bits a 20 16
    let base := pktValue l
    if queue ≠ 0 then 2
    else if a % 64 = 0 ∨ k < 4 ∨ 16 < k then 1
    else if (tfind p.queues (a % 64)).isSome then 2
    else if base % 64 ≠ 0 ∨ base < 64 ∨ !isGlobal (base - 64) ∨ !isGlobal (base + 64 * 2 ^ k - 1) then 4 else sig
  | 11 =>
    if queue ≠ 0 then 2
    else if a % 64 = 0 then 1
    else if (tfind p.queues (a % 64)).isNone ∨ p.destroying.any (fun d => d.1 == a % 64) then 2 else sig
  | 12 => if queue ≠ 0 then 2 else if !s.resizeOk n p a then 1 else sig
  | 13 => if queue ≠ 0 then 2 else sig
  | _ => 1

/-- R343. A LAUNCH packet is checked when it is read. -/
def execLaunch (part queue : Nat) (s : State) : Out := .next (
  match tfind s.parts part, s.queue part queue with
  | some p, some q =>
    match q.packet with
    | some l =>
      if q.stopped || q.checked || pktType l != 1 then s
      else
        match s.packetCode part p queue l with
        | 0 => (s.updQueue part queue (fun q => { q with checked := true })).dispatch p.lead
        | code => s.stopQueue part queue code q.read
    | none => s
  | _, _ => s)

/-- R338. A packet of a reserved type stops its queue with code 1. -/
def execReservedPacketType (part queue : Nat) (s : State) : Out := .next (
  match s.queue part queue with
  | some q =>
    match q.packet with
    | some l =>
      let t := pktType l
      if !q.stopped && (t == 0 || (decide (4 ≤ t) && decide (t ≤ 7)) || decide (14 ≤ t)) then s.stopQueue part queue 1 q.read else s
    | none => s
  | none => s)

/-- R339. A store to a notify register, by the host or a thread. -/
def execNotifyStore (part queue : Nat) (value : Word) (host : Bool) (s : State) : Out := .next ((s.notify part queue value host).getD s)

/-! ## Dispatch -/

/-- The started packets of a queue that have not completed (R337). -/
def State.queueBusy (s : State) (n queue : Nat) : Bool :=
  s.launches.any (fun e => e.2.part == n && e.2.queue == queue) ||
  (match tfind s.parts n with
   | some p => p.finishing.any (fun j => j.queue == queue) ||
      (queue == 0 && (p.setdet.isSome || p.resize.isSome || !p.destroying.isEmpty || !p.aborts.isEmpty))
   | none => false)

/-- The physical cores that a partition's started launches occupy (R344). -/
def State.launchCores (s : State) (n : Nat) (p : Part) : List Nat :=
  (s.launches.filter (fun e => e.2.part == n)).flatMap (fun e => (rectCores e.2.col0 e.2.row0 e.2.w e.2.h).map p.phys)

/-- A core on which a launch of a partition may start: none runs there, no RESIZE that has started takes it away or brings an image to it, and it is
neither saved nor being saved. -/
def State.coreFree (s : State) (n : Nat) (p : Part) (c : Nat) : Bool :=
  !(s.launchCores n p).contains c && !(s.core c).halted && !(s.core c).diverted && (s.core c).moved.isNone &&
    (match p.resize with | some r => !(p.leaving r.shape).contains c && !(decide (3 ≤ r.stage) && r.target == c) | none => true)

/-- The priority a queue's head packet has now (R345): 3 once it has waited 1,048,576 cycles. -/
def Queue.rank (q : Queue) : Nat := if q.aged then 3 else q.prio

/-- Whether a queue's head packet is checked and behind its barrier (R337, R345). -/
def State.headReady (s : State) (n queue : Nat) (q : Queue) : Bool :=
  match q.packet with
  | some l => q.checked && !q.stopped && q.writes.isEmpty && !(pktBarrier l && s.queueBusy n queue)
  | none => false

/-- Whether a queue's head has waited longer than another's. -/
def Queue.olderThan (a b : Nat × Queue) : Bool :=
  decide (a.2.since.getD 0 < b.2.since.getD 0) || (a.2.since == b.2.since && decide (a.1 < b.1))

/-- Whether a LAUNCH of another queue keeps a core of this one's rectangle in reserve (R345): one of a higher priority, or of the same. Of two
of one priority that both keep the core, the one that has waited longer may start on it (DESIGN CHOICE, log 64). -/
def State.reserved (s : State) (n : Nat) (p : Part) (queue : Nat) (q : Queue) (cores : List Nat) : Bool :=
  p.queues.any (fun e =>
    e.1 != queue && s.headReady n e.1 e.2 && decide (q.rank ≤ e.2.rank) &&
    cores.any (fun c => e.2.reserves.contains c &&
      !(q.rank == e.2.rank && q.reserves.contains c && Queue.olderThan (queue, q) e)))

/-- The busy cores that the waiting LAUNCHes of a partition reserve (R345). -/
def State.reserveCores (s : State) (n : Nat) : State :=
  match tfind s.parts n with
  | none => s
  | some p =>
    p.queues.foldl (fun (s : State) e =>
      match e.2.packet with
      | some l =>
        if pktType l = 1 ∧ s.headReady n e.1 e.2 then
          let busy := (shapeCores (pktShape l)).filter (fun c => !s.coreFree n p (p.phys c) && !e.2.reserves.contains c)
          if busy.isEmpty then s else s.updQueue n e.1 (fun q => { q with reserves := q.reserves ++ busy })
        else s
      | none => s) s

/-- The partitions of a context. -/
def State.ctxParts (s : State) (c : Nat) : Tbl Part := s.parts.filter (fun e => e.2.ctx == c)
/-- Whether a SETDET of a context has started and not completed (R350). -/
def State.settingLevel (s : State) (c : Nat) : Bool := (s.ctxParts c).any (fun e => e.2.setdet.isSome)

/-- The WAITSIG packets of a partition that may start by R340 and have not read 0 yet read their words (R338). -/
def State.readSignals (s : State) (n : Nat) : State :=
  match tfind s.parts n with
  | none => s
  | some p =>
    p.queues.foldl (fun (s : State) e =>
      match e.2.packet with
      | some l =>
        if pktType l = 2 ∧ s.headReady n e.1 e.2 ∧ !e.2.zero ∧ !s.settingLevel p.ctx then s.afterOnce (s.cpLat n (pktBody l)) (.waitsig n e.1) else s
      | none => s) s

/-- Whether a core is absent or being saved (R386). -/
def State.leavesCore (s : State) (c : Nat) : Bool :=
  decide (absentBase ≤ c) || (s.core c).halted || s.dies.any (fun d => match d.2.peReqs with | r :: _ => r.core == c && decide (r.stage ≠ 0) | [] => false)

/-- Whether a queue's head packet can start now, by a command processor whose firmware runs (R413). -/
def State.canStart (s : State) (n : Nat) (p : Part) (queue : Nat) (q : Queue) : Bool :=
  (s.die p.lead).fwStat == 3 && s.headReady n queue q && !s.settingLevel p.ctx &&
  (match q.packet with
   | some l =>
     match pktType l with
     | 1 => (shapeCores (pktShape l)).all (fun c => s.coreFree n p (p.phys c)) && !s.reserved n p queue q (shapeCores (pktShape l))
     | 2 => q.zero
     | 12 => p.resize.isNone
     | 13 =>
       -- an ABORT waits while a core of its launch is being saved, and until its image has resumed (R386)
       !s.launches.any (fun e => e.2.part == n && e.2.seq == pktBody l % 2 ^ 32 &&
         s.threads.any (fun t => t.2.launch == some e.1 && s.leavesCore (coreOf t.1)))
     | _ => true
   | none => false)

/-- Whether a partition's queue is chosen before another at one opportunity (R345). -/
def Part.beforeQueue (p : Part) (a b : Nat × Queue) : Bool :=
  if a.2.aged && b.2.aged then decide (a.2.since.getD 0 < b.2.since.getD 0)
  else if a.2.rank ≠ b.2.rank then decide (b.2.rank < a.2.rank)
  else
    let last := tget 63 p.lastQueue a.2.rank
    decide ((a.1 + 127 - last) % 64 < (b.1 + 127 - last) % 64)

/-- The queue whose head packet starts at an opportunity for a partition. -/
def State.chooseQueue (s : State) (n : Nat) (p : Part) : Option (Nat × Queue) :=
  (p.queues.filter (fun e => s.canStart n p e.1 e.2)).foldl
    (fun m e => match m with | some x => (if p.beforeQueue e x then some e else some x) | none => some e) none

/-- The step that starts a packet of a type. -/
def startStep (t n queue : Nat) : Instr :=
  match t with
  | 1 => .launchStart n queue
  | 2 => .waitsig n queue
  | 3 => .nopPacket n queue
  | 8 => .setdet n
  | 9 => .csrw n
  | 10 => .qcreate n
  | 11 => .qdestroy n
  | 12 => .resize n
  | _ => .abort n

/-- R345, R413. At an opportunity the command processor chooses the packet to start: the partitions in turn, then by priority and queue. -/
def execDispatchOpportunity (die : Nat) (s : State) : Out := .next (
  let held := ((s.die die).events.filter (fun r => fieldOf r 0 1 == 1 || fieldOf r 0 1 == 3)).length
  if (s.die die).fwStat ≠ 3 then s
  else if Config.heldEvents ≤ held then s.dispatch die
  else
    let s := (s.parts.filter (fun e => e.2.lead == die)).foldl (fun s e => (s.reserveCores e.1).readSignals e.1) s
    let ready := (s.parts.filter (fun e => e.2.lead == die)).filterMap (fun e => (s.chooseQueue e.1 e.2).map (fun q => (e.1, q)))
    let last := (s.die die).lastPart
    match (ready.find? (fun e => decide (last < e.1))).orElse (fun _ => ready.head?) with
    | none => s
    | some (n, i, q) =>
      match q.packet with
      | none => s
      | some l =>
        let s1 := (s.updDie die (fun d => { d with lastPart := n })).updPart n (fun p => { p with lastQueue := tput 63 p.lastQueue q.rank i })
        (s1.after 0 (startStep (pktType l) n i)).dispatch die)

/-- R345. A packet that has waited 1,048,576 cycles at the head of its queue counts as priority 3. -/
def execQueueAging (part queue : Nat) (s : State) : Out := .next (
  match s.queue part queue with
  | some q =>
    if q.packet.isSome && (match q.since with | some t => decide (t + Config.queueAge ≤ s.now) | none => false) then
      (s.updQueue part queue (fun q => { q with aged := true })).dispatchPart part
    else s
  | none => s)

/-- A packet started: its header is cleared, and the read index moves on (R340). -/
def State.consume (s : State) (part queue : Nat) (q : Queue) : State :=
  (s.updQueue part queue (fun q => { q with packet := none, checked := false, since := none, aged := false, reserves := [], zero := false, read := q.read + 1 })).cpWrite part queue
    [(q.slot q.read, natToBytes 8 0), (q.base.toNat - 64 + 8, natToBytes 8 (q.read + 1).toNat)]

/-- A head packet of a type that may start now. -/
def State.startable (s : State) (part queue typ : Nat) : Option (Part × Queue × List Byte) :=
  match tfind s.parts part, s.queue part queue with
  | some p, some q =>
    match q.packet with
    | some l => if pktType l = typ ∧ s.canStart part p queue q then some (p, q, l) else none
    | none => none
  | _, _ => none

/-! ## Completion -/

/-- The atomic subtract of a completion signal at its home, a release of system scope, by the command processor of a die (R347). -/
def State.signal (s : State) (die va : Nat) : Reach :=
  match s.walk va with
  | .error c => .miss c
  | .ok (pg, _) =>
    let e := s.windowEntry pg.pa
    let refused := s.hostKind pg == 1 && !(pg.sysatom && (bit e 23 || bit e 24))
    if s.isParked (homeOf pg va) va then .miss 1
    else if s.hostBad pg va || pg.sib || pg.accum || refused then .bad (s.logHome va (faultSlice die va) 0)
    else if s.eccBad pg.key 8 then .bad (s.eccRead pg.key 8 0)
    else
      let x := (s.countPage (homeOf pg va) va pg die).homeRead pg.key 8
      .ok [] (x.2.homeWrite pg.key (natToBytes 8 (BitVec.ofNat 64 (bytesToNat x.1) - 1).toNat))

/-- What follows the completion of a packet of a context: a SETDET that waits for it, and the next opportunity of its partitions. -/
def State.afterPacket (s : State) (n : Nat) : State :=
  match tfind s.parts n with
  | none => s
  | some p => (s.ctxParts p.ctx).foldl (fun (s : State) e =>
      (if e.2.setdet.isSome then s.afterOnce 1 (.setdetComplete e.1) else s).dispatch e.2.lead) s

/-- The end of a packet once its signal is applied: the driver's event (R347). -/
def State.endJob (s : State) (n : Nat) (j : Job) : State :=
  let s1 := s.updPart n (fun p => { p with finishing := p.finishing.filter (fun k => k != j) })
  let s2 := match tfind s.parts n with
    | some p => if j.intr then s1.postEvent p.lead 1 0 0 (2 ^ 18 * n + 2 ^ 24 * p.ctx) (j.queue + 2 ^ 8 * j.index.toNat) else s1
    | none => s1
  s2.afterPacket n

/-- A packet completes: its signal, then its event; a signal on a faulting page waits for the wake, and one that meets an error stops the
queue with code 5 (R347). -/
def State.finishJob (s : State) (n : Nat) (j : Job) : State :=
  if j.signal = 0 then s.endJob n j
  else
    match tfind s.parts n with
    | none => s
    | some p =>
      let waits := s.updPart n (fun p => if p.finishing.contains j then p else { p with finishing := p.finishing ++ [j] })
      waits.cpReady n j.signal.toNat (.headerPoll n jobsRetry) (fun s =>
        match s.signal p.lead j.signal.toNat with
        | .ok _ s1 => s1.endJob n j
        | .miss c => s.parkCp n j.signal.toNat c 2 (.agent 5 n)
        | .bad s1 => (s1.endJob n j).stopQueue n j.queue 5 j.index)

/-- The queues being destroyed whose started packets have completed (R338). -/
def State.destroyDone (s : State) (n : Nat) : State :=
  match tfind s.parts n with
  | none => s
  | some p =>
    p.destroying.foldl (fun s d =>
      if s.queueBusy n d.1 then s
      else (s.updPart n (fun p => { p with queues := terase p.queues d.1, destroying := p.destroying.filter (fun e => e.1 != d.1) })).finishJob n d.2) s

/-- The jobs of a partition that wait for a page, tried again (R364). -/
def State.retryJobs (s : State) (n : Nat) : State :=
  match tfind s.parts n with
  | none => s
  | some p => (p.finishing.foldl (fun s j => s.finishJob n j) s).destroyDone n

/-- The jobs of a partition whose signals lie in a block whose wake fails (R347): the address is logged, the word left, and the queue stops with
code 5. -/
def State.failJobs (s : State) (n block : Nat) : State :=
  match tfind s.parts n with
  | none => s
  | some p =>
    ((p.finishing.filter (fun j => j.signal.toNat / 4096 == block)).foldl (fun s j =>
      let s1 := s.logHome j.signal.toNat (faultSlice p.lead j.signal.toNat) 0
      (s1.endJob n j).stopQueue n j.queue 5 j.index) s).destroyDone n

/-- R340. The command processor reads the packet at a queue's read index: an invalid header is read again 64 cycles on; a valid packet is
held, and checked by its type. It reads none before its firmware runs (R413). -/
def execHeaderPoll (part queue : Nat) (s : State) : Out := .next (
  match tfind s.parts part, s.queue part queue with
  | some p, some q =>
    if q.stopped || q.packet.isSome || q.read == q.notified || (s.die p.lead).fwStat != 3 then s
    else if !q.writes.isEmpty then s.flushQueue part queue (q.writes.length + 1)
    else
      s.cpReady part (q.slot q.read) (.headerPoll part queue) (fun s =>
      match s.cpRead p.lead (q.slot q.read) 64 with
      | .miss c => s.parkCp part (q.slot q.read) c 0 (.agent 2 (part * 64 + queue))
      | .bad s1 => s1.stopQueue part queue 5 q.read
      | .ok l s1 =>
        if !bit (fieldOf l 0 1) 0 then s1.afterOnce Config.poll (.headerPoll part queue)
        else
          let s2 := (s1.updQueue part queue (fun q => { q with packet := some l, checked := false, since := some s.now, aged := false })).after
            Config.queueAge (.queueAging part queue)
          match pktType l with
          | 1 => s2.after 0 (.launch part queue)
          | t =>
            if t = 0 ∨ (4 ≤ t ∧ t ≤ 7) ∨ 14 ≤ t then s2.after 0 (.reservedPacketType part queue)
            else
              match s1.packetCode part p queue l with
              | 0 => (s2.updQueue part queue (fun q => { q with checked := true })).dispatch p.lead
              | code => s2.stopQueue part queue code q.read)
  | some _, none =>
    if queue = jobsRetry then s.retryJobs part
    else match s.queue part (queue - writesRetry 0) with
      | some q => if writesRetry 0 ≤ queue then s.flushQueue part (queue - writesRetry 0) (q.writes.length + 1) else s
      | none => s
  | none, _ => s)

/-- What completes a packet. -/
def jobOf (queue : Nat) (q : Queue) (l : List Byte) (arg : Nat) : Job :=
  { queue := queue, index := q.read, signal := BitVec.ofNat 64 (pktSignal l), intr := pktIntr l, arg := arg, sent := false }

/-! ## Packets that complete at once -/

/-- R338. A NOP packet completes when it starts. -/
def execNopPacket (part queue : Nat) (s : State) : Out := .next (
  match s.startable part queue 3 with
  | some (_, q, l) => (s.consume part queue q).finishJob part (jobOf queue q l 0)
  | none => s)

/-- R338, R345. A WAITSIG packet reads its word, and again 64 cycles after the read; once it has found 0 it starts at an opportunity, and
completes. -/
def execWaitsig (part queue : Nat) (s : State) : Out := .next (
  match s.startable part queue 2 with
  | some (_, q, l) => (s.consume part queue q).finishJob part (jobOf queue q l 0)
  | none =>
    match s.queue part queue with
    | none => s
    | some q =>
      match q.packet with
      | none => s
      | some l =>
        if pktType l ≠ 2 ∨ q.zero ∨ !s.headReady part queue q then s
        else
          s.cpReady part (pktBody l) (.waitsig part queue) (fun s =>
            match s.cpRead (match tfind s.parts part with | some p => p.lead | none => 0) (pktBody l) 8 with
            | .miss c => s.parkCp part (pktBody l) c 0 (.agent 2 (part * 64 + queue))
            | .bad s1 => s1.stopQueue part queue 5 q.read
            | .ok b s1 =>
              if bytesToNat b = 0 then (s1.updQueue part queue (fun q => { q with zero := true })).dispatchPart part
              else s1.after (Config.poll + s1.cpLat part (pktBody l)) (.waitsig part queue)))

/-- R338. A CSRW packet writes a per-context CSR of the partition's context. -/
def execCsrw (part : Nat) (s : State) : Out := .next (
  match s.startable part 0 9 with
  | some (p, q, l) =>
    ((s.consume part 0 q).ctxCsrWrite p.ctx (pktBody l % 2 ^ 12) (BitVec.ofNat 64 (pktValue l))).finishJob part (jobOf 0 q l 0)
  | none => s)

/-- A queue as it is set up (R334, R338). -/
def newQueue (base : Word) (n prio : Nat) : Queue :=
  { base := base, n := n, prio := prio, notified := 0, read := 0, stopped := false, status := 0, since := none, aged := false, reserves := [], zero := false,
    packet := none, checked := false, writes := [] }

/-- R338. A QCREATE packet sets up a queue. -/
def execQcreate (part : Nat) (s : State) : Out := .next (
  match s.startable part 0 10 with
  | some (_, q, l) =>
    let a := pktBody l
    let x := newQueue (BitVec.ofNat 64 (pktValue l)) (bits a 20 16) (bits a 9 8)
    ((s.consume part 0 q).updPart part (fun p => { p with queues := tset p.queues (a % 64) x })).finishJob part (jobOf 0 q l 0)
  | none => s)

/-- R338. A QDESTROY packet destroys a queue once its started packets have completed. -/
def execQdestroy (part : Nat) (s : State) : Out := .next (
  match s.startable part 0 11 with
  | some (_, q, l) =>
    let k := pktBody l % 64
    let s1 := (s.consume part 0 q).updPart part (fun p => { p with destroying := p.destroying ++ [(k, jobOf 0 q l k)] })
    (s1.updQueue part k (fun q => { q with stopped := true })).destroyDone part
  | none => s)

/-! ## Launch -/

/-- Every byte of a range of storage cleared to zero; a word with an uncorrectable error becomes good with it (R414). -/
def State.clearKeys (s : State) (key len : Nat) : State :=
  { s with mem := s.mem.filter (fun e => !(decide (key ≤ e.1) && decide (e.1 < key + len))),
           ecc := s.ecc.filter (fun e => !(decide (key ≤ e.1) && decide (e.1 < key + len))) }

/-- R344. A launch starts: its cores are made ready, it gets its sequence number, and its state is sent to each of them (R346). -/
def execLaunchStart (part queue : Nat) (s : State) : Out := .next (
  match s.startable part queue 1 with
  | none => s
  | some (p, q, l) =>
    let x := pktShape l
    let n := s.nextLaunch
    let launch : Launch :=
      { part := part, ctx := p.ctx, queue := queue, index := q.read, seq := (s.ctx p.ctx).seq, entry := BitVec.ofNat 64 (pktBody l),
        args := BitVec.ofNat 64 (pktValue l), signal := BitVec.ofNat 64 (pktSignal l), stack := BitVec.ofNat 64 (fieldOf l 32 8),
        stride := shapeStride x, size16 := shapeSize16 x, steal := shapeSteal x, t := shapeT x, h := shapeH x, w := shapeW x,
        row0 := shapeRow x, col0 := shapeCol x, qbase := BitVec.ofNat 64 (fieldOf l 48 8), intr := pktIntr l, touched := 0, arrived := 0,
        aborted := false, stage := 0 }
    let s1 := (s.consume part queue q).updCtx p.ctx (fun c => { c with seq := (c.seq + 1) % 2 ^ 32 })
    let s2 := { s1 with launches := tset s1.launches n launch, nextLaunch := n + 1 }
    (shapeCores x).foldl (fun s name =>
      let c := p.phys name
      let s3 := (s.updCore c (fun k => { k with roll := [], rollOvf := [], lendPtr := 0, plb := [] })).clearKeys (laneKey c 0 0) (2 ^ 17)
      s3.after (if dieOf c = p.lead then Config.sameDieCore else Config.homeElsewhere) (.launchStateArrival n c)) s2)

/-- The PLB entry and the translation of an address that a launch's state names, its entry point or a first frame: they come with that state, so that
the first issue waits for no refill and for no walk (R346, R298; log 35). -/
def State.launchRefill (s : State) (t va : Nat) : State :=
  match s.partOf t with
  | some p =>
    if !isGlobal va then s
    else
      let s1 := s.warmAt va p.ctx
      if ((s.core (coreOf t)).plbFind (regionOf va)).isNone then
        s1.updCore (coreOf t) (fun c => c.plbFill (regionOf va) (s.domainRights p.root (regionOf va)) s.now)
      else s1
  | none => s

/-- The two words of a launched thread's first frame, written to zero before its first issue (R346): each in its turn posted, or, where
its address is wrong, left with a trap. -/
def State.zeroFrame (s : State) (t : Nat) (a : Word) : State :=
  let bad := fun (c : Nat) => s.updThread t (fun x => { x with startFault := some (x.startFault.getD (c, a)) })
  match s.resolve t a.toNat with
  | none => bad cPROT
  | some p =>
    let f := (s.launchRefill t a.toNat).rightFor t a.toNat
    if a.toNat % 8 ≠ 0 then bad cALIGN
    else if !(f.1.w && f.1.a) then bad cPROT
    else
      let s1 := ({ f.2.2 with cur := t } : State).postIn (some f.2.1) { id := 0, tid := 0, epoch := 0, op := .startZero, va := a, place := p }
      { s1 with cur := s.cur }.updThread t (fun x => { x with hold := x.hold + 1, tbanks := 0 })

/-- The thread of a launch in a slot (R15). -/
def State.launchThread (s : State) (n : Nat) (l : Launch) (lci t : Nat) : Thread :=
  let slot := slotOf t
  let sp := l.stack + BitVec.ofNat 64 ((lci * l.t + slot + 1) * l.stride)
  let put := fun (g : Tbl (Reg 64)) (i : Nat) (v : Word) => tput ({} : Reg 64) g i ⟨v, .full⟩
  let lti := lci * 15 + slot
  let g := put (put (put (put [] 2 sp) 3 (BitVec.ofNat 64 lti)) 4 l.args) 5 (BitVec.ofNat 64 lci)
  { newThread (s.thread t) .launch (BitVec.ofNat 32 lti) l.part l.ctx (some n) l.entry with
    g := g, qbase := l.qbase, qrec := BitVec.ofNat 64 (l.size16 * 16), ownCycle := true }

/-- R346. A core's launch state arrives: what its threads load by SI is no older than the launch (R341), its threads are made, and their first
frames written. At FIXED they wait for the first global timestamp 4,096m at which every core has its state (R298), when the step comes again; a
thread whose frame is not written then waits for a later one (DEDUCED, log 35). -/
def execLaunchStateArrival (launch core : Nat) (s : State) : Out := .next (
  match tfind s.launches launch with
  | none => s
  | some l =>
    if l.aborted then s else
    let slots := (List.range l.t).map (fun i => core * 16 + i)
    let fixed := s.levelOf l.ctx == 3
    if (s.thread (core * 16)).occupied ∧ (s.thread (core * 16)).launch = some launch then
      (if fixed ∧ l.arrived = l.w * l.h then
        let late := slots.any (fun t => decide (1 < (s.thread t).hold))
        let s1 := slots.foldl (fun s t => s.updThread t (fun x => if x.hold = 1 then { x with hold := 0 } else x)) s
        if late then s1.after 4096 (.launchStateArrival launch core) else s1
      else s)
    else
      let lci := l.lciOf (s.nameOf core)
      let s0 := (List.range 16).foldl (fun s i => s.dropSI (core * 16 + i)) s
      let s1 := slots.foldl (fun s t =>
        let th := s.launchThread launch l lci t
        let sp := th.gv (2 : BitVec 6)
        ((s.start t { th with hold := if fixed then 1 else 0 }).zeroFrame t (sp - 16)).zeroFrame t (sp - 8)) s0
      let s2 := { s1 with launches := tmod s1.launches launch (fun l => { l with arrived := l.arrived + 1 }) }
      let s3 := (((s2.launchRefill (core * 16) l.entry.toNat).launchRefill (core * 16) (l.entry.toNat + 2)).coreWork core).checkLaunch (some launch)
      if fixed ∧ l.arrived + 1 = l.w * l.h then
        let wait := (4096 - s.now % 4096) % 4096
        match tfind s.parts l.part with
        | some p => (rectCores l.col0 l.row0 l.w l.h).foldl (fun s c => s.after wait (.launchStateArrival launch (p.phys c))) s3
        | none => s3
      else s3)

/-- The groups of a touched mask (R347). -/
def touchedGroups (m : Word) : List Nat := (List.range 34).filter (fun g => m.getLsbD g)

/-- Whether an access, a message or a register fill of a launch's aborted threads is not performed or acknowledged yet (R347, R349): those of a thread
that retires by itself are (R29). -/
def State.launchFlights (s : State) (p : Part) (l : Launch) : Bool :=
  let cores := (rectCores l.col0 l.row0 l.w l.h).map p.phys
  s.reqs.any (fun r => r.open && (r.op.accesses || (match r.op with | .send => true | .rfill .. => true | _ => false)) && !s.lives r &&
    cores.contains (coreOf r.tid))

/-- The cores of a launch are free: the remap entries of its moved cores go (R347). -/
def State.freeCores (s : State) (n : Nat) (l : Launch) : State :=
  let names := rectCores l.col0 l.row0 l.w l.h
  match tfind s.parts l.part with
  | none => s
  | some p =>
    let mine := p.remap.filter (fun e => names.contains e.2.1)
    let s1 := mine.foldl (fun s e => s.updCore e.2.2 (fun c => { c with moved := none })) s
    let s2 := s1.updPart l.part (fun p => { p with remap := p.remap.filter (fun e => !names.contains e.2.1) })
    let s3 := { s2 with launches := terase s2.launches n }
    let jobs := p.aborts.filter (fun a => a.1 == n)
    let s4 := s3.updPart l.part (fun p => { p with aborts := p.aborts.filter (fun a => a.1 != n) })
    let s5 := jobs.foldl (fun s a => s.finishJob l.part a.2) s4
    (s5.afterPacket l.part).destroyDone l.part

/-- R347. A launch that is over is completed: its groups are probed, its signal is decremented, the driver is told, and its cores are
free; an aborted one leaves code 16 (R348). -/
def execLaunchComplete (launch : Nat) (s : State) : Out := .next (
  match tfind s.launches launch with
  | none => s
  | some l =>
    match tfind s.parts l.part with
    | none => s
    | some p =>
      let stage := fun (s : State) (k : Nat) => { s with launches := tmod s.launches launch (fun l => { l with stage := k }) }
      if l.stage = 0 then
        (if s.launchOver launch ∧ s.launchFlights p l then s.after 1 (.launchComplete launch)
        else if s.launchOver launch then
          let c := coordOf p.col0 p.row0
          (stage s 1).after ((touchedGroups l.touched).foldl (fun m g => max m (groupBound s c g)) 0) (.launchComplete launch)
        else s)
      else
        let free := fun (s : State) =>
          let s1 := if l.intr then s.postEvent p.lead 1 0 0 (2 ^ 18 * l.part + 2 ^ 24 * l.ctx) (l.queue + 2 ^ 8 * l.index.toNat) else s
          (if l.aborted then s1.setStatus l.part l.queue 16 false l.index else s1).freeCores launch l
        if l.signal = 0 then free s
        else
          s.cpReady l.part l.signal.toNat (.launchComplete launch) (fun s =>
            match s.signal p.lead l.signal.toNat with
            | .ok _ s1 => free s1
            | .miss c => (stage s 2).parkCp l.part l.signal.toNat c 2 (.agent 4 launch)
            | .bad s1 => (free s1).stopQueue l.part l.queue 5 l.index))

/-- The signal of a launch whose page's wake fails (R347): the word is unchanged, and the queue stops with code 5. -/
def State.failSignal (s : State) (launch : Nat) : State :=
  match tfind s.launches launch with
  | none => s
  | some l =>
    match tfind s.parts l.part with
    | none => s
    | some p =>
      let s1 := s.logHome l.signal.toNat (faultSlice p.lead l.signal.toNat) 0
      let s2 := if l.intr then s1.postEvent p.lead 1 0 0 (2 ^ 18 * l.part + 2 ^ 24 * l.ctx) (l.queue + 2 ^ 8 * l.index.toNat) else s1
      (s2.freeCores launch l).stopQueue l.part l.queue 5 l.index

/-! ## ABORT -/

/-- A thread of an aborted launch retires at once, without R29's wait (R349): it stands no more, and its slot is free. -/
def State.drop (s : State) (t : Nat) : State :=
  let th := s.thread t
  (s.setThread t { epoch := th.epoch + 1, lastIssue := th.lastIssue }).coreWork (coreOf t)

/-- The commands of a launch that have not started go (R349). -/
def State.dropCommands (s : State) (n : Nat) : State :=
  let cs := (s.copies.filter (fun c => c.launch == some n && !c.begun && c.kind != 2)).map (fun c => c.id)
  let ts := (s.tileCmds.filter (fun c => c.launch == some n && c.engine.isNone && !c.ended)).map (fun c => c.id)
  let s1 := { s with
    copies := s.copies.filter (fun c => !cs.contains c.id)
    tileCmds := s.tileCmds.filter (fun c => !ts.contains c.id)
    waiters := s.waiters.filter (fun w => match w.2 with | .cmd i => !cs.contains i | .tile i _ => !ts.contains i | .req _ => true) }
  let s2 := s1.cores.foldl (fun s e => s.updCore e.1 (fun c => { c with copyq := c.copyq.filter (fun i => !cs.contains i) })) s1
  s2.dies.foldl (fun s e => s.updDie e.1 (fun d => { d with tileq := d.tileq.filter (fun i => !ts.contains i) })) s2

/-- R349. An ABORT retires every thread of its launch and drops its deque entries; the launch then completes by R347. -/
def execAbort (part : Nat) (s : State) : Out := .next (
  match s.startable part 0 13 with
  | none => s
  | some (_, q, l) =>
    let s1 := s.consume part 0 q
    match s.launches.find? (fun e => e.2.part == part && e.2.seq == pktBody l % 2 ^ 32 && e.2.stage == 0) with
    | none => s1.finishJob part (jobOf 0 q l 0)
    | some (n, l0) =>
      let gone : DequeEntry → Bool := fun e => e.launch == some n
      let clear : Core → Core := fun c => { c with
        deque := c.deque.filter (fun x => !gone x), dequeOvf := c.dequeOvf.filter (fun x => !gone x)
        stolen := c.stolen.filter (fun x => !gone x), held := c.held.filter (fun x => !gone x.2)
        steal := c.steal.map (fun a => { a with carried := a.carried.filter (fun x => !gone x) }) }
      let names := rectCores l0.col0 l0.row0 l0.w l0.h
      let open_ : RollRecord → Bool := fun r =>
        recType r == 9 && recOp r == 1 && recActor r % 16 == 15 && names.contains (recActor r / 16)
      let s0 := s1.updRoll l0.ctx (fun r => { r with unwritten := r.unwritten.filter (fun x => !open_ x) })
      let s2 := s0.cores.foldl (fun s c => s.updCore c.1 clear)
        { s0 with launches := tmod s1.launches n (fun l => { l with aborted := true, arrived := l.w * l.h }) }
      let s3 := (s2.threads.filter (fun t => t.2.launch == some n)).foldl (fun s t => s.drop t.1) s2
      let s4 := (s3.dropCommands n).updPart part (fun p => { p with aborts := p.aborts ++ [(n, jobOf 0 q l n)] })
      s4.checkLaunch (some n))

/-! ## SETDET -/

/-- R350. A SETDET starts: nothing else of the context starts until it completes. One that R350 refuses stops queue 0 with code 1; contexts whose
SETDET to FIXED has started count among those at FIXED. -/
def execSetdet (part : Nat) (s : State) : Out := .next (
  match s.startable part 0 8 with
  | none => s
  | some (p, q, l) =>
    let level := pktBody l % 4
    let coming := fun (c : Nat) => (s.ctxParts c).any (fun e => match e.2.setdet with | some j => j.arg == 3 | none => false)
    let fixed := (s.ctxs.filter (fun c => c.1 != p.ctx && (c.2.level == 3 || coming c.1))).length
    if ((level = 1 ∨ level = 2) ∧ (s.ctx p.ctx).roll.size = 0) ∨ (level = 3 ∧ 8 ≤ fixed) then s.stopQueue part 0 1 q.read
    else ((s.consume part 0 q).updPart part (fun p => { p with setdet := some (jobOf 0 q l level) })).after 0 (.setdetComplete part))

/-- A LEVEL record (R394). -/
def levelRecord (old new now : Nat) : RollRecord := mkRecord 1 new 1 0 0xFFFF old now

/-- The translations that home slices reserve for a context at FIXED are released (R299). -/
def State.freeWalks (s : State) (c : Nat) : State :=
  s.slices.foldl (fun s e => s.updSlice e.1 (fun x => { x with walks := x.walks.filter (fun w => w.ctx != some c) })) s

/-- The slot that a context entering FIXED reserves at the memory cores (R299): the lowest that no other context at FIXED has (DESIGN CHOICE, log 63). -/
def State.freePostSlot (s : State) (c : Nat) : Nat :=
  ((List.range 15).find? (fun i => !s.ctxs.any (fun e => e.1 != c && e.2.level == 3 && e.2.postSlot == i))).getD 0

/-- R350, R391, R399. Once every started packet has completed, the roll is closed with its level record, and the new level applies. -/
def execSetdetComplete (part : Nat) (s : State) : Out := .next (
  match tfind s.parts part with
  | none => s
  | some p =>
    match p.setdet with
    | none => s
    | some j =>
      let c := p.ctx
      let old := s.levelOf c
      if s.launches.any (fun e => e.2.ctx == c) ∨ (s.ctxParts c).any (fun e => e.2.resize.isSome || !e.2.aborts.isEmpty || !e.2.finishing.isEmpty ||
          !e.2.destroying.isEmpty) then s
      else if old = 1 ∧ !j.sent then
        ((s.updPart part (fun p => { p with setdet := some { j with sent := true } })).record c (levelRecord old j.arg s.now)).afterOnce
          Config.dispatchEvery (.setdetComplete part)
      else if old = 1 ∧ !(s.ctx c).roll.unwritten.isEmpty then s.afterOnce Config.dispatchEvery (.setdetComplete part)
      else
        let r := (s.ctx c).roll
        let s1 := if old = 2 ∧ (!r.queues.isEmpty ∨ !r.cursors.isEmpty ∨ r.head ≠ r.tail) then s.rollEvent c 4 else s
        let fresh : Roll := { base := r.base, size := r.size, head := if j.arg = 1 ∨ j.arg = 2 then 0 else r.head,
                              tail := if j.arg = 1 ∨ j.arg = 2 then 0 else r.tail }
        let s2 := s1.updCtx c (fun x => { x with level := j.arg, roll := fresh
                                                 served := if j.arg = 3 ∧ old ≠ 3 then 0 else x.served
                                                 postSlot := if j.arg = 3 ∧ old ≠ 3 then s1.freePostSlot c else x.postSlot })
        let s3 := { s2 with lastWrite := s2.lastWrite.filter (fun e => !(s2.ctxParts c).any (fun x => x.2.has (e.2.1 % 2 ^ 16 / 16))) }
        let s3 := if (old = 3) = (j.arg = 3) then s3 else s3.freeWalks c
        let s4 := if j.arg = 1 then s3.record c (levelRecord old 1 s.now) else if j.arg = 2 then s3.lowReplay c else s3
        (s4.updPart part (fun p => { p with setdet := none })).finishJob part { j with sent := false })

end Sys2Proof.Machine
end

