-- ==== Sys2Proof/Machine/Manage.lean ====
section
/-!
DEFINITION. The driver's side of translation and movement (19 R362-R370), the writes of management registers (18 R334, R335; 20 R375; 22
R403-R410; 23 R415), and the error log.
-/

namespace Sys2Proof.Machine

/-! ## Fault records and wakes -/

/-- R364. A slice tries again to write the fault records that found the queue full. -/
def execFaultRetry (slice : Nat) (s : State) : Out := .next (
  (((s.slice slice).parked.filter (fun p => !p.written)).map (fun p => p.block)).foldl (fun s b => s.writeFault slice b) s)

/-- R362. A write of FQTAIL consumes records and clears the pending interrupt. -/
def execFqtailWrite (die : Nat) (value : Word) (s : State) : Out := .next (
  s.updDie die (fun d => { d with fq := { d.fq with tail := value, irq := false } }))
/-- R368. A write of NQTAIL. -/
def execNqtailWrite (die : Nat) (value : Word) (s : State) : Out := .next (
  s.updDie die (fun d => { d with nq := { d.nq with tail := value, irq := false } }))
/-- R330. A write of EQTAIL. -/
def execEqtailWrite (die : Nat) (value : Word) (s : State) : Out := .next (
  s.updDie die (fun d => { d with eq := { d.eq with tail := value, irq := false } }))

/-- The address of an access that lies in a block, or its own address. -/
def Req.inBlock (r : Req) (block : Nat) : Nat :=
  match r.pieces.find? (fun e => e.1 / 4096 == block) with | some e => e.1 | none => r.va.toNat

/-- The thread of a woken access rejoins the rotation once the notice has crossed (R24). -/
def State.rejoin (s : State) (t : Nat) : State := s.after (halfUp Config.homeOwnDie) (.faultWakeRejoin t)

/-- A parked item performed again by a wake (R364). -/
def State.wakeItem (s : State) (i : Parked) : State :=
  match i with
  | .req id piece =>
    match s.req id with
    | some r => ((s.updReq id (fun r => r.unparked piece)).serveAt id (r.event piece)).rejoin r.tid
    | none => s
  | .fetch t e => if (s.thread t).epoch = e ∧ (s.thread t).park = some .fetch then s.wake t else s
  | .copy id word =>
    match s.copy id with
    | some c => (s.updWord id word (fun w => { w with state := .going })).after 0 (.copyShare ⟨id, c.unitOf word, some word⟩)
    | none => s
  | .tile id => s.after 0 (.ttsetServe id)
  | .agent k u =>
    match k with
    | 1 => s.resumeRoll u
    | 2 =>
      let s1 := match s.queue (u / 64) (u % 64) with | some q => s.flushQueue (u / 64) (u % 64) (q.writes.length + 1) | none => s
      s1.dispatchPart (u / 64)
    | 4 => s.after 0 (.launchComplete u)
    | _ => s.retryJobs u

/-- The roll unit's access ended by a failed wake: a record it was to take is malformed, and one it was to write has no effect (log 50). -/
def State.failRoll (s : State) (c block : Nat) : State :=
  let r := (s.ctx c).roll
  let s1 := s.updRoll c (fun r => { r with parked := false })
  if r.addr r.head.toNat / 4096 ≠ block then s1.resumeRoll c
  else if s.replaying c then (if r.head = r.tail then s1 else (s1.badRoll c).wakeRoll c)
  else match s.nextRecord c r.unwritten with
    | some (_, rest) => (s1.updRoll c (fun r => { r with head := r.head + 1, unwritten := rest })).resumeRoll c
    | none => s1.resumeRoll c

/-- A parked item that a failed wake ends with an error response (R364); the home logs the address (R237, R415). `slice` is the one that held it. -/
def State.failItem (s : State) (slice block : Nat) (i : Parked) : State :=
  match i with
  | .req id piece =>
    match s.req id with
    | some r =>
      let a := r.inBlock block
      (if r.words.isEmpty then s.failAt r slice a 6 else s.failWord r piece).rejoin r.tid
    | none => s
  | .fetch t e =>
    let th := s.thread t
    if th.epoch = e ∧ th.park = some .fetch then
      let a := if th.pc.toNat / 4096 = block then th.pc.toNat else block * 4096
      ((s.logHome a slice (s.keyDetail t)).updThread t (fun x => { x with startFault := some (cBUS_ERROR, BitVec.ofNat 64 a) })).wake t
    else s
  | .copy id word => match s.copy id with
    | some c => (s.logHome (c.wordVa word) slice (s.keyDetail c.tid)).copyFail c (c.wordVa word)
    | none => s
  | .tile id => match s.tile id with
    | some c => (s.logError (dieOf c.core) 6 3 c.die c.addr (s.keyDetail c.tid)).ttsetEnd c 4 none
    | none => s
  | .agent k u =>
    match k with
    | 1 => s.failRoll u block
    | 2 => (match s.queue (u / 64) (u % 64) with
      | some q => (s.updQueue (u / 64) (u % 64) (fun q => { q with writes := [] })).stopQueue (u / 64) (u % 64) 5 q.read
      | none => s)
    | 4 => s.failSignal u
    | _ => s.failJobs u block

/-- The slice and list of a die that a wake token names (R364). -/
def State.tokenList (s : State) (die token : Nat) : Option (Nat × ParkList) :=
  (List.range 16).findSome? (fun i =>
    ((s.slice (die * 16 + i)).parked.find? (fun p => p.token = token)).map (fun p => (die * 16 + i, p)))

/-- The accesses at a slice's input that it has room for walk again, in arrival order (R364). -/
def State.admitFaults (s : State) (slice : Nat) : State :=
  let x := s.slice slice
  let room := Config.parkEntries - x.held
  (x.faultIn.take room).foldl (fun s i => s.wakeItem i) (s.setSlice slice { x with faultIn := x.faultIn.drop room })

/-- R364. A write of a token to WAKE: the slice walks again and performs the parked accesses, or fails them; a token that names no list is
ignored. -/
def execWake (die : Nat) (value : Word) (s : State) : Out := .next (
  match s.tokenList die (value.toNat % 2 ^ 32) with
  | none => s
  | some (slice, p) =>
    let without := s.updSlice slice (fun x => { x with parked := x.parked.filter (fun q => q.block != p.block) })
    if value.toNat < 2 ^ 63 then
      match s.walk (p.block * 4096) with
      | .ok _ => (p.items.foldl (fun s i => s.wakeItem i) without).admitFaults slice
      | .error c =>
        let token := (s.die die).nextToken
        let r := record32 (fieldOf p.record 0 7 + 2 ^ 56 * c) (fieldOf p.record 8 8) token s.now
        let q := { p with token := token, cause := c, written := false, record := r }
        let s1 := s.updDie die (fun d => { d with nextToken := (token + 1) % 2 ^ 32 })
        (s1.updSlice slice (fun x => { x with parked := updEach (fun e => e.block == p.block) (fun _ => q) x.parked })).writeFault slice p.block
    else (p.items.foldl (fun s i => s.failItem slice p.block i) without).admitFaults slice)

/-! ## Migration counters -/

/-- R369. A write of NDONE resets a counter entry to IDLE. -/
def execNdone (die : Nat) (value : Word) (s : State) : Out := .next (
  s.updSlice (die * 16 + bits value.toNat 15 12) (fun x =>
    { x with counters := tmod x.counters (bits value.toNat 11 0) (fun e => { e with state := 0, count := 0, weight := 0 }) }))

/-- R362. A write of NOVF; 0 rearms the overflow interrupt. -/
def execNovfWrite (die : Nat) (value : Word) (s : State) : Out := .next (
  s.updDie die (fun d => { d with novf := value, novfIrq := d.novfIrq && value != 0 }))

/-! ## Invalidation -/

/-- log2 of the page size that INVAL names (R362). -/
def invalLog (x : Nat) : Nat := match x % 4 with | 0 => 12 | 1 => 16 | 2 => 21 | _ => 30

/-- Whether a block is mapped to a frame of HBM by the page tables as they stand. -/
def State.mapsTo (s : State) (block frame : Nat) : Bool :=
  match s.walkMem (block * 4096) with | .ok (p, _) => p.key / 4096 == frame | .error _ => false

/-- An invalidation begins (R365): cached translations go, ACCUM words are combined, cached lines are recalled with
the reservations on them (R120; log 58), counters are reset. A frame that a block has left may be allocated again (R43, log 65). -/
def State.beginInval (s : State) (page log : Nat) : State :=
  let hit : Nat → Bool := fun a => a / 2 ^ log == page / 2 ^ log
  let s1 := s.cores.foldl (fun s c => s.evictPartials c.1 (fun l => hit (l.line * 128))) s
  let s2 := s1.slices.foldl (fun s e =>
    (e.2.partials.filter (fun p => hit p.va)).foldl (fun s p => s.combineWord e.1 p.key p.aop) s) s1
  let s3 := s2.cores.foldl (fun s e =>
    let ls := e.2.lines.filter (fun l => hit (l.line * 128))
    if ls.isEmpty then s
    else ls.foldl (fun s l => s.writeBack l) (s.updCore e.1 (fun c => { c with lines := c.lines.filter (fun l => !hit (l.line * 128)) }))) s2
  let s4 := (s3.threads.filter (fun e => e.2.resv.isSome && hit e.2.resvVa)).foldl
    (fun s e => (s.updThread e.1 (fun t => { t with resv := none })).wake e.1) s3
  s4.slices.foldl (fun s e => s.updSlice e.1 (fun x => { x with
    walks := x.walks.filter (fun w => !hit (w.block * 4096))
    counters := x.counters.map (fun c => if hit c.2.page then (c.1, { c.2 with state := 0, count := 0, weight := 0 }) else c) }))
    { s4 with mapped := (s4.mapped.map (fun e => (e.1, e.2.filter (fun b => !hit (b * 4096) || s4.mapsTo b e.1)))).filter (fun e => !e.2.isEmpty) }

/-- R365. A write of INVAL starts an invalidation; a die performs its own in order. -/
def execInval (die : Nat) (value : Word) (s : State) : Out := .next (
  let log := invalLog value.toNat
  let page := bits value.toNat 55 12 * 4096
  let first := (s.die die).invals.isEmpty
  let s1 := s.updDie die (fun d => { d with invals := d.invals ++ [(page, log)] })
  if first then (s1.beginInval page log).after Config.homeElsewhere (.invalidationDone die) else s1)

/-- A sibling word whose page has moved (R365): it keeps the sibling in its memory word at its new home, and of one with several the home logs the
address. -/
def State.moveSib (s : State) (slice key : Nat) (w : SibWord) : State :=
  match s.walk w.va with
  | .error _ => s
  | .ok (pg, _) =>
    if pg.key = key ∨ !pg.sib then s
    else
      let s1 := s.updSlice slice (fun x => { x with sibs := terase x.sibs key })
      let home := homeOf pg w.va
      let s2 := s1.updSlice home (fun x => { x with sibs := tset x.sibs pg.key { w with live := (lowestWriter w.live).toList } })
      if w.live.length ≤ 1 then s2 else s2.logError (home / 16) 5 0 home w.va 0

/-- Whether an access that was translated with the old entry of a page still waits at its home: a synchronising form, or a `JOIN`'s read (R365). -/
def State.oldAccess (s : State) (page log : Nat) : Bool :=
  s.reqs.any (fun r => decide (r.state = .waiting) && (match r.op with | .ldf => true | .ldtk => true | .stf _ => true | .joinRead => true | _ => false) &&
    (match r.place with | .global va => va / 2 ^ log == page / 2 ^ log | _ => false))

/-- R365. Once every access that used the old translation is performed, INVDONE advances; the die's next invalidation begins. -/
def execInvalidationDone (die : Nat) (s : State) : Out := .next (
  match (s.die die).invals with
  | [] => s
  | (page, log) :: rest =>
    if s.oldAccess page log then s.after Config.poll (.invalidationDone die) else
    let s1 := s.updDie die (fun d => { d with invals := rest, invDone := d.invDone + 1 })
    let s2 := s1.slices.foldl (fun s e =>
      (e.2.sibs.filter (fun w => w.2.va / 2 ^ log == page / 2 ^ log)).foldl (fun s w => s.moveSib e.1 w.1 w.2) s) s1
    match rest with
    | (p, l) :: _ => (s2.beginInval p l).after Config.homeElsewhere (.invalidationDone die)
    | [] => s2)

/-! ## Error log -/

/-- R415. A write of ELTAIL consumes records and clears the pending interrupt; one that would lower it or pass ELHEAD is ignored. -/
def execEltailWrite (die : Nat) (value : Word) (s : State) : Out := .next (
  s.updDie die (fun d =>
    if value.toNat < d.elTail.toNat ∨ d.elHead.toNat < value.toNat then d else { d with elTail := value, elIrq := false }))

/-! ## Management registers -/

/-- The ring of a fault control page at an offset (R362). -/
def Die.ringAt (d : Die) (k : Nat) : Ring := match k with | 0 => d.fq | 1 => d.nq | 2 => d.hr | _ => d.eq
def Die.setRing (d : Die) (k : Nat) (r : Ring) : Die :=
  match k with | 0 => { d with fq := r } | 1 => { d with nq := r } | 2 => { d with hr := r } | _ => { d with eq := r }

/-- A ring base: a physical address, 4 KiB aligned, with its place in bits 49:48 (R362). -/
def ringBaseOk (v : Nat) : Bool := v % 4096 == 0 && decide (v < 2 ^ 50) && decide (v / 2 ^ 48 ≠ 3)

/-- A write to the fault control page (R362): unlisted offsets and values out of range are ignored. -/
def Die.faultPage (d : Die) (offset : Nat) (v : Word) : Die :=
  let base := fun (k : Nat) => if ringBaseOk v.toNat then d.setRing k { d.ringAt k with base := v } else d
  let size := fun (k : Nat) => if 6 ≤ v.toNat ∧ v.toNat ≤ 16 then d.setRing k { d.ringAt k with size := v.toNat } else d
  match offset with
  | 0x000 => base 0 | 0x008 => size 0
  | 0x040 => base 1 | 0x048 => size 1
  | 0x080 => base 2 | 0x088 => size 2
  | 0x100 => base 3 | 0x108 => size 3
  | 0x098 => { d with hr := { d.hr with tail := v } }
  | 0x070 => if 4 ≤ v.toNat % 32 ∧ v.toNat % 32 ≤ 16 then { d with mctl := v &&& 0x11F } else d
  | 0x0A0 => if 8 ≤ v.toNat % 32 ∧ v.toNat % 32 ≤ 20 then { d with hctl := v &&& 0x11F } else d
  | 0x0A8 => { d with hdrop := v }
  | _ => d

/-- A write to the pre-emption control page that asks for nothing (R375). -/
def Die.preemptPage (d : Die) (offset : Nat) (v : Word) : Die :=
  match offset with
  | 0x000 => { d with peImg := v &&& 0x3FFFFFFFFF000 ||| (v &&& 0x3000000000000) }
  | 0x008 => { d with peSpill := v &&& 0x3FFFFFFFFF01F }
  | 0x040 => { d with rmSel := v &&& 0xF3F }
  | _ => d

/-- A partition as its entry begins (R334): no bank, link or frame is granted. -/
def newPart (x : Nat) : Part :=
  { col0 := shapeCol x, row0 := shapeRow x, w := shapeW x, h := shapeH x, ctx := 0, banks := [], links := [], root := 0, notify := 0, remap := [],
    queues := [], lastQueue := [], setdet := none, resize := none, destroying := [], aborts := [], finishing := [] }

/-- Whether a rectangle may be a new partition (R334): inside the module, over no other. -/
def State.rectOk (s : State) (n x : Nat) : Bool :=
  decide (n < 64) && decide (shapeCol x + shapeW x ≤ 128) && decide (shapeRow x + shapeH x ≤ 16) && (tfind s.parts n).isNone &&
    (shapeCores x).all (fun c => !s.parts.any (fun q => q.2.has c))

/-- The dies at the two ends of a link (R293): a link may be owned by a partition with cores on both. -/
def linkEnds (l : Nat) : Nat × Nat := if l % 2 = 0 then (l / 2, l / 2 + 1) else (l / 2, l / 2 + 16)

/-- R362. A write of a management or control register that starts nothing (the layouts of entries that the manual does not lay out are log
21). No rule names the event that creates a context: a context's number keeps its tensor entries and what else it holds when its partition is deleted and
another is given the number (DESIGN CHOICE, log 21; R246). A write of another size than the register's is ignored (R375, R415). -/
def execManagementWrite (reg : MgmtReg) (value : Word) (s : State) : Out := .next (
  let v := value.toNat
  match reg with
  | .faultPage d o => s.updDie d (fun x => x.faultPage o value)
  | .preemptPage d o => s.updDie d (fun x => x.preemptPage o value)
  | .narrow .. => s
  | .eldrop d => s.updDie d (fun x => { x with elDrop := value })
  | .firmware d o =>
    if o % 8 = 0 ∧ o + 8 ≤ 2 ^ 20 then s.updDie d (fun x => { x with firmware := pokeMem x.firmware o (natToBytes 8 v) }) else s
  | .root i => if i < 240 then { s with root := tput 0 s.root i value } else s
  | .window i => if i < 64 then { s with windows := tput 0 s.windows i (value &&& 0xFFFFFFFFFFFFC000) } else s
  | .modnum => if v < 32 then { s with modnum := v } else s
  | .hapsel i => if i < 4 then { s with hapsel := tput 0 s.hapsel i (value.setWidth 8) } else s
  | .ftports => { s with ftports := value }
  | .ptpport => { s with ptpport := value }
  | .tenant u => { s with tenants := tput 0 s.tenants u value }
  | .frame u e => if e < 16 ∧ v ≤ 64 then { s with frames := tput 0 s.frames (u * 16 + e) v } else s
  | .partRect n => if s.rectOk n v then { s with parts := tset s.parts n (newPart v) } else s
  | .partCtx n => if v < 256 then s.updPart n (fun p => { p with ctx := v }) else s
  | .partBanks n d => s.updPart n (fun p => if p.onDie d then { p with banks := tput 0 p.banks d (value.setWidth 16) } else p)
  | .partQueue0 n =>
    let k := v % 32
    let base := bits v 55 6 * 64
    if 4 ≤ k ∧ k ≤ 16 ∧ 64 ≤ base ∧ isGlobal (base + 64 * 2 ^ k - 1) then
      s.updPart n (fun p => { p with queues := tset p.queues 0 (newQueue (BitVec.ofNat 64 base) k (bits v 57 56)) })
    else s
  | .partLink n l =>
    s.updPart n (fun p =>
      let rest := p.links.filter (fun k => k != l)
      if v % 2 = 1 ∧ p.onDie (linkEnds l).1 ∧ p.onDie (linkEnds l).2 then { p with links := rest ++ [l] } else { p with links := rest })
  | .partRoot n => s.updPart n (fun p => { p with root := value &&& 0x3FFFFFFFFFFF8 })
  | .partNotify n => s.updPart n (fun p => { p with notify := value &&& 0x3FFFFFFFFF000 })
  | .partDelete n => if s.launches.any (fun e => e.2.part == n) then s else { s with parts := terase s.parts n }
  | .msgSpill c => { s with msgSpillBase := tput 0 s.msgSpillBase c value }
  | .ethRing port kind =>
    let k := v % 16
    if port < 4 ∧ kind < 2 ∧ 6 ≤ k ∧ k ≤ 14 then
      { s with eths := tset s.eths (port * 2 + kind) { base := BitVec.ofNat 64 (bits v 55 4 * 16), n := k, next := 0 } }.after 1 (.ethernetTransmit port)
    else s)

end Sys2Proof.Machine
end

