-- ==== Sys2Proof/Machine/Bringup.lean ====
section
/-!
DEFINITION. Reset and bring-up (23 R411, R412), firmware (R413), the scrubber (R414), and parts fenced at reset or later (R284, R411,
R415).
-/

namespace Sys2Proof.Machine

/-! ## Fencing -/

/-- A failed channel, link group or port fenced and logged (R411, R415): the unit is the channel, the link's gateway on its lower-numbered
die, or the port; an Ethernet port is logged as the port of its number, on the die from which it works (log 33). -/
def State.fence (s : State) (f : FailedPart) : State :=
  if s.fenced.contains f then s
  else
    let s1 := { s with fenced := s.fenced ++ [f] }
    match f with
    | .channel d ch => s1.logError d 9 6 ch 0 0
    | .group l g =>
      let d := (linkEnds l).1
      let stop := fun (x : Link) => { x with groups := x.groups.zipIdx.map (fun e => if e.2 = g then { e.1 with working := false } else e.1) }
      let s2 := { s1 with links := tmod s1.links l stop }
      s2.logError d 9 2 (4 * d + (if l % 2 = 0 then 0 else 2)) 0 0
    | .port p => s1.logError (if p < 24 then portDie p else ethDie) 9 5 p 0 0

/-- The kind of part that a step of the reset sequence can find failed (R411). -/
def failsAt (step : Nat) (f : FailedPart) : Bool :=
  match f with
  | .channel .. => step == 3
  | .group .. => step == 4
  | .port _ => step == 6

/-- The order in which parts train (R411): channels, links and ports ascending; a link's number follows the lower die, east before cross-row. -/
def trainRank (f : FailedPart) : Nat :=
  match f with | .channel d ch => d * 16 + ch | .group l g => l * 24 + g | .port p => p

/-- Failed parts in that order. -/
def byTraining (l : List FailedPart) : List FailedPart := l.foldl ins []
where
  ins (acc : List FailedPart) (x : FailedPart) : List FailedPart :=
    match acc with
    | [] => [x]
    | y :: r => if trainRank x < trainRank y then x :: y :: r else y :: ins r x

/-- R284. A group, channel or port that fails after reset is fenced and logged. -/
def execLinkGroupFence (part : FailedPart) (s : State) : Out := .next (s.fence part)

/-! ## Reset -/

/-- The memory that is no part of the module: far tier and host memory keep their bytes over a reset. -/
def outside (m : Memory) : Memory := m.filter (fun e => decide (2 * 2 ^ 56 ≤ e.1))

/-- R411, R412. A module reset begins: no step has completed, and nothing runs. What outside agents have been told or sent stays told, and
the model's own counters go on. -/
def execModuleReset (s : State) : Out := .next
  { State.reset with mem := s.mem, ecc := s.ecc, empty := s.empty, hostOut := s.hostOut, ethOut := s.ethOut, agenda := s.agenda, free := s.free,
                     nextId := s.nextId }

/-- The Zwiale links of the module (R284): an east link for each die but the last of its row, and a cross-row link for each column of
dies. -/
def allLinks : List Nat :=
  ((List.range 32).filter (fun d => decide (d % 16 ≠ 15))).map (fun d => 2 * d) ++ (List.range 16).map (fun c => 2 * c + 1)

/-- A link trained at reset (R284): of G working groups the first half, rounded up, run away from the lower-numbered die. -/
def trained (link : Nat) (failed : List FailedPart) (now : Nat) : Link :=
  let works := fun (g : Nat) => !failed.contains (.group link g)
  let count := ((List.range 24).filter works).length
  { groups := (List.range 24).map (fun g =>
      { away := decide (((List.range g).filter works).length < (count + 1) / 2), since := now, carrying := true, working := works g }),
    queue := [] }

/-- R411. The next reset step ends, and BUSTAT holds its number; parts that failed in it are fenced. Step 1 starts the timestamp, step 2
clears the SRAMs and sets every full/empty bit FULL, step 3 clears HBM, step 4 trains the links, and step 5 ends once every die's firmware
runs. -/
def execResetStepDone (failed : List FailedPart) (s : State) : Out := .next (
  let n := s.busStat + 1
  if 6 < n then s
  else if n = 5 ∧ !(List.range 32).all (fun d => (s.die d).fwStat == 3) then s
  else
    let bad := byTraining (failed.filter (failsAt n))
    let s1 := { s with busStat := n }
    let s2 := match n with
      | 1 => { s1 with now := 0 }
      | 2 => { s1 with mem := s1.mem.filter (fun e => decide (2 ^ 56 ≤ e.1)), ecc := s1.ecc.filter (fun e => decide (2 ^ 56 ≤ e.1)), empty := [] }
      | 3 => { s1 with mem := outside s1.mem, ecc := [] }
      | 4 => { s1 with links := allLinks.map (fun l => (l, trained l [] s1.now)) }
      | _ => s1
    let s3 := bad.foldl State.fence s2
    if n = 4 then { s3 with links := allLinks.map (fun l => (l, trained l bad s1.now)) } else s3)

/-! ## Firmware -/

/-- R413. A write of FWGO with bit 0 set: the image's length is checked, and the die's firmware starts. -/
def execFwgo (die : Nat) (value : Word) (s : State) : Out := .next (
  let d := s.die die
  if value.toNat % 2 = 0 ∨ d.fwStat = 1 ∨ d.fwStat = 3 then s
  else
    let len := bytesToNat ((List.range 4).map (fun i => tget 0 d.firmware i))
    s.updDie die (fun d => { d with fwLength := BitVec.ofNat 32 len, fwStat := if 2 ^ 20 < len then 2 else 1 }))

/-- R413. The firmware reports ready: the proctor serves what waits for it, and the command processor the queues of the partitions that
the die leads. -/
def execFirmwareReady (die : Nat) (s : State) : Out := .next (
  if (s.die die).fwStat ≠ 1 then s
  else
    let s1 := s.updDie die (fun d => { d with fwStat := 3 })
    let s2 := if (s1.die die).resources.isEmpty then s1 else s1.afterOnce 1 (.proctorProxyComplete die)
    ((s2.parts.filter (fun p => p.2.lead == die)).foldl (fun (s : State) p => p.2.queues.foldl (fun (s : State) q => s.pollQueue p.1 q.1) s) s2).dispatch die)

/-- R413. The firmware stops with a fault. -/
def execFirmwareFault (die : Nat) (s : State) : Out := .next (
  if (s.die die).fwStat = 1 ∨ (s.die die).fwStat = 3 then s.updDie die (fun d => { d with fwStat := 4 }) else s)

/-! ## The scrubber -/

/-- Whether a storage key is a word of SRAM or HBM, which carry ECC (R414). -/
def scrubbed (key : Nat) : Bool :=
  key % 8 == 0 &&
    (if key < 2 ^ 56 then
      let off := key % 2 ^ 48
      match windowOf key with
      | 0xF0 => decide (off < 2048 * 2 ^ 17)
      | 0xF4 => decide (off < 2 ^ 31) && decide (off % 2 ^ 20 < 0xC0000)
      | 0xF5 => decide (off < 2 ^ 31)
      | _ => false
    else decide (key < 2 * 2 ^ 56) && physOk 0 (key % 2 ^ 56) 3)

/-- What serves a scrubbed word: its bank, or the home slice of its HBM address (R37); a lane slice's words are no bank's. -/
def State.scrubServer (s : State) (key : Nat) : Option Server :=
  let off := key % 2 ^ 48
  if 2 ^ 56 ≤ key then some (.home (bits off 41 37 * 16 + bits off 36 33))
  else match windowOf key with
    | 0xF4 => some (s.serverOf (.core (off / 2 ^ 20) (off % 2 ^ 20)))
    | 0xF5 => some (s.serverOf (.die (off / 2 ^ 26) (off % 2 ^ 26)))
    | _ => none

/-- The cycles between two scrub reads of a word (R414). -/
def scrubEvery (key : Nat) : Nat := if key < 2 ^ 56 then 2 ^ 30 else 2 ^ 42

/-- Whether a step that is due writes a word: an access, a copy, a drain, a credit of an engine or a host access (R414). -/
def State.writesWord (s : State) (word : Nat) (i : Instr) : Bool :=
  let meets := fun (key len : Nat) => decide (key / 8 ≤ word / 8) && decide (word / 8 ≤ (key + len - 1) / 8)
  let keyAt := fun (p : Place) => match p with
    | .core c o => some (coreKey c o)
    | .die d o => some (dieKey d o)
    | .global va => (match s.walk va with | .ok (pg, _) => some pg.key | .error _ => none)
  let access := fun (id piece : Nat) => match s.req id with
    | some r => !r.op.reads && (match keyAt (r.placeOf piece) with | some k => meets k (match r.words[piece]? with | some w => w.len | none => 8) | none => false)
    | none => false
  let engine := fun (part core : Nat) (w : CopyWord) => w.write && meets (s.bellKey part core w.va) w.len
  match i with
  | .bankAccess x => access x.id x.piece
  | .homeAccess x => access x.id x.piece
  | .copyShare x => (match s.copy x.id, x.word with
    | some c, some n => (match c.words[n]? with | some w => engine c.part c.core w | none => false)
    | _, _ => false)
  | .taskDrain k => (match s.engineTask k with
    | some c => c.words.any (fun w => w.state == .going && engine c.part c.core w)
    | none => false)
  | .bellUpdate x => meets x.bell (if x.report.isSome ∨ x.stamp.isSome then 32 else 16)
  | .hostAccess a => a.write.isSome && (match s.hostVa a with
    | some va => (match keyAt (.global va) with | some k => meets k a.size | none => false)
    | none => false)
  | _ => false

/-- R414. The scrubber reads a word and corrects it, changing no full/empty bit: it takes one cycle of the word's bank, the next one where this
cycle serves another access, and comes to the word again after its period. A word that a write meets in the same cycle is skipped. -/
def execScrubRead (word : Nat) (s : State) : Out :=
  if !scrubbed word then .fault .noSuchWord
  else
    let next := fun (s : State) => s.afterOnce (scrubEvery word) (.scrubRead word)
    .next (
      if s.pend.any (fun e => decide (e.1 ≤ s.now) && s.writesWord word e.2) then next s
      else match s.scrubServer word with
        | none => next (s.eccRead word 8 0)
        | some v =>
          let b := s.bank v
          if b.served == some s.now || b.short == some s.now then s.again (.scrubRead word)
          else next ((s.setBank { b with served := some s.now }).eccRead word 8 0))

end Sys2Proof.Machine
end

