-- ==== Sys2Proof/Machine/Control.lean ====
section
/-!
DEFINITION. Control transfer (05 R86-R91): branches, jumps and loops.
-/

namespace Sys2Proof.Machine

/-- A transfer to a checked target that is no call (R77, R90). -/
def goTo (t : Word) (len : Nat) (s : State) : State := checkTarget t len (fun s => s.transfer t false) s

/-- A conditional branch of the 32-bit form (R67, R86). -/
def branch (cond : Word → Word → Bool) (i : BitVec 10) (b a : BitVec 6) (s : State) : State :=
  issue { len := 4, srcs := [gRef a.toNat, gRef b.toNat] }
    (fun s => if cond (s.me.gv a) (s.me.gv b) then goTo (s.me.rel i) 4 s else s.advance 4) s

/-- A branch on the state of a register, which does not park (R22, R67). -/
def branchState (p : RegState → Bool) (i : BitVec 10) (a : BitVec 6) (s : State) : State :=
  issue { len := 4 } (fun s => if p (s.me.stOf (gRef a.toNat)) then goTo (s.me.rel i) 4 s else s.advance 4) s

/-- A 16-bit branch on a register (R71). -/
def branch16 (p : Word → Bool) (i d : BitVec 5) (s : State) : State :=
  issue { len := 2, srcs := [gRef d.toNat] } (fun s => if p (s.me.gv d) then goTo (s.me.rel i) 2 s else s.advance 2) s

/-- R71. BEZ: taken when d is zero. -/
def execBez (i d : BitVec 5) (s : State) : Out := .next (branch16 (fun v => v == 0) i d s)
/-- R71. BNZ: taken when d is not zero. -/
def execBnz (i d : BitVec 5) (s : State) : Out := .next (branch16 (fun v => v != 0) i d s)
/-- R67, R86. BEQ: a = b. -/
def execBeq (i : BitVec 10) (b a : BitVec 6) (s : State) : Out := .next (branch (fun a b => a == b) i b a s)
/-- R67, R86. BNE: a ≠ b. -/
def execBne (i : BitVec 10) (b a : BitVec 6) (s : State) : Out := .next (branch (fun a b => a != b) i b a s)
/-- R67, R86. BLT: a < b, signed. -/
def execBlt (i : BitVec 10) (b a : BitVec 6) (s : State) : Out := .next (branch (fun a b => a.slt b) i b a s)
/-- R67, R86. BGE: a ≥ b, signed. -/
def execBge (i : BitVec 10) (b a : BitVec 6) (s : State) : Out := .next (branch (fun a b => !a.slt b) i b a s)
/-- R67, R86. BLTU: a < b, unsigned. -/
def execBltu (i : BitVec 10) (b a : BitVec 6) (s : State) : Out := .next (branch (fun a b => a.ult b) i b a s)
/-- R67, R86. BGEU: a ≥ b, unsigned. -/
def execBgeu (i : BitVec 10) (b a : BitVec 6) (s : State) : Out := .next (branch (fun a b => !a.ult b) i b a s)
/-- R67, R86. BFULL: register a is FULL. -/
def execBfull (i : BitVec 10) (a : BitVec 6) (s : State) : Out := .next (branchState (fun r => r == .full) i a s)
/-- R67, R86. BVOID: register a is VOID. -/
def execBvoid (i : BitVec 10) (a : BitVec 6) (s : State) : Out := .next (branchState RegState.empty i a s)

/-- R87. J: PC ← PC + sext(disp25) × 2. -/
def execJ (i : BitVec 25) (s : State) : Out := .next (issue { len := 4 } (fun s => goTo (s.me.rel i) 4 s) s)

/-- A call: the link register takes the return address, and an active loop ends (R87, R88, R90). -/
def callTo (t : Word) {n : Nat} (d : BitVec n) (s : State) : State :=
  checkTarget t 4 (fun s => (s.upd (fun x => x.setG d (x.pc + 4))).transfer t true) s

/-- R87. JAL: g1 ← PC + 4, PC ← PC + sext(disp25) × 2. -/
def execJal (i : BitVec 25) (s : State) : Out := .next (
  issue { len := 4, dsts := [gRef 1] } (fun s => callTo (s.me.rel i) (1 : BitVec 6) s) s)
/-- R88. JALR: the target is a + sext(imm13), read before d is written. -/
def execJalr (i : BitVec 13) (a d : BitVec 6) (s : State) : Out := .next (
  issue { len := 4, srcs := [gRef a.toNat], dsts := [gRef d.toNat] } (fun s => callTo (s.me.gv a + sext i) d s) s)

/-- A loop begun with its body in the buffer (R89 steps 3 and 4). -/
def Thread.beginLoop (t : Thread) (body : List Byte) (count : Word) (now : Nat) : Thread :=
  let start := t.pc + 4
  let stop := start + BitVec.ofNat 64 body.length
  let t1 := { t.issued now with bufU := if t.level = Level.S then t.bufU else body, bufS := if t.level = Level.S then body else t.bufS }
  if count = 0 then { t1 with pc := stop }
  else { t1.setLoop (some { start := start, stop := stop, remaining := count }) with pc := start }

/-- R89. LOOP: the body of imm13 halfwords behind it is captured and run a times. -/
def execLoop (i : BitVec 13) (a : BitVec 6) (s : State) : Out := .next (
  issue { len := 4, legal := loopLenOk i, srcs := [gRef a.toNat] }
    (fun s =>
      if s.me.loop.isSome then s.illegal 4
      else
        match s.capture (s.me.pc.toNat + 4) i.toNat with
        | (.ok body, s1) => if bodyEnds body i.toNat then s1.upd (fun t => t.beginLoop body (t.gv a) s1.now) else s1.illegal 4
        | (.error (.trap c info _), s1) => s1.trap c info 4
        | (.error _, s1) => s1) s)

end Sys2Proof.Machine
end

