-- ==== Sys2Proof/Machine/Integer.lean ====
section
/-!
DEFINITION. Integer operations: the 16-bit set (04 R71), ALU, ALUX, ADDI to MULI, SHI, CMPI, LIU, ADDPC and LIC (05 R78-R85).
-/

namespace Sys2Proof.Machine

/-- The quotient or remainder of a division placed for its register: PENDING now, filled 48 cycles after issue (R80). -/
def divide (f : Word → Word → Word) (b a d : BitVec 6) (s : State) : State :=
  issue { len := 4, srcs := [gRef a.toNat, gRef b.toNat], dsts := [gRef d.toNat] }
    (fun s =>
      let v := f (s.me.gv a) (s.me.gv b)
      ((s.upd (fun t => t.pendReg (gRef d.toNat))).after Config.divider (.dividerFill s.cur s.me.epoch d.toNat v)).advance 4) s

/-- The signed and unsigned comparisons as a 64-bit 0 or 1 (R78, R83). -/
def sltW (a b : Word) : Word := ofBool (a.slt b)
def sltuW (a b : Word) : Word := ofBool (a.ult b)
def seqW (a b : Word) : Word := ofBool (a == b)
def sneW (a b : Word) : Word := ofBool (a != b)
def sgeW (a b : Word) : Word := ofBool (!a.slt b)
def sgeuW (a b : Word) : Word := ofBool (!a.ult b)

/-- The coordinate of an FC word (R60, R85). -/
def fcCoord (c : BitVec 7) (r : BitVec 4) : Word := BitVec.ofNat 64 (c.toNat * 16 + r.toNat)
/-- The 0xF4 address of an FC coordinate (R85). -/
def fcBase (c : BitVec 7) (r : BitVec 4) : Word := 0x00F4000000000000 ||| (fcCoord c r <<< 20)

/-! ## The 16-bit set (R71) -/
/-- R71. MV: d ← s. -/
def execMv (x d : BitVec 5) (s : State) : Out := .next (issue { len := 2, srcs := [gRef x.toNat], dsts := [gRef d.toNat] } (fun s => s.done 2 (fun t => t.setG d (t.gv x))) s)
/-- R71. LI: d ← sext(imm5). -/
def execLi (i d : BitVec 5) (s : State) : Out := .next (setImm 2 (fun _ => sext i) d s)
/-- R71. 16-bit ADD d, s. -/
def execAddC16 (x d : BitVec 5) (s : State) : Out := .next (c16Reg (· + ·) x d s)
/-- R71. 16-bit SUB d, s. -/
def execSubC16 (x d : BitVec 5) (s : State) : Out := .next (c16Reg (· - ·) x d s)
/-- R71. 16-bit AND d, s. -/
def execAndC16 (x d : BitVec 5) (s : State) : Out := .next (c16Reg (· &&& ·) x d s)
/-- R71. 16-bit OR d, s. -/
def execOrC16 (x d : BitVec 5) (s : State) : Out := .next (c16Reg (· ||| ·) x d s)
/-- R71. 16-bit XOR d, s. -/
def execXorC16 (x d : BitVec 5) (s : State) : Out := .next (c16Reg (· ^^^ ·) x d s)
/-- R71. 16-bit SHL d, s. -/
def execShlC16 (x d : BitVec 5) (s : State) : Out := .next (c16Reg shlW x d s)
/-- R71. 16-bit SHR d, s. -/
def execShrC16 (x d : BitVec 5) (s : State) : Out := .next (c16Reg shrW x d s)
/-- R71. 16-bit SAR d, s. -/
def execSarC16 (x d : BitVec 5) (s : State) : Out := .next (c16Reg sarW x d s)
/-- R71. 16-bit MUL d, s. -/
def execMulC16 (x d : BitVec 5) (s : State) : Out := .next (c16Reg (· * ·) x d s)
/-- R71. 16-bit MIN d, s. -/
def execMinC16 (x d : BitVec 5) (s : State) : Out := .next (c16Reg minS x d s)
/-- R71. 16-bit MAX d, s. -/
def execMaxC16 (x d : BitVec 5) (s : State) : Out := .next (c16Reg maxS x d s)
/-- R71. 16-bit SLT d, s. -/
def execSltC16 (x d : BitVec 5) (s : State) : Out := .next (c16Reg sltW x d s)
/-- R71. 16-bit ADDI d, imm5, sign-extended. -/
def execAddiC16 (i d : BitVec 5) (s : State) : Out := .next (c16Imm (· + ·) (sext i) d s)
/-- R71. 16-bit SUBI d, imm5, zero-extended. -/
def execSubi (i d : BitVec 5) (s : State) : Out := .next (c16Imm (· - ·) (zext i) d s)
/-- R71. 16-bit ANDI d, imm5, zero-extended. -/
def execAndiC16 (i d : BitVec 5) (s : State) : Out := .next (c16Imm (· &&& ·) (zext i) d s)
/-- R71. 16-bit ORI d, imm5, zero-extended. -/
def execOriC16 (i d : BitVec 5) (s : State) : Out := .next (c16Imm (· ||| ·) (zext i) d s)
/-- R71. 16-bit XORI d, imm5, zero-extended. -/
def execXoriC16 (i d : BitVec 5) (s : State) : Out := .next (c16Imm (· ^^^ ·) (zext i) d s)
/-- R71. 16-bit SHLI d, imm5, zero-extended. -/
def execShliC16 (i d : BitVec 5) (s : State) : Out := .next (c16Imm shlW (zext i) d s)
/-- R71. 16-bit SHRI d, imm5, zero-extended. -/
def execShriC16 (i d : BitVec 5) (s : State) : Out := .next (c16Imm shrW (zext i) d s)
/-- R71. 16-bit SARI d, imm5, zero-extended. -/
def execSariC16 (i d : BitVec 5) (s : State) : Out := .next (c16Imm sarW (zext i) d s)
/-- R71. 16-bit MULI d, imm5, sign-extended. -/
def execMuliC16 (i d : BitVec 5) (s : State) : Out := .next (c16Imm (· * ·) (sext i) d s)
/-- R71. 16-bit MINI d, imm5, sign-extended. -/
def execMini (i d : BitVec 5) (s : State) : Out := .next (c16Imm minS (sext i) d s)
/-- R71. 16-bit MAXI d, imm5, sign-extended. -/
def execMaxi (i d : BitVec 5) (s : State) : Out := .next (c16Imm maxS (sext i) d s)
/-- R71. 16-bit SLTI d, imm5, sign-extended. -/
def execSltiC16 (i d : BitVec 5) (s : State) : Out := .next (c16Imm sltW (sext i) d s)
/-- R71. 16-bit LDD d, [s]. -/
def execLddC16 (x d : BitVec 5) (s : State) : Out := .next (c16Load [gRef x.toNat] (fun t => t.gv x) d s)
/-- R71. 16-bit LDD d, [g2 + imm5 × 8]. -/
def execLddG2C16 (i d : BitVec 5) (s : State) : Out := .next (c16Load [gRef 2] (fun t => t.gv (2 : BitVec 6) + zext i * 8) d s)
/-- R71. 16-bit STD d, [s]. -/
def execStdC16 (x d : BitVec 5) (s : State) : Out := .next (c16Store [gRef d.toNat, gRef x.toNat] (fun t => t.gv x) d s)
/-- R71. 16-bit STD d, [g2 + imm5 × 8]. -/
def execStdG2C16 (i d : BitVec 5) (s : State) : Out := .next (c16Store [gRef d.toNat, gRef 2] (fun t => t.gv (2 : BitVec 6) + zext i * 8) d s)

/-! ## ALU (R78) -/

/-- R78. ADD: d ← a + b. -/
def execAdd (b a d : BitVec 6) (s : State) : Out := .next (alu3 (· + ·) b a d s)
/-- R78. SUB: d ← a − b. -/
def execSub (b a d : BitVec 6) (s : State) : Out := .next (alu3 (· - ·) b a d s)
/-- R78. AND: d ← a AND b. -/
def execAnd (b a d : BitVec 6) (s : State) : Out := .next (alu3 (· &&& ·) b a d s)
/-- R78. OR: d ← a OR b. -/
def execOr (b a d : BitVec 6) (s : State) : Out := .next (alu3 (· ||| ·) b a d s)
/-- R78. XOR: d ← a XOR b. -/
def execXor (b a d : BitVec 6) (s : State) : Out := .next (alu3 (· ^^^ ·) b a d s)
/-- R78. SHL: d ← a << b[5:0]. -/
def execShl (b a d : BitVec 6) (s : State) : Out := .next (alu3 shlW b a d s)
/-- R78. SHR: d ← a >> b[5:0], zeros shifted in. -/
def execShr (b a d : BitVec 6) (s : State) : Out := .next (alu3 shrW b a d s)
/-- R78. SAR: d ← a >> b[5:0], copies of bit 63 shifted in. -/
def execSar (b a d : BitVec 6) (s : State) : Out := .next (alu3 sarW b a d s)
/-- R78. MUL: d ← low 64 bits of a × b. -/
def execMul (b a d : BitVec 6) (s : State) : Out := .next (alu3 (· * ·) b a d s)
/-- R78. MIN: d ← the smaller, signed. -/
def execMin (b a d : BitVec 6) (s : State) : Out := .next (alu3 minS b a d s)
/-- R78. MAX: d ← the larger, signed. -/
def execMax (b a d : BitVec 6) (s : State) : Out := .next (alu3 maxS b a d s)
/-- R78. MINU: d ← the smaller, unsigned. -/
def execMinu (b a d : BitVec 6) (s : State) : Out := .next (alu3 minU b a d s)
/-- R78. MAXU: d ← the larger, unsigned. -/
def execMaxu (b a d : BitVec 6) (s : State) : Out := .next (alu3 maxU b a d s)
/-- R78. SLT: d ← a < b signed. -/
def execSlt (b a d : BitVec 6) (s : State) : Out := .next (alu3 sltW b a d s)
/-- R78. SLTU: d ← a < b unsigned. -/
def execSltu (b a d : BitVec 6) (s : State) : Out := .next (alu3 sltuW b a d s)
/-- R78. SEQ: d ← a = b. -/
def execSeq (b a d : BitVec 6) (s : State) : Out := .next (alu3 seqW b a d s)
/-- R78. SNE: d ← a ≠ b. -/
def execSne (b a d : BitVec 6) (s : State) : Out := .next (alu3 sneW b a d s)
/-- R78. ADDW: d ← sext((a + b)[31:0]). -/
def execAddw (b a d : BitVec 6) (s : State) : Out := .next (alu3 (fun a b => sext ((a + b).setWidth 32)) b a d s)
/-- R78. SUBW: d ← sext((a − b)[31:0]). -/
def execSubw (b a d : BitVec 6) (s : State) : Out := .next (alu3 (fun a b => sext ((a - b).setWidth 32)) b a d s)

/-! ## ALUX (R79, R80) -/

/-- R79. CLZ: leading zero bits. -/
def execClz (a d : BitVec 6) (s : State) : Out := .next (alu2 (fun a => BitVec.ofNat 64 (clz64 a)) a d s)
/-- R79. CTZ: trailing zero bits. -/
def execCtz (a d : BitVec 6) (s : State) : Out := .next (alu2 (fun a => BitVec.ofNat 64 (lowestBit a.toNat 64 0)) a d s)
/-- R79. POPC: one bits. -/
def execPopc (a d : BitVec 6) (s : State) : Out := .next (alu2 (fun a => BitVec.ofNat 64 (popc a.toNat 64)) a d s)
/-- R79. BREV: bits reversed. -/
def execBrev (a d : BitVec 6) (s : State) : Out := .next (alu2 brev64 a d s)
/-- R79. BSWAP: bytes reversed. -/
def execBswap (a d : BitVec 6) (s : State) : Out := .next (alu2 bswap64 a d s)
/-- R79. SEXTB: sext(a[7:0]). -/
def execSextb (a d : BitVec 6) (s : State) : Out := .next (alu2 (fun a => sext (a.setWidth 8)) a d s)
/-- R79. SEXTH: sext(a[15:0]). -/
def execSexth (a d : BitVec 6) (s : State) : Out := .next (alu2 (fun a => sext (a.setWidth 16)) a d s)
/-- R79. SEXTW: sext(a[31:0]). -/
def execSextw (a d : BitVec 6) (s : State) : Out := .next (alu2 (fun a => sext (a.setWidth 32)) a d s)
/-- R79. ZEXTW: zext(a[31:0]). -/
def execZextw (a d : BitVec 6) (s : State) : Out := .next (alu2 (fun a => zext (a.setWidth 32)) a d s)
/-- R79. ROL: rotated left by b[5:0]. -/
def execRol (b a d : BitVec 6) (s : State) : Out := .next (alu3 rolW b a d s)
/-- R79. ROR: rotated right by b[5:0]. -/
def execRor (b a d : BitVec 6) (s : State) : Out := .next (alu3 rorW b a d s)
/-- R79. ANDN: a AND NOT b. -/
def execAndn (b a d : BitVec 6) (s : State) : Out := .next (alu3 (fun a b => a &&& ~~~b) b a d s)
/-- R79. MULH: bits 127:64, both signed. -/
def execMulh (b a d : BitVec 6) (s : State) : Out := .next (alu3 (fun a b => highOf (a.toInt * b.toInt)) b a d s)
/-- R79. MULHU: bits 127:64, both unsigned. -/
def execMulhu (b a d : BitVec 6) (s : State) : Out := .next (alu3 (fun a b => highOf (a.toNat * b.toNat)) b a d s)
/-- R79. MULHSU: bits 127:64, a signed, b unsigned. -/
def execMulhsu (b a d : BitVec 6) (s : State) : Out := .next (alu3 (fun a b => highOf (a.toInt * b.toNat)) b a d s)
/-- R80. DIV: long, filled 48 cycles after issue. -/
def execDiv (b a d : BitVec 6) (s : State) : Out := .next (divide divS b a d s)
/-- R80. DIVU: long, filled 48 cycles after issue. -/
def execDivu (b a d : BitVec 6) (s : State) : Out := .next (divide divU b a d s)
/-- R80. REM: long, filled 48 cycles after issue. -/
def execRem (b a d : BitVec 6) (s : State) : Out := .next (divide remS b a d s)
/-- R80. REMU: long, filled 48 cycles after issue. -/
def execRemu (b a d : BitVec 6) (s : State) : Out := .next (divide remU b a d s)

/-! ## Immediate forms (R81-R85) -/

/-- R81. ADDI with sext(imm13). -/
def execAddi (i : BitVec 13) (a d : BitVec 6) (s : State) : Out := .next (aluImm (· + ·) (sext i) a d s)
/-- R81. ANDI with sext(imm13). -/
def execAndi (i : BitVec 13) (a d : BitVec 6) (s : State) : Out := .next (aluImm (· &&& ·) (sext i) a d s)
/-- R81. ORI with sext(imm13). -/
def execOri (i : BitVec 13) (a d : BitVec 6) (s : State) : Out := .next (aluImm (· ||| ·) (sext i) a d s)
/-- R81. XORI with sext(imm13). -/
def execXori (i : BitVec 13) (a d : BitVec 6) (s : State) : Out := .next (aluImm (· ^^^ ·) (sext i) a d s)
/-- R81. MULI with sext(imm13). -/
def execMuli (i : BitVec 13) (a d : BitVec 6) (s : State) : Out := .next (aluImm (· * ·) (sext i) a d s)
/-- R82. SHLI by n, 0-63. -/
def execShli (n a d : BitVec 6) (s : State) : Out := .next (aluImm shlW (zext n) a d s)
/-- R82. SHRI by n, 0-63. -/
def execShri (n a d : BitVec 6) (s : State) : Out := .next (aluImm shrW (zext n) a d s)
/-- R82. SARI by n, 0-63. -/
def execSari (n a d : BitVec 6) (s : State) : Out := .next (aluImm sarW (zext n) a d s)
/-- R82. RORI by n, 0-63. -/
def execRori (n a d : BitVec 6) (s : State) : Out := .next (aluImm rorW (zext n) a d s)
/-- R83. SEQI with sext(v). -/
def execSeqi (v : BitVec 10) (a d : BitVec 6) (s : State) : Out := .next (aluImm seqW (sext v) a d s)
/-- R83. SNEI with sext(v). -/
def execSnei (v : BitVec 10) (a d : BitVec 6) (s : State) : Out := .next (aluImm sneW (sext v) a d s)
/-- R83. SLTI with sext(v). -/
def execSlti (v : BitVec 10) (a d : BitVec 6) (s : State) : Out := .next (aluImm sltW (sext v) a d s)
/-- R83. SGEI with sext(v). -/
def execSgei (v : BitVec 10) (a d : BitVec 6) (s : State) : Out := .next (aluImm sgeW (sext v) a d s)
/-- R83. SLTUI with sext(v). -/
def execSltui (v : BitVec 10) (a d : BitVec 6) (s : State) : Out := .next (aluImm sltuW (sext v) a d s)
/-- R83. SGEUI with sext(v). -/
def execSgeui (v : BitVec 10) (a d : BitVec 6) (s : State) : Out := .next (aluImm sgeuW (sext v) a d s)
/-- R84. LIU: d ← sext(imm19) × 2^13. -/
def execLiu (i : BitVec 19) (d : BitVec 6) (s : State) : Out := .next (setImm 4 (fun _ => sext i * 8192) d s)
/-- R84. ADDPC: d ← PC + sext(imm19) × 2^13. -/
def execAddpc (i : BitVec 19) (d : BitVec 6) (s : State) : Out := .next (setImm 4 (fun t => t.pc + sext i * 8192) d s)
/-- R85. LIC: d ← the 0xF4 address of a coordinate. -/
def execLic (c : BitVec 7) (r : BitVec 4) (d : BitVec 6) (s : State) : Out := .next (setImm 4 (fun _ => fcBase c r) d s)
/-- R85. LICO: the same with offset a[19:0]. -/
def execLico (c : BitVec 7) (r : BitVec 4) (a d : BitVec 6) (s : State) : Out := .next (alu2 (fun x => fcBase c r ||| zext (x.setWidth 20)) a d s)
/-- R85. LICN: d ← zext(coord). -/
def execLicn (c : BitVec 7) (r : BitVec 4) (d : BitVec 6) (s : State) : Out := .next (setImm 4 (fun _ => fcCoord c r) d s)

end Sys2Proof.Machine
end

