-- ==== Sys2Proof/Machine/Memory.lean ====
section
/-!
DEFINITION. Majors 0x10-0x1B (06 R111-R122): plain, indexed and scoped loads and stores, synchronising forms, reservations, cache
operations.
-/

namespace Sys2Proof.Machine

/-! ## Loads and stores of FM -/

/-- R111, R112. LDB: 1 byte, sign-extended. -/
def execLdb (i : BitVec 9) (o q : BitVec 2) (a d : BitVec 6) (s : State) : Out := .next (fmLoad 1 true i o q a d s)
/-- R111, R112. LDBU: 1 byte, zero-extended. -/
def execLdbu (i : BitVec 9) (o q : BitVec 2) (a d : BitVec 6) (s : State) : Out := .next (fmLoad 1 false i o q a d s)
/-- R111, R112. LDH: 2 bytes, sign-extended. -/
def execLdh (i : BitVec 9) (o q : BitVec 2) (a d : BitVec 6) (s : State) : Out := .next (fmLoad 2 true i o q a d s)
/-- R111, R112. LDHU: 2 bytes, zero-extended. -/
def execLdhu (i : BitVec 9) (o q : BitVec 2) (a d : BitVec 6) (s : State) : Out := .next (fmLoad 2 false i o q a d s)
/-- R111, R112. LDW: 4 bytes, sign-extended. -/
def execLdw (i : BitVec 9) (o q : BitVec 2) (a d : BitVec 6) (s : State) : Out := .next (fmLoad 4 true i o q a d s)
/-- R111, R112. LDWU: 4 bytes, zero-extended. -/
def execLdwu (i : BitVec 9) (o q : BitVec 2) (a d : BitVec 6) (s : State) : Out := .next (fmLoad 4 false i o q a d s)
/-- R111, R112. LDD: 8 bytes. -/
def execLdd (i : BitVec 9) (o q : BitVec 2) (a d : BitVec 6) (s : State) : Out := .next (fmLoad 8 false i o q a d s)
/-- R111, R112. STB: the low 1 byte of d. -/
def execStb (i : BitVec 9) (o q : BitVec 2) (a d : BitVec 6) (s : State) : Out := .next (fmStore 1 i o q a d s)
/-- R111, R112. STH: the low 2 bytes of d. -/
def execSth (i : BitVec 9) (o q : BitVec 2) (a d : BitVec 6) (s : State) : Out := .next (fmStore 2 i o q a d s)
/-- R111, R112. STW: the low 4 bytes of d. -/
def execStw (i : BitVec 9) (o q : BitVec 2) (a d : BitVec 6) (s : State) : Out := .next (fmStore 4 i o q a d s)
/-- R111, R112. STD: the low 8 bytes of d. -/
def execStd (i : BitVec 9) (o q : BitVec 2) (a d : BitVec 6) (s : State) : Out := .next (fmStore 8 i o q a d s)

/-! ## Indexed forms -/

/-- R116. LDBX. -/
def execLdbx (q : BitVec 2) (b a d : BitVec 6) (s : State) : Out := .next (ixLoad 1 true q b a d s)
/-- R116. LDBUX. -/
def execLdbux (q : BitVec 2) (b a d : BitVec 6) (s : State) : Out := .next (ixLoad 1 false q b a d s)
/-- R116. LDHX. -/
def execLdhx (q : BitVec 2) (b a d : BitVec 6) (s : State) : Out := .next (ixLoad 2 true q b a d s)
/-- R116. LDHUX. -/
def execLdhux (q : BitVec 2) (b a d : BitVec 6) (s : State) : Out := .next (ixLoad 2 false q b a d s)
/-- R116. LDWX. -/
def execLdwx (q : BitVec 2) (b a d : BitVec 6) (s : State) : Out := .next (ixLoad 4 true q b a d s)
/-- R116. LDWUX. -/
def execLdwux (q : BitVec 2) (b a d : BitVec 6) (s : State) : Out := .next (ixLoad 4 false q b a d s)
/-- R116. LDDX. -/
def execLddx (q : BitVec 2) (b a d : BitVec 6) (s : State) : Out := .next (ixLoad 8 false q b a d s)
/-- R116. STBX. -/
def execStbx (q : BitVec 2) (b a d : BitVec 6) (s : State) : Out := .next (ixStore 1 q b a d s)
/-- R116. STHX. -/
def execSthx (q : BitVec 2) (b a d : BitVec 6) (s : State) : Out := .next (ixStore 2 q b a d s)
/-- R116. STWX. -/
def execStwx (q : BitVec 2) (b a d : BitVec 6) (s : State) : Out := .next (ixStore 4 q b a d s)
/-- R116. STDX. -/
def execStdx (q : BitVec 2) (b a d : BitVec 6) (s : State) : Out := .next (ixStore 8 q b a d s)

/-! ## Scoped forms -/

/-- R117. LDWO. -/
def execLdwo (q : BitVec 2) (sc : BitVec 3) (o : BitVec 2) (a d : BitVec 6) (s : State) : Out := .next (scLoad 4 q sc o a d s)
/-- R117. LDDO. -/
def execLddo (q : BitVec 2) (sc : BitVec 3) (o : BitVec 2) (a d : BitVec 6) (s : State) : Out := .next (scLoad 8 q sc o a d s)
/-- R117. STWO. -/
def execStwo (q : BitVec 2) (sc : BitVec 3) (o : BitVec 2) (a d : BitVec 6) (s : State) : Out := .next (scStore 4 q sc o a d s)
/-- R117. STDO. -/
def execStdo (q : BitVec 2) (sc : BitVec 3) (o : BitVec 2) (a d : BitVec 6) (s : State) : Out := .next (scStore 8 q sc o a d s)

/-! ## Synchronising forms -/

/-- The windows of a synchronising form: 0x00-0xEF and 0xF1-0xF5 (R118); another raises PROT by R31 already. -/
def syncForm (op : Word → MemOp) (store : Bool) (need : Rights → Bool) (a d : BitVec 6) (s : State) : State :=
  issue { len := 4, srcs := if store then [gRef d.toNat, gRef a.toNat] else [gRef a.toNat],
          dsts := if store || s.me.phase == .done then [] else [gRef d.toNat] }
    (fun s =>
      let va := s.me.gv a
      let o := op (s.me.gv d)
      let cls : CountClass := if store then .stores else .loads
      match s.me.phase with
      | .sent => s.parkOn .reply
      | .done => s.advance 4
      | .failed _ e => (s.upd (fun t => if store then { t with storeErr := some (t.storeErr.getD e) } else t)).advance 4
      | _ =>
        checkAddr va 8 need 4 (fun p s =>
          let r : Req := { id := 0, tid := 0, epoch := 0, op := o, va := va, place := p, dst := if store then none else some (gRef d.toNat),
                           cls := cls, acq := !store, rel := store }
          if !p.short va then memIssue cls (postAccess 4 r) s
          else
            let word := p.chipKey
            let ready := s.atOnce p va store && s.syncReady { r with tid := s.cur } word
            memIssue .none (fun s =>
              if ready then
                shortAccess 4 r (fun r _ s =>
                  let s1 := if store then s.served r word 0 else (s.served r word 0).eccRead word 8 (s.keyDetail s.cur)
                  if !store && s.eccBad word 8 then s1.done 4 (fun t => t.put (gRef d.toNat) va.toNat .errorMark)
                  else
                    match o with
                    | .stf v => ((s1.noteWrite s.cur word true r.ord false).bankWrite word (natToBytes 8 v.toNat)).advance 4
                    | .ldtk =>
                      let s2 := ((s1.setEmpty word).breakResv (word / 128) none).done 4 (fun t => t.setG d (BitVec.ofNat 64 (s.getN word 8)))
                      s2.serveWord word
                    | _ => s1.done 4 (fun t => t.setG d (BitVec.ofNat 64 (s.getN word 8)))) s
              else
                (postPart { r with cls := .none } s)) s) s) s
where
  /-- Posted as a part of an instruction that parks until it completes. -/
  postPart (r : Req) (s : State) : State :=
    match recKind r.op r.acq with
    | some (typ, op) =>
      loggable 4 typ op (s.objOf r.place / 8 * 8) (fun o => o % 4 = op) false (fun ord s =>
        (s.post { r with ord := ord }).upd (fun t => { t with phase := .sent, park := some .reply })) s
    | none => (s.post r).upd (fun t => { t with phase := .sent, park := some .reply })

/-- R118, R119. LDF: waits for the word FULL and leaves it FULL. -/
def execLdf (a d : BitVec 6) (s : State) : Out := .next (syncForm (fun _ => .ldf) false Rights.r a d s)
/-- R118, R119. LDTK: waits for the word FULL and leaves it EMPTY. -/
def execLdtk (a d : BitVec 6) (s : State) : Out := .next (syncForm (fun _ => .ldtk) false Rights.a a d s)
/-- R118, R119. STF: waits for the word EMPTY and leaves it FULL with d. -/
def execStf (a d : BitVec 6) (s : State) : Out := .next (syncForm (fun v => .stf v) true Rights.w a d s)

/-! ## Reservations -/

/-- LRES, plain or an acquire of partition scope (R120, R121). -/
def reserve (acq : Bool) (a d : BitVec 6) (s : State) : State :=
  issue { len := 4, srcs := [gRef a.toNat], dsts := [gRef d.toNat] }
    (fun s =>
      let va := s.me.gv a
      checkAddr va 8 Rights.r 4 (fun p s =>
        let r : Req := { id := 0, tid := 0, epoch := 0, op := .lres, va := va, place := p, dst := some (gRef d.toNat), cls := .loads, acq := acq,
                         short := p.short va }
        let once := s.atOnce p va false
        memIssue (if once then .none else .loads) (fun s =>
          if once then
            shortAccess 4 r (fun r _ s =>
              let s1 := (s.served r p.chipKey 0).eccRead p.chipKey 8 (s.keyDetail s.cur)
              if s.eccBad p.chipKey 8 then s1.done 4 (fun t => t.put (gRef d.toNat) va.toNat .errorMark)
              else s1.done 4 (fun t => { t.setG d (BitVec.ofNat 64 (s.getN p.chipKey 8)) with resv := some (p.chipKey / 128), resvVa := va.toNat })) s
          else postAccess 4 r s) s) s) s

/-- SCOND, plain or a release of partition scope (R121). -/
def condition (rel : Bool) (b a d : BitVec 6) (s : State) : State :=
  issue { len := 4, srcs := [gRef a.toNat, gRef b.toNat], dsts := [gRef d.toNat] }
    (fun s =>
      let va := s.me.gv a
      let v := s.me.gv b
      checkAddr va 8 Rights.w 4 (fun p s =>
        let r : Req := { id := 0, tid := 0, epoch := 0, op := .scond v, va := va, place := p, dst := some (gRef d.toNat), cls := .loads, rel := rel,
                         short := p.short va }
        let once := s.atOnce p va rel && !s.replaying s.me.ctx
        memIssue (if once then .none else .loads) (fun s =>
          if once then
            shortAccess 4 r (fun r _ s =>
              let key := p.chipKey
              if s.me.resv = some (key / 128) then
                let s1 := ((s.upd (fun t => { t with resv := none })).served r key 0).noteWrite s.cur key rel r.ord true
                (s1.bankWrite key (natToBytes 8 v.toNat)).done 4 (fun t => t.setG d 0)
              else ((s.upd (fun t => { t with resv := none })).served r key 1).done 4 (fun t => t.setG d 1)) s
          else postAccess 4 r s) s) s) s

/-- R120. LRES. -/
def execLres (a d : BitVec 6) (s : State) : Out := .next (reserve false a d s)
/-- R120, R121. LRES.ACQ. -/
def execLresAcq (a d : BitVec 6) (s : State) : Out := .next (reserve true a d s)
/-- R121. SCOND. -/
def execScond (b a d : BitVec 6) (s : State) : Out := .next (condition false b a d s)
/-- R121. SCOND.REL. -/
def execScondRel (b a d : BitVec 6) (s : State) : Out := .next (condition true b a d s)

/-! ## Cache operations -/

/-- A cache operation on the line of an address: posted in the global window, no effect elsewhere (R122). -/
def cacheOp (keep : Bool) (a : BitVec 6) (s : State) : State :=
  issue { len := 4, srcs := [gRef a.toNat] }
    (fun s =>
      let va := s.me.gv a
      checkAddr va 1 Rights.r 4 (fun p s =>
        match p with
        | .global _ =>
          memIssue .stores (postAccess 4 { id := 0, tid := 0, epoch := 0, op := .flush keep, va := va, place := p, cls := .stores }) s
        | _ => s.advance 4) s) s

/-- R122. CFLUSH. -/
def execCflush (a : BitVec 6) (s : State) : Out := .next (cacheOp false a s)
/-- R122. CWB. -/
def execCwb (a : BitVec 6) (s : State) : Out := .next (cacheOp true a s)

/-- The first byte addresses of a core's dirty lines. -/
def State.dirtyLines (s : State) (c : Nat) : List Nat :=
  ((s.core c).lines.filter (fun l => l.kind == .ow && l.dirty)).map (fun l => l.line * 128)

/-- R122. CWBALL: every dirty line of the core is written back; the operation is one outstanding store until all are. -/
def execCwball (s : State) : Out := .next (
  issue { len := 4 }
    (fun s =>
      match s.dirtyLines (coreOf s.cur) with
      | [] => s.advance 4
      | va :: _ =>
        memIssue .stores (postAccess 4 { id := 0, tid := 0, epoch := 0, op := .flushAll, va := BitVec.ofNat 64 va, place := .global va,
                                         cls := .stores }) s) s)

end Sys2Proof.Machine
end

