-- ==== Sys2Proof/Machine/Preempt.lean ====
section
/-!
DEFINITION. Pre-emption (20 R374-R388): the chrysalis image as bytes, a save and a resume by the pre-emption unit of a die, remap entries,
gating, and the RESIZE that moves cores (18 R351). While a core is absent, what the sections in the device's own layout say is kept under a
number of its own too, and a resume takes it from there (log 22).
-/

namespace Sys2Proof.Machine

/-! ## Thread records -/

/-- The codes of R381. -/
def RegState.code (r : RegState) : Nat :=
  match r with | .void => 0 | .full => 1 | .pending => 2 | .expecting => 3 | .errorMark => 4 | .refusalMark => 5 | .divergeMark => 6
def regStateOf (n : Nat) : RegState :=
  match n with | 1 => .full | 2 => .pending | 3 => .expecting | 4 => .errorMark | 5 => .refusalMark | 6 => .divergeMark | _ => .void

/-- Every register with a full/empty state, in the order of R381. -/
def allRegs : List RegRef :=
  (List.range 64).map gRef ++ (List.range 4).map mRef ++ (List.range 16).map vRef ++ (List.range 8).map cRef

/-- Bytes filled up with zeros. -/
def padTo (n : Nat) (l : List Byte) : List Byte := (l ++ List.replicate (n - l.length) 0).take n

/-- A thread record of 4,608 bytes; a free slot's is all zero (R381). -/
def threadRecord (t : Thread) : List Byte :=
  if !t.occupied then List.replicate 4608 0
  else
    let flag := fun (b : Bool) (i : Nat) => if b then 2 ^ i else 0
    let level := match t.level with | .U => 0 | .S => 1 | .F => 2
    let parked := t.park.isSome || t.stopped || t.faulted != 0
    let state := 1 + flag parked 1 + 4 * level + flag t.stand.isSome 4 + flag t.loopU.isSome 5 + flag t.loopS.isSome 6 + flag t.latch 7
    let loop := t.loopU.getD { start := 0, stop := 0, remaining := 0 }
    let held := flag t.storeErr.isSome 0 + flag t.atomScope.isSome 1 + flag t.sibLimit.isSome 2 + flag t.nanTile.isSome 3
    let w := fun (v : Word) => natToBytes 8 v.toNat
    let fe := allRegs.zipIdx.foldl (fun n e => n + (t.stOf e.1).code * 16 ^ e.2) 0
    natToBytes 8 state ++ w t.pc ++ natToBytes 8 t.lti.toNat ++ w t.link ++
      (match t.stand with | some (n, m) => w n ++ natToBytes 8 m | none => natToBytes 16 0) ++ natToBytes 8 0 ++
      natToBytes 8 (t.loads + 2 ^ 8 * t.stores + 2 ^ 16 * t.copies + 2 ^ 24 * t.tiles) ++
      w t.fpctl ++ w t.qbase ++ w t.qrec ++ w t.tbanks ++ w t.epc ++ w t.ecause ++ w t.einfo ++ w t.estat ++
      w t.escr ++ w t.elcnt ++ w t.elctl ++ w t.elstart ++ w loop.start ++ w loop.stop ++ w loop.remaining ++ natToBytes 8 held ++
      (List.range 64).flatMap (fun i => natToBytes 8 (t.valOf (gRef i))) ++ natToBytes 46 fe ++ natToBytes 18 0 ++
      (List.range 4).flatMap (fun i => natToBytes 128 (t.valOf (mRef i))) ++
      (List.range 16).flatMap (fun i => natToBytes 128 (t.valOf (vRef i))) ++
      (List.range 8).flatMap (fun i => natToBytes 16 (t.valOf (cRef i))) ++
      (List.range 8).flatMap (fun i => natToBytes 4 (t.kReg i).toNat) ++ padTo 512 t.bufU ++ padTo 512 t.bufS ++
      w (t.storeErr.getD 0) ++ w (t.atomScope.getD 0) ++ w (t.sibLimit.getD 0) ++ w (t.nanTile.getD 0) ++ natToBytes 64 0

/-- A thread as a record gives it, over what the device keeps of it (R381): software may have changed any field. Reserved bits are ignored (R3),
what ended while the core was absent is counted (R238, R256), and a report that came in that time is held (R386). -/
def threadOf (old : Thread) (l : List Byte) : Thread :=
  let f := fieldOf l
  let w := fun (i : Nat) => BitVec.ofNat 64 (f i 8)
  let state := f 0 8
  if !bit state 0 then { epoch := old.epoch + 1, lastIssue := old.lastIssue }
  else
    let fe := f 704 46
    let held := f 184 8
    let rep := fun (i : Nat) => if bit held i then some (w (4512 + 8 * i)) else none
    let regs := fun (t : Thread) =>
      allRegs.zipIdx.foldl (fun t e =>
        let v := match e.1.cls with
          | .g => f (192 + 8 * e.1.idx) 8
          | .m => f (768 + 128 * e.1.idx) 128
          | .v => f (1280 + 128 * e.1.idx) 128
          | .c => f (3328 + 16 * e.1.idx) 16
        t.put e.1 v (regStateOf (fe / 16 ^ e.2 % 16))) t
    let base : Thread := { old with
      occupied := true
      g := [], m := [], v := [], c := []
      level := match bits state 3 2 with | 0 => .U | 1 => .S | _ => .F
      park := if bit state 1 then old.park else none
      stopped := bit state 1 && old.stopped
      pc := w 8, lti := BitVec.ofNat 32 (f 16 4), link := w 24
      stand := if bit state 4 then some (w 32, f 40 8 % 4) else none
      latch := bit state 7
      loads := bits (f 56 8) 5 0, stores := bits (f 56 8) 13 8, copies := bits (f 56 8) 21 16 - old.ended.1, tiles := bits (f 56 8) 29 24 - old.ended.2, ended := (0, 0)
      fpctl := fpctlWrite (w 64), qbase := w 72, qrec := w 80 &&& 0x1F0, tbanks := w 88 &&& 0x3FFFFFFFF
      epc := w 96 &&& 0xFFFFFFFFFFFFFF, ecause := w 104 &&& 0xFF, einfo := w 112, estat := w 120 &&& 3
      escr := w 128, elcnt := w 136, elctl := w 144 &&& 0x80000000000001FF, elstart := w 152
      loopU := if bit state 5 then some { start := w 160, stop := w 168, remaining := w 176 } else none
      loopS := if bit state 6 then old.loopS else none
      k := (List.range 8).foldl (fun m i => tput 0xFFFFFFFF m i (BitVec.ofNat 32 (f (3456 + 4 * i) 4))) []
      bufU := (l.drop 3488).take 512, bufS := (l.drop 4000).take 512
      storeErr := (rep 0).or old.storeErr, atomScope := (rep 1).or old.atomScope, sibLimit := (rep 2).or old.sibLimit, nanTile := (rep 3).or old.nanTile
      resv := none }
    regs base

/-! ## Coding (R382) -/

/-- Bytes as 64-bit words. -/
def words64 (n : Nat) (l : List Byte) : List Nat := (List.range n).map (fun i => fieldOf l (8 * i) 8)
/-- Words as bytes. -/
def bytesOf (l : List Nat) : List Byte := l.flatMap (natToBytes 8)

/-- The maximal runs of equal words. -/
def runsOf (l : List Nat) : List (Nat × Nat) :=
  l.foldr (fun w r => match r with
    | (v, k) :: rest => if v = w then (v, k + 1) :: rest else (w, 1) :: r
    | [] => [(w, 1)]) []

/-- A section coded: `lit` is the LIT run so far, newest first. -/
def codeRuns (l : List (Nat × Nat)) (lit : List Nat) : List Nat :=
  match l with
  | [] => flush lit ++ [3 * 2 ^ 62]
  | (w, k) :: r =>
    if w = 0 ∧ 2 ≤ k then flush lit ++ (2 ^ 62 + k) :: codeRuns r []
    else if w ≠ 0 ∧ 3 ≤ k then flush lit ++ (2 * 2 ^ 62 + k) :: w :: codeRuns r []
    else codeRuns r (List.replicate k w ++ lit)
where
  /-- The LIT run that ends here. -/
  flush (lit : List Nat) : List Nat := if lit.isEmpty then [] else lit.length :: lit.reverse

/-- A section coded (R382). -/
def codeSection (l : List Nat) : List Nat := codeRuns (runsOf l) []

/-- A section decoded, at most `most` words of it, and the stream behind its END; none is a malformed image (R382). -/
def decodeSection (most fuel : Nat) (l : List Nat) : Option (List Nat × List Nat) :=
  match fuel with
  | 0 => none
  | fuel + 1 =>
    match l with
    | [] => none
    | c :: r =>
      let n := c % 2 ^ 32
      match c / 2 ^ 62 with
      | 3 => some ([], r)
      | kind =>
        if n = 0 ∨ most < n then none
        else
          let step : Option (List Nat × List Nat) := match kind, r with
            | 0, _ => if r.length < n then none else some (r.take n, r.drop n)
            | 1, _ => some (List.replicate n 0, r)
            | _, w :: rest => some (List.replicate n w, rest)
            | _, [] => none
          match step with
          | none => none
          | some (ws, rest) =>
            match decodeSection (most - n) fuel rest with
            | none => none
            | some (more, tail) => some (ws ++ more, tail)

/-! ## Images -/

/-- The dirty regions of a mask, ascending. -/
def regionsIn (m : BitVec 256) (first n : Nat) : List Nat := (List.range n).filter (fun i => m.getLsbD (first + i))

/-- The key of byte 0 of region `i` of a core's contribution. -/
def clKey (c i : Nat) : Nat := coreKey c (0x80000 + 4096 * i)

/-- The engine section (R378): the accumulator of the task that was running, with its next k-step and entry, and the one held under a tag. -/
def State.engineSection (s : State) (c : Nat) : List Nat :=
  let e := (s.core c).engine
  let running := match e.task with
    | some id => match s.tile id with
      | some t =>
        let img := accImage (if t.kind = 1 then { e with dims := (t.rows, t.cols) } else e) (t.field 8 1)
        words64 8200 (img.take 16 ++ natToBytes 4 t.step ++ natToBytes 4 (((s.die t.die).tileq.takeWhile (fun i => i != id)).length) ++ img.drop 24)
      | none => []
    | none => []
  running ++ (match e.held with | (_, tag) :: _ => words64 8200 (accImage e tag) | [] => [])

/-! The sections in the device's own layout (R380): the spec gives the sizes of their entries, the layout within is a choice of the model (log 22). -/

/-- A deque entry: 272 bytes (R17, R225). -/
def dequeBytes (e : DequeEntry) : List Byte :=
  natToBytes 8 e.pc.toNat ++ natToBytes 8 e.frame.toNat ++ natToBytes 4 e.lti.toNat ++
    natToBytes 8 ((if e.isSplit then 1 else 0) + 2 * e.slot + 2 ^ 8 * e.msReg + 2 ^ 16 * (e.core % absentBase)) ++ natToBytes 128 e.ms.toNat ++
    natToBytes 4 ((List.range 13).foldl (fun n i => n + (if (tget {} e.regs (i + 1)).st = .full then 2 ^ i else 0)) 0) ++
    (List.range 13).flatMap (fun i => natToBytes 8 (tget {} e.regs (i + 1)).val.toNat) ++ natToBytes 8 e.ord
/-- A queued message: 272 bytes (R26, R289). -/
def msgBytes (m : Msg) : List Byte :=
  padTo 272 (natToBytes 8 m.handler.toNat ++ natToBytes 8 (m.src + 2 ^ 32 * m.lti.toNat) ++
    natToBytes 8 (m.part + 2 ^ 8 * m.ctx + 2 ^ 16 * m.payload.length + 2 ^ 32 * m.actor) ++ natToBytes 8 m.ord ++
    m.payload.flatMap (fun (w : Word) => natToBytes 8 w.toNat))
/-- An open roll-call entry: 160 bytes (R215). -/
def rollBytes (e : RollEntry) : List Byte :=
  natToBytes 8 e.node.toNat ++ natToBytes 8 (e.owner.lti + 2 ^ 32 * e.owner.name + 2 ^ 48 * e.owner.slot) ++ natToBytes 8 (e.tid % (absentBase * 16)) ++
    natToBytes 8 e.reg ++ natToBytes 128 e.set.toNat
/-- A request that waits at a bank, with its place: 16 bytes (R119, R137). -/
def waitBytes (key id : Nat) : List Byte := natToBytes 8 (key % 2 ^ 20) ++ natToBytes 8 id
/-- An accepted copy command: 64 bytes (R229). -/
def copyBytes (c : CopyCmd) : List Byte :=
  let flag := fun (b : Bool) (i : Nat) => if b then 2 ^ i else 0
  let size := if c.kind = 0 then c.len else c.rowBytes
  let gather := if c.kind = 2 then c.arg.toNat else c.index.toNat
  let short := match c.waitBell with | some va => 2 ^ 29 * (windowOf va - 0xF0) + va % 2 ^ 31 / 4 | none => 0
  padTo 64 (natToBytes 8 (c.kind + flag c.acq 4 + flag c.rel 5 + flag c.ts 6 + 2 ^ 8 * c.scope + 2 ^ 16 * (c.tid % 16) + 2 ^ 32 * c.lti.toNat) ++
    natToBytes 8 c.dst.toNat ++ natToBytes 8 c.src.toNat ++ natToBytes 8 (size + 2 ^ 32 * c.rows) ++ natToBytes 8 gather ++
    natToBytes 8 (c.dstStride + 2 ^ 32 * c.srcStride) ++ natToBytes 8 (c.signal.getD 0) ++ natToBytes 4 short ++ natToBytes 4 c.waitGen.toNat)

/-- Bytes as the words of a section. -/
def sectionOf (l : List Byte) : List Nat := words64 ((l.length + 7) / 8) l

/-- Whether a storage key lies in a core's scratchpad or contribution. -/
def inCore (c k : Nat) : Bool := decide (coreKey c 0 ≤ k) && decide (k < coreKey (c + 1) 0)

/-- The commands of a core's copy engine that have not started, in acceptance order (R244). -/
def State.unstarted (s : State) (c : Nat) : List CopyCmd :=
  (s.core c).copyq.filterMap (fun id => (s.copy id).filter (fun k => !k.begun))

/-- Sections 2 to 6 (R380): the hardware deque, the queued messages, the roll-call bank, the bank queues and the copy commands that have not started. -/
def State.deviceSections (s : State) (c : Nat) : List (List Nat) :=
  let x := s.core c
  let waits := (s.syncq.filter (fun e => inCore c e.1)).map (fun e => waitBytes e.1 e.2) ++
    (s.waiters.filter (fun e => inCore c e.1)).map (fun e => waitBytes e.1 (match e.2 with | .req id => id | .cmd id => 2 ^ 62 + id | .tile id which => 2 ^ 63 + 2 * id + which))
  [sectionOf (x.deque.flatMap dequeBytes), sectionOf (x.msgs.flatMap msgBytes), sectionOf (x.roll.flatMap rollBytes),
   sectionOf (waits.take 512).flatten, sectionOf ((s.unstarted c).flatMap copyBytes)]

/-- The image of a stopped core as bytes (R379, R380). The full/empty bits of sections 8 and 9 have no place in the lengths that R382 gives them, and are
kept beside the image (log 22). -/
def State.imageOf (s : State) (c part ctx : Nat) : List Byte :=
  let x := s.core c
  let sp := regionsIn x.dirty 0 128
  let cl := regionsIn x.dirty 128 64
  let sections := [words64 9216 ((List.range 16).flatMap (fun i => threadRecord (s.thread (c * 16 + i))))] ++ s.deviceSections c ++ [
    s.engineSection c,
    sp.flatMap (fun i => words64 512 (s.peek (coreKey c (4096 * i)) 4096)),
    cl.flatMap (fun i => words64 512 (s.peek (clKey c i) 4096)),
    (List.range 32).flatMap (fun i => words64 512 (s.peek (laneKey c i 0) 4096))]
  let body := bytesOf (sections.flatMap codeSection)
  natToBytes 8 (1 + 10 * 2 ^ 8) ++ natToBytes 8 (s.nameOf c % absentBase + 2 ^ 16 * (c % absentBase)) ++
    natToBytes 8 (ctx + 2 ^ 8 * part + 2 ^ 14 * s.levelOf ctx + 2 ^ 16 * x.lendPtr) ++ natToBytes 8 x.divertAt ++ natToBytes 8 (64 + body.length) ++
    natToBytes 8 (x.dirty.toNat / 2 ^ 128 % 2 ^ 64) ++ natToBytes 16 (x.dirty.toNat % 2 ^ 128) ++ body

/-! ## Areas -/

/-- The page of physical memory at a byte of an area (R359). -/
def areaPage (v : Word) (i : Nat) : Page :=
  { place := bits v.toNat 49 48, pa := bits v.toNat 47 12 * 4096 + 4096 * i, cls := 0, sib := false, accum := false, aop := 0, sysatom := false, bias := 0,
    homed := false, die := 0, log := 12 }

/-- Whether an access to the first `len` bytes of an area ends in an error response (R359, R375): a block lies outside its place, behind a fenced unit
(R411), or in an invalid or reduction window (R403, R406). -/
def State.areaBad (s : State) (v : Word) (len : Nat) : Bool :=
  (List.range ((len + 4095) / 4096)).any (fun i =>
    let pg := areaPage v i
    !physOk pg.place pg.pa 12 || s.agentBad pg pg.pa)

/-- The bytes of a spill ring; none where its size is none of R375's. -/
def spillBytes (v : Word) : Option Nat := let n := v.toNat % 32; if 16 ≤ n ∧ n ≤ 24 then some (2 ^ n) else none
/-- Whether an access to a spill ring ends in an error response. -/
def State.spillBad (s : State) (v : Word) : Bool := match spillBytes v with | some n => s.areaBad v n | none => true

/-- The cycles in which a unit writes or reads a coded image (R389): one for each 16 bytes, and R46's bound for the image's place; the command
processor's own images lie in its die's memory (log 52). -/
def State.imageTime (s : State) (die : Nat) (img : Option Word) (len : Nat) : Nat :=
  (len + 15) / 16 + match img with
  | none => Config.homeOwnDie
  | some v =>
    match bits v.toNat 49 48 with
    | 0 => if bits v.toNat 41 37 = die then Config.homeOwnDie else Config.homeElsewhere
    | 1 => Config.farTier
    | _ => if windowKind (s.windowEntry (bits v.toNat 47 12 * 4096)) = 2 then Config.broino else Config.broino + Config.hostDelay s.now

/-! ## Moving a core's number -/

/-- A thread's place under another core number. -/
def renTid (a b t : Nat) : Nat := if t / 16 = a then b * 16 + t % 16 else t
def renCore (a b c : Nat) : Nat := if c = a then b else c
/-- A storage key of a core's range under another core number. -/
def renKey (a b k : Nat) : Nat := if inCore a k then coreKey b (k - coreKey a 0) else k
/-- The address of a RESOURCE request of a kind under another core number. -/
def renAddr (a b kind x : Nat) : Nat :=
  match kind with
  | 1 => renCore a b x
  | 2 => if ringAddr 0 ≤ x then ringAddr (renCore a b (x - ringAddr 0)) else renCore a b x
  | 3 => renKey a b x
  | 5 => renCore a b x
  | _ => x
/-- A descriptor that the core issued, under another number of it. -/
def renTensor (a b : Nat) (t : Tensor) : Tensor := { t with core := renCore a b t.core }

/-- A later step of the module under another core number. -/
def renInstr (a b : Nat) (i : Instr) : Instr :=
  match i with
  | .dividerFill t e r v => .dividerFill (renTid a b t) e r v
  | .faultWakeRejoin t => .faultWakeRejoin (renTid a b t)
  | .dequeTake c => .dequeTake (renCore a b c)
  | .stealAttempt c => .stealAttempt (renCore a b c)
  | .stealRequest c d => .stealRequest (renCore a b c) d
  | .stealReply c d f => .stealReply (renCore a b c) d f
  | .dequeRefill c => .dequeRefill (renCore a b c)
  | .resourceRequest d k x t => .resourceRequest d k (renAddr a b k x) (t.map (renTid a b))
  | .resourceRestart t => .resourceRestart (renTid a b t)
  | .handlerStart c => .handlerStart (renCore a b c)
  | .fenceProbe t e g => .fenceProbe (renTid a b t) e g
  | .fenceEcho t e g => .fenceEcho (renTid a b t) e g
  | .plbRefill c t r => .plbRefill (renCore a b c) (renTid a b t) r
  | .partialEviction c l => .partialEviction (renCore a b c) l
  | .bellUpdate x => .bellUpdate { x with bell := renKey a b x.bell }
  | x => x

/-- The engine of a core without its command and its accumulators. -/
def Engine.freed (e : Engine) : Engine := { e with acc := [], task := none, held := [], dims := (0, 0) }
/-- An engine that takes over a saved one's command and accumulators (R378). -/
def Engine.takes (e away : Engine) : Engine := { e with acc := away.acc, task := away.task, held := away.held, dims := away.dims }

/-- Everything that names core `a`'s threads, deque, banks' queues or bank words names core `b` instead; the engine of `a` itself stays. The
threads' reservations are lost (R376): a `WAITRES` ends (R139). -/
def State.renameCore (s : State) (a b : Nat) : State :=
  let core := s.core a
  let entry : DequeEntry → DequeEntry := fun e => { e with core := renCore a b e.core }
  let onCore : Core → Core := fun c => { c with
    deque := c.deque.map entry, dequeOvf := c.dequeOvf.map entry, stolen := c.stolen.map entry
    held := c.held.map (fun h => (h.1, entry h.2)), steal := c.steal.map (fun x => { x with carried := x.carried.map entry })
    roll := c.roll.map (fun e => { e with tid := renTid a b e.tid }), rollOvf := c.rollOvf.map (fun e => { e with tid := renTid a b e.tid })
    spilled := c.spilled.map (fun e => { e with step := renInstr a b e.step }) }
  let s1 := s.cores.foldl (fun s e => s.updCore e.1 onCore) s
  let s2 := ((s1.setCore b (onCore core)).setCore a { engine := core.engine.freed, dirty := core.dirty })
  let s3 := (List.range 16).foldl (fun s i =>
    let t := s.thread (a * 16 + i)
    (s.setThread (b * 16 + i) { t with resv := none, park := if t.resv.isSome && t.park == some .reply then none else t.park }).setThread (a * 16 + i) { epoch := t.epoch + 1, lastIssue := t.lastIssue }) s2
  let s4 := s3.dies.foldl (fun s e => s.updDie e.1 (fun d => { d with resources := d.resources.map (fun r =>
    { r with tid := r.tid.map (renTid a b), addr := renAddr a b r.kind r.addr }) })) s3
  let item : Parked → Parked := fun i => match i with
    | .fetch t e => .fetch (renTid a b t) e
    | x => x
  let s5 := s4.slices.foldl (fun s e => s.updSlice e.1 (fun x => { x with
    parked := x.parked.map (fun p => { p with items := p.items.map item }), faultIn := x.faultIn.map item
    proxies := x.proxies.map (fun p => { p with who := renInstr a b p.who }) })) s4
  { s5 with
    reqs := s5.reqs.map (fun r => { r with
      tid := renTid a b r.tid
      place := match r.place with | .core c o => (if r.state = .waiting then .core (renCore a b c) o else r.place) | x => x })
    syncq := s5.syncq.map (fun e => (renKey a b e.1, e.2))
    syncIn := s5.syncIn.map (fun e => (renKey a b e.1, e.2))
    bankq := s5.bankq.map (fun x => { x with who := renInstr a b x.who })
    waiters := s5.waiters.map (fun e => (renKey a b e.1, e.2))
    copies := s5.copies.map (fun c => { c with tid := renTid a b c.tid, core := renCore a b c.core })
    tileCmds := s5.tileCmds.map (fun c => { c with
      tid := renTid a b c.tid, core := renCore a b c.core, engine := c.engine.map (renCore a b), a := c.a.map (renTensor a b), b := c.b.map (renTensor a b)
      cT := c.cT.map (renTensor a b), d := c.d.map (renTensor a b), r := c.r.map (renTensor a b) })
    ctxs := s5.ctxs.map (fun e => (e.1, { e.2 with tensors := e.2.tensors.map (fun t => (t.1, renTensor a b t.2)) }))
    packets := s5.packets.map (fun p => { p with tid := renTid a b p.tid })
    empty := (s5.empty.filter (inCore a)).foldl (fun l k => sinsert l (renKey a b k)) (s5.empty.filter (fun k => !inCore a k && !inCore b k))
    pend := s5.pend.map (fun e => (e.1, renInstr a b e.2)) }

/-- What was spilled for core `old` names its new core in the places it goes to. -/
def State.retarget (s : State) (old new : Nat) (i : Instr) : State :=
  let place : Place → Place := fun p => match p with | .core c o => .core (renCore old new c) o | x => x
  let req := fun (id piece : Nat) => s.updReq id (fun r => { r with
    place := place r.place, words := r.words.mapIdx (fun i w => if i = piece then { w with place := place w.place } else w) })
  let pkt := fun (id : Nat) => s.updPacket id (fun p => { p with dst := renCore old new p.dst })
  match i with
  | .bankAccess x => req x.id x.piece
  | .barrierArrival id => req id 0
  | .rollCallArrival id => req id 0
  | .rollCallLeave id => req id 0
  | .messageArrival id => pkt id
  | .rfillArrival id => pkt id
  | .evsigDelivery id => s.updReq id (fun r => { r with op := match r.op with | .evsig c => .evsig (renCore old new c) | x => x })
  | _ => s

/-! ## Requests of the pre-emption unit -/

/-- The end of a request: its status, and the driver's interrupt (R375); a request of the command processor tells nobody. The next one
begins. -/
def State.peDone (s : State) (die : Nat) (r : PeReq) (status : Nat) : State :=
  s.updDie die (fun d =>
    if r.img.isSome then { d with peStat := BitVec.ofNat 64 (status + 2 ^ 16 * r.tag), peIrq := true, peReqs := d.peReqs.drop 1 }
    else { d with peReqs := d.peReqs.drop 1 })

/-- Whether a core is free (R344, R376): no started launch runs on it, and it holds no thread. -/
def State.isFree (s : State) (c : Nat) : Bool := (s.launchOn c).isNone && !s.coreBusy c && (s.core c).moved.isNone

/-- The absent core that an image belongs to. -/
def State.savedOf (s : State) (name part phys : Nat) : Option (Nat × Saved) :=
  s.saved.find? (fun e => e.2.name == name && e.2.part == part && e.2.phys == phys)

/-- A decoded image: its header's masks and lending pointer, threads' records, engine section, scratchpad regions, contribution regions and lanes. -/
structure Image where
  name : Nat
  phys : Nat
  part : Nat
  lend : Nat
  taken : Bool
  dirty : BitVec 256
  threads : List Nat
  engine : List Nat
  pads : List Nat
  cls : List Nat
  lanes : List Nat

/-- An image decoded (R379, R382); none is malformed. -/
def decodeImage (l : List Byte) : Option Image :=
  let f := fieldOf l
  let n := f 32 8
  if f 0 8 % 2 ^ 16 ≠ 1 + 10 * 2 ^ 8 ∨ n < 64 ∨ Config.imageArea < n then none
  else
    let dirty := BitVec.ofNat 256 (f 48 16 + 2 ^ 128 * f 40 8)
    let sp := (regionsIn dirty 0 128).length
    let cl := (regionsIn dirty 128 64).length
    let most := [9216, 2176, 1088, 5120, 1024, 128, 16400, 512 * sp, 512 * cl, 16384]
    let fuel := n / 8 + 1
    let go := most.foldl (fun (acc : Option (List (List Nat) × List Nat)) m =>
      match acc with
      | none => none
      | some (done, rest) => (decodeSection m fuel rest).map (fun e => (done ++ [e.1], e.2))) (some ([], words64 ((n - 64) / 8) (l.drop 64)))
    match go with
    | some ([s1, _, _, _, _, _, s7, s8, s9, s10], _) =>
      if s1.length ≠ 9216 ∨ s8.length ≠ 512 * sp ∨ s9.length ≠ 512 * cl ∨ s10.length ≠ 16384 then none
      else some { name := bits (f 8 8) 10 0, phys := bits (f 8 8) 26 16, part := bits (f 16 8) 13 8, lend := bits (f 16 8) 19 16,
                  taken := bit (f 16 8) 20, dirty := dirty, threads := s1, engine := s7, pads := s8, cls := s9, lanes := s10 }
    | _ => none

/-- A core that is free, or that only the launch of the image itself still names. -/
def State.freeFor (s : State) (core : Nat) (v : Saved) : Bool :=
  !s.coreBusy core && (s.core core).moved.isNone && ((s.launchOn core).isNone || v.phys == core)

/-- The core that an access, a credit or an event on its way will reach (R383). -/
def State.boundFor (s : State) (i : Instr) : Option Nat :=
  let access := fun (id piece : Nat) => match s.req id with | some r => (match r.placeOf piece with | .core c _ => some c | _ => none) | none => none
  match i with
  | .bankAccess x => access x.id x.piece
  | .barrierArrival id => access id 0
  | .rollCallArrival id => access id 0
  | .rollCallLeave id => access id 0
  | .evsigDelivery id => (match s.req id with | some r => (match r.op with | .evsig c => some c | _ => none) | none => none)
  | .bellUpdate x => if x.bell / 2 ^ 48 = 0xF4 then some (x.bell % 2 ^ 48 / 2 ^ 20) else none
  | _ => none

/-- Whether what is still on its way would come to the router from which an absent core was saved (R383, R385). -/
def State.heldAtOld (s : State) (v : Saved) : Bool :=
  s.packets.any (fun k => k.tenant == v.part && k.name == v.name && k.typ != 2 && decide (k.place ≠ .arrived) && k.dst == v.phys) ||
    s.pend.any (fun e => s.boundFor e.2 == some v.phys && (match s.sentTo e.2 with | some n => n == v.name | none => (s.core v.phys).moved.isNone))

/-- Whether a core may take the image of a name (R383): a free compute core of the partition, named so itself or by an installed remap
entry, with no packet for the name on its way to the old core. -/
def State.resumeOk (s : State) (core : Nat) (v : Saved) : Bool :=
  match tfind s.parts v.part with
  | some p =>
    decide (core < 2048) && p.has core && s.freeFor core v && !(s.core core).halted && !(s.core core).diverted &&
      (v.name == core || p.remap.any (fun e => e.2.1 == v.name && e.2.2 == core)) &&
      (v.phys == core || !s.heldAtOld v)
  | none => false

/-- A core's bytes as an image gives them: clean regions zero (R379, R383). -/
def State.loadImage (s : State) (core : Nat) (x : Image) : State :=
  let s1 := ((s.clearKeys (coreKey core 0) 0xC0000).clearKeys (laneKey core 0 0) (2 ^ 17))
  let put := fun (s : State) (keys : List Nat) (ws : List Nat) =>
    keys.zipIdx.foldl (fun s e => { s with mem := pokeMem s.mem e.1 (bytesOf ((ws.drop (512 * e.2)).take 512)) }) s
  let s2 := put s1 ((regionsIn x.dirty 0 128).map (fun i => coreKey core (4096 * i))) x.pads
  let s3 := put s2 ((regionsIn x.dirty 128 64).map (fun i => clKey core i)) x.cls
  put s3 ((List.range 32).map (fun i => laneKey core i 0)) x.lanes

/-- Bytes of one core's scratchpad, contribution and lanes copied to another's (a move by the command processor). -/
def State.copyPads (s : State) (a b : Nat) : State :=
  let s1 := (s.clearKeys (coreKey b 0) 0xC0000).clearKeys (laneKey b 0 0) (2 ^ 17)
  let move := s.mem.filterMap (fun e =>
    if coreKey a 0 ≤ e.1 ∧ e.1 < coreKey a 0xC0000 then some (coreKey b (e.1 - coreKey a 0), e.2)
    else if laneKey a 0 0 ≤ e.1 ∧ e.1 < laneKey a 0 0 + 2 ^ 17 then some (laneKey b 0 0 + (e.1 - laneKey a 0 0), e.2)
    else none)
  move.foldl (fun s e => { s with mem := tput 0 s.mem e.1 e.2 }) s1

/-- A core's data cache written back and emptied (R376). -/
def State.emptyCache (s : State) (c : Nat) : State :=
  let s1 := s.evictPartials c (fun _ => true)
  ((s1.core c).lines).foldl (fun s l => s.writeBack l) (s1.updCore c (fun k => { k with lines := [] }))

/-- The engine of an absent core as an image's engine section gives it (R378). -/
def Engine.ofSection (e : Engine) (l : List Nat) : Engine :=
  let b := bytesOf (l.take 8200)
  if l.length < 8200 then e else { e with acc := imageAcc b (fieldOf b 1 1 % 128 + 1) (fieldOf b 2 1 % 128 + 1) }

/-- The next k-step of the task that was running, from the engine section (R378). -/
def State.loadStep (s : State) (e : Engine) (l : List Nat) : State :=
  match e.task with
  | some id => if l.length < 8200 then s else s.updTile id (fun c => { c with step := fieldOf (bytesOf (l.take 8200)) 16 4 })
  | none => s

/-- An absent core's state brought to a core (R383): it stays stopped, and what arrives for it is spilled, until its spill queue is empty. The engine
section that the scheduler has not taken goes to the core's engine, or waits for it to be free (R378). -/
def State.bringBack (s00 : State) (core : Nat) (v : Saved) (x : Option Image) (wait : Nat) : State :=
  let s0 := s00.emptyCache core
  let busy := (s0.core core).engine
  let kept := (s0.core v.virt).engine
  let away := match x with | some i => kept.ofSection i.engine | none => kept
  let s := match x with | some i => if v.taken then s0 else s0.loadStep kept i.engine | none => s0
  let fits := busy.task.isNone && busy.held.isEmpty
  let s1 := s.renameCore v.virt core
  let s2 := s1.updCore core (fun c => { c with
    halted := true, diverted := true, gated := false, plb := [], moved := if v.name = core then none else some v.name
    lendPtr := match x with | some i => i.lend | none => c.lendPtr
    dirty := match x with | some i => i.dirty | none => c.dirty
    engine := if v.taken || !fits then busy else busy.takes away })
  let s3 := match x with
    | some i => (List.range 16).foldl (fun (s : State) k =>
        let t := core * 16 + k
        s.setThread t (threadOf (s.thread t) (bytesOf ((i.threads.drop (576 * k)).take 576)))) (s2.loadImage core i)
    | none => (List.range 16).foldl (fun (s : State) k => s.updThread (core * 16 + k) (fun t => { t with ended := (0, 0) })) (s2.copyPads v.virt core)
  let s4 := (s3.core core).spilled.foldl (fun (s : State) e => s.retarget v.phys core e.step) s3
  let s5 := { s4.updCore core (fun c => { c with spilled := c.spilled.map (fun e => { e with step := renInstr v.phys core e.step }) }) with
    saved := s4.saved.filter (fun e => e.2.virt != v.virt) }
  let s6 := if !v.taken && !fits then
      -- the section waits, and so does the number under which it is kept
      let s := s5.updCore v.virt (fun c => { c with engine := ({} : Engine).takes away })
      let cmds := s.tileCmds.map (fun (c : TileCmd) => if some c.id = away.task then { c with engine := some v.virt } else c)
      ({ s with saved := tset s.saved v.virt { v with phys := absentBase + core }, tileCmds := cmds } : State).afterOnce 1
        (.engineSectionRestore (dieOf core) v.virt)
    else s5
  s6.after (wait + 1) (.spillRedelivery core)

/-- Whether a core is being resumed: its spilled packets are still delivered. -/
def State.resuming (s : State) (c : Nat) : Bool :=
  s.pend.any (fun e => match e.2 with | .spillRedelivery k => k == c | .resumeDone k => k == c | _ => false)

/-- The stage of the first request of a unit, set. -/
def setStage (n : Nat) (l : List PeReq) : List PeReq := match l with | q :: r => { q with stage := n } :: r | [] => []

/-- The first request of a unit reaches a stage: 1 to 4 as R376 numbers those of a save, 5 for a resume whose core takes its packets again. -/
def State.peStage (s : State) (die n : Nat) : State :=
  s.updDie die (fun d => { d with peReqs := setStage n d.peReqs })

/-- The partition and context that a core works for. -/
def State.corePart (s : State) (c : Nat) : Nat × Nat :=
  match s.launchOn c with
  | some (_, l) => (l.part, l.ctx)
  | none =>
    match s.threads.find? (fun t => coreOf t.1 == c && t.2.occupied) with
    | some (_, t) => (t.part, t.ctx)
    | none => match s.parts.find? (fun p => p.2.has c) with | some (n, p) => (n, p.ctx) | none => (0, 0)

/-- A resume whose image has been read (R383): what refuses it, and its status, or the core that takes it. -/
def State.peResume (s : State) (die : Nat) (r : PeReq) (img : Word) : State :=
  let head := s.homeRead (areaKey img) 64
  let n := min (fieldOf head.1 32 8) Config.imageArea
  let bad := fun (s : State) (code : Nat) => (s.logError die code 4 0 (areaKey img % 2 ^ 48) 0).peDone die r 4
  if s.areaBad img (max n 64) then bad s 6
  else if s.eccBad (areaKey img) (max n 64) then bad head.2 2
  else
    let all := head.2.homeRead (areaKey img) (max n 64)
    match decodeImage all.1 with
    | none => all.2.peDone die r 3
    | some x =>
      match all.2.savedOf x.name x.part x.phys with
      | none => all.2.peDone die r 3
      | some (_, v) =>
        if !all.2.resumeOk r.core v then all.2.peDone die r 2
        else if s.spillBad v.spill then bad all.2 6
        else if s.eccBad (areaKey v.spill) ((spillBytes v.spill).getD 0) then bad (all.2.eccRead (areaKey v.spill) ((spillBytes v.spill).getD 0) 0) 2
        else (all.2.bringBack r.core { v with taken := v.taken || x.taken } (some x) (s.imageTime die (some img) n)).peStage die 5

/-- A save that goes on from its fifth step (R376): the spill queue lies in the ring that this request names. -/
def State.peRetry (s : State) (die : Nat) (r : PeReq) : State :=
  let s1 := ((s.updCore r.core (fun c => { c with spillArea := r.img.map (fun _ => r.spill) })).writeSpill r.core true).peStage die 4
  let w := s1.corePart r.core
  s1.after (max 1 (s1.imageTime die r.img (s1.imageOf r.core w.1 w.2).length)) (.imageWritten die)

/-- The first request of a unit begins (R376, R383): a save sends the mesh interrupt; a resume reads its image. -/
def State.peBegin (s : State) (die : Nat) : State :=
  match (s.die die).peReqs with
  | [] => s
  | r :: _ =>
    if r.save then
      let busy := s.dies.any (fun d => d.1 != die && (match d.2.peReqs with | q :: _ => q.save && q.core == r.core && q.stage != 0 | [] => false))
      if 2048 ≤ r.core ∨ busy then s.peDone die r 2
      else if (s.core r.core).diverted && (s.core r.core).spillSize != 0 && !s.resuming r.core then s.peRetry die r
      else if s.isFree r.core ∨ (s.core r.core).diverted then s.peDone die r 2
      else (s.peStage die 1).after 24 (.meshInterrupt die)
    else
      match r.img with
      | none =>
        match tfind s.saved r.spill.toNat with
        | some v =>
          if s.resumeOk r.core v then
            (s.bringBack r.core v none (s.imageTime die none (s.imageOf v.virt v.part v.ctx).length)).peStage die 5
          else s.peDone die r 2
        | none => s.peDone die r 2
      | some img => s.peResume die r img

/-- Every request that can be settled at once, until one runs. `n` bounds their number. -/
def State.peRun (s : State) (die n : Nat) : State :=
  match n with
  | 0 => s
  | n + 1 =>
    match (s.die die).peReqs with
    | r :: _ => if r.stage = 0 then (s.peBegin die).peRun die n else s
    | [] => s

/-- A request put to a pre-emption unit: one runs, 8 wait, a further one is refused with status 1 (R374, R375). -/
def State.peRequest (s : State) (die : Nat) (r : PeReq) : State :=
  let waiting := (s.die die).peReqs
  if Config.peQueue + 1 ≤ waiting.length then
    (if r.img.isSome then s.updDie die (fun d => { d with peStat := BitVec.ofNat 64 (1 + 2 ^ 16 * r.tag), peIrq := true }) else s)
  else (s.updDie die (fun d => { d with peReqs := d.peReqs ++ [r] })).peRun die 16

/-- R374, R376. A write of PECMD with action save. -/
def execPreemptSave (die core tag : Nat) (s : State) : Out := .next (
  s.peRequest die { save := true, core := core % 2 ^ 11, tag := tag % 256, img := some (s.die die).peImg, spill := (s.die die).peSpill, stage := 0 })
/-- R374, R383. A write of PECMD with action resume. -/
def execPreemptResume (die core tag : Nat) (s : State) : Out := .next (
  s.peRequest die { save := false, core := core % 2 ^ 11, tag := tag % 256, img := some (s.die die).peImg, spill := (s.die die).peSpill, stage := 0 })

/-- R375. A read of PESTAT: its value goes to the reader, and the pending interrupt is cleared. -/
def execPestatRead (die : Nat) (s : State) : Out := .next (
  { s.updDie die (fun d => { d with peIrq := false }) with hostOut := s.hostOut ++ [(1, (s.die die).peStat)] })

/-! ## A save (R376) -/

/-- The running save of a die at a stage. -/
def State.saving (s : State) (die stage : Nat) : Option PeReq :=
  match (s.die die).peReqs with | r :: _ => if r.save ∧ r.stage = stage then some r else none | [] => none

/-- R376. The mesh interrupt reaches its core; a gated core wakes first. -/
def execMeshInterrupt (die : Nat) (s : State) : Out := .next (
  match s.saving die 1 with
  | none => s
  | some r =>
    if (s.core r.core).gated then (s.wakeCore r.core).after Config.gateWake (.meshInterrupt die)
    else (s.peStage die 2).after ((16 - s.now % 16) % 16) (.coreStop die))

/-- R376. At a cycle with c mod 16 = 0 every slot stops issuing, and the engines start nothing more. -/
def execCoreStop (die : Nat) (s : State) : Out := .next (
  match s.saving die 2 with
  | none => s
  | some r =>
    if s.now % 16 ≠ 0 then s.after (16 - s.now % 16) (.coreStop die)
    else ((s.peStage die 3).updCore r.core (fun c => { c with halted := true })).after 1 (.quiesceDone die))

/-- Whether a stopped core still waits for a divider fill, a started copy, the k-step that its engine runs, or the rest of a drain that has begun to write
(R376). -/
def State.unquiet (s : State) (c : Nat) : Bool :=
  s.pend.any (fun e => match e.2 with | .dividerFill t _ _ _ => coreOf t == c | _ => false) ||
  s.copies.any (fun k => k.core == c && k.kind != 2 && k.begun) ||
  (match s.engineTask c with | some t => t.ended || t.ends.isSome || (t.kind == 1 && t.words.any (fun w => w.write)) | none => false)

/-- R376. Once the core is quiet its cache is written back and dropped, packets for it are diverted, and the image is written. -/
def execQuiesceDone (die : Nat) (s : State) : Out := .next (
  match s.saving die 3 with
  | none => s
  | some r =>
    if s.unquiet r.core then s.after 1 (.quiesceDone die)
    else
      let c := r.core
      let size := if r.img.isSome then 2 ^ (r.spill.toNat % 32) else 2 ^ 24
      let s1 := ((s.emptyCache c).updCore c (fun k => { k with
        diverted := true, divertAt := s.now, resent := [], spilled := [], spillArea := r.img.map (fun _ => r.spill), spillSize := size, spillBase := 0 })).peStage die 4
      let w := s1.corePart c
      s1.after (s1.imageTime die r.img (s1.imageOf c w.1 w.2).length) (.imageWritten die))

/-- The parts of a stopped core that an image holds and that have an uncorrectable word (R379, R414): their first keys. -/
def State.badParts (s : State) (c : Nat) : List Nat :=
  ((regionsIn (s.core c).dirty 0 128).map (fun i => coreKey c (4096 * i)) ++ (regionsIn (s.core c).dirty 128 64).map (clKey c) ++
    (List.range 32).map (fun i => laneKey c i 0)).filter (fun k => s.eccBad k 4096)

/-- The least number under which no absent core's state is kept. -/
def State.freeVirt (s : State) (c : Nat) : Nat :=
  absentBase * (((List.range (s.saved.length + 1)).map (fun i => i + 1)).find? (fun m => (tfind s.saved (absentBase * m + c)).isNone)).getD 1 + c

/-- R376, R378. The core is free: what the image holds is kept under a number of its own. Commands that have not started are accepted anew (R244), and
the reports that the image holds are the image's. -/
def State.saveDone (s : State) (die : Nat) (r : PeReq) (bytes : List Byte) : State :=
  let c := r.core
  let w := s.corePart c
  let s1 := match r.img with
    | some a => (s.homeWrite (areaKey a) bytes).updDie die (fun d => { d with peLen := BitVec.ofNat 64 bytes.length })
    | none => s
  let virt := s1.freeVirt c
  let name := s1.nameOf c
  let waiting := (s1.unstarted c).map (fun (k : CopyCmd) => k.id)
  let s2 := { s1 with
    copies := s1.copies.map (fun (k : CopyCmd) => if waiting.contains k.id then { k with accepted := false } else k)
    tileCmds := s1.tileCmds.map (fun (k : TileCmd) => if k.engine = some c then { k with latch := [], words := [], ends := none } else k)
    waiters := s1.waiters.filter (fun x => match x.2 with | .cmd i => !waiting.contains i | _ => true) }
  let s3 := if r.img.isNone then s2
    else (List.range 16).foldl (fun (s : State) i =>
      s.updThread (c * 16 + i) (fun t => { t with storeErr := none, atomScope := none, sibLimit := none, nanTile := none })) s2
  let s4 := (s3.renameCore c virt).updCore virt (fun k => { k with moved := some name })
  let s5 := if r.img.isNone then s4.copyPads c virt else s4
  let v : Saved := { name := name, phys := c, part := w.1, ctx := w.2, virt := virt, img := r.img.getD 0, spill := r.spill, taken := false }
  let s6 := { s5 with saved := tset s5.saved virt v }
  let e := (s6.core virt).engine
  if s.levelOf w.2 ≠ 3 ∧ (e.task.isSome ∨ !e.held.isEmpty) then s6.after 1 (.engineSectionRestore die virt) else s6

/-- R376. The image is written; an error response leaves the core stopped (R375): of an uncorrectable word of its own, or of an area. -/
def execImageWritten (die : Nat) (s : State) : Out := .next (
  match s.saving die 4 with
  | none => s
  | some r =>
    let w := s.corePart r.core
    let bytes := s.imageOf r.core w.1 w.2
    let bad := s.badParts r.core
    let area := match r.img with | some a => s.areaBad a bytes.length || s.spillBad r.spill | none => false
    if !bad.isEmpty then ((bad.foldl (fun (s : State) k => s.eccRead k 4096 0) s).peDone die r 4).peRun die 16
    else if area then ((s.logError die 6 4 0 (areaKey (r.img.getD 0) % 2 ^ 48) 0).peDone die r 4).peRun die 16
    else ((s.saveDone die r bytes).peDone die r 0).peRun die 16)

/-- A command goes on at an engine: from its next k-step, or from its beginning (R378). -/
def State.resumeTile (s : State) (c : TileCmd) (eng : Nat) : State :=
  if c.dispatched.isNone then s.after 0 (if c.kind = 1 then .taskDispatch c.id else .accumulatorMoveRun c.id) else s.afterStep c eng

/-- R378. The scheduler restores a saved accumulator on an engine chosen by R258, and sets the image's taken bit; a running task goes on. At FIXED, the
section that a resumed core's busy engine could not take goes there once that engine is free. -/
def execEngineSectionRestore (die : Nat) (image : Nat) (s : State) : Out := .next (
  match tfind s.saved image with
  | none => s
  | some v =>
    let e := (s.core v.virt).engine
    let back := decide (absentBase ≤ v.phys)
    if v.taken || (s.levelOf v.ctx == 3 && !back) || (e.task.isNone && e.held.isEmpty) then s
    else
      let ok := fun (k : Nat) => !(s.core k).engine.out && !(s.core k).halted && (s.core k).engine.task.isNone && (s.core k).engine.held.isEmpty &&
        (match tfind s.parts v.part with | some p => p.cores.any (fun n => p.phys n == k) | none => false)
      match (if s.levelOf v.ctx = 3 then [v.phys - absentBase] else engineOrder (v.virt % absentBase)).find? ok with
      | none => s.after Config.poll (.engineSectionRestore die image)
      | some k =>
        let s1 := (s.updCore k (fun c => { c with engine := c.engine.takes e })).updCore v.virt (fun c => { c with engine := {} })
        let s2 := if back then { s1 with saved := terase s1.saved image } else { s1 with saved := tset s1.saved image { v with taken := true } }
        let s3 := if v.img = 0 ∨ back then s2
          else
            let b := s2.byte (areaKey v.img + 18)
            s2.homeWrite (areaKey v.img + 18) [b ||| 0x10]
        match e.task with
        | some id =>
          match s3.tile id with
          | some c =>
            let c1 := { c with engine := some k }
            (s3.updTile id (fun _ => c1)).resumeTile c1 k
          | none => s3
        | none => s3.schedule die)

/-! ## A resume (R383, R384) -/

/-- R384. A spilled packet is delivered to the resumed core as if it had just arrived; when none is left the divert ends. -/
def execSpillRedelivery (core : Nat) (s : State) : Out := .next (
  let x := s.core core
  if !x.diverted then s
  else
    match x.spilled with
    | [] => s.after 0 (.resumeDone core)
    | e :: rest =>
      let s1 := s.updCore core (fun c => { c with spilled := rest, resent := e.step :: c.resent, spillBase := c.spillBase + e.size })
      (s1.after 0 e.step).after e.flits (.spillRedelivery core))

/-- R383. The spill queue is empty: the divert ends and the request is done, the core's waiting commands are accepted again in their order (R244), and its threads
issue at their first owned cycles. -/
def execResumeDone (core : Nat) (s : State) : Out := .next (
  let x := s.core core
  if !x.diverted ∨ !x.spilled.isEmpty then s
  else
    let s1 := s.updCore core (fun c => { c with diverted := false, halted := false, spillArea := none, spillSize := 0, spillBase := 0, resent := [] })
    let waiting := x.copyq.filter (fun id => match s.copy id with | some c => !c.accepted && !c.begun | none => false)
    let s2 := waiting.foldl (fun s id => s.after Config.copyAccept (.copyAccept id)) s1
    let s3 := match x.engine.task with
      | some id => (match s2.tile id with | some c => s2.resumeTile { c with engine := some core } core | none => s2)
      | none => s2
    let s4 := if x.msgs.isEmpty then s3 else s3.afterOnce 0 (.handlerStart core)
    let s5 := (List.range 16).foldl (fun s i => s.updThread (core * 16 + i) (fun t => { t with ownCycle := t.occupied })) s4
    (s5.dies.map (fun d => d.1)).foldl (fun s d =>
      match (s.die d).peReqs with
      | r :: _ => if !r.save && r.stage == 5 && r.core == core then (s.peDone d r 0).peRun d 16 else s
      | [] => s) ((s5.coreWork core).restCore core))

/-! ## Remap entries (R375, R385) -/

/-- R375. A write of RMDATA installs the selected entry in every router of the partition. -/
def execRmdata (die : Nat) (value : Word) (s : State) : Out := .next (
  let sel := (s.die die).rmSel.toNat
  (s.updDie die (fun d => { d with installs := d.installs ++ [(bits sel 5 0, bits sel 11 8, value)] })).after Config.homeElsewhere (.remapInstallDone die))

/-- R375. An install completes, in the order written. -/
def execRemapInstallDone (die : Nat) (s : State) : Out := .next (
  match (s.die die).installs with
  | [] => s
  | (n, i, v) :: rest =>
    let s1 := s.updDie die (fun d => { d with installs := rest, rmDone := d.rmDone + 1 })
    s1.updPart n (fun p =>
      let r := if 2 ^ 63 ≤ v.toNat then tset p.remap i (bits v.toNat 42 32, bits v.toNat 10 0) else terase p.remap i
      { p with remap := r }))

/-! ## Gating (R388) -/

/-- Whether a core's divider, copy engine and matrix engine are idle. -/
def State.enginesIdle (s : State) (c : Nat) : Bool :=
  !s.copies.any (fun k => k.core == c && (s.core c).copyq.contains k.id) && (s.core c).engine.task.isNone &&
    !s.tileCmds.any (fun k => k.core == c && k.accepted.isSome && !k.ended) &&
    !s.pend.any (fun e => match e.2 with | .dividerFill t _ _ _ => coreOf t == c | _ => false)

/-- R388. A core in which nothing could issue for 2,048 cycles, and whose engines are idle, is gated; never at FIXED. -/
def execCoreGate (core : Nat) (s : State) : Out := .next (
  let x := s.core core
  let fixed := match s.parts.find? (fun p => p.2.has core) with | some (_, p) => s.levelOf p.ctx == 3 | none => false
  let last := (List.range 16).foldl (fun m i => match (s.thread (core * 16 + i)).lastIssue with | some t => max m t | none => m) x.quiet
  if isMem core || fixed || x.gated || x.halted || x.diverted then s
  else if (List.range 16).any (fun i => s.ready (core * 16 + i)) || !s.enginesIdle core then s
  else if s.now < last + Config.gateWait then s.afterOnce (last + Config.gateWait - s.now) (.coreGate core)
  else s.updCore core (fun c => { c with gated := true }))

/-- R388. A gated core issues again. -/
def execCoreWake (core : Nat) (s : State) : Out := .next (
  if (s.core core).gated then s.updCore core (fun c => { c with gated := false, quiet := s.now }) else s)

/-! ## RESIZE (R351) -/

/-- The tenant bit of a partition at the routers of cores. -/
def State.setTenants (s : State) (n : Nat) (cores : List Nat) (on : Bool) : State :=
  cores.foldl (fun s c =>
    let old := tget 0 s.tenants c
    let m := BitVec.ofNat 64 (2 ^ n)
    { s with tenants := tput 0 s.tenants c (if on then old ||| m else old &&& ~~~m) }) s

/-- A core's banks and lane slices cleared as it joins a partition. -/
def State.clearCore (s : State) (c : Nat) : State :=
  let s1 := ((s.clearKeys (coreKey c 0) 0xC0000).clearKeys (laneKey c 0 0) (2 ^ 17)).updCore c (fun k => { k with dirty := 0 })
  { s1 with empty := s1.empty.filter (fun k => !(decide (coreKey c 0 ≤ k) && decide (k < coreKey c 0xC0000))) }

/-- The rectangle of a partition set. -/
def Part.setRect (p : Part) (x : Nat) : Part := { p with col0 := shapeCol x, row0 := shapeRow x, w := shapeW x, h := shapeH x }

/-- The LAUNCH packets that wait in a partition's queues are checked again, against its new rectangle (R351). -/
def State.recheck (s : State) (n : Nat) : State :=
  match tfind s.parts n with
  | none => s
  | some p =>
    p.queues.foldl (fun (s : State) e =>
      match e.2.packet with
      | some l =>
        if pktType l = 1 ∧ !e.2.stopped then
          (s.updQueue n e.1 (fun q => { q with checked := false, reserves := [] })).afterOnce 0 (.launch n e.1)
        else s
      | none => s) s

/-- The next part of a shrink: the first core that has still to leave is saved, its remap entry installed, and its image resumed. -/
def State.shrink (s : State) (n : Nat) (p : Part) (r : Shrink) : State :=
  let put := fun (s : State) (x : Shrink) => s.updPart n (fun p => { p with resize := some x })
  let again := fun (s : State) => s.afterOnce Config.dispatchEvery (.resize n)
  match r.leaving with
  | [] =>
    let s1 := (s.setTenants n (p.leaving r.shape) false).updPart n (fun p => { p.setRect r.shape with resize := none })
    (s1.recheck n).finishJob n r.job
  | c :: rest =>
    let die := dieOf c
    let requested := (s.die die).peReqs.any (fun q => q.core == c && q.img.isNone)
    match r.stage with
    | 0 =>
      if s.isFree c then again (put s { r with leaving := rest })
      else again ((put s { r with stage := 1 }).peRequest die { save := true, core := c, tag := 0, img := none, spill := 0, stage := 0 })
    | 1 =>
      if s.saved.any (fun e => e.2.phys == c && e.2.part == n) then again (put s { r with stage := 2 })
      else if requested then again s else again (put s { r with stage := 0 })
    | 2 =>
      match s.saved.find? (fun e => e.2.phys == c && e.2.part == n) with
      | none => again (put s { r with stage := 0 })
      | some (_, v) =>
        match (shapeCores r.shape).find? (fun k => s.coreFree n p k && !s.coreBusy k && !s.saved.any (fun e => e.2.phys == k)) with
        | none => again s
        | some k =>
          let entry := match p.remap.find? (fun e => e.2.1 = v.name) with
            | some e => e.1
            | none => ((List.range 16).find? (fun i => (tfind p.remap i).isNone)).getD 0
          let s1 := (put s { r with stage := 3, target := k }).updDie p.lead (fun d => { d with
            installs := d.installs ++ [(n, entry, BitVec.ofNat 64 (2 ^ 63 + 2 ^ 32 * v.name + k))] })
          again (s1.after Config.homeElsewhere (.remapInstallDone p.lead))
    | 3 =>
      match s.saved.find? (fun e => e.2.phys == c && e.2.part == n) with
      | none => again (put s { r with stage := 0 })
      | some (_, v) =>
        if p.phys v.name = r.target then
          again ((put s { r with stage := 4 }).peRequest (dieOf r.target) { save := false, core := r.target, tag := 0, img := none, spill := BitVec.ofNat 64 v.virt, stage := 0 })
        else again s
    | _ =>
      if s.saved.any (fun e => e.2.phys == c && e.2.part == n) then
        (if (s.die (dieOf r.target)).peReqs.any (fun q => q.core == r.target && q.img.isNone) then again s else again (put s { r with stage := 3 }))
      else if (s.core r.target).diverted then again s
      else again (put s { r with stage := 0, leaving := rest })

/-- R351. A RESIZE starts, and goes on until the leaving cores have left. -/
def execResize (part : Nat) (s : State) : Out := .next (
  match tfind s.parts part with
  | none => s
  | some p =>
    match p.resize with
    | some r => s.shrink part p r
    | none =>
      match s.startable part 0 12 with
      | none => s
      | some (_, q, l) =>
        let x := pktBody l % 2 ^ 22
        let leaving := p.leaving x
        let moved := (leaving.filter (fun c => !s.isFree c && !p.remap.any (fun e => e.2.1 == s.nameOf c))).length
        if leaving.isEmpty then
          let s1 := (s.consume part 0 q).setTenants part (p.coming x) true
          let s2 := (p.coming x).foldl (fun s c => s.clearCore c) s1
          ((s2.updPart part (fun p => p.setRect x)).recheck part).finishJob part (jobOf 0 q l x)
        else if 16 < moved + p.remap.length then s.stopQueue part 0 1 q.read
        else
          ((s.consume part 0 q).updPart part (fun p => { p with
            resize := some { job := jobOf 0 q l x, shape := x, leaving := leaving, stage := 0, target := 0 } })).after 0 (.resize part))

end Sys2Proof.Machine
end

