-- ==== Sys2Proof/Machine/ScalarFp.lean ====
section
/-!
DEFINITION. Scalar floating point (05 R100-R107): FPA, FMA and FCVT, with the flags and the FP trap of R102.
-/

namespace Sys2Proof.Machine

/-- The format of the p bit: FP32 or FP64 (R103). -/
def fpFmt (p : BitVec 1) : FFmt := if p = 1 then fp64 else fp32
/-- The bits of a source in the format (R100). -/
def fpBits (p : BitVec 1) (w : Word) : Nat := if p = 1 then w.toNat else w.toNat % 2 ^ 32
/-- The value of a source. -/
def fpVal (p : BitVec 1) (w : Word) : FVal := unpackF (fpFmt p) (fpBits p w)

/-- A binary operation in the thread's rounding mode (R103). -/
def fp3 (f : FFmt → RM → Nat → Nat → Nat × FFlags) (p : BitVec 1) (b a d : BitVec 6) (s : State) : State :=
  issue { len := 4, srcs := [gRef a.toNat, gRef b.toNat], dsts := [gRef d.toNat] }
    (fun s =>
      let r := f (fpFmt p) s.me.rm (fpBits p (s.me.gv a)) (fpBits p (s.me.gv b))
      fpResult d (BitVec.ofNat 64 r.1) r.2 s) s

/-- A unary operation from bits to bits (R103, R106). -/
def fp2 (f : RM → Word → Word × FFlags) (a d : BitVec 6) (s : State) : State :=
  issue { len := 4, srcs := [gRef a.toNat], dsts := [gRef d.toNat] }
    (fun s => let r := f s.me.rm (s.me.gv a); fpResult d r.1 r.2 s) s

/-- An operation on unpacked values. -/
def onVals (f : FFmt → RM → FVal → FVal → Nat × FFlags) (t : FFmt) (rm : RM) (a b : Nat) : Nat × FFlags :=
  f t rm (unpackF t a) (unpackF t b)

/-- Sign injection: a with sign `f` of the two signs (R103). -/
def signInject (f : Bool → Bool → Bool) (t : FFmt) (_ : RM) (a b : Nat) : Nat × FFlags :=
  let top := 2 ^ (t.e + t.f)
  (a % top + (if f (signBit t a) (signBit t b) then top else 0), {})

/-- The comparisons: NV for FLT and FLE with any NaN, for FEQ with a signalling one (R102, R103). -/
def fpCompare (quiet : Bool) (f : FVal → FVal → Bool) (t : FFmt) (_ : RM) (a b : Nat) : Nat × FFlags :=
  let x := unpackF t a
  let y := unpackF t b
  ((if f x y then 1 else 0), { nv := if quiet then x.isSNaN || y.isSNaN else x.isNaN || y.isNaN })

/-- A less than or equal to b, false for NaNs. -/
def leV (a b : FVal) : Bool := ltV a b || eqV a b

/-- FP conversions between formats (R106, R107). -/
def fcvtF (src dst : FFmt) (n : Nat) (rm : RM) (w : Word) : Word × FFlags :=
  let r := cvtF src dst rm (w.toNat % 2 ^ n)
  (BitVec.ofNat 64 r.1, r.2)
/-- Integer to floating point (R106). -/
def fcvtI (dst : FFmt) (signed : Bool) (rm : RM) (w : Word) : Word × FFlags :=
  let r := ofIntF dst rm (if signed then w.toInt else w.toNat)
  (BitVec.ofNat 64 r.1, r.2)
/-- Floating point to integer, saturating (R107). -/
def fcvtN (src : FFmt) (n : Nat) (lo hi : Int) (rm : RM) (w : Word) : Word × FFlags :=
  let r := toIntF rm lo hi (unpackF src (w.toNat % 2 ^ n))
  (BitVec.ofInt 64 r.1, r.2)

/-- R103. FADD: round(a + b). -/
def execFadd (p : BitVec 1) (b a d : BitVec 6) (s : State) : Out := .next (fp3 (onVals addF) p b a d s)
/-- R103. FSUB: round(a − b). -/
def execFsub (p : BitVec 1) (b a d : BitVec 6) (s : State) : Out := .next (fp3 (onVals (fun t rm a b => addF t rm a b.neg)) p b a d s)
/-- R103. FMUL: round(a × b). -/
def execFmul (p : BitVec 1) (b a d : BitVec 6) (s : State) : Out := .next (fp3 (onVals mulF) p b a d s)
/-- R103. FDIV: round(a / b). -/
def execFdiv (p : BitVec 1) (b a d : BitVec 6) (s : State) : Out := .next (fp3 (onVals divF) p b a d s)
/-- R103. FMIN: the smaller (R104). -/
def execFmin (p : BitVec 1) (b a d : BitVec 6) (s : State) : Out := .next (fp3 (fun t _ => minMaxF t false) p b a d s)
/-- R103. FMAX: the larger (R104). -/
def execFmax (p : BitVec 1) (b a d : BitVec 6) (s : State) : Out := .next (fp3 (fun t _ => minMaxF t true) p b a d s)
/-- R103. FSGNJ: a with the sign of b. -/
def execFsgnj (p : BitVec 1) (b a d : BitVec 6) (s : State) : Out := .next (fp3 (signInject (fun _ b => b)) p b a d s)
/-- R103. FSGNJN: a with the inverse of the sign of b. -/
def execFsgnjn (p : BitVec 1) (b a d : BitVec 6) (s : State) : Out := .next (fp3 (signInject (fun _ b => !b)) p b a d s)
/-- R103. FSGNJX: a with sign(a) XOR sign(b). -/
def execFsgnjx (p : BitVec 1) (b a d : BitVec 6) (s : State) : Out := .next (fp3 (signInject (fun a b => a != b)) p b a d s)
/-- R103. FEQ: a = b. -/
def execFeq (p : BitVec 1) (b a d : BitVec 6) (s : State) : Out := .next (fp3 (fpCompare true eqV) p b a d s)
/-- R103. FLT: a < b. -/
def execFlt (p : BitVec 1) (b a d : BitVec 6) (s : State) : Out := .next (fp3 (fpCompare false ltV) p b a d s)
/-- R103. FLE: a ≤ b. -/
def execFle (p : BitVec 1) (b a d : BitVec 6) (s : State) : Out := .next (fp3 (fpCompare false leV) p b a d s)
/-- R103. FSQRT. -/
def execFsqrt (p : BitVec 1) (a d : BitVec 6) (s : State) : Out := .next (fp2 (fun rm w => let r := sqrtF (fpFmt p) rm (fpVal p w); (BitVec.ofNat 64 r.1, r.2)) a d s)
/-- R103, R104. FCLASS: the class mask. -/
def execFclass (p : BitVec 1) (a d : BitVec 6) (s : State) : Out := .next (fp2 (fun _ w => (BitVec.ofNat 64 (classF (fpFmt p) (fpBits p w)), {})) a d s)
/-- R105. FMA: round(a × b + c), rounded once. -/
def execFma (x : BitVec 1) (c b a d : BitVec 6) (s : State) : Out := .next (
  issue { len := 4, srcs := [gRef a.toNat, gRef b.toNat, gRef c.toNat], dsts := [gRef d.toNat] }
    (fun s =>
      let r := fmaF (fpFmt x) s.me.rm (fpVal x (s.me.gv a)) (fpVal x (s.me.gv b)) (fpVal x (s.me.gv c))
      fpResult d (BitVec.ofNat 64 r.1) r.2 s) s)
/-- R106, R107. FCVT.SD. -/
def execFcvtSD (a d : BitVec 6) (s : State) : Out := .next (fp2 (fcvtF fp64 fp32 64) a d s)
/-- R106, R107. FCVT.DS. -/
def execFcvtDS (a d : BitVec 6) (s : State) : Out := .next (fp2 (fcvtF fp32 fp64 32) a d s)
/-- R106, R107. FCVT.SL. -/
def execFcvtSL (a d : BitVec 6) (s : State) : Out := .next (fp2 (fcvtI fp32 true) a d s)
/-- R106, R107. FCVT.SLU. -/
def execFcvtSLu (a d : BitVec 6) (s : State) : Out := .next (fp2 (fcvtI fp32 false) a d s)
/-- R106, R107. FCVT.DL. -/
def execFcvtDL (a d : BitVec 6) (s : State) : Out := .next (fp2 (fcvtI fp64 true) a d s)
/-- R106, R107. FCVT.DLU. -/
def execFcvtDLu (a d : BitVec 6) (s : State) : Out := .next (fp2 (fcvtI fp64 false) a d s)
/-- R106, R107. FCVT.LS. -/
def execFcvtLS (a d : BitVec 6) (s : State) : Out := .next (fp2 (fcvtN fp32 32 (-2 ^ 63) (2 ^ 63 - 1)) a d s)
/-- R106, R107. FCVT.LUS. -/
def execFcvtLuS (a d : BitVec 6) (s : State) : Out := .next (fp2 (fcvtN fp32 32 0 (2 ^ 64 - 1)) a d s)
/-- R106, R107. FCVT.LD. -/
def execFcvtLD (a d : BitVec 6) (s : State) : Out := .next (fp2 (fcvtN fp64 64 (-2 ^ 63) (2 ^ 63 - 1)) a d s)
/-- R106, R107. FCVT.LUD. -/
def execFcvtLuD (a d : BitVec 6) (s : State) : Out := .next (fp2 (fcvtN fp64 64 0 (2 ^ 64 - 1)) a d s)
/-- R106, R107. FCVT.WS. -/
def execFcvtWS (a d : BitVec 6) (s : State) : Out := .next (fp2 (fcvtN fp32 32 (-2 ^ 31) (2 ^ 31 - 1)) a d s)
/-- R106, R107. FCVT.WD. -/
def execFcvtWD (a d : BitVec 6) (s : State) : Out := .next (fp2 (fcvtN fp64 64 (-2 ^ 31) (2 ^ 31 - 1)) a d s)
/-- R106, R107. FCVT.HS. -/
def execFcvtHS (a d : BitVec 6) (s : State) : Out := .next (fp2 (fcvtF fp32 fp16 32) a d s)
/-- R106, R107. FCVT.SH. -/
def execFcvtSH (a d : BitVec 6) (s : State) : Out := .next (fp2 (fcvtF fp16 fp32 16) a d s)
/-- R106, R107. FCVT.BS. -/
def execFcvtBS (a d : BitVec 6) (s : State) : Out := .next (fp2 (fcvtF fp32 bf16 32) a d s)
/-- R106, R107. FCVT.SB. -/
def execFcvtSB (a d : BitVec 6) (s : State) : Out := .next (fp2 (fcvtF bf16 fp32 16) a d s)

end Sys2Proof.Machine
end

