-- ==== Sys2Proof/Machine/Task.lean ====
section
/-!
DEFINITION. The TASK major (05 R92-R99): SPAWN, JOIN, EXIT, EXPECT and the reports of the deque.
-/

namespace Sys2Proof.Machine

/-- A header or join word of a frame: a posted part of an instruction that parks (R93-R96). -/
def headerReq (op : MemOp) (a : Word) (p : Place) : Req := { id := 0, tid := 0, epoch := 0, op := op, va := a, place := p }

/-- A deque that has no entry left: RESOURCE kind 1, and the thread restarts (R18, R327). -/
def State.dequeRestart (s : State) (c : Nat) : State := (s.parkOn .restart).request (dieOf c) 1 c (some s.cur)

/-- An entry pushed at the young end (R17). -/
def State.push (s : State) (e : DequeEntry) : State :=
  (s.updCore e.core (fun c => { c with deque := c.deque ++ [e] })).coreWork e.core

/-- The entry a `SPAWN` pushes (R94); its ordinal is the one the `SPAWN` took (R393). -/
def State.spawnEntry (s : State) : DequeEntry :=
  { pc := s.me.pc + 4, frame := s.me.gv (2 : BitVec 6), lti := s.me.lti, isSplit := false, slot := slotOf s.cur, launch := s.me.launch,
    regs := [], msReg := 0, ms := 0, ord := (s.ordOf s.cur + 2 ^ 16 - 1) % 2 ^ 16, core := coreOf s.cur }

/-- Whether a write of a `SPAWN`'s header is not acknowledged yet (R94). -/
def State.headersOut (s : State) : Bool :=
  s.reqs.any (fun r => r.tid == s.cur && r.epoch == s.me.epoch && (match r.op with | .frameLink _ => true | .frameInc => true | _ => false))

/-- R92, R94. SPAWN: the frame's header is written, then the continuation is pushed and the child goes on at the label. -/
def execSpawn (i : BitVec 18) (s : State) : Out := .next (
  issue { len := 4, legal := !isMem (coreOf s.cur) && !s.me.inLoop, srcs := [gRef 2] }
    (fun s =>
      let c := coreOf s.cur
      let f := s.me.gv (2 : BitVec 6)
      match s.me.phase with
      | .spawn 0 =>
        let e := s.spawnEntry
        ((s.upd (fun t => { t with link := f })).transfer (s.me.rel i) false).push e
      | .spawn _ => s.parkOn .reply
      | .failed k a => if s.headersOut then s.parkOn .reply else s.trap k a 4
      | _ =>
        if s.dequeFull c then s.dequeRestart c
        else
          checkTarget (s.me.rel i) 4 (fun s =>
            checkAddr (f - 16) 8 Rights.a 4 (fun p1 s =>
              checkAddr (f - 8) 8 Rights.a 4 (fun p2 s =>
                memIssue .none (fun s =>
                  ordinal 4 (fun _ s =>
                    ((s.post (headerReq (.frameLink s.me.link) (f - 16) p1)).post (headerReq .frameInc (f - 8) p2)).upd
                      (fun t => { t with phase := .spawn 2, park := some .reply })) s) s) s) s) s) s)

/-- R95. JOIN: an acquire read of the child count, which ends when the count is 0. -/
def execJoin (s : State) : Out := .next (
  issue { len := 4, srcs := [gRef 2] }
    (fun s =>
      let a := s.me.gv (2 : BitVec 6) - 8
      match s.me.phase with
      | .done => s.advance 4
      | .failed k e => s.trap k e 4
      | .sent => s.parkOn .reply
      | _ =>
        checkAddr a 8 Rights.a 4 (fun p s =>
          memIssue .none (fun s =>
            loggable 4 6 1 (s.objOf p / 8 * 8) (fun o => o % 4 = 1) false (fun ord s =>
              (s.post { headerReq .joinRead a p with acq := true, ord := ord }).upd
                (fun t => { t with phase := .sent, park := some .reply })) s) s) s) s)

/-- The youngest entry of a list that a slot pushed (R19). -/
def youngestOf (l : List DequeEntry) (slot : Nat) : Option DequeEntry := l.reverse.find? (fun e => e.slot == slot)

/-- The list without its youngest entry of a slot. -/
def dropYoungest (l : List DequeEntry) (slot : Nat) : List DequeEntry := (go l.reverse).reverse
where
  go (l : List DequeEntry) : List DequeEntry :=
    match l with
    | [] => []
    | e :: r => if e.slot = slot then r else e :: go r

/-- What REPLAY says of an entry that an `EXIT` of its own slot finds (R400): it waits until the record that names the entry's push
is queued; a resume by this slot waits for the head of the queue too. -/
def State.exitTurn (s : State) (e : DequeEntry) : Turn :=
  let c := s.me.ctx
  if !s.replaying c then (if s.rollFull c 9 (s.nameOf (coreOf s.cur)) then .wait else .free)
  else
    let push := s.pushOf e
    let q := recQueue 9 (s.nameOf (coreOf s.cur))
    match (s.ctx c).roll.queues.find? (fun x => x.1 == q && recVal x.2.2 == push) with
    | none => .wait
    | some (_, i, r) =>
      if recOp r = 2 ∧ recActor r = s.actorOf s.cur then
        (if (s.ctx c).roll.headOf q = some (i, r) then .mine i r else .wait)
      else .mine i r

/-- The last part of `EXIT` (R96): the thread goes on as its own youngest continuation, or retires. The overflow area is searched
by the proctor (R19). -/
def exitDeque (s : State) (searched : Bool) : State :=
  let c := coreOf s.cur
  let x := s.core c
  let t := s.me
  match youngestOf x.deque (slotOf s.cur) with
  | some e =>
    match s.exitTurn e with
    | .wait => s.parkOn .roll
    | .free => resume s e
    | .mine i r => if recOp r = 2 ∧ recActor r = s.actorOf s.cur then resume (s.unqueue t.ctx i) e else s.retire s.cur
  | none =>
    if !x.dequeOvf.isEmpty && !searched then
      ((s.upd (fun t => { t with phase := .done, park := some .restart })).request (dieOf c) 1 c (some s.cur))
    else s.retire s.cur
where
  /-- The thread goes on as the continuation. -/
  resume (s : State) (e : DequeEntry) : State :=
    let c := coreOf s.cur
    let s1 := (s.noteTake s.cur 2 e c s.me.ctx).updCore c (fun x => { x with deque := dropYoungest x.deque (slotOf s.cur) })
    let s2 := (s1.startEntry s.cur e s.me.part s.me.ctx).upd (fun t => { t with lastIssue := some s.now })
    if (s2.core c).deque.isEmpty ∧ !(s2.core c).dequeOvf.isEmpty then s2.afterOnce 1 (.dequeRefill c) else s2

/-- The decrement of `EXIT` (R96), a release of partition scope; then the search of the deque. -/
def exitLink (s : State) : State :=
  if s.me.link = 0 then exitDeque s false
  else
    let a := s.me.link - 8
    checkAddr a 8 Rights.a 4 (fun p s =>
      memIssue .none (fun s =>
        ordinal 4 (fun ord s =>
          (s.post { headerReq .frameDec a p with rel := true, ord := ord }).upd (fun t => { t with phase := .sent, park := some .reply })) s) s) s

/-- The `LEAVE` that an `EXIT` of a standing thread makes first (R219). -/
def exitLeave (node : Word) (s : State) : State :=
  loggable 4 8 3 node.toNat (fun o => 3 ≤ o) false (fun ord s =>
    (s.rollSend .leave node none .none true ord).upd (fun t => { t with phase := .sent, park := some .reply })) s

/-- The `EXIT` rule (R96, R218, R219), from the phase its thread has reached. -/
def exitRule (s : State) : State :=
  match s.me.phase with
  | .sent => s.parkOn .reply
  | .failed k a => s.trap k a 4
  | .left _ => exitLink s
  | .done => exitDeque s false
  | .searched => exitDeque s true
  | _ => endWaitFor 4 (fun s => match s.me.stand with | some (n, _) => exitLeave n s | none => exitLink s) s

/-- R96. EXIT. -/
def execExit (s : State) : Out := .next (issue { len := 4, legal := slotOf s.cur != 15 } exitRule s)

/-- A register expected (R22, R97): parks while a fill is on its way; `g0` stays FULL and zero. -/
def expectReg (r : RegRef) (s : State) : State :=
  issue { len := 4, dsts := [r] } (fun s => s.done 4 (fun t => t.put r 0 .expecting)) s

/-- R97. EXPECT. -/
def execExpect (d : BitVec 6) (s : State) : Out := .next (expectReg (gRef d.toNat) s)
/-- R97. EXPECTM. -/
def execExpectm (d : BitVec 2) (s : State) : Out := .next (expectReg (mRef d.toNat) s)
/-- R97. EXPECTV. -/
def execExpectv (d : BitVec 4) (s : State) : Out := .next (expectReg (vRef d.toNat) s)
/-- R97. EXPECTC. -/
def execExpectc (d : BitVec 3) (s : State) : Out := .next (expectReg (cRef d.toNat) s)

/-- R92, R98. QSLOT: the number of free program slots. -/
def execQslot (d : BitVec 6) (s : State) : Out := .next (setImm 4 (fun _ => BitVec.ofNat 64 (s.freeSlots (coreOf s.cur)).length) d s)
/-- R92, R98. QDEQ: the number of entries of the hardware deque. -/
def execQdeq (d : BitVec 6) (s : State) : Out := .next (
  issue { len := 4, legal := !isMem (coreOf s.cur), dsts := [gRef d.toNat] }
    (fun s => s.done 4 (fun t => t.setG d (BitVec.ofNat 64 (s.core (coreOf s.cur)).deque.length))) s)
/-- R92, R98. QLINK: the join link. -/
def execQlink (d : BitVec 6) (s : State) : Out := .next (setImm 4 (fun t => t.link) d s)

end Sys2Proof.Machine
end

