-- ==== Sys2Proof/Machine/Vector.lean ====
section
/-!
DEFINITION. The vector unit (10 R187-R208): lane arithmetic, predicates, compares, vector memory, reductions, permutes, masks.
-/

namespace Sys2Proof.Machine

/-! ## Predicates and merging -/

/-- Whether a lane is active (R190). -/
def Thread.lanes (t : Thread) (k : BitVec 3) (i : Nat) : Bool := k == 0 || maskBit (t.kv k) i
/-- The value that an inactive lane keeps: a VOID destination counts as zero (R190). -/
def Thread.keep (t : Thread) {n : Nat} (d : BitVec n) : Vec := if (t.vReg d.toNat).st.empty then 0 else t.vv d
/-- The result of a predicated instruction (R190). -/
def blend (act : Nat → Bool) (z : BitVec 1) (keep : Vec) (f : Nat → BitVec 32) : Vec :=
  ofLanes (fun i => if act i then f i else if z = 1 then 0 else lane keep i)

/-- A short vector instruction: `f` gives each active lane from the thread's registers. -/
def vecOp (legal : Bool) (srcs : List RegRef) (f : Thread → Nat → BitVec 32) (k : BitVec 3) (z : BitVec 1) (d : BitVec 4)
    (s : State) : State :=
  issue { len := 4, legal := legal && predOk k z, srcs := srcs, dsts := [vRef d.toNat] }
    (fun s => s.done 4 (fun t => t.setV d (blend (t.lanes k) z (t.keep d) (f t)))) s

/-- `OP vd, va, vb` (R193). -/
def vec3 (f : BitVec 32 → BitVec 32 → BitVec 32) (b a : BitVec 4) (k : BitVec 3) (z : BitVec 1) (d : BitVec 4) (s : State) : State :=
  vecOp true [vRef a.toNat, vRef b.toNat] (fun t i => f (lane (t.vv a) i) (lane (t.vv b) i)) k z d s
/-- `OPS vd, va, g` (R193): g[31:0] in every lane. -/
def vec3s (f : BitVec 32 → BitVec 32 → BitVec 32) (g : BitVec 6) (a : BitVec 4) (k : BitVec 3) (z : BitVec 1) (d : BitVec 4)
    (s : State) : State :=
  vecOp true [vRef a.toNat, gRef g.toNat] (fun t i => f (lane (t.vv a) i) ((t.gv g).setWidth 32)) k z d s
/-- `OP vd, va` (R193). -/
def vec2 (f : BitVec 32 → BitVec 32) (a : BitVec 4) (k : BitVec 3) (z : BitVec 1) (d : BitVec 4) (s : State) : State :=
  vecOp true [vRef a.toNat] (fun t i => f (lane (t.vv a) i)) k z d s
/-- `OP vd, va, vb` with d as a source (R195). -/
def vec4 (f : BitVec 32 → BitVec 32 → BitVec 32 → BitVec 32) (b a : BitVec 4) (k : BitVec 3) (z : BitVec 1) (d : BitVec 4)
    (s : State) : State :=
  vecOp true [vRef d.toNat, vRef a.toNat, vRef b.toNat]
    (fun t i => f (lane (t.vv a) i) (lane (t.vv b) i) (lane (t.vv d) i)) k z d s
/-- `OPS vd, va, g` with d as a source (R195). -/
def vec4s (f : BitVec 32 → BitVec 32 → BitVec 32 → BitVec 32) (g : BitVec 6) (a : BitVec 4) (k : BitVec 3) (z : BitVec 1)
    (d : BitVec 4) (s : State) : State :=
  vecOp true [vRef d.toNat, vRef a.toNat, gRef g.toNat]
    (fun t i => f (lane (t.vv a) i) ((t.gv g).setWidth 32) (lane (t.vv d) i)) k z d s

/-! ## Lane results (R193-R195) -/

/-- The high 32 bits of a product, signed and unsigned. -/
def mulh32 (a b : BitVec 32) : BitVec 32 := BitVec.ofInt 32 (a.toInt * b.toInt / 2 ^ 32)
def mulhu32 (a b : BitVec 32) : BitVec 32 := BitVec.ofNat 32 (a.toNat * b.toNat / 2 ^ 32)
/-- Shifts by the low five bits. -/
def shl32 (a b : BitVec 32) : BitVec 32 := a <<< (b.toNat % 32)
def shr32 (a b : BitVec 32) : BitVec 32 := a >>> (b.toNat % 32)
def sar32 (a b : BitVec 32) : BitVec 32 := a.sshiftRight (b.toNat % 32)
/-- Saturating sums. -/
def addSat (a b : BitVec 32) : BitVec 32 := sat32 (a.toInt + b.toInt)
def subSat (a b : BitVec 32) : BitVec 32 := sat32 (a.toInt - b.toInt)
def absSat (a : BitVec 32) : BitVec 32 := sat32 a.toInt.natAbs
/-- The sign bit cleared or inverted (R194). -/
def fabs32 (a : BitVec 32) : BitVec 32 := a &&& 0x7FFFFFFF
def fneg32 (a : BitVec 32) : BitVec 32 := a ^^^ 0x80000000
/-- The dot product of four signed bytes (R195). -/
def dot4 (a b d : BitVec 32) : BitVec 32 :=
  d + BitVec.ofInt 32 (((List.range 4).map (fun j => (a.extractLsb' (8 * j) 8).toInt * (b.extractLsb' (8 * j) 8).toInt)).foldl (· + ·) 0)

/-- R193. VADD: a + b. -/
def execVadd (b a : BitVec 4) (k : BitVec 3) (z : BitVec 1) (d : BitVec 4) (s : State) : Out := .next (vec3 (fun a b => a + b) b a k z d s)
/-- R193. VSUB: a − b. -/
def execVsub (b a : BitVec 4) (k : BitVec 3) (z : BitVec 1) (d : BitVec 4) (s : State) : Out := .next (vec3 (fun a b => a - b) b a k z d s)
/-- R193. VMUL: a × b. -/
def execVmul (b a : BitVec 4) (k : BitVec 3) (z : BitVec 1) (d : BitVec 4) (s : State) : Out := .next (vec3 (fun a b => a * b) b a k z d s)
/-- R193. VMULH: high half, signed. -/
def execVmulh (b a : BitVec 4) (k : BitVec 3) (z : BitVec 1) (d : BitVec 4) (s : State) : Out := .next (vec3 (mulh32) b a k z d s)
/-- R193. VMULHU: high half, unsigned. -/
def execVmulhu (b a : BitVec 4) (k : BitVec 3) (z : BitVec 1) (d : BitVec 4) (s : State) : Out := .next (vec3 (mulhu32) b a k z d s)
/-- R193. VMIN: smaller, signed. -/
def execVmin (b a : BitVec 4) (k : BitVec 3) (z : BitVec 1) (d : BitVec 4) (s : State) : Out := .next (vec3 (minS) b a k z d s)
/-- R193. VMAX: larger, signed. -/
def execVmax (b a : BitVec 4) (k : BitVec 3) (z : BitVec 1) (d : BitVec 4) (s : State) : Out := .next (vec3 (maxS) b a k z d s)
/-- R193. VMINU: smaller, unsigned. -/
def execVminu (b a : BitVec 4) (k : BitVec 3) (z : BitVec 1) (d : BitVec 4) (s : State) : Out := .next (vec3 (minU) b a k z d s)
/-- R193. VMAXU: larger, unsigned. -/
def execVmaxu (b a : BitVec 4) (k : BitVec 3) (z : BitVec 1) (d : BitVec 4) (s : State) : Out := .next (vec3 (maxU) b a k z d s)
/-- R193. VAND: a AND b. -/
def execVand (b a : BitVec 4) (k : BitVec 3) (z : BitVec 1) (d : BitVec 4) (s : State) : Out := .next (vec3 (fun a b => a &&& b) b a k z d s)
/-- R193. VOR: a OR b. -/
def execVor (b a : BitVec 4) (k : BitVec 3) (z : BitVec 1) (d : BitVec 4) (s : State) : Out := .next (vec3 (fun a b => a ||| b) b a k z d s)
/-- R193. VXOR: a XOR b. -/
def execVxor (b a : BitVec 4) (k : BitVec 3) (z : BitVec 1) (d : BitVec 4) (s : State) : Out := .next (vec3 (fun a b => a ^^^ b) b a k z d s)
/-- R193. VANDN: a AND NOT b. -/
def execVandn (b a : BitVec 4) (k : BitVec 3) (z : BitVec 1) (d : BitVec 4) (s : State) : Out := .next (vec3 (fun a b => a &&& ~~~b) b a k z d s)
/-- R193. VSHL: a << b[4:0]. -/
def execVshl (b a : BitVec 4) (k : BitVec 3) (z : BitVec 1) (d : BitVec 4) (s : State) : Out := .next (vec3 (shl32) b a k z d s)
/-- R193. VSHR: a >> b[4:0]. -/
def execVshr (b a : BitVec 4) (k : BitVec 3) (z : BitVec 1) (d : BitVec 4) (s : State) : Out := .next (vec3 (shr32) b a k z d s)
/-- R193. VSAR: a >> b[4:0], arithmetic. -/
def execVsar (b a : BitVec 4) (k : BitVec 3) (z : BitVec 1) (d : BitVec 4) (s : State) : Out := .next (vec3 (sar32) b a k z d s)
/-- R193. VADDSAT: saturated sum. -/
def execVaddsat (b a : BitVec 4) (k : BitVec 3) (z : BitVec 1) (d : BitVec 4) (s : State) : Out := .next (vec3 (addSat) b a k z d s)
/-- R193. VSUBSAT: saturated difference. -/
def execVsubsat (b a : BitVec 4) (k : BitVec 3) (z : BitVec 1) (d : BitVec 4) (s : State) : Out := .next (vec3 (subSat) b a k z d s)
/-- R193. VFADD: RNE32(a + b). -/
def execVfadd (b a : BitVec 4) (k : BitVec 3) (z : BitVec 1) (d : BitVec 4) (s : State) : Out := .next (vec3 (add32) b a k z d s)
/-- R193. VFSUB: RNE32(a − b). -/
def execVfsub (b a : BitVec 4) (k : BitVec 3) (z : BitVec 1) (d : BitVec 4) (s : State) : Out := .next (vec3 (sub32) b a k z d s)
/-- R193. VFMUL: RNE32(a × b). -/
def execVfmul (b a : BitVec 4) (k : BitVec 3) (z : BitVec 1) (d : BitVec 4) (s : State) : Out := .next (vec3 (mul32) b a k z d s)
/-- R193. VFMIN: smaller by R104. -/
def execVfmin (b a : BitVec 4) (k : BitVec 3) (z : BitVec 1) (d : BitVec 4) (s : State) : Out := .next (vec3 (min32) b a k z d s)
/-- R193. VFMAX: larger by R104. -/
def execVfmax (b a : BitVec 4) (k : BitVec 3) (z : BitVec 1) (d : BitVec 4) (s : State) : Out := .next (vec3 (max32) b a k z d s)
/-- R193. VABS: |a|, saturated. -/
def execVabs (a : BitVec 4) (k : BitVec 3) (z : BitVec 1) (d : BitVec 4) (s : State) : Out := .next (vec2 (absSat) a k z d s)
/-- R193. VMOV: a. -/
def execVmov (a : BitVec 4) (k : BitVec 3) (z : BitVec 1) (d : BitVec 4) (s : State) : Out := .next (vec2 (id) a k z d s)
/-- R193. VFABS: bit 31 cleared. -/
def execVfabs (a : BitVec 4) (k : BitVec 3) (z : BitVec 1) (d : BitVec 4) (s : State) : Out := .next (vec2 (fabs32) a k z d s)
/-- R193. VFNEG: bit 31 inverted. -/
def execVfneg (a : BitVec 4) (k : BitVec 3) (z : BitVec 1) (d : BitVec 4) (s : State) : Out := .next (vec2 (fneg32) a k z d s)
/-- R193. VADDS: a + b, b = g[31:0]. -/
def execVadds (g : BitVec 6) (a : BitVec 4) (k : BitVec 3) (z : BitVec 1) (d : BitVec 4) (s : State) : Out := .next (vec3s (fun a b => a + b) g a k z d s)
/-- R193. VSUBS: a − b, b = g[31:0]. -/
def execVsubs (g : BitVec 6) (a : BitVec 4) (k : BitVec 3) (z : BitVec 1) (d : BitVec 4) (s : State) : Out := .next (vec3s (fun a b => a - b) g a k z d s)
/-- R193. VMULS: a × b, b = g[31:0]. -/
def execVmuls (g : BitVec 6) (a : BitVec 4) (k : BitVec 3) (z : BitVec 1) (d : BitVec 4) (s : State) : Out := .next (vec3s (fun a b => a * b) g a k z d s)
/-- R193. VMULHS: high half, signed, b = g[31:0]. -/
def execVmulhs (g : BitVec 6) (a : BitVec 4) (k : BitVec 3) (z : BitVec 1) (d : BitVec 4) (s : State) : Out := .next (vec3s (mulh32) g a k z d s)
/-- R193. VMULHUS: high half, unsigned, b = g[31:0]. -/
def execVmulhus (g : BitVec 6) (a : BitVec 4) (k : BitVec 3) (z : BitVec 1) (d : BitVec 4) (s : State) : Out := .next (vec3s (mulhu32) g a k z d s)
/-- R193. VMINS: smaller, signed, b = g[31:0]. -/
def execVmins (g : BitVec 6) (a : BitVec 4) (k : BitVec 3) (z : BitVec 1) (d : BitVec 4) (s : State) : Out := .next (vec3s (minS) g a k z d s)
/-- R193. VMAXS: larger, signed, b = g[31:0]. -/
def execVmaxs (g : BitVec 6) (a : BitVec 4) (k : BitVec 3) (z : BitVec 1) (d : BitVec 4) (s : State) : Out := .next (vec3s (maxS) g a k z d s)
/-- R193. VMINUS: smaller, unsigned, b = g[31:0]. -/
def execVminus (g : BitVec 6) (a : BitVec 4) (k : BitVec 3) (z : BitVec 1) (d : BitVec 4) (s : State) : Out := .next (vec3s (minU) g a k z d s)
/-- R193. VMAXUS: larger, unsigned, b = g[31:0]. -/
def execVmaxus (g : BitVec 6) (a : BitVec 4) (k : BitVec 3) (z : BitVec 1) (d : BitVec 4) (s : State) : Out := .next (vec3s (maxU) g a k z d s)
/-- R193. VANDS: a AND b, b = g[31:0]. -/
def execVands (g : BitVec 6) (a : BitVec 4) (k : BitVec 3) (z : BitVec 1) (d : BitVec 4) (s : State) : Out := .next (vec3s (fun a b => a &&& b) g a k z d s)
/-- R193. VORS: a OR b, b = g[31:0]. -/
def execVors (g : BitVec 6) (a : BitVec 4) (k : BitVec 3) (z : BitVec 1) (d : BitVec 4) (s : State) : Out := .next (vec3s (fun a b => a ||| b) g a k z d s)
/-- R193. VXORS: a XOR b, b = g[31:0]. -/
def execVxors (g : BitVec 6) (a : BitVec 4) (k : BitVec 3) (z : BitVec 1) (d : BitVec 4) (s : State) : Out := .next (vec3s (fun a b => a ^^^ b) g a k z d s)
/-- R193. VANDNS: a AND NOT b, b = g[31:0]. -/
def execVandns (g : BitVec 6) (a : BitVec 4) (k : BitVec 3) (z : BitVec 1) (d : BitVec 4) (s : State) : Out := .next (vec3s (fun a b => a &&& ~~~b) g a k z d s)
/-- R193. VSHLS: a << b[4:0], b = g[31:0]. -/
def execVshls (g : BitVec 6) (a : BitVec 4) (k : BitVec 3) (z : BitVec 1) (d : BitVec 4) (s : State) : Out := .next (vec3s (shl32) g a k z d s)
/-- R193. VSHRS: a >> b[4:0], b = g[31:0]. -/
def execVshrs (g : BitVec 6) (a : BitVec 4) (k : BitVec 3) (z : BitVec 1) (d : BitVec 4) (s : State) : Out := .next (vec3s (shr32) g a k z d s)
/-- R193. VSARS: a >> b[4:0], arithmetic, b = g[31:0]. -/
def execVsars (g : BitVec 6) (a : BitVec 4) (k : BitVec 3) (z : BitVec 1) (d : BitVec 4) (s : State) : Out := .next (vec3s (sar32) g a k z d s)
/-- R193. VADDSATS: saturated sum, b = g[31:0]. -/
def execVaddsats (g : BitVec 6) (a : BitVec 4) (k : BitVec 3) (z : BitVec 1) (d : BitVec 4) (s : State) : Out := .next (vec3s (addSat) g a k z d s)
/-- R193. VSUBSATS: saturated difference, b = g[31:0]. -/
def execVsubsats (g : BitVec 6) (a : BitVec 4) (k : BitVec 3) (z : BitVec 1) (d : BitVec 4) (s : State) : Out := .next (vec3s (subSat) g a k z d s)
/-- R193. VFADDS: RNE32(a + b), b = g[31:0]. -/
def execVfadds (g : BitVec 6) (a : BitVec 4) (k : BitVec 3) (z : BitVec 1) (d : BitVec 4) (s : State) : Out := .next (vec3s (add32) g a k z d s)
/-- R193. VFSUBS: RNE32(a − b), b = g[31:0]. -/
def execVfsubs (g : BitVec 6) (a : BitVec 4) (k : BitVec 3) (z : BitVec 1) (d : BitVec 4) (s : State) : Out := .next (vec3s (sub32) g a k z d s)
/-- R193. VFMULS: RNE32(a × b), b = g[31:0]. -/
def execVfmuls (g : BitVec 6) (a : BitVec 4) (k : BitVec 3) (z : BitVec 1) (d : BitVec 4) (s : State) : Out := .next (vec3s (mul32) g a k z d s)
/-- R193. VFMINS: smaller by R104, b = g[31:0]. -/
def execVfmins (g : BitVec 6) (a : BitVec 4) (k : BitVec 3) (z : BitVec 1) (d : BitVec 4) (s : State) : Out := .next (vec3s (min32) g a k z d s)
/-- R193. VFMAXS: larger by R104, b = g[31:0]. -/
def execVfmaxs (g : BitVec 6) (a : BitVec 4) (k : BitVec 3) (z : BitVec 1) (d : BitVec 4) (s : State) : Out := .next (vec3s (max32) g a k z d s)
/-- R195. VFMA: RNE32(a × b + d). -/
def execVfma (b a : BitVec 4) (k : BitVec 3) (z : BitVec 1) (d : BitVec 4) (s : State) : Out := .next (vec4 (fma32 false false) b a k z d s)
/-- R195. VFMS: RNE32(a × b − d). -/
def execVfms (b a : BitVec 4) (k : BitVec 3) (z : BitVec 1) (d : BitVec 4) (s : State) : Out := .next (vec4 (fma32 false true) b a k z d s)
/-- R195. VFNMA: RNE32(−(a × b) + d). -/
def execVfnma (b a : BitVec 4) (k : BitVec 3) (z : BitVec 1) (d : BitVec 4) (s : State) : Out := .next (vec4 (fma32 true false) b a k z d s)
/-- R195. VFNMS: RNE32(−(a × b) − d). -/
def execVfnms (b a : BitVec 4) (k : BitVec 3) (z : BitVec 1) (d : BitVec 4) (s : State) : Out := .next (vec4 (fma32 true true) b a k z d s)
/-- R195. VMAD: a × b + d. -/
def execVmad (b a : BitVec 4) (k : BitVec 3) (z : BitVec 1) (d : BitVec 4) (s : State) : Out := .next (vec4 (fun a b d => a * b + d) b a k z d s)
/-- R195. VDOT4I8: d + the dot product of bytes. -/
def execVdot4i8 (b a : BitVec 4) (k : BitVec 3) (z : BitVec 1) (d : BitVec 4) (s : State) : Out := .next (vec4 (dot4) b a k z d s)
/-- R195. VFMAS: RNE32(a × b + d), b = g[31:0]. -/
def execVfmas (g : BitVec 6) (a : BitVec 4) (k : BitVec 3) (z : BitVec 1) (d : BitVec 4) (s : State) : Out := .next (vec4s (fma32 false false) g a k z d s)
/-- R195. VFMSS: RNE32(a × b − d), b = g[31:0]. -/
def execVfmss (g : BitVec 6) (a : BitVec 4) (k : BitVec 3) (z : BitVec 1) (d : BitVec 4) (s : State) : Out := .next (vec4s (fma32 false true) g a k z d s)
/-- R195. VFNMAS: RNE32(−(a × b) + d), b = g[31:0]. -/
def execVfnmas (g : BitVec 6) (a : BitVec 4) (k : BitVec 3) (z : BitVec 1) (d : BitVec 4) (s : State) : Out := .next (vec4s (fma32 true false) g a k z d s)
/-- R195. VFNMSS: RNE32(−(a × b) − d), b = g[31:0]. -/
def execVfnmss (g : BitVec 6) (a : BitVec 4) (k : BitVec 3) (z : BitVec 1) (d : BitVec 4) (s : State) : Out := .next (vec4s (fma32 true true) g a k z d s)
/-- R195. VMADS: a × b + d, b = g[31:0]. -/
def execVmads (g : BitVec 6) (a : BitVec 4) (k : BitVec 3) (z : BitVec 1) (d : BitVec 4) (s : State) : Out := .next (vec4s (fun a b d => a * b + d) g a k z d s)
/-- R195. VDOT4I8S: d + the dot product of bytes, b = g[31:0]. -/
def execVdot4i8s (g : BitVec 6) (a : BitVec 4) (k : BitVec 3) (z : BitVec 1) (d : BitVec 4) (s : State) : Out := .next (vec4s (dot4) g a k z d s)

/-! ## Compares -/

/-- The conditions of VCMP (R196). -/
def vcmpHolds (c : Nat) (a b : BitVec 32) : Bool :=
  match c with
  | 0 => a == b
  | 1 => a != b
  | 2 => a.slt b
  | 3 => !a.slt b
  | 4 => a.ult b
  | 5 => !a.ult b
  | 8 => eqV (f32 a) (f32 b)
  | 9 => !eqV (f32 a) (f32 b)
  | 10 => ltV (f32 a) (f32 b)
  | 11 => ltV (f32 a) (f32 b) || eqV (f32 a) (f32 b)
  | _ => (f32 a).isNaN || (f32 b).isNaN

/-- A compare into a mask register (R190, R196). -/
def compare (srcs : List RegRef) (f : Thread → Nat → Bool) (c : BitVec 4) (k : BitVec 3) (z : BitVec 1) (d : BitVec 3) (s : State) : State :=
  issue { len := 4, legal := predOk k z && vcmpOk c, srcs := srcs }
    (fun s => s.done 4 (fun t => t.setK d (ofMask (fun i => if t.lanes k i then f t i else z != 1 && maskBit (t.kv d) i)))) s

/-- R196. VCMP. -/
def execVcmp (c b a : BitVec 4) (k : BitVec 3) (z : BitVec 1) (d : BitVec 3) (s : State) : Out := .next (
  compare [vRef a.toNat, vRef b.toNat] (fun t i => vcmpHolds c.toNat (lane (t.vv a) i) (lane (t.vv b) i)) c k z d s)
/-- R196. VCMPS. -/
def execVcmps (c : BitVec 4) (g : BitVec 6) (a : BitVec 4) (k : BitVec 3) (z : BitVec 1) (d : BitVec 3) (s : State) : Out := .next (
  compare [vRef a.toNat, gRef g.toNat] (fun t i => vcmpHolds c.toNat (lane (t.vv a) i) ((t.gv g).setWidth 32)) c k z d s)

/-! ## Vector memory -/

/-- Whether two addresses lie in one window (R198). -/
def sameWindow (a b : Nat) : Bool := (isGlobal a && isGlobal b) || a / 2 ^ 48 == b / 2 ^ 48

/-- The checks of the active lanes, in ascending order (R198). -/
def checkLanes (g : Word) (need : Rights → Bool) (l : List (Nat × Word)) (k : State → State) (s : State) : State :=
  match l with
  | [] => k s
  | (_, ea) :: r =>
    if !sameWindow g.toNat ea.toNat then s.trap cPROT ea 4
    else checkAddr ea 4 need 4 (fun _ s => checkLanes g need r k s) s

/-- The active lanes with their addresses. -/
def Thread.active (t : Thread) (k : BitVec 3) (f : Nat → Word) : List (Nat × Word) :=
  ((List.range 32).filter (t.lanes k)).map (fun i => (i, f i))

/-- Whether the core's data cache serves a word of a plain access at issue (R39). -/
def State.laneHit (s : State) (typ : BitVec 2) (load : Bool) (va : Nat) : Bool :=
  let core := coreOf s.cur
  let c := s.core core
  !s.busyWord va && !s.shortOpen && isGlobal va &&
    (if load then (c.loadLine va (s.typeAt core va typ) false).isSome else (c.storeLine va (s.typeAt core va typ)).isSome)

/-- A vector access of several words: each goes to its bank or home, or ends at the data cache that holds it (24 cycles, R46). A gather or scatter
in 0xF1 reaches its banks in the next cycle, and its reply stands 8 cycles behind its last word's service (R199). -/
def postLanes (r : Req) (gather : Bool) (s : State) : State :=
  memIssue r.cls (fun s =>
    let own := isShort1 r.va.toNat
    let r1 := if own then { r with back := some (if gather then 8 else 0), short := !gather } else r
    (s.postWords r1 (fun p => s.laneHit r.typ (r.cls == CountClass.loads) p.va)
      (fun _ p => if own then (if gather then 1 else 0) else match s.resolve s.cur p.va with | some q => halfUp (s.latency (coreOf s.cur) q) | none => 1)).advance 4) s

/-- A vector's lanes filled with the bytes read for them (R190, R191). -/
def fillLanes {α : Type} (l : List (Nat × α)) (bs : List (List Byte)) (keep : Vec) : Vec :=
  ofLanes (fun i => match (l.zip bs).find? (fun e => e.1.1 = i) with | some e => BitVec.ofNat 32 (bytesToNat e.2) | none => lane keep i)

/-- A vector load of the lanes at `f` (R197-R199). -/
def vecLoad (q : BitVec 2) (gather : Bool) (srcs : List RegRef) (f : Thread → Nat → Word) (g : BitVec 6) (k : BitVec 3) (z : BitVec 1)
    (d : BitVec 4) (s : State) : State :=
  issue { len := 4, legal := predOk k z, srcs := srcs, dsts := [vRef d.toNat] }
    (fun s =>
      let keep := if z = 1 then 0 else s.me.keep d
      let l := s.me.active k (f s.me)
      let vas := l.map (fun e => e.2.toNat)
      match l with
      | [] => s.done 4 (fun t => t.setV d keep)
      | (_, ea) :: _ =>
        checkLanes (s.me.gv g) Rights.r l (fun s =>
          if !gather && isShort1 ea.toNat && s.padFree vas then
            memIssue .none (fun s =>
              match (s.shortWords vas).readShort (vas.map (fun va => (va, 4))) with
              | (.error a, s1) => s1.done 4 (fun t => t.put (vRef d.toNat) a .errorMark)
              | (.ok bs, s1) => s1.done 4 (fun t => t.setV d (fillLanes l bs keep))) s
          else
            let p := (s.resolve s.cur ea.toNat).getD (.global 0)
            postLanes { id := 0, tid := 0, epoch := 0, op := .lanesLoad (l.map (fun e => (e.1, e.2.toNat))) keep, va := ea, place := p,
                        dst := some (vRef d.toNat), cls := .loads, typ := q } gather s) s) s

/-- A vector store of the lanes at `f` (R197-R199). -/
def vecStore (q : BitVec 2) (gather : Bool) (srcs : List RegRef) (f : Thread → Nat → Word) (g : BitVec 6) (k : BitVec 3) (z : BitVec 1)
    (d : BitVec 4) (s : State) : State :=
  issue { len := 4, legal := predOk k z, srcs := [vRef d.toNat] ++ srcs }
    (fun s =>
      let l := s.me.active k (f s.me)
      let vas := l.map (fun e => e.2.toNat)
      let data := s.me.vv d
      match l with
      | [] => s.advance 4
      | (_, ea) :: _ =>
        checkLanes (s.me.gv g) Rights.w l (fun s =>
          if !gather && isShort1 ea.toNat && s.padFree vas then
            memIssue .none (fun s => ((s.shortWords vas).writeShort (l.map (fun e => (e.2.toNat, natToBytes 4 (lane data e.1).toNat)))).advance 4) s
          else
            let p := (s.resolve s.cur ea.toNat).getD (.global 0)
            postLanes { id := 0, tid := 0, epoch := 0, op := .lanesStore (l.map (fun e => (e.1, e.2.toNat))) data, va := ea, place := p,
                        cls := .stores, typ := q } gather s) s) s

/-- R197, R198. VLD. -/
def execVld (q : BitVec 2) (g : BitVec 6) (k : BitVec 3) (z : BitVec 1) (d : BitVec 4) (s : State) : Out := .next (
  vecLoad q false [gRef g.toNat] (fun t i => t.gv g + BitVec.ofNat 64 (4 * i)) g k z d s)
/-- R197, R198. VST. -/
def execVst (q : BitVec 2) (g : BitVec 6) (k : BitVec 3) (z : BitVec 1) (d : BitVec 4) (s : State) : Out := .next (
  vecStore q false [gRef g.toNat] (fun t i => t.gv g + BitVec.ofNat 64 (4 * i)) g k z d s)
/-- R197-R199. VGATH. -/
def execVgath (q : BitVec 2) (g : BitVec 6) (a : BitVec 4) (k : BitVec 3) (z : BitVec 1) (d : BitVec 4) (s : State) : Out := .next (
  vecLoad q true [vRef a.toNat, gRef g.toNat] (fun t i => t.gv g + sext (lane (t.vv a) i)) g k z d s)
/-- R197-R199. VSCAT. -/
def execVscat (q : BitVec 2) (g : BitVec 6) (a : BitVec 4) (k : BitVec 3) (z : BitVec 1) (d : BitVec 4) (s : State) : Out := .next (
  vecStore q true [vRef a.toNat, gRef g.toNat] (fun t i => t.gv g + sext (lane (t.vv a) i)) g k z d s)

/-- The checks of a lane-slice access (R200): window 0xF0 with bits 47:12 zero, on a compute core; offsets below 4,096; 4-byte
alignment. -/
def checkSlices (g : Word) (l : List (Nat × Nat)) (k : State → State) (s : State) : State :=
  if isMem (coreOf s.cur) ∨ g.toNat / 2 ^ 12 ≠ 0xF0 * 2 ^ 36 then s.trap cPROT g 4
  else
    match l.find? (fun e => decide (4096 ≤ e.2) || e.2 % 4 != 0) with
    | some (_, o) =>
      let a := BitVec.ofNat 64 (0xF0 * 2 ^ 48 + o)
      if 4096 ≤ o then s.trap cPROT a 4 else s.trap cALIGN a 4
    | none => k s

/-- The active lanes with their offsets in their slices (R197). -/
def Thread.offsets (t : Thread) (g : BitVec 6) (k : BitVec 3) (f : Nat → Nat) : List (Nat × Nat) :=
  ((List.range 32).filter (t.lanes k)).map (fun i => (i, (t.gv g).toNat % 4096 + f i))

/-- A load from the lane slices (R200). -/
def sliceLoad (srcs : List RegRef) (f : Thread → Nat → Nat) (g : BitVec 6) (k : BitVec 3) (z : BitVec 1) (d : BitVec 4) (s : State) : State :=
  issue { len := 4, legal := predOk k z, srcs := srcs, dsts := [vRef d.toNat] }
    (fun s =>
      let c := coreOf s.cur
      let l := s.me.offsets g k (f s.me)
      checkSlices (s.me.gv g) l (fun s =>
        let s := l.foldl (fun (s : State) e => s.eccRead (laneKey c e.1 e.2) 4 (s.keyDetail s.cur)) s
        let keep := if z = 1 then 0 else s.me.keep d
        match l.find? (fun e => s.eccBad (laneKey c e.1 e.2) 4) with
        | some (_, o) => s.done 4 (fun t => t.put (vRef d.toNat) (0xF0 * 2 ^ 48 + o) .errorMark)
        | none => s.done 4 (fun t => t.setV d (fillLanes l (l.map (fun e => s.peek (laneKey c e.1 e.2) 4)) keep))) s) s

/-- A store to the lane slices (R200). -/
def sliceStore (srcs : List RegRef) (f : Thread → Nat → Nat) (g : BitVec 6) (k : BitVec 3) (z : BitVec 1) (d : BitVec 4) (s : State) : State :=
  issue { len := 4, legal := predOk k z, srcs := [vRef d.toNat] ++ srcs }
    (fun s =>
      let c := coreOf s.cur
      let l := s.me.offsets g k (f s.me)
      let data := s.me.vv d
      checkSlices (s.me.gv g) l (fun s =>
        (l.foldl (fun s e => s.putBytes (laneKey c e.1 e.2) (natToBytes 4 (lane data e.1).toNat)) s).advance 4) s) s

/-- R197, R200. VLDS. -/
def execVlds (g : BitVec 6) (k : BitVec 3) (z : BitVec 1) (d : BitVec 4) (s : State) : Out := .next (
  sliceLoad [gRef g.toNat] (fun _ _ => 0) g k z d s)
/-- R197, R200. VSTS. -/
def execVsts (g : BitVec 6) (k : BitVec 3) (z : BitVec 1) (d : BitVec 4) (s : State) : Out := .next (
  sliceStore [gRef g.toNat] (fun _ _ => 0) g k z d s)
/-- R197, R200. VLDSX. -/
def execVldsx (g : BitVec 6) (a : BitVec 4) (k : BitVec 3) (z : BitVec 1) (d : BitVec 4) (s : State) : Out := .next (
  sliceLoad [vRef a.toNat, gRef g.toNat] (fun t i => (lane (t.vv a) i).toNat) g k z d s)
/-- R197, R200. VSTSX. -/
def execVstsx (g : BitVec 6) (a : BitVec 4) (k : BitVec 3) (z : BitVec 1) (d : BitVec 4) (s : State) : Out := .next (
  sliceStore [vRef a.toNat, gRef g.toNat] (fun t i => (lane (t.vv a) i).toNat) g k z d s)

/-! ## Reductions -/

/-- One level of the reduction tree (R202). -/
def pairUp (op : BitVec 32 → BitVec 32 → BitVec 32) (l : List (BitVec 32)) : List (BitVec 32) :=
  match l with
  | a :: b :: r => op a b :: pairUp op r
  | l => l

/-- The fixed tree over 32 lanes (R202). -/
def tree (op : BitVec 32 → BitVec 32 → BitVec 32) (f : Nat → BitVec 32) : BitVec 32 :=
  (pairUp op (pairUp op (pairUp op (pairUp op (pairUp op ((List.range 32).map f)))))).headD 0

/-- A reduction into a general register (R201, R202). -/
def vecReduce (op : BitVec 32 → BitVec 32 → BitVec 32) (ident : BitVec 32) (signed : Bool) (g : BitVec 6) (a : BitVec 4) (k : BitVec 3)
    (s : State) : State :=
  issue { len := 4, srcs := [vRef a.toNat], dsts := [gRef g.toNat] }
    (fun s => s.done 4 (fun t =>
      let x := tree op (fun i => if t.lanes k i then lane (t.vv a) i else ident)
      t.setG g (if signed then sext x else zext x))) s

/-- R201, R202. VREDADD. -/
def execVredadd (g : BitVec 6) (a : BitVec 4) (k : BitVec 3) (s : State) : Out := .next (vecReduce (fun a b => a + b) 0 true g a k s)
/-- R201, R202. VREDMIN. -/
def execVredmin (g : BitVec 6) (a : BitVec 4) (k : BitVec 3) (s : State) : Out := .next (vecReduce (minS) 0x7FFFFFFF true g a k s)
/-- R201, R202. VREDMAX. -/
def execVredmax (g : BitVec 6) (a : BitVec 4) (k : BitVec 3) (s : State) : Out := .next (vecReduce (maxS) 0x80000000 true g a k s)
/-- R201, R202. VREDMINU. -/
def execVredminu (g : BitVec 6) (a : BitVec 4) (k : BitVec 3) (s : State) : Out := .next (vecReduce (minU) 0xFFFFFFFF false g a k s)
/-- R201, R202. VREDMAXU. -/
def execVredmaxu (g : BitVec 6) (a : BitVec 4) (k : BitVec 3) (s : State) : Out := .next (vecReduce (maxU) 0 false g a k s)
/-- R201, R202. VREDOR. -/
def execVredor (g : BitVec 6) (a : BitVec 4) (k : BitVec 3) (s : State) : Out := .next (vecReduce (fun a b => a ||| b) 0 false g a k s)
/-- R201, R202. VREDAND. -/
def execVredand (g : BitVec 6) (a : BitVec 4) (k : BitVec 3) (s : State) : Out := .next (vecReduce (fun a b => a &&& b) 0xFFFFFFFF false g a k s)
/-- R201, R202. VREDFADD. -/
def execVredfadd (g : BitVec 6) (a : BitVec 4) (k : BitVec 3) (s : State) : Out := .next (vecReduce (add32) 0x80000000 false g a k s)
/-- R201, R202. VREDFMIN. -/
def execVredfmin (g : BitVec 6) (a : BitVec 4) (k : BitVec 3) (s : State) : Out := .next (vecReduce (min32) 0x7F800000 false g a k s)
/-- R201, R202. VREDFMAX. -/
def execVredfmax (g : BitVec 6) (a : BitVec 4) (k : BitVec 3) (s : State) : Out := .next (vecReduce (max32) 0xFF800000 false g a k s)

/-! ## Broadcasts, permutes, masks -/

/-- R201. VBCAST: g[31:0] in every active lane. -/
def execVbcast (g : BitVec 6) (k : BitVec 3) (z : BitVec 1) (d : BitVec 4) (s : State) : Out := .next (
  vecOp true [gRef g.toNat] (fun t _ => (t.gv g).setWidth 32) k z d s)
/-- R201. VEXT: the lowest active lane of a. -/
def execVext (g : BitVec 6) (a : BitVec 4) (k : BitVec 3) (s : State) : Out := .next (
  issue { len := 4, srcs := [vRef a.toNat], dsts := [gRef g.toNat] }
    (fun s => s.done 4 (fun t => t.setG g (match (List.range 32).find? (t.lanes k) with | some i => zext (lane (t.vv a) i) | none => 0))) s)
/-- R201. VPERM: d[i] ← a[b[i][4:0]]. -/
def execVperm (b a : BitVec 4) (k : BitVec 3) (z : BitVec 1) (d : BitVec 4) (s : State) : Out := .next (
  vecOp true [vRef a.toNat, vRef b.toNat] (fun t i => lane (t.vv a) ((lane (t.vv b) i).toNat % 32)) k z d s)
/-- R201. VROTL: d[i] ← a[(i − g[4:0]) mod 32]. -/
def execVrotl (g : BitVec 6) (a : BitVec 4) (k : BitVec 3) (z : BitVec 1) (d : BitVec 4) (s : State) : Out := .next (
  vecOp true [vRef a.toNat, gRef g.toNat] (fun t i => lane (t.vv a) ((i + 32 - (t.gv g).toNat % 32) % 32)) k z d s)
/-- R201. VCOMP: the active lanes of a, packed; the other lanes are zero. -/
def execVcomp (a : BitVec 4) (k : BitVec 3) (d : BitVec 4) (s : State) : Out := .next (
  issue { len := 4, srcs := [vRef a.toNat], dsts := [vRef d.toNat] }
    (fun s => s.done 4 (fun t =>
      let l := ((List.range 32).filter (t.lanes k)).map (lane (t.vv a))
      t.setV d (ofLanes (fun i => l.getD i 0)))) s)
/-- R201. VIOTA: d[i] ← i. -/
def execViota (k : BitVec 3) (z : BitVec 1) (d : BitVec 4) (s : State) : Out := .next (vecOp true [] (fun _ i => BitVec.ofNat 32 i) k z d s)

/-- A mask instruction (R201). -/
def maskOp (f : Thread → BitVec 32) (srcs : List RegRef) (d : BitVec 3) (s : State) : State :=
  issue { len := 4, srcs := srcs } (fun s => s.done 4 (fun t => t.setK d (f t))) s

/-- R201. KAND. -/
def execKand (b a d : BitVec 3) (s : State) : Out := .next (maskOp (fun t => t.kv a &&& t.kv b) [] d s)
/-- R201. KOR. -/
def execKor (b a d : BitVec 3) (s : State) : Out := .next (maskOp (fun t => t.kv a ||| t.kv b) [] d s)
/-- R201. KXOR. -/
def execKxor (b a d : BitVec 3) (s : State) : Out := .next (maskOp (fun t => t.kv a ^^^ t.kv b) [] d s)
/-- R201. KANDN. -/
def execKandn (b a d : BitVec 3) (s : State) : Out := .next (maskOp (fun t => t.kv a &&& ~~~(t.kv b)) [] d s)
/-- R201. KNOT. -/
def execKnot (a d : BitVec 3) (s : State) : Out := .next (maskOp (fun t => ~~~(t.kv a)) [] d s)
/-- R201. KMOVG: kd ← ga[31:0]. -/
def execKmovg (a : BitVec 6) (d : BitVec 3) (s : State) : Out := .next (maskOp (fun t => (t.gv a).setWidth 32) [gRef a.toNat] d s)
/-- R201. KRD: gd ← the mask. -/
def execKrd (a : BitVec 3) (d : BitVec 6) (s : State) : Out := .next (setImm 4 (fun t => zext (t.kv a)) d s)
/-- R201. KPOPC: the number of one bits. -/
def execKpopc (a : BitVec 3) (d : BitVec 6) (s : State) : Out := .next (setImm 4 (fun t => BitVec.ofNat 64 (popc (t.kv a).toNat 32)) d s)
/-- R201. KFIRST: the lowest one bit, or 32. -/
def execKfirst (a : BitVec 3) (d : BitVec 6) (s : State) : Out := .next (setImm 4 (fun t => BitVec.ofNat 64 (lowestBit (t.kv a).toNat 32 0)) d s)

/-! ## Formats and the wing generator -/

/-- FP32 to an integer range; a NaN gives 0 (R204). -/
def toInt32 (lo hi : Int) (x : BitVec 32) : BitVec 32 := BitVec.ofInt 32 (toIntF .rne lo hi (f32 x)).1
/-- An integer to FP32 (R204). -/
def ofInt32 (x : Int) : BitVec 32 := BitVec.ofNat 32 (ofIntF fp32 .rne x).1

/-- R203, R204. VCVTFI. -/
def execVcvtfi (a : BitVec 4) (k : BitVec 3) (z : BitVec 1) (d : BitVec 4) (s : State) : Out := .next (vec2 (toInt32 (-2147483648) 2147483647) a k z d s)
/-- R203, R204. VCVTIF. -/
def execVcvtif (a : BitVec 4) (k : BitVec 3) (z : BitVec 1) (d : BitVec 4) (s : State) : Out := .next (vec2 (fun x => ofInt32 x.toInt) a k z d s)
/-- R203, R204. VCVTUF. -/
def execVcvtuf (a : BitVec 4) (k : BitVec 3) (z : BitVec 1) (d : BitVec 4) (s : State) : Out := .next (vec2 (fun x => ofInt32 x.toNat) a k z d s)
/-- R203, R204. VCVTFU. -/
def execVcvtfu (a : BitVec 4) (k : BitVec 3) (z : BitVec 1) (d : BitVec 4) (s : State) : Out := .next (vec2 (toInt32 0 4294967295) a k z d s)

/-- A vector with part `p` replaced by elements of `w` bits; the other bits stay (R205). -/
def packPart (w p : Nat) (old : Vec) (f : Nat → Option Nat) : Vec :=
  let base := 32 * w * p
  let part := bits old.toNat (base + 32 * w - 1) base
  let new := (List.range 32).foldl (fun n i => n + (match f i with | some v => v % 2 ^ w | none => bits part (w * i + w - 1) (w * i)) * 2 ^ (w * i)) 0
  BitVec.ofNat 1024 (old.toNat - part * 2 ^ base + new * 2 ^ base)

/-- R203, R205. VPACK: the lanes converted into part p of d; d is a source. -/
def execVpack (f : BitVec 3) (p a : BitVec 4) (k : BitVec 3) (z : BitVec 1) (d : BitVec 4) (s : State) : Out := .next (
  issue { len := 4, legal := predOk k z && packOk f p, srcs := [vRef d.toNat, vRef a.toNat], dsts := [vRef d.toNat] }
    (fun s => s.done 4 (fun t => t.setV d (packPart (fmtBits f.toNat) p.toNat (t.vv d) (fun i =>
      if t.lanes k i then some (narrow f.toNat (lane (t.vv a) i)) else if z = 1 then some 0 else none)))) s)
/-- R203, R205. VUNPK: the elements of part p of a, widened. -/
def execVunpk (f : BitVec 3) (p a : BitVec 4) (k : BitVec 3) (z : BitVec 1) (d : BitVec 4) (s : State) : Out := .next (
  vecOp (packOk f p) [vRef a.toNat]
    (fun t i => let w := fmtBits f.toNat; let o := 32 * w * p.toNat + w * i; widen f.toNat (bits (t.vv a).toNat (o + w - 1) o)) k z d s)

/-- The entry reads of a CB2 block, by index (R206). -/
def cbAddr (g : Word) (block : Vec) (q : Nat) : Word :=
  g + BitVec.ofNat 64 (4 * bits (lane block (q / 2)).toNat (16 * (q % 2) + 7) (16 * (q % 2)))

/-- The decode of one CB2 block (R206): the four entries are read whatever the predicate. -/
def decodeBlock (ints : Bool) (g : BitVec 6) (a : BitVec 4) (k : BitVec 3) (z : BitVec 1) (d : BitVec 4) (s : State) : State :=
  issue { len := 4, legal := predOk k z, srcs := [vRef a.toNat, gRef g.toNat], dsts := [vRef d.toNat] }
    (fun s =>
      let block := s.me.vv a
      let keep := if z = 1 then 0 else s.me.keep d
      let act := ofMask (s.me.lanes k)
      let l := (List.range 4).map (fun q => (q, cbAddr (s.me.gv g) block q))
      let vas := l.map (fun e => e.2.toNat)
      checkLanes (s.me.gv g) Rights.r l (fun s =>
        if isShort1 (s.me.gv g).toNat && s.padFree vas then
          memIssue .none (fun s =>
            match (s.shortWords vas).readShort (vas.map (fun va => (va, 4))) with
            | (.error e, s1) => s1.done 4 (fun t => t.put (vRef d.toNat) e .errorMark)
            | (.ok bs, s1) => s1.done 4 (fun t => t.setV d (cb2Block block (bs.map bytesToNat) ints act keep))) s
        else
          let p := (s.resolve s.cur (vas.headD 0)).getD (.global 0)
          postLanes { id := 0, tid := 0, epoch := 0, op := .codebook block ints act keep, va := s.me.gv g, place := p,
                      dst := some (vRef d.toNat), cls := .loads } false s) s) s

/-- R206. VCBD. -/
def execVcbd (g : BitVec 6) (a : BitVec 4) (k : BitVec 3) (z : BitVec 1) (d : BitVec 4) (s : State) : Out := .next (decodeBlock false g a k z d s)
/-- R206. VCBDI. -/
def execVcbdi (g : BitVec 6) (a : BitVec 4) (k : BitVec 3) (z : BitVec 1) (d : BitVec 4) (s : State) : Out := .next (decodeBlock true g a k z d s)

/-- R207. WING: key a, counter b. -/
def execWing (b a d : BitVec 6) (s : State) : Out := .next (alu3 (fun a b => zext (wing32 (a.setWidth 32) (b.setWidth 32))) b a d s)
/-- R207. VWING: key g, a counter in each lane. -/
def execVwing (g : BitVec 6) (a : BitVec 4) (k : BitVec 3) (z : BitVec 1) (d : BitVec 4) (s : State) : Out := .next (
  vec3s (fun a g => wing32 g a) g a k z d s)

end Sys2Proof.Machine
end

