-- ==== Sys2Proof/Machine/Traversal.lean ====
section
/-!
DEFINITION. Query sets, roll call, SPLIT and the query instructions (11 R209-R226).
-/

namespace Sys2Proof.Machine

/-! ## Membership registers (R212) -/

/-- A membership instruction with a membership result. -/
def setOp (f : Thread → MSet) (srcs : List RegRef) (d : BitVec 2) (s : State) : State :=
  issue { len := 4, srcs := srcs, dsts := [mRef d.toNat] } (fun s => s.done 4 (fun t => t.setM d (f t))) s
/-- A membership instruction with a general result. -/
def setGet (f : Thread → Nat) (srcs : List RegRef) (d : BitVec 6) (s : State) : State :=
  issue { len := 4, srcs := srcs, dsts := [gRef d.toNat] } (fun s => s.done 4 (fun t => t.setG d (BitVec.ofNat 64 (f t)))) s

/-- R212. MAND: ma ∩ mb. -/
def execMand (b a d : BitVec 2) (s : State) : Out := .next (setOp (fun t => t.mv a &&& t.mv b) [mRef a.toNat, mRef b.toNat] d s)
/-- R212. MOR: ma ∪ mb. -/
def execMor (b a d : BitVec 2) (s : State) : Out := .next (setOp (fun t => t.mv a ||| t.mv b) [mRef a.toNat, mRef b.toNat] d s)
/-- R212. MXOR: ma XOR mb. -/
def execMxor (b a d : BitVec 2) (s : State) : Out := .next (setOp (fun t => t.mv a ^^^ t.mv b) [mRef a.toNat, mRef b.toNat] d s)
/-- R212. MANDN: ma ∖ mb. -/
def execMandn (b a d : BitVec 2) (s : State) : Out := .next (setOp (fun t => t.mv a &&& ~~~(t.mv b)) [mRef a.toNat, mRef b.toNat] d s)
/-- R212. MNOT: the complement of ma. -/
def execMnot (a d : BitVec 2) (s : State) : Out := .next (setOp (fun t => ~~~(t.mv a)) [mRef a.toNat] d s)
/-- R212. MMOV. -/
def execMmov (a d : BitVec 2) (s : State) : Out := .next (setOp (fun t => t.mv a) [mRef a.toNat] d s)
/-- R212. MCLR: the empty set. -/
def execMclr (d : BitVec 2) (s : State) : Out := .next (setOp (fun _ => 0) [] d s)
/-- R212. MFILL: the queries below min(ga, 1,024). -/
def execMfill (a : BitVec 6) (d : BitVec 2) (s : State) : Out := .next (
  setOp (fun t => BitVec.ofNat 1024 (2 ^ min (t.gv a).toNat 1024 - 1)) [gRef a.toNat] d s)
/-- R212. MBSET: md with the query ga, if it is below 1,024. -/
def execMbset (a : BitVec 6) (d : BitVec 2) (s : State) : Out := .next (
  setOp (fun t => if (t.gv a).toNat < 1024 then t.mv d ||| BitVec.ofNat 1024 (2 ^ (t.gv a).toNat) else t.mv d) [mRef d.toNat, gRef a.toNat] d s)
/-- R212. MBCLR: md without the query ga. -/
def execMbclr (a : BitVec 6) (d : BitVec 2) (s : State) : Out := .next (
  setOp (fun t => if (t.gv a).toNat < 1024 then t.mv d &&& ~~~(BitVec.ofNat 1024 (2 ^ (t.gv a).toNat)) else t.mv d) [mRef d.toNat, gRef a.toNat] d s)
/-- R212. MBTST: whether gb is a member of ma. -/
def execMbtst (b : BitVec 6) (a : BitVec 2) (d : BitVec 6) (s : State) : Out := .next (
  setGet (fun t => if (t.gv b).toNat < 1024 && (t.mv a).getLsbD (t.gv b).toNat then 1 else 0) [mRef a.toNat, gRef b.toNat] d s)
/-- R212. MPOPC: the size of ma. -/
def execMpopc (a : BitVec 2) (d : BitVec 6) (s : State) : Out := .next (setGet (fun t => popc (t.mv a).toNat 1024) [mRef a.toNat] d s)
/-- R212. MFIRST: the lowest member, or 1,024. -/
def execMfirst (a : BitVec 2) (d : BitVec 6) (s : State) : Out := .next (setGet (fun t => lowestBit (t.mv a).toNat 1024 0) [mRef a.toNat] d s)
/-- R212. MNEXT: the lowest member above gb, or 1,024. -/
def execMnext (b : BitVec 6) (a : BitVec 2) (d : BitVec 6) (s : State) : Out := .next (
  setGet (fun t => lowestBit (t.mv a).toNat 1024 ((t.gv b).toNat + 1)) [mRef a.toNat, gRef b.toNat] d s)
/-- R212. MGETW: a doubleword of ma. -/
def execMgetw (b : BitVec 6) (a : BitVec 2) (d : BitVec 6) (s : State) : Out := .next (
  setGet (fun t => (dword (t.mv a) ((t.gv b).toNat % 16)).toNat) [mRef a.toNat, gRef b.toNat] d s)
/-- R212. MPUTW: a doubleword of md replaced by ga. -/
def execMputw (b a : BitVec 6) (d : BitVec 2) (s : State) : Out := .next (
  setOp (fun t => ofDwords (fun i => if i = (t.gv b).toNat % 16 then t.gv a else dword (t.mv d) i)) [mRef d.toNat, gRef a.toNat, gRef b.toNat] d s)

/-! ## MLD and MST (R213) -/

/-- The sixteen words of a set image. -/
def imageWords (va : Word) : List Nat := (List.range 16).map (fun i => va.toNat + 8 * i)

/-- The checks of a set image: its first and its last word. -/
def checkImage (va : Word) (need : Rights → Bool) (k : Place → State → State) (s : State) : State :=
  checkAddr va 8 need 4 (fun p s => checkAddr (va + 120) 8 need 4 (fun _ s => k p s) s) s

/-- R212, R213. MLD: md ← the set image at ga. -/
def execMld (a : BitVec 6) (d : BitVec 2) (s : State) : Out := .next (
  issue { len := 4, srcs := [gRef a.toNat], dsts := [mRef d.toNat] }
    (fun s =>
      let va := s.me.gv a
      let vas := imageWords va
      checkImage va Rights.r (fun p s =>
        if isShort1 va.toNat && s.padFree vas then
          memIssue .none (fun s =>
            match (s.shortWords vas).readShort (vas.map (fun v => (v, 8))) with
            | (.error e, s1) => s1.done 4 (fun t => t.put (mRef d.toNat) e .errorMark)
            | (.ok bs, s1) => s1.done 4 (fun t => t.setM d (BitVec.ofNat 1024 (bytesToNat bs.flatten)))) s
        else
          postLanes { id := 0, tid := 0, epoch := 0, op := .setLoad, va := va, place := p, dst := some (mRef d.toNat), cls := .loads } false s) s) s)

/-- R212, R213. MST: the set image at ga ← mb. -/
def execMst (b : BitVec 2) (a : BitVec 6) (s : State) : Out := .next (
  issue { len := 4, srcs := [gRef a.toNat, mRef b.toNat] }
    (fun s =>
      let va := s.me.gv a
      let vas := imageWords va
      let v := s.me.mv b
      checkImage va Rights.w (fun p s =>
        if isShort1 va.toNat && s.padFree vas then
          memIssue .none (fun s =>
            ((s.shortWords vas).writeShort ((List.range 16).map (fun i => (va.toNat + 8 * i, natToBytes 8 (dword v i).toNat)))).advance 4) s
        else
          postLanes { id := 0, tid := 0, epoch := 0, op := .setStore v, va := va, place := p, cls := .stores } false s) s) s)

/-! ## Roll call (R214-R219) -/

/-- Where TRAV is legal: on program slots of compute cores (R214). -/
def State.travOk (s : State) : Bool := slotOf s.cur != 15 && !isMem (coreOf s.cur)

/-- R217. STAND: the thread stands at a node with its set; gd says whether it keeps the node. -/
def execStand (b : BitVec 2) (a d : BitVec 6) (s : State) : Out := .next (
  issue { len := 4, legal := s.travOk && s.me.stand.isNone, srcs := [gRef a.toNat, mRef b.toNat], dsts := [gRef d.toNat] }
    (fun s =>
      let n := s.me.gv a
      let set := s.me.mv b
      if n.toNat / 2 ^ 56 ≠ 0 then s.trap cPROT n 4
      else if n.toNat % 8 ≠ 0 then s.trap cALIGN n 4
      else if s.me.loads ≥ Config.maxOutstanding then s.parkOn .count
      else
        loggable 4 8 0 n.toNat (fun o => o ≤ 2) false (fun ord s =>
          (s.rollSend (.stand set) n (some (gRef d.toNat)) .loads false ord).done 4 (fun t =>
            { ((t.countUp .loads).pendReg (gRef d.toNat)).pendReg (mRef b.toNat) with stand := some (n, b.toNat) })) s) s)

/-- R218. LEAVE: a closed entry's set fills the stand register; a displaced thread ends by the EXIT rule. -/
def execLeave (a : BitVec 6) (s : State) : Out := .next (
  issue { len := 4, legal := s.travOk, srcs := [gRef a.toNat] }
    (fun s =>
      match s.me.phase with
      | .idle =>
        match s.me.stand with
        | some (n, _) =>
          if n = s.me.gv a then
            loggable 4 8 3 n.toNat (fun o => 3 ≤ o) false (fun ord s =>
              (s.rollSend .leave n none .none false ord).upd (fun t => { t with phase := .sent, park := some .reply })) s
          else s.illegal 4
        | none => s.illegal 4
      | .left _ => endWaitFor 4 exitLink s
      | _ => exitRule s) s)

/-! ## SPLIT (R225) -/

/-- The general registers that `SPLIT` passes: copies of g1 to g13; a VOID register passes as VOID. -/
def Thread.passed (t : Thread) : Tbl (Reg 64) := t.g.filter (fun e => decide (1 ≤ e.1) && decide (e.1 ≤ 13) && decide (e.2.st = .full))

/-- The new thread of a `SPLIT`, as an entry. -/
def State.splitEntry (s : State) (r : Nat) (part : MSet) (label : Word) : DequeEntry :=
  { pc := label, frame := 0, lti := s.me.lti, isSplit := true, slot := slotOf s.cur, launch := s.me.launch, regs := s.me.passed,
    msReg := r, ms := part, ord := (s.ordOf s.cur + 2 ^ 16 - 1) % 2 ^ 16, core := coreOf s.cur }

/-- A new thread put into a slot; it issues at the slot's first owned cycle at least 8 cycles on (R225). -/
def State.splitInto (s : State) (slot : Nat) (e : DequeEntry) : State :=
  let t := coreOf s.cur * 16 + slot
  (s.startEntry t e s.me.part s.me.ctx).updThread t (fun x => { x with lastIssue := some s.now, ownCycle := true })

/-- The placement of a `SPLIT` outside REPLAY: the lowest free slot, else the deque; its record (R394). -/
def splitPlace (mk : State → DequeEntry) (k : State → State) (s : State) : State :=
  let c := coreOf s.cur
  let free := (s.openSlots c).head?
  if free.isNone && s.dequeFull c then s.dequeRestart c
  else
    loggable 4 0x0A 0 (s.nameOf c) (fun _ => true) false (fun ord s =>
      let s1 := s.note s.cur 0x0A 0 (ord.getD 0) (free.getD 15) (s.nameOf c)
      let e := mk s1
      match free with
      | some i => (k s1).splitInto i e
      | none => (k s1).push e) s

/-- The placement that the roll names at REPLAY (R226): the slot, held until it is free, or the deque. -/
def splitReplay (mk : State → DequeEntry) (k : State → State) (s : State) : State :=
  let c := coreOf s.cur
  let val := match (s.ctx s.me.ctx).roll.cursor (s.actorOf s.cur) with | some (_, r) => recVal r % 16 | none => 15
  if val = 15 && s.dequeFull c then s.dequeRestart c
  else
    loggable 4 0x0A 0 (s.nameOf c) (fun _ => true) false (fun ord s1 =>
      match s1.turnOf s1.me.ctx 0x0A (s1.nameOf c) (s1.actorOf s1.cur) ord with
      | .mine i r =>
        let s2 := s1.unqueue s1.me.ctx i
        let e := mk s2
        let slot := recVal r % 16
        if slot = 15 then (k s2).push e
        else if (s2.freeSlots c).contains slot then (k s2).splitInto slot e
        else (k s2).updCore c (fun x => { x with held := x.held ++ [(slot, e)] })
      | _ => s.parkOn .roll) s

/-- R225. SPLIT: the members of ms that are in mt go to a new thread at the label. -/
def execSplit (r q : BitVec 2) (i : BitVec 14) (s : State) : Out := .next (
  issue { len := 4, legal := s.travOk && s.me.stand.isNone, srcs := [mRef r.toNat, mRef q.toNat] }
    (fun s =>
      let label := s.me.rel i
      checkTarget label 4 (fun s =>
        let part := s.me.mv r &&& s.me.mv q
        let rest := s.me.mv r &&& ~~~(s.me.mv q)
        if part = 0 then s.advance 4
        else
          match (List.range 13).find? (fun j => (s.me.gReg (j + 1)).st.waits) with
          | some j => s.parkOn (.reg (gRef (j + 1)))
          | none =>
            let mk : State → DequeEntry := fun s => s.splitEntry r.toNat part label
            let k : State → State := fun s => s.done 4 (fun t => t.setM r rest)
            if s.replaying s.me.ctx then splitReplay mk k s else splitPlace mk k s) s) s)

/-! ## Query records (R210, R211, R223, R224) -/

/-- The record size that QREC names, in bytes (R210). -/
def Thread.recSize (t : Thread) : Nat := bits t.qrec.toNat 8 4 * 16

/-- Whether the executing core reaches the school's records (R211 check 5). -/
def State.recReach (s : State) : Bool :=
  match s.me.launch with
  | none => true
  | some n =>
    match tfind s.launches n, s.partOf s.cur with
    | some l, some p =>
      let nw := coordOf l.col0 l.row0
      let c := coreOf s.cur
      match windowOf s.me.qbase.toNat with
      | 0xF2 => (clusterOf (s.nameOf c)).contains nw
      | 0xF3 => dieOf (p.phys nw) == dieOf c
      | _ => true
    | _, _ => true

/-- The checks of R211 for a field of a width; `k` gets the address of the field in record 0. -/
def checkRecords (w : BitVec 6) (width : Nat) (k : Word → State → State) (s : State) : State :=
  let b := s.me.qbase
  let size := s.me.recSize
  let win := windowOf b.toNat
  let f := b + BitVec.ofNat 64 (4 * w.toNat)
  if size = 0 ∨ 256 < size then s.trap cPROT b 4
  else if b.toNat / 2 ^ 56 ≠ 0 ∨ (win ≠ 0xF2 ∧ win ≠ 0xF3 ∧ win ≠ 0xF5) then s.trap cPROT b 4
  else if b.toNat % 16 ≠ 0 then s.trap cALIGN b 4
  else if (s.resolve s.cur b.toNat).isNone ∨ (s.resolve s.cur (b.toNat + 1024 * size - 1)).isNone then s.trap cPROT b 4
  else if !s.recReach then s.trap cPROT b 4
  else if 4 * w.toNat + width > size then s.trap cPROT f 4
  else k f s

/-- The field of record ga (R224). -/
def queryField (w a : BitVec 6) (n : Nat) (k : Place → Word → State → State) (s : State) : State :=
  let q := (s.me.gv a).toNat
  if 1024 ≤ q then s.trap cPROT (s.me.gv a) 4
  else
    checkRecords w n (fun f s =>
      let va := f + BitVec.ofNat 64 (q * s.me.recSize)
      if va.toNat % n ≠ 0 then s.trap cALIGN va 4
      else match s.resolve s.cur va.toNat with
        | some p => k p va s
        | none => s.trap cPROT va 4) s

/-- A load of a query field (R224). -/
def queryLoad (n : Nat) (w a d : BitVec 6) (s : State) : State :=
  issue { len := 4, legal := s.travOk, srcs := [gRef a.toNat], dsts := [gRef d.toNat] }
    (fun s => queryField w a n (fun p va s => loadAt 4 p va n false 0 false false 4 (gRef d.toNat) s) s) s
/-- A store to a query field (R224). -/
def queryStore (n : Nat) (b a w : BitVec 6) (s : State) : State :=
  issue { len := 4, legal := s.travOk, srcs := [gRef a.toNat, gRef b.toNat] }
    (fun s => queryField w a n (fun p va s => storeAt 4 p va n (s.me.gv b) 0 false false 4 s) s) s

/-- R224. QLD. -/
def execQld (w a d : BitVec 6) (s : State) : Out := .next (queryLoad 4 w a d s)
/-- R224. QLDD. -/
def execQldd (w a d : BitVec 6) (s : State) : Out := .next (queryLoad 8 w a d s)
/-- R224. QST. -/
def execQst (b a w : BitVec 6) (s : State) : Out := .next (queryStore 4 b a w s)
/-- R224. QSTD. -/
def execQstd (b a w : BitVec 6) (s : State) : Out := .next (queryStore 8 b a w s)

/-- The time L of a query evaluation by the window of its records (R223). -/
def State.queryTime (s : State) (p : Place) : Nat :=
  match p with
  | .die d _ => if d = dieOf (coreOf s.cur) then Config.ownDie else Config.homeElsewhere
  | _ => Config.ownCluster

/-- R223. QEVAL: the members of ma whose field passes the condition against gb[31:0]; the core's one evaluator reads for one instruction after the
other. -/
def execQeval (c : BitVec 4) (b : BitVec 6) (a d : BitVec 2) (w : BitVec 6) (s : State) : Out := .next (
  issue { len := 4, legal := s.travOk && qevalOk c, srcs := [mRef a.toNat, gRef b.toNat], dsts := [mRef d.toNat] }
    (fun s =>
      let set := s.me.mv a
      let v : BitVec 32 := (s.me.gv b).setWidth 32
      checkRecords w 4 (fun f s =>
        let size := s.me.recSize
        match s.resolve s.cur f.toNat with
        | none => s.trap cPROT f 4
        | some p =>
          let r : Req := { id := 0, tid := 0, epoch := 0, op := .eval c set v size, va := f, place := p, dst := some (mRef d.toNat), cls := .loads }
          memIssue .loads (fun s =>
            let n := s.queryTime p
            let c := coreOf s.cur
            let wait := (s.core c).evalAt - s.now
            let s1 := s.updCore c (fun x => { x with evalAt := s.now + wait + ((s.wordsOf r).length + 7) / 8 })
            (s1.postWords { r with back := some (n - halfUp n) } (fun _ => false) (fun i _ => halfUp n + wait + i / 8 + 1)).advance 4) s) s) s)

end Sys2Proof.Machine
end

