-- ==== Sys2Proof/Machine/Versioned.lean ====
section
/-!
DEFINITION. Versioned words and accumulate ranges (06 R128-R132; 08).
-/

namespace Sys2Proof.Machine

/-- The checks of an address that only the global window admits (R129, R132): PROT, ALIGN, rights. -/
def checkGlobal (va : Word) (size : Nat) (need : Rights → Bool) (k : Place → State → State) (s : State) : State :=
  if !isGlobal va.toNat then s.trap cPROT va 4 else checkAddr va size need 4 k s

/-- A versioned operation (R129): long, with a destination and a version context. -/
def verPost (op : MemOp) (va : Word) (p : Place) (dst : RegRef) (k : BitVec 3) (ctx : VCtx) (s : State) : State :=
  memIssue .loads (postAccess 4 { id := 0, tid := 0, epoch := 0, op := op, va := va, place := p, dst := some dst, ctxReg := some k.toNat,
                                  vctx := ctx, cls := .loads }) s

/-- R129. LDV: d ← the number of siblings, cK ← a context that observes them. -/
def execLdv (k : BitVec 3) (a d : BitVec 6) (s : State) : Out := .next (
  issue { len := 4, srcs := [gRef a.toNat], dsts := [gRef d.toNat, cRef k.toNat] }
    (fun s => checkGlobal (s.me.gv a) 8 Rights.r (fun p s => verPost .ldv (s.me.gv a) p (gRef d.toNat) k 0 s) s) s)

/-- R129. LDVV: the values of the siblings go to a vector register. -/
def execLdvv (k : BitVec 3) (a : BitVec 6) (d : BitVec 4) (s : State) : Out := .next (
  issue { len := 4, srcs := [gRef a.toNat], dsts := [vRef d.toNat, cRef k.toNat] }
    (fun s => checkGlobal (s.me.gv a) 8 Rights.r (fun p s => verPost .ldvv (s.me.gv a) p (vRef d.toNat) k 0 s) s) s)

/-- R130. STV: b replaces the siblings that cK observes. -/
def execStv (k : BitVec 3) (b a d : BitVec 6) (s : State) : Out := .next (
  issue { len := 4, srcs := [gRef a.toNat, gRef b.toNat, cRef k.toNat], dsts := [gRef d.toNat] }
    (fun s => checkGlobal (s.me.gv a) 8 Rights.a
      (fun p s => verPost (.stv (s.me.gv b)) (s.me.gv a) p (gRef d.toNat) k (s.me.cv k) s) s) s)

/-- R129. CVCLR: cK observes nothing. -/
def execCvclr (k : BitVec 3) (s : State) : Out := .next (
  issue { len := 4, dsts := [cRef k.toNat] } (fun s => s.done 4 (fun t => t.setC k 0)) s)

/-- A reconciliation without an operand, op 0 to 6 (R131), with the context that cK holds (R163). -/
def recon (op : Nat) (k : BitVec 3) (a d : BitVec 6) (s : State) : State :=
  issue { len := 4, srcs := [gRef a.toNat, cRef k.toNat], dsts := [gRef d.toNat, cRef k.toNat] }
    (fun s => checkGlobal (s.me.gv a) 8 Rights.a (fun p s => verPost (.recon op 0) (s.me.gv a) p (gRef d.toNat) k (s.me.cv k) s) s) s

/-- R131. RECON.MIN. -/
def execReconMin (k : BitVec 3) (a d : BitVec 6) (s : State) : Out := .next (recon 0 k a d s)
/-- R131. RECON.MAX. -/
def execReconMax (k : BitVec 3) (a d : BitVec 6) (s : State) : Out := .next (recon 1 k a d s)
/-- R131. RECON.ADD. -/
def execReconAdd (k : BitVec 3) (a d : BitVec 6) (s : State) : Out := .next (recon 2 k a d s)
/-- R131. RECON.OR. -/
def execReconOr (k : BitVec 3) (a d : BitVec 6) (s : State) : Out := .next (recon 3 k a d s)
/-- R131. RECON.AND. -/
def execReconAnd (k : BitVec 3) (a d : BitVec 6) (s : State) : Out := .next (recon 4 k a d s)
/-- R131. RECON.LOWEST. -/
def execReconLowest (k : BitVec 3) (a d : BitVec 6) (s : State) : Out := .next (recon 5 k a d s)
/-- R131. RECON.HIGHEST. -/
def execReconHighest (k : BitVec 3) (a d : BitVec 6) (s : State) : Out := .next (recon 6 k a d s)
/-- R131. RECON.VALUE: the word takes b. -/
def execReconValue (k : BitVec 3) (b a d : BitVec 6) (s : State) : Out := .next (
  issue { len := 4, srcs := [gRef a.toNat, gRef b.toNat, cRef k.toNat], dsts := [gRef d.toNat, cRef k.toNat] }
    (fun s => checkGlobal (s.me.gv a) 8 Rights.a
      (fun p s => verPost (.recon 7 (s.me.gv b)) (s.me.gv a) p (gRef d.toNat) k (s.me.cv k) s) s) s)

/-- A fold into the issuing core's partial copy (R132, R168): ILLEGAL in slot 15 and on a memory core. -/
def reduce (wide : Bool) (b a : BitVec 6) (s : State) : State :=
  issue { len := 4, legal := slotOf s.cur != 15 && !isMem (coreOf s.cur), srcs := [gRef a.toNat, gRef b.toNat] }
    (fun s => checkGlobal (s.me.gv a) (amoSize wide) Rights.w (fun p s =>
      memIssue .stores (postAccess 4 { id := 0, tid := 0, epoch := 0, op := .red wide (s.me.gv b), va := s.me.gv a, place := p,
                                       cls := .stores }) s) s) s

/-- R132. RED.W. -/
def execRedW (b a : BitVec 6) (s : State) : Out := .next (reduce false b a s)
/-- R132. RED.D. -/
def execRedD (b a : BitVec 6) (s : State) : Out := .next (reduce true b a s)

end Sys2Proof.Machine
end

