-- ==== Sys2Proof/Machine/Dispatch.lean ====
section
/-!
DEFINITION. The dispatch: one arm for each constructor of Instr, each one direct call of its meaning.
-/

namespace Sys2Proof.Machine

def exec (i : Instr) (s : State) : Host.Outcome State Fault Refusal :=
  match i with
  | .lentCycle core => Sys2Proof.Machine.execLentCycle core s
  | .fillLands id => Sys2Proof.Machine.execFillLands id s
  | .errorResponse id => Sys2Proof.Machine.execErrorResponse id s
  | .storeAck id => Sys2Proof.Machine.execStoreAck id s
  | .dividerFill tid epoch reg value => Sys2Proof.Machine.execDividerFill tid epoch reg value s
  | .faultNotice id => Sys2Proof.Machine.execFaultNotice id s
  | .faultWakeRejoin tid => Sys2Proof.Machine.execFaultWakeRejoin tid s
  | .dequeTake core => Sys2Proof.Machine.execDequeTake core s
  | .stealAttempt core => Sys2Proof.Machine.execStealAttempt core s
  | .stealRequest thief victim => Sys2Proof.Machine.execStealRequest thief victim s
  | .stealReply thief victim found => Sys2Proof.Machine.execStealReply thief victim found s
  | .dequeRefill core => Sys2Proof.Machine.execDequeRefill core s
  | .resourceRequest die kind addr tid => Sys2Proof.Machine.execResourceRequest die kind addr tid s
  | .resourceRestart tid => Sys2Proof.Machine.execResourceRestart tid s
  | .messageArrival pkt => Sys2Proof.Machine.execMessageArrival pkt s
  | .handlerStart core => Sys2Proof.Machine.execHandlerStart core s
  | .rfillArrival pkt => Sys2Proof.Machine.execRfillArrival pkt s
  | .evsigDelivery id => Sys2Proof.Machine.execEvsigDelivery id s
  | .bankAccess id => Sys2Proof.Machine.execBankAccess id s
  | .homeAccess id => Sys2Proof.Machine.execHomeAccess id s
  | .partialEviction core line => Sys2Proof.Machine.execPartialEviction core line s
  | .bellUpdate credit => Sys2Proof.Machine.execBellUpdate credit s
  | .barrierArrival id => Sys2Proof.Machine.execBarrierArrival id s
  | .waitBellNotice cmd => Sys2Proof.Machine.execWaitBellNotice cmd s
  | .fenceProbe tid epoch group => Sys2Proof.Machine.execFenceProbe tid epoch group s
  | .fenceEcho tid epoch group => Sys2Proof.Machine.execFenceEcho tid epoch group s
  | .atomicIntervalEnd interval => Sys2Proof.Machine.execAtomicIntervalEnd interval s
  | .plbRefill core tid region => Sys2Proof.Machine.execPlbRefill core tid region s
  | .copyAccept id => Sys2Proof.Machine.execCopyAccept id s
  | .copyStart id => Sys2Proof.Machine.execCopyStart id s
  | .copyShare id => Sys2Proof.Machine.execCopyShare id s
  | .copyComplete id => Sys2Proof.Machine.execCopyComplete id s
  | .mcpostDelivery id => Sys2Proof.Machine.execMcpostDelivery id s
  | .ttsetServe id => Sys2Proof.Machine.execTtsetServe id s
  | .taskAccept id => Sys2Proof.Machine.execTaskAccept id s
  | .taskDispatch id => Sys2Proof.Machine.execTaskDispatch id s
  | .kStep core => Sys2Proof.Machine.execKStep core s
  | .taskDrain core => Sys2Proof.Machine.execTaskDrain core s
  | .taskComplete id => Sys2Proof.Machine.execTaskComplete id s
  | .accumulatorMoveRun id => Sys2Proof.Machine.execAccumulatorMoveRun id s
  | .engineSelfTest core failing => Sys2Proof.Machine.execEngineSelfTest core failing s
  | .rollCallArrival id => Sys2Proof.Machine.execRollCallArrival id s
  | .rollCallLeave id => Sys2Proof.Machine.execRollCallLeave id s
  | .packetHop pkt => Sys2Proof.Machine.execPacketHop pkt s
  | .outputAging pkt => Sys2Proof.Machine.execOutputAging pkt s
  | .packetDelivery pkt => Sys2Proof.Machine.execPacketDelivery pkt s
  | .turnRequest id => Sys2Proof.Machine.execTurnRequest id s
  | .turnBoundary link => Sys2Proof.Machine.execTurnBoundary link s
  | .groupTurnDone link group => Sys2Proof.Machine.execGroupTurnDone link group s
  | .notifyStore part queue value host => Sys2Proof.Machine.execNotifyStore part queue value host s
  | .headerPoll part queue => Sys2Proof.Machine.execHeaderPoll part queue s
  | .dispatchOpportunity die => Sys2Proof.Machine.execDispatchOpportunity die s
  | .queueAging part queue => Sys2Proof.Machine.execQueueAging part queue s
  | .launch part queue => Sys2Proof.Machine.execLaunch part queue s
  | .launchStart part queue => Sys2Proof.Machine.execLaunchStart part queue s
  | .launchStateArrival launch core => Sys2Proof.Machine.execLaunchStateArrival launch core s
  | .launchComplete launch => Sys2Proof.Machine.execLaunchComplete launch s
  | .waitsig part queue => Sys2Proof.Machine.execWaitsig part queue s
  | .nopPacket part queue => Sys2Proof.Machine.execNopPacket part queue s
  | .setdet part => Sys2Proof.Machine.execSetdet part s
  | .setdetComplete part => Sys2Proof.Machine.execSetdetComplete part s
  | .csrw part => Sys2Proof.Machine.execCsrw part s
  | .qcreate part => Sys2Proof.Machine.execQcreate part s
  | .qdestroy part => Sys2Proof.Machine.execQdestroy part s
  | .resize part => Sys2Proof.Machine.execResize part s
  | .abort part => Sys2Proof.Machine.execAbort part s
  | .reservedPacketType part queue => Sys2Proof.Machine.execReservedPacketType part queue s
  | .eventRetry die => Sys2Proof.Machine.execEventRetry die s
  | .faultRetry slice => Sys2Proof.Machine.execFaultRetry slice s
  | .fqtailWrite die value => Sys2Proof.Machine.execFqtailWrite die value s
  | .wake die value => Sys2Proof.Machine.execWake die value s
  | .nqtailWrite die value => Sys2Proof.Machine.execNqtailWrite die value s
  | .ndone die value => Sys2Proof.Machine.execNdone die value s
  | .novfWrite die value => Sys2Proof.Machine.execNovfWrite die value s
  | .inval die value => Sys2Proof.Machine.execInval die value s
  | .invalidationDone die => Sys2Proof.Machine.execInvalidationDone die s
  | .eqtailWrite die value => Sys2Proof.Machine.execEqtailWrite die value s
  | .managementWrite reg value => Sys2Proof.Machine.execManagementWrite reg value s
  | .preemptSave die core tag => Sys2Proof.Machine.execPreemptSave die core tag s
  | .preemptResume die core tag => Sys2Proof.Machine.execPreemptResume die core tag s
  | .pestatRead die => Sys2Proof.Machine.execPestatRead die s
  | .rmdata die value => Sys2Proof.Machine.execRmdata die value s
  | .remapInstallDone die => Sys2Proof.Machine.execRemapInstallDone die s
  | .meshInterrupt die => Sys2Proof.Machine.execMeshInterrupt die s
  | .coreStop die => Sys2Proof.Machine.execCoreStop die s
  | .quiesceDone die => Sys2Proof.Machine.execQuiesceDone die s
  | .imageWritten die => Sys2Proof.Machine.execImageWritten die s
  | .engineSectionRestore die image => Sys2Proof.Machine.execEngineSectionRestore die image s
  | .spillRedelivery core => Sys2Proof.Machine.execSpillRedelivery core s
  | .resumeDone core => Sys2Proof.Machine.execResumeDone core s
  | .coreGate core => Sys2Proof.Machine.execCoreGate core s
  | .coreWake core => Sys2Proof.Machine.execCoreWake core s
  | .rollRecordWrite ctx => Sys2Proof.Machine.execRollRecordWrite ctx s
  | .logtailWrite ctx value => Sys2Proof.Machine.execLogtailWrite ctx value s
  | .rollRecordTake ctx => Sys2Proof.Machine.execRollRecordTake ctx s
  | .hostAccess access => Sys2Proof.Machine.execHostAccess access s
  | .hostAtomic access op wide cmp => Sys2Proof.Machine.execHostAtomic access op wide cmp s
  | .sysatomCasLoop id => Sys2Proof.Machine.execSysatomCasLoop id s
  | .reductionContribution window offset module value => Sys2Proof.Machine.execReductionContribution window offset module value s
  | .timestampCorrection forward => Sys2Proof.Machine.execTimestampCorrection forward s
  | .ethernetTransmit port => Sys2Proof.Machine.execEthernetTransmit port s
  | .ethernetReceive port frame fcsGood => Sys2Proof.Machine.execEthernetReceive port frame fcsGood s
  | .moduleReset => Sys2Proof.Machine.execModuleReset s
  | .resetStepDone failed => Sys2Proof.Machine.execResetStepDone failed s
  | .fwgo die value => Sys2Proof.Machine.execFwgo die value s
  | .firmwareReady die => Sys2Proof.Machine.execFirmwareReady die s
  | .firmwareFault die => Sys2Proof.Machine.execFirmwareFault die s
  | .scrubRead word => Sys2Proof.Machine.execScrubRead word s
  | .eltailWrite die value => Sys2Proof.Machine.execEltailWrite die value s
  | .illegalEncoding word => Sys2Proof.Machine.execIllegalEncoding word s
  | .proctorProxyComplete die => Sys2Proof.Machine.execProctorProxyComplete die s
  | .overflowMemoryGrant die amount => Sys2Proof.Machine.execOverflowMemoryGrant die amount s
  | .clockLock locked => Sys2Proof.Machine.execClockLock locked s
  | .linkGroupFence part => Sys2Proof.Machine.execLinkGroupFence part s
  | .mv s1 d => Sys2Proof.Machine.execMv s1 d s
  | .li i1 d => Sys2Proof.Machine.execLi i1 d s
  | .addC16 s1 d => Sys2Proof.Machine.execAddC16 s1 d s
  | .addiC16 i1 d => Sys2Proof.Machine.execAddiC16 i1 d s
  | .subC16 s1 d => Sys2Proof.Machine.execSubC16 s1 d s
  | .subi i1 d => Sys2Proof.Machine.execSubi i1 d s
  | .andC16 s1 d => Sys2Proof.Machine.execAndC16 s1 d s
  | .andiC16 i1 d => Sys2Proof.Machine.execAndiC16 i1 d s
  | .orC16 s1 d => Sys2Proof.Machine.execOrC16 s1 d s
  | .oriC16 i1 d => Sys2Proof.Machine.execOriC16 i1 d s
  | .xorC16 s1 d => Sys2Proof.Machine.execXorC16 s1 d s
  | .xoriC16 i1 d => Sys2Proof.Machine.execXoriC16 i1 d s
  | .shlC16 s1 d => Sys2Proof.Machine.execShlC16 s1 d s
  | .shliC16 n d => Sys2Proof.Machine.execShliC16 n d s
  | .shrC16 s1 d => Sys2Proof.Machine.execShrC16 s1 d s
  | .shriC16 n d => Sys2Proof.Machine.execShriC16 n d s
  | .sarC16 s1 d => Sys2Proof.Machine.execSarC16 s1 d s
  | .sariC16 n d => Sys2Proof.Machine.execSariC16 n d s
  | .mulC16 s1 d => Sys2Proof.Machine.execMulC16 s1 d s
  | .muliC16 i1 d => Sys2Proof.Machine.execMuliC16 i1 d s
  | .minC16 s1 d => Sys2Proof.Machine.execMinC16 s1 d s
  | .mini i1 d => Sys2Proof.Machine.execMini i1 d s
  | .maxC16 s1 d => Sys2Proof.Machine.execMaxC16 s1 d s
  | .maxi i1 d => Sys2Proof.Machine.execMaxi i1 d s
  | .sltC16 s1 d => Sys2Proof.Machine.execSltC16 s1 d s
  | .sltiC16 i1 d => Sys2Proof.Machine.execSltiC16 i1 d s
  | .lddC16 s1 d => Sys2Proof.Machine.execLddC16 s1 d s
  | .lddG2C16 i1 d => Sys2Proof.Machine.execLddG2C16 i1 d s
  | .stdC16 s1 d => Sys2Proof.Machine.execStdC16 s1 d s
  | .stdG2C16 i1 d => Sys2Proof.Machine.execStdG2C16 i1 d s
  | .bez i1 d => Sys2Proof.Machine.execBez i1 d s
  | .bnz i1 d => Sys2Proof.Machine.execBnz i1 d s
  | .brkC16 => Sys2Proof.Machine.execBrkC16 s
  | .add b a d => Sys2Proof.Machine.execAdd b a d s
  | .sub b a d => Sys2Proof.Machine.execSub b a d s
  | .and b a d => Sys2Proof.Machine.execAnd b a d s
  | .or b a d => Sys2Proof.Machine.execOr b a d s
  | .xor b a d => Sys2Proof.Machine.execXor b a d s
  | .shl b a d => Sys2Proof.Machine.execShl b a d s
  | .shr b a d => Sys2Proof.Machine.execShr b a d s
  | .sar b a d => Sys2Proof.Machine.execSar b a d s
  | .mul b a d => Sys2Proof.Machine.execMul b a d s
  | .min b a d => Sys2Proof.Machine.execMin b a d s
  | .max b a d => Sys2Proof.Machine.execMax b a d s
  | .minu b a d => Sys2Proof.Machine.execMinu b a d s
  | .maxu b a d => Sys2Proof.Machine.execMaxu b a d s
  | .slt b a d => Sys2Proof.Machine.execSlt b a d s
  | .sltu b a d => Sys2Proof.Machine.execSltu b a d s
  | .seq b a d => Sys2Proof.Machine.execSeq b a d s
  | .sne b a d => Sys2Proof.Machine.execSne b a d s
  | .addw b a d => Sys2Proof.Machine.execAddw b a d s
  | .subw b a d => Sys2Proof.Machine.execSubw b a d s
  | .clz a d => Sys2Proof.Machine.execClz a d s
  | .ctz a d => Sys2Proof.Machine.execCtz a d s
  | .popc a d => Sys2Proof.Machine.execPopc a d s
  | .brev a d => Sys2Proof.Machine.execBrev a d s
  | .bswap a d => Sys2Proof.Machine.execBswap a d s
  | .rol b a d => Sys2Proof.Machine.execRol b a d s
  | .ror b a d => Sys2Proof.Machine.execRor b a d s
  | .andn b a d => Sys2Proof.Machine.execAndn b a d s
  | .sextb a d => Sys2Proof.Machine.execSextb a d s
  | .sexth a d => Sys2Proof.Machine.execSexth a d s
  | .sextw a d => Sys2Proof.Machine.execSextw a d s
  | .zextw a d => Sys2Proof.Machine.execZextw a d s
  | .mulh b a d => Sys2Proof.Machine.execMulh b a d s
  | .mulhu b a d => Sys2Proof.Machine.execMulhu b a d s
  | .mulhsu b a d => Sys2Proof.Machine.execMulhsu b a d s
  | .div b a d => Sys2Proof.Machine.execDiv b a d s
  | .divu b a d => Sys2Proof.Machine.execDivu b a d s
  | .rem b a d => Sys2Proof.Machine.execRem b a d s
  | .remu b a d => Sys2Proof.Machine.execRemu b a d s
  | .addi i1 a d => Sys2Proof.Machine.execAddi i1 a d s
  | .andi i1 a d => Sys2Proof.Machine.execAndi i1 a d s
  | .ori i1 a d => Sys2Proof.Machine.execOri i1 a d s
  | .xori i1 a d => Sys2Proof.Machine.execXori i1 a d s
  | .muli i1 a d => Sys2Proof.Machine.execMuli i1 a d s
  | .shli n a d => Sys2Proof.Machine.execShli n a d s
  | .shri n a d => Sys2Proof.Machine.execShri n a d s
  | .sari n a d => Sys2Proof.Machine.execSari n a d s
  | .rori n a d => Sys2Proof.Machine.execRori n a d s
  | .seqi v a d => Sys2Proof.Machine.execSeqi v a d s
  | .snei v a d => Sys2Proof.Machine.execSnei v a d s
  | .slti v a d => Sys2Proof.Machine.execSlti v a d s
  | .sgei v a d => Sys2Proof.Machine.execSgei v a d s
  | .sltui v a d => Sys2Proof.Machine.execSltui v a d s
  | .sgeui v a d => Sys2Proof.Machine.execSgeui v a d s
  | .liu i1 d => Sys2Proof.Machine.execLiu i1 d s
  | .addpc i1 d => Sys2Proof.Machine.execAddpc i1 d s
  | .lic c r d => Sys2Proof.Machine.execLic c r d s
  | .lico c r a d => Sys2Proof.Machine.execLico c r a d s
  | .licn c r d => Sys2Proof.Machine.execLicn c r d s
  | .beq i1 b a => Sys2Proof.Machine.execBeq i1 b a s
  | .bne i1 b a => Sys2Proof.Machine.execBne i1 b a s
  | .blt i1 b a => Sys2Proof.Machine.execBlt i1 b a s
  | .bge i1 b a => Sys2Proof.Machine.execBge i1 b a s
  | .bltu i1 b a => Sys2Proof.Machine.execBltu i1 b a s
  | .bgeu i1 b a => Sys2Proof.Machine.execBgeu i1 b a s
  | .bfull i1 a => Sys2Proof.Machine.execBfull i1 a s
  | .bvoid i1 a => Sys2Proof.Machine.execBvoid i1 a s
  | .j i1 => Sys2Proof.Machine.execJ i1 s
  | .jal i1 => Sys2Proof.Machine.execJal i1 s
  | .jalr i1 a d => Sys2Proof.Machine.execJalr i1 a d s
  | .loop i1 a => Sys2Proof.Machine.execLoop i1 a s
  | .spawn i1 => Sys2Proof.Machine.execSpawn i1 s
  | .join => Sys2Proof.Machine.execJoin s
  | .exit => Sys2Proof.Machine.execExit s
  | .expect d => Sys2Proof.Machine.execExpect d s
  | .expectm d => Sys2Proof.Machine.execExpectm d s
  | .expectv d => Sys2Proof.Machine.execExpectv d s
  | .expectc d => Sys2Proof.Machine.execExpectc d s
  | .qslot d => Sys2Proof.Machine.execQslot d s
  | .qdeq d => Sys2Proof.Machine.execQdeq d s
  | .qlink d => Sys2Proof.Machine.execQlink d s
  | .fadd p b a d => Sys2Proof.Machine.execFadd p b a d s
  | .fsub p b a d => Sys2Proof.Machine.execFsub p b a d s
  | .fmul p b a d => Sys2Proof.Machine.execFmul p b a d s
  | .fdiv p b a d => Sys2Proof.Machine.execFdiv p b a d s
  | .fsqrt p a d => Sys2Proof.Machine.execFsqrt p a d s
  | .fmin p b a d => Sys2Proof.Machine.execFmin p b a d s
  | .fmax p b a d => Sys2Proof.Machine.execFmax p b a d s
  | .fsgnj p b a d => Sys2Proof.Machine.execFsgnj p b a d s
  | .fsgnjn p b a d => Sys2Proof.Machine.execFsgnjn p b a d s
  | .fsgnjx p b a d => Sys2Proof.Machine.execFsgnjx p b a d s
  | .feq p b a d => Sys2Proof.Machine.execFeq p b a d s
  | .flt p b a d => Sys2Proof.Machine.execFlt p b a d s
  | .fle p b a d => Sys2Proof.Machine.execFle p b a d s
  | .fclass p a d => Sys2Proof.Machine.execFclass p a d s
  | .fma x c b a d => Sys2Proof.Machine.execFma x c b a d s
  | .fcvtSD a d => Sys2Proof.Machine.execFcvtSD a d s
  | .fcvtDS a d => Sys2Proof.Machine.execFcvtDS a d s
  | .fcvtSL a d => Sys2Proof.Machine.execFcvtSL a d s
  | .fcvtSLu a d => Sys2Proof.Machine.execFcvtSLu a d s
  | .fcvtDL a d => Sys2Proof.Machine.execFcvtDL a d s
  | .fcvtDLu a d => Sys2Proof.Machine.execFcvtDLu a d s
  | .fcvtLS a d => Sys2Proof.Machine.execFcvtLS a d s
  | .fcvtLuS a d => Sys2Proof.Machine.execFcvtLuS a d s
  | .fcvtLD a d => Sys2Proof.Machine.execFcvtLD a d s
  | .fcvtLuD a d => Sys2Proof.Machine.execFcvtLuD a d s
  | .fcvtWS a d => Sys2Proof.Machine.execFcvtWS a d s
  | .fcvtWD a d => Sys2Proof.Machine.execFcvtWD a d s
  | .fcvtHS a d => Sys2Proof.Machine.execFcvtHS a d s
  | .fcvtSH a d => Sys2Proof.Machine.execFcvtSH a d s
  | .fcvtBS a d => Sys2Proof.Machine.execFcvtBS a d s
  | .fcvtSB a d => Sys2Proof.Machine.execFcvtSB a d s
  | .ldb i1 o q a d => Sys2Proof.Machine.execLdb i1 o q a d s
  | .ldbu i1 o q a d => Sys2Proof.Machine.execLdbu i1 o q a d s
  | .ldh i1 o q a d => Sys2Proof.Machine.execLdh i1 o q a d s
  | .ldhu i1 o q a d => Sys2Proof.Machine.execLdhu i1 o q a d s
  | .ldw i1 o q a d => Sys2Proof.Machine.execLdw i1 o q a d s
  | .ldwu i1 o q a d => Sys2Proof.Machine.execLdwu i1 o q a d s
  | .ldd i1 o q a d => Sys2Proof.Machine.execLdd i1 o q a d s
  | .stb i1 o q a d => Sys2Proof.Machine.execStb i1 o q a d s
  | .sth i1 o q a d => Sys2Proof.Machine.execSth i1 o q a d s
  | .stw i1 o q a d => Sys2Proof.Machine.execStw i1 o q a d s
  | .std i1 o q a d => Sys2Proof.Machine.execStd i1 o q a d s
  | .ldbx q b a d => Sys2Proof.Machine.execLdbx q b a d s
  | .ldbux q b a d => Sys2Proof.Machine.execLdbux q b a d s
  | .ldhx q b a d => Sys2Proof.Machine.execLdhx q b a d s
  | .ldhux q b a d => Sys2Proof.Machine.execLdhux q b a d s
  | .ldwx q b a d => Sys2Proof.Machine.execLdwx q b a d s
  | .ldwux q b a d => Sys2Proof.Machine.execLdwux q b a d s
  | .lddx q b a d => Sys2Proof.Machine.execLddx q b a d s
  | .stbx q b a d => Sys2Proof.Machine.execStbx q b a d s
  | .sthx q b a d => Sys2Proof.Machine.execSthx q b a d s
  | .stwx q b a d => Sys2Proof.Machine.execStwx q b a d s
  | .stdx q b a d => Sys2Proof.Machine.execStdx q b a d s
  | .ldwo q s1 o a d => Sys2Proof.Machine.execLdwo q s1 o a d s
  | .lddo q s1 o a d => Sys2Proof.Machine.execLddo q s1 o a d s
  | .stwo q s1 o a d => Sys2Proof.Machine.execStwo q s1 o a d s
  | .stdo q s1 o a d => Sys2Proof.Machine.execStdo q s1 o a d s
  | .ldf a d => Sys2Proof.Machine.execLdf a d s
  | .ldtk a d => Sys2Proof.Machine.execLdtk a d s
  | .stf a d => Sys2Proof.Machine.execStf a d s
  | .lres a d => Sys2Proof.Machine.execLres a d s
  | .scond b a d => Sys2Proof.Machine.execScond b a d s
  | .lresAcq a d => Sys2Proof.Machine.execLresAcq a d s
  | .scondRel b a d => Sys2Proof.Machine.execScondRel b a d s
  | .cflush a => Sys2Proof.Machine.execCflush a s
  | .cwb a => Sys2Proof.Machine.execCwb a s
  | .cwball => Sys2Proof.Machine.execCwball s
  | .amoadd s1 o b a d => Sys2Proof.Machine.execAmoadd s1 o b a d s
  | .amoand s1 o b a d => Sys2Proof.Machine.execAmoand s1 o b a d s
  | .amoor s1 o b a d => Sys2Proof.Machine.execAmoor s1 o b a d s
  | .amoxor s1 o b a d => Sys2Proof.Machine.execAmoxor s1 o b a d s
  | .amomin s1 o b a d => Sys2Proof.Machine.execAmomin s1 o b a d s
  | .amomax s1 o b a d => Sys2Proof.Machine.execAmomax s1 o b a d s
  | .amominu s1 o b a d => Sys2Proof.Machine.execAmominu s1 o b a d s
  | .amomaxu s1 o b a d => Sys2Proof.Machine.execAmomaxu s1 o b a d s
  | .amoswap s1 o b a d => Sys2Proof.Machine.execAmoswap s1 o b a d s
  | .amocas s1 o b a d => Sys2Proof.Machine.execAmocas s1 o b a d s
  | .famoadd s1 o b a d => Sys2Proof.Machine.execFamoadd s1 o b a d s
  | .famomin s1 o b a d => Sys2Proof.Machine.execFamomin s1 o b a d s
  | .famomax s1 o b a d => Sys2Proof.Machine.execFamomax s1 o b a d s
  | .ldv k a d => Sys2Proof.Machine.execLdv k a d s
  | .ldvv k a d => Sys2Proof.Machine.execLdvv k a d s
  | .stv k b a d => Sys2Proof.Machine.execStv k b a d s
  | .cvclr k => Sys2Proof.Machine.execCvclr k s
  | .reconMin k a d => Sys2Proof.Machine.execReconMin k a d s
  | .reconMax k a d => Sys2Proof.Machine.execReconMax k a d s
  | .reconAdd k a d => Sys2Proof.Machine.execReconAdd k a d s
  | .reconOr k a d => Sys2Proof.Machine.execReconOr k a d s
  | .reconAnd k a d => Sys2Proof.Machine.execReconAnd k a d s
  | .reconLowest k a d => Sys2Proof.Machine.execReconLowest k a d s
  | .reconHighest k a d => Sys2Proof.Machine.execReconHighest k a d s
  | .reconValue k b a d => Sys2Proof.Machine.execReconValue k b a d s
  | .redW b a => Sys2Proof.Machine.execRedW b a s
  | .redD b a => Sys2Proof.Machine.execRedD b a s
  | .fence s1 => Sys2Proof.Machine.execFence s1 s
  | .fenceAcq s1 => Sys2Proof.Machine.execFenceAcq s1 s
  | .fenceRel s1 => Sys2Proof.Machine.execFenceRel s1 s
  | .bara s1 a d => Sys2Proof.Machine.execBara s1 a d s
  | .barw s1 b a => Sys2Proof.Machine.execBarw s1 b a s
  | .belladd s1 b a => Sys2Proof.Machine.execBelladd s1 b a s
  | .bellwait s1 b a => Sys2Proof.Machine.execBellwait s1 b a s
  | .waitres => Sys2Proof.Machine.execWaitres s
  | .waitk t c s1 l => Sys2Proof.Machine.execWaitk t c s1 l s
  | .vadd b a k z d => Sys2Proof.Machine.execVadd b a k z d s
  | .vsub b a k z d => Sys2Proof.Machine.execVsub b a k z d s
  | .vmul b a k z d => Sys2Proof.Machine.execVmul b a k z d s
  | .vmulh b a k z d => Sys2Proof.Machine.execVmulh b a k z d s
  | .vmulhu b a k z d => Sys2Proof.Machine.execVmulhu b a k z d s
  | .vmin b a k z d => Sys2Proof.Machine.execVmin b a k z d s
  | .vmax b a k z d => Sys2Proof.Machine.execVmax b a k z d s
  | .vminu b a k z d => Sys2Proof.Machine.execVminu b a k z d s
  | .vmaxu b a k z d => Sys2Proof.Machine.execVmaxu b a k z d s
  | .vand b a k z d => Sys2Proof.Machine.execVand b a k z d s
  | .vor b a k z d => Sys2Proof.Machine.execVor b a k z d s
  | .vxor b a k z d => Sys2Proof.Machine.execVxor b a k z d s
  | .vandn b a k z d => Sys2Proof.Machine.execVandn b a k z d s
  | .vshl b a k z d => Sys2Proof.Machine.execVshl b a k z d s
  | .vshr b a k z d => Sys2Proof.Machine.execVshr b a k z d s
  | .vsar b a k z d => Sys2Proof.Machine.execVsar b a k z d s
  | .vaddsat b a k z d => Sys2Proof.Machine.execVaddsat b a k z d s
  | .vsubsat b a k z d => Sys2Proof.Machine.execVsubsat b a k z d s
  | .vabs a k z d => Sys2Proof.Machine.execVabs a k z d s
  | .vmov a k z d => Sys2Proof.Machine.execVmov a k z d s
  | .vfadd b a k z d => Sys2Proof.Machine.execVfadd b a k z d s
  | .vfsub b a k z d => Sys2Proof.Machine.execVfsub b a k z d s
  | .vfmul b a k z d => Sys2Proof.Machine.execVfmul b a k z d s
  | .vfmin b a k z d => Sys2Proof.Machine.execVfmin b a k z d s
  | .vfmax b a k z d => Sys2Proof.Machine.execVfmax b a k z d s
  | .vfabs a k z d => Sys2Proof.Machine.execVfabs a k z d s
  | .vfneg a k z d => Sys2Proof.Machine.execVfneg a k z d s
  | .vadds g a k z d => Sys2Proof.Machine.execVadds g a k z d s
  | .vsubs g a k z d => Sys2Proof.Machine.execVsubs g a k z d s
  | .vmuls g a k z d => Sys2Proof.Machine.execVmuls g a k z d s
  | .vmulhs g a k z d => Sys2Proof.Machine.execVmulhs g a k z d s
  | .vmulhus g a k z d => Sys2Proof.Machine.execVmulhus g a k z d s
  | .vmins g a k z d => Sys2Proof.Machine.execVmins g a k z d s
  | .vmaxs g a k z d => Sys2Proof.Machine.execVmaxs g a k z d s
  | .vminus g a k z d => Sys2Proof.Machine.execVminus g a k z d s
  | .vmaxus g a k z d => Sys2Proof.Machine.execVmaxus g a k z d s
  | .vands g a k z d => Sys2Proof.Machine.execVands g a k z d s
  | .vors g a k z d => Sys2Proof.Machine.execVors g a k z d s
  | .vxors g a k z d => Sys2Proof.Machine.execVxors g a k z d s
  | .vandns g a k z d => Sys2Proof.Machine.execVandns g a k z d s
  | .vshls g a k z d => Sys2Proof.Machine.execVshls g a k z d s
  | .vshrs g a k z d => Sys2Proof.Machine.execVshrs g a k z d s
  | .vsars g a k z d => Sys2Proof.Machine.execVsars g a k z d s
  | .vaddsats g a k z d => Sys2Proof.Machine.execVaddsats g a k z d s
  | .vsubsats g a k z d => Sys2Proof.Machine.execVsubsats g a k z d s
  | .vfadds g a k z d => Sys2Proof.Machine.execVfadds g a k z d s
  | .vfsubs g a k z d => Sys2Proof.Machine.execVfsubs g a k z d s
  | .vfmuls g a k z d => Sys2Proof.Machine.execVfmuls g a k z d s
  | .vfmins g a k z d => Sys2Proof.Machine.execVfmins g a k z d s
  | .vfmaxs g a k z d => Sys2Proof.Machine.execVfmaxs g a k z d s
  | .vfma b a k z d => Sys2Proof.Machine.execVfma b a k z d s
  | .vfms b a k z d => Sys2Proof.Machine.execVfms b a k z d s
  | .vfnma b a k z d => Sys2Proof.Machine.execVfnma b a k z d s
  | .vfnms b a k z d => Sys2Proof.Machine.execVfnms b a k z d s
  | .vmad b a k z d => Sys2Proof.Machine.execVmad b a k z d s
  | .vdot4i8 b a k z d => Sys2Proof.Machine.execVdot4i8 b a k z d s
  | .vfmas g a k z d => Sys2Proof.Machine.execVfmas g a k z d s
  | .vfmss g a k z d => Sys2Proof.Machine.execVfmss g a k z d s
  | .vfnmas g a k z d => Sys2Proof.Machine.execVfnmas g a k z d s
  | .vfnmss g a k z d => Sys2Proof.Machine.execVfnmss g a k z d s
  | .vmads g a k z d => Sys2Proof.Machine.execVmads g a k z d s
  | .vdot4i8s g a k z d => Sys2Proof.Machine.execVdot4i8s g a k z d s
  | .vcmp c b a k z d => Sys2Proof.Machine.execVcmp c b a k z d s
  | .vcmps c g a k z d => Sys2Proof.Machine.execVcmps c g a k z d s
  | .vld q g k z d => Sys2Proof.Machine.execVld q g k z d s
  | .vst q g k z d => Sys2Proof.Machine.execVst q g k z d s
  | .vgath q g a k z d => Sys2Proof.Machine.execVgath q g a k z d s
  | .vscat q g a k z d => Sys2Proof.Machine.execVscat q g a k z d s
  | .vlds g k z d => Sys2Proof.Machine.execVlds g k z d s
  | .vsts g k z d => Sys2Proof.Machine.execVsts g k z d s
  | .vldsx g a k z d => Sys2Proof.Machine.execVldsx g a k z d s
  | .vstsx g a k z d => Sys2Proof.Machine.execVstsx g a k z d s
  | .vredadd g a k => Sys2Proof.Machine.execVredadd g a k s
  | .vredmin g a k => Sys2Proof.Machine.execVredmin g a k s
  | .vredmax g a k => Sys2Proof.Machine.execVredmax g a k s
  | .vredminu g a k => Sys2Proof.Machine.execVredminu g a k s
  | .vredmaxu g a k => Sys2Proof.Machine.execVredmaxu g a k s
  | .vredor g a k => Sys2Proof.Machine.execVredor g a k s
  | .vredand g a k => Sys2Proof.Machine.execVredand g a k s
  | .vredfadd g a k => Sys2Proof.Machine.execVredfadd g a k s
  | .vredfmin g a k => Sys2Proof.Machine.execVredfmin g a k s
  | .vredfmax g a k => Sys2Proof.Machine.execVredfmax g a k s
  | .vbcast g k z d => Sys2Proof.Machine.execVbcast g k z d s
  | .vext g a k => Sys2Proof.Machine.execVext g a k s
  | .vperm b a k z d => Sys2Proof.Machine.execVperm b a k z d s
  | .vrotl g a k z d => Sys2Proof.Machine.execVrotl g a k z d s
  | .vcomp a k d => Sys2Proof.Machine.execVcomp a k d s
  | .viota k z d => Sys2Proof.Machine.execViota k z d s
  | .kand b a d => Sys2Proof.Machine.execKand b a d s
  | .kor b a d => Sys2Proof.Machine.execKor b a d s
  | .kxor b a d => Sys2Proof.Machine.execKxor b a d s
  | .kandn b a d => Sys2Proof.Machine.execKandn b a d s
  | .knot a d => Sys2Proof.Machine.execKnot a d s
  | .kmovg a d => Sys2Proof.Machine.execKmovg a d s
  | .krd a d => Sys2Proof.Machine.execKrd a d s
  | .kpopc a d => Sys2Proof.Machine.execKpopc a d s
  | .kfirst a d => Sys2Proof.Machine.execKfirst a d s
  | .vcvtfi a k z d => Sys2Proof.Machine.execVcvtfi a k z d s
  | .vcvtif a k z d => Sys2Proof.Machine.execVcvtif a k z d s
  | .vcvtuf a k z d => Sys2Proof.Machine.execVcvtuf a k z d s
  | .vcvtfu a k z d => Sys2Proof.Machine.execVcvtfu a k z d s
  | .vpack f p a k z d => Sys2Proof.Machine.execVpack f p a k z d s
  | .vunpk f p a k z d => Sys2Proof.Machine.execVunpk f p a k z d s
  | .vcbd g a k z d => Sys2Proof.Machine.execVcbd g a k z d s
  | .vcbdi g a k z d => Sys2Proof.Machine.execVcbdi g a k z d s
  | .wing b a d => Sys2Proof.Machine.execWing b a d s
  | .vwing g a k z d => Sys2Proof.Machine.execVwing g a k z d s
  | .mand b a d => Sys2Proof.Machine.execMand b a d s
  | .mor b a d => Sys2Proof.Machine.execMor b a d s
  | .mxor b a d => Sys2Proof.Machine.execMxor b a d s
  | .mandn b a d => Sys2Proof.Machine.execMandn b a d s
  | .mnot a d => Sys2Proof.Machine.execMnot a d s
  | .mmov a d => Sys2Proof.Machine.execMmov a d s
  | .mclr d => Sys2Proof.Machine.execMclr d s
  | .mfill a d => Sys2Proof.Machine.execMfill a d s
  | .mbset a d => Sys2Proof.Machine.execMbset a d s
  | .mbclr a d => Sys2Proof.Machine.execMbclr a d s
  | .mbtst b a d => Sys2Proof.Machine.execMbtst b a d s
  | .mpopc a d => Sys2Proof.Machine.execMpopc a d s
  | .mfirst a d => Sys2Proof.Machine.execMfirst a d s
  | .mnext b a d => Sys2Proof.Machine.execMnext b a d s
  | .mgetw b a d => Sys2Proof.Machine.execMgetw b a d s
  | .mputw b a d => Sys2Proof.Machine.execMputw b a d s
  | .mld a d => Sys2Proof.Machine.execMld a d s
  | .mst b a => Sys2Proof.Machine.execMst b a s
  | .stand b a d => Sys2Proof.Machine.execStand b a d s
  | .leave a => Sys2Proof.Machine.execLeave a s
  | .split s1 t i1 => Sys2Proof.Machine.execSplit s1 t i1 s
  | .qld w a d => Sys2Proof.Machine.execQld w a d s
  | .qldd w a d => Sys2Proof.Machine.execQldd w a d s
  | .qst b a w => Sys2Proof.Machine.execQst b a w s
  | .qstd b a w => Sys2Proof.Machine.execQstd b a w s
  | .qeval c b a d w => Sys2Proof.Machine.execQeval c b a d w s
  | .cpy s1 q r t n => Sys2Proof.Machine.execCpy s1 q r t n s
  | .cpyg s1 q r t n => Sys2Proof.Machine.execCpyg s1 q r t n s
  | .mcpost s1 q r t n => Sys2Proof.Machine.execMcpost s1 q r t n s
  | .ttset b a d => Sys2Proof.Machine.execTtset b a d s
  | .tqadd a => Sys2Proof.Machine.execTqadd a s
  | .accsv b a => Sys2Proof.Machine.execAccsv b a s
  | .accsvk b a => Sys2Proof.Machine.execAccsvk b a s
  | .accld b a => Sys2Proof.Machine.execAccld b a s
  | .send r n b a p => Sys2Proof.Machine.execSend r n b a p s
  | .amret => Sys2Proof.Machine.execAmret s
  | .rfill b a d => Sys2Proof.Machine.execRfill b a d s
  | .rfillm b a d => Sys2Proof.Machine.execRfillm b a d s
  | .rfillv b a d => Sys2Proof.Machine.execRfillv b a d s
  | .rfillc b a d => Sys2Proof.Machine.execRfillc b a d s
  | .lturn b a d => Sys2Proof.Machine.execLturn b a d s
  | .rds c d => Sys2Proof.Machine.execRds c d s
  | .wrs c s1 => Sys2Proof.Machine.execWrs c s1 s
  | .rdts d => Sys2Proof.Machine.execRdts d s
  | .logmark a => Sys2Proof.Machine.execLogmark a s
  | .trap i1 => Sys2Proof.Machine.execTrap i1 s
  | .brk => Sys2Proof.Machine.execBrk s
  | .rtt => Sys2Proof.Machine.execRtt s
  | .icinv => Sys2Proof.Machine.execIcinv s
  | .plbinv a => Sys2Proof.Machine.execPlbinv a s
  | .halt => Sys2Proof.Machine.execHalt s
  | .evsig b a => Sys2Proof.Machine.execEvsig b a s

end Sys2Proof.Machine
end

