-- ==== Sys2Proof/Machine/Schedule.lean ====
section
/-!
DEFINITION. What the machine does next (02 R10-R13; 04 R74 steps 1 and 2): a step that an outside agent has put before it, the hardware's own
work that is due, an issue, or the next cycle; and what an attempt to issue leaves at its core.
-/

namespace Sys2Proof.Machine

/-- What comes next. -/
inductive Plan where
  /-- a step of the hardware or of an outside agent -/
  | hardware (i : Instr) (s : State)
  /-- thread `t` comes to issue an instruction -/
  | issue (t : Nat) (i : Instr) (s : State)
  /-- a thread that does not get to its instruction, or the next cycle -/
  | settled (s : State)

/-! ## Work that is due -/

/-- When in a cycle a step comes (log 19): 0 what arrives in it, 1 what is in a server's queue, so that a server chooses among all that have come
(R240), and 2, behind the cycle's issues, a steal request at its victim (R17). -/
def State.phaseOf (s : State) (i : Instr) : Nat :=
  match i with
  | .stealRequest .. => 2
  | _ => if (s.itemOf i).isSome then 1 else 0

/-- The first step that is due now in a phase, and the rest. -/
def State.dueOf (s : State) (phase : Nat) (l : Tbl Instr) : Option (Instr × Tbl Instr) :=
  match l with
  | [] => none
  | e :: r =>
    if s.now < e.1 then none
    else if s.phaseOf e.2 = phase then some (e.2, r)
    else (s.dueOf phase r).map (fun y => (y.1, e :: y.2))

/-- The hardware's work that is due now before the cycle's issues, and the rest. -/
def State.nextDue (s : State) : Option (Instr × Tbl Instr) :=
  match s.dueOf 0 s.pend with
  | some x => some x
  | none => s.dueOf 1 s.pend

/-! ## Issue -/

/-- Who uses a core's present cycle. -/
inductive Turns where
  | thread (t : Nat)
  | lend (core : Nat)
deriving DecidableEq, Repr

/-- The use of a core's present cycle (R10, R12, R13): its owner, a thread it was lent to, or a thread to lend it to. -/
def State.turnsOf (s : State) (c : Nat) : Option Turns :=
  if s.issuedNow c then none
  else
    match s.owner c with
    | some t => some (.thread t)
    | none =>
      match (s.core c).grant with
      | some (i, n, _) => if n = s.now ∧ s.ready (c * 16 + i) ∧ s.spaced (c * 16 + i) then some (.thread (c * 16 + i)) else lend
      | none => lend
where
  lend : Option Turns := if (s.lentSlot c).isSome then some (.lend c) else none

/-- The cores that hold threads, ascending, without the absent ones. -/
def State.liveCores (s : State) : List Nat := ((s.threads.map (fun e => coreOf e.1)).filter (fun c => decide (c < absentBase))).eraseDups

/-- The debug compare that matches the issuing thread's instruction (R332). -/
def State.debugMatch (s : State) : Option Nat :=
  let t := s.me
  if t.level ≠ .U ∨ t.dskip then none
  else
    let c := s.ctx t.ctx
    (List.range 4).find? (fun n => bit c.dbgctl.toNat n && tget 0 c.dbgpc n == t.pc)

/-- A thread's core after an attempt to issue. A thread that issued, or that parked once its instruction had sent its requests or ended its thread
(R19), used the cycle; a program that `MCPOST` posted is stamped at its first (R236).
A thread that parked before was not ready: a cycle lent to it is lent again (R13), and the word it has fetched stays with it (R74). A core in which
none is ready comes to rest (R388). A thread that took the slot in this step (R94) has fetched no word. -/
def State.settle (s : State) (t epoch : Nat) (sent : Bool) (word : Option (BitVec 32)) : State :=
  let c := coreOf t
  let used : State → State := fun s => s.updCore c (fun x => { x with issuedAt := some s.now })
  if (s.thread t).park.isNone then (used s).stampPost t epoch
  else
    let same := (s.thread t).epoch = epoch
    let s0 := s.updThread t (fun x => { x with word := if same then word else none })
    let s1 := if sent || !same then
        ((used s0).updThread t (fun x => if same then { x with lastIssue := some s.now, ownCycle := false } else x)).stampPost t epoch
      else match (s0.core c).grant with
      | some (i, n, old) => if c * 16 + i = t ∧ n = s.now then s0.updCore c (fun x => { x with grant := none, lendPtr := old }) else s0
      | none => s0
    if (List.range 16).any (fun i => s1.ready (c * 16 + i)) then s1 else s1.restCore c

/-- The decoder's reading of a fetched word; a word that is no instruction is one that raises ILLEGAL (R70). -/
noncomputable def instrOf (w len : Nat) : Instr :=
  match (if len = 2 then decode16 w else decode32 w) with
  | some i => i
  | none => .illegalEncoding (BitVec.ofNat 32 w)

/-- The length of an instruction by its first halfword (R48). -/
def wordLen (w : Nat) : Nat := if isShort w then 2 else 4

/-- A thread comes to issue: a trap its start left, its fetch, the debug compares, then its instruction. A thread that had parked at its
instruction goes on behind these (R74). -/
noncomputable def State.comeTo (s : State) (t : Nat) : Plan :=
  let s1 := { s with cur := t }
  match s1.me.startFault, s1.me.word with
  | some (cause, info), _ => trapped ((s1.upd (fun x => { x with startFault := none })).trap cause info (s1.lengthAt s1.me.pc.toNat))
  | none, some w => .issue t (instrOf w.toNat (wordLen w.toNat)) { s1 with iword := w }
  | none, none =>
    match s1.fetch with
    | (.wait, s2) => .settled (s2.settle t s1.me.epoch false none)
    | (.trap cause info len, s2) => trapped (s2.trap cause info len)
    | (.code w len, s2) =>
      match s2.debugMatch with
      | some n => trapped (s2.trap cBREAK (BitVec.ofNat 64 (1 + n)) len)
      | none => .issue t (instrOf w len) { s2 with iword := BitVec.ofNat 32 w }
where
  /-- A trap takes the cycle (R321). -/
  trapped (x : State) : Plan := .settled (x.settle t (s.thread t).epoch false none)

/-- The next cycle; the timestamp starts when step 1 of a reset ends (R412), and stands for a cycle that a correction holds back (R409). -/
def State.nextCycle (s : State) : State :=
  if s.busStat = 0 then s else if s.heldBack then { s with heldBack := false } else { s with now := s.now + 1 }

/-- What the machine does next (log 4). -/
noncomputable def State.plan (s : State) : Plan :=
  match s.agenda with
  | i :: rest => .hardware i { s with agenda := rest }
  | [] =>
    match s.nextDue with
    | some (i, rest) => .hardware i { s with pend := rest }
    | none =>
      match s.liveCores.findSome? s.turnsOf with
      | some (.lend c) => .hardware (.lentCycle c) s
      | some (.thread t) => s.comeTo t
      | none =>
        match s.dueOf 2 s.pend with
        | some (i, rest) => .hardware i { s with pend := rest }
        | none => .settled s.nextCycle

/-! ## A word placed where the next fetch finds it -/

/-- The address of that word, and the tables that map it: page-table entries of one 1 GiB page of HBM at 0. -/
def fetchVa : Nat := 0x10000

/-- The bytes of the placed instruction and of the two tables above its page. -/
def placeWord (m : Memory) (w : Nat) : Memory :=
  pokeMem (pokeMem (pokeMem m (physKey 0 0x1000) (natToBytes 8 0x2001)) (physKey 0 0x2000) (natToBytes 8 3)) (physKey 0 fetchVa) (natToBytes 4 w)

/-- The thread that fetches it: slot 0 of core 0, ready. -/
def Thread.atWord (t : Thread) : Thread :=
  { t with occupied := true, pc := BitVec.ofNat 64 fetchVa, loopU := none, loopS := none, park := none, faulted := 0, hold := 0, stopped := false,
           startFault := none, word := none, lastIssue := none, dskip := true }

/-- Its core, running, with the right to fetch in its PLB. -/
def Core.atWord (c : Core) (now : Nat) : Core :=
  { c.plbFill (regionOf fetchVa) { r := true, w := true, x := true, a := true } now with
    halted := false, diverted := false, gated := false, issuedAt := none,
    fetched := terase (terase c.fetched (fetchVa / 2)) (fetchVa / 2 + 1), lines := c.lines.filter (fun l => l.key != physKey 0 fetchVa) }

/-- The home slice of that word holds its translation, and no parked list of its block (R361, R364). -/
def State.warmFetch (s : State) : State :=
  match s.walk fetchVa with
  | .error _ => s
  | .ok (pg, _) => s.updSlice (homeOf pg fetchVa) (fun x => { x with
      parked := x.parked.filter (fun p => p.block != fetchVa / 4096)
      walks := { block := fetchVa / 4096, page := pg, ready := 0, ctx := s.reserve s.me.ctx } :: x.walks })

/-- A state whose next step issues the word `w` (log 1). -/
def State.placed (s : State) (w : Nat) : State :=
  let now := (s.now / 16 + 1) * 16
  let s1 : State := { s with agenda := [], pend := [], ecc := [], was := [], fenced := [], now := now, root := tput 0 s.root 0 0x1001, mem := placeWord s.mem w }
  let s2 : State := { (s1.updThread 0 Thread.atWord).updCore 0 (fun c => c.atWord now) with cur := 0 }
  s2.warmFetch

end Sys2Proof.Machine
end

