-- ==== Sys2Proof/Machine/Step.lean ====
section
/-!
DEFINITION. One step of the machine: what comes next, done.
-/

namespace Sys2Proof.Machine

/-- Whether an attempt to issue has sent something: a request, or the first part of an instruction of several. -/
def State.sentBy (s1 s2 : State) : Bool := decide (s1.nextId ≠ s2.nextId) || 
  (decide (s1.me.phase ≠ (s2.thread s1.cur).phase) && decide ((s2.thread s1.cur).park ≠ some .plb))

/-- One step of the machine. -/
noncomputable def step (s : State) : Host.Outcome State Fault Refusal :=
  match s.plan with
  | .hardware i s1 => exec i s1
  | .issue t i s1 =>
    match exec i s1 with
    | .next s2 => .next (s2.settle t s1.me.epoch (s1.sentBy s2) (some s1.iword))
    | x => x
  | .settled s1 => .next s1

/-- `s` with an instruction of bits `w` where the next step fetches it. -/
def State.withFetchWord (s : State) (nbits w : Nat) : State := s.placed (w % 2 ^ nbits)

end Sys2Proof.Machine
end

