-- ==== Sys2Proof/Safety.lean ====
section
/-!
DEFINITION. What counts as a safe run, and the terms the claims use: steps that answer a next state, runs, the invariant of the state, the
conditions under which an instruction comes to its own effect (04 R74), and what an instruction leaves as it was.
-/

namespace Sys2Proof.Machine

/-! ## Runs and the invariant -/

/-- A step that neither faults nor refuses. -/
def Safe (s : State) : Prop := ∃ t, step s = .next t

/-- `t` is reached from `s` by steps that answer a next state. -/
inductive Runs : State → State → Prop where
  | refl (s : State) : Runs s s
  | step {s t u : State} (h : Runs s t) (h' : Sys2Proof.Machine.step t = .next u) : Runs s u

/-- The canonical form of memory: keys strictly rising, no byte listed that an unlisted one reads as. -/
def State.Inv (s : State) : Prop := Memory.wf s.mem = true

/-! ## Conditions on the operands -/

/-- Registers that hold a value (R22). -/
def State.hasFull (s : State) (l : List RegRef) : Prop := ∀ r ∈ l, s.me.stOf r = .full

/-- Registers that no fill is awaited for (R22, R74 step 7). -/
def State.notAwaited (s : State) (l : List RegRef) : Prop := ∀ r ∈ l, (s.me.stOf r).waits = false

/-- The operands of an instruction are there: its sources are FULL and no destination awaits a fill (R74 steps 5 to 7). -/
def State.Ready (s : State) (srcs dsts : List RegRef) : Prop := s.hasFull srcs ∧ s.notAwaited dsts

/-- An address that the issuing thread may access with these rights: it leads somewhere (R31-R34), it is aligned, and for a global one the
core's PLB holds its region with the right (R74 steps 8 to 10). -/
def State.Reaches (s : State) (va : Word) (size : Nat) (need : Rights → Bool) (p : Place) : Prop :=
  s.resolve s.cur va.toNat = some p ∧ va.toNat % size = 0 ∧
    (isGlobal va.toNat = true → ∃ r, (s.core (coreOf s.cur)).plbFind (regionOf va.toNat) = some r ∧ need r = true)

/-- A target that control may go to (R49, R77). -/
def State.Executable (s : State) (va : Word) : Prop :=
  va.toNat % 2 = 0 ∧ isGlobal va.toNat = true ∧ ∃ r, (s.core (coreOf s.cur)).plbFind (regionOf va.toNat) = some r ∧ r.x = true

/-- A thread that may send a further access of a class: no acquire of it is under way, and the class has room (R110, R140). -/
def State.MaySend (s : State) (c : CountClass) : Prop :=
  s.me.acquires = [] ∧ (c ≠ .none → s.me.count c < Config.maxOutstanding)

/-! ## What an instruction leaves as it was -/

/-- A thread of which only registers, masks, the PC and loop, and the bookkeeping of its issue have changed: every special register, its
level, counts, reservation and the rest are as they were. -/
def Thread.OnlyRegs (a b : Thread) : Prop :=
  b = { a with g := b.g, m := b.m, v := b.v, c := b.c, k := b.k, pc := b.pc, loopU := b.loopU, loopS := b.loopS, lastIssue := b.lastIssue,
               ownCycle := b.ownCycle, park := b.park, phase := b.phase, dskip := b.dskip, word := b.word,
               sibUnread := b.sibUnread, rfilled := b.rfilled }

/-- The frame of an instruction that reads and writes registers: only the issuing thread changes, and of it only the registers `l` and the
masks `ks`, besides the PC, the loop and the bookkeeping of the issue; no byte of memory and no full/empty bit changes. The SI copies in
the core's data cache may go, where a source is the first read of an `RFILL` (R292), and the PLB notes the use of an entry (R354). -/
structure OnlyRegs (s t : State) (l : List RegRef) (ks : List Nat) : Prop where
  state : t = { s with threads := t.threads, cores := t.cores }
  bytes : ∀ a, t.byte a = s.byte a
  others : ∀ u, u ≠ s.cur → t.thread u = s.thread u
  cores : ∀ c, t.core c = { s.core c with lines := (t.core c).lines, plb := (t.core c).plb }
  lines : ∀ c x, x ∈ (t.core c).lines → x ∈ (s.core c).lines
  plb : ∀ c r, (t.core c).plbFind r = (s.core c).plbFind r
  me : s.me.OnlyRegs t.me
  regs : ∀ r, r ∉ l → t.me.stOf r = s.me.stOf r ∧ t.me.valOf r = s.me.valOf r
  masks : ∀ i, i ∉ ks → t.me.kReg i = s.me.kReg i

/-- The PC after an instruction of `len` bytes that transfers no control: the next instruction, or the start of the active loop whose last
body instruction this was and which has a further pass (R48, R90). -/
def Thread.nextPc (t : Thread) (len : Nat) : Word :=
  let next := t.pc + BitVec.ofNat 64 len
  match t.loop with
  | some l =>
    if decide (l.start.toNat ≤ t.pc.toNat) && decide (t.pc.toNat < l.stop.toNat) && next == l.stop && decide (1 < l.remaining.toNat) then l.start
    else next
  | none => next

/-- The loop after a transfer of control to `target`: one that leaves an active loop's body ends it, and so does a call from the body
(R90). -/
def Thread.loopAfter (t : Thread) (target : Word) (call : Bool) : Option LoopState :=
  match t.loop with
  | some l =>
    if l.start.toNat ≤ t.pc.toNat ∧ t.pc.toNat < l.stop.toNat ∧ (call = true ∨ ¬ (l.start.toNat ≤ target.toNat ∧ target.toNat < l.stop.toNat))
    then none else some l
  | none => none

/-- Control goes to `target`, and of the registers only `l` change. -/
def Transfers (s t : State) (target : Word) (call : Bool) (l : List RegRef) : Prop :=
  t.me.pc = target ∧ t.me.loop = s.me.loopAfter target call ∧ OnlyRegs s t l []

/-- The trap of a thread at U whose context has a handler (R321): what it saves, and where it goes. Every register, mask, and byte of
memory is as it was. -/
structure Trapped (s t : State) (cause : Nat) (info : Word) (len : Nat) : Prop where
  epc : t.me.epc = s.me.pc &&& 0x00FFFFFFFFFFFFFF
  ecause : t.me.ecause = BitVec.ofNat 64 cause
  einfo : t.me.einfo = info
  estat : t.me.estat = BitVec.ofNat 64 ((if len = 2 then 0 else 1) + (if cause = cBREAK ∧ info ≠ 0 then 2 else 0))
  pc : t.me.pc = (s.ctx s.me.ctx).tvec
  level : t.me.level = .S
  loopU : t.me.loopU = none
  loopKept : (match s.me.loopU with
    | some l => t.me.elstart = l.start ∧ t.me.elcnt = l.remaining ∧ t.me.elctl = BitVec.ofNat 64 (2 ^ 63 + (l.stop - l.start).toNat / 2 % 2 ^ 9)
    | none => t.me.elctl = 0)
  resv : t.me.resv = none
  regs : ∀ r, t.me.stOf r = s.me.stOf r ∧ t.me.valOf r = s.me.valOf r
  masks : ∀ i, t.me.kReg i = s.me.kReg i
  bytes : ∀ a, t.byte a = s.byte a
  others : ∀ u, u ≠ s.cur → t.thread u = s.thread u

/-- A thread at U whose context has a trap handler (R321). -/
def State.HasHandler (s : State) : Prop := s.me.level = .U ∧ (s.ctx s.me.ctx).tvec ≠ 0

/-- A branch: where its condition holds and its target may be executed, control goes there; where it does not hold, the PC goes on; and a
target that fails the check traps (R49, R77). -/
def Branches (i : Instr) (len : Nat) (srcs : List RegRef) (taken : State → Prop) (target : State → Word) : Prop :=
  ∀ s, s.Ready srcs [] →
    (¬ taken s → ∃ t, exec i s = .next t ∧ t.me.pc = s.me.nextPc len ∧ OnlyRegs s t [] []) ∧
    (taken s → s.Executable (target s) → ∃ t, exec i s = .next t ∧ Transfers s t (target s) false []) ∧
    (taken s → s.HasHandler →
      ((target s).toNat % 2 = 1 → ∃ t, exec i s = .next t ∧ Trapped s t cALIGN (target s) len) ∧
      ((target s).toNat % 2 = 0 → (isGlobal (target s).toNat = false ∨
          ∃ r, (s.core (coreOf s.cur)).plbFind (regionOf (target s).toNat) = some r ∧ r.x = false) →
        ∃ t, exec i s = .next t ∧ Trapped s t cPROT (target s) len))

/-- Instruction `i` of `len` bytes, its sources FULL, completes: register `r` holds `v` (nothing is written to `g0`), the PC goes on, and
all else is as it was. -/
def Computes (i : Instr) (len : Nat) (srcs : List RegRef) (r : RegRef) (v : State → Nat) : Prop :=
  ∀ s, s.Ready srcs [r] → ∃ t, exec i s = .next t ∧ t.me.stOf r = .full ∧ t.me.valOf r = (if r = gRef 0 then 0 else v s) ∧
    t.me.pc = s.me.nextPc len ∧ OnlyRegs s t [r] []

/-- The same for a destination of each class. -/
def ComputesG (i : Instr) (len : Nat) (srcs : List RegRef) {n : Nat} (d : BitVec n) (v : State → Word) : Prop :=
  Computes i len srcs (gRef d.toNat) (fun s => (v s).toNat)
def ComputesM (i : Instr) (srcs : List RegRef) {n : Nat} (d : BitVec n) (v : State → MSet) : Prop :=
  Computes i 4 srcs (mRef d.toNat) (fun s => (v s).toNat)
def ComputesC (i : Instr) (srcs : List RegRef) {n : Nat} (d : BitVec n) (v : State → VCtx) : Prop :=
  Computes i 4 srcs (cRef d.toNat) (fun s => (v s).toNat)

/-- A lane result (R190): each active lane of `d` holds `f`, an inactive one zero for `z = 1`, else what it held, a VOID `d` counting as
zero. A predicate of no register with `z = 1` is no encoding and raises ILLEGAL. -/
def ComputesV (i : Instr) (srcs : List RegRef) (k : BitVec 3) (z : BitVec 1) {n : Nat} (d : BitVec n) (f : State → Nat → BitVec 32) : Prop :=
  ∀ s,
    (predOk k z = true → s.Ready srcs [vRef d.toNat] → ∃ t, exec i s = .next t ∧ t.me.stOf (vRef d.toNat) = .full ∧
      (∀ j, j < 32 → lane (t.me.vv d) j =
        if k = 0 ∨ (s.me.kReg k.toNat).getLsbD j = true then f s j
        else if z = 1 ∨ (s.me.stOf (vRef d.toNat)).empty = true then 0 else lane (s.me.vv d) j) ∧
      t.me.pc = s.me.nextPc 4 ∧ OnlyRegs s t [vRef d.toNat] []) ∧
    (predOk k z = false → s.HasHandler → ∃ t, exec i s = .next t ∧ Trapped s t cILLEGAL s.insnWord 4)

/-- A mask result: bit `j` of mask register `d` is `f j`. -/
def ComputesK (i : Instr) (srcs : List RegRef) (d : BitVec 3) (f : State → Nat → Bool) : Prop :=
  ∀ s, s.Ready srcs [] → ∃ t, exec i s = .next t ∧ (∀ j, j < 32 → (t.me.kReg d.toNat).getLsbD j = f s j) ∧
    t.me.pc = s.me.nextPc 4 ∧ OnlyRegs s t [] [d.toNat]

/-- A scalar floating-point result (R102): with no enabled flag among those raised, `d` holds `v` and the flags are ORed into `FPCTL`; else
the thread traps with cause FP, the flags in EINFO, ORed into `FPCTL`, and `d` as it was. -/
def ComputesF (i : Instr) (srcs : List RegRef) (d : BitVec 6) (f : State → Nat × FFlags) : Prop :=
  ∀ s, s.Ready srcs [gRef d.toNat] →
    let up : Thread → Thread := fun x => { x with fpctl := x.fpctl ||| ((f s).2.toBits.setWidth 64 <<< 3) }
    ((f s).2.toBits &&& BitVec.ofNat 5 (bits s.me.fpctl.toNat 12 8) = 0 →
      ∃ t, exec i s = .next t ∧ t.me.stOf (gRef d.toNat) = .full ∧ (d ≠ 0 → t.me.gv d = BitVec.ofNat 64 (f s).1) ∧
        t.me.pc = s.me.nextPc 4 ∧ OnlyRegs (s.upd up) t [gRef d.toNat] []) ∧
    ((f s).2.toBits &&& BitVec.ofNat 5 (bits s.me.fpctl.toNat 12 8) ≠ 0 → s.HasHandler →
      ∃ t, exec i s = .next t ∧ t.me.fpctl = (up s.me).fpctl ∧ Trapped (s.upd up) t cFP ((f s).2.toBits.setWidth 64) 4)

/-- What the issue of a division leaves behind (R80): `d` PENDING, the PC behind the instruction, the divider's fill 48 cycles on, and all
else as it was. -/
def Divides (s t : State) (d : BitVec 6) (v : Word) : Prop :=
  t.me.stOf (gRef d.toNat) = (if d = 0 then .full else .pending) ∧ t.me.pc = s.me.nextPc 4 ∧
    t.pend = tins s.pend (s.now + 48) (.dividerFill s.cur s.me.epoch d.toNat v) ∧ OnlyRegs s { t with pend := s.pend } [gRef d.toNat] []

/-! ## Accesses to memory -/

/-- The thread's context neither records nor replays (R7): its accesses take no ordinal. -/
def State.Unrolled (s : State) : Prop := s.myLevel ≠ 1 ∧ s.myLevel ≠ 2

/-- The special registers of a thread, but for `TBANKS`, which an access may add its group to (R134). -/
def Thread.special (t : Thread) : List Word :=
  [t.link, t.fpctl, t.qbase, t.qrec, t.epc, t.ecause, t.einfo, t.estat, t.escr, t.elcnt, t.elctl, t.elstart, t.ctxsel]

/-- What an instruction that sends something leaves as it was: memory, full/empty bits, contexts, the other threads, and the issuing thread's
registers but for `l`, its masks, special registers and level. -/
structure Untouched (s t : State) (l : List RegRef) : Prop where
  bytes : ∀ a, t.byte a = s.byte a
  empty : t.empty = s.empty
  ctxs : t.ctxs = s.ctxs
  others : ∀ u, u ≠ s.cur → t.thread u = s.thread u
  regs : ∀ r, r ∉ l → t.me.stOf r = s.me.stOf r ∧ t.me.valOf r = s.me.valOf r
  masks : ∀ i, t.me.kReg i = s.me.kReg i
  special : t.me.special = s.me.special
  level : t.me.level = s.me.level

/-- A long access sent (R108): one request more, on its way to its bank or home (or held to the end of its interval at FIXED, R126), its
destinations PENDING, its class's count one higher. -/
def Posted (s t : State) (r : Req) (l : List RegRef) : Prop :=
  let q : Req := { r with id := s.nextId, tid := s.cur, epoch := s.me.epoch, issued := s.now }
  t.reqs = s.reqs ++ [q] ∧
    (∃ n, (n, q.event 0) ∈ t.pend ∨ (q.op.batched = true ∧ s.myLevel = 3 ∧ (s.now / 256, s.nextId) ∈ t.batch ∧
      (n, Instr.atomicIntervalEnd (s.now / 256)) ∈ t.pend)) ∧
    (∀ x ∈ l, x ≠ gRef 0 → t.me.stOf x = .pending) ∧
    t.me.count r.cls = s.me.count r.cls + (if r.cls = .none then 0 else 1) ∧ Untouched s t l

/-- An access of several words sent (R36, R108, R286): one request more, each of its words on its way by itself to the bank or home that its address has now; one that names no
word has ended, with its reply on the way. -/
def WordsPosted (s t : State) (r : Req) (l : List RegRef) : Prop :=
  let q : Req := { r with id := s.nextId, tid := s.cur, epoch := s.me.epoch, issued := s.now, words := s.wordsOf r }
  t.reqs = s.reqs ++ [if q.words = [] then q.gathered else q] ∧
    (∀ i, i < q.words.length → ∃ n, (n, q.event i) ∈ t.pend) ∧ (q.words = [] → ∃ n, (n, q.gathered.replyStep) ∈ t.pend) ∧
    (∀ x ∈ l, x ≠ gRef 0 → t.me.stOf x = .pending) ∧
    t.me.count r.cls = s.me.count r.cls + (if r.cls = .none then 0 else 1) ∧ Untouched s t l

/-- No line of the address stands in the core's data cache. -/
def State.NoCopy (s : State) (va : Word) : Prop := ∀ l ∈ (s.core (coreOf s.cur)).lines, l.line ≠ va.toNat / 128

/-- An instruction that sends request `r` for an address it reaches (R74, R108): it goes on at once. -/
def Sends (i : Instr) (len : Nat) (srcs dsts : List RegRef) (size : Nat) (need : Rights → Bool) (va : State → Word) (guard : State → Place → Prop)
    (r : State → Place → Req) (l : List RegRef) : Prop :=
  ∀ s p, s.Ready srcs dsts → s.Reaches (va s) size need p → s.Unrolled → guard s p → s.MaySend (r s p).cls →
    ∃ t, exec i s = .next t ∧ t.me.pc = s.me.nextPc len ∧ Posted s t (r s p) l

/-- A load that its bank or home serves (R108, R111): posted, with `d` PENDING. -/
def LoadPosts (i : Instr) (len n : Nat) (sg : Bool) (srcs : List RegRef) {k : Nat} (d : BitVec k) (va : State → Word) (typ : BitVec 2)
    (acq rel : Bool) (scope : Nat) : Prop :=
  Sends i len srcs [gRef d.toNat] n Rights.r va (fun s p => s.atOnce p (va s) rel = false ∧ s.NoCopy (va s))
    (fun s p => { id := 0, tid := 0, epoch := 0, op := .load n sg, va := va s, place := p, dst := some (gRef d.toNat), cls := .loads,
                  acq := acq, rel := rel, scope := scope, typ := typ, short := p.short (va s) }) [gRef d.toNat]

/-- The banks of a short access's words take the cycle after its issue (R47, R240). -/
def State.shortTaken (s t : State) (l : List Nat) : Prop := t.banks = (s.shortWords l).banks

/-- What a short access performed at issue leaves: registers as `OnlyRegs` says, its banks' next cycle, and, for a release, the thread's
`TBANKS` (R135). -/
def ShortRegs (s t : State) (rel : Bool) (words : List Nat) (l : List RegRef) : Prop :=
  s.shortTaken t words ∧ (rel = false → t.me.tbanks = s.me.tbanks) ∧
    OnlyRegs s ({ t with banks := s.banks }.upd (fun x => { x with tbanks := s.me.tbanks })) l []

/-- A load performed at issue, in the core's own scratchpad (R11): `d` holds the extended little-endian number of the `n` bytes (R4, R111). One
that is a release too meets no dirty line here (R110). -/
def LoadReads (i : Instr) (len n : Nat) (sg : Bool) (srcs : List RegRef) {k : Nat} (d : BitVec k) (va : State → Word) (rel : Bool) : Prop :=
  ∀ s p, s.Ready srcs [gRef d.toNat] → s.Reaches (va s) n Rights.r p → s.Unrolled → s.MaySend .none → s.atOnce p (va s) rel = true →
    s.ecc = [] → (rel = true → ∀ e ∈ s.cores, e.2.lines = []) → ∃ t, exec i s = .next t ∧ t.me.pc = s.me.nextPc len ∧ t.me.stOf (gRef d.toNat) = .full ∧
      (gRef d.toNat ≠ gRef 0 → t.me.gv d = if sg then (BitVec.ofNat (8 * n) (s.getN p.chipKey n)).signExtend 64 else BitVec.ofNat 64 (s.getN p.chipKey n)) ∧
      ShortRegs s t rel [(va s).toNat] [gRef d.toNat]

/-- A store that its bank or home serves: posted, an outstanding store. -/
def StorePosts (i : Instr) (len n : Nat) (srcs : List RegRef) (va v : State → Word) (typ : BitVec 2) (acq rel : Bool)
    (scope : Nat) : Prop :=
  Sends i len srcs [] n Rights.w va (fun s p => s.atOnce p (va s) rel = false ∧ s.NoCopy (va s))
    (fun s p => { id := 0, tid := 0, epoch := 0, op := .store n (v s), va := va s, place := p, cls := .stores, acq := acq, rel := rel, scope := scope,
                  typ := typ, short := p.short (va s) }) []

/-- Nothing waits at a word or an object, no reservation is held, and no cache line is dirty: a write there has no effect besides. -/
def State.Calm (s : State) : Prop :=
  s.syncq = [] ∧ s.syncIn = [] ∧ s.waiters = [] ∧ s.ecc = [] ∧ (∀ e ∈ s.threads, e.2.resv = none) ∧ (∀ e ∈ s.cores, e.2.lines = [])

/-- A store performed at issue, in the core's own scratchpad: the `n` bytes at the address hold the low bytes of `v`, every other byte of
memory is as it was, and the word they lie in is FULL (R43). -/
def StoreWrites (i : Instr) (len n : Nat) (srcs : List RegRef) (va v : State → Word) (rel : Bool) : Prop :=
  ∀ s p, s.Ready srcs [] → s.Reaches (va s) n Rights.w p → s.Unrolled → s.MaySend .none → s.atOnce p (va s) rel = true → s.Calm →
    ∃ t, exec i s = .next t ∧ t.me.pc = s.me.nextPc len ∧
      (∀ a, t.byte a = if p.chipKey ≤ a ∧ a < p.chipKey + n then ((v s).extractLsb' (8 * (a - p.chipKey)) 8) else s.byte a) ∧
      t.isEmpty p.chipKey = false ∧ (∀ w, w ∈ t.empty → w ∈ s.empty) ∧ t.reqs = s.reqs ∧
      (∀ r, t.me.stOf r = s.me.stOf r ∧ t.me.valOf r = s.me.valOf r) ∧ (∀ j, t.me.kReg j = s.me.kReg j) ∧ t.me.special = s.me.special ∧
      t.me.level = s.me.level ∧ (∀ u, u ≠ s.cur → t.thread u = s.thread u)

/-- A plain load whose line `l` the core's data cache holds (R39, R46): the register awaits the value in the line, which comes 24 cycles on. -/
def LoadHits (i : Instr) (len n : Nat) (sg : Bool) (srcs : List RegRef) {k : Nat} (d : BitVec k) (va : State → Word) (typ : BitVec 2) : Prop :=
  ∀ s p l, s.Ready srcs [gRef d.toNat] → s.Reaches (va s) n Rights.r p → s.MaySend .loads → isGlobal (va s).toNat = true →
    s.busyWord (va s).toNat = false → s.shortOpen = false → (s.core (coreOf s.cur)).loadLine (va s).toNat (s.typeAt (coreOf s.cur) (va s).toNat typ) false = some l →
    let w := l.data.toNat / 2 ^ (8 * ((va s).toNat % 128)) % 2 ^ (8 * n)
    ∃ t q, exec i s = .next t ∧ t.me.pc = s.me.nextPc len ∧ t.reqs = s.reqs ++ [q] ∧ q.id = s.nextId ∧ q.tid = s.cur ∧ q.state = .performed ∧
      q.dst = some (gRef d.toNat) ∧ q.val = (if sg then (BitVec.ofNat (8 * n) w).signExtend 64 else BitVec.ofNat 64 w).setWidth 1024 ∧
      (s.now + 24, Instr.fillLands s.nextId) ∈ t.pend ∧ (gRef d.toNat ≠ gRef 0 → t.me.stOf (gRef d.toNat) = .pending) ∧
      t.me.loads = s.me.loads + 1 ∧ Untouched s t [gRef d.toNat]

/-- A plain store whose OW line `l` the core's data cache holds: the line takes the bytes and is dirty, memory is as it was, and the store is
acknowledged 24 cycles on (R39; R46 gives that time for a load that hits: for a store it is the model's choice, log 5). -/
def StoreHits (i : Instr) (len n : Nat) (srcs : List RegRef) (va v : State → Word) (typ : BitVec 2) : Prop :=
  ∀ s p l, s.Ready srcs [] → s.Reaches (va s) n Rights.w p → s.MaySend .stores → isGlobal (va s).toNat = true → s.busyWord (va s).toNat = false →
    s.shortOpen = false → (s.core (coreOf s.cur)).storeLine (va s).toNat typ = some l → s.syncq = [] → s.syncIn = [] → (∀ e ∈ s.threads, e.2.resv = none) →
    let o := (va s).toNat % 128
    ∃ t q y, exec i s = .next t ∧ t.me.pc = s.me.nextPc len ∧ t.reqs = s.reqs ++ [q] ∧ q.id = s.nextId ∧ q.tid = s.cur ∧ q.state = .performed ∧
      (s.now + 24, Instr.storeAck s.nextId) ∈ t.pend ∧ t.me.stores = s.me.stores + 1 ∧
      y ∈ (t.core (coreOf s.cur)).lines ∧ y.line = l.line ∧ y.kind = .ow ∧ y.dirty = true ∧
      (∀ j, j < 128 → y.data.extractLsb' (8 * j) 8 = if o ≤ j ∧ j < o + n then (v s).extractLsb' (8 * (j - o)) 8 else l.data.extractLsb' (8 * j) 8) ∧
      (∀ a, t.byte a = s.byte a) ∧ (∀ w, w ∈ t.empty → w ∈ s.empty) ∧ (∀ u, u ≠ s.cur → t.thread u = s.thread u) ∧
      (∀ r, t.me.stOf r = s.me.stOf r ∧ t.me.valOf r = s.me.valOf r)

/-- The active lanes of a predicate (R190). -/
def State.activeLanes (s : State) (k : BitVec 3) : List Nat := (List.range 32).filter (fun j => decide (k = 0) || (s.me.kReg k.toNat).getLsbD j)

/-- The active lanes' addresses all lie in the window of `g` and are reached (R198). -/
def State.LanesReach (s : State) (k : BitVec 3) (g : Word) (ea : Nat → Word) (need : Rights → Bool) : Prop :=
  ∀ j ∈ s.activeLanes k, sameWindow g.toNat (ea j).toNat = true ∧ ∃ p, s.Reaches (ea j) 4 need p

/-- The field at word `w` of the query records, of a width, at `f` in record 0: the checks of R211 hold. -/
def State.FieldAt (s : State) (w : BitVec 6) (width : Nat) (f : Word) : Prop :=
  let size := bits s.me.qrec.toNat 8 4 * 16
  size ≠ 0 ∧ (windowOf s.me.qbase.toNat = 0xF2 ∨ windowOf s.me.qbase.toNat = 0xF3 ∨ windowOf s.me.qbase.toNat = 0xF5) ∧
    s.me.qbase.toNat / 2 ^ 56 = 0 ∧ size ≤ 256 ∧
    s.me.qbase.toNat % 16 = 0 ∧ (s.resolve s.cur s.me.qbase.toNat).isSome ∧ (s.resolve s.cur (s.me.qbase.toNat + 1024 * size - 1)).isSome ∧
    s.recReach = true ∧ 4 * w.toNat + width ≤ size ∧ f = s.me.qbase + BitVec.ofNat 64 (4 * w.toNat)

/-- A thread that may run traversal instructions: a program slot of a compute core (R214). -/
def State.MayTraverse (s : State) : Prop := slotOf s.cur ≠ 15 ∧ isMem (coreOf s.cur) = false

/-! ## Commands and messages -/

/-- A bell that a command may name: none, or a window's address of an alignment (R44, R233 step 7). -/
def State.BellOk (s : State) (va : Word) (align : Nat) : Prop :=
  va = 0 ∨ (isGlobal va.toNat = false ∧ (s.resolve s.cur va.toNat).isSome = true ∧ va.toNat % align = 0)

/-- A range that a command may name (R233): it lies within one window, and the PLB holds its regions with the right. -/
def State.RangeReach (s : State) (va len : Word) (need : Rights → Bool) : Prop :=
  s.rangeOk s.me.part (coreOf s.cur) va.toNat len.toNat = true ∧
    ∀ a ∈ regionsOf va.toNat len.toNat, ∃ r, (s.core (coreOf s.cur)).plbFind (regionOf a) = some r ∧ need r = true

/-- A thread that may post a copy command: no acquire of it is under way, the engine has a free entry, and it has fewer than 62 outstanding
(R110, R140, R239). -/
def State.MayCopy (s : State) : Prop :=
  s.me.acquires = [] ∧ (s.core (coreOf s.cur)).copyq.length < Config.copyEntries ∧ s.me.copies < Config.maxOutstanding

/-- A command posted to the copy engine of the thread's core, which accepts it 4 cycles on (R239). -/
def CopyPosted (s t : State) (c : CopyCmd) : Prop :=
  t.copies = s.copies ++ [{ c with id := s.nextId, tid := s.cur, epoch := s.me.epoch, core := coreOf s.cur, part := s.me.part, ctx := s.me.ctx,
                                   launch := s.me.launch, lti := s.me.lti }] ∧
    t.pend = tins s.pend (s.now + 4) (.copyAccept s.nextId) ∧ (t.core (coreOf s.cur)).copyq = (s.core (coreOf s.cur)).copyq ++ [s.nextId] ∧
    t.me.copies = s.me.copies + 1 ∧ t.me.pc = s.me.nextPc 4 ∧ Untouched s t []

/-- The same for the tile queue of the thread's die (R254, R256, R264). -/
def State.MayTile (s : State) : Prop :=
  s.MayTraverse ∧ s.me.acquires = [] ∧ (s.die (dieOf (coreOf s.cur))).tileq.length < Config.tileEntries ∧ s.me.tiles < Config.maxOutstanding
def TilePosted (s t : State) (c : TileCmd) : Prop :=
  t.tileCmds = s.tileCmds ++ [{ c with id := s.nextId }] ∧ t.pend = tins s.pend (s.now + Config.tileAccept) (.taskAccept s.nextId) ∧
    (t.die (dieOf (coreOf s.cur))).tileq = (s.die (dieOf (coreOf s.cur))).tileq ++ [s.nextId] ∧ t.me.tiles = s.me.tiles + 1 ∧
    t.me.pc = s.me.nextPc 4 ∧ Untouched s t []

/-- A packet sent, with the request it belongs to (R278, R289, R292): it stands at its source router, and its first hop comes a cycle on. -/
def PacketSent (s t : State) (op : MemOp) (va : Word) (cls : CountClass) (l : List RegRef) (dst name : Nat) (typ flits : Nat) (payload : List Word)
    (handler : Word) : Prop :=
  (∃ r, t.reqs = s.reqs ++ [r] ∧ r.id = s.nextId ∧ r.op = op ∧ r.va = va ∧ r.cls = cls ∧ r.rel = true ∧ r.tid = s.cur ∧ r.epoch = s.me.epoch) ∧
    (∃ p, t.packets = s.packets ++ [p] ∧ p.typ = typ ∧ p.dst = dst ∧ p.name = name ∧ p.req = s.nextId ∧ p.flits = flits ∧ p.payload = payload ∧
      p.handler = handler ∧ p.place = .source ∧ p.at_ = routerOf (coreOf s.cur) ∧ p.tenant = s.me.part ∧ p.tid = s.cur ∧
      t.pend = tins s.pend (s.now + 1) (.packetHop p.id)) ∧
    (∀ x ∈ l, x ≠ gRef 0 → t.me.stOf x = .pending) ∧ t.me.count cls = s.me.count cls + 1 ∧ t.me.pc = s.me.nextPc 4 ∧ Untouched s t l

/-! ## Code -/

/-- No copy of a line stands in a data cache, no byte has an ECC error, and no code has changed since it could be fetched (R51). -/
def State.Unchanged (s : State) : Prop := s.ecc = [] ∧ s.was = [] ∧ ∀ e ∈ s.cores, e.2.lines = []

/-! ## The hardware's own steps -/

/-- A step that leaves memory, full/empty bits and every thread but `us` as they were. -/
def Aside (s t : State) (us : List Nat) : Prop :=
  (∀ a, t.byte a = s.byte a) ∧ t.empty = s.empty ∧ ∀ u, u ∉ us → t.thread u = s.thread u

/-- A step of the hardware placed at a cycle. -/
def State.Placed (t : State) (n : Nat) (i : Instr) : Prop := (n, i) ∈ t.pend

/-- A request that is new at its server joins those that wait there (R240). -/
def State.Joins (s t : State) (x : BankItem) : Prop :=
  t.bankq = s.bankq ++ [{ x with turn := s.nextTurn }] ∧ t.Placed s.now x.who ∧ t.reqs = s.reqs ∧ Aside s t []

/-- A step's request has the cycle of its server: it waits there, and R240's choice, with the requests that wait now, is this one. -/
def State.HasCycle (s : State) (i : Instr) (v : Server) : Prop :=
  ∃ y, s.itemOf i = some y ∧ y.who = i ∧
    ({ s with bankq := (s.leaveBank i).bankq ++ [{ y with server := v }] } : State).cycleOf v = some { y with server := v }

/-- A request of one word on its way that may go to its server as it comes: none of its thread holds it, no earlier packet of its stream is behind,
its context neither records nor replays, no page is being invalidated, and its way is open (R109, R110, R282, R285, R365). -/
def State.Arrives (s : State) (r : Req) : Prop :=
  s.req r.id = some r ∧ r.state = .going ∧ r.words = [] ∧ s.held r = false ∧ (∀ c o, r.place = .core c o → s.follows r c = false) ∧ s.levelOf (s.thread r.tid).ctx ≠ 1 ∧ s.levelOf (s.thread r.tid).ctx ≠ 2 ∧ (∀ e ∈ s.dies, e.2.invals = []) ∧
    (∀ back, s.routeFault (s.thread r.tid).part (coreOf r.tid) r.place back = none) ∧ s.resolve r.tid r.va.toNat = some r.place

/-- An HBM page that is neither of siblings nor of an accumulate range, serves notify registers or counts accesses, and whose channel works
(R37, R166, R169, R339, R366, R370, R411). -/
def State.PlainPage (s : State) (pg : Page) (va : Nat) : Prop :=
  pg.place = 0 ∧ pg.sib = false ∧ pg.accum = false ∧ s.notifyPart pg = none ∧ s.pageDead pg va = false ∧
    (s.die (homeOf pg va / 16)).mctl.getLsbD 8 = false ∧ (s.die (homeOf pg va / 16)).hctl.getLsbD 8 = false

/-- A plain page that an agent which is no thread may access now: no invalidation of it is under way and no list is parked on it (R364, R365). -/
def State.OpenPage (s : State) (va : Nat) (pg : Page) : Prop :=
  s.invalidating va = false ∧ (∃ levels, s.walk va = .ok (pg, levels)) ∧ s.PlainPage pg va ∧ s.isParked (homeOf pg va) va = false

/-- Such a page whose home holds the translation for a context (R361). -/
def State.AgentPage (s : State) (ctx va : Nat) (pg : Page) : Prop := s.OpenPage va pg ∧ s.walkCached (homeOf pg va) va ctx = true

/-- A halfword of code in a plain page that the issuing thread may execute now, with its storage key (R48, R49): the core has it from an earlier
fetch, or nothing stops it on its way and its home holds the translation (R285, R361, R411); no list is parked on its page and no invalidation of
it is under way (R364, R365). -/
def State.HalfAt (s : State) (va key : Nat) : Prop :=
  let c := coreOf s.cur
  let have_ := (tfind (s.core c).fetched (va / 2)).isSome = true
  isGlobal va = true ∧ (∃ r, (s.core c).plbFind (regionOf va) = some r ∧ r.x = true) ∧ s.invalidating va = false ∧
    (have_ ∨ ∀ back, s.routeFault s.me.part c (.global va) back = none) ∧
    ∃ pg levels, s.walk va = .ok (pg, levels) ∧ s.PlainPage pg va ∧ s.isParked (homeOf pg va) va = false ∧
      (have_ ∨ s.walkCached (homeOf pg va) va s.me.ctx = true) ∧ pg.key = key

/-- `n` halfwords of code at an address, with their bytes. -/
def State.CodeAt (s : State) (va n : Nat) (body : List Byte) : Prop :=
  body.length = 2 * n ∧ ∀ j, j < n → ∃ key, s.HalfAt (va + 2 * j) key ∧ body.getD (2 * j) 0 = s.byte key ∧ body.getD (2 * j + 1) 0 = s.byte (key + 1)

/-- A place on chip whose core is not pre-empted (R377). -/
def State.OnChip (s : State) (r : Req) : Prop :=
  isGlobal r.va.toNat = false ∧ (match r.place with | .core c _ => s.spillAt c (s.thread r.tid).part (r.event 0) = none | .die .. => True | .global _ => False)

end Sys2Proof.Machine
end

