-- ==== Sys2Proof/Certificates/Slice0/Obligations.lean ====
section
/-!
DEFINITION. The statements for the provers. Each names the rules of spec/ it formalises; a clause that rests on a choice of the model names
the log entry in notes/assumptions.
-/

open Sys2Proof Sys2Proof.Machine


/-! ## Integer instructions -/

/-- R71. The 16-bit two-address forms: `d` and `s` (or a five-bit immediate) give `d`. -/
def Obligations.ShortFormResults : Prop :=
  ∀ (x d : BitVec 5),
    ComputesG (.mv x d) 2 [gRef x.toNat] d (fun s => s.me.gv x) ∧
    ComputesG (.li x d) 2 [] d (fun _ => x.signExtend 64) ∧
    ComputesG (.addC16 x d) 2 [gRef d.toNat, gRef x.toNat] d (fun s => s.me.gv d + s.me.gv x) ∧
    ComputesG (.subC16 x d) 2 [gRef d.toNat, gRef x.toNat] d (fun s => s.me.gv d - s.me.gv x) ∧
    ComputesG (.andC16 x d) 2 [gRef d.toNat, gRef x.toNat] d (fun s => s.me.gv d &&& s.me.gv x) ∧
    ComputesG (.orC16 x d) 2 [gRef d.toNat, gRef x.toNat] d (fun s => s.me.gv d ||| s.me.gv x) ∧
    ComputesG (.xorC16 x d) 2 [gRef d.toNat, gRef x.toNat] d (fun s => s.me.gv d ^^^ s.me.gv x) ∧
    ComputesG (.shlC16 x d) 2 [gRef d.toNat, gRef x.toNat] d (fun s => s.me.gv d <<< ((s.me.gv x).toNat % 64)) ∧
    ComputesG (.shrC16 x d) 2 [gRef d.toNat, gRef x.toNat] d (fun s => s.me.gv d >>> ((s.me.gv x).toNat % 64)) ∧
    ComputesG (.sarC16 x d) 2 [gRef d.toNat, gRef x.toNat] d (fun s => (s.me.gv d).sshiftRight ((s.me.gv x).toNat % 64)) ∧
    ComputesG (.mulC16 x d) 2 [gRef d.toNat, gRef x.toNat] d (fun s => s.me.gv d * s.me.gv x) ∧
    ComputesG (.minC16 x d) 2 [gRef d.toNat, gRef x.toNat] d
      (fun s => if (s.me.gv d).toInt ≤ (s.me.gv x).toInt then s.me.gv d else s.me.gv x) ∧
    ComputesG (.maxC16 x d) 2 [gRef d.toNat, gRef x.toNat] d
      (fun s => if (s.me.gv d).toInt ≤ (s.me.gv x).toInt then s.me.gv x else s.me.gv d) ∧
    ComputesG (.sltC16 x d) 2 [gRef d.toNat, gRef x.toNat] d (fun s => if (s.me.gv d).toInt < (s.me.gv x).toInt then 1 else 0) ∧
    ComputesG (.addiC16 x d) 2 [gRef d.toNat] d (fun s => s.me.gv d + x.signExtend 64) ∧
    ComputesG (.subi x d) 2 [gRef d.toNat] d (fun s => s.me.gv d - x.setWidth 64) ∧
    ComputesG (.andiC16 x d) 2 [gRef d.toNat] d (fun s => s.me.gv d &&& x.setWidth 64) ∧
    ComputesG (.oriC16 x d) 2 [gRef d.toNat] d (fun s => s.me.gv d ||| x.setWidth 64) ∧
    ComputesG (.xoriC16 x d) 2 [gRef d.toNat] d (fun s => s.me.gv d ^^^ x.setWidth 64) ∧
    ComputesG (.shliC16 x d) 2 [gRef d.toNat] d (fun s => s.me.gv d <<< x.toNat) ∧
    ComputesG (.shriC16 x d) 2 [gRef d.toNat] d (fun s => s.me.gv d >>> x.toNat) ∧
    ComputesG (.sariC16 x d) 2 [gRef d.toNat] d (fun s => (s.me.gv d).sshiftRight x.toNat) ∧
    ComputesG (.muliC16 x d) 2 [gRef d.toNat] d (fun s => s.me.gv d * x.signExtend 64) ∧
    ComputesG (.mini x d) 2 [gRef d.toNat] d (fun s => if (s.me.gv d).toInt ≤ x.toInt then s.me.gv d else x.signExtend 64) ∧
    ComputesG (.maxi x d) 2 [gRef d.toNat] d (fun s => if (s.me.gv d).toInt ≤ x.toInt then x.signExtend 64 else s.me.gv d) ∧
    ComputesG (.sltiC16 x d) 2 [gRef d.toNat] d (fun s => if (s.me.gv d).toInt < x.toInt then 1 else 0)

/-- R78. ALU: `d` from `a` and `b`.
R79. ALUX over one source and over two: counts and reversals are said bit by bit, products by the exact integer product. -/
def Obligations.AluResults : Prop :=
  (∀ (b a d : BitVec 6),
    ComputesG (.add b a d) 4 [gRef a.toNat, gRef b.toNat] d (fun s => s.me.gv a + s.me.gv b) ∧
    ComputesG (.sub b a d) 4 [gRef a.toNat, gRef b.toNat] d (fun s => s.me.gv a - s.me.gv b) ∧
    ComputesG (.and b a d) 4 [gRef a.toNat, gRef b.toNat] d (fun s => s.me.gv a &&& s.me.gv b) ∧
    ComputesG (.or b a d) 4 [gRef a.toNat, gRef b.toNat] d (fun s => s.me.gv a ||| s.me.gv b) ∧
    ComputesG (.xor b a d) 4 [gRef a.toNat, gRef b.toNat] d (fun s => s.me.gv a ^^^ s.me.gv b) ∧
    ComputesG (.shl b a d) 4 [gRef a.toNat, gRef b.toNat] d (fun s => s.me.gv a <<< ((s.me.gv b).toNat % 64)) ∧
    ComputesG (.shr b a d) 4 [gRef a.toNat, gRef b.toNat] d (fun s => s.me.gv a >>> ((s.me.gv b).toNat % 64)) ∧
    ComputesG (.sar b a d) 4 [gRef a.toNat, gRef b.toNat] d (fun s => (s.me.gv a).sshiftRight ((s.me.gv b).toNat % 64)) ∧
    ComputesG (.mul b a d) 4 [gRef a.toNat, gRef b.toNat] d (fun s => s.me.gv a * s.me.gv b) ∧
    ComputesG (.min b a d) 4 [gRef a.toNat, gRef b.toNat] d
      (fun s => if (s.me.gv a).toInt ≤ (s.me.gv b).toInt then s.me.gv a else s.me.gv b) ∧
    ComputesG (.max b a d) 4 [gRef a.toNat, gRef b.toNat] d
      (fun s => if (s.me.gv a).toInt ≤ (s.me.gv b).toInt then s.me.gv b else s.me.gv a) ∧
    ComputesG (.minu b a d) 4 [gRef a.toNat, gRef b.toNat] d
      (fun s => if (s.me.gv a).toNat ≤ (s.me.gv b).toNat then s.me.gv a else s.me.gv b) ∧
    ComputesG (.maxu b a d) 4 [gRef a.toNat, gRef b.toNat] d
      (fun s => if (s.me.gv a).toNat ≤ (s.me.gv b).toNat then s.me.gv b else s.me.gv a) ∧
    ComputesG (.slt b a d) 4 [gRef a.toNat, gRef b.toNat] d (fun s => if (s.me.gv a).toInt < (s.me.gv b).toInt then 1 else 0) ∧
    ComputesG (.sltu b a d) 4 [gRef a.toNat, gRef b.toNat] d (fun s => if (s.me.gv a).toNat < (s.me.gv b).toNat then 1 else 0) ∧
    ComputesG (.seq b a d) 4 [gRef a.toNat, gRef b.toNat] d (fun s => if s.me.gv a = s.me.gv b then 1 else 0) ∧
    ComputesG (.sne b a d) 4 [gRef a.toNat, gRef b.toNat] d (fun s => if s.me.gv a = s.me.gv b then 0 else 1) ∧
    ComputesG (.addw b a d) 4 [gRef a.toNat, gRef b.toNat] d
      (fun s => ((s.me.gv a).setWidth 32 + (s.me.gv b).setWidth 32 : BitVec 32).signExtend 64) ∧
    ComputesG (.subw b a d) 4 [gRef a.toNat, gRef b.toNat] d
      (fun s => ((s.me.gv a).setWidth 32 - (s.me.gv b).setWidth 32 : BitVec 32).signExtend 64)) ∧
  ((∀ (b a d : BitVec 6),
    ComputesG (.clz a d) 4 [gRef a.toNat] d (fun s => BitVec.ofNat 64 (clz64 (s.me.gv a))) ∧
    ComputesG (.ctz a d) 4 [gRef a.toNat] d (fun s => BitVec.ofNat 64 (lowestBit (s.me.gv a).toNat 64 0)) ∧
    ComputesG (.popc a d) 4 [gRef a.toNat] d
      (fun s => BitVec.ofNat 64 ((List.range 64).filter (fun i => (s.me.gv a).getLsbD i)).length) ∧
    ComputesG (.brev a d) 4 [gRef a.toNat] d (fun s => brev64 (s.me.gv a)) ∧
    ComputesG (.bswap a d) 4 [gRef a.toNat] d (fun s => bswap64 (s.me.gv a)) ∧
    ComputesG (.sextb a d) 4 [gRef a.toNat] d (fun s => ((s.me.gv a).setWidth 8).signExtend 64) ∧
    ComputesG (.sexth a d) 4 [gRef a.toNat] d (fun s => ((s.me.gv a).setWidth 16).signExtend 64) ∧
    ComputesG (.sextw a d) 4 [gRef a.toNat] d (fun s => ((s.me.gv a).setWidth 32).signExtend 64) ∧
    ComputesG (.zextw a d) 4 [gRef a.toNat] d (fun s => ((s.me.gv a).setWidth 32).setWidth 64) ∧
    ComputesG (.rol b a d) 4 [gRef a.toNat, gRef b.toNat] d (fun s => (s.me.gv a).rotateLeft ((s.me.gv b).toNat % 64)) ∧
    ComputesG (.ror b a d) 4 [gRef a.toNat, gRef b.toNat] d (fun s => (s.me.gv a).rotateRight ((s.me.gv b).toNat % 64)) ∧
    ComputesG (.andn b a d) 4 [gRef a.toNat, gRef b.toNat] d (fun s => s.me.gv a &&& ~~~(s.me.gv b)) ∧
    ComputesG (.mulh b a d) 4 [gRef a.toNat, gRef b.toNat] d
      (fun s => BitVec.ofInt 64 ((s.me.gv a).toInt * (s.me.gv b).toInt / 2 ^ 64)) ∧
    ComputesG (.mulhu b a d) 4 [gRef a.toNat, gRef b.toNat] d
      (fun s => BitVec.ofNat 64 ((s.me.gv a).toNat * (s.me.gv b).toNat / 2 ^ 64)) ∧
    ComputesG (.mulhsu b a d) 4 [gRef a.toNat, gRef b.toNat] d
      (fun s => BitVec.ofInt 64 ((s.me.gv a).toInt * ((s.me.gv b).toNat : Int) / 2 ^ 64))) ∧
  (∀ w : Word, (∀ i, i < clz64 w → w.getLsbD (63 - i) = false) ∧ clz64 w ≤ 64 ∧ (clz64 w < 64 → w.getLsbD (63 - clz64 w) = true)) ∧
  (∀ w : Word, (∀ i, i < lowestBit w.toNat 64 0 → w.getLsbD i = false) ∧ lowestBit w.toNat 64 0 ≤ 64 ∧
    (lowestBit w.toNat 64 0 < 64 → w.getLsbD (lowestBit w.toNat 64 0) = true)) ∧
  (∀ (w : Word) (i : Nat), i < 64 → (brev64 w).getLsbD i = w.getLsbD (63 - i)) ∧
  (∀ (w : Word) (i : Nat), i < 8 → (bswap64 w).extractLsb' (8 * i) 8 = w.extractLsb' (8 * (7 - i)) 8))

/-- R80. DIV, DIVU, REM, REMU: the destination turns PENDING and the PC goes on at once; 48 cycles later the divider fills it with the
truncated quotient or the remainder of the dividend's sign, with R80's values for a divisor of 0 and for the one overflow; the fill makes it FULL, and the thread
tries its instruction again. -/
def Obligations.DividerResults : Prop :=
  (∀ (b a d : BitVec 6) (s : State), s.Ready [gRef a.toNat, gRef b.toNat] [gRef d.toNat] →
    (∃ t, exec (.div b a d) s = .next t ∧ Divides s t d (divS (s.me.gv a) (s.me.gv b))) ∧
    (∃ t, exec (.divu b a d) s = .next t ∧ Divides s t d (divU (s.me.gv a) (s.me.gv b))) ∧
    (∃ t, exec (.rem b a d) s = .next t ∧ Divides s t d (remS (s.me.gv a) (s.me.gv b))) ∧
    (∃ t, exec (.remu b a d) s = .next t ∧ Divides s t d (remU (s.me.gv a) (s.me.gv b)))) ∧
  (∀ a : Word, divS a 0 = BitVec.allOnes 64 ∧ divU a 0 = BitVec.allOnes 64 ∧ remS a 0 = a ∧ remU a 0 = a) ∧
  (∀ a b : Word, b ≠ 0 → ¬ (a = BitVec.intMin 64 ∧ b = BitVec.allOnes 64) → a.toInt = (divS a b).toInt * b.toInt + (remS a b).toInt) ∧
  (∀ a b : Word, b ≠ 0 → divU a b = BitVec.ofNat 64 (a.toNat / b.toNat) ∧ remU a b = BitVec.ofNat 64 (a.toNat % b.toNat) ∧
    divS a b = BitVec.ofInt 64 (a.toInt.tdiv b.toInt) ∧ remS a b = BitVec.ofInt 64 (a.toInt.tmod b.toInt)) ∧
  (divS (BitVec.intMin 64) (BitVec.allOnes 64) = BitVec.intMin 64 ∧ remS (BitVec.intMin 64) (BitVec.allOnes 64) = 0) ∧
  (∀ (s : State) (tid epoch r : Nat) (v : Word), (s.thread tid).occupied = true → (s.thread tid).epoch = epoch → 0 < r → r < 64 → ((s.thread tid).stOf (gRef r)).waits = true →
    ∃ t, exec (.dividerFill tid epoch r v) s = .next t ∧ (t.thread tid).valOf (gRef r) = v.toNat ∧ (t.thread tid).stOf (gRef r) = .full ∧
      (t.thread tid).park = none ∧ (∀ x, x ≠ gRef r → (t.thread tid).stOf x = (s.thread tid).stOf x ∧ (t.thread tid).valOf x = (s.thread tid).valOf x) ∧
      Aside s t [tid]) ∧
  (∀ (s : State) (tid epoch r : Nat) (v : Word), (s.thread tid).occupied = false ∨ (s.thread tid).epoch ≠ epoch → exec (.dividerFill tid epoch r v) s = .next s) ∧
  decodeTableWord 32 0x40490583 = some (.div 9 8 11)

/-- R81-R85. The immediate forms, and LIU, ADDPC, LIC, LICO and LICN. -/
def Obligations.ImmediateResults : Prop :=
  (∀ (i : BitVec 13) (a d : BitVec 6),
    ComputesG (.addi i a d) 4 [gRef a.toNat] d (fun s => s.me.gv a + i.signExtend 64) ∧
    ComputesG (.andi i a d) 4 [gRef a.toNat] d (fun s => s.me.gv a &&& i.signExtend 64) ∧
    ComputesG (.ori i a d) 4 [gRef a.toNat] d (fun s => s.me.gv a ||| i.signExtend 64) ∧
    ComputesG (.xori i a d) 4 [gRef a.toNat] d (fun s => s.me.gv a ^^^ i.signExtend 64) ∧
    ComputesG (.muli i a d) 4 [gRef a.toNat] d (fun s => s.me.gv a * i.signExtend 64)) ∧
  (∀ (n a d : BitVec 6),
    ComputesG (.shli n a d) 4 [gRef a.toNat] d (fun s => s.me.gv a <<< n.toNat) ∧
    ComputesG (.shri n a d) 4 [gRef a.toNat] d (fun s => s.me.gv a >>> n.toNat) ∧
    ComputesG (.sari n a d) 4 [gRef a.toNat] d (fun s => (s.me.gv a).sshiftRight n.toNat) ∧
    ComputesG (.rori n a d) 4 [gRef a.toNat] d (fun s => (s.me.gv a).rotateRight n.toNat)) ∧
  (∀ (v : BitVec 10) (a d : BitVec 6),
    ComputesG (.seqi v a d) 4 [gRef a.toNat] d (fun s => if s.me.gv a = v.signExtend 64 then 1 else 0) ∧
    ComputesG (.snei v a d) 4 [gRef a.toNat] d (fun s => if s.me.gv a = v.signExtend 64 then 0 else 1) ∧
    ComputesG (.slti v a d) 4 [gRef a.toNat] d (fun s => if (s.me.gv a).toInt < v.toInt then 1 else 0) ∧
    ComputesG (.sgei v a d) 4 [gRef a.toNat] d (fun s => if v.toInt ≤ (s.me.gv a).toInt then 1 else 0) ∧
    ComputesG (.sltui v a d) 4 [gRef a.toNat] d (fun s => if (s.me.gv a).toNat < (v.signExtend 64).toNat then 1 else 0) ∧
    ComputesG (.sgeui v a d) 4 [gRef a.toNat] d (fun s => if (v.signExtend 64).toNat ≤ (s.me.gv a).toNat then 1 else 0)) ∧
  (∀ (i : BitVec 19) (d : BitVec 6),
    ComputesG (.liu i d) 4 [] d (fun _ => i.signExtend 64 <<< 13) ∧
    ComputesG (.addpc i d) 4 [] d (fun s => s.me.pc + i.signExtend 64 <<< 13)) ∧
  (∀ (c : BitVec 7) (r : BitVec 4) (a d : BitVec 6),
    ComputesG (.lic c r d) 4 [] d (fun _ => BitVec.ofNat 64 (0xF4 * 2 ^ 48 + (c.toNat * 16 + r.toNat) * 2 ^ 20)) ∧
    ComputesG (.lico c r a d) 4 [gRef a.toNat] d
      (fun s => BitVec.ofNat 64 (0xF4 * 2 ^ 48 + (c.toNat * 16 + r.toNat) * 2 ^ 20 + (s.me.gv a).toNat % 2 ^ 20)) ∧
    ComputesG (.licn c r d) 4 [] d (fun _ => BitVec.ofNat 64 (c.toNat * 16 + r.toNat))) ∧
  (∀ (i : BitVec 13) (a d : BitVec 6), let w := i.toNat * 2 ^ 19 + a.toNat * 2 ^ 13 + d.toNat * 2 ^ 7 + 1
    decodeTableWord 32 (w + 2 * 0x02) = some (.addi i a d) ∧ decodeTableWord 32 (w + 2 * 0x03) = some (.andi i a d) ∧
    decodeTableWord 32 (w + 2 * 0x04) = some (.ori i a d) ∧ decodeTableWord 32 (w + 2 * 0x05) = some (.xori i a d) ∧
    decodeTableWord 32 (w + 2 * 0x08) = some (.muli i a d))

/-! ## Control transfer -/

/-- R67, R71, R86. The conditional branches: control goes to the instruction's address plus twice the displacement where the condition holds,
else on; BFULL and BVOID ask for the state of a register and wait for nothing. -/
def Obligations.BranchResults : Prop :=
  (∀ (i d : BitVec 5),
    Branches (.bez i d) 2 [gRef d.toNat] (fun s => s.me.gv d = 0) (fun s => s.me.pc + i.signExtend 64 * 2) ∧
    Branches (.bnz i d) 2 [gRef d.toNat] (fun s => s.me.gv d ≠ 0) (fun s => s.me.pc + i.signExtend 64 * 2)) ∧
  (∀ (i : BitVec 10) (b a : BitVec 6),
    Branches (.beq i b a) 4 [gRef a.toNat, gRef b.toNat] (fun s => s.me.gv a = s.me.gv b) (fun s => s.me.pc + i.signExtend 64 * 2) ∧
    Branches (.bne i b a) 4 [gRef a.toNat, gRef b.toNat] (fun s => s.me.gv a ≠ s.me.gv b) (fun s => s.me.pc + i.signExtend 64 * 2) ∧
    Branches (.blt i b a) 4 [gRef a.toNat, gRef b.toNat] (fun s => (s.me.gv a).toInt < (s.me.gv b).toInt) (fun s => s.me.pc + i.signExtend 64 * 2) ∧
    Branches (.bge i b a) 4 [gRef a.toNat, gRef b.toNat] (fun s => (s.me.gv b).toInt ≤ (s.me.gv a).toInt) (fun s => s.me.pc + i.signExtend 64 * 2) ∧
    Branches (.bltu i b a) 4 [gRef a.toNat, gRef b.toNat] (fun s => (s.me.gv a).toNat < (s.me.gv b).toNat) (fun s => s.me.pc + i.signExtend 64 * 2) ∧
    Branches (.bgeu i b a) 4 [gRef a.toNat, gRef b.toNat] (fun s => (s.me.gv b).toNat ≤ (s.me.gv a).toNat) (fun s => s.me.pc + i.signExtend 64 * 2) ∧
    Branches (.bfull i a) 4 [] (fun s => s.me.stOf (gRef a.toNat) = .full) (fun s => s.me.pc + i.signExtend 64 * 2) ∧
    Branches (.bvoid i a) 4 [] (fun s => (s.me.stOf (gRef a.toNat)).empty = true) (fun s => s.me.pc + i.signExtend 64 * 2))

/-- R87, R88. J, JAL and JALR: JAL writes `g1`, JALR its `d` (nothing for `d = 0`), with the address behind the instruction; JALR takes its
target from `a` before it writes `d`. A call from a loop's body ends the loop.
R77. A transfer whose target is odd raises ALIGN; one whose target lies outside the windows of global memory, or in a region without
execute right, raises PROT; EINFO holds the target, and no register is written. -/
def Obligations.JumpResults : Prop :=
  ((∀ (i : BitVec 25) (s : State), s.Executable (s.me.pc + i.signExtend 64 * 2) →
    (∃ t, exec (.j i) s = .next t ∧ Transfers s t (s.me.pc + i.signExtend 64 * 2) false []) ∧
    (s.notAwaited [gRef 1] → ∃ t, exec (.jal i) s = .next t ∧ t.me.stOf (gRef 1) = .full ∧ t.me.valOf (gRef 1) = (s.me.pc + 4).toNat ∧
      Transfers s t (s.me.pc + i.signExtend 64 * 2) true [gRef 1])) ∧
  (∀ (i : BitVec 13) (a d : BitVec 6) (s : State), s.Ready [gRef a.toNat] [gRef d.toNat] → s.Executable (s.me.gv a + i.signExtend 64) →
    ∃ t, exec (.jalr i a d) s = .next t ∧ t.me.stOf (gRef d.toNat) = .full ∧
      t.me.valOf (gRef d.toNat) = (if d = 0 then 0 else (s.me.pc + 4).toNat) ∧ Transfers s t (s.me.gv a + i.signExtend 64) true [gRef d.toNat])) ∧
  ((∀ (i : BitVec 25) (s : State), s.HasHandler → s.notAwaited [gRef 1] →
    let x := s.me.pc + i.signExtend 64 * 2
    (x.toNat % 2 = 1 → (∃ t, exec (.j i) s = .next t ∧ Trapped s t cALIGN x 4) ∧ ∃ t, exec (.jal i) s = .next t ∧ Trapped s t cALIGN x 4) ∧
    (x.toNat % 2 = 0 → (isGlobal x.toNat = false ∨ ∃ r, (s.core (coreOf s.cur)).plbFind (regionOf x.toNat) = some r ∧ r.x = false) →
      (∃ t, exec (.j i) s = .next t ∧ Trapped s t cPROT x 4) ∧ ∃ t, exec (.jal i) s = .next t ∧ Trapped s t cPROT x 4)) ∧
  (∀ (i : BitVec 13) (a d : BitVec 6) (s : State), s.HasHandler → s.Ready [gRef a.toNat] [gRef d.toNat] →
    let x := s.me.gv a + i.signExtend 64
    (x.toNat % 2 = 1 → ∃ t, exec (.jalr i a d) s = .next t ∧ Trapped s t cALIGN x 4) ∧
    (x.toNat % 2 = 0 → (isGlobal x.toNat = false ∨ ∃ r, (s.core (coreOf s.cur)).plbFind (regionOf x.toNat) = some r ∧ r.x = false) →
      ∃ t, exec (.jalr i a d) s = .next t ∧ Trapped s t cPROT x 4)))

/-- R89. LOOP with no active loop, over code in plain pages that the thread may execute: the body behind the instruction goes to the loop
buffer; with a count of 0 the PC goes behind the body and no loop begins, else the loop runs the body that often. Every register, mask, byte and other
thread is as it was. Where a loop is active, the length is not from 1 to 256 halfwords, or the body ends within an instruction, it raises ILLEGAL.
R90. At the end of a loop's body the next pass begins, or after the last pass the loop ends and the PC goes on behind the body. -/
def Obligations.LoopResults : Prop :=
  (∀ (i : BitVec 13) (a : BitVec 6) (s : State), s.Ready [gRef a.toNat] [] →
    (loopLenOk i = true → s.me.loop = none → s.Unchanged → ∀ body, s.CodeAt (s.me.pc.toNat + 4) i.toNat body →
      (bodyEnds body i.toNat = true → ∃ t, exec (.loop i a) s = .next t ∧
        (if s.me.level = .S then t.me.bufS else t.me.bufU) = body ∧
        (s.me.gv a = 0 → t.me.pc = s.me.pc + 4 + i.setWidth 64 * 2 ∧ t.me.loop = none) ∧
        (s.me.gv a ≠ 0 → t.me.pc = s.me.pc + 4 ∧
          t.me.loop = some { start := s.me.pc + 4, stop := s.me.pc + 4 + i.setWidth 64 * 2, remaining := s.me.gv a }) ∧
        (∀ r, t.me.stOf r = s.me.stOf r ∧ t.me.valOf r = s.me.valOf r) ∧ (∀ j, t.me.kReg j = s.me.kReg j) ∧ t.me.special = s.me.special ∧
        t.me.level = s.me.level ∧ (∀ u, u ≠ s.cur → t.thread u = s.thread u) ∧ (∀ x, t.byte x = s.byte x) ∧ t.empty = s.empty) ∧
      (bodyEnds body i.toNat = false → s.HasHandler → ∃ t, exec (.loop i a) s = .next t ∧ Trapped s t cILLEGAL s.insnWord 4)) ∧
    (s.HasHandler → (loopLenOk i = false ∨ s.me.loop ≠ none) → ∃ t, exec (.loop i a) s = .next t ∧ Trapped s t cILLEGAL s.insnWord 4)) ∧
  (∀ (i : BitVec 13) (a d : BitVec 6) (s : State) (l : LoopState), s.Ready [gRef a.toNat] [gRef d.toNat] → s.me.loop = some l →
    l.start.toNat ≤ s.me.pc.toNat → s.me.pc.toNat < l.stop.toNat → s.me.pc + 4 = l.stop →
    ∃ t, exec (.addi i a d) s = .next t ∧
      (1 < l.remaining.toNat → t.me.pc = l.start ∧ t.me.loop = some { l with remaining := l.remaining - 1 }) ∧
      (l.remaining.toNat ≤ 1 → t.me.pc = l.stop ∧ t.me.loop = none))

/-! ## Scalar floating point -/

/-- R102, R103. FPA, in FP32 (`p = 0`) and FP64 (`p = 1`): the operations of Float.lean on the sources, in the thread's rounding mode.
R103. The sign injections: every bit of `a` but its sign, and the sign of `b`, its inverse, or the exclusive or of both; no flag.
R105-R107. FMA, with one rounding, and the conversions: between formats, from integers, and to integers, saturating.
R100, R102, R104, R105, R107. NaNs and the invalid operations: an arithmetic result that is a NaN is the canonical quiet one, FMIN and FMAX
give the other operand for one NaN, infinity times zero is invalid even with a quiet NaN added, and FCLASS sets exactly one of ten bits. -/
def Obligations.ScalarFpResults : Prop :=
  (∀ (p : BitVec 1) (b a d : BitVec 6),
    ComputesF (.fadd p b a d) [gRef a.toNat, gRef b.toNat] d (fun s => addF (fpFmt p) s.me.rm (fpVal p (s.me.gv a)) (fpVal p (s.me.gv b))) ∧
    ComputesF (.fsub p b a d) [gRef a.toNat, gRef b.toNat] d (fun s => addF (fpFmt p) s.me.rm (fpVal p (s.me.gv a)) (fpVal p (s.me.gv b)).neg) ∧
    ComputesF (.fmul p b a d) [gRef a.toNat, gRef b.toNat] d (fun s => mulF (fpFmt p) s.me.rm (fpVal p (s.me.gv a)) (fpVal p (s.me.gv b))) ∧
    ComputesF (.fdiv p b a d) [gRef a.toNat, gRef b.toNat] d (fun s => divF (fpFmt p) s.me.rm (fpVal p (s.me.gv a)) (fpVal p (s.me.gv b))) ∧
    ComputesF (.fsqrt p a d) [gRef a.toNat] d (fun s => sqrtF (fpFmt p) s.me.rm (fpVal p (s.me.gv a))) ∧
    ComputesF (.fmin p b a d) [gRef a.toNat, gRef b.toNat] d (fun s => minMaxF (fpFmt p) false (fpBits p (s.me.gv a)) (fpBits p (s.me.gv b))) ∧
    ComputesF (.fmax p b a d) [gRef a.toNat, gRef b.toNat] d (fun s => minMaxF (fpFmt p) true (fpBits p (s.me.gv a)) (fpBits p (s.me.gv b))) ∧
    ComputesF (.feq p b a d) [gRef a.toNat, gRef b.toNat] d (fun s =>
      let x := fpVal p (s.me.gv a)
      let y := fpVal p (s.me.gv b)
      ((if eqV x y then 1 else 0), { nv := x.isSNaN || y.isSNaN })) ∧
    ComputesF (.flt p b a d) [gRef a.toNat, gRef b.toNat] d (fun s =>
      let x := fpVal p (s.me.gv a)
      let y := fpVal p (s.me.gv b)
      ((if ltV x y then 1 else 0), { nv := x.isNaN || y.isNaN })) ∧
    ComputesF (.fle p b a d) [gRef a.toNat, gRef b.toNat] d (fun s =>
      let x := fpVal p (s.me.gv a)
      let y := fpVal p (s.me.gv b)
      ((if ltV x y || eqV x y then 1 else 0), { nv := x.isNaN || y.isNaN })) ∧
    ComputesF (.fclass p a d) [gRef a.toNat] d (fun s => (classF (fpFmt p) (fpBits p (s.me.gv a)), {}))) ∧
  ((∀ (b a d : BitVec 6),
    ComputesF (.fsgnj 1 b a d) [gRef a.toNat, gRef b.toNat] d
      (fun s => ((s.me.gv a).toNat % 2 ^ 63 + (if (s.me.gv b).msb then 2 ^ 63 else 0), {})) ∧
    ComputesF (.fsgnjn 1 b a d) [gRef a.toNat, gRef b.toNat] d
      (fun s => ((s.me.gv a).toNat % 2 ^ 63 + (if (s.me.gv b).msb then 0 else 2 ^ 63), {})) ∧
    ComputesF (.fsgnjx 1 b a d) [gRef a.toNat, gRef b.toNat] d
      (fun s => ((s.me.gv a).toNat % 2 ^ 63 + (if (s.me.gv a).msb = (s.me.gv b).msb then 0 else 2 ^ 63), {})) ∧
    ComputesF (.fsgnj 0 b a d) [gRef a.toNat, gRef b.toNat] d
      (fun s => ((s.me.gv a).toNat % 2 ^ 31 + (if (s.me.gv b).getLsbD 31 then 2 ^ 31 else 0), {})) ∧
    ComputesF (.fsgnjn 0 b a d) [gRef a.toNat, gRef b.toNat] d
      (fun s => ((s.me.gv a).toNat % 2 ^ 31 + (if (s.me.gv b).getLsbD 31 then 0 else 2 ^ 31), {})) ∧
    ComputesF (.fsgnjx 0 b a d) [gRef a.toNat, gRef b.toNat] d
      (fun s => ((s.me.gv a).toNat % 2 ^ 31 + (if (s.me.gv a).getLsbD 31 = (s.me.gv b).getLsbD 31 then 0 else 2 ^ 31), {})))) ∧
  ((∀ (x : BitVec 1) (c b a d : BitVec 6),
    ComputesF (.fma x c b a d) [gRef a.toNat, gRef b.toNat, gRef c.toNat] d
      (fun s => fmaF (fpFmt x) s.me.rm (fpVal x (s.me.gv a)) (fpVal x (s.me.gv b)) (fpVal x (s.me.gv c)))) ∧
  (∀ (a d : BitVec 6),
    ComputesF (.fcvtSD a d) [gRef a.toNat] d (fun s => cvtF fp64 fp32 s.me.rm (s.me.gv a).toNat) ∧
    ComputesF (.fcvtDS a d) [gRef a.toNat] d (fun s => cvtF fp32 fp64 s.me.rm ((s.me.gv a).toNat % 2 ^ 32)) ∧
    ComputesF (.fcvtHS a d) [gRef a.toNat] d (fun s => cvtF fp32 fp16 s.me.rm ((s.me.gv a).toNat % 2 ^ 32)) ∧
    ComputesF (.fcvtSH a d) [gRef a.toNat] d (fun s => cvtF fp16 fp32 s.me.rm ((s.me.gv a).toNat % 2 ^ 16)) ∧
    ComputesF (.fcvtBS a d) [gRef a.toNat] d (fun s => cvtF fp32 bf16 s.me.rm ((s.me.gv a).toNat % 2 ^ 32)) ∧
    ComputesF (.fcvtSB a d) [gRef a.toNat] d (fun s => cvtF bf16 fp32 s.me.rm ((s.me.gv a).toNat % 2 ^ 16)) ∧
    ComputesF (.fcvtSL a d) [gRef a.toNat] d (fun s => ofIntF fp32 s.me.rm (s.me.gv a).toInt) ∧
    ComputesF (.fcvtSLu a d) [gRef a.toNat] d (fun s => ofIntF fp32 s.me.rm (s.me.gv a).toNat) ∧
    ComputesF (.fcvtDL a d) [gRef a.toNat] d (fun s => ofIntF fp64 s.me.rm (s.me.gv a).toInt) ∧
    ComputesF (.fcvtDLu a d) [gRef a.toNat] d (fun s => ofIntF fp64 s.me.rm (s.me.gv a).toNat) ∧
    (∀ (i : Instr) (t : FFmt) (n : Nat) (lo hi : Int),
      (i, t, n, lo, hi) ∈ [(Instr.fcvtLS a d, fp32, 32, -2 ^ 63, 2 ^ 63 - 1), (.fcvtLuS a d, fp32, 32, 0, 2 ^ 64 - 1),
        (.fcvtLD a d, fp64, 64, -2 ^ 63, 2 ^ 63 - 1), (.fcvtLuD a d, fp64, 64, 0, 2 ^ 64 - 1),
        (.fcvtWS a d, fp32, 32, -2 ^ 31, 2 ^ 31 - 1), (.fcvtWD a d, fp64, 64, -2 ^ 31, 2 ^ 31 - 1)] →
      ComputesF i [gRef a.toNat] d (fun s =>
        let r := toIntF s.me.rm lo hi (unpackF t ((s.me.gv a).toNat % 2 ^ n))
        ((BitVec.ofInt 64 r.1).toNat, r.2))))) ∧
  ((∀ (t : FFmt) (rm : RM) (x y : FVal), (x.isNaN = true ∨ y.isNaN = true) →
    addF t rm x y = (t.qnan, { nv := x.isSNaN || y.isSNaN }) ∧ mulF t rm x y = (t.qnan, { nv := x.isSNaN || y.isSNaN }) ∧
    divF t rm x y = (t.qnan, { nv := x.isSNaN || y.isSNaN })) ∧
  (∀ (t : FFmt) (rm : RM) (n k : Bool) (e : Int) (z : FVal),
    (addF t rm (.inf n) (.inf (!n))) = (t.qnan, { nv := true }) ∧
    mulF t rm (.inf n) (.fin k 0 e) = (t.qnan, { nv := true }) ∧ mulF t rm (.fin k 0 e) (.inf n) = (t.qnan, { nv := true }) ∧
    divF t rm (.inf n) (.inf k) = (t.qnan, { nv := true }) ∧
    (fmaF t rm (.inf n) (.fin k 0 e) z).1 = t.qnan ∧ (fmaF t rm (.inf n) (.fin k 0 e) z).2.nv = true) ∧
  (∀ (t : FFmt) (rm : RM) (n k : Bool) (m : Nat) (e f : Int),
    divF t rm (.fin n 0 e) (.fin k 0 f) = (t.qnan, { nv := true }) ∧
    (m ≠ 0 → divF t rm (.fin n m e) (.fin k 0 f) = (t.infBits (n != k), { dz := true }) ∧ sqrtF t rm (.fin true m e) = (t.qnan, { nv := true })) ∧
    (sqrtF t rm (.fin n 0 e)).1 = (if n then 2 ^ (t.e + t.f) else 0)) ∧
  (∀ (t : FFmt) (mx : Bool) (a b : Nat), (unpackF t a).isNaN = true →
    (minMaxF t mx a b).1 = (if (unpackF t b).isNaN then t.qnan else b) ∧
    (minMaxF t mx b a).1 = (if (unpackF t b).isNaN then t.qnan else b)) ∧
  (∀ (t : FFmt) (w : Nat), ∃ k, k < 10 ∧ classF t w = 2 ^ k) ∧
  (∀ (rm : RM) (lo hi : Int) (v : FVal), lo ≤ 0 → 0 ≤ hi → lo ≤ (toIntF rm lo hi v).1 ∧ (toIntF rm lo hi v).1 ≤ hi))

/-- R101, R103, R107. Rounding a magnitude to a multiple of a power of two: exact where it is one; towards the sign's direction, to the nearest,
or to the nearest with ties to the even multiple or away from zero, as the mode says. `q * 2^sh` is the rounded magnitude. -/
def Obligations.RoundingDirection : Prop :=
  ∀ (rm : RM) (neg : Bool) (man : Nat) (exp : Int) (sh : Nat), 0 < sh →
    let q := (roundTo rm neg man exp (exp + sh)).1
    ((roundTo rm neg man exp (exp + sh)).2 = true ↔ q * 2 ^ sh ≠ man) ∧
    (q * 2 ^ sh < man + 2 ^ sh ∧ man < q * 2 ^ sh + 2 ^ sh) ∧
    (rm = .rtz ∨ (rm = .rdn ∧ neg = false) ∨ (rm = .rup ∧ neg = true) → q * 2 ^ sh ≤ man) ∧
    ((rm = .rdn ∧ neg = true) ∨ (rm = .rup ∧ neg = false) → man ≤ q * 2 ^ sh) ∧
    (rm = .rne ∨ rm = .rna → 2 * (q * 2 ^ sh) ≤ 2 * man + 2 ^ sh ∧ 2 * man ≤ 2 * (q * 2 ^ sh) + 2 ^ sh) ∧
    (rm = .rne → (2 * (q * 2 ^ sh) = 2 * man + 2 ^ sh ∨ 2 * man = 2 * (q * 2 ^ sh) + 2 ^ sh) → q % 2 = 0) ∧
    (rm = .rna → 2 * man ≠ 2 * (q * 2 ^ sh) + 2 ^ sh)

/-! ## Vector instructions -/

/-- R193, R194. The lane operations over two vectors, and over a vector and the low word of a general register; the floating-point ones are
those of Formats.lean, rounded to nearest even.
R195. The operations that read their destination: fused multiply-adds with one rounding, VMAD and the dot product of signed bytes. -/
def Obligations.LaneResults : Prop :=
  ((∀ e ∈ ([(Instr.vadd, Instr.vadds, fun x y => x + y), (.vsub, .vsubs, fun x y => x - y), (.vmul, .vmuls, fun x y => x * y),
      (.vmulh, .vmulhs, fun x y => BitVec.ofInt 32 (x.toInt * y.toInt / 2 ^ 32)),
      (.vmulhu, .vmulhus, fun x y => BitVec.ofNat 32 (x.toNat * y.toNat / 2 ^ 32)),
      (.vmin, .vmins, fun x y => if x.toInt ≤ y.toInt then x else y), (.vmax, .vmaxs, fun x y => if x.toInt ≤ y.toInt then y else x),
      (.vminu, .vminus, fun x y => if x.toNat ≤ y.toNat then x else y), (.vmaxu, .vmaxus, fun x y => if x.toNat ≤ y.toNat then y else x),
      (.vand, .vands, fun x y => x &&& y), (.vor, .vors, fun x y => x ||| y), (.vxor, .vxors, fun x y => x ^^^ y),
      (.vandn, .vandns, fun x y => x &&& ~~~y),
      (.vshl, .vshls, fun x y => x <<< (y.toNat % 32)), (.vshr, .vshrs, fun x y => x >>> (y.toNat % 32)),
      (.vsar, .vsars, fun x y => x.sshiftRight (y.toNat % 32)),
      (.vaddsat, .vaddsats, fun x y => BitVec.ofInt 32 (max (-(2 ^ 31)) (min (2 ^ 31 - 1) (x.toInt + y.toInt)))),
      (.vsubsat, .vsubsats, fun x y => BitVec.ofInt 32 (max (-(2 ^ 31)) (min (2 ^ 31 - 1) (x.toInt - y.toInt)))),
      (.vfadd, .vfadds, add32), (.vfsub, .vfsubs, sub32), (.vfmul, .vfmuls, mul32), (.vfmin, .vfmins, min32), (.vfmax, .vfmaxs, max32)] :
      List ((BitVec 4 → BitVec 4 → BitVec 3 → BitVec 1 → BitVec 4 → Instr) × (BitVec 6 → BitVec 4 → BitVec 3 → BitVec 1 → BitVec 4 → Instr) ×
        (BitVec 32 → BitVec 32 → BitVec 32))), ∀ (g : BitVec 6) (b a d : BitVec 4) (k : BitVec 3) (z : BitVec 1),
    ComputesV (e.1 b a k z d) [vRef a.toNat, vRef b.toNat] k z d (fun s j => e.2.2 (lane (s.me.vv a) j) (lane (s.me.vv b) j)) ∧
    ComputesV (e.2.1 g a k z d) [vRef a.toNat, gRef g.toNat] k z d (fun s j => e.2.2 (lane (s.me.vv a) j) ((s.me.gv g).setWidth 32))) ∧
  (∀ e ∈ ([(Instr.vabs, fun x => if x = 0x80000000 then 0x7FFFFFFF else if x.toInt < 0 then -x else x), (.vmov, fun x => x),
      (.vfabs, fun x => x &&& 0x7FFFFFFF), (.vfneg, fun x => x ^^^ 0x80000000)] :
      List ((BitVec 4 → BitVec 3 → BitVec 1 → BitVec 4 → Instr) × (BitVec 32 → BitVec 32))), ∀ (a d : BitVec 4) (k : BitVec 3) (z : BitVec 1),
    ComputesV (e.1 a k z d) [vRef a.toNat] k z d (fun s j => e.2 (lane (s.me.vv a) j)))) ∧
  (∀ e ∈ ([(Instr.vfma, Instr.vfmas, fun x y w => rne32 (addV .rne (mulV (f32 x) (f32 y)).1 (f32 w)).1),
      (.vfms, .vfmss, fun x y w => rne32 (addV .rne (mulV (f32 x) (f32 y)).1 (f32 w).neg).1),
      (.vfnma, .vfnmas, fun x y w => rne32 (addV .rne (mulV (f32 x) (f32 y)).1.neg (f32 w)).1),
      (.vfnms, .vfnmss, fun x y w => rne32 (addV .rne (mulV (f32 x) (f32 y)).1.neg (f32 w).neg).1),
      (.vmad, .vmads, fun x y w => x * y + w),
      (.vdot4i8, .vdot4i8s, fun x y w => w + BitVec.ofInt 32 (
        (x.extractLsb' 0 8).toInt * (y.extractLsb' 0 8).toInt + (x.extractLsb' 8 8).toInt * (y.extractLsb' 8 8).toInt +
        (x.extractLsb' 16 8).toInt * (y.extractLsb' 16 8).toInt + (x.extractLsb' 24 8).toInt * (y.extractLsb' 24 8).toInt))] :
      List ((BitVec 4 → BitVec 4 → BitVec 3 → BitVec 1 → BitVec 4 → Instr) × (BitVec 6 → BitVec 4 → BitVec 3 → BitVec 1 → BitVec 4 → Instr) ×
        (BitVec 32 → BitVec 32 → BitVec 32 → BitVec 32))), ∀ (g : BitVec 6) (b a d : BitVec 4) (k : BitVec 3) (z : BitVec 1),
    ComputesV (e.1 b a k z d) [vRef d.toNat, vRef a.toNat, vRef b.toNat] k z d
      (fun s j => e.2.2 (lane (s.me.vv a) j) (lane (s.me.vv b) j) (lane (s.me.vv d) j)) ∧
    ComputesV (e.2.1 g a k z d) [vRef d.toNat, vRef a.toNat, gRef g.toNat] k z d
      (fun s j => e.2.2 (lane (s.me.vv a) j) ((s.me.gv g).setWidth 32) (lane (s.me.vv d) j)))

/-- R196. The compares: each active lane's bit is the condition, an inactive one 0 for `z = 1`, else as it was. Floating-point conditions are
false for a NaN, but for not equal and unordered, which are true.
R201, R202. Reductions over the active lanes by the fixed tree, inactive lanes counting as the operation's identity: adjacent pairs
first, five levels. The result is sign-extended for the signed ones. -/
def Obligations.CompareResults : Prop :=
  (∀ e ∈ ([(0, fun x y => x == y), (1, fun x y => x != y), (2, fun x y => decide (x.toInt < y.toInt)), (3, fun x y => decide (y.toInt ≤ x.toInt)),
      (4, fun x y => decide (x.toNat < y.toNat)), (5, fun x y => decide (y.toNat ≤ x.toNat)),
      (8, fun x y => eqV (f32 x) (f32 y)), (9, fun x y => !eqV (f32 x) (f32 y)), (10, fun x y => ltV (f32 x) (f32 y)),
      (11, fun x y => ltV (f32 x) (f32 y) || eqV (f32 x) (f32 y)), (12, fun x y => (f32 x).isNaN || (f32 y).isNaN)] :
      List (BitVec 4 × (BitVec 32 → BitVec 32 → Bool))), ∀ (g : BitVec 6) (b a : BitVec 4) (k d : BitVec 3) (z : BitVec 1), predOk k z = true →
    ComputesK (.vcmp e.1 b a k z d) [vRef a.toNat, vRef b.toNat] d (fun s j =>
      if k = 0 ∨ (s.me.kReg k.toNat).getLsbD j = true then e.2 (lane (s.me.vv a) j) (lane (s.me.vv b) j)
      else if z = 1 then false else (s.me.kReg d.toNat).getLsbD j) ∧
    ComputesK (.vcmps e.1 g a k z d) [vRef a.toNat, gRef g.toNat] d (fun s j =>
      if k = 0 ∨ (s.me.kReg k.toNat).getLsbD j = true then e.2 (lane (s.me.vv a) j) ((s.me.gv g).setWidth 32)
      else if z = 1 then false else (s.me.kReg d.toNat).getLsbD j)) ∧
  (∀ e ∈ ([(Instr.vredadd, fun x y => x + y, 0, true), (.vredmin, fun x y => if x.toInt ≤ y.toInt then x else y, 0x7FFFFFFF, true),
      (.vredmax, fun x y => if x.toInt ≤ y.toInt then y else x, 0x80000000, true),
      (.vredminu, fun x y => if x.toNat ≤ y.toNat then x else y, 0xFFFFFFFF, false),
      (.vredmaxu, fun x y => if x.toNat ≤ y.toNat then y else x, 0, false),
      (.vredor, fun x y => x ||| y, 0, false), (.vredand, fun x y => x &&& y, 0xFFFFFFFF, false),
      (.vredfadd, add32, 0x80000000, false), (.vredfmin, min32, 0x7F800000, false), (.vredfmax, max32, 0xFF800000, false)] :
      List ((BitVec 6 → BitVec 4 → BitVec 3 → Instr) × (BitVec 32 → BitVec 32 → BitVec 32) × BitVec 32 × Bool)),
    ∀ (g : BitVec 6) (a : BitVec 4) (k : BitVec 3),
    ComputesG (e.1 g a k) 4 [vRef a.toNat] g (fun s =>
      let x := fun j => if k = 0 ∨ (s.me.kReg k.toNat).getLsbD j = true then lane (s.me.vv a) j else e.2.2.1
      let l1 := fun j => e.2.1 (x (2 * j)) (x (2 * j + 1))
      let l2 := fun j => e.2.1 (l1 (2 * j)) (l1 (2 * j + 1))
      let l3 := fun j => e.2.1 (l2 (2 * j)) (l2 (2 * j + 1))
      let l4 := fun j => e.2.1 (l3 (2 * j)) (l3 (2 * j + 1))
      if e.2.2.2 then (e.2.1 (l4 0) (l4 1)).signExtend 64 else (e.2.1 (l4 0) (l4 1)).setWidth 64))

/-- R201. Broadcast, permute, rotate and iota by lanes; VEXT gives the lowest active lane, 0 for none; VCOMP packs the active lanes and
zeroes the rest.
R201. The mask instructions, and those between masks and general registers. -/
def Obligations.PermuteResults : Prop :=
  ((∀ (g : BitVec 6) (b a d : BitVec 4) (k : BitVec 3) (z : BitVec 1),
    ComputesV (.vbcast g k z d) [gRef g.toNat] k z d (fun s _ => (s.me.gv g).setWidth 32) ∧
    ComputesV (.vperm b a k z d) [vRef a.toNat, vRef b.toNat] k z d (fun s j => lane (s.me.vv a) ((lane (s.me.vv b) j).toNat % 32)) ∧
    ComputesV (.vrotl g a k z d) [vRef a.toNat, gRef g.toNat] k z d (fun s j => lane (s.me.vv a) ((j + 32 - (s.me.gv g).toNat % 32) % 32)) ∧
    ComputesV (.viota k z d) [] k z d (fun _ j => BitVec.ofNat 32 j)) ∧
  (∀ (g : BitVec 6) (a : BitVec 4) (k : BitVec 3),
    ComputesG (.vext g a k) 4 [vRef a.toNat] g (fun s =>
      match (List.range 32).find? (fun j => decide (k = 0) || (s.me.kReg k.toNat).getLsbD j) with
      | some j => (lane (s.me.vv a) j).setWidth 64
      | none => 0)) ∧
  (∀ (a d : BitVec 4) (k : BitVec 3) (s : State), s.Ready [vRef a.toNat] [vRef d.toNat] →
    let act := (List.range 32).filter (fun j => decide (k = 0) || (s.me.kReg k.toNat).getLsbD j)
    ∃ t, exec (.vcomp a k d) s = .next t ∧ t.me.stOf (vRef d.toNat) = .full ∧
      (∀ j, j < 32 → lane (t.me.vv d) j = match act[j]? with | some i => lane (s.me.vv a) i | none => 0) ∧
      t.me.pc = s.me.nextPc 4 ∧ OnlyRegs s t [vRef d.toNat] [])) ∧
  ((∀ (b a d : BitVec 3),
    ComputesK (.kand b a d) [] d (fun s j => (s.me.kReg a.toNat).getLsbD j && (s.me.kReg b.toNat).getLsbD j) ∧
    ComputesK (.kor b a d) [] d (fun s j => (s.me.kReg a.toNat).getLsbD j || (s.me.kReg b.toNat).getLsbD j) ∧
    ComputesK (.kxor b a d) [] d (fun s j => (s.me.kReg a.toNat).getLsbD j != (s.me.kReg b.toNat).getLsbD j) ∧
    ComputesK (.kandn b a d) [] d (fun s j => (s.me.kReg a.toNat).getLsbD j && !(s.me.kReg b.toNat).getLsbD j) ∧
    ComputesK (.knot a d) [] d (fun s j => !(s.me.kReg a.toNat).getLsbD j)) ∧
  (∀ (a : BitVec 6) (d : BitVec 3), ComputesK (.kmovg a d) [gRef a.toNat] d (fun s j => (s.me.gv a).getLsbD j)) ∧
  (∀ (a : BitVec 3) (d : BitVec 6),
    ComputesG (.krd a d) 4 [] d (fun s => (s.me.kReg a.toNat).setWidth 64) ∧
    ComputesG (.kpopc a d) 4 [] d (fun s => BitVec.ofNat 64 ((List.range 32).filter (fun j => (s.me.kReg a.toNat).getLsbD j)).length) ∧
    ComputesG (.kfirst a d) 4 [] d (fun s => BitVec.ofNat 64 (((List.range 32).find? (fun j => (s.me.kReg a.toNat).getLsbD j)).getD 32))))

/-- R203-R205. Conversions by lanes, the widening of a packed part and its narrowing into one (of which the other parts stay as they are). -/
def Obligations.FormatResults : Prop :=
  (∀ (a d : BitVec 4) (k : BitVec 3) (z : BitVec 1),
    ComputesV (.vcvtfi a k z d) [vRef a.toNat] k z d (fun s j => BitVec.ofInt 32 (toIntF .rne (-(2 ^ 31)) (2 ^ 31 - 1) (f32 (lane (s.me.vv a) j))).1) ∧
    ComputesV (.vcvtfu a k z d) [vRef a.toNat] k z d (fun s j => BitVec.ofInt 32 (toIntF .rne 0 (2 ^ 32 - 1) (f32 (lane (s.me.vv a) j))).1) ∧
    ComputesV (.vcvtif a k z d) [vRef a.toNat] k z d (fun s j => BitVec.ofNat 32 (ofIntF fp32 .rne (lane (s.me.vv a) j).toInt).1) ∧
    ComputesV (.vcvtuf a k z d) [vRef a.toNat] k z d (fun s j => BitVec.ofNat 32 (ofIntF fp32 .rne (lane (s.me.vv a) j).toNat).1)) ∧
  (∀ (f : BitVec 3) (p a d : BitVec 4) (k : BitVec 3) (z : BitVec 1), packOk f p = true →
    ComputesV (.vunpk f p a k z d) [vRef a.toNat] k z d
      (fun s j => widen f.toNat (bits (s.me.vv a).toNat (fmtBits f.toNat * (32 * p.toNat + j + 1) - 1) (fmtBits f.toNat * (32 * p.toNat + j))))) ∧
  (∀ (f : BitVec 3) (p a d : BitVec 4) (k : BitVec 3) (z : BitVec 1) (s : State), packOk f p = true → predOk k z = true →
    s.Ready [vRef d.toNat, vRef a.toNat] [vRef d.toNat] →
    let w := fmtBits f.toNat
    let elem := fun (v : Vec) (j : Nat) => bits v.toNat (w * (j + 1) - 1) (w * j)
    ∃ t, exec (.vpack f p a k z d) s = .next t ∧ t.me.stOf (vRef d.toNat) = .full ∧
      (∀ j, j < 1024 / w → elem (t.me.vv d) j =
        if j / 32 = p.toNat then
          (if k = 0 ∨ (s.me.kReg k.toNat).getLsbD (j % 32) = true then narrow f.toNat (lane (s.me.vv a) (j % 32)) % 2 ^ w
           else if z = 1 then 0 else elem (s.me.vv d) j)
        else elem (s.me.vv d) j) ∧
      t.me.pc = s.me.nextPc 4 ∧ OnlyRegs s t [vRef d.toNat] [])

/-- R207. WING draws a number from a key and a counter; VWING draws one for each active lane, with the key of one register and each lane's counter; with R207's example. -/
def Obligations.WingResults : Prop :=
  (∀ (b a d : BitVec 6), ComputesG (.wing b a d) 4 [gRef a.toNat, gRef b.toNat] d
    (fun s => (wing32 ((s.me.gv a).setWidth 32) ((s.me.gv b).setWidth 32)).setWidth 64)) ∧
  (∀ (g : BitVec 6) (a d : BitVec 4) (k : BitVec 3) (z : BitVec 1), ComputesV (.vwing g a k z d) [vRef a.toNat, gRef g.toNat] k z d
    (fun s j => wing32 ((s.me.gv g).setWidth 32) (lane (s.me.vv a) j))) ∧
  decodeTableWord 32 0x6038C469 = some (.wing 7 6 8) ∧ wing32 0 1 = 0xFD27FD89

/-! ## Memory instructions -/

/-- R39, R46, R108, R111-R113, R116, R117, R71. The loads of a general register: what each sends, where its bank or home serves it, and what it reads,
where the access is performed at issue in the core's own scratchpad (R11), and what it awaits, where the data cache holds its line. -/
def Obligations.LoadResults : Prop :=
  (∀ e ∈ ([(Instr.ldb, Instr.ldbx, 1, true), (.ldbu, .ldbux, 1, false), (.ldh, .ldhx, 2, true), (.ldhu, .ldhux, 2, false),
      (.ldw, .ldwx, 4, true), (.ldwu, .ldwux, 4, false), (.ldd, .lddx, 8, false)] :
      List ((BitVec 9 → BitVec 2 → BitVec 2 → BitVec 6 → BitVec 6 → Instr) × (BitVec 2 → BitVec 6 → BitVec 6 → BitVec 6 → Instr) × Nat × Bool)),
    ∀ (i : BitVec 9) (o q : BitVec 2) (b a d : BitVec 6),
    let ea := fun s : State => s.me.gv a + i.signExtend 64 * BitVec.ofNat 64 e.2.2.1
    let ex := fun s : State => s.me.gv a + s.me.gv b * BitVec.ofNat 64 e.2.2.1
    (o ≠ 2 → LoadPosts (e.1 i o q a d) 4 e.2.2.1 e.2.2.2 [gRef a.toNat] d ea q (o = 1 ∨ o = 3) (o = 3) 4 ∧
      LoadReads (e.1 i o q a d) 4 e.2.2.1 e.2.2.2 [gRef a.toNat] d ea (o = 3)) ∧
    (o = 0 → LoadHits (e.1 i o q a d) 4 e.2.2.1 e.2.2.2 [gRef a.toNat] d ea q) ∧
    LoadHits (e.2.1 q b a d) 4 e.2.2.1 e.2.2.2 [gRef a.toNat, gRef b.toNat] d ex q ∧
    LoadPosts (e.2.1 q b a d) 4 e.2.2.1 e.2.2.2 [gRef a.toNat, gRef b.toNat] d ex q false false 4 ∧
    LoadReads (e.2.1 q b a d) 4 e.2.2.1 e.2.2.2 [gRef a.toNat, gRef b.toNat] d ex false) ∧
  (∀ e ∈ ([(Instr.ldwo, 4), (.lddo, 8)] : List ((BitVec 2 → BitVec 3 → BitVec 2 → BitVec 6 → BitVec 6 → Instr) × Nat)),
    ∀ (q : BitVec 2) (sc : BitVec 3) (o : BitVec 2) (a d : BitVec 6), sc.toNat ≤ 5 → (o = 1 ∨ o = 3) →
    LoadPosts (e.1 q sc o a d) 4 e.2 false [gRef a.toNat] d (fun s => s.me.gv a) q true (o = 3) sc.toNat ∧
    LoadReads (e.1 q sc o a d) 4 e.2 false [gRef a.toNat] d (fun s => s.me.gv a) (o = 3)) ∧
  (∀ (x d : BitVec 5),
    LoadPosts (.lddC16 x d) 2 8 false [gRef x.toNat] d (fun s => s.me.gv x) 0 false false 4 ∧
    LoadReads (.lddC16 x d) 2 8 false [gRef x.toNat] d (fun s => s.me.gv x) false ∧
    LoadPosts (.lddG2C16 x d) 2 8 false [gRef 2] d (fun s => s.me.gv (2 : BitVec 6) + x.setWidth 64 * 8) 0 false false 4 ∧
    LoadReads (.lddG2C16 x d) 2 8 false [gRef 2] d (fun s => s.me.gv (2 : BitVec 6) + x.setWidth 64 * 8) false ∧
    LoadHits (.lddC16 x d) 2 8 false [gRef x.toNat] d (fun s => s.me.gv x) 0 ∧
    LoadHits (.lddG2C16 x d) 2 8 false [gRef 2] d (fun s => s.me.gv (2 : BitVec 6) + x.setWidth 64 * 8) 0)

/-- R39, R46, R108, R111-R113, R116, R117, R71. The stores of a general register, in the same three cases: performed at issue, a store changes the bytes
at its address and no others; where the data cache holds its line as OW, it changes those bytes of the line. That such a store is acknowledged 24 cycles on
is the model's choice (log 5): R46 gives that figure for a load that hits. -/
def Obligations.StoreResults : Prop :=
  (∀ e ∈ ([(Instr.stb, Instr.stbx, 1), (.sth, .sthx, 2), (.stw, .stwx, 4), (.std, .stdx, 8)] :
      List ((BitVec 9 → BitVec 2 → BitVec 2 → BitVec 6 → BitVec 6 → Instr) × (BitVec 2 → BitVec 6 → BitVec 6 → BitVec 6 → Instr) × Nat)),
    ∀ (i : BitVec 9) (o q : BitVec 2) (b a d : BitVec 6),
    let ea := fun s : State => s.me.gv a + i.signExtend 64 * BitVec.ofNat 64 e.2.2
    let ex := fun s : State => s.me.gv a + s.me.gv b * BitVec.ofNat 64 e.2.2
    (o ≠ 1 → StorePosts (e.1 i o q a d) 4 e.2.2 [gRef d.toNat, gRef a.toNat] ea (fun s => s.me.gv d) q (o = 3) (o = 2 ∨ o = 3) 4 ∧
      StoreWrites (e.1 i o q a d) 4 e.2.2 [gRef d.toNat, gRef a.toNat] ea (fun s => s.me.gv d) (o = 2 ∨ o = 3)) ∧
    (o = 0 → StoreHits (e.1 i o q a d) 4 e.2.2 [gRef d.toNat, gRef a.toNat] ea (fun s => s.me.gv d) q) ∧
    StoreHits (e.2.1 q b a d) 4 e.2.2 [gRef d.toNat, gRef a.toNat, gRef b.toNat] ex (fun s => s.me.gv d) q ∧
    StorePosts (e.2.1 q b a d) 4 e.2.2 [gRef d.toNat, gRef a.toNat, gRef b.toNat] ex (fun s => s.me.gv d) q false false 4 ∧
    StoreWrites (e.2.1 q b a d) 4 e.2.2 [gRef d.toNat, gRef a.toNat, gRef b.toNat] ex (fun s => s.me.gv d) false) ∧
  (∀ e ∈ ([(Instr.stwo, 4), (.stdo, 8)] : List ((BitVec 2 → BitVec 3 → BitVec 2 → BitVec 6 → BitVec 6 → Instr) × Nat)),
    ∀ (q : BitVec 2) (sc : BitVec 3) (o : BitVec 2) (a d : BitVec 6), sc.toNat ≤ 5 → (o = 2 ∨ o = 3) →
    StorePosts (e.1 q sc o a d) 4 e.2 [gRef d.toNat, gRef a.toNat] (fun s => s.me.gv a) (fun s => s.me.gv d) q (o = 3) true sc.toNat ∧
    StoreWrites (e.1 q sc o a d) 4 e.2 [gRef d.toNat, gRef a.toNat] (fun s => s.me.gv a) (fun s => s.me.gv d) true) ∧
  (∀ (x d : BitVec 5),
    StorePosts (.stdC16 x d) 2 8 [gRef d.toNat, gRef x.toNat] (fun s => s.me.gv x) (fun s => s.me.gv d) 0 false false 4 ∧
    StoreWrites (.stdC16 x d) 2 8 [gRef d.toNat, gRef x.toNat] (fun s => s.me.gv x) (fun s => s.me.gv d) false ∧
    StorePosts (.stdG2C16 x d) 2 8 [gRef d.toNat, gRef 2] (fun s => s.me.gv (2 : BitVec 6) + x.setWidth 64 * 8) (fun s => s.me.gv d) 0 false false 4 ∧
    StoreWrites (.stdG2C16 x d) 2 8 [gRef d.toNat, gRef 2] (fun s => s.me.gv (2 : BitVec 6) + x.setWidth 64 * 8) (fun s => s.me.gv d) false ∧
    StoreHits (.stdC16 x d) 2 8 [gRef d.toNat, gRef x.toNat] (fun s => s.me.gv x) (fun s => s.me.gv d) 0 ∧
    StoreHits (.stdG2C16 x d) 2 8 [gRef d.toNat, gRef 2] (fun s => s.me.gv (2 : BitVec 6) + x.setWidth 64 * 8) (fun s => s.me.gv d) 0)

/-- R74 steps 8 to 10, R112. An access to an address that leads nowhere raises PROT, a misaligned one ALIGN, and one to a region without the
right PROT, in that order; EINFO holds the address, and nothing else happens.
R354. An access to a region that the core's PLB does not hold parks its thread and begins the refill; nothing else changes. -/
def Obligations.AccessTraps : Prop :=
  (∀ (i : BitVec 9) (q : BitVec 2) (a d : BitVec 6) (s : State), s.HasHandler →
    let x := s.me.gv a + i.signExtend 64 * 8
    (s.Ready [gRef a.toNat] [gRef d.toNat] →
      (s.resolve s.cur x.toNat = none → ∃ t, exec (.ldd i 0 q a d) s = .next t ∧ Trapped s t cPROT x 4) ∧
      (∀ p, s.resolve s.cur x.toNat = some p →
        (x.toNat % 8 ≠ 0 → ∃ t, exec (.ldd i 0 q a d) s = .next t ∧ Trapped s t cALIGN x 4) ∧
        (x.toNat % 8 = 0 → isGlobal x.toNat = true → ∀ r, (s.core (coreOf s.cur)).plbFind (regionOf x.toNat) = some r → r.r = false →
          ∃ t, exec (.ldd i 0 q a d) s = .next t ∧ Trapped s t cPROT x 4))) ∧
    (s.Ready [gRef d.toNat, gRef a.toNat] [] →
      (s.resolve s.cur x.toNat = none → ∃ t, exec (.std i 0 q a d) s = .next t ∧ Trapped s t cPROT x 4) ∧
      (∀ p, s.resolve s.cur x.toNat = some p →
        (x.toNat % 8 ≠ 0 → ∃ t, exec (.std i 0 q a d) s = .next t ∧ Trapped s t cALIGN x 4) ∧
        (x.toNat % 8 = 0 → isGlobal x.toNat = true → ∀ r, (s.core (coreOf s.cur)).plbFind (regionOf x.toNat) = some r → r.w = false →
          ∃ t, exec (.std i 0 q a d) s = .next t ∧ Trapped s t cPROT x 4)))) ∧
  (∀ (i : BitVec 9) (q : BitVec 2) (a d : BitVec 6) (s : State), s.Ready [gRef a.toNat] [gRef d.toNat] →
    let x := s.me.gv a + i.signExtend 64 * 8
    ∀ p, s.resolve s.cur x.toNat = some p → x.toNat % 8 = 0 → isGlobal x.toNat = true →
    (s.core (coreOf s.cur)).plbFind (regionOf x.toNat) = none →
    ∃ t, exec (.ldd i 0 q a d) s = .next t ∧ t.me.park = some .plb ∧ t.me.pc = s.me.pc ∧
      (∃ n, (n, Instr.plbRefill (coreOf s.cur) s.cur (regionOf x.toNat)) ∈ t.pend) ∧ t.reqs = s.reqs ∧ Untouched s t [])

/-- R118, R120-R122. Synchronising forms, reservations and cache operations sent to the global window and to other cores.
R123, R124, R127. The atomics as they are sent: an outstanding load, an acquire or a release by `ord`; AMOCAS reads `d` as its comparand.
R129-R132. The versioned operations and folds, which only the global window admits: what each sends; CVCLR empties a context. -/
def Obligations.SynchronisingSends : Prop :=
  (∀ (b a d : BitVec 6),
    (∀ e ∈ [(Instr.ldf a d, MemOp.ldf, Rights.r), (.ldtk a d, .ldtk, Rights.a)],
      Sends e.1 4 [gRef a.toNat] [gRef d.toNat] 8 e.2.2 (fun s => s.me.gv a) (fun s p => p.short (s.me.gv a) = false ∧ s.me.phase = .idle)
        (fun s p => { id := 0, tid := 0, epoch := 0, op := e.2.1, va := s.me.gv a, place := p, dst := some (gRef d.toNat), cls := .loads,
                      acq := true }) [gRef d.toNat]) ∧
    Sends (.stf a d) 4 [gRef d.toNat, gRef a.toNat] [] 8 Rights.w (fun s => s.me.gv a) (fun s p => p.short (s.me.gv a) = false ∧ s.me.phase = .idle)
      (fun s p => { id := 0, tid := 0, epoch := 0, op := .stf (s.me.gv d), va := s.me.gv a, place := p, cls := .stores, rel := true }) [] ∧
    (∀ e ∈ [(Instr.lres a d, false), (.lresAcq a d, true)],
      Sends e.1 4 [gRef a.toNat] [gRef d.toNat] 8 Rights.r (fun s => s.me.gv a) (fun s p => s.atOnce p (s.me.gv a) false = false)
        (fun s p => { id := 0, tid := 0, epoch := 0, op := .lres, va := s.me.gv a, place := p, dst := some (gRef d.toNat), cls := .loads,
                      acq := e.2, short := p.short (s.me.gv a) }) [gRef d.toNat]) ∧
    (∀ e ∈ [(Instr.scond b a d, false), (.scondRel b a d, true)],
      Sends e.1 4 [gRef a.toNat, gRef b.toNat] [gRef d.toNat] 8 Rights.w (fun s => s.me.gv a) (fun s p => s.atOnce p (s.me.gv a) e.2 = false)
        (fun s p => { id := 0, tid := 0, epoch := 0, op := .scond (s.me.gv b), va := s.me.gv a, place := p, dst := some (gRef d.toNat),
                      cls := .loads, rel := e.2, short := p.short (s.me.gv a) }) [gRef d.toNat]) ∧
    (∀ e ∈ [(Instr.cflush a, false), (.cwb a, true)],
      Sends e.1 4 [gRef a.toNat] [] 1 Rights.r (fun s => s.me.gv a) (fun s p => p = .global (s.me.gv a).toNat)
        (fun s p => { id := 0, tid := 0, epoch := 0, op := .flush e.2, va := s.me.gv a, place := p, cls := .stores }) []) ∧
    (∀ (s : State) p, s.Ready [gRef a.toNat] [] → s.Reaches (s.me.gv a) 1 Rights.r p → isGlobal (s.me.gv a).toNat = false →
      (∀ v, p ≠ .global v) → ∀ i ∈ [Instr.cflush a, .cwb a], ∃ t, exec i s = .next t ∧ t.me.pc = s.me.nextPc 4 ∧ OnlyRegs s t [] []) ∧
    (∀ s : State, (∀ l ∈ (s.core (coreOf s.cur)).lines, (l.kind = .ow ∧ l.dirty = true) → False) →
      ∃ t, exec .cwball s = .next t ∧ t.me.pc = s.me.nextPc 4 ∧ OnlyRegs s t [] [])) ∧
  ((∀ e ∈ ([(Instr.amoadd, 0), (.amoand, 1), (.amoor, 2), (.amoxor, 3), (.amomin, 4), (.amomax, 5), (.amominu, 6), (.amomaxu, 7), (.amoswap, 8),
      (.amocas, 9)] : List ((BitVec 1 → BitVec 2 → BitVec 6 → BitVec 6 → BitVec 6 → Instr) × BitVec 4)),
    ∀ (sz : BitVec 1) (o : BitVec 2) (b a d : BitVec 6),
    Sends (e.1 sz o b a d) 4 ((if e.2 = 9 then [gRef d.toNat] else []) ++ [gRef a.toNat, gRef b.toNat]) [gRef d.toNat] (if sz = 1 then 8 else 4)
      Rights.a (fun s => s.me.gv a) (fun s p => s.atOnce p (s.me.gv a) (isRel o) = false)
      (fun s p => { id := 0, tid := 0, epoch := 0, op := .amo e.2 (sz == 1) (s.me.gv b) (if e.2 = 9 then s.me.gv d else 0), va := s.me.gv a,
                    place := p, dst := some (gRef d.toNat), cls := .loads, acq := isAcq o, rel := isRel o, short := p.short (s.me.gv a) }) [gRef d.toNat]) ∧
  (∀ e ∈ ([(Instr.famoadd, 0), (.famomin, 1), (.famomax, 2)] : List ((BitVec 1 → BitVec 2 → BitVec 6 → BitVec 6 → BitVec 6 → Instr) × BitVec 4)),
    ∀ (sz : BitVec 1) (o : BitVec 2) (b a d : BitVec 6),
    Sends (e.1 sz o b a d) 4 [gRef a.toNat, gRef b.toNat] [gRef d.toNat] (if sz = 1 then 8 else 4) Rights.a (fun s => s.me.gv a)
      (fun s p => s.atOnce p (s.me.gv a) (isRel o) = false)
      (fun s p => { id := 0, tid := 0, epoch := 0, op := .famo e.2 (sz == 1) (s.me.gv b), va := s.me.gv a, place := p,
                    dst := some (gRef d.toNat), cls := .loads, acq := isAcq o, rel := isRel o, short := p.short (s.me.gv a) }) [gRef d.toNat])) ∧
  (∀ (k : BitVec 3) (b a d : BitVec 6) (v : BitVec 4),
    Sends (.ldv k a d) 4 [gRef a.toNat] [gRef d.toNat, cRef k.toNat] 8 Rights.r (fun s => s.me.gv a) (fun s _ => isGlobal (s.me.gv a).toNat = true)
      (fun s p => { id := 0, tid := 0, epoch := 0, op := .ldv, va := s.me.gv a, place := p, dst := some (gRef d.toNat), ctxReg := some k.toNat,
                    cls := .loads }) [gRef d.toNat, cRef k.toNat] ∧
    Sends (.ldvv k a v) 4 [gRef a.toNat] [vRef v.toNat, cRef k.toNat] 8 Rights.r (fun s => s.me.gv a) (fun s _ => isGlobal (s.me.gv a).toNat = true)
      (fun s p => { id := 0, tid := 0, epoch := 0, op := .ldvv, va := s.me.gv a, place := p, dst := some (vRef v.toNat), ctxReg := some k.toNat,
                    cls := .loads }) [vRef v.toNat, cRef k.toNat] ∧
    Sends (.stv k b a d) 4 [gRef a.toNat, gRef b.toNat, cRef k.toNat] [gRef d.toNat] 8 Rights.a (fun s => s.me.gv a)
      (fun s _ => isGlobal (s.me.gv a).toNat = true)
      (fun s p => { id := 0, tid := 0, epoch := 0, op := .stv (s.me.gv b), va := s.me.gv a, place := p, dst := some (gRef d.toNat),
                    ctxReg := some k.toNat, vctx := s.me.cv k, cls := .loads }) [gRef d.toNat, cRef k.toNat] ∧
    (∀ e ∈ [(Instr.reconMin k a d, 0), (.reconMax k a d, 1), (.reconAdd k a d, 2), (.reconOr k a d, 3), (.reconAnd k a d, 4),
        (.reconLowest k a d, 5), (.reconHighest k a d, 6)],
      Sends e.1 4 [gRef a.toNat, cRef k.toNat] [gRef d.toNat, cRef k.toNat] 8 Rights.a (fun s => s.me.gv a) (fun s _ => isGlobal (s.me.gv a).toNat = true)
        (fun s p => { id := 0, tid := 0, epoch := 0, op := .recon e.2 0, va := s.me.gv a, place := p, dst := some (gRef d.toNat),
                      ctxReg := some k.toNat, vctx := s.me.cv k, cls := .loads }) [gRef d.toNat, cRef k.toNat]) ∧
    Sends (.reconValue k b a d) 4 [gRef a.toNat, gRef b.toNat, cRef k.toNat] [gRef d.toNat, cRef k.toNat] 8 Rights.a (fun s => s.me.gv a)
      (fun s _ => isGlobal (s.me.gv a).toNat = true)
      (fun s p => { id := 0, tid := 0, epoch := 0, op := .recon 7 (s.me.gv b), va := s.me.gv a, place := p, dst := some (gRef d.toNat),
                    ctxReg := some k.toNat, vctx := s.me.cv k, cls := .loads }) [gRef d.toNat, cRef k.toNat] ∧
    (∀ e ∈ [(Instr.redW b a, false), (.redD b a, true)],
      Sends e.1 4 [gRef a.toNat, gRef b.toNat] [] (if e.2 then 8 else 4) Rights.w (fun s => s.me.gv a)
        (fun s _ => isGlobal (s.me.gv a).toNat = true ∧ slotOf s.cur ≠ 15 ∧ isMem (coreOf s.cur) = false)
        (fun s p => { id := 0, tid := 0, epoch := 0, op := .red e.2 (s.me.gv b), va := s.me.gv a, place := p, cls := .stores }) []) ∧
    ComputesC (.cvclr k) [] k (fun _ => 0) ∧
    (∀ i ∈ [Instr.ldv k a d, .ldvv k a v, .stv k b a d, .reconMin k a d, .reconMax k a d, .reconAdd k a d, .reconOr k a d, .reconAnd k a d,
        .reconLowest k a d, .reconHighest k a d, .reconValue k b a d, .redW b a, .redD b a],
      ∀ s : State, s.HasHandler → s.Ready [gRef a.toNat, gRef b.toNat, cRef k.toNat] [gRef d.toNat, vRef v.toNat, cRef k.toNat] →
        slotOf s.cur ≠ 15 → isMem (coreOf s.cur) = false → isGlobal (s.me.gv a).toNat = false →
        ∃ t, exec i s = .next t ∧ Trapped s t cPROT (s.me.gv a) 4))

/-- R43, R118-R121. The synchronising forms and reservations performed at issue in the core's own scratchpad: LDF reads a FULL word, LDTK
takes it EMPTY, STF fills an EMPTY one, LRES sets the reservation of its 128-byte granule, SCOND stores where that reservation stands and
ends it, with 0 for success and 1 for none.
R121. SCOND with its reservation standing, performed at issue: the word takes the value, `d` 0, and the reservation is gone. -/
def Obligations.SynchronisingResults : Prop :=
  (∀ (b a d : BitVec 6) (s : State) (p : Place), s.Unrolled → s.MaySend .none → s.Calm → s.me.phase = .idle → d ≠ 0 → s.atOnce p (s.me.gv a) true = true →
    let key := p.chipKey
    (s.Ready [gRef a.toNat] [gRef d.toNat] → s.Reaches (s.me.gv a) 8 Rights.r p →
      (s.isEmpty key = false → ∃ t, exec (.ldf a d) s = .next t ∧ t.me.gv d = BitVec.ofNat 64 (s.getN key 8) ∧ t.me.pc = s.me.nextPc 4 ∧
        ShortRegs s t false [(s.me.gv a).toNat] [gRef d.toNat]) ∧
      (∀ i ∈ [Instr.lres a d, .lresAcq a d], ∃ t, exec i s = .next t ∧ t.me.gv d = BitVec.ofNat 64 (s.getN key 8) ∧
        t.me.resv = some (key / 128) ∧ t.me.pc = s.me.nextPc 4 ∧ (∀ x, t.byte x = s.byte x) ∧ t.empty = s.empty)) ∧
    (s.Ready [gRef a.toNat] [gRef d.toNat] → s.Reaches (s.me.gv a) 8 Rights.a p → s.isEmpty key = false →
      ∃ t, exec (.ldtk a d) s = .next t ∧ t.me.gv d = BitVec.ofNat 64 (s.getN key 8) ∧ t.isEmpty key = true ∧ t.me.pc = s.me.nextPc 4 ∧
        (∀ x, t.byte x = s.byte x)) ∧
    (s.Ready [gRef d.toNat, gRef a.toNat] [] → s.Reaches (s.me.gv a) 8 Rights.w p → s.isEmpty key = true →
      ∃ t, exec (.stf a d) s = .next t ∧ t.isEmpty key = false ∧ t.getN key 8 = (s.me.gv d).toNat ∧ t.me.pc = s.me.nextPc 4 ∧
        (∀ x, x < key ∨ key + 8 ≤ x → t.byte x = s.byte x)) ∧
    (s.Ready [gRef a.toNat, gRef b.toNat] [gRef d.toNat] → s.Reaches (s.me.gv a) 8 Rights.w p →
      ∀ i ∈ [Instr.scond b a d, .scondRel b a d], ∃ t, exec i s = .next t ∧ t.me.resv = none ∧ t.me.pc = s.me.nextPc 4 ∧ t.me.gv d = 1 ∧
        (∀ x, t.byte x = s.byte x))) ∧
  (∀ (b a d : BitVec 6) (s : State) (p : Place), s.Unrolled → s.MaySend .none → s.syncq = [] → s.syncIn = [] → s.waiters = [] → s.ecc = [] → d ≠ 0 →
    s.atOnce p (s.me.gv a) true = true → s.Ready [gRef a.toNat, gRef b.toNat] [gRef d.toNat] → s.Reaches (s.me.gv a) 8 Rights.w p →
    s.me.resv = some (p.chipKey / 128) → (∀ e ∈ s.threads, e.1 ≠ s.cur → e.2.resv = none) → (∀ e ∈ s.cores, e.2.lines = []) →
    ∀ i ∈ [Instr.scond b a d, .scondRel b a d], ∃ t, exec i s = .next t ∧ t.me.resv = none ∧ t.me.gv d = 0 ∧ t.me.pc = s.me.nextPc 4 ∧
      t.getN p.chipKey 8 = (s.me.gv b).toNat ∧ (∀ x, x < p.chipKey ∨ p.chipKey + 8 ≤ x → t.byte x = s.byte x) ∧
      (∀ u, u ≠ s.cur → t.thread u = s.thread u))

/-- R123, R124. The atomics performed at issue, of eight bytes and of four: `d` takes the old value, zero-extended, and memory the new one, by
the table of R123.
R127. The floating-point atomics performed at issue, rounded to nearest even, with their flags ORed into `FPCTL` and no trap. -/
def Obligations.AtomicResults : Prop :=
  (∀ e ∈ ([(Instr.amoadd, false, fun _ x y _ => x + y), (.amoand, false, fun _ x y _ => x &&& y), (.amoor, false, fun _ x y _ => x ||| y),
      (.amoxor, false, fun _ x y _ => x ^^^ y),
      (.amomin, false, fun _ x y _ => if x.toInt ≤ y.toInt then x else y), (.amomax, false, fun _ x y _ => if x.toInt ≤ y.toInt then y else x),
      (.amominu, false, fun _ x y _ => if x.toNat ≤ y.toNat then x else y), (.amomaxu, false, fun _ x y _ => if x.toNat ≤ y.toNat then y else x),
      (.amoswap, false, fun _ _ y _ => y), (.amocas, true, fun _ x y c => if x = c then y else x)] :
      List ((BitVec 1 → BitVec 2 → BitVec 6 → BitVec 6 → BitVec 6 → Instr) × Bool × ((n : Nat) → BitVec n → BitVec n → BitVec n → BitVec n))),
    ∀ (sz : BitVec 1) (o : BitVec 2) (b a d : BitVec 6) (s : State) (p : Place),
    let n := if sz = 1 then 8 else 4
    s.Ready ((if e.2.1 then [gRef d.toNat] else []) ++ [gRef a.toNat, gRef b.toNat]) [gRef d.toNat] →
    s.Reaches (s.me.gv a) n Rights.a p → s.Unrolled → s.MaySend .none → s.Calm → s.atOnce p (s.me.gv a) true = true →
    let old : BitVec (8 * n) := BitVec.ofNat (8 * n) (s.getN p.chipKey n)
    ∃ t, exec (e.1 sz o b a d) s = .next t ∧ t.me.gv d = (if d = 0 then 0 else old.setWidth 64) ∧
      t.getN p.chipKey n = (e.2.2 (8 * n) old ((s.me.gv b).setWidth (8 * n)) ((s.me.gv d).setWidth (8 * n))).toNat ∧
      (∀ x, x < p.chipKey ∨ p.chipKey + n ≤ x → t.byte x = s.byte x) ∧ t.me.pc = s.me.nextPc 4 ∧ t.me.stOf (gRef d.toNat) = .full ∧
      (∀ r, r ≠ gRef d.toNat → t.me.stOf r = s.me.stOf r ∧ t.me.valOf r = s.me.valOf r) ∧ (∀ j, t.me.kReg j = s.me.kReg j) ∧
      t.me.special = s.me.special ∧ (∀ u, u ≠ s.cur → t.thread u = s.thread u)) ∧
  (∀ e ∈ ([(Instr.famoadd, fun t x y => addF t .rne (unpackF t x) (unpackF t y)), (.famomin, fun t x y => minMaxF t false x y),
      (.famomax, fun t x y => minMaxF t true x y)] :
      List ((BitVec 1 → BitVec 2 → BitVec 6 → BitVec 6 → BitVec 6 → Instr) × (FFmt → Nat → Nat → Nat × FFlags))),
    ∀ (sz : BitVec 1) (o : BitVec 2) (b a d : BitVec 6) (s : State) (p : Place),
    let n := if sz = 1 then 8 else 4
    s.Ready [gRef a.toNat, gRef b.toNat] [gRef d.toNat] → s.Reaches (s.me.gv a) n Rights.a p → s.Unrolled → s.MaySend .none → s.Calm →
    s.atOnce p (s.me.gv a) true = true →
    let old := s.getN p.chipKey n
    let r := e.2 (fpFmt sz) old (fpBits sz (s.me.gv b))
    ∃ t, exec (e.1 sz o b a d) s = .next t ∧ t.me.gv d = (if d = 0 then 0 else BitVec.ofNat 64 old) ∧ t.getN p.chipKey n = r.1 % 2 ^ (8 * n) ∧
      t.me.fpctl = s.me.fpctl ||| (r.2.toBits.setWidth 64 <<< 3) ∧
      (∀ x, x < p.chipKey ∨ p.chipKey + n ≤ x → t.byte x = s.byte x) ∧ t.me.pc = s.me.nextPc 4 ∧ t.me.level = s.me.level)

/-! ## Fences, barriers, bells and waits -/

/-- R135. A fence whose groups have echoed and whose stores are acknowledged completes: its group mask is clear and the PC goes on; an acquire
of cluster scope or wider leaves no SI copy that the thread loaded.
R135, R140. A fence that must wait parks its thread: FENCE.REL and FENCE send one probe to each group of `TBANKS` and await the echoes, then the
acknowledgements of the thread's stores; FENCE.ACQ awaits its loads, and its STFs and BELLADDs (R147). A reserved scope raises ILLEGAL. -/
def Obligations.FenceResults : Prop :=
  (∀ (sc : BitVec 3) (s : State), sc.toNat ≤ 5 → s.me.loads = 0 → s.rmwOpen = false → s.me.replayDiv = none → (∀ l ∈ (s.core (coreOf s.cur)).lines, ¬ (l.kind = .ow ∧ l.dirty = true)) →
    (∃ t, exec (.fenceAcq sc) s = .next t ∧ t.me.pc = s.me.nextPc 4 ∧ OnlyRegs s t [] [] ∧
      (2 ≤ sc.toNat → ∀ l ∈ (t.core (coreOf s.cur)).lines, l.kind = .si → l.siBy.contains s.cur = false)) ∧
    (s.me.stores = 0 → s.me.storeErr = none → s.me.atomScope = none → s.me.probes = [] → (s.me.phase = .sent ∨ (s.me.phase = .idle ∧ s.me.tbanks = 0)) →
      ∀ i ∈ [Instr.fence sc, .fenceRel sc], ∃ t, exec i s = .next t ∧ t.me.pc = s.me.nextPc 4 ∧ (1 ≤ sc.toNat → t.me.tbanks = 0) ∧ t.me.probes = [] ∧
        (i = .fence sc → 2 ≤ sc.toNat → ∀ l ∈ (t.core (coreOf s.cur)).lines, l.kind = .si → l.siBy.contains s.cur = false) ∧ Untouched s t [])) ∧
  (∀ (sc : BitVec 3) (s : State),
    (sc.toNat ≤ 5 → (s.me.loads ≠ 0 ∨ s.rmwOpen = true) → ∃ t, exec (.fenceAcq sc) s = .next t ∧ t.me.park = some .count ∧ t.me.pc = s.me.pc ∧ Untouched s t []) ∧
    (1 ≤ sc.toNat → sc.toNat ≤ 5 → (∀ l ∈ (s.core (coreOf s.cur)).lines, ¬ (l.kind = .ow ∧ l.dirty = true)) → s.me.phase = .idle →
      (∃ g, g < 34 ∧ s.me.tbanks.getLsbD g = true) → ∀ i ∈ [Instr.fence sc, .fenceRel sc], ∃ t, exec i s = .next t ∧ t.me.park = some .reply ∧
        t.me.pc = s.me.pc ∧ (∀ g, g ∈ t.me.probes ↔ g < 34 ∧ s.me.tbanks.getLsbD g = true) ∧
        (∀ g ∈ t.me.probes, ∃ n, (n, Instr.fenceProbe s.cur s.me.epoch g) ∈ t.pend) ∧ Untouched s t []) ∧
    (sc.toNat ≤ 5 → s.me.phase = .done → s.me.probes = [] → s.me.stores ≠ 0 → ∀ i ∈ [Instr.fence sc, .fenceRel sc],
      ∃ t, exec i s = .next t ∧ t.me.park = some .count ∧ t.me.pc = s.me.pc ∧ Untouched s t []) ∧
    (5 < sc.toNat → s.HasHandler → ∀ i ∈ [Instr.fence sc, .fenceRel sc, .fenceAcq sc], ∃ t, exec i s = .next t ∧ Trapped s t cILLEGAL s.insnWord 4))

/-- R44, R136-R138. Barrier and bell operations sent to another core's windows; a global address raises PROT, one that is not a multiple of
16 ALIGN.
R44, R137, R138. An arrival at a barrier and a credit to a bell performed at issue, by their four words: participants or target, count,
generation and status. -/
def Obligations.BarrierSteps : Prop :=
  (∀ (sc : BitVec 3) (b a d : BitVec 6), sc.toNat ≤ 5 →
    Sends (.bara sc a d) 4 [gRef a.toNat] [gRef d.toNat] 16 (fun _ => true) (fun s => s.me.gv a)
      (fun s p => isGlobal (s.me.gv a).toNat = false ∧ s.atOnce p (s.me.gv a) true = false)
      (fun s p => { id := 0, tid := 0, epoch := 0, op := .bara, va := s.me.gv a, place := p, dst := some (gRef d.toNat), cls := .loads, rel := true,
                    scope := sc.toNat, short := p.short (s.me.gv a) }) [gRef d.toNat] ∧
    Sends (.belladd sc b a) 4 [gRef a.toNat, gRef b.toNat] [] 16 (fun _ => true) (fun s => s.me.gv a)
      (fun s p => isGlobal (s.me.gv a).toNat = false ∧ s.atOnce p (s.me.gv a) true = false)
      (fun s p => { id := 0, tid := 0, epoch := 0, op := .bellAdd ((s.me.gv b).setWidth 32), va := s.me.gv a, place := p, cls := .stores, rel := true,
                    scope := sc.toNat, short := p.short (s.me.gv a) }) [] ∧
    (∀ s : State, s.HasHandler → s.Ready [gRef a.toNat, gRef b.toNat] [gRef d.toNat] →
      ∀ i ∈ [Instr.bara sc a d, .belladd sc b a, .barw sc b a, .bellwait sc b a],
        (isGlobal (s.me.gv a).toNat = true → ∃ t, exec i s = .next t ∧ Trapped s t cPROT (s.me.gv a) 4) ∧
        (isGlobal (s.me.gv a).toNat = false → (∃ p, s.resolve s.cur (s.me.gv a).toNat = some p) → (s.me.gv a).toNat % 16 ≠ 0 →
          ∃ t, exec i s = .next t ∧ Trapped s t cALIGN (s.me.gv a) 4))) ∧
  (∀ (sc : BitVec 3) (b a d : BitVec 6) (s : State) (p : Place), sc.toNat ≤ 5 → s.Ready [gRef a.toNat, gRef b.toNat] [gRef d.toNat] →
    s.Reaches (s.me.gv a) 16 (fun _ => true) p → isGlobal (s.me.gv a).toNat = false → s.Unrolled → s.MaySend .none → s.Calm →
    s.atOnce p (s.me.gv a) true = true →
    let key := p.chipKey
    let limit := s.getN key 4
    let count := s.getN (key + 4) 4
    let gen := s.getN (key + 8) 4
    (∃ t, exec (.bara sc a d) s = .next t ∧ t.me.gv d = (if d = 0 then 0 else BitVec.ofNat 64 gen) ∧ t.me.pc = s.me.nextPc 4 ∧ t.getN key 4 = limit ∧
      (∀ x, x < key ∨ key + 16 ≤ x → t.byte x = s.byte x) ∧
      (limit = 0 → ∀ x, t.byte x = s.byte x) ∧
      (limit ≠ 0 → count + 1 < limit → t.getN (key + 4) 4 = count + 1 ∧ t.getN (key + 8) 4 = gen) ∧
      (limit ≠ 0 → limit ≤ count + 1 → t.getN (key + 4) 4 = 0 ∧ t.getN (key + 8) 4 = (gen + 1) % 2 ^ 32)) ∧
    (∃ t, exec (.belladd sc b a) s = .next t ∧ t.me.pc = s.me.nextPc 4 ∧ t.getN key 4 = limit ∧
      (∀ x, x < key ∨ key + 16 ≤ x → t.byte x = s.byte x) ∧
      (let n := count + (s.me.gv b).toNat % 2 ^ 32
       (limit = 0 → ∀ x, t.byte x = s.byte x) ∧
       (limit ≠ 0 → n < limit → t.getN (key + 4) 4 = n ∧ t.getN (key + 8) 4 = gen) ∧
       (limit ≠ 0 → limit ≤ n → t.getN (key + 4) 4 = 0 ∧ t.getN (key + 8) 4 = (gen + 1) % 2 ^ 32) ∧
       (limit ≠ 0 → limit < n → 3 ≤ t.getN (key + 12) 4))))

/-- R137-R139. BARW, BELLWAIT and WAITRES complete where what they wait for has come: a generation other than `b`'s, the reply of the wait, or a
lost reservation; else they park, the first two with their request sent. BELLWAIT raises a NAN_TILE held for its bell once its wait has ended, and
completes when it is issued again after the trap (that it does not wait anew is the model's reading of R323, log 68).
R141. WAITK completes once its four counts are within their limits (63 is none) and no report is held; it parks while one is not; a held
error of a posted store is raised first, once. -/
def Obligations.WaitResults : Prop :=
  ((∀ (sc : BitVec 3) (b a : BitVec 6) (s : State) (p : Place), sc.toNat ≤ 5 → s.Ready [gRef a.toNat, gRef b.toNat] [] →
    s.Reaches (s.me.gv a) 16 (fun _ => true) p → isGlobal (s.me.gv a).toNat = false → s.me.nanBell ≠ some p.chipKey → s.Unrolled →
    ¬ (s.me.bellDone = some (s.me.pc, p.chipKey) ∧ s.me.level = .U) →
    ∀ i ∈ [Instr.barw sc b a, .bellwait sc b a],
      (s.me.phase = .done → ∃ t, exec i s = .next t ∧ t.me.pc = s.me.nextPc 4 ∧ OnlyRegs s t [] []) ∧
      (s.me.phase = .idle → s.MaySend .none → s.atOnce p (s.me.gv a) false = true → s.genOf p.chipKey ≠ (s.me.gv b).setWidth 32 →
        ∃ t, exec i s = .next t ∧ t.me.pc = s.me.nextPc 4 ∧ ShortRegs s t false [(s.me.gv a).toNat, (s.me.gv a).toNat + 8] []) ∧
      (s.me.phase = .idle → s.MaySend .none → s.genOf p.chipKey = (s.me.gv b).setWidth 32 →
        ∃ t, exec i s = .next t ∧ t.me.pc = s.me.pc ∧ t.me.park = some .reply ∧ t.me.phase = .sent ∧
          (∃ op, t.reqs = s.reqs ++
              [{ id := s.nextId, tid := s.cur, epoch := s.me.epoch, op := op, va := s.me.gv a, place := p, acq := true, scope := sc.toNat, issued := s.now }] ∧ (i = .barw sc b a → op = .barw ((s.me.gv b).setWidth 32)) ∧
            (i = .bellwait sc b a → op = .bellWait ((s.me.gv b).setWidth 32))))) ∧
  (∀ (sc : BitVec 3) (b a : BitVec 6) (s : State) (p : Place), sc.toNat ≤ 5 → s.Ready [gRef a.toNat, gRef b.toNat] [] →
    s.Reaches (s.me.gv a) 16 (fun _ => true) p → isGlobal (s.me.gv a).toNat = false → s.me.level = .U →
    (s.me.bellDone = some (s.me.pc, p.chipKey) → ∃ t, exec (.bellwait sc b a) s = .next t ∧ t.me.pc = s.me.nextPc 4 ∧ t.me.bellDone = none ∧
      OnlyRegs (s.upd (fun x => { x with bellDone := none })) t [] []) ∧
    (∀ x, s.me.bellDone = none → s.me.phase = .done → s.me.nanBell = some p.chipKey → s.me.nanTile = some x → s.HasHandler →
      ∃ t, exec (.bellwait sc b a) s = .next t ∧ t.me.nanTile = none ∧ t.me.bellDone = some (s.me.pc, p.chipKey) ∧ Trapped s t cNAN_TILE x 4)) ∧
  (∀ s : State, (s.me.resv = none → ∃ t, exec .waitres s = .next t ∧ t.me.pc = s.me.nextPc 4 ∧ OnlyRegs s t [] []) ∧
    (s.me.resv ≠ none → ∃ t, exec .waitres s = .next t ∧ t.me.pc = s.me.pc ∧ t.me.park = some .reply ∧ t.me.resv = s.me.resv ∧ Untouched s t []))) ∧
  (∀ (k c sl l : BitVec 6) (s : State),
    let fits := fun (limit : BitVec 6) (n : Nat) => limit = 63 ∨ n ≤ limit.toNat
    let ok := fits l s.me.loads ∧ fits sl s.me.stores ∧ fits c s.me.copies ∧ fits k s.me.tiles
    (¬ ok → ∃ t, exec (.waitk k c sl l) s = .next t ∧ t.me.pc = s.me.pc ∧ t.me.park = some .count ∧ Untouched s t []) ∧
    (ok → s.me.storeErr = none → s.me.atomScope = none → s.me.sibLimit = none → s.me.sibUnread = [] → s.me.nanTile = none → s.me.replayDiv = none →
      ∃ t, exec (.waitk k c sl l) s = .next t ∧ t.me.pc = s.me.nextPc 4 ∧ OnlyRegs s t [] []) ∧
    (ok → sl ≠ 63 → s.HasHandler → ∀ x, s.me.storeErr = some x →
      ∃ t, exec (.waitk k c sl l) s = .next t ∧ t.me.storeErr = none ∧ Trapped s t cBUS_ERROR x 4))

/-! ## Threads and tasks -/

/-- R22, R92, R97, R98. EXPECT of each class leaves its register waiting for a fill (`g0` stays FULL); QSLOT, QDEQ and QLINK read the free
program slots of the core, the entries of its deque, and the join link.
R93, R94. SPAWN, first part: the frame's join link is written and its child count incremented, by two operations that the thread parks on.
Second part, once both are performed: the continuation is pushed at the young end of the core's deque, `g2` becomes the join link, and the
child goes on at the label. -/
def Obligations.ThreadBegins : Prop :=
  ((∀ (d : BitVec 6) (m : BitVec 2) (v : BitVec 4) (c : BitVec 3), ∀ e ∈ [(Instr.expect d, gRef d.toNat), (.expectm m, mRef m.toNat),
      (.expectv v, vRef v.toNat), (.expectc c, cRef c.toNat)], ∀ s : State, s.notAwaited [e.2] →
    ∃ t, exec e.1 s = .next t ∧ t.me.stOf e.2 = (if e.2 = gRef 0 then .full else .expecting) ∧ t.me.pc = s.me.nextPc 4 ∧ OnlyRegs s t [e.2] []) ∧
  (∀ d : BitVec 6,
    ComputesG (.qslot d) 4 [] d (fun s =>
      BitVec.ofNat 64 ((List.range 15).filter (fun i => !(s.thread (coreOf s.cur * 16 + i)).occupied)).length) ∧
    ComputesG (.qlink d) 4 [] d (fun s => s.me.link) ∧
    (∀ s : State, isMem (coreOf s.cur) = false → s.notAwaited [gRef d.toNat] → ∃ t, exec (.qdeq d) s = .next t ∧
      t.me.gv d = (if d = 0 then 0 else BitVec.ofNat 64 (s.core (coreOf s.cur)).deque.length) ∧ t.me.stOf (gRef d.toNat) = .full ∧
      t.me.pc = s.me.nextPc 4 ∧ OnlyRegs s t [gRef d.toNat] []) ∧
    (∀ s : State, isMem (coreOf s.cur) = true → s.HasHandler → ∃ t, exec (.qdeq d) s = .next t ∧ Trapped s t cILLEGAL s.insnWord 4))) ∧
  (∀ (i : BitVec 18) (s : State), s.Ready [gRef 2] [] → isMem (coreOf s.cur) = false → s.me.inLoop = false →
    let f := s.me.gv (2 : BitVec 6)
    let label := s.me.pc + i.signExtend 64 * 2
    (∀ p q, s.me.phase = .idle → s.dequeFull (coreOf s.cur) = false → s.Executable label → s.Reaches (f - 16) 8 Rights.a p →
      s.Reaches (f - 8) 8 Rights.a q → s.Unrolled → s.MaySend .none →
      ∃ t, exec (.spawn i) s = .next t ∧ t.me.pc = s.me.pc ∧ t.me.park = some .reply ∧ t.me.phase = .spawn 2 ∧
        t.reqs = s.reqs ++ [{ id := s.nextId, tid := s.cur, epoch := s.me.epoch, op := .frameLink s.me.link, va := f - 16, place := p, issued := s.now },
          { id := s.nextId + 1, tid := s.cur, epoch := s.me.epoch, op := .frameInc, va := f - 8, place := q, issued := s.now }] ∧ Untouched s t []) ∧
    (s.me.phase = .spawn 0 → ∃ t e, exec (.spawn i) s = .next t ∧ t.me.pc = label ∧ t.me.link = f ∧
      (t.core (coreOf s.cur)).deque = (s.core (coreOf s.cur)).deque ++ [e] ∧ e.pc = s.me.pc + 4 ∧ e.frame = f ∧ e.isSplit = false ∧
      e.slot = slotOf s.cur ∧ e.core = coreOf s.cur ∧ e.lti = s.me.lti ∧ e.launch = s.me.launch ∧
      (∀ r, t.me.stOf r = s.me.stOf r ∧ t.me.valOf r = s.me.valOf r) ∧ (∀ u, u ≠ s.cur → t.thread u = s.thread u) ∧ (∀ x, t.byte x = s.byte x)))

/-- R95. JOIN sends an acquire read of the frame's child count and parks; it completes once the read has ended, which it does when the
count is 0.
R29, R96. EXIT awaits the thread's loads and stores; with a join link it decrements the frame's child count as a release; then the thread goes
on as the youngest continuation that its slot pushed, or, where there is none, retires: its slot is free. -/
def Obligations.ThreadEnds : Prop :=
  (∀ (s : State), s.Ready [gRef 2] [] →
    let a := s.me.gv (2 : BitVec 6) - 8
    (s.me.phase = .done → ∃ t, exec .join s = .next t ∧ t.me.pc = s.me.nextPc 4 ∧ OnlyRegs s t [] []) ∧
    (∀ p, s.me.phase = .idle → s.Reaches a 8 Rights.a p → s.Unrolled → s.MaySend .none →
      ∃ t, exec .join s = .next t ∧ t.me.pc = s.me.pc ∧ t.me.park = some .reply ∧ t.me.phase = .sent ∧
        t.reqs = s.reqs ++ [{ id := s.nextId, tid := s.cur, epoch := s.me.epoch, op := .joinRead, va := a, place := p, acq := true, issued := s.now }] ∧
        Untouched s t []) ∧
    (∀ (u : State) (key : Nat) (w : Req), u.req w.id = some w → w.op = .joinRead → (u.waitOver key (.req w.id) = true ↔ u.getN key 8 = 0))) ∧
  (∀ (s : State), slotOf s.cur ≠ 15 → s.me.stand = none →
    (s.me.phase = .idle → (s.me.loads ≠ 0 ∨ s.me.stores ≠ 0) →
      ∃ t, exec .exit s = .next t ∧ t.me.pc = s.me.pc ∧ t.me.park = some .count ∧ Untouched s t []) ∧
    (∀ p, s.me.phase = .idle → s.me.loads = 0 → s.me.stores = 0 → s.me.storeErr = none → s.me.link ≠ 0 → s.Reaches (s.me.link - 8) 8 Rights.a p →
      s.Unrolled → s.MaySend .none →
      ∃ t, exec .exit s = .next t ∧ t.me.pc = s.me.pc ∧ t.me.park = some .reply ∧ t.me.phase = .sent ∧
        t.reqs = s.reqs ++ [{ id := s.nextId, tid := s.cur, epoch := s.me.epoch, op := .frameDec, va := s.me.link - 8, place := p, rel := true, issued := s.now }] ∧
        Untouched s t []) ∧
    ((s.me.phase = .done ∨ (s.me.phase = .idle ∧ s.me.loads = 0 ∧ s.me.stores = 0 ∧ s.me.storeErr = none ∧ s.me.link = 0)) →
      ((s.core (coreOf s.cur)).deque.find? (fun e => e.slot == slotOf s.cur) = none → (s.core (coreOf s.cur)).dequeOvf = [] →
        ∃ t, exec .exit s = .next t ∧ t.me.occupied = false ∧ t.me.epoch = s.me.epoch + 1 ∧ (∀ u, u ≠ s.cur → t.thread u = s.thread u) ∧
          (∀ x, t.byte x = s.byte x)) ∧
      (∀ e, (s.core (coreOf s.cur)).deque.reverse.find? (fun e => e.slot == slotOf s.cur) = some e → s.Unrolled →
        ∃ t, exec .exit s = .next t ∧ t.me.occupied = true ∧ t.me.epoch = s.me.epoch + 1 ∧ t.me.pc = e.pc ∧ t.me.lti = e.lti ∧ t.me.level = .U ∧
          t.me.fpctl = 0 ∧ (e.isSplit = false → t.me.gv (2 : BitVec 6) = e.frame ∧ ∀ r, r ≠ gRef 0 → r ≠ gRef 2 → t.me.stOf r = .void) ∧
          (t.core (coreOf s.cur)).deque.length + 1 = (s.core (coreOf s.cur)).deque.length)))

/-! ## Roll call and query instructions -/

/-- R217. STAND: the request goes to the node's home bank, the thread stands with the given register, and `gd` and that register await the
reply.
R218. LEAVE of the node the thread stands at sends its request and parks. Of another node, or where the thread stands nowhere, it raises
ILLEGAL. The reply that closed the entry ends it: the stand register takes the entry's set, the thread stands no more, and the PC goes on.
R225. SPLIT: the members of `r` that are in `q` go, with `g1` to `g13`, to a new thread at the label in the lowest free slot, where there is one; `r`
keeps the others. With no such member the PC goes on, and no thread begins.
R212. The membership instructions. -/
def Obligations.TraversalResults : Prop :=
  (∀ (b : BitVec 2) (a d : BitVec 6) (s : State), s.Ready [gRef a.toNat, mRef b.toNat] [gRef d.toNat] → slotOf s.cur ≠ 15 →
    isMem (coreOf s.cur) = false → s.me.stand = none →
    let n := s.me.gv a
    (n.toNat < 2 ^ 56 → n.toNat % 8 = 0 → s.me.loads < 62 → s.Unrolled →
      ∃ t r, exec (.stand b a d) s = .next t ∧ t.me.pc = s.me.nextPc 4 ∧ t.me.stand = some (n, b.toNat) ∧ t.me.loads = s.me.loads + 1 ∧
        t.me.stOf (mRef b.toNat) = .pending ∧ (d ≠ 0 → t.me.stOf (gRef d.toNat) = .pending) ∧ t.reqs = s.reqs ++ [r] ∧ r.op = .stand (s.me.mv b) ∧
        r.va = n ∧ r.dst = some (gRef d.toNat) ∧ r.id = s.nextId ∧ (∃ k, (k, Instr.rollCallArrival s.nextId) ∈ t.pend) ∧
        (∀ q, q ≠ gRef d.toNat → q ≠ mRef b.toNat → t.me.stOf q = s.me.stOf q ∧ t.me.valOf q = s.me.valOf q) ∧
        (∀ u, u ≠ s.cur → t.thread u = s.thread u) ∧ (∀ x, t.byte x = s.byte x)) ∧
    (s.HasHandler → 2 ^ 56 ≤ n.toNat → ∃ t, exec (.stand b a d) s = .next t ∧ Trapped s t cPROT n 4) ∧
    (s.HasHandler → n.toNat < 2 ^ 56 → n.toNat % 8 ≠ 0 → ∃ t, exec (.stand b a d) s = .next t ∧ Trapped s t cALIGN n 4)) ∧
  ((∀ (a : BitVec 6) (s : State), s.Ready [gRef a.toNat] [] → slotOf s.cur ≠ 15 → isMem (coreOf s.cur) = false →
    (∀ m, s.me.phase = .idle → s.me.stand = some (s.me.gv a, m) → s.Unrolled →
      ∃ t r, exec (.leave a) s = .next t ∧ t.me.pc = s.me.pc ∧ t.me.park = some .reply ∧ t.me.phase = .sent ∧ t.reqs = s.reqs ++ [r] ∧
        r.op = .leave ∧ r.va = s.me.gv a ∧ r.id = s.nextId ∧ (∃ k, (k, Instr.rollCallLeave s.nextId) ∈ t.pend) ∧ Untouched s t []) ∧
    (s.me.phase = .idle → s.HasHandler → (∀ m, s.me.stand ≠ some (s.me.gv a, m)) →
      ∃ t, exec (.leave a) s = .next t ∧ Trapped s t cILLEGAL s.insnWord 4)) ∧
  (∀ (r : Req) (s : State) (n : Word) (m : Nat), s.req r.id = some r → s.lives r = true → (s.core (coreOf r.tid)).diverted = false →
    r.state = .performed → r.op = .leave → r.newCtx = 1 → r.flags = 0 → r.cls = .none → r.dst = none → r.ctxReg = none → r.acq = false →
    (s.thread r.tid).stand = some (n, m) → ((s.thread r.tid).stOf (mRef m)).waits = true →
    ∃ t, exec (.fillLands r.id) s = .next t ∧ (t.thread r.tid).pc = (s.thread r.tid).nextPc 4 ∧ (t.thread r.tid).stand = none ∧
      (t.thread r.tid).stOf (mRef m) = .full ∧ (t.thread r.tid).valOf (mRef m) = r.val.toNat ∧ (t.thread r.tid).park = none ∧
      t.req r.id = none ∧ Aside s t [r.tid])) ∧
  (∀ (r q : BitVec 2) (i : BitVec 14) (s : State), s.Ready [mRef r.toNat, mRef q.toNat] [] → slotOf s.cur ≠ 15 → isMem (coreOf s.cur) = false →
    s.me.stand = none → s.me.occupied = true →
    let label := s.me.pc + i.signExtend 64 * 2
    let part := s.me.mv r &&& s.me.mv q
    s.Executable label →
    (part = 0 → ∃ t, exec (.split r q i) s = .next t ∧ t.me.pc = s.me.nextPc 4 ∧ OnlyRegs s t [] []) ∧
    (part ≠ 0 → (∀ j, 1 ≤ j → j ≤ 13 → (s.me.stOf (gRef j)).waits = false) → s.Unrolled →
      ∀ k, (s.openSlots (coreOf s.cur)).head? = some k →
      ∃ t, exec (.split r q i) s = .next t ∧ t.me.pc = s.me.nextPc 4 ∧ t.me.mv r = s.me.mv r &&& ~~~(s.me.mv q) ∧ t.me.stOf (mRef r.toNat) = .full ∧
        (∀ x, x ≠ mRef r.toNat → t.me.stOf x = s.me.stOf x ∧ t.me.valOf x = s.me.valOf x) ∧
        (let u := t.thread (coreOf s.cur * 16 + k)
         u.occupied = true ∧ u.pc = label ∧ u.level = .U ∧ u.lti = s.me.lti ∧ u.part = s.me.part ∧ u.ctx = s.me.ctx ∧ u.launch = s.me.launch ∧
           u.mv r = part ∧ (∀ j, 1 ≤ j → j ≤ 13 → s.me.stOf (gRef j) = .full → u.stOf (gRef j) = .full ∧ u.valOf (gRef j) = s.me.valOf (gRef j)) ∧
           (∀ j, 13 < j → u.stOf (gRef j) = .void)) ∧
        (∀ u, u ≠ s.cur → u ≠ coreOf s.cur * 16 + k → t.thread u = s.thread u) ∧ (∀ x, t.byte x = s.byte x))) ∧
  ((∀ (b a d : BitVec 2),
    ComputesM (.mand b a d) [mRef a.toNat, mRef b.toNat] d (fun s => s.me.mv a &&& s.me.mv b) ∧
    ComputesM (.mor b a d) [mRef a.toNat, mRef b.toNat] d (fun s => s.me.mv a ||| s.me.mv b) ∧
    ComputesM (.mxor b a d) [mRef a.toNat, mRef b.toNat] d (fun s => s.me.mv a ^^^ s.me.mv b) ∧
    ComputesM (.mandn b a d) [mRef a.toNat, mRef b.toNat] d (fun s => s.me.mv a &&& ~~~(s.me.mv b)) ∧
    ComputesM (.mnot a d) [mRef a.toNat] d (fun s => ~~~(s.me.mv a)) ∧
    ComputesM (.mmov a d) [mRef a.toNat] d (fun s => s.me.mv a) ∧
    ComputesM (.mclr d) [] d (fun _ => 0)) ∧
  (∀ (b a : BitVec 6) (d : BitVec 2) (s : State),
    (s.Ready [gRef a.toNat] [mRef d.toNat] → ∃ t, exec (.mfill a d) s = .next t ∧ (∀ i, i < 1024 → (t.me.mv d).getLsbD i = decide (i < (s.me.gv a).toNat)) ∧
      t.me.stOf (mRef d.toNat) = .full ∧ t.me.pc = s.me.nextPc 4 ∧ OnlyRegs s t [mRef d.toNat] []) ∧
    (s.Ready [mRef d.toNat, gRef a.toNat] [mRef d.toNat] → ∃ t, exec (.mbset a d) s = .next t ∧ (∀ i, i < 1024 → (t.me.mv d).getLsbD i = (decide (i = (s.me.gv a).toNat) || (s.me.mv d).getLsbD i)) ∧
      t.me.pc = s.me.nextPc 4 ∧ OnlyRegs s t [mRef d.toNat] []) ∧
    (s.Ready [mRef d.toNat, gRef a.toNat] [mRef d.toNat] → ∃ t, exec (.mbclr a d) s = .next t ∧ (∀ i, i < 1024 → (t.me.mv d).getLsbD i = (!decide (i = (s.me.gv a).toNat) && (s.me.mv d).getLsbD i)) ∧
      t.me.pc = s.me.nextPc 4 ∧ OnlyRegs s t [mRef d.toNat] []) ∧
    (s.Ready [mRef d.toNat, gRef a.toNat, gRef b.toNat] [mRef d.toNat] → ∃ t, exec (.mputw b a d) s = .next t ∧
      (∀ i, i < 16 → dword (t.me.mv d) i = if i = (s.me.gv b).toNat % 16 then s.me.gv a else dword (s.me.mv d) i) ∧
      t.me.pc = s.me.nextPc 4 ∧ OnlyRegs s t [mRef d.toNat] [])) ∧
  (∀ (b : BitVec 6) (a : BitVec 2) (d : BitVec 6),
    ComputesG (.mbtst b a d) 4 [mRef a.toNat, gRef b.toNat] d (fun s => if (s.me.mv a).getLsbD (s.me.gv b).toNat = true then 1 else 0) ∧
    ComputesG (.mpopc a d) 4 [mRef a.toNat] d (fun s => BitVec.ofNat 64 ((List.range 1024).filter (fun i => (s.me.mv a).getLsbD i)).length) ∧
    ComputesG (.mfirst a d) 4 [mRef a.toNat] d (fun s => BitVec.ofNat 64 (((List.range 1024).find? (fun i => (s.me.mv a).getLsbD i)).getD 1024)) ∧
    ComputesG (.mnext b a d) 4 [mRef a.toNat, gRef b.toNat] d (fun s =>
      BitVec.ofNat 64 (((List.range 1024).find? (fun i => decide ((s.me.gv b).toNat < i) && (s.me.mv a).getLsbD i)).getD 1024)) ∧
    ComputesG (.mgetw b a d) 4 [mRef a.toNat, gRef b.toNat] d (fun s => dword (s.me.mv a) ((s.me.gv b).toNat % 16))))

/-! ## System instructions, traps and the return -/

/-- R321, R326, R329, R331, R70. The instructions whose effect is a trap: TRAP with its number, BRK and BRK.C16 with 0, and a word that is no
instruction with the word. At U with a handler the trap saves the PC, cause, information, length and loop, and the handler runs at S.
R321, R330. A trap at S, or at U with no handler, stops the thread: its PC, level, registers and trap registers stay, and an event record of
source 5 with the cause goes to the die's event queue, or is held while the queue is full. -/
def Obligations.TrapEntry : Prop :=
  (∀ (i : BitVec 12) (w : BitVec 32) (s : State), s.HasHandler →
    (∃ t, exec (.trap i) s = .next t ∧ Trapped s t cTRAP (i.setWidth 64) 4) ∧
    (∃ t, exec .brk s = .next t ∧ Trapped s t cBREAK 0 4) ∧
    (∃ t, exec .brkC16 s = .next t ∧ Trapped s t cBREAK 0 2) ∧
    (∃ t, exec (.illegalEncoding w) s = .next t ∧ Trapped s t cILLEGAL (w.setWidth 64) (if isShort w.toNat then 2 else 4))) ∧
  (∀ (i : BitVec 12) (s : State), (s.me.level = .S ∨ (s.me.level = .U ∧ (s.ctx s.me.ctx).tvec = 0)) →
    ∃ t, exec (.trap i) s = .next t ∧ t.me.stopped = true ∧ t.me.pc = s.me.pc ∧ t.me.level = s.me.level ∧ t.me.epc = s.me.epc ∧
      t.me.ecause = s.me.ecause ∧ t.me.einfo = s.me.einfo ∧ (∀ r, t.me.stOf r = s.me.stOf r ∧ t.me.valOf r = s.me.valOf r) ∧
      (∀ u, u ≠ s.cur → t.thread u = s.thread u) ∧
      (let d := dieOf (coreOf s.cur)
       let r := record32 (5 + 2 ^ 8 * cTRAP + 2 ^ 16 * (if s.me.level = .S then 1 else 0)) (s.eventWho s.cur + 2 ^ 32 * s.me.lti.toNat) s.me.pc.toNat s.now
       (s.die d).events = [] →
         ((s.die d).eq.full = true → (t.die d).events = [r]) ∧
         ((s.die d).eq.full = false → (t.die d).eq.head = (s.die d).eq.head + 1 ∧ t.peek ((s.die d).eq.slot 32) 32 = r)))

/-- R319, R329. RTT at S: the PC comes from EPC, the level is U again, and a loop that was active at the trap goes on with its saved count; at U it
raises PRIV.
R319. The privileged instructions raise PRIV at U. -/
def Obligations.TrapReturn : Prop :=
  (∀ (s : State),
    (s.me.level = .S → s.Executable s.me.epc → ∃ t, exec .rtt s = .next t ∧ t.me.pc = s.me.epc ∧ t.me.level = .U ∧
      (s.me.elctl.getLsbD 63 = true → t.me.loopU =
        some { start := s.me.elstart, stop := s.me.elstart + BitVec.ofNat 64 (2 * (s.me.elctl.toNat % 2 ^ 9)), remaining := s.me.elcnt }) ∧ (s.me.elctl.getLsbD 63 = false → t.me.loopU = s.me.loopU) ∧
      t.me.dskip = s.me.estat.getLsbD 1 ∧ (∀ r, t.me.stOf r = s.me.stOf r ∧ t.me.valOf r = s.me.valOf r) ∧ (∀ k, t.me.kReg k = s.me.kReg k) ∧
      (∀ u, u ≠ s.cur → t.thread u = s.thread u) ∧ (∀ x, t.byte x = s.byte x)) ∧
    (s.HasHandler → ∃ t, exec .rtt s = .next t ∧ Trapped s t cPRIV s.insnWord 4)) ∧
  (∀ (a b : BitVec 6) (s : State), s.HasHandler → ∀ i ∈ [Instr.plbinv a, .halt, .evsig b a, .rtt],
    ∃ t, exec i s = .next t ∧ Trapped s t cPRIV s.insnWord 4)

/-- R320, R329. RDS: each control register's value; the reading level is bits 11:10 of its number. An unassigned number raises ILLEGAL, a
register above the thread's level PRIV.
R101, R210, R320. WRS of the thread's own control registers: each keeps the bits it has, and no other changes but ELCTL with a zero ELCNT.
R320. WRS of a context's control registers at F: the context that CTXSEL names takes the bits the register has. -/
def Obligations.CsrAccess : Prop :=
  ((∀ e ∈ ([(0x000, Level.U, fun s : State => s.me.fpctl), (0x001, .U, fun s => s.me.qbase), (0x002, .U, fun s => s.me.qrec),
      (0x300, .U, fun s => BitVec.ofNat 64 s.now), (0x301, .U, fun s => BitVec.ofNat 64 (slotOf s.cur)),
      (0x302, .U, fun s => BitVec.ofNat 64 (s.coreCsr s.cur)), (0x303, .U, fun s => s.me.lti.setWidth 64),
      (0x304, .U, fun s => BitVec.ofNat 64 ((s.ctx s.me.csrCtx).level % 4)), (0x305, .U, fun s => s.me.tbanks),
      (0x500, .S, fun s => s.me.epc), (0x501, .S, fun s => s.me.ecause), (0x502, .S, fun s => s.me.einfo), (0x503, .S, fun s => s.me.estat),
      (0x504, .S, fun s => s.me.escr), (0x505, .S, fun s => s.me.elcnt), (0x506, .S, fun s => s.me.elctl),
      (0x600, .S, fun s => (s.ctx s.me.csrCtx).tvec), (0x601, .S, fun s => (s.ctx s.me.csrCtx).dbgctl),
      (0x602, .S, fun s => tget 0 (s.ctx s.me.csrCtx).dbgpc 0), (0x603, .S, fun s => tget 0 (s.ctx s.me.csrCtx).dbgpc 1),
      (0x604, .S, fun s => tget 0 (s.ctx s.me.csrCtx).dbgpc 2), (0x605, .S, fun s => tget 0 (s.ctx s.me.csrCtx).dbgpc 3),
      (0x700, .S, fun s => s.me.elstart), (0x701, .S, fun s => BitVec.ofNat 64 (s.me.ctx % 256 * 256 + s.me.part % 64)),
      (0xA00, .F, fun s => (s.ctx s.me.csrCtx).roll.base), (0xA01, .F, fun s => BitVec.ofNat 64 (s.ctx s.me.csrCtx).roll.size),
      (0xA02, .F, fun s => (s.ctx s.me.csrCtx).roll.tail), (0xA03, .F, fun s => s.me.ctxsel), (0xB00, .F, fun s => (s.ctx s.me.csrCtx).roll.head)] :
      List (BitVec 12 × Level × (State → Word))),
    ∀ (d : BitVec 6) (s : State),
      (s.me.level.reaches e.2.1 = true → s.notAwaited [gRef d.toNat] → ∃ t, exec (.rds e.1 d) s = .next t ∧ t.me.gv d = (if d = 0 then 0 else e.2.2 s) ∧
        t.me.stOf (gRef d.toNat) = .full ∧ t.me.pc = s.me.nextPc 4 ∧ OnlyRegs s t [gRef d.toNat] []) ∧
      (s.me.level.reaches e.2.1 = false → s.HasHandler → ∃ t, exec (.rds e.1 d) s = .next t ∧ Trapped s t cPRIV s.insnWord 4)) ∧
  (∀ (c : BitVec 12) (d : BitVec 6) (s : State), csrKnown c.toNat = false → s.HasHandler →
    ∃ t, exec (.rds c d) s = .next t ∧ Trapped s t cILLEGAL s.insnWord 4) ∧
  (∀ d : BitVec 6, ComputesG (.rdts d) 4 [] d (fun s => BitVec.ofNat 64 s.now))) ∧
  ((∀ (g : BitVec 6) (s : State), s.Ready [gRef g.toNat] [] →
    let v := s.me.gv g
    let same := fun t : State => t.me.pc = s.me.nextPc 4 ∧ (∀ r, t.me.stOf r = s.me.stOf r ∧ t.me.valOf r = s.me.valOf r) ∧
      (∀ k, t.me.kReg k = s.me.kReg k) ∧ t.me.level = s.me.level ∧ t.ctxs = s.ctxs ∧ (∀ u, u ≠ s.cur → t.thread u = s.thread u) ∧ (∀ x, t.byte x = s.byte x)
    (∃ t, exec (.wrs 0 g) s = .next t ∧ t.me.fpctl = BitVec.ofNat 64 (if v.toNat % 8 ≥ 5 then v.toNat % 2 ^ 13 / 8 * 8 else v.toNat % 2 ^ 13) ∧ same t ∧
      t.me.special.tail.tail = s.me.special.tail.tail) ∧
    (∃ t, exec (.wrs 1 g) s = .next t ∧ t.me.qbase = v ∧ same t ∧ t.me.fpctl = s.me.fpctl ∧ t.me.qrec = s.me.qrec) ∧
    (∃ t, exec (.wrs 2 g) s = .next t ∧ t.me.qrec = v &&& 0x1F0 ∧ same t ∧ t.me.fpctl = s.me.fpctl ∧ t.me.qbase = s.me.qbase) ∧
    (s.me.level ≠ .U →
      (∃ t, exec (.wrs 0x500 g) s = .next t ∧ t.me.epc = v &&& 0x00FFFFFFFFFFFFFF ∧ same t ∧ t.me.ecause = s.me.ecause ∧ t.me.einfo = s.me.einfo) ∧
      (∃ t, exec (.wrs 0x501 g) s = .next t ∧ t.me.ecause = v &&& 0xFF ∧ same t ∧ t.me.epc = s.me.epc ∧ t.me.einfo = s.me.einfo) ∧
      (∃ t, exec (.wrs 0x502 g) s = .next t ∧ t.me.einfo = v ∧ same t ∧ t.me.epc = s.me.epc ∧ t.me.ecause = s.me.ecause) ∧
      (∃ t, exec (.wrs 0x503 g) s = .next t ∧ t.me.estat = v &&& 3 ∧ same t ∧ t.me.epc = s.me.epc) ∧
      (∃ t, exec (.wrs 0x504 g) s = .next t ∧ t.me.escr = v ∧ same t ∧ t.me.epc = s.me.epc) ∧
      (∃ t, exec (.wrs 0x505 g) s = .next t ∧ t.me.elcnt = v ∧ t.me.elctl = (if v = 0 then s.me.elctl &&& 0x7FFFFFFFFFFFFFFF else s.me.elctl) ∧ same t) ∧
      (∃ t, exec (.wrs 0x506 g) s = .next t ∧ t.me.elctl = (if v.getLsbD 63 then s.me.elctl else s.me.elctl &&& 0x7FFFFFFFFFFFFFFF) ∧
        t.me.elcnt = s.me.elcnt ∧ same t)) ∧
    (s.me.level = .F → ∃ t, exec (.wrs 0xA03 g) s = .next t ∧ t.me.ctxsel = v &&& 0xFF ∧ same t)) ∧
  (∀ (c : BitVec 12) (g : BitVec 6) (s : State), s.HasHandler →
    (csrKnown c.toNat = true → 1 ≤ c.toNat / 256 % 4 → ∃ t, exec (.wrs c g) s = .next t ∧ Trapped s t cPRIV s.insnWord 4) ∧
    (csrKnown c.toNat = false → ∃ t, exec (.wrs c g) s = .next t ∧ Trapped s t cILLEGAL s.insnWord 4))) ∧
  (∀ (g : BitVec 6) (s : State), s.Ready [gRef g.toNat] [] → s.me.level = .F →
    let c := s.me.ctxsel.toNat % 256
    let v := s.me.gv g
    (∃ t, exec (.wrs 0x600 g) s = .next t ∧ t.me.pc = s.me.nextPc 4 ∧ (t.ctx c).tvec = v &&& 0x00FFFFFFFFFFFFFE ∧ ∀ x, x ≠ c → t.ctx x = s.ctx x) ∧
    (∃ t, exec (.wrs 0x601 g) s = .next t ∧ t.me.pc = s.me.nextPc 4 ∧ (t.ctx c).dbgctl = v &&& 0xF ∧ ∀ x, x ≠ c → t.ctx x = s.ctx x) ∧
    (∀ n : BitVec 12, 0x602 ≤ n → n ≤ 0x605 → ∃ t, exec (.wrs n g) s = .next t ∧ t.me.pc = s.me.nextPc 4 ∧
      tget 0 (t.ctx c).dbgpc (n.toNat - 0x602) = v &&& 0xFFFFFFFFFFFFFFFE ∧ (t.ctx c).tvec = (s.ctx c).tvec ∧ ∀ x, x ≠ c → t.ctx x = s.ctx x))

/-- R329. ICINV discards the core's fetched code once the thread's stores are acknowledged, and parks until then; PLBINV empties the core's PLB, or drops
one region; HALT completes once the thread's event latch is set, and clears it.
R329, R392-R394. LOGMARK: where the context neither records nor replays the PC goes on, and nothing else happens; at RECORD, with room in the roll,
it hands over a mark record with the slot's actor and ordinal, and the ordinal advances. -/
def Obligations.CoreInstructions : Prop :=
  (∀ (a : BitVec 6) (s : State),
    (s.me.stores = 0 → ∃ t, exec .icinv s = .next t ∧ t.me.pc = s.me.nextPc 4 ∧ (t.core (coreOf s.cur)).fetched = [] ∧ Untouched s t []) ∧
    (s.me.stores ≠ 0 → ∃ t, exec .icinv s = .next t ∧ t.me.pc = s.me.pc ∧ t.me.park = some .count ∧ Untouched s t []) ∧
    (s.me.level = .F → s.Ready [gRef a.toNat] [] → ∃ t, exec (.plbinv a) s = .next t ∧ t.me.pc = s.me.nextPc 4 ∧ Untouched s t [] ∧
      (s.me.gv a = 0 → (t.core (coreOf s.cur)).plb = []) ∧
      (s.me.gv a ≠ 0 → (t.core (coreOf s.cur)).plbFind (regionOf (s.me.gv a).toNat) = none ∧
        ∀ r, r ≠ regionOf (s.me.gv a).toNat → (t.core (coreOf s.cur)).plbFind r = (s.core (coreOf s.cur)).plbFind r)) ∧
    (s.me.level ≠ .U → s.me.latch = true → ∃ t, exec .halt s = .next t ∧ t.me.pc = s.me.nextPc 4 ∧ t.me.latch = false ∧ Untouched s t []) ∧
    (s.me.level ≠ .U → s.me.latch = false → ∃ t, exec .halt s = .next t ∧ t.me.pc = s.me.pc ∧ t.me.park = some .latch ∧ Untouched s t [])) ∧
  (∀ (a : BitVec 6) (s : State), s.Ready [gRef a.toNat] [] →
    (s.Unrolled → ∃ t, exec (.logmark a) s = .next t ∧ t.me.pc = s.me.nextPc 4 ∧ OnlyRegs s t [] []) ∧
    (s.myLevel = 1 → (s.ctx s.me.ctx).roll.parked = false → Config.lowRoll ≤ (s.ctx s.me.ctx).roll.free → ∃ t, exec (.logmark a) s = .next t ∧ t.me.pc = s.me.nextPc 4 ∧
      (t.ctx s.me.ctx).roll.unwritten = (s.ctx s.me.ctx).roll.unwritten ++
        [mkRecord 2 0 0 (s.actorOf s.cur) (s.ordOf s.cur) ((s.me.gv a).toNat / 2 ^ 56) (s.me.gv a).toNat] ∧
      t.ordOf s.cur = (s.ordOf s.cur + 1) % 2 ^ 16))

/-! ## Vector and query memory -/

/-- R36, R190, R197-R199. VLD and VGATH sent to their banks and homes: one request for the active lanes, whose words go by themselves; with no active lane nothing is sent, and `d`
holds zero or what it held.
R190, R197-R199. VST and VSCAT sent to their banks and homes. -/
def Obligations.VectorSends : Prop :=
  (∀ (q : BitVec 2) (g : BitVec 6) (a d : BitVec 4) (k : BitVec 3) (z : BitVec 1) (s : State), predOk k z = true →
    ∀ e ∈ [(Instr.vld q g k z d, [gRef g.toNat], fun j => s.me.gv g + BitVec.ofNat 64 (4 * j), false),
      (.vgath q g a k z d, [vRef a.toNat, gRef g.toNat], fun j => s.me.gv g + (lane (s.me.vv a) j).signExtend 64, true)],
    s.Ready e.2.1 [vRef d.toNat] → s.LanesReach k (s.me.gv g) e.2.2.1 Rights.r →
    let keep : Vec := if z = 1 ∨ (s.me.stOf (vRef d.toNat)).empty = true then 0 else s.me.vv d
    (s.activeLanes k = [] → ∃ t, exec e.1 s = .next t ∧ t.me.vv d = keep ∧ t.me.stOf (vRef d.toNat) = .full ∧ t.me.pc = s.me.nextPc 4 ∧
      OnlyRegs s t [vRef d.toNat] []) ∧
    (∀ j, (s.activeLanes k).head? = some j → s.MaySend .loads → (∀ i ∈ s.activeLanes k, s.NoCopy (e.2.2.1 i)) →
      (e.2.2.2 = true ∨ isShort1 (e.2.2.1 j).toNat = false ∨ s.padFree ((s.activeLanes k).map (fun i => (e.2.2.1 i).toNat)) = false) →
      ∀ p, s.resolve s.cur (e.2.2.1 j).toNat = some p → ∃ t, exec e.1 s = .next t ∧ t.me.pc = s.me.nextPc 4 ∧
        WordsPosted s t { id := 0, tid := 0, epoch := 0, op := .lanesLoad ((s.activeLanes k).map (fun i => (i, (e.2.2.1 i).toNat))) keep, va := e.2.2.1 j, place := p,
                          dst := some (vRef d.toNat), cls := .loads, typ := q, back := if isShort1 (e.2.2.1 j).toNat then some (if e.2.2.2 then 8 else 0) else none,
                          short := isShort1 (e.2.2.1 j).toNat && !e.2.2.2 } [vRef d.toNat])) ∧
  (∀ (q : BitVec 2) (g : BitVec 6) (a d : BitVec 4) (k : BitVec 3) (z : BitVec 1) (s : State), predOk k z = true →
    ∀ e ∈ [(Instr.vst q g k z d, [vRef d.toNat, gRef g.toNat], fun j => s.me.gv g + BitVec.ofNat 64 (4 * j), false),
      (.vscat q g a k z d, [vRef d.toNat, vRef a.toNat, gRef g.toNat], fun j => s.me.gv g + (lane (s.me.vv a) j).signExtend 64, true)],
    s.Ready e.2.1 [] → s.LanesReach k (s.me.gv g) e.2.2.1 Rights.w →
    (s.activeLanes k = [] → ∃ t, exec e.1 s = .next t ∧ t.me.pc = s.me.nextPc 4 ∧ OnlyRegs s t [] []) ∧
    (∀ j, (s.activeLanes k).head? = some j → s.MaySend .stores → (∀ i ∈ s.activeLanes k, s.NoCopy (e.2.2.1 i)) →
      (e.2.2.2 = true ∨ isShort1 (e.2.2.1 j).toNat = false ∨ s.padFree ((s.activeLanes k).map (fun i => (e.2.2.1 i).toNat)) = false) →
      ∀ p, s.resolve s.cur (e.2.2.1 j).toNat = some p → ∃ t, exec e.1 s = .next t ∧ t.me.pc = s.me.nextPc 4 ∧
        WordsPosted s t { id := 0, tid := 0, epoch := 0, op := .lanesStore ((s.activeLanes k).map (fun i => (i, (e.2.2.1 i).toNat))) (s.me.vv d), va := e.2.2.1 j,
                          place := p, cls := .stores, typ := q, back := if isShort1 (e.2.2.1 j).toNat then some (if e.2.2.2 then 8 else 0) else none,
                          short := isShort1 (e.2.2.1 j).toNat && !e.2.2.2 } []))

/-- R11, R197, R198. VLD and VST performed at issue in the core's own scratchpad: each active lane holds the four bytes at its address, or they hold the
lane, and no other byte changes. -/
def Obligations.VectorAtIssue : Prop :=
  ∀ (q : BitVec 2) (g : BitVec 6) (d : BitVec 4) (k : BitVec 3) (z : BitVec 1) (s : State), predOk k z = true → s.MaySend .none → s.activeLanes k ≠ [] →
    let ea := fun j => s.me.gv g + BitVec.ofNat 64 (4 * j)
    (∀ j ∈ s.activeLanes k, isShort1 (ea j).toNat = true) → s.padFree ((s.activeLanes k).map (fun j => (ea j).toNat)) = true →
    (s.Ready [gRef g.toNat] [vRef d.toNat] → s.LanesReach k (s.me.gv g) ea Rights.r → s.ecc = [] →
      ∃ t, exec (.vld q g k z d) s = .next t ∧ t.me.stOf (vRef d.toNat) = .full ∧
        (∀ j, j < 32 → (j ∈ s.activeLanes k → ∀ p, s.resolve s.cur (ea j).toNat = some p → lane (t.me.vv d) j = BitVec.ofNat 32 (s.getN p.chipKey 4)) ∧
          (j ∉ s.activeLanes k → lane (t.me.vv d) j = if z = 1 ∨ (s.me.stOf (vRef d.toNat)).empty = true then 0 else lane (s.me.vv d) j)) ∧
        t.me.pc = s.me.nextPc 4 ∧ ShortRegs s t false ((s.activeLanes k).map (fun j => (ea j).toNat)) [vRef d.toNat]) ∧
    (s.Ready [vRef d.toNat, gRef g.toNat] [] → s.LanesReach k (s.me.gv g) ea Rights.w → s.Calm →
      ∃ t, exec (.vst q g k z d) s = .next t ∧ t.me.pc = s.me.nextPc 4 ∧
        (∀ j ∈ s.activeLanes k, ∀ p, s.resolve s.cur (ea j).toNat = some p → t.getN p.chipKey 4 = (lane (s.me.vv d) j).toNat) ∧
        (∀ x, (∀ j ∈ s.activeLanes k, ∀ p, s.resolve s.cur (ea j).toNat = some p → x < p.chipKey ∨ p.chipKey + 4 ≤ x) → t.byte x = s.byte x) ∧
        (∀ r, t.me.stOf r = s.me.stOf r ∧ t.me.valOf r = s.me.valOf r) ∧ (∀ i, t.me.kReg i = s.me.kReg i) ∧ t.me.special = s.me.special ∧
        (∀ u, u ≠ s.cur → t.thread u = s.thread u))

/-- R197, R200. The lane slices: lane `j` reads or writes the four bytes at its offset in slice `j` of the core, the offset of `g` or with its lane of `a`
added; an offset of 4,096 or more raises PROT and a misaligned one ALIGN.
R206. VCBD and VCBDI: one request for the four entries that the block's indexes name, or, in the core's own scratchpad, the decode at issue: lane
`8 q + j` from index `q` and element `j` of its entry. -/
def Obligations.SliceResults : Prop :=
  (∀ (g : BitVec 6) (a d : BitVec 4) (k : BitVec 3) (z : BitVec 1) (s : State), predOk k z = true → isMem (coreOf s.cur) = false →
    (s.me.gv g).toNat / 2 ^ 12 = 0xF0 * 2 ^ 36 →
    let key := fun (o : Nat → Nat) (j : Nat) => laneKey (coreOf s.cur) j (o j)
    let fits := fun (o : Nat → Nat) => ∀ j ∈ s.activeLanes k, o j < 4096 ∧ o j % 4 = 0
    (∀ e ∈ [(Instr.vlds g k z d, [gRef g.toNat], fun _ => (s.me.gv g).toNat % 4096),
        (.vldsx g a k z d, [vRef a.toNat, gRef g.toNat], fun j => (s.me.gv g).toNat % 4096 + (lane (s.me.vv a) j).toNat)],
      s.Ready e.2.1 [vRef d.toNat] →
      (fits e.2.2 → s.ecc = [] → ∃ t, exec e.1 s = .next t ∧ t.me.stOf (vRef d.toNat) = .full ∧
        (∀ j, j < 32 → lane (t.me.vv d) j = if j ∈ s.activeLanes k then BitVec.ofNat 32 (s.getN (key e.2.2 j) 4)
          else if z = 1 ∨ (s.me.stOf (vRef d.toNat)).empty = true then 0 else lane (s.me.vv d) j) ∧
        t.me.pc = s.me.nextPc 4 ∧ OnlyRegs s t [vRef d.toNat] []) ∧
      (∀ j, s.HasHandler → (s.activeLanes k).find? (fun j => decide (4096 ≤ e.2.2 j) || e.2.2 j % 4 != 0) = some j →
        ∃ t, exec e.1 s = .next t ∧ Trapped s t (if 4096 ≤ e.2.2 j then cPROT else cALIGN) (BitVec.ofNat 64 (0xF0 * 2 ^ 48 + e.2.2 j)) 4)) ∧
    (∀ e ∈ [(Instr.vsts g k z d, [vRef d.toNat, gRef g.toNat], fun _ => (s.me.gv g).toNat % 4096),
        (.vstsx g a k z d, [vRef d.toNat, vRef a.toNat, gRef g.toNat], fun j => (s.me.gv g).toNat % 4096 + (lane (s.me.vv a) j).toNat)],
      s.Ready e.2.1 [] → fits e.2.2 → ∃ t, exec e.1 s = .next t ∧ t.me.pc = s.me.nextPc 4 ∧
        (∀ j ∈ s.activeLanes k, t.getN (key e.2.2 j) 4 = (lane (s.me.vv d) j).toNat) ∧
        (∀ x, (∀ j ∈ s.activeLanes k, x < key e.2.2 j ∨ key e.2.2 j + 4 ≤ x) → t.byte x = s.byte x) ∧
        (∀ r, t.me.stOf r = s.me.stOf r ∧ t.me.valOf r = s.me.valOf r) ∧ (∀ i, t.me.kReg i = s.me.kReg i) ∧ t.me.special = s.me.special ∧
        (∀ u, u ≠ s.cur → t.thread u = s.thread u))) ∧
  (∀ (g : BitVec 6) (a d : BitVec 4) (k : BitVec 3) (z : BitVec 1) (s : State), predOk k z = true → s.Ready [vRef a.toNat, gRef g.toNat] [vRef d.toNat] →
    let index := fun q => bits (lane (s.me.vv a) (q / 2)).toNat (16 * (q % 2) + 15) (16 * (q % 2))
    let ea := fun q => s.me.gv g + BitVec.ofNat 64 (4 * (index q % 256))
    let keep : Vec := if z = 1 ∨ (s.me.stOf (vRef d.toNat)).empty = true then 0 else s.me.vv d
    (∀ q, q < 4 → sameWindow (s.me.gv g).toNat (ea q).toNat = true ∧ ∃ p, s.Reaches (ea q) 4 Rights.r p) →
    let vas := (List.range 4).map (fun q => (ea q).toNat)
    ∀ e ∈ [(Instr.vcbd g a k z d, false), (.vcbdi g a k z d, true)],
      ((isShort1 (s.me.gv g).toNat = false ∨ s.padFree vas = false) → s.MaySend .loads → (∀ q, q < 4 → s.NoCopy (ea q)) →
        ∀ p, s.resolve s.cur (ea 0).toNat = some p → ∃ t act, exec e.1 s = .next t ∧ t.me.pc = s.me.nextPc 4 ∧
        (∀ j, j < 32 → act.getLsbD j = decide (j ∈ s.activeLanes k)) ∧
        WordsPosted s t { id := 0, tid := 0, epoch := 0, op := .codebook (s.me.vv a) e.2 act keep, va := s.me.gv g, place := p, dst := some (vRef d.toNat),
                          cls := .loads, back := if isShort1 (s.me.gv g).toNat then some 0 else none, short := isShort1 (s.me.gv g).toNat }
          [vRef d.toNat]) ∧
      (isShort1 (s.me.gv g).toNat = true → s.padFree vas = true → s.MaySend .none → s.ecc = [] →
        ∃ t, exec e.1 s = .next t ∧ t.me.stOf (vRef d.toNat) = .full ∧ t.me.pc = s.me.nextPc 4 ∧ ShortRegs s t false vas [vRef d.toNat] ∧
          (∀ j, j < 32 → j ∉ s.activeLanes k → lane (t.me.vv d) j = lane keep j) ∧
          (∀ j ∈ s.activeLanes k, ∀ p, s.resolve s.cur (ea (j / 8)).toNat = some p →
            lane (t.me.vv d) j = cb2Lane e.2 (index (j / 8)) (s.getN p.chipKey 4) (j % 8) ((lane (s.me.vv a) 2).toNat % 256))))

/-- R212, R213. MLD and MST: one request for a set image of 128 bytes, or its access at issue in the core's own scratchpad.
R210, R211, R223, R224. The query instructions: a field of a query's record is loaded or stored where the records' checks hold, and QEVAL sends one
request for the members of a set; a query number of 1,024 or more raises PROT. -/
def Obligations.QueryResults : Prop :=
  (∀ (a : BitVec 6) (m : BitVec 2) (s : State) (p : Place),
    let va := s.me.gv a
    let busy := s.padFree (imageWords va) = false
    let clear := ∀ v ∈ imageWords va, s.NoCopy (BitVec.ofNat 64 v)
    let own := isShort1 va.toNat
    (s.Ready [gRef a.toNat] [mRef m.toNat] → s.Reaches va 8 Rights.r p → (∃ q, s.Reaches (va + 120) 8 Rights.r q) →
      ((own = false ∨ busy) → s.MaySend .loads → clear → ∃ t, exec (.mld a m) s = .next t ∧ t.me.pc = s.me.nextPc 4 ∧
        WordsPosted s t { id := 0, tid := 0, epoch := 0, op := .setLoad, va := va, place := p, dst := some (mRef m.toNat), cls := .loads,
                          back := if own then some 0 else none, short := own } [mRef m.toNat]) ∧
      (own = true → ¬ busy → s.MaySend .none → s.ecc = [] → ∃ t, exec (.mld a m) s = .next t ∧
        t.me.mv m = BitVec.ofNat 1024 (s.getN p.chipKey 128) ∧ t.me.stOf (mRef m.toNat) = .full ∧ t.me.pc = s.me.nextPc 4 ∧ ShortRegs s t false (imageWords va) [mRef m.toNat])) ∧
    (s.Ready [gRef a.toNat, mRef m.toNat] [] → s.Reaches va 8 Rights.w p → (∃ q, s.Reaches (va + 120) 8 Rights.w q) →
      ((own = false ∨ busy) → s.MaySend .stores → clear → ∃ t, exec (.mst m a) s = .next t ∧ t.me.pc = s.me.nextPc 4 ∧
        WordsPosted s t { id := 0, tid := 0, epoch := 0, op := .setStore (s.me.mv m), va := va, place := p, cls := .stores,
                          back := if own then some 0 else none, short := own } []) ∧
      (own = true → ¬ busy → s.MaySend .none → s.Calm → ∃ t, exec (.mst m a) s = .next t ∧ t.me.pc = s.me.nextPc 4 ∧
        t.getN p.chipKey 128 = (s.me.mv m).toNat ∧ (∀ x, x < p.chipKey ∨ p.chipKey + 128 ≤ x → t.byte x = s.byte x) ∧
        (∀ r, t.me.stOf r = s.me.stOf r ∧ t.me.valOf r = s.me.valOf r) ∧ (∀ u, u ≠ s.cur → t.thread u = s.thread u)))) ∧
  (∀ (c : BitVec 4) (w b a d : BitVec 6) (m n : BitVec 2) (s : State) (p : Place) (f : Word), s.MayTraverse →
    let size := bits s.me.qrec.toNat 8 4 * 16
    let va := f + BitVec.ofNat 64 ((s.me.gv a).toNat * size)
    (s.Unrolled → (s.me.gv a).toNat < 1024 → s.resolve s.cur va.toNat = some p → p.short va = false → isGlobal va.toNat = false →
      (∀ e ∈ [(Instr.qld w a d, 4), (.qldd w a d, 8)], s.Ready [gRef a.toNat] [gRef d.toNat] → s.FieldAt w e.2 f → va.toNat % e.2 = 0 → s.MaySend .loads →
        ∃ t, exec e.1 s = .next t ∧ t.me.pc = s.me.nextPc 4 ∧
          Posted s t { id := 0, tid := 0, epoch := 0, op := .load e.2 false, va := va, place := p, dst := some (gRef d.toNat), cls := .loads } [gRef d.toNat]) ∧
      (∀ e ∈ [(Instr.qst b a w, 4), (.qstd b a w, 8)], s.Ready [gRef a.toNat, gRef b.toNat] [] → s.FieldAt w e.2 f → va.toNat % e.2 = 0 → s.MaySend .stores →
        ∃ t, exec e.1 s = .next t ∧ t.me.pc = s.me.nextPc 4 ∧
          Posted s t { id := 0, tid := 0, epoch := 0, op := .store e.2 (s.me.gv b), va := va, place := p, cls := .stores } [])) ∧
    (c.toNat ≤ 9 → s.Ready [mRef m.toNat, gRef b.toNat] [mRef n.toNat] → s.FieldAt w 4 f → s.resolve s.cur f.toNat = some p → s.MaySend .loads →
      ∃ t, exec (.qeval c b m n w) s = .next t ∧ t.me.pc = s.me.nextPc 4 ∧
        WordsPosted s t { id := 0, tid := 0, epoch := 0, op := .eval c (s.me.mv m) ((s.me.gv b).setWidth 32) size, va := f, place := p, dst := some (mRef n.toNat),
                          cls := .loads, back := some (s.queryTime p - halfUp (s.queryTime p)) } [mRef n.toNat]) ∧
    (s.HasHandler → 1024 ≤ (s.me.gv a).toNat → s.Ready [gRef a.toNat, gRef b.toNat] [gRef d.toNat] →
      ∀ i ∈ [Instr.qld w a d, .qldd w a d, .qst b a w, .qstd b a w], ∃ t, exec i s = .next t ∧ Trapped s t cPROT (s.me.gv a) 4))

/-! ## Copies, matrix commands and messages -/

/-- R229-R233, R239. The copy engine's commands: a command whose ranges, rights and bells pass the checks is posted with the fields of its
group, and the PC goes on; a group that is no multiple of 8 above 0 or a reserved scope raises ILLEGAL.
R249, R250, R254, R264. The matrix commands at issue: `TTSET` awaits its status; `TQADD` takes its 64-byte record from the core's own
scratchpad, and it and the accumulator moves go to the die's tile queue; elsewhere than in a program slot of a compute core they are ILLEGAL. -/
def Obligations.CopyAndTileCommands : Prop :=
  (∀ (sc : BitVec 3) (q r t : BitVec 1) (n : BitVec 6) (s : State),
    (sc.toNat ≤ 5 → n ≠ 0 → n.toNat % 8 = 0 → s.hasFull (groupSrcs n 8) → s.Unrolled → s.MayCopy → s.BellOk (group s.me n 3) (bellAlign t) →
      s.BellOk (group s.me n 4) 16 →
      ((group s.me n 2).toNat < 2 ^ 32 → s.RangeReach (group s.me n 1) (group s.me n 2) Rights.r → s.RangeReach (group s.me n 0) (group s.me n 2) Rights.w →
        ∃ u, exec (.cpy sc q r t n) s = .next u ∧ CopyPosted s u (s.newCopy 0 sc q r t n)) ∧
      (∀ rows rowBytes dstStride srcStride : Nat, group s.me n 6 = BitVec.ofNat 64 (rowBytes + 2 ^ 32 * rows) → rows < 2 ^ 16 → rowBytes < 2 ^ 32 →
        0 < rows → 0 < rowBytes → rows * rowBytes < 2 ^ 32 → group s.me n 7 = BitVec.ofNat 64 (dstStride + 2 ^ 32 * srcStride) → dstStride < 2 ^ 32 →
        srcStride < 2 ^ 32 → s.RangeReach (group s.me n 0) (BitVec.ofNat 64 ((rows - 1) * dstStride + rowBytes)) Rights.w →
        s.RangeReach (group s.me n 2) (BitVec.ofNat 64 (4 * rows)) Rights.r → windowOf (group s.me n 1).toNat ≠ 0xF0 → (group s.me n 2).toNat % 4 = 0 →
        ∃ u, exec (.cpyg sc q r t n) s = .next u ∧ CopyPosted s u
          { s.newCopy 1 sc q r t n with
            len := rows * rowBytes, src := group s.me n 1, index := BitVec.ofNat 64 (s.engineAddr (coreOf s.cur) (group s.me n 2).toNat)
            rowBytes := rowBytes, rows := rows, dstStride := dstStride, srcStride := srcStride }) ∧
      (∀ (p : Part) (arg : Word), (group s.me n 2).toNat < 2 ^ 9 → s.partOf s.cur = some p → p.onDie ((group s.me n 2).toNat / 16) = true →
        (group s.me n 0).toNat % 2 = 0 → isGlobal (group s.me n 0).toNat = true → s.postArg (group s.me n 1) = some arg →
        ∃ u, exec (.mcpost sc q r t n) s = .next u ∧ CopyPosted s u
          { s.newCopy 2 sc q r t n with
            dst := group s.me n 0, src := 0, len := 1, arg := arg, unit := memCore ((group s.me n 2).toNat / 16) ((group s.me n 2).toNat % 16) })) ∧
    ((5 < sc.toNat ∨ n = 0 ∨ n.toNat % 8 ≠ 0) → s.HasHandler →
      ∀ i ∈ [Instr.cpy sc q r t n, .cpyg sc q r t n, .mcpost sc q r t n], ∃ u, exec i s = .next u ∧ Trapped s u cILLEGAL s.insnWord 4)) ∧
  (∀ (b a d : BitVec 6) (s : State),
    (∀ p, s.Ready [gRef a.toNat, gRef b.toNat] [gRef d.toNat] → s.MayTraverse → (s.me.gv b).toNat < 256 → s.Reaches (s.me.gv a) 64 Rights.r p →
      s.MaySend .loads → ∃ t r, exec (.ttset b a d) s = .next t ∧ t.me.pc = s.me.nextPc 4 ∧ t.reqs = s.reqs ++ [r] ∧ r.id = s.nextId ∧ r.op = .ttset ∧
        r.dst = some (gRef d.toNat) ∧ r.cls = .loads ∧ t.tileCmds = s.tileCmds ++ [{ s.newTile 0 with
          addr := s.engineAddr (coreOf s.cur) (s.me.gv a).toNat, operand := s.me.gv b }] ∧
        t.pend = tins s.pend (s.now + Config.tileAccept) (.ttsetServe s.nextId) ∧ (d ≠ 0 → t.me.stOf (gRef d.toNat) = .pending) ∧
        t.me.loads = s.me.loads + 1 ∧ Untouched s t [gRef d.toNat]) ∧
    (∀ p, s.hasFull [gRef a.toNat] → windowOf (s.me.gv a).toNat = 0xF1 → s.Reaches (s.me.gv a) 64 Rights.r p → s.MayTile → s.Unrolled → s.ecc = [] →
      (∀ i, i < 8 → s.busyWord ((s.me.gv a).toNat + 8 * i) = false) → ∃ t c, exec (.tqadd a) s = .next t ∧ TilePosted s t c ∧ c.kind = 1 ∧ c.tid = s.cur ∧ c.core = coreOf s.cur ∧
        c.addr = s.engineAddr (coreOf s.cur) (s.me.gv a).toNat ∧ c.record = (List.range 64).map (fun j => s.byte (p.chipKey + j)) ∧ c.code = 0) ∧
    (s.hasFull [gRef a.toNat, gRef b.toNat] → s.MayTile → s.Unrolled → bits (s.me.gv b).toNat 31 8 = 0 →
      (bits (s.me.gv b).toNat 63 32 = 0 ∨ (1 ≤ bits (s.me.gv b).toNat 63 61 ∧ bits (s.me.gv b).toNat 63 61 ≤ 5)) → inPads (s.me.gv a).toNat = true →
      s.rangeOk s.me.part (coreOf s.cur) (s.me.gv a).toNat 65600 = true → (s.me.gv a).toNat % 64 = 0 →
      ∀ e ∈ [(Instr.accsv b a, 2), (.accsvk b a, 3), (.accld b a, 4)], ∃ t c, exec e.1 s = .next t ∧ TilePosted s t c ∧ c.kind = e.2 ∧
        c.addr = s.engineAddr (coreOf s.cur) (s.me.gv a).toNat ∧ c.operand = s.me.gv b ∧ c.signal.isSome = decide (bits (s.me.gv b).toNat 63 61 ≠ 0) ∧
        (if e.2 = 4 then c.tag else c.chainTag) = some ((s.me.gv b).toNat % 256) ∧ (if e.2 = 4 then c.chainTag else c.tag) = none) ∧
    (¬ s.MayTraverse → s.HasHandler → ∀ i ∈ [Instr.ttset b a d, .tqadd a, .accsv b a, .accsvk b a, .accld b a],
      ∃ t, exec i s = .next t ∧ Trapped s t cILLEGAL s.insnWord 4))

/-- R288-R292. `SEND` and the register fills leave their core as packets, `SEND` of n + 1 flits with the payload its registers hold; `AMRET`
ends a handler.
R293, R329. `LTURN` sends a turn request and awaits its status; `EVSIG` signals the latches of a core or the driver's event queue, and is
an outstanding store; a name or count out of range raises PROT. -/
def Obligations.MessageResults : Prop :=
  (∀ (s : State),
    (∀ (r : BitVec 2) (n : BitVec 4) (b a p : BitVec 6) (dst : Nat), r ≠ 3 → p.toNat + 2 * n.toNat ≤ 64 →
      s.hasFull ([gRef a.toNat, gRef b.toNat] ++ (payloadRegs p n).map gRef) → (s.me.gv a).toNat < 2 ^ 11 →
      s.namedCore s.cur (s.me.gv a).toNat = some dst → isGlobal (s.me.gv b).toNat = true → (s.me.gv b).toNat % 2 = 0 → s.routeOk r.toNat dst = true →
      s.MaySend .stores → s.Unrolled → ∃ t, exec (.send r n b a p) s = .next t ∧ PacketSent s t .send (s.me.gv a) .stores [] dst (s.me.gv a).toNat 0
        (n.toNat + 1) ((List.range (2 * n.toNat)).map (fun i => (s.me.gReg (p.toNat + i)).val)) (s.me.gv b)) ∧
    (∀ (a d : BitVec 6) (dst : Nat), s.Ready [gRef a.toNat] [gRef d.toNat] → (s.me.gv a).toNat < 2 ^ 21 → s.namedCore s.cur ((s.me.gv a).toNat % 2 ^ 11) = some dst →
      s.MaySend .loads → s.Unrolled →
      let idx := (s.me.gv a).toNat / 2 ^ 15
      (∀ b : BitVec 6, s.me.stOf (gRef b.toNat) = .full → ∃ t, exec (.rfill b a d) s = .next t ∧
        PacketSent s t (.rfill .g ((s.me.gv b).setWidth 1024)) (s.me.gv a) .loads [gRef d.toNat] dst ((s.me.gv a).toNat % 2 ^ 11) 1 2 [] 0) ∧
      (∀ b : BitVec 2, s.me.stOf (mRef b.toNat) = .full → idx < 4 → ∃ t, exec (.rfillm b a d) s = .next t ∧
        PacketSent s t (.rfill .m (s.me.mv b)) (s.me.gv a) .loads [gRef d.toNat] dst ((s.me.gv a).toNat % 2 ^ 11) 1 9 [] 0) ∧
      (∀ b : BitVec 4, s.me.stOf (vRef b.toNat) = .full → idx < 16 → ∃ t, exec (.rfillv b a d) s = .next t ∧
        PacketSent s t (.rfill .v (s.me.vv b)) (s.me.gv a) .loads [gRef d.toNat] dst ((s.me.gv a).toNat % 2 ^ 11) 1 9 [] 0) ∧
      (∀ b : BitVec 3, s.me.stOf (cRef b.toNat) = .full → idx < 8 → ∃ t, exec (.rfillc b a d) s = .next t ∧
        PacketSent s t (.rfill .c ((s.me.cv b).setWidth 1024)) (s.me.gv a) .loads [gRef d.toNat] dst ((s.me.gv a).toNat % 2 ^ 11) 1 2 [] 0)) ∧
    (slotOf s.cur = 15 → s.me.loads = 0 → s.me.stores = 0 → s.me.storeErr = none → s.me.occupied = true →
      ∃ t, exec .amret s = .next t ∧ t.me.occupied = false ∧ (∀ x, t.byte x = s.byte x)) ∧
    (slotOf s.cur ≠ 15 → s.HasHandler → ∃ t, exec .amret s = .next t ∧ Trapped s t cILLEGAL s.insnWord 4)) ∧
  (∀ (b a d : BitVec 6) (s : State),
    (s.Ready [gRef a.toNat, gRef b.toNat] [gRef d.toNat] → (s.me.gv a).toNat < 2 ^ 7 → (s.me.gv b).toNat < 2 ^ 5 → s.MaySend .loads → s.Unrolled →
      ∃ t r n, exec (.lturn b a d) s = .next t ∧ t.me.pc = s.me.nextPc 4 ∧ t.reqs = s.reqs ++ [r] ∧ r.id = s.nextId ∧ r.op = .lturn (s.me.gv a) (s.me.gv b) ∧
        r.cls = .loads ∧ r.dst = some (gRef d.toNat) ∧ t.pend = tins s.pend n (.turnRequest s.nextId) ∧ t.me.loads = s.me.loads + 1 ∧
        (d ≠ 0 → t.me.stOf (gRef d.toNat) = .pending) ∧ Untouched s t [gRef d.toNat]) ∧
    (s.Ready [gRef a.toNat, gRef b.toNat] [gRef d.toNat] → s.HasHandler →
      (2 ^ 7 ≤ (s.me.gv a).toNat → ∃ t, exec (.lturn b a d) s = .next t ∧ Trapped s t cPROT (s.me.gv a) 4) ∧
      ((s.me.gv a).toNat < 2 ^ 7 → 2 ^ 5 ≤ (s.me.gv b).toNat → ∃ t, exec (.lturn b a d) s = .next t ∧ Trapped s t cPROT (s.me.gv b) 4)) ∧
    (s.hasFull [gRef a.toNat, gRef b.toNat] → s.me.level = .S → s.MaySend .stores → s.Unrolled → ∀ c, (s.me.gv a).toNat < 2 ^ 12 →
      (if (s.me.gv a).getLsbD 11 then c = coreOf s.cur else s.namedCore s.cur ((s.me.gv a).toNat % 2 ^ 11) = some c) →
      ∃ t r n, exec (.evsig b a) s = .next t ∧ t.me.pc = s.me.nextPc 4 ∧ t.reqs = s.reqs ++ [r] ∧ r.id = s.nextId ∧ r.op = .evsig c ∧ r.va = s.me.gv b ∧
        r.val = (if (s.me.gv a).getLsbD 11 then 1 else 0) ∧ r.cls = .stores ∧ r.rel = true ∧ t.pend = tins s.pend n (.evsigDelivery s.nextId) ∧
        t.me.stores = s.me.stores + 1 ∧ Untouched s t []) ∧
    (s.HasHandler → ∃ t, exec (.evsig b a) s = .next t ∧ Trapped s t cPRIV s.insnWord 4))

/-! ## The core's own steps -/

/-- R22, R24, R108, R114, R354. Replies: a fill makes its register FULL with the value, an error marks it, each takes one from its class's
count, and the thread goes on; a fault notice takes a thread out of the rotation until its faulted accesses are woken; a refill puts its
region's rights into the PLB. -/
def Obligations.ReplySteps : Prop :=
  (∀ (s : State) (r : Req), s.req r.id = some r → s.lives r = true → (s.core (coreOf r.tid)).diverted = false →
    (∀ (n : Nat) (sg : Bool) (i : Nat), r.op = .load n sg → r.cls = .loads → r.ctxReg = none → r.dst = some (gRef i) →
      ((s.thread r.tid).stOf (gRef i)).waits = true →
      (r.state = .performed → ∃ t, exec (.fillLands r.id) s = .next t ∧ (t.thread r.tid).gReg i = ⟨BitVec.ofNat 64 r.val.toNat, .full⟩ ∧
        (t.thread r.tid).loads = (s.thread r.tid).loads - 1 ∧ (t.thread r.tid).park = none ∧ t.req r.id = none ∧ Aside s t [r.tid] ∧
        (∀ x, x ≠ gRef i → (t.thread r.tid).stOf x = (s.thread r.tid).stOf x ∧ (t.thread r.tid).valOf x = (s.thread r.tid).valOf x)) ∧
      (r.state = .failed → ∃ t, exec (.errorResponse r.id) s = .next t ∧ (t.thread r.tid).gReg i = ⟨r.errAddr, .errorMark⟩ ∧
        (t.thread r.tid).loads = (s.thread r.tid).loads - 1 ∧ (t.thread r.tid).park = none ∧ t.req r.id = none ∧ Aside s t [r.tid])) ∧
    (∀ (n : Nat) (v : Word), r.op = .store n v → r.cls = .stores → r.dst = none → r.ctxReg = none → r.flags = 0 →
      (r.state = .performed → ∃ t, exec (.storeAck r.id) s = .next t ∧ (t.thread r.tid).stores = (s.thread r.tid).stores - 1 ∧
        (t.thread r.tid).storeErr = (s.thread r.tid).storeErr ∧ (t.thread r.tid).park = none ∧ t.req r.id = none ∧ Aside s t [r.tid] ∧
        (∀ x, (t.thread r.tid).stOf x = (s.thread r.tid).stOf x ∧ (t.thread r.tid).valOf x = (s.thread r.tid).valOf x)) ∧
      (r.state = .failed → ∃ t, exec (.errorResponse r.id) s = .next t ∧ (t.thread r.tid).stores = (s.thread r.tid).stores - 1 ∧
        (t.thread r.tid).storeErr = some ((s.thread r.tid).storeErr.getD r.errAddr) ∧ t.req r.id = none ∧ Aside s t [r.tid])) ∧
    (r.state = .parked → ∃ t, exec (.faultNotice r.id) s = .next t ∧ t.thread r.tid = { s.thread r.tid with faulted := 1 } ∧ t.reqs = s.reqs ∧
      Aside s t [r.tid])) ∧
  (∀ (s : State) (tid : Nat), (∀ r ∈ s.reqs, ¬ (r.tid = tid ∧ r.epoch = (s.thread tid).epoch ∧ r.parkedNow = true)) →
    ∃ t, exec (.faultWakeRejoin tid) s = .next t ∧ t.thread tid = { s.thread tid with faulted := 0 } ∧ Aside s t [tid]) ∧
  (∀ (s : State) (core tid region : Nat), (s.thread tid).park = some .plb → ∃ t, exec (.plbRefill core tid region) s = .next t ∧
    (t.core core).plbFind region = some (match s.partOf tid with | some p => s.domainRights p.root region | none => {}) ∧
    t.thread tid = { s.thread tid with park := none } ∧ Aside s t [tid])

/-- R13, R17-R21. Lending, the deque and stealing: a cycle whose owner does not issue goes to the first ready slot from the lending pointer
on; a free slot takes the oldest entry of the deque; an idle core asks a victim, which gives its oldest entry, or none where the launch of the attempt
is over at either core. -/
def Obligations.WorkSteps : Prop :=
  (∀ (s : State) (core i : Nat), let ok : Nat → Prop := fun j => s.ready (core * 16 + j) = true ∧ s.spaced (core * 16 + j) = true ∧
      (s.thread (core * 16 + j)).ownCycle = false ∧ s.levelOf (s.thread (core * 16 + j)).ctx ≠ 3
    (s.core core).lendPtr < 15 → i < 15 → s.owner core = none → s.issuedNow core = false → ok i →
    (∀ k, k < (i + 15 - (s.core core).lendPtr) % 15 → ¬ ok (((s.core core).lendPtr + k) % 15)) →
    ∃ t, exec (.lentCycle core) s = .next t ∧ (t.core core).grant = some (i, s.now, (s.core core).lendPtr) ∧ (t.core core).lendPtr = (i + 1) % 15 ∧ Aside s t []) ∧
  (∀ (s : State) (core i : Nat) (e : DequeEntry) (rest : List DequeEntry), core < 2048 → (s.core core).halted = false → (s.core core).diverted = false →
    (s.core core).held = [] → (s.core core).stolen = none → (s.core core).deque = e :: rest → s.levelOf (s.dequeCtx core) = 0 → i < 15 →
    (s.thread (core * 16 + i)).occupied = false → (∀ j, j < i → (s.thread (core * 16 + j)).occupied = true) →
    ∃ t, exec (.dequeTake core) s = .next t ∧ (t.core core).deque = rest ∧ let n := t.thread (core * 16 + i)
      n.occupied = true ∧ n.pc = e.pc ∧ n.lti = e.lti ∧ n.launch = e.launch ∧ n.level = .U ∧ n.epoch = (s.thread (core * 16 + i)).epoch + 1 ∧
        (e.isSplit = true → n.kind = .split ∧ n.g = e.regs ∧ n.mReg e.msReg = ⟨e.ms, .full⟩) ∧
        (e.isSplit = false → n.kind = .continuation ∧ n.gReg 2 = ⟨e.frame, .full⟩ ∧ ∀ j, j ≠ 0 → j ≠ 2 → (n.gReg j).st = .void)) ∧
  (∀ (s : State) (core : Nat) (k v : Nat) (l : Launch) (rest : List Nat), core < 2048 → (s.core core).halted = false → (s.core core).diverted = false →
    (s.core core).steal = none → (s.core core).stolen = none → (s.core core).deque = [] → s.openSlots core ≠ [] → (s.core core).idle + 64 ≤ s.now →
    s.launchOn core = some (k, l) → s.levelOf l.ctx ≠ 3 → s.victims core l = v :: rest →
    ∃ t n, exec (.stealAttempt core) s = .next t ∧ (t.core core).steal = some { launch := k, victims := rest, carried := none, slot := none } ∧
      t.pend = tins s.pend n (.stealRequest core v) ∧ Aside s t []) ∧
  (∀ (s : State) (thief victim : Nat) (a : StealAttempt), thief ≠ victim → (s.core thief).steal = some a → s.spillAt victim (s.stealPart thief) (.stealRequest thief victim) = none →
    s.levelOf (s.dequeCtx victim) = 0 →
    (((s.core victim).deque = [] ∨ s.launchAt thief ≠ some a.launch ∨ s.launchAt victim ≠ some a.launch) → ∃ t n, exec (.stealRequest thief victim) s = .next t ∧ t.pend = tins s.pend n (.stealReply thief victim false) ∧ t.cores = s.cores ∧
      Aside s t []) ∧
    (∀ e rest, (s.core victim).deque = e :: rest → s.launchAt thief = some a.launch → s.launchAt victim = some a.launch →
      (∀ back, s.routeFault (s.stealPart thief) thief (.core victim 0) back = none) → ∃ t n, exec (.stealRequest thief victim) s = .next t ∧ t.Placed n (.stealReply thief victim true) ∧
      (t.core victim).deque = rest ∧ (t.core thief).steal = some { a with carried := some e, slot := none } ∧ Aside s t [])) ∧
  (∀ (s : State) (thief victim : Nat) (found : Bool) (a : StealAttempt), (s.core thief).diverted = false → (s.core thief).steal = some a →
    (∀ e, a.carried = some e → a.slot = none → ∃ t n, exec (.stealReply thief victim found) s = .next t ∧ (t.core thief).steal = none ∧
      (t.core thief).stolen = some e ∧ t.Placed n (.dequeTake thief) ∧ Aside s t []) ∧
    (∀ v rest, a.carried = none → s.stealing thief = true → a.victims = v :: rest → ∃ t n, exec (.stealReply thief victim found) s = .next t ∧
      (t.core thief).steal = some { a with victims := rest, carried := none, slot := none } ∧ t.Placed n (.stealRequest thief v) ∧ Aside s t []) ∧
    (a.carried = none → s.stealing thief = false → ∃ t n, exec (.stealReply thief victim found) s = .next t ∧ (t.core thief).steal = none ∧
      t.Placed n (.stealAttempt thief) ∧ Aside s t []) ∧
    (a.carried = none → s.stealing thief = true → a.victims = [] → ∃ t n, exec (.stealReply thief victim found) s = .next t ∧ (t.core thief).steal = none ∧ (t.core thief).idle = s.now ∧
      t.Placed n (.stealAttempt thief) ∧ Aside s t []))

/-- R18, R327, R413. The proctor: an emptied deque is refilled with the oldest overflow entries; a request for a full deque moves the 32 oldest
entries out and restarts the thread that waits; a grant adds overflow memory; before the firmware is ready no request is served. That a refill takes 64 entries less the
reservations of `SPAWN`s under way, that one move serves every thread that found the deque full (a request that finds room moves none), and that a grant
ends the wait of every request of its die are the model's (log 10): the rules give no number for the first and say nothing of the others. -/
def Obligations.ProctorSteps : Prop :=
  (∀ (s : State) (core : Nat), (s.core core).deque = [] → (s.core core).dequeOvf ≠ [] → (s.core core).diverted = false →
    ∃ t, exec (.dequeRefill core) s = .next t ∧ (t.core core).deque = (s.core core).dequeOvf.take (64 - s.spawning core) ∧
      (t.core core).dequeOvf = (s.core core).dequeOvf.drop (64 - s.spawning core) ∧
      Aside s t []) ∧
  (∀ (s : State) (die kind addr : Nat) (tid : Option Nat), ∃ t, exec (.resourceRequest die kind addr tid) s = .next t ∧
    (t.die die).resources = (s.die die).resources ++ [{ kind := kind, addr := addr, tid := tid, waits := Config.overflowFull s.free }] ∧
    (Config.overflowFull s.free = false → ∃ n, t.Placed n (.proctorProxyComplete die)) ∧
    (Config.overflowFull s.free = true → t.hostOut = s.hostOut ++ [(3, BitVec.ofNat 64 die)]) ∧ Aside s t []) ∧
  (∀ (s : State) (tid : Nat), (s.thread tid).park = some .restart → ∃ t, exec (.resourceRestart tid) s = .next t ∧
    t.thread tid = { s.thread tid with park := none } ∧ Aside s t [tid]) ∧
  (∀ (s : State) (die : Nat), (s.die die).fwStat ≠ 3 → exec (.proctorProxyComplete die) s = .next s) ∧
  (∀ (s : State) (die : Nat) (r : Resource) (rest : List Resource) (tid : Nat), (s.die die).fwStat = 3 → (s.die die).resources = r :: rest → r.waits = false → r.kind = 1 →
    r.tid = some tid → (s.thread tid).phase ≠ .done → ∃ t n, exec (.proctorProxyComplete die) s = .next t ∧ (t.die die).resources = rest ∧
      (s.dequeFull r.addr = true → (t.core r.addr).deque = (s.core r.addr).deque.drop 32 ∧
        (t.core r.addr).dequeOvf = (s.core r.addr).dequeOvf ++ (s.core r.addr).deque.take 32) ∧
      (s.dequeFull r.addr = false → t.cores = s.cores) ∧
      t.Placed n (.resourceRestart tid) ∧ Aside s t []) ∧
  (∀ (s : State) (die amount : Nat), ∃ t, exec (.overflowMemoryGrant die amount) s = .next t ∧ (t.die die).memory = (s.die die).memory + amount ∧
    (∀ r ∈ (t.die die).resources, r.waits = false) ∧ Aside s t []) ∧
  (∀ (s : State) (die : Nat) (e : List Byte) (rest : List (List Byte)), (s.die die).events = e :: rest → rest = [] → e.length = 32 → (s.die die).eq.full = false →
    ∃ t, exec (.eventRetry die) s = .next t ∧ (t.die die).events = [] ∧ (t.die die).eq.head = (s.die die).eq.head + 1 ∧
      (∀ i, i < 32 → t.byte ((s.die die).eq.slot 32 + i) = e.getD i 0) ∧ (∀ a, a < (s.die die).eq.slot 32 ∨ (s.die die).eq.slot 32 + 32 ≤ a → t.byte a = s.byte a))

/-- R26, R273, R277-R285, R290, R292, R329. Packets and what they bring: an acknowledgement, a message or a fill enters its source router's pool; one that has won its output
enters the next router of a ring, or the far side of a gateway, and one that has not waits; a unit without its tenant's bit drops it; a delivered message is queued
at its core and acknowledged, and slot 15 takes the oldest; a fill reaches a register that `EXPECT` left PENDING; an event sets the latches of its
core's threads. That a message handed to the proctor comes back to its queue only once the proctor has come to its request is the model's (log 10), and so are the
list that holds spilled messages, beside memory, and one such message for each that slot 15 takes (log 52).
R293, R294. Turning: a request is answered with its status, and one that may be served is queued at its link; at a boundary of 256 cycles
the link turns groups that may turn, for the request at its head; a turned group carries flits again 40 cycles on. -/
def Obligations.PacketSteps : Prop :=
  ((∀ (s : State) (p : Packet), s.packet p.id = some p →
    (p.place = .source → p.typ ≤ 2 → s.tenantOk p.at_ p.tenant = true → s.streamAny p (fun q => decide (q.place = .source)) = false →
      (p.typ = 2 ∨ s.req p.req = none ∨ ∃ r, s.req p.req = some r ∧ s.held r = false) → (p.typ = 2 ∨ (s.core (coreOf p.tid)).lines = []) →
      ∃ t n, exec (.packetHop p.id) s = .next t ∧
        t.packet p.id = some { p with dst := s.lookup p, place := .pool, entered := s.now,
                                      trail := [{ router := p.at_, port := 5, escape := false, stop := 0, since := s.now }] } ∧
        (t.Placed n (.packetHop p.id) ∨ t.Placed n (.packetDelivery p.id)) ∧ Aside s t [p.tid]) ∧
    (∀ (column : Bool) (toward : Nat) (o : Output), p.place = .pool ∨ p.place = .escape → hopOf p.at_ p.dst = .ring column toward → s.wants p = some o →
      let here := if column then lrow p.at_ else lcol p.at_
      let cw := o.port % 2 == 1
      let free := s.mayStart p o && !s.linkBusy p o s.now && s.wins p o s.now
      (∀ esc, s.admits p o.next o.port s.now = some esc → free = true → s.tenantOk o.next p.tenant = true →
        ∃ t n, exec (.packetHop p.id) s = .next t ∧
          t.packet p.id = some { p with
            at_ := o.next, place := if esc then .escape else .pool, entered := s.now, waited := 0, aged := false, onColumn := column, cw := cw,
            stop := p.stopAt o.port, vc := (p.onRing column && p.vc) || ((cw && here == 7) || (!cw && here == 0)),
            trail := { router := o.next, port := o.port, escape := esc, stop := p.stopAt o.port, since := s.now } :: p.trail } ∧
          (t.Placed n (.packetHop p.id) ∨ t.Placed n (.packetDelivery p.id)) ∧ Aside s t []) ∧
      (s.admits p o.next o.port s.now = none ∨ free = false → ∃ t, exec (.packetHop p.id) s = .next t ∧
        t.packet p.id = some { p with waited := p.waited + 1 } ∧ t.Placed (s.now + 1) (.packetHop p.id) ∧
        (p.waited = 0 → s.levelOf p.ctx ≠ 3 → t.Placed (s.now + 64) (.outputAging p.id)) ∧ Aside s t [])) ∧
    (∀ (next port cost link : Nat) (units : List Nat) (o : Output), p.place = .pool ∨ p.place = .escape → hopOf p.at_ p.dst = .gate next port cost link units →
      s.wants p = some o → (∀ u ∈ units, s.tenantOk u p.tenant = true) → s.linkAlive link = true →
      let at_ := s.now + (cost - 2)
      let free := s.mayStart p o && !s.linkBusy p o at_ && s.wins p o at_
      (∀ esc, s.admits p next port at_ = some esc → free = true → port = 7 ∨ s.tenantOk next p.tenant = true →
        ∃ t n, exec (.packetHop p.id) s = .next t ∧
          t.packet p.id = some { p with
            at_ := o.next, place := if esc then .escape else .pool, entered := at_, waited := 0, aged := false, stop := 0, vc := false,
            trail := { router := o.next, port := o.port, escape := esc, stop := 0, since := at_ } :: p.trail } ∧
          (t.Placed n (.packetHop p.id) ∨ t.Placed n (.packetDelivery p.id)) ∧ Aside s t []) ∧
      (s.admits p next port at_ = none ∨ free = false → ∃ t, exec (.packetHop p.id) s = .next t ∧
        t.packet p.id = some { p with waited := p.waited + 1 } ∧ t.Placed (s.now + 1) (.packetHop p.id) ∧ Aside s t [])) ∧
    (p.place = .source → p.typ = 2 → s.tenantOk p.at_ p.tenant = false → s.req p.req = none → ∃ t, exec (.packetHop p.id) s = .next t ∧ t.packet p.id = none ∧
      Aside s t []) ∧
    (64 ≤ p.waited → s.levelOf p.ctx ≠ 3 → ∃ t, exec (.outputAging p.id) s = .next t ∧ t.packet p.id = some { p with aged := true } ∧ Aside s t []) ∧
    (p.place = .pool → hopOf p.at_ p.dst = .arrive → s.streamAny p (fun q => decide (q.place ≠ .arrived)) = false →
      (p.typ = 0 → ∃ t, exec (.packetDelivery p.id) s = .next t ∧ t.packet p.id = some { p with place := .arrived, trail := [] } ∧
        t.pend = tins s.pend s.now (.messageArrival p.id) ∧ Aside s t []) ∧
      (p.typ = 1 → ∃ t, exec (.packetDelivery p.id) s = .next t ∧ t.packet p.id = some { p with place := .arrived, trail := [] } ∧
        t.pend = tins s.pend s.now (.rfillArrival p.id) ∧ Aside s t [])) ∧
    (p.place = .arrived → p.typ = 0 → s.spillAt p.dst p.tenant (.messageArrival p.id) = none → s.levelOf p.ctx = 0 → p.id < s.nextId → (s.core p.dst).msgs.length < 32 → (s.core p.dst).msgSpill = [] →
      ∃ t n, exec (.messageArrival p.id) s = .next t ∧ (t.core p.dst).msgs = (s.core p.dst).msgs ++ [p.msg] ∧ t.packet p.id = none ∧
        t.Placed n (.handlerStart p.dst) ∧ (∃ q ∈ t.packets, q.typ = 2 ∧ q.req = p.req ∧ q.arg = 0 ∧ q.handler = 0 ∧ q.src = s.nameOf p.dst ∧ q.dst = routerOf (coreOf p.tid)) ∧ Aside s t []) ∧
    (∀ (r : Req) (cls : RegClass) (v : BitVec 1024), p.place = .arrived → p.typ = 1 → s.spillAt p.dst p.tenant (.rfillArrival p.id) = none → s.levelOf p.ctx = 0 → s.req p.req = some r →
      r.op = .rfill cls v →
      let tid := p.dst * 16 + bits r.va.toNat 14 11
      let reg := fillTarget r.va cls
      ((s.thread tid).occupied = true → (s.thread tid).stOf reg = .expecting → ∃ t, exec (.rfillArrival p.id) s = .next t ∧ (t.thread tid).stOf reg = .full ∧
        (cls = .g → (t.thread tid).valOf reg = v.toNat % 2 ^ 64) ∧ (cls = .m ∨ cls = .v → (t.thread tid).valOf reg = v.toNat) ∧
        reg ∈ (t.thread tid).rfilled ∧ (t.thread tid).park = none ∧ (∃ q ∈ t.packets, q.typ = 2 ∧ q.req = p.req ∧ q.arg = 0) ∧ Aside s t [tid]) ∧
      (((s.thread tid).occupied = false ∨ (s.thread tid).stOf reg ≠ .expecting) → ∃ t, exec (.rfillArrival p.id) s = .next t ∧
        (∃ q ∈ t.packets, q.typ = 2 ∧ q.req = p.req ∧ q.arg = 1) ∧ Aside s t []))) ∧
  (∀ (s : State) (core : Nat) (m : Msg) (rest : List Msg), (s.thread (core * 16 + 15)).occupied = false → (s.core core).diverted = false →
    (s.core core).halted = false → (s.core core).msgs = m :: rest → m.payload.length ≤ 30 →
    ∃ t, exec (.handlerStart core) s = .next t ∧ (t.core core).msgs = rest ++ (s.core core).msgSpill.take (min 1 (s.handed 2 core (s.core core).msgSpill.length)) ∧ let h := t.thread (core * 16 + 15)
      h.occupied = true ∧ h.kind = .handler ∧ h.pc = m.handler ∧ h.level = .U ∧ (∀ i, i < m.payload.length → h.gReg (8 + i) = ⟨m.payload.getD i 0, .full⟩) ∧
        h.gReg 5 = ⟨BitVec.ofNat 64 m.src, .full⟩ ∧ h.gReg 6 = ⟨m.lti.setWidth 64, .full⟩ ∧ h.gReg 7 = ⟨BitVec.ofNat 64 (m.payload.length / 2), .full⟩ ∧
        Aside s t [core * 16 + 15]) ∧
  (∀ (s : State) (r : Req) (c : Nat), s.req r.id = some r → r.op = .evsig c → r.state = .going → s.held r = false → r.val = 0 →
    s.spillAt c (s.thread r.tid).part (.evsigDelivery r.id) = none → (∀ back, s.routeFault (s.thread r.tid).part (coreOf r.tid) (.core c 0) back = none) →
    (s.core (coreOf r.tid)).lines = [] → ∃ t n, exec (.evsigDelivery r.id) s = .next t ∧ t.req r.id = some { r with state := .performed } ∧
      t.Placed n (.storeAck r.id) ∧ (∀ i, i < 16 → (s.thread (c * 16 + i)).occupied = true → r.va.getLsbD i = true → (t.thread (c * 16 + i)).latch = true) ∧
      (∀ i, r.va.getLsbD i = false → (t.thread (c * 16 + i)).latch = (s.thread (c * 16 + i)).latch) ∧ (∀ a, t.byte a = s.byte a))) ∧
  ((∀ (s : State) (r : Req) (ga gb : Word), s.req r.id = some r → r.state = .going → r.op = .lturn ga gb → s.turnLost r = none → s.levelOf (s.thread r.tid).ctx = 0 →
    let name := r.va.toNat
    let owned : Nat → Prop := fun l => ∃ p, s.partOf r.tid = some p ∧ p.links.contains l = true
    let link := fun l => tget { groups := [], queue := [] } s.links l
    ∃ t n v, exec (.turnRequest r.id) s = .next t ∧ t.req r.id = some { r with state := .performed, val := BitVec.ofNat 1024 v } ∧ t.Placed n (.fillLands r.id) ∧
      Aside s t [] ∧
      (linkOf name = none → v = 4) ∧
      (∀ l, linkOf name = some l →
        (¬ owned l → v = 1) ∧ (owned l → (gb.toNat < 4 ∨ (link l).workingCount < gb.toNat + 4) → v = 3) ∧
        (owned l → 4 ≤ gb.toNat → gb.toNat + 4 ≤ (link l).workingCount →
          (Config.turnEntries ≤ (link l).queue.length → v = 2) ∧
          ((link l).queue.length < Config.turnEntries → v = 0 ∧ ((tfind s.links l).isSome = true → ∃ q m, tfind t.links l = some { link l with queue := (link l).queue ++ [q] } ∧
            q.target = gb.toNat ∧ t.Placed m (.turnBoundary l)))))) ∧
  (∀ (s : State) (link : Nat) (l : Link) (r : TurnReq) (rest : List TurnReq), tfind s.links link = some l → l.queue = r :: rest → s.levelOf r.ctx = 0 →
    s.now % 256 = 0 →
    let out := if r.fromLower then l.awayCount else l.workingCount - l.awayCount
    let want := if out < r.target then r.target - out else out - r.target
    let can := l.eligible (if out < r.target then !r.fromLower else r.fromLower) s.now
    ∃ t, exec (.turnBoundary link) s = .next t ∧ Aside s t [] ∧
      tfind t.links link = some { l.turn (can.take (min want can.length)) with queue := if want ≤ can.length then rest else r :: rest } ∧
      ∀ g ∈ can.take (min want can.length), t.Placed (s.now + 40) (.groupTurnDone link g)) ∧
  (∀ (s : State) (link group : Nat) (l : Link) (g : Group), tfind s.links link = some l → l.groups[group]? = some g → g.carrying = false →
    ∃ t, exec (.groupTurnDone link group) s = .next t ∧
      tfind t.links link = some { l with groups := l.groups.set group { g with carrying := true, since := s.now } } ∧ Aside s t []))

/-! ## Banks and homes -/

/-- R37, R43, R46, R240, R335, R361, R364. A load or a store that comes to a bank of the chip waits there for its cycle, and is served in it; at a home it does so
once its slice holds the translation, which takes 420 cycles at FIXED and else, of R361's at most 105 cycles a level, all 105 (the model's choice, log 5), and the line;
the words of a frame whose page a slice comes to hold first are FULL; a page without a translation parks the access. -/
def Obligations.ServeSteps : Prop :=
  ∀ (s : State) (r : Req) (n : Nat), (n = 1 ∨ n = 2 ∨ n = 4 ∨ n = 8) → s.Arrives r → r.acq = false → r.rel = false →
    let value := fun (key : Nat) (sg : Bool) => if sg then (BitVec.ofNat (8 * n) (s.getN key n)).signExtend 64 else BitVec.ofNat 64 (s.getN key n)
    let stored := fun (t : State) (key : Nat) (v : Word) => ∀ a, t.byte a = if key ≤ a ∧ a < key + n then v.extractLsb' (8 * (a - key)) 8 else s.byte a
    let back := fun (t : State) => ∃ m, t.Placed m (if r.cls = .stores then .storeAck r.id else .fillLands r.id)
    let plain := fun op => (∃ sg, op = MemOp.load n sg) ∨ (∃ v, op = MemOp.store n v)
    let ev := r.event 0
    let item := s.threadItem r.tid .P r.place ev
    let turn := s.HasCycle ev (s.serverOf r.place)
    (s.OnChip r → ∀ op, plain op → r.op = op → s.itemOf (.bankAccess ⟨r.id, 0⟩) = none →
      ∃ t, exec (.bankAccess ⟨r.id, 0⟩) s = .next t ∧ s.Joins t item) ∧
    (s.OnChip r → turn → s.ecc = [] → ∀ sg, r.op = .load n sg → ∃ t, exec (.bankAccess ⟨r.id, 0⟩) s = .next t ∧ back t ∧ Aside s t [] ∧
      t.req r.id = some { r with state := .performed, val := (value r.place.chipKey sg).setWidth 1024 }) ∧
    (s.OnChip r → turn → s.Calm → ∀ v, r.op = .store n v → ∃ t, exec (.bankAccess ⟨r.id, 0⟩) s = .next t ∧ back t ∧ stored t r.place.chipKey v ∧
      t.isEmpty r.place.chipKey = false ∧ (∀ w, w ∈ t.empty → w ∈ s.empty) ∧ (∀ u, t.thread u = s.thread u) ∧
      t.req r.id = some { r with state := .performed, val := 0 }) ∧
    (∀ va, r.place = .global va →
      (∀ pg lv, s.walk va = .ok (pg, lv) → s.isParked (homeOf pg va) va = false →
        let ctx := (s.thread r.tid).ctx
        (s.walkCached (homeOf pg va) va ctx = false → s.frameOpen (sliceUnit (homeOf pg va)) (s.thread r.tid).part = true → ∀ op, plain op → r.op = op →
          ∃ t, exec (.homeAccess ⟨r.id, 0⟩) s = .next t ∧ t.reqs = s.reqs ∧ (∀ a, t.byte a = s.byte a) ∧ (∀ u, t.thread u = s.thread u) ∧
            (∀ w, w ∈ t.empty → w ∈ s.empty) ∧ (∀ w, w ∈ s.empty → w / 4096 ≠ pg.key / 4096 → w ∈ t.empty) ∧
            ((∀ x ∈ (s.slice (homeOf pg va)).walks, x.block ≠ va / 4096) → pg.place = 0 → tget [] s.mapped (pg.key / 4096) = [] →
              ∀ w, w ∈ t.empty → w / 4096 ≠ pg.key / 4096) ∧
            t.Placed (s.now + (if s.levelOf ctx = 3 then 420 else 105 * lv)) (.homeAccess ⟨r.id, 0⟩)) ∧
        (s.walkCached (homeOf pg va) va ctx = true → (r.line = true ∨ pg.place ≠ 0) → ∀ op, plain op → r.op = op → s.itemOf (.homeAccess ⟨r.id, 0⟩) = none →
          ∃ t, exec (.homeAccess ⟨r.id, 0⟩) s = .next t ∧ s.Joins t item) ∧
        (s.walkCached (homeOf pg va) va ctx = true → r.line = false → pg.place = 0 → s.levelOf ctx ≠ 3 →
          s.frameOpen (channelUnit (homeOf pg va)) (s.thread r.tid).part = true → ∀ op, plain op → r.op = op →
          s.itemOf (.homeAccess ⟨r.id, 0⟩) = none → ∃ t, exec (.homeAccess ⟨r.id, 0⟩) s = .next t ∧ t.req r.id = some { r with line := true } ∧ Aside s t [] ∧
            (t.Placed s.now (.homeAccess ⟨r.id, 0⟩) ∨ t.Placed (s.now + Config.hbmMiss) (.homeAccess ⟨r.id, 0⟩))) ∧
        (s.walkCached (homeOf pg va) va ctx = true → turn → r.line = true → s.PlainPage pg va → s.effType (coreOf r.tid) r.typ pg = 3 → s.Calm →
          (∀ sg, r.op = .load n sg → ∃ t, exec (.homeAccess ⟨r.id, 0⟩) s = .next t ∧ back t ∧ Aside s t [] ∧
            t.req r.id = some { r with state := .performed, val := (value pg.key sg).setWidth 1024 }) ∧
          (∀ v, r.op = .store n v → ∃ t, exec (.homeAccess ⟨r.id, 0⟩) s = .next t ∧ back t ∧ stored t pg.key v ∧ (∀ u, t.thread u = s.thread u) ∧
            t.req r.id = some { r with state := .performed, val := 0 }))) ∧
      (∀ cause, s.walk va = .error cause → (∃ sg, r.op = .load n sg) → ∃ t m, exec (.homeAccess ⟨r.id, 0⟩) s = .next t ∧
        t.req r.id = some { r with state := .parked } ∧ t.Placed m (.faultNotice r.id)))

/-- R44, R45, R126, R135, R137, R168, R236, R372. What a bank or home does besides: an arrival, a credit or a status report at its object, a fence's probe and
echo, the atomics of an interval, a device atomic's loop at the host, and a partial line combined into the partials its home holds.
R216-R218, R220. Roll call at a node's home bank, which serves one request in each cycle: the first `STAND` opens an entry and owns it, one of a lower key takes it over, another is absorbed, and each
adds its set; the owner's `LEAVE` closes the entry and takes its set, another's changes nothing. -/
def Obligations.BankSteps : Prop :=
  ((∀ (s : State) (r : Req), s.Arrives r → s.OnChip r → s.Calm → r.acq = false → r.op = .bara → r.cls = .loads → s.HasCycle (.barrierArrival r.id) (s.serverOf r.place) →
    let key := r.place.chipKey
    let limit := s.getN key 4
    let count := s.getN (key + 4) 4
    let gen := s.getN (key + 8) 4
    ∃ t m, exec (.barrierArrival r.id) s = .next t ∧ t.req r.id = some { r with state := .performed, val := BitVec.ofNat 1024 gen } ∧
      t.Placed m (.fillLands r.id) ∧ (∀ x, x < key + 4 ∨ key + 12 ≤ x → t.byte x = s.byte x) ∧ (limit = 0 → ∀ x, t.byte x = s.byte x) ∧
      (limit ≠ 0 → count + 1 < limit → t.getN (key + 4) 4 = count + 1 ∧ t.getN (key + 8) 4 = gen) ∧
      (limit ≠ 0 → limit ≤ count + 1 → t.getN (key + 4) 4 = 0 ∧ t.getN (key + 8) 4 = (gen + 1) % 2 ^ 32)) ∧
  (∀ (s : State) (x : Credit), s.Calm → s.copy x.cmd = none → s.tile x.cmd = none → (x.bell / 2 ^ 48 = 0xF4 → s.spillAt (x.bell % 2 ^ 48 / 2 ^ 20) 0 (.bellUpdate x) = none) →
    s.HasCycle (.bellUpdate x) (keyBank x.bell).1 → x.report = none → x.stamp = none → x.code < 2 ^ 32 →
    let target := s.getN x.bell 4
    let count := s.getN (x.bell + 4) 4
    let gen := s.getN (x.bell + 8) 4
    let status := s.getN (x.bell + 12) 4
    ∃ t, exec (.bellUpdate x) s = .next t ∧ (∀ a, a < x.bell + 4 ∨ x.bell + 16 ≤ a → t.byte a = s.byte a) ∧ (∀ u, t.thread u = s.thread u) ∧
      (target = 0 → ∀ a, t.byte a = s.byte a) ∧
      (target ≠ 0 → x.code = 1 → t.getN (x.bell + 4) 4 = count ∧ t.getN (x.bell + 8) 4 = gen ∧ t.getN (x.bell + 12) 4 = max status 1) ∧
      (target ≠ 0 → x.code ≠ 1 →
        (count + x.amount < target → t.getN (x.bell + 4) 4 = count + x.amount ∧ t.getN (x.bell + 8) 4 = gen ∧ t.getN (x.bell + 12) 4 = max status x.code) ∧
        (count + x.amount = target → t.getN (x.bell + 4) 4 = 0 ∧ t.getN (x.bell + 8) 4 = (gen + 1) % 2 ^ 32 ∧ t.getN (x.bell + 12) 4 = max status x.code) ∧
        (target < count + x.amount → t.getN (x.bell + 4) 4 = 0 ∧ t.getN (x.bell + 8) 4 = (gen + 1) % 2 ^ 32 ∧
          t.getN (x.bell + 12) 4 = max (max status x.code) 3))) ∧
  (∀ (s : State) (tid epoch group : Nat), (s.thread tid).occupied = true → (s.thread tid).epoch = epoch →
    (s.reqs = [] → s.probeStop tid group = none → s.probeAway (s.thread tid).part group (.fenceProbe tid epoch group) = none → ∃ t m, exec (.fenceProbe tid epoch group) s = .next t ∧ t = { s with pend := t.pend } ∧ t.Placed m (.fenceEcho tid epoch group)) ∧
    ((s.core (coreOf tid)).diverted = false → ∃ t, exec (.fenceEcho tid epoch group) s = .next t ∧ Aside s t [tid] ∧ (t.thread tid).park = none ∧
      (∀ g, g ∈ (t.thread tid).probes ↔ g ∈ (s.thread tid).probes ∧ g ≠ group))) ∧
  (∀ (s : State) (r : Req) (op : BitVec 4) (b cmp : Word), s.Arrives r → s.Calm → r.acq = false → r.rel = false → r.op = .amo op true b cmp →
    let done := fun (t : State) (key : Nat) (line : Bool) => let old := BitVec.ofNat 64 (s.getN key 8)
      t.getN key 8 = (amoNew op.toNat old b cmp).toNat ∧ (∀ a, a < key ∨ key + 8 ≤ a → t.byte a = s.byte a) ∧ (∀ u, t.thread u = s.thread u) ∧
        t.req r.id = some { r with state := .performed, val := old.setWidth 1024, line := line }
    (∀ k, s.OnChip r → s.batch = [(k, r.id)] → ∃ t, exec (.atomicIntervalEnd k) s = .next t ∧ t.batch = [] ∧ done t r.place.chipKey true) ∧
    (∀ pg lv, s.walk r.va.toNat = .ok (pg, lv) → ∃ t, exec (.sysatomCasLoop r.id) s = .next t ∧ done t pg.key r.line)) ∧
  (∀ (s : State) (core : Nat) (l : Line) (p : Partial), (s.core core).lines = [l] → l.kind = .partialSum → l.partials = [p] →
    ∃ t, exec (.partialEviction core l.line) s = .next t ∧ (t.core core).lines = [] ∧ Aside s t [] ∧
      (t.slice (s.partialSlice core p.key p.va)).partials = addPartial (s.slice (s.partialSlice core p.key p.va)).partials p)) ∧
  (∀ (s : State) (r : Req) (home off : Nat), s.req r.id = some r → r.state = .going → r.place = .core home off → s.spillAt home (s.thread r.tid).part r.rollStep = none →
    (∀ back, s.routeFault (s.thread r.tid).part (coreOf r.tid) r.place back = none) →
    s.levelOf (s.thread r.tid).ctx ≠ 1 → s.levelOf (s.thread r.tid).ctx ≠ 2 → (∀ q ∈ s.reqs, q.state ≠ .waiting) → (s.core home).rollOvf = [] →
    let key := s.keyOf r.tid
    let reg := match (s.thread r.tid).stand with | some (_, m) => m | none => 0
    let answer := fun (t : State) (v c : BitVec 1024) => (∃ q, t.req r.id = some q ∧ q.state = .performed ∧ q.val = v ∧ q.newCtx.setWidth 1024 = c) ∧
      (∃ m, t.Placed m (.fillLands r.id)) ∧ Aside s t []
    let turn := s.HasCycle r.rollStep (s.serverOf r.place)
    (∀ op, ((∃ m, op = MemOp.stand m) ∨ op = .leave) → r.op = op → s.itemOf r.rollStep = none → ∃ t, exec r.rollStep s = .next t ∧
      s.Joins t { s.threadItem r.tid .P r.place r.rollStep with came := if r.due = 0 then s.now else r.due }) ∧
    (∀ m, r.op = .stand m → r.newCtx = 0 → turn →
      ((s.core home).roll = [] → ∃ t, exec (.rollCallArrival r.id) s = .next t ∧ answer t 1 0 ∧
        (t.core home).roll = [{ node := r.va, owner := key, tid := r.tid, reg := reg, set := m }]) ∧
      (∀ e, (s.core home).roll = [e] → e.node = r.va →
        (key.lt e.owner = true → ∃ t, exec (.rollCallArrival r.id) s = .next t ∧ answer t 1 0 ∧
          (t.core home).roll = [{ e with owner := key, tid := r.tid, reg := reg, set := e.set ||| m }]) ∧
        (key.lt e.owner = false → ∃ t, exec (.rollCallArrival r.id) s = .next t ∧ answer t 0 0 ∧ (t.core home).roll = [{ e with set := e.set ||| m }]))) ∧
    (∀ e, r.op = .leave → turn → (s.core home).roll = [e] → e.node = r.va →
      (e.owner = key → ∃ t, exec (.rollCallLeave r.id) s = .next t ∧ answer t e.set 1 ∧ (t.core home).roll = []) ∧
      (e.owner ≠ key → ∃ t q m, exec (.rollCallLeave r.id) s = .next t ∧ t.req r.id = some q ∧ q.state = .performed ∧ t.Placed m (.fillLands r.id) ∧
        (t.core home).roll = [e] ∧ Aside s t [])))

/-! ## The engines -/

/-- R227, R230-R232, R234-R239, R242. A copy command: accepted, it reads its wait-bell and starts 4 cycles after the generation differs; its units issue their words, each of
which is read or written once at its bank; the last one completes it, and its bell is credited. A post starts its program in the lowest free slot of its memory core. -/
def Obligations.CopySteps : Prop :=
  ∀ (s : State) (c : CopyCmd), s.copy c.id = some c →
    ((s.core c.core).halted = false → c.accepted = false →
      (c.waitBell = none → ∃ t, exec (.copyAccept c.id) s = .next t ∧ t.copy c.id = some { c with accepted := true } ∧ t.Placed s.now (.copyStart c.id) ∧ Aside s t []) ∧
      (∀ w, c.waitBell = some w → c.acq = false →
        (s.genOf (s.bellKey c.part c.core w) ≠ c.waitGen → ∃ t m, exec (.copyAccept c.id) s = .next t ∧
          t.copy c.id = some { c with accepted := true, waitBell := none } ∧ t.Placed m (.copyStart c.id) ∧ s.now + 4 ≤ m ∧ Aside s t []) ∧
        (s.genOf (s.bellKey c.part c.core w) = c.waitGen → ∃ t, exec (.copyAccept c.id) s = .next t ∧ t.copy c.id = some { c with accepted := true } ∧
          (s.bellKey c.part c.core w, .cmd c.id) ∈ t.waiters ∧ Aside s t []))) ∧
    (∀ w, (s.core c.core).diverted = false → c.accepted = true → c.started = none → c.waitBell = some w → c.acq = false → s.tile c.id = none →
      s.genOf (s.bellKey c.part c.core w) ≠ c.waitGen → ∃ t, exec (.waitBellNotice c.id) s = .next t ∧ t.copy c.id = some { c with waitBell := none } ∧
        t.Placed (s.now + 4) (.copyStart c.id) ∧ Aside s t []) ∧
    ((s.core c.core).halted = false → c.accepted = true → c.begun = false → c.waitBell = none → c.rel = false → c.acq = false →
      (c.kind ≠ 2 → c.len = 0 → ∃ t x, exec (.copyStart c.id) s = .next t ∧ t.copy c.id = some x ∧ x.begun = true ∧ x.ended = true ∧ x.started = some s.now ∧
        t.Placed s.now (.copyComplete c.id) ∧ Aside s t []) ∧
      (c.kind ≠ 2 → c.len ≠ 0 → ∃ t x, exec (.copyStart c.id) s = .next t ∧ t.copy c.id = some x ∧ x.begun = true ∧
        x.words = (if c.kind = 0 then s.rowWords c c.src.toNat c.dst.toNat c.len 0
          else wordsIn false (fun o => if isGlobal c.index.toNat then s.copyUnitOf c (c.index.toNat + o) else c.core) c.index.toNat (4 * c.rows) 0) ∧
        (∀ w ∈ x.words, t.Placed s.now (.copyShare ⟨c.id, w.unit, none⟩)) ∧ Aside s t []) ∧
      (c.kind = 2 → ∃ t n, exec (.copyStart c.id) s = .next t ∧ t.copy c.id = some { c with begun := true } ∧ t.Placed n (.mcpostDelivery c.id) ∧ Aside s t [])) ∧
    (c.begun = true → c.ended = false →
      (∀ unit, (c.kind ≠ 1 ∨ c.rowsMade = true ∨ ∃ w ∈ c.words, w.state ≠ .performed) → (isMem unit = false ∨ s.frameOpen (copyUnit unit) c.part = true) →
        (c.inPad = false ∨ s.levelOf c.ctx ≠ 3 ∨ windowClass s.now = .C) →
        ∃ t x, exec (.copyShare ⟨c.id, unit, none⟩) s = .next t ∧ t.copy c.id = some x ∧ x.words.length = c.words.length ∧ Aside s t [] ∧
          (∀ (i : Nat) (w : CopyWord), c.words[i]? = some w → ∃ y, x.words[i]? = some y ∧ (y = w ∨ (w.unit = unit ∧ w.state = .waiting ∧
            y = { w with state := .going, sent := s.now, data := if w.write then c.bytesAt w.at_ w.len else [] } ∧
            ∃ m, t.Placed m (.copyShare ⟨c.id, unit, some i⟩)))) ∧
          ∀ (i : Nat) (w : CopyWord), c.words[i]? = some w → w.unit = unit → w.state = .waiting → w.write = false → (c.inPad = true ∨ 0 < s.linkRoom c unit false) →
            (∀ v ∈ c.words, v.unit = unit → v.write = false → v.state ≠ .waiting → v.sent ≠ s.now) →
            (∀ (j : Nat) (v : CopyWord), j < i → c.words[j]? = some v → v.unit = unit → v.state = .waiting → v.write = true) →
            x.words[i]? = some { w with state := .going, sent := s.now, data := [] }) ∧
      (c.kind = 1 → c.rowsMade = false → (∀ w ∈ c.words, w.state = .performed ∧ w.ready ≤ s.now) →
        let idx := (List.range c.rows).map (fun i => fieldOf (c.bytesAt 0 (4 * c.rows)) (4 * i) 4)
        (∀ r ∈ ({ c with idx := idx } : CopyCmd).rowsOf, s.rangeOk c.part c.core r.1 r.2.2 = true ∧ windowOf r.1 ≠ 0xF0 ∧
          ∀ a ∈ regionsOf r.1 r.2.2, ∃ y, (s.core c.core).plbFind (regionOf a) = some y ∧ y.r = true) →
        ∀ unit, ∃ t x, exec (.copyShare ⟨c.id, unit, none⟩) s = .next t ∧ t.copy c.id = some x ∧ x.idx = idx ∧ x.rowsMade = true ∧
          (∀ w ∈ x.words, t.Placed s.now (.copyShare ⟨c.id, w.unit, none⟩)) ∧ Aside s t [])) ∧
    (∀ (i : Nat) (w : CopyWord) (k o : Nat), c.begun = true → c.ended = false → c.words[i]? = some w → w.state = .going → isGlobal w.va = false → s.resolveIn c.part c.core w.va = some (.core k o) →
      let ev := Instr.copyShare ⟨c.id, w.unit, some i⟩
      let key := coreKey k o
      let item : BankItem := { server := s.serverOf (.core k o), cls := .C, came := s.now, key := { lti := c.lti.toNat, name := s.nameOf c.core, slot := slotOf c.tid },
                               part := c.part, ctx := c.ctx, who := ev }
      let last := (c.kind ≠ 1 ∨ c.rowsMade = true) ∧ ∀ (j : Nat) (v : CopyWord), j ≠ i → c.words[j]? = some v → v.state = .performed
      let done := fun (t : State) (data : List Byte) => ∃ x y, t.copy c.id = some x ∧ x.words[i]? = some y ∧ y.state = .performed ∧ y.data = data ∧
        (∀ j, j ≠ i → x.words[j]? = c.words[j]?) ∧ (last → x.ended = true ∧ t.Placed s.now (.copyComplete c.id))
      s.spillAt k c.part ev = none → s.routeFault c.part w.unit (.core k o) false = none → s.routeFault c.part w.unit (.core k o) true = none →
      (s.itemOf ev = none → ∃ t, exec ev s = .next t ∧ s.Joins t item) ∧
      (s.HasCycle ev (s.serverOf (.core k o)) →
        (w.write = false → s.ecc = [] → ∃ t, exec ev s = .next t ∧ done t (s.peek key w.len) ∧ Aside s t []) ∧
        (w.write = true → s.Calm → s.levelOf (s.thread c.tid).ctx ≠ 1 → s.levelOf (s.thread c.tid).ctx ≠ 2 → ∃ t, exec ev s = .next t ∧ done t w.data ∧
          (∀ u, t.thread u = s.thread u) ∧ ∀ a, t.byte a = if key ≤ a ∧ a < key + w.data.length then w.data.getD (a - key) 0 else s.byte a))) ∧
    (c.kind ≠ 2 → c.prog = none → c.ended = true →
      (c.signal = none → (s.thread c.tid).occupied = true → (s.thread c.tid).epoch = c.epoch → ∃ t, exec (.copyComplete c.id) s = .next t ∧ t.copy c.id = none ∧
        c.id ∉ (t.core c.core).copyq ∧ (t.thread c.tid).copies = (s.thread c.tid).copies - 1 ∧
        (t.thread c.tid).storeErr = (match c.failed with | some a => some ((s.thread c.tid).storeErr.getD a) | none => (s.thread c.tid).storeErr) ∧
        (∀ a, t.byte a = s.byte a)) ∧
      (∀ b, c.signal = some b → c.ts = false → ∃ t m, exec (.copyComplete c.id) s = .next t ∧ t.copy c.id = some c ∧ c.id ∉ (t.core c.core).copyq ∧
        t.Placed m (.bellUpdate ⟨s.bellKey c.part c.core b, c.len, if c.failed.isSome then 3 else 0, none, none, c.id⟩) ∧ (∀ a, t.byte a = s.byte a))) ∧
    (∀ slot, c.kind = 2 → c.prog = none → c.begun = true → c.ended = false → s.routeFault c.part c.core (.core c.unit 0) false = none → isMem c.core = false → (s.core c.unit).postq = [] → (s.core c.unit).postOvf = [] → c.core ≠ c.unit →
      (∀ e ∈ s.parts, s.levelOf e.2.ctx ≠ 3) → s.levelOf c.ctx ≠ 3 → slot < 15 → (s.thread (c.unit * 16 + slot)).occupied = false →
      (∀ j, j < slot → (s.thread (c.unit * 16 + j)).occupied = true) →
      ∃ t, exec (.mcpostDelivery c.id) s = .next t ∧ let n := t.thread (c.unit * 16 + slot)
        n.occupied = true ∧ n.kind = .memCore ∧ n.pc = c.dst ∧ n.level = .U ∧ n.gReg 3 = ⟨0xFFFFFFFF, .full⟩ ∧ n.gReg 4 = ⟨c.arg, .full⟩ ∧
          n.gReg 5 = ⟨BitVec.ofNat 64 (s.nameOf c.core), .full⟩ ∧ n.gReg 6 = ⟨c.lti.setWidth 64, .full⟩ ∧
          t.copy c.id = some { c with prog := some (c.unit * 16 + slot, n.epoch) } ∧ c.id ∉ (t.core c.core).copyq ∧ (∀ a, t.byte a = s.byte a))

/-- R47, R180, R240, R249, R255, R257-R265, R270. The tile queue: `TTSET` reads its descriptor and writes a tensor entry or a failing status; a command is accepted, or ended as a
fault; the words of a command are served at their banks, one there in each cycle, as class T; with its operands there a dispatched task starts its accumulator and runs its
k-steps, each of which adds an exact sum to every element, rounded once; it drains, completes and credits. -/
def Obligations.TileSteps : Prop :=
  ∀ (s : State) (c : TileCmd), s.tile c.id = some c → s.tileCmds = [c] → s.saved = [] →
    let there := (∀ w ∈ c.words, w.state = .performed ∧ w.ready ≤ s.now)
    let turn := fun (ev : Instr) (w : CopyWord) (v : Server) => ∃ n,
      let item : BankItem := { server := v, cls := .T, came := w.sent, key := { lti := c.lti.toNat, name := s.nameOf c.core, slot := slotOf c.tid },
                               part := c.part, ctx := c.ctx, who := ev, turn := n }
      s.bankq.filter (fun x => decide (x.who = ev)) = [item] ∧ ({ s with bankq := (s.leaveBank ev).bankq ++ [item] } : State).cycleOf v = some item
    (∀ (r : Req) (p : Place) (d : Nat), c.kind = 0 → c.ended = false → c.dispatched = some d → s.req c.id = some r → s.resolveIn c.part c.core c.addr = some p →
      (∀ va, p ≠ .global va) → s.padStop c.part c.core p = none → c.words ≠ [] → there →
      let l := c.words.flatMap (fun w => w.data)
      let status := s.tensorStatus c.part c.core l
      ∃ t m, exec (.ttsetServe c.id) s = .next t ∧ t.req c.id = some { r with state := .performed, val := BitVec.ofNat 1024 status } ∧
        t.Placed m (.fillLands c.id) ∧ Aside s t [] ∧ t.tileCmds = [] ∧
        tfind (t.ctx c.ctx).tensors (c.die * 256 + c.operand.toNat % 256) = if status = 0 then some (s.tensorOf c.core l) else none) ∧
    (∀ (w : CopyWord) (k o : Nat), c.kind = 0 → c.ended = false → c.words = [w] → w.state = .waiting → w.sent < s.now → w.write = false →
      s.resolveIn c.part c.core c.addr = some (.core k o) → s.resolveIn c.part w.unit w.va = some (.core k o) → c.dispatched.isSome = true →
      s.padStop c.part c.core (.core k o) = none → s.padStop c.part c.at_ (.core k o) = none → s.ecc = [] →
      turn (.ttsetServe c.id) w (s.serverOf (.core k o)) →
      ∃ t x y, exec (.ttsetServe c.id) s = .next t ∧ (t.tile c.id = some x ∧ x.words = [y] ∨ t.tileCmds = []) ∧
        (t.bank (s.serverOf (.core k o))).served = some s.now ∧ (t.bank (s.serverOf (.core k o))).next = .P ∧ y.state = .performed ∧
        y.data = s.peek (coreKey k o) w.len ∧ Aside s t []) ∧
    (c.kind ≠ 0 → c.accepted = none → c.acq = false → s.tileTurn c = true → ∃ t x, exec (.taskAccept c.id) s = .next t ∧ t.tile c.id = some x ∧ x.accepted = some s.now ∧
      (∀ tag, c.kind = 2 ∨ c.kind = 3 → c.chainTag = some tag → (s.ctx c.ctx).claimed.contains (c.tagKey tag) = false → x.ended = true ∧ x.code = 3 ∧
        t.Placed s.now (.taskComplete c.id)) ∧
      (∀ tag, c.kind = 4 → c.tag = some tag → c.signal = none → (s.ctx c.ctx).claimed.contains (c.tagKey tag) = false →
        (t.ctx c.ctx).claimed.contains (c.tagKey tag) = true)) ∧
    (∀ e, c.engine = some e → c.kind = 1 → c.ended = false → (s.core e).halted = false →
      (c.dispatched = none → (c.chain = false ∨ (s.core e).engine.dims = (c.rows, c.cols)) → ∃ t x, exec (.taskDispatch c.id) s = .next t ∧ t.tile c.id = some x ∧
        x.dispatched = some s.now ∧ x.upto = s.now + s.operandTime c e ∧ t.Placed s.now (.taskDispatch c.id) ∧ Aside s t []) ∧
      (c.dispatched.isSome = true → there → c.icnt ≤ c.idx.length → (c.cpres = false ∨ c.chain = true ∨ s.tileWords c c.cT c.from_ = []) → s.stepWords c 0 = [] →
        (s.now < c.upto → ∃ t x, exec (.taskDispatch c.id) s = .next t ∧ t.Placed c.upto (.taskDispatch c.id) ∧ t.tile c.id = some x ∧ x.latch = c.latch ∧ Aside s t []) ∧
        (c.upto ≤ s.now → ∃ t x, exec (.taskDispatch c.id) s = .next t ∧ t.tile c.id = some x ∧ x.words = [] ∧ t.Placed s.now (.kStep e) ∧ Aside s t [] ∧
          (0 < c.steps → x.latch = [c.latchStep 0]) ∧
          (t.core e).engine.acc = (if c.chain then (s.core e).engine.acc else c.startAcc)))) ∧
    (∀ (e : Nat) (a b : Tensor), (s.core e).engine.task = some c.id → c.kind = 1 → c.dispatched.isSome = true → c.ended = false →
      c.step < c.steps → c.a = some a → c.b = some b → (s.core e).halted = false →
      (∀ l rest, c.latch = l :: rest → c.ends = none → there → (2 ≤ c.latch.length ∨ c.steps ≤ c.step + c.latch.length) →
        ∃ t x, exec (.kStep e) s = .next t ∧ t.tile c.id = some x ∧ x.step = c.step ∧ x.latch = c.latch ∧ x.ends = some (s.now + c.cycles) ∧
          t.Placed (s.now + c.cycles) (.kStep e) ∧ t.Placed s.now (.kStep e) ∧ (t.core e).engine.acc = (s.core e).engine.acc ∧ Aside s t []) ∧
      (c.latch = [] → c.ends = none → there → s.stepWords c c.step = [] →
        ∃ t x, exec (.kStep e) s = .next t ∧ t.tile c.id = some x ∧ x.step = c.step ∧ x.latch = [c.latchStep c.step] ∧ x.ends = some (s.now + c.cycles) ∧
          (t.core e).engine.acc = (s.core e).engine.acc ∧ Aside s t []) ∧
      (∀ l rest m, c.latch = l :: rest → c.ends = some m → m ≤ s.now → there →
        let n := (c.slice c.step).2
        let A := fun i => (l.1.map (feedOf a.fmt n)).getD i ([], 127)
        let B := fun j => (l.2.map (feedOf b.fmt n)).getD j ([], 127)
        let new := fun (i j : Nat) => kstepAcc (tget 0 (s.core e).engine.acc (128 * i + j)) (stepSum (A i).1 (B j).1) (A i).2 (B j).2 (if b.fmt = 7 then 1 else 0)
        (∀ i j, i < c.rows → j < c.cols → (f32 (new i j)).isNaN = false) →
        ∃ t x, exec (.kStep e) s = .next t ∧ t.tile c.id = some x ∧ x.step = c.step + 1 ∧ Aside s t [] ∧
          ∀ i j, i < c.rows → j < c.cols → tget 0 (t.core e).engine.acc (128 * i + j) = new i j)) ∧
    (∀ (e : Nat) (d : Tensor), (s.core e).engine.task = some c.id → c.d = some d → c.kind = 1 → c.dispatched.isSome = true → c.ended = false → c.steps ≤ c.step →
      c.rpres = false → c.drop = false → (s.core e).halted = false →
      let y := fun (i j : Nat) => drainY (tget 0 (s.core e).engine.acc (128 * i + j)) none none
      (c.words = [] → (∀ i j, i < c.rows → j < c.cols → (f32 (y i j)).isNaN = false) →
        ∃ t x, exec (.taskDrain e) s = .next t ∧ t.tile c.id = some x ∧ Aside s t [] ∧ x.words = s.drainWords c d (max s.now (c.from_ + 16))
          ((List.range c.rows).map (fun i => (d.base.toNat + (c.m0 + i) * d.stride + c.n0 * fmtBits d.fmt / 8,
            packRow d.fmt ((List.range c.cols).map (fun j => narrow d.fmt (y i j))))))) ∧
      ((∃ w ∈ c.words, w.write = true) → there → c.upto ≤ s.now → ∃ t x, exec (.taskDrain e) s = .next t ∧ t.tile c.id = some x ∧ x.ended = true ∧
        t.Placed s.now (.taskComplete c.id) ∧ Aside s t []) ∧
      (∀ (w : CopyWord) (k o : Nat), c.words = [w] → w.state = .waiting → w.write = true → w.sent < s.now → s.resolveIn c.part w.unit w.va = some (.core k o) →
        s.padStop c.part c.at_ (.core k o) = none → s.Calm → s.levelOf (s.thread c.tid).ctx ≠ 1 → s.levelOf (s.thread c.tid).ctx ≠ 2 →
        turn (.taskDrain e) w (s.serverOf (.core k o)) → let key := coreKey k o
        ∃ t x, exec (.taskDrain e) s = .next t ∧ t.tile c.id = some x ∧ (c.upto ≤ s.now → x.ended = true) ∧ (s.now < c.upto → ∃ y, x.words = [y] ∧ y.state = .performed) ∧
          (t.bank (s.serverOf (.core k o))).served = some s.now ∧ (∀ u, t.thread u = s.thread u) ∧
          ∀ a, t.byte a = if key ≤ a ∧ a < key + w.data.length then w.data.getD (a - key) 0 else s.byte a)) ∧
    (∀ (e d : Nat), c.engine = some e → c.kind = 4 → c.ended = false → c.dispatched = some d → (s.core e).halted = false → c.words ≠ [] → there → c.upto ≤ s.now →
      let l := c.words.flatMap (fun w => w.data)
      fieldOf l 16 48 = 0 →
      ∃ t x, exec (.accumulatorMoveRun c.id) s = .next t ∧ t.tile c.id = some x ∧ x.ended = true ∧ t.Placed s.now (.taskComplete c.id) ∧
        (t.core e).engine.held = [(c.ctx, c.tag.getD 0)] ∧ (t.core e).engine.dims = (fieldOf l 1 1 % 128 + 1, fieldOf l 2 1 % 128 + 1) ∧
        (∀ i j, i < fieldOf l 1 1 % 128 + 1 → j < fieldOf l 2 1 % 128 + 1 → tget 0 (t.core e).engine.acc (128 * i + j) =
          BitVec.ofNat 32 (fieldOf l (64 + 4 * (128 * i + j)) 4)) ∧ Aside s t []) ∧
    (∀ e, c.engine = some e → c.kind = 2 ∨ c.kind = 3 → c.ended = false → c.dispatched.isSome = true → (s.core e).halted = false → there → c.upto ≤ s.now →
      ∃ t x, exec (.accumulatorMoveRun c.id) s = .next t ∧ t.tile c.id = some x ∧ x.ended = true ∧ t.Placed s.now (.taskComplete c.id) ∧ Aside s t [] ∧
        (c.kind = 3 → (t.core e).engine.held = (s.core e).engine.held ∧ (t.ctx c.ctx).claimed = (s.ctx c.ctx).claimed) ∧
        (c.kind = 2 → (t.core e).engine.held.contains (c.ctx, c.chainTag.getD 0) = false ∧ (t.ctx c.ctx).claimed.contains (c.tagKey (c.chainTag.getD 0)) = false)) ∧
    (∀ e, c.ended = true → c.kind ≠ 0 → (s.die c.die).tileq.contains c.id = true → c.code = 0 → c.engine = some e →
      ∃ t, exec (.taskComplete c.id) s = .next t ∧ (t.die c.die).tileq.contains c.id = false ∧ (t.core e).engine.task = none ∧
        (t.core e).engine.count = (s.core e).engine.count + (if c.kind = 1 then 1 else 0) ∧ (∀ a, t.byte a = s.byte a) ∧
        (c.signal = none → t.tile c.id = none) ∧
        (∀ b, c.signal = some b → c.ts = false → t.Placed s.now (.bellUpdate ⟨s.bellKey c.part c.core b, 1, 0, none, none, c.id⟩))) ∧
    (∀ (e : Nat) (failing : BitVec 16), failing ≠ 0 → isMem e = false → (s.core e).engine.out = false →
      ∃ t, exec (.engineSelfTest e failing) s = .next t ∧ (t.core e).engine.out = true ∧ (t.core e).engine.fenced = (s.core e).engine.fenced ||| failing ∧
        ∀ b, (s.core e).engine.lastBell = some b → t.Placed s.now (.bellUpdate ⟨b, 0, 1, none, none, 0⟩))

/-! ## Queues and launch -/

/-- R338-R340, R345, R413. The command processor's reading: a notify register rises within its ring; the packet at the read index is held once its header is
valid, else read again 64 cycles on; a packet that fails its checks stops its queue; a checked one starts at an opportunity.
R334, R337, R338, R340, R350. Packets that start: each clears its header and moves its read index on; `NOP` completes; `WAITSIG` reads its word, again if it is not
0, and starts and completes once it is; `CSRW` writes the context's register; `QCREATE` and `QDESTROY` make and remove a queue; `SETDET` changes the level once nothing of the
context runs. -/
def Obligations.QueueSteps : Prop :=
  (∀ (s : State) (n i : Nat) (p : Part) (q : Queue), tfind s.parts n = some p → tfind p.queues i = some q →
    (∀ (v : Word) (host : Bool), (host = true ∨ i ≠ 0) → (∀ d ∈ p.destroying, d.1 ≠ i) → (q.notified - q.read).toNat < (v - q.read).toNat →
      (v - q.read).toNat ≤ 2 ^ q.n → ∃ t, exec (.notifyStore n i v host) s = .next t ∧ t.queue n i = some { q with notified := v } ∧ Aside s t []) ∧
    ((s.die p.lead).fwStat ≠ 3 → exec (.headerPoll n i) s = .next s ∧ exec (.dispatchOpportunity p.lead) s = .next s) ∧
    (q.stopped = false → q.packet = none → q.read ≠ q.notified → (s.die p.lead).fwStat = 3 → q.writes = [] → isGlobal (q.slot q.read) = true →
      (∀ e ∈ s.cores, e.2.lines = []) → s.ecc = [] → ∀ pg, s.AgentPage p.ctx (q.slot q.read) pg →
      let l := s.peek pg.key 64
      ((s.byte pg.key).toNat % 2 = 0 → ∃ t m, exec (.headerPoll n i) s = .next t ∧ t.queue n i = some q ∧ t.Placed m (.headerPoll n i) ∧ Aside s t []) ∧
      ((s.byte pg.key).toNat % 2 = 1 → pktType l = 1 → ∃ t, exec (.headerPoll n i) s = .next t ∧
        t.queue n i = some { q with packet := some l, checked := false, since := some s.now, aged := false } ∧ t.Placed s.now (.launch n i) ∧
        t.Placed (s.now + 1048576) (.queueAging n i) ∧ Aside s t [])) ∧
    (∀ l, q.packet = some l → q.stopped = false →
      (q.checked = false → pktType l = 1 →
        (s.packetCode n p i l = 0 → ∃ t m, exec (.launch n i) s = .next t ∧ t.queue n i = some { q with checked := true } ∧
          t.Placed m (.dispatchOpportunity p.lead) ∧ Aside s t []) ∧
        (s.packetCode n p i l ≠ 0 → ∃ t x, exec (.launch n i) s = .next t ∧ t.queue n i = some x ∧ x.stopped = true ∧
          x.status.toNat % 2 ^ 16 = s.packetCode n p i l % 256 + 256)) ∧
      ((pktType l = 0 ∨ (4 ≤ pktType l ∧ pktType l ≤ 7) ∨ 14 ≤ pktType l) → ∃ t x, exec (.reservedPacketType n i) s = .next t ∧ t.queue n i = some x ∧
        x.stopped = true ∧ x.status.toNat % 2 ^ 16 = 1 + 256) ∧
      (∀ k, q.since = some k → k + 1048576 ≤ s.now → ∃ t, exec (.queueAging n i) s = .next t ∧ t.queue n i = some { q with aged := true } ∧ Aside s t []) ∧
      (s.parts = [(n, p)] → (s.die p.lead).events = [] → (∀ e ∈ p.queues, e = (i, q) ∨ e.2.packet = none) → s.canStart n p i q = true →
        ∃ t m, exec (.dispatchOpportunity p.lead) s = .next t ∧
        t.Placed s.now (startStep (pktType l) n i) ∧ (t.die p.lead).lastPart = n ∧ t.Placed m (.dispatchOpportunity p.lead) ∧ Aside s t [])) ∧
    (∀ k x, s.chooseQueue n p = some (k, x) → (k, x) ∈ p.queues ∧ s.canStart n p k x = true ∧ ∀ e ∈ p.queues, s.canStart n p e.1 e.2 = true → e.2.rank ≤ x.rank)) ∧
  ((∀ (s : State) (n i typ : Nat) (p : Part) (q : Queue) (l : List Byte), s.startable n i typ = some (p, q, l) → pktSignal l = 0 → pktIntr l = false →
    let went := fun (t : State) => ∃ x, t.queue n i = some x ∧ x.read = q.read + 1 ∧ x.packet = none
    (typ = 3 → ∃ t m, exec (.nopPacket n i) s = .next t ∧ went t ∧ t.Placed m (.dispatchOpportunity p.lead)) ∧
    (typ = 2 → ∃ t, exec (.waitsig n i) s = .next t ∧ went t) ∧
    (i = 0 →
      (typ = 9 → pktBody l % 2 ^ 12 = 0x600 → ∃ t, exec (.csrw n) s = .next t ∧ went t ∧ (t.ctx p.ctx).tvec = BitVec.ofNat 64 (pktValue l) &&& 0x00FFFFFFFFFFFFFE) ∧
      (typ = 10 → pktBody l % 64 ≠ 0 → ∃ t x, exec (.qcreate n) s = .next t ∧ went t ∧ t.queue n (pktBody l % 64) = some x ∧ x.base = BitVec.ofNat 64 (pktValue l) ∧
        x.n = bits (pktBody l) 20 16 ∧ x.prio = bits (pktBody l) 9 8 ∧ x.notified = 0 ∧ x.read = 0 ∧ x.stopped = false) ∧
      (typ = 11 → pktBody l % 64 ≠ 0 → s.launches = [] → p.finishing = [] → p.destroying = [] → ∃ t, exec (.qdestroy n) s = .next t ∧ went t ∧
        t.queue n (pktBody l % 64) = none) ∧
      (typ = 8 → let level := pktBody l % 4
        (level = 0 → ∃ t x, exec (.setdet n) s = .next t ∧ went t ∧ tfind t.parts n = some x ∧ x.setdet.isSome = true ∧ t.Placed s.now (.setdetComplete n)) ∧
        (level = 1 ∨ level = 2 → (s.ctx p.ctx).roll.size = 0 → ∃ t x, exec (.setdet n) s = .next t ∧ t.queue n i = some x ∧ x.stopped = true ∧ x.read = q.read)))) ∧
  (∀ (s : State) (n i : Nat) (p : Part) (q : Queue) (l : List Byte), tfind s.parts n = some p → s.queue n i = some q → q.packet = some l → pktType l = 2 →
    q.zero = false → s.headReady n i q = true → isGlobal (pktBody l) = true → (∀ e ∈ s.cores, e.2.lines = []) → s.ecc = [] →
    ∀ pg, s.AgentPage p.ctx (pktBody l) pg →
    (s.getN pg.key 8 = 0 → ∃ t m, exec (.waitsig n i) s = .next t ∧ t.queue n i = some { q with zero := true } ∧ t.Placed m (.dispatchOpportunity p.lead) ∧ Aside s t []) ∧
    (s.getN pg.key 8 ≠ 0 → ∃ t m, exec (.waitsig n i) s = .next t ∧ t.queue n i = some q ∧ t.Placed m (.waitsig n i) ∧ s.now + 64 ≤ m ∧ Aside s t [])) ∧
  (∀ (s : State) (n : Nat) (p : Part) (j : Job), tfind s.parts n = some p → p.setdet = some j → j.signal = 0 → j.intr = false → s.launches = [] →
    (∀ e ∈ s.parts, e.2.resize = none ∧ e.2.aborts = [] ∧ e.2.finishing = [] ∧ e.2.destroying = []) → (s.ctx p.ctx).level ≠ 1 → (s.ctx p.ctx).level ≠ 2 →
    ∃ t x m, exec (.setdetComplete n) s = .next t ∧ (t.ctx p.ctx).level = j.arg ∧ tfind t.parts n = some x ∧ x.setdet = none ∧
      t.Placed m (.dispatchOpportunity p.lead)))

/-- R15, R337, R342-R349. A launch: it starts with its record, number and cores, whose lane slices are zero; each core's state makes its threads with their
registers; once over it is completed and its cores are free; an abort retires its threads and drops its deque entries. -/
def Obligations.LaunchSteps : Prop :=
  (∀ (s : State) (n i : Nat) (p : Part) (q : Queue) (l : List Byte), s.startable n i 1 = some (p, q, l) →
    let x := pktShape l
    ∃ t r, exec (.launchStart n i) s = .next t ∧ (∃ y, t.queue n i = some y ∧ y.read = q.read + 1 ∧ y.packet = none) ∧ tfind t.launches s.nextLaunch = some r ∧
      t.nextLaunch = s.nextLaunch + 1 ∧ (t.ctx p.ctx).seq = ((s.ctx p.ctx).seq + 1) % 2 ^ 32 ∧ r.part = n ∧ r.ctx = p.ctx ∧ r.seq = (s.ctx p.ctx).seq ∧
      r.entry = BitVec.ofNat 64 (pktBody l) ∧ r.args = BitVec.ofNat 64 (pktValue l) ∧ r.stack = BitVec.ofNat 64 (fieldOf l 32 8) ∧ r.t = bits x 25 22 ∧
      r.w = bits x 17 11 + 1 ∧ r.h = bits x 21 18 + 1 ∧ r.col0 = bits x 6 0 ∧ r.row0 = bits x 10 7 ∧ r.stage = 0 ∧ r.aborted = false ∧ r.arrived = 0 ∧
      ∀ name ∈ shapeCores x, (∃ m, t.Placed m (.launchStateArrival s.nextLaunch (p.phys name))) ∧ (t.core (p.phys name)).roll = [] ∧
        ∀ o, o < 2 ^ 17 → t.byte (laneKey (p.phys name) 0 o) = 0) ∧
  (∀ (s : State) (k core : Nat) (l : Launch), tfind s.launches k = some l → l.aborted = false → s.levelOf l.ctx = 0 → core < 2048 → 0 < l.t → l.t ≤ 15 →
    (s.thread (core * 16)).launch ≠ some k → ∃ t, exec (.launchStateArrival k core) s = .next t ∧ (∀ a, t.byte a = s.byte a) ∧ ∀ j, j < l.t →
      let th := t.thread (core * 16 + j)
      let lci := l.lciOf (s.nameOf core)
      th.occupied = true ∧ th.kind = .launch ∧ th.level = .U ∧ th.pc = l.entry ∧ th.part = l.part ∧ th.ctx = l.ctx ∧ th.launch = some k ∧
        th.lti = BitVec.ofNat 32 (lci * 15 + j) ∧ th.gReg 2 = ⟨l.stack + BitVec.ofNat 64 ((lci * l.t + j + 1) * l.stride), .full⟩ ∧
        th.gReg 3 = ⟨BitVec.ofNat 64 (lci * 15 + j), .full⟩ ∧ th.gReg 4 = ⟨l.args, .full⟩ ∧ th.gReg 5 = ⟨BitVec.ofNat 64 lci, .full⟩ ∧ th.qbase = l.qbase ∧
        th.qrec = BitVec.ofNat 64 (l.size16 * 16) ∧ ∀ x, x ≠ 0 → x ≠ 2 → x ≠ 3 → x ≠ 4 → x ≠ 5 → (th.gReg x).st = .void) ∧
  (∀ (s : State) (k : Nat) (l : Launch) (p : Part), tfind s.launches k = some l → tfind s.parts l.part = some p →
    (l.stage = 0 → s.launchOver k = true → s.launchFlights p l = false → ∃ t m, exec (.launchComplete k) s = .next t ∧ tfind t.launches k = some { l with stage := 1 } ∧
      t.Placed m (.launchComplete k) ∧ Aside s t []) ∧
    (l.stage = 1 → l.signal = 0 → l.intr = false → l.aborted = false → p.aborts = [] → ∃ t m, exec (.launchComplete k) s = .next t ∧
      tfind t.launches k = none ∧ t.Placed m (.dispatchOpportunity p.lead))) ∧
  (∀ (s : State) (n k : Nat) (p : Part) (q : Queue) (l : List Byte) (r : Launch), s.startable n 0 13 = some (p, q, l) → s.launches = [(k, r)] → r.part = n →
    r.seq = pktBody l % 2 ^ 32 → r.stage = 0 → ∃ t, exec (.abort n) s = .next t ∧ (∃ y, t.queue n 0 = some y ∧ y.read = q.read + 1) ∧
      (∃ x, tfind t.launches k = some x ∧ x.aborted = true) ∧ (∀ u, (s.thread u).launch = some k → (t.thread u).occupied = false) ∧
      (∀ c, ∀ e ∈ (t.core c).entries, e.launch ≠ some k))

/-! ## The driver's registers, pre-emption, the order roll, the fabric and bring-up -/

/-- R285, R330, R334, R362, R364, R365, R368, R369, R403, R415. Writes of the driver: tails clear their interrupts; `WAKE` performs what a list's token names; `NDONE` makes a
counter IDLE; an invalidation runs, waits for the accesses that used the old translation, and is counted; a held fault record is written once the queue has room; and the entries of the
root, window, tenant and partition tables are set. Two things here are the model's choices: where a field lies in the entries of those tables, which the rules name but do not
lay out (log 21), and the exact 420 cycles of an invalidation, for which R365 gives no time (log 5). -/
def Obligations.DriverSteps : Prop :=
  (∀ (s : State) (die : Nat) (v : Word),
    (∃ t, exec (.fqtailWrite die v) s = .next t ∧ (t.die die).fq = { (s.die die).fq with tail := v, irq := false } ∧ Aside s t []) ∧
    (∃ t, exec (.nqtailWrite die v) s = .next t ∧ (t.die die).nq = { (s.die die).nq with tail := v, irq := false } ∧ Aside s t []) ∧
    (∃ t, exec (.eqtailWrite die v) s = .next t ∧ (t.die die).eq = { (s.die die).eq with tail := v, irq := false } ∧ Aside s t []) ∧
    (∃ t, exec (.novfWrite die v) s = .next t ∧ (t.die die).novf = v ∧ (v = 0 → (t.die die).novfIrq = false) ∧ Aside s t []) ∧
    (∃ t, exec (.eltailWrite die v) s = .next t ∧ Aside s t [] ∧
      (if (s.die die).elTail.toNat ≤ v.toNat ∧ v.toNat ≤ (s.die die).elHead.toNat then (t.die die).elTail = v ∧ (t.die die).elIrq = false
       else t.die die = s.die die)) ∧
    (∀ e, tfind (s.slice (die * 16 + bits v.toNat 15 12)).counters (bits v.toNat 11 0) = some e → ∃ t, exec (.ndone die v) s = .next t ∧
      tfind (t.slice (die * 16 + bits v.toNat 15 12)).counters (bits v.toNat 11 0) = some { e with state := 0, count := 0, weight := 0 } ∧ Aside s t [])) ∧
  (∀ (s : State) (slice : Nat) (p : ParkList), (s.slice slice).parked = [p] → p.written = false → p.record.length = 32 → (s.die (slice / 16)).fq.full = false →
    let q := (s.die (slice / 16)).fq
    ∃ t, exec (.faultRetry slice) s = .next t ∧ (t.slice slice).parked = [{ p with written := true }] ∧
      (t.die (slice / 16)).fq = { q with head := q.head + 1, irq := true } ∧
      ∀ a, t.byte a = if q.slot 32 ≤ a ∧ a < q.slot 32 + 32 then p.record.getD (a - q.slot 32) 0 else s.byte a) ∧
  (∀ (s : State) (die slice tid epoch : Nat) (v : Word) (p : ParkList), s.tokenList die (v.toNat % 2 ^ 32) = some (slice, p) → p.items = [.fetch tid epoch] → (s.slice slice).faultIn = [] →
    (s.thread tid).epoch = epoch → (s.thread tid).park = some .fetch →
    (v.toNat < 2 ^ 63 → ∀ pg, s.walk (p.block * 4096) = .ok pg → ∃ t, exec (.wake die v) s = .next t ∧ t.thread tid = { s.thread tid with park := none } ∧
      (∀ e ∈ (t.slice slice).parked, e.block ≠ p.block) ∧ Aside s t [tid]) ∧
    (2 ^ 63 ≤ v.toNat → ∃ t c, exec (.wake die v) s = .next t ∧ (t.thread tid).park = none ∧ (t.thread tid).startFault = some (cBUS_ERROR, c) ∧
      c.toNat / 4096 = p.block % 2 ^ 52 ∧ (∀ e ∈ (t.slice slice).parked, e.block ≠ p.block) ∧ Aside s t [tid])) ∧
  (∀ (s : State) (die : Nat) (v : Word), (∀ e ∈ s.cores, e.2.lines = []) → (∀ e ∈ s.slices, e.2.partials = []) → (∀ e ∈ s.threads, e.2.resv = none) →
    let page := bits v.toNat 55 12 * 4096
    let log := match v.toNat % 4 with | 0 => 12 | 1 => 16 | 2 => 21 | _ => 30
    ∃ t, exec (.inval die v) s = .next t ∧ (t.die die).invals = (s.die die).invals ++ [(page, log)] ∧ Aside s t [] ∧
      ((s.die die).invals = [] → t.Placed (s.now + 420) (.invalidationDone die) ∧ ∀ x, ∀ w ∈ (t.slice x).walks, w.block * 4096 / 2 ^ log ≠ page / 2 ^ log)) ∧
  (∀ (s : State) (die page log : Nat) (rest : List (Nat × Nat)), (s.die die).invals = (page, log) :: rest → (s.oldAccess page log = true → ∃ t, exec (.invalidationDone die) s = .next t ∧
      (t.die die).invals = (s.die die).invals ∧ (t.die die).invDone = (s.die die).invDone ∧ t.Placed (s.now + 64) (.invalidationDone die) ∧ Aside s t []) ∧
    (s.oldAccess page log = false → (∀ e ∈ s.cores, e.2.lines = []) →
    (∀ e ∈ s.slices, e.2.partials = []) → (∀ e ∈ s.threads, e.2.resv = none) → ∃ t, exec (.invalidationDone die) s = .next t ∧ (t.die die).invals = rest ∧
      (t.die die).invDone = (s.die die).invDone + 1 ∧ (rest ≠ [] → t.Placed (s.now + 420) (.invalidationDone die)) ∧ Aside s t [])) ∧
  (∀ (s : State) (v : Word) (i n : Nat), n < 64 →
    (i < 240 → ∃ t, exec (.managementWrite (.root i) v) s = .next t ∧ tget 0 t.root i = v ∧ Aside s t []) ∧
    (i < 64 → ∃ t, exec (.managementWrite (.window i) v) s = .next t ∧ tget 0 t.windows i = v &&& 0xFFFFFFFFFFFFC000 ∧ Aside s t []) ∧
    (∃ t, exec (.managementWrite (.tenant i) v) s = .next t ∧ tget 0 t.tenants i = v ∧ Aside s t []) ∧
    (s.rectOk n v.toNat = true → ∃ t p, exec (.managementWrite (.partRect n) v) s = .next t ∧ tfind t.parts n = some p ∧ p.col0 = bits v.toNat 6 0 ∧
      p.row0 = bits v.toNat 10 7 ∧ p.w = bits v.toNat 17 11 + 1 ∧ p.h = bits v.toNat 21 18 + 1 ∧ p.queues = [] ∧ Aside s t []) ∧
    (∀ p, tfind s.parts n = some p → v.toNat < 256 → ∃ t, exec (.managementWrite (.partCtx n) v) s = .next t ∧
      tfind t.parts n = some { p with ctx := v.toNat } ∧ Aside s t []))

/-- R374-R378, R383-R385, R388, R389. Pre-emption: a save interrupts its core, which stops at a cycle with c mod 16 = 0, is quieted, diverted, and written as
an image; a resume brings an image back, stopped until what was spilled for it is delivered, when its request is done; remap entries are installed in order; an idle core is gated. R389
gives the interrupt at most 24 cycles and an install at most 420: that they take 24 and 420 exactly, and that a quiesced core goes on a cycle later, are the model's (log 5); so are
the layout of an image's device sections and the list in which a core's state is kept while it is absent (log 22), and that spilled packets are a list beside the ring (log 52). -/
def Obligations.PreemptSteps : Prop :=
  (∀ (s : State) (die core tag : Nat), core < 2048 → tag < 256 → (s.die die).peReqs = [] → (∀ e ∈ s.dies, e.2.peReqs = []) →
    (s.isFree core = false → (s.core core).diverted = false → ∃ t r, exec (.preemptSave die core tag) s = .next t ∧ (t.die die).peReqs = [r] ∧ r.save = true ∧
      r.core = core ∧ r.tag = tag ∧ r.stage = 1 ∧ t.Placed (s.now + 24) (.meshInterrupt die) ∧ Aside s t []) ∧
    (s.isFree core = true → (s.core core).diverted = false → ∃ t, exec (.preemptSave die core tag) s = .next t ∧ (t.die die).peReqs = [] ∧
      (t.die die).peStat = BitVec.ofNat 64 (2 + 2 ^ 16 * tag) ∧ (t.die die).peIrq = true ∧ Aside s t []) ∧
    (∀ (x : Image) (i : Nat) (v : Saved), (∀ e ∈ s.cores, e.2.lines = []) → s.ecc = [] → s.spillBad v.spill = false →
      let key := areaKey (s.die die).peImg
      s.areaBad (s.die die).peImg (max (min (fieldOf (s.peek key 64) 32 8) Config.imageArea) 64) = false →
      decodeImage (s.peek key (max (min (fieldOf (s.peek key 64) 32 8) Config.imageArea) 64)) = some x → s.savedOf x.name x.part x.phys = some (i, v) →
      s.resumeOk core v = true → ∃ t m r, exec (.preemptResume die core tag) s = .next t ∧ (t.die die).peReqs = [r] ∧ r.save = false ∧ r.stage = 5 ∧
        r.core = core ∧ r.tag = tag ∧ r.img.isSome = true ∧ (t.core core).halted = true ∧ (t.core core).diverted = true ∧
        t.Placed m (.spillRedelivery core) ∧ ∀ k, k < 16 →
          let l := bytesOf ((x.threads.drop (576 * k)).take 576)
          (t.thread (core * 16 + k)).occupied = decide (fieldOf l 0 8 % 2 = 1) ∧
            (fieldOf l 0 8 % 2 = 1 → (t.thread (core * 16 + k)).pc = BitVec.ofNat 64 (fieldOf l 8 8)))) ∧
  (∀ (s : State) (die : Nat) (r : PeReq) (rest : List PeReq), (s.die die).peReqs = r :: rest → r.save = true →
    (r.stage = 1 → (s.core r.core).gated = false → ∃ t, exec (.meshInterrupt die) s = .next t ∧ (t.die die).peReqs = { r with stage := 2 } :: rest ∧
      t.Placed (s.now + (16 - s.now % 16) % 16) (.coreStop die) ∧ Aside s t []) ∧
    (r.stage = 2 → s.now % 16 = 0 → ∃ t, exec (.coreStop die) s = .next t ∧ (t.die die).peReqs = { r with stage := 3 } :: rest ∧
      (t.core r.core).halted = true ∧ t.Placed (s.now + 1) (.quiesceDone die) ∧ Aside s t []) ∧
    (r.stage = 3 → s.unquiet r.core = false → (s.core r.core).lines = [] → ∃ t m, exec (.quiesceDone die) s = .next t ∧
      (t.die die).peReqs = { r with stage := 4 } :: rest ∧ (t.core r.core).diverted = true ∧ t.Placed m (.imageWritten die) ∧ Aside s t []) ∧
    (∀ a, r.stage = 4 → rest = [] → r.core < 2048 → s.Calm → r.img = some a → s.spillBad r.spill = false →
      let w := s.corePart r.core
      let image := s.imageOf r.core w.1 w.2
      s.areaBad a image.length = false →
      ∃ t v, exec (.imageWritten die) s = .next t ∧ (t.die die).peReqs = [] ∧ (t.die die).peStat = BitVec.ofNat 64 (2 ^ 16 * r.tag) ∧
        (t.die die).peLen = BitVec.ofNat 64 image.length ∧ (∀ i, i < image.length → t.byte (areaKey a + i) = image.getD i 0) ∧
        (∃ k, (k, v) ∈ t.saved) ∧ v.name = s.nameOf r.core ∧ v.phys = r.core ∧ v.part = w.1 ∧
        ∀ j, j < 16 → (t.thread (r.core * 16 + j)).occupied = false)) ∧
  (∀ (s : State) (die image c : Nat) (v : Saved) (p : Part), tfind s.saved image = some v → v.taken = false → v.img = 0 → v.phys < absentBase → absentBase ≤ v.virt →
    v.virt % absentBase = c → c < 2048 → s.levelOf v.ctx ≠ 3 → (s.core v.virt).engine.task = none → (s.core v.virt).engine.held ≠ [] → s.tileCmds = [] →
    (s.core c).engine.out = false → (s.core c).halted = false → (s.core c).engine.task = none → (s.core c).engine.held = [] → tfind s.parts v.part = some p →
    (∃ n ∈ p.cores, p.phys n = c) → ∃ t, exec (.engineSectionRestore die image) s = .next t ∧ tfind t.saved image = some { v with taken := true } ∧
      (t.core c).engine.held = (s.core v.virt).engine.held ∧ (t.core c).engine.acc = (s.core v.virt).engine.acc ∧ Aside s t []) ∧
  (∀ (s : State) (core : Nat), (s.core core).diverted = true →
    ((s.core core).spilled = [] →
      (∃ t, exec (.spillRedelivery core) s = .next t ∧ t.Placed s.now (.resumeDone core) ∧ Aside s t []) ∧
      ((∀ e ∈ s.dies, e.2.peReqs.length ≤ 1) → ∃ t, exec (.resumeDone core) s = .next t ∧ (t.core core).diverted = false ∧ (t.core core).halted = false ∧
        (∀ a, t.byte a = s.byte a) ∧ (∀ i, i < 16 → (t.thread (core * 16 + i)).ownCycle = (s.thread (core * 16 + i)).occupied) ∧
        ∀ d r, (s.die d).peReqs = [r] → r.save = false → r.stage = 5 → r.core = core → (t.die d).peReqs = [] ∧
          (r.img.isSome = true → (t.die d).peStat = BitVec.ofNat 64 (2 ^ 16 * r.tag) ∧ (t.die d).peIrq = true))) ∧
    (∀ e rest, (s.core core).spilled = e :: rest → ∃ t m, exec (.spillRedelivery core) s = .next t ∧ (t.core core).spilled = rest ∧
      (t.core core).diverted = true ∧ e.step ∈ (t.core core).resent ∧ t.Placed s.now e.step ∧ t.Placed m (.spillRedelivery core) ∧ Aside s t [])) ∧
  (∀ (s : State) (die : Nat) (v : Word),
    (∃ t, exec (.pestatRead die) s = .next t ∧ (t.die die).peIrq = false ∧ t.hostOut = s.hostOut ++ [(1, (s.die die).peStat)] ∧ Aside s t []) ∧
    (∃ t, exec (.rmdata die v) s = .next t ∧ (t.die die).installs = (s.die die).installs ++ [(bits (s.die die).rmSel.toNat 5 0, bits (s.die die).rmSel.toNat 11 8, v)] ∧
      t.Placed (s.now + 420) (.remapInstallDone die) ∧ Aside s t []) ∧
    (∀ (n i : Nat) (rest : List (Nat × Nat × Word)) (p : Part), (s.die die).installs = (n, i, v) :: rest → tfind s.parts n = some p →
      ∃ t q, exec (.remapInstallDone die) s = .next t ∧ (t.die die).installs = rest ∧ (t.die die).rmDone = (s.die die).rmDone + 1 ∧ tfind t.parts n = some q ∧
        tfind q.remap i = (if v.getLsbD 63 then some (bits v.toNat 42 32, bits v.toNat 10 0) else none) ∧ Aside s t [])) ∧
  (∀ (s : State) (core : Nat),
    (isMem core = false → (∀ e ∈ s.parts, s.levelOf e.2.ctx ≠ 3) → (s.core core).halted = false → (s.core core).diverted = false → s.enginesIdle core = true →
      (∀ i, i < 16 → s.ready (core * 16 + i) = false) → (s.core core).quiet + 2048 ≤ s.now →
      (∀ i x, i < 16 → (s.thread (core * 16 + i)).lastIssue = some x → x + 2048 ≤ s.now) →
      ∃ t, exec (.coreGate core) s = .next t ∧ (t.core core).gated = true ∧ Aside s t []) ∧
    (∃ t, exec (.coreWake core) s = .next t ∧ (t.core core).gated = false ∧ Aside s t [])) ∧
  (∀ (s : State) (n : Nat) (p : Part) (q : Queue) (l : List Byte), s.startable n 0 12 = some (p, q, l) → pktSignal l = 0 → pktIntr l = false → p.resize = none →
    let x := pktBody l % 2 ^ 22
    (p.leaving x = [] → n < 64 → ∃ t y, exec (.resize n) s = .next t ∧ tfind t.parts n = some y ∧ y.col0 = bits x 6 0 ∧ y.row0 = bits x 10 7 ∧ y.w = bits x 17 11 + 1 ∧
      y.h = bits x 21 18 + 1 ∧ ∀ c ∈ p.coming x, (tget 0 t.tenants c).getLsbD n = true) ∧
    (p.leaving x ≠ [] → 
      let moved := ((p.leaving x).filter (fun c => !s.isFree c && !p.remap.any (fun e => e.2.1 == s.nameOf c))).length
      (moved + p.remap.length ≤ 16 → ∃ t y, exec (.resize n) s = .next t ∧ tfind t.parts n = some y ∧ y.resize.isSome = true ∧ t.Placed s.now (.resize n)) ∧
      (16 < moved + p.remap.length → ∃ t y, exec (.resize n) s = .next t ∧ t.queue n 0 = some y ∧ y.stopped = true)))

/-- R394-R398. The order roll: at RECORD a record goes to the ring at `LOGHEAD`, which moves on; at REPLAY the next record is taken to its object's
queue and its actor's cursor; `LOGTAIL` never falls, nor passes its bound. -/
def Obligations.RollSteps : Prop :=
  ∀ (s : State) (c : Nat), let r := (s.ctx c).roll
    (∀ x rest pg, s.nextRecord c r.unwritten = some (x, rest) → r.parked = false → (r.head - r.tail).toNat < 2 ^ r.size → r.lowPosted = true → s.Calm →
      s.OpenPage (r.addr r.head.toNat) pg → ∃ t, exec (.rollRecordWrite c) s = .next t ∧ (t.ctx c).roll.head = r.head + 1 ∧
        (t.ctx c).roll.unwritten = rest ∧ (rest ≠ [] → ∃ m, t.Placed m (.rollRecordWrite c)) ∧
        ∀ a, t.byte a = if pg.key ≤ a ∧ a < pg.key + 16 then x.extractLsb' (8 * (a - pg.key)) 8 else s.byte a) ∧
    (∀ pg, (s.ctx c).level = 2 → r.parked = false → r.bad = false → r.closed = false → r.opened = true → r.head ≠ r.tail → r.lowPosted = true →
      (∀ e ∈ s.cores, e.2.lines = []) → s.ecc = [] → s.OpenPage (r.addr r.head.toNat) pg →
      (∀ e ∈ r.queues, s.starves 7 (recObj e.2.2) none = false) →
      let x : RollRecord := BitVec.ofNat 128 (s.getN pg.key 16)
      2 ≤ recType x → recType x ≤ 0x0E → ∃ t m, exec (.rollRecordTake c) s = .next t ∧ (t.ctx c).roll.head = r.head + 1 ∧
        (t.ctx c).roll.queues = (if recType x = 2 then r.queues else r.queues ++ [(recQueue (recType x) (recObj x), r.head.toNat, x)]) ∧
        (t.ctx c).roll.cursors = (if recNv x then r.cursors else r.cursors ++ [(recActor x, r.head.toNat, x)]) ∧ t.Placed m (.rollRecordTake c) ∧
        ∀ a, t.byte a = s.byte a) ∧
    (∀ v : Word, ∃ t, exec (.logtailWrite c v) s = .next t ∧
      ((s.ctx c).level ≠ 2 ∨ r.lowPosted = true ∨ r.closed = true ∨ 64 ≤ (v - r.head).toNat → ∀ a, t.byte a = s.byte a) ∧
      let bound := if (s.ctx c).level = 2 then r.head.toNat + 2 ^ r.size else r.head.toNat
      (t.ctx c).roll.tail = if r.tail.toNat ≤ v.toNat ∧ v.toNat ≤ bound then v else r.tail)

/-- R371, R403, R405-R407, R409-R411. The host's loads, stores and atomics at their home; a reduction window's contributions, folded in ascending module number
with the last; the clock's corrections; and the Ethernet rings. That a correction backwards makes the next cycle keep its number, and what counts as lock, are the model's (log 45); so are the
loss of a frame of more than 9,216 bytes, the die from which a port works and the failed parts that are its ports (log 33). -/
def Obligations.FabricSteps : Prop :=
  (∀ (s : State) (x : HostAccess) (va : Nat) (pg : Page), s.hostVa x = some va → s.OpenPage va pg → s.Calm →
    (∀ e ∈ s.hostHeld, e.1 ≠ .hostAccess x ∧ ∀ op wide cmp, e.1 ≠ .hostAtomic x op wide cmp) →
    (x.write = none → ∃ t, exec (.hostAccess x) s = .next t ∧ t.hostOut = s.hostOut ++ [(0, BitVec.ofNat 64 (s.getN pg.key x.size))] ∧ Aside s t []) ∧
    (∀ v, x.write = some v → ∃ t, exec (.hostAccess x) s = .next t ∧ t.hostOut = s.hostOut ∧
      (∀ a, t.byte a = if pg.key ≤ a ∧ a < pg.key + x.size then v.extractLsb' (8 * (a - pg.key)) 8 else s.byte a) ∧ (∀ u, t.thread u = s.thread u)) ∧
    (∀ (op : BitVec 4) (v cmp : Word), x.write = some v → x.size = 8 → op.toNat < 10 → pg.sysatom = true → pg.cls ≠ 2 →
      let old := BitVec.ofNat 64 (s.getN pg.key 8)
      ∃ t, exec (.hostAtomic x op true cmp) s = .next t ∧ t.hostOut = s.hostOut ++ [(0, old)] ∧ t.getN pg.key 8 = (amoNew op.toNat old v cmp).toNat ∧
        (∀ a, a < pg.key ∨ pg.key + 8 ≤ a → t.byte a = s.byte a))) ∧
  (∀ (s : State) (w offset module : Nat) (v : Word), let e := (tget 0 s.windows w).toNat
    let word := w * 2 ^ 42 + offset
    let all := byModule ((s.reductions ++ [(word, module, v)]).filter (fun x => x.1 == word))
    windowKind e = 3 → (∀ x ∈ s.reductions, ¬ (x.1 = word ∧ x.2.1 = module)) →
    (all.length < bits e 29 25 + 1 → ∃ t, exec (.reductionContribution w offset module v) s = .next t ∧ t.reductions = s.reductions ++ [(word, module, v)] ∧
      Aside s t []) ∧
    (bits e 29 25 + 1 ≤ all.length → bits e 21 14 < 64 → windowKind (tget 0 s.windows (bits e 21 14)).toNat = 1 → s.Calm →
      ∃ t, exec (.reductionContribution w offset module v) s = .next t ∧ (∀ x ∈ t.reductions, x.1 ≠ word) ∧
        t.getN (physKey 2 (bits e 21 14 * 2 ^ 42 + offset)) (foldSize (bits e 32 30)) =
          (reductionFold (bits e 32 30) (all.map (fun x => x.2.2))).toNat % 256 ^ foldSize (bits e 32 30))) ∧
  (∀ (s : State),
    (∀ l, ∃ t, exec (.clockLock l) s = .next t ∧ t = { s with clockLock := l }) ∧
    (s.clockLock = true → (∀ x, s.lastCorr = some x → x + 65536 ≤ s.now) →
      (∃ t, exec (.timestampCorrection true) s = .next t ∧ t.now = s.now + 1 ∧ t.lastCorr = some (s.now + 1) ∧ Aside s t []) ∧
      (∃ t, exec (.timestampCorrection false) s = .next t ∧ t = { s with lastCorr := some s.now, heldBack := true }))) ∧
  (∀ (s : State) (port lw : Nat) (r : EthRing) (pg px : Page), s.Calm → s.ethDead port = false → s.OpenPage r.at_ pg → s.OpenPage (r.at_ + 8) px → px.key = pg.key + 8 →
    (s.byte (pg.key + 10)).toNat % 2 = 1 → s.getN (pg.key + 12) 4 = 0 →
    let buf := s.getN pg.key 8
    let len := s.getN (pg.key + 8) 2
    (tfind s.eths (port * 2) = some r → ∀ (at_ : Nat → Page), (len ≤ 9216 → ∀ e ∈ blocks buf len 4, s.OpenPage e.1 (at_ e.1)) →
      ∃ t m, exec (.ethernetTransmit port) s = .next t ∧ tfind t.eths (port * 2) = some { r with next := r.next + 1 } ∧ (t.byte (pg.key + 10)).toNat % 2 = 0 ∧
        t.getN (pg.key + 8) 2 = len ∧ t.Placed m (.ethernetTransmit port) ∧
        t.ethOut = if len ≤ 9216 then s.ethOut ++ [(port, (blocks buf len 4).flatMap (fun e => s.peek (at_ e.1).key e.2))] else s.ethOut) ∧
    (∀ (frame : List Byte) (pz : Page), tfind s.eths (port * 2 + 1) = some r → 0 < frame.length → buf % 4096 + frame.length ≤ 4096 →
      s.OpenPage buf pz → (s.poke pz.key frame).walk (r.at_ + 8) = .ok (px, lw) → (∀ i, i < frame.length → pz.key + i < pg.key ∨ pg.key + 16 ≤ pz.key + i) →
      ∃ t, exec (.ethernetReceive port frame true) s = .next t ∧ tfind t.eths (port * 2 + 1) = some { r with next := r.next + 1 } ∧
        (∀ i, i < frame.length → t.byte (pz.key + i) = frame.getD i 0) ∧ t.getN (pg.key + 8) 2 = frame.length ∧ (t.byte (pg.key + 10)).toNat % 4 = 0)) ∧
  (∀ (s : State) (port : Nat) (frame : List Byte),
    (s.ethDead port = false → ∃ t, exec (.ethernetReceive port frame false) s = .next t ∧ tget 0 t.ethDrops port = tget 0 s.ethDrops port + 1 ∧ Aside s t []) ∧
    (s.ethDead port = true → ∀ ok, exec (.ethernetReceive port frame ok) s = .next s ∧ exec (.ethernetTransmit port) s = .next s))

/-- R70, R284, R411-R414. A failed part is fenced once; a module reset returns to the reset state, and its steps clear memory in turn; a die's firmware starts,
reports ready or faults; the scrubber corrects a word; a word that is no instruction raises ILLEGAL. -/
def Obligations.BringUpSteps : Prop :=
  (∀ (s : State) (f : FailedPart), ∃ t, exec (.linkGroupFence f) s = .next t ∧ f ∈ t.fenced ∧ (∀ g, g ∈ t.fenced ↔ g ∈ s.fenced ∨ g = f) ∧ Aside s t []) ∧
  (∀ (s : State), ∃ t, exec .moduleReset s = .next t ∧ t.threads = State.reset.threads ∧ t.cores = State.reset.cores ∧ t.dies = State.reset.dies ∧
    t.parts = State.reset.parts ∧ t.busStat = State.reset.busStat ∧ t.now = State.reset.now ∧ t.mem = s.mem) ∧
  (∀ (s : State) (failed : List FailedPart), s.busStat < 6 → (s.busStat = 4 → ∀ d, d < 32 → (s.die d).fwStat = 3) →
    ∃ t, exec (.resetStepDone failed) s = .next t ∧ t.busStat = s.busStat + 1 ∧ (s.busStat = 0 → t.now = 0) ∧
      (s.busStat = 1 → t.empty = [] ∧ ∀ a, a < 2 ^ 56 → t.byte a = 0) ∧ (s.busStat = 2 → t.ecc = [] ∧ ∀ a, t.byte a = if a < 2 * 2 ^ 56 then 0 else s.byte a) ∧
      (s.busStat = 3 → ∀ l ∈ allLinks, (tfind t.links l).isSome = true) ∧ (∀ u, t.thread u = s.thread u)) ∧
  (∀ (s : State) (die : Nat) (v : Word),
    (v.toNat % 2 = 1 → (s.die die).fwStat ≠ 1 → (s.die die).fwStat ≠ 3 → let len := bytesToNat ((List.range 4).map (fun i => tget 0 (s.die die).firmware i))
      ∃ t, exec (.fwgo die v) s = .next t ∧ (t.die die).fwStat = (if 2 ^ 20 < len then 2 else 1) ∧ (t.die die).fwLength = BitVec.ofNat 32 len ∧ Aside s t []) ∧
    ((s.die die).fwStat = 1 → ∃ t, exec (.firmwareReady die) s = .next t ∧ (t.die die).fwStat = 3 ∧ Aside s t []) ∧
    ((s.die die).fwStat = 1 ∨ (s.die die).fwStat = 3 → ∃ t, exec (.firmwareFault die) s = .next t ∧ (t.die die).fwStat = 4 ∧ Aside s t [])) ∧
  (∀ (s : State) (word : Nat) (v : Server), scrubbed word = true → s.scrubServer word = some v → ((s.bank v).served = some s.now ∨ (s.bank v).short = some s.now) →
    ∃ t, exec (.scrubRead word) s = .next t ∧ t.ecc = s.ecc ∧ Aside s t []) ∧
  (∀ (s : State) (word : Nat), scrubbed word = true → s.pend = [] →
    (∀ v, s.scrubServer word = some v → (s.bank v).served ≠ some s.now ∧ (s.bank v).short ≠ some s.now) → ∃ t, exec (.scrubRead word) s = .next t ∧ Aside s t [] ∧
    t.Placed (s.now + scrubEvery word) (.scrubRead word) ∧ (∀ b, s.ecc = [(word, .single b)] → t.ecc = []) ∧ (s.ecc = [(word, .double)] → t.ecc = s.ecc)) ∧
  (∀ (s : State) (word : Nat), scrubbed word = false → exec (.scrubRead word) s = .fault .noSuchWord) ∧
  (∀ (s : State) (w : BitVec 32), s.HasHandler → ∃ t, exec (.illegalEncoding w) s = .next t ∧ Trapped s t cILLEGAL (w.setWidth 64) (if isShort w.toNat then 2 else 4))

/-! ## The machine as a whole -/

/-- R70, R74 step 3. An instruction with a field value that its chapter calls ILLEGAL traps with its word, whatever its registers hold. (The halfword 0x001E is the
breakpoint, and not the branch whose fields it would be.) -/
def Obligations.IllegalForms : Prop :=
  ∀ (i : Instr) (s : State), i.wf = false → i ≠ .bez 0 0 → s.HasHandler → ∃ t, exec i s = .next t ∧ Trapped s t cILLEGAL s.insnWord 4

/-- R22, R74 steps 3 to 7, R125, R325. What an instruction meets before its own checks, in this order: an encoding that is no instruction, a level below its own, a VOID source
(with what its mark says), a PENDING source, and a PENDING destination; ADD as an example. A thread that parks stays at its instruction. -/
def Obligations.OperandStates : Prop :=
  (∀ (x : Issue) (k : State → State) (s : State),
    (x.legal = false → s.HasHandler → Trapped s (issue x k s) cILLEGAL s.insnWord x.len) ∧
    (x.legal = true → s.me.level.reaches x.min = false → s.HasHandler → Trapped s (issue x k s) cPRIV s.insnWord x.len) ∧
    (x.legal = true → s.me.level.reaches x.min = true →
      (∀ r, x.srcs.find? (fun r => (s.me.stOf r).empty) = some r → s.HasHandler →
        (s.me.stOf r = .void → Trapped s (issue x k s) cREG_VOID r.info x.len) ∧
        (s.me.stOf r = .errorMark → Trapped s (issue x k s) cBUS_ERROR (BitVec.ofNat 64 (s.me.valOf r)) x.len) ∧
        (s.me.stOf r = .refusalMark → Trapped s (issue x k s) cATOM_SCOPE (BitVec.ofNat 64 (s.me.valOf r)) x.len) ∧
        (s.me.stOf r = .divergeMark → Trapped s (issue x k s) cREPLAY_DIV (BitVec.ofNat 64 (s.me.valOf r)) x.len)) ∧
      ((∀ r ∈ x.srcs, (s.me.stOf r).empty = false) →
        (∀ r, x.srcs.find? (fun r => (s.me.stOf r).waits) = some r → issue x k s = s.parkOn (.reg r)) ∧
        ((∀ r ∈ x.srcs, (s.me.stOf r).waits = false) →
          (∀ r, x.dsts.find? (fun r => (s.me.stOf r).waits) = some r → issue x k s = s.parkOn (.reg r)) ∧
          (s.Ready x.srcs x.dsts → issue x k s = k (s.noteReads x.srcs)))))) ∧
  (∀ (s : State) (p : Park), (s.parkOn p).me = { s.me with park := some p } ∧ (∀ u, u ≠ s.cur → (s.parkOn p).thread u = s.thread u) ∧
    s.parkOn p = { s with threads := (s.parkOn p).threads }) ∧
  (∀ (b a d : BitVec 6) (s : State),
    (s.me.stOf (gRef a.toNat) = .void → s.HasHandler → ∃ t, exec (.add b a d) s = .next t ∧ Trapped s t cREG_VOID (BitVec.ofNat 64 a.toNat) 4) ∧
    (s.me.stOf (gRef a.toNat) = .pending → (s.me.stOf (gRef b.toNat)).empty = false → ∃ t, exec (.add b a d) s = .next t ∧ t.me = { s.me with park := some (.reg (gRef a.toNat)) }))

/-- R13, R48, R70, R74, R409. A step is what an outside agent put first, else the hardware's work that is due, else the issue of one core's turn, else a steal request at its victim, else
the next cycle. A step of a thread's turn runs the instruction that the fetched word decodes to (a word that is none raises ILLEGAL), or, for a thread that had parked at its
instruction, the word it fetched then; and it settles the thread's core. The choice of what comes first is the model's (log 4, log 19).
R4, R48, R50. The instruction of a thread at an address in pages of HBM that may be executed is read there: one halfword where its bit 0 is 0, else two, the lower-addressed
one as bits 15:0. In a loop it is read from the loop buffer (R90). -/
def Obligations.StepRunsDecoded : Prop :=
  ((∀ (s : State) (i : Instr) (rest : List Instr), s.agenda = i :: rest → step s = exec i { s with agenda := rest }) ∧
  (∀ (s : State) (i : Instr) (rest : Tbl Instr), s.agenda = [] → s.nextDue = some (i, rest) → step s = exec i { s with pend := rest }) ∧
  (∀ (s : State) (t w len : Nat) (f : State), s.agenda = [] → s.nextDue = none → s.liveCores.findSome? s.turnsOf = some (.thread t) → (s.thread t).startFault = none →
    (((s.thread t).word = none ∧ State.fetch { s with cur := t } = (.code w len, f) ∧ f.debugMatch = none) ∨
      ((s.thread t).word = some (BitVec.ofNat 32 w) ∧ w < 2 ^ 32 ∧ len = (if w % 2 = 0 then 2 else 4) ∧ f = { s with cur := t })) →
    let g : State := { f with iword := BitVec.ofNat 32 w }
    (∀ i u, (if len = 2 then decode16 w else decode32 w) = some i → exec i g = .next u →
      step s = .next (u.settle t f.me.epoch (g.sentBy u) (some (BitVec.ofNat 32 w)))) ∧
    (∀ u, (if len = 2 then decode16 w else decode32 w) = none → exec (.illegalEncoding (BitVec.ofNat 32 w)) g = .next u →
      step s = .next (u.settle t f.me.epoch (g.sentBy u) (some (BitVec.ofNat 32 w))))) ∧
  (∀ (s : State) (c : Nat), s.agenda = [] → s.nextDue = none → s.liveCores.findSome? s.turnsOf = some (.lend c) → step s = exec (.lentCycle c) s) ∧
  (∀ (s : State), s.agenda = [] → s.nextDue = none → s.liveCores.findSome? s.turnsOf = none →
    (∀ i rest, s.dueOf 2 s.pend = some (i, rest) → step s = exec i { s with pend := rest }) ∧
    (s.dueOf 2 s.pend = none → step s = .next (if s.busStat = 0 then s else if s.heldBack = true then { s with heldBack := false } else { s with now := s.now + 1 }))) ∧
  (∀ (s : State) (t epoch : Nat) (sent : Bool) (word : Option (BitVec 32)), let u := s.settle t epoch sent word
    ((s.thread t).park.isNone = true → (u.core (coreOf t)).issuedAt = some s.now ∧ ∀ x, u.thread x = s.thread x) ∧
    ((s.thread t).park.isNone = false → (u.thread t).word = (if (s.thread t).epoch = epoch then word else none) ∧ (u.thread t).park = (s.thread t).park ∧
      (sent = true → ((s.thread t).epoch = epoch → (u.thread t).lastIssue = some s.now) ∧ (u.core (coreOf t)).issuedAt = some s.now)))) ∧
  ((∀ (s : State) (n : Nat) (body : List Byte), s.me.inLoop = false → s.Unchanged → s.CodeAt s.me.pc.toNat n body →
    n = (if fieldOf body 0 2 % 2 = 0 then 1 else 2) →
    ∃ t, s.fetch = (.code (fieldOf body 0 (2 * n)) (2 * n), t) ∧ t.me = s.me ∧ t.now = s.now ∧ Aside s t []) ∧
  (∀ (s : State) (l : LoopState), s.me.loop = some l → s.me.inLoop = true →
    let b := if s.me.level = .S then s.me.bufS else s.me.bufU
    let o := (s.me.pc - l.start).toNat
    s.fetch = (if fieldOf b o 2 % 2 = 0 then .code (fieldOf b o 2) 2 else .code (fieldOf b o 4) 4, s)))

/-- R53-R71 and the encoding tables of the chapters: a word of each family, written out from its encoding, and the instruction it is. -/
def Obligations.DecodedWords : Prop :=
  decodeTableWord 16 0x4E60 = some (.mv 19 19) ∧ decodeTableWord 16 0x6FBE = some (.bez 27 29) ∧ decodeTableWord 16 0x001E = some .brkC16 ∧
  decodeTableWord 32 0x01669201 = some (.add 44 52 36) ∧ decodeTableWord 32 0x5A69D605 = some (.addi 2893 14 44) ∧ decodeTableWord 32 0xA6C9D613 = some (.liu 341582 44) ∧
  decodeTableWord 32 0x4D875941 = some (.beq 310 58 50) ∧ decodeTableWord 32 0xB5A6C9C5 = some (.jal 23809427) ∧ decodeTableWord 32 0xEDD649D3 = some (.fma 1 54 58 50 19) ∧
  decodeTableWord 32 0x3A34FB2D = some (.ldd 116 1 2 39 54) ∧ decodeTableWord 32 0x2DB7593D = some (.stv 6 54 58 50) ∧ decodeTableWord 32 0x4249A03F = some (.barw 1 9 13) ∧
  decodeTableWord 32 0x008DA561 = some (.vadd 4 6 6 1 10) ∧ decodeTableWord 32 0x453B29E5 = some (.vgath 2 39 6 2 1 3) ∧ decodeTableWord 32 0x2FB509F3 = some (.qeval 7 54 2 2 19) ∧
  decodeTableWord 32 0x03B81975 = some (.cpyg 6 1 1 1 50) ∧ decodeTableWord 32 0x8124D3F5 = some (.ttset 36 38 39) ∧ decodeTableWord 32 0x46DBACF7 = some (.send 2 3 27 29 25)

/-- R4, R48, R53-R71. Every well-formed instruction of a program, encoded and stored, is what the decoder reads, with every operand at every value, and the bytes behind it are left. -/
def Obligations.DecodeEncode : Prop :=
  ∀ (i : Instr) (r : List Byte), i.wf = true → 0 < i.size → decode (encode i ++ r) = .ok (i, r) ∧ (encode i).length = i.size

/-- R43, R412. Right after reset there is no thread, partition, context, queue or launch; no PLB, remap entry, tenant, frame or window; no sibling, roll-call bank, counter or cached
translation; every engine is in service; the count stands at 0; every word is FULL. Memory keeps its canonical form (that it reads as zero is log 2). -/
def Obligations.ResetState : Prop :=
  (∀ t, (State.reset.thread t).occupied = false) ∧ State.reset.parts = [] ∧ State.reset.ctxs = [] ∧ State.reset.launches = [] ∧ (∀ n q, State.reset.queue n q = none) ∧
  (∀ c, (State.reset.core c).plb = [] ∧ (State.reset.core c).lines = [] ∧ (State.reset.core c).engine.out = false) ∧ (∀ n, State.reset.tenants = [] ∧ tget 0 State.reset.frames n = 0) ∧
  (∀ w, windowKind (tget 0 State.reset.windows w).toNat = 0) ∧
  (∀ x, (State.reset.slice x).sibs = [] ∧ (State.reset.slice x).counters = [] ∧ (State.reset.slice x).walks = [] ∧ (State.reset.core x).roll = []) ∧
  State.reset.now = 0 ∧ State.reset.busStat = 0 ∧ (∀ a, State.reset.isEmpty a = false ∧ State.reset.byte a = 0) ∧ State.reset.Inv

/-- Every step keeps the canonical form of memory: equal memories are equal data, whatever wrote them. (The form is the model's, log 2.) -/
def Obligations.StepKeepsMemory : Prop :=
  ∀ (s t : State), s.Inv → step s = .next t → t.Inv

/-- R31, R334, R362, R403, R411. No instruction of a program writes what only the management interface and the driver write: root pointers, host windows, module number, aperture
windows, ports, tenants, frames, bases, the fences; nor does it move the global timestamp. -/
def Obligations.ProgramsLeaveManagement : Prop :=
  ∀ (i : Instr) (s t : State), 0 < i.size → exec i s = .next t →
    t.root = s.root ∧ t.windows = s.windows ∧ t.modnum = s.modnum ∧ t.hapsel = s.hapsel ∧ t.ftports = s.ftports ∧ t.ptpport = s.ptpport ∧ t.tenants = s.tenants ∧
    t.frames = s.frames ∧ t.msgSpillBase = s.msgSpillBase ∧ t.eths = s.eths ∧ t.fenced = s.fenced ∧ t.busStat = s.busStat ∧ t.now = s.now

/-- Nothing that can come to be done ends a run: every instruction and every step answers a next state, but for a scrubber read of a word without ECC (R414), which names
no word and faults. -/
def Obligations.NoRefusal : Prop :=
  (∀ (i : Instr) (s : State), (∀ w, i = .scrubRead w → scrubbed w = true) → ∃ t, exec i s = .next t) ∧
  (∀ (s : State), (∀ w, scrubbed w = false → .scrubRead w ∉ s.agenda ∧ ∀ e ∈ s.pend, e.2 ≠ .scrubRead w) → Safe s)
end

