-- ==== Sys2Proof/Laws/Table.lean ====
section
/-!
SUPPORT. Laws of the sparse tables: reading after writing, and the canonical form that every table operation keeps.
-/

namespace Sys2Proof.Machine

variable {α : Type}

/-- An entry put in is read back. -/
theorem tget_tins_self (d : α) (t : Tbl α) (k : Nat) (v : α) (h : ∀ e ∈ t, e.1 ≠ k) : tget d (tins t k v) k = v := by
  induction t with
  | nil => simp [tins, tget]
  | cons e r ih =>
    have he : e.1 ≠ k := h e (by simp)
    unfold tins
    split
    · simp [tget]
    · simpa [tget, he] using ih (fun e he => h e (by simp [he]))

/-- An entry put in leaves the others as they read. -/
theorem tget_tins_ne (d : α) (t : Tbl α) {k j : Nat} (v : α) (h : j ≠ k) : tget d (tins t k v) j = tget d t j := by
  induction t with
  | nil => simp [tins, tget, Ne.symm h]
  | cons e r ih =>
    unfold tins
    split
    · simp [tget, Ne.symm h]
    · simp [tget, ih]

/-- An erased entry reads as the default. -/
theorem tget_terase_self (d : α) (t : Tbl α) (k : Nat) : tget d (terase t k) k = d := by
  induction t with
  | nil => rfl
  | cons e r ih =>
    by_cases h : e.1 = k
    · simpa [terase, h] using ih
    · simp [terase, h] at ih ⊢
      simp [tget, h, ih]

/-- An erased entry leaves the others as they read. -/
theorem tget_terase_ne (d : α) (t : Tbl α) {k j : Nat} (h : j ≠ k) : tget d (terase t k) j = tget d t j := by
  induction t with
  | nil => rfl
  | cons e r ih =>
    by_cases he : e.1 = k
    · have : e.1 ≠ j := fun x => h (x ▸ he)
      simpa [terase, he, tget, this, Ne.symm h] using ih
    · simp [terase, he] at ih ⊢
      simp [tget, ih]

variable [DecidableEq α]

/-- A table written at a key reads there as what was written. -/
@[simp] theorem tget_tput_self (d : α) (t : Tbl α) (k : Nat) (v : α) : tget d (tput d t k v) k = v := by
  unfold tput
  split
  · next h => rw [tget_terase_self, h]
  · exact tget_tins_self d _ k v (fun e he => by simp [terase] at he; exact he.2)

/-- A table written at a key reads elsewhere as before. -/
@[simp] theorem tget_tput_ne (d : α) (t : Tbl α) {k j : Nat} (v : α) (h : j ≠ k) : tget d (tput d t k v) j = tget d t j := by
  unfold tput
  split
  · exact tget_terase_ne d t h
  · rw [tget_tins_ne d _ v h, tget_terase_ne d t h]

/-- What a written table reads as. -/
theorem tget_tput (d : α) (t : Tbl α) (k j : Nat) (v : α) : tget d (tput d t k v) j = if j = k then v else tget d t j := by
  by_cases h : j = k
  · subst h; simp
  · simp [h]

/-! ## The canonical form -/

/-- The canonical form, as two facts about the whole list. -/
theorem twf_iff (d : α) (t : Tbl α) :
    twf d t = true ↔ t.Pairwise (fun a b => a.1 < b.1) ∧ ∀ e ∈ t, e.2 ≠ d := by
  induction t with
  | nil => simp [twf]
  | cons e r ih =>
    cases r with
    | nil => simp [twf]
    | cons e' r =>
      simp only [twf, Bool.and_eq_true, decide_eq_true_eq, ih, List.pairwise_cons, List.mem_cons, forall_eq_or_imp]
      constructor
      · rintro ⟨⟨h1, h2⟩, ⟨h3, h4⟩, h5⟩
        exact ⟨⟨⟨h1, fun x hx => Nat.lt_trans h1 (h3 x hx)⟩, h3, h4⟩, h2, h5⟩
      · rintro ⟨⟨⟨h1, -⟩, h3, h4⟩, h2, h5⟩
        exact ⟨⟨h1, h2⟩, ⟨h3, h4⟩, h5⟩

/-- A filtered table keeps the form. -/
theorem twf_filter (d : α) (t : Tbl α) (p : Nat × α → Bool) (h : twf d t = true) : twf d (t.filter p) = true := by
  rw [twf_iff] at *
  exact ⟨h.1.sublist List.filter_sublist, fun e he => h.2 e (List.mem_of_mem_filter he)⟩

/-- An erased entry keeps the form. -/
theorem twf_terase (d : α) (t : Tbl α) (k : Nat) (h : twf d t = true) : twf d (terase t k) = true := twf_filter d t _ h

omit [DecidableEq α] in
/-- What a table holds once an entry is put in. -/
theorem mem_tins (t : Tbl α) (k : Nat) (v : α) (e : Nat × α) : e ∈ tins t k v ↔ e = (k, v) ∨ e ∈ t := by
  induction t with
  | nil => simp [tins]
  | cons x r ih =>
    unfold tins
    split
    · simp
    · simp only [List.mem_cons, ih]; tauto

omit [DecidableEq α] in
/-- Keys stay strictly rising when an entry of a new key is put in. -/
theorem pairwise_tins (t : Tbl α) (k : Nat) (v : α) (h : t.Pairwise (fun a b => a.1 < b.1)) (hk : ∀ e ∈ t, e.1 ≠ k) :
    (tins t k v).Pairwise (fun a b => a.1 < b.1) := by
  induction t with
  | nil => simp [tins]
  | cons x r ih =>
    have hx : x.1 ≠ k := hk x (by simp)
    rw [List.pairwise_cons] at h
    unfold tins
    split
    · next hlt =>
      refine List.pairwise_cons.2 ⟨?_, List.pairwise_cons.2 h⟩
      intro b hb
      rcases List.mem_cons.1 hb with rfl | hb
      · exact hlt
      · exact Nat.lt_trans hlt (h.1 b hb)
    · next hge =>
      refine List.pairwise_cons.2 ⟨?_, ih h.2 (fun e he => hk e (by simp [he]))⟩
      intro b hb
      rcases (mem_tins r k v b).1 hb with rfl | hb
      · simp; omega
      · exact h.1 b hb

/-- A write keeps the canonical form. -/
theorem twf_tput (d : α) (t : Tbl α) (k : Nat) (v : α) (h : twf d t = true) : twf d (tput d t k v) = true := by
  unfold tput
  split
  · exact twf_terase d t k h
  · next hv =>
    have he := (twf_iff d _).1 (twf_terase d t k h)
    refine (twf_iff d _).2 ⟨pairwise_tins _ k v he.1 (fun e h => ?_), ?_⟩
    · simp [terase] at h; exact h.2
    · intro e h
      rcases (mem_tins _ k v e).1 h with rfl | h
      · exact hv
      · exact he.2 e h

omit [DecidableEq α] in
/-- Two tables in canonical form that read alike everywhere are one table. -/
theorem twf_ext [DecidableEq α] (d : α) (t u : Tbl α) (ht : twf d t = true) (hu : twf d u = true)
    (h : ∀ k, tget d t k = tget d u k) : t = u := by
  have lookup : ∀ (t : Tbl α), twf d t = true → ∀ e, e ∈ t ↔ tget d t e.1 = e.2 ∧ e.2 ≠ d := by
    intro t ht e
    rw [twf_iff] at ht
    obtain ⟨hp, hd⟩ := ht
    induction t with
    | nil => simp [tget]; exact fun h => h.symm
    | cons x r ih =>
      rw [List.pairwise_cons] at hp
      have ihr := ih hp.2 (fun e he => hd e (by simp [he]))
      constructor
      · intro he
        refine ⟨?_, hd e he⟩
        rcases List.mem_cons.1 he with rfl | he
        · simp [tget]
        · have := hp.1 e he
          simp only [tget]
          rw [if_neg (by omega)]
          exact (ihr.1 he).1
      · rintro ⟨h1, h2⟩
        by_cases hx : x.1 = e.1
        · simp [tget, hx] at h1
          have : e = x := Prod.ext hx.symm h1.symm
          simp [this]
        · simp [tget, hx] at h1
          exact List.mem_cons_of_mem _ (ihr.2 ⟨h1, h2⟩)
  have hmem : ∀ e, e ∈ t ↔ e ∈ u := fun e => by rw [lookup t ht, lookup u hu, h]
  rw [twf_iff] at ht hu
  have nt : t.Nodup := ht.1.imp (fun hab he => by simp [he] at hab)
  have nu : u.Nodup := hu.1.imp (fun hab he => by simp [he] at hab)
  have hperm := (List.perm_ext_iff_of_nodup nt nu).2 hmem
  refine List.Perm.eq_of_pairwise (fun a b _ _ hab hba => ?_) ht.1 hu.1 hperm
  omega

end Sys2Proof.Machine
end

