-- ==== Sys2Proof/Laws/State.lean ====
section
/-!
SUPPORT. The laws of the named updates of the state: what each field reads as after each, and what the accessors read.
-/

namespace Sys2Proof.Machine

/-! ## `setThread` -/

@[simp] theorem State.setThread_now (s : State) (t : Nat) (v : Thread) : (s.setThread t v).now = s.now := rfl
@[simp] theorem State.setThread_busStat (s : State) (t : Nat) (v : Thread) : (s.setThread t v).busStat = s.busStat := rfl
@[simp] theorem State.setThread_mem (s : State) (t : Nat) (v : Thread) : (s.setThread t v).mem = s.mem := rfl
@[simp] theorem State.setThread_empty (s : State) (t : Nat) (v : Thread) : (s.setThread t v).empty = s.empty := rfl
@[simp] theorem State.setThread_ecc (s : State) (t : Nat) (v : Thread) : (s.setThread t v).ecc = s.ecc := rfl
@[simp] theorem State.setThread_root (s : State) (t : Nat) (v : Thread) : (s.setThread t v).root = s.root := rfl
@[simp] theorem State.setThread_windows (s : State) (t : Nat) (v : Thread) : (s.setThread t v).windows = s.windows := rfl
@[simp] theorem State.setThread_modnum (s : State) (t : Nat) (v : Thread) : (s.setThread t v).modnum = s.modnum := rfl
@[simp] theorem State.setThread_hapsel (s : State) (t : Nat) (v : Thread) : (s.setThread t v).hapsel = s.hapsel := rfl
@[simp] theorem State.setThread_ftports (s : State) (t : Nat) (v : Thread) : (s.setThread t v).ftports = s.ftports := rfl
@[simp] theorem State.setThread_ptpport (s : State) (t : Nat) (v : Thread) : (s.setThread t v).ptpport = s.ptpport := rfl
@[simp] theorem State.setThread_clockLock (s : State) (t : Nat) (v : Thread) : (s.setThread t v).clockLock = s.clockLock := rfl
@[simp] theorem State.setThread_lastCorr (s : State) (t : Nat) (v : Thread) : (s.setThread t v).lastCorr = s.lastCorr := rfl
@[simp] theorem State.setThread_tenants (s : State) (t : Nat) (v : Thread) : (s.setThread t v).tenants = s.tenants := rfl
@[simp] theorem State.setThread_frames (s : State) (t : Nat) (v : Thread) : (s.setThread t v).frames = s.frames := rfl
@[simp] theorem State.setThread_cores (s : State) (t : Nat) (v : Thread) : (s.setThread t v).cores = s.cores := rfl
@[simp] theorem State.setThread_dies (s : State) (t : Nat) (v : Thread) : (s.setThread t v).dies = s.dies := rfl
@[simp] theorem State.setThread_slices (s : State) (t : Nat) (v : Thread) : (s.setThread t v).slices = s.slices := rfl
@[simp] theorem State.setThread_links (s : State) (t : Nat) (v : Thread) : (s.setThread t v).links = s.links := rfl
@[simp] theorem State.setThread_ctxs (s : State) (t : Nat) (v : Thread) : (s.setThread t v).ctxs = s.ctxs := rfl
@[simp] theorem State.setThread_parts (s : State) (t : Nat) (v : Thread) : (s.setThread t v).parts = s.parts := rfl
@[simp] theorem State.setThread_launches (s : State) (t : Nat) (v : Thread) : (s.setThread t v).launches = s.launches := rfl
@[simp] theorem State.setThread_nextLaunch (s : State) (t : Nat) (v : Thread) : (s.setThread t v).nextLaunch = s.nextLaunch := rfl
@[simp] theorem State.setThread_reqs (s : State) (t : Nat) (v : Thread) : (s.setThread t v).reqs = s.reqs := rfl
@[simp] theorem State.setThread_syncq (s : State) (t : Nat) (v : Thread) : (s.setThread t v).syncq = s.syncq := rfl
@[simp] theorem State.setThread_lastWrite (s : State) (t : Nat) (v : Thread) : (s.setThread t v).lastWrite = s.lastWrite := rfl
@[simp] theorem State.setThread_waiters (s : State) (t : Nat) (v : Thread) : (s.setThread t v).waiters = s.waiters := rfl
@[simp] theorem State.setThread_copies (s : State) (t : Nat) (v : Thread) : (s.setThread t v).copies = s.copies := rfl
@[simp] theorem State.setThread_tileCmds (s : State) (t : Nat) (v : Thread) : (s.setThread t v).tileCmds = s.tileCmds := rfl
@[simp] theorem State.setThread_packets (s : State) (t : Nat) (v : Thread) : (s.setThread t v).packets = s.packets := rfl
@[simp] theorem State.setThread_reductions (s : State) (t : Nat) (v : Thread) : (s.setThread t v).reductions = s.reductions := rfl
@[simp] theorem State.setThread_batch (s : State) (t : Nat) (v : Thread) : (s.setThread t v).batch = s.batch := rfl
@[simp] theorem State.setThread_hostOut (s : State) (t : Nat) (v : Thread) : (s.setThread t v).hostOut = s.hostOut := rfl
@[simp] theorem State.setThread_driverIrq (s : State) (t : Nat) (v : Thread) : (s.setThread t v).driverIrq = s.driverIrq := rfl
@[simp] theorem State.setThread_msgSpillBase (s : State) (t : Nat) (v : Thread) : (s.setThread t v).msgSpillBase = s.msgSpillBase := rfl
@[simp] theorem State.setThread_eths (s : State) (t : Nat) (v : Thread) : (s.setThread t v).eths = s.eths := rfl
@[simp] theorem State.setThread_ethDrops (s : State) (t : Nat) (v : Thread) : (s.setThread t v).ethDrops = s.ethDrops := rfl
@[simp] theorem State.setThread_ethOut (s : State) (t : Nat) (v : Thread) : (s.setThread t v).ethOut = s.ethOut := rfl
@[simp] theorem State.setThread_fenced (s : State) (t : Nat) (v : Thread) : (s.setThread t v).fenced = s.fenced := rfl
@[simp] theorem State.setThread_saved (s : State) (t : Nat) (v : Thread) : (s.setThread t v).saved = s.saved := rfl
@[simp] theorem State.setThread_agenda (s : State) (t : Nat) (v : Thread) : (s.setThread t v).agenda = s.agenda := rfl
@[simp] theorem State.setThread_pend (s : State) (t : Nat) (v : Thread) : (s.setThread t v).pend = s.pend := rfl
@[simp] theorem State.setThread_cur (s : State) (t : Nat) (v : Thread) : (s.setThread t v).cur = s.cur := rfl
@[simp] theorem State.setThread_iword (s : State) (t : Nat) (v : Thread) : (s.setThread t v).iword = s.iword := rfl
@[simp] theorem State.setThread_free (s : State) (t : Nat) (v : Thread) : (s.setThread t v).free = s.free := rfl
@[simp] theorem State.setThread_nextId (s : State) (t : Nat) (v : Thread) : (s.setThread t v).nextId = s.nextId := rfl
@[simp] theorem State.setThread_mapped (s : State) (t : Nat) (v : Thread) : (s.setThread t v).mapped = s.mapped := rfl
@[simp] theorem State.setThread_heldBack (s : State) (t : Nat) (v : Thread) : (s.setThread t v).heldBack = s.heldBack := rfl
@[simp] theorem State.setThread_hostHeld (s : State) (t : Nat) (v : Thread) : (s.setThread t v).hostHeld = s.hostHeld := rfl
@[simp] theorem State.setThread_banks (s : State) (t : Nat) (v : Thread) : (s.setThread t v).banks = s.banks := rfl
@[simp] theorem State.setThread_bankq (s : State) (t : Nat) (v : Thread) : (s.setThread t v).bankq = s.bankq := rfl
@[simp] theorem State.setThread_syncIn (s : State) (t : Nat) (v : Thread) : (s.setThread t v).syncIn = s.syncIn := rfl
@[simp] theorem State.setThread_was (s : State) (t : Nat) (v : Thread) : (s.setThread t v).was = s.was := rfl

/-! ## `setCore` -/

@[simp] theorem State.setCore_now (s : State) (c : Nat) (v : Core) : (s.setCore c v).now = s.now := rfl
@[simp] theorem State.setCore_busStat (s : State) (c : Nat) (v : Core) : (s.setCore c v).busStat = s.busStat := rfl
@[simp] theorem State.setCore_mem (s : State) (c : Nat) (v : Core) : (s.setCore c v).mem = s.mem := rfl
@[simp] theorem State.setCore_empty (s : State) (c : Nat) (v : Core) : (s.setCore c v).empty = s.empty := rfl
@[simp] theorem State.setCore_ecc (s : State) (c : Nat) (v : Core) : (s.setCore c v).ecc = s.ecc := rfl
@[simp] theorem State.setCore_root (s : State) (c : Nat) (v : Core) : (s.setCore c v).root = s.root := rfl
@[simp] theorem State.setCore_windows (s : State) (c : Nat) (v : Core) : (s.setCore c v).windows = s.windows := rfl
@[simp] theorem State.setCore_modnum (s : State) (c : Nat) (v : Core) : (s.setCore c v).modnum = s.modnum := rfl
@[simp] theorem State.setCore_hapsel (s : State) (c : Nat) (v : Core) : (s.setCore c v).hapsel = s.hapsel := rfl
@[simp] theorem State.setCore_ftports (s : State) (c : Nat) (v : Core) : (s.setCore c v).ftports = s.ftports := rfl
@[simp] theorem State.setCore_ptpport (s : State) (c : Nat) (v : Core) : (s.setCore c v).ptpport = s.ptpport := rfl
@[simp] theorem State.setCore_clockLock (s : State) (c : Nat) (v : Core) : (s.setCore c v).clockLock = s.clockLock := rfl
@[simp] theorem State.setCore_lastCorr (s : State) (c : Nat) (v : Core) : (s.setCore c v).lastCorr = s.lastCorr := rfl
@[simp] theorem State.setCore_tenants (s : State) (c : Nat) (v : Core) : (s.setCore c v).tenants = s.tenants := rfl
@[simp] theorem State.setCore_frames (s : State) (c : Nat) (v : Core) : (s.setCore c v).frames = s.frames := rfl
@[simp] theorem State.setCore_threads (s : State) (c : Nat) (v : Core) : (s.setCore c v).threads = s.threads := rfl
@[simp] theorem State.setCore_dies (s : State) (c : Nat) (v : Core) : (s.setCore c v).dies = s.dies := rfl
@[simp] theorem State.setCore_slices (s : State) (c : Nat) (v : Core) : (s.setCore c v).slices = s.slices := rfl
@[simp] theorem State.setCore_links (s : State) (c : Nat) (v : Core) : (s.setCore c v).links = s.links := rfl
@[simp] theorem State.setCore_ctxs (s : State) (c : Nat) (v : Core) : (s.setCore c v).ctxs = s.ctxs := rfl
@[simp] theorem State.setCore_parts (s : State) (c : Nat) (v : Core) : (s.setCore c v).parts = s.parts := rfl
@[simp] theorem State.setCore_launches (s : State) (c : Nat) (v : Core) : (s.setCore c v).launches = s.launches := rfl
@[simp] theorem State.setCore_nextLaunch (s : State) (c : Nat) (v : Core) : (s.setCore c v).nextLaunch = s.nextLaunch := rfl
@[simp] theorem State.setCore_reqs (s : State) (c : Nat) (v : Core) : (s.setCore c v).reqs = s.reqs := rfl
@[simp] theorem State.setCore_syncq (s : State) (c : Nat) (v : Core) : (s.setCore c v).syncq = s.syncq := rfl
@[simp] theorem State.setCore_lastWrite (s : State) (c : Nat) (v : Core) : (s.setCore c v).lastWrite = s.lastWrite := rfl
@[simp] theorem State.setCore_waiters (s : State) (c : Nat) (v : Core) : (s.setCore c v).waiters = s.waiters := rfl
@[simp] theorem State.setCore_copies (s : State) (c : Nat) (v : Core) : (s.setCore c v).copies = s.copies := rfl
@[simp] theorem State.setCore_tileCmds (s : State) (c : Nat) (v : Core) : (s.setCore c v).tileCmds = s.tileCmds := rfl
@[simp] theorem State.setCore_packets (s : State) (c : Nat) (v : Core) : (s.setCore c v).packets = s.packets := rfl
@[simp] theorem State.setCore_reductions (s : State) (c : Nat) (v : Core) : (s.setCore c v).reductions = s.reductions := rfl
@[simp] theorem State.setCore_batch (s : State) (c : Nat) (v : Core) : (s.setCore c v).batch = s.batch := rfl
@[simp] theorem State.setCore_hostOut (s : State) (c : Nat) (v : Core) : (s.setCore c v).hostOut = s.hostOut := rfl
@[simp] theorem State.setCore_driverIrq (s : State) (c : Nat) (v : Core) : (s.setCore c v).driverIrq = s.driverIrq := rfl
@[simp] theorem State.setCore_msgSpillBase (s : State) (c : Nat) (v : Core) : (s.setCore c v).msgSpillBase = s.msgSpillBase := rfl
@[simp] theorem State.setCore_eths (s : State) (c : Nat) (v : Core) : (s.setCore c v).eths = s.eths := rfl
@[simp] theorem State.setCore_ethDrops (s : State) (c : Nat) (v : Core) : (s.setCore c v).ethDrops = s.ethDrops := rfl
@[simp] theorem State.setCore_ethOut (s : State) (c : Nat) (v : Core) : (s.setCore c v).ethOut = s.ethOut := rfl
@[simp] theorem State.setCore_fenced (s : State) (c : Nat) (v : Core) : (s.setCore c v).fenced = s.fenced := rfl
@[simp] theorem State.setCore_saved (s : State) (c : Nat) (v : Core) : (s.setCore c v).saved = s.saved := rfl
@[simp] theorem State.setCore_agenda (s : State) (c : Nat) (v : Core) : (s.setCore c v).agenda = s.agenda := rfl
@[simp] theorem State.setCore_pend (s : State) (c : Nat) (v : Core) : (s.setCore c v).pend = s.pend := rfl
@[simp] theorem State.setCore_cur (s : State) (c : Nat) (v : Core) : (s.setCore c v).cur = s.cur := rfl
@[simp] theorem State.setCore_iword (s : State) (c : Nat) (v : Core) : (s.setCore c v).iword = s.iword := rfl
@[simp] theorem State.setCore_free (s : State) (c : Nat) (v : Core) : (s.setCore c v).free = s.free := rfl
@[simp] theorem State.setCore_nextId (s : State) (c : Nat) (v : Core) : (s.setCore c v).nextId = s.nextId := rfl
@[simp] theorem State.setCore_mapped (s : State) (c : Nat) (v : Core) : (s.setCore c v).mapped = s.mapped := rfl
@[simp] theorem State.setCore_heldBack (s : State) (c : Nat) (v : Core) : (s.setCore c v).heldBack = s.heldBack := rfl
@[simp] theorem State.setCore_hostHeld (s : State) (c : Nat) (v : Core) : (s.setCore c v).hostHeld = s.hostHeld := rfl
@[simp] theorem State.setCore_banks (s : State) (c : Nat) (v : Core) : (s.setCore c v).banks = s.banks := rfl
@[simp] theorem State.setCore_bankq (s : State) (c : Nat) (v : Core) : (s.setCore c v).bankq = s.bankq := rfl
@[simp] theorem State.setCore_syncIn (s : State) (c : Nat) (v : Core) : (s.setCore c v).syncIn = s.syncIn := rfl
@[simp] theorem State.setCore_was (s : State) (c : Nat) (v : Core) : (s.setCore c v).was = s.was := rfl

/-! ## `setDie` -/

@[simp] theorem State.setDie_now (s : State) (d : Nat) (v : Die) : (s.setDie d v).now = s.now := rfl
@[simp] theorem State.setDie_busStat (s : State) (d : Nat) (v : Die) : (s.setDie d v).busStat = s.busStat := rfl
@[simp] theorem State.setDie_mem (s : State) (d : Nat) (v : Die) : (s.setDie d v).mem = s.mem := rfl
@[simp] theorem State.setDie_empty (s : State) (d : Nat) (v : Die) : (s.setDie d v).empty = s.empty := rfl
@[simp] theorem State.setDie_ecc (s : State) (d : Nat) (v : Die) : (s.setDie d v).ecc = s.ecc := rfl
@[simp] theorem State.setDie_root (s : State) (d : Nat) (v : Die) : (s.setDie d v).root = s.root := rfl
@[simp] theorem State.setDie_windows (s : State) (d : Nat) (v : Die) : (s.setDie d v).windows = s.windows := rfl
@[simp] theorem State.setDie_modnum (s : State) (d : Nat) (v : Die) : (s.setDie d v).modnum = s.modnum := rfl
@[simp] theorem State.setDie_hapsel (s : State) (d : Nat) (v : Die) : (s.setDie d v).hapsel = s.hapsel := rfl
@[simp] theorem State.setDie_ftports (s : State) (d : Nat) (v : Die) : (s.setDie d v).ftports = s.ftports := rfl
@[simp] theorem State.setDie_ptpport (s : State) (d : Nat) (v : Die) : (s.setDie d v).ptpport = s.ptpport := rfl
@[simp] theorem State.setDie_clockLock (s : State) (d : Nat) (v : Die) : (s.setDie d v).clockLock = s.clockLock := rfl
@[simp] theorem State.setDie_lastCorr (s : State) (d : Nat) (v : Die) : (s.setDie d v).lastCorr = s.lastCorr := rfl
@[simp] theorem State.setDie_tenants (s : State) (d : Nat) (v : Die) : (s.setDie d v).tenants = s.tenants := rfl
@[simp] theorem State.setDie_frames (s : State) (d : Nat) (v : Die) : (s.setDie d v).frames = s.frames := rfl
@[simp] theorem State.setDie_threads (s : State) (d : Nat) (v : Die) : (s.setDie d v).threads = s.threads := rfl
@[simp] theorem State.setDie_cores (s : State) (d : Nat) (v : Die) : (s.setDie d v).cores = s.cores := rfl
@[simp] theorem State.setDie_slices (s : State) (d : Nat) (v : Die) : (s.setDie d v).slices = s.slices := rfl
@[simp] theorem State.setDie_links (s : State) (d : Nat) (v : Die) : (s.setDie d v).links = s.links := rfl
@[simp] theorem State.setDie_ctxs (s : State) (d : Nat) (v : Die) : (s.setDie d v).ctxs = s.ctxs := rfl
@[simp] theorem State.setDie_parts (s : State) (d : Nat) (v : Die) : (s.setDie d v).parts = s.parts := rfl
@[simp] theorem State.setDie_launches (s : State) (d : Nat) (v : Die) : (s.setDie d v).launches = s.launches := rfl
@[simp] theorem State.setDie_nextLaunch (s : State) (d : Nat) (v : Die) : (s.setDie d v).nextLaunch = s.nextLaunch := rfl
@[simp] theorem State.setDie_reqs (s : State) (d : Nat) (v : Die) : (s.setDie d v).reqs = s.reqs := rfl
@[simp] theorem State.setDie_syncq (s : State) (d : Nat) (v : Die) : (s.setDie d v).syncq = s.syncq := rfl
@[simp] theorem State.setDie_lastWrite (s : State) (d : Nat) (v : Die) : (s.setDie d v).lastWrite = s.lastWrite := rfl
@[simp] theorem State.setDie_waiters (s : State) (d : Nat) (v : Die) : (s.setDie d v).waiters = s.waiters := rfl
@[simp] theorem State.setDie_copies (s : State) (d : Nat) (v : Die) : (s.setDie d v).copies = s.copies := rfl
@[simp] theorem State.setDie_tileCmds (s : State) (d : Nat) (v : Die) : (s.setDie d v).tileCmds = s.tileCmds := rfl
@[simp] theorem State.setDie_packets (s : State) (d : Nat) (v : Die) : (s.setDie d v).packets = s.packets := rfl
@[simp] theorem State.setDie_reductions (s : State) (d : Nat) (v : Die) : (s.setDie d v).reductions = s.reductions := rfl
@[simp] theorem State.setDie_batch (s : State) (d : Nat) (v : Die) : (s.setDie d v).batch = s.batch := rfl
@[simp] theorem State.setDie_hostOut (s : State) (d : Nat) (v : Die) : (s.setDie d v).hostOut = s.hostOut := rfl
@[simp] theorem State.setDie_driverIrq (s : State) (d : Nat) (v : Die) : (s.setDie d v).driverIrq = s.driverIrq := rfl
@[simp] theorem State.setDie_msgSpillBase (s : State) (d : Nat) (v : Die) : (s.setDie d v).msgSpillBase = s.msgSpillBase := rfl
@[simp] theorem State.setDie_eths (s : State) (d : Nat) (v : Die) : (s.setDie d v).eths = s.eths := rfl
@[simp] theorem State.setDie_ethDrops (s : State) (d : Nat) (v : Die) : (s.setDie d v).ethDrops = s.ethDrops := rfl
@[simp] theorem State.setDie_ethOut (s : State) (d : Nat) (v : Die) : (s.setDie d v).ethOut = s.ethOut := rfl
@[simp] theorem State.setDie_fenced (s : State) (d : Nat) (v : Die) : (s.setDie d v).fenced = s.fenced := rfl
@[simp] theorem State.setDie_saved (s : State) (d : Nat) (v : Die) : (s.setDie d v).saved = s.saved := rfl
@[simp] theorem State.setDie_agenda (s : State) (d : Nat) (v : Die) : (s.setDie d v).agenda = s.agenda := rfl
@[simp] theorem State.setDie_pend (s : State) (d : Nat) (v : Die) : (s.setDie d v).pend = s.pend := rfl
@[simp] theorem State.setDie_cur (s : State) (d : Nat) (v : Die) : (s.setDie d v).cur = s.cur := rfl
@[simp] theorem State.setDie_iword (s : State) (d : Nat) (v : Die) : (s.setDie d v).iword = s.iword := rfl
@[simp] theorem State.setDie_free (s : State) (d : Nat) (v : Die) : (s.setDie d v).free = s.free := rfl
@[simp] theorem State.setDie_nextId (s : State) (d : Nat) (v : Die) : (s.setDie d v).nextId = s.nextId := rfl
@[simp] theorem State.setDie_mapped (s : State) (d : Nat) (v : Die) : (s.setDie d v).mapped = s.mapped := rfl
@[simp] theorem State.setDie_heldBack (s : State) (d : Nat) (v : Die) : (s.setDie d v).heldBack = s.heldBack := rfl
@[simp] theorem State.setDie_hostHeld (s : State) (d : Nat) (v : Die) : (s.setDie d v).hostHeld = s.hostHeld := rfl
@[simp] theorem State.setDie_banks (s : State) (d : Nat) (v : Die) : (s.setDie d v).banks = s.banks := rfl
@[simp] theorem State.setDie_bankq (s : State) (d : Nat) (v : Die) : (s.setDie d v).bankq = s.bankq := rfl
@[simp] theorem State.setDie_syncIn (s : State) (d : Nat) (v : Die) : (s.setDie d v).syncIn = s.syncIn := rfl
@[simp] theorem State.setDie_was (s : State) (d : Nat) (v : Die) : (s.setDie d v).was = s.was := rfl

/-! ## `setSlice` -/

@[simp] theorem State.setSlice_now (s : State) (x : Nat) (v : Slice) : (s.setSlice x v).now = s.now := rfl
@[simp] theorem State.setSlice_busStat (s : State) (x : Nat) (v : Slice) : (s.setSlice x v).busStat = s.busStat := rfl
@[simp] theorem State.setSlice_mem (s : State) (x : Nat) (v : Slice) : (s.setSlice x v).mem = s.mem := rfl
@[simp] theorem State.setSlice_empty (s : State) (x : Nat) (v : Slice) : (s.setSlice x v).empty = s.empty := rfl
@[simp] theorem State.setSlice_ecc (s : State) (x : Nat) (v : Slice) : (s.setSlice x v).ecc = s.ecc := rfl
@[simp] theorem State.setSlice_root (s : State) (x : Nat) (v : Slice) : (s.setSlice x v).root = s.root := rfl
@[simp] theorem State.setSlice_windows (s : State) (x : Nat) (v : Slice) : (s.setSlice x v).windows = s.windows := rfl
@[simp] theorem State.setSlice_modnum (s : State) (x : Nat) (v : Slice) : (s.setSlice x v).modnum = s.modnum := rfl
@[simp] theorem State.setSlice_hapsel (s : State) (x : Nat) (v : Slice) : (s.setSlice x v).hapsel = s.hapsel := rfl
@[simp] theorem State.setSlice_ftports (s : State) (x : Nat) (v : Slice) : (s.setSlice x v).ftports = s.ftports := rfl
@[simp] theorem State.setSlice_ptpport (s : State) (x : Nat) (v : Slice) : (s.setSlice x v).ptpport = s.ptpport := rfl
@[simp] theorem State.setSlice_clockLock (s : State) (x : Nat) (v : Slice) : (s.setSlice x v).clockLock = s.clockLock := rfl
@[simp] theorem State.setSlice_lastCorr (s : State) (x : Nat) (v : Slice) : (s.setSlice x v).lastCorr = s.lastCorr := rfl
@[simp] theorem State.setSlice_tenants (s : State) (x : Nat) (v : Slice) : (s.setSlice x v).tenants = s.tenants := rfl
@[simp] theorem State.setSlice_frames (s : State) (x : Nat) (v : Slice) : (s.setSlice x v).frames = s.frames := rfl
@[simp] theorem State.setSlice_threads (s : State) (x : Nat) (v : Slice) : (s.setSlice x v).threads = s.threads := rfl
@[simp] theorem State.setSlice_cores (s : State) (x : Nat) (v : Slice) : (s.setSlice x v).cores = s.cores := rfl
@[simp] theorem State.setSlice_dies (s : State) (x : Nat) (v : Slice) : (s.setSlice x v).dies = s.dies := rfl
@[simp] theorem State.setSlice_links (s : State) (x : Nat) (v : Slice) : (s.setSlice x v).links = s.links := rfl
@[simp] theorem State.setSlice_ctxs (s : State) (x : Nat) (v : Slice) : (s.setSlice x v).ctxs = s.ctxs := rfl
@[simp] theorem State.setSlice_parts (s : State) (x : Nat) (v : Slice) : (s.setSlice x v).parts = s.parts := rfl
@[simp] theorem State.setSlice_launches (s : State) (x : Nat) (v : Slice) : (s.setSlice x v).launches = s.launches := rfl
@[simp] theorem State.setSlice_nextLaunch (s : State) (x : Nat) (v : Slice) : (s.setSlice x v).nextLaunch = s.nextLaunch := rfl
@[simp] theorem State.setSlice_reqs (s : State) (x : Nat) (v : Slice) : (s.setSlice x v).reqs = s.reqs := rfl
@[simp] theorem State.setSlice_syncq (s : State) (x : Nat) (v : Slice) : (s.setSlice x v).syncq = s.syncq := rfl
@[simp] theorem State.setSlice_lastWrite (s : State) (x : Nat) (v : Slice) : (s.setSlice x v).lastWrite = s.lastWrite := rfl
@[simp] theorem State.setSlice_waiters (s : State) (x : Nat) (v : Slice) : (s.setSlice x v).waiters = s.waiters := rfl
@[simp] theorem State.setSlice_copies (s : State) (x : Nat) (v : Slice) : (s.setSlice x v).copies = s.copies := rfl
@[simp] theorem State.setSlice_tileCmds (s : State) (x : Nat) (v : Slice) : (s.setSlice x v).tileCmds = s.tileCmds := rfl
@[simp] theorem State.setSlice_packets (s : State) (x : Nat) (v : Slice) : (s.setSlice x v).packets = s.packets := rfl
@[simp] theorem State.setSlice_reductions (s : State) (x : Nat) (v : Slice) : (s.setSlice x v).reductions = s.reductions := rfl
@[simp] theorem State.setSlice_batch (s : State) (x : Nat) (v : Slice) : (s.setSlice x v).batch = s.batch := rfl
@[simp] theorem State.setSlice_hostOut (s : State) (x : Nat) (v : Slice) : (s.setSlice x v).hostOut = s.hostOut := rfl
@[simp] theorem State.setSlice_driverIrq (s : State) (x : Nat) (v : Slice) : (s.setSlice x v).driverIrq = s.driverIrq := rfl
@[simp] theorem State.setSlice_msgSpillBase (s : State) (x : Nat) (v : Slice) : (s.setSlice x v).msgSpillBase = s.msgSpillBase := rfl
@[simp] theorem State.setSlice_eths (s : State) (x : Nat) (v : Slice) : (s.setSlice x v).eths = s.eths := rfl
@[simp] theorem State.setSlice_ethDrops (s : State) (x : Nat) (v : Slice) : (s.setSlice x v).ethDrops = s.ethDrops := rfl
@[simp] theorem State.setSlice_ethOut (s : State) (x : Nat) (v : Slice) : (s.setSlice x v).ethOut = s.ethOut := rfl
@[simp] theorem State.setSlice_fenced (s : State) (x : Nat) (v : Slice) : (s.setSlice x v).fenced = s.fenced := rfl
@[simp] theorem State.setSlice_saved (s : State) (x : Nat) (v : Slice) : (s.setSlice x v).saved = s.saved := rfl
@[simp] theorem State.setSlice_agenda (s : State) (x : Nat) (v : Slice) : (s.setSlice x v).agenda = s.agenda := rfl
@[simp] theorem State.setSlice_pend (s : State) (x : Nat) (v : Slice) : (s.setSlice x v).pend = s.pend := rfl
@[simp] theorem State.setSlice_cur (s : State) (x : Nat) (v : Slice) : (s.setSlice x v).cur = s.cur := rfl
@[simp] theorem State.setSlice_iword (s : State) (x : Nat) (v : Slice) : (s.setSlice x v).iword = s.iword := rfl
@[simp] theorem State.setSlice_free (s : State) (x : Nat) (v : Slice) : (s.setSlice x v).free = s.free := rfl
@[simp] theorem State.setSlice_nextId (s : State) (x : Nat) (v : Slice) : (s.setSlice x v).nextId = s.nextId := rfl
@[simp] theorem State.setSlice_mapped (s : State) (x : Nat) (v : Slice) : (s.setSlice x v).mapped = s.mapped := rfl
@[simp] theorem State.setSlice_heldBack (s : State) (x : Nat) (v : Slice) : (s.setSlice x v).heldBack = s.heldBack := rfl
@[simp] theorem State.setSlice_hostHeld (s : State) (x : Nat) (v : Slice) : (s.setSlice x v).hostHeld = s.hostHeld := rfl
@[simp] theorem State.setSlice_banks (s : State) (x : Nat) (v : Slice) : (s.setSlice x v).banks = s.banks := rfl
@[simp] theorem State.setSlice_bankq (s : State) (x : Nat) (v : Slice) : (s.setSlice x v).bankq = s.bankq := rfl
@[simp] theorem State.setSlice_syncIn (s : State) (x : Nat) (v : Slice) : (s.setSlice x v).syncIn = s.syncIn := rfl
@[simp] theorem State.setSlice_was (s : State) (x : Nat) (v : Slice) : (s.setSlice x v).was = s.was := rfl

/-! ## `setCtx` -/

@[simp] theorem State.setCtx_now (s : State) (c : Nat) (v : Ctx) : (s.setCtx c v).now = s.now := rfl
@[simp] theorem State.setCtx_busStat (s : State) (c : Nat) (v : Ctx) : (s.setCtx c v).busStat = s.busStat := rfl
@[simp] theorem State.setCtx_mem (s : State) (c : Nat) (v : Ctx) : (s.setCtx c v).mem = s.mem := rfl
@[simp] theorem State.setCtx_empty (s : State) (c : Nat) (v : Ctx) : (s.setCtx c v).empty = s.empty := rfl
@[simp] theorem State.setCtx_ecc (s : State) (c : Nat) (v : Ctx) : (s.setCtx c v).ecc = s.ecc := rfl
@[simp] theorem State.setCtx_root (s : State) (c : Nat) (v : Ctx) : (s.setCtx c v).root = s.root := rfl
@[simp] theorem State.setCtx_windows (s : State) (c : Nat) (v : Ctx) : (s.setCtx c v).windows = s.windows := rfl
@[simp] theorem State.setCtx_modnum (s : State) (c : Nat) (v : Ctx) : (s.setCtx c v).modnum = s.modnum := rfl
@[simp] theorem State.setCtx_hapsel (s : State) (c : Nat) (v : Ctx) : (s.setCtx c v).hapsel = s.hapsel := rfl
@[simp] theorem State.setCtx_ftports (s : State) (c : Nat) (v : Ctx) : (s.setCtx c v).ftports = s.ftports := rfl
@[simp] theorem State.setCtx_ptpport (s : State) (c : Nat) (v : Ctx) : (s.setCtx c v).ptpport = s.ptpport := rfl
@[simp] theorem State.setCtx_clockLock (s : State) (c : Nat) (v : Ctx) : (s.setCtx c v).clockLock = s.clockLock := rfl
@[simp] theorem State.setCtx_lastCorr (s : State) (c : Nat) (v : Ctx) : (s.setCtx c v).lastCorr = s.lastCorr := rfl
@[simp] theorem State.setCtx_tenants (s : State) (c : Nat) (v : Ctx) : (s.setCtx c v).tenants = s.tenants := rfl
@[simp] theorem State.setCtx_frames (s : State) (c : Nat) (v : Ctx) : (s.setCtx c v).frames = s.frames := rfl
@[simp] theorem State.setCtx_threads (s : State) (c : Nat) (v : Ctx) : (s.setCtx c v).threads = s.threads := rfl
@[simp] theorem State.setCtx_cores (s : State) (c : Nat) (v : Ctx) : (s.setCtx c v).cores = s.cores := rfl
@[simp] theorem State.setCtx_dies (s : State) (c : Nat) (v : Ctx) : (s.setCtx c v).dies = s.dies := rfl
@[simp] theorem State.setCtx_slices (s : State) (c : Nat) (v : Ctx) : (s.setCtx c v).slices = s.slices := rfl
@[simp] theorem State.setCtx_links (s : State) (c : Nat) (v : Ctx) : (s.setCtx c v).links = s.links := rfl
@[simp] theorem State.setCtx_parts (s : State) (c : Nat) (v : Ctx) : (s.setCtx c v).parts = s.parts := rfl
@[simp] theorem State.setCtx_launches (s : State) (c : Nat) (v : Ctx) : (s.setCtx c v).launches = s.launches := rfl
@[simp] theorem State.setCtx_nextLaunch (s : State) (c : Nat) (v : Ctx) : (s.setCtx c v).nextLaunch = s.nextLaunch := rfl
@[simp] theorem State.setCtx_reqs (s : State) (c : Nat) (v : Ctx) : (s.setCtx c v).reqs = s.reqs := rfl
@[simp] theorem State.setCtx_syncq (s : State) (c : Nat) (v : Ctx) : (s.setCtx c v).syncq = s.syncq := rfl
@[simp] theorem State.setCtx_lastWrite (s : State) (c : Nat) (v : Ctx) : (s.setCtx c v).lastWrite = s.lastWrite := rfl
@[simp] theorem State.setCtx_waiters (s : State) (c : Nat) (v : Ctx) : (s.setCtx c v).waiters = s.waiters := rfl
@[simp] theorem State.setCtx_copies (s : State) (c : Nat) (v : Ctx) : (s.setCtx c v).copies = s.copies := rfl
@[simp] theorem State.setCtx_tileCmds (s : State) (c : Nat) (v : Ctx) : (s.setCtx c v).tileCmds = s.tileCmds := rfl
@[simp] theorem State.setCtx_packets (s : State) (c : Nat) (v : Ctx) : (s.setCtx c v).packets = s.packets := rfl
@[simp] theorem State.setCtx_reductions (s : State) (c : Nat) (v : Ctx) : (s.setCtx c v).reductions = s.reductions := rfl
@[simp] theorem State.setCtx_batch (s : State) (c : Nat) (v : Ctx) : (s.setCtx c v).batch = s.batch := rfl
@[simp] theorem State.setCtx_hostOut (s : State) (c : Nat) (v : Ctx) : (s.setCtx c v).hostOut = s.hostOut := rfl
@[simp] theorem State.setCtx_driverIrq (s : State) (c : Nat) (v : Ctx) : (s.setCtx c v).driverIrq = s.driverIrq := rfl
@[simp] theorem State.setCtx_msgSpillBase (s : State) (c : Nat) (v : Ctx) : (s.setCtx c v).msgSpillBase = s.msgSpillBase := rfl
@[simp] theorem State.setCtx_eths (s : State) (c : Nat) (v : Ctx) : (s.setCtx c v).eths = s.eths := rfl
@[simp] theorem State.setCtx_ethDrops (s : State) (c : Nat) (v : Ctx) : (s.setCtx c v).ethDrops = s.ethDrops := rfl
@[simp] theorem State.setCtx_ethOut (s : State) (c : Nat) (v : Ctx) : (s.setCtx c v).ethOut = s.ethOut := rfl
@[simp] theorem State.setCtx_fenced (s : State) (c : Nat) (v : Ctx) : (s.setCtx c v).fenced = s.fenced := rfl
@[simp] theorem State.setCtx_saved (s : State) (c : Nat) (v : Ctx) : (s.setCtx c v).saved = s.saved := rfl
@[simp] theorem State.setCtx_agenda (s : State) (c : Nat) (v : Ctx) : (s.setCtx c v).agenda = s.agenda := rfl
@[simp] theorem State.setCtx_pend (s : State) (c : Nat) (v : Ctx) : (s.setCtx c v).pend = s.pend := rfl
@[simp] theorem State.setCtx_cur (s : State) (c : Nat) (v : Ctx) : (s.setCtx c v).cur = s.cur := rfl
@[simp] theorem State.setCtx_iword (s : State) (c : Nat) (v : Ctx) : (s.setCtx c v).iword = s.iword := rfl
@[simp] theorem State.setCtx_free (s : State) (c : Nat) (v : Ctx) : (s.setCtx c v).free = s.free := rfl
@[simp] theorem State.setCtx_nextId (s : State) (c : Nat) (v : Ctx) : (s.setCtx c v).nextId = s.nextId := rfl
@[simp] theorem State.setCtx_mapped (s : State) (c : Nat) (v : Ctx) : (s.setCtx c v).mapped = s.mapped := rfl
@[simp] theorem State.setCtx_heldBack (s : State) (c : Nat) (v : Ctx) : (s.setCtx c v).heldBack = s.heldBack := rfl
@[simp] theorem State.setCtx_hostHeld (s : State) (c : Nat) (v : Ctx) : (s.setCtx c v).hostHeld = s.hostHeld := rfl
@[simp] theorem State.setCtx_banks (s : State) (c : Nat) (v : Ctx) : (s.setCtx c v).banks = s.banks := rfl
@[simp] theorem State.setCtx_bankq (s : State) (c : Nat) (v : Ctx) : (s.setCtx c v).bankq = s.bankq := rfl
@[simp] theorem State.setCtx_syncIn (s : State) (c : Nat) (v : Ctx) : (s.setCtx c v).syncIn = s.syncIn := rfl
@[simp] theorem State.setCtx_was (s : State) (c : Nat) (v : Ctx) : (s.setCtx c v).was = s.was := rfl

/-! ## `updThread` -/

@[simp] theorem State.updThread_now (s : State) (t : Nat) (f : Thread → Thread) : (s.updThread t f).now = s.now := rfl
@[simp] theorem State.updThread_busStat (s : State) (t : Nat) (f : Thread → Thread) : (s.updThread t f).busStat = s.busStat := rfl
@[simp] theorem State.updThread_mem (s : State) (t : Nat) (f : Thread → Thread) : (s.updThread t f).mem = s.mem := rfl
@[simp] theorem State.updThread_empty (s : State) (t : Nat) (f : Thread → Thread) : (s.updThread t f).empty = s.empty := rfl
@[simp] theorem State.updThread_ecc (s : State) (t : Nat) (f : Thread → Thread) : (s.updThread t f).ecc = s.ecc := rfl
@[simp] theorem State.updThread_root (s : State) (t : Nat) (f : Thread → Thread) : (s.updThread t f).root = s.root := rfl
@[simp] theorem State.updThread_windows (s : State) (t : Nat) (f : Thread → Thread) : (s.updThread t f).windows = s.windows := rfl
@[simp] theorem State.updThread_modnum (s : State) (t : Nat) (f : Thread → Thread) : (s.updThread t f).modnum = s.modnum := rfl
@[simp] theorem State.updThread_hapsel (s : State) (t : Nat) (f : Thread → Thread) : (s.updThread t f).hapsel = s.hapsel := rfl
@[simp] theorem State.updThread_ftports (s : State) (t : Nat) (f : Thread → Thread) : (s.updThread t f).ftports = s.ftports := rfl
@[simp] theorem State.updThread_ptpport (s : State) (t : Nat) (f : Thread → Thread) : (s.updThread t f).ptpport = s.ptpport := rfl
@[simp] theorem State.updThread_clockLock (s : State) (t : Nat) (f : Thread → Thread) : (s.updThread t f).clockLock = s.clockLock := rfl
@[simp] theorem State.updThread_lastCorr (s : State) (t : Nat) (f : Thread → Thread) : (s.updThread t f).lastCorr = s.lastCorr := rfl
@[simp] theorem State.updThread_tenants (s : State) (t : Nat) (f : Thread → Thread) : (s.updThread t f).tenants = s.tenants := rfl
@[simp] theorem State.updThread_frames (s : State) (t : Nat) (f : Thread → Thread) : (s.updThread t f).frames = s.frames := rfl
@[simp] theorem State.updThread_cores (s : State) (t : Nat) (f : Thread → Thread) : (s.updThread t f).cores = s.cores := rfl
@[simp] theorem State.updThread_dies (s : State) (t : Nat) (f : Thread → Thread) : (s.updThread t f).dies = s.dies := rfl
@[simp] theorem State.updThread_slices (s : State) (t : Nat) (f : Thread → Thread) : (s.updThread t f).slices = s.slices := rfl
@[simp] theorem State.updThread_links (s : State) (t : Nat) (f : Thread → Thread) : (s.updThread t f).links = s.links := rfl
@[simp] theorem State.updThread_ctxs (s : State) (t : Nat) (f : Thread → Thread) : (s.updThread t f).ctxs = s.ctxs := rfl
@[simp] theorem State.updThread_parts (s : State) (t : Nat) (f : Thread → Thread) : (s.updThread t f).parts = s.parts := rfl
@[simp] theorem State.updThread_launches (s : State) (t : Nat) (f : Thread → Thread) : (s.updThread t f).launches = s.launches := rfl
@[simp] theorem State.updThread_nextLaunch (s : State) (t : Nat) (f : Thread → Thread) : (s.updThread t f).nextLaunch = s.nextLaunch := rfl
@[simp] theorem State.updThread_reqs (s : State) (t : Nat) (f : Thread → Thread) : (s.updThread t f).reqs = s.reqs := rfl
@[simp] theorem State.updThread_syncq (s : State) (t : Nat) (f : Thread → Thread) : (s.updThread t f).syncq = s.syncq := rfl
@[simp] theorem State.updThread_lastWrite (s : State) (t : Nat) (f : Thread → Thread) : (s.updThread t f).lastWrite = s.lastWrite := rfl
@[simp] theorem State.updThread_waiters (s : State) (t : Nat) (f : Thread → Thread) : (s.updThread t f).waiters = s.waiters := rfl
@[simp] theorem State.updThread_copies (s : State) (t : Nat) (f : Thread → Thread) : (s.updThread t f).copies = s.copies := rfl
@[simp] theorem State.updThread_tileCmds (s : State) (t : Nat) (f : Thread → Thread) : (s.updThread t f).tileCmds = s.tileCmds := rfl
@[simp] theorem State.updThread_packets (s : State) (t : Nat) (f : Thread → Thread) : (s.updThread t f).packets = s.packets := rfl
@[simp] theorem State.updThread_reductions (s : State) (t : Nat) (f : Thread → Thread) : (s.updThread t f).reductions = s.reductions := rfl
@[simp] theorem State.updThread_batch (s : State) (t : Nat) (f : Thread → Thread) : (s.updThread t f).batch = s.batch := rfl
@[simp] theorem State.updThread_hostOut (s : State) (t : Nat) (f : Thread → Thread) : (s.updThread t f).hostOut = s.hostOut := rfl
@[simp] theorem State.updThread_driverIrq (s : State) (t : Nat) (f : Thread → Thread) : (s.updThread t f).driverIrq = s.driverIrq := rfl
@[simp] theorem State.updThread_msgSpillBase (s : State) (t : Nat) (f : Thread → Thread) : (s.updThread t f).msgSpillBase = s.msgSpillBase := rfl
@[simp] theorem State.updThread_eths (s : State) (t : Nat) (f : Thread → Thread) : (s.updThread t f).eths = s.eths := rfl
@[simp] theorem State.updThread_ethDrops (s : State) (t : Nat) (f : Thread → Thread) : (s.updThread t f).ethDrops = s.ethDrops := rfl
@[simp] theorem State.updThread_ethOut (s : State) (t : Nat) (f : Thread → Thread) : (s.updThread t f).ethOut = s.ethOut := rfl
@[simp] theorem State.updThread_fenced (s : State) (t : Nat) (f : Thread → Thread) : (s.updThread t f).fenced = s.fenced := rfl
@[simp] theorem State.updThread_saved (s : State) (t : Nat) (f : Thread → Thread) : (s.updThread t f).saved = s.saved := rfl
@[simp] theorem State.updThread_agenda (s : State) (t : Nat) (f : Thread → Thread) : (s.updThread t f).agenda = s.agenda := rfl
@[simp] theorem State.updThread_pend (s : State) (t : Nat) (f : Thread → Thread) : (s.updThread t f).pend = s.pend := rfl
@[simp] theorem State.updThread_cur (s : State) (t : Nat) (f : Thread → Thread) : (s.updThread t f).cur = s.cur := rfl
@[simp] theorem State.updThread_iword (s : State) (t : Nat) (f : Thread → Thread) : (s.updThread t f).iword = s.iword := rfl
@[simp] theorem State.updThread_free (s : State) (t : Nat) (f : Thread → Thread) : (s.updThread t f).free = s.free := rfl
@[simp] theorem State.updThread_nextId (s : State) (t : Nat) (f : Thread → Thread) : (s.updThread t f).nextId = s.nextId := rfl
@[simp] theorem State.updThread_mapped (s : State) (t : Nat) (f : Thread → Thread) : (s.updThread t f).mapped = s.mapped := rfl
@[simp] theorem State.updThread_heldBack (s : State) (t : Nat) (f : Thread → Thread) : (s.updThread t f).heldBack = s.heldBack := rfl
@[simp] theorem State.updThread_hostHeld (s : State) (t : Nat) (f : Thread → Thread) : (s.updThread t f).hostHeld = s.hostHeld := rfl
@[simp] theorem State.updThread_banks (s : State) (t : Nat) (f : Thread → Thread) : (s.updThread t f).banks = s.banks := rfl
@[simp] theorem State.updThread_bankq (s : State) (t : Nat) (f : Thread → Thread) : (s.updThread t f).bankq = s.bankq := rfl
@[simp] theorem State.updThread_syncIn (s : State) (t : Nat) (f : Thread → Thread) : (s.updThread t f).syncIn = s.syncIn := rfl
@[simp] theorem State.updThread_was (s : State) (t : Nat) (f : Thread → Thread) : (s.updThread t f).was = s.was := rfl

/-! ## `updCore` -/

@[simp] theorem State.updCore_now (s : State) (c : Nat) (f : Core → Core) : (s.updCore c f).now = s.now := rfl
@[simp] theorem State.updCore_busStat (s : State) (c : Nat) (f : Core → Core) : (s.updCore c f).busStat = s.busStat := rfl
@[simp] theorem State.updCore_mem (s : State) (c : Nat) (f : Core → Core) : (s.updCore c f).mem = s.mem := rfl
@[simp] theorem State.updCore_empty (s : State) (c : Nat) (f : Core → Core) : (s.updCore c f).empty = s.empty := rfl
@[simp] theorem State.updCore_ecc (s : State) (c : Nat) (f : Core → Core) : (s.updCore c f).ecc = s.ecc := rfl
@[simp] theorem State.updCore_root (s : State) (c : Nat) (f : Core → Core) : (s.updCore c f).root = s.root := rfl
@[simp] theorem State.updCore_windows (s : State) (c : Nat) (f : Core → Core) : (s.updCore c f).windows = s.windows := rfl
@[simp] theorem State.updCore_modnum (s : State) (c : Nat) (f : Core → Core) : (s.updCore c f).modnum = s.modnum := rfl
@[simp] theorem State.updCore_hapsel (s : State) (c : Nat) (f : Core → Core) : (s.updCore c f).hapsel = s.hapsel := rfl
@[simp] theorem State.updCore_ftports (s : State) (c : Nat) (f : Core → Core) : (s.updCore c f).ftports = s.ftports := rfl
@[simp] theorem State.updCore_ptpport (s : State) (c : Nat) (f : Core → Core) : (s.updCore c f).ptpport = s.ptpport := rfl
@[simp] theorem State.updCore_clockLock (s : State) (c : Nat) (f : Core → Core) : (s.updCore c f).clockLock = s.clockLock := rfl
@[simp] theorem State.updCore_lastCorr (s : State) (c : Nat) (f : Core → Core) : (s.updCore c f).lastCorr = s.lastCorr := rfl
@[simp] theorem State.updCore_tenants (s : State) (c : Nat) (f : Core → Core) : (s.updCore c f).tenants = s.tenants := rfl
@[simp] theorem State.updCore_frames (s : State) (c : Nat) (f : Core → Core) : (s.updCore c f).frames = s.frames := rfl
@[simp] theorem State.updCore_threads (s : State) (c : Nat) (f : Core → Core) : (s.updCore c f).threads = s.threads := rfl
@[simp] theorem State.updCore_dies (s : State) (c : Nat) (f : Core → Core) : (s.updCore c f).dies = s.dies := rfl
@[simp] theorem State.updCore_slices (s : State) (c : Nat) (f : Core → Core) : (s.updCore c f).slices = s.slices := rfl
@[simp] theorem State.updCore_links (s : State) (c : Nat) (f : Core → Core) : (s.updCore c f).links = s.links := rfl
@[simp] theorem State.updCore_ctxs (s : State) (c : Nat) (f : Core → Core) : (s.updCore c f).ctxs = s.ctxs := rfl
@[simp] theorem State.updCore_parts (s : State) (c : Nat) (f : Core → Core) : (s.updCore c f).parts = s.parts := rfl
@[simp] theorem State.updCore_launches (s : State) (c : Nat) (f : Core → Core) : (s.updCore c f).launches = s.launches := rfl
@[simp] theorem State.updCore_nextLaunch (s : State) (c : Nat) (f : Core → Core) : (s.updCore c f).nextLaunch = s.nextLaunch := rfl
@[simp] theorem State.updCore_reqs (s : State) (c : Nat) (f : Core → Core) : (s.updCore c f).reqs = s.reqs := rfl
@[simp] theorem State.updCore_syncq (s : State) (c : Nat) (f : Core → Core) : (s.updCore c f).syncq = s.syncq := rfl
@[simp] theorem State.updCore_lastWrite (s : State) (c : Nat) (f : Core → Core) : (s.updCore c f).lastWrite = s.lastWrite := rfl
@[simp] theorem State.updCore_waiters (s : State) (c : Nat) (f : Core → Core) : (s.updCore c f).waiters = s.waiters := rfl
@[simp] theorem State.updCore_copies (s : State) (c : Nat) (f : Core → Core) : (s.updCore c f).copies = s.copies := rfl
@[simp] theorem State.updCore_tileCmds (s : State) (c : Nat) (f : Core → Core) : (s.updCore c f).tileCmds = s.tileCmds := rfl
@[simp] theorem State.updCore_packets (s : State) (c : Nat) (f : Core → Core) : (s.updCore c f).packets = s.packets := rfl
@[simp] theorem State.updCore_reductions (s : State) (c : Nat) (f : Core → Core) : (s.updCore c f).reductions = s.reductions := rfl
@[simp] theorem State.updCore_batch (s : State) (c : Nat) (f : Core → Core) : (s.updCore c f).batch = s.batch := rfl
@[simp] theorem State.updCore_hostOut (s : State) (c : Nat) (f : Core → Core) : (s.updCore c f).hostOut = s.hostOut := rfl
@[simp] theorem State.updCore_driverIrq (s : State) (c : Nat) (f : Core → Core) : (s.updCore c f).driverIrq = s.driverIrq := rfl
@[simp] theorem State.updCore_msgSpillBase (s : State) (c : Nat) (f : Core → Core) : (s.updCore c f).msgSpillBase = s.msgSpillBase := rfl
@[simp] theorem State.updCore_eths (s : State) (c : Nat) (f : Core → Core) : (s.updCore c f).eths = s.eths := rfl
@[simp] theorem State.updCore_ethDrops (s : State) (c : Nat) (f : Core → Core) : (s.updCore c f).ethDrops = s.ethDrops := rfl
@[simp] theorem State.updCore_ethOut (s : State) (c : Nat) (f : Core → Core) : (s.updCore c f).ethOut = s.ethOut := rfl
@[simp] theorem State.updCore_fenced (s : State) (c : Nat) (f : Core → Core) : (s.updCore c f).fenced = s.fenced := rfl
@[simp] theorem State.updCore_saved (s : State) (c : Nat) (f : Core → Core) : (s.updCore c f).saved = s.saved := rfl
@[simp] theorem State.updCore_agenda (s : State) (c : Nat) (f : Core → Core) : (s.updCore c f).agenda = s.agenda := rfl
@[simp] theorem State.updCore_pend (s : State) (c : Nat) (f : Core → Core) : (s.updCore c f).pend = s.pend := rfl
@[simp] theorem State.updCore_cur (s : State) (c : Nat) (f : Core → Core) : (s.updCore c f).cur = s.cur := rfl
@[simp] theorem State.updCore_iword (s : State) (c : Nat) (f : Core → Core) : (s.updCore c f).iword = s.iword := rfl
@[simp] theorem State.updCore_free (s : State) (c : Nat) (f : Core → Core) : (s.updCore c f).free = s.free := rfl
@[simp] theorem State.updCore_nextId (s : State) (c : Nat) (f : Core → Core) : (s.updCore c f).nextId = s.nextId := rfl
@[simp] theorem State.updCore_mapped (s : State) (c : Nat) (f : Core → Core) : (s.updCore c f).mapped = s.mapped := rfl
@[simp] theorem State.updCore_heldBack (s : State) (c : Nat) (f : Core → Core) : (s.updCore c f).heldBack = s.heldBack := rfl
@[simp] theorem State.updCore_hostHeld (s : State) (c : Nat) (f : Core → Core) : (s.updCore c f).hostHeld = s.hostHeld := rfl
@[simp] theorem State.updCore_banks (s : State) (c : Nat) (f : Core → Core) : (s.updCore c f).banks = s.banks := rfl
@[simp] theorem State.updCore_bankq (s : State) (c : Nat) (f : Core → Core) : (s.updCore c f).bankq = s.bankq := rfl
@[simp] theorem State.updCore_syncIn (s : State) (c : Nat) (f : Core → Core) : (s.updCore c f).syncIn = s.syncIn := rfl
@[simp] theorem State.updCore_was (s : State) (c : Nat) (f : Core → Core) : (s.updCore c f).was = s.was := rfl

/-! ## `updDie` -/

@[simp] theorem State.updDie_now (s : State) (d : Nat) (f : Die → Die) : (s.updDie d f).now = s.now := rfl
@[simp] theorem State.updDie_busStat (s : State) (d : Nat) (f : Die → Die) : (s.updDie d f).busStat = s.busStat := rfl
@[simp] theorem State.updDie_mem (s : State) (d : Nat) (f : Die → Die) : (s.updDie d f).mem = s.mem := rfl
@[simp] theorem State.updDie_empty (s : State) (d : Nat) (f : Die → Die) : (s.updDie d f).empty = s.empty := rfl
@[simp] theorem State.updDie_ecc (s : State) (d : Nat) (f : Die → Die) : (s.updDie d f).ecc = s.ecc := rfl
@[simp] theorem State.updDie_root (s : State) (d : Nat) (f : Die → Die) : (s.updDie d f).root = s.root := rfl
@[simp] theorem State.updDie_windows (s : State) (d : Nat) (f : Die → Die) : (s.updDie d f).windows = s.windows := rfl
@[simp] theorem State.updDie_modnum (s : State) (d : Nat) (f : Die → Die) : (s.updDie d f).modnum = s.modnum := rfl
@[simp] theorem State.updDie_hapsel (s : State) (d : Nat) (f : Die → Die) : (s.updDie d f).hapsel = s.hapsel := rfl
@[simp] theorem State.updDie_ftports (s : State) (d : Nat) (f : Die → Die) : (s.updDie d f).ftports = s.ftports := rfl
@[simp] theorem State.updDie_ptpport (s : State) (d : Nat) (f : Die → Die) : (s.updDie d f).ptpport = s.ptpport := rfl
@[simp] theorem State.updDie_clockLock (s : State) (d : Nat) (f : Die → Die) : (s.updDie d f).clockLock = s.clockLock := rfl
@[simp] theorem State.updDie_lastCorr (s : State) (d : Nat) (f : Die → Die) : (s.updDie d f).lastCorr = s.lastCorr := rfl
@[simp] theorem State.updDie_tenants (s : State) (d : Nat) (f : Die → Die) : (s.updDie d f).tenants = s.tenants := rfl
@[simp] theorem State.updDie_frames (s : State) (d : Nat) (f : Die → Die) : (s.updDie d f).frames = s.frames := rfl
@[simp] theorem State.updDie_threads (s : State) (d : Nat) (f : Die → Die) : (s.updDie d f).threads = s.threads := rfl
@[simp] theorem State.updDie_cores (s : State) (d : Nat) (f : Die → Die) : (s.updDie d f).cores = s.cores := rfl
@[simp] theorem State.updDie_slices (s : State) (d : Nat) (f : Die → Die) : (s.updDie d f).slices = s.slices := rfl
@[simp] theorem State.updDie_links (s : State) (d : Nat) (f : Die → Die) : (s.updDie d f).links = s.links := rfl
@[simp] theorem State.updDie_ctxs (s : State) (d : Nat) (f : Die → Die) : (s.updDie d f).ctxs = s.ctxs := rfl
@[simp] theorem State.updDie_parts (s : State) (d : Nat) (f : Die → Die) : (s.updDie d f).parts = s.parts := rfl
@[simp] theorem State.updDie_launches (s : State) (d : Nat) (f : Die → Die) : (s.updDie d f).launches = s.launches := rfl
@[simp] theorem State.updDie_nextLaunch (s : State) (d : Nat) (f : Die → Die) : (s.updDie d f).nextLaunch = s.nextLaunch := rfl
@[simp] theorem State.updDie_reqs (s : State) (d : Nat) (f : Die → Die) : (s.updDie d f).reqs = s.reqs := rfl
@[simp] theorem State.updDie_syncq (s : State) (d : Nat) (f : Die → Die) : (s.updDie d f).syncq = s.syncq := rfl
@[simp] theorem State.updDie_lastWrite (s : State) (d : Nat) (f : Die → Die) : (s.updDie d f).lastWrite = s.lastWrite := rfl
@[simp] theorem State.updDie_waiters (s : State) (d : Nat) (f : Die → Die) : (s.updDie d f).waiters = s.waiters := rfl
@[simp] theorem State.updDie_copies (s : State) (d : Nat) (f : Die → Die) : (s.updDie d f).copies = s.copies := rfl
@[simp] theorem State.updDie_tileCmds (s : State) (d : Nat) (f : Die → Die) : (s.updDie d f).tileCmds = s.tileCmds := rfl
@[simp] theorem State.updDie_packets (s : State) (d : Nat) (f : Die → Die) : (s.updDie d f).packets = s.packets := rfl
@[simp] theorem State.updDie_reductions (s : State) (d : Nat) (f : Die → Die) : (s.updDie d f).reductions = s.reductions := rfl
@[simp] theorem State.updDie_batch (s : State) (d : Nat) (f : Die → Die) : (s.updDie d f).batch = s.batch := rfl
@[simp] theorem State.updDie_hostOut (s : State) (d : Nat) (f : Die → Die) : (s.updDie d f).hostOut = s.hostOut := rfl
@[simp] theorem State.updDie_driverIrq (s : State) (d : Nat) (f : Die → Die) : (s.updDie d f).driverIrq = s.driverIrq := rfl
@[simp] theorem State.updDie_msgSpillBase (s : State) (d : Nat) (f : Die → Die) : (s.updDie d f).msgSpillBase = s.msgSpillBase := rfl
@[simp] theorem State.updDie_eths (s : State) (d : Nat) (f : Die → Die) : (s.updDie d f).eths = s.eths := rfl
@[simp] theorem State.updDie_ethDrops (s : State) (d : Nat) (f : Die → Die) : (s.updDie d f).ethDrops = s.ethDrops := rfl
@[simp] theorem State.updDie_ethOut (s : State) (d : Nat) (f : Die → Die) : (s.updDie d f).ethOut = s.ethOut := rfl
@[simp] theorem State.updDie_fenced (s : State) (d : Nat) (f : Die → Die) : (s.updDie d f).fenced = s.fenced := rfl
@[simp] theorem State.updDie_saved (s : State) (d : Nat) (f : Die → Die) : (s.updDie d f).saved = s.saved := rfl
@[simp] theorem State.updDie_agenda (s : State) (d : Nat) (f : Die → Die) : (s.updDie d f).agenda = s.agenda := rfl
@[simp] theorem State.updDie_pend (s : State) (d : Nat) (f : Die → Die) : (s.updDie d f).pend = s.pend := rfl
@[simp] theorem State.updDie_cur (s : State) (d : Nat) (f : Die → Die) : (s.updDie d f).cur = s.cur := rfl
@[simp] theorem State.updDie_iword (s : State) (d : Nat) (f : Die → Die) : (s.updDie d f).iword = s.iword := rfl
@[simp] theorem State.updDie_free (s : State) (d : Nat) (f : Die → Die) : (s.updDie d f).free = s.free := rfl
@[simp] theorem State.updDie_nextId (s : State) (d : Nat) (f : Die → Die) : (s.updDie d f).nextId = s.nextId := rfl
@[simp] theorem State.updDie_mapped (s : State) (d : Nat) (f : Die → Die) : (s.updDie d f).mapped = s.mapped := rfl
@[simp] theorem State.updDie_heldBack (s : State) (d : Nat) (f : Die → Die) : (s.updDie d f).heldBack = s.heldBack := rfl
@[simp] theorem State.updDie_hostHeld (s : State) (d : Nat) (f : Die → Die) : (s.updDie d f).hostHeld = s.hostHeld := rfl
@[simp] theorem State.updDie_banks (s : State) (d : Nat) (f : Die → Die) : (s.updDie d f).banks = s.banks := rfl
@[simp] theorem State.updDie_bankq (s : State) (d : Nat) (f : Die → Die) : (s.updDie d f).bankq = s.bankq := rfl
@[simp] theorem State.updDie_syncIn (s : State) (d : Nat) (f : Die → Die) : (s.updDie d f).syncIn = s.syncIn := rfl
@[simp] theorem State.updDie_was (s : State) (d : Nat) (f : Die → Die) : (s.updDie d f).was = s.was := rfl

/-! ## `updSlice` -/

@[simp] theorem State.updSlice_now (s : State) (x : Nat) (f : Slice → Slice) : (s.updSlice x f).now = s.now := rfl
@[simp] theorem State.updSlice_busStat (s : State) (x : Nat) (f : Slice → Slice) : (s.updSlice x f).busStat = s.busStat := rfl
@[simp] theorem State.updSlice_mem (s : State) (x : Nat) (f : Slice → Slice) : (s.updSlice x f).mem = s.mem := rfl
@[simp] theorem State.updSlice_empty (s : State) (x : Nat) (f : Slice → Slice) : (s.updSlice x f).empty = s.empty := rfl
@[simp] theorem State.updSlice_ecc (s : State) (x : Nat) (f : Slice → Slice) : (s.updSlice x f).ecc = s.ecc := rfl
@[simp] theorem State.updSlice_root (s : State) (x : Nat) (f : Slice → Slice) : (s.updSlice x f).root = s.root := rfl
@[simp] theorem State.updSlice_windows (s : State) (x : Nat) (f : Slice → Slice) : (s.updSlice x f).windows = s.windows := rfl
@[simp] theorem State.updSlice_modnum (s : State) (x : Nat) (f : Slice → Slice) : (s.updSlice x f).modnum = s.modnum := rfl
@[simp] theorem State.updSlice_hapsel (s : State) (x : Nat) (f : Slice → Slice) : (s.updSlice x f).hapsel = s.hapsel := rfl
@[simp] theorem State.updSlice_ftports (s : State) (x : Nat) (f : Slice → Slice) : (s.updSlice x f).ftports = s.ftports := rfl
@[simp] theorem State.updSlice_ptpport (s : State) (x : Nat) (f : Slice → Slice) : (s.updSlice x f).ptpport = s.ptpport := rfl
@[simp] theorem State.updSlice_clockLock (s : State) (x : Nat) (f : Slice → Slice) : (s.updSlice x f).clockLock = s.clockLock := rfl
@[simp] theorem State.updSlice_lastCorr (s : State) (x : Nat) (f : Slice → Slice) : (s.updSlice x f).lastCorr = s.lastCorr := rfl
@[simp] theorem State.updSlice_tenants (s : State) (x : Nat) (f : Slice → Slice) : (s.updSlice x f).tenants = s.tenants := rfl
@[simp] theorem State.updSlice_frames (s : State) (x : Nat) (f : Slice → Slice) : (s.updSlice x f).frames = s.frames := rfl
@[simp] theorem State.updSlice_threads (s : State) (x : Nat) (f : Slice → Slice) : (s.updSlice x f).threads = s.threads := rfl
@[simp] theorem State.updSlice_cores (s : State) (x : Nat) (f : Slice → Slice) : (s.updSlice x f).cores = s.cores := rfl
@[simp] theorem State.updSlice_dies (s : State) (x : Nat) (f : Slice → Slice) : (s.updSlice x f).dies = s.dies := rfl
@[simp] theorem State.updSlice_links (s : State) (x : Nat) (f : Slice → Slice) : (s.updSlice x f).links = s.links := rfl
@[simp] theorem State.updSlice_ctxs (s : State) (x : Nat) (f : Slice → Slice) : (s.updSlice x f).ctxs = s.ctxs := rfl
@[simp] theorem State.updSlice_parts (s : State) (x : Nat) (f : Slice → Slice) : (s.updSlice x f).parts = s.parts := rfl
@[simp] theorem State.updSlice_launches (s : State) (x : Nat) (f : Slice → Slice) : (s.updSlice x f).launches = s.launches := rfl
@[simp] theorem State.updSlice_nextLaunch (s : State) (x : Nat) (f : Slice → Slice) : (s.updSlice x f).nextLaunch = s.nextLaunch := rfl
@[simp] theorem State.updSlice_reqs (s : State) (x : Nat) (f : Slice → Slice) : (s.updSlice x f).reqs = s.reqs := rfl
@[simp] theorem State.updSlice_syncq (s : State) (x : Nat) (f : Slice → Slice) : (s.updSlice x f).syncq = s.syncq := rfl
@[simp] theorem State.updSlice_lastWrite (s : State) (x : Nat) (f : Slice → Slice) : (s.updSlice x f).lastWrite = s.lastWrite := rfl
@[simp] theorem State.updSlice_waiters (s : State) (x : Nat) (f : Slice → Slice) : (s.updSlice x f).waiters = s.waiters := rfl
@[simp] theorem State.updSlice_copies (s : State) (x : Nat) (f : Slice → Slice) : (s.updSlice x f).copies = s.copies := rfl
@[simp] theorem State.updSlice_tileCmds (s : State) (x : Nat) (f : Slice → Slice) : (s.updSlice x f).tileCmds = s.tileCmds := rfl
@[simp] theorem State.updSlice_packets (s : State) (x : Nat) (f : Slice → Slice) : (s.updSlice x f).packets = s.packets := rfl
@[simp] theorem State.updSlice_reductions (s : State) (x : Nat) (f : Slice → Slice) : (s.updSlice x f).reductions = s.reductions := rfl
@[simp] theorem State.updSlice_batch (s : State) (x : Nat) (f : Slice → Slice) : (s.updSlice x f).batch = s.batch := rfl
@[simp] theorem State.updSlice_hostOut (s : State) (x : Nat) (f : Slice → Slice) : (s.updSlice x f).hostOut = s.hostOut := rfl
@[simp] theorem State.updSlice_driverIrq (s : State) (x : Nat) (f : Slice → Slice) : (s.updSlice x f).driverIrq = s.driverIrq := rfl
@[simp] theorem State.updSlice_msgSpillBase (s : State) (x : Nat) (f : Slice → Slice) : (s.updSlice x f).msgSpillBase = s.msgSpillBase := rfl
@[simp] theorem State.updSlice_eths (s : State) (x : Nat) (f : Slice → Slice) : (s.updSlice x f).eths = s.eths := rfl
@[simp] theorem State.updSlice_ethDrops (s : State) (x : Nat) (f : Slice → Slice) : (s.updSlice x f).ethDrops = s.ethDrops := rfl
@[simp] theorem State.updSlice_ethOut (s : State) (x : Nat) (f : Slice → Slice) : (s.updSlice x f).ethOut = s.ethOut := rfl
@[simp] theorem State.updSlice_fenced (s : State) (x : Nat) (f : Slice → Slice) : (s.updSlice x f).fenced = s.fenced := rfl
@[simp] theorem State.updSlice_saved (s : State) (x : Nat) (f : Slice → Slice) : (s.updSlice x f).saved = s.saved := rfl
@[simp] theorem State.updSlice_agenda (s : State) (x : Nat) (f : Slice → Slice) : (s.updSlice x f).agenda = s.agenda := rfl
@[simp] theorem State.updSlice_pend (s : State) (x : Nat) (f : Slice → Slice) : (s.updSlice x f).pend = s.pend := rfl
@[simp] theorem State.updSlice_cur (s : State) (x : Nat) (f : Slice → Slice) : (s.updSlice x f).cur = s.cur := rfl
@[simp] theorem State.updSlice_iword (s : State) (x : Nat) (f : Slice → Slice) : (s.updSlice x f).iword = s.iword := rfl
@[simp] theorem State.updSlice_free (s : State) (x : Nat) (f : Slice → Slice) : (s.updSlice x f).free = s.free := rfl
@[simp] theorem State.updSlice_nextId (s : State) (x : Nat) (f : Slice → Slice) : (s.updSlice x f).nextId = s.nextId := rfl
@[simp] theorem State.updSlice_mapped (s : State) (x : Nat) (f : Slice → Slice) : (s.updSlice x f).mapped = s.mapped := rfl
@[simp] theorem State.updSlice_heldBack (s : State) (x : Nat) (f : Slice → Slice) : (s.updSlice x f).heldBack = s.heldBack := rfl
@[simp] theorem State.updSlice_hostHeld (s : State) (x : Nat) (f : Slice → Slice) : (s.updSlice x f).hostHeld = s.hostHeld := rfl
@[simp] theorem State.updSlice_banks (s : State) (x : Nat) (f : Slice → Slice) : (s.updSlice x f).banks = s.banks := rfl
@[simp] theorem State.updSlice_bankq (s : State) (x : Nat) (f : Slice → Slice) : (s.updSlice x f).bankq = s.bankq := rfl
@[simp] theorem State.updSlice_syncIn (s : State) (x : Nat) (f : Slice → Slice) : (s.updSlice x f).syncIn = s.syncIn := rfl
@[simp] theorem State.updSlice_was (s : State) (x : Nat) (f : Slice → Slice) : (s.updSlice x f).was = s.was := rfl

/-! ## `updCtx` -/

@[simp] theorem State.updCtx_now (s : State) (c : Nat) (f : Ctx → Ctx) : (s.updCtx c f).now = s.now := rfl
@[simp] theorem State.updCtx_busStat (s : State) (c : Nat) (f : Ctx → Ctx) : (s.updCtx c f).busStat = s.busStat := rfl
@[simp] theorem State.updCtx_mem (s : State) (c : Nat) (f : Ctx → Ctx) : (s.updCtx c f).mem = s.mem := rfl
@[simp] theorem State.updCtx_empty (s : State) (c : Nat) (f : Ctx → Ctx) : (s.updCtx c f).empty = s.empty := rfl
@[simp] theorem State.updCtx_ecc (s : State) (c : Nat) (f : Ctx → Ctx) : (s.updCtx c f).ecc = s.ecc := rfl
@[simp] theorem State.updCtx_root (s : State) (c : Nat) (f : Ctx → Ctx) : (s.updCtx c f).root = s.root := rfl
@[simp] theorem State.updCtx_windows (s : State) (c : Nat) (f : Ctx → Ctx) : (s.updCtx c f).windows = s.windows := rfl
@[simp] theorem State.updCtx_modnum (s : State) (c : Nat) (f : Ctx → Ctx) : (s.updCtx c f).modnum = s.modnum := rfl
@[simp] theorem State.updCtx_hapsel (s : State) (c : Nat) (f : Ctx → Ctx) : (s.updCtx c f).hapsel = s.hapsel := rfl
@[simp] theorem State.updCtx_ftports (s : State) (c : Nat) (f : Ctx → Ctx) : (s.updCtx c f).ftports = s.ftports := rfl
@[simp] theorem State.updCtx_ptpport (s : State) (c : Nat) (f : Ctx → Ctx) : (s.updCtx c f).ptpport = s.ptpport := rfl
@[simp] theorem State.updCtx_clockLock (s : State) (c : Nat) (f : Ctx → Ctx) : (s.updCtx c f).clockLock = s.clockLock := rfl
@[simp] theorem State.updCtx_lastCorr (s : State) (c : Nat) (f : Ctx → Ctx) : (s.updCtx c f).lastCorr = s.lastCorr := rfl
@[simp] theorem State.updCtx_tenants (s : State) (c : Nat) (f : Ctx → Ctx) : (s.updCtx c f).tenants = s.tenants := rfl
@[simp] theorem State.updCtx_frames (s : State) (c : Nat) (f : Ctx → Ctx) : (s.updCtx c f).frames = s.frames := rfl
@[simp] theorem State.updCtx_threads (s : State) (c : Nat) (f : Ctx → Ctx) : (s.updCtx c f).threads = s.threads := rfl
@[simp] theorem State.updCtx_cores (s : State) (c : Nat) (f : Ctx → Ctx) : (s.updCtx c f).cores = s.cores := rfl
@[simp] theorem State.updCtx_dies (s : State) (c : Nat) (f : Ctx → Ctx) : (s.updCtx c f).dies = s.dies := rfl
@[simp] theorem State.updCtx_slices (s : State) (c : Nat) (f : Ctx → Ctx) : (s.updCtx c f).slices = s.slices := rfl
@[simp] theorem State.updCtx_links (s : State) (c : Nat) (f : Ctx → Ctx) : (s.updCtx c f).links = s.links := rfl
@[simp] theorem State.updCtx_parts (s : State) (c : Nat) (f : Ctx → Ctx) : (s.updCtx c f).parts = s.parts := rfl
@[simp] theorem State.updCtx_launches (s : State) (c : Nat) (f : Ctx → Ctx) : (s.updCtx c f).launches = s.launches := rfl
@[simp] theorem State.updCtx_nextLaunch (s : State) (c : Nat) (f : Ctx → Ctx) : (s.updCtx c f).nextLaunch = s.nextLaunch := rfl
@[simp] theorem State.updCtx_reqs (s : State) (c : Nat) (f : Ctx → Ctx) : (s.updCtx c f).reqs = s.reqs := rfl
@[simp] theorem State.updCtx_syncq (s : State) (c : Nat) (f : Ctx → Ctx) : (s.updCtx c f).syncq = s.syncq := rfl
@[simp] theorem State.updCtx_lastWrite (s : State) (c : Nat) (f : Ctx → Ctx) : (s.updCtx c f).lastWrite = s.lastWrite := rfl
@[simp] theorem State.updCtx_waiters (s : State) (c : Nat) (f : Ctx → Ctx) : (s.updCtx c f).waiters = s.waiters := rfl
@[simp] theorem State.updCtx_copies (s : State) (c : Nat) (f : Ctx → Ctx) : (s.updCtx c f).copies = s.copies := rfl
@[simp] theorem State.updCtx_tileCmds (s : State) (c : Nat) (f : Ctx → Ctx) : (s.updCtx c f).tileCmds = s.tileCmds := rfl
@[simp] theorem State.updCtx_packets (s : State) (c : Nat) (f : Ctx → Ctx) : (s.updCtx c f).packets = s.packets := rfl
@[simp] theorem State.updCtx_reductions (s : State) (c : Nat) (f : Ctx → Ctx) : (s.updCtx c f).reductions = s.reductions := rfl
@[simp] theorem State.updCtx_batch (s : State) (c : Nat) (f : Ctx → Ctx) : (s.updCtx c f).batch = s.batch := rfl
@[simp] theorem State.updCtx_hostOut (s : State) (c : Nat) (f : Ctx → Ctx) : (s.updCtx c f).hostOut = s.hostOut := rfl
@[simp] theorem State.updCtx_driverIrq (s : State) (c : Nat) (f : Ctx → Ctx) : (s.updCtx c f).driverIrq = s.driverIrq := rfl
@[simp] theorem State.updCtx_msgSpillBase (s : State) (c : Nat) (f : Ctx → Ctx) : (s.updCtx c f).msgSpillBase = s.msgSpillBase := rfl
@[simp] theorem State.updCtx_eths (s : State) (c : Nat) (f : Ctx → Ctx) : (s.updCtx c f).eths = s.eths := rfl
@[simp] theorem State.updCtx_ethDrops (s : State) (c : Nat) (f : Ctx → Ctx) : (s.updCtx c f).ethDrops = s.ethDrops := rfl
@[simp] theorem State.updCtx_ethOut (s : State) (c : Nat) (f : Ctx → Ctx) : (s.updCtx c f).ethOut = s.ethOut := rfl
@[simp] theorem State.updCtx_fenced (s : State) (c : Nat) (f : Ctx → Ctx) : (s.updCtx c f).fenced = s.fenced := rfl
@[simp] theorem State.updCtx_saved (s : State) (c : Nat) (f : Ctx → Ctx) : (s.updCtx c f).saved = s.saved := rfl
@[simp] theorem State.updCtx_agenda (s : State) (c : Nat) (f : Ctx → Ctx) : (s.updCtx c f).agenda = s.agenda := rfl
@[simp] theorem State.updCtx_pend (s : State) (c : Nat) (f : Ctx → Ctx) : (s.updCtx c f).pend = s.pend := rfl
@[simp] theorem State.updCtx_cur (s : State) (c : Nat) (f : Ctx → Ctx) : (s.updCtx c f).cur = s.cur := rfl
@[simp] theorem State.updCtx_iword (s : State) (c : Nat) (f : Ctx → Ctx) : (s.updCtx c f).iword = s.iword := rfl
@[simp] theorem State.updCtx_free (s : State) (c : Nat) (f : Ctx → Ctx) : (s.updCtx c f).free = s.free := rfl
@[simp] theorem State.updCtx_nextId (s : State) (c : Nat) (f : Ctx → Ctx) : (s.updCtx c f).nextId = s.nextId := rfl
@[simp] theorem State.updCtx_mapped (s : State) (c : Nat) (f : Ctx → Ctx) : (s.updCtx c f).mapped = s.mapped := rfl
@[simp] theorem State.updCtx_heldBack (s : State) (c : Nat) (f : Ctx → Ctx) : (s.updCtx c f).heldBack = s.heldBack := rfl
@[simp] theorem State.updCtx_hostHeld (s : State) (c : Nat) (f : Ctx → Ctx) : (s.updCtx c f).hostHeld = s.hostHeld := rfl
@[simp] theorem State.updCtx_banks (s : State) (c : Nat) (f : Ctx → Ctx) : (s.updCtx c f).banks = s.banks := rfl
@[simp] theorem State.updCtx_bankq (s : State) (c : Nat) (f : Ctx → Ctx) : (s.updCtx c f).bankq = s.bankq := rfl
@[simp] theorem State.updCtx_syncIn (s : State) (c : Nat) (f : Ctx → Ctx) : (s.updCtx c f).syncIn = s.syncIn := rfl
@[simp] theorem State.updCtx_was (s : State) (c : Nat) (f : Ctx → Ctx) : (s.updCtx c f).was = s.was := rfl

/-! ## `upd` -/

@[simp] theorem State.upd_now (s : State) (f : Thread → Thread) : (s.upd f).now = s.now := rfl
@[simp] theorem State.upd_busStat (s : State) (f : Thread → Thread) : (s.upd f).busStat = s.busStat := rfl
@[simp] theorem State.upd_mem (s : State) (f : Thread → Thread) : (s.upd f).mem = s.mem := rfl
@[simp] theorem State.upd_empty (s : State) (f : Thread → Thread) : (s.upd f).empty = s.empty := rfl
@[simp] theorem State.upd_ecc (s : State) (f : Thread → Thread) : (s.upd f).ecc = s.ecc := rfl
@[simp] theorem State.upd_root (s : State) (f : Thread → Thread) : (s.upd f).root = s.root := rfl
@[simp] theorem State.upd_windows (s : State) (f : Thread → Thread) : (s.upd f).windows = s.windows := rfl
@[simp] theorem State.upd_modnum (s : State) (f : Thread → Thread) : (s.upd f).modnum = s.modnum := rfl
@[simp] theorem State.upd_hapsel (s : State) (f : Thread → Thread) : (s.upd f).hapsel = s.hapsel := rfl
@[simp] theorem State.upd_ftports (s : State) (f : Thread → Thread) : (s.upd f).ftports = s.ftports := rfl
@[simp] theorem State.upd_ptpport (s : State) (f : Thread → Thread) : (s.upd f).ptpport = s.ptpport := rfl
@[simp] theorem State.upd_clockLock (s : State) (f : Thread → Thread) : (s.upd f).clockLock = s.clockLock := rfl
@[simp] theorem State.upd_lastCorr (s : State) (f : Thread → Thread) : (s.upd f).lastCorr = s.lastCorr := rfl
@[simp] theorem State.upd_tenants (s : State) (f : Thread → Thread) : (s.upd f).tenants = s.tenants := rfl
@[simp] theorem State.upd_frames (s : State) (f : Thread → Thread) : (s.upd f).frames = s.frames := rfl
@[simp] theorem State.upd_cores (s : State) (f : Thread → Thread) : (s.upd f).cores = s.cores := rfl
@[simp] theorem State.upd_dies (s : State) (f : Thread → Thread) : (s.upd f).dies = s.dies := rfl
@[simp] theorem State.upd_slices (s : State) (f : Thread → Thread) : (s.upd f).slices = s.slices := rfl
@[simp] theorem State.upd_links (s : State) (f : Thread → Thread) : (s.upd f).links = s.links := rfl
@[simp] theorem State.upd_ctxs (s : State) (f : Thread → Thread) : (s.upd f).ctxs = s.ctxs := rfl
@[simp] theorem State.upd_parts (s : State) (f : Thread → Thread) : (s.upd f).parts = s.parts := rfl
@[simp] theorem State.upd_launches (s : State) (f : Thread → Thread) : (s.upd f).launches = s.launches := rfl
@[simp] theorem State.upd_nextLaunch (s : State) (f : Thread → Thread) : (s.upd f).nextLaunch = s.nextLaunch := rfl
@[simp] theorem State.upd_reqs (s : State) (f : Thread → Thread) : (s.upd f).reqs = s.reqs := rfl
@[simp] theorem State.upd_syncq (s : State) (f : Thread → Thread) : (s.upd f).syncq = s.syncq := rfl
@[simp] theorem State.upd_lastWrite (s : State) (f : Thread → Thread) : (s.upd f).lastWrite = s.lastWrite := rfl
@[simp] theorem State.upd_waiters (s : State) (f : Thread → Thread) : (s.upd f).waiters = s.waiters := rfl
@[simp] theorem State.upd_copies (s : State) (f : Thread → Thread) : (s.upd f).copies = s.copies := rfl
@[simp] theorem State.upd_tileCmds (s : State) (f : Thread → Thread) : (s.upd f).tileCmds = s.tileCmds := rfl
@[simp] theorem State.upd_packets (s : State) (f : Thread → Thread) : (s.upd f).packets = s.packets := rfl
@[simp] theorem State.upd_reductions (s : State) (f : Thread → Thread) : (s.upd f).reductions = s.reductions := rfl
@[simp] theorem State.upd_batch (s : State) (f : Thread → Thread) : (s.upd f).batch = s.batch := rfl
@[simp] theorem State.upd_hostOut (s : State) (f : Thread → Thread) : (s.upd f).hostOut = s.hostOut := rfl
@[simp] theorem State.upd_driverIrq (s : State) (f : Thread → Thread) : (s.upd f).driverIrq = s.driverIrq := rfl
@[simp] theorem State.upd_msgSpillBase (s : State) (f : Thread → Thread) : (s.upd f).msgSpillBase = s.msgSpillBase := rfl
@[simp] theorem State.upd_eths (s : State) (f : Thread → Thread) : (s.upd f).eths = s.eths := rfl
@[simp] theorem State.upd_ethDrops (s : State) (f : Thread → Thread) : (s.upd f).ethDrops = s.ethDrops := rfl
@[simp] theorem State.upd_ethOut (s : State) (f : Thread → Thread) : (s.upd f).ethOut = s.ethOut := rfl
@[simp] theorem State.upd_fenced (s : State) (f : Thread → Thread) : (s.upd f).fenced = s.fenced := rfl
@[simp] theorem State.upd_saved (s : State) (f : Thread → Thread) : (s.upd f).saved = s.saved := rfl
@[simp] theorem State.upd_agenda (s : State) (f : Thread → Thread) : (s.upd f).agenda = s.agenda := rfl
@[simp] theorem State.upd_pend (s : State) (f : Thread → Thread) : (s.upd f).pend = s.pend := rfl
@[simp] theorem State.upd_cur (s : State) (f : Thread → Thread) : (s.upd f).cur = s.cur := rfl
@[simp] theorem State.upd_iword (s : State) (f : Thread → Thread) : (s.upd f).iword = s.iword := rfl
@[simp] theorem State.upd_free (s : State) (f : Thread → Thread) : (s.upd f).free = s.free := rfl
@[simp] theorem State.upd_nextId (s : State) (f : Thread → Thread) : (s.upd f).nextId = s.nextId := rfl
@[simp] theorem State.upd_mapped (s : State) (f : Thread → Thread) : (s.upd f).mapped = s.mapped := rfl
@[simp] theorem State.upd_heldBack (s : State) (f : Thread → Thread) : (s.upd f).heldBack = s.heldBack := rfl
@[simp] theorem State.upd_hostHeld (s : State) (f : Thread → Thread) : (s.upd f).hostHeld = s.hostHeld := rfl
@[simp] theorem State.upd_banks (s : State) (f : Thread → Thread) : (s.upd f).banks = s.banks := rfl
@[simp] theorem State.upd_bankq (s : State) (f : Thread → Thread) : (s.upd f).bankq = s.bankq := rfl
@[simp] theorem State.upd_syncIn (s : State) (f : Thread → Thread) : (s.upd f).syncIn = s.syncIn := rfl
@[simp] theorem State.upd_was (s : State) (f : Thread → Thread) : (s.upd f).was = s.was := rfl

/-! ## `parkOn` -/

@[simp] theorem State.parkOn_now (s : State) (p : Park) : (s.parkOn p).now = s.now := rfl
@[simp] theorem State.parkOn_busStat (s : State) (p : Park) : (s.parkOn p).busStat = s.busStat := rfl
@[simp] theorem State.parkOn_mem (s : State) (p : Park) : (s.parkOn p).mem = s.mem := rfl
@[simp] theorem State.parkOn_empty (s : State) (p : Park) : (s.parkOn p).empty = s.empty := rfl
@[simp] theorem State.parkOn_ecc (s : State) (p : Park) : (s.parkOn p).ecc = s.ecc := rfl
@[simp] theorem State.parkOn_root (s : State) (p : Park) : (s.parkOn p).root = s.root := rfl
@[simp] theorem State.parkOn_windows (s : State) (p : Park) : (s.parkOn p).windows = s.windows := rfl
@[simp] theorem State.parkOn_modnum (s : State) (p : Park) : (s.parkOn p).modnum = s.modnum := rfl
@[simp] theorem State.parkOn_hapsel (s : State) (p : Park) : (s.parkOn p).hapsel = s.hapsel := rfl
@[simp] theorem State.parkOn_ftports (s : State) (p : Park) : (s.parkOn p).ftports = s.ftports := rfl
@[simp] theorem State.parkOn_ptpport (s : State) (p : Park) : (s.parkOn p).ptpport = s.ptpport := rfl
@[simp] theorem State.parkOn_clockLock (s : State) (p : Park) : (s.parkOn p).clockLock = s.clockLock := rfl
@[simp] theorem State.parkOn_lastCorr (s : State) (p : Park) : (s.parkOn p).lastCorr = s.lastCorr := rfl
@[simp] theorem State.parkOn_tenants (s : State) (p : Park) : (s.parkOn p).tenants = s.tenants := rfl
@[simp] theorem State.parkOn_frames (s : State) (p : Park) : (s.parkOn p).frames = s.frames := rfl
@[simp] theorem State.parkOn_cores (s : State) (p : Park) : (s.parkOn p).cores = s.cores := rfl
@[simp] theorem State.parkOn_dies (s : State) (p : Park) : (s.parkOn p).dies = s.dies := rfl
@[simp] theorem State.parkOn_slices (s : State) (p : Park) : (s.parkOn p).slices = s.slices := rfl
@[simp] theorem State.parkOn_links (s : State) (p : Park) : (s.parkOn p).links = s.links := rfl
@[simp] theorem State.parkOn_ctxs (s : State) (p : Park) : (s.parkOn p).ctxs = s.ctxs := rfl
@[simp] theorem State.parkOn_parts (s : State) (p : Park) : (s.parkOn p).parts = s.parts := rfl
@[simp] theorem State.parkOn_launches (s : State) (p : Park) : (s.parkOn p).launches = s.launches := rfl
@[simp] theorem State.parkOn_nextLaunch (s : State) (p : Park) : (s.parkOn p).nextLaunch = s.nextLaunch := rfl
@[simp] theorem State.parkOn_reqs (s : State) (p : Park) : (s.parkOn p).reqs = s.reqs := rfl
@[simp] theorem State.parkOn_syncq (s : State) (p : Park) : (s.parkOn p).syncq = s.syncq := rfl
@[simp] theorem State.parkOn_lastWrite (s : State) (p : Park) : (s.parkOn p).lastWrite = s.lastWrite := rfl
@[simp] theorem State.parkOn_waiters (s : State) (p : Park) : (s.parkOn p).waiters = s.waiters := rfl
@[simp] theorem State.parkOn_copies (s : State) (p : Park) : (s.parkOn p).copies = s.copies := rfl
@[simp] theorem State.parkOn_tileCmds (s : State) (p : Park) : (s.parkOn p).tileCmds = s.tileCmds := rfl
@[simp] theorem State.parkOn_packets (s : State) (p : Park) : (s.parkOn p).packets = s.packets := rfl
@[simp] theorem State.parkOn_reductions (s : State) (p : Park) : (s.parkOn p).reductions = s.reductions := rfl
@[simp] theorem State.parkOn_batch (s : State) (p : Park) : (s.parkOn p).batch = s.batch := rfl
@[simp] theorem State.parkOn_hostOut (s : State) (p : Park) : (s.parkOn p).hostOut = s.hostOut := rfl
@[simp] theorem State.parkOn_driverIrq (s : State) (p : Park) : (s.parkOn p).driverIrq = s.driverIrq := rfl
@[simp] theorem State.parkOn_msgSpillBase (s : State) (p : Park) : (s.parkOn p).msgSpillBase = s.msgSpillBase := rfl
@[simp] theorem State.parkOn_eths (s : State) (p : Park) : (s.parkOn p).eths = s.eths := rfl
@[simp] theorem State.parkOn_ethDrops (s : State) (p : Park) : (s.parkOn p).ethDrops = s.ethDrops := rfl
@[simp] theorem State.parkOn_ethOut (s : State) (p : Park) : (s.parkOn p).ethOut = s.ethOut := rfl
@[simp] theorem State.parkOn_fenced (s : State) (p : Park) : (s.parkOn p).fenced = s.fenced := rfl
@[simp] theorem State.parkOn_saved (s : State) (p : Park) : (s.parkOn p).saved = s.saved := rfl
@[simp] theorem State.parkOn_agenda (s : State) (p : Park) : (s.parkOn p).agenda = s.agenda := rfl
@[simp] theorem State.parkOn_pend (s : State) (p : Park) : (s.parkOn p).pend = s.pend := rfl
@[simp] theorem State.parkOn_cur (s : State) (p : Park) : (s.parkOn p).cur = s.cur := rfl
@[simp] theorem State.parkOn_iword (s : State) (p : Park) : (s.parkOn p).iword = s.iword := rfl
@[simp] theorem State.parkOn_free (s : State) (p : Park) : (s.parkOn p).free = s.free := rfl
@[simp] theorem State.parkOn_nextId (s : State) (p : Park) : (s.parkOn p).nextId = s.nextId := rfl
@[simp] theorem State.parkOn_mapped (s : State) (p : Park) : (s.parkOn p).mapped = s.mapped := rfl
@[simp] theorem State.parkOn_heldBack (s : State) (p : Park) : (s.parkOn p).heldBack = s.heldBack := rfl
@[simp] theorem State.parkOn_hostHeld (s : State) (p : Park) : (s.parkOn p).hostHeld = s.hostHeld := rfl
@[simp] theorem State.parkOn_banks (s : State) (p : Park) : (s.parkOn p).banks = s.banks := rfl
@[simp] theorem State.parkOn_bankq (s : State) (p : Park) : (s.parkOn p).bankq = s.bankq := rfl
@[simp] theorem State.parkOn_syncIn (s : State) (p : Park) : (s.parkOn p).syncIn = s.syncIn := rfl
@[simp] theorem State.parkOn_was (s : State) (p : Park) : (s.parkOn p).was = s.was := rfl

/-! ## `after` -/

@[simp] theorem State.after_now (s : State) (n : Nat) (i : Instr) : (s.after n i).now = s.now := rfl
@[simp] theorem State.after_busStat (s : State) (n : Nat) (i : Instr) : (s.after n i).busStat = s.busStat := rfl
@[simp] theorem State.after_mem (s : State) (n : Nat) (i : Instr) : (s.after n i).mem = s.mem := rfl
@[simp] theorem State.after_empty (s : State) (n : Nat) (i : Instr) : (s.after n i).empty = s.empty := rfl
@[simp] theorem State.after_ecc (s : State) (n : Nat) (i : Instr) : (s.after n i).ecc = s.ecc := rfl
@[simp] theorem State.after_root (s : State) (n : Nat) (i : Instr) : (s.after n i).root = s.root := rfl
@[simp] theorem State.after_windows (s : State) (n : Nat) (i : Instr) : (s.after n i).windows = s.windows := rfl
@[simp] theorem State.after_modnum (s : State) (n : Nat) (i : Instr) : (s.after n i).modnum = s.modnum := rfl
@[simp] theorem State.after_hapsel (s : State) (n : Nat) (i : Instr) : (s.after n i).hapsel = s.hapsel := rfl
@[simp] theorem State.after_ftports (s : State) (n : Nat) (i : Instr) : (s.after n i).ftports = s.ftports := rfl
@[simp] theorem State.after_ptpport (s : State) (n : Nat) (i : Instr) : (s.after n i).ptpport = s.ptpport := rfl
@[simp] theorem State.after_clockLock (s : State) (n : Nat) (i : Instr) : (s.after n i).clockLock = s.clockLock := rfl
@[simp] theorem State.after_lastCorr (s : State) (n : Nat) (i : Instr) : (s.after n i).lastCorr = s.lastCorr := rfl
@[simp] theorem State.after_tenants (s : State) (n : Nat) (i : Instr) : (s.after n i).tenants = s.tenants := rfl
@[simp] theorem State.after_frames (s : State) (n : Nat) (i : Instr) : (s.after n i).frames = s.frames := rfl
@[simp] theorem State.after_threads (s : State) (n : Nat) (i : Instr) : (s.after n i).threads = s.threads := rfl
@[simp] theorem State.after_cores (s : State) (n : Nat) (i : Instr) : (s.after n i).cores = s.cores := rfl
@[simp] theorem State.after_dies (s : State) (n : Nat) (i : Instr) : (s.after n i).dies = s.dies := rfl
@[simp] theorem State.after_slices (s : State) (n : Nat) (i : Instr) : (s.after n i).slices = s.slices := rfl
@[simp] theorem State.after_links (s : State) (n : Nat) (i : Instr) : (s.after n i).links = s.links := rfl
@[simp] theorem State.after_ctxs (s : State) (n : Nat) (i : Instr) : (s.after n i).ctxs = s.ctxs := rfl
@[simp] theorem State.after_parts (s : State) (n : Nat) (i : Instr) : (s.after n i).parts = s.parts := rfl
@[simp] theorem State.after_launches (s : State) (n : Nat) (i : Instr) : (s.after n i).launches = s.launches := rfl
@[simp] theorem State.after_nextLaunch (s : State) (n : Nat) (i : Instr) : (s.after n i).nextLaunch = s.nextLaunch := rfl
@[simp] theorem State.after_reqs (s : State) (n : Nat) (i : Instr) : (s.after n i).reqs = s.reqs := rfl
@[simp] theorem State.after_syncq (s : State) (n : Nat) (i : Instr) : (s.after n i).syncq = s.syncq := rfl
@[simp] theorem State.after_lastWrite (s : State) (n : Nat) (i : Instr) : (s.after n i).lastWrite = s.lastWrite := rfl
@[simp] theorem State.after_waiters (s : State) (n : Nat) (i : Instr) : (s.after n i).waiters = s.waiters := rfl
@[simp] theorem State.after_copies (s : State) (n : Nat) (i : Instr) : (s.after n i).copies = s.copies := rfl
@[simp] theorem State.after_tileCmds (s : State) (n : Nat) (i : Instr) : (s.after n i).tileCmds = s.tileCmds := rfl
@[simp] theorem State.after_packets (s : State) (n : Nat) (i : Instr) : (s.after n i).packets = s.packets := rfl
@[simp] theorem State.after_reductions (s : State) (n : Nat) (i : Instr) : (s.after n i).reductions = s.reductions := rfl
@[simp] theorem State.after_batch (s : State) (n : Nat) (i : Instr) : (s.after n i).batch = s.batch := rfl
@[simp] theorem State.after_hostOut (s : State) (n : Nat) (i : Instr) : (s.after n i).hostOut = s.hostOut := rfl
@[simp] theorem State.after_driverIrq (s : State) (n : Nat) (i : Instr) : (s.after n i).driverIrq = s.driverIrq := rfl
@[simp] theorem State.after_msgSpillBase (s : State) (n : Nat) (i : Instr) : (s.after n i).msgSpillBase = s.msgSpillBase := rfl
@[simp] theorem State.after_eths (s : State) (n : Nat) (i : Instr) : (s.after n i).eths = s.eths := rfl
@[simp] theorem State.after_ethDrops (s : State) (n : Nat) (i : Instr) : (s.after n i).ethDrops = s.ethDrops := rfl
@[simp] theorem State.after_ethOut (s : State) (n : Nat) (i : Instr) : (s.after n i).ethOut = s.ethOut := rfl
@[simp] theorem State.after_fenced (s : State) (n : Nat) (i : Instr) : (s.after n i).fenced = s.fenced := rfl
@[simp] theorem State.after_saved (s : State) (n : Nat) (i : Instr) : (s.after n i).saved = s.saved := rfl
@[simp] theorem State.after_agenda (s : State) (n : Nat) (i : Instr) : (s.after n i).agenda = s.agenda := rfl
@[simp] theorem State.after_cur (s : State) (n : Nat) (i : Instr) : (s.after n i).cur = s.cur := rfl
@[simp] theorem State.after_iword (s : State) (n : Nat) (i : Instr) : (s.after n i).iword = s.iword := rfl
@[simp] theorem State.after_free (s : State) (n : Nat) (i : Instr) : (s.after n i).free = s.free := rfl
@[simp] theorem State.after_nextId (s : State) (n : Nat) (i : Instr) : (s.after n i).nextId = s.nextId := rfl
@[simp] theorem State.after_mapped (s : State) (n : Nat) (i : Instr) : (s.after n i).mapped = s.mapped := rfl
@[simp] theorem State.after_heldBack (s : State) (n : Nat) (i : Instr) : (s.after n i).heldBack = s.heldBack := rfl
@[simp] theorem State.after_hostHeld (s : State) (n : Nat) (i : Instr) : (s.after n i).hostHeld = s.hostHeld := rfl
@[simp] theorem State.after_banks (s : State) (n : Nat) (i : Instr) : (s.after n i).banks = s.banks := rfl
@[simp] theorem State.after_bankq (s : State) (n : Nat) (i : Instr) : (s.after n i).bankq = s.bankq := rfl
@[simp] theorem State.after_syncIn (s : State) (n : Nat) (i : Instr) : (s.after n i).syncIn = s.syncIn := rfl
@[simp] theorem State.after_was (s : State) (n : Nat) (i : Instr) : (s.after n i).was = s.was := rfl

/-! ## `setByte` -/

@[simp] theorem State.setByte_now (s : State) (k : Nat) (b : Byte) : (s.setByte k b).now = s.now := rfl
@[simp] theorem State.setByte_busStat (s : State) (k : Nat) (b : Byte) : (s.setByte k b).busStat = s.busStat := rfl
@[simp] theorem State.setByte_empty (s : State) (k : Nat) (b : Byte) : (s.setByte k b).empty = s.empty := rfl
@[simp] theorem State.setByte_ecc (s : State) (k : Nat) (b : Byte) : (s.setByte k b).ecc = s.ecc := rfl
@[simp] theorem State.setByte_root (s : State) (k : Nat) (b : Byte) : (s.setByte k b).root = s.root := rfl
@[simp] theorem State.setByte_windows (s : State) (k : Nat) (b : Byte) : (s.setByte k b).windows = s.windows := rfl
@[simp] theorem State.setByte_modnum (s : State) (k : Nat) (b : Byte) : (s.setByte k b).modnum = s.modnum := rfl
@[simp] theorem State.setByte_hapsel (s : State) (k : Nat) (b : Byte) : (s.setByte k b).hapsel = s.hapsel := rfl
@[simp] theorem State.setByte_ftports (s : State) (k : Nat) (b : Byte) : (s.setByte k b).ftports = s.ftports := rfl
@[simp] theorem State.setByte_ptpport (s : State) (k : Nat) (b : Byte) : (s.setByte k b).ptpport = s.ptpport := rfl
@[simp] theorem State.setByte_clockLock (s : State) (k : Nat) (b : Byte) : (s.setByte k b).clockLock = s.clockLock := rfl
@[simp] theorem State.setByte_lastCorr (s : State) (k : Nat) (b : Byte) : (s.setByte k b).lastCorr = s.lastCorr := rfl
@[simp] theorem State.setByte_tenants (s : State) (k : Nat) (b : Byte) : (s.setByte k b).tenants = s.tenants := rfl
@[simp] theorem State.setByte_frames (s : State) (k : Nat) (b : Byte) : (s.setByte k b).frames = s.frames := rfl
@[simp] theorem State.setByte_threads (s : State) (k : Nat) (b : Byte) : (s.setByte k b).threads = s.threads := rfl
@[simp] theorem State.setByte_cores (s : State) (k : Nat) (b : Byte) : (s.setByte k b).cores = s.cores := rfl
@[simp] theorem State.setByte_dies (s : State) (k : Nat) (b : Byte) : (s.setByte k b).dies = s.dies := rfl
@[simp] theorem State.setByte_slices (s : State) (k : Nat) (b : Byte) : (s.setByte k b).slices = s.slices := rfl
@[simp] theorem State.setByte_links (s : State) (k : Nat) (b : Byte) : (s.setByte k b).links = s.links := rfl
@[simp] theorem State.setByte_ctxs (s : State) (k : Nat) (b : Byte) : (s.setByte k b).ctxs = s.ctxs := rfl
@[simp] theorem State.setByte_parts (s : State) (k : Nat) (b : Byte) : (s.setByte k b).parts = s.parts := rfl
@[simp] theorem State.setByte_launches (s : State) (k : Nat) (b : Byte) : (s.setByte k b).launches = s.launches := rfl
@[simp] theorem State.setByte_nextLaunch (s : State) (k : Nat) (b : Byte) : (s.setByte k b).nextLaunch = s.nextLaunch := rfl
@[simp] theorem State.setByte_reqs (s : State) (k : Nat) (b : Byte) : (s.setByte k b).reqs = s.reqs := rfl
@[simp] theorem State.setByte_syncq (s : State) (k : Nat) (b : Byte) : (s.setByte k b).syncq = s.syncq := rfl
@[simp] theorem State.setByte_lastWrite (s : State) (k : Nat) (b : Byte) : (s.setByte k b).lastWrite = s.lastWrite := rfl
@[simp] theorem State.setByte_waiters (s : State) (k : Nat) (b : Byte) : (s.setByte k b).waiters = s.waiters := rfl
@[simp] theorem State.setByte_copies (s : State) (k : Nat) (b : Byte) : (s.setByte k b).copies = s.copies := rfl
@[simp] theorem State.setByte_tileCmds (s : State) (k : Nat) (b : Byte) : (s.setByte k b).tileCmds = s.tileCmds := rfl
@[simp] theorem State.setByte_packets (s : State) (k : Nat) (b : Byte) : (s.setByte k b).packets = s.packets := rfl
@[simp] theorem State.setByte_reductions (s : State) (k : Nat) (b : Byte) : (s.setByte k b).reductions = s.reductions := rfl
@[simp] theorem State.setByte_batch (s : State) (k : Nat) (b : Byte) : (s.setByte k b).batch = s.batch := rfl
@[simp] theorem State.setByte_hostOut (s : State) (k : Nat) (b : Byte) : (s.setByte k b).hostOut = s.hostOut := rfl
@[simp] theorem State.setByte_driverIrq (s : State) (k : Nat) (b : Byte) : (s.setByte k b).driverIrq = s.driverIrq := rfl
@[simp] theorem State.setByte_msgSpillBase (s : State) (k : Nat) (b : Byte) : (s.setByte k b).msgSpillBase = s.msgSpillBase := rfl
@[simp] theorem State.setByte_eths (s : State) (k : Nat) (b : Byte) : (s.setByte k b).eths = s.eths := rfl
@[simp] theorem State.setByte_ethDrops (s : State) (k : Nat) (b : Byte) : (s.setByte k b).ethDrops = s.ethDrops := rfl
@[simp] theorem State.setByte_ethOut (s : State) (k : Nat) (b : Byte) : (s.setByte k b).ethOut = s.ethOut := rfl
@[simp] theorem State.setByte_fenced (s : State) (k : Nat) (b : Byte) : (s.setByte k b).fenced = s.fenced := rfl
@[simp] theorem State.setByte_saved (s : State) (k : Nat) (b : Byte) : (s.setByte k b).saved = s.saved := rfl
@[simp] theorem State.setByte_agenda (s : State) (k : Nat) (b : Byte) : (s.setByte k b).agenda = s.agenda := rfl
@[simp] theorem State.setByte_pend (s : State) (k : Nat) (b : Byte) : (s.setByte k b).pend = s.pend := rfl
@[simp] theorem State.setByte_cur (s : State) (k : Nat) (b : Byte) : (s.setByte k b).cur = s.cur := rfl
@[simp] theorem State.setByte_iword (s : State) (k : Nat) (b : Byte) : (s.setByte k b).iword = s.iword := rfl
@[simp] theorem State.setByte_free (s : State) (k : Nat) (b : Byte) : (s.setByte k b).free = s.free := rfl
@[simp] theorem State.setByte_nextId (s : State) (k : Nat) (b : Byte) : (s.setByte k b).nextId = s.nextId := rfl
@[simp] theorem State.setByte_mapped (s : State) (k : Nat) (b : Byte) : (s.setByte k b).mapped = s.mapped := rfl
@[simp] theorem State.setByte_heldBack (s : State) (k : Nat) (b : Byte) : (s.setByte k b).heldBack = s.heldBack := rfl
@[simp] theorem State.setByte_hostHeld (s : State) (k : Nat) (b : Byte) : (s.setByte k b).hostHeld = s.hostHeld := rfl
@[simp] theorem State.setByte_banks (s : State) (k : Nat) (b : Byte) : (s.setByte k b).banks = s.banks := rfl
@[simp] theorem State.setByte_bankq (s : State) (k : Nat) (b : Byte) : (s.setByte k b).bankq = s.bankq := rfl
@[simp] theorem State.setByte_syncIn (s : State) (k : Nat) (b : Byte) : (s.setByte k b).syncIn = s.syncIn := rfl
@[simp] theorem State.setByte_was (s : State) (k : Nat) (b : Byte) : (s.setByte k b).was = s.was := rfl

/-! ## `nextFree` -/

@[simp] theorem State.nextFree_now (s : State) : (s.nextFree).now = s.now := rfl
@[simp] theorem State.nextFree_busStat (s : State) : (s.nextFree).busStat = s.busStat := rfl
@[simp] theorem State.nextFree_mem (s : State) : (s.nextFree).mem = s.mem := rfl
@[simp] theorem State.nextFree_empty (s : State) : (s.nextFree).empty = s.empty := rfl
@[simp] theorem State.nextFree_ecc (s : State) : (s.nextFree).ecc = s.ecc := rfl
@[simp] theorem State.nextFree_root (s : State) : (s.nextFree).root = s.root := rfl
@[simp] theorem State.nextFree_windows (s : State) : (s.nextFree).windows = s.windows := rfl
@[simp] theorem State.nextFree_modnum (s : State) : (s.nextFree).modnum = s.modnum := rfl
@[simp] theorem State.nextFree_hapsel (s : State) : (s.nextFree).hapsel = s.hapsel := rfl
@[simp] theorem State.nextFree_ftports (s : State) : (s.nextFree).ftports = s.ftports := rfl
@[simp] theorem State.nextFree_ptpport (s : State) : (s.nextFree).ptpport = s.ptpport := rfl
@[simp] theorem State.nextFree_clockLock (s : State) : (s.nextFree).clockLock = s.clockLock := rfl
@[simp] theorem State.nextFree_lastCorr (s : State) : (s.nextFree).lastCorr = s.lastCorr := rfl
@[simp] theorem State.nextFree_tenants (s : State) : (s.nextFree).tenants = s.tenants := rfl
@[simp] theorem State.nextFree_frames (s : State) : (s.nextFree).frames = s.frames := rfl
@[simp] theorem State.nextFree_threads (s : State) : (s.nextFree).threads = s.threads := rfl
@[simp] theorem State.nextFree_cores (s : State) : (s.nextFree).cores = s.cores := rfl
@[simp] theorem State.nextFree_dies (s : State) : (s.nextFree).dies = s.dies := rfl
@[simp] theorem State.nextFree_slices (s : State) : (s.nextFree).slices = s.slices := rfl
@[simp] theorem State.nextFree_links (s : State) : (s.nextFree).links = s.links := rfl
@[simp] theorem State.nextFree_ctxs (s : State) : (s.nextFree).ctxs = s.ctxs := rfl
@[simp] theorem State.nextFree_parts (s : State) : (s.nextFree).parts = s.parts := rfl
@[simp] theorem State.nextFree_launches (s : State) : (s.nextFree).launches = s.launches := rfl
@[simp] theorem State.nextFree_nextLaunch (s : State) : (s.nextFree).nextLaunch = s.nextLaunch := rfl
@[simp] theorem State.nextFree_reqs (s : State) : (s.nextFree).reqs = s.reqs := rfl
@[simp] theorem State.nextFree_syncq (s : State) : (s.nextFree).syncq = s.syncq := rfl
@[simp] theorem State.nextFree_lastWrite (s : State) : (s.nextFree).lastWrite = s.lastWrite := rfl
@[simp] theorem State.nextFree_waiters (s : State) : (s.nextFree).waiters = s.waiters := rfl
@[simp] theorem State.nextFree_copies (s : State) : (s.nextFree).copies = s.copies := rfl
@[simp] theorem State.nextFree_tileCmds (s : State) : (s.nextFree).tileCmds = s.tileCmds := rfl
@[simp] theorem State.nextFree_packets (s : State) : (s.nextFree).packets = s.packets := rfl
@[simp] theorem State.nextFree_reductions (s : State) : (s.nextFree).reductions = s.reductions := rfl
@[simp] theorem State.nextFree_batch (s : State) : (s.nextFree).batch = s.batch := rfl
@[simp] theorem State.nextFree_hostOut (s : State) : (s.nextFree).hostOut = s.hostOut := rfl
@[simp] theorem State.nextFree_driverIrq (s : State) : (s.nextFree).driverIrq = s.driverIrq := rfl
@[simp] theorem State.nextFree_msgSpillBase (s : State) : (s.nextFree).msgSpillBase = s.msgSpillBase := rfl
@[simp] theorem State.nextFree_eths (s : State) : (s.nextFree).eths = s.eths := rfl
@[simp] theorem State.nextFree_ethDrops (s : State) : (s.nextFree).ethDrops = s.ethDrops := rfl
@[simp] theorem State.nextFree_ethOut (s : State) : (s.nextFree).ethOut = s.ethOut := rfl
@[simp] theorem State.nextFree_fenced (s : State) : (s.nextFree).fenced = s.fenced := rfl
@[simp] theorem State.nextFree_saved (s : State) : (s.nextFree).saved = s.saved := rfl
@[simp] theorem State.nextFree_agenda (s : State) : (s.nextFree).agenda = s.agenda := rfl
@[simp] theorem State.nextFree_pend (s : State) : (s.nextFree).pend = s.pend := rfl
@[simp] theorem State.nextFree_cur (s : State) : (s.nextFree).cur = s.cur := rfl
@[simp] theorem State.nextFree_iword (s : State) : (s.nextFree).iword = s.iword := rfl
@[simp] theorem State.nextFree_nextId (s : State) : (s.nextFree).nextId = s.nextId := rfl
@[simp] theorem State.nextFree_mapped (s : State) : (s.nextFree).mapped = s.mapped := rfl
@[simp] theorem State.nextFree_heldBack (s : State) : (s.nextFree).heldBack = s.heldBack := rfl
@[simp] theorem State.nextFree_hostHeld (s : State) : (s.nextFree).hostHeld = s.hostHeld := rfl
@[simp] theorem State.nextFree_banks (s : State) : (s.nextFree).banks = s.banks := rfl
@[simp] theorem State.nextFree_bankq (s : State) : (s.nextFree).bankq = s.bankq := rfl
@[simp] theorem State.nextFree_syncIn (s : State) : (s.nextFree).syncIn = s.syncIn := rfl
@[simp] theorem State.nextFree_was (s : State) : (s.nextFree).was = s.was := rfl

/-! ## What the accessors read -/

@[simp] theorem State.thread_setThread (s : State) (t u : Nat) (v : Thread) : (s.setThread t v).thread u = if u = t then v else s.thread u := by
  simp [State.thread, State.setThread, tget_tput]
@[simp] theorem State.core_setCore (s : State) (t u : Nat) (v : Core) : (s.setCore t v).core u = if u = t then v else s.core u := by
  simp [State.core, State.setCore, tget_tput]
@[simp] theorem State.die_setDie (s : State) (t u : Nat) (v : Die) : (s.setDie t v).die u = if u = t then v else s.die u := by
  simp [State.die, State.setDie, tget_tput]
@[simp] theorem State.slice_setSlice (s : State) (t u : Nat) (v : Slice) : (s.setSlice t v).slice u = if u = t then v else s.slice u := by
  simp [State.slice, State.setSlice, tget_tput]
@[simp] theorem State.ctx_setCtx (s : State) (t u : Nat) (v : Ctx) : (s.setCtx t v).ctx u = if u = t then v else s.ctx u := by
  simp [State.ctx, State.setCtx, tget_tput]

@[simp] theorem State.thread_updThread (s : State) (t u : Nat) (f : Thread → Thread) :
    (s.updThread t f).thread u = if u = t then f (s.thread t) else s.thread u := s.thread_setThread t u _
@[simp] theorem State.core_updCore (s : State) (t u : Nat) (f : Core → Core) :
    (s.updCore t f).core u = if u = t then f (s.core t) else s.core u := s.core_setCore t u _
@[simp] theorem State.die_updDie (s : State) (t u : Nat) (f : Die → Die) :
    (s.updDie t f).die u = if u = t then f (s.die t) else s.die u := s.die_setDie t u _
@[simp] theorem State.slice_updSlice (s : State) (t u : Nat) (f : Slice → Slice) :
    (s.updSlice t f).slice u = if u = t then f (s.slice t) else s.slice u := s.slice_setSlice t u _
@[simp] theorem State.ctx_updCtx (s : State) (t u : Nat) (f : Ctx → Ctx) :
    (s.updCtx t f).ctx u = if u = t then f (s.ctx t) else s.ctx u := s.ctx_setCtx t u _

/-- The issuing thread after a change of it. -/
@[simp] theorem State.me_upd (s : State) (f : Thread → Thread) : (s.upd f).me = f s.me := by
  simp [State.upd, State.me, State.thread_updThread]
/-- The other threads after a change of the issuing one. -/
@[simp] theorem State.thread_upd (s : State) (f : Thread → Thread) (u : Nat) :
    (s.upd f).thread u = if u = s.cur then f s.me else s.thread u := by
  simp [State.upd, State.me]

@[simp] theorem State.setThread_core (s : State) (t : Nat) (v : Thread) (y : Nat) : (s.setThread t v).core y = s.core y := rfl
@[simp] theorem State.setThread_die (s : State) (t : Nat) (v : Thread) (y : Nat) : (s.setThread t v).die y = s.die y := rfl
@[simp] theorem State.setThread_slice (s : State) (t : Nat) (v : Thread) (y : Nat) : (s.setThread t v).slice y = s.slice y := rfl
@[simp] theorem State.setThread_ctx (s : State) (t : Nat) (v : Thread) (y : Nat) : (s.setThread t v).ctx y = s.ctx y := rfl
@[simp] theorem State.setThread_byte (s : State) (t : Nat) (v : Thread) (y : Nat) : (s.setThread t v).byte y = s.byte y := rfl
@[simp] theorem State.setCore_thread (s : State) (c : Nat) (v : Core) (y : Nat) : (s.setCore c v).thread y = s.thread y := rfl
@[simp] theorem State.setCore_die (s : State) (c : Nat) (v : Core) (y : Nat) : (s.setCore c v).die y = s.die y := rfl
@[simp] theorem State.setCore_slice (s : State) (c : Nat) (v : Core) (y : Nat) : (s.setCore c v).slice y = s.slice y := rfl
@[simp] theorem State.setCore_ctx (s : State) (c : Nat) (v : Core) (y : Nat) : (s.setCore c v).ctx y = s.ctx y := rfl
@[simp] theorem State.setCore_me (s : State) (c : Nat) (v : Core) : (s.setCore c v).me = s.me := rfl
@[simp] theorem State.setCore_byte (s : State) (c : Nat) (v : Core) (y : Nat) : (s.setCore c v).byte y = s.byte y := rfl
@[simp] theorem State.setDie_thread (s : State) (d : Nat) (v : Die) (y : Nat) : (s.setDie d v).thread y = s.thread y := rfl
@[simp] theorem State.setDie_core (s : State) (d : Nat) (v : Die) (y : Nat) : (s.setDie d v).core y = s.core y := rfl
@[simp] theorem State.setDie_slice (s : State) (d : Nat) (v : Die) (y : Nat) : (s.setDie d v).slice y = s.slice y := rfl
@[simp] theorem State.setDie_ctx (s : State) (d : Nat) (v : Die) (y : Nat) : (s.setDie d v).ctx y = s.ctx y := rfl
@[simp] theorem State.setDie_me (s : State) (d : Nat) (v : Die) : (s.setDie d v).me = s.me := rfl
@[simp] theorem State.setDie_byte (s : State) (d : Nat) (v : Die) (y : Nat) : (s.setDie d v).byte y = s.byte y := rfl
@[simp] theorem State.setSlice_thread (s : State) (x : Nat) (v : Slice) (y : Nat) : (s.setSlice x v).thread y = s.thread y := rfl
@[simp] theorem State.setSlice_core (s : State) (x : Nat) (v : Slice) (y : Nat) : (s.setSlice x v).core y = s.core y := rfl
@[simp] theorem State.setSlice_die (s : State) (x : Nat) (v : Slice) (y : Nat) : (s.setSlice x v).die y = s.die y := rfl
@[simp] theorem State.setSlice_ctx (s : State) (x : Nat) (v : Slice) (y : Nat) : (s.setSlice x v).ctx y = s.ctx y := rfl
@[simp] theorem State.setSlice_me (s : State) (x : Nat) (v : Slice) : (s.setSlice x v).me = s.me := rfl
@[simp] theorem State.setSlice_byte (s : State) (x : Nat) (v : Slice) (y : Nat) : (s.setSlice x v).byte y = s.byte y := rfl
@[simp] theorem State.setCtx_thread (s : State) (c : Nat) (v : Ctx) (y : Nat) : (s.setCtx c v).thread y = s.thread y := rfl
@[simp] theorem State.setCtx_core (s : State) (c : Nat) (v : Ctx) (y : Nat) : (s.setCtx c v).core y = s.core y := rfl
@[simp] theorem State.setCtx_die (s : State) (c : Nat) (v : Ctx) (y : Nat) : (s.setCtx c v).die y = s.die y := rfl
@[simp] theorem State.setCtx_slice (s : State) (c : Nat) (v : Ctx) (y : Nat) : (s.setCtx c v).slice y = s.slice y := rfl
@[simp] theorem State.setCtx_me (s : State) (c : Nat) (v : Ctx) : (s.setCtx c v).me = s.me := rfl
@[simp] theorem State.setCtx_byte (s : State) (c : Nat) (v : Ctx) (y : Nat) : (s.setCtx c v).byte y = s.byte y := rfl
@[simp] theorem State.updThread_core (s : State) (t : Nat) (f : Thread → Thread) (y : Nat) : (s.updThread t f).core y = s.core y := rfl
@[simp] theorem State.updThread_die (s : State) (t : Nat) (f : Thread → Thread) (y : Nat) : (s.updThread t f).die y = s.die y := rfl
@[simp] theorem State.updThread_slice (s : State) (t : Nat) (f : Thread → Thread) (y : Nat) : (s.updThread t f).slice y = s.slice y := rfl
@[simp] theorem State.updThread_ctx (s : State) (t : Nat) (f : Thread → Thread) (y : Nat) : (s.updThread t f).ctx y = s.ctx y := rfl
@[simp] theorem State.updThread_byte (s : State) (t : Nat) (f : Thread → Thread) (y : Nat) : (s.updThread t f).byte y = s.byte y := rfl
@[simp] theorem State.updCore_thread (s : State) (c : Nat) (f : Core → Core) (y : Nat) : (s.updCore c f).thread y = s.thread y := rfl
@[simp] theorem State.updCore_die (s : State) (c : Nat) (f : Core → Core) (y : Nat) : (s.updCore c f).die y = s.die y := rfl
@[simp] theorem State.updCore_slice (s : State) (c : Nat) (f : Core → Core) (y : Nat) : (s.updCore c f).slice y = s.slice y := rfl
@[simp] theorem State.updCore_ctx (s : State) (c : Nat) (f : Core → Core) (y : Nat) : (s.updCore c f).ctx y = s.ctx y := rfl
@[simp] theorem State.updCore_me (s : State) (c : Nat) (f : Core → Core) : (s.updCore c f).me = s.me := rfl
@[simp] theorem State.updCore_byte (s : State) (c : Nat) (f : Core → Core) (y : Nat) : (s.updCore c f).byte y = s.byte y := rfl
@[simp] theorem State.updDie_thread (s : State) (d : Nat) (f : Die → Die) (y : Nat) : (s.updDie d f).thread y = s.thread y := rfl
@[simp] theorem State.updDie_core (s : State) (d : Nat) (f : Die → Die) (y : Nat) : (s.updDie d f).core y = s.core y := rfl
@[simp] theorem State.updDie_slice (s : State) (d : Nat) (f : Die → Die) (y : Nat) : (s.updDie d f).slice y = s.slice y := rfl
@[simp] theorem State.updDie_ctx (s : State) (d : Nat) (f : Die → Die) (y : Nat) : (s.updDie d f).ctx y = s.ctx y := rfl
@[simp] theorem State.updDie_me (s : State) (d : Nat) (f : Die → Die) : (s.updDie d f).me = s.me := rfl
@[simp] theorem State.updDie_byte (s : State) (d : Nat) (f : Die → Die) (y : Nat) : (s.updDie d f).byte y = s.byte y := rfl
@[simp] theorem State.updSlice_thread (s : State) (x : Nat) (f : Slice → Slice) (y : Nat) : (s.updSlice x f).thread y = s.thread y := rfl
@[simp] theorem State.updSlice_core (s : State) (x : Nat) (f : Slice → Slice) (y : Nat) : (s.updSlice x f).core y = s.core y := rfl
@[simp] theorem State.updSlice_die (s : State) (x : Nat) (f : Slice → Slice) (y : Nat) : (s.updSlice x f).die y = s.die y := rfl
@[simp] theorem State.updSlice_ctx (s : State) (x : Nat) (f : Slice → Slice) (y : Nat) : (s.updSlice x f).ctx y = s.ctx y := rfl
@[simp] theorem State.updSlice_me (s : State) (x : Nat) (f : Slice → Slice) : (s.updSlice x f).me = s.me := rfl
@[simp] theorem State.updSlice_byte (s : State) (x : Nat) (f : Slice → Slice) (y : Nat) : (s.updSlice x f).byte y = s.byte y := rfl
@[simp] theorem State.updCtx_thread (s : State) (c : Nat) (f : Ctx → Ctx) (y : Nat) : (s.updCtx c f).thread y = s.thread y := rfl
@[simp] theorem State.updCtx_core (s : State) (c : Nat) (f : Ctx → Ctx) (y : Nat) : (s.updCtx c f).core y = s.core y := rfl
@[simp] theorem State.updCtx_die (s : State) (c : Nat) (f : Ctx → Ctx) (y : Nat) : (s.updCtx c f).die y = s.die y := rfl
@[simp] theorem State.updCtx_slice (s : State) (c : Nat) (f : Ctx → Ctx) (y : Nat) : (s.updCtx c f).slice y = s.slice y := rfl
@[simp] theorem State.updCtx_me (s : State) (c : Nat) (f : Ctx → Ctx) : (s.updCtx c f).me = s.me := rfl
@[simp] theorem State.updCtx_byte (s : State) (c : Nat) (f : Ctx → Ctx) (y : Nat) : (s.updCtx c f).byte y = s.byte y := rfl
@[simp] theorem State.upd_core (s : State) (f : Thread → Thread) (y : Nat) : (s.upd f).core y = s.core y := rfl
@[simp] theorem State.upd_die (s : State) (f : Thread → Thread) (y : Nat) : (s.upd f).die y = s.die y := rfl
@[simp] theorem State.upd_slice (s : State) (f : Thread → Thread) (y : Nat) : (s.upd f).slice y = s.slice y := rfl
@[simp] theorem State.upd_ctx (s : State) (f : Thread → Thread) (y : Nat) : (s.upd f).ctx y = s.ctx y := rfl
@[simp] theorem State.upd_byte (s : State) (f : Thread → Thread) (y : Nat) : (s.upd f).byte y = s.byte y := rfl
@[simp] theorem State.parkOn_core (s : State) (p : Park) (y : Nat) : (s.parkOn p).core y = s.core y := rfl
@[simp] theorem State.parkOn_die (s : State) (p : Park) (y : Nat) : (s.parkOn p).die y = s.die y := rfl
@[simp] theorem State.parkOn_slice (s : State) (p : Park) (y : Nat) : (s.parkOn p).slice y = s.slice y := rfl
@[simp] theorem State.parkOn_ctx (s : State) (p : Park) (y : Nat) : (s.parkOn p).ctx y = s.ctx y := rfl
@[simp] theorem State.parkOn_byte (s : State) (p : Park) (y : Nat) : (s.parkOn p).byte y = s.byte y := rfl
@[simp] theorem State.after_thread (s : State) (n : Nat) (i : Instr) (y : Nat) : (s.after n i).thread y = s.thread y := rfl
@[simp] theorem State.after_core (s : State) (n : Nat) (i : Instr) (y : Nat) : (s.after n i).core y = s.core y := rfl
@[simp] theorem State.after_die (s : State) (n : Nat) (i : Instr) (y : Nat) : (s.after n i).die y = s.die y := rfl
@[simp] theorem State.after_slice (s : State) (n : Nat) (i : Instr) (y : Nat) : (s.after n i).slice y = s.slice y := rfl
@[simp] theorem State.after_ctx (s : State) (n : Nat) (i : Instr) (y : Nat) : (s.after n i).ctx y = s.ctx y := rfl
@[simp] theorem State.after_me (s : State) (n : Nat) (i : Instr) : (s.after n i).me = s.me := rfl
@[simp] theorem State.after_byte (s : State) (n : Nat) (i : Instr) (y : Nat) : (s.after n i).byte y = s.byte y := rfl
@[simp] theorem State.setByte_thread (s : State) (k : Nat) (b : Byte) (y : Nat) : (s.setByte k b).thread y = s.thread y := rfl
@[simp] theorem State.setByte_core (s : State) (k : Nat) (b : Byte) (y : Nat) : (s.setByte k b).core y = s.core y := rfl
@[simp] theorem State.setByte_die (s : State) (k : Nat) (b : Byte) (y : Nat) : (s.setByte k b).die y = s.die y := rfl
@[simp] theorem State.setByte_slice (s : State) (k : Nat) (b : Byte) (y : Nat) : (s.setByte k b).slice y = s.slice y := rfl
@[simp] theorem State.setByte_ctx (s : State) (k : Nat) (b : Byte) (y : Nat) : (s.setByte k b).ctx y = s.ctx y := rfl
@[simp] theorem State.setByte_me (s : State) (k : Nat) (b : Byte) : (s.setByte k b).me = s.me := rfl
@[simp] theorem State.nextFree_thread (s : State) (y : Nat) : (s.nextFree).thread y = s.thread y := rfl
@[simp] theorem State.nextFree_core (s : State) (y : Nat) : (s.nextFree).core y = s.core y := rfl
@[simp] theorem State.nextFree_die (s : State) (y : Nat) : (s.nextFree).die y = s.die y := rfl
@[simp] theorem State.nextFree_slice (s : State) (y : Nat) : (s.nextFree).slice y = s.slice y := rfl
@[simp] theorem State.nextFree_ctx (s : State) (y : Nat) : (s.nextFree).ctx y = s.ctx y := rfl
@[simp] theorem State.nextFree_me (s : State) : (s.nextFree).me = s.me := rfl
@[simp] theorem State.nextFree_byte (s : State) (y : Nat) : (s.nextFree).byte y = s.byte y := rfl

/-! ## Memory -/

/-- A byte written is read back, and leaves every other byte alone. -/
@[simp] theorem State.byte_setByte (s : State) (k j : Nat) (b : Byte) : (s.setByte k b).byte j = if j = k then b else s.byte j := by
  simp [State.byte, State.setByte, tget_tput]

/-- Bytes written one behind another, as read afterwards. -/
theorem tget_pokeMem (m : Memory) (k j : Nat) (l : List Byte) :
    tget 0 (pokeMem m k l) j = if k ≤ j ∧ j < k + l.length then l.getD (j - k) 0 else tget 0 m j := by
  induction l generalizing m k with
  | nil => simp [pokeMem]
  | cons b r ih =>
    rw [pokeMem, ih, tget_tput]
    by_cases hj : j = k
    · subst hj; simp
    · by_cases h : k + 1 ≤ j ∧ j < k + 1 + r.length
      · obtain ⟨h1, h2⟩ := h
        have : j - k = j - (k + 1) + 1 := by omega
        rw [if_pos ⟨h1, h2⟩, if_pos ⟨by omega, by simp; omega⟩, this]; simp
      · rw [if_neg h, if_neg hj, if_neg]; simp; omega

/-- Writing bytes keeps the canonical form of memory. -/
theorem wf_pokeMem (m : Memory) (k : Nat) (l : List Byte) (h : Memory.wf m = true) : Memory.wf (pokeMem m k l) = true := by
  induction l generalizing m k with
  | nil => exact h
  | cons b r ih => exact ih _ _ (twf_tput 0 m k b h)

/-- Writing a byte keeps it too. -/
theorem State.wf_setByte (s : State) (k : Nat) (b : Byte) (h : Memory.wf s.mem = true) : Memory.wf (s.setByte k b).mem = true :=
  twf_tput 0 s.mem k b h

/-- Marking a core's regions dirty leaves memory alone (R379). -/
@[simp] theorem State.markDirty_mem (s : State) (k n : Nat) : (s.markDirty k n).mem = s.mem := by unfold State.markDirty; split <;> rfl
@[simp] theorem State.markDirty_empty (s : State) (k n : Nat) : (s.markDirty k n).empty = s.empty := by unfold State.markDirty; split <;> rfl
@[simp] theorem State.markDirty_thread (s : State) (k n t : Nat) : (s.markDirty k n).thread t = s.thread t := by unfold State.markDirty; split <;> rfl

/-- What a byte reads as after bytes are written from key `k` on. -/
theorem State.byte_poke (s : State) (k j : Nat) (l : List Byte) :
    (s.poke k l).byte j = if k ≤ j ∧ j < k + l.length then l.getD (j - k) 0 else s.byte j := by
  simp only [State.byte, State.poke, State.markDirty_mem]
  exact tget_pokeMem s.mem k j l

theorem State.wf_poke (s : State) (k : Nat) (l : List Byte) (h : Memory.wf s.mem = true) : Memory.wf (s.poke k l).mem = true := by
  simp only [State.poke, State.markDirty_mem]
  exact wf_pokeMem s.mem k l h

/-- The memory after reset has the form. -/
theorem State.reset_wf : Memory.wf State.reset.mem = true := rfl

end Sys2Proof.Machine
end

