-- ==== Sys2Proof/Laws/Thread.lean ====
section
/-!
SUPPORT. The laws of a thread's registers and of going on: what a register reads as after each write, and what going on, parking and noting
reads leave alone.
-/

namespace Sys2Proof.Machine

/-! ## Registers -/

/-- The width of a register of a class (R8). -/
def RegClass.width (x : RegClass) : Nat := match x with | .g => 64 | .m => 1024 | .v => 1024 | .c => 128

/-- What a register's state reads as after a write of any register (R22). -/
theorem Thread.stOf_put (t : Thread) (r q : RegRef) (v : Nat) (st : RegState) :
    (t.put r v st).stOf q = if q = r then (if r = gRef 0 then .full else st) else t.stOf q := by
  obtain ⟨rc, ri⟩ := r
  obtain ⟨qc, qi⟩ := q
  cases rc <;> cases qc <;> simp [Thread.put, Thread.stOf, Thread.gReg, Thread.mReg, Thread.vReg, Thread.cReg, gRef, tget_tput]
  · by_cases hr : ri = 0
    · subst hr; by_cases hq : qi = 0 <;> simp [hq]
    · by_cases hq : qi = ri
      · subst hq; simp [hr]
      · by_cases h0 : qi = 0 <;> simp [hr, hq, h0, Ne.symm hr]
  · split <;> rfl
  · split <;> rfl
  · split <;> rfl
  all_goals (split <;> rfl)

/-- What a register's value reads as after a write of any register (R22). -/
theorem Thread.valOf_put (t : Thread) (r q : RegRef) (v : Nat) (st : RegState) :
    (t.put r v st).valOf q = if q = r then (if r = gRef 0 then 0 else v % 2 ^ r.cls.width) else t.valOf q := by
  obtain ⟨rc, ri⟩ := r
  obtain ⟨qc, qi⟩ := q
  cases rc <;> cases qc <;>
    simp [Thread.put, Thread.valOf, Thread.gReg, Thread.mReg, Thread.vReg, Thread.cReg, gRef, tget_tput, RegClass.width]
  · by_cases hr : ri = 0
    · subst hr; by_cases hq : qi = 0 <;> simp [hq]
    · by_cases hq : qi = ri
      · subst hq; simp [hr]
      · by_cases h0 : qi = 0 <;> simp [hr, hq, h0, Ne.symm hr]
  · split <;> rfl
  · split <;> rfl
  · split <;> rfl
  all_goals (split <;> simp)

/-- The writes of the four classes are writes of FULL registers. -/
theorem Thread.setG_eq (t : Thread) {n : Nat} (i : BitVec n) (v : Word) : t.setG i v = t.put (gRef i.toNat) v.toNat .full := by
  simp [Thread.setG, Thread.put, gRef]
theorem Thread.setM_eq (t : Thread) {n : Nat} (i : BitVec n) (v : MSet) : t.setM i v = t.put (mRef i.toNat) v.toNat .full := by
  simp [Thread.setM, Thread.put, mRef]
theorem Thread.setV_eq (t : Thread) {n : Nat} (i : BitVec n) (v : Vec) : t.setV i v = t.put (vRef i.toNat) v.toNat .full := by
  simp [Thread.setV, Thread.put, vRef]
theorem Thread.setC_eq (t : Thread) {n : Nat} (i : BitVec n) (v : VCtx) : t.setC i v = t.put (cRef i.toNat) v.toNat .full := by
  simp [Thread.setC, Thread.put, cRef]

/-- A value by its register's number. -/
theorem Thread.gv_eq (t : Thread) {n : Nat} (i : BitVec n) : (t.gv i).toNat = t.valOf (gRef i.toNat) := rfl
theorem Thread.mv_eq (t : Thread) {n : Nat} (i : BitVec n) : (t.mv i).toNat = t.valOf (mRef i.toNat) := rfl
theorem Thread.vv_eq (t : Thread) {n : Nat} (i : BitVec n) : (t.vv i).toNat = t.valOf (vRef i.toNat) := rfl
theorem Thread.cv_eq (t : Thread) {n : Nat} (i : BitVec n) : (t.cv i).toNat = t.valOf (cRef i.toNat) := rfl

/-- A mask register reads as it was written, the others as before (R191). -/
@[simp] theorem Thread.kReg_setK (t : Thread) {n : Nat} (i : BitVec n) (v : BitVec 32) (j : Nat) :
    (t.setK i v).kReg j = if j = i.toNat then v else t.kReg j := by
  simp [Thread.kReg, Thread.setK, tget_tput]

/-! ## Writes leave the rest of a thread alone -/

@[simp] theorem Thread.put_occupied (t : Thread) (r : RegRef) (v : Nat) (st : RegState) : (t.put r v st).occupied = t.occupied := by unfold Thread.put; split <;> first | rfl | (split <;> rfl)
@[simp] theorem Thread.put_kind (t : Thread) (r : RegRef) (v : Nat) (st : RegState) : (t.put r v st).kind = t.kind := by unfold Thread.put; split <;> first | rfl | (split <;> rfl)
@[simp] theorem Thread.put_epoch (t : Thread) (r : RegRef) (v : Nat) (st : RegState) : (t.put r v st).epoch = t.epoch := by unfold Thread.put; split <;> first | rfl | (split <;> rfl)
@[simp] theorem Thread.put_lti (t : Thread) (r : RegRef) (v : Nat) (st : RegState) : (t.put r v st).lti = t.lti := by unfold Thread.put; split <;> first | rfl | (split <;> rfl)
@[simp] theorem Thread.put_part (t : Thread) (r : RegRef) (v : Nat) (st : RegState) : (t.put r v st).part = t.part := by unfold Thread.put; split <;> first | rfl | (split <;> rfl)
@[simp] theorem Thread.put_ctx (t : Thread) (r : RegRef) (v : Nat) (st : RegState) : (t.put r v st).ctx = t.ctx := by unfold Thread.put; split <;> first | rfl | (split <;> rfl)
@[simp] theorem Thread.put_launch (t : Thread) (r : RegRef) (v : Nat) (st : RegState) : (t.put r v st).launch = t.launch := by unfold Thread.put; split <;> first | rfl | (split <;> rfl)
@[simp] theorem Thread.put_level (t : Thread) (r : RegRef) (v : Nat) (st : RegState) : (t.put r v st).level = t.level := by unfold Thread.put; split <;> first | rfl | (split <;> rfl)
@[simp] theorem Thread.put_link (t : Thread) (r : RegRef) (v : Nat) (st : RegState) : (t.put r v st).link = t.link := by unfold Thread.put; split <;> first | rfl | (split <;> rfl)
@[simp] theorem Thread.put_k (t : Thread) (r : RegRef) (v : Nat) (st : RegState) : (t.put r v st).k = t.k := by unfold Thread.put; split <;> first | rfl | (split <;> rfl)
@[simp] theorem Thread.put_bufU (t : Thread) (r : RegRef) (v : Nat) (st : RegState) : (t.put r v st).bufU = t.bufU := by unfold Thread.put; split <;> first | rfl | (split <;> rfl)
@[simp] theorem Thread.put_bufS (t : Thread) (r : RegRef) (v : Nat) (st : RegState) : (t.put r v st).bufS = t.bufS := by unfold Thread.put; split <;> first | rfl | (split <;> rfl)
@[simp] theorem Thread.put_fpctl (t : Thread) (r : RegRef) (v : Nat) (st : RegState) : (t.put r v st).fpctl = t.fpctl := by unfold Thread.put; split <;> first | rfl | (split <;> rfl)
@[simp] theorem Thread.put_qbase (t : Thread) (r : RegRef) (v : Nat) (st : RegState) : (t.put r v st).qbase = t.qbase := by unfold Thread.put; split <;> first | rfl | (split <;> rfl)
@[simp] theorem Thread.put_qrec (t : Thread) (r : RegRef) (v : Nat) (st : RegState) : (t.put r v st).qrec = t.qrec := by unfold Thread.put; split <;> first | rfl | (split <;> rfl)
@[simp] theorem Thread.put_tbanks (t : Thread) (r : RegRef) (v : Nat) (st : RegState) : (t.put r v st).tbanks = t.tbanks := by unfold Thread.put; split <;> first | rfl | (split <;> rfl)
@[simp] theorem Thread.put_epc (t : Thread) (r : RegRef) (v : Nat) (st : RegState) : (t.put r v st).epc = t.epc := by unfold Thread.put; split <;> first | rfl | (split <;> rfl)
@[simp] theorem Thread.put_ecause (t : Thread) (r : RegRef) (v : Nat) (st : RegState) : (t.put r v st).ecause = t.ecause := by unfold Thread.put; split <;> first | rfl | (split <;> rfl)
@[simp] theorem Thread.put_einfo (t : Thread) (r : RegRef) (v : Nat) (st : RegState) : (t.put r v st).einfo = t.einfo := by unfold Thread.put; split <;> first | rfl | (split <;> rfl)
@[simp] theorem Thread.put_estat (t : Thread) (r : RegRef) (v : Nat) (st : RegState) : (t.put r v st).estat = t.estat := by unfold Thread.put; split <;> first | rfl | (split <;> rfl)
@[simp] theorem Thread.put_escr (t : Thread) (r : RegRef) (v : Nat) (st : RegState) : (t.put r v st).escr = t.escr := by unfold Thread.put; split <;> first | rfl | (split <;> rfl)
@[simp] theorem Thread.put_elcnt (t : Thread) (r : RegRef) (v : Nat) (st : RegState) : (t.put r v st).elcnt = t.elcnt := by unfold Thread.put; split <;> first | rfl | (split <;> rfl)
@[simp] theorem Thread.put_elctl (t : Thread) (r : RegRef) (v : Nat) (st : RegState) : (t.put r v st).elctl = t.elctl := by unfold Thread.put; split <;> first | rfl | (split <;> rfl)
@[simp] theorem Thread.put_elstart (t : Thread) (r : RegRef) (v : Nat) (st : RegState) : (t.put r v st).elstart = t.elstart := by unfold Thread.put; split <;> first | rfl | (split <;> rfl)
@[simp] theorem Thread.put_ctxsel (t : Thread) (r : RegRef) (v : Nat) (st : RegState) : (t.put r v st).ctxsel = t.ctxsel := by unfold Thread.put; split <;> first | rfl | (split <;> rfl)
@[simp] theorem Thread.put_loads (t : Thread) (r : RegRef) (v : Nat) (st : RegState) : (t.put r v st).loads = t.loads := by unfold Thread.put; split <;> first | rfl | (split <;> rfl)
@[simp] theorem Thread.put_stores (t : Thread) (r : RegRef) (v : Nat) (st : RegState) : (t.put r v st).stores = t.stores := by unfold Thread.put; split <;> first | rfl | (split <;> rfl)
@[simp] theorem Thread.put_copies (t : Thread) (r : RegRef) (v : Nat) (st : RegState) : (t.put r v st).copies = t.copies := by unfold Thread.put; split <;> first | rfl | (split <;> rfl)
@[simp] theorem Thread.put_tiles (t : Thread) (r : RegRef) (v : Nat) (st : RegState) : (t.put r v st).tiles = t.tiles := by unfold Thread.put; split <;> first | rfl | (split <;> rfl)
@[simp] theorem Thread.put_storeErr (t : Thread) (r : RegRef) (v : Nat) (st : RegState) : (t.put r v st).storeErr = t.storeErr := by unfold Thread.put; split <;> first | rfl | (split <;> rfl)
@[simp] theorem Thread.put_atomScope (t : Thread) (r : RegRef) (v : Nat) (st : RegState) : (t.put r v st).atomScope = t.atomScope := by unfold Thread.put; split <;> first | rfl | (split <;> rfl)
@[simp] theorem Thread.put_sibLimit (t : Thread) (r : RegRef) (v : Nat) (st : RegState) : (t.put r v st).sibLimit = t.sibLimit := by unfold Thread.put; split <;> first | rfl | (split <;> rfl)
@[simp] theorem Thread.put_sibUnread (t : Thread) (r : RegRef) (v : Nat) (st : RegState) : (t.put r v st).sibUnread = t.sibUnread := by unfold Thread.put; split <;> first | rfl | (split <;> rfl)
@[simp] theorem Thread.put_nanTile (t : Thread) (r : RegRef) (v : Nat) (st : RegState) : (t.put r v st).nanTile = t.nanTile := by unfold Thread.put; split <;> first | rfl | (split <;> rfl)
@[simp] theorem Thread.put_replayDiv (t : Thread) (r : RegRef) (v : Nat) (st : RegState) : (t.put r v st).replayDiv = t.replayDiv := by unfold Thread.put; split <;> first | rfl | (split <;> rfl)
@[simp] theorem Thread.put_nanBell (t : Thread) (r : RegRef) (v : Nat) (st : RegState) : (t.put r v st).nanBell = t.nanBell := by unfold Thread.put; split <;> first | rfl | (split <;> rfl)
@[simp] theorem Thread.put_resv (t : Thread) (r : RegRef) (v : Nat) (st : RegState) : (t.put r v st).resv = t.resv := by unfold Thread.put; split <;> first | rfl | (split <;> rfl)
@[simp] theorem Thread.put_resvVa (t : Thread) (r : RegRef) (v : Nat) (st : RegState) : (t.put r v st).resvVa = t.resvVa := by unfold Thread.put; split <;> first | rfl | (split <;> rfl)
@[simp] theorem Thread.put_stand (t : Thread) (r : RegRef) (v : Nat) (st : RegState) : (t.put r v st).stand = t.stand := by unfold Thread.put; split <;> first | rfl | (split <;> rfl)
@[simp] theorem Thread.put_latch (t : Thread) (r : RegRef) (v : Nat) (st : RegState) : (t.put r v st).latch = t.latch := by unfold Thread.put; split <;> first | rfl | (split <;> rfl)
@[simp] theorem Thread.put_faulted (t : Thread) (r : RegRef) (v : Nat) (st : RegState) : (t.put r v st).faulted = t.faulted := by unfold Thread.put; split <;> first | rfl | (split <;> rfl)
@[simp] theorem Thread.put_stopped (t : Thread) (r : RegRef) (v : Nat) (st : RegState) : (t.put r v st).stopped = t.stopped := by unfold Thread.put; split <;> first | rfl | (split <;> rfl)
@[simp] theorem Thread.put_startFault (t : Thread) (r : RegRef) (v : Nat) (st : RegState) : (t.put r v st).startFault = t.startFault := by unfold Thread.put; split <;> first | rfl | (split <;> rfl)
@[simp] theorem Thread.put_hold (t : Thread) (r : RegRef) (v : Nat) (st : RegState) : (t.put r v st).hold = t.hold := by unfold Thread.put; split <;> first | rfl | (split <;> rfl)
@[simp] theorem Thread.put_acquires (t : Thread) (r : RegRef) (v : Nat) (st : RegState) : (t.put r v st).acquires = t.acquires := by unfold Thread.put; split <;> first | rfl | (split <;> rfl)
@[simp] theorem Thread.put_rfilled (t : Thread) (r : RegRef) (v : Nat) (st : RegState) : (t.put r v st).rfilled = t.rfilled := by unfold Thread.put; split <;> first | rfl | (split <;> rfl)
@[simp] theorem Thread.put_probes (t : Thread) (r : RegRef) (v : Nat) (st : RegState) : (t.put r v st).probes = t.probes := by unfold Thread.put; split <;> first | rfl | (split <;> rfl)
@[simp] theorem Thread.put_ended (t : Thread) (r : RegRef) (v : Nat) (st : RegState) : (t.put r v st).ended = t.ended := by unfold Thread.put; split <;> first | rfl | (split <;> rfl)
@[simp] theorem Thread.put_bellDone (t : Thread) (r : RegRef) (v : Nat) (st : RegState) : (t.put r v st).bellDone = t.bellDone := by unfold Thread.put; split <;> first | rfl | (split <;> rfl)
@[simp] theorem Thread.put_word (t : Thread) (r : RegRef) (v : Nat) (st : RegState) : (t.put r v st).word = t.word := by unfold Thread.put; split <;> first | rfl | (split <;> rfl)
@[simp] theorem Thread.put_pc (t : Thread) (r : RegRef) (v : Nat) (st : RegState) : (t.put r v st).pc = t.pc := by unfold Thread.put; split <;> first | rfl | (split <;> rfl)
@[simp] theorem Thread.put_loopU (t : Thread) (r : RegRef) (v : Nat) (st : RegState) : (t.put r v st).loopU = t.loopU := by unfold Thread.put; split <;> first | rfl | (split <;> rfl)
@[simp] theorem Thread.put_loopS (t : Thread) (r : RegRef) (v : Nat) (st : RegState) : (t.put r v st).loopS = t.loopS := by unfold Thread.put; split <;> first | rfl | (split <;> rfl)
@[simp] theorem Thread.put_lastIssue (t : Thread) (r : RegRef) (v : Nat) (st : RegState) : (t.put r v st).lastIssue = t.lastIssue := by unfold Thread.put; split <;> first | rfl | (split <;> rfl)
@[simp] theorem Thread.put_ownCycle (t : Thread) (r : RegRef) (v : Nat) (st : RegState) : (t.put r v st).ownCycle = t.ownCycle := by unfold Thread.put; split <;> first | rfl | (split <;> rfl)
@[simp] theorem Thread.put_park (t : Thread) (r : RegRef) (v : Nat) (st : RegState) : (t.put r v st).park = t.park := by unfold Thread.put; split <;> first | rfl | (split <;> rfl)
@[simp] theorem Thread.put_phase (t : Thread) (r : RegRef) (v : Nat) (st : RegState) : (t.put r v st).phase = t.phase := by unfold Thread.put; split <;> first | rfl | (split <;> rfl)
@[simp] theorem Thread.put_dskip (t : Thread) (r : RegRef) (v : Nat) (st : RegState) : (t.put r v st).dskip = t.dskip := by unfold Thread.put; split <;> first | rfl | (split <;> rfl)

/-! ## Going on -/

/-- Going on changes the PC, the loop and the bookkeeping of the issue only. -/
theorem Thread.advance_eq (t : Thread) (len now : Nat) : t.advance len now = { t with
    pc := (t.advance len now).pc, loopU := (t.advance len now).loopU, loopS := (t.advance len now).loopS, lastIssue := some now,
    ownCycle := false, park := none, phase := .idle, dskip := false, word := none } := by
  unfold Thread.advance; dsimp only; split
  · split
    · split <;> (simp only [Thread.setLoop]; split <;> rfl)
    · rfl
  · rfl

/-- So does a transfer. -/
theorem Thread.transfer_eq (t : Thread) (target : Word) (call : Bool) (now : Nat) : t.transfer target call now = { t with
    pc := (t.transfer target call now).pc, loopU := (t.transfer target call now).loopU, loopS := (t.transfer target call now).loopS,
    lastIssue := some now, ownCycle := false, park := none, phase := .idle, dskip := false, word := none } := by
  unfold Thread.transfer; dsimp only; split
  · split
    · rfl
    · simp only [Thread.setLoop]; split <;> rfl
  · rfl

@[simp] theorem Thread.advance_occupied (t : Thread) (len now : Nat) : (t.advance len now).occupied = t.occupied := by rw [Thread.advance_eq]
@[simp] theorem Thread.advance_kind (t : Thread) (len now : Nat) : (t.advance len now).kind = t.kind := by rw [Thread.advance_eq]
@[simp] theorem Thread.advance_epoch (t : Thread) (len now : Nat) : (t.advance len now).epoch = t.epoch := by rw [Thread.advance_eq]
@[simp] theorem Thread.advance_lti (t : Thread) (len now : Nat) : (t.advance len now).lti = t.lti := by rw [Thread.advance_eq]
@[simp] theorem Thread.advance_part (t : Thread) (len now : Nat) : (t.advance len now).part = t.part := by rw [Thread.advance_eq]
@[simp] theorem Thread.advance_ctx (t : Thread) (len now : Nat) : (t.advance len now).ctx = t.ctx := by rw [Thread.advance_eq]
@[simp] theorem Thread.advance_launch (t : Thread) (len now : Nat) : (t.advance len now).launch = t.launch := by rw [Thread.advance_eq]
@[simp] theorem Thread.advance_level (t : Thread) (len now : Nat) : (t.advance len now).level = t.level := by rw [Thread.advance_eq]
@[simp] theorem Thread.advance_link (t : Thread) (len now : Nat) : (t.advance len now).link = t.link := by rw [Thread.advance_eq]
@[simp] theorem Thread.advance_g (t : Thread) (len now : Nat) : (t.advance len now).g = t.g := by rw [Thread.advance_eq]
@[simp] theorem Thread.advance_m (t : Thread) (len now : Nat) : (t.advance len now).m = t.m := by rw [Thread.advance_eq]
@[simp] theorem Thread.advance_v (t : Thread) (len now : Nat) : (t.advance len now).v = t.v := by rw [Thread.advance_eq]
@[simp] theorem Thread.advance_c (t : Thread) (len now : Nat) : (t.advance len now).c = t.c := by rw [Thread.advance_eq]
@[simp] theorem Thread.advance_k (t : Thread) (len now : Nat) : (t.advance len now).k = t.k := by rw [Thread.advance_eq]
@[simp] theorem Thread.advance_bufU (t : Thread) (len now : Nat) : (t.advance len now).bufU = t.bufU := by rw [Thread.advance_eq]
@[simp] theorem Thread.advance_bufS (t : Thread) (len now : Nat) : (t.advance len now).bufS = t.bufS := by rw [Thread.advance_eq]
@[simp] theorem Thread.advance_fpctl (t : Thread) (len now : Nat) : (t.advance len now).fpctl = t.fpctl := by rw [Thread.advance_eq]
@[simp] theorem Thread.advance_qbase (t : Thread) (len now : Nat) : (t.advance len now).qbase = t.qbase := by rw [Thread.advance_eq]
@[simp] theorem Thread.advance_qrec (t : Thread) (len now : Nat) : (t.advance len now).qrec = t.qrec := by rw [Thread.advance_eq]
@[simp] theorem Thread.advance_tbanks (t : Thread) (len now : Nat) : (t.advance len now).tbanks = t.tbanks := by rw [Thread.advance_eq]
@[simp] theorem Thread.advance_epc (t : Thread) (len now : Nat) : (t.advance len now).epc = t.epc := by rw [Thread.advance_eq]
@[simp] theorem Thread.advance_ecause (t : Thread) (len now : Nat) : (t.advance len now).ecause = t.ecause := by rw [Thread.advance_eq]
@[simp] theorem Thread.advance_einfo (t : Thread) (len now : Nat) : (t.advance len now).einfo = t.einfo := by rw [Thread.advance_eq]
@[simp] theorem Thread.advance_estat (t : Thread) (len now : Nat) : (t.advance len now).estat = t.estat := by rw [Thread.advance_eq]
@[simp] theorem Thread.advance_escr (t : Thread) (len now : Nat) : (t.advance len now).escr = t.escr := by rw [Thread.advance_eq]
@[simp] theorem Thread.advance_elcnt (t : Thread) (len now : Nat) : (t.advance len now).elcnt = t.elcnt := by rw [Thread.advance_eq]
@[simp] theorem Thread.advance_elctl (t : Thread) (len now : Nat) : (t.advance len now).elctl = t.elctl := by rw [Thread.advance_eq]
@[simp] theorem Thread.advance_elstart (t : Thread) (len now : Nat) : (t.advance len now).elstart = t.elstart := by rw [Thread.advance_eq]
@[simp] theorem Thread.advance_ctxsel (t : Thread) (len now : Nat) : (t.advance len now).ctxsel = t.ctxsel := by rw [Thread.advance_eq]
@[simp] theorem Thread.advance_loads (t : Thread) (len now : Nat) : (t.advance len now).loads = t.loads := by rw [Thread.advance_eq]
@[simp] theorem Thread.advance_stores (t : Thread) (len now : Nat) : (t.advance len now).stores = t.stores := by rw [Thread.advance_eq]
@[simp] theorem Thread.advance_copies (t : Thread) (len now : Nat) : (t.advance len now).copies = t.copies := by rw [Thread.advance_eq]
@[simp] theorem Thread.advance_tiles (t : Thread) (len now : Nat) : (t.advance len now).tiles = t.tiles := by rw [Thread.advance_eq]
@[simp] theorem Thread.advance_storeErr (t : Thread) (len now : Nat) : (t.advance len now).storeErr = t.storeErr := by rw [Thread.advance_eq]
@[simp] theorem Thread.advance_atomScope (t : Thread) (len now : Nat) : (t.advance len now).atomScope = t.atomScope := by rw [Thread.advance_eq]
@[simp] theorem Thread.advance_sibLimit (t : Thread) (len now : Nat) : (t.advance len now).sibLimit = t.sibLimit := by rw [Thread.advance_eq]
@[simp] theorem Thread.advance_sibUnread (t : Thread) (len now : Nat) : (t.advance len now).sibUnread = t.sibUnread := by rw [Thread.advance_eq]
@[simp] theorem Thread.advance_nanTile (t : Thread) (len now : Nat) : (t.advance len now).nanTile = t.nanTile := by rw [Thread.advance_eq]
@[simp] theorem Thread.advance_replayDiv (t : Thread) (len now : Nat) : (t.advance len now).replayDiv = t.replayDiv := by rw [Thread.advance_eq]
@[simp] theorem Thread.advance_nanBell (t : Thread) (len now : Nat) : (t.advance len now).nanBell = t.nanBell := by rw [Thread.advance_eq]
@[simp] theorem Thread.advance_resv (t : Thread) (len now : Nat) : (t.advance len now).resv = t.resv := by rw [Thread.advance_eq]
@[simp] theorem Thread.advance_resvVa (t : Thread) (len now : Nat) : (t.advance len now).resvVa = t.resvVa := by rw [Thread.advance_eq]
@[simp] theorem Thread.advance_stand (t : Thread) (len now : Nat) : (t.advance len now).stand = t.stand := by rw [Thread.advance_eq]
@[simp] theorem Thread.advance_latch (t : Thread) (len now : Nat) : (t.advance len now).latch = t.latch := by rw [Thread.advance_eq]
@[simp] theorem Thread.advance_faulted (t : Thread) (len now : Nat) : (t.advance len now).faulted = t.faulted := by rw [Thread.advance_eq]
@[simp] theorem Thread.advance_stopped (t : Thread) (len now : Nat) : (t.advance len now).stopped = t.stopped := by rw [Thread.advance_eq]
@[simp] theorem Thread.advance_startFault (t : Thread) (len now : Nat) : (t.advance len now).startFault = t.startFault := by rw [Thread.advance_eq]
@[simp] theorem Thread.advance_hold (t : Thread) (len now : Nat) : (t.advance len now).hold = t.hold := by rw [Thread.advance_eq]
@[simp] theorem Thread.advance_acquires (t : Thread) (len now : Nat) : (t.advance len now).acquires = t.acquires := by rw [Thread.advance_eq]
@[simp] theorem Thread.advance_rfilled (t : Thread) (len now : Nat) : (t.advance len now).rfilled = t.rfilled := by rw [Thread.advance_eq]
@[simp] theorem Thread.advance_probes (t : Thread) (len now : Nat) : (t.advance len now).probes = t.probes := by rw [Thread.advance_eq]
@[simp] theorem Thread.advance_ended (t : Thread) (len now : Nat) : (t.advance len now).ended = t.ended := by rw [Thread.advance_eq]
@[simp] theorem Thread.advance_bellDone (t : Thread) (len now : Nat) : (t.advance len now).bellDone = t.bellDone := by rw [Thread.advance_eq]
@[simp] theorem Thread.transfer_occupied (t : Thread) (target : Word) (call : Bool) (now : Nat) : (t.transfer target call now).occupied = t.occupied := by rw [Thread.transfer_eq]
@[simp] theorem Thread.transfer_kind (t : Thread) (target : Word) (call : Bool) (now : Nat) : (t.transfer target call now).kind = t.kind := by rw [Thread.transfer_eq]
@[simp] theorem Thread.transfer_epoch (t : Thread) (target : Word) (call : Bool) (now : Nat) : (t.transfer target call now).epoch = t.epoch := by rw [Thread.transfer_eq]
@[simp] theorem Thread.transfer_lti (t : Thread) (target : Word) (call : Bool) (now : Nat) : (t.transfer target call now).lti = t.lti := by rw [Thread.transfer_eq]
@[simp] theorem Thread.transfer_part (t : Thread) (target : Word) (call : Bool) (now : Nat) : (t.transfer target call now).part = t.part := by rw [Thread.transfer_eq]
@[simp] theorem Thread.transfer_ctx (t : Thread) (target : Word) (call : Bool) (now : Nat) : (t.transfer target call now).ctx = t.ctx := by rw [Thread.transfer_eq]
@[simp] theorem Thread.transfer_launch (t : Thread) (target : Word) (call : Bool) (now : Nat) : (t.transfer target call now).launch = t.launch := by rw [Thread.transfer_eq]
@[simp] theorem Thread.transfer_level (t : Thread) (target : Word) (call : Bool) (now : Nat) : (t.transfer target call now).level = t.level := by rw [Thread.transfer_eq]
@[simp] theorem Thread.transfer_link (t : Thread) (target : Word) (call : Bool) (now : Nat) : (t.transfer target call now).link = t.link := by rw [Thread.transfer_eq]
@[simp] theorem Thread.transfer_g (t : Thread) (target : Word) (call : Bool) (now : Nat) : (t.transfer target call now).g = t.g := by rw [Thread.transfer_eq]
@[simp] theorem Thread.transfer_m (t : Thread) (target : Word) (call : Bool) (now : Nat) : (t.transfer target call now).m = t.m := by rw [Thread.transfer_eq]
@[simp] theorem Thread.transfer_v (t : Thread) (target : Word) (call : Bool) (now : Nat) : (t.transfer target call now).v = t.v := by rw [Thread.transfer_eq]
@[simp] theorem Thread.transfer_c (t : Thread) (target : Word) (call : Bool) (now : Nat) : (t.transfer target call now).c = t.c := by rw [Thread.transfer_eq]
@[simp] theorem Thread.transfer_k (t : Thread) (target : Word) (call : Bool) (now : Nat) : (t.transfer target call now).k = t.k := by rw [Thread.transfer_eq]
@[simp] theorem Thread.transfer_bufU (t : Thread) (target : Word) (call : Bool) (now : Nat) : (t.transfer target call now).bufU = t.bufU := by rw [Thread.transfer_eq]
@[simp] theorem Thread.transfer_bufS (t : Thread) (target : Word) (call : Bool) (now : Nat) : (t.transfer target call now).bufS = t.bufS := by rw [Thread.transfer_eq]
@[simp] theorem Thread.transfer_fpctl (t : Thread) (target : Word) (call : Bool) (now : Nat) : (t.transfer target call now).fpctl = t.fpctl := by rw [Thread.transfer_eq]
@[simp] theorem Thread.transfer_qbase (t : Thread) (target : Word) (call : Bool) (now : Nat) : (t.transfer target call now).qbase = t.qbase := by rw [Thread.transfer_eq]
@[simp] theorem Thread.transfer_qrec (t : Thread) (target : Word) (call : Bool) (now : Nat) : (t.transfer target call now).qrec = t.qrec := by rw [Thread.transfer_eq]
@[simp] theorem Thread.transfer_tbanks (t : Thread) (target : Word) (call : Bool) (now : Nat) : (t.transfer target call now).tbanks = t.tbanks := by rw [Thread.transfer_eq]
@[simp] theorem Thread.transfer_epc (t : Thread) (target : Word) (call : Bool) (now : Nat) : (t.transfer target call now).epc = t.epc := by rw [Thread.transfer_eq]
@[simp] theorem Thread.transfer_ecause (t : Thread) (target : Word) (call : Bool) (now : Nat) : (t.transfer target call now).ecause = t.ecause := by rw [Thread.transfer_eq]
@[simp] theorem Thread.transfer_einfo (t : Thread) (target : Word) (call : Bool) (now : Nat) : (t.transfer target call now).einfo = t.einfo := by rw [Thread.transfer_eq]
@[simp] theorem Thread.transfer_estat (t : Thread) (target : Word) (call : Bool) (now : Nat) : (t.transfer target call now).estat = t.estat := by rw [Thread.transfer_eq]
@[simp] theorem Thread.transfer_escr (t : Thread) (target : Word) (call : Bool) (now : Nat) : (t.transfer target call now).escr = t.escr := by rw [Thread.transfer_eq]
@[simp] theorem Thread.transfer_elcnt (t : Thread) (target : Word) (call : Bool) (now : Nat) : (t.transfer target call now).elcnt = t.elcnt := by rw [Thread.transfer_eq]
@[simp] theorem Thread.transfer_elctl (t : Thread) (target : Word) (call : Bool) (now : Nat) : (t.transfer target call now).elctl = t.elctl := by rw [Thread.transfer_eq]
@[simp] theorem Thread.transfer_elstart (t : Thread) (target : Word) (call : Bool) (now : Nat) : (t.transfer target call now).elstart = t.elstart := by rw [Thread.transfer_eq]
@[simp] theorem Thread.transfer_ctxsel (t : Thread) (target : Word) (call : Bool) (now : Nat) : (t.transfer target call now).ctxsel = t.ctxsel := by rw [Thread.transfer_eq]
@[simp] theorem Thread.transfer_loads (t : Thread) (target : Word) (call : Bool) (now : Nat) : (t.transfer target call now).loads = t.loads := by rw [Thread.transfer_eq]
@[simp] theorem Thread.transfer_stores (t : Thread) (target : Word) (call : Bool) (now : Nat) : (t.transfer target call now).stores = t.stores := by rw [Thread.transfer_eq]
@[simp] theorem Thread.transfer_copies (t : Thread) (target : Word) (call : Bool) (now : Nat) : (t.transfer target call now).copies = t.copies := by rw [Thread.transfer_eq]
@[simp] theorem Thread.transfer_tiles (t : Thread) (target : Word) (call : Bool) (now : Nat) : (t.transfer target call now).tiles = t.tiles := by rw [Thread.transfer_eq]
@[simp] theorem Thread.transfer_storeErr (t : Thread) (target : Word) (call : Bool) (now : Nat) : (t.transfer target call now).storeErr = t.storeErr := by rw [Thread.transfer_eq]
@[simp] theorem Thread.transfer_atomScope (t : Thread) (target : Word) (call : Bool) (now : Nat) : (t.transfer target call now).atomScope = t.atomScope := by rw [Thread.transfer_eq]
@[simp] theorem Thread.transfer_sibLimit (t : Thread) (target : Word) (call : Bool) (now : Nat) : (t.transfer target call now).sibLimit = t.sibLimit := by rw [Thread.transfer_eq]
@[simp] theorem Thread.transfer_sibUnread (t : Thread) (target : Word) (call : Bool) (now : Nat) : (t.transfer target call now).sibUnread = t.sibUnread := by rw [Thread.transfer_eq]
@[simp] theorem Thread.transfer_nanTile (t : Thread) (target : Word) (call : Bool) (now : Nat) : (t.transfer target call now).nanTile = t.nanTile := by rw [Thread.transfer_eq]
@[simp] theorem Thread.transfer_replayDiv (t : Thread) (target : Word) (call : Bool) (now : Nat) : (t.transfer target call now).replayDiv = t.replayDiv := by rw [Thread.transfer_eq]
@[simp] theorem Thread.transfer_nanBell (t : Thread) (target : Word) (call : Bool) (now : Nat) : (t.transfer target call now).nanBell = t.nanBell := by rw [Thread.transfer_eq]
@[simp] theorem Thread.transfer_resv (t : Thread) (target : Word) (call : Bool) (now : Nat) : (t.transfer target call now).resv = t.resv := by rw [Thread.transfer_eq]
@[simp] theorem Thread.transfer_resvVa (t : Thread) (target : Word) (call : Bool) (now : Nat) : (t.transfer target call now).resvVa = t.resvVa := by rw [Thread.transfer_eq]
@[simp] theorem Thread.transfer_stand (t : Thread) (target : Word) (call : Bool) (now : Nat) : (t.transfer target call now).stand = t.stand := by rw [Thread.transfer_eq]
@[simp] theorem Thread.transfer_latch (t : Thread) (target : Word) (call : Bool) (now : Nat) : (t.transfer target call now).latch = t.latch := by rw [Thread.transfer_eq]
@[simp] theorem Thread.transfer_faulted (t : Thread) (target : Word) (call : Bool) (now : Nat) : (t.transfer target call now).faulted = t.faulted := by rw [Thread.transfer_eq]
@[simp] theorem Thread.transfer_stopped (t : Thread) (target : Word) (call : Bool) (now : Nat) : (t.transfer target call now).stopped = t.stopped := by rw [Thread.transfer_eq]
@[simp] theorem Thread.transfer_startFault (t : Thread) (target : Word) (call : Bool) (now : Nat) : (t.transfer target call now).startFault = t.startFault := by rw [Thread.transfer_eq]
@[simp] theorem Thread.transfer_hold (t : Thread) (target : Word) (call : Bool) (now : Nat) : (t.transfer target call now).hold = t.hold := by rw [Thread.transfer_eq]
@[simp] theorem Thread.transfer_acquires (t : Thread) (target : Word) (call : Bool) (now : Nat) : (t.transfer target call now).acquires = t.acquires := by rw [Thread.transfer_eq]
@[simp] theorem Thread.transfer_rfilled (t : Thread) (target : Word) (call : Bool) (now : Nat) : (t.transfer target call now).rfilled = t.rfilled := by rw [Thread.transfer_eq]
@[simp] theorem Thread.transfer_probes (t : Thread) (target : Word) (call : Bool) (now : Nat) : (t.transfer target call now).probes = t.probes := by rw [Thread.transfer_eq]
@[simp] theorem Thread.transfer_ended (t : Thread) (target : Word) (call : Bool) (now : Nat) : (t.transfer target call now).ended = t.ended := by rw [Thread.transfer_eq]
@[simp] theorem Thread.transfer_bellDone (t : Thread) (target : Word) (call : Bool) (now : Nat) : (t.transfer target call now).bellDone = t.bellDone := by rw [Thread.transfer_eq]
@[simp] theorem Thread.advance_stOf (t : Thread) (len now : Nat) (r : RegRef) : (t.advance len now).stOf r = t.stOf r := by
  simp [Thread.stOf, Thread.gReg, Thread.mReg, Thread.vReg, Thread.cReg]
@[simp] theorem Thread.transfer_stOf (t : Thread) (target : Word) (call : Bool) (now : Nat) (r : RegRef) : (t.transfer target call now).stOf r = t.stOf r := by
  simp [Thread.stOf, Thread.gReg, Thread.mReg, Thread.vReg, Thread.cReg]
@[simp] theorem Thread.advance_valOf (t : Thread) (len now : Nat) (r : RegRef) : (t.advance len now).valOf r = t.valOf r := by
  simp [Thread.valOf, Thread.gReg, Thread.mReg, Thread.vReg, Thread.cReg]
@[simp] theorem Thread.transfer_valOf (t : Thread) (target : Word) (call : Bool) (now : Nat) (r : RegRef) : (t.transfer target call now).valOf r = t.valOf r := by
  simp [Thread.valOf, Thread.gReg, Thread.mReg, Thread.vReg, Thread.cReg]
@[simp] theorem Thread.advance_kReg (t : Thread) (len now : Nat) (r : Nat) : (t.advance len now).kReg r = t.kReg r := by
  simp [Thread.kReg]
@[simp] theorem Thread.transfer_kReg (t : Thread) (target : Word) (call : Bool) (now : Nat) (r : Nat) : (t.transfer target call now).kReg r = t.kReg r := by
  simp [Thread.kReg]
@[simp] theorem Thread.advance_park (t : Thread) (len now : Nat) : (t.advance len now).park = none := by rw [Thread.advance_eq]
@[simp] theorem Thread.advance_phase (t : Thread) (len now : Nat) : (t.advance len now).phase = .idle := by rw [Thread.advance_eq]
@[simp] theorem Thread.advance_dskip (t : Thread) (len now : Nat) : (t.advance len now).dskip = false := by rw [Thread.advance_eq]
@[simp] theorem Thread.advance_word (t : Thread) (len now : Nat) : (t.advance len now).word = none := by rw [Thread.advance_eq]
@[simp] theorem Thread.advance_lastIssue (t : Thread) (len now : Nat) : (t.advance len now).lastIssue = some now := by rw [Thread.advance_eq]
@[simp] theorem Thread.advance_ownCycle (t : Thread) (len now : Nat) : (t.advance len now).ownCycle = false := by rw [Thread.advance_eq]
@[simp] theorem Thread.transfer_park (t : Thread) (target : Word) (call : Bool) (now : Nat) : (t.transfer target call now).park = none := by rw [Thread.transfer_eq]
@[simp] theorem Thread.transfer_phase (t : Thread) (target : Word) (call : Bool) (now : Nat) : (t.transfer target call now).phase = .idle := by rw [Thread.transfer_eq]
@[simp] theorem Thread.transfer_dskip (t : Thread) (target : Word) (call : Bool) (now : Nat) : (t.transfer target call now).dskip = false := by rw [Thread.transfer_eq]
@[simp] theorem Thread.transfer_word (t : Thread) (target : Word) (call : Bool) (now : Nat) : (t.transfer target call now).word = none := by rw [Thread.transfer_eq]
@[simp] theorem Thread.transfer_lastIssue (t : Thread) (target : Word) (call : Bool) (now : Nat) : (t.transfer target call now).lastIssue = some now := by rw [Thread.transfer_eq]
@[simp] theorem Thread.transfer_ownCycle (t : Thread) (target : Word) (call : Bool) (now : Nat) : (t.transfer target call now).ownCycle = false := by rw [Thread.transfer_eq]

/-- The PC after an instruction that transfers no control (R48, R90). -/
theorem Thread.advance_pc (t : Thread) (len now : Nat) : (t.advance len now).pc = t.nextPc len := by
  unfold Thread.advance Thread.nextPc Thread.inLoop
  cases h : t.loop with
  | none => rfl
  | some l =>
    simp only [Bool.and_assoc]
    split
    · next h1 =>
      split
      · next h2 => rw [if_neg]; simp; intros; omega
      · next h2 => rw [if_pos]; simp at h1 ⊢; exact ⟨h1.1, h1.2.1, h1.2.2, by omega⟩
    · next h1 => rw [if_neg]; simp at h1 ⊢; intro a b c; exact absurd c (h1 a b)

end Sys2Proof.Machine
end

