-- ==== Sys2Proof/Laws/Issue.lean ====
section
/-!
SUPPORT. What the checks at issue do (04 R74), and the one lemma about instructions that read and write registers: they complete, and change
nothing else.
-/

namespace Sys2Proof.Machine

/-! ## Changes of registers alone -/

theorem Thread.OnlyRegs.trans {a b c : Thread} (h1 : a.OnlyRegs b) (h2 : b.OnlyRegs c) : a.OnlyRegs c := by
  unfold Thread.OnlyRegs at *
  refine h2.trans ?_
  conv => lhs; rw [h1]

theorem Thread.onlyRegs_put (t : Thread) (r : RegRef) (v : Nat) (st : RegState) : t.OnlyRegs (t.put r v st) := by
  unfold Thread.OnlyRegs Thread.put
  split
  · split <;> rfl
  all_goals rfl

theorem Thread.onlyRegs_advance (t : Thread) (len now : Nat) : t.OnlyRegs (t.advance len now) := by
  unfold Thread.OnlyRegs
  conv => lhs; rw [Thread.advance_eq]
  simp

theorem Thread.onlyRegs_transfer (t : Thread) (target : Word) (call : Bool) (now : Nat) : t.OnlyRegs (t.transfer target call now) := by
  unfold Thread.OnlyRegs
  conv => lhs; rw [Thread.transfer_eq]
  simp

/-! ## Noting reads -/

/-- Reading registers changes no more than the two notes about them and the SI copies of the core (R130, R292). -/
structure Noted (s t : State) : Prop where
  state : t = { s with threads := t.threads, cores := t.cores }
  others : ∀ u, u ≠ s.cur → t.thread u = s.thread u
  cores : ∀ c, t.core c = { s.core c with lines := (t.core c).lines }
  me : ∃ a b, t.me = { s.me with sibUnread := a, rfilled := b }

theorem State.dropSI_thread (s : State) (t u : Nat) : (s.dropSI t).thread u = s.thread u := by
  unfold State.dropSI; split <;> rfl

theorem State.dropSI_core (s : State) (t c : Nat) : (s.dropSI t).core c = { s.core c with lines := ((s.dropSI t).core c).lines } := by
  unfold State.dropSI
  split
  · simp only [State.core_updCore]; split
    · next h => subst h; rfl
    · rfl
  · rfl

theorem State.dropSI_state (s : State) (t : Nat) : s.dropSI t = { s with cores := (s.dropSI t).cores } := by
  unfold State.dropSI; split <;> rfl

/-- Dropping SI copies leaves no line that was not there. -/
theorem State.dropSI_lines (s : State) (t c : Nat) (x : Line) (h : x ∈ ((s.dropSI t).core c).lines) : x ∈ (s.core c).lines := by
  unfold State.dropSI at h
  split at h
  · simp only [State.core_updCore] at h; split at h
    · next e => subst e; exact (List.mem_filter.1 h).1
    · exact h
  · exact h

/-- Noting reads leaves no line that was not there. -/
theorem State.noteReads_lines (s : State) (l : List RegRef) (c : Nat) (x : Line) (h : x ∈ ((s.noteReads l).core c).lines) :
    x ∈ (s.core c).lines := by
  unfold State.noteReads at h
  dsimp only at h
  split at h
  · have h1 := State.dropSI_lines _ _ _ _ h
    split at h1 <;> exact h1
  · split at h <;> exact h

theorem State.noted (s : State) (l : List RegRef) : Noted s (s.noteReads l) := by
  have base : Noted s (if s.me.sibUnread.any (fun e => l.contains (gRef e.1)) then
      s.upd (fun t => { t with sibUnread := t.sibUnread.filter (fun e => !l.contains (gRef e.1)) }) else s) := by
    split
    · exact ⟨rfl, fun u h => by simp [h], fun _ => rfl, _, _, State.me_upd s _⟩
    · exact ⟨rfl, fun _ _ => rfl, fun _ => rfl, _, _, rfl⟩
  unfold State.noteReads
  dsimp only
  generalize (if s.me.sibUnread.any (fun e => l.contains (gRef e.1)) then
      s.upd (fun t => { t with sibUnread := t.sibUnread.filter (fun e => !l.contains (gRef e.1)) }) else s) = s1 at base ⊢
  split
  · have hc : s1.cur = s.cur := by rw [base.state]
    obtain ⟨a, b, hab⟩ := base.me
    refine ⟨?_, fun u h => ?_, fun c => ?_, a, b.filter (fun r => !l.contains r), ?_⟩
    · rw [State.dropSI_state]
      conv => lhs; rw [State.upd, State.updThread, State.setThread]
      rw [base.state]
      rfl
    · rw [State.dropSI_thread, State.thread_upd, if_neg (hc ▸ h)]; exact base.others u h
    · rw [State.dropSI_core, State.upd_core, base.cores c]
    · have hd : ∀ x y : State, (x.dropSI y.cur).cur = x.cur := fun x y => by rw [State.dropSI_state]
      show ((s1.upd _).dropSI s.cur).thread ((s1.upd _).dropSI s.cur).cur = _
      rw [hd, State.dropSI_thread]
      show (s1.upd _).me = _
      rw [State.me_upd, hab]
  · exact base

/-- What noting reads leaves as it was. -/
theorem State.noteReads_cur (s : State) (l : List RegRef) : (s.noteReads l).cur = s.cur := by rw [(s.noted l).state]
theorem State.noteReads_now (s : State) (l : List RegRef) : (s.noteReads l).now = s.now := by rw [(s.noted l).state]
theorem State.noteReads_stOf (s : State) (l : List RegRef) (r : RegRef) : (s.noteReads l).me.stOf r = s.me.stOf r := by
  obtain ⟨a, b, h⟩ := (s.noted l).me; rw [h]; rfl
theorem State.noteReads_valOf (s : State) (l : List RegRef) (r : RegRef) : (s.noteReads l).me.valOf r = s.me.valOf r := by
  obtain ⟨a, b, h⟩ := (s.noted l).me; rw [h]; rfl

/-! ## The checks -/

/-- A legal instruction at its level, its operands there, comes to its own part (R74). -/
theorem issue_ready (x : Issue) (k : State → State) (s : State) (hl : x.legal = true) (hm : s.me.level.reaches x.min = true)
    (hr : s.Ready x.srcs x.dsts) : issue x k s = k (s.noteReads x.srcs) := by
  have h1 : x.srcs.find? (fun r => (s.me.stOf r).empty) = none := by
    rw [List.find?_eq_none]; intro r h; rw [hr.1 r h]; decide
  have h2 : x.srcs.find? (fun r => (s.me.stOf r).waits) = none := by
    rw [List.find?_eq_none]; intro r h; rw [hr.1 r h]; decide
  have h3 : x.dsts.find? (fun r => (s.me.stOf r).waits) = none := by
    rw [List.find?_eq_none]; intro r h; rw [hr.2 r h]; decide
  simp [issue, hl, hm, h1, h2, h3]

/-- Every level reaches U (R318). -/
@[simp] theorem Level.reaches_U (l : Level) : l.reaches .U = true := by cases l <;> rfl

/-- An illegal encoding raises ILLEGAL, whatever its operands (R74 step 3). -/
theorem issue_illegal (x : Issue) (k : State → State) (s : State) (hl : x.legal = false) : issue x k s = s.illegal x.len := by
  simp [issue, hl]

/-- A privileged instruction below its level raises PRIV (R74 step 4). -/
theorem issue_priv (x : Issue) (k : State → State) (s : State) (hl : x.legal = true) (hm : s.me.level.reaches x.min = false) :
    issue x k s = s.priv x.len := by
  simp [issue, hl, hm]

/-! ## Instructions over registers -/

/-- The issuing thread's registers change by one write, and it goes on: all else is as it was. -/
theorem onlyRegs_put (s : State) (srcs : List RegRef) (len : Nat) (r : RegRef) (v : Nat) (f : Thread → Thread)
    (hf : f (s.noteReads srcs).me = (s.noteReads srcs).me.put r v .full) :
    OnlyRegs s ((s.noteReads srcs).done len f) [r] [] := by
  have n := s.noted srcs
  obtain ⟨na, nb, nme⟩ := n.me
  have hm : ((s.noteReads srcs).done len f).me = ((s.noteReads srcs).me.put r v .full).advance len (s.noteReads srcs).now := by
    simp [State.done, State.advance, hf]
  refine ⟨?_, fun a => ?_, fun u h => ?_, fun c => ?_, fun c x h => s.noteReads_lines srcs c x h, fun c r => ?_, ?_, fun q hq => ?_, fun i _ => ?_⟩
  · show State.mk .. = _
    conv => lhs; simp only [State.done, State.advance, State.upd, State.updThread, State.setThread]
    rw [n.state]; rfl
  · show (s.noteReads srcs).byte a = _
    rw [n.state]; rfl
  · simp only [State.done, State.advance, State.thread_upd, State.upd_cur]
    have hc := s.noteReads_cur srcs
    rw [if_neg (hc ▸ h), if_neg (hc ▸ h)]; exact n.others u h
  · show (s.noteReads srcs).core c = { s.core c with lines := ((s.noteReads srcs).core c).lines, plb := ((s.noteReads srcs).core c).plb }
    rw [n.cores c]
  · show ((s.noteReads srcs).core c).plbFind r = _
    rw [n.cores c]; rfl
  · rw [hm, nme]
    have h0 : s.me.OnlyRegs { s.me with sibUnread := na, rfilled := nb } := rfl
    exact h0.trans ((Thread.onlyRegs_put _ r v .full).trans (Thread.onlyRegs_advance _ len _))
  · rw [hm]
    simp only [List.mem_singleton] at hq
    simp [Thread.stOf_put, Thread.valOf_put, hq, State.noteReads_stOf, State.noteReads_valOf]
  · rw [hm, nme]
    simp [Thread.kReg]

/-- The issuing thread's registers `l` and masks `ks` change, and it goes on: all else is as it was. -/
theorem onlyRegs_done (s : State) (srcs : List RegRef) (len : Nat) (l : List RegRef) (ks : List Nat) (f : Thread → Thread)
    (h1 : ∀ t : Thread, t.OnlyRegs (f t)) (h2 : ∀ (t : Thread) (r : RegRef), r ∉ l → (f t).stOf r = t.stOf r ∧ (f t).valOf r = t.valOf r)
    (h3 : ∀ (t : Thread) (i : Nat), i ∉ ks → (f t).kReg i = t.kReg i) : OnlyRegs s ((s.noteReads srcs).done len f) l ks := by
  have n := s.noted srcs
  obtain ⟨na, nb, nme⟩ := n.me
  have hm : ((s.noteReads srcs).done len f).me = (f (s.noteReads srcs).me).advance len (s.noteReads srcs).now := by
    simp [State.done, State.advance]
  refine ⟨?_, fun a => ?_, fun u h => ?_, fun c => ?_, fun c x h => s.noteReads_lines srcs c x h, fun c r => ?_, ?_, fun q hq => ?_, fun i hi => ?_⟩
  · show State.mk .. = _
    conv => lhs; simp only [State.done, State.advance, State.upd, State.updThread, State.setThread]
    rw [n.state]; rfl
  · show (s.noteReads srcs).byte a = _
    rw [n.state]; rfl
  · simp only [State.done, State.advance, State.thread_upd, State.upd_cur]
    have hc := s.noteReads_cur srcs
    rw [if_neg (hc ▸ h), if_neg (hc ▸ h)]; exact n.others u h
  · show (s.noteReads srcs).core c = { s.core c with lines := ((s.noteReads srcs).core c).lines, plb := ((s.noteReads srcs).core c).plb }
    rw [n.cores c]
  · show ((s.noteReads srcs).core c).plbFind r = _
    rw [n.cores c]; rfl
  · rw [hm, nme]
    have h0 : s.me.OnlyRegs { s.me with sibUnread := na, rfilled := nb } := rfl
    exact h0.trans ((h1 _).trans (Thread.onlyRegs_advance _ len _))
  · rw [hm]
    simp [h2 _ q hq, State.noteReads_stOf, State.noteReads_valOf]
  · rw [hm, Thread.advance_kReg, h3 _ i hi, nme]; rfl

/-- An instruction that writes no register: the PC goes on. -/
theorem onlyRegs_on (s : State) (srcs : List RegRef) (len : Nat) : OnlyRegs s ((s.noteReads srcs).advance len) [] [] := by
  have n := s.noted srcs
  obtain ⟨na, nb, nme⟩ := n.me
  have hm : ((s.noteReads srcs).advance len).me = (s.noteReads srcs).me.advance len (s.noteReads srcs).now := by simp [State.advance]
  refine ⟨?_, fun a => ?_, fun u h => ?_, fun c => ?_, fun c x h => s.noteReads_lines srcs c x h, fun c r => ?_, ?_, fun q hq => ?_, fun i hi => ?_⟩
  · conv => lhs; simp only [State.advance, State.upd, State.updThread, State.setThread]
    rw [n.state]; rfl
  · show (s.noteReads srcs).byte a = _
    rw [n.state]; rfl
  · simp only [State.advance, State.thread_upd]
    have hc := s.noteReads_cur srcs
    rw [if_neg (hc ▸ h)]; exact n.others u h
  · show (s.noteReads srcs).core c = { s.core c with lines := ((s.noteReads srcs).core c).lines, plb := ((s.noteReads srcs).core c).plb }
    rw [n.cores c]
  · show ((s.noteReads srcs).core c).plbFind r = _
    rw [n.cores c]; rfl
  · rw [hm, nme]
    have h0 : s.me.OnlyRegs { s.me with sibUnread := na, rfilled := nb } := rfl
    exact h0.trans (Thread.onlyRegs_advance _ len _)
  · rw [hm]
    simp [State.noteReads_stOf, State.noteReads_valOf]
  · rw [hm, Thread.advance_kReg, nme]; rfl

/-- An instruction that reads registers `srcs` and writes one register `r` with a value of the thread computes that value. -/
theorem computes_of {i : Instr} {len : Nat} {srcs : List RegRef} {r : RegRef} {v : State → Nat} (f : Thread → Thread) (w : Thread → Nat)
    (he : ∀ s, exec i s = .next (issue { len := len, srcs := srcs, dsts := [r] } (fun s => s.done len f) s))
    (hf : ∀ t, f t = t.put r (w t) .full)
    (hv : ∀ s a b, w { s.me with sibUnread := a, rfilled := b } % 2 ^ r.cls.width = v s) : Computes i len srcs r v := by
  intro s hr
  obtain ⟨a, b, hab⟩ := (s.noted srcs).me
  have hme : ((s.noteReads srcs).done len f).me = ((s.noteReads srcs).me.put r (w (s.noteReads srcs).me) .full).advance len (s.noteReads srcs).now := by
    simp [State.done, State.advance, hf]
  refine ⟨_, (he s).trans (congrArg _ (issue_ready _ _ s rfl (by simp) hr)), ?_, ?_, ?_, onlyRegs_put s srcs len r _ f (hf _)⟩
  · rw [hme, Thread.advance_stOf, Thread.stOf_put]; simp
  · rw [hme, Thread.advance_valOf, Thread.valOf_put, hab, hv]; simp
  · rw [hme, Thread.advance_pc, hab]
    simp [Thread.nextPc, Thread.loop]

/-- The same for a general, a membership and a context register. -/
theorem computesG_of {i : Instr} {len : Nat} {srcs : List RegRef} {n : Nat} {d : BitVec n} {v : State → Word} (f : Thread → Thread)
    (w : Thread → Word) (he : ∀ s, exec i s = .next (issue { len := len, srcs := srcs, dsts := [gRef d.toNat] } (fun s => s.done len f) s))
    (hf : ∀ t, f t = t.setG d (w t)) (hv : ∀ s a b, w { s.me with sibUnread := a, rfilled := b } = v s) : ComputesG i len srcs d v := by
  refine computes_of f (fun t => (w t).toNat) he (fun t => by rw [hf, Thread.setG_eq]) (fun s a b => ?_)
  rw [hv]; exact Nat.mod_eq_of_lt (BitVec.isLt _)

theorem computesM_of {i : Instr} {srcs : List RegRef} {n : Nat} {d : BitVec n} {v : State → MSet} (f : Thread → Thread)
    (w : Thread → MSet) (he : ∀ s, exec i s = .next (issue { len := 4, srcs := srcs, dsts := [mRef d.toNat] } (fun s => s.done 4 f) s))
    (hf : ∀ t, f t = t.setM d (w t)) (hv : ∀ s a b, w { s.me with sibUnread := a, rfilled := b } = v s) : ComputesM i srcs d v := by
  refine computes_of f (fun t => (w t).toNat) he (fun t => by rw [hf, Thread.setM_eq]) (fun s a b => ?_)
  rw [hv]; exact Nat.mod_eq_of_lt (BitVec.isLt _)

/-- A mask instruction. -/
theorem computesK_of {i : Instr} {srcs : List RegRef} {d : BitVec 3} {v : State → Nat → Bool} (f : Thread → Thread) (w : Thread → BitVec 32)
    (he : ∀ s, exec i s = .next (issue { len := 4, srcs := srcs } (fun s => s.done 4 f) s)) (hf : ∀ t, f t = t.setK d (w t))
    (hv : ∀ s a b j, j < 32 → (w { s.me with sibUnread := a, rfilled := b }).getLsbD j = v s j) : ComputesK i srcs d v := by
  intro s hr
  obtain ⟨a, b, hab⟩ := (s.noted srcs).me
  have hme : ((s.noteReads srcs).done 4 f).me = ((s.noteReads srcs).me.setK d (w (s.noteReads srcs).me)).advance 4 (s.noteReads srcs).now := by
    simp [State.done, State.advance, hf]
  refine ⟨_, (he s).trans (congrArg _ (issue_ready _ _ s rfl (by simp) hr)), fun j hj => ?_, ?_, onlyRegs_done s srcs 4 [] [d.toNat] f ?_ ?_ ?_⟩
  · rw [hme, Thread.advance_kReg, Thread.kReg_setK, if_pos rfl, hab, hv s a b j hj]
  · rw [hme, Thread.advance_pc, hab]
    rfl
  · intro t; rw [hf]; rfl
  · intro t r _; rw [hf]; exact ⟨rfl, rfl⟩
  · intro t j hj
    rw [hf, Thread.kReg_setK, if_neg (by simpa using hj)]

end Sys2Proof.Machine
end

