-- ==== Sys2Proof/Laws/Access.lean ====
section
/-!
SUPPORT. The checks of an address (04 R74 steps 8 to 10) and the sending of a long access (06 R108): what each does when it goes on.
-/

namespace Sys2Proof.Machine

/-! ## States that differ by bookkeeping alone -/

/-- Two states that differ at most in the two notes of the issuing thread about reads, and in the data caches and PLBs of the cores. -/
structure Quiet (s t : State) : Prop where
  state : t = { s with threads := t.threads, cores := t.cores }
  others : ∀ u, u ≠ s.cur → t.thread u = s.thread u
  cores : ∀ c, ∃ a b, t.core c = { s.core c with lines := a, plb := b }
  me : ∃ a b, t.me = { s.me with sibUnread := a, rfilled := b }

theorem Quiet.refl (s : State) : Quiet s s := ⟨rfl, fun _ _ => rfl, fun _ => ⟨_, _, rfl⟩, _, _, rfl⟩

theorem Noted.quiet {s t : State} (n : Noted s t) : Quiet s t := ⟨n.state, n.others, fun c => ⟨_, _, n.cores c⟩, n.me⟩

theorem Quiet.cur {s t : State} (q : Quiet s t) : t.cur = s.cur := by rw [q.state]
theorem Quiet.now {s t : State} (q : Quiet s t) : t.now = s.now := by rw [q.state]

theorem Quiet.trans {s t u : State} (a : Quiet s t) (b : Quiet t u) : Quiet s u := by
  refine ⟨?_, fun x h => ?_, fun c => ?_, ?_⟩
  · rw [b.state]; conv => lhs; rw [a.state]
  · rw [b.others x (by rw [a.cur]; exact h), a.others x h]
  · obtain ⟨a1, a2, ha⟩ := a.cores c
    obtain ⟨b1, b2, hb⟩ := b.cores c
    exact ⟨b1, b2, by rw [hb, ha]⟩
  · obtain ⟨a1, a2, ha⟩ := a.me
    obtain ⟨b1, b2, hb⟩ := b.me
    exact ⟨b1, b2, by rw [hb, ha]⟩

/-- A PLB entry just used (R354). -/
theorem Quiet.touch (s : State) (c region now : Nat) : Quiet s (s.updCore c (fun x => x.plbTouch region now)) := by
  refine ⟨rfl, fun _ _ => rfl, fun k => ?_, _, _, rfl⟩
  simp only [State.core_updCore]
  split
  · next h => subst h; exact ⟨_, _, rfl⟩
  · exact ⟨_, _, rfl⟩

theorem Quiet.stOf {s t : State} (q : Quiet s t) (r : RegRef) : t.me.stOf r = s.me.stOf r := by
  obtain ⟨a, b, h⟩ := q.me; rw [h]; rfl
theorem Quiet.valOf {s t : State} (q : Quiet s t) (r : RegRef) : t.me.valOf r = s.me.valOf r := by
  obtain ⟨a, b, h⟩ := q.me; rw [h]; rfl

/-! ## The checks of an address -/

/-- An address that the thread reaches passes the checks, and no more than its PLB entry's use changes. -/
theorem checkAddr_ok {va : Word} {size : Nat} {need : Rights → Bool} {p : Place} (len : Nat) (k : Place → State → State) (s : State)
    (h : s.Reaches va size need p) : ∃ t, Quiet s t ∧ (isGlobal va.toNat = false → t = s) ∧ checkAddr va size need len k s = k p t := by
  obtain ⟨hp, ha, hr⟩ := h
  unfold checkAddr
  rw [hp]
  simp only [ha, ne_eq, not_true_eq_false, if_false]
  unfold checkRight
  by_cases hg : isGlobal va.toNat = true
  · obtain ⟨r, h1, h2⟩ := hr hg
    simp only [hg, Bool.not_true, Bool.false_eq_true, if_false, h1, h2, if_true]
    exact ⟨_, Quiet.touch s _ _ _, by simp, rfl⟩
  · simp only [Bool.not_eq_true] at hg
    simp only [hg, Bool.not_false, if_true]
    exact ⟨s, Quiet.refl s, fun _ => rfl, rfl⟩

/-- What a state's bookkeeping does not touch decides whether an address is reached. -/
theorem Quiet.resolve {s t : State} (q : Quiet s t) (n : Nat) : t.resolve t.cur n = s.resolve s.cur n := by
  have hc : ∀ c, t.nameOf c = s.nameOf c := fun c => by
    obtain ⟨a, b, h⟩ := q.cores c; simp [State.nameOf, h]
  have hp : t.parts = s.parts := by rw [q.state]
  obtain ⟨a, b, hm⟩ := q.me
  have hpart : (t.thread s.cur).part = (s.thread s.cur).part := by
    rw [← q.cur]; show t.me.part = (s.thread t.cur).part; rw [hm, q.cur]; rfl
  unfold State.resolve State.resolveIn
  simp only [hc, hp, q.cur, hpart]

/-! ## Sending -/

theorem Thread.count_put (t : Thread) (r : RegRef) (v : Nat) (st : RegState) (c : CountClass) : (t.put r v st).count c = t.count c := by
  cases c <;> simp [Thread.count]

/-- At a context that neither records nor replays an operation takes no ordinal (R393). -/
theorem loggable_free (len typ op obj : Nat) (byOp : Nat → Bool) (also : Bool) (k : Option Nat → State → State) (s : State) (h : s.Unrolled) :
    loggable len typ op obj byOp also k s = k none s := by
  obtain ⟨h1, h2⟩ := h
  unfold loggable
  dsimp only
  split
  · next e => exact absurd e h1
  · next e => exact absurd e h2
  · rfl

theorem ordinal_free (len : Nat) (k : Option Nat → State → State) (s : State) (h : s.Unrolled) : ordinal len k s = k none s := by
  obtain ⟨h1, h2⟩ := h
  unfold ordinal
  dsimp only
  split
  · next e => exact absurd e h1
  · next e => exact absurd e h2
  · rfl

theorem Quiet.unrolled {s t : State} (q : Quiet s t) (h : s.Unrolled) : t.Unrolled := by
  obtain ⟨a, b, hm⟩ := q.me
  have hl : t.myLevel = s.myLevel := by
    unfold State.myLevel State.levelOf State.ctx
    rw [hm, q.state]
  exact ⟨hl ▸ h.1, hl ▸ h.2⟩

/-- Sending a request at a context that neither records nor replays: it is posted, and the thread goes on. -/
theorem postAccess_free (len : Nat) (r : Req) (s : State) (h : s.Unrolled) (ho : r.ord = none) : postAccess len r s = (s.post r).advance len := by
  have hr : { r with ord := none } = r := by cases r; simp_all
  unfold postAccess
  simp only [loggable_free _ _ _ _ _ _ _ s h, ordinal_free _ _ s h, hr]
  split <;> simp

/-- A thread that may send goes on (R110, R140). -/
theorem memIssue_ok (c : CountClass) (k : State → State) (s : State) (h : s.MaySend c) : memIssue c k s = k s := by
  obtain ⟨h1, h2⟩ := h
  unfold memIssue
  rw [h1]
  by_cases hc : c = .none
  · simp [hc]
  · have := h2 hc
    simp [hc]; omega

theorem Quiet.maySend {s t : State} {c : CountClass} (q : Quiet s t) (h : s.MaySend c) : t.MaySend c := by
  obtain ⟨a, b, hm⟩ := q.me
  refine ⟨by rw [hm]; exact h.1, fun hc => ?_⟩
  have := h.2 hc
  rw [hm]
  cases c <;> exact this

/-! ## What a posted access leaves behind -/

/-- The thread's own part of a post. -/
def Thread.posted (t : Thread) (r : Req) (id : Nat) : Thread :=
  let t1 := t.countUp r.cls
  let t2 := match r.dst with | some d => t1.pendReg d | none => t1
  let t3 := match r.ctxReg with | some k => t2.pendReg (cRef k) | none => t2
  { t3 with acquires := if r.acq then t3.acquires ++ [id] else t3.acquires }

/-- The registers that a request leaves PENDING. -/
def Req.awaits (r : Req) : List RegRef := r.dst.toList ++ (r.ctxReg.map cRef).toList

theorem mem_tins_self {α : Type} (t : Tbl α) (k : Nat) (v : α) : (k, v) ∈ tins t k v := by
  rw [mem_tins]; simp

theorem State.afterOnce_due (s : State) (n : Nat) (i : Instr) : ∃ m, (m, i) ∈ (s.afterOnce n i).pend := by
  unfold State.afterOnce
  split
  · next h =>
    obtain ⟨e, he, hi⟩ := List.any_eq_true.1 h
    simp only [decide_eq_true_eq] at hi
    exact ⟨e.1, by rw [← hi]; exact he⟩
  · exact ⟨_, mem_tins_self _ _ _⟩

@[simp] theorem State.afterOnce_now (s : State) (n : Nat) (i : Instr) : (s.afterOnce n i).now = s.now := by unfold State.afterOnce; split <;> rfl
@[simp] theorem State.afterOnce_busStat (s : State) (n : Nat) (i : Instr) : (s.afterOnce n i).busStat = s.busStat := by unfold State.afterOnce; split <;> rfl
@[simp] theorem State.afterOnce_mem (s : State) (n : Nat) (i : Instr) : (s.afterOnce n i).mem = s.mem := by unfold State.afterOnce; split <;> rfl
@[simp] theorem State.afterOnce_empty (s : State) (n : Nat) (i : Instr) : (s.afterOnce n i).empty = s.empty := by unfold State.afterOnce; split <;> rfl
@[simp] theorem State.afterOnce_ecc (s : State) (n : Nat) (i : Instr) : (s.afterOnce n i).ecc = s.ecc := by unfold State.afterOnce; split <;> rfl
@[simp] theorem State.afterOnce_root (s : State) (n : Nat) (i : Instr) : (s.afterOnce n i).root = s.root := by unfold State.afterOnce; split <;> rfl
@[simp] theorem State.afterOnce_windows (s : State) (n : Nat) (i : Instr) : (s.afterOnce n i).windows = s.windows := by unfold State.afterOnce; split <;> rfl
@[simp] theorem State.afterOnce_modnum (s : State) (n : Nat) (i : Instr) : (s.afterOnce n i).modnum = s.modnum := by unfold State.afterOnce; split <;> rfl
@[simp] theorem State.afterOnce_hapsel (s : State) (n : Nat) (i : Instr) : (s.afterOnce n i).hapsel = s.hapsel := by unfold State.afterOnce; split <;> rfl
@[simp] theorem State.afterOnce_ftports (s : State) (n : Nat) (i : Instr) : (s.afterOnce n i).ftports = s.ftports := by unfold State.afterOnce; split <;> rfl
@[simp] theorem State.afterOnce_ptpport (s : State) (n : Nat) (i : Instr) : (s.afterOnce n i).ptpport = s.ptpport := by unfold State.afterOnce; split <;> rfl
@[simp] theorem State.afterOnce_clockLock (s : State) (n : Nat) (i : Instr) : (s.afterOnce n i).clockLock = s.clockLock := by unfold State.afterOnce; split <;> rfl
@[simp] theorem State.afterOnce_lastCorr (s : State) (n : Nat) (i : Instr) : (s.afterOnce n i).lastCorr = s.lastCorr := by unfold State.afterOnce; split <;> rfl
@[simp] theorem State.afterOnce_tenants (s : State) (n : Nat) (i : Instr) : (s.afterOnce n i).tenants = s.tenants := by unfold State.afterOnce; split <;> rfl
@[simp] theorem State.afterOnce_frames (s : State) (n : Nat) (i : Instr) : (s.afterOnce n i).frames = s.frames := by unfold State.afterOnce; split <;> rfl
@[simp] theorem State.afterOnce_threads (s : State) (n : Nat) (i : Instr) : (s.afterOnce n i).threads = s.threads := by unfold State.afterOnce; split <;> rfl
@[simp] theorem State.afterOnce_cores (s : State) (n : Nat) (i : Instr) : (s.afterOnce n i).cores = s.cores := by unfold State.afterOnce; split <;> rfl
@[simp] theorem State.afterOnce_dies (s : State) (n : Nat) (i : Instr) : (s.afterOnce n i).dies = s.dies := by unfold State.afterOnce; split <;> rfl
@[simp] theorem State.afterOnce_slices (s : State) (n : Nat) (i : Instr) : (s.afterOnce n i).slices = s.slices := by unfold State.afterOnce; split <;> rfl
@[simp] theorem State.afterOnce_links (s : State) (n : Nat) (i : Instr) : (s.afterOnce n i).links = s.links := by unfold State.afterOnce; split <;> rfl
@[simp] theorem State.afterOnce_ctxs (s : State) (n : Nat) (i : Instr) : (s.afterOnce n i).ctxs = s.ctxs := by unfold State.afterOnce; split <;> rfl
@[simp] theorem State.afterOnce_parts (s : State) (n : Nat) (i : Instr) : (s.afterOnce n i).parts = s.parts := by unfold State.afterOnce; split <;> rfl
@[simp] theorem State.afterOnce_launches (s : State) (n : Nat) (i : Instr) : (s.afterOnce n i).launches = s.launches := by unfold State.afterOnce; split <;> rfl
@[simp] theorem State.afterOnce_nextLaunch (s : State) (n : Nat) (i : Instr) : (s.afterOnce n i).nextLaunch = s.nextLaunch := by unfold State.afterOnce; split <;> rfl
@[simp] theorem State.afterOnce_reqs (s : State) (n : Nat) (i : Instr) : (s.afterOnce n i).reqs = s.reqs := by unfold State.afterOnce; split <;> rfl
@[simp] theorem State.afterOnce_syncq (s : State) (n : Nat) (i : Instr) : (s.afterOnce n i).syncq = s.syncq := by unfold State.afterOnce; split <;> rfl
@[simp] theorem State.afterOnce_lastWrite (s : State) (n : Nat) (i : Instr) : (s.afterOnce n i).lastWrite = s.lastWrite := by unfold State.afterOnce; split <;> rfl
@[simp] theorem State.afterOnce_waiters (s : State) (n : Nat) (i : Instr) : (s.afterOnce n i).waiters = s.waiters := by unfold State.afterOnce; split <;> rfl
@[simp] theorem State.afterOnce_copies (s : State) (n : Nat) (i : Instr) : (s.afterOnce n i).copies = s.copies := by unfold State.afterOnce; split <;> rfl
@[simp] theorem State.afterOnce_tileCmds (s : State) (n : Nat) (i : Instr) : (s.afterOnce n i).tileCmds = s.tileCmds := by unfold State.afterOnce; split <;> rfl
@[simp] theorem State.afterOnce_packets (s : State) (n : Nat) (i : Instr) : (s.afterOnce n i).packets = s.packets := by unfold State.afterOnce; split <;> rfl
@[simp] theorem State.afterOnce_reductions (s : State) (n : Nat) (i : Instr) : (s.afterOnce n i).reductions = s.reductions := by unfold State.afterOnce; split <;> rfl
@[simp] theorem State.afterOnce_batch (s : State) (n : Nat) (i : Instr) : (s.afterOnce n i).batch = s.batch := by unfold State.afterOnce; split <;> rfl
@[simp] theorem State.afterOnce_hostOut (s : State) (n : Nat) (i : Instr) : (s.afterOnce n i).hostOut = s.hostOut := by unfold State.afterOnce; split <;> rfl
@[simp] theorem State.afterOnce_driverIrq (s : State) (n : Nat) (i : Instr) : (s.afterOnce n i).driverIrq = s.driverIrq := by unfold State.afterOnce; split <;> rfl
@[simp] theorem State.afterOnce_msgSpillBase (s : State) (n : Nat) (i : Instr) : (s.afterOnce n i).msgSpillBase = s.msgSpillBase := by unfold State.afterOnce; split <;> rfl
@[simp] theorem State.afterOnce_eths (s : State) (n : Nat) (i : Instr) : (s.afterOnce n i).eths = s.eths := by unfold State.afterOnce; split <;> rfl
@[simp] theorem State.afterOnce_ethDrops (s : State) (n : Nat) (i : Instr) : (s.afterOnce n i).ethDrops = s.ethDrops := by unfold State.afterOnce; split <;> rfl
@[simp] theorem State.afterOnce_ethOut (s : State) (n : Nat) (i : Instr) : (s.afterOnce n i).ethOut = s.ethOut := by unfold State.afterOnce; split <;> rfl
@[simp] theorem State.afterOnce_fenced (s : State) (n : Nat) (i : Instr) : (s.afterOnce n i).fenced = s.fenced := by unfold State.afterOnce; split <;> rfl
@[simp] theorem State.afterOnce_saved (s : State) (n : Nat) (i : Instr) : (s.afterOnce n i).saved = s.saved := by unfold State.afterOnce; split <;> rfl
@[simp] theorem State.afterOnce_agenda (s : State) (n : Nat) (i : Instr) : (s.afterOnce n i).agenda = s.agenda := by unfold State.afterOnce; split <;> rfl
@[simp] theorem State.afterOnce_cur (s : State) (n : Nat) (i : Instr) : (s.afterOnce n i).cur = s.cur := by unfold State.afterOnce; split <;> rfl
@[simp] theorem State.afterOnce_iword (s : State) (n : Nat) (i : Instr) : (s.afterOnce n i).iword = s.iword := by unfold State.afterOnce; split <;> rfl
@[simp] theorem State.afterOnce_free (s : State) (n : Nat) (i : Instr) : (s.afterOnce n i).free = s.free := by unfold State.afterOnce; split <;> rfl
@[simp] theorem State.afterOnce_banks (s : State) (n : Nat) (i : Instr) : (s.afterOnce n i).banks = s.banks := by unfold State.afterOnce; split <;> rfl
@[simp] theorem State.afterOnce_bankq (s : State) (n : Nat) (i : Instr) : (s.afterOnce n i).bankq = s.bankq := by unfold State.afterOnce; split <;> rfl
@[simp] theorem State.afterOnce_syncIn (s : State) (n : Nat) (i : Instr) : (s.afterOnce n i).syncIn = s.syncIn := by unfold State.afterOnce; split <;> rfl
@[simp] theorem State.afterOnce_was (s : State) (n : Nat) (i : Instr) : (s.afterOnce n i).was = s.was := by unfold State.afterOnce; split <;> rfl
@[simp] theorem State.afterOnce_nextId (s : State) (n : Nat) (i : Instr) : (s.afterOnce n i).nextId = s.nextId := by unfold State.afterOnce; split <;> rfl
@[simp] theorem State.afterOnce_thread (s : State) (n : Nat) (i : Instr) (u : Nat) : (s.afterOnce n i).thread u = s.thread u := by simp [State.thread]
@[simp] theorem State.afterOnce_byte (s : State) (n : Nat) (i : Instr) (u : Nat) : (s.afterOnce n i).byte u = s.byte u := by simp [State.byte]

@[simp] theorem State.touch_now (s : State) (t g : Nat) : (s.touch t g).now = s.now := by unfold State.touch; dsimp only; split <;> rfl
@[simp] theorem State.touch_busStat (s : State) (t g : Nat) : (s.touch t g).busStat = s.busStat := by unfold State.touch; dsimp only; split <;> rfl
@[simp] theorem State.touch_mem (s : State) (t g : Nat) : (s.touch t g).mem = s.mem := by unfold State.touch; dsimp only; split <;> rfl
@[simp] theorem State.touch_empty (s : State) (t g : Nat) : (s.touch t g).empty = s.empty := by unfold State.touch; dsimp only; split <;> rfl
@[simp] theorem State.touch_ecc (s : State) (t g : Nat) : (s.touch t g).ecc = s.ecc := by unfold State.touch; dsimp only; split <;> rfl
@[simp] theorem State.touch_root (s : State) (t g : Nat) : (s.touch t g).root = s.root := by unfold State.touch; dsimp only; split <;> rfl
@[simp] theorem State.touch_windows (s : State) (t g : Nat) : (s.touch t g).windows = s.windows := by unfold State.touch; dsimp only; split <;> rfl
@[simp] theorem State.touch_modnum (s : State) (t g : Nat) : (s.touch t g).modnum = s.modnum := by unfold State.touch; dsimp only; split <;> rfl
@[simp] theorem State.touch_hapsel (s : State) (t g : Nat) : (s.touch t g).hapsel = s.hapsel := by unfold State.touch; dsimp only; split <;> rfl
@[simp] theorem State.touch_ftports (s : State) (t g : Nat) : (s.touch t g).ftports = s.ftports := by unfold State.touch; dsimp only; split <;> rfl
@[simp] theorem State.touch_ptpport (s : State) (t g : Nat) : (s.touch t g).ptpport = s.ptpport := by unfold State.touch; dsimp only; split <;> rfl
@[simp] theorem State.touch_clockLock (s : State) (t g : Nat) : (s.touch t g).clockLock = s.clockLock := by unfold State.touch; dsimp only; split <;> rfl
@[simp] theorem State.touch_lastCorr (s : State) (t g : Nat) : (s.touch t g).lastCorr = s.lastCorr := by unfold State.touch; dsimp only; split <;> rfl
@[simp] theorem State.touch_tenants (s : State) (t g : Nat) : (s.touch t g).tenants = s.tenants := by unfold State.touch; dsimp only; split <;> rfl
@[simp] theorem State.touch_frames (s : State) (t g : Nat) : (s.touch t g).frames = s.frames := by unfold State.touch; dsimp only; split <;> rfl
@[simp] theorem State.touch_cores (s : State) (t g : Nat) : (s.touch t g).cores = s.cores := by unfold State.touch; dsimp only; split <;> rfl
@[simp] theorem State.touch_dies (s : State) (t g : Nat) : (s.touch t g).dies = s.dies := by unfold State.touch; dsimp only; split <;> rfl
@[simp] theorem State.touch_slices (s : State) (t g : Nat) : (s.touch t g).slices = s.slices := by unfold State.touch; dsimp only; split <;> rfl
@[simp] theorem State.touch_links (s : State) (t g : Nat) : (s.touch t g).links = s.links := by unfold State.touch; dsimp only; split <;> rfl
@[simp] theorem State.touch_ctxs (s : State) (t g : Nat) : (s.touch t g).ctxs = s.ctxs := by unfold State.touch; dsimp only; split <;> rfl
@[simp] theorem State.touch_parts (s : State) (t g : Nat) : (s.touch t g).parts = s.parts := by unfold State.touch; dsimp only; split <;> rfl
@[simp] theorem State.touch_nextLaunch (s : State) (t g : Nat) : (s.touch t g).nextLaunch = s.nextLaunch := by unfold State.touch; dsimp only; split <;> rfl
@[simp] theorem State.touch_reqs (s : State) (t g : Nat) : (s.touch t g).reqs = s.reqs := by unfold State.touch; dsimp only; split <;> rfl
@[simp] theorem State.touch_syncq (s : State) (t g : Nat) : (s.touch t g).syncq = s.syncq := by unfold State.touch; dsimp only; split <;> rfl
@[simp] theorem State.touch_lastWrite (s : State) (t g : Nat) : (s.touch t g).lastWrite = s.lastWrite := by unfold State.touch; dsimp only; split <;> rfl
@[simp] theorem State.touch_waiters (s : State) (t g : Nat) : (s.touch t g).waiters = s.waiters := by unfold State.touch; dsimp only; split <;> rfl
@[simp] theorem State.touch_copies (s : State) (t g : Nat) : (s.touch t g).copies = s.copies := by unfold State.touch; dsimp only; split <;> rfl
@[simp] theorem State.touch_tileCmds (s : State) (t g : Nat) : (s.touch t g).tileCmds = s.tileCmds := by unfold State.touch; dsimp only; split <;> rfl
@[simp] theorem State.touch_packets (s : State) (t g : Nat) : (s.touch t g).packets = s.packets := by unfold State.touch; dsimp only; split <;> rfl
@[simp] theorem State.touch_reductions (s : State) (t g : Nat) : (s.touch t g).reductions = s.reductions := by unfold State.touch; dsimp only; split <;> rfl
@[simp] theorem State.touch_batch (s : State) (t g : Nat) : (s.touch t g).batch = s.batch := by unfold State.touch; dsimp only; split <;> rfl
@[simp] theorem State.touch_hostOut (s : State) (t g : Nat) : (s.touch t g).hostOut = s.hostOut := by unfold State.touch; dsimp only; split <;> rfl
@[simp] theorem State.touch_driverIrq (s : State) (t g : Nat) : (s.touch t g).driverIrq = s.driverIrq := by unfold State.touch; dsimp only; split <;> rfl
@[simp] theorem State.touch_msgSpillBase (s : State) (t g : Nat) : (s.touch t g).msgSpillBase = s.msgSpillBase := by unfold State.touch; dsimp only; split <;> rfl
@[simp] theorem State.touch_eths (s : State) (t g : Nat) : (s.touch t g).eths = s.eths := by unfold State.touch; dsimp only; split <;> rfl
@[simp] theorem State.touch_ethDrops (s : State) (t g : Nat) : (s.touch t g).ethDrops = s.ethDrops := by unfold State.touch; dsimp only; split <;> rfl
@[simp] theorem State.touch_ethOut (s : State) (t g : Nat) : (s.touch t g).ethOut = s.ethOut := by unfold State.touch; dsimp only; split <;> rfl
@[simp] theorem State.touch_fenced (s : State) (t g : Nat) : (s.touch t g).fenced = s.fenced := by unfold State.touch; dsimp only; split <;> rfl
@[simp] theorem State.touch_saved (s : State) (t g : Nat) : (s.touch t g).saved = s.saved := by unfold State.touch; dsimp only; split <;> rfl
@[simp] theorem State.touch_agenda (s : State) (t g : Nat) : (s.touch t g).agenda = s.agenda := by unfold State.touch; dsimp only; split <;> rfl
@[simp] theorem State.touch_pend (s : State) (t g : Nat) : (s.touch t g).pend = s.pend := by unfold State.touch; dsimp only; split <;> rfl
@[simp] theorem State.touch_cur (s : State) (t g : Nat) : (s.touch t g).cur = s.cur := by unfold State.touch; dsimp only; split <;> rfl
@[simp] theorem State.touch_iword (s : State) (t g : Nat) : (s.touch t g).iword = s.iword := by unfold State.touch; dsimp only; split <;> rfl
@[simp] theorem State.touch_free (s : State) (t g : Nat) : (s.touch t g).free = s.free := by unfold State.touch; dsimp only; split <;> rfl
@[simp] theorem State.touch_banks (s : State) (t g : Nat) : (s.touch t g).banks = s.banks := by unfold State.touch; dsimp only; split <;> rfl
@[simp] theorem State.touch_bankq (s : State) (t g : Nat) : (s.touch t g).bankq = s.bankq := by unfold State.touch; dsimp only; split <;> rfl
@[simp] theorem State.touch_syncIn (s : State) (t g : Nat) : (s.touch t g).syncIn = s.syncIn := by unfold State.touch; dsimp only; split <;> rfl
@[simp] theorem State.touch_was (s : State) (t g : Nat) : (s.touch t g).was = s.was := by unfold State.touch; dsimp only; split <;> rfl
@[simp] theorem State.touch_nextId (s : State) (t g : Nat) : (s.touch t g).nextId = s.nextId := by unfold State.touch; dsimp only; split <;> rfl
@[simp] theorem State.touch_thread (s : State) (t g u : Nat) :
    (s.touch t g).thread u = if u = t then { s.thread t with tbanks := (s.thread t).tbanks ||| groupBit g } else s.thread u := by
  have h : (s.touch t g).threads = (s.updThread t (fun x => { x with tbanks := x.tbanks ||| groupBit g })).threads := by
    unfold State.touch; dsimp only; split <;> rfl
  show tget {} (s.touch t g).threads u = _
  rw [h]; exact s.thread_updThread t u _

@[simp] theorem State.postIn_now (s : State) (d : Option Nat) (r : Req) : (s.postIn d r).now = s.now := by unfold State.postIn State.leave; dsimp only [List.foldl]; split <;> simp
@[simp] theorem State.postIn_busStat (s : State) (d : Option Nat) (r : Req) : (s.postIn d r).busStat = s.busStat := by unfold State.postIn State.leave; dsimp only [List.foldl]; split <;> simp
@[simp] theorem State.postIn_mem (s : State) (d : Option Nat) (r : Req) : (s.postIn d r).mem = s.mem := by unfold State.postIn State.leave; dsimp only [List.foldl]; split <;> simp
@[simp] theorem State.postIn_empty (s : State) (d : Option Nat) (r : Req) : (s.postIn d r).empty = s.empty := by unfold State.postIn State.leave; dsimp only [List.foldl]; split <;> simp
@[simp] theorem State.postIn_ecc (s : State) (d : Option Nat) (r : Req) : (s.postIn d r).ecc = s.ecc := by unfold State.postIn State.leave; dsimp only [List.foldl]; split <;> simp
@[simp] theorem State.postIn_root (s : State) (d : Option Nat) (r : Req) : (s.postIn d r).root = s.root := by unfold State.postIn State.leave; dsimp only [List.foldl]; split <;> simp
@[simp] theorem State.postIn_windows (s : State) (d : Option Nat) (r : Req) : (s.postIn d r).windows = s.windows := by unfold State.postIn State.leave; dsimp only [List.foldl]; split <;> simp
@[simp] theorem State.postIn_modnum (s : State) (d : Option Nat) (r : Req) : (s.postIn d r).modnum = s.modnum := by unfold State.postIn State.leave; dsimp only [List.foldl]; split <;> simp
@[simp] theorem State.postIn_hapsel (s : State) (d : Option Nat) (r : Req) : (s.postIn d r).hapsel = s.hapsel := by unfold State.postIn State.leave; dsimp only [List.foldl]; split <;> simp
@[simp] theorem State.postIn_ftports (s : State) (d : Option Nat) (r : Req) : (s.postIn d r).ftports = s.ftports := by unfold State.postIn State.leave; dsimp only [List.foldl]; split <;> simp
@[simp] theorem State.postIn_ptpport (s : State) (d : Option Nat) (r : Req) : (s.postIn d r).ptpport = s.ptpport := by unfold State.postIn State.leave; dsimp only [List.foldl]; split <;> simp
@[simp] theorem State.postIn_clockLock (s : State) (d : Option Nat) (r : Req) : (s.postIn d r).clockLock = s.clockLock := by unfold State.postIn State.leave; dsimp only [List.foldl]; split <;> simp
@[simp] theorem State.postIn_lastCorr (s : State) (d : Option Nat) (r : Req) : (s.postIn d r).lastCorr = s.lastCorr := by unfold State.postIn State.leave; dsimp only [List.foldl]; split <;> simp
@[simp] theorem State.postIn_tenants (s : State) (d : Option Nat) (r : Req) : (s.postIn d r).tenants = s.tenants := by unfold State.postIn State.leave; dsimp only [List.foldl]; split <;> simp
@[simp] theorem State.postIn_frames (s : State) (d : Option Nat) (r : Req) : (s.postIn d r).frames = s.frames := by unfold State.postIn State.leave; dsimp only [List.foldl]; split <;> simp
@[simp] theorem State.postIn_cores (s : State) (d : Option Nat) (r : Req) : (s.postIn d r).cores = s.cores := by unfold State.postIn State.leave; dsimp only [List.foldl]; split <;> simp
@[simp] theorem State.postIn_dies (s : State) (d : Option Nat) (r : Req) : (s.postIn d r).dies = s.dies := by unfold State.postIn State.leave; dsimp only [List.foldl]; split <;> simp
@[simp] theorem State.postIn_slices (s : State) (d : Option Nat) (r : Req) : (s.postIn d r).slices = s.slices := by unfold State.postIn State.leave; dsimp only [List.foldl]; split <;> simp
@[simp] theorem State.postIn_links (s : State) (d : Option Nat) (r : Req) : (s.postIn d r).links = s.links := by unfold State.postIn State.leave; dsimp only [List.foldl]; split <;> simp
@[simp] theorem State.postIn_ctxs (s : State) (d : Option Nat) (r : Req) : (s.postIn d r).ctxs = s.ctxs := by unfold State.postIn State.leave; dsimp only [List.foldl]; split <;> simp
@[simp] theorem State.postIn_parts (s : State) (d : Option Nat) (r : Req) : (s.postIn d r).parts = s.parts := by unfold State.postIn State.leave; dsimp only [List.foldl]; split <;> simp
@[simp] theorem State.postIn_nextLaunch (s : State) (d : Option Nat) (r : Req) : (s.postIn d r).nextLaunch = s.nextLaunch := by unfold State.postIn State.leave; dsimp only [List.foldl]; split <;> simp
@[simp] theorem State.postIn_syncq (s : State) (d : Option Nat) (r : Req) : (s.postIn d r).syncq = s.syncq := by unfold State.postIn State.leave; dsimp only [List.foldl]; split <;> simp
@[simp] theorem State.postIn_lastWrite (s : State) (d : Option Nat) (r : Req) : (s.postIn d r).lastWrite = s.lastWrite := by unfold State.postIn State.leave; dsimp only [List.foldl]; split <;> simp
@[simp] theorem State.postIn_waiters (s : State) (d : Option Nat) (r : Req) : (s.postIn d r).waiters = s.waiters := by unfold State.postIn State.leave; dsimp only [List.foldl]; split <;> simp
@[simp] theorem State.postIn_copies (s : State) (d : Option Nat) (r : Req) : (s.postIn d r).copies = s.copies := by unfold State.postIn State.leave; dsimp only [List.foldl]; split <;> simp
@[simp] theorem State.postIn_tileCmds (s : State) (d : Option Nat) (r : Req) : (s.postIn d r).tileCmds = s.tileCmds := by unfold State.postIn State.leave; dsimp only [List.foldl]; split <;> simp
@[simp] theorem State.postIn_packets (s : State) (d : Option Nat) (r : Req) : (s.postIn d r).packets = s.packets := by unfold State.postIn State.leave; dsimp only [List.foldl]; split <;> simp
@[simp] theorem State.postIn_reductions (s : State) (d : Option Nat) (r : Req) : (s.postIn d r).reductions = s.reductions := by unfold State.postIn State.leave; dsimp only [List.foldl]; split <;> simp
@[simp] theorem State.postIn_hostOut (s : State) (d : Option Nat) (r : Req) : (s.postIn d r).hostOut = s.hostOut := by unfold State.postIn State.leave; dsimp only [List.foldl]; split <;> simp
@[simp] theorem State.postIn_driverIrq (s : State) (d : Option Nat) (r : Req) : (s.postIn d r).driverIrq = s.driverIrq := by unfold State.postIn State.leave; dsimp only [List.foldl]; split <;> simp
@[simp] theorem State.postIn_msgSpillBase (s : State) (d : Option Nat) (r : Req) : (s.postIn d r).msgSpillBase = s.msgSpillBase := by unfold State.postIn State.leave; dsimp only [List.foldl]; split <;> simp
@[simp] theorem State.postIn_eths (s : State) (d : Option Nat) (r : Req) : (s.postIn d r).eths = s.eths := by unfold State.postIn State.leave; dsimp only [List.foldl]; split <;> simp
@[simp] theorem State.postIn_ethDrops (s : State) (d : Option Nat) (r : Req) : (s.postIn d r).ethDrops = s.ethDrops := by unfold State.postIn State.leave; dsimp only [List.foldl]; split <;> simp
@[simp] theorem State.postIn_ethOut (s : State) (d : Option Nat) (r : Req) : (s.postIn d r).ethOut = s.ethOut := by unfold State.postIn State.leave; dsimp only [List.foldl]; split <;> simp
@[simp] theorem State.postIn_fenced (s : State) (d : Option Nat) (r : Req) : (s.postIn d r).fenced = s.fenced := by unfold State.postIn State.leave; dsimp only [List.foldl]; split <;> simp
@[simp] theorem State.postIn_saved (s : State) (d : Option Nat) (r : Req) : (s.postIn d r).saved = s.saved := by unfold State.postIn State.leave; dsimp only [List.foldl]; split <;> simp
@[simp] theorem State.postIn_agenda (s : State) (d : Option Nat) (r : Req) : (s.postIn d r).agenda = s.agenda := by unfold State.postIn State.leave; dsimp only [List.foldl]; split <;> simp
@[simp] theorem State.postIn_cur (s : State) (d : Option Nat) (r : Req) : (s.postIn d r).cur = s.cur := by unfold State.postIn State.leave; dsimp only [List.foldl]; split <;> simp
@[simp] theorem State.postIn_iword (s : State) (d : Option Nat) (r : Req) : (s.postIn d r).iword = s.iword := by unfold State.postIn State.leave; dsimp only [List.foldl]; split <;> simp
@[simp] theorem State.postIn_free (s : State) (d : Option Nat) (r : Req) : (s.postIn d r).free = s.free := by unfold State.postIn State.leave; dsimp only [List.foldl]; split <;> simp
@[simp] theorem State.postIn_banks (s : State) (d : Option Nat) (r : Req) : (s.postIn d r).banks = s.banks := by unfold State.postIn State.leave; dsimp only [List.foldl]; split <;> simp
@[simp] theorem State.postIn_bankq (s : State) (d : Option Nat) (r : Req) : (s.postIn d r).bankq = s.bankq := by unfold State.postIn State.leave; dsimp only [List.foldl]; split <;> simp
@[simp] theorem State.postIn_syncIn (s : State) (d : Option Nat) (r : Req) : (s.postIn d r).syncIn = s.syncIn := by unfold State.postIn State.leave; dsimp only [List.foldl]; split <;> simp
@[simp] theorem State.postIn_was (s : State) (d : Option Nat) (r : Req) : (s.postIn d r).was = s.was := by unfold State.postIn State.leave; dsimp only [List.foldl]; split <;> simp
@[simp] theorem State.postIn_nextId (s : State) (d : Option Nat) (r : Req) : (s.postIn d r).nextId = s.nextId + 1 := by
  unfold State.postIn State.leave; dsimp only [List.foldl]; split <;> simp
/-- A post adds its request. -/
@[simp] theorem State.postIn_reqs (s : State) (d : Option Nat) (r : Req) :
    (s.postIn d r).reqs = s.reqs ++ [{ r with id := s.nextId, tid := s.cur, epoch := s.me.epoch, issued := s.now }] := by
  unfold State.postIn State.leave; dsimp only [List.foldl]; split <;> simp
/-- A post changes the issuing thread, and no other. -/
theorem State.postIn_thread (s : State) (d : Option Nat) (r : Req) (u : Nat) :
    (s.postIn d r).thread u = if u = s.cur then
      { s.me.posted r s.nextId with tbanks := (s.me.posted r s.nextId).tbanks ||| groupBit (s.groupOf (coreOf s.cur) r.place) } else s.thread u := by
  have key : ∀ s1 : State, s1.cur = s.cur → (∀ x, s1.thread x = s.thread x) → ∀ g : Nat,
      ((s1.upd (fun t => t.posted r s.nextId)).touch s.cur g).thread u = if u = s.cur then
        { s.me.posted r s.nextId with tbanks := (s.me.posted r s.nextId).tbanks ||| groupBit g } else s.thread u := by
    intro s1 hc ht g
    have hme : s1.me = s.me := by unfold State.me; rw [hc, ht]
    rw [State.touch_thread, State.thread_upd, State.thread_upd, hc, hme, ht]
    split <;> simp_all
  unfold State.postIn State.leave
  dsimp only [List.foldl]
  split
  · rw [State.afterOnce_thread]
    exact key { s with nextId := s.nextId + 1, reqs := _ } rfl (fun _ => rfl) _
  · rw [State.after_thread]
    exact key { s with nextId := s.nextId + 1, reqs := _ } rfl (fun _ => rfl) _

theorem State.postIn_me (s : State) (d : Option Nat) (r : Req) : (s.postIn d r).me =
    { s.me.posted r s.nextId with tbanks := (s.me.posted r s.nextId).tbanks ||| groupBit (s.groupOf (coreOf s.cur) r.place) } := by
  show (s.postIn d r).thread (s.postIn d r).cur = _
  rw [State.postIn_cur, State.postIn_thread, if_pos rfl]

end Sys2Proof.Machine
end

