-- ==== Sys2Proof/Laws/Control.lean ====
section
/-!
SUPPORT. What a checked transfer of control does (04 R77, 05 R90), and what a trap does (16 R321).
-/

namespace Sys2Proof.Machine

/-- Touching a PLB entry changes no right (R354). -/
theorem Core.plbFind_touch (c : Core) (region now r : Nat) : (c.plbTouch region now).plbFind r = c.plbFind r := by
  unfold Core.plbFind Core.plbTouch updEach
  dsimp only
  induction c.plb with
  | nil => rfl
  | cons e l ih =>
    simp only [List.map_cons, List.find?_cons]
    by_cases h1 : e.region = region <;> by_cases h2 : e.region = r <;> simp_all

/-- The loop after a transfer is what R90 says. -/
theorem Thread.transfer_loop (t : Thread) (target : Word) (call : Bool) (now : Nat) : (t.transfer target call now).loop = t.loopAfter target call := by
  have hi : (t.issued now).loop = t.loop := rfl
  have hs : ∀ (x : Thread) (l : Option LoopState) (p : Word), Thread.loop { x.setLoop l with pc := p } = l := fun x l p => by
    unfold Thread.setLoop Thread.loop
    by_cases h : x.level = .S
    · simp only [if_pos h]
    · simp only [if_neg h]
  have hp : ∀ (x : Thread) (p : Word), Thread.loop { x with pc := p } = x.loop := fun _ _ => rfl
  unfold Thread.transfer Thread.loopAfter Thread.inLoop
  cases h : t.loop with
  | none => simp only [hp, hi, h]
  | some l =>
    dsimp only
    by_cases h1 : l.start.toNat ≤ t.pc.toNat <;> by_cases h2 : t.pc.toNat < l.stop.toNat <;> cases call <;>
      by_cases h3 : l.start.toNat ≤ target.toNat <;> by_cases h4 : target.toNat < l.stop.toNat <;>
      simp [h1, h2, h3, h4, hp, hi, h, hs]

/-- Control transferred to a target that may be executed. -/
theorem goTo_transfers {s u : State} (n : Quiet s u) (hl : ∀ c x, x ∈ (u.core c).lines → x ∈ (s.core c).lines)
    (hb : ∀ c r, (u.core c).plbFind r = (s.core c).plbFind r) (x : Word) (len : Nat) (h : s.Executable x) :
    Transfers s (goTo x len u) x false [] := by
  obtain ⟨h1, h2, r, h3, h4⟩ := h
  obtain ⟨a, b, hab⟩ := n.me
  have hgo : goTo x len u = (u.updCore (coreOf u.cur) (fun y => y.plbTouch (regionOf x.toNat) u.now)).transfer x false := by
    unfold goTo checkTarget checkRight
    simp only [h1, h2, Nat.zero_ne_one, Bool.not_true, Bool.false_eq_true, if_false, hb, n.cur, h3, h4, if_true]
  have q := n.trans (Quiet.touch u (coreOf u.cur) (regionOf x.toNat) u.now)
  generalize hw : u.updCore (coreOf u.cur) (fun y => y.plbTouch (regionOf x.toNat) u.now) = w at q hgo
  have hlines : ∀ c y, y ∈ (w.core c).lines → y ∈ (s.core c).lines := fun c y hy => by
    rw [← hw, State.core_updCore] at hy
    split at hy
    · next e => subst e; exact hl _ y hy
    · exact hl c y hy
  have hplb : ∀ c r, (w.core c).plbFind r = (s.core c).plbFind r := fun c r => by
    rw [← hw, State.core_updCore]
    split
    · next e => subst e; rw [Core.plbFind_touch, hb]
    · exact hb c r
  have hcur : w.cur = s.cur := q.cur
  obtain ⟨wa, wb, wme⟩ := q.me
  have hme : (w.transfer x false).me = w.me.transfer x false w.now := by unfold State.transfer; rw [State.me_upd]
  rw [hgo]
  refine ⟨?_, ?_, ?_, fun a => ?_, fun v h => ?_, fun c => ?_, hlines, hplb, ?_, fun r _ => ?_, fun i _ => ?_⟩
  · rw [hme]; unfold Thread.transfer; dsimp only; repeat' split
    all_goals rfl
  · rw [hme, Thread.transfer_loop, wme]; rfl
  · conv => lhs; rw [State.transfer, State.upd, State.updThread, State.setThread]
    rw [q.state]; rfl
  · show w.byte a = _; rw [q.state]; rfl
  · unfold State.transfer
    rw [State.thread_upd, if_neg (hcur ▸ h)]; exact q.others v h
  · obtain ⟨a1, b1, hc⟩ := q.cores c
    show w.core c = { s.core c with lines := (w.core c).lines, plb := (w.core c).plb }
    rw [hc]
  · rw [hme, wme]
    have h0 : s.me.OnlyRegs { s.me with sibUnread := wa, rfilled := wb } := rfl
    exact h0.trans (Thread.onlyRegs_transfer _ _ _ _)
  · rw [hme]; constructor
    · rw [Thread.transfer_stOf]; exact q.stOf r
    · rw [Thread.transfer_valOf]; exact q.valOf r
  · rw [hme, Thread.transfer_kReg, wme]; rfl

/-- A branch of the 32-bit form, not taken, and taken to a target that may be executed. -/
theorem branch_ok (cond : Word → Word → Bool) (p : Word → Word → Prop) (hp : ∀ a b, cond a b = true ↔ p a b) (i : BitVec 10) (b a : BitVec 6)
    (ins : Instr) (he : ∀ s, exec ins s = .next (branch cond i b a s)) :
    ∀ s, s.Ready [gRef a.toNat, gRef b.toNat] [] →
      (¬ p (s.me.gv a) (s.me.gv b) → ∃ t, exec ins s = .next t ∧ t.me.pc = s.me.nextPc 4 ∧ OnlyRegs s t [] []) ∧
      (p (s.me.gv a) (s.me.gv b) → s.Executable (s.me.pc + i.signExtend 64 * 2) →
        ∃ t, exec ins s = .next t ∧ Transfers s t (s.me.pc + i.signExtend 64 * 2) false []) := by
  intro s hr
  have n := s.noted [gRef a.toNat, gRef b.toNat]
  have ha : ∀ x : BitVec 6, (s.noteReads [gRef a.toNat, gRef b.toNat]).me.gv x = s.me.gv x := fun x => by
    obtain ⟨u, v, h⟩ := n.me; rw [h]; rfl
  have hpc : (s.noteReads [gRef a.toNat, gRef b.toNat]).me.pc = s.me.pc := by
    obtain ⟨u, v, h⟩ := n.me; rw [h]
  constructor
  · intro h
    refine ⟨_, (he s).trans (congrArg _ (issue_ready _ _ s rfl (by simp) hr)), ?_, ?_⟩
    all_goals dsimp only
    all_goals rw [ha, ha, if_neg (fun c => h ((hp _ _).1 c))]
    · rw [State.advance, State.me_upd, Thread.advance_pc]
      obtain ⟨u, v, e⟩ := n.me; rw [e]; simp [Thread.nextPc, Thread.loop]
    · exact onlyRegs_on s _ 4
  · intro h hx
    refine ⟨_, (he s).trans (congrArg _ (issue_ready _ _ s rfl (by simp) hr)), ?_⟩
    dsimp only
    rw [ha, ha, if_pos ((hp _ _).2 h)]
    have : (s.noteReads [gRef a.toNat, gRef b.toNat]).me.rel i = s.me.pc + i.signExtend 64 * 2 := by
      unfold Thread.rel; rw [hpc]; rfl
    rw [this]
    exact goTo_transfers n.quiet (fun c y => s.noteReads_lines _ c y) (fun c r => by rw [n.cores c]; rfl) _ 4 hx

end Sys2Proof.Machine
end

