-- ==== Sys2Proof/Laws/PerInstr.lean ====
section
/-!
SUPPORT. Facts made per instruction: an instruction's word fits its length, and bit 0 of the word says that length (04 R48, R52, R53).
-/

namespace Sys2Proof.Laws
open Sys2Proof Sys2Proof.Machine

/-- The word of an instruction fits its length, and its bit 0 is 0 for a halfword and 1 for two; a step of the hardware has no word. -/
def WordFits.Statement (i : Instr) : Prop :=
  i.word < 2 ^ (8 * i.size) ∧ (i.size = 2 → i.word % 2 = 0) ∧ (i.size = 4 → i.word % 2 = 1)

theorem fits_step (i : Instr) (hw : i.word = 0) (hs : i.size = 0) : WordFits.Statement i := by
  unfold WordFits.Statement; rw [hw, hs]; decide
theorem fits_short (i : Instr) (n : Nat) (hw : i.word = n) (hs : i.size = 2) (h : n < 65536 ∧ n % 2 = 0) : WordFits.Statement i := by
  unfold WordFits.Statement; rw [hw, hs]; exact ⟨h.1, fun _ => h.2, fun h => absurd h (by decide)⟩
theorem fits_word (i : Instr) (n : Nat) (hw : i.word = n) (hs : i.size = 4) (h : n < 4294967296 ∧ n % 2 = 1) : WordFits.Statement i := by
  unfold WordFits.Statement; rw [hw, hs]; exact ⟨h.1, fun h => absurd h (by decide), fun _ => h.2⟩

theorem WordFits.lentCycle (core : Nat) : WordFits.Statement (.lentCycle core) := fits_step _ rfl rfl
theorem WordFits.fillLands (id : Nat) : WordFits.Statement (.fillLands id) := fits_step _ rfl rfl
theorem WordFits.errorResponse (id : Nat) : WordFits.Statement (.errorResponse id) := fits_step _ rfl rfl
theorem WordFits.storeAck (id : Nat) : WordFits.Statement (.storeAck id) := fits_step _ rfl rfl
theorem WordFits.dividerFill (tid epoch reg : Nat) (value : Word) : WordFits.Statement (.dividerFill tid epoch reg value) := fits_step _ rfl rfl
theorem WordFits.faultNotice (id : Nat) : WordFits.Statement (.faultNotice id) := fits_step _ rfl rfl
theorem WordFits.faultWakeRejoin (tid : Nat) : WordFits.Statement (.faultWakeRejoin tid) := fits_step _ rfl rfl
theorem WordFits.dequeTake (core : Nat) : WordFits.Statement (.dequeTake core) := fits_step _ rfl rfl
theorem WordFits.stealAttempt (core : Nat) : WordFits.Statement (.stealAttempt core) := fits_step _ rfl rfl
theorem WordFits.stealRequest (thief victim : Nat) : WordFits.Statement (.stealRequest thief victim) := fits_step _ rfl rfl
theorem WordFits.stealReply (thief victim : Nat) (found : Bool) : WordFits.Statement (.stealReply thief victim found) := fits_step _ rfl rfl
theorem WordFits.dequeRefill (core : Nat) : WordFits.Statement (.dequeRefill core) := fits_step _ rfl rfl
theorem WordFits.resourceRequest (die kind addr : Nat) (tid : Option Nat) : WordFits.Statement (.resourceRequest die kind addr tid) := fits_step _ rfl rfl
theorem WordFits.resourceRestart (tid : Nat) : WordFits.Statement (.resourceRestart tid) := fits_step _ rfl rfl
theorem WordFits.messageArrival (pkt : Nat) : WordFits.Statement (.messageArrival pkt) := fits_step _ rfl rfl
theorem WordFits.handlerStart (core : Nat) : WordFits.Statement (.handlerStart core) := fits_step _ rfl rfl
theorem WordFits.rfillArrival (pkt : Nat) : WordFits.Statement (.rfillArrival pkt) := fits_step _ rfl rfl
theorem WordFits.evsigDelivery (id : Nat) : WordFits.Statement (.evsigDelivery id) := fits_step _ rfl rfl
theorem WordFits.bankAccess (id : AccessStep) : WordFits.Statement (.bankAccess id) := fits_step _ rfl rfl
theorem WordFits.homeAccess (id : AccessStep) : WordFits.Statement (.homeAccess id) := fits_step _ rfl rfl
theorem WordFits.partialEviction (core line : Nat) : WordFits.Statement (.partialEviction core line) := fits_step _ rfl rfl
theorem WordFits.bellUpdate (credit : Credit) : WordFits.Statement (.bellUpdate credit) := fits_step _ rfl rfl
theorem WordFits.barrierArrival (id : Nat) : WordFits.Statement (.barrierArrival id) := fits_step _ rfl rfl
theorem WordFits.waitBellNotice (cmd : Nat) : WordFits.Statement (.waitBellNotice cmd) := fits_step _ rfl rfl
theorem WordFits.fenceProbe (tid epoch group : Nat) : WordFits.Statement (.fenceProbe tid epoch group) := fits_step _ rfl rfl
theorem WordFits.fenceEcho (tid epoch group : Nat) : WordFits.Statement (.fenceEcho tid epoch group) := fits_step _ rfl rfl
theorem WordFits.atomicIntervalEnd (interval : Nat) : WordFits.Statement (.atomicIntervalEnd interval) := fits_step _ rfl rfl
theorem WordFits.plbRefill (core tid region : Nat) : WordFits.Statement (.plbRefill core tid region) := fits_step _ rfl rfl
theorem WordFits.copyAccept (id : Nat) : WordFits.Statement (.copyAccept id) := fits_step _ rfl rfl
theorem WordFits.copyStart (id : Nat) : WordFits.Statement (.copyStart id) := fits_step _ rfl rfl
theorem WordFits.copyShare (id : CopyStep) : WordFits.Statement (.copyShare id) := fits_step _ rfl rfl
theorem WordFits.copyComplete (id : Nat) : WordFits.Statement (.copyComplete id) := fits_step _ rfl rfl
theorem WordFits.mcpostDelivery (id : Nat) : WordFits.Statement (.mcpostDelivery id) := fits_step _ rfl rfl
theorem WordFits.ttsetServe (id : Nat) : WordFits.Statement (.ttsetServe id) := fits_step _ rfl rfl
theorem WordFits.taskAccept (id : Nat) : WordFits.Statement (.taskAccept id) := fits_step _ rfl rfl
theorem WordFits.taskDispatch (id : Nat) : WordFits.Statement (.taskDispatch id) := fits_step _ rfl rfl
theorem WordFits.kStep (core : Nat) : WordFits.Statement (.kStep core) := fits_step _ rfl rfl
theorem WordFits.taskDrain (core : Nat) : WordFits.Statement (.taskDrain core) := fits_step _ rfl rfl
theorem WordFits.taskComplete (id : Nat) : WordFits.Statement (.taskComplete id) := fits_step _ rfl rfl
theorem WordFits.accumulatorMoveRun (id : Nat) : WordFits.Statement (.accumulatorMoveRun id) := fits_step _ rfl rfl
theorem WordFits.engineSelfTest (core : Nat) (failing : BitVec 16) : WordFits.Statement (.engineSelfTest core failing) := fits_step _ rfl rfl
theorem WordFits.rollCallArrival (id : Nat) : WordFits.Statement (.rollCallArrival id) := fits_step _ rfl rfl
theorem WordFits.rollCallLeave (id : Nat) : WordFits.Statement (.rollCallLeave id) := fits_step _ rfl rfl
theorem WordFits.packetHop (pkt : Nat) : WordFits.Statement (.packetHop pkt) := fits_step _ rfl rfl
theorem WordFits.outputAging (pkt : Nat) : WordFits.Statement (.outputAging pkt) := fits_step _ rfl rfl
theorem WordFits.packetDelivery (pkt : Nat) : WordFits.Statement (.packetDelivery pkt) := fits_step _ rfl rfl
theorem WordFits.turnRequest (id : Nat) : WordFits.Statement (.turnRequest id) := fits_step _ rfl rfl
theorem WordFits.turnBoundary (link : Nat) : WordFits.Statement (.turnBoundary link) := fits_step _ rfl rfl
theorem WordFits.groupTurnDone (link group : Nat) : WordFits.Statement (.groupTurnDone link group) := fits_step _ rfl rfl
theorem WordFits.notifyStore (part queue : Nat) (value : Word) (host : Bool) : WordFits.Statement (.notifyStore part queue value host) := fits_step _ rfl rfl
theorem WordFits.headerPoll (part queue : Nat) : WordFits.Statement (.headerPoll part queue) := fits_step _ rfl rfl
theorem WordFits.dispatchOpportunity (die : Nat) : WordFits.Statement (.dispatchOpportunity die) := fits_step _ rfl rfl
theorem WordFits.queueAging (part queue : Nat) : WordFits.Statement (.queueAging part queue) := fits_step _ rfl rfl
theorem WordFits.launch (part queue : Nat) : WordFits.Statement (.launch part queue) := fits_step _ rfl rfl
theorem WordFits.launchStart (part queue : Nat) : WordFits.Statement (.launchStart part queue) := fits_step _ rfl rfl
theorem WordFits.launchStateArrival (launch core : Nat) : WordFits.Statement (.launchStateArrival launch core) := fits_step _ rfl rfl
theorem WordFits.launchComplete (launch : Nat) : WordFits.Statement (.launchComplete launch) := fits_step _ rfl rfl
theorem WordFits.waitsig (part queue : Nat) : WordFits.Statement (.waitsig part queue) := fits_step _ rfl rfl
theorem WordFits.nopPacket (part queue : Nat) : WordFits.Statement (.nopPacket part queue) := fits_step _ rfl rfl
theorem WordFits.setdet (part : Nat) : WordFits.Statement (.setdet part) := fits_step _ rfl rfl
theorem WordFits.setdetComplete (part : Nat) : WordFits.Statement (.setdetComplete part) := fits_step _ rfl rfl
theorem WordFits.csrw (part : Nat) : WordFits.Statement (.csrw part) := fits_step _ rfl rfl
theorem WordFits.qcreate (part : Nat) : WordFits.Statement (.qcreate part) := fits_step _ rfl rfl
theorem WordFits.qdestroy (part : Nat) : WordFits.Statement (.qdestroy part) := fits_step _ rfl rfl
theorem WordFits.resize (part : Nat) : WordFits.Statement (.resize part) := fits_step _ rfl rfl
theorem WordFits.abort (part : Nat) : WordFits.Statement (.abort part) := fits_step _ rfl rfl
theorem WordFits.reservedPacketType (part queue : Nat) : WordFits.Statement (.reservedPacketType part queue) := fits_step _ rfl rfl
theorem WordFits.eventRetry (die : Nat) : WordFits.Statement (.eventRetry die) := fits_step _ rfl rfl
theorem WordFits.faultRetry (slice : Nat) : WordFits.Statement (.faultRetry slice) := fits_step _ rfl rfl
theorem WordFits.fqtailWrite (die : Nat) (value : Word) : WordFits.Statement (.fqtailWrite die value) := fits_step _ rfl rfl
theorem WordFits.wake (die : Nat) (value : Word) : WordFits.Statement (.wake die value) := fits_step _ rfl rfl
theorem WordFits.nqtailWrite (die : Nat) (value : Word) : WordFits.Statement (.nqtailWrite die value) := fits_step _ rfl rfl
theorem WordFits.ndone (die : Nat) (value : Word) : WordFits.Statement (.ndone die value) := fits_step _ rfl rfl
theorem WordFits.novfWrite (die : Nat) (value : Word) : WordFits.Statement (.novfWrite die value) := fits_step _ rfl rfl
theorem WordFits.inval (die : Nat) (value : Word) : WordFits.Statement (.inval die value) := fits_step _ rfl rfl
theorem WordFits.invalidationDone (die : Nat) : WordFits.Statement (.invalidationDone die) := fits_step _ rfl rfl
theorem WordFits.eqtailWrite (die : Nat) (value : Word) : WordFits.Statement (.eqtailWrite die value) := fits_step _ rfl rfl
theorem WordFits.managementWrite (reg : MgmtReg) (value : Word) : WordFits.Statement (.managementWrite reg value) := fits_step _ rfl rfl
theorem WordFits.preemptSave (die core tag : Nat) : WordFits.Statement (.preemptSave die core tag) := fits_step _ rfl rfl
theorem WordFits.preemptResume (die core tag : Nat) : WordFits.Statement (.preemptResume die core tag) := fits_step _ rfl rfl
theorem WordFits.pestatRead (die : Nat) : WordFits.Statement (.pestatRead die) := fits_step _ rfl rfl
theorem WordFits.rmdata (die : Nat) (value : Word) : WordFits.Statement (.rmdata die value) := fits_step _ rfl rfl
theorem WordFits.remapInstallDone (die : Nat) : WordFits.Statement (.remapInstallDone die) := fits_step _ rfl rfl
theorem WordFits.meshInterrupt (die : Nat) : WordFits.Statement (.meshInterrupt die) := fits_step _ rfl rfl
theorem WordFits.coreStop (die : Nat) : WordFits.Statement (.coreStop die) := fits_step _ rfl rfl
theorem WordFits.quiesceDone (die : Nat) : WordFits.Statement (.quiesceDone die) := fits_step _ rfl rfl
theorem WordFits.imageWritten (die : Nat) : WordFits.Statement (.imageWritten die) := fits_step _ rfl rfl
theorem WordFits.engineSectionRestore (die : Nat) (image : Nat) : WordFits.Statement (.engineSectionRestore die image) := fits_step _ rfl rfl
theorem WordFits.spillRedelivery (core : Nat) : WordFits.Statement (.spillRedelivery core) := fits_step _ rfl rfl
theorem WordFits.resumeDone (core : Nat) : WordFits.Statement (.resumeDone core) := fits_step _ rfl rfl
theorem WordFits.coreGate (core : Nat) : WordFits.Statement (.coreGate core) := fits_step _ rfl rfl
theorem WordFits.coreWake (core : Nat) : WordFits.Statement (.coreWake core) := fits_step _ rfl rfl
theorem WordFits.rollRecordWrite (ctx : Nat) : WordFits.Statement (.rollRecordWrite ctx) := fits_step _ rfl rfl
theorem WordFits.logtailWrite (ctx : Nat) (value : Word) : WordFits.Statement (.logtailWrite ctx value) := fits_step _ rfl rfl
theorem WordFits.rollRecordTake (ctx : Nat) : WordFits.Statement (.rollRecordTake ctx) := fits_step _ rfl rfl
theorem WordFits.hostAccess (access : HostAccess) : WordFits.Statement (.hostAccess access) := fits_step _ rfl rfl
theorem WordFits.hostAtomic (access : HostAccess) (op : BitVec 4) (wide : Bool) (cmp : Word) : WordFits.Statement (.hostAtomic access op wide cmp) := fits_step _ rfl rfl
theorem WordFits.sysatomCasLoop (id : Nat) : WordFits.Statement (.sysatomCasLoop id) := fits_step _ rfl rfl
theorem WordFits.reductionContribution (window offset module : Nat) (value : Word) : WordFits.Statement (.reductionContribution window offset module value) := fits_step _ rfl rfl
theorem WordFits.timestampCorrection (forward : Bool) : WordFits.Statement (.timestampCorrection forward) := fits_step _ rfl rfl
theorem WordFits.ethernetTransmit (port : Nat) : WordFits.Statement (.ethernetTransmit port) := fits_step _ rfl rfl
theorem WordFits.ethernetReceive (port : Nat) (frame : List Byte) (fcsGood : Bool) : WordFits.Statement (.ethernetReceive port frame fcsGood) := fits_step _ rfl rfl
theorem WordFits.moduleReset : WordFits.Statement .moduleReset := fits_step _ rfl rfl
theorem WordFits.resetStepDone (failed : List FailedPart) : WordFits.Statement (.resetStepDone failed) := fits_step _ rfl rfl
theorem WordFits.fwgo (die : Nat) (value : Word) : WordFits.Statement (.fwgo die value) := fits_step _ rfl rfl
theorem WordFits.firmwareReady (die : Nat) : WordFits.Statement (.firmwareReady die) := fits_step _ rfl rfl
theorem WordFits.firmwareFault (die : Nat) : WordFits.Statement (.firmwareFault die) := fits_step _ rfl rfl
theorem WordFits.scrubRead (word : Nat) : WordFits.Statement (.scrubRead word) := fits_step _ rfl rfl
theorem WordFits.eltailWrite (die : Nat) (value : Word) : WordFits.Statement (.eltailWrite die value) := fits_step _ rfl rfl
theorem WordFits.illegalEncoding (word : BitVec 32) : WordFits.Statement (.illegalEncoding word) := fits_step _ rfl rfl
theorem WordFits.proctorProxyComplete (die : Nat) : WordFits.Statement (.proctorProxyComplete die) := fits_step _ rfl rfl
theorem WordFits.overflowMemoryGrant (die amount : Nat) : WordFits.Statement (.overflowMemoryGrant die amount) := fits_step _ rfl rfl
theorem WordFits.clockLock (locked : Bool) : WordFits.Statement (.clockLock locked) := fits_step _ rfl rfl
theorem WordFits.linkGroupFence (part : FailedPart) : WordFits.Statement (.linkGroupFence part) := fits_step _ rfl rfl
theorem WordFits.mv (s : BitVec 5) (d : BitVec 5) : WordFits.Statement (.mv s d) := fits_short _ (0 + s.toNat * 1024 + d.toNat * 32) rfl rfl (by omega)
theorem WordFits.li (i : BitVec 5) (d : BitVec 5) : WordFits.Statement (.li i d) := fits_short _ (32768 + i.toNat * 1024 + d.toNat * 32) rfl rfl (by omega)
theorem WordFits.addC16 (s : BitVec 5) (d : BitVec 5) : WordFits.Statement (.addC16 s d) := fits_short _ (2 + s.toNat * 1024 + d.toNat * 32) rfl rfl (by omega)
theorem WordFits.addiC16 (i : BitVec 5) (d : BitVec 5) : WordFits.Statement (.addiC16 i d) := fits_short _ (32770 + i.toNat * 1024 + d.toNat * 32) rfl rfl (by omega)
theorem WordFits.subC16 (s : BitVec 5) (d : BitVec 5) : WordFits.Statement (.subC16 s d) := fits_short _ (4 + s.toNat * 1024 + d.toNat * 32) rfl rfl (by omega)
theorem WordFits.subi (i : BitVec 5) (d : BitVec 5) : WordFits.Statement (.subi i d) := fits_short _ (32772 + i.toNat * 1024 + d.toNat * 32) rfl rfl (by omega)
theorem WordFits.andC16 (s : BitVec 5) (d : BitVec 5) : WordFits.Statement (.andC16 s d) := fits_short _ (6 + s.toNat * 1024 + d.toNat * 32) rfl rfl (by omega)
theorem WordFits.andiC16 (i : BitVec 5) (d : BitVec 5) : WordFits.Statement (.andiC16 i d) := fits_short _ (32774 + i.toNat * 1024 + d.toNat * 32) rfl rfl (by omega)
theorem WordFits.orC16 (s : BitVec 5) (d : BitVec 5) : WordFits.Statement (.orC16 s d) := fits_short _ (8 + s.toNat * 1024 + d.toNat * 32) rfl rfl (by omega)
theorem WordFits.oriC16 (i : BitVec 5) (d : BitVec 5) : WordFits.Statement (.oriC16 i d) := fits_short _ (32776 + i.toNat * 1024 + d.toNat * 32) rfl rfl (by omega)
theorem WordFits.xorC16 (s : BitVec 5) (d : BitVec 5) : WordFits.Statement (.xorC16 s d) := fits_short _ (10 + s.toNat * 1024 + d.toNat * 32) rfl rfl (by omega)
theorem WordFits.xoriC16 (i : BitVec 5) (d : BitVec 5) : WordFits.Statement (.xoriC16 i d) := fits_short _ (32778 + i.toNat * 1024 + d.toNat * 32) rfl rfl (by omega)
theorem WordFits.shlC16 (s : BitVec 5) (d : BitVec 5) : WordFits.Statement (.shlC16 s d) := fits_short _ (12 + s.toNat * 1024 + d.toNat * 32) rfl rfl (by omega)
theorem WordFits.shliC16 (n : BitVec 5) (d : BitVec 5) : WordFits.Statement (.shliC16 n d) := fits_short _ (32780 + n.toNat * 1024 + d.toNat * 32) rfl rfl (by omega)
theorem WordFits.shrC16 (s : BitVec 5) (d : BitVec 5) : WordFits.Statement (.shrC16 s d) := fits_short _ (14 + s.toNat * 1024 + d.toNat * 32) rfl rfl (by omega)
theorem WordFits.shriC16 (n : BitVec 5) (d : BitVec 5) : WordFits.Statement (.shriC16 n d) := fits_short _ (32782 + n.toNat * 1024 + d.toNat * 32) rfl rfl (by omega)
theorem WordFits.sarC16 (s : BitVec 5) (d : BitVec 5) : WordFits.Statement (.sarC16 s d) := fits_short _ (16 + s.toNat * 1024 + d.toNat * 32) rfl rfl (by omega)
theorem WordFits.sariC16 (n : BitVec 5) (d : BitVec 5) : WordFits.Statement (.sariC16 n d) := fits_short _ (32784 + n.toNat * 1024 + d.toNat * 32) rfl rfl (by omega)
theorem WordFits.mulC16 (s : BitVec 5) (d : BitVec 5) : WordFits.Statement (.mulC16 s d) := fits_short _ (18 + s.toNat * 1024 + d.toNat * 32) rfl rfl (by omega)
theorem WordFits.muliC16 (i : BitVec 5) (d : BitVec 5) : WordFits.Statement (.muliC16 i d) := fits_short _ (32786 + i.toNat * 1024 + d.toNat * 32) rfl rfl (by omega)
theorem WordFits.minC16 (s : BitVec 5) (d : BitVec 5) : WordFits.Statement (.minC16 s d) := fits_short _ (20 + s.toNat * 1024 + d.toNat * 32) rfl rfl (by omega)
theorem WordFits.mini (i : BitVec 5) (d : BitVec 5) : WordFits.Statement (.mini i d) := fits_short _ (32788 + i.toNat * 1024 + d.toNat * 32) rfl rfl (by omega)
theorem WordFits.maxC16 (s : BitVec 5) (d : BitVec 5) : WordFits.Statement (.maxC16 s d) := fits_short _ (22 + s.toNat * 1024 + d.toNat * 32) rfl rfl (by omega)
theorem WordFits.maxi (i : BitVec 5) (d : BitVec 5) : WordFits.Statement (.maxi i d) := fits_short _ (32790 + i.toNat * 1024 + d.toNat * 32) rfl rfl (by omega)
theorem WordFits.sltC16 (s : BitVec 5) (d : BitVec 5) : WordFits.Statement (.sltC16 s d) := fits_short _ (24 + s.toNat * 1024 + d.toNat * 32) rfl rfl (by omega)
theorem WordFits.sltiC16 (i : BitVec 5) (d : BitVec 5) : WordFits.Statement (.sltiC16 i d) := fits_short _ (32792 + i.toNat * 1024 + d.toNat * 32) rfl rfl (by omega)
theorem WordFits.lddC16 (s : BitVec 5) (d : BitVec 5) : WordFits.Statement (.lddC16 s d) := fits_short _ (26 + s.toNat * 1024 + d.toNat * 32) rfl rfl (by omega)
theorem WordFits.lddG2C16 (i : BitVec 5) (d : BitVec 5) : WordFits.Statement (.lddG2C16 i d) := fits_short _ (32794 + i.toNat * 1024 + d.toNat * 32) rfl rfl (by omega)
theorem WordFits.stdC16 (s : BitVec 5) (d : BitVec 5) : WordFits.Statement (.stdC16 s d) := fits_short _ (28 + s.toNat * 1024 + d.toNat * 32) rfl rfl (by omega)
theorem WordFits.stdG2C16 (i : BitVec 5) (d : BitVec 5) : WordFits.Statement (.stdG2C16 i d) := fits_short _ (32796 + i.toNat * 1024 + d.toNat * 32) rfl rfl (by omega)
theorem WordFits.bez (i : BitVec 5) (d : BitVec 5) : WordFits.Statement (.bez i d) := fits_short _ (30 + i.toNat * 1024 + d.toNat * 32) rfl rfl (by omega)
theorem WordFits.bnz (i : BitVec 5) (d : BitVec 5) : WordFits.Statement (.bnz i d) := fits_short _ (32798 + i.toNat * 1024 + d.toNat * 32) rfl rfl (by omega)
theorem WordFits.brkC16 : WordFits.Statement .brkC16 := fits_short _ (30) rfl rfl (by omega)
theorem WordFits.add (b : BitVec 6) (a : BitVec 6) (d : BitVec 6) : WordFits.Statement (.add b a d) := fits_word _ (1 + b.toNat * 524288 + a.toNat * 8192 + d.toNat * 128) rfl rfl (by omega)
theorem WordFits.sub (b : BitVec 6) (a : BitVec 6) (d : BitVec 6) : WordFits.Statement (.sub b a d) := fits_word _ (33554433 + b.toNat * 524288 + a.toNat * 8192 + d.toNat * 128) rfl rfl (by omega)
theorem WordFits.and (b : BitVec 6) (a : BitVec 6) (d : BitVec 6) : WordFits.Statement (.and b a d) := fits_word _ (67108865 + b.toNat * 524288 + a.toNat * 8192 + d.toNat * 128) rfl rfl (by omega)
theorem WordFits.or (b : BitVec 6) (a : BitVec 6) (d : BitVec 6) : WordFits.Statement (.or b a d) := fits_word _ (100663297 + b.toNat * 524288 + a.toNat * 8192 + d.toNat * 128) rfl rfl (by omega)
theorem WordFits.xor (b : BitVec 6) (a : BitVec 6) (d : BitVec 6) : WordFits.Statement (.xor b a d) := fits_word _ (134217729 + b.toNat * 524288 + a.toNat * 8192 + d.toNat * 128) rfl rfl (by omega)
theorem WordFits.shl (b : BitVec 6) (a : BitVec 6) (d : BitVec 6) : WordFits.Statement (.shl b a d) := fits_word _ (167772161 + b.toNat * 524288 + a.toNat * 8192 + d.toNat * 128) rfl rfl (by omega)
theorem WordFits.shr (b : BitVec 6) (a : BitVec 6) (d : BitVec 6) : WordFits.Statement (.shr b a d) := fits_word _ (201326593 + b.toNat * 524288 + a.toNat * 8192 + d.toNat * 128) rfl rfl (by omega)
theorem WordFits.sar (b : BitVec 6) (a : BitVec 6) (d : BitVec 6) : WordFits.Statement (.sar b a d) := fits_word _ (234881025 + b.toNat * 524288 + a.toNat * 8192 + d.toNat * 128) rfl rfl (by omega)
theorem WordFits.mul (b : BitVec 6) (a : BitVec 6) (d : BitVec 6) : WordFits.Statement (.mul b a d) := fits_word _ (268435457 + b.toNat * 524288 + a.toNat * 8192 + d.toNat * 128) rfl rfl (by omega)
theorem WordFits.min (b : BitVec 6) (a : BitVec 6) (d : BitVec 6) : WordFits.Statement (.min b a d) := fits_word _ (301989889 + b.toNat * 524288 + a.toNat * 8192 + d.toNat * 128) rfl rfl (by omega)
theorem WordFits.max (b : BitVec 6) (a : BitVec 6) (d : BitVec 6) : WordFits.Statement (.max b a d) := fits_word _ (335544321 + b.toNat * 524288 + a.toNat * 8192 + d.toNat * 128) rfl rfl (by omega)
theorem WordFits.minu (b : BitVec 6) (a : BitVec 6) (d : BitVec 6) : WordFits.Statement (.minu b a d) := fits_word _ (369098753 + b.toNat * 524288 + a.toNat * 8192 + d.toNat * 128) rfl rfl (by omega)
theorem WordFits.maxu (b : BitVec 6) (a : BitVec 6) (d : BitVec 6) : WordFits.Statement (.maxu b a d) := fits_word _ (402653185 + b.toNat * 524288 + a.toNat * 8192 + d.toNat * 128) rfl rfl (by omega)
theorem WordFits.slt (b : BitVec 6) (a : BitVec 6) (d : BitVec 6) : WordFits.Statement (.slt b a d) := fits_word _ (436207617 + b.toNat * 524288 + a.toNat * 8192 + d.toNat * 128) rfl rfl (by omega)
theorem WordFits.sltu (b : BitVec 6) (a : BitVec 6) (d : BitVec 6) : WordFits.Statement (.sltu b a d) := fits_word _ (469762049 + b.toNat * 524288 + a.toNat * 8192 + d.toNat * 128) rfl rfl (by omega)
theorem WordFits.seq (b : BitVec 6) (a : BitVec 6) (d : BitVec 6) : WordFits.Statement (.seq b a d) := fits_word _ (503316481 + b.toNat * 524288 + a.toNat * 8192 + d.toNat * 128) rfl rfl (by omega)
theorem WordFits.sne (b : BitVec 6) (a : BitVec 6) (d : BitVec 6) : WordFits.Statement (.sne b a d) := fits_word _ (536870913 + b.toNat * 524288 + a.toNat * 8192 + d.toNat * 128) rfl rfl (by omega)
theorem WordFits.addw (b : BitVec 6) (a : BitVec 6) (d : BitVec 6) : WordFits.Statement (.addw b a d) := fits_word _ (570425345 + b.toNat * 524288 + a.toNat * 8192 + d.toNat * 128) rfl rfl (by omega)
theorem WordFits.subw (b : BitVec 6) (a : BitVec 6) (d : BitVec 6) : WordFits.Statement (.subw b a d) := fits_word _ (603979777 + b.toNat * 524288 + a.toNat * 8192 + d.toNat * 128) rfl rfl (by omega)
theorem WordFits.clz (a : BitVec 6) (d : BitVec 6) : WordFits.Statement (.clz a d) := fits_word _ (3 + a.toNat * 8192 + d.toNat * 128) rfl rfl (by omega)
theorem WordFits.ctz (a : BitVec 6) (d : BitVec 6) : WordFits.Statement (.ctz a d) := fits_word _ (33554435 + a.toNat * 8192 + d.toNat * 128) rfl rfl (by omega)
theorem WordFits.popc (a : BitVec 6) (d : BitVec 6) : WordFits.Statement (.popc a d) := fits_word _ (67108867 + a.toNat * 8192 + d.toNat * 128) rfl rfl (by omega)
theorem WordFits.brev (a : BitVec 6) (d : BitVec 6) : WordFits.Statement (.brev a d) := fits_word _ (100663299 + a.toNat * 8192 + d.toNat * 128) rfl rfl (by omega)
theorem WordFits.bswap (a : BitVec 6) (d : BitVec 6) : WordFits.Statement (.bswap a d) := fits_word _ (134217731 + a.toNat * 8192 + d.toNat * 128) rfl rfl (by omega)
theorem WordFits.rol (b : BitVec 6) (a : BitVec 6) (d : BitVec 6) : WordFits.Statement (.rol b a d) := fits_word _ (167772163 + b.toNat * 524288 + a.toNat * 8192 + d.toNat * 128) rfl rfl (by omega)
theorem WordFits.ror (b : BitVec 6) (a : BitVec 6) (d : BitVec 6) : WordFits.Statement (.ror b a d) := fits_word _ (201326595 + b.toNat * 524288 + a.toNat * 8192 + d.toNat * 128) rfl rfl (by omega)
theorem WordFits.andn (b : BitVec 6) (a : BitVec 6) (d : BitVec 6) : WordFits.Statement (.andn b a d) := fits_word _ (234881027 + b.toNat * 524288 + a.toNat * 8192 + d.toNat * 128) rfl rfl (by omega)
theorem WordFits.sextb (a : BitVec 6) (d : BitVec 6) : WordFits.Statement (.sextb a d) := fits_word _ (268435459 + a.toNat * 8192 + d.toNat * 128) rfl rfl (by omega)
theorem WordFits.sexth (a : BitVec 6) (d : BitVec 6) : WordFits.Statement (.sexth a d) := fits_word _ (301989891 + a.toNat * 8192 + d.toNat * 128) rfl rfl (by omega)
theorem WordFits.sextw (a : BitVec 6) (d : BitVec 6) : WordFits.Statement (.sextw a d) := fits_word _ (335544323 + a.toNat * 8192 + d.toNat * 128) rfl rfl (by omega)
theorem WordFits.zextw (a : BitVec 6) (d : BitVec 6) : WordFits.Statement (.zextw a d) := fits_word _ (369098755 + a.toNat * 8192 + d.toNat * 128) rfl rfl (by omega)
theorem WordFits.mulh (b : BitVec 6) (a : BitVec 6) (d : BitVec 6) : WordFits.Statement (.mulh b a d) := fits_word _ (536870915 + b.toNat * 524288 + a.toNat * 8192 + d.toNat * 128) rfl rfl (by omega)
theorem WordFits.mulhu (b : BitVec 6) (a : BitVec 6) (d : BitVec 6) : WordFits.Statement (.mulhu b a d) := fits_word _ (570425347 + b.toNat * 524288 + a.toNat * 8192 + d.toNat * 128) rfl rfl (by omega)
theorem WordFits.mulhsu (b : BitVec 6) (a : BitVec 6) (d : BitVec 6) : WordFits.Statement (.mulhsu b a d) := fits_word _ (603979779 + b.toNat * 524288 + a.toNat * 8192 + d.toNat * 128) rfl rfl (by omega)
theorem WordFits.div (b : BitVec 6) (a : BitVec 6) (d : BitVec 6) : WordFits.Statement (.div b a d) := fits_word _ (1073741827 + b.toNat * 524288 + a.toNat * 8192 + d.toNat * 128) rfl rfl (by omega)
theorem WordFits.divu (b : BitVec 6) (a : BitVec 6) (d : BitVec 6) : WordFits.Statement (.divu b a d) := fits_word _ (1107296259 + b.toNat * 524288 + a.toNat * 8192 + d.toNat * 128) rfl rfl (by omega)
theorem WordFits.rem (b : BitVec 6) (a : BitVec 6) (d : BitVec 6) : WordFits.Statement (.rem b a d) := fits_word _ (1140850691 + b.toNat * 524288 + a.toNat * 8192 + d.toNat * 128) rfl rfl (by omega)
theorem WordFits.remu (b : BitVec 6) (a : BitVec 6) (d : BitVec 6) : WordFits.Statement (.remu b a d) := fits_word _ (1174405123 + b.toNat * 524288 + a.toNat * 8192 + d.toNat * 128) rfl rfl (by omega)
theorem WordFits.addi (i : BitVec 13) (a : BitVec 6) (d : BitVec 6) : WordFits.Statement (.addi i a d) := fits_word _ (5 + i.toNat * 524288 + a.toNat * 8192 + d.toNat * 128) rfl rfl (by omega)
theorem WordFits.andi (i : BitVec 13) (a : BitVec 6) (d : BitVec 6) : WordFits.Statement (.andi i a d) := fits_word _ (7 + i.toNat * 524288 + a.toNat * 8192 + d.toNat * 128) rfl rfl (by omega)
theorem WordFits.ori (i : BitVec 13) (a : BitVec 6) (d : BitVec 6) : WordFits.Statement (.ori i a d) := fits_word _ (9 + i.toNat * 524288 + a.toNat * 8192 + d.toNat * 128) rfl rfl (by omega)
theorem WordFits.xori (i : BitVec 13) (a : BitVec 6) (d : BitVec 6) : WordFits.Statement (.xori i a d) := fits_word _ (11 + i.toNat * 524288 + a.toNat * 8192 + d.toNat * 128) rfl rfl (by omega)
theorem WordFits.muli (i : BitVec 13) (a : BitVec 6) (d : BitVec 6) : WordFits.Statement (.muli i a d) := fits_word _ (17 + i.toNat * 524288 + a.toNat * 8192 + d.toNat * 128) rfl rfl (by omega)
theorem WordFits.shli (n : BitVec 6) (a : BitVec 6) (d : BitVec 6) : WordFits.Statement (.shli n a d) := fits_word _ (13 + n.toNat * 524288 + a.toNat * 8192 + d.toNat * 128) rfl rfl (by omega)
theorem WordFits.shri (n : BitVec 6) (a : BitVec 6) (d : BitVec 6) : WordFits.Statement (.shri n a d) := fits_word _ (1073741837 + n.toNat * 524288 + a.toNat * 8192 + d.toNat * 128) rfl rfl (by omega)
theorem WordFits.sari (n : BitVec 6) (a : BitVec 6) (d : BitVec 6) : WordFits.Statement (.sari n a d) := fits_word _ (2147483661 + n.toNat * 524288 + a.toNat * 8192 + d.toNat * 128) rfl rfl (by omega)
theorem WordFits.rori (n : BitVec 6) (a : BitVec 6) (d : BitVec 6) : WordFits.Statement (.rori n a d) := fits_word _ (3221225485 + n.toNat * 524288 + a.toNat * 8192 + d.toNat * 128) rfl rfl (by omega)
theorem WordFits.seqi (v : BitVec 10) (a : BitVec 6) (d : BitVec 6) : WordFits.Statement (.seqi v a d) := fits_word _ (15 + v.toNat * 524288 + a.toNat * 8192 + d.toNat * 128) rfl rfl (by omega)
theorem WordFits.snei (v : BitVec 10) (a : BitVec 6) (d : BitVec 6) : WordFits.Statement (.snei v a d) := fits_word _ (536870927 + v.toNat * 524288 + a.toNat * 8192 + d.toNat * 128) rfl rfl (by omega)
theorem WordFits.slti (v : BitVec 10) (a : BitVec 6) (d : BitVec 6) : WordFits.Statement (.slti v a d) := fits_word _ (1073741839 + v.toNat * 524288 + a.toNat * 8192 + d.toNat * 128) rfl rfl (by omega)
theorem WordFits.sgei (v : BitVec 10) (a : BitVec 6) (d : BitVec 6) : WordFits.Statement (.sgei v a d) := fits_word _ (1610612751 + v.toNat * 524288 + a.toNat * 8192 + d.toNat * 128) rfl rfl (by omega)
theorem WordFits.sltui (v : BitVec 10) (a : BitVec 6) (d : BitVec 6) : WordFits.Statement (.sltui v a d) := fits_word _ (2147483663 + v.toNat * 524288 + a.toNat * 8192 + d.toNat * 128) rfl rfl (by omega)
theorem WordFits.sgeui (v : BitVec 10) (a : BitVec 6) (d : BitVec 6) : WordFits.Statement (.sgeui v a d) := fits_word _ (2684354575 + v.toNat * 524288 + a.toNat * 8192 + d.toNat * 128) rfl rfl (by omega)
theorem WordFits.liu (i : BitVec 19) (d : BitVec 6) : WordFits.Statement (.liu i d) := fits_word _ (19 + i.toNat * 8192 + d.toNat * 128) rfl rfl (by omega)
theorem WordFits.addpc (i : BitVec 19) (d : BitVec 6) : WordFits.Statement (.addpc i d) := fits_word _ (21 + i.toNat * 8192 + d.toNat * 128) rfl rfl (by omega)
theorem WordFits.lic (c : BitVec 7) (r : BitVec 4) (d : BitVec 6) : WordFits.Statement (.lic c r d) := fits_word _ (23 + c.toNat * 8388608 + r.toNat * 524288 + d.toNat * 128) rfl rfl (by omega)
theorem WordFits.lico (c : BitVec 7) (r : BitVec 4) (a : BitVec 6) (d : BitVec 6) : WordFits.Statement (.lico c r a d) := fits_word _ (1073741847 + c.toNat * 8388608 + r.toNat * 524288 + a.toNat * 8192 + d.toNat * 128) rfl rfl (by omega)
theorem WordFits.licn (c : BitVec 7) (r : BitVec 4) (d : BitVec 6) : WordFits.Statement (.licn c r d) := fits_word _ (2147483671 + c.toNat * 8388608 + r.toNat * 524288 + d.toNat * 128) rfl rfl (by omega)
theorem WordFits.beq (i : BitVec 10) (b : BitVec 6) (a : BitVec 6) : WordFits.Statement (.beq i b a) := fits_word _ (65 + i.toNat * 4194304 + b.toNat * 8192 + a.toNat * 128) rfl rfl (by omega)
theorem WordFits.bne (i : BitVec 10) (b : BitVec 6) (a : BitVec 6) : WordFits.Statement (.bne i b a) := fits_word _ (524353 + i.toNat * 4194304 + b.toNat * 8192 + a.toNat * 128) rfl rfl (by omega)
theorem WordFits.blt (i : BitVec 10) (b : BitVec 6) (a : BitVec 6) : WordFits.Statement (.blt i b a) := fits_word _ (1048641 + i.toNat * 4194304 + b.toNat * 8192 + a.toNat * 128) rfl rfl (by omega)
theorem WordFits.bge (i : BitVec 10) (b : BitVec 6) (a : BitVec 6) : WordFits.Statement (.bge i b a) := fits_word _ (1572929 + i.toNat * 4194304 + b.toNat * 8192 + a.toNat * 128) rfl rfl (by omega)
theorem WordFits.bltu (i : BitVec 10) (b : BitVec 6) (a : BitVec 6) : WordFits.Statement (.bltu i b a) := fits_word _ (2097217 + i.toNat * 4194304 + b.toNat * 8192 + a.toNat * 128) rfl rfl (by omega)
theorem WordFits.bgeu (i : BitVec 10) (b : BitVec 6) (a : BitVec 6) : WordFits.Statement (.bgeu i b a) := fits_word _ (2621505 + i.toNat * 4194304 + b.toNat * 8192 + a.toNat * 128) rfl rfl (by omega)
theorem WordFits.bfull (i : BitVec 10) (a : BitVec 6) : WordFits.Statement (.bfull i a) := fits_word _ (3145793 + i.toNat * 4194304 + a.toNat * 128) rfl rfl (by omega)
theorem WordFits.bvoid (i : BitVec 10) (a : BitVec 6) : WordFits.Statement (.bvoid i a) := fits_word _ (3670081 + i.toNat * 4194304 + a.toNat * 128) rfl rfl (by omega)
theorem WordFits.j (i : BitVec 25) : WordFits.Statement (.j i) := fits_word _ (67 + i.toNat * 128) rfl rfl (by omega)
theorem WordFits.jal (i : BitVec 25) : WordFits.Statement (.jal i) := fits_word _ (69 + i.toNat * 128) rfl rfl (by omega)
theorem WordFits.jalr (i : BitVec 13) (a : BitVec 6) (d : BitVec 6) : WordFits.Statement (.jalr i a d) := fits_word _ (71 + i.toNat * 524288 + a.toNat * 8192 + d.toNat * 128) rfl rfl (by omega)
theorem WordFits.loop (i : BitVec 13) (a : BitVec 6) : WordFits.Statement (.loop i a) := fits_word _ (73 + i.toNat * 524288 + a.toNat * 8192) rfl rfl (by omega)
theorem WordFits.spawn (i : BitVec 18) : WordFits.Statement (.spawn i) := fits_word _ (75 + i.toNat * 128) rfl rfl (by omega)
theorem WordFits.join : WordFits.Statement .join := fits_word _ (33554507) rfl rfl (by omega)
theorem WordFits.exit : WordFits.Statement .exit := fits_word _ (67108939) rfl rfl (by omega)
theorem WordFits.expect (d : BitVec 6) : WordFits.Statement (.expect d) := fits_word _ (134217803 + d.toNat * 128) rfl rfl (by omega)
theorem WordFits.expectm (d : BitVec 2) : WordFits.Statement (.expectm d) := fits_word _ (167772235 + d.toNat * 128) rfl rfl (by omega)
theorem WordFits.expectv (d : BitVec 4) : WordFits.Statement (.expectv d) := fits_word _ (201326667 + d.toNat * 128) rfl rfl (by omega)
theorem WordFits.expectc (d : BitVec 3) : WordFits.Statement (.expectc d) := fits_word _ (234881099 + d.toNat * 128) rfl rfl (by omega)
theorem WordFits.qslot (d : BitVec 6) : WordFits.Statement (.qslot d) := fits_word _ (268435531 + d.toNat * 128) rfl rfl (by omega)
theorem WordFits.qdeq (d : BitVec 6) : WordFits.Statement (.qdeq d) := fits_word _ (301989963 + d.toNat * 128) rfl rfl (by omega)
theorem WordFits.qlink (d : BitVec 6) : WordFits.Statement (.qlink d) := fits_word _ (335544395 + d.toNat * 128) rfl rfl (by omega)
theorem WordFits.fadd (p : BitVec 1) (b : BitVec 6) (a : BitVec 6) (d : BitVec 6) : WordFits.Statement (.fadd p b a d) := fits_word _ (81 + p.toNat * 536870912 + b.toNat * 524288 + a.toNat * 8192 + d.toNat * 128) rfl rfl (by omega)
theorem WordFits.fsub (p : BitVec 1) (b : BitVec 6) (a : BitVec 6) (d : BitVec 6) : WordFits.Statement (.fsub p b a d) := fits_word _ (33554513 + p.toNat * 536870912 + b.toNat * 524288 + a.toNat * 8192 + d.toNat * 128) rfl rfl (by omega)
theorem WordFits.fmul (p : BitVec 1) (b : BitVec 6) (a : BitVec 6) (d : BitVec 6) : WordFits.Statement (.fmul p b a d) := fits_word _ (67108945 + p.toNat * 536870912 + b.toNat * 524288 + a.toNat * 8192 + d.toNat * 128) rfl rfl (by omega)
theorem WordFits.fdiv (p : BitVec 1) (b : BitVec 6) (a : BitVec 6) (d : BitVec 6) : WordFits.Statement (.fdiv p b a d) := fits_word _ (100663377 + p.toNat * 536870912 + b.toNat * 524288 + a.toNat * 8192 + d.toNat * 128) rfl rfl (by omega)
theorem WordFits.fsqrt (p : BitVec 1) (a : BitVec 6) (d : BitVec 6) : WordFits.Statement (.fsqrt p a d) := fits_word _ (134217809 + p.toNat * 536870912 + a.toNat * 8192 + d.toNat * 128) rfl rfl (by omega)
theorem WordFits.fmin (p : BitVec 1) (b : BitVec 6) (a : BitVec 6) (d : BitVec 6) : WordFits.Statement (.fmin p b a d) := fits_word _ (167772241 + p.toNat * 536870912 + b.toNat * 524288 + a.toNat * 8192 + d.toNat * 128) rfl rfl (by omega)
theorem WordFits.fmax (p : BitVec 1) (b : BitVec 6) (a : BitVec 6) (d : BitVec 6) : WordFits.Statement (.fmax p b a d) := fits_word _ (201326673 + p.toNat * 536870912 + b.toNat * 524288 + a.toNat * 8192 + d.toNat * 128) rfl rfl (by omega)
theorem WordFits.fsgnj (p : BitVec 1) (b : BitVec 6) (a : BitVec 6) (d : BitVec 6) : WordFits.Statement (.fsgnj p b a d) := fits_word _ (234881105 + p.toNat * 536870912 + b.toNat * 524288 + a.toNat * 8192 + d.toNat * 128) rfl rfl (by omega)
theorem WordFits.fsgnjn (p : BitVec 1) (b : BitVec 6) (a : BitVec 6) (d : BitVec 6) : WordFits.Statement (.fsgnjn p b a d) := fits_word _ (268435537 + p.toNat * 536870912 + b.toNat * 524288 + a.toNat * 8192 + d.toNat * 128) rfl rfl (by omega)
theorem WordFits.fsgnjx (p : BitVec 1) (b : BitVec 6) (a : BitVec 6) (d : BitVec 6) : WordFits.Statement (.fsgnjx p b a d) := fits_word _ (301989969 + p.toNat * 536870912 + b.toNat * 524288 + a.toNat * 8192 + d.toNat * 128) rfl rfl (by omega)
theorem WordFits.feq (p : BitVec 1) (b : BitVec 6) (a : BitVec 6) (d : BitVec 6) : WordFits.Statement (.feq p b a d) := fits_word _ (335544401 + p.toNat * 536870912 + b.toNat * 524288 + a.toNat * 8192 + d.toNat * 128) rfl rfl (by omega)
theorem WordFits.flt (p : BitVec 1) (b : BitVec 6) (a : BitVec 6) (d : BitVec 6) : WordFits.Statement (.flt p b a d) := fits_word _ (369098833 + p.toNat * 536870912 + b.toNat * 524288 + a.toNat * 8192 + d.toNat * 128) rfl rfl (by omega)
theorem WordFits.fle (p : BitVec 1) (b : BitVec 6) (a : BitVec 6) (d : BitVec 6) : WordFits.Statement (.fle p b a d) := fits_word _ (402653265 + p.toNat * 536870912 + b.toNat * 524288 + a.toNat * 8192 + d.toNat * 128) rfl rfl (by omega)
theorem WordFits.fclass (p : BitVec 1) (a : BitVec 6) (d : BitVec 6) : WordFits.Statement (.fclass p a d) := fits_word _ (436207697 + p.toNat * 536870912 + a.toNat * 8192 + d.toNat * 128) rfl rfl (by omega)
theorem WordFits.fma (x : BitVec 1) (c : BitVec 6) (b : BitVec 6) (a : BitVec 6) (d : BitVec 6) : WordFits.Statement (.fma x c b a d) := fits_word _ (83 + x.toNat * 2147483648 + c.toNat * 33554432 + b.toNat * 524288 + a.toNat * 8192 + d.toNat * 128) rfl rfl (by omega)
theorem WordFits.fcvtSD (a : BitVec 6) (d : BitVec 6) : WordFits.Statement (.fcvtSD a d) := fits_word _ (85 + a.toNat * 8192 + d.toNat * 128) rfl rfl (by omega)
theorem WordFits.fcvtDS (a : BitVec 6) (d : BitVec 6) : WordFits.Statement (.fcvtDS a d) := fits_word _ (33554517 + a.toNat * 8192 + d.toNat * 128) rfl rfl (by omega)
theorem WordFits.fcvtSL (a : BitVec 6) (d : BitVec 6) : WordFits.Statement (.fcvtSL a d) := fits_word _ (67108949 + a.toNat * 8192 + d.toNat * 128) rfl rfl (by omega)
theorem WordFits.fcvtSLu (a : BitVec 6) (d : BitVec 6) : WordFits.Statement (.fcvtSLu a d) := fits_word _ (100663381 + a.toNat * 8192 + d.toNat * 128) rfl rfl (by omega)
theorem WordFits.fcvtDL (a : BitVec 6) (d : BitVec 6) : WordFits.Statement (.fcvtDL a d) := fits_word _ (134217813 + a.toNat * 8192 + d.toNat * 128) rfl rfl (by omega)
theorem WordFits.fcvtDLu (a : BitVec 6) (d : BitVec 6) : WordFits.Statement (.fcvtDLu a d) := fits_word _ (167772245 + a.toNat * 8192 + d.toNat * 128) rfl rfl (by omega)
theorem WordFits.fcvtLS (a : BitVec 6) (d : BitVec 6) : WordFits.Statement (.fcvtLS a d) := fits_word _ (201326677 + a.toNat * 8192 + d.toNat * 128) rfl rfl (by omega)
theorem WordFits.fcvtLuS (a : BitVec 6) (d : BitVec 6) : WordFits.Statement (.fcvtLuS a d) := fits_word _ (234881109 + a.toNat * 8192 + d.toNat * 128) rfl rfl (by omega)
theorem WordFits.fcvtLD (a : BitVec 6) (d : BitVec 6) : WordFits.Statement (.fcvtLD a d) := fits_word _ (268435541 + a.toNat * 8192 + d.toNat * 128) rfl rfl (by omega)
theorem WordFits.fcvtLuD (a : BitVec 6) (d : BitVec 6) : WordFits.Statement (.fcvtLuD a d) := fits_word _ (301989973 + a.toNat * 8192 + d.toNat * 128) rfl rfl (by omega)
theorem WordFits.fcvtWS (a : BitVec 6) (d : BitVec 6) : WordFits.Statement (.fcvtWS a d) := fits_word _ (335544405 + a.toNat * 8192 + d.toNat * 128) rfl rfl (by omega)
theorem WordFits.fcvtWD (a : BitVec 6) (d : BitVec 6) : WordFits.Statement (.fcvtWD a d) := fits_word _ (369098837 + a.toNat * 8192 + d.toNat * 128) rfl rfl (by omega)
theorem WordFits.fcvtHS (a : BitVec 6) (d : BitVec 6) : WordFits.Statement (.fcvtHS a d) := fits_word _ (402653269 + a.toNat * 8192 + d.toNat * 128) rfl rfl (by omega)
theorem WordFits.fcvtSH (a : BitVec 6) (d : BitVec 6) : WordFits.Statement (.fcvtSH a d) := fits_word _ (436207701 + a.toNat * 8192 + d.toNat * 128) rfl rfl (by omega)
theorem WordFits.fcvtBS (a : BitVec 6) (d : BitVec 6) : WordFits.Statement (.fcvtBS a d) := fits_word _ (469762133 + a.toNat * 8192 + d.toNat * 128) rfl rfl (by omega)
theorem WordFits.fcvtSB (a : BitVec 6) (d : BitVec 6) : WordFits.Statement (.fcvtSB a d) := fits_word _ (503316565 + a.toNat * 8192 + d.toNat * 128) rfl rfl (by omega)
theorem WordFits.ldb (i : BitVec 9) (o : BitVec 2) (q : BitVec 2) (a : BitVec 6) (d : BitVec 6) : WordFits.Statement (.ldb i o q a d) := fits_word _ (33 + i.toNat * 8388608 + o.toNat * 2097152 + q.toNat * 524288 + a.toNat * 8192 + d.toNat * 128) rfl rfl (by omega)
theorem WordFits.ldbu (i : BitVec 9) (o : BitVec 2) (q : BitVec 2) (a : BitVec 6) (d : BitVec 6) : WordFits.Statement (.ldbu i o q a d) := fits_word _ (35 + i.toNat * 8388608 + o.toNat * 2097152 + q.toNat * 524288 + a.toNat * 8192 + d.toNat * 128) rfl rfl (by omega)
theorem WordFits.ldh (i : BitVec 9) (o : BitVec 2) (q : BitVec 2) (a : BitVec 6) (d : BitVec 6) : WordFits.Statement (.ldh i o q a d) := fits_word _ (37 + i.toNat * 8388608 + o.toNat * 2097152 + q.toNat * 524288 + a.toNat * 8192 + d.toNat * 128) rfl rfl (by omega)
theorem WordFits.ldhu (i : BitVec 9) (o : BitVec 2) (q : BitVec 2) (a : BitVec 6) (d : BitVec 6) : WordFits.Statement (.ldhu i o q a d) := fits_word _ (39 + i.toNat * 8388608 + o.toNat * 2097152 + q.toNat * 524288 + a.toNat * 8192 + d.toNat * 128) rfl rfl (by omega)
theorem WordFits.ldw (i : BitVec 9) (o : BitVec 2) (q : BitVec 2) (a : BitVec 6) (d : BitVec 6) : WordFits.Statement (.ldw i o q a d) := fits_word _ (41 + i.toNat * 8388608 + o.toNat * 2097152 + q.toNat * 524288 + a.toNat * 8192 + d.toNat * 128) rfl rfl (by omega)
theorem WordFits.ldwu (i : BitVec 9) (o : BitVec 2) (q : BitVec 2) (a : BitVec 6) (d : BitVec 6) : WordFits.Statement (.ldwu i o q a d) := fits_word _ (43 + i.toNat * 8388608 + o.toNat * 2097152 + q.toNat * 524288 + a.toNat * 8192 + d.toNat * 128) rfl rfl (by omega)
theorem WordFits.ldd (i : BitVec 9) (o : BitVec 2) (q : BitVec 2) (a : BitVec 6) (d : BitVec 6) : WordFits.Statement (.ldd i o q a d) := fits_word _ (45 + i.toNat * 8388608 + o.toNat * 2097152 + q.toNat * 524288 + a.toNat * 8192 + d.toNat * 128) rfl rfl (by omega)
theorem WordFits.stb (i : BitVec 9) (o : BitVec 2) (q : BitVec 2) (a : BitVec 6) (d : BitVec 6) : WordFits.Statement (.stb i o q a d) := fits_word _ (47 + i.toNat * 8388608 + o.toNat * 2097152 + q.toNat * 524288 + a.toNat * 8192 + d.toNat * 128) rfl rfl (by omega)
theorem WordFits.sth (i : BitVec 9) (o : BitVec 2) (q : BitVec 2) (a : BitVec 6) (d : BitVec 6) : WordFits.Statement (.sth i o q a d) := fits_word _ (49 + i.toNat * 8388608 + o.toNat * 2097152 + q.toNat * 524288 + a.toNat * 8192 + d.toNat * 128) rfl rfl (by omega)
theorem WordFits.stw (i : BitVec 9) (o : BitVec 2) (q : BitVec 2) (a : BitVec 6) (d : BitVec 6) : WordFits.Statement (.stw i o q a d) := fits_word _ (51 + i.toNat * 8388608 + o.toNat * 2097152 + q.toNat * 524288 + a.toNat * 8192 + d.toNat * 128) rfl rfl (by omega)
theorem WordFits.std (i : BitVec 9) (o : BitVec 2) (q : BitVec 2) (a : BitVec 6) (d : BitVec 6) : WordFits.Statement (.std i o q a d) := fits_word _ (53 + i.toNat * 8388608 + o.toNat * 2097152 + q.toNat * 524288 + a.toNat * 8192 + d.toNat * 128) rfl rfl (by omega)
theorem WordFits.ldbx (q : BitVec 2) (b : BitVec 6) (a : BitVec 6) (d : BitVec 6) : WordFits.Statement (.ldbx q b a d) := fits_word _ (55 + q.toNat * 536870912 + b.toNat * 524288 + a.toNat * 8192 + d.toNat * 128) rfl rfl (by omega)
theorem WordFits.ldbux (q : BitVec 2) (b : BitVec 6) (a : BitVec 6) (d : BitVec 6) : WordFits.Statement (.ldbux q b a d) := fits_word _ (33554487 + q.toNat * 536870912 + b.toNat * 524288 + a.toNat * 8192 + d.toNat * 128) rfl rfl (by omega)
theorem WordFits.ldhx (q : BitVec 2) (b : BitVec 6) (a : BitVec 6) (d : BitVec 6) : WordFits.Statement (.ldhx q b a d) := fits_word _ (67108919 + q.toNat * 536870912 + b.toNat * 524288 + a.toNat * 8192 + d.toNat * 128) rfl rfl (by omega)
theorem WordFits.ldhux (q : BitVec 2) (b : BitVec 6) (a : BitVec 6) (d : BitVec 6) : WordFits.Statement (.ldhux q b a d) := fits_word _ (100663351 + q.toNat * 536870912 + b.toNat * 524288 + a.toNat * 8192 + d.toNat * 128) rfl rfl (by omega)
theorem WordFits.ldwx (q : BitVec 2) (b : BitVec 6) (a : BitVec 6) (d : BitVec 6) : WordFits.Statement (.ldwx q b a d) := fits_word _ (134217783 + q.toNat * 536870912 + b.toNat * 524288 + a.toNat * 8192 + d.toNat * 128) rfl rfl (by omega)
theorem WordFits.ldwux (q : BitVec 2) (b : BitVec 6) (a : BitVec 6) (d : BitVec 6) : WordFits.Statement (.ldwux q b a d) := fits_word _ (167772215 + q.toNat * 536870912 + b.toNat * 524288 + a.toNat * 8192 + d.toNat * 128) rfl rfl (by omega)
theorem WordFits.lddx (q : BitVec 2) (b : BitVec 6) (a : BitVec 6) (d : BitVec 6) : WordFits.Statement (.lddx q b a d) := fits_word _ (201326647 + q.toNat * 536870912 + b.toNat * 524288 + a.toNat * 8192 + d.toNat * 128) rfl rfl (by omega)
theorem WordFits.stbx (q : BitVec 2) (b : BitVec 6) (a : BitVec 6) (d : BitVec 6) : WordFits.Statement (.stbx q b a d) := fits_word _ (234881079 + q.toNat * 536870912 + b.toNat * 524288 + a.toNat * 8192 + d.toNat * 128) rfl rfl (by omega)
theorem WordFits.sthx (q : BitVec 2) (b : BitVec 6) (a : BitVec 6) (d : BitVec 6) : WordFits.Statement (.sthx q b a d) := fits_word _ (268435511 + q.toNat * 536870912 + b.toNat * 524288 + a.toNat * 8192 + d.toNat * 128) rfl rfl (by omega)
theorem WordFits.stwx (q : BitVec 2) (b : BitVec 6) (a : BitVec 6) (d : BitVec 6) : WordFits.Statement (.stwx q b a d) := fits_word _ (301989943 + q.toNat * 536870912 + b.toNat * 524288 + a.toNat * 8192 + d.toNat * 128) rfl rfl (by omega)
theorem WordFits.stdx (q : BitVec 2) (b : BitVec 6) (a : BitVec 6) (d : BitVec 6) : WordFits.Statement (.stdx q b a d) := fits_word _ (335544375 + q.toNat * 536870912 + b.toNat * 524288 + a.toNat * 8192 + d.toNat * 128) rfl rfl (by omega)
theorem WordFits.ldwo (q : BitVec 2) (s : BitVec 3) (o : BitVec 2) (a : BitVec 6) (d : BitVec 6) : WordFits.Statement (.ldwo q s o a d) := fits_word _ (2147483703 + q.toNat * 33554432 + s.toNat * 4194304 + o.toNat * 1048576 + a.toNat * 8192 + d.toNat * 128) rfl rfl (by omega)
theorem WordFits.lddo (q : BitVec 2) (s : BitVec 3) (o : BitVec 2) (a : BitVec 6) (d : BitVec 6) : WordFits.Statement (.lddo q s o a d) := fits_word _ (2281701431 + q.toNat * 33554432 + s.toNat * 4194304 + o.toNat * 1048576 + a.toNat * 8192 + d.toNat * 128) rfl rfl (by omega)
theorem WordFits.stwo (q : BitVec 2) (s : BitVec 3) (o : BitVec 2) (a : BitVec 6) (d : BitVec 6) : WordFits.Statement (.stwo q s o a d) := fits_word _ (2415919159 + q.toNat * 33554432 + s.toNat * 4194304 + o.toNat * 1048576 + a.toNat * 8192 + d.toNat * 128) rfl rfl (by omega)
theorem WordFits.stdo (q : BitVec 2) (s : BitVec 3) (o : BitVec 2) (a : BitVec 6) (d : BitVec 6) : WordFits.Statement (.stdo q s o a d) := fits_word _ (2550136887 + q.toNat * 33554432 + s.toNat * 4194304 + o.toNat * 1048576 + a.toNat * 8192 + d.toNat * 128) rfl rfl (by omega)
theorem WordFits.ldf (a : BitVec 6) (d : BitVec 6) : WordFits.Statement (.ldf a d) := fits_word _ (2684354615 + a.toNat * 8192 + d.toNat * 128) rfl rfl (by omega)
theorem WordFits.ldtk (a : BitVec 6) (d : BitVec 6) : WordFits.Statement (.ldtk a d) := fits_word _ (2717909047 + a.toNat * 8192 + d.toNat * 128) rfl rfl (by omega)
theorem WordFits.stf (a : BitVec 6) (d : BitVec 6) : WordFits.Statement (.stf a d) := fits_word _ (2751463479 + a.toNat * 8192 + d.toNat * 128) rfl rfl (by omega)
theorem WordFits.lres (a : BitVec 6) (d : BitVec 6) : WordFits.Statement (.lres a d) := fits_word _ (2818572343 + a.toNat * 8192 + d.toNat * 128) rfl rfl (by omega)
theorem WordFits.scond (b : BitVec 6) (a : BitVec 6) (d : BitVec 6) : WordFits.Statement (.scond b a d) := fits_word _ (2852126775 + b.toNat * 524288 + a.toNat * 8192 + d.toNat * 128) rfl rfl (by omega)
theorem WordFits.lresAcq (a : BitVec 6) (d : BitVec 6) : WordFits.Statement (.lresAcq a d) := fits_word _ (2885681207 + a.toNat * 8192 + d.toNat * 128) rfl rfl (by omega)
theorem WordFits.scondRel (b : BitVec 6) (a : BitVec 6) (d : BitVec 6) : WordFits.Statement (.scondRel b a d) := fits_word _ (2919235639 + b.toNat * 524288 + a.toNat * 8192 + d.toNat * 128) rfl rfl (by omega)
theorem WordFits.cflush (a : BitVec 6) : WordFits.Statement (.cflush a) := fits_word _ (3221225527 + a.toNat * 8192) rfl rfl (by omega)
theorem WordFits.cwb (a : BitVec 6) : WordFits.Statement (.cwb a) := fits_word _ (3254779959 + a.toNat * 8192) rfl rfl (by omega)
theorem WordFits.cwball : WordFits.Statement .cwball := fits_word _ (3288334391) rfl rfl (by omega)
theorem WordFits.amoadd (s : BitVec 1) (o : BitVec 2) (b : BitVec 6) (a : BitVec 6) (d : BitVec 6) : WordFits.Statement (.amoadd s o b a d) := fits_word _ (57 + s.toNat * 134217728 + o.toNat * 33554432 + b.toNat * 524288 + a.toNat * 8192 + d.toNat * 128) rfl rfl (by omega)
theorem WordFits.amoand (s : BitVec 1) (o : BitVec 2) (b : BitVec 6) (a : BitVec 6) (d : BitVec 6) : WordFits.Statement (.amoand s o b a d) := fits_word _ (268435513 + s.toNat * 134217728 + o.toNat * 33554432 + b.toNat * 524288 + a.toNat * 8192 + d.toNat * 128) rfl rfl (by omega)
theorem WordFits.amoor (s : BitVec 1) (o : BitVec 2) (b : BitVec 6) (a : BitVec 6) (d : BitVec 6) : WordFits.Statement (.amoor s o b a d) := fits_word _ (536870969 + s.toNat * 134217728 + o.toNat * 33554432 + b.toNat * 524288 + a.toNat * 8192 + d.toNat * 128) rfl rfl (by omega)
theorem WordFits.amoxor (s : BitVec 1) (o : BitVec 2) (b : BitVec 6) (a : BitVec 6) (d : BitVec 6) : WordFits.Statement (.amoxor s o b a d) := fits_word _ (805306425 + s.toNat * 134217728 + o.toNat * 33554432 + b.toNat * 524288 + a.toNat * 8192 + d.toNat * 128) rfl rfl (by omega)
theorem WordFits.amomin (s : BitVec 1) (o : BitVec 2) (b : BitVec 6) (a : BitVec 6) (d : BitVec 6) : WordFits.Statement (.amomin s o b a d) := fits_word _ (1073741881 + s.toNat * 134217728 + o.toNat * 33554432 + b.toNat * 524288 + a.toNat * 8192 + d.toNat * 128) rfl rfl (by omega)
theorem WordFits.amomax (s : BitVec 1) (o : BitVec 2) (b : BitVec 6) (a : BitVec 6) (d : BitVec 6) : WordFits.Statement (.amomax s o b a d) := fits_word _ (1342177337 + s.toNat * 134217728 + o.toNat * 33554432 + b.toNat * 524288 + a.toNat * 8192 + d.toNat * 128) rfl rfl (by omega)
theorem WordFits.amominu (s : BitVec 1) (o : BitVec 2) (b : BitVec 6) (a : BitVec 6) (d : BitVec 6) : WordFits.Statement (.amominu s o b a d) := fits_word _ (1610612793 + s.toNat * 134217728 + o.toNat * 33554432 + b.toNat * 524288 + a.toNat * 8192 + d.toNat * 128) rfl rfl (by omega)
theorem WordFits.amomaxu (s : BitVec 1) (o : BitVec 2) (b : BitVec 6) (a : BitVec 6) (d : BitVec 6) : WordFits.Statement (.amomaxu s o b a d) := fits_word _ (1879048249 + s.toNat * 134217728 + o.toNat * 33554432 + b.toNat * 524288 + a.toNat * 8192 + d.toNat * 128) rfl rfl (by omega)
theorem WordFits.amoswap (s : BitVec 1) (o : BitVec 2) (b : BitVec 6) (a : BitVec 6) (d : BitVec 6) : WordFits.Statement (.amoswap s o b a d) := fits_word _ (2147483705 + s.toNat * 134217728 + o.toNat * 33554432 + b.toNat * 524288 + a.toNat * 8192 + d.toNat * 128) rfl rfl (by omega)
theorem WordFits.amocas (s : BitVec 1) (o : BitVec 2) (b : BitVec 6) (a : BitVec 6) (d : BitVec 6) : WordFits.Statement (.amocas s o b a d) := fits_word _ (2415919161 + s.toNat * 134217728 + o.toNat * 33554432 + b.toNat * 524288 + a.toNat * 8192 + d.toNat * 128) rfl rfl (by omega)
theorem WordFits.famoadd (s : BitVec 1) (o : BitVec 2) (b : BitVec 6) (a : BitVec 6) (d : BitVec 6) : WordFits.Statement (.famoadd s o b a d) := fits_word _ (59 + s.toNat * 134217728 + o.toNat * 33554432 + b.toNat * 524288 + a.toNat * 8192 + d.toNat * 128) rfl rfl (by omega)
theorem WordFits.famomin (s : BitVec 1) (o : BitVec 2) (b : BitVec 6) (a : BitVec 6) (d : BitVec 6) : WordFits.Statement (.famomin s o b a d) := fits_word _ (268435515 + s.toNat * 134217728 + o.toNat * 33554432 + b.toNat * 524288 + a.toNat * 8192 + d.toNat * 128) rfl rfl (by omega)
theorem WordFits.famomax (s : BitVec 1) (o : BitVec 2) (b : BitVec 6) (a : BitVec 6) (d : BitVec 6) : WordFits.Statement (.famomax s o b a d) := fits_word _ (536870971 + s.toNat * 134217728 + o.toNat * 33554432 + b.toNat * 524288 + a.toNat * 8192 + d.toNat * 128) rfl rfl (by omega)
theorem WordFits.ldv (k : BitVec 3) (a : BitVec 6) (d : BitVec 6) : WordFits.Statement (.ldv k a d) := fits_word _ (61 + k.toNat * 33554432 + a.toNat * 8192 + d.toNat * 128) rfl rfl (by omega)
theorem WordFits.ldvv (k : BitVec 3) (a : BitVec 6) (d : BitVec 4) : WordFits.Statement (.ldvv k a d) := fits_word _ (268435517 + k.toNat * 33554432 + a.toNat * 8192 + d.toNat * 128) rfl rfl (by omega)
theorem WordFits.stv (k : BitVec 3) (b : BitVec 6) (a : BitVec 6) (d : BitVec 6) : WordFits.Statement (.stv k b a d) := fits_word _ (536870973 + k.toNat * 33554432 + b.toNat * 524288 + a.toNat * 8192 + d.toNat * 128) rfl rfl (by omega)
theorem WordFits.cvclr (k : BitVec 3) : WordFits.Statement (.cvclr k) := fits_word _ (805306429 + k.toNat * 33554432) rfl rfl (by omega)
theorem WordFits.reconMin (k : BitVec 3) (a : BitVec 6) (d : BitVec 6) : WordFits.Statement (.reconMin k a d) := fits_word _ (1073741885 + k.toNat * 33554432 + a.toNat * 8192 + d.toNat * 128) rfl rfl (by omega)
theorem WordFits.reconMax (k : BitVec 3) (a : BitVec 6) (d : BitVec 6) : WordFits.Statement (.reconMax k a d) := fits_word _ (1342177341 + k.toNat * 33554432 + a.toNat * 8192 + d.toNat * 128) rfl rfl (by omega)
theorem WordFits.reconAdd (k : BitVec 3) (a : BitVec 6) (d : BitVec 6) : WordFits.Statement (.reconAdd k a d) := fits_word _ (1610612797 + k.toNat * 33554432 + a.toNat * 8192 + d.toNat * 128) rfl rfl (by omega)
theorem WordFits.reconOr (k : BitVec 3) (a : BitVec 6) (d : BitVec 6) : WordFits.Statement (.reconOr k a d) := fits_word _ (1879048253 + k.toNat * 33554432 + a.toNat * 8192 + d.toNat * 128) rfl rfl (by omega)
theorem WordFits.reconAnd (k : BitVec 3) (a : BitVec 6) (d : BitVec 6) : WordFits.Statement (.reconAnd k a d) := fits_word _ (2147483709 + k.toNat * 33554432 + a.toNat * 8192 + d.toNat * 128) rfl rfl (by omega)
theorem WordFits.reconLowest (k : BitVec 3) (a : BitVec 6) (d : BitVec 6) : WordFits.Statement (.reconLowest k a d) := fits_word _ (2415919165 + k.toNat * 33554432 + a.toNat * 8192 + d.toNat * 128) rfl rfl (by omega)
theorem WordFits.reconHighest (k : BitVec 3) (a : BitVec 6) (d : BitVec 6) : WordFits.Statement (.reconHighest k a d) := fits_word _ (2684354621 + k.toNat * 33554432 + a.toNat * 8192 + d.toNat * 128) rfl rfl (by omega)
theorem WordFits.reconValue (k : BitVec 3) (b : BitVec 6) (a : BitVec 6) (d : BitVec 6) : WordFits.Statement (.reconValue k b a d) := fits_word _ (2952790077 + k.toNat * 33554432 + b.toNat * 524288 + a.toNat * 8192 + d.toNat * 128) rfl rfl (by omega)
theorem WordFits.redW (b : BitVec 6) (a : BitVec 6) : WordFits.Statement (.redW b a) := fits_word _ (3221225533 + b.toNat * 524288 + a.toNat * 8192) rfl rfl (by omega)
theorem WordFits.redD (b : BitVec 6) (a : BitVec 6) : WordFits.Statement (.redD b a) := fits_word _ (3254779965 + b.toNat * 524288 + a.toNat * 8192) rfl rfl (by omega)
theorem WordFits.fence (s : BitVec 3) : WordFits.Statement (.fence s) := fits_word _ (63 + s.toNat * 33554432) rfl rfl (by omega)
theorem WordFits.fenceAcq (s : BitVec 3) : WordFits.Statement (.fenceAcq s) := fits_word _ (268435519 + s.toNat * 33554432) rfl rfl (by omega)
theorem WordFits.fenceRel (s : BitVec 3) : WordFits.Statement (.fenceRel s) := fits_word _ (536870975 + s.toNat * 33554432) rfl rfl (by omega)
theorem WordFits.bara (s : BitVec 3) (a : BitVec 6) (d : BitVec 6) : WordFits.Statement (.bara s a d) := fits_word _ (805306431 + s.toNat * 33554432 + a.toNat * 8192 + d.toNat * 128) rfl rfl (by omega)
theorem WordFits.barw (s : BitVec 3) (b : BitVec 6) (a : BitVec 6) : WordFits.Statement (.barw s b a) := fits_word _ (1073741887 + s.toNat * 33554432 + b.toNat * 524288 + a.toNat * 8192) rfl rfl (by omega)
theorem WordFits.belladd (s : BitVec 3) (b : BitVec 6) (a : BitVec 6) : WordFits.Statement (.belladd s b a) := fits_word _ (1342177343 + s.toNat * 33554432 + b.toNat * 524288 + a.toNat * 8192) rfl rfl (by omega)
theorem WordFits.bellwait (s : BitVec 3) (b : BitVec 6) (a : BitVec 6) : WordFits.Statement (.bellwait s b a) := fits_word _ (1610612799 + s.toNat * 33554432 + b.toNat * 524288 + a.toNat * 8192) rfl rfl (by omega)
theorem WordFits.waitres : WordFits.Statement .waitres := fits_word _ (1879048255) rfl rfl (by omega)
theorem WordFits.waitk (t : BitVec 6) (c : BitVec 6) (s : BitVec 6) (l : BitVec 6) : WordFits.Statement (.waitk t c s l) := fits_word _ (79 + t.toNat * 33554432 + c.toNat * 524288 + s.toNat * 8192 + l.toNat * 128) rfl rfl (by omega)
theorem WordFits.vadd (b : BitVec 4) (a : BitVec 4) (k : BitVec 3) (z : BitVec 1) (d : BitVec 4) : WordFits.Statement (.vadd b a k z d) := fits_word _ (97 + b.toNat * 2097152 + a.toNat * 131072 + k.toNat * 16384 + z.toNat * 8192 + d.toNat * 128) rfl rfl (by omega)
theorem WordFits.vsub (b : BitVec 4) (a : BitVec 4) (k : BitVec 3) (z : BitVec 1) (d : BitVec 4) : WordFits.Statement (.vsub b a k z d) := fits_word _ (33554529 + b.toNat * 2097152 + a.toNat * 131072 + k.toNat * 16384 + z.toNat * 8192 + d.toNat * 128) rfl rfl (by omega)
theorem WordFits.vmul (b : BitVec 4) (a : BitVec 4) (k : BitVec 3) (z : BitVec 1) (d : BitVec 4) : WordFits.Statement (.vmul b a k z d) := fits_word _ (67108961 + b.toNat * 2097152 + a.toNat * 131072 + k.toNat * 16384 + z.toNat * 8192 + d.toNat * 128) rfl rfl (by omega)
theorem WordFits.vmulh (b : BitVec 4) (a : BitVec 4) (k : BitVec 3) (z : BitVec 1) (d : BitVec 4) : WordFits.Statement (.vmulh b a k z d) := fits_word _ (100663393 + b.toNat * 2097152 + a.toNat * 131072 + k.toNat * 16384 + z.toNat * 8192 + d.toNat * 128) rfl rfl (by omega)
theorem WordFits.vmulhu (b : BitVec 4) (a : BitVec 4) (k : BitVec 3) (z : BitVec 1) (d : BitVec 4) : WordFits.Statement (.vmulhu b a k z d) := fits_word _ (134217825 + b.toNat * 2097152 + a.toNat * 131072 + k.toNat * 16384 + z.toNat * 8192 + d.toNat * 128) rfl rfl (by omega)
theorem WordFits.vmin (b : BitVec 4) (a : BitVec 4) (k : BitVec 3) (z : BitVec 1) (d : BitVec 4) : WordFits.Statement (.vmin b a k z d) := fits_word _ (167772257 + b.toNat * 2097152 + a.toNat * 131072 + k.toNat * 16384 + z.toNat * 8192 + d.toNat * 128) rfl rfl (by omega)
theorem WordFits.vmax (b : BitVec 4) (a : BitVec 4) (k : BitVec 3) (z : BitVec 1) (d : BitVec 4) : WordFits.Statement (.vmax b a k z d) := fits_word _ (201326689 + b.toNat * 2097152 + a.toNat * 131072 + k.toNat * 16384 + z.toNat * 8192 + d.toNat * 128) rfl rfl (by omega)
theorem WordFits.vminu (b : BitVec 4) (a : BitVec 4) (k : BitVec 3) (z : BitVec 1) (d : BitVec 4) : WordFits.Statement (.vminu b a k z d) := fits_word _ (234881121 + b.toNat * 2097152 + a.toNat * 131072 + k.toNat * 16384 + z.toNat * 8192 + d.toNat * 128) rfl rfl (by omega)
theorem WordFits.vmaxu (b : BitVec 4) (a : BitVec 4) (k : BitVec 3) (z : BitVec 1) (d : BitVec 4) : WordFits.Statement (.vmaxu b a k z d) := fits_word _ (268435553 + b.toNat * 2097152 + a.toNat * 131072 + k.toNat * 16384 + z.toNat * 8192 + d.toNat * 128) rfl rfl (by omega)
theorem WordFits.vand (b : BitVec 4) (a : BitVec 4) (k : BitVec 3) (z : BitVec 1) (d : BitVec 4) : WordFits.Statement (.vand b a k z d) := fits_word _ (301989985 + b.toNat * 2097152 + a.toNat * 131072 + k.toNat * 16384 + z.toNat * 8192 + d.toNat * 128) rfl rfl (by omega)
theorem WordFits.vor (b : BitVec 4) (a : BitVec 4) (k : BitVec 3) (z : BitVec 1) (d : BitVec 4) : WordFits.Statement (.vor b a k z d) := fits_word _ (335544417 + b.toNat * 2097152 + a.toNat * 131072 + k.toNat * 16384 + z.toNat * 8192 + d.toNat * 128) rfl rfl (by omega)
theorem WordFits.vxor (b : BitVec 4) (a : BitVec 4) (k : BitVec 3) (z : BitVec 1) (d : BitVec 4) : WordFits.Statement (.vxor b a k z d) := fits_word _ (369098849 + b.toNat * 2097152 + a.toNat * 131072 + k.toNat * 16384 + z.toNat * 8192 + d.toNat * 128) rfl rfl (by omega)
theorem WordFits.vandn (b : BitVec 4) (a : BitVec 4) (k : BitVec 3) (z : BitVec 1) (d : BitVec 4) : WordFits.Statement (.vandn b a k z d) := fits_word _ (402653281 + b.toNat * 2097152 + a.toNat * 131072 + k.toNat * 16384 + z.toNat * 8192 + d.toNat * 128) rfl rfl (by omega)
theorem WordFits.vshl (b : BitVec 4) (a : BitVec 4) (k : BitVec 3) (z : BitVec 1) (d : BitVec 4) : WordFits.Statement (.vshl b a k z d) := fits_word _ (436207713 + b.toNat * 2097152 + a.toNat * 131072 + k.toNat * 16384 + z.toNat * 8192 + d.toNat * 128) rfl rfl (by omega)
theorem WordFits.vshr (b : BitVec 4) (a : BitVec 4) (k : BitVec 3) (z : BitVec 1) (d : BitVec 4) : WordFits.Statement (.vshr b a k z d) := fits_word _ (469762145 + b.toNat * 2097152 + a.toNat * 131072 + k.toNat * 16384 + z.toNat * 8192 + d.toNat * 128) rfl rfl (by omega)
theorem WordFits.vsar (b : BitVec 4) (a : BitVec 4) (k : BitVec 3) (z : BitVec 1) (d : BitVec 4) : WordFits.Statement (.vsar b a k z d) := fits_word _ (503316577 + b.toNat * 2097152 + a.toNat * 131072 + k.toNat * 16384 + z.toNat * 8192 + d.toNat * 128) rfl rfl (by omega)
theorem WordFits.vaddsat (b : BitVec 4) (a : BitVec 4) (k : BitVec 3) (z : BitVec 1) (d : BitVec 4) : WordFits.Statement (.vaddsat b a k z d) := fits_word _ (536871009 + b.toNat * 2097152 + a.toNat * 131072 + k.toNat * 16384 + z.toNat * 8192 + d.toNat * 128) rfl rfl (by omega)
theorem WordFits.vsubsat (b : BitVec 4) (a : BitVec 4) (k : BitVec 3) (z : BitVec 1) (d : BitVec 4) : WordFits.Statement (.vsubsat b a k z d) := fits_word _ (570425441 + b.toNat * 2097152 + a.toNat * 131072 + k.toNat * 16384 + z.toNat * 8192 + d.toNat * 128) rfl rfl (by omega)
theorem WordFits.vabs (a : BitVec 4) (k : BitVec 3) (z : BitVec 1) (d : BitVec 4) : WordFits.Statement (.vabs a k z d) := fits_word _ (603979873 + a.toNat * 131072 + k.toNat * 16384 + z.toNat * 8192 + d.toNat * 128) rfl rfl (by omega)
theorem WordFits.vmov (a : BitVec 4) (k : BitVec 3) (z : BitVec 1) (d : BitVec 4) : WordFits.Statement (.vmov a k z d) := fits_word _ (637534305 + a.toNat * 131072 + k.toNat * 16384 + z.toNat * 8192 + d.toNat * 128) rfl rfl (by omega)
theorem WordFits.vfadd (b : BitVec 4) (a : BitVec 4) (k : BitVec 3) (z : BitVec 1) (d : BitVec 4) : WordFits.Statement (.vfadd b a k z d) := fits_word _ (1073741921 + b.toNat * 2097152 + a.toNat * 131072 + k.toNat * 16384 + z.toNat * 8192 + d.toNat * 128) rfl rfl (by omega)
theorem WordFits.vfsub (b : BitVec 4) (a : BitVec 4) (k : BitVec 3) (z : BitVec 1) (d : BitVec 4) : WordFits.Statement (.vfsub b a k z d) := fits_word _ (1107296353 + b.toNat * 2097152 + a.toNat * 131072 + k.toNat * 16384 + z.toNat * 8192 + d.toNat * 128) rfl rfl (by omega)
theorem WordFits.vfmul (b : BitVec 4) (a : BitVec 4) (k : BitVec 3) (z : BitVec 1) (d : BitVec 4) : WordFits.Statement (.vfmul b a k z d) := fits_word _ (1140850785 + b.toNat * 2097152 + a.toNat * 131072 + k.toNat * 16384 + z.toNat * 8192 + d.toNat * 128) rfl rfl (by omega)
theorem WordFits.vfmin (b : BitVec 4) (a : BitVec 4) (k : BitVec 3) (z : BitVec 1) (d : BitVec 4) : WordFits.Statement (.vfmin b a k z d) := fits_word _ (1174405217 + b.toNat * 2097152 + a.toNat * 131072 + k.toNat * 16384 + z.toNat * 8192 + d.toNat * 128) rfl rfl (by omega)
theorem WordFits.vfmax (b : BitVec 4) (a : BitVec 4) (k : BitVec 3) (z : BitVec 1) (d : BitVec 4) : WordFits.Statement (.vfmax b a k z d) := fits_word _ (1207959649 + b.toNat * 2097152 + a.toNat * 131072 + k.toNat * 16384 + z.toNat * 8192 + d.toNat * 128) rfl rfl (by omega)
theorem WordFits.vfabs (a : BitVec 4) (k : BitVec 3) (z : BitVec 1) (d : BitVec 4) : WordFits.Statement (.vfabs a k z d) := fits_word _ (1241514081 + a.toNat * 131072 + k.toNat * 16384 + z.toNat * 8192 + d.toNat * 128) rfl rfl (by omega)
theorem WordFits.vfneg (a : BitVec 4) (k : BitVec 3) (z : BitVec 1) (d : BitVec 4) : WordFits.Statement (.vfneg a k z d) := fits_word _ (1275068513 + a.toNat * 131072 + k.toNat * 16384 + z.toNat * 8192 + d.toNat * 128) rfl rfl (by omega)
theorem WordFits.vadds (g : BitVec 6) (a : BitVec 4) (k : BitVec 3) (z : BitVec 1) (d : BitVec 4) : WordFits.Statement (.vadds g a k z d) := fits_word _ (2147483745 + g.toNat * 524288 + a.toNat * 32768 + k.toNat * 4096 + z.toNat * 2048 + d.toNat * 128) rfl rfl (by omega)
theorem WordFits.vsubs (g : BitVec 6) (a : BitVec 4) (k : BitVec 3) (z : BitVec 1) (d : BitVec 4) : WordFits.Statement (.vsubs g a k z d) := fits_word _ (2181038177 + g.toNat * 524288 + a.toNat * 32768 + k.toNat * 4096 + z.toNat * 2048 + d.toNat * 128) rfl rfl (by omega)
theorem WordFits.vmuls (g : BitVec 6) (a : BitVec 4) (k : BitVec 3) (z : BitVec 1) (d : BitVec 4) : WordFits.Statement (.vmuls g a k z d) := fits_word _ (2214592609 + g.toNat * 524288 + a.toNat * 32768 + k.toNat * 4096 + z.toNat * 2048 + d.toNat * 128) rfl rfl (by omega)
theorem WordFits.vmulhs (g : BitVec 6) (a : BitVec 4) (k : BitVec 3) (z : BitVec 1) (d : BitVec 4) : WordFits.Statement (.vmulhs g a k z d) := fits_word _ (2248147041 + g.toNat * 524288 + a.toNat * 32768 + k.toNat * 4096 + z.toNat * 2048 + d.toNat * 128) rfl rfl (by omega)
theorem WordFits.vmulhus (g : BitVec 6) (a : BitVec 4) (k : BitVec 3) (z : BitVec 1) (d : BitVec 4) : WordFits.Statement (.vmulhus g a k z d) := fits_word _ (2281701473 + g.toNat * 524288 + a.toNat * 32768 + k.toNat * 4096 + z.toNat * 2048 + d.toNat * 128) rfl rfl (by omega)
theorem WordFits.vmins (g : BitVec 6) (a : BitVec 4) (k : BitVec 3) (z : BitVec 1) (d : BitVec 4) : WordFits.Statement (.vmins g a k z d) := fits_word _ (2315255905 + g.toNat * 524288 + a.toNat * 32768 + k.toNat * 4096 + z.toNat * 2048 + d.toNat * 128) rfl rfl (by omega)
theorem WordFits.vmaxs (g : BitVec 6) (a : BitVec 4) (k : BitVec 3) (z : BitVec 1) (d : BitVec 4) : WordFits.Statement (.vmaxs g a k z d) := fits_word _ (2348810337 + g.toNat * 524288 + a.toNat * 32768 + k.toNat * 4096 + z.toNat * 2048 + d.toNat * 128) rfl rfl (by omega)
theorem WordFits.vminus (g : BitVec 6) (a : BitVec 4) (k : BitVec 3) (z : BitVec 1) (d : BitVec 4) : WordFits.Statement (.vminus g a k z d) := fits_word _ (2382364769 + g.toNat * 524288 + a.toNat * 32768 + k.toNat * 4096 + z.toNat * 2048 + d.toNat * 128) rfl rfl (by omega)
theorem WordFits.vmaxus (g : BitVec 6) (a : BitVec 4) (k : BitVec 3) (z : BitVec 1) (d : BitVec 4) : WordFits.Statement (.vmaxus g a k z d) := fits_word _ (2415919201 + g.toNat * 524288 + a.toNat * 32768 + k.toNat * 4096 + z.toNat * 2048 + d.toNat * 128) rfl rfl (by omega)
theorem WordFits.vands (g : BitVec 6) (a : BitVec 4) (k : BitVec 3) (z : BitVec 1) (d : BitVec 4) : WordFits.Statement (.vands g a k z d) := fits_word _ (2449473633 + g.toNat * 524288 + a.toNat * 32768 + k.toNat * 4096 + z.toNat * 2048 + d.toNat * 128) rfl rfl (by omega)
theorem WordFits.vors (g : BitVec 6) (a : BitVec 4) (k : BitVec 3) (z : BitVec 1) (d : BitVec 4) : WordFits.Statement (.vors g a k z d) := fits_word _ (2483028065 + g.toNat * 524288 + a.toNat * 32768 + k.toNat * 4096 + z.toNat * 2048 + d.toNat * 128) rfl rfl (by omega)
theorem WordFits.vxors (g : BitVec 6) (a : BitVec 4) (k : BitVec 3) (z : BitVec 1) (d : BitVec 4) : WordFits.Statement (.vxors g a k z d) := fits_word _ (2516582497 + g.toNat * 524288 + a.toNat * 32768 + k.toNat * 4096 + z.toNat * 2048 + d.toNat * 128) rfl rfl (by omega)
theorem WordFits.vandns (g : BitVec 6) (a : BitVec 4) (k : BitVec 3) (z : BitVec 1) (d : BitVec 4) : WordFits.Statement (.vandns g a k z d) := fits_word _ (2550136929 + g.toNat * 524288 + a.toNat * 32768 + k.toNat * 4096 + z.toNat * 2048 + d.toNat * 128) rfl rfl (by omega)
theorem WordFits.vshls (g : BitVec 6) (a : BitVec 4) (k : BitVec 3) (z : BitVec 1) (d : BitVec 4) : WordFits.Statement (.vshls g a k z d) := fits_word _ (2583691361 + g.toNat * 524288 + a.toNat * 32768 + k.toNat * 4096 + z.toNat * 2048 + d.toNat * 128) rfl rfl (by omega)
theorem WordFits.vshrs (g : BitVec 6) (a : BitVec 4) (k : BitVec 3) (z : BitVec 1) (d : BitVec 4) : WordFits.Statement (.vshrs g a k z d) := fits_word _ (2617245793 + g.toNat * 524288 + a.toNat * 32768 + k.toNat * 4096 + z.toNat * 2048 + d.toNat * 128) rfl rfl (by omega)
theorem WordFits.vsars (g : BitVec 6) (a : BitVec 4) (k : BitVec 3) (z : BitVec 1) (d : BitVec 4) : WordFits.Statement (.vsars g a k z d) := fits_word _ (2650800225 + g.toNat * 524288 + a.toNat * 32768 + k.toNat * 4096 + z.toNat * 2048 + d.toNat * 128) rfl rfl (by omega)
theorem WordFits.vaddsats (g : BitVec 6) (a : BitVec 4) (k : BitVec 3) (z : BitVec 1) (d : BitVec 4) : WordFits.Statement (.vaddsats g a k z d) := fits_word _ (2684354657 + g.toNat * 524288 + a.toNat * 32768 + k.toNat * 4096 + z.toNat * 2048 + d.toNat * 128) rfl rfl (by omega)
theorem WordFits.vsubsats (g : BitVec 6) (a : BitVec 4) (k : BitVec 3) (z : BitVec 1) (d : BitVec 4) : WordFits.Statement (.vsubsats g a k z d) := fits_word _ (2717909089 + g.toNat * 524288 + a.toNat * 32768 + k.toNat * 4096 + z.toNat * 2048 + d.toNat * 128) rfl rfl (by omega)
theorem WordFits.vfadds (g : BitVec 6) (a : BitVec 4) (k : BitVec 3) (z : BitVec 1) (d : BitVec 4) : WordFits.Statement (.vfadds g a k z d) := fits_word _ (3221225569 + g.toNat * 524288 + a.toNat * 32768 + k.toNat * 4096 + z.toNat * 2048 + d.toNat * 128) rfl rfl (by omega)
theorem WordFits.vfsubs (g : BitVec 6) (a : BitVec 4) (k : BitVec 3) (z : BitVec 1) (d : BitVec 4) : WordFits.Statement (.vfsubs g a k z d) := fits_word _ (3254780001 + g.toNat * 524288 + a.toNat * 32768 + k.toNat * 4096 + z.toNat * 2048 + d.toNat * 128) rfl rfl (by omega)
theorem WordFits.vfmuls (g : BitVec 6) (a : BitVec 4) (k : BitVec 3) (z : BitVec 1) (d : BitVec 4) : WordFits.Statement (.vfmuls g a k z d) := fits_word _ (3288334433 + g.toNat * 524288 + a.toNat * 32768 + k.toNat * 4096 + z.toNat * 2048 + d.toNat * 128) rfl rfl (by omega)
theorem WordFits.vfmins (g : BitVec 6) (a : BitVec 4) (k : BitVec 3) (z : BitVec 1) (d : BitVec 4) : WordFits.Statement (.vfmins g a k z d) := fits_word _ (3321888865 + g.toNat * 524288 + a.toNat * 32768 + k.toNat * 4096 + z.toNat * 2048 + d.toNat * 128) rfl rfl (by omega)
theorem WordFits.vfmaxs (g : BitVec 6) (a : BitVec 4) (k : BitVec 3) (z : BitVec 1) (d : BitVec 4) : WordFits.Statement (.vfmaxs g a k z d) := fits_word _ (3355443297 + g.toNat * 524288 + a.toNat * 32768 + k.toNat * 4096 + z.toNat * 2048 + d.toNat * 128) rfl rfl (by omega)
theorem WordFits.vfma (b : BitVec 4) (a : BitVec 4) (k : BitVec 3) (z : BitVec 1) (d : BitVec 4) : WordFits.Statement (.vfma b a k z d) := fits_word _ (99 + b.toNat * 2097152 + a.toNat * 131072 + k.toNat * 16384 + z.toNat * 8192 + d.toNat * 128) rfl rfl (by omega)
theorem WordFits.vfms (b : BitVec 4) (a : BitVec 4) (k : BitVec 3) (z : BitVec 1) (d : BitVec 4) : WordFits.Statement (.vfms b a k z d) := fits_word _ (33554531 + b.toNat * 2097152 + a.toNat * 131072 + k.toNat * 16384 + z.toNat * 8192 + d.toNat * 128) rfl rfl (by omega)
theorem WordFits.vfnma (b : BitVec 4) (a : BitVec 4) (k : BitVec 3) (z : BitVec 1) (d : BitVec 4) : WordFits.Statement (.vfnma b a k z d) := fits_word _ (67108963 + b.toNat * 2097152 + a.toNat * 131072 + k.toNat * 16384 + z.toNat * 8192 + d.toNat * 128) rfl rfl (by omega)
theorem WordFits.vfnms (b : BitVec 4) (a : BitVec 4) (k : BitVec 3) (z : BitVec 1) (d : BitVec 4) : WordFits.Statement (.vfnms b a k z d) := fits_word _ (100663395 + b.toNat * 2097152 + a.toNat * 131072 + k.toNat * 16384 + z.toNat * 8192 + d.toNat * 128) rfl rfl (by omega)
theorem WordFits.vmad (b : BitVec 4) (a : BitVec 4) (k : BitVec 3) (z : BitVec 1) (d : BitVec 4) : WordFits.Statement (.vmad b a k z d) := fits_word _ (268435555 + b.toNat * 2097152 + a.toNat * 131072 + k.toNat * 16384 + z.toNat * 8192 + d.toNat * 128) rfl rfl (by omega)
theorem WordFits.vdot4i8 (b : BitVec 4) (a : BitVec 4) (k : BitVec 3) (z : BitVec 1) (d : BitVec 4) : WordFits.Statement (.vdot4i8 b a k z d) := fits_word _ (301989987 + b.toNat * 2097152 + a.toNat * 131072 + k.toNat * 16384 + z.toNat * 8192 + d.toNat * 128) rfl rfl (by omega)
theorem WordFits.vfmas (g : BitVec 6) (a : BitVec 4) (k : BitVec 3) (z : BitVec 1) (d : BitVec 4) : WordFits.Statement (.vfmas g a k z d) := fits_word _ (2147483747 + g.toNat * 524288 + a.toNat * 32768 + k.toNat * 4096 + z.toNat * 2048 + d.toNat * 128) rfl rfl (by omega)
theorem WordFits.vfmss (g : BitVec 6) (a : BitVec 4) (k : BitVec 3) (z : BitVec 1) (d : BitVec 4) : WordFits.Statement (.vfmss g a k z d) := fits_word _ (2181038179 + g.toNat * 524288 + a.toNat * 32768 + k.toNat * 4096 + z.toNat * 2048 + d.toNat * 128) rfl rfl (by omega)
theorem WordFits.vfnmas (g : BitVec 6) (a : BitVec 4) (k : BitVec 3) (z : BitVec 1) (d : BitVec 4) : WordFits.Statement (.vfnmas g a k z d) := fits_word _ (2214592611 + g.toNat * 524288 + a.toNat * 32768 + k.toNat * 4096 + z.toNat * 2048 + d.toNat * 128) rfl rfl (by omega)
theorem WordFits.vfnmss (g : BitVec 6) (a : BitVec 4) (k : BitVec 3) (z : BitVec 1) (d : BitVec 4) : WordFits.Statement (.vfnmss g a k z d) := fits_word _ (2248147043 + g.toNat * 524288 + a.toNat * 32768 + k.toNat * 4096 + z.toNat * 2048 + d.toNat * 128) rfl rfl (by omega)
theorem WordFits.vmads (g : BitVec 6) (a : BitVec 4) (k : BitVec 3) (z : BitVec 1) (d : BitVec 4) : WordFits.Statement (.vmads g a k z d) := fits_word _ (2415919203 + g.toNat * 524288 + a.toNat * 32768 + k.toNat * 4096 + z.toNat * 2048 + d.toNat * 128) rfl rfl (by omega)
theorem WordFits.vdot4i8s (g : BitVec 6) (a : BitVec 4) (k : BitVec 3) (z : BitVec 1) (d : BitVec 4) : WordFits.Statement (.vdot4i8s g a k z d) := fits_word _ (2449473635 + g.toNat * 524288 + a.toNat * 32768 + k.toNat * 4096 + z.toNat * 2048 + d.toNat * 128) rfl rfl (by omega)
theorem WordFits.vcmp (c : BitVec 4) (b : BitVec 4) (a : BitVec 4) (k : BitVec 3) (z : BitVec 1) (d : BitVec 3) : WordFits.Statement (.vcmp c b a k z d) := fits_word _ (107 + c.toNat * 33554432 + b.toNat * 2097152 + a.toNat * 131072 + k.toNat * 16384 + z.toNat * 8192 + d.toNat * 128) rfl rfl (by omega)
theorem WordFits.vcmps (c : BitVec 4) (g : BitVec 6) (a : BitVec 4) (k : BitVec 3) (z : BitVec 1) (d : BitVec 3) : WordFits.Statement (.vcmps c g a k z d) := fits_word _ (2147483755 + c.toNat * 33554432 + g.toNat * 524288 + a.toNat * 32768 + k.toNat * 4096 + z.toNat * 2048 + d.toNat * 128) rfl rfl (by omega)
theorem WordFits.vld (q : BitVec 2) (g : BitVec 6) (k : BitVec 3) (z : BitVec 1) (d : BitVec 4) : WordFits.Statement (.vld q g k z d) := fits_word _ (101 + q.toNat * 536870912 + g.toNat * 524288 + k.toNat * 4096 + z.toNat * 2048 + d.toNat * 128) rfl rfl (by omega)
theorem WordFits.vst (q : BitVec 2) (g : BitVec 6) (k : BitVec 3) (z : BitVec 1) (d : BitVec 4) : WordFits.Statement (.vst q g k z d) := fits_word _ (33554533 + q.toNat * 536870912 + g.toNat * 524288 + k.toNat * 4096 + z.toNat * 2048 + d.toNat * 128) rfl rfl (by omega)
theorem WordFits.vgath (q : BitVec 2) (g : BitVec 6) (a : BitVec 4) (k : BitVec 3) (z : BitVec 1) (d : BitVec 4) : WordFits.Statement (.vgath q g a k z d) := fits_word _ (67108965 + q.toNat * 536870912 + g.toNat * 524288 + a.toNat * 32768 + k.toNat * 4096 + z.toNat * 2048 + d.toNat * 128) rfl rfl (by omega)
theorem WordFits.vscat (q : BitVec 2) (g : BitVec 6) (a : BitVec 4) (k : BitVec 3) (z : BitVec 1) (d : BitVec 4) : WordFits.Statement (.vscat q g a k z d) := fits_word _ (100663397 + q.toNat * 536870912 + g.toNat * 524288 + a.toNat * 32768 + k.toNat * 4096 + z.toNat * 2048 + d.toNat * 128) rfl rfl (by omega)
theorem WordFits.vlds (g : BitVec 6) (k : BitVec 3) (z : BitVec 1) (d : BitVec 4) : WordFits.Statement (.vlds g k z d) := fits_word _ (134217829 + g.toNat * 524288 + k.toNat * 4096 + z.toNat * 2048 + d.toNat * 128) rfl rfl (by omega)
theorem WordFits.vsts (g : BitVec 6) (k : BitVec 3) (z : BitVec 1) (d : BitVec 4) : WordFits.Statement (.vsts g k z d) := fits_word _ (167772261 + g.toNat * 524288 + k.toNat * 4096 + z.toNat * 2048 + d.toNat * 128) rfl rfl (by omega)
theorem WordFits.vldsx (g : BitVec 6) (a : BitVec 4) (k : BitVec 3) (z : BitVec 1) (d : BitVec 4) : WordFits.Statement (.vldsx g a k z d) := fits_word _ (201326693 + g.toNat * 524288 + a.toNat * 32768 + k.toNat * 4096 + z.toNat * 2048 + d.toNat * 128) rfl rfl (by omega)
theorem WordFits.vstsx (g : BitVec 6) (a : BitVec 4) (k : BitVec 3) (z : BitVec 1) (d : BitVec 4) : WordFits.Statement (.vstsx g a k z d) := fits_word _ (234881125 + g.toNat * 524288 + a.toNat * 32768 + k.toNat * 4096 + z.toNat * 2048 + d.toNat * 128) rfl rfl (by omega)
theorem WordFits.vredadd (g : BitVec 6) (a : BitVec 4) (k : BitVec 3) : WordFits.Statement (.vredadd g a k) := fits_word _ (103 + g.toNat * 524288 + a.toNat * 32768 + k.toNat * 4096) rfl rfl (by omega)
theorem WordFits.vredmin (g : BitVec 6) (a : BitVec 4) (k : BitVec 3) : WordFits.Statement (.vredmin g a k) := fits_word _ (33554535 + g.toNat * 524288 + a.toNat * 32768 + k.toNat * 4096) rfl rfl (by omega)
theorem WordFits.vredmax (g : BitVec 6) (a : BitVec 4) (k : BitVec 3) : WordFits.Statement (.vredmax g a k) := fits_word _ (67108967 + g.toNat * 524288 + a.toNat * 32768 + k.toNat * 4096) rfl rfl (by omega)
theorem WordFits.vredminu (g : BitVec 6) (a : BitVec 4) (k : BitVec 3) : WordFits.Statement (.vredminu g a k) := fits_word _ (100663399 + g.toNat * 524288 + a.toNat * 32768 + k.toNat * 4096) rfl rfl (by omega)
theorem WordFits.vredmaxu (g : BitVec 6) (a : BitVec 4) (k : BitVec 3) : WordFits.Statement (.vredmaxu g a k) := fits_word _ (134217831 + g.toNat * 524288 + a.toNat * 32768 + k.toNat * 4096) rfl rfl (by omega)
theorem WordFits.vredor (g : BitVec 6) (a : BitVec 4) (k : BitVec 3) : WordFits.Statement (.vredor g a k) := fits_word _ (167772263 + g.toNat * 524288 + a.toNat * 32768 + k.toNat * 4096) rfl rfl (by omega)
theorem WordFits.vredand (g : BitVec 6) (a : BitVec 4) (k : BitVec 3) : WordFits.Statement (.vredand g a k) := fits_word _ (201326695 + g.toNat * 524288 + a.toNat * 32768 + k.toNat * 4096) rfl rfl (by omega)
theorem WordFits.vredfadd (g : BitVec 6) (a : BitVec 4) (k : BitVec 3) : WordFits.Statement (.vredfadd g a k) := fits_word _ (268435559 + g.toNat * 524288 + a.toNat * 32768 + k.toNat * 4096) rfl rfl (by omega)
theorem WordFits.vredfmin (g : BitVec 6) (a : BitVec 4) (k : BitVec 3) : WordFits.Statement (.vredfmin g a k) := fits_word _ (301989991 + g.toNat * 524288 + a.toNat * 32768 + k.toNat * 4096) rfl rfl (by omega)
theorem WordFits.vredfmax (g : BitVec 6) (a : BitVec 4) (k : BitVec 3) : WordFits.Statement (.vredfmax g a k) := fits_word _ (335544423 + g.toNat * 524288 + a.toNat * 32768 + k.toNat * 4096) rfl rfl (by omega)
theorem WordFits.vbcast (g : BitVec 6) (k : BitVec 3) (z : BitVec 1) (d : BitVec 4) : WordFits.Statement (.vbcast g k z d) := fits_word _ (536871015 + g.toNat * 524288 + k.toNat * 4096 + z.toNat * 2048 + d.toNat * 128) rfl rfl (by omega)
theorem WordFits.vext (g : BitVec 6) (a : BitVec 4) (k : BitVec 3) : WordFits.Statement (.vext g a k) := fits_word _ (570425447 + g.toNat * 524288 + a.toNat * 32768 + k.toNat * 4096) rfl rfl (by omega)
theorem WordFits.vperm (b : BitVec 4) (a : BitVec 4) (k : BitVec 3) (z : BitVec 1) (d : BitVec 4) : WordFits.Statement (.vperm b a k z d) := fits_word _ (603979879 + b.toNat * 2097152 + a.toNat * 131072 + k.toNat * 16384 + z.toNat * 8192 + d.toNat * 128) rfl rfl (by omega)
theorem WordFits.vrotl (g : BitVec 6) (a : BitVec 4) (k : BitVec 3) (z : BitVec 1) (d : BitVec 4) : WordFits.Statement (.vrotl g a k z d) := fits_word _ (637534311 + g.toNat * 524288 + a.toNat * 32768 + k.toNat * 4096 + z.toNat * 2048 + d.toNat * 128) rfl rfl (by omega)
theorem WordFits.vcomp (a : BitVec 4) (k : BitVec 3) (d : BitVec 4) : WordFits.Statement (.vcomp a k d) := fits_word _ (671088743 + a.toNat * 131072 + k.toNat * 16384 + d.toNat * 128) rfl rfl (by omega)
theorem WordFits.viota (k : BitVec 3) (z : BitVec 1) (d : BitVec 4) : WordFits.Statement (.viota k z d) := fits_word _ (704643175 + k.toNat * 16384 + z.toNat * 8192 + d.toNat * 128) rfl rfl (by omega)
theorem WordFits.kand (b : BitVec 3) (a : BitVec 3) (d : BitVec 3) : WordFits.Statement (.kand b a d) := fits_word _ (1073741927 + b.toNat * 524288 + a.toNat * 8192 + d.toNat * 128) rfl rfl (by omega)
theorem WordFits.kor (b : BitVec 3) (a : BitVec 3) (d : BitVec 3) : WordFits.Statement (.kor b a d) := fits_word _ (1107296359 + b.toNat * 524288 + a.toNat * 8192 + d.toNat * 128) rfl rfl (by omega)
theorem WordFits.kxor (b : BitVec 3) (a : BitVec 3) (d : BitVec 3) : WordFits.Statement (.kxor b a d) := fits_word _ (1140850791 + b.toNat * 524288 + a.toNat * 8192 + d.toNat * 128) rfl rfl (by omega)
theorem WordFits.kandn (b : BitVec 3) (a : BitVec 3) (d : BitVec 3) : WordFits.Statement (.kandn b a d) := fits_word _ (1174405223 + b.toNat * 524288 + a.toNat * 8192 + d.toNat * 128) rfl rfl (by omega)
theorem WordFits.knot (a : BitVec 3) (d : BitVec 3) : WordFits.Statement (.knot a d) := fits_word _ (1207959655 + a.toNat * 8192 + d.toNat * 128) rfl rfl (by omega)
theorem WordFits.kmovg (a : BitVec 6) (d : BitVec 3) : WordFits.Statement (.kmovg a d) := fits_word _ (1241514087 + a.toNat * 8192 + d.toNat * 128) rfl rfl (by omega)
theorem WordFits.krd (a : BitVec 3) (d : BitVec 6) : WordFits.Statement (.krd a d) := fits_word _ (1275068519 + a.toNat * 8192 + d.toNat * 128) rfl rfl (by omega)
theorem WordFits.kpopc (a : BitVec 3) (d : BitVec 6) : WordFits.Statement (.kpopc a d) := fits_word _ (1308622951 + a.toNat * 8192 + d.toNat * 128) rfl rfl (by omega)
theorem WordFits.kfirst (a : BitVec 3) (d : BitVec 6) : WordFits.Statement (.kfirst a d) := fits_word _ (1342177383 + a.toNat * 8192 + d.toNat * 128) rfl rfl (by omega)
theorem WordFits.vcvtfi (a : BitVec 4) (k : BitVec 3) (z : BitVec 1) (d : BitVec 4) : WordFits.Statement (.vcvtfi a k z d) := fits_word _ (105 + a.toNat * 131072 + k.toNat * 16384 + z.toNat * 8192 + d.toNat * 128) rfl rfl (by omega)
theorem WordFits.vcvtif (a : BitVec 4) (k : BitVec 3) (z : BitVec 1) (d : BitVec 4) : WordFits.Statement (.vcvtif a k z d) := fits_word _ (33554537 + a.toNat * 131072 + k.toNat * 16384 + z.toNat * 8192 + d.toNat * 128) rfl rfl (by omega)
theorem WordFits.vcvtuf (a : BitVec 4) (k : BitVec 3) (z : BitVec 1) (d : BitVec 4) : WordFits.Statement (.vcvtuf a k z d) := fits_word _ (67108969 + a.toNat * 131072 + k.toNat * 16384 + z.toNat * 8192 + d.toNat * 128) rfl rfl (by omega)
theorem WordFits.vcvtfu (a : BitVec 4) (k : BitVec 3) (z : BitVec 1) (d : BitVec 4) : WordFits.Statement (.vcvtfu a k z d) := fits_word _ (100663401 + a.toNat * 131072 + k.toNat * 16384 + z.toNat * 8192 + d.toNat * 128) rfl rfl (by omega)
theorem WordFits.vpack (f : BitVec 3) (p : BitVec 4) (a : BitVec 4) (k : BitVec 3) (z : BitVec 1) (d : BitVec 4) : WordFits.Statement (.vpack f p a k z d) := fits_word _ (268435561 + f.toNat * 33554432 + p.toNat * 2097152 + a.toNat * 131072 + k.toNat * 16384 + z.toNat * 8192 + d.toNat * 128) rfl rfl (by omega)
theorem WordFits.vunpk (f : BitVec 3) (p : BitVec 4) (a : BitVec 4) (k : BitVec 3) (z : BitVec 1) (d : BitVec 4) : WordFits.Statement (.vunpk f p a k z d) := fits_word _ (536871017 + f.toNat * 33554432 + p.toNat * 2097152 + a.toNat * 131072 + k.toNat * 16384 + z.toNat * 8192 + d.toNat * 128) rfl rfl (by omega)
theorem WordFits.vcbd (g : BitVec 6) (a : BitVec 4) (k : BitVec 3) (z : BitVec 1) (d : BitVec 4) : WordFits.Statement (.vcbd g a k z d) := fits_word _ (1073741929 + g.toNat * 524288 + a.toNat * 32768 + k.toNat * 4096 + z.toNat * 2048 + d.toNat * 128) rfl rfl (by omega)
theorem WordFits.vcbdi (g : BitVec 6) (a : BitVec 4) (k : BitVec 3) (z : BitVec 1) (d : BitVec 4) : WordFits.Statement (.vcbdi g a k z d) := fits_word _ (1107296361 + g.toNat * 524288 + a.toNat * 32768 + k.toNat * 4096 + z.toNat * 2048 + d.toNat * 128) rfl rfl (by omega)
theorem WordFits.wing (b : BitVec 6) (a : BitVec 6) (d : BitVec 6) : WordFits.Statement (.wing b a d) := fits_word _ (1610612841 + b.toNat * 524288 + a.toNat * 8192 + d.toNat * 128) rfl rfl (by omega)
theorem WordFits.vwing (g : BitVec 6) (a : BitVec 4) (k : BitVec 3) (z : BitVec 1) (d : BitVec 4) : WordFits.Statement (.vwing g a k z d) := fits_word _ (1644167273 + g.toNat * 524288 + a.toNat * 32768 + k.toNat * 4096 + z.toNat * 2048 + d.toNat * 128) rfl rfl (by omega)
theorem WordFits.mand (b : BitVec 2) (a : BitVec 2) (d : BitVec 2) : WordFits.Statement (.mand b a d) := fits_word _ (113 + b.toNat * 524288 + a.toNat * 8192 + d.toNat * 128) rfl rfl (by omega)
theorem WordFits.mor (b : BitVec 2) (a : BitVec 2) (d : BitVec 2) : WordFits.Statement (.mor b a d) := fits_word _ (33554545 + b.toNat * 524288 + a.toNat * 8192 + d.toNat * 128) rfl rfl (by omega)
theorem WordFits.mxor (b : BitVec 2) (a : BitVec 2) (d : BitVec 2) : WordFits.Statement (.mxor b a d) := fits_word _ (67108977 + b.toNat * 524288 + a.toNat * 8192 + d.toNat * 128) rfl rfl (by omega)
theorem WordFits.mandn (b : BitVec 2) (a : BitVec 2) (d : BitVec 2) : WordFits.Statement (.mandn b a d) := fits_word _ (100663409 + b.toNat * 524288 + a.toNat * 8192 + d.toNat * 128) rfl rfl (by omega)
theorem WordFits.mnot (a : BitVec 2) (d : BitVec 2) : WordFits.Statement (.mnot a d) := fits_word _ (134217841 + a.toNat * 8192 + d.toNat * 128) rfl rfl (by omega)
theorem WordFits.mmov (a : BitVec 2) (d : BitVec 2) : WordFits.Statement (.mmov a d) := fits_word _ (167772273 + a.toNat * 8192 + d.toNat * 128) rfl rfl (by omega)
theorem WordFits.mclr (d : BitVec 2) : WordFits.Statement (.mclr d) := fits_word _ (201326705 + d.toNat * 128) rfl rfl (by omega)
theorem WordFits.mfill (a : BitVec 6) (d : BitVec 2) : WordFits.Statement (.mfill a d) := fits_word _ (234881137 + a.toNat * 8192 + d.toNat * 128) rfl rfl (by omega)
theorem WordFits.mbset (a : BitVec 6) (d : BitVec 2) : WordFits.Statement (.mbset a d) := fits_word _ (268435569 + a.toNat * 8192 + d.toNat * 128) rfl rfl (by omega)
theorem WordFits.mbclr (a : BitVec 6) (d : BitVec 2) : WordFits.Statement (.mbclr a d) := fits_word _ (301990001 + a.toNat * 8192 + d.toNat * 128) rfl rfl (by omega)
theorem WordFits.mbtst (b : BitVec 6) (a : BitVec 2) (d : BitVec 6) : WordFits.Statement (.mbtst b a d) := fits_word _ (335544433 + b.toNat * 524288 + a.toNat * 8192 + d.toNat * 128) rfl rfl (by omega)
theorem WordFits.mpopc (a : BitVec 2) (d : BitVec 6) : WordFits.Statement (.mpopc a d) := fits_word _ (369098865 + a.toNat * 8192 + d.toNat * 128) rfl rfl (by omega)
theorem WordFits.mfirst (a : BitVec 2) (d : BitVec 6) : WordFits.Statement (.mfirst a d) := fits_word _ (402653297 + a.toNat * 8192 + d.toNat * 128) rfl rfl (by omega)
theorem WordFits.mnext (b : BitVec 6) (a : BitVec 2) (d : BitVec 6) : WordFits.Statement (.mnext b a d) := fits_word _ (436207729 + b.toNat * 524288 + a.toNat * 8192 + d.toNat * 128) rfl rfl (by omega)
theorem WordFits.mgetw (b : BitVec 6) (a : BitVec 2) (d : BitVec 6) : WordFits.Statement (.mgetw b a d) := fits_word _ (469762161 + b.toNat * 524288 + a.toNat * 8192 + d.toNat * 128) rfl rfl (by omega)
theorem WordFits.mputw (b : BitVec 6) (a : BitVec 6) (d : BitVec 2) : WordFits.Statement (.mputw b a d) := fits_word _ (503316593 + b.toNat * 524288 + a.toNat * 8192 + d.toNat * 128) rfl rfl (by omega)
theorem WordFits.mld (a : BitVec 6) (d : BitVec 2) : WordFits.Statement (.mld a d) := fits_word _ (536871025 + a.toNat * 8192 + d.toNat * 128) rfl rfl (by omega)
theorem WordFits.mst (b : BitVec 2) (a : BitVec 6) : WordFits.Statement (.mst b a) := fits_word _ (570425457 + b.toNat * 524288 + a.toNat * 8192) rfl rfl (by omega)
theorem WordFits.stand (b : BitVec 2) (a : BitVec 6) (d : BitVec 6) : WordFits.Statement (.stand b a d) := fits_word _ (115 + b.toNat * 524288 + a.toNat * 8192 + d.toNat * 128) rfl rfl (by omega)
theorem WordFits.leave (a : BitVec 6) : WordFits.Statement (.leave a) := fits_word _ (33554547 + a.toNat * 8192) rfl rfl (by omega)
theorem WordFits.split (s : BitVec 2) (t : BitVec 2) (i : BitVec 14) : WordFits.Statement (.split s t i) := fits_word _ (67108979 + s.toNat * 8388608 + t.toNat * 2097152 + i.toNat * 128) rfl rfl (by omega)
theorem WordFits.qld (w : BitVec 6) (a : BitVec 6) (d : BitVec 6) : WordFits.Statement (.qld w a d) := fits_word _ (268435571 + w.toNat * 524288 + a.toNat * 8192 + d.toNat * 128) rfl rfl (by omega)
theorem WordFits.qldd (w : BitVec 6) (a : BitVec 6) (d : BitVec 6) : WordFits.Statement (.qldd w a d) := fits_word _ (301990003 + w.toNat * 524288 + a.toNat * 8192 + d.toNat * 128) rfl rfl (by omega)
theorem WordFits.qst (b : BitVec 6) (a : BitVec 6) (w : BitVec 6) : WordFits.Statement (.qst b a w) := fits_word _ (335544435 + b.toNat * 524288 + a.toNat * 8192 + w.toNat * 128) rfl rfl (by omega)
theorem WordFits.qstd (b : BitVec 6) (a : BitVec 6) (w : BitVec 6) : WordFits.Statement (.qstd b a w) := fits_word _ (369098867 + b.toNat * 524288 + a.toNat * 8192 + w.toNat * 128) rfl rfl (by omega)
theorem WordFits.qeval (c : BitVec 4) (b : BitVec 6) (a : BitVec 2) (d : BitVec 2) (w : BitVec 6) : WordFits.Statement (.qeval c b a d w) := fits_word _ (536871027 + c.toNat * 33554432 + b.toNat * 524288 + a.toNat * 131072 + d.toNat * 32768 + w.toNat * 128) rfl rfl (by omega)
theorem WordFits.cpy (s : BitVec 3) (q : BitVec 1) (r : BitVec 1) (t : BitVec 1) (n : BitVec 6) : WordFits.Statement (.cpy s q r t n) := fits_word _ (117 + s.toNat * 4194304 + q.toNat * 2097152 + r.toNat * 1048576 + t.toNat * 524288 + n.toNat * 128) rfl rfl (by omega)
theorem WordFits.cpyg (s : BitVec 3) (q : BitVec 1) (r : BitVec 1) (t : BitVec 1) (n : BitVec 6) : WordFits.Statement (.cpyg s q r t n) := fits_word _ (33554549 + s.toNat * 4194304 + q.toNat * 2097152 + r.toNat * 1048576 + t.toNat * 524288 + n.toNat * 128) rfl rfl (by omega)
theorem WordFits.mcpost (s : BitVec 3) (q : BitVec 1) (r : BitVec 1) (t : BitVec 1) (n : BitVec 6) : WordFits.Statement (.mcpost s q r t n) := fits_word _ (67108981 + s.toNat * 4194304 + q.toNat * 2097152 + r.toNat * 1048576 + t.toNat * 524288 + n.toNat * 128) rfl rfl (by omega)
theorem WordFits.ttset (b : BitVec 6) (a : BitVec 6) (d : BitVec 6) : WordFits.Statement (.ttset b a d) := fits_word _ (2147483765 + b.toNat * 524288 + a.toNat * 8192 + d.toNat * 128) rfl rfl (by omega)
theorem WordFits.tqadd (a : BitVec 6) : WordFits.Statement (.tqadd a) := fits_word _ (2181038197 + a.toNat * 8192) rfl rfl (by omega)
theorem WordFits.accsv (b : BitVec 6) (a : BitVec 6) : WordFits.Statement (.accsv b a) := fits_word _ (2214592629 + b.toNat * 524288 + a.toNat * 8192) rfl rfl (by omega)
theorem WordFits.accsvk (b : BitVec 6) (a : BitVec 6) : WordFits.Statement (.accsvk b a) := fits_word _ (2248147061 + b.toNat * 524288 + a.toNat * 8192) rfl rfl (by omega)
theorem WordFits.accld (b : BitVec 6) (a : BitVec 6) : WordFits.Statement (.accld b a) := fits_word _ (2281701493 + b.toNat * 524288 + a.toNat * 8192) rfl rfl (by omega)
theorem WordFits.send (r : BitVec 2) (n : BitVec 4) (b : BitVec 6) (a : BitVec 6) (p : BitVec 6) : WordFits.Statement (.send r n b a p) := fits_word _ (119 + r.toNat * 536870912 + n.toNat * 33554432 + b.toNat * 524288 + a.toNat * 8192 + p.toNat * 128) rfl rfl (by omega)
theorem WordFits.amret : WordFits.Statement .amret := fits_word _ (2147483767) rfl rfl (by omega)
theorem WordFits.rfill (b : BitVec 6) (a : BitVec 6) (d : BitVec 6) : WordFits.Statement (.rfill b a d) := fits_word _ (2181038199 + b.toNat * 524288 + a.toNat * 8192 + d.toNat * 128) rfl rfl (by omega)
theorem WordFits.rfillm (b : BitVec 2) (a : BitVec 6) (d : BitVec 6) : WordFits.Statement (.rfillm b a d) := fits_word _ (2214592631 + b.toNat * 524288 + a.toNat * 8192 + d.toNat * 128) rfl rfl (by omega)
theorem WordFits.rfillv (b : BitVec 4) (a : BitVec 6) (d : BitVec 6) : WordFits.Statement (.rfillv b a d) := fits_word _ (2248147063 + b.toNat * 524288 + a.toNat * 8192 + d.toNat * 128) rfl rfl (by omega)
theorem WordFits.rfillc (b : BitVec 3) (a : BitVec 6) (d : BitVec 6) : WordFits.Statement (.rfillc b a d) := fits_word _ (2281701495 + b.toNat * 524288 + a.toNat * 8192 + d.toNat * 128) rfl rfl (by omega)
theorem WordFits.lturn (b : BitVec 6) (a : BitVec 6) (d : BitVec 6) : WordFits.Statement (.lturn b a d) := fits_word _ (2415919223 + b.toNat * 524288 + a.toNat * 8192 + d.toNat * 128) rfl rfl (by omega)
theorem WordFits.rds (c : BitVec 12) (d : BitVec 6) : WordFits.Statement (.rds c d) := fits_word _ (121 + c.toNat * 8192 + d.toNat * 128) rfl rfl (by omega)
theorem WordFits.wrs (c : BitVec 12) (s : BitVec 6) : WordFits.Statement (.wrs c s) := fits_word _ (33554553 + c.toNat * 8192 + s.toNat * 128) rfl rfl (by omega)
theorem WordFits.rdts (d : BitVec 6) : WordFits.Statement (.rdts d) := fits_word _ (67108985 + d.toNat * 128) rfl rfl (by omega)
theorem WordFits.logmark (a : BitVec 6) : WordFits.Statement (.logmark a) := fits_word _ (100663417 + a.toNat * 8192) rfl rfl (by omega)
theorem WordFits.trap (i : BitVec 12) : WordFits.Statement (.trap i) := fits_word _ (268435577 + i.toNat * 8192) rfl rfl (by omega)
theorem WordFits.brk : WordFits.Statement .brk := fits_word _ (301990009) rfl rfl (by omega)
theorem WordFits.rtt : WordFits.Statement .rtt := fits_word _ (335544441) rfl rfl (by omega)
theorem WordFits.icinv : WordFits.Statement .icinv := fits_word _ (369098873) rfl rfl (by omega)
theorem WordFits.plbinv (a : BitVec 6) : WordFits.Statement (.plbinv a) := fits_word _ (536871033 + a.toNat * 8192) rfl rfl (by omega)
theorem WordFits.halt : WordFits.Statement .halt := fits_word _ (570425465) rfl rfl (by omega)
theorem WordFits.evsig (b : BitVec 6) (a : BitVec 6) : WordFits.Statement (.evsig b a) := fits_word _ (603979897 + b.toNat * 524288 + a.toNat * 8192) rfl rfl (by omega)

end Sys2Proof.Laws
end

