-- ==== Sys2Proof/Laws/Server.lean ====
section
/-!
SUPPORT. What a request meets at a server (R46, R240): it joins the queue, it has the cycle, or it comes again in the next one.
-/

namespace Sys2Proof.Machine

/-- A request that waits at its server has its present cycle. -/
def State.HasTurn (s : State) (y x : BankItem) : Prop :=
  ∃ w, ({ s with bankq := s.bankq ++ [{ y with server := x.server }] } : State).cycleOf x.server = some w ∧ w.who = x.who

/-- Everything that `State.atServer` can do: a new request joins behind the others; one that waits is served and leaves the
queue, and the server's round goes on behind its class; or it comes again. -/
theorem State.atServer_cases (s : State) (old : Option BankItem) (x : BankItem) (k : State → State) :
    (old = none ∧ s.atServer old x k = ({ s with bankq := s.bankq ++ [{ x with turn := s.nextTurn }] } : State).after 0 x.who) ∨
    (∃ y, old = some y ∧
      let s1 : State := { s with bankq := s.bankq ++ [{ y with server := x.server }] }
      ((s.HasTurn y x ∧ s.atServer old x k = k (s.setBank { s.bank x.server with served := some s.now, next := y.cls.after })) ∨
       (¬ s.HasTurn y x ∧ s.atServer old x k = s1.again x.who))) := by
  cases old with
  | none => exact .inl ⟨rfl, rfl⟩
  | some y =>
    refine .inr ⟨y, rfl, ?_⟩
    cases hc : ({ s with bankq := s.bankq ++ [{ y with server := x.server }] } : State).cycleOf x.server with
    | none => exact .inr ⟨by rintro ⟨w, h, -⟩; simp [hc] at h, by simp only [State.atServer, hc]⟩
    | some w =>
      by_cases hw : w.who = x.who
      · exact .inl ⟨⟨w, hc, hw⟩, by simp only [State.atServer, hc]; exact (if_pos hw).trans rfl⟩
      · refine .inr ⟨?_, by simp only [State.atServer, hc]; exact (if_neg hw).trans rfl⟩
        rintro ⟨v, h, hv⟩
        rw [hc, Option.some.injEq] at h
        exact hw (h ▸ hv)

/-- A FIXED context's request has no cycle of a home slice outside its partition's frames (R299). -/
theorem State.inFrame_home (s : State) (x : BankItem) (n : Nat) (h : x.server = .home n) : s.inFrame x = s.frameOpen (sliceUnit n) x.part := by
  simp only [State.inFrame, h]

end Sys2Proof.Machine
end

