-- ==== Sys2Proof/Tests/Slice0.lean ====
section
/-!
SUPPORT. The model's own tests: ill-formed terms, decoded words, single steps with results from the manual, and states that meet the hypotheses
of the statements.
-/

namespace Sys2Proof.Tests
open Sys2Proof Sys2Proof.Machine

set_option Elab.async false

/-! ## Ill-formed terms, one for each check -/

theorem test_wf_load_release : Instr.wf (.ldd 0 2 0 1 2) = false := by decide
theorem test_wf_store_acquire : Instr.wf (.std 0 1 0 1 2) = false := by decide
theorem test_wf_scoped_load_plain : Instr.wf (.lddo 0 4 0 1 2) = false := by decide
theorem test_wf_scoped_store_scope : Instr.wf (.stdo 0 6 2 1 2) = false := by decide
theorem test_wf_fence_scope : Instr.wf (.fence 6) = false := by decide
theorem test_wf_zero_without_mask : Instr.wf (.vadd 1 2 0 1 3) = false := by decide
theorem test_wf_compare_condition : Instr.wf (.vcmp 6 1 2 1 0 3) = false := by decide
theorem test_wf_pack_part : Instr.wf (.vpack 1 2 1 1 0 3) = false := by decide
theorem test_wf_query_condition : Instr.wf (.qeval 10 1 1 2 0) = false := by decide
theorem test_wf_copy_group : Instr.wf (.cpy 4 0 0 0 12) = false := by decide
theorem test_wf_loop_empty : Instr.wf (.loop 0 1) = false := by decide
theorem test_wf_send_route : Instr.wf (.send 3 0 1 2 8) = false := by decide
theorem test_wf_branch_is_breakpoint : Instr.wf (.bez 0 0) = false := by decide
theorem test_wf_add : Instr.wf (.add 1 2 3) = true := by decide

/-! ## Decoded words: one of every constructor, its fixed bits and fields written out from the encoding tables -/

/-- Whether each word decodes to its instruction. -/
def Decodes (l : List (Nat × Nat × Instr)) : Prop := ∀ e ∈ l, decodeTableWord e.1 e.2.1 = some e.2.2

theorem test_decode_1 : Decodes
    [(16, 0x4E60, .mv 19 19), (16, 0xB980, .li 14 12), (16, 0x4A62, .addC16 18 19), (16, 0xB5C2, .addiC16 13 14), (16, 0x6A44, .subC16 26 18),
      (16, 0xA5A4, .subi 9 13), (16, 0x5B46, .andC16 22 26), (16, 0xA526, .andiC16 9 9), (16, 0x1EC8, .orC16 7 22), (16, 0xE528, .oriC16 25 9),
      (16, 0x18EA, .xorC16 6 7), (16, 0xF72A, .xoriC16 29 25), (16, 0x10CC, .shlC16 4 6), (16, 0xEFAC, .shliC16 27 29), (16, 0x508E, .shrC16 20 4),
      (16, 0xCF6E, .shriC16 19 27), (16, 0x3290, .sarC16 12 20), (16, 0xCE70, .sariC16 19 19), (16, 0x3992, .mulC16 14 12), (16, 0xCA72, .muliC16 18 19),
      (16, 0x35D4, .minC16 13 14), (16, 0xEA54, .mini 26 18), (16, 0x25B6, .maxC16 9 13), (16, 0xDB56, .maxi 22 26), (16, 0x2538, .sltC16 9 9)] := by
  unfold Decodes; decide +kernel

theorem test_decode_2 : Decodes
    [(16, 0x9ED8, .sltiC16 7 22), (16, 0x653A, .lddC16 25 9), (16, 0x98FA, .lddG2C16 6 7), (16, 0x773C, .stdC16 29 25), (16, 0x90DC, .stdG2C16 4 6),
      (16, 0x6FBE, .bez 27 29), (16, 0xD09E, .bnz 20 4), (16, 0x001E, .brkC16), (32, 0x01669201, .add 44 52 36), (32, 0x029A6D81, .sub 19 19 27),
      (32, 0x04759A01, .and 14 44 52), (32, 0x07926981, .or 50 19 19), (32, 0x0869D601, .xor 13 14 44), (32, 0x0BD64981, .shl 58 50 19),
      (32, 0x0C49A701, .shr 9 13 14), (32, 0x0FB75901, .sar 54 58 50), (32, 0x11492681, .mul 41 9 13), (32, 0x133EDD01, .min 39 54 58),
      (32, 0x14CD2481, .max 25 41 9), (32, 0x1734FB01, .minu 38 39 54), (32, 0x18EB3481, .maxu 29 25 41), (32, 0x1B24D381, .slt 36 38 39),
      (32, 0x1CDBAC81, .sltu 27 29 25), (32, 0x1FA49301, .seq 52 36 38), (32, 0x209B6E81, .sne 19 27 29)] := by
  unfold Decodes; decide +kernel

theorem test_decode_3 : Decodes
    [(32, 0x23669201, .addw 44 52 36), (32, 0x249A6D81, .subw 19 19 27), (32, 0x0001D603, .clz 14 44), (32, 0x02064983, .ctz 50 19),
      (32, 0x0401A703, .popc 13 14), (32, 0x06075903, .brev 58 50), (32, 0x08012683, .bswap 9 13), (32, 0x0BB75903, .rol 54 58 50),
      (32, 0x0D492683, .ror 41 9 13), (32, 0x0F3EDD03, .andn 39 54 58), (32, 0x10033483, .sextb 25 41), (32, 0x1204D383, .sexth 38 39),
      (32, 0x1403AC83, .sextw 29 25), (32, 0x16049303, .zextw 36 38), (32, 0x20DBAC83, .mulh 27 29 25), (32, 0x23A49303, .mulhu 52 36 38),
      (32, 0x249B6E83, .mulhsu 19 27 29), (32, 0x41669203, .div 44 52 36), (32, 0x429A6D83, .divu 19 19 27), (32, 0x44759A03, .rem 14 44 52),
      (32, 0x47926983, .remu 50 19 19), (32, 0x5A69D605, .addi 2893 14 44), (32, 0xC9D64987, .andi 6458 50 19), (32, 0x3649A709, .ori 1737 13 14),
      (32, 0x69B7590B, .xori 3382 58 50)] := by
  unfold Decodes; decide +kernel

theorem test_decode_4 : Decodes
    [(32, 0x27492691, .muli 1257 9 13), (32, 0x013EDD0D, .shli 39 54 58), (32, 0x40CD248D, .shri 25 41 9), (32, 0x8134FB0D, .sari 38 39 54),
      (32, 0xC0EB348D, .rori 29 25 41), (32, 0x1B24D38F, .seqi 868 38 39), (32, 0x34DBAC8F, .snei 667 29 25), (32, 0x53A4930F, .slti 628 36 38),
      (32, 0x6C9B6E8F, .sgei 403 27 29), (32, 0x9366920F, .sltui 620 52 36), (32, 0xAE9A6D8F, .sgeui 467 19 27), (32, 0xA6C9D613, .liu 341582 44),
      (32, 0xAD364995, .addpc 354738 19), (32, 0x26F01617, .lic 77 14 44), (32, 0x5D126997, .lico 58 2 19 19), (32, 0xA4E80717, .licn 73 13 14),
      (32, 0x4D875941, .beq 310 58 50), (32, 0x3A4926C1, .bne 233 9 13), (32, 0xC9D6DD41, .blt 807 54 58), (32, 0x365D24C1, .bge 217 41 9),
      (32, 0x69A4FB41, .bltu 422 39 54), (32, 0x276B34C1, .bgeu 157 25 41), (32, 0xD9301341, .bfull 868 38), (32, 0xA6F80EC1, .bvoid 667 29),
      (32, 0xB4D93A43, .j 23704180)] := by
  unfold Decodes; decide +kernel

theorem test_decode_5 : Decodes
    [(32, 0xB5A6C9C5, .jal 23809427), (32, 0xD3669247, .jalr 6764 52 36), (32, 0x4E9A6049, .loop 2515 19), (32, 0x009B274B, .spawn 79438),
      (32, 0x0200004B, .join), (32, 0x0400004B, .exit), (32, 0x08001D4B, .expect 58), (32, 0x0A0000CB, .expectm 1), (32, 0x0C00034B, .expectv 6),
      (32, 0x0E0000CB, .expectc 1), (32, 0x100013CB, .qslot 39), (32, 0x12000CCB, .qdeq 25), (32, 0x1400134B, .qlink 38),
      (32, 0x20CD24D1, .fadd 1 25 41 9), (32, 0x2334FB51, .fsub 1 38 39 54), (32, 0x24EB34D1, .fmul 1 29 25 41), (32, 0x2724D3D1, .fdiv 1 36 38 39),
      (32, 0x28036ED1, .fsqrt 1 27 29), (32, 0x2BA49351, .fmin 1 52 36 38), (32, 0x2C9B6ED1, .fmax 1 19 27 29), (32, 0x2F669251, .fsgnj 1 44 52 36),
      (32, 0x309A6DD1, .fsgnjn 1 19 19 27), (32, 0x32759A51, .fsgnjx 1 14 44 52), (32, 0x359269D1, .feq 1 50 19 19), (32, 0x3669D651, .flt 1 13 14 44)] := by
  unfold Decodes; decide +kernel

theorem test_decode_6 : Decodes
    [(32, 0x39D649D1, .fle 1 58 50 19), (32, 0x3A0126D1, .fclass 1 9 13), (32, 0xEDD649D3, .fma 1 54 58 50 19), (32, 0x000334D5, .fcvtSD 25 41),
      (32, 0x0204D3D5, .fcvtDS 38 39), (32, 0x0403ACD5, .fcvtSL 29 25), (32, 0x06049355, .fcvtSLu 36 38), (32, 0x08036ED5, .fcvtDL 27 29),
      (32, 0x0A069255, .fcvtDLu 52 36), (32, 0x0C026DD5, .fcvtLS 19 27), (32, 0x0E059A55, .fcvtLuS 44 52), (32, 0x100269D5, .fcvtLD 19 19),
      (32, 0x1201D655, .fcvtLuD 14 44), (32, 0x140649D5, .fcvtWS 50 19), (32, 0x1601A755, .fcvtWD 13 14), (32, 0x18075955, .fcvtHS 58 50),
      (32, 0x1A0126D5, .fcvtSH 9 13), (32, 0x1C06DD55, .fcvtBS 54 58), (32, 0x1E0524D5, .fcvtSB 41 9), (32, 0x93D649A1, .ldb 295 2 2 50 19),
      (32, 0x6CA9A723, .ldbu 217 1 1 13 14), (32, 0xD3575925, .ldh 422 2 2 58 50), (32, 0x4EA926A7, .ldhu 157 1 1 9 13),
      (32, 0xB256DD29, .ldw 356 2 2 54 58), (32, 0x4DAD24AB, .ldwu 155 1 1 41 9)] := by
  unfold Decodes; decide +kernel

theorem test_decode_7 : Decodes
    [(32, 0x3A34FB2D, .ldd 116 1 2 39 54), (32, 0xC9CB34AF, .stb 403 2 1 25 41), (32, 0x362CD3B1, .sth 108 1 1 38 39),
      (32, 0xE9D3ACB3, .stw 467 2 2 29 25), (32, 0x272C9335, .std 78 1 1 36 38), (32, 0x409A6DB7, .ldbx 2 19 19 27), (32, 0x22759A37, .ldbux 1 14 44 52),
      (32, 0x459269B7, .ldhx 2 50 19 19), (32, 0x2669D637, .ldhux 1 13 14 44), (32, 0x49D649B7, .ldwx 2 58 50 19), (32, 0x2A49A737, .ldwux 1 9 13 14),
      (32, 0x4DB75937, .lddx 2 54 58 50), (32, 0x2F4926B7, .stbx 1 41 9 13), (32, 0x513EDD37, .sthx 2 39 54 58), (32, 0x32CD24B7, .stwx 1 25 41 9),
      (32, 0x3534FB37, .stdx 1 38 39 54), (32, 0x855524B7, .ldwo 2 5 1 41 9), (32, 0x8B24FB37, .lddo 1 4 2 39 54), (32, 0x94D334B7, .stwo 2 3 1 25 41),
      (32, 0x9B14D3B7, .stdo 1 4 1 38 39), (32, 0xA00269B7, .ldf 19 19), (32, 0xA201D637, .ldtk 14 44), (32, 0xA40649B7, .stf 50 19),
      (32, 0xA801A737, .lres 13 14), (32, 0xABD649B7, .scond 58 50 19)] := by
  unfold Decodes; decide +kernel

theorem test_decode_8 : Decodes
    [(32, 0xAC0126B7, .lresAcq 9 13), (32, 0xAFB75937, .scondRel 54 58 50), (32, 0xC0052037, .cflush 41), (32, 0xC204E037, .cwb 39),
      (32, 0xC4000037, .cwball), (32, 0x0DB75939, .amoadd 1 2 54 58 50), (32, 0x1B4926B9, .amoand 1 1 41 9 13), (32, 0x2D3EDD39, .amoor 1 2 39 54 58),
      (32, 0x3ACD24B9, .amoxor 1 1 25 41 9), (32, 0x4B34FB39, .amomin 1 1 38 39 54), (32, 0x5CEB34B9, .amomax 1 2 29 25 41),
      (32, 0x6B24D3B9, .amominu 1 1 36 38 39), (32, 0x7CDBACB9, .amomaxu 1 2 27 29 25), (32, 0x8BA49339, .amoswap 1 1 52 36 38),
      (32, 0x9C9B6EB9, .amocas 1 2 19 27 29), (32, 0x0D66923B, .famoadd 1 2 44 52 36), (32, 0x1C9A6DBB, .famomin 1 2 19 19 27),
      (32, 0x2A759A3B, .famomax 1 1 14 44 52), (32, 0x0C07593D, .ldv 6 58 50), (32, 0x120126BD, .ldvv 1 9 13), (32, 0x2DB7593D, .stv 6 54 58 50),
      (32, 0x3200003D, .cvclr 1), (32, 0x4C04FB3D, .reconMin 6 39 54), (32, 0x5A0334BD, .reconMax 5 25 41), (32, 0x6804D3BD, .reconAdd 4 38 39)] := by
  unfold Decodes; decide +kernel

theorem test_decode_9 : Decodes
    [(32, 0x7603ACBD, .reconOr 3 29 25), (32, 0x8804933D, .reconAnd 4 36 38), (32, 0x96036EBD, .reconLowest 3 27 29),
      (32, 0xA806923D, .reconHighest 4 52 36), (32, 0xB69B6EBD, .reconValue 3 19 27 29), (32, 0xC075803D, .redW 14 44), (32, 0xC392603D, .redD 50 19),
      (32, 0x0A00003F, .fence 5), (32, 0x1400003F, .fenceAcq 2), (32, 0x2200003F, .fenceRel 1), (32, 0x3C07593F, .bara 6 58 50),
      (32, 0x4249A03F, .barw 1 9 13), (32, 0x5DB7403F, .belladd 6 54 58), (32, 0x6349203F, .bellwait 1 41 9), (32, 0x7000003F, .waitres),
      (32, 0x3ACD24CF, .waitk 29 25 41 9), (32, 0x008DA561, .vadd 4 6 6 1 10), (32, 0x037A64E1, .vsub 11 13 1 1 9), (32, 0x0489A361, .vmul 4 4 6 1 6),
      (32, 0x067764E1, .vmulh 3 11 5 1 9), (32, 0x098923E1, .vmulhu 12 4 4 1 7), (32, 0x0A66E4E1, .vmin 3 3 3 1 9), (32, 0x0DD92361, .vmax 14 12 4 1 6),
      (32, 0x0E46E6E1, .vminu 2 3 3 1 13), (32, 0x11BD2261, .vmaxu 13 14 4 1 4)] := by
  unfold Decodes; decide +kernel

theorem test_decode_10 : Decodes
    [(32, 0x1344E5E1, .vand 10 2 3 1 11), (32, 0x153BA261, .vor 9 13 6 1 4), (32, 0x16D4A1E1, .vxor 6 10 2 1 3), (32, 0x19336661, .vandn 9 9 5 1 12),
      (32, 0x1AECA1E1, .vshl 7 6 2 1 3), (32, 0x1D326761, .vshr 9 9 1 1 14), (32, 0x1ECFA161, .vsar 6 7 6 1 2), (32, 0x21B266E1, .vaddsat 13 9 1 1 13),
      (32, 0x228DA561, .vsubsat 4 6 6 1 10), (32, 0x241764E1, .vabs 11 5 1 9), (32, 0x260923E1, .vmov 4 4 1 7), (32, 0x407764E1, .vfadd 3 11 5 1 9),
      (32, 0x438923E1, .vfsub 12 4 4 1 7), (32, 0x4466E4E1, .vfmul 3 3 3 1 9), (32, 0x47D92361, .vfmin 14 12 4 1 6), (32, 0x4846E6E1, .vfmax 2 3 3 1 13),
      (32, 0x4A1BA261, .vfabs 13 6 1 4), (32, 0x4C14A1E1, .vfneg 10 2 1 3), (32, 0x804EEA61, .vadds 9 13 6 1 4), (32, 0x83B529E1, .vsubs 54 10 2 1 3),
      (32, 0x854CDE61, .vmuls 41 9 5 1 12), (32, 0x873B29E1, .vmulhs 39 6 2 1 3), (32, 0x88CC9F61, .vmulhus 25 9 1 1 14),
      (32, 0x8B33E961, .vmins 38 7 6 1 2), (32, 0x8CEC9EE1, .vmaxs 29 9 1 1 13)] := by
  unfold Decodes; decide +kernel

theorem test_decode_11 : Decodes
    [(32, 0x8F236D61, .vminus 36 6 6 1 10), (32, 0x90DE9CE1, .vmaxus 27 13 1 1 9), (32, 0x93A26B61, .vands 52 4 6 1 6),
      (32, 0x949DDCE1, .vors 19 11 5 1 9), (32, 0x97624BE1, .vxors 44 4 4 1 7), (32, 0x9899BCE1, .vandns 19 3 3 1 9),
      (32, 0x9A764B61, .vshls 14 12 4 1 6), (32, 0x9D91BEE1, .vshrs 50 3 3 1 13), (32, 0x9E6F4A61, .vsars 13 14 4 1 4),
      (32, 0xA1D13DE1, .vaddsats 58 2 3 1 11), (32, 0xA24EEA61, .vsubsats 9 13 6 1 4), (32, 0xC1B529E1, .vfadds 54 10 2 1 3),
      (32, 0xC34CDE61, .vfsubs 41 9 5 1 12), (32, 0xC53B29E1, .vfmuls 39 6 2 1 3), (32, 0xC6CC9F61, .vfmins 25 9 1 1 14),
      (32, 0xC933E961, .vfmaxs 38 7 6 1 2), (32, 0x01B266E3, .vfma 13 9 1 1 13), (32, 0x028DA563, .vfms 4 6 6 1 10), (32, 0x057A64E3, .vfnma 11 13 1 1 9),
      (32, 0x0689A363, .vfnms 4 4 6 1 6), (32, 0x107764E3, .vmad 3 11 5 1 9), (32, 0x138923E3, .vdot4i8 12 4 4 1 7), (32, 0x8099BCE3, .vfmas 19 3 3 1 9),
      (32, 0x82764B63, .vfmss 14 12 4 1 6), (32, 0x8591BEE3, .vfnmas 50 3 3 1 13)] := by
  unfold Decodes; decide +kernel

theorem test_decode_12 : Decodes
    [(32, 0x866F4A63, .vfnmss 13 14 4 1 4), (32, 0x91D13DE3, .vmads 58 2 3 1 11), (32, 0x924EEA63, .vdot4i8s 9 13 6 1 4),
      (32, 0x0D44E1EB, .vcmp 6 10 2 3 1 3), (32, 0x924EEA6B, .vcmps 9 9 13 6 1 4), (32, 0x41B029E5, .vld 2 54 2 1 3), (32, 0x23481F65, .vst 1 41 1 1 14),
      (32, 0x453B29E5, .vgath 2 39 6 2 1 3), (32, 0x26CC9F65, .vscat 1 25 9 1 1 14), (32, 0x09206B65, .vlds 36 6 1 6), (32, 0x0AD85CE5, .vsts 27 5 1 9),
      (32, 0x0DA26B65, .vldsx 52 4 6 1 6), (32, 0x0E9DDCE5, .vstsx 19 11 5 1 9), (32, 0x01624067, .vredadd 44 4 4), (32, 0x0299B067, .vredmin 19 3 3),
      (32, 0x04764067, .vredmax 14 12 4), (32, 0x0791B067, .vredminu 50 3 3), (32, 0x086F4067, .vredmaxu 13 14 4), (32, 0x0BD13067, .vredor 58 2 3),
      (32, 0x0C4EE067, .vredand 9 13 6), (32, 0x11B52067, .vredfadd 54 10 2), (32, 0x134CD067, .vredfmin 41 9 5), (32, 0x153B2067, .vredfmax 39 6 2),
      (32, 0x20C81EE7, .vbcast 25 1 1 13), (32, 0x2333E067, .vext 38 7 6)] := by
  unfold Decodes; decide +kernel

theorem test_decode_13 : Decodes
    [(32, 0x25B266E7, .vperm 13 9 1 1 13), (32, 0x27236D67, .vrotl 36 6 6 1 10), (32, 0x281744E7, .vcomp 11 5 9), (32, 0x2A012367, .viota 4 1 6),
      (32, 0x401862E7, .kand 3 3 5), (32, 0x42208267, .kor 4 4 4), (32, 0x441861E7, .kxor 3 3 3), (32, 0x46308267, .kandn 6 4 4),
      (32, 0x480041E7, .knot 2 3), (32, 0x4A01A367, .kmovg 13 6), (32, 0x4C005967, .krd 2 50), (32, 0x4E0026E7, .kpopc 1 13),
      (32, 0x5000DD67, .kfirst 6 58), (32, 0x00126769, .vcvtfi 9 1 1 14), (32, 0x020FA169, .vcvtif 7 6 1 2), (32, 0x041266E9, .vcvtuf 9 1 1 13),
      (32, 0x060DA569, .vcvtfu 6 6 1 10), (32, 0x1B326769, .vpack 5 9 9 1 1 14), (32, 0x28CFA169, .vunpk 4 6 7 6 1 2),
      (32, 0x40DE9CE9, .vcbd 27 13 1 1 9), (32, 0x43A26B69, .vcbdi 52 4 6 1 6), (32, 0x609B6EE9, .wing 19 27 29), (32, 0x63624BE9, .vwing 44 4 4 1 7),
      (32, 0x00104171, .mand 2 2 2), (32, 0x021020F1, .mor 2 1 1)] := by
  unfold Decodes; decide +kernel

theorem test_decode_14 : Decodes
    [(32, 0x04104171, .mxor 2 2 2), (32, 0x060840F1, .mandn 1 2 1), (32, 0x08004171, .mnot 2 2), (32, 0x0A0020F1, .mmov 1 1), (32, 0x0C000171, .mclr 2),
      (32, 0x0E0520F1, .mfill 41 1), (32, 0x1004E171, .mbset 39 2), (32, 0x120320F1, .mbclr 25 1), (32, 0x15305B71, .mbtst 38 2 54),
      (32, 0x16002CF1, .mpopc 1 25), (32, 0x18003371, .mfirst 1 38), (32, 0x1AD82CF1, .mnext 27 1 25), (32, 0x1DA03371, .mgetw 52 1 38),
      (32, 0x1E9B60F1, .mputw 19 27 1), (32, 0x200580F1, .mld 44 1), (32, 0x22126071, .mst 2 19), (32, 0x00159A73, .stand 2 44 52),
      (32, 0x02064073, .leave 50), (32, 0x04CD3673, .split 1 2 6764), (32, 0x11D649F3, .qld 58 50 19), (32, 0x1249A773, .qldd 9 13 14),
      (32, 0x15B75973, .qst 54 58 50), (32, 0x174926F3, .qstd 41 9 13), (32, 0x2FB509F3, .qeval 7 54 2 2 19), (32, 0x00780775, .cpy 1 1 1 1 14)] := by
  unfold Decodes; decide +kernel

theorem test_decode_15 : Decodes
    [(32, 0x03B81975, .cpyg 6 1 1 1 50), (32, 0x057806F5, .mcpost 5 1 1 1 13), (32, 0x8124D3F5, .ttset 36 38 39), (32, 0x82036075, .tqadd 27),
      (32, 0x85A48075, .accsv 52 36), (32, 0x869B6075, .accsvk 19 27), (32, 0x89668075, .accld 44 52), (32, 0x46DBACF7, .send 2 3 27 29 25),
      (32, 0x80000077, .amret), (32, 0x839269F7, .rfill 50 19 19), (32, 0x8409D677, .rfillm 1 14 44), (32, 0x865649F7, .rfillv 10 50 19),
      (32, 0x8809A777, .rfillc 1 13 14), (32, 0x91B75977, .lturn 54 58 50), (32, 0x009D24F9, .rds 1257 9), (32, 0x0364FB79, .wrs 2855 54),
      (32, 0x04000CF9, .rdts 25), (32, 0x0604C079, .logmark 38), (32, 0x1193A079, .trap 3229), (32, 0x12000079, .brk), (32, 0x14000079, .rtt),
      (32, 0x16000079, .icinv), (32, 0x20026079, .plbinv 19), (32, 0x22000079, .halt), (32, 0x249A6079, .evsig 19 19)] := by
  unfold Decodes; decide +kernel

/-! ## Small states -/

/-- Registers of one class, all FULL with value 0 but for those listed. -/
def regs (w n : Nat) (l : List (Nat × Nat)) : Tbl (Reg w) := (List.range n).map (fun i => (i, ⟨BitVec.ofNat w (tget 0 l i), .full⟩))

/-- A thread at U, ready to issue, at 0x10000, with every register FULL; the listed general registers hold their values. -/
def thr (l : List (Nat × Nat)) : Thread :=
  { occupied := true, pc := 0x10000, g := (regs 64 64 l).drop 1, m := regs 1024 4 [], v := regs 1024 16 [], c := regs 128 8 [] }

/-- A partition of the whole module, every bank granted. -/
def whole : Part :=
  { col0 := 0, row0 := 0, w := 128, h := 16, ctx := 0, banks := (List.range 32).map (fun d => (d, 0xFFFF)), links := [0], root := 0, notify := 0, remap := [],
    queues := [], lastQueue := [], setdet := none, resize := none, destroying := [], aborts := [], finishing := [] }

/-- A region with every right. -/
def open_ : Rights := { r := true, w := true, x := true, a := true }

/-- A running module with that thread in slot 0 of core 0, in context 0 with a trap handler; the low 1 GiB of the global window is a page of HBM. -/
def st (t : Thread) : State :=
  { State.reset with
    busStat := 6, now := 160, threads := [(0, t)], cores := [(0, { plb := [{ region := 0, rights := open_, used := 0 }] })], ctxs := [(0, { tvec := 0x20000 })],
    parts := [(0, whole)], root := [(0, 0x1001)], mem := placeWord [] 0 }

/-- That state with general registers. -/
def sg (l : List (Nat × Nat)) : State := st (thr l)

/-- What a step leaves. -/
def after (i : Instr) (s : State) : State := match exec i s with | .next t => t | _ => s

/-- A general register after an instruction. -/
def gOf (i : Instr) (l : List (Nat × Nat)) (r : Nat) : Nat := (after i (sg l)).me.valOf (gRef r)

/-! ## Single steps: integer and control (values by hand from 05 R71-R91) -/

theorem test_add_wraps : gOf (.add 2 1 3) [(1, 2 ^ 64 - 1), (2, 2)] 3 = 1 := by decide +kernel
theorem test_sub_order : gOf (.sub 2 1 3) [(1, 5), (2, 7)] 3 = 2 ^ 64 - 2 := by decide +kernel
theorem test_sar_sign : gOf (.sar 2 1 3) [(1, 2 ^ 63), (2, 68)] 3 = 0xF800000000000000 := by decide +kernel
theorem test_addw_sign : gOf (.addw 2 1 3) [(1, 0x7FFFFFFF), (2, 1)] 3 = 0xFFFFFFFF80000000 := by decide +kernel
theorem test_mulh_signed : gOf (.mulh 2 1 3) [(1, 2 ^ 64 - 1), (2, 1)] 3 = 2 ^ 64 - 1 := by decide +kernel
theorem test_mulhsu_mixed : gOf (.mulhsu 2 1 3) [(1, 2 ^ 64 - 1), (2, 2 ^ 63)] 3 = 2 ^ 64 - 1 := by decide +kernel
theorem test_clz_zero : gOf (.clz 1 3) [(1, 0)] 3 = 64 := by decide +kernel
theorem test_bswap : gOf (.bswap 1 3) [(1, 0x0102030405060708)] 3 = 0x0807060504030201 := by decide +kernel
theorem test_andi_sign_extends : gOf (.andi 0x1FF8 1 3) [(1, 0xFF)] 3 = 0xF8 := by decide +kernel
theorem test_andi16_zero_extends : gOf (.andiC16 0x18 1) [(1, 0xFFF)] 1 = 0x18 := by decide +kernel
theorem test_liu : gOf (.liu 0x7FFFF 3) [] 3 = 2 ^ 64 - 2 ^ 13 := by decide +kernel
theorem test_lic : gOf (.lic 5 3 8) [] 8 = 0x00F4000000000000 + 83 * 2 ^ 20 := by decide +kernel
theorem test_g0_discards : gOf (.add 1 1 0) [(1, 7)] 0 = 0 := by decide +kernel
theorem test_div_pending : (after (.div 2 1 3) (sg [(1, 9), (2, 2)])).me.stOf (gRef 3) = .pending := by decide +kernel
theorem test_div_fill_at_48 : (after (.div 2 1 3) (sg [(1, 2 ^ 64 - 7), (2, 2)])).pend = [(208, .dividerFill 0 0 3 (BitVec.ofInt 64 (-3)))] := by decide +kernel
theorem test_div_by_zero : divS 5 0 = BitVec.allOnes 64 ∧ remS 5 0 = 5 := by decide +kernel
theorem test_beq_taken_back : (after (.beq 0x3FE 2 1) (sg [(1, 4), (2, 4)])).me.pc = 0xFFFC := by decide +kernel
theorem test_blt_signed : (after (.blt 8 2 1) (sg [(1, 2 ^ 64 - 1), (2, 0)])).me.pc = 0x10010 := by decide +kernel
theorem test_jal_link : (after (.jal 16) (sg [])).me.valOf (gRef 1) = 0x10004 ∧ (after (.jal 16) (sg [])).me.pc = 0x10020 := by decide +kernel
theorem test_jalr_same_register : (after (.jalr 4 9 9) (sg [(9, 0x30000)])).me.pc = 0x30004 := by decide +kernel
theorem test_jalr_odd_target : (after (.jalr 1 9 0) (sg [(9, 0x30000)])).me.ecause = BitVec.ofNat 64 cALIGN := by decide +kernel
theorem test_void_source_traps : (after (.add 2 1 3) (st { thr [] with g := [] })).me.ecause = BitVec.ofNat 64 cREG_VOID := by decide +kernel

/-! ## Scalar and vector arithmetic (09 R174-R186, 10 R193-R207) -/

theorem test_fadd_single : gOf (.fadd 0 2 1 3) [(1, 0x3F800000), (2, 0x40000000)] 3 = 0x40400000 := by decide +kernel
theorem test_fdiv_double : gOf (.fdiv 1 2 1 3) [(1, 0x3FF0000000000000), (2, 0x4010000000000000)] 3 = 0x3FD0000000000000 := by decide +kernel
theorem test_fsqrt_minus_zero : gOf (.fsqrt 0 1 3) [(1, 0x80000000)] 3 = 0x80000000 := by decide +kernel
theorem test_fmin_nan : gOf (.fmin 0 2 1 3) [(1, 0x7FC00000), (2, 0x40000000)] 3 = 0x40000000 := by decide +kernel
theorem test_fclass_minus_zero : gOf (.fclass 0 1 3) [(1, 0x80000000)] 3 = 8 := by decide +kernel
theorem test_fma_once : gOf (.fma 0 3 2 1 4) [(1, 0x3F800001), (2, 0x3F800001), (3, 0xBF800002)] 4 = 0x28800000 := by decide +kernel
theorem test_fcvt_saturates : gOf (.fcvtWS 1 3) [(1, 0x4F800000)] 3 = 0x7FFFFFFF := by decide +kernel
theorem test_fsgnjx : gOf (.fsgnjx 0 2 1 3) [(1, 0xBF800000), (2, 0x80000000)] 3 = 0x3F800000 := by decide +kernel
theorem test_wing : wing32 0 1 = 0xFD27FD89 := by decide +kernel
theorem test_vadd_lane : lane ((after (.vadds 1 2 0 0 3) (sg [(1, 5)])).me.vv (3 : BitVec 4)) 31 = 5 := by decide +kernel
theorem test_viota : lane ((after (.viota 0 0 3) (sg [])).me.vv (3 : BitVec 4)) 17 = 17 := by decide +kernel
theorem test_vmerge_void : lane ((after (.viota 1 0 3) (st { thr [] with v := [], k := [(1, 2)] })).me.vv (3 : BitVec 4)) 0 = 0 := by decide +kernel
theorem test_krd_reset : gOf (.krd 1 3) [] 3 = 0xFFFFFFFF := by decide +kernel
theorem test_mfill : (after (.mfill 1 2) (sg [(1, 10)])).me.mv (2 : BitVec 2) = 1023 := by decide +kernel
theorem test_mnext : gOf (.mnext 2 1 3) [(2, 5)] 3 = 1024 := by decide +kernel

/-! ## Memory, traps and the machine (03, 06, 17, 23) -/

/-- An address in the core's own scratchpad. -/
def own (o : Nat) : Nat := 0xF1 * 2 ^ 48 + o

theorem test_store_little_endian : (after (.std 0 0 0 1 2) (sg [(1, own 64), (2, 0x0102030405060708)])).byte (coreKey 0 64) = 8 := by decide +kernel
theorem test_load_sign : gOf (.ldb 1 0 0 1 3) [(1, own 7)] 3 = 0 := by decide +kernel
theorem test_load_misaligned : (after (.ldd 0 0 0 1 2) (sg [(1, own 65)])).me.ecause = BitVec.ofNat 64 cALIGN := by decide +kernel
theorem test_load_outside : (after (.ldd 0 0 0 1 2) (sg [(1, own (2 ^ 19))])).me.ecause = BitVec.ofNat 64 cPROT := by decide +kernel
theorem test_load_global_pending : (after (.ldd 0 0 0 1 2) (sg [(1, 0x40000)])).me.stOf (gRef 2) = .pending := by decide +kernel
theorem test_amoadd_old : gOf (.amoadd 1 0 2 1 3) [(1, own 64), (2, 5)] 3 = 0 := by decide +kernel
theorem test_amoadd_new : (after (.amoadd 1 0 2 1 3) (sg [(1, own 64), (2, 5)])).getN (coreKey 0 64) 8 = 5 := by decide +kernel
theorem test_ldtk_empties : (after (.ldtk 1 2) (sg [(1, own 64)])).isEmpty (coreKey 0 64) = true := by decide +kernel
theorem test_trap_saves_pc : (after (.trap 7) (sg [])).me.epc = 0x10000 ∧ (after (.trap 7) (sg [])).me.pc = 0x20000 := by decide +kernel
theorem test_rtt_at_u : (after .rtt (sg [])).me.ecause = BitVec.ofNat 64 cPRIV := by decide +kernel
theorem test_rds_slot : gOf (.rds 0x301 3) [] 3 = 0 := by decide +kernel
theorem test_expect : (after (.expect 5) (sg [])).me.stOf (gRef 5) = .expecting := by decide +kernel
theorem test_reset_step : (after (.resetStepDone []) State.reset).busStat = 1 := by decide +kernel
theorem test_fetched_word : (State.reset.withFetchWord 32 0x01669201).getN (physKey 0 0x10000) 4 = 0x01669201 := by decide +kernel


/-! ## Witnesses: each statement's hypotheses are met together, by a concrete state and operands -/

theorem ready_of {s : State} {a b : List RegRef} (h : (∀ r ∈ a, s.me.stOf r = .full) ∧ ∀ r ∈ b, (s.me.stOf r).waits = false) : s.Ready a b := h
theorem handler_of {s : State} (h : s.me.level = .U ∧ (s.ctx s.me.ctx).tvec ≠ 0) : s.HasHandler := h
theorem unrolled_of {s : State} (h : s.myLevel ≠ 1 ∧ s.myLevel ≠ 2) : s.Unrolled := h
theorem sends_of {s : State} {c : CountClass} (h : s.me.acquires = [] ∧ (c ≠ .none → s.me.count c < Config.maxOutstanding)) : s.MaySend c := h
theorem calm_of {s : State} (h : s.syncq = [] ∧ s.syncIn = [] ∧ s.waiters = [] ∧ s.ecc = [] ∧ (∀ e ∈ s.threads, e.2.resv = none) ∧ ∀ e ∈ s.cores, e.2.lines = []) :
    s.Calm := h

/-- The PLB of the issuing core holds the region of an address with a right. -/
def granted (s : State) (va : Nat) (need : Rights → Bool) : Bool :=
  match (s.core (coreOf s.cur)).plbFind (regionOf va) with | some r => need r | none => false

theorem granted_ex {s : State} {va : Nat} {need : Rights → Bool} (h : granted s va need = true) :
    ∃ r, (s.core (coreOf s.cur)).plbFind (regionOf va) = some r ∧ need r = true := by
  unfold granted at h
  split at h
  · exact ⟨_, ‹_›, h⟩
  · cases h

theorem executable_of {s : State} {va : Word} (h : va.toNat % 2 = 0 ∧ isGlobal va.toNat = true ∧ granted s va.toNat Rights.x = true) : s.Executable va :=
  ⟨h.1, h.2.1, granted_ex h.2.2⟩

theorem reaches_of {s : State} {va : Word} {n : Nat} {need : Rights → Bool} {p : Place}
    (h : s.resolve s.cur va.toNat = some p ∧ va.toNat % n = 0 ∧ (isGlobal va.toNat = false ∨ granted s va.toNat need = true)) : s.Reaches va n need p :=
  ⟨h.1, h.2.1, fun g => h.2.2.elim (fun f => by rw [g] at f; cases f) granted_ex⟩

/-- `g1` at a global address, and in the core's own scratchpad. -/
def far : State := sg [(1, 0x40000), (2, 5), (3, 0x40000)]
def near : State := sg [(1, own 64), (2, 5)]

/-- The base state with the region's rights cut. -/
def cut (s : State) (r : Rights) : State := { s with cores := [(0, { plb := [{ region := 0, rights := r, used := 0 }] })] }

theorem wit_ShortFormResults : (sg []).Ready [gRef 31, gRef 0] [gRef 31] ∧ (sg []).Ready [] [gRef 0] :=
  ⟨ready_of (by decide +kernel), ready_of (by decide +kernel)⟩

theorem wit_AluResults : (sg []).Ready [gRef 63, gRef 0] [gRef 63] ∧ clz64 1 < 64 ∧ lowestBit (2 ^ 63) 64 0 < 64 :=
  ⟨ready_of (by decide +kernel), by decide +kernel, by decide +kernel⟩

theorem wit_DividerResults : (sg []).Ready [gRef 1, gRef 2] [gRef 0] ∧ (5 : Word) ≠ 0 ∧ ¬ ((BitVec.intMin 64 : Word) = BitVec.intMin 64 ∧ (1 : Word) = BitVec.allOnes 64) ∧
    (let s := after (.div 2 1 63) (sg []); (s.thread 0).occupied = true ∧ (s.thread 0).epoch = 0 ∧ ((s.thread 0).stOf (gRef 63)).waits = true) ∧
    (State.reset.thread 0).occupied = false ∧ ((sg []).thread 0).epoch ≠ 7 :=
  ⟨ready_of (by decide +kernel), by decide, by decide, by decide +kernel, by decide +kernel, by decide +kernel⟩

theorem wit_ImmediateResults : (sg []).Ready [gRef 63] [gRef 63] ∧ (sg []).Ready [] [gRef 1] :=
  ⟨ready_of (by decide +kernel), ready_of (by decide +kernel)⟩

/-- A thread at an odd address, and one in the core's scratchpad. -/
def odd : State := st { thr [] with pc := 0x10001 }
def inPad : State := st { thr [] with pc := BitVec.ofNat 64 (own 64) }

theorem wit_BranchResults : let s := sg [(1, 4), (2, 4)]
    s.Ready [gRef 1, gRef 2] [] ∧ s.me.gv (1 : BitVec 6) = s.me.gv (2 : BitVec 6) ∧ s.me.gv (1 : BitVec 6) ≠ s.me.gv (3 : BitVec 6) ∧
    s.Executable (s.me.pc + (511 : BitVec 10).signExtend 64 * 2) ∧ odd.HasHandler ∧ (odd.me.pc + (8 : BitVec 10).signExtend 64 * 2).toNat % 2 = 1 ∧
    inPad.HasHandler ∧ (inPad.me.pc + (8 : BitVec 10).signExtend 64 * 2).toNat % 2 = 0 ∧ isGlobal (inPad.me.pc + (8 : BitVec 10).signExtend 64 * 2).toNat = false ∧
    (∃ r, ((cut s {}).core (coreOf (cut s {}).cur)).plbFind (regionOf 0x10010) = some r ∧ r.x = false) :=
  ⟨ready_of (by decide +kernel), by decide +kernel, by decide +kernel, executable_of (by decide +kernel), handler_of (by decide +kernel), by decide +kernel,
    handler_of (by decide +kernel), by decide +kernel, by decide +kernel, {}, by decide +kernel, rfl⟩

theorem wit_JumpResults : let s := sg [(9, 0x30000)]
    s.Executable (s.me.pc + (16 : BitVec 25).signExtend 64 * 2) ∧ s.notAwaited [gRef 1] ∧ s.Ready [gRef 9] [gRef 0] ∧
    s.Executable (s.me.gv (9 : BitVec 6) + (4 : BitVec 13).signExtend 64) ∧ s.HasHandler ∧ (s.me.gv (9 : BitVec 6) + (1 : BitVec 13).signExtend 64).toNat % 2 = 1 ∧
    odd.HasHandler ∧ odd.notAwaited [gRef 1] ∧ (odd.me.pc + (8 : BitVec 25).signExtend 64 * 2).toNat % 2 = 1 ∧
    inPad.HasHandler ∧ inPad.notAwaited [gRef 1] ∧ isGlobal (inPad.me.pc + (8 : BitVec 25).signExtend 64 * 2).toNat = false ∧
    isGlobal ((sg [(9, own 64)]).me.gv (9 : BitVec 6)).toNat = false :=
  ⟨executable_of (by decide +kernel), (ready_of (a := []) (by decide +kernel)).2, ready_of (by decide +kernel), executable_of (by decide +kernel),
    handler_of (by decide +kernel), by decide +kernel, handler_of (by decide +kernel), (ready_of (a := []) (by decide +kernel)).2, by decide +kernel,
    handler_of (by decide +kernel), (ready_of (a := []) (by decide +kernel)).2, by decide +kernel, by decide +kernel⟩

/-- A thread at the last instruction of a loop's body with so many passes left. -/
def looping (n : Word) : State := st { thr [] with loopU := some { start := 0x0FFFC, stop := 0x10004, remaining := n } }

/-- Whether a halfword with two bytes is fetched from an address. -/
def halfOk (s : State) (a : Nat) (b0 b1 : Byte) : Bool :=
  (isGlobal a && granted s a Rights.x && !s.invalidating a) &&
  ((tfind (s.core (coreOf s.cur)).fetched (a / 2)).isSome || decide (∀ back, s.routeFault s.me.part (coreOf s.cur) (.global a) back = none)) &&
  (match s.walk a with
    | .ok (pg, _) => decide ((pg.place = 0 ∧ pg.sib = false ∧ pg.accum = false ∧ s.notifyPart pg = none ∧ s.pageDead pg a = false ∧
        (s.die (homeOf pg a / 16)).mctl.getLsbD 8 = false ∧ (s.die (homeOf pg a / 16)).hctl.getLsbD 8 = false) ∧ s.isParked (homeOf pg a) a = false ∧
        b0 = s.byte pg.key ∧ b1 = s.byte (pg.key + 1)) &&
        ((tfind (s.core (coreOf s.cur)).fetched (a / 2)).isSome || s.walkCached (homeOf pg a) a s.me.ctx)
    | .error _ => false)
theorem half_of {s : State} {a : Nat} {b0 b1 : Byte} (h : halfOk s a b0 b1 = true) : ∃ key, s.HalfAt a key ∧ b0 = s.byte key ∧ b1 = s.byte (key + 1) := by
  simp only [halfOk, Bool.and_eq_true, Bool.not_eq_true'] at h
  obtain ⟨⟨⟨⟨g, r⟩, v⟩, w⟩, y⟩ := h
  split at y
  · simp only [Bool.and_eq_true, decide_eq_true_eq, Bool.or_eq_true] at y w
    exact ⟨_, ⟨g, granted_ex r, v, w, _, _, ‹_›, y.1.1, y.1.2.1, y.2, rfl⟩, y.1.2.2⟩
  · cases y

/-- Whether code stands at an address. -/
def codeAt (s : State) (va n : Nat) (body : List Byte) : Bool :=
  body.length == 2 * n && (List.range n).all (fun j => halfOk s (va + 2 * j) (body.getD (2 * j) 0) (body.getD (2 * j + 1) 0))
theorem code_of {s : State} {va n : Nat} {body : List Byte} (h : codeAt s va n body = true) : s.CodeAt va n body := by
  simp only [codeAt, Bool.and_eq_true, List.all_eq_true, beq_iff_eq] at h
  exact ⟨h.1, fun j m => half_of (h.2 j (List.mem_range.mpr m))⟩

/-- A state whose core has fetched the halfwords of the low code before. -/
def warm (s : State) : State :=
  { s with cores := [(0, { s.core 0 with fetched := (List.range 8).map (fun j => (0x10000 / 2 + j, 0)) })] }

/-- The base state with the first halfword of a 32-bit instruction as the last of the body. -/
def cutBody : State := warm ((sg [(1, 3)]).poke (physKey 0 0x1000A) [1])

theorem wit_LoopResults : let s := warm (sg [(1, 3)])
    (s.Ready [gRef 1] [] ∧ s.Ready [gRef 2] [] ∧ s.CodeAt (s.me.pc.toNat + 4) (4 : BitVec 13).toNat (List.replicate 8 0)) ∧
    (loopLenOk 4 = true ∧ s.me.loop = none ∧ s.ecc = [] ∧ s.was = [] ∧ (∀ e ∈ s.cores, e.2.lines = []) ∧ bodyEnds (List.replicate 8 0) 4 = true ∧
      s.me.gv (1 : BitVec 6) ≠ 0 ∧ s.me.gv (2 : BitVec 6) = 0) ∧
    (cutBody.Ready [gRef 1] [] ∧ cutBody.HasHandler ∧ cutBody.CodeAt (cutBody.me.pc.toNat + 4) (4 : BitVec 13).toNat [0, 0, 0, 0, 0, 0, 1, 0]) ∧
    (cutBody.ecc = [] ∧ cutBody.was = [] ∧ (∀ e ∈ cutBody.cores, e.2.lines = []) ∧ cutBody.me.loop = none ∧ bodyEnds [0, 0, 0, 0, 0, 0, 1, 0] 4 = false) ∧
    (s.HasHandler ∧ (looping 2).HasHandler ∧ (looping 2).Ready [gRef 1] [gRef 1] ∧ (looping 1).Ready [gRef 1] [gRef 1]) ∧
    (loopLenOk 0 = false ∧ (looping 2).me.inLoop = true ∧ (looping 2).me.loop ≠ none ∧ (looping 2).me.pc + 4 = 0x10004) :=
  ⟨⟨ready_of (by decide +kernel), ready_of (by decide +kernel), code_of (by decide +kernel)⟩, by decide +kernel,
    ⟨ready_of (by decide +kernel), handler_of (by decide +kernel), code_of (by decide +kernel)⟩, by decide +kernel,
    ⟨handler_of (by decide +kernel), handler_of (by decide +kernel), ready_of (by decide +kernel), ready_of (by decide +kernel)⟩, by decide +kernel⟩

theorem wit_ScalarFpResults : let s := st { thr [(1, 0x7F800000), (2, 0xFF800000), (3, 0x3F800000)] with fpctl := 0x1F00 }
    let f := fun (a b : BitVec 6) => (addF (fpFmt 0) s.me.rm (fpVal 0 (s.me.gv a)) (fpVal 0 (s.me.gv b))).2.toBits &&& BitVec.ofNat 5 (bits s.me.fpctl.toNat 12 8)
    s.Ready [gRef 1, gRef 2, gRef 3] [gRef 63] ∧ f 3 3 = 0 ∧ f 1 2 ≠ 0 ∧ s.HasHandler ∧ FVal.nan true ≠ FVal.nan false ∧ (unpackF fp32 0x7FC00000).isNaN = true :=
  ⟨ready_of (by decide +kernel), by decide +kernel, by decide +kernel, handler_of (by decide +kernel), by decide, by decide +kernel⟩

theorem wit_RoundingDirection : (0 < 1) ∧ 2 * ((roundTo .rne false 3 0 1).1 * 2 ^ 1) = 2 * 3 + 2 ^ 1 ∧ 2 * 5 = 2 * ((roundTo .rne false 5 0 1).1 * 2 ^ 1) + 2 ^ 1 := by
  decide +kernel

theorem wit_LaneResults : (sg []).Ready [vRef 15, vRef 0, gRef 63] [vRef 15] ∧ predOk 0 0 = true ∧ predOk 7 1 = true ∧ predOk 0 1 = false ∧ (sg []).HasHandler :=
  ⟨ready_of (by decide +kernel), by decide, by decide, by decide, handler_of (by decide +kernel)⟩

theorem wit_CompareResults : (sg []).Ready [vRef 15, vRef 0, gRef 63] [] ∧ (sg []).Ready [vRef 15] [gRef 63] ∧ predOk 7 0 = true ∧ predOk 0 0 = true :=
  ⟨ready_of (by decide +kernel), ready_of (by decide +kernel), by decide, by decide⟩

theorem wit_PermuteResults : (sg []).Ready [vRef 15, vRef 0, gRef 63] [vRef 15] ∧ (sg []).Ready [vRef 0] [gRef 63] ∧ (sg []).Ready [] [gRef 0] :=
  ⟨ready_of (by decide +kernel), ready_of (by decide +kernel), ready_of (by decide +kernel)⟩

theorem wit_FormatResults : (sg []).Ready [vRef 15, vRef 0] [vRef 15] ∧ packOk 1 1 = true ∧ packOk 5 7 = true ∧ predOk 1 1 = true :=
  ⟨ready_of (by decide +kernel), by decide, by decide, by decide⟩

theorem wit_WingResults : (sg []).Ready [gRef 1, gRef 2] [gRef 3] ∧ (sg []).Ready [vRef 1, gRef 2] [vRef 3] ∧ predOk 0 0 = true :=
  ⟨ready_of (by decide +kernel), ready_of (by decide +kernel), by decide⟩

/-- No line of the data cache stands in the way. -/
theorem noCopy_of {s : State} {va : Word} (h : (s.core (coreOf s.cur)).lines = []) : s.NoCopy va := fun _ m => by rw [h] at m; cases m

/-- A dirty OW line of 0x40000. -/
def hitLine : Line :=
  { line := 0x800, key := 0x40000, kind := .ow, dirty := true, data := 7, used := 1, siBy := [], dirtyBy := [0],
    launchSeq := 0, lci := 0, aop := 0, words := 1 }

/-- The base state with that line in the data cache. -/
def hit : State :=
  { far with cores := [(0, { far.core 0 with lines := [hitLine] })] }

theorem wit_CacheHits :
    hit.Ready [gRef 1, gRef 0] [gRef 2] ∧ hit.Ready [gRef 2, gRef 1, gRef 0] [] ∧ hit.Reaches (hit.me.gv (1 : BitVec 6)) 8 Rights.r (.global 0x40000) ∧
      hit.Reaches (hit.me.gv (1 : BitVec 6)) 8 Rights.w (.global 0x40000) ∧ hit.MaySend .loads ∧ hit.MaySend .stores ∧ isGlobal 0x40000 = true ∧
      hit.busyWord 0x40000 = false ∧ hit.shortOpen = false ∧ ((hit.core (coreOf hit.cur)).loadLine 0x40000 (hit.typeAt (coreOf hit.cur) 0x40000 0) false).isSome = true ∧
      ((hit.core (coreOf hit.cur)).storeLine 0x40000 0).isSome = true ∧ hit.syncq = [] ∧ hit.syncIn = [] ∧ (∀ e ∈ hit.threads, e.2.resv = none) :=
  ⟨ready_of (by decide +kernel), ready_of (by decide +kernel), reaches_of (by decide +kernel), reaches_of (by decide +kernel), sends_of (by decide +kernel),
    sends_of (by decide +kernel), by decide +kernel⟩

theorem wit_LoadResults :
    (far.Ready [gRef 1, gRef 0] [gRef 2] ∧ far.Reaches (far.me.gv (1 : BitVec 6)) 8 Rights.r (.global 0x40000) ∧ far.Unrolled ∧
      ((∀ rel, far.atOnce (.global 0x40000) 0x40000 rel = false) ∧ far.NoCopy 0x40000) ∧ far.MaySend .loads) ∧
    (near.Ready [gRef 1] [gRef 2] ∧ near.Reaches (near.me.gv (1 : BitVec 6)) 8 Rights.r (.core 0 64) ∧ near.Unrolled ∧ near.MaySend .none ∧
      near.atOnce (.core 0 64) (near.me.gv (1 : BitVec 6)) false = true ∧ near.atOnce (.core 0 64) (near.me.gv (1 : BitVec 6)) true = true ∧ near.ecc = [] ∧
      ∀ e ∈ near.cores, e.2.lines = []) :=
  ⟨⟨ready_of (by decide +kernel), reaches_of (by decide +kernel), unrolled_of (by decide +kernel), ⟨by decide +kernel, noCopy_of (by decide +kernel)⟩,
    sends_of (by decide +kernel)⟩, ready_of (by decide +kernel), reaches_of (by decide +kernel), unrolled_of (by decide +kernel), sends_of (by decide +kernel),
    by decide +kernel⟩

theorem wit_StoreResults :
    (far.Ready [gRef 2, gRef 1, gRef 0] [] ∧ far.Reaches (far.me.gv (1 : BitVec 6)) 8 Rights.w (.global 0x40000) ∧ far.Unrolled ∧
      (far.atOnce (.global 0x40000) 0x40000 true = false ∧ far.NoCopy 0x40000) ∧ far.MaySend .stores) ∧
    (near.Ready [gRef 2, gRef 1] [] ∧ near.Reaches (near.me.gv (1 : BitVec 6)) 8 Rights.w (.core 0 64) ∧ near.Unrolled ∧ near.MaySend .none ∧
      near.atOnce (.core 0 64) (near.me.gv (1 : BitVec 6)) true = true ∧ near.Calm) :=
  ⟨⟨ready_of (by decide +kernel), reaches_of (by decide +kernel), unrolled_of (by decide +kernel), ⟨by decide +kernel, noCopy_of (by decide +kernel)⟩,
    sends_of (by decide +kernel)⟩, ready_of (by decide +kernel), reaches_of (by decide +kernel), unrolled_of (by decide +kernel), sends_of (by decide +kernel),
    by decide +kernel, calm_of (by decide +kernel)⟩

theorem wit_AccessTraps :
    ((sg [(1, own (2 ^ 19))]).HasHandler ∧ (sg [(1, own (2 ^ 19))]).Ready [gRef 1] [gRef 2] ∧ (sg [(1, own (2 ^ 19))]).resolve 0 (own (2 ^ 19)) = none) ∧
    ((sg [(1, 0x40001)]).Ready [gRef 2, gRef 1] [] ∧ (sg [(1, 0x40001)]).resolve 0 0x40001 = some (.global 0x40001)) ∧
    ((cut far {}).HasHandler ∧ (cut far {}).Ready [gRef 1, gRef 2] [gRef 2] ∧ (cut far {}).resolve 0 0x40000 = some (.global 0x40000) ∧ isGlobal 0x40000 = true ∧
      ∃ r, ((cut far {}).core 0).plbFind (regionOf 0x40000) = some r ∧ r.r = false ∧ r.w = false) ∧
    ((sg [(1, 2 ^ 54)]).Ready [gRef 1] [gRef 2] ∧ (sg [(1, 2 ^ 54)]).resolve 0 (2 ^ 54) = some (.global (2 ^ 54)) ∧ isGlobal (2 ^ 54) = true ∧
      ((sg [(1, 2 ^ 54)]).core 0).plbFind (regionOf (2 ^ 54)) = none) :=
  ⟨⟨handler_of (by decide +kernel), ready_of (by decide +kernel), by decide +kernel⟩, ⟨ready_of (by decide +kernel), by decide +kernel⟩,
    ⟨handler_of (by decide +kernel), ready_of (by decide +kernel), by decide +kernel, by decide +kernel, {}, by decide +kernel, rfl, rfl⟩,
    ready_of (by decide +kernel), by decide +kernel, by decide +kernel, by decide +kernel⟩

/-- The base state with its thread, its core or its context 0 changed. -/
def thrB (f : Thread → Thread) (s : State) : State := s.upd f
def coreB (f : Core → Core) (s : State) : State := { s with cores := [(0, f (s.core 0))] }
def ctxB (f : Ctx → Ctx) (s : State) : State := { s with ctxs := [(0, f (s.ctx 0))] }

/-- A word of another core's scratchpad. -/
def other (o : Nat) : Nat := 0xF4 * 2 ^ 48 + 2 ^ 20 + o

/-- `g1` at another core's scratchpad. -/
def away : State := sg [(1, other 64), (2, 5)]

theorem wit_SynchronisingSends :
    (far.Ready [gRef 2, gRef 1, cRef 7] [gRef 2, vRef 15, cRef 7] ∧ (∀ need ∈ [Rights.r, Rights.w, Rights.a], far.Reaches (far.me.gv (1 : BitVec 6)) 8 need (.global 0x40000)) ∧
      far.Unrolled ∧ Place.short (.global 0x40000) (far.me.gv (1 : BitVec 6)) = false ∧ far.me.phase = .idle ∧
      far.atOnce (.global 0x40000) (far.me.gv (1 : BitVec 6)) true = false ∧ isGlobal (far.me.gv (1 : BitVec 6)).toNat = true ∧ slotOf far.cur ≠ 15 ∧
      isMem (coreOf far.cur) = false ∧ (∀ c ∈ [CountClass.loads, .stores], far.MaySend c)) ∧
    (near.Ready [gRef 1] [] ∧ near.Reaches (near.me.gv (1 : BitVec 6)) 1 Rights.r (.core 0 64) ∧ isGlobal (near.me.gv (1 : BitVec 6)).toNat = false ∧
      (∀ v, Place.core 0 64 ≠ .global v)) ∧
    (∀ l ∈ ((sg []).core (coreOf (sg []).cur)).lines, (l.kind = .ow ∧ l.dirty = true) → False) ∧
    (near.HasHandler ∧ near.Ready [gRef 1, gRef 2, cRef 0] [gRef 2, vRef 0, cRef 0]) := by
  refine ⟨⟨ready_of (by decide +kernel), ?_, unrolled_of (by decide +kernel), by decide +kernel, by decide +kernel, by decide +kernel, by decide +kernel,
    by decide +kernel, by decide +kernel, ?_⟩, ⟨ready_of (by decide +kernel), reaches_of (by decide +kernel), by decide +kernel, fun v h => by cases h⟩, ?_,
    handler_of (by decide +kernel), ready_of (by decide +kernel)⟩
  · intro need h
    simp only [List.mem_cons, List.not_mem_nil, or_false] at h
    rcases h with rfl | rfl | rfl <;> exact reaches_of (by decide +kernel)
  · intro c h
    simp only [List.mem_cons, List.not_mem_nil, or_false] at h
    rcases h with rfl | rfl <;> exact sends_of (by decide +kernel)
  · have e : ((sg []).core (coreOf (sg []).cur)).lines = [] := by decide +kernel
    rw [e]
    intro l h
    cases h

theorem wit_SynchronisingResults :
    let emptied : State := { near with empty := [coreKey 0 64] }
    let reserved := thrB (fun t => { t with resv := some (coreKey 0 64 / 128) }) near
    (near.Unrolled ∧ near.MaySend .none ∧ near.Calm ∧ near.me.phase = .idle ∧ near.atOnce (.core 0 64) (near.me.gv (1 : BitVec 6)) true = true ∧
      near.Ready [gRef 2, gRef 1, gRef 3] [gRef 3] ∧ (∀ need ∈ [Rights.r, Rights.w, Rights.a], near.Reaches (near.me.gv (1 : BitVec 6)) 8 need (.core 0 64)) ∧
      near.isEmpty (coreKey 0 64) = false) ∧
    (emptied.Unrolled ∧ emptied.MaySend .none ∧ emptied.Calm ∧ emptied.me.phase = .idle ∧ emptied.atOnce (.core 0 64) (emptied.me.gv (1 : BitVec 6)) true = true ∧
      emptied.Ready [gRef 2, gRef 1] [] ∧ emptied.Reaches (emptied.me.gv (1 : BitVec 6)) 8 Rights.w (.core 0 64) ∧ emptied.isEmpty (coreKey 0 64) = true) ∧
    (reserved.Unrolled ∧ reserved.MaySend .none ∧ (reserved.syncq = [] ∧ reserved.waiters = [] ∧ reserved.ecc = []) ∧
      reserved.atOnce (.core 0 64) (reserved.me.gv (1 : BitVec 6)) true = true ∧ reserved.Ready [gRef 1, gRef 2] [gRef 3] ∧
      reserved.Reaches (reserved.me.gv (1 : BitVec 6)) 8 Rights.w (.core 0 64) ∧ reserved.me.resv = some ((Place.core 0 64).chipKey / 128) ∧
      (∀ e ∈ reserved.threads, e.1 ≠ reserved.cur → e.2.resv = none) ∧ (∀ e ∈ reserved.cores, e.2.lines = [])) := by
  refine ⟨⟨unrolled_of (by decide +kernel), sends_of (by decide +kernel), calm_of (by decide +kernel), by decide +kernel, by decide +kernel,
    ready_of (by decide +kernel), ?_, by decide +kernel⟩, ⟨unrolled_of (by decide +kernel), sends_of (by decide +kernel), calm_of (by decide +kernel),
    by decide +kernel, by decide +kernel, ready_of (by decide +kernel), reaches_of (by decide +kernel), by decide +kernel⟩, unrolled_of (by decide +kernel),
    sends_of (by decide +kernel), by decide +kernel, by decide +kernel, ready_of (by decide +kernel), reaches_of (by decide +kernel), by decide +kernel,
    by decide +kernel, by decide +kernel⟩
  intro need h
  simp only [List.mem_cons, List.not_mem_nil, or_false] at h
  rcases h with rfl | rfl | rfl <;> exact reaches_of (by decide +kernel)

theorem wit_AtomicResults : near.Ready [gRef 3, gRef 1, gRef 2] [gRef 3] ∧ near.Reaches (near.me.gv (1 : BitVec 6)) 8 Rights.a (.core 0 64) ∧
    near.Reaches (near.me.gv (1 : BitVec 6)) 4 Rights.a (.core 0 64) ∧ near.Unrolled ∧ near.MaySend .none ∧ near.Calm ∧
    near.atOnce (.core 0 64) (near.me.gv (1 : BitVec 6)) true = true :=
  ⟨ready_of (by decide +kernel), reaches_of (by decide +kernel), reaches_of (by decide +kernel), unrolled_of (by decide +kernel), sends_of (by decide +kernel),
    calm_of (by decide +kernel), by decide +kernel⟩

theorem wit_FenceResults :
    (let s := sg []; s.me.loads = 0 ∧ s.rmwOpen = false ∧ s.me.replayDiv = none ∧ (∀ l ∈ (s.core (coreOf s.cur)).lines, ¬ (l.kind = .ow ∧ l.dirty = true)) ∧ s.me.stores = 0 ∧
      s.me.storeErr = none ∧ s.me.atomScope = none ∧ s.me.probes = [] ∧ (s.me.phase = .idle ∧ s.me.tbanks = 0) ∧ s.HasHandler ∧ 5 < (7 : BitVec 3).toNat) ∧
    ((thrB (fun t => { t with loads := 1 }) (sg [])).me.loads ≠ 0 ∧ (thrB (fun t => { t with phase := .sent }) (sg [])).me.phase = .sent ∧
      ({ sg [] with reqs := [{ id := 7, tid := 0, epoch := 0, op := .stf 0, va := 0x40000, place := .global 0x40000, cls := .stores, rel := true }] } : State).rmwOpen = true) ∧
    (let s := thrB (fun t => { t with tbanks := 2 ^ 33 }) (sg []); (∀ l ∈ (s.core (coreOf s.cur)).lines, ¬ (l.kind = .ow ∧ l.dirty = true)) ∧ s.me.phase = .idle ∧
      s.me.tbanks.getLsbD 33 = true) ∧
    (let s := thrB (fun t => { t with phase := .done, stores := 1 }) (sg []); s.me.phase = .done ∧ s.me.probes = [] ∧ s.me.stores ≠ 0) := by
  have e : ((sg []).core (coreOf (sg []).cur)).lines = [] := by decide +kernel
  have e' : ((thrB (fun t => { t with tbanks := 2 ^ 33 }) (sg [])).core (coreOf (thrB (fun t => { t with tbanks := 2 ^ 33 }) (sg [])).cur)).lines = [] := by
    decide +kernel
  refine ⟨⟨by decide +kernel, by decide +kernel, by decide +kernel, fun l h => ?_, by decide +kernel, by decide +kernel, by decide +kernel, by decide +kernel,
    by decide +kernel, handler_of (by decide +kernel), by decide⟩, by decide +kernel, ⟨fun l h => ?_, by decide +kernel, by decide +kernel⟩, by decide +kernel⟩
  · rw [e] at h
    cases h
  · rw [e'] at h
    cases h

/-- A barrier's or bell's four words at the thread's own scratchpad: limit, count, generation, status. -/
def objectAt (l c g w : Nat) (s : State) : State := s.poke (coreKey 0 64) (((List.range 4).map (fun i => BitVec.ofNat 8 (l / 256 ^ i))) ++
  ((List.range 4).map (fun i => BitVec.ofNat 8 (c / 256 ^ i))) ++ ((List.range 4).map (fun i => BitVec.ofNat 8 (g / 256 ^ i))) ++
  ((List.range 4).map (fun i => BitVec.ofNat 8 (w / 256 ^ i))))

theorem wit_BarrierSteps :
    (away.Ready [gRef 1, gRef 2] [gRef 3] ∧ away.Reaches (away.me.gv (1 : BitVec 6)) 16 (fun _ => true) (.core 1 64) ∧ away.Unrolled ∧
      isGlobal (away.me.gv (1 : BitVec 6)).toNat = false ∧ away.atOnce (.core 1 64) (away.me.gv (1 : BitVec 6)) true = false ∧ away.MaySend .loads ∧
      away.MaySend .stores) ∧
    (far.HasHandler ∧ far.Ready [gRef 1, gRef 2] [gRef 3] ∧ isGlobal (far.me.gv (1 : BitVec 6)).toNat = true) ∧
    (let s := sg [(1, own 72)]; s.HasHandler ∧ s.Ready [gRef 1, gRef 2] [gRef 3] ∧ isGlobal (s.me.gv (1 : BitVec 6)).toNat = false ∧
      s.resolve s.cur (s.me.gv (1 : BitVec 6)).toNat = some (.core 0 72) ∧ (s.me.gv (1 : BitVec 6)).toNat % 16 ≠ 0) ∧
    (let s := objectAt 3 1 9 0 near; s.Ready [gRef 1, gRef 2] [gRef 3] ∧ s.Reaches (s.me.gv (1 : BitVec 6)) 16 (fun _ => true) (.core 0 64) ∧
      isGlobal (s.me.gv (1 : BitVec 6)).toNat = false ∧ s.Unrolled ∧ s.MaySend .none ∧ s.Calm ∧ s.atOnce (.core 0 64) (s.me.gv (1 : BitVec 6)) true = true ∧
      s.getN (coreKey 0 64) 4 = 3 ∧ s.getN (coreKey 0 64 + 4) 4 + 1 < 3) ∧
    (objectAt 3 2 9 0 near).getN (coreKey 0 64 + 4) 4 + 1 = 3 ∧ near.getN (coreKey 0 64) 4 = 0 :=
  ⟨⟨ready_of (by decide +kernel), reaches_of (by decide +kernel), unrolled_of (by decide +kernel), by decide +kernel, by decide +kernel,
    sends_of (by decide +kernel), sends_of (by decide +kernel)⟩, ⟨handler_of (by decide +kernel), ready_of (by decide +kernel), by decide +kernel⟩,
    ⟨handler_of (by decide +kernel), ready_of (by decide +kernel), by decide +kernel, by decide +kernel, by decide +kernel⟩,
    ⟨ready_of (by decide +kernel), reaches_of (by decide +kernel), by decide +kernel, unrolled_of (by decide +kernel), sends_of (by decide +kernel),
      calm_of (by decide +kernel), by decide +kernel, by decide +kernel, by decide +kernel⟩, by decide +kernel, by decide +kernel⟩

theorem wit_WaitResults :
    (near.Ready [gRef 1, gRef 2] [] ∧ near.Reaches (near.me.gv (1 : BitVec 6)) 16 (fun _ => true) (.core 0 64) ∧ isGlobal (near.me.gv (1 : BitVec 6)).toNat = false ∧
      (near.me.nanBell ≠ some (coreKey 0 64) ∧ near.me.bellDone = none) ∧ near.Unrolled ∧ near.me.phase = .idle ∧ near.MaySend .none ∧
      near.atOnce (.core 0 64) (near.me.gv (1 : BitVec 6)) false = true ∧ near.genOf (coreKey 0 64) ≠ (near.me.gv (2 : BitVec 6)).setWidth 32 ∧
      near.genOf (coreKey 0 64) = (near.me.gv (3 : BitVec 6)).setWidth 32) ∧
    (let s := thrB (fun t => { t with bellDone := some (t.pc, coreKey 0 64) }) near; let u := thrB (fun t => { t with phase := .done, nanBell := some (coreKey 0 64), nanTile := some 8 }) near
     s.Ready [gRef 1, gRef 2] [] ∧ u.Ready [gRef 1, gRef 2] [] ∧ u.HasHandler ∧ s.Reaches (s.me.gv (1 : BitVec 6)) 16 (fun _ => true) (.core 0 64) ∧
       u.Reaches (u.me.gv (1 : BitVec 6)) 16 (fun _ => true) (.core 0 64) ∧ (s.me.level = .U ∧ s.me.bellDone = some (s.me.pc, coreKey 0 64) ∧ u.me.bellDone = none ∧
         u.me.phase = .done ∧ u.me.nanBell = some (coreKey 0 64) ∧ u.me.nanTile = some 8)) ∧
    (sg []).me.resv = none ∧ (thrB (fun t => { t with resv := some 1 }) (sg [])).me.resv ≠ none ∧
    ¬ ((0 : BitVec 6) = 63 ∨ (thrB (fun t => { t with loads := 1 }) (sg [])).me.loads ≤ 0) ∧
    (let s := sg []; s.me.loads ≤ 0 ∧ s.me.stores ≤ 0 ∧ s.me.copies ≤ 0 ∧ s.me.tiles ≤ 0 ∧ s.me.storeErr = none ∧ s.me.atomScope = none ∧ s.me.sibLimit = none ∧
      s.me.sibUnread = [] ∧ s.me.nanTile = none ∧ s.me.replayDiv = none) ∧
    (let s := thrB (fun t => { t with storeErr := some 8 }) (sg []); s.me.stores ≤ 62 ∧ s.HasHandler ∧ s.me.storeErr = some 8) :=
  ⟨⟨ready_of (by decide +kernel), reaches_of (by decide +kernel), by decide +kernel, by decide +kernel, unrolled_of (by decide +kernel), by decide +kernel,
    sends_of (by decide +kernel), by decide +kernel, by decide +kernel, by decide +kernel⟩, ⟨ready_of (by decide +kernel), ready_of (by decide +kernel),
    handler_of (by decide +kernel), reaches_of (by decide +kernel), reaches_of (by decide +kernel), by decide +kernel⟩, by decide +kernel, by decide +kernel,
    by decide +kernel, by decide +kernel, by decide +kernel, handler_of (by decide +kernel), by decide +kernel⟩

theorem wit_ThreadBegins :
    let s := sg [(2, 0x40100)]
    let later := thrB (fun t => { t with phase := .spawn 0 }) s
    ((sg []).notAwaited [gRef 0] ∧ (sg []).notAwaited [mRef 3] ∧ (sg []).notAwaited [vRef 15] ∧ (sg []).notAwaited [cRef 7]) ∧
    isMem (coreOf (sg []).cur) = false ∧ (isMem (coreOf { sg [] with cur := 2048 * 16, threads := [(2048 * 16, thr [])] }.cur) = true ∧
      { sg [] with cur := 2048 * 16, threads := [(2048 * 16, thr [])] }.HasHandler) ∧
    (s.Ready [gRef 2] [] ∧ isMem (coreOf s.cur) = false ∧ s.me.inLoop = false ∧ s.me.phase = .idle ∧ s.dequeFull (coreOf s.cur) = false ∧
      s.Executable (s.me.pc + (64 : BitVec 18).signExtend 64 * 2) ∧ s.Reaches (s.me.gv (2 : BitVec 6) - 16) 8 Rights.a (.global 0x400F0) ∧
      s.Reaches (s.me.gv (2 : BitVec 6) - 8) 8 Rights.a (.global 0x400F8) ∧ s.Unrolled ∧ s.MaySend .none) ∧
    (later.Ready [gRef 2] [] ∧ later.me.inLoop = false ∧ later.me.phase = .spawn 0) :=
  ⟨⟨(ready_of (a := []) (by decide +kernel)).2, (ready_of (a := []) (by decide +kernel)).2, (ready_of (a := []) (by decide +kernel)).2,
    (ready_of (a := []) (by decide +kernel)).2⟩, by decide +kernel, ⟨by decide +kernel, handler_of (by decide +kernel)⟩,
    ⟨ready_of (by decide +kernel), by decide +kernel, by decide +kernel, by decide +kernel, by decide +kernel, executable_of (by decide +kernel),
      reaches_of (by decide +kernel), reaches_of (by decide +kernel), unrolled_of (by decide +kernel), sends_of (by decide +kernel)⟩,
    ready_of (by decide +kernel), by decide +kernel, by decide +kernel⟩

/-- A continuation of slot 0. -/
def entry0 : DequeEntry :=
  { pc := 0x10100, frame := 0x40100, lti := 0, isSplit := false, slot := 0, launch := none, regs := [], msReg := 0, ms := 0, ord := 0, core := 0 }

theorem wit_ThreadEnds :
    let s := sg [(2, 0x40100)]
    let linked := thrB (fun t => { t with link := 0x40100 }) s
    let child : Req := { id := 4, tid := 0, epoch := 0, op := .joinRead, va := 0x400F8, place := .global 0x400F8 }
    (s.Ready [gRef 2] [] ∧ (thrB (fun t => { t with phase := .done }) s).me.phase = .done ∧ s.me.phase = .idle ∧
      s.Reaches (s.me.gv (2 : BitVec 6) - 8) 8 Rights.a (.global 0x400F8) ∧ s.Unrolled ∧ s.MaySend .none) ∧
    ({ s with reqs := [child] }.req 4 = some child ∧ child.op = .joinRead) ∧
    (slotOf s.cur ≠ 15 ∧ s.me.stand = none ∧ (thrB (fun t => { t with loads := 1 }) s).me.loads ≠ 0) ∧
    (linked.me.phase = .idle ∧ linked.me.loads = 0 ∧ linked.me.stores = 0 ∧ linked.me.storeErr = none ∧ linked.me.link ≠ 0 ∧
      linked.Reaches (linked.me.link - 8) 8 Rights.a (.global 0x400F8) ∧ linked.Unrolled ∧ linked.MaySend .none) ∧
    (s.me.link = 0 ∧ (s.core (coreOf s.cur)).deque.find? (fun e => e.slot == slotOf s.cur) = none ∧ (s.core (coreOf s.cur)).dequeOvf = []) ∧
    (let d := coreB (fun c => { c with deque := [entry0] }) s
     (d.core (coreOf d.cur)).deque.reverse.find? (fun e => e.slot == slotOf d.cur) = some entry0 ∧ d.Unrolled) :=
  ⟨⟨ready_of (by decide +kernel), by decide +kernel, by decide +kernel, reaches_of (by decide +kernel), unrolled_of (by decide +kernel),
    sends_of (by decide +kernel)⟩, by decide +kernel, by decide +kernel, ⟨by decide +kernel, by decide +kernel, by decide +kernel, by decide +kernel,
    by decide +kernel, reaches_of (by decide +kernel), unrolled_of (by decide +kernel), sends_of (by decide +kernel)⟩, by decide +kernel, by decide +kernel,
    unrolled_of (by decide +kernel)⟩

theorem wit_TraversalResults :
    let s := sg [(1, 0x40000), (2, 0x40001), (3, 2 ^ 56)]
    let standing := thrB (fun t => { t with stand := some (0x40000, 2) }) s
    let sets := st { thr [] with m := [(0, ⟨3, .full⟩), (1, ⟨1, .full⟩), (2, ⟨4, .full⟩), (3, ⟨0, .full⟩)] }
    (s.Ready [gRef 1, mRef 2] [gRef 63] ∧ slotOf s.cur ≠ 15 ∧ isMem (coreOf s.cur) = false ∧ s.me.stand = none ∧ (s.me.gv (1 : BitVec 6)).toNat < 2 ^ 56 ∧
      (s.me.gv (1 : BitVec 6)).toNat % 8 = 0 ∧ s.me.loads < 62 ∧ s.Unrolled ∧ s.HasHandler ∧ (s.me.gv (2 : BitVec 6)).toNat % 8 ≠ 0 ∧
      2 ^ 56 ≤ (s.me.gv (3 : BitVec 6)).toNat ∧ s.Ready [gRef 3, mRef 2] [gRef 63]) ∧
    (standing.Ready [gRef 1] [] ∧ standing.me.phase = .idle ∧ standing.me.stand = some (standing.me.gv (1 : BitVec 6), 2) ∧ standing.Unrolled ∧
      s.me.phase = .idle ∧ (∀ m, s.me.stand ≠ some (s.me.gv (1 : BitVec 6), m))) ∧
    (sets.Ready [mRef 0, mRef 1] [] ∧ sets.me.stand = none ∧ sets.me.occupied = true ∧ sets.Executable (sets.me.pc + (8 : BitVec 14).signExtend 64 * 2) ∧
      sets.me.mv (0 : BitVec 2) &&& sets.me.mv (1 : BitVec 2) ≠ 0 ∧ sets.me.mv (0 : BitVec 2) &&& sets.me.mv (2 : BitVec 2) = 0 ∧
      (∀ j ∈ List.range 13, (sets.me.stOf (gRef (j + 1))).waits = false) ∧ sets.Unrolled ∧ (sets.openSlots (coreOf sets.cur)).head? = some 1) ∧
    (s.Ready [mRef 0, mRef 1, gRef 1] [mRef 0] ∧ s.Ready [mRef 0, gRef 1] [gRef 2]) := by
  refine ⟨⟨ready_of (by decide +kernel), by decide +kernel, by decide +kernel, by decide +kernel, by decide +kernel, by decide +kernel, by decide +kernel,
    unrolled_of (by decide +kernel), handler_of (by decide +kernel), by decide +kernel, by decide +kernel, ready_of (by decide +kernel)⟩,
    ⟨ready_of (by decide +kernel), by decide +kernel, by decide +kernel, unrolled_of (by decide +kernel), by decide +kernel, ?_⟩,
    ⟨ready_of (by decide +kernel), by decide +kernel, by decide +kernel, executable_of (by decide +kernel), by decide +kernel, by decide +kernel,
      by decide +kernel, unrolled_of (by decide +kernel), by decide +kernel⟩, ready_of (by decide +kernel), ready_of (by decide +kernel)⟩
  intro m h
  have e : (sg [(1, 0x40000), (2, 0x40001), (3, 2 ^ 56)]).me.stand = none := by decide +kernel
  rw [e] at h
  cases h

theorem wit_LeaveReply :
    let r : Req := { id := 7, tid := 0, epoch := 0, op := .leave, va := 0x40000, place := .core 0 0x100000, cls := .none, state := .performed, newCtx := 1, val := 6 }
    let s := { st { thr [] with m := [(2, ⟨0, .pending⟩)], stand := some (0x40000, 2), park := some .reply, phase := .sent } with reqs := [r] }
    s.req r.id = some r ∧ s.lives r = true ∧ (s.core (coreOf r.tid)).diverted = false ∧ r.op = .leave ∧ r.newCtx = 1 ∧ r.flags = 0 ∧ r.dst = none ∧ r.ctxReg = none ∧
      r.acq = false ∧ (s.thread r.tid).stand = some (0x40000, 2) ∧ ((s.thread r.tid).stOf (mRef 2)).waits = true := by
  decide +kernel

theorem wit_TrapEntry : (sg []).HasHandler ∧
    (let s := thrB (fun t => { t with level := .S }) (sg []); s.me.level = .S ∧ (s.die (dieOf (coreOf s.cur))).events = [] ∧
      (s.die (dieOf (coreOf s.cur))).eq.full = true) ∧
    (let s := { sg [] with ctxs := [], dies := [(0, { eq := { size := 4 } })] }
     s.me.level = .U ∧ (s.ctx s.me.ctx).tvec = 0 ∧ (s.die (dieOf (coreOf s.cur))).events = [] ∧ (s.die (dieOf (coreOf s.cur))).eq.full = false) :=
  ⟨handler_of (by decide +kernel), by decide +kernel, by decide +kernel⟩

theorem wit_TrapReturn :
    let s := thrB (fun t => { t with level := .S, epc := 0x10000, elctl := 2 ^ 63 + 4 }) (sg [])
    s.me.level = .S ∧ s.Executable s.me.epc ∧ s.me.elctl.getLsbD 63 = true ∧ (thrB (fun t => { t with elctl := 0 }) s).me.elctl.getLsbD 63 = false ∧
    (sg []).HasHandler :=
  ⟨by decide +kernel, executable_of (by decide +kernel), by decide +kernel, by decide +kernel, handler_of (by decide +kernel)⟩

theorem wit_CsrAccess :
    let f := thrB (fun t => { t with level := .F }) (sg [])
    (f.me.level.reaches .F = true ∧ f.notAwaited [gRef 63] ∧ (sg []).me.level.reaches .S = false ∧ (sg []).HasHandler) ∧
    (csrKnown 0xFFF = false ∧ csrKnown 0x500 = true ∧ 1 ≤ 0x500 / 256 % 4) ∧ (f.Ready [gRef 1] [gRef 2] ∧ f.me.level ≠ .U ∧ f.me.level = .F) :=
  ⟨⟨by decide +kernel, (ready_of (a := []) (by decide +kernel)).2, by decide +kernel, handler_of (by decide +kernel)⟩, by decide +kernel,
    ready_of (by decide +kernel), by decide +kernel, by decide +kernel⟩

theorem wit_CoreInstructions :
    let f := thrB (fun t => { t with level := .F, latch := true }) (sg [(1, 0x40000)])
    let rec_ := ctxB (fun c => { c with level := 1, roll := { size := 12 } }) (sg [])
    (sg []).me.stores = 0 ∧ (thrB (fun t => { t with stores := 1 }) (sg [])).me.stores ≠ 0 ∧ f.me.level = .F ∧ f.Ready [gRef 1] [] ∧
    f.me.gv (1 : BitVec 6) ≠ 0 ∧ f.me.gv (2 : BitVec 6) = 0 ∧ f.me.latch = true ∧ (thrB (fun t => { t with latch := false }) f).me.latch = false ∧
    (sg []).Unrolled ∧ rec_.Ready [gRef 1] [] ∧ rec_.myLevel = 1 ∧ Config.lowRoll ≤ (rec_.ctx rec_.me.ctx).roll.free :=
  ⟨by decide +kernel, by decide +kernel, by decide +kernel, ready_of (by decide +kernel), by decide +kernel, by decide +kernel, by decide +kernel,
    by decide +kernel, unrolled_of (by decide +kernel), ready_of (by decide +kernel), by decide +kernel, by decide +kernel⟩

theorem lanes_of {s : State} {k : BitVec 3} {g : Word} {ea : Nat → Word} {need : Rights → Bool}
    (h : ∀ j ∈ s.activeLanes k, sameWindow g.toNat (ea j).toNat = true ∧ (s.resolve s.cur (ea j).toNat).isSome = true ∧ (ea j).toNat % 4 = 0 ∧
      (isGlobal (ea j).toNat = false ∨ granted s (ea j).toNat need = true)) : s.LanesReach k g ea need := fun j m =>
  have ⟨a, b, c, d⟩ := h j m
  have ⟨p, e⟩ := Option.isSome_iff_exists.mp b
  ⟨a, p, reaches_of ⟨e, c, d⟩⟩

theorem reach_ex {s : State} {va : Word} {n : Nat} {need : Rights → Bool}
    (h : (s.resolve s.cur va.toNat).isSome = true ∧ va.toNat % n = 0 ∧ (isGlobal va.toNat = false ∨ granted s va.toNat need = true)) : ∃ p, s.Reaches va n need p :=
  have ⟨p, e⟩ := Option.isSome_iff_exists.mp h.1
  ⟨p, reaches_of ⟨e, h.2⟩⟩

/-- Every lane at `base`, and its lane's word behind it. -/
def laneAt (base : Nat) (j : Nat) : Word := BitVec.ofNat 64 base + BitVec.ofNat 64 (4 * j)

theorem wit_VectorSends :
    let s := st { thr [(1, 0x40000)] with k := [(1, 0)] }
    predOk 0 0 = true ∧ predOk 1 1 = true ∧ s.Ready [gRef 1, vRef 2, vRef 3] [vRef 3] ∧ s.LanesReach 0 (s.me.gv (1 : BitVec 6)) (laneAt 0x40000) Rights.r ∧
    s.LanesReach 0 (s.me.gv (1 : BitVec 6)) (laneAt 0x40000) Rights.w ∧
    s.LanesReach 0 (s.me.gv (1 : BitVec 6)) (fun j => s.me.gv (1 : BitVec 6) + (lane (s.me.vv (2 : BitVec 4)) j).signExtend 64) Rights.w ∧ s.activeLanes 1 = [] ∧
    (s.activeLanes 0).head? = some 0 ∧ s.MaySend .loads ∧ s.MaySend .stores ∧ isShort1 (laneAt 0x40000 0).toNat = false ∧
    s.NoCopy (laneAt 0x40000 0) :=
  ⟨by decide, by decide, ready_of (by decide +kernel), lanes_of (by decide +kernel), lanes_of (by decide +kernel), lanes_of (by decide +kernel),
    by decide +kernel, by decide +kernel, sends_of (by decide +kernel), sends_of (by decide +kernel), by decide +kernel,
    noCopy_of (by decide +kernel)⟩

theorem wit_VectorAtIssue : predOk 0 0 = true ∧ near.MaySend .none ∧ near.activeLanes 0 ≠ [] ∧
    ((∀ j ∈ near.activeLanes 0, isShort1 (laneAt (own 64) j).toNat = true) ∧ near.padFree ((near.activeLanes 0).map (fun j => (laneAt (own 64) j).toNat)) = true) ∧
    near.Ready [vRef 3, gRef 1] [vRef 3] ∧ near.LanesReach 0 (near.me.gv (1 : BitVec 6)) (laneAt (own 64)) Rights.r ∧
    near.LanesReach 0 (near.me.gv (1 : BitVec 6)) (laneAt (own 64)) Rights.w ∧ near.ecc = [] ∧ near.Calm ∧
    near.resolve near.cur (laneAt (own 64) 31).toNat = some (.core 0 188) :=
  ⟨by decide, sends_of (by decide +kernel), by decide +kernel, by decide +kernel, ready_of (by decide +kernel), lanes_of (by decide +kernel),
    lanes_of (by decide +kernel), by decide +kernel, calm_of (by decide +kernel), by decide +kernel⟩

theorem wit_SliceResults :
    let s := st { thr [(1, 0xF0 * 2 ^ 48 + 4092), (2, 0xF0 * 2 ^ 48 + 2), (3, 0x40000), (4, own 64)] with v := [(0, ⟨0, .full⟩), (1, ⟨4, .full⟩)] }
    let off := fun (g : BitVec 6) (a : BitVec 4) (j : Nat) => (s.me.gv g).toNat % 4096 + (lane (s.me.vv a) j).toNat
    predOk 0 0 = true ∧ isMem (coreOf s.cur) = false ∧ (s.me.gv (1 : BitVec 6)).toNat / 2 ^ 12 = 0xF0 * 2 ^ 36 ∧
    s.Ready [vRef 0, vRef 1, gRef 1] [vRef 0] ∧ (∀ j ∈ s.activeLanes 0, off 1 0 j < 4096 ∧ off 1 0 j % 4 = 0) ∧ s.ecc = [] ∧ s.HasHandler ∧
    (s.activeLanes 0).find? (fun j => decide (4096 ≤ off 1 1 j) || off 1 1 j % 4 != 0) = some 0 ∧ 4096 ≤ off 1 1 0 ∧
    (s.activeLanes 0).find? (fun j => decide (4096 ≤ off 2 0 j) || off 2 0 j % 4 != 0) = some 0 ∧
    (∀ g ∈ [3, 4], ∀ q, q < 4 → sameWindow (s.me.gv (g : BitVec 6)).toNat (s.me.gv g + BitVec.ofNat 64 (4 * (bits (lane (s.me.vv (0 : BitVec 4)) (q / 2)).toNat
      (16 * (q % 2) + 15) (16 * (q % 2)) % 256))).toNat = true) ∧ s.padFree (List.replicate 4 (own 64)) = true ∧
    (∃ p, s.Reaches 0x40000 4 Rights.r p) ∧ (∃ p, s.Reaches (BitVec.ofNat 64 (own 64)) 4 Rights.r p) ∧ isShort1 0x40000 = false ∧ isShort1 (own 64) = true ∧
    s.MaySend .loads ∧ s.MaySend .none ∧ s.NoCopy 0x40000 :=
  ⟨by decide, by decide +kernel, by decide +kernel, ready_of (by decide +kernel), by decide +kernel, by decide +kernel, handler_of (by decide +kernel),
    by decide +kernel, by decide +kernel, by decide +kernel, by decide +kernel, by decide +kernel, reach_ex (by decide +kernel), reach_ex (by decide +kernel), by decide +kernel,
    by decide +kernel, sends_of (by decide +kernel), sends_of (by decide +kernel), noCopy_of (by decide +kernel)⟩

/-- A die scratchpad's address, by its die. -/
def pad5 (o : Nat) : Nat := 0xF5 * 2 ^ 48 + o

theorem wit_QueryResults :
    let s := st { thr [(1, 3), (2, 5), (3, 1024), (4, 0x40000)] with qbase := BitVec.ofNat 64 (pad5 0), qrec := 0x010 }
    (far.Ready [gRef 1, mRef 3] [mRef 3] ∧ far.Reaches (far.me.gv (1 : BitVec 6)) 8 Rights.r (.global 0x40000) ∧ far.Reaches (far.me.gv (1 : BitVec 6)) 8 Rights.w (.global 0x40000) ∧
      (∃ q, far.Reaches (far.me.gv (1 : BitVec 6) + 120) 8 Rights.r q) ∧ (∃ q, far.Reaches (far.me.gv (1 : BitVec 6) + 120) 8 Rights.w q) ∧
      isShort1 (far.me.gv (1 : BitVec 6)).toNat = false ∧ far.MaySend .loads ∧ far.MaySend .stores) ∧
    (near.Ready [gRef 1, mRef 3] [mRef 3] ∧ near.Reaches (near.me.gv (1 : BitVec 6)) 8 Rights.r (.core 0 64) ∧ near.Reaches (near.me.gv (1 : BitVec 6)) 8 Rights.w (.core 0 64) ∧
      (∃ q, near.Reaches (near.me.gv (1 : BitVec 6) + 120) 8 Rights.w q) ∧ isShort1 (near.me.gv (1 : BitVec 6)).toNat = true ∧
      near.padFree (imageWords (near.me.gv (1 : BitVec 6))) = true ∧ near.MaySend .none ∧ near.ecc = [] ∧ near.Calm) ∧
    (slotOf s.cur ≠ 15 ∧ isMem (coreOf s.cur) = false) ∧ s.Unrolled ∧ (s.me.gv (1 : BitVec 6)).toNat < 1024 ∧ 1024 ≤ (s.me.gv (3 : BitVec 6)).toNat ∧
    s.resolve s.cur (pad5 48) = some (.die 0 48) ∧ (Place.die 0 48).short (BitVec.ofNat 64 (pad5 48)) = false ∧ isGlobal (pad5 48) = false ∧
    s.FieldAt 2 8 (BitVec.ofNat 64 (pad5 8)) ∧ s.FieldAt 3 4 (BitVec.ofNat 64 (pad5 12)) ∧ s.resolve s.cur (pad5 12) = some (.die 0 12) ∧
    s.Ready [gRef 1, gRef 2, mRef 1] [gRef 2, mRef 1] ∧ s.MaySend .loads ∧ s.MaySend .stores ∧ s.HasHandler := by
  refine ⟨⟨ready_of (by decide +kernel), reaches_of (by decide +kernel), reaches_of (by decide +kernel), reach_ex (by decide +kernel), reach_ex (by decide +kernel),
    by decide +kernel, sends_of (by decide +kernel), sends_of (by decide +kernel)⟩, ⟨ready_of (by decide +kernel), reaches_of (by decide +kernel),
    reaches_of (by decide +kernel), reach_ex (by decide +kernel), by decide +kernel, by decide +kernel, sends_of (by decide +kernel), by decide +kernel,
    calm_of (by decide +kernel)⟩, by decide +kernel, unrolled_of (by decide +kernel), by decide +kernel, by decide +kernel, by decide +kernel, by decide +kernel,
    by decide +kernel, ?_, ?_, by decide +kernel, ready_of (by decide +kernel), sends_of (by decide +kernel), sends_of (by decide +kernel),
    handler_of (by decide +kernel)⟩ <;> (unfold State.FieldAt; decide +kernel)

/-- A range that the thread may name. -/
def rangeB (s : State) (va len : Word) (need : Rights → Bool) : Bool :=
  s.rangeOk s.me.part (coreOf s.cur) va.toNat len.toNat && (regionsOf va.toNat len.toNat).all (fun a => granted s a need)
theorem range_of {s : State} {va len : Word} {need : Rights → Bool} (h : rangeB s va len need = true) : s.RangeReach va len need := by
  simp only [rangeB, Bool.and_eq_true, List.all_eq_true] at h
  exact ⟨h.1, fun a m => granted_ex (h.2 a m)⟩

theorem wit_CopyAndTileCommands :
    let s := sg [(1, own 64), (2, 5), (3, own 0), (8, own 256), (9, own 64), (10, own 4), (12, own 32), (14, 2 ^ 33 + 4), (15, 2 ^ 34 + 8), (16, own 256), (17, 0x40000), (18, 64),
      (24, 0x10000), (25, own 0), (26, 15)]
    let hi := { sg [] with cur := 15, threads := [(15, thr [])] }
    ((4 : BitVec 3).toNat ≤ 5 ∧ (∀ n ∈ [8, 16, 24], (n : BitVec 6) ≠ 0 ∧ n.toNat % 8 = 0 ∧ s.hasFull (groupSrcs n 8) ∧ s.BellOk (group s.me n 3) (bellAlign 0)) ∧ s.Unrolled ∧
      (s.me.acquires = [] ∧ (s.core (coreOf s.cur)).copyq.length < Config.copyEntries ∧ s.me.copies < Config.maxOutstanding) ∧
      s.BellOk (group s.me 8 4) 16 ∧ s.BellOk (group s.me 16 4) 16 ∧ s.BellOk (group s.me 24 4) 16) ∧
    ((group s.me 16 2).toNat < 2 ^ 32 ∧ s.RangeReach (group s.me 16 1) (group s.me 16 2) Rights.r ∧ s.RangeReach (group s.me 16 0) (group s.me 16 2) Rights.w) ∧
    (group s.me 8 6 = BitVec.ofNat 64 (4 + 2 ^ 32 * 2) ∧ group s.me 8 7 = BitVec.ofNat 64 (8 + 2 ^ 32 * 4) ∧
      s.RangeReach (group s.me 8 0) (BitVec.ofNat 64 ((2 - 1) * 8 + 4)) Rights.w ∧ s.RangeReach (group s.me 8 2) (BitVec.ofNat 64 (4 * 2)) Rights.r ∧
      windowOf (group s.me 8 1).toNat ≠ 0xF0 ∧ (group s.me 8 2).toNat % 4 = 0) ∧
    ((group s.me 24 2).toNat < 2 ^ 9 ∧ s.partOf s.cur = some whole ∧ whole.onDie ((group s.me 24 2).toNat / 16) = true ∧ (group s.me 24 0).toNat % 2 = 0 ∧
      isGlobal (group s.me 24 0).toNat = true ∧ (s.postArg (group s.me 24 1)).isSome = true) ∧
    (s.HasHandler ∧ 5 < (6 : BitVec 3).toNat ∧ (7 : BitVec 6).toNat % 8 ≠ 0) ∧
    (s.Ready [gRef 1, gRef 2] [gRef 3] ∧ (slotOf s.cur ≠ 15 ∧ isMem (coreOf s.cur) = false) ∧ (s.me.gv (2 : BitVec 6)).toNat < 256 ∧
      s.Reaches (s.me.gv (1 : BitVec 6)) 64 Rights.r (.core 0 64) ∧ s.MaySend .loads ∧ windowOf (s.me.gv (1 : BitVec 6)).toNat = 0xF1 ∧
      ((s.die (dieOf (coreOf s.cur))).tileq.length < Config.tileEntries ∧ s.me.tiles < Config.maxOutstanding) ∧ s.ecc = [] ∧
      ∀ i, i < 8 → s.busyWord ((s.me.gv (1 : BitVec 6)).toNat + 8 * i) = false) ∧
    (bits (s.me.gv (2 : BitVec 6)).toNat 31 8 = 0 ∧ bits (s.me.gv (2 : BitVec 6)).toNat 63 32 = 0 ∧ inPads (s.me.gv (3 : BitVec 6)).toNat = true ∧
      s.rangeOk s.me.part (coreOf s.cur) (s.me.gv (3 : BitVec 6)).toNat 65600 = true ∧ (s.me.gv (3 : BitVec 6)).toNat % 64 = 0) ∧
    (¬ (slotOf hi.cur ≠ 15 ∧ isMem (coreOf hi.cur) = false) ∧ hi.HasHandler) := by
  refine ⟨⟨by decide, ?_, unrolled_of (by decide +kernel), by decide +kernel, .inr (by decide +kernel), .inl (by decide +kernel), .inl (by decide +kernel)⟩,
    ⟨by decide +kernel, range_of (by decide +kernel), range_of (by decide +kernel)⟩, ⟨by decide +kernel, by decide +kernel, range_of (by decide +kernel),
    range_of (by decide +kernel), by decide +kernel, by decide +kernel⟩, by decide +kernel, ⟨handler_of (by decide +kernel), by decide, by decide⟩,
    ⟨ready_of (by decide +kernel), by decide +kernel, by decide +kernel, reaches_of (by decide +kernel), sends_of (by decide +kernel), by decide +kernel,
      by decide +kernel, by decide +kernel, by decide +kernel⟩, by decide +kernel, by decide +kernel, handler_of (by decide +kernel)⟩
  intro n h
  simp only [List.mem_cons, List.not_mem_nil, or_false] at h
  rcases h with rfl | rfl | rfl <;> exact ⟨by decide, by decide, (ready_of (b := []) (by decide +kernel)).1, .inl (by decide +kernel)⟩

theorem wit_MessageResults :
    let s := sg [(1, 1), (2, 0x10000), (3, 2 ^ 18 + 1), (4, 127), (5, 31), (6, 128), (7, 32), (8, 2 ^ 11)]
    let hi := { sg [] with cur := 15, threads := [(15, thr [])] }
    ((2 : BitVec 2) ≠ 3 ∧ (60 : BitVec 6).toNat + 2 * (2 : BitVec 4).toNat ≤ 64 ∧ s.hasFull ([gRef 1, gRef 2] ++ (payloadRegs 60 2).map gRef) ∧
      (s.me.gv (1 : BitVec 6)).toNat < 2 ^ 11 ∧ s.namedCore s.cur (s.me.gv (1 : BitVec 6)).toNat = some 1 ∧ isGlobal (s.me.gv (2 : BitVec 6)).toNat = true ∧
      (s.me.gv (2 : BitVec 6)).toNat % 2 = 0 ∧ s.routeOk 2 1 = true ∧ s.MaySend .stores ∧ s.Unrolled) ∧
    (s.Ready [gRef 3] [gRef 63] ∧ (s.me.gv (3 : BitVec 6)).toNat < 2 ^ 21 ∧ s.namedCore s.cur ((s.me.gv (3 : BitVec 6)).toNat % 2 ^ 11) = some 1 ∧ s.MaySend .loads ∧
      s.me.stOf (gRef 2) = .full ∧ s.me.stOf (mRef 3) = .full ∧ s.me.stOf (vRef 15) = .full ∧ s.me.stOf (cRef 7) = .full ∧
      (s.me.gv (3 : BitVec 6)).toNat / 2 ^ 15 = 8 ∧ (s.me.gv (1 : BitVec 6)).toNat / 2 ^ 15 < 4) ∧
    (slotOf hi.cur = 15 ∧ hi.me.loads = 0 ∧ hi.me.stores = 0 ∧ hi.me.storeErr = none ∧ hi.me.occupied = true ∧ slotOf s.cur ≠ 15 ∧ s.HasHandler) ∧
    (s.Ready [gRef 4, gRef 5] [gRef 63] ∧ (s.me.gv (4 : BitVec 6)).toNat < 2 ^ 7 ∧ (s.me.gv (5 : BitVec 6)).toNat < 2 ^ 5 ∧ s.Ready [gRef 6, gRef 7] [gRef 63] ∧
      2 ^ 7 ≤ (s.me.gv (6 : BitVec 6)).toNat ∧ 2 ^ 5 ≤ (s.me.gv (7 : BitVec 6)).toNat) ∧
    (let e := thrB (fun t => { t with level := .S }) s
     e.hasFull [gRef 1, gRef 8] ∧ e.me.level = .S ∧ e.MaySend .stores ∧ e.Unrolled ∧ (e.me.gv (8 : BitVec 6)).toNat < 2 ^ 12 ∧ (e.me.gv (8 : BitVec 6)).getLsbD 11 = true ∧
       (e.me.gv (1 : BitVec 6)).getLsbD 11 = false ∧ e.namedCore e.cur ((e.me.gv (1 : BitVec 6)).toNat % 2 ^ 11) = some 1) :=
  ⟨⟨by decide, by decide, (ready_of (b := []) (by decide +kernel)).1, by decide +kernel, by decide +kernel, by decide +kernel, by decide +kernel,
    by decide +kernel, sends_of (by decide +kernel), unrolled_of (by decide +kernel)⟩, ⟨ready_of (by decide +kernel), by decide +kernel, by decide +kernel,
    sends_of (by decide +kernel), by decide +kernel⟩, ⟨by decide +kernel, by decide +kernel, by decide +kernel, by decide +kernel, by decide +kernel,
    by decide +kernel, handler_of (by decide +kernel)⟩, ⟨ready_of (by decide +kernel), by decide +kernel, by decide +kernel, ready_of (by decide +kernel),
    by decide +kernel, by decide +kernel⟩, (ready_of (b := []) (by decide +kernel)).1, by decide +kernel, sends_of (by decide +kernel),
    unrolled_of (by decide +kernel), by decide +kernel⟩

/-! Requests, commands and packets of the hardware's own steps. -/

/-- A request of thread 0, and the state that holds it with `g2` PENDING. -/
def reqOf (op : MemOp) (va : Word) (p : Place) (cls : CountClass) (d : Option RegRef) (st : ReqState) : Req :=
  { id := 7, tid := 0, epoch := 0, op := op, va := va, place := p, dst := d, cls := cls, state := st }
/-- The small state with partition 0 let through every router of the compute cores. -/
def routed : State := { sg [] with tenants := (List.range 2048).map (fun u => (u, 1)) }
def holding (r : Req) : State := { st { thr [] with g := [(2, ⟨0, .pending⟩)], loads := 1, stores := 1 } with reqs := [r] }

theorem wit_ReplySteps :
    let load := reqOf (.load 8 false) 0x40000 (.global 0x40000) .loads (some (gRef 2))
    let store := reqOf (.store 8 5) 0x40000 (.global 0x40000) .stores none
    (∀ r ∈ [load .performed, load .failed, store .performed, store .failed, load .parked], let s := holding r
      s.req r.id = some r ∧ s.lives r = true ∧ (s.core (coreOf r.tid)).diverted = false ∧ ((s.thread r.tid).stOf (gRef 2)).waits = true ∧ r.ctxReg = none ∧ r.flags = 0) ∧
    (∀ r ∈ (sg []).reqs, ¬ (r.tid = 0 ∧ r.epoch = ((sg []).thread 0).epoch ∧ r.parkedNow = true)) ∧
    ((thrB (fun t => { t with park := some .plb }) (sg [])).thread 0).park = some .plb := by
  decide +kernel

/-- A launch over the whole module, and a state in which it has not begun. -/
def launch0 : Launch :=
  { part := 0, ctx := 0, queue := 0, index := 0, seq := 5, entry := 0x10000, args := 9, signal := 0, stack := 0x80000, stride := 4096, size16 := 1, steal := 1, t := 15,
    h := 16, w := 128, row0 := 0, col0 := 0, qbase := 0, intr := false, touched := 0, arrived := 0, aborted := false, stage := 0 }
def launched : State := { sg [] with threads := [], launches := [(3, launch0)] }

theorem wit_WorkSteps :
    (let s := { sg [] with now := 161 }
     (s.core 0).lendPtr < 15 ∧ s.owner 0 = none ∧ s.issuedNow 0 = false ∧ s.ready (0 * 16 + 0) = true ∧ s.spaced (0 * 16 + 0) = true ∧ (s.thread (0 * 16 + 0)).ownCycle = false ∧
       s.levelOf (s.thread (0 * 16 + 0)).ctx ≠ 3 ∧ (0 + 15 - (s.core 0).lendPtr) % 15 = 0) ∧
    (let s := coreB (fun c => { c with deque := [entry0] }) { sg [] with threads := [] }
     (s.core 0).halted = false ∧ (s.core 0).diverted = false ∧ (s.core 0).held = [] ∧ (s.core 0).stolen = none ∧ (s.core 0).deque = [entry0] ∧
       s.levelOf (s.dequeCtx 0) = 0 ∧ (s.thread (0 * 16 + 0)).occupied = false) ∧
    ((launched.core 0).halted = false ∧ (launched.core 0).diverted = false ∧ (launched.core 0).steal = none ∧ (launched.core 0).stolen = none ∧ (launched.core 0).deque = [] ∧
      launched.openSlots 0 ≠ [] ∧ (launched.core 0).idle + 64 ≤ launched.now ∧ launched.launchOn 0 = some (3, launch0) ∧ launched.levelOf launch0.ctx ≠ 3 ∧
      launched.victims 0 launch0 ≠ []) ∧
    (let a : StealAttempt := { launch := 3, victims := [2], carried := none, slot := none }
     let b : StealAttempt := { a with carried := some entry0 }
     let e : StealAttempt := { a with victims := [] }
     let s := coreB (fun c => { c with steal := some a }) launched
     let u : State := { s with cores := s.cores ++ [(1, { deque := [entry0] })], tenants := routed.tenants }
     (s.core 0).steal = some a ∧ s.spillAt 1 (s.stealPart 0) (.stealRequest 0 1) = none ∧ s.launchAt 0 = some 3 ∧ s.launchAt 1 = some 3 ∧ s.stealing 0 = true ∧
       ({ s with launches := [] } : State).launchAt 0 ≠ some 3 ∧ ({ s with launches := [] } : State).stealing 0 = false ∧ s.levelOf (s.dequeCtx 1) = 0 ∧ (s.core 1).deque = [] ∧ (s.core 0).diverted = false ∧
       (u.core 1).deque = [entry0] ∧ u.launchAt 0 = some 3 ∧ u.launchAt 1 = some 3 ∧ u.spillAt 1 (u.stealPart 0) (.stealRequest 0 1) = none ∧
       (∀ b, u.routeFault (u.stealPart 0) 0 (.core 1 0) b = none) ∧
       ((coreB (fun c => { c with steal := some b }) launched).core 0).steal = some b ∧
       ((coreB (fun c => { c with steal := some e }) launched).core 0).steal = some e) := by
  decide +kernel

theorem wit_ProctorSteps :
    (let s := coreB (fun c => { c with dequeOvf := [entry0] }) (sg [])
     (s.core 0).deque = [] ∧ (s.core 0).dequeOvf ≠ [] ∧ (s.core 0).diverted = false ∧ (s.die 0).fwStat ≠ 3) ∧
    ((thrB (fun t => { t with park := some .restart }) (sg [])).thread 0).park = some .restart ∧
    (let r : Resource := { kind := 1, addr := 0, tid := some 0, waits := false }
     let s := { sg [] with dies := [(0, { fwStat := 3, resources := [r] })] }
     let u := coreB (fun c => { c with deque := List.replicate 64 entry0 }) s
     (s.die 0).fwStat = 3 ∧ (s.die 0).resources = [r] ∧ s.dequeFull 0 = false ∧ u.dequeFull 0 = true ∧ (u.die 0).fwStat = 3 ∧ (u.die 0).resources = [r] ∧ r.kind = 1 ∧ r.tid = some 0 ∧ r.waits = false ∧ (s.thread 0).phase ≠ .done) ∧
    (let e : List Byte := List.replicate 32 7
     let s := { sg [] with dies := [(0, { events := [e], eq := { size := 4 } })] }
     (s.die 0).events = [e] ∧ e.length = 32 ∧ (s.die 0).eq.full = false) := by
  decide +kernel

/-- A packet on its way from core 0 to core 1. -/
def packet0 (typ : Nat) (p : PktPlace) : Packet :=
  { (default : Packet) with id := 9, typ := typ, dst := 1, at_ := routerOf 0, req := 7, flits := 1, handler := 0x10000, place := p }
def carrying (p : Packet) : State := { sg [] with packets := [p], nextId := 10, tenants := [(routerOf 0, 1)] }

/-- The small state whose routers, and the gateways between dies 0 and 1, let partition 0 through, with a working link. -/
def crossing (l : List Packet) : State :=
  { routed with
    packets := l, nextId := 10, tenants := routed.tenants ++ [(4096, 1), (4101, 1)]
    links := [(0, { groups := List.replicate 24 { away := true, since := 0, carrying := true, working := true }, queue := [] })] }
/-- Whether a packet's output takes it now, `at_` cycles on. -/
def enters (s : State) (p : Packet) (n : Nat) : Bool :=
  match s.wants p with
  | some o => (s.admits p o.next o.port (s.now + n)).isSome && s.mayStart p o && !s.linkBusy p o (s.now + n) && s.wins p o (s.now + n) && s.tenantOk o.next p.tenant
  | none => false
/-- Whether a packet asks for an output that it does not win now. -/
def loses (s : State) (p : Packet) (n : Nat) : Bool := match s.wants p with | some o => !s.wins p o (s.now + n) | none => false

theorem wit_PacketSteps :
    (let p := packet0 2 .source
     (carrying p).packet 9 = some p ∧ (carrying p).tenantOk p.at_ p.tenant = true ∧ { carrying p with tenants := [] }.tenantOk p.at_ p.tenant = false ∧ (carrying p).req p.req = none) ∧
    (∀ typ ∈ [0, 1, 2], let p := packet0 typ .source
     (carrying p).packet 9 = some p ∧ (carrying p).tenantOk p.at_ p.tenant = true ∧ (carrying p).streamAny p (fun q => decide (q.place = .source)) = false ∧
       (carrying p).req p.req = none ∧ ((carrying p).core (coreOf p.tid)).lines = []) ∧
    (let p := packet0 0 .pool; let q := { p with id := 8 }
     hopOf p.at_ p.dst = .ring true 1 ∧ enters (crossing [p]) p 0 = true ∧ loses (crossing [q, p]) p 0 = true ∧ (crossing [q, p]).packet 9 = some p) ∧
    (let p := { packet0 0 .pool with at_ := 112, dst := 128 }; let q := { p with id := 8 }
     hopOf p.at_ p.dst = .gate 128 4 5 0 [4096, 4101] ∧ (∀ u ∈ [4096, 4101], (crossing [p]).tenantOk u p.tenant = true) ∧ (crossing [p]).linkAlive 0 = true ∧
       enters (crossing [p]) p 3 = true ∧ loses (crossing [q, p]) p 3 = true) ∧
    (let p := { packet0 0 .pool with waited := 64 }
     (carrying p).packet 9 = some p ∧ 64 ≤ p.waited ∧ (carrying p).levelOf p.ctx ≠ 3) ∧
    (∀ typ ∈ [0, 1], let p := { packet0 typ .pool with at_ := routerOf 1 }
     (carrying p).packet 9 = some p ∧ hopOf p.at_ p.dst = .arrive ∧ (carrying p).streamAny p (fun q => decide (q.place ≠ .arrived)) = false) ∧
    (let p := packet0 0 .arrived
     let s := carrying p
     s.packet 9 = some p ∧ s.spillAt p.dst p.tenant (.messageArrival 9) = none ∧ s.levelOf p.ctx = 0 ∧ p.id < s.nextId ∧ (s.core p.dst).msgs.length < 32 ∧ (s.core p.dst).msgSpill = []) ∧
    (let p := packet0 1 .arrived
     let r := reqOf (.rfill .g 5) (BitVec.ofNat 64 (2 ^ 15 * 4)) (.core 1 0) .loads (some (gRef 2)) .going
     let s := { carrying p with reqs := [r], threads := [(16, { thr [] with g := [(4, ⟨0, .expecting⟩)] })] }
     s.packet 9 = some p ∧ s.spillAt p.dst p.tenant (.rfillArrival 9) = none ∧ s.levelOf p.ctx = 0 ∧ s.req p.req = some r ∧ (s.thread 16).occupied = true ∧ fillTarget r.va .g = gRef 4 ∧ (s.thread 16).stOf (gRef 4) = .expecting ∧
       p.dst * 16 + bits r.va.toNat 14 11 = 16 ∧ ({ s with threads := [] }.thread 16).occupied = false) :=
  ⟨by decide +kernel, by decide +kernel, by decide +kernel, by decide +kernel, by decide +kernel, by decide +kernel, by decide +kernel, by decide +kernel⟩

theorem wit_PacketArrivals :
    (let m : Msg := { handler := 0x10000, src := 1, lti := 0, part := 0, ctx := 0, payload := [], actor := 0, ord := 0 }
     let s := coreB (fun c => { c with msgs := [m] }) (sg [])
     (s.thread (0 * 16 + 15)).occupied = false ∧ (s.core 0).diverted = false ∧ (s.core 0).halted = false ∧ (s.core 0).msgs = [m] ∧ m.payload.length ≤ 30) ∧
    (let r := reqOf (.evsig 1) 3 (.core 1 0) .stores none .going
     let s := { routed with reqs := [r] }
     s.req r.id = some r ∧ s.held r = false ∧ r.val = 0 ∧ (∀ b, s.routeFault (s.thread r.tid).part (coreOf r.tid) (.core 1 0) b = none) ∧ s.spillAt 1 (s.thread r.tid).part (.evsigDelivery 7) = none ∧ (s.core (coreOf r.tid)).lines = []) ∧
    (let r := reqOf (.lturn 0 8) 0 (.core 0 0) .loads (some (gRef 2)) .going
     let g : Group := { away := true, since := 0, carrying := true, working := true }
     let l : Link := { groups := List.replicate 24 g, queue := [] }
     let s := { routed with reqs := [r], links := [(0, l)] }
     s.req r.id = some r ∧ s.turnLost r = none ∧ s.levelOf (s.thread r.tid).ctx = 0 ∧ linkOf 0 = some 0 ∧ linkOf 127 = none ∧ s.partOf r.tid = some whole ∧ whole.links.contains 0 = true ∧
       whole.links.contains 2 = false ∧ (8 : Word).toNat + 4 ≤ l.workingCount ∧ l.workingCount < (31 : Word).toNat + 4 ∧ l.queue.length < Config.turnEntries ∧ (3 : Word).toNat < 4) ∧
    (let g : Group := { away := true, since := 0, carrying := true, working := true }
     let q : TurnReq := { fromLower := true, target := 8, ctx := 0, actor := 0, name := 0 }
     let l : Link := { groups := [g, { g with carrying := false }], queue := [q] }
     let s := { sg [] with now := 512, links := [(0, l)] }
     tfind s.links 0 = some l ∧ s.levelOf q.ctx = 0 ∧ s.now % 256 = 0 ∧ l.groups[1]? = some { g with carrying := false }) :=
  ⟨by decide +kernel, by decide +kernel, by decide +kernel, by decide +kernel⟩

/-- The page of an address, where its walk succeeds. -/
def okPage (s : State) (va : Nat) : Option (Page × Nat) := match s.walk va with | .ok x => some x | .error _ => none
theorem walk_of {s : State} {va : Nat} {x : Page × Nat} (h : okPage s va = some x) : s.walk va = .ok x := by
  unfold okPage at h
  split at h
  · rename_i e
    rw [e, Option.some.inj h]
  · cases h
theorem noWalk_of {s : State} {va : Nat} (h : okPage s va = none) : ∃ c, s.walk va = .error c := by
  unfold okPage at h
  split at h
  · cases h
  · exact ⟨_, ‹_›⟩

/-- The page of HBM that the low 1 GiB of the small states is. -/
def page0 (va : Nat) : Page :=
  { place := 0, pa := va, cls := 0, sib := false, accum := false, aop := 0, sysatom := false, bias := 0, homed := false, die := 0, log := 30 }

theorem plain_of {s : State} {pg : Page} {va : Nat} (h : pg.place = 0 ∧ pg.sib = false ∧ pg.accum = false ∧ s.notifyPart pg = none ∧ s.pageDead pg va = false ∧
    (s.die (homeOf pg va / 16)).mctl.getLsbD 8 = false ∧ (s.die (homeOf pg va / 16)).hctl.getLsbD 8 = false) : s.PlainPage pg va := h
/-- Whether a plain page that an agent may access now lies at an address. -/
def opens (s : State) (va : Nat) (pg : Page) : Bool :=
  !s.invalidating va && (match okPage s va with | some x => decide (x.1 = pg) | none => false) &&
    decide (pg.place = 0 ∧ pg.sib = false ∧ pg.accum = false ∧ s.notifyPart pg = none ∧ s.pageDead pg va = false ∧
      (s.die (homeOf pg va / 16)).mctl.getLsbD 8 = false ∧ (s.die (homeOf pg va / 16)).hctl.getLsbD 8 = false) && !s.isParked (homeOf pg va) va
theorem open_of {s : State} {va : Nat} {pg : Page} (h : opens s va pg = true) : s.OpenPage va pg := by
  simp only [opens, Bool.and_eq_true, Bool.not_eq_true', decide_eq_true_eq] at h
  obtain ⟨⟨⟨i, w⟩, p⟩, k⟩ := h
  split at w
  · rename_i x e
    exact ⟨i, ⟨x.2, by rw [walk_of e, ← of_decide_eq_true w]⟩, p, k⟩
  · cases w
/-- The state with the translation of an address at its home slice. -/
def known (s : State) (va : Nat) : State := { s with slices := [(homeOf (page0 va) va, { walks := [⟨va / 4096, page0 (va / 4096 * 4096), 0, none⟩] })] }
/-- Whether the request of a step waits at a server and has its next cycle. -/
def hasCycle (s : State) (i : Instr) (v : Server) : Bool :=
  match s.itemOf i with
  | some y => decide (y.who = i ∧ ({ s with bankq := (s.leaveBank i).bankq ++ [{ y with server := v }] } : State).cycleOf v = some { y with server := v })
  | none => false
theorem cycle_of {s : State} {i : Instr} {v : Server} (h : hasCycle s i v = true) : s.HasCycle i v := by
  unfold hasCycle at h
  split at h
  · exact ⟨_, ‹_›, of_decide_eq_true h⟩
  · cases h

/-- Whether a request may go to its server as it comes. -/
def arrives (s : State) (r : Req) : Bool :=
  decide (s.req r.id = some r ∧ r.state = .going ∧ r.words = [] ∧ s.held r = false) &&
  (match r.place with | .core c _ => !s.follows r c | _ => true) &&
  decide (s.levelOf (s.thread r.tid).ctx ≠ 1 ∧ s.levelOf (s.thread r.tid).ctx ≠ 2 ∧ (∀ e ∈ s.dies, e.2.invals = []) ∧
    (∀ back, s.routeFault (s.thread r.tid).part (coreOf r.tid) r.place back = none) ∧ s.resolve r.tid r.va.toNat = some r.place)
theorem arrives_of {s : State} {r : Req} (h : arrives s r = true) : s.Arrives r := by
  unfold arrives at h
  simp only [Bool.and_eq_true, decide_eq_true_eq] at h
  obtain ⟨⟨⟨h1, h2, h3, h4⟩, hf⟩, h5⟩ := h
  refine ⟨h1, h2, h3, h4, fun c o e => ?_, h5⟩
  rw [e] at hf
  simpa using hf

/-- A request alone in flight, one that waits at its server, and a request at a place of core 1. -/
def alone (r : Req) : State := { routed with reqs := [r] }
def atBank (r : Req) (i : Instr) : State := { alone r with bankq := [routed.threadItem 0 .P r.place i] }
def chip (op : MemOp) (cls : CountClass) : Req := reqOf op (BitVec.ofNat 64 (other 64)) (.core 1 64) cls none .going

/-- Whether a request goes to a place on chip whose core is not pre-empted. -/
def onChip (s : State) (r : Req) : Bool :=
  !isGlobal r.va.toNat && (match r.place with | .core c _ => decide (s.spillAt c (s.thread r.tid).part (r.event 0) = none) | .die .. => true | .global _ => false)
theorem chip_of {s : State} {r : Req} (h : onChip s r = true) : s.OnChip r := by
  simp only [onChip, Bool.and_eq_true, Bool.not_eq_true'] at h
  refine ⟨h.1, ?_⟩
  have h2 := h.2
  split at h2 <;> simp_all

theorem wit_ServeSteps :
    (let r := chip (.load 8 false) .loads; (alone r).Arrives r ∧ (alone r).OnChip r ∧ r.acq = false ∧ r.rel = false ∧ (alone r).ecc = [] ∧
      (alone r).itemOf (.bankAccess ⟨7, 0⟩) = none) ∧
    (let r := chip (.load 8 false) .loads; let s := atBank r (.bankAccess ⟨7, 0⟩)
     s.Arrives r ∧ s.OnChip r ∧ s.HasCycle (.bankAccess ⟨7, 0⟩) (s.serverOf r.place) ∧ r.event 0 = .bankAccess ⟨7, 0⟩ ∧ s.ecc = []) ∧
    (let r := chip (.store 4 5) .stores; let s := atBank r (.bankAccess ⟨7, 0⟩)
     s.Arrives r ∧ s.OnChip r ∧ s.HasCycle (r.event 0) (s.serverOf r.place) ∧ s.Calm ∧ r.cls = .stores) ∧
    (let r := { reqOf (.load 8 false) 0x40000 (.global 0x40000) .loads none .going with typ := 3 }; let s := alone r
     let home := homeOf (page0 0x40000) 0x40000
     s.frameOpen (sliceUnit home) 0 = true ∧ tget [] s.mapped ((page0 0x40000).key / 4096) = [] ∧ s.Arrives r ∧ s.walk 0x40000 = .ok (page0 0x40000, 2) ∧ (s.isParked home 0x40000 = false ∧ s.walkCached home 0x40000 0 = false) ∧
       (let w : State := known s 0x40000
        w.Arrives r ∧ w.walk 0x40000 = .ok (page0 0x40000, 2) ∧ (w.walkCached home 0x40000 0 = true ∧ r.line = false ∧ w.levelOf 0 ≠ 3 ∧ w.frameOpen (channelUnit home) 0 = true ∧ w.itemOf (.homeAccess ⟨7, 0⟩) = none))) ∧
    (let r := { reqOf (.load 8 false) 0x40000 (.global 0x40000) .loads none .going with typ := 3, line := true }
     let home := homeOf (page0 0x40000) 0x40000
     let w : State := known (atBank r (.homeAccess ⟨7, 0⟩)) 0x40000
     w.Arrives r ∧ w.walk 0x40000 = .ok (page0 0x40000, 2) ∧ (w.walkCached home 0x40000 0 = true ∧ w.isParked home 0x40000 = false) ∧
       w.HasCycle (r.event 0) (w.serverOf r.place) ∧ w.PlainPage (page0 0x40000) 0x40000 ∧ w.effType (coreOf r.tid) r.typ (page0 0x40000) = 3 ∧ w.Calm) ∧
    (let r := reqOf (.load 8 false) (2 ^ 40) (.global (2 ^ 40)) .loads none .going; (alone r).Arrives r ∧ ∃ c, (alone r).walk (2 ^ 40) = .error c) := by
  refine ⟨⟨arrives_of (by decide +kernel), ?_⟩, ⟨arrives_of (by decide +kernel), chip_of (by decide +kernel), cycle_of (by decide +kernel), ?_⟩,
    ⟨arrives_of (by decide +kernel), chip_of (by decide +kernel), cycle_of (by decide +kernel), calm_of (by decide +kernel), rfl⟩,
    ⟨by decide +kernel, by decide +kernel, arrives_of (by decide +kernel), walk_of (by decide +kernel), ?_, arrives_of (by decide +kernel), walk_of (by decide +kernel), ?_⟩,
    ⟨arrives_of (by decide +kernel), walk_of (by decide +kernel), ?_, cycle_of (by decide +kernel), plain_of (by decide +kernel), rfl,
    calm_of (by decide +kernel)⟩, arrives_of (by decide +kernel), noWalk_of (by decide +kernel)⟩
  · exact ⟨chip_of (by decide +kernel), rfl, rfl, rfl, rfl⟩
  all_goals decide +kernel

/-- The small state with a credit at its bell's bank. -/
def credit0 : Credit := { bell := coreKey 0 64, amount := 3, code := 0, stamp := none, report := none, cmd := 0 }
def crediting (s : State) : State := { s with bankq := [s.threadItem 0 .P (.core 0 64) (.bellUpdate credit0)] }

theorem wit_BankSteps :
    (let r := chip .bara .loads; let s := atBank r (.barrierArrival 7)
     s.Arrives r ∧ s.OnChip r ∧ s.Calm ∧ r.acq = false ∧ s.HasCycle (.barrierArrival r.id) (s.serverOf r.place) ∧ s.getN (coreKey 1 64) 4 = 0) ∧
    (let x := credit0; let s := crediting (objectAt 4 1 9 0 near)
     s.Calm ∧ s.HasCycle (.bellUpdate x) (keyBank x.bell).1 ∧
     (s.copy x.cmd = none ∧ s.tile x.cmd = none ∧ (x.bell / 2 ^ 48 = 0xF4 → s.spillAt (x.bell % 2 ^ 48 / 2 ^ 20) 0 (.bellUpdate x) = none) ∧ x.report = none ∧
       x.stamp = none ∧ x.code < 2 ^ 32 ∧ s.getN x.bell 4 ≠ 0 ∧ s.getN (x.bell + 4) 4 + x.amount = s.getN x.bell 4 ∧
       (objectAt 4 0 9 0 near).getN (x.bell + 4) 4 + x.amount < 4 ∧ 4 < (objectAt 4 2 9 0 near).getN (x.bell + 4) 4 + x.amount ∧ near.getN x.bell 4 = 0)) ∧
    ((routed.thread 0).occupied = true ∧ (routed.thread 0).epoch = 0 ∧ routed.reqs = [] ∧ (routed.core (coreOf 0)).diverted = false ∧ routed.probeStop 0 0 = none ∧
      routed.probeAway (routed.thread 0).part 0 (.fenceProbe 0 0 0) = none) ∧
    (let r := chip (.amo 0 true 5 0) .loads; let s := { alone r with batch := [(0, 7)] }
     s.Arrives r ∧ s.Calm ∧ s.OnChip r ∧ s.batch = [(0, r.id)]) ∧
    (let r := reqOf (.amo 9 true 5 0) 0x40000 (.global 0x40000) .loads none .going
     (alone r).Arrives r ∧ (alone r).Calm ∧ (alone r).walk r.va.toNat = .ok (page0 0x40000, 2)) ∧
    (let p : Partial := { key := physKey 0 0x40000, launchSeq := 0, lci := 0, aop := 0, value := 5, va := 0x40000 }
     let l : Line := { (default : Line) with line := 0x800, key := physKey 0 0x40000, kind := .partialSum, aop := 0, data := 5, words := 1 }
     ((coreB (fun c => { c with lines := [l] }) (sg [])).core 0).lines = [l] ∧ l.partials = [p]) := by
  refine ⟨⟨arrives_of (by decide +kernel), chip_of (by decide +kernel), calm_of (by decide +kernel), rfl, cycle_of (by decide +kernel), ?_⟩,
    ⟨calm_of (by decide +kernel), cycle_of (by decide +kernel), ?_⟩, ?_, ⟨arrives_of (by decide +kernel), calm_of (by decide +kernel), chip_of (by decide +kernel), rfl⟩,
    ⟨arrives_of (by decide +kernel), calm_of (by decide +kernel), walk_of (by decide +kernel)⟩, ?_⟩
  all_goals decide +kernel

theorem wit_RollCallSteps :
    (let r := reqOf (.stand 5) 0x40000 (.core 1 (2 ^ 20)) .loads (some (gRef 2)) .going; let s := atBank r (.rollCallArrival 7)
     let lower : RollEntry := { node := 0x40000, owner := { lti := 0, name := 0, slot := 1 }, tid := 1, reg := 0, set := 2 }
     let e : RollEntry := { lower with owner := s.keyOf 0, tid := 0 }
     s.HasCycle r.rollStep (s.serverOf r.place) ∧
     (s.req r.id = some r ∧ s.spillAt 1 (s.thread r.tid).part r.rollStep = none ∧ (∀ b, s.routeFault (s.thread r.tid).part (coreOf r.tid) r.place b = none) ∧ s.levelOf (s.thread r.tid).ctx ≠ 1 ∧ s.levelOf (s.thread r.tid).ctx ≠ 2 ∧
       (∀ q ∈ s.reqs, q.state ≠ .waiting) ∧ (s.core 1).rollOvf = [] ∧ (s.core 1).roll = [] ∧ r.newCtx = 0 ∧ (alone r).itemOf r.rollStep = none ∧
       (s.keyOf r.tid).lt lower.owner = true ∧ (s.keyOf r.tid).lt e.owner = false ∧ e.owner = s.keyOf r.tid ∧ lower.owner ≠ s.keyOf r.tid ∧ e.node = r.va)) ∧
    (let r := reqOf .leave 0x40000 (.core 1 (2 ^ 20)) .loads (some (gRef 2)) .going; let s := atBank r (.rollCallLeave 7)
     s.HasCycle r.rollStep (s.serverOf r.place)) := by
  refine ⟨⟨cycle_of (by decide +kernel), by decide +kernel⟩, cycle_of (by decide +kernel)⟩

/-- A copy command of thread 0 between two cores' scratchpads, its read and its write. -/
def copy0 : CopyCmd :=
  { id := 7, kind := 0, tid := 0, epoch := 0, core := 0, part := 0, ctx := 0, launch := none, scope := 4, acq := false, rel := false, ts := false,
    dst := BitVec.ofNat 64 (other 256), src := BitVec.ofNat 64 (0xF4 * 2 ^ 48 + 64), len := 8, index := 0, rowBytes := 0, rows := 0, dstStride := 0, srcStride := 0,
    signal := none, waitBell := none, waitGen := 5, arg := 0, unit := memCore 0 0, lti := 0, prog := none, started := none, accepted := false, failed := none,
    begun := false, words := [], rowsMade := false, whole := false, inPad := false, ended := false, idx := [], ord := none }
def word0 (w : Bool) (st : ReqState) : CopyWord :=
  { unit := 0, write := w, va := if w then other 256 else 0xF4 * 2 ^ 48 + 64, len := 8, at_ := 0, state := st, sent := 0, data := List.replicate 8 3, line := false, ready := 0 }
def copying (c : CopyCmd) : State := { routed with copies := [c] }
def copyItem (c : CopyCmd) (p : Place) (i : Nat) : State :=
  { copying c with bankq := [{ server := routed.serverOf p, cls := .C, came := 0, key := { lti := 0, name := 0, slot := 0 }, part := 0, ctx := 0, who := .copyShare ⟨7, 0, some i⟩ }] }

theorem wit_CopySteps :
    (let c := copy0; let s := copying c; s.copy 7 = some c ∧ (s.core c.core).halted = false ∧ c.accepted = false ∧ c.waitBell = none) ∧
    (let c := { copy0 with waitBell := some (other 128) }; let s := copying c
     s.copy 7 = some c ∧ c.acq = false ∧ s.genOf (s.bellKey c.part c.core (other 128)) ≠ c.waitGen ∧ s.genOf (s.bellKey c.part c.core (other 128)) = 0 ∧
       (let d := { c with accepted := true }; (copying d).copy 7 = some d ∧ d.started = none ∧ (copying d).tile 7 = none ∧ ((copying d).core d.core).diverted = false)) ∧
    (let c := { copy0 with accepted := true }; let s := copying c
     s.copy 7 = some c ∧ (s.core c.core).halted = false ∧ c.begun = false ∧ c.waitBell = none ∧ c.rel = false ∧ c.acq = false ∧ c.kind ≠ 2 ∧ c.len ≠ 0 ∧
       { c with len := 0 }.len = 0 ∧ { c with kind := 2 }.kind = 2) ∧
    (let c := { copy0 with begun := true, accepted := true, words := [word0 false .waiting, word0 true .waiting] }; let s := copying c
     s.copy 7 = some c ∧ c.begun = true ∧ c.ended = false ∧ c.kind ≠ 1 ∧ isMem 0 = false ∧ c.inPad = false ∧ c.words[0]? = some (word0 false .waiting) ∧ 0 < s.linkRoom c 0 false ∧
       (∀ v ∈ c.words, v.unit = 0 → v.write = false → v.state ≠ .waiting → v.sent ≠ s.now)) ∧
    (let c := { copy0 with begun := true, accepted := true, kind := 1, rows := 2, rowBytes := 8, words := [{ word0 false .performed with data := List.replicate 8 0 }],
                           src := BitVec.ofNat 64 (0xF1 * 2 ^ 48 + 64) }; let s := copying c
     let d : CopyCmd := { c with idx := (List.range c.rows).map (fun i => fieldOf (c.bytesAt 0 (4 * c.rows)) (4 * i) 4) }
     s.copy 7 = some c ∧ c.kind = 1 ∧ c.rowsMade = false ∧ (∀ w ∈ c.words, w.state = .performed ∧ w.ready ≤ s.now) ∧
       (∀ r ∈ d.rowsOf, s.rangeOk c.part c.core r.1 r.2.2 = true ∧ windowOf r.1 ≠ 0xF0 ∧ ∀ a ∈ regionsOf r.1 r.2.2, granted s a Rights.r = true)) ∧
    (let c := { copy0 with begun := true, accepted := true, words := [word0 false .going, word0 true .going] }
     let f := copying c; let s := copyItem c (.core 0 64) 0; let u := copyItem c (.core 1 256) 1
     (s.HasCycle (.copyShare ⟨7, 0, some 0⟩) (s.serverOf (.core 0 64)) ∧ u.HasCycle (.copyShare ⟨7, 0, some 1⟩) (u.serverOf (.core 1 256))) ∧ u.Calm ∧
       (c.words[0]? = some (word0 false .going) ∧ c.words[1]? = some (word0 true .going) ∧ s.ecc = [] ∧
        s.resolveIn 0 0 (word0 false .going).va = some (.core 0 64) ∧ u.resolveIn 0 0 (word0 true .going).va = some (.core 1 256) ∧
        isGlobal (word0 false .going).va = false ∧ isGlobal (word0 true .going).va = false ∧ f.itemOf (.copyShare ⟨7, 0, some 0⟩) = none ∧
        s.spillAt 0 0 (.copyShare ⟨7, 0, some 0⟩) = none ∧ u.spillAt 1 0 (.copyShare ⟨7, 0, some 1⟩) = none ∧
        (∀ b, s.routeFault 0 0 (.core 0 64) b = none ∧ u.routeFault 0 0 (.core 1 256) b = none) ∧
        s.levelOf (s.thread c.tid).ctx ≠ 1 ∧ s.levelOf (s.thread c.tid).ctx ≠ 2)) ∧
    (let c := { copy0 with accepted := true, begun := true, started := some 100, ended := true }; let s := copying c
     s.copy 7 = some c ∧ c.prog = none ∧ c.signal = none ∧ (s.thread c.tid).occupied = true ∧ (s.thread c.tid).epoch = c.epoch ∧
       { c with signal := some (other 128) }.ts = false) ∧
    (let c := { copy0 with kind := 2, accepted := true, begun := true }; let s := copying c
     s.copy 7 = some c ∧ c.ended = false ∧ s.routeFault c.part c.core (.core c.unit 0) false = none ∧ isMem c.core = false ∧ (s.core c.unit).postq = [] ∧ (s.core c.unit).postOvf = [] ∧ c.core ≠ c.unit ∧ (∀ e ∈ s.parts, s.levelOf e.2.ctx ≠ 3) ∧
       s.levelOf c.ctx ≠ 3 ∧ (s.thread (c.unit * 16 + 0)).occupied = false) := by
  refine ⟨?_, ?_, ?_, ?_, ?_, ⟨⟨cycle_of (by decide +kernel), cycle_of (by decide +kernel)⟩, calm_of (by decide +kernel), ?_⟩, ?_, ?_⟩
  all_goals decide +kernel

/-- A tensor of zeros in FP16 in core 0's scratchpad, a task of one element and one k-step over it, and the state that holds a command. -/
def tensor0 : Tensor :=
  { base := BitVec.ofNat 64 (0xF4 * 2 ^ 48 + 1024), sbase := 0, cbook := 0, rows := 1, cols := 32, stride := 64, sstride := 0, fmt := 1, core := 0 }
def tile0 (kind : Nat) : TileCmd :=
  { id := 7, kind := kind, tid := 0, epoch := 0, core := 0, part := 0, ctx := 0, launch := none, die := 0,
    record := List.replicate 24 0 ++ [32] ++ List.replicate 39 0, addr := 0xF4 * 2 ^ 48 + 64, operand := 5, tag := none, chainTag := none, signal := none,
    a := some tensor0, b := some tensor0, cT := none, d := some tensor0, r := none, wb0 := none, gen0 := 0, wb1 := none, gen1 := 0, idx := [], accepted := none, order := 0, engine := none,
    dispatched := none, step := 0, latch := [], code := 0, report := none, ended := false, ord := none }
def tiling (c : TileCmd) : State :=
  { sg [] with cores := [(0, { plb := [{ region := 0, rights := open_, used := 0 }], engine := { task := some 7 } })], tileCmds := [c], dies := [(0, { tileq := [7] })] }

/-- A latch that holds one row of zeros of each operand. -/
def latch0 : List (List Nat × Nat) × List (List Nat × Nat) := ([(List.replicate 32 0, 127)], [(List.replicate 32 0, 127)])
/-- A word of a command at an address of core 0's scratchpad. -/
def at0 (write : Bool) (va len : Nat) (st : ReqState) : CopyWord :=
  { unit := 0, write := write, va := va, len := len, at_ := 0, state := st, data := List.replicate len 0, sent := 0, ready := 0, line := false }
/-- The row of the tensor, read. -/
def row0 : List CopyWord := (List.range 8).map (fun i => at0 false (0xF4 * 2 ^ 48 + 1024 + 8 * i) 8 .performed)
/-- The state with a command whose word waits at its bank. -/
def tileAt (v : Server) (c : TileCmd) (ev : Instr) : State :=
  { tiling c with bankq := [{ server := v, cls := .T, came := 0, key := { lti := c.lti.toNat, name := (tiling c).nameOf c.core, slot := slotOf c.tid },
                              part := c.part, ctx := c.ctx, who := ev, turn := 0 }] }
/-- Whether the only item of a step at a server has its next cycle. -/
def turnAt (s : State) (ev : Instr) (v : Server) : Bool :=
  match s.bankq with
  | [item] => decide (item.who = ev ∧ item.server = v ∧ ({ s with bankq := (s.leaveBank ev).bankq ++ [item] } : State).cycleOf v = some item)
  | _ => false

theorem wit_TileSteps :
    (let c := { tile0 0 with words := [at0 false (0xF4 * 2 ^ 48 + 64) 64 .performed], dispatched := some 100 }
     let r := reqOf .ttset (BitVec.ofNat 64 c.addr) (.core 0 64) .loads none .going; let s : State := { tiling c with reqs := [r] }
     s.tile 7 = some c ∧ s.tileCmds = [c] ∧ s.saved = [] ∧ c.ended = false ∧ s.req c.id = some r ∧ s.resolveIn c.part c.core c.addr = some (.core 0 64) ∧
       s.padStop c.part c.core (.core 0 64) = none ∧ (∀ w ∈ c.words, w.state = .performed ∧ w.ready ≤ s.now)) ∧
    (let w := at0 false (0xF4 * 2 ^ 48 + 64) 8 .waiting; let c := { tile0 0 with words := [w], dispatched := some 100 }; let s := tileAt (.pad 0 8) c (.ttsetServe 7)
     s.tile 7 = some c ∧ s.tileCmds = [c] ∧ s.saved = [] ∧ c.words = [w] ∧ w.sent < s.now ∧ s.resolveIn c.part c.core c.addr = some (.core 0 64) ∧
       s.resolveIn c.part w.unit w.va = some (.core 0 64) ∧ s.padStop c.part c.core (.core 0 64) = none ∧ s.padStop c.part c.at_ (.core 0 64) = none ∧ s.ecc = [] ∧
       s.serverOf (.core 0 64) = .pad 0 8) ∧
    (let c := { tile0 3 with chainTag := some 4 }; (tiling c).tile 7 = some c ∧ c.accepted = none ∧ c.acq = false ∧ (tiling c).tileTurn c = true ∧
      ((tiling c).ctx c.ctx).claimed.contains (c.tagKey 4) = false) ∧
    (let c := { tile0 4 with tag := some 4 }; (tiling c).tile 7 = some c ∧ c.acq = false ∧ (tiling c).tileTurn c = true ∧ c.signal = none ∧
      ((tiling c).ctx c.ctx).claimed.contains (c.tagKey 4) = false) ∧
    (let c := { tile0 1 with engine := some 0 }
     c.dispatched = none ∧ c.chain = false ∧ ((tiling c).core 0).halted = false ∧ (tiling c).tile 7 = some c) ∧
    (∀ n ∈ [100, 200], let c := { tile0 1 with engine := some 0, dispatched := some 100, words := row0, upto := n }; let s := tiling c
     (∀ w ∈ c.words, w.state = .performed ∧ w.ready ≤ s.now) ∧ c.icnt ≤ c.idx.length ∧ c.cpres = false ∧ s.stepWords c 0 = [] ∧ s.now = 160) ∧
    (let c := { tile0 1 with engine := some 0, dispatched := some 100, latch := [latch0] }; let s := tiling c
     ((s.core 0).engine.task = some c.id ∧ c.dispatched.isSome = true ∧ c.ended = false ∧ c.step < c.steps ∧ c.ends = none ∧ (s.core 0).halted = false ∧
       c.steps ≤ c.step + c.latch.length)) ∧
    (let c := { tile0 1 with engine := some 0, dispatched := some 100, words := row0 }; let s := tiling c
     c.latch = [] ∧ c.ends = none ∧ s.stepWords c c.step = [] ∧ c.step < c.steps) ∧
    (let c := { tile0 1 with engine := some 0, dispatched := some 100, latch := [latch0], ends := some 150 }; let s := tiling c
     let n := (c.slice c.step).2
     let A := fun i => (latch0.1.map (feedOf 1 n)).getD i ([], 127)
     let B := fun j => (latch0.2.map (feedOf 1 n)).getD j ([], 127)
     (s.core 0).engine.task = some c.id ∧ c.ends = some 150 ∧ 150 ≤ s.now ∧ c.rows = 1 ∧ c.cols = 1 ∧
       ∀ i, i < c.rows → ∀ j, j < c.cols → (f32 (kstepAcc (tget 0 (s.core 0).engine.acc (128 * i + j)) (stepSum (A i).1 (B j).1) (A i).2 (B j).2 0)).isNaN = false) ∧
    (let c := { tile0 1 with engine := some 0, dispatched := some 100, step := 1 }; let s := tiling c
     c.steps ≤ c.step ∧ c.rpres = false ∧ c.drop = false ∧ c.words = [] ∧ (s.core 0).engine.acc = [] ∧ (f32 (drainY 0 none none)).isNaN = false ∧
       (let d := { c with words := [at0 true (0xF4 * 2 ^ 48 + 1024) 2 .performed] }
        (tiling d).tile 7 = some d ∧ (∃ w ∈ d.words, w.write = true) ∧ (∀ w ∈ d.words, w.state = .performed ∧ w.ready ≤ 160) ∧ d.upto ≤ 160)) ∧
    (let w := at0 true (0xF4 * 2 ^ 48 + 1024) 2 .waiting; let c := { tile0 1 with engine := some 0, dispatched := some 100, step := 1, words := [w] }; let s := tileAt (.pad 0 0) c (.taskDrain 0)
     w.sent < s.now ∧ s.resolveIn c.part w.unit w.va = some (.core 0 1024) ∧ s.padStop c.part c.at_ (.core 0 1024) = none ∧ s.levelOf (s.thread c.tid).ctx = 0 ∧
       s.serverOf (.core 0 1024) = .pad 0 0) ∧
    (let c := { tile0 4 with engine := some 0, dispatched := some 100, words := [at0 false (0xF4 * 2 ^ 48 + 64) 64 .performed] }; let s := tiling c
     s.tile 7 = some c ∧ (s.core 0).halted = false ∧ c.upto ≤ s.now ∧ fieldOf (c.words.flatMap (fun w => w.data)) 16 48 = 0) ∧
    (∀ k ∈ [2, 3], let c := { tile0 k with engine := some 0, dispatched := some 100, chainTag := some 4 }; let s := tiling c
     s.tile 7 = some c ∧ c.ended = false ∧ (s.core 0).halted = false ∧ c.upto ≤ s.now ∧ c.words = []) ∧
    (let c := { tile0 1 with engine := some 0, ended := true }; let s := tiling c
     s.tile 7 = some c ∧ (s.die c.die).tileq.contains c.id = true ∧ c.code = 0 ∧ c.engine = some 0 ∧ c.signal = none ∧ { c with signal := some (other 128) }.ts = false) ∧
    (isMem 0 = false ∧ ((tiling (tile0 1)).core 0).engine.out = false) := by
  refine ⟨?_, ?_, ?_, ?_, ?_, ?_, ?_, ?_⟩ <;> decide +kernel

/-- Words of a command that have the next cycle of their banks. -/
theorem wit_TileSteps_turns :
    (let w := at0 true (0xF4 * 2 ^ 48 + 1024) 2 .waiting; let c := { tile0 1 with engine := some 0, dispatched := some 100, step := 1, words := [w] }
     (tileAt (.pad 0 0) c (.taskDrain 0)).Calm ∧ turnAt (tileAt (.pad 0 0) c (.taskDrain 0)) (.taskDrain 0) (.pad 0 0) = true) ∧
    (let c := { tile0 0 with words := [at0 false (0xF4 * 2 ^ 48 + 64) 8 .waiting], dispatched := some 100 }
     turnAt (tileAt (.pad 0 8) c (.ttsetServe 7)) (.ttsetServe 7) (.pad 0 8) = true) :=
  ⟨⟨calm_of (by decide +kernel), by decide +kernel⟩, by decide +kernel⟩

/-- A ring of 16 packets at 0x50040 in the page of HBM, a packet of a type with a body and a value, and a state whose partition 0 has it as a queue. -/
def queue0 (held : Option (List Byte)) : Queue :=
  { base := 0x50040, n := 4, prio := 0, notified := 1, read := 0, stopped := false, status := 0, since := some 0, aged := false, reserves := [], zero := false, packet := held, checked := false, writes := [] }
def pkt (typ body value shape : Nat) : List Byte :=
  [1, BitVec.ofNat 8 typ] ++ List.replicate 6 0 ++ natToBytes 8 body ++ natToBytes 8 value ++ List.replicate 16 0 ++ natToBytes 8 shape ++ List.replicate 16 0
def shape1 : Nat := 2 ^ 22
def part0 (l : Tbl Queue) : Part := { whole with queues := l }
def queued (i : Nat) (q : Queue) : State := { sg [] with threads := [], parts := [(0, part0 [(i, q)])], dies := [(0, { fwStat := 3 })] }
/-- The same with the packet checked, ready to start. -/
def starting (i : Nat) (l : List Byte) : State := { queued i { queue0 (some l) with checked := true, zero := true } with now := 1048576 }
/-- The packet starts. -/
def starts (i typ : Nat) (l : List Byte) : Bool := match (starting i l).startable 0 i typ with | some (_, _, x) => x == l | none => false

theorem wit_QueueSteps :
    (let q := queue0 none; let s := queued 1 q
     tfind s.parts 0 = some (part0 [(1, q)]) ∧ tfind (part0 [(1, q)]).queues 1 = some q ∧ (part0 [(1, q)]).destroying = [] ∧
       (q.notified - q.read).toNat < ((16 : Word) - q.read).toNat ∧ ((16 : Word) - q.read).toNat ≤ 2 ^ q.n) ∧
    (∀ b ∈ [0, 1], let q := queue0 none; let s := known ((queued 1 q).poke (physKey 0 0x50040) (BitVec.ofNat 8 b :: (pkt 1 0x10000 0 shape1).drop 1)) 0x50040
     q.stopped = false ∧ q.read ≠ q.notified ∧ (s.die (part0 [(1, q)]).lead).fwStat = 3 ∧ q.writes = [] ∧ isGlobal (q.slot q.read) = true ∧ (∀ e ∈ s.cores, e.2.lines = []) ∧ s.ecc = [] ∧
       q.slot q.read = 0x50040 ∧ opens s 0x50040 (page0 0x50040) = true ∧ s.walkCached (homeOf (page0 0x50040) 0x50040) 0x50040 0 = true ∧ (s.byte (page0 0x50040).key).toNat % 2 = b ∧
       pktType (s.peek (page0 0x50040).key 64) = 1) ∧
    (let l := pkt 1 0x10000 0 shape1; let q := queue0 (some l); let s := queued 1 q
     q.packet = some l ∧ q.checked = false ∧ s.packetCode 0 (part0 [(1, q)]) 1 l = 0 ∧ (queued 1 q).packetCode 0 (part0 [(1, q)]) 1 (pkt 1 0x10001 0 shape1) ≠ 0 ∧
       (0 + 1048576 ≤ { s with now := 1048576 }.now) ∧ pktType (pkt 14 0 0 0) = 14) :=
  ⟨by decide +kernel, by decide +kernel, by decide +kernel⟩

theorem wit_PacketStarts :
    (let l := pkt 3 0 0 0; let s := starting 1 l
     let q := { queue0 (some l) with checked := true, zero := true }
     (s.die 0).events = [] ∧ s.parts = [(0, part0 [(1, q)])] ∧ (∀ e ∈ (part0 [(1, q)]).queues, e = (1, q) ∨ e.2.packet = none) ∧ s.canStart 0 (part0 [(1, q)]) 1 q = true ∧
       s.chooseQueue 0 (part0 [(1, q)]) = some (1, q)) ∧
    (∀ x ∈ [(1, 3, pkt 3 0 0 0), (1, 2, pkt 2 0x50000 0 0), (0, 9, pkt 9 0x600 0x30000 0), (0, 10, pkt 10 (2 + 4 * 2 ^ 16) 0x60040 0), (0, 11, pkt 11 2 0 0),
        (0, 8, pkt 8 0 0 0), (0, 8, pkt 8 1 0 0)], starts x.1 x.2.1 x.2.2 = true ∧ pktSignal x.2.2 = 0 ∧ pktIntr x.2.2 = false) ∧
    (let l := pkt 2 0x50000 0 0; let q := { queue0 (some l) with checked := true }; let s := known (queued 1 q) 0x50000
     s.queue 0 1 = some q ∧ pktType l = 2 ∧ q.zero = false ∧ s.headReady 0 1 q = true ∧ isGlobal (pktBody (pkt 2 0x50000 0 0)) = true ∧ opens s 0x50000 (page0 0x50000) = true ∧ s.walkCached (homeOf (page0 0x50000) 0x50000) 0x50000 0 = true ∧ s.getN (page0 0x50000).key 8 = 0 ∧
       (s.poke (page0 0x50000).key [1]).getN (page0 0x50000).key 8 ≠ 0) ∧
    (pktBody (pkt 9 0x600 0 0) % 2 ^ 12 = 0x600 ∧ pktBody (pkt 10 (2 + 4 * 2 ^ 16) 0 0) % 64 ≠ 0 ∧ (starting 0 (pkt 8 1 0 0)).launches = [] ∧
      ((starting 0 (pkt 8 1 0 0)).ctx 0).roll.size = 0) ∧
    (let j : Job := { queue := 0, index := 0, signal := 0, intr := false, arg := 3, sent := false }
     let s : State := { sg [] with parts := [(0, { whole with setdet := some j })] }
     s.launches = [] ∧ (∀ e ∈ s.parts, e.2.resize = none ∧ e.2.aborts = [] ∧ e.2.finishing = [] ∧ e.2.destroying = []) ∧ (s.ctx 0).level ≠ 1 ∧ (s.ctx 0).level ≠ 2) :=
  ⟨by decide +kernel, by decide +kernel, by decide +kernel, by decide +kernel, by decide +kernel⟩

theorem wit_LaunchSteps : starts 1 1 (pkt 1 0x10000 0 shape1) = true ∧
    (tfind launched.launches 3 = some launch0 ∧ launch0.aborted = false ∧ launched.levelOf launch0.ctx = 0 ∧ 0 < launch0.t ∧ launch0.t ≤ 15 ∧
      (launched.thread (2047 * 16)).launch ≠ some 3) ∧
    (let l := { launch0 with arrived := 2048 }; let s : State := { launched with launches := [(3, l)] }
     tfind s.parts l.part = some whole ∧ l.stage = 0 ∧ s.launchOver 3 = true ∧ s.launchFlights whole l = false ∧ { l with stage := 1 }.signal = 0 ∧ l.intr = false ∧ whole.aborts = []) ∧
    (let l := pkt 13 5 0 0; let s : State := { starting 0 l with launches := [(3, launch0)] }
     (match s.startable 0 0 13 with | some (_, _, x) => x == l | none => false) = true ∧ launch0.part = 0 ∧ launch0.seq = pktBody l % 2 ^ 32 ∧ launch0.stage = 0) := by
  decide +kernel

theorem wit_DriverSteps :
    (let s : State := { sg [] with dies := [(0, { elHead := 4 })], slices := [(0, { counters := [(5, { page := 5, big := false, count := 9, cand := 1, weight := 2, state := 1 })] })] }
     ((s.die 0).elTail.toNat ≤ (4 : Word).toNat ∧ (4 : Word).toNat ≤ (s.die 0).elHead.toNat) ∧ ¬ ((5 : Word).toNat ≤ (s.die 0).elHead.toNat) ∧
       (tfind (s.slice (0 * 16 + bits 5 15 12)).counters (bits 5 11 0)).isSome = true) ∧
    (let p : ParkList := { block := 0x40, token := 1, cause := 1, written := false, items := [.fetch 0 0], record := List.replicate 32 7 }
     let s : State := { sg [] with slices := [(3, { parked := [p] })], dies := [(0, { fq := { size := 4 } })] }
     (s.slice 3).parked = [p] ∧ p.record.length = 32 ∧ (s.slice 3).faultIn = [] ∧ (s.die (3 / 16)).fq.full = false ∧ s.tokenList 0 ((1 : Word).toNat % 2 ^ 32) = some (3, p) ∧
       (s.thread 0).epoch = 0 ∧ ((thrB (fun t => { t with park := some .fetch }) s).thread 0).park = some .fetch ∧ okPage s (p.block * 4096) = some (page0 0x40000, 2) ∧
       2 ^ 63 ≤ ((2 ^ 63 + 1 : Nat) : Nat) ∧ s.tokenList 0 ((2 ^ 63 + 1) % 2 ^ 32) = some (3, p)) ∧
    ((∀ e ∈ (sg []).cores, e.2.lines = []) ∧ (∀ e ∈ (sg []).slices, e.2.partials = []) ∧ (∀ e ∈ (sg []).threads, e.2.resv = none) ∧ ((sg []).die 0).invals = []) ∧
    (let s : State := { sg [] with dies := [(0, { fwStat := 3, invals := [(0x40000, 12)] })] }
     let r := reqOf .ldf 0x40000 (.global 0x40000) .loads none .waiting
     (s.die 0).invals = [(0x40000, 12)] ∧ s.oldAccess 0x40000 12 = false ∧ ({ s with reqs := [r] } : State).oldAccess 0x40000 12 = true) ∧
    ({ sg [] with parts := [] }.rectOk 63 (127 * 2 ^ 11 + 15 * 2 ^ 18) = true ∧ tfind (sg []).parts 0 = some whole ∧ (255 : Word).toNat < 256) := by
  decide +kernel

/-- An image of a core that holds nothing, in core 5's name, at 0x100000, and the state in which the core it was saved from is absent. -/
def saved0 (virt : Nat) : Saved := { name := 5, phys := 5, part := 0, ctx := 0, virt := virt, img := 0, spill := 0x300010, taken := false }
def image5 : List Byte :=
  ([0xA01, 5 + 2 ^ 16 * 5, 0, 0, 160, 0, 0, 0, 2 ^ 62 + 9216] ++ List.replicate 9 (3 * 2 ^ 62) ++ [2 ^ 62 + 16384, 3 * 2 ^ 62]).flatMap (natToBytes 8)
def imaged : State :=
  let s : State := { sg [] with saved := [(1, saved0 absentBase)], dies := [(0, { peImg := 0x100000 })] }
  { s with mem := pokeMem s.mem (physKey 0 0x100000) image5 }

theorem areaBad_of {s : State} {v : Word} {len : Nat} (h : s.areaBad v (2 ^ 20) = false) (hl : len ≤ 2 ^ 20) : s.areaBad v len = false := by
  unfold State.areaBad at *
  rw [List.any_eq_false] at *
  exact fun i m => h i (List.mem_range.mpr (by have := List.mem_range.mp m; omega))
theorem codeRuns_length (l : List (Nat × Nat)) (lit : List Nat) : (codeRuns l lit).length ≤ lit.length + 2 * (l.map (fun e => e.2)).sum + 2 := by
  have flush : ∀ lit, (codeRuns.flush lit).length ≤ lit.length + 1 := fun lit => by unfold codeRuns.flush; split <;> simp
  induction l generalizing lit with
  | nil => have := flush lit; simp only [codeRuns, List.length_append, List.length_singleton, List.map_nil, List.sum_nil]; omega
  | cons e r ih =>
    have a := flush lit
    have b := ih []
    have c := ih (List.replicate e.2 e.1 ++ lit)
    simp only [codeRuns, List.map_cons, List.sum_cons]
    simp only [List.length_append, List.length_replicate, List.length_nil] at b c
    split
    · simp only [List.length_append, List.length_cons]; omega
    · split
      · simp only [List.length_append, List.length_cons]; omega
      · omega
theorem runsOf_sum (l : List Nat) : ((runsOf l).map (fun e => e.2)).sum = l.length := by
  induction l with
  | nil => rfl
  | cons w r ih =>
    change ((show List (Nat × Nat) from match runsOf r with
      | (v, k) :: rest => if v = w then (v, k + 1) :: rest else (w, 1) :: runsOf r
      | [] => [(w, 1)]).map (fun e => e.2)).sum = r.length + 1
    split
    · rename_i v k rest h
      rw [h] at ih
      simp only [List.map_cons, List.sum_cons] at ih
      split <;> simp only [h, List.map_cons, List.sum_cons] <;> omega
    · rename_i h
      rw [h] at ih
      simp only [List.map_nil, List.sum_nil] at ih
      simp [← ih]
theorem codeSection_length (l : List Nat) : (codeSection l).length ≤ 2 * l.length + 2 := by
  have := codeRuns_length (runsOf l) []
  rw [runsOf_sum] at this
  simpa [codeSection] using this
theorem natToBytes_length (n v : Nat) : (natToBytes n v).length = n := by
  induction n generalizing v with
  | zero => rfl
  | succ n ih => simp [natToBytes, ih]
theorem words64_length (n : Nat) (l : List Byte) : (words64 n l).length = n := by simp [words64]
/-- An image of a core whose device sections and dirty regions are empty is no longer than 2^20 bytes. -/
theorem image_short {s : State} {c p x : Nat} (hd : s.deviceSections c = [[], [], [], [], []]) (he : s.engineSection c = []) (hm : (s.core c).dirty = 0) :
    (s.imageOf c p x).length ≤ 2 ^ 20 := by
  have t := codeSection_length (words64 9216 ((List.range 16).flatMap (fun i => threadRecord (s.thread (c * 16 + i)))))
  have l := codeSection_length ((List.range 32).flatMap (fun i => words64 512 (s.peek (laneKey c i 0) 4096)))
  have e : (codeSection []).length = 1 := by decide
  have n : ((List.range 32).flatMap (fun i => words64 512 (s.peek (laneKey c i 0) 4096))).length = 16384 := by
    simp [List.length_flatMap, words64_length]
  have r : ∀ k m, regionsIn 0 k m = [] := fun k m => by simp [regionsIn]
  rw [words64_length] at t
  rw [n] at l
  simp only [State.imageOf, hd, he, hm, r, List.flatMap_nil, List.length_append, natToBytes_length, bytesOf, List.length_flatMap, List.map_const',
    List.sum_replicate, List.cons_append, List.nil_append, List.flatMap_cons, List.append_nil, e, smul_eq_mul]
  omega

theorem wit_PreemptSteps :
    ((sg []).isFree 0 = false ∧ ((sg []).core 0).diverted = false ∧ (sg []).isFree 5 = true ∧ ((sg []).core 5).diverted = false ∧ ((sg []).die 0).peReqs = [] ∧
      (∀ e ∈ (sg []).dies, e.2.peReqs = [])) ∧
    (let r : PeReq := { save := true, core := 0, tag := 9, img := some 0x200000, spill := 0x300010, stage := 1 }
     let s : State := { sg [] with dies := [(0, { peReqs := [r] })] }
     (s.die 0).peReqs = [r] ∧ (s.core r.core).gated = false ∧ s.now % 16 = 0 ∧ s.unquiet r.core = false ∧ (s.core r.core).lines = [] ∧ s.Calm ∧ s.spillBad r.spill = false ∧
       s.areaBad 0x200000 (s.imageOf r.core (s.corePart r.core).1 (s.corePart r.core).2).length = false) ∧
    (let v := saved0 (absentBase + 5)
     let s : State := { sg [] with saved := [(1, v)], cores := [(absentBase + 5, { engine := { held := [(0, 3)] } })] }
     tfind s.saved 1 = some v ∧ v.taken = false ∧ v.img = 0 ∧ v.phys < absentBase ∧ absentBase ≤ v.virt ∧ v.virt % absentBase = 5 ∧ s.levelOf v.ctx ≠ 3 ∧
       (s.core v.virt).engine.task = none ∧ (s.core v.virt).engine.held ≠ [] ∧ s.tileCmds = [] ∧ (s.core 5).engine.out = false ∧ (s.core 5).halted = false ∧
       (s.core 5).engine.task = none ∧ (s.core 5).engine.held = [] ∧ tfind s.parts v.part = some whole ∧ 5 ∈ whole.cores ∧ whole.phys 5 = 5) ∧
    (let d := coreB (fun c => { c with diverted := true }) (sg []); (d.core 0).diverted = true ∧ (d.core 0).spilled = [] ∧
      (let e : Spilled := { step := .messageArrival 9, came := 150, port := 0, flits := 2 }
       ((coreB (fun c => { c with spilled := [e] }) d).core 0).spilled = [e]) ∧
      (let r : PeReq := { save := false, core := 0, tag := 9, img := some 0x200000, spill := 0, stage := 5 }
       let u : State := { d with dies := [(0, { peReqs := [r] })] }
       (u.core 0).diverted = true ∧ (u.core 0).spilled = [] ∧ (u.die 0).peReqs = [r] ∧ ∀ e ∈ u.dies, e.2.peReqs.length ≤ 1)) ∧
    (let s : State := { sg [] with dies := [(0, { installs := [(0, 3, 2 ^ 63 + 5)] })] }; (s.die 0).installs = [(0, 3, 2 ^ 63 + 5)] ∧ (tfind s.parts 0).isSome = true) ∧
    (let s : State := { sg [] with threads := [], now := 4096 }
     isMem 0 = false ∧ (∀ e ∈ s.parts, s.levelOf e.2.ctx ≠ 3) ∧ (s.core 0).halted = false ∧ (s.core 0).diverted = false ∧ s.enginesIdle 0 = true ∧
       (∀ i, i < 16 → s.ready (0 * 16 + i) = false) ∧ (s.core 0).quiet + 2048 ≤ s.now ∧ (∀ i, i < 16 → (s.thread (0 * 16 + i)).lastIssue = none)) ∧
    (∀ x ∈ [2 ^ 11, 0], let l := pkt 12 x 0 0; let q := { queue0 (some l) with checked := true }; let p := { whole with w := 2, h := 1, queues := [(0, q)] }
     let s : State := { starting 0 l with parts := [(0, p)] }
     (match s.startable 0 0 12 with | some (_, _, y) => y == l | none => false) = true ∧ pktSignal l = 0 ∧ pktIntr l = false ∧ p.resize = none ∧
       p.leaving x = (if x = 0 then [16] else []) ∧ ((p.leaving x).filter (fun c => !s.isFree c && !p.remap.any (fun e => e.2.1 == s.nameOf c))).length + p.remap.length ≤ 16) :=
  ⟨by decide +kernel, ⟨by decide +kernel, by decide +kernel, by decide +kernel, by decide +kernel, by decide +kernel, calm_of (by decide +kernel), by decide +kernel,
    areaBad_of (by decide +kernel) (image_short (by decide +kernel) (by decide +kernel) (by decide +kernel))⟩,
    by decide +kernel, by decide +kernel, by decide +kernel, by decide +kernel, by decide +kernel⟩

/-- The image of an absent core is read back. -/
theorem wit_PreemptSteps_image : ((∀ e ∈ imaged.cores, e.2.lines = []) ∧ imaged.ecc = [] ∧ imaged.spillBad 0x300010 = false ∧
      imaged.areaBad (imaged.die 0).peImg (max (min (fieldOf (imaged.peek (areaKey (imaged.die 0).peImg) 64) 32 8) Config.imageArea) 64) = false) ∧
    (let key := areaKey (imaged.die 0).peImg
     match decodeImage (imaged.peek key (max (min (fieldOf (imaged.peek key 64) 32 8) Config.imageArea) 64)) with
     | some x => (match imaged.savedOf x.name x.part x.phys with | some (_, v) => imaged.resumeOk 5 v | none => false)
     | none => false) = true :=
  ⟨by decide +kernel, by decide +kernel⟩

/-- A roll of 2^12 records at 0x60000, at a level. -/
def rolling (level : Nat) (f : Roll → Roll) : State := ctxB (fun c => { c with level := level, roll := f { base := 0x60000, size := 12, lowPosted := true } }) (sg [])

theorem wit_RollSteps :
    (let x := mkRecord 2 0 0 0 0 1 5; let s := rolling 1 (fun r => { r with unwritten := [x, x] }); let r := (s.ctx 0).roll
     s.nextRecord 0 r.unwritten = some (x, [x]) ∧ r.parked = false ∧ (r.head - r.tail).toNat < 2 ^ r.size ∧ r.lowPosted = true ∧ s.Calm ∧
       s.OpenPage (r.addr r.head.toNat) (page0 0x60000)) ∧
    (let s := (rolling 2 (fun r => { r with opened := true, tail := 4 })).poke (physKey 0 0x60000) (natToBytes 16 (mkRecord 4 0 0 0 0 1 0x40000).toNat); let r := (s.ctx 0).roll
     (s.ctx 0).level = 2 ∧ r.parked = false ∧ r.bad = false ∧ r.closed = false ∧ r.opened = true ∧ r.head ≠ r.tail ∧ r.lowPosted = true ∧ (∀ e ∈ s.cores, e.2.lines = []) ∧
       s.ecc = [] ∧ r.queues = [] ∧ opens s (r.addr r.head.toNat) (page0 0x60000) = true ∧ recType (BitVec.ofNat 128 (s.getN (page0 0x60000).key 16)) = 4) ∧
    (let r := (rolling 1 (fun r => { r with head := 9, tail := 5 })).ctx 0; r.roll.tail.toNat ≤ (9 : Word).toNat ∧ (9 : Word).toNat ≤ r.roll.head.toNat ∧ ¬ ((10 : Word).toNat ≤ r.roll.head.toNat)) :=
  ⟨⟨by decide +kernel, by decide +kernel, by decide +kernel, by decide +kernel, calm_of (by decide +kernel), open_of (by decide +kernel)⟩, by decide +kernel, by decide +kernel⟩

/-- The small state with a second GiB whose page takes atomics of system scope, and a transmit and a receive ring at 0x70000. -/
def fabric : State :=
  let s := (sg []).poke (physKey 0 0x2008) (natToBytes 8 (2 ^ 30 + 2 ^ 9 + 3))
  { s with eths := [(0, { base := 0x70000, n := 4, next := 0 }), (1, { base := 0x70000, n := 4, next := 0 })] }
/-- A descriptor of a buffer at 0x80000, of a length, given to the ring. -/
def described (len : Nat) : State := fabric.poke (physKey 0 0x70000) (natToBytes 8 0x80000 ++ natToBytes 2 len ++ [1, 0, 0, 0, 0, 0])

theorem wit_FabricSteps :
    (let x : HostAccess := { aperture := 0, offset := 0x40000, size := 8, write := none }
     let y : HostAccess := { aperture := 3, offset := 2 ^ 30, size := 8, write := some 5 }
     let pg : Page := { page0 (2 ^ 30) with sysatom := true }
     fabric.hostVa x = some 0x40000 ∧ fabric.OpenPage 0x40000 (page0 0x40000) ∧ fabric.hostHeld = [] ∧
       fabric.Calm ∧ fabric.hostVa y = some (2 ^ 30) ∧ fabric.OpenPage (2 ^ 30) pg ∧ pg.sysatom = true ∧ pg.cls ≠ 2 ∧
       (9 : BitVec 4).toNat < 10) ∧
    (let e : Word := BitVec.ofNat 64 (3 * 2 ^ 62 + 2 ^ 33 + 2 ^ 25 + 1 * 2 ^ 14); let d : Word := BitVec.ofNat 64 (1 * 2 ^ 62 + 2 ^ 33)
     let s : State := { fabric with windows := [(0, e), (1, d)] }; let t : State := { s with reductions := [(64, 4, 9)] }
     (windowKind (tget 0 s.windows 0).toNat = 3 ∧ bits e.toNat 29 25 + 1 = 2) ∧ (byModule ((s.reductions ++ [(64, 3, 5)]).filter (fun x => x.1 == 64))).length < 2 ∧
       ((∀ x ∈ t.reductions, ¬ (x.1 = 64 ∧ x.2.1 = 3)) ∧ 2 ≤ (byModule ((t.reductions ++ [(64, 3, 5)]).filter (fun x => x.1 == 64))).length ∧ bits e.toNat 21 14 = 1 ∧
       windowKind (tget 0 s.windows 1).toNat = 1) ∧ t.Calm) ∧
    ({ fabric with clockLock := true }.clockLock = true ∧ fabric.lastCorr = none) ∧
    (∀ len ∈ [0, 100, 9217], let s := described len
      s.ethDead 0 = false ∧ opens s 0x70000 (page0 0x70000) = true ∧ opens s 0x70008 (page0 0x70008) = true ∧ opens s 0x80000 (page0 0x80000) = true ∧ (s.byte ((page0 0x70000).key + 10)).toNat % 2 = 1 ∧ s.getN ((page0 0x70000).key + 12) 4 = 0 ∧
        (page0 0x70008).key = (page0 0x70000).key + 8 ∧ s.getN ((page0 0x70000).key + 8) 2 = len ∧
        (tfind s.eths 0).isSome = true ∧ (tfind s.eths 1).isSome = true ∧ s.getN (page0 0x70000).key 8 = 0x80000 ∧ (len ≤ 9216 → ∀ e ∈ blocks 0x80000 len 4, e = (0x80000, len)) ∧
        okPage (s.poke (page0 0x80000).key [1, 2, 3]) 0x70008 = some (page0 0x70008, 2) ∧
        (∀ i, i < [1, 2, 3].length → (page0 0x80000).key + i < (page0 0x70000).key ∨ (page0 0x70000).key + 16 ≤ (page0 0x80000).key + i)) ∧
    ((described 0).Calm ∧ ({ fabric with fenced := [.port 24] } : State).ethDead 0 = true) :=
  ⟨⟨by decide +kernel, open_of (by decide +kernel), by decide +kernel, calm_of (by decide +kernel), by decide +kernel, open_of (by decide +kernel),
    by decide +kernel, by decide +kernel, by decide⟩, ⟨by decide +kernel, by decide +kernel, by decide +kernel, calm_of (by decide +kernel)⟩, by decide +kernel,
    by decide +kernel, calm_of (by decide +kernel), by decide +kernel⟩

theorem wit_BringUpSteps :
    (State.reset.busStat < 6 ∧ (let s : State := { State.reset with busStat := 4, dies := (List.range 32).map (fun d => (d, { fwStat := 3 })) }
      s.busStat < 6 ∧ (∀ d, d < 32 → (s.die d).fwStat = 3)) ∧
    (State.reset.die 31).fwStat ≠ 1 ∧ (State.reset.die 31).fwStat ≠ 3 ∧ ({ State.reset with dies := [(0, { fwStat := 1 })] }.die 0).fwStat = 1 ∧
    scrubbed (physKey 0 0x40000) = true ∧ scrubbed (coreKey 0 8) = true ∧ State.reset.pend = [] ∧ scrubbed 0 = false) ∧
    (let s := sg []; let u : State := { s with banks := [{ server := .pad 0 1, served := some s.now }] }
     s.scrubServer (coreKey 0 8) = some (.pad 0 1) ∧ (s.bank (.pad 0 1)).served ≠ some s.now ∧ (s.bank (.pad 0 1)).short ≠ some s.now ∧ (u.bank (.pad 0 1)).served = some u.now) ∧
    (sg []).HasHandler :=
  ⟨by decide +kernel, by decide +kernel, handler_of (by decide +kernel)⟩

theorem wit_IllegalForms : (Instr.viota 0 1 3).wf = false ∧ (sg []).HasHandler := ⟨by decide +kernel, handler_of (by decide +kernel)⟩

theorem wit_OperandStates :
    let s := st { thr [] with g := [(1, ⟨0, .void⟩), (2, ⟨0, .pending⟩), (3, ⟨0, .full⟩), (4, ⟨8, .errorMark⟩), (5, ⟨8, .refusalMark⟩), (6, ⟨8, .divergeMark⟩)] }
    let x : Issue := { len := 4, srcs := [gRef 3], dsts := [gRef 2] }
    s.HasHandler ∧ s.Ready [gRef 3] [gRef 3] ∧ ({ x with legal := false } : Issue).legal = false ∧ x.legal = true ∧ s.me.level.reaches x.min = true ∧
    s.me.level.reaches .S = false ∧
    (∀ e ∈ [(1, RegState.void), (4, .errorMark), (5, .refusalMark), (6, .divergeMark)], [gRef e.1].find? (fun r => (s.me.stOf r).empty) = some (gRef e.1) ∧ s.me.stOf (gRef e.1) = e.2) ∧
    (∀ r ∈ [gRef 2], (s.me.stOf r).empty = false) ∧ [gRef 2].find? (fun r => (s.me.stOf r).waits) = some (gRef 2) ∧ (∀ r ∈ x.srcs, (s.me.stOf r).empty = false) ∧
    (∀ r ∈ x.srcs, (s.me.stOf r).waits = false) ∧ x.dsts.find? (fun r => (s.me.stOf r).waits) = some (gRef 2) ∧
    s.me.stOf (gRef 2) = .pending ∧ (s.me.stOf (gRef 3)).empty = false :=
  ⟨handler_of (by decide +kernel), ready_of (by decide +kernel), by decide +kernel⟩

/-- Whose turn it is, and what it fetches. -/
def turn (s : State) : Option Nat := match s.liveCores.findSome? s.turnsOf with | some (.thread t) => some t | _ => none
def lends (s : State) : Option Nat := match s.liveCores.findSome? s.turnsOf with | some (.lend c) => some c | _ => none
def fetches (s : State) (w len : Nat) : Bool := match s.fetch with | (.code x n, f) => x == w && n == len && f.debugMatch.isNone | _ => false

theorem wit_StepRunsDecoded :
    (let s := State.reset.withFetchWord 32 0x01669201
     s.agenda = [] ∧ s.nextDue = none ∧ turn s = some 0 ∧ (s.thread 0).word = none ∧ (s.thread 0).startFault = none ∧ fetches { s with cur := 0 } 0x01669201 4 = true ∧ (decode32 0x01669201).isSome = true ∧
       decode32 0xFFFFFF81 = none ∧ fetches { State.reset.withFetchWord 32 0xFFFFFF81 with cur := 0 } 0xFFFFFF81 4 = true) ∧
    (let s := thrB (fun t => { t with word := some 0x01669201 }) (State.reset.withFetchWord 32 0x01669201)
     s.agenda = [] ∧ s.nextDue = none ∧ turn s = some 0 ∧ (s.thread 0).startFault = none ∧ (s.thread 0).word = some (BitVec.ofNat 32 0x01669201)) ∧
    ((State.reset.agenda = [] ∧ State.reset.nextDue = none ∧ turn State.reset = none ∧ (State.reset.dueOf 2 State.reset.pend).isNone = true) ∧
    (let s : State := { sg [] with now := 161 }; s.agenda = [] ∧ s.nextDue = none ∧ lends s = some 0)) ∧
    ((let s : State := { sg [] with threads := [], pend := [(100, .stealRequest 0 1)] }
     s.nextDue = none ∧ turn s = none ∧ lends s = none ∧ (match s.dueOf 2 s.pend with | some (.stealRequest 0 1, l) => l.isEmpty | _ => false) = true) ∧
    (((sg []).thread 0).park.isNone = true ∧ ((thrB (fun t => { t with park := some .plb }) (sg [])).thread 0).park.isNone = false) ∧
    let s : State := { sg [] with pend := [(100, .coreWake 0), (200, .coreWake 1)] }; (match s.nextDue with | some (.coreWake 0, l) => l.length == 1 | _ => false) = true) ∧
    (let s := State.reset.withFetchWord 32 0x01669201
     (s.me.inLoop = false ∧ s.ecc = [] ∧ s.was = [] ∧ ∀ e ∈ s.cores, e.2.lines = []) ∧ s.CodeAt s.me.pc.toNat 2 (natToBytes 4 0x01669201)) ∧
    (looping 2).me.loop.isSome = true ∧ (looping 2).me.inLoop = true :=
  ⟨by decide +kernel, by decide +kernel, by decide +kernel, by decide +kernel,
    ⟨by decide +kernel, code_of (by decide +kernel)⟩, by decide +kernel, by decide +kernel⟩

theorem wit_DecodeEncode : (Instr.add 44 52 36).wf = true ∧ 0 < (Instr.add 44 52 36).size ∧ (Instr.mv 31 0).wf = true ∧ 0 < (Instr.mv 31 0).size := by decide +kernel

theorem wit_StepKeepsMemory : (sg [(1, 7)]).Inv ∧ (match step (State.reset.withFetchWord 32 0x01669201) with | .next _ => true | _ => false) = true := by
  refine ⟨?_, by decide +kernel⟩
  unfold State.Inv
  decide +kernel

theorem wit_ProgramsLeaveManagement : 0 < (Instr.std 0 0 0 1 2).size ∧ (match exec (.std 0 0 0 1 2) near with | .next _ => true | _ => false) = true := by
  decide +kernel

theorem wit_NoRefusal : (∀ w, Instr.add 1 2 3 = .scrubRead w → scrubbed w = true) ∧
    (∀ w, scrubbed w = false → .scrubRead w ∉ (sg []).agenda ∧ ∀ e ∈ (sg []).pend, e.2 ≠ .scrubRead w) := by
  refine ⟨fun w h => (by cases h), fun w _ => ?_⟩
  have a : (sg []).agenda = [] := by decide +kernel
  have b : (sg []).pend = [] := by decide +kernel
  rw [a, b]
  exact ⟨fun h => (by cases h), fun e h => (by cases h)⟩

end Sys2Proof.Tests
end

section
/-!
PROOFS. Decoding undoes encoding (04 R48, R53-R71): a code word is its fields from bit 0 up, the decoder's tests and operands are fields of it.
-/

namespace Sys2Proof.Laws
open Sys2Proof Sys2Proof.Machine

/-! ## A code word as its fields -/

/-- A code word with the field `v` in its lowest bits and `r` in the bits above. -/
def pack {n : Nat} (v : BitVec n) (r : Nat) : Nat := v.toNat + 2 ^ n * r

theorem pack_div {n : Nat} (v : BitVec n) (r : Nat) : pack v r / 2 ^ n = r := by
  rw [pack, Nat.add_mul_div_left _ _ (Nat.two_pow_pos n), Nat.div_eq_of_lt v.isLt, Nat.zero_add]

theorem pack_mod {n : Nat} (v : BitVec n) (r : Nat) : pack v r % 2 ^ n = v.toNat := by
  rw [pack, Nat.add_mul_mod_self_left, Nat.mod_eq_of_lt v.isLt]

theorem pack_div_above {n lo : Nat} (v : BitVec n) (r : Nat) (h : n ≤ lo) : pack v r / 2 ^ lo = r / 2 ^ (lo - n) := by
  obtain ⟨k, rfl⟩ := Nat.exists_eq_add_of_le h
  rw [Nat.pow_add, ← Nat.div_div_eq_div_mul, pack_div, Nat.add_sub_cancel_left]

theorem pack_div_below {n lo : Nat} (v : BitVec n) (r : Nat) (h : lo ≤ n) :
    pack v r / 2 ^ lo = v.toNat / 2 ^ lo + 2 ^ (n - lo) * r := by
  obtain ⟨k, rfl⟩ := Nat.exists_eq_add_of_le h
  rw [pack, Nat.pow_add, Nat.mul_assoc, Nat.add_mul_div_left _ _ (Nat.two_pow_pos lo), Nat.add_sub_cancel_left]

/-- A number in two parts, the low one below `m`, is another when both parts are that one's. -/
theorem add_mul_eq_iff {m a r c : Nat} (h : a < m) : a + m * r = c ↔ a = c % m ∧ r = c / m := by
  constructor
  · rintro rfl
    rw [Nat.add_mul_mod_self_left, Nat.mod_eq_of_lt h, Nat.add_mul_div_left _ _ (Nat.zero_lt_of_lt h), Nat.div_eq_of_lt h, Nat.zero_add]
    exact ⟨rfl, rfl⟩
  · rintro ⟨rfl, rfl⟩
    exact Nat.mod_add_div c m

theorem toNat_div_lt {n lo : Nat} (v : BitVec n) (h : lo ≤ n) : v.toNat / 2 ^ lo < 2 ^ (n - lo) := by
  rw [Nat.div_lt_iff_lt_mul (Nat.two_pow_pos lo), ← Nat.pow_add, Nat.sub_add_cancel h]
  exact v.isLt

theorem pack_eq_iff {n c : Nat} (v : BitVec n) (r : Nat) : pack v r = c ↔ v.toNat = c % 2 ^ n ∧ r = c / 2 ^ n :=
  add_mul_eq_iff v.isLt

@[simp] theorem bits_zero (hi lo : Nat) : bits 0 hi lo = 0 := by simp [bits]

/-- A range above the lowest field is one of the fields above. -/
@[simp] theorem bits_pack_above {n hi lo : Nat} (v : BitVec n) (r : Nat) (h : n ≤ lo) (h' : lo ≤ hi) :
    bits (pack v r) hi lo = bits r (hi - n) (lo - n) := by
  rw [bits, bits, pack_div_above v r h, ← Nat.sub_add_comm (h.trans h'), Nat.sub_sub_sub_cancel_right h]

/-- A range within the lowest field. -/
@[simp] theorem bits_pack_within {n hi lo : Nat} (v : BitVec n) (r : Nat) (h : hi < n) (h' : lo ≤ hi) :
    bits (pack v r) hi lo = v.toNat / 2 ^ lo % 2 ^ (hi + 1 - lo) := by
  have e : n - lo = (hi + 1 - lo) + (n - (hi + 1)) := by omega
  rw [bits, pack_div_below v r (by omega), e, Nat.pow_add, Nat.mul_assoc, Nat.add_mul_mod_self_left]

/-- A range that starts in the lowest field and ends above it holds a number when each part holds its bits of the number. -/
@[simp] theorem bits_pack_across {n hi lo c : Nat} (v : BitVec n) (r : Nat) (h : lo < n) (h' : n ≤ hi) :
    bits (pack v r) hi lo = c ↔ v.toNat / 2 ^ lo = c % 2 ^ (n - lo) ∧ bits r (hi - n) 0 = c / 2 ^ (n - lo) := by
  have e : hi + 1 - lo = (n - lo) + (hi - n + 1) := by omega
  have hlt := toNat_div_lt v h.le
  rw [← add_mul_eq_iff hlt, bits, bits, pack_div_below v r h.le, e, Nat.pow_add, Nat.mod_mul, Nat.add_mul_mod_self_left, Nat.mod_eq_of_lt hlt,
    Nat.add_mul_div_left _ _ (Nat.two_pow_pos _), Nat.div_eq_of_lt hlt, Nat.zero_add, Nat.pow_zero, Nat.div_one, Nat.sub_zero]

@[simp] theorem fld_pack_above {n k lo : Nat} (v : BitVec n) (r : Nat) (h : n ≤ lo) : fld k (pack v r) lo = fld k r (lo - n) := by
  rw [fld, fld, pack_div_above v r h]

@[simp] theorem fld_pack_first {n : Nat} (v : BitVec n) (r : Nat) : fld n (pack v r) 0 = v := by
  rw [fld, Nat.pow_zero, Nat.div_one, ← BitVec.toNat_inj, BitVec.toNat_ofNat, pack_mod]

/-! ## Bytes -/

theorem natToBytes_length (n v : Nat) : (natToBytes n v).length = n := by
  induction n generalizing v with
  | zero => rfl
  | succ n ih => simp [natToBytes, ih]

/-! ## The majors (R68) -/

@[simp] theorem decode32_of_major00 (r : Nat) : decode32 (pack 1#7 r) = decodeMajor00 (pack 1#7 r) := by simp [decode32]
@[simp] theorem decode32_of_major01 (r : Nat) : decode32 (pack 3#7 r) = decodeMajor01 (pack 3#7 r) := by simp [decode32]
@[simp] theorem decode32_of_major02 (r : Nat) : decode32 (pack 5#7 r) = decodeMajor02 (pack 5#7 r) := by simp [decode32]
@[simp] theorem decode32_of_major03 (r : Nat) : decode32 (pack 7#7 r) = decodeMajor03 (pack 7#7 r) := by simp [decode32]
@[simp] theorem decode32_of_major04 (r : Nat) : decode32 (pack 9#7 r) = decodeMajor04 (pack 9#7 r) := by simp [decode32]
@[simp] theorem decode32_of_major05 (r : Nat) : decode32 (pack 11#7 r) = decodeMajor05 (pack 11#7 r) := by simp [decode32]
@[simp] theorem decode32_of_major08 (r : Nat) : decode32 (pack 17#7 r) = decodeMajor08 (pack 17#7 r) := by simp [decode32]
@[simp] theorem decode32_of_major06 (r : Nat) : decode32 (pack 13#7 r) = decodeMajor06 (pack 13#7 r) := by simp [decode32]
@[simp] theorem decode32_of_major07 (r : Nat) : decode32 (pack 15#7 r) = decodeMajor07 (pack 15#7 r) := by simp [decode32]
@[simp] theorem decode32_of_major09 (r : Nat) : decode32 (pack 19#7 r) = decodeMajor09 (pack 19#7 r) := by simp [decode32]
@[simp] theorem decode32_of_major0A (r : Nat) : decode32 (pack 21#7 r) = decodeMajor0A (pack 21#7 r) := by simp [decode32]
@[simp] theorem decode32_of_major0B (r : Nat) : decode32 (pack 23#7 r) = decodeMajor0B (pack 23#7 r) := by simp [decode32]
@[simp] theorem decode32_of_major20 (r : Nat) : decode32 (pack 65#7 r) = decodeMajor20 (pack 65#7 r) := by simp [decode32]
@[simp] theorem decode32_of_major21 (r : Nat) : decode32 (pack 67#7 r) = decodeMajor21 (pack 67#7 r) := by simp [decode32]
@[simp] theorem decode32_of_major22 (r : Nat) : decode32 (pack 69#7 r) = decodeMajor22 (pack 69#7 r) := by simp [decode32]
@[simp] theorem decode32_of_major23 (r : Nat) : decode32 (pack 71#7 r) = decodeMajor23 (pack 71#7 r) := by simp [decode32]
@[simp] theorem decode32_of_major24 (r : Nat) : decode32 (pack 73#7 r) = decodeMajor24 (pack 73#7 r) := by simp [decode32]
@[simp] theorem decode32_of_major25 (r : Nat) : decode32 (pack 75#7 r) = decodeMajor25 (pack 75#7 r) := by simp [decode32]
@[simp] theorem decode32_of_major28 (r : Nat) : decode32 (pack 81#7 r) = decodeMajor28 (pack 81#7 r) := by simp [decode32]
@[simp] theorem decode32_of_major29 (r : Nat) : decode32 (pack 83#7 r) = decodeMajor29 (pack 83#7 r) := by simp [decode32]
@[simp] theorem decode32_of_major2A (r : Nat) : decode32 (pack 85#7 r) = decodeMajor2A (pack 85#7 r) := by simp [decode32]
@[simp] theorem decode32_of_major10 (r : Nat) : decode32 (pack 33#7 r) = decodeMajor10 (pack 33#7 r) := by simp [decode32]
@[simp] theorem decode32_of_major11 (r : Nat) : decode32 (pack 35#7 r) = decodeMajor11 (pack 35#7 r) := by simp [decode32]
@[simp] theorem decode32_of_major12 (r : Nat) : decode32 (pack 37#7 r) = decodeMajor12 (pack 37#7 r) := by simp [decode32]
@[simp] theorem decode32_of_major13 (r : Nat) : decode32 (pack 39#7 r) = decodeMajor13 (pack 39#7 r) := by simp [decode32]
@[simp] theorem decode32_of_major14 (r : Nat) : decode32 (pack 41#7 r) = decodeMajor14 (pack 41#7 r) := by simp [decode32]
@[simp] theorem decode32_of_major15 (r : Nat) : decode32 (pack 43#7 r) = decodeMajor15 (pack 43#7 r) := by simp [decode32]
@[simp] theorem decode32_of_major16 (r : Nat) : decode32 (pack 45#7 r) = decodeMajor16 (pack 45#7 r) := by simp [decode32]
@[simp] theorem decode32_of_major17 (r : Nat) : decode32 (pack 47#7 r) = decodeMajor17 (pack 47#7 r) := by simp [decode32]
@[simp] theorem decode32_of_major18 (r : Nat) : decode32 (pack 49#7 r) = decodeMajor18 (pack 49#7 r) := by simp [decode32]
@[simp] theorem decode32_of_major19 (r : Nat) : decode32 (pack 51#7 r) = decodeMajor19 (pack 51#7 r) := by simp [decode32]
@[simp] theorem decode32_of_major1A (r : Nat) : decode32 (pack 53#7 r) = decodeMajor1A (pack 53#7 r) := by simp [decode32]
@[simp] theorem decode32_of_major1B (r : Nat) : decode32 (pack 55#7 r) = decodeMajor1B (pack 55#7 r) := by simp [decode32]
@[simp] theorem decode32_of_major1C (r : Nat) : decode32 (pack 57#7 r) = decodeMajor1C (pack 57#7 r) := by simp [decode32]
@[simp] theorem decode32_of_major1D (r : Nat) : decode32 (pack 59#7 r) = decodeMajor1D (pack 59#7 r) := by simp [decode32]
@[simp] theorem decode32_of_major1E (r : Nat) : decode32 (pack 61#7 r) = decodeMajor1E (pack 61#7 r) := by simp [decode32]
@[simp] theorem decode32_of_major1F (r : Nat) : decode32 (pack 63#7 r) = decodeMajor1F (pack 63#7 r) := by simp [decode32]
@[simp] theorem decode32_of_major27 (r : Nat) : decode32 (pack 79#7 r) = decodeMajor27 (pack 79#7 r) := by simp [decode32]
@[simp] theorem decode32_of_major30 (r : Nat) : decode32 (pack 97#7 r) = decodeMajor30 (pack 97#7 r) := by simp [decode32]
@[simp] theorem decode32_of_major31 (r : Nat) : decode32 (pack 99#7 r) = decodeMajor31 (pack 99#7 r) := by simp [decode32]
@[simp] theorem decode32_of_major35 (r : Nat) : decode32 (pack 107#7 r) = decodeMajor35 (pack 107#7 r) := by simp [decode32]
@[simp] theorem decode32_of_major32 (r : Nat) : decode32 (pack 101#7 r) = decodeMajor32 (pack 101#7 r) := by simp [decode32]
@[simp] theorem decode32_of_major33 (r : Nat) : decode32 (pack 103#7 r) = decodeMajor33 (pack 103#7 r) := by simp [decode32]
@[simp] theorem decode32_of_major34 (r : Nat) : decode32 (pack 105#7 r) = decodeMajor34 (pack 105#7 r) := by simp [decode32]
@[simp] theorem decode32_of_major38 (r : Nat) : decode32 (pack 113#7 r) = decodeMajor38 (pack 113#7 r) := by simp [decode32]
@[simp] theorem decode32_of_major39 (r : Nat) : decode32 (pack 115#7 r) = decodeMajor39 (pack 115#7 r) := by simp [decode32]
@[simp] theorem decode32_of_major3A (r : Nat) : decode32 (pack 117#7 r) = decodeMajor3A (pack 117#7 r) := by simp [decode32]
@[simp] theorem decode32_of_major3B (r : Nat) : decode32 (pack 119#7 r) = decodeMajor3B (pack 119#7 r) := by simp [decode32]
@[simp] theorem decode32_of_major3C (r : Nat) : decode32 (pack 121#7 r) = decodeMajor3C (pack 121#7 r) := by simp [decode32]

/-- The decoder reads an instruction back from its bytes, whatever stands behind them. -/
def Decodes (i : Instr) : Prop := ∀ r, decode (encode i ++ r) = .ok (i, r)

theorem Decodes.short {i : Instr} {w : Nat} (hf : WordFits.Statement i) (hs : i.size = 2) (hw : i.word = w) (h : decode16 w = some i) : Decodes i := by
  obtain ⟨hlt, heven, -⟩ := hf
  rw [hs, hw] at hlt
  have heven := hw ▸ heven hs
  have hv : w % 256 + 256 * (w / 256 % 256) = w := by omega
  intro r
  simp [encode, hs, natToBytes, decode, hv, isShort, heven, hw, h]

theorem Decodes.long {i : Instr} {w : Nat} (hf : WordFits.Statement i) (hs : i.size = 4) (hw : i.word = w) (h : decode32 w = some i) : Decodes i := by
  obtain ⟨hlt, -, hodd⟩ := hf
  rw [hs, hw] at hlt
  have hodd := hw ▸ hodd hs
  have hb : (w % 256 + 256 * (w / 256 % 256)) % 2 = 1 := by omega
  have hv : w % 256 + 256 * (w / 256 % 256) + 65536 * (w / 256 / 256 % 256 + 256 * (w / 256 / 256 / 256 % 256)) = w := by omega
  intro r
  simp [encode, hs, natToBytes, decode, isShort, hb, hv, hw, h]

theorem bezOk_iff {i d : BitVec 5} : bezOk i d = true ↔ (d.toNat = 0 → ¬ i.toNat = 0) := by
  have h0 (x : BitVec 5) : x.toNat = 0 ↔ x = 0 := by rw [← BitVec.toNat_inj]; rfl
  simp only [h0, bezOk, Bool.not_eq_true', Bool.and_eq_false_imp, beq_iff_eq, beq_eq_false_iff_ne]
  tauto

/-! ## The instructions: each one's fields from bit 0 up, and its row in the decoder -/

/-! ### The halfwords (R71) -/

theorem Decodes.mv (s : BitVec 5) (d : BitVec 5) : Decodes (.mv s d) :=
  .short (WordFits.mv s d) rfl (w := pack 0#5 (pack d (pack s (pack 0#1 0))))
    (by dsimp only [pack, Instr.word, BitVec.reduceToNat]; omega) (by simp [decode16, pack_eq_iff])
theorem Decodes.li (i : BitVec 5) (d : BitVec 5) : Decodes (.li i d) :=
  .short (WordFits.li i d) rfl (w := pack 0#5 (pack d (pack i (pack 1#1 0))))
    (by dsimp only [pack, Instr.word, BitVec.reduceToNat]; omega) (by simp [decode16, pack_eq_iff])
theorem Decodes.addC16 (s : BitVec 5) (d : BitVec 5) : Decodes (.addC16 s d) :=
  .short (WordFits.addC16 s d) rfl (w := pack 2#5 (pack d (pack s (pack 0#1 0))))
    (by dsimp only [pack, Instr.word, BitVec.reduceToNat]; omega) (by simp [decode16, pack_eq_iff])
theorem Decodes.addiC16 (i : BitVec 5) (d : BitVec 5) : Decodes (.addiC16 i d) :=
  .short (WordFits.addiC16 i d) rfl (w := pack 2#5 (pack d (pack i (pack 1#1 0))))
    (by dsimp only [pack, Instr.word, BitVec.reduceToNat]; omega) (by simp [decode16, pack_eq_iff])
theorem Decodes.subC16 (s : BitVec 5) (d : BitVec 5) : Decodes (.subC16 s d) :=
  .short (WordFits.subC16 s d) rfl (w := pack 4#5 (pack d (pack s (pack 0#1 0))))
    (by dsimp only [pack, Instr.word, BitVec.reduceToNat]; omega) (by simp [decode16, pack_eq_iff])
theorem Decodes.subi (i : BitVec 5) (d : BitVec 5) : Decodes (.subi i d) :=
  .short (WordFits.subi i d) rfl (w := pack 4#5 (pack d (pack i (pack 1#1 0))))
    (by dsimp only [pack, Instr.word, BitVec.reduceToNat]; omega) (by simp [decode16, pack_eq_iff])
theorem Decodes.andC16 (s : BitVec 5) (d : BitVec 5) : Decodes (.andC16 s d) :=
  .short (WordFits.andC16 s d) rfl (w := pack 6#5 (pack d (pack s (pack 0#1 0))))
    (by dsimp only [pack, Instr.word, BitVec.reduceToNat]; omega) (by simp [decode16, pack_eq_iff])
theorem Decodes.andiC16 (i : BitVec 5) (d : BitVec 5) : Decodes (.andiC16 i d) :=
  .short (WordFits.andiC16 i d) rfl (w := pack 6#5 (pack d (pack i (pack 1#1 0))))
    (by dsimp only [pack, Instr.word, BitVec.reduceToNat]; omega) (by simp [decode16, pack_eq_iff])
theorem Decodes.orC16 (s : BitVec 5) (d : BitVec 5) : Decodes (.orC16 s d) :=
  .short (WordFits.orC16 s d) rfl (w := pack 8#5 (pack d (pack s (pack 0#1 0))))
    (by dsimp only [pack, Instr.word, BitVec.reduceToNat]; omega) (by simp [decode16, pack_eq_iff])
theorem Decodes.oriC16 (i : BitVec 5) (d : BitVec 5) : Decodes (.oriC16 i d) :=
  .short (WordFits.oriC16 i d) rfl (w := pack 8#5 (pack d (pack i (pack 1#1 0))))
    (by dsimp only [pack, Instr.word, BitVec.reduceToNat]; omega) (by simp [decode16, pack_eq_iff])
theorem Decodes.xorC16 (s : BitVec 5) (d : BitVec 5) : Decodes (.xorC16 s d) :=
  .short (WordFits.xorC16 s d) rfl (w := pack 10#5 (pack d (pack s (pack 0#1 0))))
    (by dsimp only [pack, Instr.word, BitVec.reduceToNat]; omega) (by simp [decode16, pack_eq_iff])
theorem Decodes.xoriC16 (i : BitVec 5) (d : BitVec 5) : Decodes (.xoriC16 i d) :=
  .short (WordFits.xoriC16 i d) rfl (w := pack 10#5 (pack d (pack i (pack 1#1 0))))
    (by dsimp only [pack, Instr.word, BitVec.reduceToNat]; omega) (by simp [decode16, pack_eq_iff])
theorem Decodes.shlC16 (s : BitVec 5) (d : BitVec 5) : Decodes (.shlC16 s d) :=
  .short (WordFits.shlC16 s d) rfl (w := pack 12#5 (pack d (pack s (pack 0#1 0))))
    (by dsimp only [pack, Instr.word, BitVec.reduceToNat]; omega) (by simp [decode16, pack_eq_iff])
theorem Decodes.shliC16 (n : BitVec 5) (d : BitVec 5) : Decodes (.shliC16 n d) :=
  .short (WordFits.shliC16 n d) rfl (w := pack 12#5 (pack d (pack n (pack 1#1 0))))
    (by dsimp only [pack, Instr.word, BitVec.reduceToNat]; omega) (by simp [decode16, pack_eq_iff])
theorem Decodes.shrC16 (s : BitVec 5) (d : BitVec 5) : Decodes (.shrC16 s d) :=
  .short (WordFits.shrC16 s d) rfl (w := pack 14#5 (pack d (pack s (pack 0#1 0))))
    (by dsimp only [pack, Instr.word, BitVec.reduceToNat]; omega) (by simp [decode16, pack_eq_iff])
theorem Decodes.shriC16 (n : BitVec 5) (d : BitVec 5) : Decodes (.shriC16 n d) :=
  .short (WordFits.shriC16 n d) rfl (w := pack 14#5 (pack d (pack n (pack 1#1 0))))
    (by dsimp only [pack, Instr.word, BitVec.reduceToNat]; omega) (by simp [decode16, pack_eq_iff])
theorem Decodes.sarC16 (s : BitVec 5) (d : BitVec 5) : Decodes (.sarC16 s d) :=
  .short (WordFits.sarC16 s d) rfl (w := pack 16#5 (pack d (pack s (pack 0#1 0))))
    (by dsimp only [pack, Instr.word, BitVec.reduceToNat]; omega) (by simp [decode16, pack_eq_iff])
theorem Decodes.sariC16 (n : BitVec 5) (d : BitVec 5) : Decodes (.sariC16 n d) :=
  .short (WordFits.sariC16 n d) rfl (w := pack 16#5 (pack d (pack n (pack 1#1 0))))
    (by dsimp only [pack, Instr.word, BitVec.reduceToNat]; omega) (by simp [decode16, pack_eq_iff])
theorem Decodes.mulC16 (s : BitVec 5) (d : BitVec 5) : Decodes (.mulC16 s d) :=
  .short (WordFits.mulC16 s d) rfl (w := pack 18#5 (pack d (pack s (pack 0#1 0))))
    (by dsimp only [pack, Instr.word, BitVec.reduceToNat]; omega) (by simp [decode16, pack_eq_iff])
theorem Decodes.muliC16 (i : BitVec 5) (d : BitVec 5) : Decodes (.muliC16 i d) :=
  .short (WordFits.muliC16 i d) rfl (w := pack 18#5 (pack d (pack i (pack 1#1 0))))
    (by dsimp only [pack, Instr.word, BitVec.reduceToNat]; omega) (by simp [decode16, pack_eq_iff])
theorem Decodes.minC16 (s : BitVec 5) (d : BitVec 5) : Decodes (.minC16 s d) :=
  .short (WordFits.minC16 s d) rfl (w := pack 20#5 (pack d (pack s (pack 0#1 0))))
    (by dsimp only [pack, Instr.word, BitVec.reduceToNat]; omega) (by simp [decode16, pack_eq_iff])
theorem Decodes.mini (i : BitVec 5) (d : BitVec 5) : Decodes (.mini i d) :=
  .short (WordFits.mini i d) rfl (w := pack 20#5 (pack d (pack i (pack 1#1 0))))
    (by dsimp only [pack, Instr.word, BitVec.reduceToNat]; omega) (by simp [decode16, pack_eq_iff])
theorem Decodes.maxC16 (s : BitVec 5) (d : BitVec 5) : Decodes (.maxC16 s d) :=
  .short (WordFits.maxC16 s d) rfl (w := pack 22#5 (pack d (pack s (pack 0#1 0))))
    (by dsimp only [pack, Instr.word, BitVec.reduceToNat]; omega) (by simp [decode16, pack_eq_iff])
theorem Decodes.maxi (i : BitVec 5) (d : BitVec 5) : Decodes (.maxi i d) :=
  .short (WordFits.maxi i d) rfl (w := pack 22#5 (pack d (pack i (pack 1#1 0))))
    (by dsimp only [pack, Instr.word, BitVec.reduceToNat]; omega) (by simp [decode16, pack_eq_iff])
theorem Decodes.sltC16 (s : BitVec 5) (d : BitVec 5) : Decodes (.sltC16 s d) :=
  .short (WordFits.sltC16 s d) rfl (w := pack 24#5 (pack d (pack s (pack 0#1 0))))
    (by dsimp only [pack, Instr.word, BitVec.reduceToNat]; omega) (by simp [decode16, pack_eq_iff])
theorem Decodes.sltiC16 (i : BitVec 5) (d : BitVec 5) : Decodes (.sltiC16 i d) :=
  .short (WordFits.sltiC16 i d) rfl (w := pack 24#5 (pack d (pack i (pack 1#1 0))))
    (by dsimp only [pack, Instr.word, BitVec.reduceToNat]; omega) (by simp [decode16, pack_eq_iff])
theorem Decodes.lddC16 (s : BitVec 5) (d : BitVec 5) : Decodes (.lddC16 s d) :=
  .short (WordFits.lddC16 s d) rfl (w := pack 26#5 (pack d (pack s (pack 0#1 0))))
    (by dsimp only [pack, Instr.word, BitVec.reduceToNat]; omega) (by simp [decode16, pack_eq_iff])
theorem Decodes.lddG2C16 (i : BitVec 5) (d : BitVec 5) : Decodes (.lddG2C16 i d) :=
  .short (WordFits.lddG2C16 i d) rfl (w := pack 26#5 (pack d (pack i (pack 1#1 0))))
    (by dsimp only [pack, Instr.word, BitVec.reduceToNat]; omega) (by simp [decode16, pack_eq_iff])
theorem Decodes.stdC16 (s : BitVec 5) (d : BitVec 5) : Decodes (.stdC16 s d) :=
  .short (WordFits.stdC16 s d) rfl (w := pack 28#5 (pack d (pack s (pack 0#1 0))))
    (by dsimp only [pack, Instr.word, BitVec.reduceToNat]; omega) (by simp [decode16, pack_eq_iff])
theorem Decodes.stdG2C16 (i : BitVec 5) (d : BitVec 5) : Decodes (.stdG2C16 i d) :=
  .short (WordFits.stdG2C16 i d) rfl (w := pack 28#5 (pack d (pack i (pack 1#1 0))))
    (by dsimp only [pack, Instr.word, BitVec.reduceToNat]; omega) (by simp [decode16, pack_eq_iff])
theorem Decodes.bez (i : BitVec 5) (d : BitVec 5) (h : bezOk i d = true) : Decodes (.bez i d) :=
  .short (WordFits.bez i d) rfl (w := pack 30#5 (pack d (pack i (pack 0#1 0))))
    (by dsimp only [pack, Instr.word, BitVec.reduceToNat]; omega) (by simpa [decode16, pack_eq_iff] using bezOk_iff.1 h)
theorem Decodes.bnz (i : BitVec 5) (d : BitVec 5) : Decodes (.bnz i d) :=
  .short (WordFits.bnz i d) rfl (w := pack 30#5 (pack d (pack i (pack 1#1 0))))
    (by dsimp only [pack, Instr.word, BitVec.reduceToNat]; omega) (by simp [decode16, pack_eq_iff])
theorem Decodes.brkC16 : Decodes .brkC16 :=
  .short WordFits.brkC16 rfl (w := pack 30#5 (pack 0#11 0))
    (by dsimp only [pack, Instr.word, BitVec.reduceToNat]; omega) (by simp [decode16, pack_eq_iff])

/-! ### Major 0x00 -/

theorem Decodes.add (b : BitVec 6) (a : BitVec 6) (d : BitVec 6) : Decodes (.add b a d) :=
  .long (WordFits.add b a d) rfl (w := pack 1#7 (pack d (pack a (pack b (pack 0#7 0)))))
    (by dsimp only [pack, Instr.word, BitVec.reduceToNat]; omega) (by simp [decodeMajor00])
theorem Decodes.sub (b : BitVec 6) (a : BitVec 6) (d : BitVec 6) : Decodes (.sub b a d) :=
  .long (WordFits.sub b a d) rfl (w := pack 1#7 (pack d (pack a (pack b (pack 1#7 0)))))
    (by dsimp only [pack, Instr.word, BitVec.reduceToNat]; omega) (by simp [decodeMajor00])
theorem Decodes.and (b : BitVec 6) (a : BitVec 6) (d : BitVec 6) : Decodes (.and b a d) :=
  .long (WordFits.and b a d) rfl (w := pack 1#7 (pack d (pack a (pack b (pack 2#7 0)))))
    (by dsimp only [pack, Instr.word, BitVec.reduceToNat]; omega) (by simp [decodeMajor00])
theorem Decodes.or (b : BitVec 6) (a : BitVec 6) (d : BitVec 6) : Decodes (.or b a d) :=
  .long (WordFits.or b a d) rfl (w := pack 1#7 (pack d (pack a (pack b (pack 3#7 0)))))
    (by dsimp only [pack, Instr.word, BitVec.reduceToNat]; omega) (by simp [decodeMajor00])
theorem Decodes.xor (b : BitVec 6) (a : BitVec 6) (d : BitVec 6) : Decodes (.xor b a d) :=
  .long (WordFits.xor b a d) rfl (w := pack 1#7 (pack d (pack a (pack b (pack 4#7 0)))))
    (by dsimp only [pack, Instr.word, BitVec.reduceToNat]; omega) (by simp [decodeMajor00])
theorem Decodes.shl (b : BitVec 6) (a : BitVec 6) (d : BitVec 6) : Decodes (.shl b a d) :=
  .long (WordFits.shl b a d) rfl (w := pack 1#7 (pack d (pack a (pack b (pack 5#7 0)))))
    (by dsimp only [pack, Instr.word, BitVec.reduceToNat]; omega) (by simp [decodeMajor00])
theorem Decodes.shr (b : BitVec 6) (a : BitVec 6) (d : BitVec 6) : Decodes (.shr b a d) :=
  .long (WordFits.shr b a d) rfl (w := pack 1#7 (pack d (pack a (pack b (pack 6#7 0)))))
    (by dsimp only [pack, Instr.word, BitVec.reduceToNat]; omega) (by simp [decodeMajor00])
theorem Decodes.sar (b : BitVec 6) (a : BitVec 6) (d : BitVec 6) : Decodes (.sar b a d) :=
  .long (WordFits.sar b a d) rfl (w := pack 1#7 (pack d (pack a (pack b (pack 7#7 0)))))
    (by dsimp only [pack, Instr.word, BitVec.reduceToNat]; omega) (by simp [decodeMajor00])
theorem Decodes.mul (b : BitVec 6) (a : BitVec 6) (d : BitVec 6) : Decodes (.mul b a d) :=
  .long (WordFits.mul b a d) rfl (w := pack 1#7 (pack d (pack a (pack b (pack 8#7 0)))))
    (by dsimp only [pack, Instr.word, BitVec.reduceToNat]; omega) (by simp [decodeMajor00])
theorem Decodes.min (b : BitVec 6) (a : BitVec 6) (d : BitVec 6) : Decodes (.min b a d) :=
  .long (WordFits.min b a d) rfl (w := pack 1#7 (pack d (pack a (pack b (pack 9#7 0)))))
    (by dsimp only [pack, Instr.word, BitVec.reduceToNat]; omega) (by simp [decodeMajor00])
theorem Decodes.max (b : BitVec 6) (a : BitVec 6) (d : BitVec 6) : Decodes (.max b a d) :=
  .long (WordFits.max b a d) rfl (w := pack 1#7 (pack d (pack a (pack b (pack 10#7 0)))))
    (by dsimp only [pack, Instr.word, BitVec.reduceToNat]; omega) (by simp [decodeMajor00])
theorem Decodes.minu (b : BitVec 6) (a : BitVec 6) (d : BitVec 6) : Decodes (.minu b a d) :=
  .long (WordFits.minu b a d) rfl (w := pack 1#7 (pack d (pack a (pack b (pack 11#7 0)))))
    (by dsimp only [pack, Instr.word, BitVec.reduceToNat]; omega) (by simp [decodeMajor00])
theorem Decodes.maxu (b : BitVec 6) (a : BitVec 6) (d : BitVec 6) : Decodes (.maxu b a d) :=
  .long (WordFits.maxu b a d) rfl (w := pack 1#7 (pack d (pack a (pack b (pack 12#7 0)))))
    (by dsimp only [pack, Instr.word, BitVec.reduceToNat]; omega) (by simp [decodeMajor00])
theorem Decodes.slt (b : BitVec 6) (a : BitVec 6) (d : BitVec 6) : Decodes (.slt b a d) :=
  .long (WordFits.slt b a d) rfl (w := pack 1#7 (pack d (pack a (pack b (pack 13#7 0)))))
    (by dsimp only [pack, Instr.word, BitVec.reduceToNat]; omega) (by simp [decodeMajor00])
theorem Decodes.sltu (b : BitVec 6) (a : BitVec 6) (d : BitVec 6) : Decodes (.sltu b a d) :=
  .long (WordFits.sltu b a d) rfl (w := pack 1#7 (pack d (pack a (pack b (pack 14#7 0)))))
    (by dsimp only [pack, Instr.word, BitVec.reduceToNat]; omega) (by simp [decodeMajor00])
theorem Decodes.seq (b : BitVec 6) (a : BitVec 6) (d : BitVec 6) : Decodes (.seq b a d) :=
  .long (WordFits.seq b a d) rfl (w := pack 1#7 (pack d (pack a (pack b (pack 15#7 0)))))
    (by dsimp only [pack, Instr.word, BitVec.reduceToNat]; omega) (by simp [decodeMajor00])
theorem Decodes.sne (b : BitVec 6) (a : BitVec 6) (d : BitVec 6) : Decodes (.sne b a d) :=
  .long (WordFits.sne b a d) rfl (w := pack 1#7 (pack d (pack a (pack b (pack 16#7 0)))))
    (by dsimp only [pack, Instr.word, BitVec.reduceToNat]; omega) (by simp [decodeMajor00])
theorem Decodes.addw (b : BitVec 6) (a : BitVec 6) (d : BitVec 6) : Decodes (.addw b a d) :=
  .long (WordFits.addw b a d) rfl (w := pack 1#7 (pack d (pack a (pack b (pack 17#7 0)))))
    (by dsimp only [pack, Instr.word, BitVec.reduceToNat]; omega) (by simp [decodeMajor00])
theorem Decodes.subw (b : BitVec 6) (a : BitVec 6) (d : BitVec 6) : Decodes (.subw b a d) :=
  .long (WordFits.subw b a d) rfl (w := pack 1#7 (pack d (pack a (pack b (pack 18#7 0)))))
    (by dsimp only [pack, Instr.word, BitVec.reduceToNat]; omega) (by simp [decodeMajor00])

/-! ### Major 0x01 -/

theorem Decodes.clz (a : BitVec 6) (d : BitVec 6) : Decodes (.clz a d) :=
  .long (WordFits.clz a d) rfl (w := pack 3#7 (pack d (pack a (pack 0#13 0))))
    (by dsimp only [pack, Instr.word, BitVec.reduceToNat]; omega) (by simp [decodeMajor01])
theorem Decodes.ctz (a : BitVec 6) (d : BitVec 6) : Decodes (.ctz a d) :=
  .long (WordFits.ctz a d) rfl (w := pack 3#7 (pack d (pack a (pack 64#13 0))))
    (by dsimp only [pack, Instr.word, BitVec.reduceToNat]; omega) (by simp [decodeMajor01])
theorem Decodes.popc (a : BitVec 6) (d : BitVec 6) : Decodes (.popc a d) :=
  .long (WordFits.popc a d) rfl (w := pack 3#7 (pack d (pack a (pack 128#13 0))))
    (by dsimp only [pack, Instr.word, BitVec.reduceToNat]; omega) (by simp [decodeMajor01])
theorem Decodes.brev (a : BitVec 6) (d : BitVec 6) : Decodes (.brev a d) :=
  .long (WordFits.brev a d) rfl (w := pack 3#7 (pack d (pack a (pack 192#13 0))))
    (by dsimp only [pack, Instr.word, BitVec.reduceToNat]; omega) (by simp [decodeMajor01])
theorem Decodes.bswap (a : BitVec 6) (d : BitVec 6) : Decodes (.bswap a d) :=
  .long (WordFits.bswap a d) rfl (w := pack 3#7 (pack d (pack a (pack 256#13 0))))
    (by dsimp only [pack, Instr.word, BitVec.reduceToNat]; omega) (by simp [decodeMajor01])
theorem Decodes.rol (b : BitVec 6) (a : BitVec 6) (d : BitVec 6) : Decodes (.rol b a d) :=
  .long (WordFits.rol b a d) rfl (w := pack 3#7 (pack d (pack a (pack b (pack 5#7 0)))))
    (by dsimp only [pack, Instr.word, BitVec.reduceToNat]; omega) (by simp [decodeMajor01])
theorem Decodes.ror (b : BitVec 6) (a : BitVec 6) (d : BitVec 6) : Decodes (.ror b a d) :=
  .long (WordFits.ror b a d) rfl (w := pack 3#7 (pack d (pack a (pack b (pack 6#7 0)))))
    (by dsimp only [pack, Instr.word, BitVec.reduceToNat]; omega) (by simp [decodeMajor01])
theorem Decodes.andn (b : BitVec 6) (a : BitVec 6) (d : BitVec 6) : Decodes (.andn b a d) :=
  .long (WordFits.andn b a d) rfl (w := pack 3#7 (pack d (pack a (pack b (pack 7#7 0)))))
    (by dsimp only [pack, Instr.word, BitVec.reduceToNat]; omega) (by simp [decodeMajor01])
theorem Decodes.sextb (a : BitVec 6) (d : BitVec 6) : Decodes (.sextb a d) :=
  .long (WordFits.sextb a d) rfl (w := pack 3#7 (pack d (pack a (pack 512#13 0))))
    (by dsimp only [pack, Instr.word, BitVec.reduceToNat]; omega) (by simp [decodeMajor01])
theorem Decodes.sexth (a : BitVec 6) (d : BitVec 6) : Decodes (.sexth a d) :=
  .long (WordFits.sexth a d) rfl (w := pack 3#7 (pack d (pack a (pack 576#13 0))))
    (by dsimp only [pack, Instr.word, BitVec.reduceToNat]; omega) (by simp [decodeMajor01])
theorem Decodes.sextw (a : BitVec 6) (d : BitVec 6) : Decodes (.sextw a d) :=
  .long (WordFits.sextw a d) rfl (w := pack 3#7 (pack d (pack a (pack 640#13 0))))
    (by dsimp only [pack, Instr.word, BitVec.reduceToNat]; omega) (by simp [decodeMajor01])
theorem Decodes.zextw (a : BitVec 6) (d : BitVec 6) : Decodes (.zextw a d) :=
  .long (WordFits.zextw a d) rfl (w := pack 3#7 (pack d (pack a (pack 704#13 0))))
    (by dsimp only [pack, Instr.word, BitVec.reduceToNat]; omega) (by simp [decodeMajor01])
theorem Decodes.mulh (b : BitVec 6) (a : BitVec 6) (d : BitVec 6) : Decodes (.mulh b a d) :=
  .long (WordFits.mulh b a d) rfl (w := pack 3#7 (pack d (pack a (pack b (pack 16#7 0)))))
    (by dsimp only [pack, Instr.word, BitVec.reduceToNat]; omega) (by simp [decodeMajor01])
theorem Decodes.mulhu (b : BitVec 6) (a : BitVec 6) (d : BitVec 6) : Decodes (.mulhu b a d) :=
  .long (WordFits.mulhu b a d) rfl (w := pack 3#7 (pack d (pack a (pack b (pack 17#7 0)))))
    (by dsimp only [pack, Instr.word, BitVec.reduceToNat]; omega) (by simp [decodeMajor01])
theorem Decodes.mulhsu (b : BitVec 6) (a : BitVec 6) (d : BitVec 6) : Decodes (.mulhsu b a d) :=
  .long (WordFits.mulhsu b a d) rfl (w := pack 3#7 (pack d (pack a (pack b (pack 18#7 0)))))
    (by dsimp only [pack, Instr.word, BitVec.reduceToNat]; omega) (by simp [decodeMajor01])
theorem Decodes.div (b : BitVec 6) (a : BitVec 6) (d : BitVec 6) : Decodes (.div b a d) :=
  .long (WordFits.div b a d) rfl (w := pack 3#7 (pack d (pack a (pack b (pack 32#7 0)))))
    (by dsimp only [pack, Instr.word, BitVec.reduceToNat]; omega) (by simp [decodeMajor01])
theorem Decodes.divu (b : BitVec 6) (a : BitVec 6) (d : BitVec 6) : Decodes (.divu b a d) :=
  .long (WordFits.divu b a d) rfl (w := pack 3#7 (pack d (pack a (pack b (pack 33#7 0)))))
    (by dsimp only [pack, Instr.word, BitVec.reduceToNat]; omega) (by simp [decodeMajor01])
theorem Decodes.rem (b : BitVec 6) (a : BitVec 6) (d : BitVec 6) : Decodes (.rem b a d) :=
  .long (WordFits.rem b a d) rfl (w := pack 3#7 (pack d (pack a (pack b (pack 34#7 0)))))
    (by dsimp only [pack, Instr.word, BitVec.reduceToNat]; omega) (by simp [decodeMajor01])
theorem Decodes.remu (b : BitVec 6) (a : BitVec 6) (d : BitVec 6) : Decodes (.remu b a d) :=
  .long (WordFits.remu b a d) rfl (w := pack 3#7 (pack d (pack a (pack b (pack 35#7 0)))))
    (by dsimp only [pack, Instr.word, BitVec.reduceToNat]; omega) (by simp [decodeMajor01])

/-! ### Major 0x02 -/

theorem Decodes.addi (i : BitVec 13) (a : BitVec 6) (d : BitVec 6) : Decodes (.addi i a d) :=
  .long (WordFits.addi i a d) rfl (w := pack 5#7 (pack d (pack a (pack i 0))))
    (by dsimp only [pack, Instr.word, BitVec.reduceToNat]; omega) (by simp [decodeMajor02])

/-! ### Major 0x03 -/

theorem Decodes.andi (i : BitVec 13) (a : BitVec 6) (d : BitVec 6) : Decodes (.andi i a d) :=
  .long (WordFits.andi i a d) rfl (w := pack 7#7 (pack d (pack a (pack i 0))))
    (by dsimp only [pack, Instr.word, BitVec.reduceToNat]; omega) (by simp [decodeMajor03])

/-! ### Major 0x04 -/

theorem Decodes.ori (i : BitVec 13) (a : BitVec 6) (d : BitVec 6) : Decodes (.ori i a d) :=
  .long (WordFits.ori i a d) rfl (w := pack 9#7 (pack d (pack a (pack i 0))))
    (by dsimp only [pack, Instr.word, BitVec.reduceToNat]; omega) (by simp [decodeMajor04])

/-! ### Major 0x05 -/

theorem Decodes.xori (i : BitVec 13) (a : BitVec 6) (d : BitVec 6) : Decodes (.xori i a d) :=
  .long (WordFits.xori i a d) rfl (w := pack 11#7 (pack d (pack a (pack i 0))))
    (by dsimp only [pack, Instr.word, BitVec.reduceToNat]; omega) (by simp [decodeMajor05])

/-! ### Major 0x08 -/

theorem Decodes.muli (i : BitVec 13) (a : BitVec 6) (d : BitVec 6) : Decodes (.muli i a d) :=
  .long (WordFits.muli i a d) rfl (w := pack 17#7 (pack d (pack a (pack i 0))))
    (by dsimp only [pack, Instr.word, BitVec.reduceToNat]; omega) (by simp [decodeMajor08])

/-! ### Major 0x06 -/

theorem Decodes.shli (n : BitVec 6) (a : BitVec 6) (d : BitVec 6) : Decodes (.shli n a d) :=
  .long (WordFits.shli n a d) rfl (w := pack 13#7 (pack d (pack a (pack n (pack 0#7 0)))))
    (by dsimp only [pack, Instr.word, BitVec.reduceToNat]; omega) (by simp [decodeMajor06])
theorem Decodes.shri (n : BitVec 6) (a : BitVec 6) (d : BitVec 6) : Decodes (.shri n a d) :=
  .long (WordFits.shri n a d) rfl (w := pack 13#7 (pack d (pack a (pack n (pack 32#7 0)))))
    (by dsimp only [pack, Instr.word, BitVec.reduceToNat]; omega) (by simp [decodeMajor06])
theorem Decodes.sari (n : BitVec 6) (a : BitVec 6) (d : BitVec 6) : Decodes (.sari n a d) :=
  .long (WordFits.sari n a d) rfl (w := pack 13#7 (pack d (pack a (pack n (pack 64#7 0)))))
    (by dsimp only [pack, Instr.word, BitVec.reduceToNat]; omega) (by simp [decodeMajor06])
theorem Decodes.rori (n : BitVec 6) (a : BitVec 6) (d : BitVec 6) : Decodes (.rori n a d) :=
  .long (WordFits.rori n a d) rfl (w := pack 13#7 (pack d (pack a (pack n (pack 96#7 0)))))
    (by dsimp only [pack, Instr.word, BitVec.reduceToNat]; omega) (by simp [decodeMajor06])

/-! ### Major 0x07 -/

theorem Decodes.seqi (v : BitVec 10) (a : BitVec 6) (d : BitVec 6) : Decodes (.seqi v a d) :=
  .long (WordFits.seqi v a d) rfl (w := pack 15#7 (pack d (pack a (pack v (pack 0#3 0)))))
    (by dsimp only [pack, Instr.word, BitVec.reduceToNat]; omega) (by simp [decodeMajor07])
theorem Decodes.snei (v : BitVec 10) (a : BitVec 6) (d : BitVec 6) : Decodes (.snei v a d) :=
  .long (WordFits.snei v a d) rfl (w := pack 15#7 (pack d (pack a (pack v (pack 1#3 0)))))
    (by dsimp only [pack, Instr.word, BitVec.reduceToNat]; omega) (by simp [decodeMajor07])
theorem Decodes.slti (v : BitVec 10) (a : BitVec 6) (d : BitVec 6) : Decodes (.slti v a d) :=
  .long (WordFits.slti v a d) rfl (w := pack 15#7 (pack d (pack a (pack v (pack 2#3 0)))))
    (by dsimp only [pack, Instr.word, BitVec.reduceToNat]; omega) (by simp [decodeMajor07])
theorem Decodes.sgei (v : BitVec 10) (a : BitVec 6) (d : BitVec 6) : Decodes (.sgei v a d) :=
  .long (WordFits.sgei v a d) rfl (w := pack 15#7 (pack d (pack a (pack v (pack 3#3 0)))))
    (by dsimp only [pack, Instr.word, BitVec.reduceToNat]; omega) (by simp [decodeMajor07])
theorem Decodes.sltui (v : BitVec 10) (a : BitVec 6) (d : BitVec 6) : Decodes (.sltui v a d) :=
  .long (WordFits.sltui v a d) rfl (w := pack 15#7 (pack d (pack a (pack v (pack 4#3 0)))))
    (by dsimp only [pack, Instr.word, BitVec.reduceToNat]; omega) (by simp [decodeMajor07])
theorem Decodes.sgeui (v : BitVec 10) (a : BitVec 6) (d : BitVec 6) : Decodes (.sgeui v a d) :=
  .long (WordFits.sgeui v a d) rfl (w := pack 15#7 (pack d (pack a (pack v (pack 5#3 0)))))
    (by dsimp only [pack, Instr.word, BitVec.reduceToNat]; omega) (by simp [decodeMajor07])

/-! ### Major 0x09 -/

theorem Decodes.liu (i : BitVec 19) (d : BitVec 6) : Decodes (.liu i d) :=
  .long (WordFits.liu i d) rfl (w := pack 19#7 (pack d (pack i 0)))
    (by dsimp only [pack, Instr.word, BitVec.reduceToNat]; omega) (by simp [decodeMajor09])

/-! ### Major 0x0A -/

theorem Decodes.addpc (i : BitVec 19) (d : BitVec 6) : Decodes (.addpc i d) :=
  .long (WordFits.addpc i d) rfl (w := pack 21#7 (pack d (pack i 0)))
    (by dsimp only [pack, Instr.word, BitVec.reduceToNat]; omega) (by simp [decodeMajor0A])

/-! ### Major 0x0B -/

theorem Decodes.lic (c : BitVec 7) (r : BitVec 4) (d : BitVec 6) : Decodes (.lic c r d) :=
  .long (WordFits.lic c r d) rfl (w := pack 23#7 (pack d (pack 0#6 (pack r (pack c (pack 0#2 0))))))
    (by dsimp only [pack, Instr.word, BitVec.reduceToNat]; omega) (by simp [decodeMajor0B])
theorem Decodes.lico (c : BitVec 7) (r : BitVec 4) (a : BitVec 6) (d : BitVec 6) : Decodes (.lico c r a d) :=
  .long (WordFits.lico c r a d) rfl (w := pack 23#7 (pack d (pack a (pack r (pack c (pack 1#2 0))))))
    (by dsimp only [pack, Instr.word, BitVec.reduceToNat]; omega) (by simp [decodeMajor0B])
theorem Decodes.licn (c : BitVec 7) (r : BitVec 4) (d : BitVec 6) : Decodes (.licn c r d) :=
  .long (WordFits.licn c r d) rfl (w := pack 23#7 (pack d (pack 0#6 (pack r (pack c (pack 2#2 0))))))
    (by dsimp only [pack, Instr.word, BitVec.reduceToNat]; omega) (by simp [decodeMajor0B])

/-! ### Major 0x20 -/

theorem Decodes.beq (i : BitVec 10) (b : BitVec 6) (a : BitVec 6) : Decodes (.beq i b a) :=
  .long (WordFits.beq i b a) rfl (w := pack 65#7 (pack a (pack b (pack 0#3 (pack i 0)))))
    (by dsimp only [pack, Instr.word, BitVec.reduceToNat]; omega) (by simp [decodeMajor20])
theorem Decodes.bne (i : BitVec 10) (b : BitVec 6) (a : BitVec 6) : Decodes (.bne i b a) :=
  .long (WordFits.bne i b a) rfl (w := pack 65#7 (pack a (pack b (pack 1#3 (pack i 0)))))
    (by dsimp only [pack, Instr.word, BitVec.reduceToNat]; omega) (by simp [decodeMajor20])
theorem Decodes.blt (i : BitVec 10) (b : BitVec 6) (a : BitVec 6) : Decodes (.blt i b a) :=
  .long (WordFits.blt i b a) rfl (w := pack 65#7 (pack a (pack b (pack 2#3 (pack i 0)))))
    (by dsimp only [pack, Instr.word, BitVec.reduceToNat]; omega) (by simp [decodeMajor20])
theorem Decodes.bge (i : BitVec 10) (b : BitVec 6) (a : BitVec 6) : Decodes (.bge i b a) :=
  .long (WordFits.bge i b a) rfl (w := pack 65#7 (pack a (pack b (pack 3#3 (pack i 0)))))
    (by dsimp only [pack, Instr.word, BitVec.reduceToNat]; omega) (by simp [decodeMajor20])
theorem Decodes.bltu (i : BitVec 10) (b : BitVec 6) (a : BitVec 6) : Decodes (.bltu i b a) :=
  .long (WordFits.bltu i b a) rfl (w := pack 65#7 (pack a (pack b (pack 4#3 (pack i 0)))))
    (by dsimp only [pack, Instr.word, BitVec.reduceToNat]; omega) (by simp [decodeMajor20])
theorem Decodes.bgeu (i : BitVec 10) (b : BitVec 6) (a : BitVec 6) : Decodes (.bgeu i b a) :=
  .long (WordFits.bgeu i b a) rfl (w := pack 65#7 (pack a (pack b (pack 5#3 (pack i 0)))))
    (by dsimp only [pack, Instr.word, BitVec.reduceToNat]; omega) (by simp [decodeMajor20])
theorem Decodes.bfull (i : BitVec 10) (a : BitVec 6) : Decodes (.bfull i a) :=
  .long (WordFits.bfull i a) rfl (w := pack 65#7 (pack a (pack 384#9 (pack i 0))))
    (by dsimp only [pack, Instr.word, BitVec.reduceToNat]; omega) (by simp [decodeMajor20])
theorem Decodes.bvoid (i : BitVec 10) (a : BitVec 6) : Decodes (.bvoid i a) :=
  .long (WordFits.bvoid i a) rfl (w := pack 65#7 (pack a (pack 448#9 (pack i 0))))
    (by dsimp only [pack, Instr.word, BitVec.reduceToNat]; omega) (by simp [decodeMajor20])

/-! ### Major 0x21 -/

theorem Decodes.j (i : BitVec 25) : Decodes (.j i) :=
  .long (WordFits.j i) rfl (w := pack 67#7 (pack i 0))
    (by dsimp only [pack, Instr.word, BitVec.reduceToNat]; omega) (by simp [decodeMajor21])

/-! ### Major 0x22 -/

theorem Decodes.jal (i : BitVec 25) : Decodes (.jal i) :=
  .long (WordFits.jal i) rfl (w := pack 69#7 (pack i 0))
    (by dsimp only [pack, Instr.word, BitVec.reduceToNat]; omega) (by simp [decodeMajor22])

/-! ### Major 0x23 -/

theorem Decodes.jalr (i : BitVec 13) (a : BitVec 6) (d : BitVec 6) : Decodes (.jalr i a d) :=
  .long (WordFits.jalr i a d) rfl (w := pack 71#7 (pack d (pack a (pack i 0))))
    (by dsimp only [pack, Instr.word, BitVec.reduceToNat]; omega) (by simp [decodeMajor23])

/-! ### Major 0x24 -/

theorem Decodes.loop (i : BitVec 13) (a : BitVec 6) : Decodes (.loop i a) :=
  .long (WordFits.loop i a) rfl (w := pack 73#7 (pack 0#6 (pack a (pack i 0))))
    (by dsimp only [pack, Instr.word, BitVec.reduceToNat]; omega) (by simp [decodeMajor24])

/-! ### Major 0x25 -/

theorem Decodes.spawn (i : BitVec 18) : Decodes (.spawn i) :=
  .long (WordFits.spawn i) rfl (w := pack 75#7 (pack i (pack 0#7 0)))
    (by dsimp only [pack, Instr.word, BitVec.reduceToNat]; omega) (by simp [decodeMajor25])
theorem Decodes.join : Decodes .join :=
  .long WordFits.join rfl (w := pack 75#7 (pack 262144#25 0))
    (by dsimp only [pack, Instr.word, BitVec.reduceToNat]; omega) (by simp [decodeMajor25])
theorem Decodes.exit : Decodes .exit :=
  .long WordFits.exit rfl (w := pack 75#7 (pack 524288#25 0))
    (by dsimp only [pack, Instr.word, BitVec.reduceToNat]; omega) (by simp [decodeMajor25])
theorem Decodes.expect (d : BitVec 6) : Decodes (.expect d) :=
  .long (WordFits.expect d) rfl (w := pack 75#7 (pack d (pack 16384#19 0)))
    (by dsimp only [pack, Instr.word, BitVec.reduceToNat]; omega) (by simp [decodeMajor25])
theorem Decodes.expectm (d : BitVec 2) : Decodes (.expectm d) :=
  .long (WordFits.expectm d) rfl (w := pack 75#7 (pack d (pack 327680#23 0)))
    (by dsimp only [pack, Instr.word, BitVec.reduceToNat]; omega) (by simp [decodeMajor25])
theorem Decodes.expectv (d : BitVec 4) : Decodes (.expectv d) :=
  .long (WordFits.expectv d) rfl (w := pack 75#7 (pack d (pack 98304#21 0)))
    (by dsimp only [pack, Instr.word, BitVec.reduceToNat]; omega) (by simp [decodeMajor25])
theorem Decodes.expectc (d : BitVec 3) : Decodes (.expectc d) :=
  .long (WordFits.expectc d) rfl (w := pack 75#7 (pack d (pack 229376#22 0)))
    (by dsimp only [pack, Instr.word, BitVec.reduceToNat]; omega) (by simp [decodeMajor25])
theorem Decodes.qslot (d : BitVec 6) : Decodes (.qslot d) :=
  .long (WordFits.qslot d) rfl (w := pack 75#7 (pack d (pack 32768#19 0)))
    (by dsimp only [pack, Instr.word, BitVec.reduceToNat]; omega) (by simp [decodeMajor25])
theorem Decodes.qdeq (d : BitVec 6) : Decodes (.qdeq d) :=
  .long (WordFits.qdeq d) rfl (w := pack 75#7 (pack d (pack 36864#19 0)))
    (by dsimp only [pack, Instr.word, BitVec.reduceToNat]; omega) (by simp [decodeMajor25])
theorem Decodes.qlink (d : BitVec 6) : Decodes (.qlink d) :=
  .long (WordFits.qlink d) rfl (w := pack 75#7 (pack d (pack 40960#19 0)))
    (by dsimp only [pack, Instr.word, BitVec.reduceToNat]; omega) (by simp [decodeMajor25])

/-! ### Major 0x28 -/

theorem Decodes.fadd (p : BitVec 1) (b : BitVec 6) (a : BitVec 6) (d : BitVec 6) : Decodes (.fadd p b a d) :=
  .long (WordFits.fadd p b a d) rfl (w := pack 81#7 (pack d (pack a (pack b (pack 0#4 (pack p (pack 0#2 0)))))))
    (by dsimp only [pack, Instr.word, BitVec.reduceToNat]; omega) (by simp [decodeMajor28])
theorem Decodes.fsub (p : BitVec 1) (b : BitVec 6) (a : BitVec 6) (d : BitVec 6) : Decodes (.fsub p b a d) :=
  .long (WordFits.fsub p b a d) rfl (w := pack 81#7 (pack d (pack a (pack b (pack 1#4 (pack p (pack 0#2 0)))))))
    (by dsimp only [pack, Instr.word, BitVec.reduceToNat]; omega) (by simp [decodeMajor28])
theorem Decodes.fmul (p : BitVec 1) (b : BitVec 6) (a : BitVec 6) (d : BitVec 6) : Decodes (.fmul p b a d) :=
  .long (WordFits.fmul p b a d) rfl (w := pack 81#7 (pack d (pack a (pack b (pack 2#4 (pack p (pack 0#2 0)))))))
    (by dsimp only [pack, Instr.word, BitVec.reduceToNat]; omega) (by simp [decodeMajor28])
theorem Decodes.fdiv (p : BitVec 1) (b : BitVec 6) (a : BitVec 6) (d : BitVec 6) : Decodes (.fdiv p b a d) :=
  .long (WordFits.fdiv p b a d) rfl (w := pack 81#7 (pack d (pack a (pack b (pack 3#4 (pack p (pack 0#2 0)))))))
    (by dsimp only [pack, Instr.word, BitVec.reduceToNat]; omega) (by simp [decodeMajor28])
theorem Decodes.fsqrt (p : BitVec 1) (a : BitVec 6) (d : BitVec 6) : Decodes (.fsqrt p a d) :=
  .long (WordFits.fsqrt p a d) rfl (w := pack 81#7 (pack d (pack a (pack 256#10 (pack p (pack 0#2 0))))))
    (by dsimp only [pack, Instr.word, BitVec.reduceToNat]; omega) (by simp [decodeMajor28])
theorem Decodes.fmin (p : BitVec 1) (b : BitVec 6) (a : BitVec 6) (d : BitVec 6) : Decodes (.fmin p b a d) :=
  .long (WordFits.fmin p b a d) rfl (w := pack 81#7 (pack d (pack a (pack b (pack 5#4 (pack p (pack 0#2 0)))))))
    (by dsimp only [pack, Instr.word, BitVec.reduceToNat]; omega) (by simp [decodeMajor28])
theorem Decodes.fmax (p : BitVec 1) (b : BitVec 6) (a : BitVec 6) (d : BitVec 6) : Decodes (.fmax p b a d) :=
  .long (WordFits.fmax p b a d) rfl (w := pack 81#7 (pack d (pack a (pack b (pack 6#4 (pack p (pack 0#2 0)))))))
    (by dsimp only [pack, Instr.word, BitVec.reduceToNat]; omega) (by simp [decodeMajor28])
theorem Decodes.fsgnj (p : BitVec 1) (b : BitVec 6) (a : BitVec 6) (d : BitVec 6) : Decodes (.fsgnj p b a d) :=
  .long (WordFits.fsgnj p b a d) rfl (w := pack 81#7 (pack d (pack a (pack b (pack 7#4 (pack p (pack 0#2 0)))))))
    (by dsimp only [pack, Instr.word, BitVec.reduceToNat]; omega) (by simp [decodeMajor28])
theorem Decodes.fsgnjn (p : BitVec 1) (b : BitVec 6) (a : BitVec 6) (d : BitVec 6) : Decodes (.fsgnjn p b a d) :=
  .long (WordFits.fsgnjn p b a d) rfl (w := pack 81#7 (pack d (pack a (pack b (pack 8#4 (pack p (pack 0#2 0)))))))
    (by dsimp only [pack, Instr.word, BitVec.reduceToNat]; omega) (by simp [decodeMajor28])
theorem Decodes.fsgnjx (p : BitVec 1) (b : BitVec 6) (a : BitVec 6) (d : BitVec 6) : Decodes (.fsgnjx p b a d) :=
  .long (WordFits.fsgnjx p b a d) rfl (w := pack 81#7 (pack d (pack a (pack b (pack 9#4 (pack p (pack 0#2 0)))))))
    (by dsimp only [pack, Instr.word, BitVec.reduceToNat]; omega) (by simp [decodeMajor28])
theorem Decodes.feq (p : BitVec 1) (b : BitVec 6) (a : BitVec 6) (d : BitVec 6) : Decodes (.feq p b a d) :=
  .long (WordFits.feq p b a d) rfl (w := pack 81#7 (pack d (pack a (pack b (pack 10#4 (pack p (pack 0#2 0)))))))
    (by dsimp only [pack, Instr.word, BitVec.reduceToNat]; omega) (by simp [decodeMajor28])
theorem Decodes.flt (p : BitVec 1) (b : BitVec 6) (a : BitVec 6) (d : BitVec 6) : Decodes (.flt p b a d) :=
  .long (WordFits.flt p b a d) rfl (w := pack 81#7 (pack d (pack a (pack b (pack 11#4 (pack p (pack 0#2 0)))))))
    (by dsimp only [pack, Instr.word, BitVec.reduceToNat]; omega) (by simp [decodeMajor28])
theorem Decodes.fle (p : BitVec 1) (b : BitVec 6) (a : BitVec 6) (d : BitVec 6) : Decodes (.fle p b a d) :=
  .long (WordFits.fle p b a d) rfl (w := pack 81#7 (pack d (pack a (pack b (pack 12#4 (pack p (pack 0#2 0)))))))
    (by dsimp only [pack, Instr.word, BitVec.reduceToNat]; omega) (by simp [decodeMajor28])
theorem Decodes.fclass (p : BitVec 1) (a : BitVec 6) (d : BitVec 6) : Decodes (.fclass p a d) :=
  .long (WordFits.fclass p a d) rfl (w := pack 81#7 (pack d (pack a (pack 832#10 (pack p (pack 0#2 0))))))
    (by dsimp only [pack, Instr.word, BitVec.reduceToNat]; omega) (by simp [decodeMajor28])

/-! ### Major 0x29 -/

theorem Decodes.fma (x : BitVec 1) (c : BitVec 6) (b : BitVec 6) (a : BitVec 6) (d : BitVec 6) : Decodes (.fma x c b a d) :=
  .long (WordFits.fma x c b a d) rfl (w := pack 83#7 (pack d (pack a (pack b (pack c (pack x 0))))))
    (by dsimp only [pack, Instr.word, BitVec.reduceToNat]; omega) (by simp [decodeMajor29])

/-! ### Major 0x2A -/

theorem Decodes.fcvtSD (a : BitVec 6) (d : BitVec 6) : Decodes (.fcvtSD a d) :=
  .long (WordFits.fcvtSD a d) rfl (w := pack 85#7 (pack d (pack a (pack 0#13 0))))
    (by dsimp only [pack, Instr.word, BitVec.reduceToNat]; omega) (by simp [decodeMajor2A])
theorem Decodes.fcvtDS (a : BitVec 6) (d : BitVec 6) : Decodes (.fcvtDS a d) :=
  .long (WordFits.fcvtDS a d) rfl (w := pack 85#7 (pack d (pack a (pack 64#13 0))))
    (by dsimp only [pack, Instr.word, BitVec.reduceToNat]; omega) (by simp [decodeMajor2A])
theorem Decodes.fcvtSL (a : BitVec 6) (d : BitVec 6) : Decodes (.fcvtSL a d) :=
  .long (WordFits.fcvtSL a d) rfl (w := pack 85#7 (pack d (pack a (pack 128#13 0))))
    (by dsimp only [pack, Instr.word, BitVec.reduceToNat]; omega) (by simp [decodeMajor2A])
theorem Decodes.fcvtSLu (a : BitVec 6) (d : BitVec 6) : Decodes (.fcvtSLu a d) :=
  .long (WordFits.fcvtSLu a d) rfl (w := pack 85#7 (pack d (pack a (pack 192#13 0))))
    (by dsimp only [pack, Instr.word, BitVec.reduceToNat]; omega) (by simp [decodeMajor2A])
theorem Decodes.fcvtDL (a : BitVec 6) (d : BitVec 6) : Decodes (.fcvtDL a d) :=
  .long (WordFits.fcvtDL a d) rfl (w := pack 85#7 (pack d (pack a (pack 256#13 0))))
    (by dsimp only [pack, Instr.word, BitVec.reduceToNat]; omega) (by simp [decodeMajor2A])
theorem Decodes.fcvtDLu (a : BitVec 6) (d : BitVec 6) : Decodes (.fcvtDLu a d) :=
  .long (WordFits.fcvtDLu a d) rfl (w := pack 85#7 (pack d (pack a (pack 320#13 0))))
    (by dsimp only [pack, Instr.word, BitVec.reduceToNat]; omega) (by simp [decodeMajor2A])
theorem Decodes.fcvtLS (a : BitVec 6) (d : BitVec 6) : Decodes (.fcvtLS a d) :=
  .long (WordFits.fcvtLS a d) rfl (w := pack 85#7 (pack d (pack a (pack 384#13 0))))
    (by dsimp only [pack, Instr.word, BitVec.reduceToNat]; omega) (by simp [decodeMajor2A])
theorem Decodes.fcvtLuS (a : BitVec 6) (d : BitVec 6) : Decodes (.fcvtLuS a d) :=
  .long (WordFits.fcvtLuS a d) rfl (w := pack 85#7 (pack d (pack a (pack 448#13 0))))
    (by dsimp only [pack, Instr.word, BitVec.reduceToNat]; omega) (by simp [decodeMajor2A])
theorem Decodes.fcvtLD (a : BitVec 6) (d : BitVec 6) : Decodes (.fcvtLD a d) :=
  .long (WordFits.fcvtLD a d) rfl (w := pack 85#7 (pack d (pack a (pack 512#13 0))))
    (by dsimp only [pack, Instr.word, BitVec.reduceToNat]; omega) (by simp [decodeMajor2A])
theorem Decodes.fcvtLuD (a : BitVec 6) (d : BitVec 6) : Decodes (.fcvtLuD a d) :=
  .long (WordFits.fcvtLuD a d) rfl (w := pack 85#7 (pack d (pack a (pack 576#13 0))))
    (by dsimp only [pack, Instr.word, BitVec.reduceToNat]; omega) (by simp [decodeMajor2A])
theorem Decodes.fcvtWS (a : BitVec 6) (d : BitVec 6) : Decodes (.fcvtWS a d) :=
  .long (WordFits.fcvtWS a d) rfl (w := pack 85#7 (pack d (pack a (pack 640#13 0))))
    (by dsimp only [pack, Instr.word, BitVec.reduceToNat]; omega) (by simp [decodeMajor2A])
theorem Decodes.fcvtWD (a : BitVec 6) (d : BitVec 6) : Decodes (.fcvtWD a d) :=
  .long (WordFits.fcvtWD a d) rfl (w := pack 85#7 (pack d (pack a (pack 704#13 0))))
    (by dsimp only [pack, Instr.word, BitVec.reduceToNat]; omega) (by simp [decodeMajor2A])
theorem Decodes.fcvtHS (a : BitVec 6) (d : BitVec 6) : Decodes (.fcvtHS a d) :=
  .long (WordFits.fcvtHS a d) rfl (w := pack 85#7 (pack d (pack a (pack 768#13 0))))
    (by dsimp only [pack, Instr.word, BitVec.reduceToNat]; omega) (by simp [decodeMajor2A])
theorem Decodes.fcvtSH (a : BitVec 6) (d : BitVec 6) : Decodes (.fcvtSH a d) :=
  .long (WordFits.fcvtSH a d) rfl (w := pack 85#7 (pack d (pack a (pack 832#13 0))))
    (by dsimp only [pack, Instr.word, BitVec.reduceToNat]; omega) (by simp [decodeMajor2A])
theorem Decodes.fcvtBS (a : BitVec 6) (d : BitVec 6) : Decodes (.fcvtBS a d) :=
  .long (WordFits.fcvtBS a d) rfl (w := pack 85#7 (pack d (pack a (pack 896#13 0))))
    (by dsimp only [pack, Instr.word, BitVec.reduceToNat]; omega) (by simp [decodeMajor2A])
theorem Decodes.fcvtSB (a : BitVec 6) (d : BitVec 6) : Decodes (.fcvtSB a d) :=
  .long (WordFits.fcvtSB a d) rfl (w := pack 85#7 (pack d (pack a (pack 960#13 0))))
    (by dsimp only [pack, Instr.word, BitVec.reduceToNat]; omega) (by simp [decodeMajor2A])

/-! ### Major 0x10 -/

theorem Decodes.ldb (i : BitVec 9) (o : BitVec 2) (q : BitVec 2) (a : BitVec 6) (d : BitVec 6) : Decodes (.ldb i o q a d) :=
  .long (WordFits.ldb i o q a d) rfl (w := pack 33#7 (pack d (pack a (pack q (pack o (pack i 0))))))
    (by dsimp only [pack, Instr.word, BitVec.reduceToNat]; omega) (by simp [decodeMajor10])

/-! ### Major 0x11 -/

theorem Decodes.ldbu (i : BitVec 9) (o : BitVec 2) (q : BitVec 2) (a : BitVec 6) (d : BitVec 6) : Decodes (.ldbu i o q a d) :=
  .long (WordFits.ldbu i o q a d) rfl (w := pack 35#7 (pack d (pack a (pack q (pack o (pack i 0))))))
    (by dsimp only [pack, Instr.word, BitVec.reduceToNat]; omega) (by simp [decodeMajor11])

/-! ### Major 0x12 -/

theorem Decodes.ldh (i : BitVec 9) (o : BitVec 2) (q : BitVec 2) (a : BitVec 6) (d : BitVec 6) : Decodes (.ldh i o q a d) :=
  .long (WordFits.ldh i o q a d) rfl (w := pack 37#7 (pack d (pack a (pack q (pack o (pack i 0))))))
    (by dsimp only [pack, Instr.word, BitVec.reduceToNat]; omega) (by simp [decodeMajor12])

/-! ### Major 0x13 -/

theorem Decodes.ldhu (i : BitVec 9) (o : BitVec 2) (q : BitVec 2) (a : BitVec 6) (d : BitVec 6) : Decodes (.ldhu i o q a d) :=
  .long (WordFits.ldhu i o q a d) rfl (w := pack 39#7 (pack d (pack a (pack q (pack o (pack i 0))))))
    (by dsimp only [pack, Instr.word, BitVec.reduceToNat]; omega) (by simp [decodeMajor13])

/-! ### Major 0x14 -/

theorem Decodes.ldw (i : BitVec 9) (o : BitVec 2) (q : BitVec 2) (a : BitVec 6) (d : BitVec 6) : Decodes (.ldw i o q a d) :=
  .long (WordFits.ldw i o q a d) rfl (w := pack 41#7 (pack d (pack a (pack q (pack o (pack i 0))))))
    (by dsimp only [pack, Instr.word, BitVec.reduceToNat]; omega) (by simp [decodeMajor14])

/-! ### Major 0x15 -/

theorem Decodes.ldwu (i : BitVec 9) (o : BitVec 2) (q : BitVec 2) (a : BitVec 6) (d : BitVec 6) : Decodes (.ldwu i o q a d) :=
  .long (WordFits.ldwu i o q a d) rfl (w := pack 43#7 (pack d (pack a (pack q (pack o (pack i 0))))))
    (by dsimp only [pack, Instr.word, BitVec.reduceToNat]; omega) (by simp [decodeMajor15])

/-! ### Major 0x16 -/

theorem Decodes.ldd (i : BitVec 9) (o : BitVec 2) (q : BitVec 2) (a : BitVec 6) (d : BitVec 6) : Decodes (.ldd i o q a d) :=
  .long (WordFits.ldd i o q a d) rfl (w := pack 45#7 (pack d (pack a (pack q (pack o (pack i 0))))))
    (by dsimp only [pack, Instr.word, BitVec.reduceToNat]; omega) (by simp [decodeMajor16])

/-! ### Major 0x17 -/

theorem Decodes.stb (i : BitVec 9) (o : BitVec 2) (q : BitVec 2) (a : BitVec 6) (d : BitVec 6) : Decodes (.stb i o q a d) :=
  .long (WordFits.stb i o q a d) rfl (w := pack 47#7 (pack d (pack a (pack q (pack o (pack i 0))))))
    (by dsimp only [pack, Instr.word, BitVec.reduceToNat]; omega) (by simp [decodeMajor17])

/-! ### Major 0x18 -/

theorem Decodes.sth (i : BitVec 9) (o : BitVec 2) (q : BitVec 2) (a : BitVec 6) (d : BitVec 6) : Decodes (.sth i o q a d) :=
  .long (WordFits.sth i o q a d) rfl (w := pack 49#7 (pack d (pack a (pack q (pack o (pack i 0))))))
    (by dsimp only [pack, Instr.word, BitVec.reduceToNat]; omega) (by simp [decodeMajor18])

/-! ### Major 0x19 -/

theorem Decodes.stw (i : BitVec 9) (o : BitVec 2) (q : BitVec 2) (a : BitVec 6) (d : BitVec 6) : Decodes (.stw i o q a d) :=
  .long (WordFits.stw i o q a d) rfl (w := pack 51#7 (pack d (pack a (pack q (pack o (pack i 0))))))
    (by dsimp only [pack, Instr.word, BitVec.reduceToNat]; omega) (by simp [decodeMajor19])

/-! ### Major 0x1A -/

theorem Decodes.std (i : BitVec 9) (o : BitVec 2) (q : BitVec 2) (a : BitVec 6) (d : BitVec 6) : Decodes (.std i o q a d) :=
  .long (WordFits.std i o q a d) rfl (w := pack 53#7 (pack d (pack a (pack q (pack o (pack i 0))))))
    (by dsimp only [pack, Instr.word, BitVec.reduceToNat]; omega) (by simp [decodeMajor1A])

/-! ### Major 0x1B -/

theorem Decodes.ldbx (q : BitVec 2) (b : BitVec 6) (a : BitVec 6) (d : BitVec 6) : Decodes (.ldbx q b a d) :=
  .long (WordFits.ldbx q b a d) rfl (w := pack 55#7 (pack d (pack a (pack b (pack 0#4 (pack q (pack 0#1 0)))))))
    (by dsimp only [pack, Instr.word, BitVec.reduceToNat]; omega) (by simp [decodeMajor1B])
theorem Decodes.ldbux (q : BitVec 2) (b : BitVec 6) (a : BitVec 6) (d : BitVec 6) : Decodes (.ldbux q b a d) :=
  .long (WordFits.ldbux q b a d) rfl (w := pack 55#7 (pack d (pack a (pack b (pack 1#4 (pack q (pack 0#1 0)))))))
    (by dsimp only [pack, Instr.word, BitVec.reduceToNat]; omega) (by simp [decodeMajor1B])
theorem Decodes.ldhx (q : BitVec 2) (b : BitVec 6) (a : BitVec 6) (d : BitVec 6) : Decodes (.ldhx q b a d) :=
  .long (WordFits.ldhx q b a d) rfl (w := pack 55#7 (pack d (pack a (pack b (pack 2#4 (pack q (pack 0#1 0)))))))
    (by dsimp only [pack, Instr.word, BitVec.reduceToNat]; omega) (by simp [decodeMajor1B])
theorem Decodes.ldhux (q : BitVec 2) (b : BitVec 6) (a : BitVec 6) (d : BitVec 6) : Decodes (.ldhux q b a d) :=
  .long (WordFits.ldhux q b a d) rfl (w := pack 55#7 (pack d (pack a (pack b (pack 3#4 (pack q (pack 0#1 0)))))))
    (by dsimp only [pack, Instr.word, BitVec.reduceToNat]; omega) (by simp [decodeMajor1B])
theorem Decodes.ldwx (q : BitVec 2) (b : BitVec 6) (a : BitVec 6) (d : BitVec 6) : Decodes (.ldwx q b a d) :=
  .long (WordFits.ldwx q b a d) rfl (w := pack 55#7 (pack d (pack a (pack b (pack 4#4 (pack q (pack 0#1 0)))))))
    (by dsimp only [pack, Instr.word, BitVec.reduceToNat]; omega) (by simp [decodeMajor1B])
theorem Decodes.ldwux (q : BitVec 2) (b : BitVec 6) (a : BitVec 6) (d : BitVec 6) : Decodes (.ldwux q b a d) :=
  .long (WordFits.ldwux q b a d) rfl (w := pack 55#7 (pack d (pack a (pack b (pack 5#4 (pack q (pack 0#1 0)))))))
    (by dsimp only [pack, Instr.word, BitVec.reduceToNat]; omega) (by simp [decodeMajor1B])
theorem Decodes.lddx (q : BitVec 2) (b : BitVec 6) (a : BitVec 6) (d : BitVec 6) : Decodes (.lddx q b a d) :=
  .long (WordFits.lddx q b a d) rfl (w := pack 55#7 (pack d (pack a (pack b (pack 6#4 (pack q (pack 0#1 0)))))))
    (by dsimp only [pack, Instr.word, BitVec.reduceToNat]; omega) (by simp [decodeMajor1B])
theorem Decodes.stbx (q : BitVec 2) (b : BitVec 6) (a : BitVec 6) (d : BitVec 6) : Decodes (.stbx q b a d) :=
  .long (WordFits.stbx q b a d) rfl (w := pack 55#7 (pack d (pack a (pack b (pack 7#4 (pack q (pack 0#1 0)))))))
    (by dsimp only [pack, Instr.word, BitVec.reduceToNat]; omega) (by simp [decodeMajor1B])
theorem Decodes.sthx (q : BitVec 2) (b : BitVec 6) (a : BitVec 6) (d : BitVec 6) : Decodes (.sthx q b a d) :=
  .long (WordFits.sthx q b a d) rfl (w := pack 55#7 (pack d (pack a (pack b (pack 8#4 (pack q (pack 0#1 0)))))))
    (by dsimp only [pack, Instr.word, BitVec.reduceToNat]; omega) (by simp [decodeMajor1B])
theorem Decodes.stwx (q : BitVec 2) (b : BitVec 6) (a : BitVec 6) (d : BitVec 6) : Decodes (.stwx q b a d) :=
  .long (WordFits.stwx q b a d) rfl (w := pack 55#7 (pack d (pack a (pack b (pack 9#4 (pack q (pack 0#1 0)))))))
    (by dsimp only [pack, Instr.word, BitVec.reduceToNat]; omega) (by simp [decodeMajor1B])
theorem Decodes.stdx (q : BitVec 2) (b : BitVec 6) (a : BitVec 6) (d : BitVec 6) : Decodes (.stdx q b a d) :=
  .long (WordFits.stdx q b a d) rfl (w := pack 55#7 (pack d (pack a (pack b (pack 10#4 (pack q (pack 0#1 0)))))))
    (by dsimp only [pack, Instr.word, BitVec.reduceToNat]; omega) (by simp [decodeMajor1B])
theorem Decodes.ldwo (q : BitVec 2) (s : BitVec 3) (o : BitVec 2) (a : BitVec 6) (d : BitVec 6) : Decodes (.ldwo q s o a d) :=
  .long (WordFits.ldwo q s o a d) rfl (w := pack 55#7 (pack d (pack a (pack 0#1 (pack o (pack s (pack q (pack 16#5 0))))))))
    (by dsimp only [pack, Instr.word, BitVec.reduceToNat]; omega) (by simp [decodeMajor1B])
theorem Decodes.lddo (q : BitVec 2) (s : BitVec 3) (o : BitVec 2) (a : BitVec 6) (d : BitVec 6) : Decodes (.lddo q s o a d) :=
  .long (WordFits.lddo q s o a d) rfl (w := pack 55#7 (pack d (pack a (pack 0#1 (pack o (pack s (pack q (pack 17#5 0))))))))
    (by dsimp only [pack, Instr.word, BitVec.reduceToNat]; omega) (by simp [decodeMajor1B])
theorem Decodes.stwo (q : BitVec 2) (s : BitVec 3) (o : BitVec 2) (a : BitVec 6) (d : BitVec 6) : Decodes (.stwo q s o a d) :=
  .long (WordFits.stwo q s o a d) rfl (w := pack 55#7 (pack d (pack a (pack 0#1 (pack o (pack s (pack q (pack 18#5 0))))))))
    (by dsimp only [pack, Instr.word, BitVec.reduceToNat]; omega) (by simp [decodeMajor1B])
theorem Decodes.stdo (q : BitVec 2) (s : BitVec 3) (o : BitVec 2) (a : BitVec 6) (d : BitVec 6) : Decodes (.stdo q s o a d) :=
  .long (WordFits.stdo q s o a d) rfl (w := pack 55#7 (pack d (pack a (pack 0#1 (pack o (pack s (pack q (pack 19#5 0))))))))
    (by dsimp only [pack, Instr.word, BitVec.reduceToNat]; omega) (by simp [decodeMajor1B])
theorem Decodes.ldf (a : BitVec 6) (d : BitVec 6) : Decodes (.ldf a d) :=
  .long (WordFits.ldf a d) rfl (w := pack 55#7 (pack d (pack a (pack 5120#13 0))))
    (by dsimp only [pack, Instr.word, BitVec.reduceToNat]; omega) (by simp [decodeMajor1B])
theorem Decodes.ldtk (a : BitVec 6) (d : BitVec 6) : Decodes (.ldtk a d) :=
  .long (WordFits.ldtk a d) rfl (w := pack 55#7 (pack d (pack a (pack 5184#13 0))))
    (by dsimp only [pack, Instr.word, BitVec.reduceToNat]; omega) (by simp [decodeMajor1B])
theorem Decodes.stf (a : BitVec 6) (d : BitVec 6) : Decodes (.stf a d) :=
  .long (WordFits.stf a d) rfl (w := pack 55#7 (pack d (pack a (pack 5248#13 0))))
    (by dsimp only [pack, Instr.word, BitVec.reduceToNat]; omega) (by simp [decodeMajor1B])
theorem Decodes.lres (a : BitVec 6) (d : BitVec 6) : Decodes (.lres a d) :=
  .long (WordFits.lres a d) rfl (w := pack 55#7 (pack d (pack a (pack 5376#13 0))))
    (by dsimp only [pack, Instr.word, BitVec.reduceToNat]; omega) (by simp [decodeMajor1B])
theorem Decodes.scond (b : BitVec 6) (a : BitVec 6) (d : BitVec 6) : Decodes (.scond b a d) :=
  .long (WordFits.scond b a d) rfl (w := pack 55#7 (pack d (pack a (pack b (pack 85#7 0)))))
    (by dsimp only [pack, Instr.word, BitVec.reduceToNat]; omega) (by simp [decodeMajor1B])
theorem Decodes.lresAcq (a : BitVec 6) (d : BitVec 6) : Decodes (.lresAcq a d) :=
  .long (WordFits.lresAcq a d) rfl (w := pack 55#7 (pack d (pack a (pack 5504#13 0))))
    (by dsimp only [pack, Instr.word, BitVec.reduceToNat]; omega) (by simp [decodeMajor1B])
theorem Decodes.scondRel (b : BitVec 6) (a : BitVec 6) (d : BitVec 6) : Decodes (.scondRel b a d) :=
  .long (WordFits.scondRel b a d) rfl (w := pack 55#7 (pack d (pack a (pack b (pack 87#7 0)))))
    (by dsimp only [pack, Instr.word, BitVec.reduceToNat]; omega) (by simp [decodeMajor1B])
theorem Decodes.cflush (a : BitVec 6) : Decodes (.cflush a) :=
  .long (WordFits.cflush a) rfl (w := pack 55#7 (pack 0#6 (pack a (pack 6144#13 0))))
    (by dsimp only [pack, Instr.word, BitVec.reduceToNat]; omega) (by simp [decodeMajor1B])
theorem Decodes.cwb (a : BitVec 6) : Decodes (.cwb a) :=
  .long (WordFits.cwb a) rfl (w := pack 55#7 (pack 0#6 (pack a (pack 6208#13 0))))
    (by dsimp only [pack, Instr.word, BitVec.reduceToNat]; omega) (by simp [decodeMajor1B])
theorem Decodes.cwball : Decodes .cwball :=
  .long WordFits.cwball rfl (w := pack 55#7 (pack 25690112#25 0))
    (by dsimp only [pack, Instr.word, BitVec.reduceToNat]; omega) (by simp [decodeMajor1B])

/-! ### Major 0x1C -/

theorem Decodes.amoadd (s : BitVec 1) (o : BitVec 2) (b : BitVec 6) (a : BitVec 6) (d : BitVec 6) : Decodes (.amoadd s o b a d) :=
  .long (WordFits.amoadd s o b a d) rfl (w := pack 57#7 (pack d (pack a (pack b (pack o (pack s (pack 0#4 0)))))))
    (by dsimp only [pack, Instr.word, BitVec.reduceToNat]; omega) (by simp [decodeMajor1C])
theorem Decodes.amoand (s : BitVec 1) (o : BitVec 2) (b : BitVec 6) (a : BitVec 6) (d : BitVec 6) : Decodes (.amoand s o b a d) :=
  .long (WordFits.amoand s o b a d) rfl (w := pack 57#7 (pack d (pack a (pack b (pack o (pack s (pack 1#4 0)))))))
    (by dsimp only [pack, Instr.word, BitVec.reduceToNat]; omega) (by simp [decodeMajor1C])
theorem Decodes.amoor (s : BitVec 1) (o : BitVec 2) (b : BitVec 6) (a : BitVec 6) (d : BitVec 6) : Decodes (.amoor s o b a d) :=
  .long (WordFits.amoor s o b a d) rfl (w := pack 57#7 (pack d (pack a (pack b (pack o (pack s (pack 2#4 0)))))))
    (by dsimp only [pack, Instr.word, BitVec.reduceToNat]; omega) (by simp [decodeMajor1C])
theorem Decodes.amoxor (s : BitVec 1) (o : BitVec 2) (b : BitVec 6) (a : BitVec 6) (d : BitVec 6) : Decodes (.amoxor s o b a d) :=
  .long (WordFits.amoxor s o b a d) rfl (w := pack 57#7 (pack d (pack a (pack b (pack o (pack s (pack 3#4 0)))))))
    (by dsimp only [pack, Instr.word, BitVec.reduceToNat]; omega) (by simp [decodeMajor1C])
theorem Decodes.amomin (s : BitVec 1) (o : BitVec 2) (b : BitVec 6) (a : BitVec 6) (d : BitVec 6) : Decodes (.amomin s o b a d) :=
  .long (WordFits.amomin s o b a d) rfl (w := pack 57#7 (pack d (pack a (pack b (pack o (pack s (pack 4#4 0)))))))
    (by dsimp only [pack, Instr.word, BitVec.reduceToNat]; omega) (by simp [decodeMajor1C])
theorem Decodes.amomax (s : BitVec 1) (o : BitVec 2) (b : BitVec 6) (a : BitVec 6) (d : BitVec 6) : Decodes (.amomax s o b a d) :=
  .long (WordFits.amomax s o b a d) rfl (w := pack 57#7 (pack d (pack a (pack b (pack o (pack s (pack 5#4 0)))))))
    (by dsimp only [pack, Instr.word, BitVec.reduceToNat]; omega) (by simp [decodeMajor1C])
theorem Decodes.amominu (s : BitVec 1) (o : BitVec 2) (b : BitVec 6) (a : BitVec 6) (d : BitVec 6) : Decodes (.amominu s o b a d) :=
  .long (WordFits.amominu s o b a d) rfl (w := pack 57#7 (pack d (pack a (pack b (pack o (pack s (pack 6#4 0)))))))
    (by dsimp only [pack, Instr.word, BitVec.reduceToNat]; omega) (by simp [decodeMajor1C])
theorem Decodes.amomaxu (s : BitVec 1) (o : BitVec 2) (b : BitVec 6) (a : BitVec 6) (d : BitVec 6) : Decodes (.amomaxu s o b a d) :=
  .long (WordFits.amomaxu s o b a d) rfl (w := pack 57#7 (pack d (pack a (pack b (pack o (pack s (pack 7#4 0)))))))
    (by dsimp only [pack, Instr.word, BitVec.reduceToNat]; omega) (by simp [decodeMajor1C])
theorem Decodes.amoswap (s : BitVec 1) (o : BitVec 2) (b : BitVec 6) (a : BitVec 6) (d : BitVec 6) : Decodes (.amoswap s o b a d) :=
  .long (WordFits.amoswap s o b a d) rfl (w := pack 57#7 (pack d (pack a (pack b (pack o (pack s (pack 8#4 0)))))))
    (by dsimp only [pack, Instr.word, BitVec.reduceToNat]; omega) (by simp [decodeMajor1C])
theorem Decodes.amocas (s : BitVec 1) (o : BitVec 2) (b : BitVec 6) (a : BitVec 6) (d : BitVec 6) : Decodes (.amocas s o b a d) :=
  .long (WordFits.amocas s o b a d) rfl (w := pack 57#7 (pack d (pack a (pack b (pack o (pack s (pack 9#4 0)))))))
    (by dsimp only [pack, Instr.word, BitVec.reduceToNat]; omega) (by simp [decodeMajor1C])

/-! ### Major 0x1D -/

theorem Decodes.famoadd (s : BitVec 1) (o : BitVec 2) (b : BitVec 6) (a : BitVec 6) (d : BitVec 6) : Decodes (.famoadd s o b a d) :=
  .long (WordFits.famoadd s o b a d) rfl (w := pack 59#7 (pack d (pack a (pack b (pack o (pack s (pack 0#4 0)))))))
    (by dsimp only [pack, Instr.word, BitVec.reduceToNat]; omega) (by simp [decodeMajor1D])
theorem Decodes.famomin (s : BitVec 1) (o : BitVec 2) (b : BitVec 6) (a : BitVec 6) (d : BitVec 6) : Decodes (.famomin s o b a d) :=
  .long (WordFits.famomin s o b a d) rfl (w := pack 59#7 (pack d (pack a (pack b (pack o (pack s (pack 1#4 0)))))))
    (by dsimp only [pack, Instr.word, BitVec.reduceToNat]; omega) (by simp [decodeMajor1D])
theorem Decodes.famomax (s : BitVec 1) (o : BitVec 2) (b : BitVec 6) (a : BitVec 6) (d : BitVec 6) : Decodes (.famomax s o b a d) :=
  .long (WordFits.famomax s o b a d) rfl (w := pack 59#7 (pack d (pack a (pack b (pack o (pack s (pack 2#4 0)))))))
    (by dsimp only [pack, Instr.word, BitVec.reduceToNat]; omega) (by simp [decodeMajor1D])

/-! ### Major 0x1E -/

theorem Decodes.ldv (k : BitVec 3) (a : BitVec 6) (d : BitVec 6) : Decodes (.ldv k a d) :=
  .long (WordFits.ldv k a d) rfl (w := pack 61#7 (pack d (pack a (pack 0#6 (pack k (pack 0#4 0))))))
    (by dsimp only [pack, Instr.word, BitVec.reduceToNat]; omega) (by simp [decodeMajor1E])
theorem Decodes.ldvv (k : BitVec 3) (a : BitVec 6) (d : BitVec 4) : Decodes (.ldvv k a d) :=
  .long (WordFits.ldvv k a d) rfl (w := pack 61#7 (pack d (pack 0#2 (pack a (pack 0#6 (pack k (pack 1#4 0)))))))
    (by dsimp only [pack, Instr.word, BitVec.reduceToNat]; omega) (by simp [decodeMajor1E])
theorem Decodes.stv (k : BitVec 3) (b : BitVec 6) (a : BitVec 6) (d : BitVec 6) : Decodes (.stv k b a d) :=
  .long (WordFits.stv k b a d) rfl (w := pack 61#7 (pack d (pack a (pack b (pack k (pack 2#4 0))))))
    (by dsimp only [pack, Instr.word, BitVec.reduceToNat]; omega) (by simp [decodeMajor1E])
theorem Decodes.cvclr (k : BitVec 3) : Decodes (.cvclr k) :=
  .long (WordFits.cvclr k) rfl (w := pack 61#7 (pack 0#18 (pack k (pack 3#4 0))))
    (by dsimp only [pack, Instr.word, BitVec.reduceToNat]; omega) (by simp [decodeMajor1E])
theorem Decodes.reconMin (k : BitVec 3) (a : BitVec 6) (d : BitVec 6) : Decodes (.reconMin k a d) :=
  .long (WordFits.reconMin k a d) rfl (w := pack 61#7 (pack d (pack a (pack 0#6 (pack k (pack 4#4 0))))))
    (by dsimp only [pack, Instr.word, BitVec.reduceToNat]; omega) (by simp [decodeMajor1E])
theorem Decodes.reconMax (k : BitVec 3) (a : BitVec 6) (d : BitVec 6) : Decodes (.reconMax k a d) :=
  .long (WordFits.reconMax k a d) rfl (w := pack 61#7 (pack d (pack a (pack 0#6 (pack k (pack 5#4 0))))))
    (by dsimp only [pack, Instr.word, BitVec.reduceToNat]; omega) (by simp [decodeMajor1E])
theorem Decodes.reconAdd (k : BitVec 3) (a : BitVec 6) (d : BitVec 6) : Decodes (.reconAdd k a d) :=
  .long (WordFits.reconAdd k a d) rfl (w := pack 61#7 (pack d (pack a (pack 0#6 (pack k (pack 6#4 0))))))
    (by dsimp only [pack, Instr.word, BitVec.reduceToNat]; omega) (by simp [decodeMajor1E])
theorem Decodes.reconOr (k : BitVec 3) (a : BitVec 6) (d : BitVec 6) : Decodes (.reconOr k a d) :=
  .long (WordFits.reconOr k a d) rfl (w := pack 61#7 (pack d (pack a (pack 0#6 (pack k (pack 7#4 0))))))
    (by dsimp only [pack, Instr.word, BitVec.reduceToNat]; omega) (by simp [decodeMajor1E])
theorem Decodes.reconAnd (k : BitVec 3) (a : BitVec 6) (d : BitVec 6) : Decodes (.reconAnd k a d) :=
  .long (WordFits.reconAnd k a d) rfl (w := pack 61#7 (pack d (pack a (pack 0#6 (pack k (pack 8#4 0))))))
    (by dsimp only [pack, Instr.word, BitVec.reduceToNat]; omega) (by simp [decodeMajor1E])
theorem Decodes.reconLowest (k : BitVec 3) (a : BitVec 6) (d : BitVec 6) : Decodes (.reconLowest k a d) :=
  .long (WordFits.reconLowest k a d) rfl (w := pack 61#7 (pack d (pack a (pack 0#6 (pack k (pack 9#4 0))))))
    (by dsimp only [pack, Instr.word, BitVec.reduceToNat]; omega) (by simp [decodeMajor1E])
theorem Decodes.reconHighest (k : BitVec 3) (a : BitVec 6) (d : BitVec 6) : Decodes (.reconHighest k a d) :=
  .long (WordFits.reconHighest k a d) rfl (w := pack 61#7 (pack d (pack a (pack 0#6 (pack k (pack 10#4 0))))))
    (by dsimp only [pack, Instr.word, BitVec.reduceToNat]; omega) (by simp [decodeMajor1E])
theorem Decodes.reconValue (k : BitVec 3) (b : BitVec 6) (a : BitVec 6) (d : BitVec 6) : Decodes (.reconValue k b a d) :=
  .long (WordFits.reconValue k b a d) rfl (w := pack 61#7 (pack d (pack a (pack b (pack k (pack 11#4 0))))))
    (by dsimp only [pack, Instr.word, BitVec.reduceToNat]; omega) (by simp [decodeMajor1E])
theorem Decodes.redW (b : BitVec 6) (a : BitVec 6) : Decodes (.redW b a) :=
  .long (WordFits.redW b a) rfl (w := pack 61#7 (pack 0#6 (pack a (pack b (pack 96#7 0)))))
    (by dsimp only [pack, Instr.word, BitVec.reduceToNat]; omega) (by simp [decodeMajor1E])
theorem Decodes.redD (b : BitVec 6) (a : BitVec 6) : Decodes (.redD b a) :=
  .long (WordFits.redD b a) rfl (w := pack 61#7 (pack 0#6 (pack a (pack b (pack 97#7 0)))))
    (by dsimp only [pack, Instr.word, BitVec.reduceToNat]; omega) (by simp [decodeMajor1E])

/-! ### Major 0x1F -/

theorem Decodes.fence (s : BitVec 3) : Decodes (.fence s) :=
  .long (WordFits.fence s) rfl (w := pack 63#7 (pack 0#18 (pack s (pack 0#4 0))))
    (by dsimp only [pack, Instr.word, BitVec.reduceToNat]; omega) (by simp [decodeMajor1F])
theorem Decodes.fenceAcq (s : BitVec 3) : Decodes (.fenceAcq s) :=
  .long (WordFits.fenceAcq s) rfl (w := pack 63#7 (pack 0#18 (pack s (pack 1#4 0))))
    (by dsimp only [pack, Instr.word, BitVec.reduceToNat]; omega) (by simp [decodeMajor1F])
theorem Decodes.fenceRel (s : BitVec 3) : Decodes (.fenceRel s) :=
  .long (WordFits.fenceRel s) rfl (w := pack 63#7 (pack 0#18 (pack s (pack 2#4 0))))
    (by dsimp only [pack, Instr.word, BitVec.reduceToNat]; omega) (by simp [decodeMajor1F])
theorem Decodes.bara (s : BitVec 3) (a : BitVec 6) (d : BitVec 6) : Decodes (.bara s a d) :=
  .long (WordFits.bara s a d) rfl (w := pack 63#7 (pack d (pack a (pack 0#6 (pack s (pack 3#4 0))))))
    (by dsimp only [pack, Instr.word, BitVec.reduceToNat]; omega) (by simp [decodeMajor1F])
theorem Decodes.barw (s : BitVec 3) (b : BitVec 6) (a : BitVec 6) : Decodes (.barw s b a) :=
  .long (WordFits.barw s b a) rfl (w := pack 63#7 (pack 0#6 (pack a (pack b (pack s (pack 4#4 0))))))
    (by dsimp only [pack, Instr.word, BitVec.reduceToNat]; omega) (by simp [decodeMajor1F])
theorem Decodes.belladd (s : BitVec 3) (b : BitVec 6) (a : BitVec 6) : Decodes (.belladd s b a) :=
  .long (WordFits.belladd s b a) rfl (w := pack 63#7 (pack 0#6 (pack a (pack b (pack s (pack 5#4 0))))))
    (by dsimp only [pack, Instr.word, BitVec.reduceToNat]; omega) (by simp [decodeMajor1F])
theorem Decodes.bellwait (s : BitVec 3) (b : BitVec 6) (a : BitVec 6) : Decodes (.bellwait s b a) :=
  .long (WordFits.bellwait s b a) rfl (w := pack 63#7 (pack 0#6 (pack a (pack b (pack s (pack 6#4 0))))))
    (by dsimp only [pack, Instr.word, BitVec.reduceToNat]; omega) (by simp [decodeMajor1F])
theorem Decodes.waitres : Decodes .waitres :=
  .long WordFits.waitres rfl (w := pack 63#7 (pack 14680064#25 0))
    (by dsimp only [pack, Instr.word, BitVec.reduceToNat]; omega) (by simp [decodeMajor1F])

/-! ### Major 0x27 -/

theorem Decodes.waitk (t : BitVec 6) (c : BitVec 6) (s : BitVec 6) (l : BitVec 6) : Decodes (.waitk t c s l) :=
  .long (WordFits.waitk t c s l) rfl (w := pack 79#7 (pack l (pack s (pack c (pack t (pack 0#1 0))))))
    (by dsimp only [pack, Instr.word, BitVec.reduceToNat]; omega) (by simp [decodeMajor27])

/-! ### Major 0x30 -/

theorem Decodes.vadd (b : BitVec 4) (a : BitVec 4) (k : BitVec 3) (z : BitVec 1) (d : BitVec 4) : Decodes (.vadd b a k z d) :=
  .long (WordFits.vadd b a k z d) rfl (w := pack 97#7 (pack d (pack 0#2 (pack z (pack k (pack a (pack b (pack 0#7 0))))))))
    (by dsimp only [pack, Instr.word, BitVec.reduceToNat]; omega) (by simp [decodeMajor30])
theorem Decodes.vsub (b : BitVec 4) (a : BitVec 4) (k : BitVec 3) (z : BitVec 1) (d : BitVec 4) : Decodes (.vsub b a k z d) :=
  .long (WordFits.vsub b a k z d) rfl (w := pack 97#7 (pack d (pack 0#2 (pack z (pack k (pack a (pack b (pack 1#7 0))))))))
    (by dsimp only [pack, Instr.word, BitVec.reduceToNat]; omega) (by simp [decodeMajor30])
theorem Decodes.vmul (b : BitVec 4) (a : BitVec 4) (k : BitVec 3) (z : BitVec 1) (d : BitVec 4) : Decodes (.vmul b a k z d) :=
  .long (WordFits.vmul b a k z d) rfl (w := pack 97#7 (pack d (pack 0#2 (pack z (pack k (pack a (pack b (pack 2#7 0))))))))
    (by dsimp only [pack, Instr.word, BitVec.reduceToNat]; omega) (by simp [decodeMajor30])
theorem Decodes.vmulh (b : BitVec 4) (a : BitVec 4) (k : BitVec 3) (z : BitVec 1) (d : BitVec 4) : Decodes (.vmulh b a k z d) :=
  .long (WordFits.vmulh b a k z d) rfl (w := pack 97#7 (pack d (pack 0#2 (pack z (pack k (pack a (pack b (pack 3#7 0))))))))
    (by dsimp only [pack, Instr.word, BitVec.reduceToNat]; omega) (by simp [decodeMajor30])
theorem Decodes.vmulhu (b : BitVec 4) (a : BitVec 4) (k : BitVec 3) (z : BitVec 1) (d : BitVec 4) : Decodes (.vmulhu b a k z d) :=
  .long (WordFits.vmulhu b a k z d) rfl (w := pack 97#7 (pack d (pack 0#2 (pack z (pack k (pack a (pack b (pack 4#7 0))))))))
    (by dsimp only [pack, Instr.word, BitVec.reduceToNat]; omega) (by simp [decodeMajor30])
theorem Decodes.vmin (b : BitVec 4) (a : BitVec 4) (k : BitVec 3) (z : BitVec 1) (d : BitVec 4) : Decodes (.vmin b a k z d) :=
  .long (WordFits.vmin b a k z d) rfl (w := pack 97#7 (pack d (pack 0#2 (pack z (pack k (pack a (pack b (pack 5#7 0))))))))
    (by dsimp only [pack, Instr.word, BitVec.reduceToNat]; omega) (by simp [decodeMajor30])
theorem Decodes.vmax (b : BitVec 4) (a : BitVec 4) (k : BitVec 3) (z : BitVec 1) (d : BitVec 4) : Decodes (.vmax b a k z d) :=
  .long (WordFits.vmax b a k z d) rfl (w := pack 97#7 (pack d (pack 0#2 (pack z (pack k (pack a (pack b (pack 6#7 0))))))))
    (by dsimp only [pack, Instr.word, BitVec.reduceToNat]; omega) (by simp [decodeMajor30])
theorem Decodes.vminu (b : BitVec 4) (a : BitVec 4) (k : BitVec 3) (z : BitVec 1) (d : BitVec 4) : Decodes (.vminu b a k z d) :=
  .long (WordFits.vminu b a k z d) rfl (w := pack 97#7 (pack d (pack 0#2 (pack z (pack k (pack a (pack b (pack 7#7 0))))))))
    (by dsimp only [pack, Instr.word, BitVec.reduceToNat]; omega) (by simp [decodeMajor30])
theorem Decodes.vmaxu (b : BitVec 4) (a : BitVec 4) (k : BitVec 3) (z : BitVec 1) (d : BitVec 4) : Decodes (.vmaxu b a k z d) :=
  .long (WordFits.vmaxu b a k z d) rfl (w := pack 97#7 (pack d (pack 0#2 (pack z (pack k (pack a (pack b (pack 8#7 0))))))))
    (by dsimp only [pack, Instr.word, BitVec.reduceToNat]; omega) (by simp [decodeMajor30])
theorem Decodes.vand (b : BitVec 4) (a : BitVec 4) (k : BitVec 3) (z : BitVec 1) (d : BitVec 4) : Decodes (.vand b a k z d) :=
  .long (WordFits.vand b a k z d) rfl (w := pack 97#7 (pack d (pack 0#2 (pack z (pack k (pack a (pack b (pack 9#7 0))))))))
    (by dsimp only [pack, Instr.word, BitVec.reduceToNat]; omega) (by simp [decodeMajor30])
theorem Decodes.vor (b : BitVec 4) (a : BitVec 4) (k : BitVec 3) (z : BitVec 1) (d : BitVec 4) : Decodes (.vor b a k z d) :=
  .long (WordFits.vor b a k z d) rfl (w := pack 97#7 (pack d (pack 0#2 (pack z (pack k (pack a (pack b (pack 10#7 0))))))))
    (by dsimp only [pack, Instr.word, BitVec.reduceToNat]; omega) (by simp [decodeMajor30])
theorem Decodes.vxor (b : BitVec 4) (a : BitVec 4) (k : BitVec 3) (z : BitVec 1) (d : BitVec 4) : Decodes (.vxor b a k z d) :=
  .long (WordFits.vxor b a k z d) rfl (w := pack 97#7 (pack d (pack 0#2 (pack z (pack k (pack a (pack b (pack 11#7 0))))))))
    (by dsimp only [pack, Instr.word, BitVec.reduceToNat]; omega) (by simp [decodeMajor30])
theorem Decodes.vandn (b : BitVec 4) (a : BitVec 4) (k : BitVec 3) (z : BitVec 1) (d : BitVec 4) : Decodes (.vandn b a k z d) :=
  .long (WordFits.vandn b a k z d) rfl (w := pack 97#7 (pack d (pack 0#2 (pack z (pack k (pack a (pack b (pack 12#7 0))))))))
    (by dsimp only [pack, Instr.word, BitVec.reduceToNat]; omega) (by simp [decodeMajor30])
theorem Decodes.vshl (b : BitVec 4) (a : BitVec 4) (k : BitVec 3) (z : BitVec 1) (d : BitVec 4) : Decodes (.vshl b a k z d) :=
  .long (WordFits.vshl b a k z d) rfl (w := pack 97#7 (pack d (pack 0#2 (pack z (pack k (pack a (pack b (pack 13#7 0))))))))
    (by dsimp only [pack, Instr.word, BitVec.reduceToNat]; omega) (by simp [decodeMajor30])
theorem Decodes.vshr (b : BitVec 4) (a : BitVec 4) (k : BitVec 3) (z : BitVec 1) (d : BitVec 4) : Decodes (.vshr b a k z d) :=
  .long (WordFits.vshr b a k z d) rfl (w := pack 97#7 (pack d (pack 0#2 (pack z (pack k (pack a (pack b (pack 14#7 0))))))))
    (by dsimp only [pack, Instr.word, BitVec.reduceToNat]; omega) (by simp [decodeMajor30])
theorem Decodes.vsar (b : BitVec 4) (a : BitVec 4) (k : BitVec 3) (z : BitVec 1) (d : BitVec 4) : Decodes (.vsar b a k z d) :=
  .long (WordFits.vsar b a k z d) rfl (w := pack 97#7 (pack d (pack 0#2 (pack z (pack k (pack a (pack b (pack 15#7 0))))))))
    (by dsimp only [pack, Instr.word, BitVec.reduceToNat]; omega) (by simp [decodeMajor30])
theorem Decodes.vaddsat (b : BitVec 4) (a : BitVec 4) (k : BitVec 3) (z : BitVec 1) (d : BitVec 4) : Decodes (.vaddsat b a k z d) :=
  .long (WordFits.vaddsat b a k z d) rfl (w := pack 97#7 (pack d (pack 0#2 (pack z (pack k (pack a (pack b (pack 16#7 0))))))))
    (by dsimp only [pack, Instr.word, BitVec.reduceToNat]; omega) (by simp [decodeMajor30])
theorem Decodes.vsubsat (b : BitVec 4) (a : BitVec 4) (k : BitVec 3) (z : BitVec 1) (d : BitVec 4) : Decodes (.vsubsat b a k z d) :=
  .long (WordFits.vsubsat b a k z d) rfl (w := pack 97#7 (pack d (pack 0#2 (pack z (pack k (pack a (pack b (pack 17#7 0))))))))
    (by dsimp only [pack, Instr.word, BitVec.reduceToNat]; omega) (by simp [decodeMajor30])
theorem Decodes.vabs (a : BitVec 4) (k : BitVec 3) (z : BitVec 1) (d : BitVec 4) : Decodes (.vabs a k z d) :=
  .long (WordFits.vabs a k z d) rfl (w := pack 97#7 (pack d (pack 0#2 (pack z (pack k (pack a (pack 288#11 0)))))))
    (by dsimp only [pack, Instr.word, BitVec.reduceToNat]; omega) (by simp [decodeMajor30])
theorem Decodes.vmov (a : BitVec 4) (k : BitVec 3) (z : BitVec 1) (d : BitVec 4) : Decodes (.vmov a k z d) :=
  .long (WordFits.vmov a k z d) rfl (w := pack 97#7 (pack d (pack 0#2 (pack z (pack k (pack a (pack 304#11 0)))))))
    (by dsimp only [pack, Instr.word, BitVec.reduceToNat]; omega) (by simp [decodeMajor30])
theorem Decodes.vfadd (b : BitVec 4) (a : BitVec 4) (k : BitVec 3) (z : BitVec 1) (d : BitVec 4) : Decodes (.vfadd b a k z d) :=
  .long (WordFits.vfadd b a k z d) rfl (w := pack 97#7 (pack d (pack 0#2 (pack z (pack k (pack a (pack b (pack 32#7 0))))))))
    (by dsimp only [pack, Instr.word, BitVec.reduceToNat]; omega) (by simp [decodeMajor30])
theorem Decodes.vfsub (b : BitVec 4) (a : BitVec 4) (k : BitVec 3) (z : BitVec 1) (d : BitVec 4) : Decodes (.vfsub b a k z d) :=
  .long (WordFits.vfsub b a k z d) rfl (w := pack 97#7 (pack d (pack 0#2 (pack z (pack k (pack a (pack b (pack 33#7 0))))))))
    (by dsimp only [pack, Instr.word, BitVec.reduceToNat]; omega) (by simp [decodeMajor30])
theorem Decodes.vfmul (b : BitVec 4) (a : BitVec 4) (k : BitVec 3) (z : BitVec 1) (d : BitVec 4) : Decodes (.vfmul b a k z d) :=
  .long (WordFits.vfmul b a k z d) rfl (w := pack 97#7 (pack d (pack 0#2 (pack z (pack k (pack a (pack b (pack 34#7 0))))))))
    (by dsimp only [pack, Instr.word, BitVec.reduceToNat]; omega) (by simp [decodeMajor30])
theorem Decodes.vfmin (b : BitVec 4) (a : BitVec 4) (k : BitVec 3) (z : BitVec 1) (d : BitVec 4) : Decodes (.vfmin b a k z d) :=
  .long (WordFits.vfmin b a k z d) rfl (w := pack 97#7 (pack d (pack 0#2 (pack z (pack k (pack a (pack b (pack 35#7 0))))))))
    (by dsimp only [pack, Instr.word, BitVec.reduceToNat]; omega) (by simp [decodeMajor30])
theorem Decodes.vfmax (b : BitVec 4) (a : BitVec 4) (k : BitVec 3) (z : BitVec 1) (d : BitVec 4) : Decodes (.vfmax b a k z d) :=
  .long (WordFits.vfmax b a k z d) rfl (w := pack 97#7 (pack d (pack 0#2 (pack z (pack k (pack a (pack b (pack 36#7 0))))))))
    (by dsimp only [pack, Instr.word, BitVec.reduceToNat]; omega) (by simp [decodeMajor30])
theorem Decodes.vfabs (a : BitVec 4) (k : BitVec 3) (z : BitVec 1) (d : BitVec 4) : Decodes (.vfabs a k z d) :=
  .long (WordFits.vfabs a k z d) rfl (w := pack 97#7 (pack d (pack 0#2 (pack z (pack k (pack a (pack 592#11 0)))))))
    (by dsimp only [pack, Instr.word, BitVec.reduceToNat]; omega) (by simp [decodeMajor30])
theorem Decodes.vfneg (a : BitVec 4) (k : BitVec 3) (z : BitVec 1) (d : BitVec 4) : Decodes (.vfneg a k z d) :=
  .long (WordFits.vfneg a k z d) rfl (w := pack 97#7 (pack d (pack 0#2 (pack z (pack k (pack a (pack 608#11 0)))))))
    (by dsimp only [pack, Instr.word, BitVec.reduceToNat]; omega) (by simp [decodeMajor30])
theorem Decodes.vadds (g : BitVec 6) (a : BitVec 4) (k : BitVec 3) (z : BitVec 1) (d : BitVec 4) : Decodes (.vadds g a k z d) :=
  .long (WordFits.vadds g a k z d) rfl (w := pack 97#7 (pack d (pack z (pack k (pack a (pack g (pack 64#7 0)))))))
    (by dsimp only [pack, Instr.word, BitVec.reduceToNat]; omega) (by simp [decodeMajor30])
theorem Decodes.vsubs (g : BitVec 6) (a : BitVec 4) (k : BitVec 3) (z : BitVec 1) (d : BitVec 4) : Decodes (.vsubs g a k z d) :=
  .long (WordFits.vsubs g a k z d) rfl (w := pack 97#7 (pack d (pack z (pack k (pack a (pack g (pack 65#7 0)))))))
    (by dsimp only [pack, Instr.word, BitVec.reduceToNat]; omega) (by simp [decodeMajor30])
theorem Decodes.vmuls (g : BitVec 6) (a : BitVec 4) (k : BitVec 3) (z : BitVec 1) (d : BitVec 4) : Decodes (.vmuls g a k z d) :=
  .long (WordFits.vmuls g a k z d) rfl (w := pack 97#7 (pack d (pack z (pack k (pack a (pack g (pack 66#7 0)))))))
    (by dsimp only [pack, Instr.word, BitVec.reduceToNat]; omega) (by simp [decodeMajor30])
theorem Decodes.vmulhs (g : BitVec 6) (a : BitVec 4) (k : BitVec 3) (z : BitVec 1) (d : BitVec 4) : Decodes (.vmulhs g a k z d) :=
  .long (WordFits.vmulhs g a k z d) rfl (w := pack 97#7 (pack d (pack z (pack k (pack a (pack g (pack 67#7 0)))))))
    (by dsimp only [pack, Instr.word, BitVec.reduceToNat]; omega) (by simp [decodeMajor30])
theorem Decodes.vmulhus (g : BitVec 6) (a : BitVec 4) (k : BitVec 3) (z : BitVec 1) (d : BitVec 4) : Decodes (.vmulhus g a k z d) :=
  .long (WordFits.vmulhus g a k z d) rfl (w := pack 97#7 (pack d (pack z (pack k (pack a (pack g (pack 68#7 0)))))))
    (by dsimp only [pack, Instr.word, BitVec.reduceToNat]; omega) (by simp [decodeMajor30])
theorem Decodes.vmins (g : BitVec 6) (a : BitVec 4) (k : BitVec 3) (z : BitVec 1) (d : BitVec 4) : Decodes (.vmins g a k z d) :=
  .long (WordFits.vmins g a k z d) rfl (w := pack 97#7 (pack d (pack z (pack k (pack a (pack g (pack 69#7 0)))))))
    (by dsimp only [pack, Instr.word, BitVec.reduceToNat]; omega) (by simp [decodeMajor30])
theorem Decodes.vmaxs (g : BitVec 6) (a : BitVec 4) (k : BitVec 3) (z : BitVec 1) (d : BitVec 4) : Decodes (.vmaxs g a k z d) :=
  .long (WordFits.vmaxs g a k z d) rfl (w := pack 97#7 (pack d (pack z (pack k (pack a (pack g (pack 70#7 0)))))))
    (by dsimp only [pack, Instr.word, BitVec.reduceToNat]; omega) (by simp [decodeMajor30])
theorem Decodes.vminus (g : BitVec 6) (a : BitVec 4) (k : BitVec 3) (z : BitVec 1) (d : BitVec 4) : Decodes (.vminus g a k z d) :=
  .long (WordFits.vminus g a k z d) rfl (w := pack 97#7 (pack d (pack z (pack k (pack a (pack g (pack 71#7 0)))))))
    (by dsimp only [pack, Instr.word, BitVec.reduceToNat]; omega) (by simp [decodeMajor30])
theorem Decodes.vmaxus (g : BitVec 6) (a : BitVec 4) (k : BitVec 3) (z : BitVec 1) (d : BitVec 4) : Decodes (.vmaxus g a k z d) :=
  .long (WordFits.vmaxus g a k z d) rfl (w := pack 97#7 (pack d (pack z (pack k (pack a (pack g (pack 72#7 0)))))))
    (by dsimp only [pack, Instr.word, BitVec.reduceToNat]; omega) (by simp [decodeMajor30])
theorem Decodes.vands (g : BitVec 6) (a : BitVec 4) (k : BitVec 3) (z : BitVec 1) (d : BitVec 4) : Decodes (.vands g a k z d) :=
  .long (WordFits.vands g a k z d) rfl (w := pack 97#7 (pack d (pack z (pack k (pack a (pack g (pack 73#7 0)))))))
    (by dsimp only [pack, Instr.word, BitVec.reduceToNat]; omega) (by simp [decodeMajor30])
theorem Decodes.vors (g : BitVec 6) (a : BitVec 4) (k : BitVec 3) (z : BitVec 1) (d : BitVec 4) : Decodes (.vors g a k z d) :=
  .long (WordFits.vors g a k z d) rfl (w := pack 97#7 (pack d (pack z (pack k (pack a (pack g (pack 74#7 0)))))))
    (by dsimp only [pack, Instr.word, BitVec.reduceToNat]; omega) (by simp [decodeMajor30])
theorem Decodes.vxors (g : BitVec 6) (a : BitVec 4) (k : BitVec 3) (z : BitVec 1) (d : BitVec 4) : Decodes (.vxors g a k z d) :=
  .long (WordFits.vxors g a k z d) rfl (w := pack 97#7 (pack d (pack z (pack k (pack a (pack g (pack 75#7 0)))))))
    (by dsimp only [pack, Instr.word, BitVec.reduceToNat]; omega) (by simp [decodeMajor30])
theorem Decodes.vandns (g : BitVec 6) (a : BitVec 4) (k : BitVec 3) (z : BitVec 1) (d : BitVec 4) : Decodes (.vandns g a k z d) :=
  .long (WordFits.vandns g a k z d) rfl (w := pack 97#7 (pack d (pack z (pack k (pack a (pack g (pack 76#7 0)))))))
    (by dsimp only [pack, Instr.word, BitVec.reduceToNat]; omega) (by simp [decodeMajor30])
theorem Decodes.vshls (g : BitVec 6) (a : BitVec 4) (k : BitVec 3) (z : BitVec 1) (d : BitVec 4) : Decodes (.vshls g a k z d) :=
  .long (WordFits.vshls g a k z d) rfl (w := pack 97#7 (pack d (pack z (pack k (pack a (pack g (pack 77#7 0)))))))
    (by dsimp only [pack, Instr.word, BitVec.reduceToNat]; omega) (by simp [decodeMajor30])
theorem Decodes.vshrs (g : BitVec 6) (a : BitVec 4) (k : BitVec 3) (z : BitVec 1) (d : BitVec 4) : Decodes (.vshrs g a k z d) :=
  .long (WordFits.vshrs g a k z d) rfl (w := pack 97#7 (pack d (pack z (pack k (pack a (pack g (pack 78#7 0)))))))
    (by dsimp only [pack, Instr.word, BitVec.reduceToNat]; omega) (by simp [decodeMajor30])
theorem Decodes.vsars (g : BitVec 6) (a : BitVec 4) (k : BitVec 3) (z : BitVec 1) (d : BitVec 4) : Decodes (.vsars g a k z d) :=
  .long (WordFits.vsars g a k z d) rfl (w := pack 97#7 (pack d (pack z (pack k (pack a (pack g (pack 79#7 0)))))))
    (by dsimp only [pack, Instr.word, BitVec.reduceToNat]; omega) (by simp [decodeMajor30])
theorem Decodes.vaddsats (g : BitVec 6) (a : BitVec 4) (k : BitVec 3) (z : BitVec 1) (d : BitVec 4) : Decodes (.vaddsats g a k z d) :=
  .long (WordFits.vaddsats g a k z d) rfl (w := pack 97#7 (pack d (pack z (pack k (pack a (pack g (pack 80#7 0)))))))
    (by dsimp only [pack, Instr.word, BitVec.reduceToNat]; omega) (by simp [decodeMajor30])
theorem Decodes.vsubsats (g : BitVec 6) (a : BitVec 4) (k : BitVec 3) (z : BitVec 1) (d : BitVec 4) : Decodes (.vsubsats g a k z d) :=
  .long (WordFits.vsubsats g a k z d) rfl (w := pack 97#7 (pack d (pack z (pack k (pack a (pack g (pack 81#7 0)))))))
    (by dsimp only [pack, Instr.word, BitVec.reduceToNat]; omega) (by simp [decodeMajor30])
theorem Decodes.vfadds (g : BitVec 6) (a : BitVec 4) (k : BitVec 3) (z : BitVec 1) (d : BitVec 4) : Decodes (.vfadds g a k z d) :=
  .long (WordFits.vfadds g a k z d) rfl (w := pack 97#7 (pack d (pack z (pack k (pack a (pack g (pack 96#7 0)))))))
    (by dsimp only [pack, Instr.word, BitVec.reduceToNat]; omega) (by simp [decodeMajor30])
theorem Decodes.vfsubs (g : BitVec 6) (a : BitVec 4) (k : BitVec 3) (z : BitVec 1) (d : BitVec 4) : Decodes (.vfsubs g a k z d) :=
  .long (WordFits.vfsubs g a k z d) rfl (w := pack 97#7 (pack d (pack z (pack k (pack a (pack g (pack 97#7 0)))))))
    (by dsimp only [pack, Instr.word, BitVec.reduceToNat]; omega) (by simp [decodeMajor30])
theorem Decodes.vfmuls (g : BitVec 6) (a : BitVec 4) (k : BitVec 3) (z : BitVec 1) (d : BitVec 4) : Decodes (.vfmuls g a k z d) :=
  .long (WordFits.vfmuls g a k z d) rfl (w := pack 97#7 (pack d (pack z (pack k (pack a (pack g (pack 98#7 0)))))))
    (by dsimp only [pack, Instr.word, BitVec.reduceToNat]; omega) (by simp [decodeMajor30])
theorem Decodes.vfmins (g : BitVec 6) (a : BitVec 4) (k : BitVec 3) (z : BitVec 1) (d : BitVec 4) : Decodes (.vfmins g a k z d) :=
  .long (WordFits.vfmins g a k z d) rfl (w := pack 97#7 (pack d (pack z (pack k (pack a (pack g (pack 99#7 0)))))))
    (by dsimp only [pack, Instr.word, BitVec.reduceToNat]; omega) (by simp [decodeMajor30])
theorem Decodes.vfmaxs (g : BitVec 6) (a : BitVec 4) (k : BitVec 3) (z : BitVec 1) (d : BitVec 4) : Decodes (.vfmaxs g a k z d) :=
  .long (WordFits.vfmaxs g a k z d) rfl (w := pack 97#7 (pack d (pack z (pack k (pack a (pack g (pack 100#7 0)))))))
    (by dsimp only [pack, Instr.word, BitVec.reduceToNat]; omega) (by simp [decodeMajor30])

/-! ### Major 0x31 -/

theorem Decodes.vfma (b : BitVec 4) (a : BitVec 4) (k : BitVec 3) (z : BitVec 1) (d : BitVec 4) : Decodes (.vfma b a k z d) :=
  .long (WordFits.vfma b a k z d) rfl (w := pack 99#7 (pack d (pack 0#2 (pack z (pack k (pack a (pack b (pack 0#7 0))))))))
    (by dsimp only [pack, Instr.word, BitVec.reduceToNat]; omega) (by simp [decodeMajor31])
theorem Decodes.vfms (b : BitVec 4) (a : BitVec 4) (k : BitVec 3) (z : BitVec 1) (d : BitVec 4) : Decodes (.vfms b a k z d) :=
  .long (WordFits.vfms b a k z d) rfl (w := pack 99#7 (pack d (pack 0#2 (pack z (pack k (pack a (pack b (pack 1#7 0))))))))
    (by dsimp only [pack, Instr.word, BitVec.reduceToNat]; omega) (by simp [decodeMajor31])
theorem Decodes.vfnma (b : BitVec 4) (a : BitVec 4) (k : BitVec 3) (z : BitVec 1) (d : BitVec 4) : Decodes (.vfnma b a k z d) :=
  .long (WordFits.vfnma b a k z d) rfl (w := pack 99#7 (pack d (pack 0#2 (pack z (pack k (pack a (pack b (pack 2#7 0))))))))
    (by dsimp only [pack, Instr.word, BitVec.reduceToNat]; omega) (by simp [decodeMajor31])
theorem Decodes.vfnms (b : BitVec 4) (a : BitVec 4) (k : BitVec 3) (z : BitVec 1) (d : BitVec 4) : Decodes (.vfnms b a k z d) :=
  .long (WordFits.vfnms b a k z d) rfl (w := pack 99#7 (pack d (pack 0#2 (pack z (pack k (pack a (pack b (pack 3#7 0))))))))
    (by dsimp only [pack, Instr.word, BitVec.reduceToNat]; omega) (by simp [decodeMajor31])
theorem Decodes.vmad (b : BitVec 4) (a : BitVec 4) (k : BitVec 3) (z : BitVec 1) (d : BitVec 4) : Decodes (.vmad b a k z d) :=
  .long (WordFits.vmad b a k z d) rfl (w := pack 99#7 (pack d (pack 0#2 (pack z (pack k (pack a (pack b (pack 8#7 0))))))))
    (by dsimp only [pack, Instr.word, BitVec.reduceToNat]; omega) (by simp [decodeMajor31])
theorem Decodes.vdot4i8 (b : BitVec 4) (a : BitVec 4) (k : BitVec 3) (z : BitVec 1) (d : BitVec 4) : Decodes (.vdot4i8 b a k z d) :=
  .long (WordFits.vdot4i8 b a k z d) rfl (w := pack 99#7 (pack d (pack 0#2 (pack z (pack k (pack a (pack b (pack 9#7 0))))))))
    (by dsimp only [pack, Instr.word, BitVec.reduceToNat]; omega) (by simp [decodeMajor31])
theorem Decodes.vfmas (g : BitVec 6) (a : BitVec 4) (k : BitVec 3) (z : BitVec 1) (d : BitVec 4) : Decodes (.vfmas g a k z d) :=
  .long (WordFits.vfmas g a k z d) rfl (w := pack 99#7 (pack d (pack z (pack k (pack a (pack g (pack 64#7 0)))))))
    (by dsimp only [pack, Instr.word, BitVec.reduceToNat]; omega) (by simp [decodeMajor31])
theorem Decodes.vfmss (g : BitVec 6) (a : BitVec 4) (k : BitVec 3) (z : BitVec 1) (d : BitVec 4) : Decodes (.vfmss g a k z d) :=
  .long (WordFits.vfmss g a k z d) rfl (w := pack 99#7 (pack d (pack z (pack k (pack a (pack g (pack 65#7 0)))))))
    (by dsimp only [pack, Instr.word, BitVec.reduceToNat]; omega) (by simp [decodeMajor31])
theorem Decodes.vfnmas (g : BitVec 6) (a : BitVec 4) (k : BitVec 3) (z : BitVec 1) (d : BitVec 4) : Decodes (.vfnmas g a k z d) :=
  .long (WordFits.vfnmas g a k z d) rfl (w := pack 99#7 (pack d (pack z (pack k (pack a (pack g (pack 66#7 0)))))))
    (by dsimp only [pack, Instr.word, BitVec.reduceToNat]; omega) (by simp [decodeMajor31])
theorem Decodes.vfnmss (g : BitVec 6) (a : BitVec 4) (k : BitVec 3) (z : BitVec 1) (d : BitVec 4) : Decodes (.vfnmss g a k z d) :=
  .long (WordFits.vfnmss g a k z d) rfl (w := pack 99#7 (pack d (pack z (pack k (pack a (pack g (pack 67#7 0)))))))
    (by dsimp only [pack, Instr.word, BitVec.reduceToNat]; omega) (by simp [decodeMajor31])
theorem Decodes.vmads (g : BitVec 6) (a : BitVec 4) (k : BitVec 3) (z : BitVec 1) (d : BitVec 4) : Decodes (.vmads g a k z d) :=
  .long (WordFits.vmads g a k z d) rfl (w := pack 99#7 (pack d (pack z (pack k (pack a (pack g (pack 72#7 0)))))))
    (by dsimp only [pack, Instr.word, BitVec.reduceToNat]; omega) (by simp [decodeMajor31])
theorem Decodes.vdot4i8s (g : BitVec 6) (a : BitVec 4) (k : BitVec 3) (z : BitVec 1) (d : BitVec 4) : Decodes (.vdot4i8s g a k z d) :=
  .long (WordFits.vdot4i8s g a k z d) rfl (w := pack 99#7 (pack d (pack z (pack k (pack a (pack g (pack 73#7 0)))))))
    (by dsimp only [pack, Instr.word, BitVec.reduceToNat]; omega) (by simp [decodeMajor31])

/-! ### Major 0x35 -/

theorem Decodes.vcmp (c : BitVec 4) (b : BitVec 4) (a : BitVec 4) (k : BitVec 3) (z : BitVec 1) (d : BitVec 3) : Decodes (.vcmp c b a k z d) :=
  .long (WordFits.vcmp c b a k z d) rfl (w := pack 107#7 (pack d (pack 0#3 (pack z (pack k (pack a (pack b (pack c (pack 0#3 0)))))))))
    (by dsimp only [pack, Instr.word, BitVec.reduceToNat]; omega) (by simp [decodeMajor35])
theorem Decodes.vcmps (c : BitVec 4) (g : BitVec 6) (a : BitVec 4) (k : BitVec 3) (z : BitVec 1) (d : BitVec 3) : Decodes (.vcmps c g a k z d) :=
  .long (WordFits.vcmps c g a k z d) rfl (w := pack 107#7 (pack d (pack 0#1 (pack z (pack k (pack a (pack g (pack c (pack 4#3 0)))))))))
    (by dsimp only [pack, Instr.word, BitVec.reduceToNat]; omega) (by simp [decodeMajor35])

/-! ### Major 0x32 -/

theorem Decodes.vld (q : BitVec 2) (g : BitVec 6) (k : BitVec 3) (z : BitVec 1) (d : BitVec 4) : Decodes (.vld q g k z d) :=
  .long (WordFits.vld q g k z d) rfl (w := pack 101#7 (pack d (pack z (pack k (pack 0#4 (pack g (pack 0#4 (pack q (pack 0#1 0)))))))))
    (by dsimp only [pack, Instr.word, BitVec.reduceToNat]; omega) (by simp [decodeMajor32])
theorem Decodes.vst (q : BitVec 2) (g : BitVec 6) (k : BitVec 3) (z : BitVec 1) (d : BitVec 4) : Decodes (.vst q g k z d) :=
  .long (WordFits.vst q g k z d) rfl (w := pack 101#7 (pack d (pack z (pack k (pack 0#4 (pack g (pack 1#4 (pack q (pack 0#1 0)))))))))
    (by dsimp only [pack, Instr.word, BitVec.reduceToNat]; omega) (by simp [decodeMajor32])
theorem Decodes.vgath (q : BitVec 2) (g : BitVec 6) (a : BitVec 4) (k : BitVec 3) (z : BitVec 1) (d : BitVec 4) : Decodes (.vgath q g a k z d) :=
  .long (WordFits.vgath q g a k z d) rfl (w := pack 101#7 (pack d (pack z (pack k (pack a (pack g (pack 2#4 (pack q (pack 0#1 0)))))))))
    (by dsimp only [pack, Instr.word, BitVec.reduceToNat]; omega) (by simp [decodeMajor32])
theorem Decodes.vscat (q : BitVec 2) (g : BitVec 6) (a : BitVec 4) (k : BitVec 3) (z : BitVec 1) (d : BitVec 4) : Decodes (.vscat q g a k z d) :=
  .long (WordFits.vscat q g a k z d) rfl (w := pack 101#7 (pack d (pack z (pack k (pack a (pack g (pack 3#4 (pack q (pack 0#1 0)))))))))
    (by dsimp only [pack, Instr.word, BitVec.reduceToNat]; omega) (by simp [decodeMajor32])
theorem Decodes.vlds (g : BitVec 6) (k : BitVec 3) (z : BitVec 1) (d : BitVec 4) : Decodes (.vlds g k z d) :=
  .long (WordFits.vlds g k z d) rfl (w := pack 101#7 (pack d (pack z (pack k (pack 0#4 (pack g (pack 4#7 0)))))))
    (by dsimp only [pack, Instr.word, BitVec.reduceToNat]; omega) (by simp [decodeMajor32])
theorem Decodes.vsts (g : BitVec 6) (k : BitVec 3) (z : BitVec 1) (d : BitVec 4) : Decodes (.vsts g k z d) :=
  .long (WordFits.vsts g k z d) rfl (w := pack 101#7 (pack d (pack z (pack k (pack 0#4 (pack g (pack 5#7 0)))))))
    (by dsimp only [pack, Instr.word, BitVec.reduceToNat]; omega) (by simp [decodeMajor32])
theorem Decodes.vldsx (g : BitVec 6) (a : BitVec 4) (k : BitVec 3) (z : BitVec 1) (d : BitVec 4) : Decodes (.vldsx g a k z d) :=
  .long (WordFits.vldsx g a k z d) rfl (w := pack 101#7 (pack d (pack z (pack k (pack a (pack g (pack 6#7 0)))))))
    (by dsimp only [pack, Instr.word, BitVec.reduceToNat]; omega) (by simp [decodeMajor32])
theorem Decodes.vstsx (g : BitVec 6) (a : BitVec 4) (k : BitVec 3) (z : BitVec 1) (d : BitVec 4) : Decodes (.vstsx g a k z d) :=
  .long (WordFits.vstsx g a k z d) rfl (w := pack 101#7 (pack d (pack z (pack k (pack a (pack g (pack 7#7 0)))))))
    (by dsimp only [pack, Instr.word, BitVec.reduceToNat]; omega) (by simp [decodeMajor32])

/-! ### Major 0x33 -/

theorem Decodes.vredadd (g : BitVec 6) (a : BitVec 4) (k : BitVec 3) : Decodes (.vredadd g a k) :=
  .long (WordFits.vredadd g a k) rfl (w := pack 103#7 (pack 0#5 (pack k (pack a (pack g (pack 0#7 0))))))
    (by dsimp only [pack, Instr.word, BitVec.reduceToNat]; omega) (by simp [decodeMajor33])
theorem Decodes.vredmin (g : BitVec 6) (a : BitVec 4) (k : BitVec 3) : Decodes (.vredmin g a k) :=
  .long (WordFits.vredmin g a k) rfl (w := pack 103#7 (pack 0#5 (pack k (pack a (pack g (pack 1#7 0))))))
    (by dsimp only [pack, Instr.word, BitVec.reduceToNat]; omega) (by simp [decodeMajor33])
theorem Decodes.vredmax (g : BitVec 6) (a : BitVec 4) (k : BitVec 3) : Decodes (.vredmax g a k) :=
  .long (WordFits.vredmax g a k) rfl (w := pack 103#7 (pack 0#5 (pack k (pack a (pack g (pack 2#7 0))))))
    (by dsimp only [pack, Instr.word, BitVec.reduceToNat]; omega) (by simp [decodeMajor33])
theorem Decodes.vredminu (g : BitVec 6) (a : BitVec 4) (k : BitVec 3) : Decodes (.vredminu g a k) :=
  .long (WordFits.vredminu g a k) rfl (w := pack 103#7 (pack 0#5 (pack k (pack a (pack g (pack 3#7 0))))))
    (by dsimp only [pack, Instr.word, BitVec.reduceToNat]; omega) (by simp [decodeMajor33])
theorem Decodes.vredmaxu (g : BitVec 6) (a : BitVec 4) (k : BitVec 3) : Decodes (.vredmaxu g a k) :=
  .long (WordFits.vredmaxu g a k) rfl (w := pack 103#7 (pack 0#5 (pack k (pack a (pack g (pack 4#7 0))))))
    (by dsimp only [pack, Instr.word, BitVec.reduceToNat]; omega) (by simp [decodeMajor33])
theorem Decodes.vredor (g : BitVec 6) (a : BitVec 4) (k : BitVec 3) : Decodes (.vredor g a k) :=
  .long (WordFits.vredor g a k) rfl (w := pack 103#7 (pack 0#5 (pack k (pack a (pack g (pack 5#7 0))))))
    (by dsimp only [pack, Instr.word, BitVec.reduceToNat]; omega) (by simp [decodeMajor33])
theorem Decodes.vredand (g : BitVec 6) (a : BitVec 4) (k : BitVec 3) : Decodes (.vredand g a k) :=
  .long (WordFits.vredand g a k) rfl (w := pack 103#7 (pack 0#5 (pack k (pack a (pack g (pack 6#7 0))))))
    (by dsimp only [pack, Instr.word, BitVec.reduceToNat]; omega) (by simp [decodeMajor33])
theorem Decodes.vredfadd (g : BitVec 6) (a : BitVec 4) (k : BitVec 3) : Decodes (.vredfadd g a k) :=
  .long (WordFits.vredfadd g a k) rfl (w := pack 103#7 (pack 0#5 (pack k (pack a (pack g (pack 8#7 0))))))
    (by dsimp only [pack, Instr.word, BitVec.reduceToNat]; omega) (by simp [decodeMajor33])
theorem Decodes.vredfmin (g : BitVec 6) (a : BitVec 4) (k : BitVec 3) : Decodes (.vredfmin g a k) :=
  .long (WordFits.vredfmin g a k) rfl (w := pack 103#7 (pack 0#5 (pack k (pack a (pack g (pack 9#7 0))))))
    (by dsimp only [pack, Instr.word, BitVec.reduceToNat]; omega) (by simp [decodeMajor33])
theorem Decodes.vredfmax (g : BitVec 6) (a : BitVec 4) (k : BitVec 3) : Decodes (.vredfmax g a k) :=
  .long (WordFits.vredfmax g a k) rfl (w := pack 103#7 (pack 0#5 (pack k (pack a (pack g (pack 10#7 0))))))
    (by dsimp only [pack, Instr.word, BitVec.reduceToNat]; omega) (by simp [decodeMajor33])
theorem Decodes.vbcast (g : BitVec 6) (k : BitVec 3) (z : BitVec 1) (d : BitVec 4) : Decodes (.vbcast g k z d) :=
  .long (WordFits.vbcast g k z d) rfl (w := pack 103#7 (pack d (pack z (pack k (pack 0#4 (pack g (pack 16#7 0)))))))
    (by dsimp only [pack, Instr.word, BitVec.reduceToNat]; omega) (by simp [decodeMajor33])
theorem Decodes.vext (g : BitVec 6) (a : BitVec 4) (k : BitVec 3) : Decodes (.vext g a k) :=
  .long (WordFits.vext g a k) rfl (w := pack 103#7 (pack 0#5 (pack k (pack a (pack g (pack 17#7 0))))))
    (by dsimp only [pack, Instr.word, BitVec.reduceToNat]; omega) (by simp [decodeMajor33])
theorem Decodes.vperm (b : BitVec 4) (a : BitVec 4) (k : BitVec 3) (z : BitVec 1) (d : BitVec 4) : Decodes (.vperm b a k z d) :=
  .long (WordFits.vperm b a k z d) rfl (w := pack 103#7 (pack d (pack 0#2 (pack z (pack k (pack a (pack b (pack 18#7 0))))))))
    (by dsimp only [pack, Instr.word, BitVec.reduceToNat]; omega) (by simp [decodeMajor33])
theorem Decodes.vrotl (g : BitVec 6) (a : BitVec 4) (k : BitVec 3) (z : BitVec 1) (d : BitVec 4) : Decodes (.vrotl g a k z d) :=
  .long (WordFits.vrotl g a k z d) rfl (w := pack 103#7 (pack d (pack z (pack k (pack a (pack g (pack 19#7 0)))))))
    (by dsimp only [pack, Instr.word, BitVec.reduceToNat]; omega) (by simp [decodeMajor33])
theorem Decodes.vcomp (a : BitVec 4) (k : BitVec 3) (d : BitVec 4) : Decodes (.vcomp a k d) :=
  .long (WordFits.vcomp a k d) rfl (w := pack 103#7 (pack d (pack 0#3 (pack k (pack a (pack 320#11 0))))))
    (by dsimp only [pack, Instr.word, BitVec.reduceToNat]; omega) (by simp [decodeMajor33])
theorem Decodes.viota (k : BitVec 3) (z : BitVec 1) (d : BitVec 4) : Decodes (.viota k z d) :=
  .long (WordFits.viota k z d) rfl (w := pack 103#7 (pack d (pack 0#2 (pack z (pack k (pack 5376#15 0))))))
    (by dsimp only [pack, Instr.word, BitVec.reduceToNat]; omega) (by simp [decodeMajor33])
theorem Decodes.kand (b : BitVec 3) (a : BitVec 3) (d : BitVec 3) : Decodes (.kand b a d) :=
  .long (WordFits.kand b a d) rfl (w := pack 103#7 (pack d (pack 0#3 (pack a (pack 0#3 (pack b (pack 256#10 0)))))))
    (by dsimp only [pack, Instr.word, BitVec.reduceToNat]; omega) (by simp [decodeMajor33])
theorem Decodes.kor (b : BitVec 3) (a : BitVec 3) (d : BitVec 3) : Decodes (.kor b a d) :=
  .long (WordFits.kor b a d) rfl (w := pack 103#7 (pack d (pack 0#3 (pack a (pack 0#3 (pack b (pack 264#10 0)))))))
    (by dsimp only [pack, Instr.word, BitVec.reduceToNat]; omega) (by simp [decodeMajor33])
theorem Decodes.kxor (b : BitVec 3) (a : BitVec 3) (d : BitVec 3) : Decodes (.kxor b a d) :=
  .long (WordFits.kxor b a d) rfl (w := pack 103#7 (pack d (pack 0#3 (pack a (pack 0#3 (pack b (pack 272#10 0)))))))
    (by dsimp only [pack, Instr.word, BitVec.reduceToNat]; omega) (by simp [decodeMajor33])
theorem Decodes.kandn (b : BitVec 3) (a : BitVec 3) (d : BitVec 3) : Decodes (.kandn b a d) :=
  .long (WordFits.kandn b a d) rfl (w := pack 103#7 (pack d (pack 0#3 (pack a (pack 0#3 (pack b (pack 280#10 0)))))))
    (by dsimp only [pack, Instr.word, BitVec.reduceToNat]; omega) (by simp [decodeMajor33])
theorem Decodes.knot (a : BitVec 3) (d : BitVec 3) : Decodes (.knot a d) :=
  .long (WordFits.knot a d) rfl (w := pack 103#7 (pack d (pack 0#3 (pack a (pack 18432#16 0)))))
    (by dsimp only [pack, Instr.word, BitVec.reduceToNat]; omega) (by simp [decodeMajor33])
theorem Decodes.kmovg (a : BitVec 6) (d : BitVec 3) : Decodes (.kmovg a d) :=
  .long (WordFits.kmovg a d) rfl (w := pack 103#7 (pack d (pack 0#3 (pack a (pack 2368#13 0)))))
    (by dsimp only [pack, Instr.word, BitVec.reduceToNat]; omega) (by simp [decodeMajor33])
theorem Decodes.krd (a : BitVec 3) (d : BitVec 6) : Decodes (.krd a d) :=
  .long (WordFits.krd a d) rfl (w := pack 103#7 (pack d (pack a (pack 19456#16 0))))
    (by dsimp only [pack, Instr.word, BitVec.reduceToNat]; omega) (by simp [decodeMajor33])
theorem Decodes.kpopc (a : BitVec 3) (d : BitVec 6) : Decodes (.kpopc a d) :=
  .long (WordFits.kpopc a d) rfl (w := pack 103#7 (pack d (pack a (pack 19968#16 0))))
    (by dsimp only [pack, Instr.word, BitVec.reduceToNat]; omega) (by simp [decodeMajor33])
theorem Decodes.kfirst (a : BitVec 3) (d : BitVec 6) : Decodes (.kfirst a d) :=
  .long (WordFits.kfirst a d) rfl (w := pack 103#7 (pack d (pack a (pack 20480#16 0))))
    (by dsimp only [pack, Instr.word, BitVec.reduceToNat]; omega) (by simp [decodeMajor33])

/-! ### Major 0x34 -/

theorem Decodes.vcvtfi (a : BitVec 4) (k : BitVec 3) (z : BitVec 1) (d : BitVec 4) : Decodes (.vcvtfi a k z d) :=
  .long (WordFits.vcvtfi a k z d) rfl (w := pack 105#7 (pack d (pack 0#2 (pack z (pack k (pack a (pack 0#11 0)))))))
    (by dsimp only [pack, Instr.word, BitVec.reduceToNat]; omega) (by simp [decodeMajor34])
theorem Decodes.vcvtif (a : BitVec 4) (k : BitVec 3) (z : BitVec 1) (d : BitVec 4) : Decodes (.vcvtif a k z d) :=
  .long (WordFits.vcvtif a k z d) rfl (w := pack 105#7 (pack d (pack 0#2 (pack z (pack k (pack a (pack 16#11 0)))))))
    (by dsimp only [pack, Instr.word, BitVec.reduceToNat]; omega) (by simp [decodeMajor34])
theorem Decodes.vcvtuf (a : BitVec 4) (k : BitVec 3) (z : BitVec 1) (d : BitVec 4) : Decodes (.vcvtuf a k z d) :=
  .long (WordFits.vcvtuf a k z d) rfl (w := pack 105#7 (pack d (pack 0#2 (pack z (pack k (pack a (pack 32#11 0)))))))
    (by dsimp only [pack, Instr.word, BitVec.reduceToNat]; omega) (by simp [decodeMajor34])
theorem Decodes.vcvtfu (a : BitVec 4) (k : BitVec 3) (z : BitVec 1) (d : BitVec 4) : Decodes (.vcvtfu a k z d) :=
  .long (WordFits.vcvtfu a k z d) rfl (w := pack 105#7 (pack d (pack 0#2 (pack z (pack k (pack a (pack 48#11 0)))))))
    (by dsimp only [pack, Instr.word, BitVec.reduceToNat]; omega) (by simp [decodeMajor34])
theorem Decodes.vpack (f : BitVec 3) (p : BitVec 4) (a : BitVec 4) (k : BitVec 3) (z : BitVec 1) (d : BitVec 4) : Decodes (.vpack f p a k z d) :=
  .long (WordFits.vpack f p a k z d) rfl (w := pack 105#7 (pack d (pack 0#2 (pack z (pack k (pack a (pack p (pack f (pack 1#4 0)))))))))
    (by dsimp only [pack, Instr.word, BitVec.reduceToNat]; omega) (by simp [decodeMajor34])
theorem Decodes.vunpk (f : BitVec 3) (p : BitVec 4) (a : BitVec 4) (k : BitVec 3) (z : BitVec 1) (d : BitVec 4) : Decodes (.vunpk f p a k z d) :=
  .long (WordFits.vunpk f p a k z d) rfl (w := pack 105#7 (pack d (pack 0#2 (pack z (pack k (pack a (pack p (pack f (pack 2#4 0)))))))))
    (by dsimp only [pack, Instr.word, BitVec.reduceToNat]; omega) (by simp [decodeMajor34])
theorem Decodes.vcbd (g : BitVec 6) (a : BitVec 4) (k : BitVec 3) (z : BitVec 1) (d : BitVec 4) : Decodes (.vcbd g a k z d) :=
  .long (WordFits.vcbd g a k z d) rfl (w := pack 105#7 (pack d (pack z (pack k (pack a (pack g (pack 32#7 0)))))))
    (by dsimp only [pack, Instr.word, BitVec.reduceToNat]; omega) (by simp [decodeMajor34])
theorem Decodes.vcbdi (g : BitVec 6) (a : BitVec 4) (k : BitVec 3) (z : BitVec 1) (d : BitVec 4) : Decodes (.vcbdi g a k z d) :=
  .long (WordFits.vcbdi g a k z d) rfl (w := pack 105#7 (pack d (pack z (pack k (pack a (pack g (pack 33#7 0)))))))
    (by dsimp only [pack, Instr.word, BitVec.reduceToNat]; omega) (by simp [decodeMajor34])
theorem Decodes.wing (b : BitVec 6) (a : BitVec 6) (d : BitVec 6) : Decodes (.wing b a d) :=
  .long (WordFits.wing b a d) rfl (w := pack 105#7 (pack d (pack a (pack b (pack 48#7 0)))))
    (by dsimp only [pack, Instr.word, BitVec.reduceToNat]; omega) (by simp [decodeMajor34])
theorem Decodes.vwing (g : BitVec 6) (a : BitVec 4) (k : BitVec 3) (z : BitVec 1) (d : BitVec 4) : Decodes (.vwing g a k z d) :=
  .long (WordFits.vwing g a k z d) rfl (w := pack 105#7 (pack d (pack z (pack k (pack a (pack g (pack 49#7 0)))))))
    (by dsimp only [pack, Instr.word, BitVec.reduceToNat]; omega) (by simp [decodeMajor34])

/-! ### Major 0x38 -/

theorem Decodes.mand (b : BitVec 2) (a : BitVec 2) (d : BitVec 2) : Decodes (.mand b a d) :=
  .long (WordFits.mand b a d) rfl (w := pack 113#7 (pack d (pack 0#4 (pack a (pack 0#4 (pack b (pack 0#11 0)))))))
    (by dsimp only [pack, Instr.word, BitVec.reduceToNat]; omega) (by simp [decodeMajor38])
theorem Decodes.mor (b : BitVec 2) (a : BitVec 2) (d : BitVec 2) : Decodes (.mor b a d) :=
  .long (WordFits.mor b a d) rfl (w := pack 113#7 (pack d (pack 0#4 (pack a (pack 0#4 (pack b (pack 16#11 0)))))))
    (by dsimp only [pack, Instr.word, BitVec.reduceToNat]; omega) (by simp [decodeMajor38])
theorem Decodes.mxor (b : BitVec 2) (a : BitVec 2) (d : BitVec 2) : Decodes (.mxor b a d) :=
  .long (WordFits.mxor b a d) rfl (w := pack 113#7 (pack d (pack 0#4 (pack a (pack 0#4 (pack b (pack 32#11 0)))))))
    (by dsimp only [pack, Instr.word, BitVec.reduceToNat]; omega) (by simp [decodeMajor38])
theorem Decodes.mandn (b : BitVec 2) (a : BitVec 2) (d : BitVec 2) : Decodes (.mandn b a d) :=
  .long (WordFits.mandn b a d) rfl (w := pack 113#7 (pack d (pack 0#4 (pack a (pack 0#4 (pack b (pack 48#11 0)))))))
    (by dsimp only [pack, Instr.word, BitVec.reduceToNat]; omega) (by simp [decodeMajor38])
theorem Decodes.mnot (a : BitVec 2) (d : BitVec 2) : Decodes (.mnot a d) :=
  .long (WordFits.mnot a d) rfl (w := pack 113#7 (pack d (pack 0#4 (pack a (pack 4096#17 0)))))
    (by dsimp only [pack, Instr.word, BitVec.reduceToNat]; omega) (by simp [decodeMajor38])
theorem Decodes.mmov (a : BitVec 2) (d : BitVec 2) : Decodes (.mmov a d) :=
  .long (WordFits.mmov a d) rfl (w := pack 113#7 (pack d (pack 0#4 (pack a (pack 5120#17 0)))))
    (by dsimp only [pack, Instr.word, BitVec.reduceToNat]; omega) (by simp [decodeMajor38])
theorem Decodes.mclr (d : BitVec 2) : Decodes (.mclr d) :=
  .long (WordFits.mclr d) rfl (w := pack 113#7 (pack d (pack 393216#23 0)))
    (by dsimp only [pack, Instr.word, BitVec.reduceToNat]; omega) (by simp [decodeMajor38])
theorem Decodes.mfill (a : BitVec 6) (d : BitVec 2) : Decodes (.mfill a d) :=
  .long (WordFits.mfill a d) rfl (w := pack 113#7 (pack d (pack 0#4 (pack a (pack 448#13 0)))))
    (by dsimp only [pack, Instr.word, BitVec.reduceToNat]; omega) (by simp [decodeMajor38])
theorem Decodes.mbset (a : BitVec 6) (d : BitVec 2) : Decodes (.mbset a d) :=
  .long (WordFits.mbset a d) rfl (w := pack 113#7 (pack d (pack 0#4 (pack a (pack 512#13 0)))))
    (by dsimp only [pack, Instr.word, BitVec.reduceToNat]; omega) (by simp [decodeMajor38])
theorem Decodes.mbclr (a : BitVec 6) (d : BitVec 2) : Decodes (.mbclr a d) :=
  .long (WordFits.mbclr a d) rfl (w := pack 113#7 (pack d (pack 0#4 (pack a (pack 576#13 0)))))
    (by dsimp only [pack, Instr.word, BitVec.reduceToNat]; omega) (by simp [decodeMajor38])
theorem Decodes.mbtst (b : BitVec 6) (a : BitVec 2) (d : BitVec 6) : Decodes (.mbtst b a d) :=
  .long (WordFits.mbtst b a d) rfl (w := pack 113#7 (pack d (pack a (pack 0#4 (pack b (pack 10#7 0))))))
    (by dsimp only [pack, Instr.word, BitVec.reduceToNat]; omega) (by simp [decodeMajor38])
theorem Decodes.mpopc (a : BitVec 2) (d : BitVec 6) : Decodes (.mpopc a d) :=
  .long (WordFits.mpopc a d) rfl (w := pack 113#7 (pack d (pack a (pack 11264#17 0))))
    (by dsimp only [pack, Instr.word, BitVec.reduceToNat]; omega) (by simp [decodeMajor38])
theorem Decodes.mfirst (a : BitVec 2) (d : BitVec 6) : Decodes (.mfirst a d) :=
  .long (WordFits.mfirst a d) rfl (w := pack 113#7 (pack d (pack a (pack 12288#17 0))))
    (by dsimp only [pack, Instr.word, BitVec.reduceToNat]; omega) (by simp [decodeMajor38])
theorem Decodes.mnext (b : BitVec 6) (a : BitVec 2) (d : BitVec 6) : Decodes (.mnext b a d) :=
  .long (WordFits.mnext b a d) rfl (w := pack 113#7 (pack d (pack a (pack 0#4 (pack b (pack 13#7 0))))))
    (by dsimp only [pack, Instr.word, BitVec.reduceToNat]; omega) (by simp [decodeMajor38])
theorem Decodes.mgetw (b : BitVec 6) (a : BitVec 2) (d : BitVec 6) : Decodes (.mgetw b a d) :=
  .long (WordFits.mgetw b a d) rfl (w := pack 113#7 (pack d (pack a (pack 0#4 (pack b (pack 14#7 0))))))
    (by dsimp only [pack, Instr.word, BitVec.reduceToNat]; omega) (by simp [decodeMajor38])
theorem Decodes.mputw (b : BitVec 6) (a : BitVec 6) (d : BitVec 2) : Decodes (.mputw b a d) :=
  .long (WordFits.mputw b a d) rfl (w := pack 113#7 (pack d (pack 0#4 (pack a (pack b (pack 15#7 0))))))
    (by dsimp only [pack, Instr.word, BitVec.reduceToNat]; omega) (by simp [decodeMajor38])
theorem Decodes.mld (a : BitVec 6) (d : BitVec 2) : Decodes (.mld a d) :=
  .long (WordFits.mld a d) rfl (w := pack 113#7 (pack d (pack 0#4 (pack a (pack 1024#13 0)))))
    (by dsimp only [pack, Instr.word, BitVec.reduceToNat]; omega) (by simp [decodeMajor38])
theorem Decodes.mst (b : BitVec 2) (a : BitVec 6) : Decodes (.mst b a) :=
  .long (WordFits.mst b a) rfl (w := pack 113#7 (pack 0#6 (pack a (pack b (pack 272#11 0)))))
    (by dsimp only [pack, Instr.word, BitVec.reduceToNat]; omega) (by simp [decodeMajor38])

/-! ### Major 0x39 -/

theorem Decodes.stand (b : BitVec 2) (a : BitVec 6) (d : BitVec 6) : Decodes (.stand b a d) :=
  .long (WordFits.stand b a d) rfl (w := pack 115#7 (pack d (pack a (pack b (pack 0#11 0)))))
    (by dsimp only [pack, Instr.word, BitVec.reduceToNat]; omega) (by simp [decodeMajor39])
theorem Decodes.leave (a : BitVec 6) : Decodes (.leave a) :=
  .long (WordFits.leave a) rfl (w := pack 115#7 (pack 0#6 (pack a (pack 64#13 0))))
    (by dsimp only [pack, Instr.word, BitVec.reduceToNat]; omega) (by simp [decodeMajor39])
theorem Decodes.split (s : BitVec 2) (t : BitVec 2) (i : BitVec 14) : Decodes (.split s t i) :=
  .long (WordFits.split s t i) rfl (w := pack 115#7 (pack i (pack t (pack s (pack 2#7 0)))))
    (by dsimp only [pack, Instr.word, BitVec.reduceToNat]; omega) (by simp [decodeMajor39])
theorem Decodes.qld (w : BitVec 6) (a : BitVec 6) (d : BitVec 6) : Decodes (.qld w a d) :=
  .long (WordFits.qld w a d) rfl (w := pack 115#7 (pack d (pack a (pack w (pack 8#7 0)))))
    (by dsimp only [pack, Instr.word, BitVec.reduceToNat]; omega) (by simp [decodeMajor39])
theorem Decodes.qldd (w : BitVec 6) (a : BitVec 6) (d : BitVec 6) : Decodes (.qldd w a d) :=
  .long (WordFits.qldd w a d) rfl (w := pack 115#7 (pack d (pack a (pack w (pack 9#7 0)))))
    (by dsimp only [pack, Instr.word, BitVec.reduceToNat]; omega) (by simp [decodeMajor39])
theorem Decodes.qst (b : BitVec 6) (a : BitVec 6) (w : BitVec 6) : Decodes (.qst b a w) :=
  .long (WordFits.qst b a w) rfl (w := pack 115#7 (pack w (pack a (pack b (pack 10#7 0)))))
    (by dsimp only [pack, Instr.word, BitVec.reduceToNat]; omega) (by simp [decodeMajor39])
theorem Decodes.qstd (b : BitVec 6) (a : BitVec 6) (w : BitVec 6) : Decodes (.qstd b a w) :=
  .long (WordFits.qstd b a w) rfl (w := pack 115#7 (pack w (pack a (pack b (pack 11#7 0)))))
    (by dsimp only [pack, Instr.word, BitVec.reduceToNat]; omega) (by simp [decodeMajor39])
theorem Decodes.qeval (c : BitVec 4) (b : BitVec 6) (a : BitVec 2) (d : BitVec 2) (w : BitVec 6) : Decodes (.qeval c b a d w) :=
  .long (WordFits.qeval c b a d w) rfl (w := pack 115#7 (pack w (pack 0#2 (pack d (pack a (pack b (pack c (pack 1#3 0))))))))
    (by dsimp only [pack, Instr.word, BitVec.reduceToNat]; omega) (by simp [decodeMajor39])

/-! ### Major 0x3A -/

theorem Decodes.cpy (s : BitVec 3) (q : BitVec 1) (r : BitVec 1) (t : BitVec 1) (n : BitVec 6) : Decodes (.cpy s q r t n) :=
  .long (WordFits.cpy s q r t n) rfl (w := pack 117#7 (pack n (pack 0#6 (pack t (pack r (pack q (pack s (pack 0#7 0))))))))
    (by dsimp only [pack, Instr.word, BitVec.reduceToNat]; omega) (by simp [decodeMajor3A])
theorem Decodes.cpyg (s : BitVec 3) (q : BitVec 1) (r : BitVec 1) (t : BitVec 1) (n : BitVec 6) : Decodes (.cpyg s q r t n) :=
  .long (WordFits.cpyg s q r t n) rfl (w := pack 117#7 (pack n (pack 0#6 (pack t (pack r (pack q (pack s (pack 1#7 0))))))))
    (by dsimp only [pack, Instr.word, BitVec.reduceToNat]; omega) (by simp [decodeMajor3A])
theorem Decodes.mcpost (s : BitVec 3) (q : BitVec 1) (r : BitVec 1) (t : BitVec 1) (n : BitVec 6) : Decodes (.mcpost s q r t n) :=
  .long (WordFits.mcpost s q r t n) rfl (w := pack 117#7 (pack n (pack 0#6 (pack t (pack r (pack q (pack s (pack 2#7 0))))))))
    (by dsimp only [pack, Instr.word, BitVec.reduceToNat]; omega) (by simp [decodeMajor3A])
theorem Decodes.ttset (b : BitVec 6) (a : BitVec 6) (d : BitVec 6) : Decodes (.ttset b a d) :=
  .long (WordFits.ttset b a d) rfl (w := pack 117#7 (pack d (pack a (pack b (pack 64#7 0)))))
    (by dsimp only [pack, Instr.word, BitVec.reduceToNat]; omega) (by simp [decodeMajor3A])
theorem Decodes.tqadd (a : BitVec 6) : Decodes (.tqadd a) :=
  .long (WordFits.tqadd a) rfl (w := pack 117#7 (pack 0#6 (pack a (pack 4160#13 0))))
    (by dsimp only [pack, Instr.word, BitVec.reduceToNat]; omega) (by simp [decodeMajor3A])
theorem Decodes.accsv (b : BitVec 6) (a : BitVec 6) : Decodes (.accsv b a) :=
  .long (WordFits.accsv b a) rfl (w := pack 117#7 (pack 0#6 (pack a (pack b (pack 66#7 0)))))
    (by dsimp only [pack, Instr.word, BitVec.reduceToNat]; omega) (by simp [decodeMajor3A])
theorem Decodes.accsvk (b : BitVec 6) (a : BitVec 6) : Decodes (.accsvk b a) :=
  .long (WordFits.accsvk b a) rfl (w := pack 117#7 (pack 0#6 (pack a (pack b (pack 67#7 0)))))
    (by dsimp only [pack, Instr.word, BitVec.reduceToNat]; omega) (by simp [decodeMajor3A])
theorem Decodes.accld (b : BitVec 6) (a : BitVec 6) : Decodes (.accld b a) :=
  .long (WordFits.accld b a) rfl (w := pack 117#7 (pack 0#6 (pack a (pack b (pack 68#7 0)))))
    (by dsimp only [pack, Instr.word, BitVec.reduceToNat]; omega) (by simp [decodeMajor3A])

/-! ### Major 0x3B -/

theorem Decodes.send (r : BitVec 2) (n : BitVec 4) (b : BitVec 6) (a : BitVec 6) (p : BitVec 6) : Decodes (.send r n b a p) :=
  .long (WordFits.send r n b a p) rfl (w := pack 119#7 (pack p (pack a (pack b (pack n (pack r (pack 0#1 0)))))))
    (by dsimp only [pack, Instr.word, BitVec.reduceToNat]; omega) (by simp [decodeMajor3B])
theorem Decodes.amret : Decodes .amret :=
  .long WordFits.amret rfl (w := pack 119#7 (pack 16777216#25 0))
    (by dsimp only [pack, Instr.word, BitVec.reduceToNat]; omega) (by simp [decodeMajor3B])
theorem Decodes.rfill (b : BitVec 6) (a : BitVec 6) (d : BitVec 6) : Decodes (.rfill b a d) :=
  .long (WordFits.rfill b a d) rfl (w := pack 119#7 (pack d (pack a (pack b (pack 65#7 0)))))
    (by dsimp only [pack, Instr.word, BitVec.reduceToNat]; omega) (by simp [decodeMajor3B])
theorem Decodes.rfillm (b : BitVec 2) (a : BitVec 6) (d : BitVec 6) : Decodes (.rfillm b a d) :=
  .long (WordFits.rfillm b a d) rfl (w := pack 119#7 (pack d (pack a (pack b (pack 1056#11 0)))))
    (by dsimp only [pack, Instr.word, BitVec.reduceToNat]; omega) (by simp [decodeMajor3B])
theorem Decodes.rfillv (b : BitVec 4) (a : BitVec 6) (d : BitVec 6) : Decodes (.rfillv b a d) :=
  .long (WordFits.rfillv b a d) rfl (w := pack 119#7 (pack d (pack a (pack b (pack 268#9 0)))))
    (by dsimp only [pack, Instr.word, BitVec.reduceToNat]; omega) (by simp [decodeMajor3B])
theorem Decodes.rfillc (b : BitVec 3) (a : BitVec 6) (d : BitVec 6) : Decodes (.rfillc b a d) :=
  .long (WordFits.rfillc b a d) rfl (w := pack 119#7 (pack d (pack a (pack b (pack 544#10 0)))))
    (by dsimp only [pack, Instr.word, BitVec.reduceToNat]; omega) (by simp [decodeMajor3B])
theorem Decodes.lturn (b : BitVec 6) (a : BitVec 6) (d : BitVec 6) : Decodes (.lturn b a d) :=
  .long (WordFits.lturn b a d) rfl (w := pack 119#7 (pack d (pack a (pack b (pack 72#7 0)))))
    (by dsimp only [pack, Instr.word, BitVec.reduceToNat]; omega) (by simp [decodeMajor3B])

/-! ### Major 0x3C -/

theorem Decodes.rds (c : BitVec 12) (d : BitVec 6) : Decodes (.rds c d) :=
  .long (WordFits.rds c d) rfl (w := pack 121#7 (pack d (pack c (pack 0#7 0))))
    (by dsimp only [pack, Instr.word, BitVec.reduceToNat]; omega) (by simp [decodeMajor3C])
theorem Decodes.wrs (c : BitVec 12) (s : BitVec 6) : Decodes (.wrs c s) :=
  .long (WordFits.wrs c s) rfl (w := pack 121#7 (pack s (pack c (pack 1#7 0))))
    (by dsimp only [pack, Instr.word, BitVec.reduceToNat]; omega) (by simp [decodeMajor3C])
theorem Decodes.rdts (d : BitVec 6) : Decodes (.rdts d) :=
  .long (WordFits.rdts d) rfl (w := pack 121#7 (pack d (pack 8192#19 0)))
    (by dsimp only [pack, Instr.word, BitVec.reduceToNat]; omega) (by simp [decodeMajor3C])
theorem Decodes.logmark (a : BitVec 6) : Decodes (.logmark a) :=
  .long (WordFits.logmark a) rfl (w := pack 121#7 (pack 0#6 (pack a (pack 192#13 0))))
    (by dsimp only [pack, Instr.word, BitVec.reduceToNat]; omega) (by simp [decodeMajor3C])
theorem Decodes.trap (i : BitVec 12) : Decodes (.trap i) :=
  .long (WordFits.trap i) rfl (w := pack 121#7 (pack 0#6 (pack i (pack 8#7 0))))
    (by dsimp only [pack, Instr.word, BitVec.reduceToNat]; omega) (by simp [decodeMajor3C])
theorem Decodes.brk : Decodes .brk :=
  .long WordFits.brk rfl (w := pack 121#7 (pack 2359296#25 0))
    (by dsimp only [pack, Instr.word, BitVec.reduceToNat]; omega) (by simp [decodeMajor3C])
theorem Decodes.rtt : Decodes .rtt :=
  .long WordFits.rtt rfl (w := pack 121#7 (pack 2621440#25 0))
    (by dsimp only [pack, Instr.word, BitVec.reduceToNat]; omega) (by simp [decodeMajor3C])
theorem Decodes.icinv : Decodes .icinv :=
  .long WordFits.icinv rfl (w := pack 121#7 (pack 2883584#25 0))
    (by dsimp only [pack, Instr.word, BitVec.reduceToNat]; omega) (by simp [decodeMajor3C])
theorem Decodes.plbinv (a : BitVec 6) : Decodes (.plbinv a) :=
  .long (WordFits.plbinv a) rfl (w := pack 121#7 (pack 0#6 (pack a (pack 1024#13 0))))
    (by dsimp only [pack, Instr.word, BitVec.reduceToNat]; omega) (by simp [decodeMajor3C])
theorem Decodes.halt : Decodes .halt :=
  .long WordFits.halt rfl (w := pack 121#7 (pack 4456448#25 0))
    (by dsimp only [pack, Instr.word, BitVec.reduceToNat]; omega) (by simp [decodeMajor3C])
theorem Decodes.evsig (b : BitVec 6) (a : BitVec 6) : Decodes (.evsig b a) :=
  .long (WordFits.evsig b a) rfl (w := pack 121#7 (pack 0#6 (pack a (pack b (pack 18#7 0)))))
    (by dsimp only [pack, Instr.word, BitVec.reduceToNat]; omega) (by simp [decodeMajor3C])

/-! ## Every instruction -/

/-- Every well-formed instruction that has a word is read back from its bytes. -/
theorem decodes_of_wf (i : Instr) (hwf : i.wf = true) (hs : 0 < i.size) : Decodes i := by
  cases i
  case
    lentCycle | fillLands | errorResponse | storeAck | dividerFill | faultNotice | faultWakeRejoin | dequeTake | stealAttempt | stealRequest |
    stealReply | dequeRefill | resourceRequest | resourceRestart | messageArrival | handlerStart | rfillArrival | evsigDelivery | bankAccess |
    homeAccess | partialEviction | bellUpdate | barrierArrival | waitBellNotice | fenceProbe | fenceEcho | atomicIntervalEnd | plbRefill |
    copyAccept | copyStart | copyShare | copyComplete | mcpostDelivery | ttsetServe | taskAccept | taskDispatch | kStep | taskDrain | taskComplete |
    accumulatorMoveRun | engineSelfTest | rollCallArrival | rollCallLeave | packetHop | outputAging | packetDelivery | turnRequest | turnBoundary |
    groupTurnDone | notifyStore | headerPoll | dispatchOpportunity | queueAging | launch | launchStart | launchStateArrival | launchComplete |
    waitsig | nopPacket | setdet | setdetComplete | csrw | qcreate | qdestroy | resize | abort | reservedPacketType | eventRetry | faultRetry |
    fqtailWrite | wake | nqtailWrite | ndone | novfWrite | inval | invalidationDone | eqtailWrite | managementWrite | preemptSave | preemptResume |
    pestatRead | rmdata | remapInstallDone | meshInterrupt | coreStop | quiesceDone | imageWritten | engineSectionRestore | spillRedelivery |
    resumeDone | coreGate | coreWake | rollRecordWrite | logtailWrite | rollRecordTake | hostAccess | hostAtomic | sysatomCasLoop |
    reductionContribution | timestampCorrection | ethernetTransmit | ethernetReceive | moduleReset | resetStepDone | fwgo | firmwareReady |
    firmwareFault | scrubRead | eltailWrite | illegalEncoding | proctorProxyComplete | overflowMemoryGrant | clockLock | linkGroupFence => exact absurd hs (Nat.lt_irrefl 0)
  case bez i d => exact .bez i d hwf
  exacts [
    .mv _ _, .li _ _, .addC16 _ _, .addiC16 _ _, .subC16 _ _, .subi _ _, .andC16 _ _, .andiC16 _ _, .orC16 _ _, .oriC16 _ _, .xorC16 _ _,
    .xoriC16 _ _, .shlC16 _ _, .shliC16 _ _, .shrC16 _ _, .shriC16 _ _, .sarC16 _ _, .sariC16 _ _, .mulC16 _ _, .muliC16 _ _, .minC16 _ _, .mini _ _,
    .maxC16 _ _, .maxi _ _, .sltC16 _ _, .sltiC16 _ _, .lddC16 _ _, .lddG2C16 _ _, .stdC16 _ _, .stdG2C16 _ _, .bnz _ _, .brkC16, .add _ _ _,
    .sub _ _ _, .and _ _ _, .or _ _ _, .xor _ _ _, .shl _ _ _, .shr _ _ _, .sar _ _ _, .mul _ _ _, .min _ _ _, .max _ _ _, .minu _ _ _, .maxu _ _ _,
    .slt _ _ _, .sltu _ _ _, .seq _ _ _, .sne _ _ _, .addw _ _ _, .subw _ _ _, .clz _ _, .ctz _ _, .popc _ _, .brev _ _, .bswap _ _, .rol _ _ _,
    .ror _ _ _, .andn _ _ _, .sextb _ _, .sexth _ _, .sextw _ _, .zextw _ _, .mulh _ _ _, .mulhu _ _ _, .mulhsu _ _ _, .div _ _ _, .divu _ _ _,
    .rem _ _ _, .remu _ _ _, .addi _ _ _, .andi _ _ _, .ori _ _ _, .xori _ _ _, .muli _ _ _, .shli _ _ _, .shri _ _ _, .sari _ _ _, .rori _ _ _,
    .seqi _ _ _, .snei _ _ _, .slti _ _ _, .sgei _ _ _, .sltui _ _ _, .sgeui _ _ _, .liu _ _, .addpc _ _, .lic _ _ _, .lico _ _ _ _, .licn _ _ _,
    .beq _ _ _, .bne _ _ _, .blt _ _ _, .bge _ _ _, .bltu _ _ _, .bgeu _ _ _, .bfull _ _, .bvoid _ _, .j _, .jal _, .jalr _ _ _, .loop _ _, .spawn _,
    .join, .exit, .expect _, .expectm _, .expectv _, .expectc _, .qslot _, .qdeq _, .qlink _, .fadd _ _ _ _, .fsub _ _ _ _, .fmul _ _ _ _,
    .fdiv _ _ _ _, .fsqrt _ _ _, .fmin _ _ _ _, .fmax _ _ _ _, .fsgnj _ _ _ _, .fsgnjn _ _ _ _, .fsgnjx _ _ _ _, .feq _ _ _ _, .flt _ _ _ _,
    .fle _ _ _ _, .fclass _ _ _, .fma _ _ _ _ _, .fcvtSD _ _, .fcvtDS _ _, .fcvtSL _ _, .fcvtSLu _ _, .fcvtDL _ _, .fcvtDLu _ _, .fcvtLS _ _,
    .fcvtLuS _ _, .fcvtLD _ _, .fcvtLuD _ _, .fcvtWS _ _, .fcvtWD _ _, .fcvtHS _ _, .fcvtSH _ _, .fcvtBS _ _, .fcvtSB _ _, .ldb _ _ _ _ _,
    .ldbu _ _ _ _ _, .ldh _ _ _ _ _, .ldhu _ _ _ _ _, .ldw _ _ _ _ _, .ldwu _ _ _ _ _, .ldd _ _ _ _ _, .stb _ _ _ _ _, .sth _ _ _ _ _,
    .stw _ _ _ _ _, .std _ _ _ _ _, .ldbx _ _ _ _, .ldbux _ _ _ _, .ldhx _ _ _ _, .ldhux _ _ _ _, .ldwx _ _ _ _, .ldwux _ _ _ _, .lddx _ _ _ _,
    .stbx _ _ _ _, .sthx _ _ _ _, .stwx _ _ _ _, .stdx _ _ _ _, .ldwo _ _ _ _ _, .lddo _ _ _ _ _, .stwo _ _ _ _ _, .stdo _ _ _ _ _, .ldf _ _,
    .ldtk _ _, .stf _ _, .lres _ _, .scond _ _ _, .lresAcq _ _, .scondRel _ _ _, .cflush _, .cwb _, .cwball, .amoadd _ _ _ _ _, .amoand _ _ _ _ _,
    .amoor _ _ _ _ _, .amoxor _ _ _ _ _, .amomin _ _ _ _ _, .amomax _ _ _ _ _, .amominu _ _ _ _ _, .amomaxu _ _ _ _ _, .amoswap _ _ _ _ _,
    .amocas _ _ _ _ _, .famoadd _ _ _ _ _, .famomin _ _ _ _ _, .famomax _ _ _ _ _, .ldv _ _ _, .ldvv _ _ _, .stv _ _ _ _, .cvclr _, .reconMin _ _ _,
    .reconMax _ _ _, .reconAdd _ _ _, .reconOr _ _ _, .reconAnd _ _ _, .reconLowest _ _ _, .reconHighest _ _ _, .reconValue _ _ _ _, .redW _ _,
    .redD _ _, .fence _, .fenceAcq _, .fenceRel _, .bara _ _ _, .barw _ _ _, .belladd _ _ _, .bellwait _ _ _, .waitres, .waitk _ _ _ _,
    .vadd _ _ _ _ _, .vsub _ _ _ _ _, .vmul _ _ _ _ _, .vmulh _ _ _ _ _, .vmulhu _ _ _ _ _, .vmin _ _ _ _ _, .vmax _ _ _ _ _, .vminu _ _ _ _ _,
    .vmaxu _ _ _ _ _, .vand _ _ _ _ _, .vor _ _ _ _ _, .vxor _ _ _ _ _, .vandn _ _ _ _ _, .vshl _ _ _ _ _, .vshr _ _ _ _ _, .vsar _ _ _ _ _,
    .vaddsat _ _ _ _ _, .vsubsat _ _ _ _ _, .vabs _ _ _ _, .vmov _ _ _ _, .vfadd _ _ _ _ _, .vfsub _ _ _ _ _, .vfmul _ _ _ _ _, .vfmin _ _ _ _ _,
    .vfmax _ _ _ _ _, .vfabs _ _ _ _, .vfneg _ _ _ _, .vadds _ _ _ _ _, .vsubs _ _ _ _ _, .vmuls _ _ _ _ _, .vmulhs _ _ _ _ _, .vmulhus _ _ _ _ _,
    .vmins _ _ _ _ _, .vmaxs _ _ _ _ _, .vminus _ _ _ _ _, .vmaxus _ _ _ _ _, .vands _ _ _ _ _, .vors _ _ _ _ _, .vxors _ _ _ _ _, .vandns _ _ _ _ _,
    .vshls _ _ _ _ _, .vshrs _ _ _ _ _, .vsars _ _ _ _ _, .vaddsats _ _ _ _ _, .vsubsats _ _ _ _ _, .vfadds _ _ _ _ _, .vfsubs _ _ _ _ _,
    .vfmuls _ _ _ _ _, .vfmins _ _ _ _ _, .vfmaxs _ _ _ _ _, .vfma _ _ _ _ _, .vfms _ _ _ _ _, .vfnma _ _ _ _ _, .vfnms _ _ _ _ _, .vmad _ _ _ _ _,
    .vdot4i8 _ _ _ _ _, .vfmas _ _ _ _ _, .vfmss _ _ _ _ _, .vfnmas _ _ _ _ _, .vfnmss _ _ _ _ _, .vmads _ _ _ _ _, .vdot4i8s _ _ _ _ _,
    .vcmp _ _ _ _ _ _, .vcmps _ _ _ _ _ _, .vld _ _ _ _ _, .vst _ _ _ _ _, .vgath _ _ _ _ _ _, .vscat _ _ _ _ _ _, .vlds _ _ _ _, .vsts _ _ _ _,
    .vldsx _ _ _ _ _, .vstsx _ _ _ _ _, .vredadd _ _ _, .vredmin _ _ _, .vredmax _ _ _, .vredminu _ _ _, .vredmaxu _ _ _, .vredor _ _ _,
    .vredand _ _ _, .vredfadd _ _ _, .vredfmin _ _ _, .vredfmax _ _ _, .vbcast _ _ _ _, .vext _ _ _, .vperm _ _ _ _ _, .vrotl _ _ _ _ _,
    .vcomp _ _ _, .viota _ _ _, .kand _ _ _, .kor _ _ _, .kxor _ _ _, .kandn _ _ _, .knot _ _, .kmovg _ _, .krd _ _, .kpopc _ _, .kfirst _ _,
    .vcvtfi _ _ _ _, .vcvtif _ _ _ _, .vcvtuf _ _ _ _, .vcvtfu _ _ _ _, .vpack _ _ _ _ _ _, .vunpk _ _ _ _ _ _, .vcbd _ _ _ _ _, .vcbdi _ _ _ _ _,
    .wing _ _ _, .vwing _ _ _ _ _, .mand _ _ _, .mor _ _ _, .mxor _ _ _, .mandn _ _ _, .mnot _ _, .mmov _ _, .mclr _, .mfill _ _, .mbset _ _,
    .mbclr _ _, .mbtst _ _ _, .mpopc _ _, .mfirst _ _, .mnext _ _ _, .mgetw _ _ _, .mputw _ _ _, .mld _ _, .mst _ _, .stand _ _ _, .leave _,
    .split _ _ _, .qld _ _ _, .qldd _ _ _, .qst _ _ _, .qstd _ _ _, .qeval _ _ _ _ _, .cpy _ _ _ _ _, .cpyg _ _ _ _ _, .mcpost _ _ _ _ _,
    .ttset _ _ _, .tqadd _, .accsv _ _, .accsvk _ _, .accld _ _, .send _ _ _ _ _, .amret, .rfill _ _ _, .rfillm _ _ _, .rfillv _ _ _, .rfillc _ _ _,
    .lturn _ _ _, .rds _ _, .wrs _ _, .rdts _, .logmark _, .trap _, .brk, .rtt, .icinv, .plbinv _, .halt, .evsig _ _]

end Sys2Proof.Laws
end

section
open Sys2Proof Sys2Proof.Laws

/-- Settles O56: each instruction's word is the fields that the decoder's row of it takes apart. -/
theorem decodeEncode : Obligations.DecodeEncode := by
  intro i r hwf hs
  exact ⟨decodes_of_wf i hwf hs r, natToBytes_length _ _⟩
end

section
/-!
O58: every step keeps the canonical form of memory.

Only four operations of the model write `State.mem`: one byte (`tput`), a list of bytes (`pokeMem`), a range cleared or a reset (`filter`).
Each keeps the form (Laws/Table). Everything else hands a state on, so there is one lemma for each function of the model that answers a state,
in the order of the model's files; its proof says from which functions the state comes, along the branches of the definition. A function that
takes a continuation keeps the form if the continuation does. An arm of the dispatch keeps it (`Keeps`) if the state it answers, when it
answers one, has it.
-/

namespace Sys2Proof.Machine

/-! ## The form and the fields of the state -/

/-- A state with the memory of one in canonical form. -/
theorem State.Inv.of_mem {s t : State} (h : s.Inv) (e : t.mem = s.mem) : t.Inv := by
  unfold State.Inv
  rw [e]
  exact h

theorem State.Inv.of_tput {s t : State} {k : Nat} {b : Byte} (h : s.Inv) (e : t.mem = tput 0 s.mem k b) : t.Inv := by
  unfold State.Inv
  rw [e]
  exact twf_tput _ _ _ _ h

theorem twf_pokeMem {m : Memory} {k : Nat} {l : List Byte} (h : twf 0 m = true) : twf 0 (pokeMem m k l) = true := by
  induction l generalizing m k with
  | nil => exact h
  | cons b r ih => exact ih (twf_tput _ _ _ _ h)

theorem State.Inv.of_pokeMem {s t : State} {k : Nat} {l : List Byte} (h : s.Inv) (e : t.mem = pokeMem s.mem k l) : t.Inv := by
  unfold State.Inv
  rw [e]
  exact twf_pokeMem h

theorem State.Inv.of_filter {s t : State} {p : Host.Cell → Bool} (h : s.Inv) (e : t.mem = s.mem.filter p) : t.Inv := by
  unfold State.Inv
  rw [e]
  exact twf_filter _ _ _ h

/-! ## The form and the shapes of a meaning -/

theorem State.Inv.ite {a b : State} {c : Prop} {_ : Decidable c} (ha : a.Inv) (hb : b.Inv) : (if c then a else b).Inv := by
  split <;> assumption

theorem State.Inv.ite_snd {α : Type} {a b : α × State} {c : Prop} {_ : Decidable c} (ha : a.2.Inv) (hb : b.2.Inv) :
    (if c then a else b).2.Inv := by
  split <;> assumption

theorem State.Inv.foldl {α : Type} {f : State → α → State} {l : List α} {s : State} (h : s.Inv) (hf : ∀ s, s.Inv → ∀ a, (f s a).Inv) :
    (l.foldl f s).Inv := by
  induction l generalizing s with
  | nil => exact h
  | cons a l ih => exact ih (hf s h a)

/-- A state that comes with an answer. -/
theorem State.Inv.of_pair {α : Type} {x : α × State} {a : α} {t : State} (e : x = (a, t)) (h : x.2.Inv) : t.Inv := by
  subst e
  exact h

/-- What an agent meets at an address is in canonical form where it comes with a state. -/
def Reach.Inv : Reach → Prop
  | .miss _ => True
  | .bad s => s.Inv
  | .ok _ s => s.Inv

theorem Reach.Inv.miss {c : Nat} : (Reach.miss c).Inv := trivial

theorem Reach.Inv.ite {a b : Reach} {c : Prop} {_ : Decidable c} (ha : a.Inv) (hb : b.Inv) : (if c then a else b).Inv := by
  split <;> assumption

theorem State.Inv.of_bad {x : Reach} {t : State} (e : x = .bad t) (h : x.Inv) : t.Inv := by
  subst e
  exact h

theorem State.Inv.of_ok {x : Reach} {l : List Byte} {t : State} (e : x = .ok l t) (h : x.Inv) : t.Inv := by
  subst e
  exact h

/-- A meaning that answers a state in canonical form, if it answers a next state at all. -/
def Keeps (o : Out) : Prop := ∀ t, o = .next t → t.Inv

theorem Keeps.next {t : State} (h : t.Inv) : Keeps (.next t) := by
  rintro _ ⟨⟩
  exact h

theorem Keeps.fault {f : Fault} : Keeps (.fault f) := by
  rintro _ ⟨⟩

theorem Keeps.ite {a b : Out} {c : Prop} {_ : Decidable c} (ha : Keeps a) (hb : Keeps b) : Keeps (if c then a else b) := by
  split <;> assumption

/-! ## The form and folds that carry a second part, and what comes next -/

theorem State.Inv.foldl_snd {α β : Type} {f : β × State → α → β × State} {l : List α} {x : β × State} (h : x.2.Inv)
    (hf : ∀ x, x.2.Inv → ∀ a, (f x a).2.Inv) : (l.foldl f x).2.Inv := by
  induction l generalizing x with
  | nil => exact h
  | cons a l ih => exact ih (hf x h a)

/-- What comes next leaves memory in canonical form. -/
def Plan.Inv : Plan → Prop
  | .hardware _ s => s.Inv
  | .issue _ _ s => s.Inv
  | .settled s => s.Inv

section
variable {s : State}

/-! ## The shared operations (Machine/Ops) -/

theorem State.Inv.setThread {t v} (h : s.Inv) : (s.setThread t v).Inv := h
theorem State.Inv.setCore {c v} (h : s.Inv) : (s.setCore c v).Inv := h
theorem State.Inv.setDie {d v} (h : s.Inv) : (s.setDie d v).Inv := h
theorem State.Inv.setSlice {x v} (h : s.Inv) : (s.setSlice x v).Inv := h
theorem State.Inv.setCtx {c v} (h : s.Inv) : (s.setCtx c v).Inv := h
theorem State.Inv.updThread {t f} (h : s.Inv) : (s.updThread t f).Inv := .setThread h
theorem State.Inv.updCore {c f} (h : s.Inv) : (s.updCore c f).Inv := .setCore h
theorem State.Inv.updDie {d f} (h : s.Inv) : (s.updDie d f).Inv := .setDie h
theorem State.Inv.updSlice {x f} (h : s.Inv) : (s.updSlice x f).Inv := .setSlice h
theorem State.Inv.updCtx {c f} (h : s.Inv) : (s.updCtx c f).Inv := .setCtx h
theorem State.Inv.upd {f} (h : s.Inv) : (s.upd f).Inv := .updThread h
theorem State.Inv.after {n i} (h : s.Inv) : (s.after n i).Inv := h
theorem State.Inv.afterOnce {n i} (h : s.Inv) : (s.afterOnce n i).Inv := .ite h (.after h)
theorem State.Inv.nextFree (h : s.Inv) : s.nextFree.Inv := h
theorem State.Inv.wakeCore {c} (h : s.Inv) : (s.wakeCore c).Inv := .ite (.afterOnce (.ite (.updCore h) h)) (.ite (.updCore h) h)
theorem State.Inv.wake {t} (h : s.Inv) : (s.wake t).Inv := .ite (.wakeCore (.updThread h)) h
theorem State.Inv.restCore {c} (h : s.Inv) : (s.restCore c).Inv := .ite h (.afterOnce (.updCore h))
theorem State.Inv.parkOn {p} (h : s.Inv) : (s.parkOn p).Inv := .upd h
theorem State.Inv.markDirty {k n} (h : s.Inv) : (s.markDirty k n).Inv := .ite (.updCore h) h
theorem State.Inv.poke {k l} (h : s.Inv) : (s.poke k l).Inv := .markDirty (.of_pokeMem h rfl)

theorem State.Inv.flushEvents_go {d l} (h : s.Inv) : (State.flushEvents.go d l s).Inv := by
  induction l generalizing s with
  | nil => exact .updDie h
  | cons r rest ih => exact .ite (.afterOnce (.updDie h)) (ih (.updDie (.poke h)))

theorem State.Inv.flushEvents {d} (h : s.Inv) : (s.flushEvents d).Inv := by
  unfold State.flushEvents
  split
  exacts [h, .flushEvents_go h]

theorem State.Inv.postEvent {d source code extra who payload} (h : s.Inv) : (s.postEvent d source code extra who payload).Inv :=
  .flushEvents (.updDie h)
theorem State.Inv.logError {d code kind unit addr detail} (h : s.Inv) : (s.logError d code kind unit addr detail).Inv := .ite (.updDie h) (.updDie h)
theorem State.Inv.takeTrap_stop {t cause th double} {s1 : State} (hs1 : s1.Inv) : (State.takeTrap.stop s t cause s1 th double).Inv :=
  .postEvent (.updThread hs1)

theorem State.Inv.takeTrap {t cause info len} (h : s.Inv) : (s.takeTrap t cause info len).Inv := by
  unfold State.takeTrap
  extract_lets
  split
  exacts [.updThread (.updThread h), .takeTrap_stop (.updThread h), .ite (.takeTrap_stop (.updThread h)) (.updThread (.updThread h))]

theorem State.Inv.trap {cause info len} (h : s.Inv) : (s.trap cause info len).Inv := .takeTrap h
theorem State.Inv.illegal {len} (h : s.Inv) : (s.illegal len).Inv := .trap h
theorem State.Inv.priv {len} (h : s.Inv) : (s.priv len).Inv := .trap h

theorem State.Inv.voidTrap {r len} (h : s.Inv) : (s.voidTrap r len).Inv := by
  unfold State.voidTrap
  extract_lets
  split <;> exact .trap h

theorem State.Inv.dropSI {t} (h : s.Inv) : (s.dropSI t).Inv := .ite (.updCore h) h
theorem State.Inv.noteReads {l} (h : s.Inv) : (s.noteReads l).Inv := .ite (.dropSI (.upd (.ite (.upd h) h))) (.ite (.upd h) h)

theorem State.Inv.issue {x} {k : State → State} (hk : ∀ s, s.Inv → (k s).Inv) (h : s.Inv) : (issue x k s).Inv := by
  unfold Machine.issue
  refine .ite (.illegal h) (.ite (.priv h) ?_)
  split
  · exact .voidTrap h
  · split
    · exact .parkOn h
    · split
      exacts [.parkOn h, hk _ (.noteReads h)]

theorem State.Inv.advance {len} (h : s.Inv) : (s.advance len).Inv := .upd h
theorem State.Inv.transfer {target call} (h : s.Inv) : (s.transfer target call).Inv := .upd h
theorem State.Inv.done {len f} (h : s.Inv) : (s.done len f).Inv := .advance (.upd h)
theorem State.Inv.request {die kind addr t} (h : s.Inv) : (s.request die kind addr t).Inv := .after h

/-! ## Flags (Machine/Flags) -/

theorem State.Inv.fpResult {d v f} (h : s.Inv) : (fpResult d v f s).Inv := .ite (.trap (.upd h)) (.done h)

/-! ## Addresses and rights (Machine/Address) -/

theorem State.Inv.checkRight {va need len} {k : State → State} (hk : ∀ s, s.Inv → (k s).Inv) (h : s.Inv) : (checkRight va need len k s).Inv := by
  unfold Machine.checkRight
  refine .ite (hk _ h) ?_
  extract_lets
  split
  exacts [.ite (hk _ (.updCore h)) (.trap (.updCore h)), .afterOnce (.parkOn h)]

theorem State.Inv.checkAddr {va size need len} {k : Place → State → State} (hk : ∀ x s, s.Inv → (k x s).Inv) (h : s.Inv) :
    (checkAddr va size need len k s).Inv := by
  unfold Machine.checkAddr
  split
  exacts [.trap h, .ite (.trap h) (.checkRight (fun _ h1 => hk _ _ h1) h)]

theorem State.Inv.checkTarget {t len} {k : State → State} (hk : ∀ s, s.Inv → (k s).Inv) (h : s.Inv) : (checkTarget t len k s).Inv :=
  .ite (.trap h) (.ite (.trap h) (.checkRight hk h))
theorem State.Inv.allocated {pg va} (h : s.Inv) : (s.allocated pg va).Inv := .ite h h
theorem State.Inv.cacheWalk {pg va ctx ready} (h : s.Inv) : (s.cacheWalk pg va ctx ready).Inv := .ite h (.updSlice (.allocated h))

theorem State.Inv.walked {ctx va ev} {k : State → State} (h : s.Inv) (hk : ∀ s, s.Inv → (k s).Inv) : (s.walked ctx va ev k).Inv := by
  unfold State.walked
  split
  exacts [hk _ h, .ite (hk _ h) (.after (.cacheWalk h))]

/-! ## Servers and their queues (Machine/Arbiter) -/

theorem State.Inv.setBank {b} (h : s.Inv) : (s.setBank b).Inv := h
theorem State.Inv.takeShort {vs} (h : s.Inv) : (s.takeShort vs).Inv := .foldl h (fun _ h1 _ => .setBank h1)
theorem State.Inv.leaveBank {i} (h : s.Inv) : (s.leaveBank i).Inv := h
theorem State.Inv.again {i} (h : s.Inv) : (s.again i).Inv := .after h

theorem State.Inv.atServer {old x} {k : State → State} (h : s.Inv) (hk : ∀ s, s.Inv → (k s).Inv) : (s.atServer old x k).Inv := by
  unfold State.atServer
  split
  · exact .after h
  · extract_lets
    split
    exacts [.ite (hk _ (.setBank h)) (.again h), .again h]

/-! ## The order that a roll keeps (Machine/Record) -/

theorem State.Inv.nextOrd {t} (h : s.Inv) : (s.nextOrd t).Inv := .updCtx h
theorem State.Inv.record {c r} (h : s.Inv) : (s.record c r).Inv := .afterOnce (.updCtx h)
theorem State.Inv.note {t typ op ord val obj} (h : s.Inv) : (s.note t typ op ord val obj).Inv := .ite (.record h) h
theorem State.Inv.wakeRoll {c} (h : s.Inv) : (s.wakeRoll c).Inv := .foldl h (fun _ h1 _ => .wake h1)
theorem State.Inv.unqueue {c idx} (h : s.Inv) : (s.unqueue c idx).Inv := .wakeRoll (.updCtx h)
theorem State.Inv.noteWrite {t key rel ord rmw} (h : s.Inv) : (s.noteWrite t key rel ord rmw).Inv := .ite (.ite h (.ite h h)) h
theorem State.Inv.forget {key len} (h : s.Inv) : (s.forget key len).Inv := .ite h h

theorem State.Inv.served_takeOut {r c typ} (h : s.Inv) : (State.served.takeOut r c typ s).Inv := by
  unfold State.served.takeOut
  split
  exacts [.unqueue h, h]

theorem State.Inv.served {r key val} (h : s.Inv) : (s.served r key val).Inv := by
  unfold State.served
  split
  exacts [h, .ite (.ite (.note (.note h)) (.note h)) (.ite (.ite (.served_takeOut (.served_takeOut h)) (.served_takeOut h)) h)]

/-! ## Banks (Machine/Bank) -/

theorem State.Inv.updReq {id f} (h : s.Inv) : (s.updReq id f).Inv := h
theorem State.Inv.dropReq {id} (h : s.Inv) : (s.dropReq id).Inv := h
theorem State.Inv.logUnit {tid part c place u} (h : s.Inv) : (s.logUnit tid part c place u).Inv := .nextFree (.logError h)
theorem State.Inv.logRoute {r u} (h : s.Inv) : (s.logRoute r u).Inv := .logUnit h

theorem State.Inv.reply {r0} (h : s.Inv) : (s.reply r0).Inv := by
  unfold State.reply
  refine .after (.updReq ?_)
  split
  exacts [.logRoute h, h]

theorem State.Inv.endWait {key w} (h : s.Inv) : (s.endWait key w).Inv := by
  unfold State.endWait
  split
  · split
    exacts [.reply (.served h), h]
  · split
    exacts [.after h, h]
  · split
    exacts [.after h, h]

theorem State.Inv.wakeWaiters {key} (h : s.Inv) : (s.wakeWaiters key).Inv := by
  unfold State.wakeWaiters
  exact .foldl h (fun _ h1 _ => by split; exacts [.ite h1 (.endWait h1), .endWait h1])

theorem State.Inv.setFull {word} (h : s.Inv) : (s.setFull word).Inv := .ite h h
theorem State.Inv.setEmpty {word} (h : s.Inv) : (s.setEmpty word).Inv := h
theorem State.Inv.breakResv {granule own} (h : s.Inv) : (s.breakResv granule own).Inv := .foldl h (fun _ h1 _ => .wake (.updThread h1))
theorem State.Inv.updateCopy {c key l} (h : s.Inv) : (s.updateCopy c key l).Inv := .ite (.updCore h) h
theorem State.Inv.dropWt {key own} (h : s.Inv) : (s.dropWt key own).Inv := .ite h h
theorem State.Inv.noteOld {key n} (h : s.Inv) : (s.noteOld key n).Inv := .ite h h
theorem State.Inv.noteLine {l off n} (h : s.Inv) : (s.noteLine l off n).Inv := h
theorem State.Inv.putRaw {key l} (h : s.Inv) : (s.putRaw key l).Inv := .ite (.poke h) (.poke h)
theorem State.Inv.putBytes {key l} (h : s.Inv) : (s.putBytes key l).Inv := .putRaw (.noteOld h)
theorem State.Inv.evictSI {c key} (h : s.Inv) : (s.evictSI c key).Inv := .ite (.updCore h) h

theorem State.Inv.doSync {r word} (h : s.Inv) : (s.doSync r word).Inv := by
  unfold State.doSync
  extract_lets
  split
  · exact .reply (.breakResv (.setEmpty (.evictSI (.served h))))
  · extract_lets s0 s1
    have hs1 : s1.Inv := .breakResv (.setFull (.updateCopy (.putBytes (.dropWt (.noteWrite (.served h))))))
    exact .reply (.ite (.wakeWaiters hs1) (.wakeWaiters (.wakeWaiters hs1)))
  · exact .reply (.evictSI (.served h))

theorem State.Inv.admitSync {v} (h : s.Inv) : (s.admitSync v).Inv := by
  unfold State.admitSync
  refine .ite ?_ h
  split
  · split <;> exact h
  · exact h

theorem State.Inv.serveWord_out {id} (h : s.Inv) : (State.serveWord.out s id).Inv := h

theorem State.Inv.serveWord_go {word l} (h : s.Inv) : (State.serveWord.go word l s).Inv := by
  induction l generalizing s with
  | nil => exact h
  | cons e rest ih =>
    unfold State.serveWord.go
    split
    · exact ih h
    · exact .ite (ih (.admitSync (.doSync (.serveWord_out h)))) h

theorem State.Inv.serveWord {word} (h : s.Inv) : (s.serveWord word).Inv := .serveWord_go h

theorem State.Inv.landed {key len} (h : s.Inv) : (s.landed key len).Inv := by
  unfold State.landed
  extract_lets words s1 s2
  have hs2 : s2.Inv := .foldl (.foldl h (fun _ h1 _ => .serveWord (.setFull h1))) (fun _ h2 _ => .breakResv h2)
  exact .ite hs2 (.foldl (.foldl hs2 (fun _ h3 _ => .wakeWaiters h3)) (fun _ h4 _ => .ite h4 (.wakeWaiters h4)))

theorem State.Inv.bankWrite {key l} (h : s.Inv) : (s.bankWrite key l).Inv := .landed (.putBytes h)

theorem State.Inv.eccRead {key len detail} (h : s.Inv) : (s.eccRead key len detail).Inv := by
  unfold State.eccRead
  refine .foldl h ?_
  intro _ h1 _
  extract_lets
  split
  exacts [h1, .logError h1, .logError h1]

theorem State.Inv.touch {t g} (h : s.Inv) : (s.touch t g).Inv := by
  unfold State.touch
  extract_lets s1
  have hs1 : s1.Inv := .updThread h
  clear_value s1
  split <;> exact hs1

theorem State.Inv.writeBack {l} (h : s.Inv) : (s.writeBack l).Inv :=
  .ite (.foldl (.foldl (.foldl h (fun _ h1 _ => .touch h1)) (fun _ h2 _ => .putRaw h2)) (fun _ h3 _ => .landed h3)) h
theorem State.Inv.dropLine {c key p} (h : s.Inv) : (s.dropLine c key p).Inv := .foldl (.updCore h) (fun _ h1 _ => .writeBack h1)
theorem State.Inv.lineStored {c key len} (h : s.Inv) : (s.lineStored c key len).Inv := .ite (.dropLine h) (.foldl h (fun _ h1 _ => .setFull h1))
theorem State.Inv.recall {key write own} (h : s.Inv) : (s.recall key write own).Inv := .foldl h (fun _ h1 _ => .dropLine h1)

theorem State.Inv.install {c ln} (h : s.Inv) : (s.install c ln).Inv := by
  unfold State.install
  extract_lets x set victim
  cases victim with
  | none => exact .updCore h
  | some v => exact .ite (.after (.updCore h)) (.writeBack (.updCore h))

theorem State.Inv.writeBackThread {t} (h : s.Inv) : (s.writeBackThread t).Inv := .ite h (.foldl (.updCore h) (fun _ h1 _ => .writeBack h1))
theorem State.Inv.credit {bell amount code} (h : s.Inv) : (s.credit bell amount code).Inv :=
  .ite h (.landed (.ite (.poke (.poke h)) (.poke (.poke (.poke h)))))
theorem State.Inv.bellReport {bell code} (h : s.Inv) : (s.bellReport bell code).Inv := .ite h (.landed (.poke h))

theorem State.Inv.writeSpill {c all} (h : s.Inv) : (s.writeSpill c all).Inv := by
  unfold State.writeSpill
  extract_lets x
  clear_value x
  split
  · exact h
  · refine .nextFree (.foldl_snd h ?_)
    intro acc h1 _
    refine .ite_snd h1 ?_
    dsimp only
    exact .foldl h1 (fun _ h2 _ => .bankWrite h2)

theorem State.Inv.spill {c i} (h : s.Inv) : (s.spill c i).Inv := .ite (.again (.ite h (.request h))) (.writeSpill (.updCore h))
theorem State.Inv.atCore {t i} {k : State → State} (h : s.Inv) (hk : ∀ s, s.Inv → (k s).Inv) : (s.atCore t i k).Inv := .ite (.spill h) (hk _ h)

/-! ## Siblings (Machine/Siblings) -/

theorem State.Inv.nextProxy {slice key} (h : s.Inv) : (s.nextProxy slice key).Inv := .ite h (.request h)

theorem State.Inv.dropProxy {who} (h : s.Inv) : (s.dropProxy who).Inv := by
  unfold State.dropProxy
  split
  exacts [.nextProxy (.updSlice h), h]

theorem State.Inv.sibGate {slice key who need} {refuse : State → State} {k : State → State} (h : s.Inv) (hrefuse : ∀ s, s.Inv → (refuse s).Inv)
    (hk : ∀ s, s.Inv → (k s).Inv) : (s.sibGate slice key who need refuse k).Inv := by
  unfold State.sibGate
  extract_lets
  split
  · refine .ite h (.ite (hk _ (.dropProxy h)) ?_)
    exact .ite (hrefuse _ (.nextFree (.dropProxy h))) (.ite (hk _ (.nextFree (.dropProxy h))) (hk _ (.updSlice (.nextFree (.dropProxy h)))))
  · exact .ite (hk _ h) (.nextProxy (.updSlice h))

theorem State.Inv.sibProxy {die key} (h : s.Inv) : (s.sibProxy die key).Inv := by
  unfold State.sibProxy
  split
  · exact h
  · split
    exacts [h, .after (.updSlice h)]

theorem State.Inv.putSib {slice key va w} (h : s.Inv) : (s.putSib slice key va w).Inv := by
  unfold State.putSib
  extract_lets
  split
  exacts [.bankWrite (.updSlice h), .updSlice h]

theorem State.Inv.sibStore {who slice key va writer value} {refuse : State → State} {full : State → State} {done : State → State} (h : s.Inv)
    (hrefuse : ∀ s, s.Inv → (refuse s).Inv) (hfull : ∀ s, s.Inv → (full s).Inv) (hdone : ∀ s, s.Inv → (done s).Inv) :
    (s.sibStore who slice key va writer value refuse full done).Inv := by
  unfold State.sibStore
  split
  exacts [.sibGate h hrefuse hfull, .sibGate h hrefuse (fun _ h1 => hdone _ (.putSib h1))]

theorem State.Inv.combineWord {slice key aop} (h : s.Inv) : (s.combineWord slice key aop).Inv := .ite h (.bankWrite (.updSlice h))
theorem State.Inv.combineLine {slice key aop} (h : s.Inv) : (s.combineLine slice key aop).Inv :=
  .foldl (.foldl h (fun _ h1 _ => .combineWord h1)) (fun _ h2 _ => .updCore h2)
theorem State.Inv.foldAt {t va key aop v} (h : s.Inv) : (s.foldAt t va key aop v).Inv := .updCore (.ite h (.install h))

/-! ## Faults at homes (Machine/Faults) -/

theorem State.Inv.writeFault {slice block} (h : s.Inv) : (s.writeFault slice block).Inv := by
  unfold State.writeFault
  extract_lets
  split
  exacts [h, .ite (.afterOnce h) (.updSlice (.updDie (.poke h)))]

theorem State.Inv.parkFault {slice va cause who item} (h : s.Inv) : (s.parkFault slice va cause who item).Inv :=
  .ite (.setSlice h) (.ite (.setSlice h) (.writeFault (.updSlice (.updDie h))))

theorem State.Inv.countPage {slice va pg from_} (h : s.Inv) : (s.countPage slice va pg from_).Inv := by
  unfold State.countPage
  extract_lets d mctl m x page free least slot t f q
  refine .ite h ?_
  clear_value slot
  cases slot with
  | none => exact h
  | some i =>
    refine .ite (.updSlice h) (.ite (.updSlice h) (.ite (.updDie (.updSlice h)) ?_))
    exact .updDie (.updSlice (.poke h))

theorem State.Inv.homeRead {key n} (h : s.Inv) : (s.homeRead key n).2.Inv := .eccRead (.foldl h (fun _ h1 _ => .recall h1))
theorem State.Inv.homeWrite {key l} (h : s.Inv) : (s.homeWrite key l).Inv := .bankWrite (.forget (.foldl h (fun _ h1 _ => .recall h1)))
theorem State.Inv.combineRange {pg va n} (h : s.Inv) : (s.combineRange pg va n).Inv := .ite (.foldl h (fun _ h1 _ => .combineLine h1)) h

theorem State.Inv.logHome {va slice detail} (h : s.Inv) : (s.logHome va slice detail).Inv := by
  unfold State.logHome
  split
  exacts [.ite (.logError h) (.logError h), .logError h]

theorem State.Inv.pageRead {pg va n} (h : s.Inv) : (s.pageRead pg va n).2.Inv := .homeRead (.combineRange h)

theorem Reach.Inv.globalRead {die va n} (h : s.Inv) : (s.globalRead die va n).Inv := by
  unfold State.globalRead
  split
  exacts [.miss, .ite .miss (.ite (.logHome h) (.ite (.eccRead h) (.pageRead (.countPage h))))]

theorem Reach.Inv.globalWrite {die va l} (h : s.Inv) : (s.globalWrite die va l).Inv := by
  unfold State.globalWrite
  split
  exacts [.miss, .ite .miss (.ite (.logHome h) (.homeWrite (.combineRange (.countPage h))))]

/-! ## The roll (Machine/Roll) -/

theorem State.Inv.updRoll {c f} (h : s.Inv) : (s.updRoll c f).Inv := .updCtx h
theorem State.Inv.rollEvent {c code} (h : s.Inv) : (s.rollEvent c code).Inv := .postEvent h
theorem State.Inv.parkRoll {c va cause kind} (h : s.Inv) : (s.parkRoll c va cause kind).Inv := .parkFault (.updRoll h)

theorem State.Inv.report {t expected actual} {a : Word} {s1 : State} (h : s.Inv) (e : s.report t expected actual = .ok (a, s1)) : s1.Inv := by
  unfold State.report at e
  extract_lets c r a bytes done at e
  have hdone {s} (h : s.Inv) : (done s).2.Inv := .updCtx h
  split at e
  · cases e
  · next e1 => exact .of_pair (Except.ok.inj e) (hdone (.of_bad e1 (.globalWrite h)))
  · next e1 => exact .of_pair (Except.ok.inj e) (hdone (.of_ok e1 (.globalWrite h)))

theorem State.Inv.diverge {t expected actual} {hold : State → State} {k : Word → State → State} (h : s.Inv) (hhold : ∀ s, s.Inv → (hold s).Inv)
    (hk : ∀ x s, s.Inv → (k x s).Inv) : (s.diverge t expected actual hold k).Inv := by
  unfold State.diverge
  refine .ite (hhold _ h) ?_
  split
  · next e => exact hk _ _ (.report h e)
  · exact hhold _ (.parkRoll h)

theorem State.Inv.divergeAtIssue {len expected actual} (h : s.Inv) : (s.divergeAtIssue len expected actual).Inv :=
  .diverge h (fun _ h1 => .parkOn h1) (fun _ _ h2 => .trap h2)

theorem State.Inv.refusedAt {c typ op obj t ord} {hold : State → State} {k : State → State} (h : s.Inv) (hhold : ∀ s, s.Inv → (hold s).Inv)
    (hk : ∀ s, s.Inv → (k s).Inv) : (s.refusedAt c typ op obj t ord hold k).Inv := by
  unfold State.refusedAt
  split
  exacts [hhold _ h, hk _ (.ite (.record h) h), hk _ (.unqueue h)]

theorem State.Inv.claim {c l} (h : s.Inv) : (s.claim c l).Inv := .updCtx h

theorem State.Inv.loggable {len typ op obj byOp also} {k : Option Nat → State → State} (hk : ∀ x s, s.Inv → (k x s).Inv) (h : s.Inv) :
    (loggable len typ op obj byOp also k s).Inv := by
  unfold Machine.loggable
  extract_lets
  split
  · exact .ite (.parkOn h) (.ite (.parkOn (.ite h (.rollEvent (.updCtx h)))) (hk _ _ (.nextOrd h)))
  · refine .ite (.parkOn h) ?_
    split
    · exact .ite (.divergeAtIssue h) (.parkOn h)
    · refine .ite (.divergeAtIssue h) (.ite ?_ (hk _ _ (.nextOrd (.claim h))))
      split
      exacts [.ite (.divergeAtIssue h) (.parkOn h), .ite (.divergeAtIssue h) (hk _ _ (.nextOrd (.claim h)))]
  · exact hk _ _ h

theorem State.Inv.ordinal {len} {k : Option Nat → State → State} (hk : ∀ x s, s.Inv → (k x s).Inv) (h : s.Inv) : (ordinal len k s).Inv := by
  unfold Machine.ordinal
  extract_lets
  split
  · exact hk _ _ (.nextOrd h)
  · split
    exacts [.ite (.divergeAtIssue h) (hk _ _ (.nextOrd h)), hk _ _ (.nextOrd h)]
  · exact hk _ _ h

/-! ## Homes (Machine/Home) -/

theorem State.Inv.failAt {r slice addr code} (h : s.Inv) : (s.failAt r slice addr code).Inv := by
  unfold State.failAt
  refine .reply (.served ?_)
  split
  exacts [.ite h (.ite (.logHome h) (.logError h)), h]

theorem State.Inv.faultReq {r piece slice va cause} (h : s.Inv) : (s.faultReq r piece slice va cause).Inv := .after (.parkFault (.updReq h))

theorem State.Inv.pollQueue {part queue} (h : s.Inv) : (s.pollQueue part queue).Inv := by
  unfold State.pollQueue
  split
  exacts [.ite h (.afterOnce h), h]

theorem State.Inv.notify {part queue v host} {s1 : State} (h : s.Inv) (e : s.notify part queue v host = some s1) : s1.Inv := by
  unfold State.notify at e
  split at e
  · cases e
  · split at e
    · cases e
    · extract_lets a b at e
      split at e
      · cases e
      · split at e
        · cases e
          exact .pollQueue h
        · cases e
          exact h

theorem State.Inv.notifyAccess {r key part off} {err : State → State} (h : s.Inv) (herr : ∀ s, s.Inv → (err s).Inv) :
    (s.notifyAccess r key part off err).Inv := by
  unfold State.notifyAccess
  split
  · exact herr _ h
  · split
    · exact .ite (.reply (.served h)) (herr _ h)
    · refine .ite ?_ (herr _ h)
      split
      · next e => exact .reply (.notify (.noteWrite h) e)
      · exact herr _ h
    · exact herr _ h

theorem State.Inv.wait {key ctx w counted} (h : s.Inv) : (s.wait key ctx w counted).Inv := .ite (.ite (.request h) h) (.ite (.request h) h)
theorem State.Inv.addWaiter {key r} (h : s.Inv) : (s.addWaiter key r).Inv := .wait (.updReq h)

theorem State.Inv.addSync {word r} (h : s.Inv) : (s.addSync word r).Inv := by
  unfold State.addSync
  extract_lets v s1 input
  have hs1 : s1.Inv := .updReq h
  exact .ite hs1 hs1

theorem State.Inv.arrive {key} (h : s.Inv) : (s.arrive key).Inv := .ite h (.ite (.landed (.poke h)) (.bankWrite h))
theorem State.Inv.atKey_bothWords {r key rel} (h : s.Inv) : (State.atKey.bothWords r key s rel).Inv := .noteWrite (.noteWrite h)

theorem State.Inv.atKey_lostOut {r} (h : s.Inv) : (State.atKey.lostOut r s).Inv := by
  unfold State.atKey.lostOut
  split
  exacts [.diverge h (fun _ h1 => .again h1) (fun _ _ h2 => .reply h2), .again h]

theorem State.Inv.atKey_sync {r key} (h : s.Inv) : (State.atKey.sync r key s).Inv := .ite (.serveWord (.doSync h)) (.addSync h)
theorem State.Inv.atKey_wait {r key} (h : s.Inv) : (State.atKey.wait r key s).Inv := .ite (.endWait h) (.addWaiter h)

theorem State.Inv.atKey {r key forced} (h : s.Inv) : (s.atKey r key forced).Inv := by
  unfold State.atKey
  extract_lets ok c put
  have hok {s v} (h : s.Inv) : (ok s v).Inv := .reply h
  have hput {s n v} (h : s.Inv) : (put s n v).Inv := .updateCopy (.bankWrite (.noteWrite h))
  clear_value ok put
  generalize r.op = o
  cases o
  case load => exact hok (.served h)
  case store => exact hok (.updateCopy (.bankWrite (.noteWrite h)))
  case amo => exact hok (hput (.served h))
  case famo => exact .reply (hput (.served h))
  case lres => exact hok (.updThread (.served h))
  case scond => exact .ite (.atKey_lostOut h) (.ite (hok (hput (.served (.updThread h)))) (hok (.served (.updThread h))))
  case bara => exact hok (.arrive (.atKey_bothWords h))
  case bellAdd => exact hok (.credit (.ite h (.atKey_bothWords h)))
  case ldf | ldtk | stf => exact .atKey_sync h
  case barw | bellWait | joinRead => exact .atKey_wait h
  case frameLink | frameInc | frameDec | startZero => exact hok (hput h)
  all_goals exact hok h

theorem State.Inv.useLine {t l} (h : s.Inv) : (s.useLine t l).Inv := .updCore h
theorem State.Inv.fetchLine {t va key typ} (h : s.Inv) : (s.fetchLine t va key typ).Inv := .install (.eccRead (.dropLine (.recall h)))
theorem State.Inv.cachedLoad {r va key n sg typ} (h : s.Inv) : (s.cachedLoad r va key n sg typ).Inv := .reply (.served (.fetchLine h))
theorem State.Inv.storeHit {t va l b} (h : s.Inv) : (s.storeHit t va l b).Inv := .lineStored (.noteWrite (.breakResv (.updCore (.noteLine h))))
theorem State.Inv.fetchStore {t va key b rel ord} (h : s.Inv) : (s.fetchStore t va key b rel ord).Inv :=
  .lineStored (.install (.noteOld (.eccRead (.noteWrite (.breakResv (.dropLine (.recall h)))))))
theorem State.Inv.cachedStore {r va key n v} (h : s.Inv) : (s.cachedStore r va key n v).Inv := .reply (.fetchStore h)
theorem State.Inv.sample {slice va core slot typ part} (h : s.Inv) : (s.sample slice va core slot typ part).Inv :=
  .ite h (.ite (.updSlice h) (.ite (.updDie (.updSlice h)) (.updDie (.poke (.updSlice h)))))
theorem State.Inv.releaseFence {t} (h : s.Inv) : (s.releaseFence t).Inv := .updThread (.writeBackThread h)

theorem State.Inv.versioned {r slice key ev} (h : s.Inv) : (s.versioned r slice key ev).Inv := by
  unfold State.versioned
  extract_lets
  split
  · exact .sibGate h (fun _ h1 => .failAt h1) (fun _ h2 => .reply (.served h2))
  · exact .sibGate h (fun _ h3 => .failAt h3) (fun _ h4 => .reply (.served h4))
  · split
    · exact .failAt h
    · split
      · exact .sibGate h (fun _ h5 => .failAt h5) (fun _ h6 => .reply (.served (.putSib (.noteWrite h6))))
      · exact .sibGate h (fun _ h7 => .failAt h7) (fun _ h8 => .reply (.served (.logError h8)))
  · split
    · exact .failAt h
    · extract_lets
      split
      exacts [.sibGate h (fun _ h9 => .failAt h9) (fun _ h10 => .reply (.served (.putSib (.noteWrite h10)))), .failAt h]
  · exact .failAt h

theorem State.Inv.atHome {r pg va forced} (h : s.Inv) : (s.atHome r pg va forced).Inv := by
  unfold State.atHome
  extract_lets slice key kind typ err own ev s1
  have hs1 : s1.Inv := .ite (.evictSI h) h
  have herr : ∀ s, s.Inv → (err s).Inv := fun _ h => .failAt h
  have hkey {s : State} (h : s.Inv) : (s.atKey r key forced).Inv := .atKey h
  clear_value s1 err
  split
  · exact .notifyAccess hs1 herr
  · refine .ite (herr _ hs1) (.ite (herr _ hs1) (.ite ?_ (.ite ?_ ?_)))
    · split
      · exact .ite (.again hs1) (.ite (.reply (.after (.releaseFence hs1))) (herr _ hs1))
      · exact herr _ hs1
    · split
      · exact .sibGate hs1 herr (fun _ h => .reply (.served h))
      · refine .ite (herr _ hs1) ?_
        split
        · exact herr _ hs1
        · exact .sibStore hs1 herr (fun _ h => .reply (.logError h)) (fun _ h => .reply (.noteWrite h))
      · exact .reply hs1
      · exact .sibGate hs1 herr (fun _ h => hkey h)
      · exact .sibGate hs1 herr (fun _ h => hkey h)
      · exact .versioned hs1
    · generalize r.op = op
      cases op
      case ldv | ldvv | stv | recon => exact herr _ hs1
      case red => exact .ite (.reply (.foldAt hs1)) (herr _ hs1)
      case load => exact .ite (hkey (.combineLine (.recall hs1))) (.ite (.cachedLoad hs1) (hkey (.recall hs1)))
      case store => exact .ite (hkey (.combineLine (.recall hs1))) (.ite (.cachedStore hs1) (hkey (.recall hs1)))
      case joinRead | linkRead =>
        exact .ite (hkey (.combineLine (.recall hs1))) (.ite (herr _ hs1) (.ite (hkey (.recall hs1)) (hkey (.recall hs1))))
      case lres | scond | startZero => exact .ite (herr _ hs1) (.ite (herr _ hs1) (.ite (hkey (.recall hs1)) (hkey (.recall hs1))))
      all_goals
        refine .ite (herr _ hs1) (.ite (herr _ hs1) (.ite ?_ (hkey (.recall hs1))))
        exact .ite (.reply (.served hs1)) (.ite (hkey (.recall hs1)) (.ite (.after (.recall hs1)) (herr _ hs1)))

theorem State.Inv.servedFor {core slot part va typ} (h : s.Inv) : (s.servedFor core slot part va typ).Inv := by
  unfold State.servedFor
  refine .ite h ?_
  split
  exacts [.ite h (.sample (.countPage h)), h]

theorem State.Inv.readWord {t q n typ ev} {s0 : State} {k : WordEnd → State → State} (hs0 : s0.Inv) (hk : ∀ x s, s.Inv → (k x s).Inv) :
    (s0.readWord t q n typ ev k).Inv := by
  unfold State.readWord
  split
  · split
    · exact hk _ _ hs0
    · extract_lets
      split
      · exact hk _ _ (.useLine hs0)
      · refine .ite (hk _ _ (.servedFor hs0)) (.ite ?_ ?_)
        · refine .sibGate (.servedFor hs0) (fun _ h1 => hk _ _ h1) ?_
          intro _ h2
          refine .ite (hk _ _ (.eccRead h2)) ?_
          extract_lets s1
          have hs1 : s1.Inv := .eccRead (.ite (.fetchLine h2) (.evictSI (.recall h2)))
          exact hk _ _ (.ite (.combineLine hs1) hs1)
        · refine .ite (hk _ _ (.eccRead (.servedFor hs0))) ?_
          extract_lets s1
          have hs1 : s1.Inv := .eccRead (.ite (.fetchLine (.servedFor hs0)) (.evictSI (.recall (.servedFor hs0))))
          exact hk _ _ (.ite (.combineLine hs1) hs1)
  · exact .ite (hk _ _ (.eccRead hs0)) (hk _ _ (.eccRead hs0))

theorem State.Inv.writeWord {t q l typ ev} {s0 : State} {k : WordEnd → State → State} (hs0 : s0.Inv) (hk : ∀ x s, s.Inv → (k x s).Inv) :
    (s0.writeWord t q l typ ev k).Inv := by
  unfold State.writeWord
  split
  · split
    · exact hk _ _ hs0
    · extract_lets
      split
      · exact hk _ _ (.storeHit hs0)
      · refine .ite (hk _ _ (.servedFor hs0)) (.ite ?_ ?_)
        · split
          · refine .ite ?_ (hk _ _ (.servedFor hs0))
            exact .sibStore (.servedFor hs0) (fun _ h1 => hk _ _ h1) (fun _ h2 => hk _ _ (.logError h2)) (fun _ h3 => hk _ _ (.noteWrite h3))
          · exact hk _ _ (.servedFor hs0)
        · refine .ite (hk _ _ (.fetchStore (.servedFor hs0))) ?_
          exact hk _ _ (.updateCopy (.bankWrite (.noteWrite (.ite (.combineLine (.recall (.servedFor hs0))) (.recall (.servedFor hs0))))))
  · exact hk _ _ (.bankWrite (.noteWrite hs0))

/-! ## Accesses (Machine/Access) -/

theorem State.Inv.leave {r0 groups} (h : s.Inv) : (s.leave r0 groups).2.Inv := .foldl (.upd h) (fun _ h1 _ => .touch h1)

theorem State.Inv.postIn {delay r0} (h : s.Inv) : (State.postIn delay s r0).Inv := by
  unfold State.postIn
  split
  · next r s1 h1 => exact .ite (.afterOnce (.of_mem (.of_pair h1 (.leave h)) rfl)) (.after (.of_pair h1 (.leave h)))

theorem State.Inv.post {r} (h : s.Inv) : (s.post r).Inv := .postIn h
theorem State.Inv.memIssue {cls} {k : State → State} (hk : ∀ s, s.Inv → (k s).Inv) (h : s.Inv) : (memIssue cls k s).Inv :=
  .ite (.parkOn h) (.ite (.parkOn h) (hk _ h))

theorem State.Inv.postAccess {len r} (h : s.Inv) : (postAccess len r s).Inv := by
  unfold Machine.postAccess
  split
  exacts [.loggable (fun _ _ h1 => .advance (.post h1)) h, .ite (.ordinal (fun _ _ h2 => .advance (.post h2)) h) (.advance (.post h))]

theorem State.Inv.endWord {id i back f} (h : s.Inv) : (s.endWord id i back f).Inv := by
  unfold State.endWord
  split
  exacts [h, .ite (.updReq h) (.after (.updReq h))]

theorem State.Inv.answerWord {r i w} (h : s.Inv) : (s.answerWord r i w).Inv := by
  unfold State.answerWord
  split
  · exact h
  · split
    exacts [.endWord h, .endWord (.logRoute h), .endWord h]

theorem State.Inv.failWord {r i} (h : s.Inv) : (s.failWord r i).Inv := by
  unfold State.failWord
  split
  · exact h
  · refine .answerWord ?_
    split
    exacts [.logHome h, h]

theorem State.Inv.moveWord {r i ev} (h : s.Inv) : (s.moveWord r i ev).Inv := by
  unfold State.moveWord
  split
  · exact h
  · refine .ite ?_ ?_
    · exact .writeWord h (fun _ _ h1 => by split; exacts [.ite (.answerWord h1) (.failWord h1), .answerWord h1])
    · exact .readWord h (fun _ _ h2 => by split; exacts [.ite (.answerWord h2) (.failWord h2), .answerWord h2])

theorem State.Inv.postWords {r0 hit delay} (h : s.Inv) : (s.postWords r0 hit delay).Inv := by
  unfold State.postWords
  extract_lets
  split
  · next r s1 h1 =>
      refine .ite ?_ ?_
      · exact .after (.updReq (.of_pair h1 (.leave h)))
      · refine .foldl (.of_pair h1 (.leave h)) ?_
        exact fun _ h2 _ => .ite (.ite (.writeWord h2 (fun _ _ h3 => .endWord h3)) (.readWord h2 (fun _ _ h4 => .endWord h4))) (.after h2)

theorem State.Inv.readShort {l} (h : s.Inv) : (s.readShort l).2.Inv := by
  induction l generalizing s with
  | nil => exact h
  | cons e rest ih =>
    obtain ⟨va, n⟩ := e
    unfold State.readShort
    split
    · exact h
    · next p _ =>
      have hx : ((s.eccRead p.chipKey n (s.keyDetail s.cur)).readShort rest).2.Inv := ih (.eccRead h)
      refine .ite_snd hx ?_
      split <;> exact hx

theorem State.Inv.writeShort {l} (h : s.Inv) : (s.writeShort l).Inv := by
  unfold State.writeShort
  exact .foldl h (fun _ h1 _ => by split; exacts [.bankWrite (.noteWrite h1), h1])

theorem State.Inv.shortWords {l} (h : s.Inv) : (s.shortWords l).Inv := .takeShort h
theorem State.Inv.writeBackFor {t l} (h : s.Inv) : (s.writeBackFor t l).Inv := .ite (.writeBack (.touch h)) h
theorem State.Inv.flushLine {r keep} (h : s.Inv) : (s.flushLine r keep).Inv := .reply (.updCore (.foldl h (fun _ h1 _ => .writeBackFor h1)))
theorem State.Inv.flushAll {r} (h : s.Inv) : (s.flushAll r).Inv := .reply (.updCore (.foldl h (fun _ h1 _ => .writeBackFor h1)))
theorem State.Inv.lineMiss {ctx} (h : s.Inv) : (s.lineMiss ctx).2.Inv := .ite_snd h (.nextFree h)

theorem State.Inv.acqWait {r} (h : s.Inv) : (s.acqWait r).Inv := by
  unfold State.acqWait
  extract_lets
  split
  · split
    exacts [.again (.updReq h), .ite (.diverge h (fun _ h1 => .again h1) (fun _ _ h2 => .reply h2)) (.again h)]
  · exact .again h

theorem State.Inv.atSlice {ctx part va ev line free} {mark : State → State} {k : State → State} (h : s.Inv) (hmark : ∀ s, s.Inv → (mark s).Inv)
    (hk : ∀ s, s.Inv → (k s).Inv) : (s.atSlice ctx part va ev line free mark k).Inv := by
  unfold State.atSlice
  split
  · exact h
  · refine .ite (hk _ h) (.ite (.ite (.again h) (.after (.cacheWalk h))) ?_)
    exact .ite (hk _ h) (.ite (hk _ (hmark _ (.lineMiss h))) (.ite (.again h) (.after (hmark _ (.lineMiss h)))))

theorem State.Inv.performWord {r i old} (h : s.Inv) : (s.performWord r i old).Inv := by
  unfold State.performWord
  split
  · exact h
  · refine .ite h (.ite (.again h) ?_)
    split
    · exact .answerWord (.logRoute h)
    · split
      · exact .faultReq h
      · extract_lets
        split
        · refine .atSlice h (fun _ h1 => .updReq h1) ?_
          exact fun _ h2 => .atServer h2 (fun _ h3 => .foldl h3 (fun _ h4 _ => .moveWord (.leaveBank h4)))
        · exact .atServer h (fun _ h5 => .foldl h5 (fun _ h6 _ => .moveWord (.leaveBank h6)))

theorem State.Inv.perform_release {r} (h : s.Inv) : (State.perform.release s r).Inv := .ite (.releaseFence h) h

theorem State.Inv.perform_checked {r key slice} {k : State → State} (h : s.Inv) (hk : ∀ s, s.Inv → (k s).Inv) :
    (State.perform.checked s r key slice k).Inv :=
  .ite (hk _ h) (.ite (.failAt (.eccRead h)) (hk _ (.eccRead h)))

theorem State.Inv.perform_turn {old free r} {k : State → State} (h : s.Inv) (hk : ∀ s, s.Inv → (k s).Inv) : (State.perform.turn old free s r k).Inv :=
  .ite (hk _ (.perform_release h)) (.atServer h (fun _ h1 => hk _ (.perform_release h1)))

theorem State.Inv.perform_go {old free r forced} (h : s.Inv) : (State.perform.go old free s r forced).Inv := by
  unfold State.perform.go
  split
  · exact .flushLine (.perform_release h)
  · exact .flushAll (.perform_release h)
  · split
    · refine .atSlice h (fun _ h1 => .updReq h1) ?_
      intro _ h2
      refine .perform_turn h2 ?_
      intro _ h3
      split
      exacts [.faultReq h3, .ite (.perform_checked (.servedFor h3) (fun _ h4 => .atHome h4)) (.atHome (.servedFor h3))]
    · exact .perform_turn h (fun _ h5 => .perform_checked h5 (fun _ h6 => .atKey h6))

theorem State.Inv.perform {id piece old free} (h : s.Inv) : (s.perform id piece old free).Inv := by
  unfold State.perform
  split
  · exact h
  · refine .ite h (.ite (.performWord h) (.ite (.again (.updReq h)) (.ite (.again h) ?_)))
    split
    · split
      exacts [.acqWait h, .reply (.served (.logRoute h))]
    · split
      · exact .faultReq h
      · split
        · exact .acqWait h
        · exact .perform_go h
        · split <;> exact .perform_go h

theorem State.Inv.endAcquire {r} (h : s.Inv) : (s.endAcquire r).Inv := .ite (.ite (.dropSI (.updThread h)) (.updThread h)) h

theorem State.Inv.fillReg {id} (h : s.Inv) : (s.fillReg id).Inv := by
  unfold State.fillReg
  split
  exacts [h, .ite (.dropReq h) (.wake (.endAcquire (.updThread (.dropReq h))))]

theorem State.Inv.failReg {id} (h : s.Inv) : (s.failReg id).Inv := by
  unfold State.failReg
  split
  exacts [h, .ite (.dropReq h) (.wake (.endAcquire (.updThread (.dropReq h))))]

/-! ## Operand forms (Machine/Operands) -/

theorem State.Inv.alu3 {f b a d} (h : s.Inv) : (alu3 f b a d s).Inv := .issue (fun _ h1 => .done h1) h
theorem State.Inv.alu2 {f a d} (h : s.Inv) : (alu2 f a d s).Inv := .issue (fun _ h1 => .done h1) h
theorem State.Inv.aluImm {f imm a d} (h : s.Inv) : (aluImm f imm a d s).Inv := .issue (fun _ h1 => .done h1) h
theorem State.Inv.setImm {len v} {n : Nat} {d : BitVec n} (h : s.Inv) : (setImm len v d s).Inv := .issue (fun _ h1 => .done h1) h
theorem State.Inv.c16Reg {f x d} (h : s.Inv) : (c16Reg f x d s).Inv := .issue (fun _ h1 => .done h1) h
theorem State.Inv.c16Imm {f imm d} (h : s.Inv) : (c16Imm f imm d s).Inv := .issue (fun _ h1 => .done h1) h

theorem State.Inv.shortAccess_go {r forced} {k : Req → Option Bool → State → State} (hk : ∀ x x1 s, s.Inv → (k x x1 s).Inv) (h : s.Inv) :
    (shortAccess.go k r forced s).Inv := by
  unfold shortAccess.go
  refine .ite ?_ ?_
  · exact .dropSI (hk _ _ _ (.ite (.releaseFence (.shortWords h)) (.shortWords h)))
  · exact hk _ _ _ (.ite (.releaseFence (.shortWords h)) (.shortWords h))

theorem State.Inv.shortAccess {len r0} {k : Req → Option Bool → State → State} (hk : ∀ x x1 s, s.Inv → (k x x1 s).Inv) (h : s.Inv) :
    (shortAccess len r0 k s).Inv := by
  unfold Machine.shortAccess
  extract_lets
  split
  · exact .ite (.ordinal (fun _ _ h1 => .shortAccess_go hk h1) h) (.shortAccess_go hk h)
  · refine .loggable ?_ h
    intro _ _ h2
    extract_lets
    split
    exacts [.ite (.parkOn h) (.advance (.post h2)), .shortAccess_go hk h2, .shortAccess_go hk h2]

theorem State.Inv.loadAt {len p va n sg typ acq rel scope d} (h : s.Inv) : (loadAt len p va n sg typ acq rel scope d s).Inv := by
  unfold Machine.loadAt
  refine .memIssue ?_ h
  intro s h1
  refine .ite ?_ ?_
  · exact .shortAccess (fun _ _ _ h2 => .ite (.done (.eccRead (.served h2))) (.done (.eccRead (.served h2)))) h1
  · split
    · next l _ =>
        have h3 : (s.useLine s.cur l).Inv := .useLine h1
        exact .advance (.after (.upd (.of_mem h3 rfl)))
    · exact .postAccess h1

theorem State.Inv.storeAt {len p va n v typ acq rel scope} (h : s.Inv) : (storeAt len p va n v typ acq rel scope s).Inv := by
  unfold Machine.storeAt
  refine .memIssue ?_ h
  intro _ h1
  refine .ite ?_ ?_
  · exact .shortAccess (fun _ _ _ h2 => .advance (.bankWrite (.noteWrite h2))) h1
  · split
    exacts [.advance (.after (.upd (.storeHit h1))), .postAccess h1]

theorem State.Inv.fmLoad {n sg i o q a d} (h : s.Inv) : (fmLoad n sg i o q a d s).Inv :=
  .issue (fun _ h1 => .checkAddr (fun _ _ h2 => .loadAt h2) h1) h
theorem State.Inv.fmStore {n i o q a d} (h : s.Inv) : (fmStore n i o q a d s).Inv := .issue (fun _ h1 => .checkAddr (fun _ _ h2 => .storeAt h2) h1) h
theorem State.Inv.ixLoad {n sg q b a d} (h : s.Inv) : (ixLoad n sg q b a d s).Inv := .issue (fun _ h1 => .checkAddr (fun _ _ h2 => .loadAt h2) h1) h
theorem State.Inv.ixStore {n q b a d} (h : s.Inv) : (ixStore n q b a d s).Inv := .issue (fun _ h1 => .checkAddr (fun _ _ h2 => .storeAt h2) h1) h
theorem State.Inv.scLoad {n q sc o a d} (h : s.Inv) : (scLoad n q sc o a d s).Inv := .issue (fun _ h1 => .checkAddr (fun _ _ h2 => .loadAt h2) h1) h
theorem State.Inv.scStore {n q sc o a d} (h : s.Inv) : (scStore n q sc o a d s).Inv :=
  .issue (fun _ h1 => .checkAddr (fun _ _ h2 => .storeAt h2) h1) h
theorem State.Inv.c16Load {srcs ea d} (h : s.Inv) : (c16Load srcs ea d s).Inv := .issue (fun _ h1 => .checkAddr (fun _ _ h2 => .loadAt h2) h1) h
theorem State.Inv.c16Store {srcs ea d} (h : s.Inv) : (c16Store srcs ea d s).Inv := .issue (fun _ h1 => .checkAddr (fun _ _ h2 => .storeAt h2) h1) h

/-! ## Atomics (Machine/Atomic) -/

theorem State.Inv.atomicPost {op o va p d} (h : s.Inv) : (atomicPost op o va p d s).Inv := .memIssue (fun _ h1 => .postAccess h1) h

theorem State.Inv.atomicShort {op wide f o va p d} (h : s.Inv) : (atomicShort op wide f o va p d s).Inv := by
  unfold Machine.atomicShort
  refine .memIssue ?_ h
  intro _ h1
  exact .shortAccess (fun _ _ _ h2 => .ite (.done (.served (.eccRead h2))) (.done (.bankWrite (.noteWrite (.served (.eccRead h2)))))) h1

theorem State.Inv.atomic {op sz o b a d} (h : s.Inv) : (atomic op sz o b a d s).Inv :=
  .issue (fun _ h1 => .checkAddr (fun _ _ h2 => .ite (.atomicShort h2) (.atomicPost h2)) h1) h
theorem State.Inv.atomicF {op sz o b a d} (h : s.Inv) : (atomicF op sz o b a d s).Inv :=
  .issue (fun _ h1 => .checkAddr (fun _ _ h2 => .ite (.atomicShort h2) (.atomicPost h2)) h1) h

/-! ## Threads (Machine/Threads) -/

theorem State.Inv.checkLaunch {n} (h : s.Inv) : (s.checkLaunch n).Inv := by
  unfold State.checkLaunch
  split
  exacts [.ite (.afterOnce h) h, h]

theorem State.Inv.coreWork {c} (h : s.Inv) : (s.coreWork c).Inv := by
  unfold State.coreWork
  refine .ite h (.ite (.foldl h (fun _ h1 _ => .afterOnce h1)) (.ite (.afterOnce h) (.ite h ?_)))
  exact .ite (.afterOnce h) (.ite (.afterOnce h) (.ite (.ite h (.afterOnce (.updCore h))) (.restCore (.ite h (.afterOnce (.updCore h))))))

theorem State.Inv.start {t th} (h : s.Inv) : (s.start t th).Inv := .setThread (.wakeCore h)

theorem State.Inv.rightFor {t va} (h : s.Inv) : (s.rightFor t va).2.2.Inv := by
  unfold State.rightFor
  extract_lets
  split
  · exact h
  · split
    exacts [.updCore h, .afterOnce h]

theorem State.Inv.readLink {t frame} (h : s.Inv) : (s.readLink t frame).Inv := by
  unfold State.readLink
  extract_lets
  split
  · exact .updThread h
  · refine .ite (.updThread h) ?_
    exact .ite (.ite (.updThread (.rightFor h)) (.updThread (.updThread (.rightFor h)))) (.updThread (.postIn (.rightFor h)))

theorem State.Inv.startEntry {t e part ctx} (h : s.Inv) : (s.startEntry t e part ctx).Inv := .ite (.start h) (.readLink (.start h))
theorem State.Inv.noteTake {t op e deque ctx} (h : s.Inv) : (s.noteTake t op e deque ctx).Inv := .ite (.record h) h

theorem State.Inv.takeTurn {t deque ctx op} {x : DequeEntry} {s1 : State} (h : s.Inv) (e : s.takeTurn t deque ctx op = some (x, s1)) : s1.Inv := by
  unfold State.takeTurn at e
  extract_lets l at e
  split at e
  · cases e
  · split at e
    · obtain ⟨y, _, e⟩ := Option.map_eq_some_iff.1 e
      cases e
      exact h
    · split at e
      · split at e
        · obtain ⟨y, _, e⟩ := Option.map_eq_some_iff.1 e
          cases e
          exact .unqueue h
        · cases e
      · cases e

theorem State.Inv.retire {t} (h : s.Inv) : (s.retire t).Inv := by
  unfold State.retire
  extract_lets th s1 s1
  have hs1 : s1.Inv := by
    unfold s1
    split
    exacts [.after (.setThread h), .setThread h]
  exact .ite (.afterOnce (.checkLaunch (.coreWork hs1))) (.checkLaunch (.coreWork hs1))

theorem State.Inv.pick {ctx} (h : s.Inv) : (s.pick ctx).2.Inv := .ite_snd (.updCtx h) (.nextFree h)
theorem State.Inv.fetchLater {n} (h : s.Inv) : (s.fetchLater n).2.Inv := .after (.parkOn h)
theorem State.Inv.fetchFault {slice va cause} (h : s.Inv) : (s.fetchFault slice va cause).2.Inv := .ite_snd (.parkOn h) (.parkFault (.parkOn h))

theorem State.Inv.fetchHome {pg va len held} (h : s.Inv) : (s.fetchHome pg va len held).2.Inv := by
  unfold State.fetchHome
  extract_lets c x new s1 keep n
  refine .ite_snd (.logHome h) (.ite_snd (.eccRead h) ?_)
  have hs1 : s1.Inv := .ite (.pageRead h) (.servedFor (.pageRead h))
  split
  exacts [.ite hs1 (.updCore hs1), .updCore (.pick hs1)]

theorem State.Inv.fetchHalf {va len} {s0 : State} (hs0 : s0.Inv) : (s0.fetchHalf va len).2.Inv := by
  unfold State.fetchHalf
  refine .ite_snd hs0 ?_
  split
  · exact .afterOnce (.parkOn hs0)
  · refine .ite_snd (.updCore hs0) (.ite_snd (.fetchLater (.updCore hs0)) ?_)
    split
    · exact .logUnit (.updCore hs0)
    · exact .logUnit (.updCore hs0)
    · split
      · exact .fetchFault (.updCore hs0)
      · exact .fetchFault (.updCore hs0)
      · refine .ite_snd (.fetchLater (.cacheWalk (.updCore hs0))) ?_
        exact .ite_snd (.sibGate (.parkOn (.updCore hs0)) (fun _ h1 => h1) (fun _ h2 => h2)) (.fetchHome (.updCore hs0))

theorem State.Inv.fetchAt {pc} (h : s.Inv) : (s.fetchAt pc).2.Inv := by
  have h1 : (s.fetchHalf pc 2).2.Inv := .fetchHalf h
  unfold State.fetchAt
  split
  · next e =>
    have h2 := State.Inv.of_pair e h1
    refine .ite_snd h2 ?_
    split
    · next e2 => exact .of_pair e2 (.fetchHalf h2)
    · exact .fetchHalf h2
  · exact h1

theorem State.Inv.fetch (h : s.Inv) : (s.fetch).2.Inv := .ite_snd h (.fetchAt h)

theorem State.Inv.capture {va n} (h : s.Inv) : (s.capture va n).2.Inv := by
  induction n generalizing s va with
  | zero => exact h
  | succ n ih =>
    unfold State.capture
    split
    · next e =>
      have h1 := ih (va := va + 2) (State.Inv.of_pair e (.fetchHalf h))
      split
      · next e1 => exact .of_pair e1 h1
      · exact h1
    · next e => exact .of_pair e (.fetchHalf h)

/-! ## Copies (Machine/Copy) -/

theorem State.Inv.checkRights_go {len n l} {k : State → State} (hk : ∀ s, s.Inv → (k s).Inv) (h : s.Inv) : (checkRights.go len k n l s).Inv := by
  induction l generalizing s n with
  | nil => exact hk _ h
  | cons e r ih =>
    unfold checkRights.go
    dsimp only
    split
    exacts [.ite (ih (.updCore h)) (.trap (.updCore h)), .afterOnce (.parkOn (.upd h))]

theorem State.Inv.checkRights {len l} {k : State → State} (hk : ∀ s, s.Inv → (k s).Inv) (h : s.Inv) : (checkRights len l k s).Inv :=
  .checkRights_go hk h
theorem State.Inv.checkLaneBell {va} {k : State → State} (hk : ∀ s, s.Inv → (k s).Inv) (h : s.Inv) : (checkLaneBell va k s).Inv :=
  .ite (.trap h) (hk _ h)
theorem State.Inv.checkBell {va align} {k : State → State} (hk : ∀ s, s.Inv → (k s).Inv) (h : s.Inv) : (checkBell va align k s).Inv :=
  .ite (hk _ h) (.ite (.trap h) (.ite (.trap h) (hk _ h)))

theorem State.Inv.postCopy {c} (h : s.Inv) : (postCopy c s).Inv := by
  unfold Machine.postCopy
  refine .ite (.parkOn h) (.ite (.parkOn h) ?_)
  extract_lets
  split
  · exact .loggable (fun _ _ h1 => .advance (.after (.upd (.updCore h1)))) h
  · exact .ite (.ordinal (fun _ _ h2 => .advance (.after (.upd (.updCore h2)))) h) (.advance (.after (.upd (.updCore h))))

theorem Keeps.execCpy {sc q r t n} (h : s.Inv) : Keeps (execCpy sc q r t n s) := by
  unfold Machine.execCpy
  refine .next (.issue ?_ h)
  intro _ h1
  refine .ite (.trap h1) (.ite (.trap h1) (.ite (.trap h1) (.checkLaneBell ?_ h1)))
  intro _ h2
  exact .checkLaneBell (fun _ h3 => .checkRights (fun _ h4 => .checkBell (fun _ h5 => .checkBell (fun _ h6 => .postCopy h6) h5) h4) h3) h2

theorem Keeps.execCpyg {sc q r t n} (h : s.Inv) : Keeps (execCpyg sc q r t n s) := by
  unfold Machine.execCpyg
  refine .next (.issue ?_ h)
  intro _ h1
  refine .ite (.trap h1) (.ite (.trap h1) (.ite (.trap h1) (.ite (.trap h1) (.ite (.trap h1) ?_))))
  refine .checkLaneBell ?_ h1
  intro _ h2
  refine .checkLaneBell ?_ h2
  exact fun _ h3 => .ite (.trap h3) (.checkRights (fun _ h4 => .checkBell (fun _ h5 => .checkBell (fun _ h6 => .postCopy h6) h5) h4) h3)

theorem Keeps.execMcpost {sc q r t n} (h : s.Inv) : Keeps (execMcpost sc q r t n s) := by
  unfold Machine.execMcpost
  refine .next (.issue ?_ h)
  intro _ h1
  refine .ite (.trap h1) (.ite (.trap h1) (.ite (.trap h1) (.ite (.trap h1) ?_)))
  split
  exacts [.trap h1, .checkBell (fun _ h2 => .checkBell (fun _ h3 => .postCopy h3) h2) h1]

theorem State.Inv.updCopy {id f} (h : s.Inv) : (s.updCopy id f).Inv := h

theorem State.Inv.copyLearn {c delay} (h : s.Inv) : (s.copyLearn c delay).Inv := by
  unfold State.copyLearn
  split
  · exact h
  · refine .ite (.wait h) (.ite (.after (.updCopy h)) ?_)
    split
    exacts [.after h, .ite (.after (.updCopy (.record h))) (.after (.updCopy h)), .ite (.after (.updCopy (.unqueue h))) (.after h)]

theorem Keeps.execCopyAccept {id} (h : s.Inv) : Keeps (execCopyAccept id s) := by
  unfold Machine.execCopyAccept
  refine .next ?_
  split
  · exact h
  · refine .ite h ?_
    extract_lets
    split
    exacts [.after (.updCopy h), .copyLearn (.updCopy h)]

theorem State.Inv.copyTick {n id unit} (h : s.Inv) : (s.copyTick n id unit).Inv := .ite h (.after h)

theorem State.Inv.copyTicks {n id} (h : s.Inv) : (s.copyTicks n id).Inv := by
  unfold State.copyTicks
  split
  exacts [.foldl h (fun _ h1 _ => .copyTick h1), h]

theorem State.Inv.makeRows {c0} (h : s.Inv) : (s.makeRows c0).Inv := .copyTicks (.updCopy h)
theorem State.Inv.beginCopy {c} (h : s.Inv) : (s.beginCopy c).Inv := .ite (.makeRows h) (.copyTicks (.updCopy h))

theorem Keeps.execCopyStart {id} (h : s.Inv) : Keeps (execCopyStart id s) := by
  unfold Machine.execCopyStart
  refine .next ?_
  split
  · exact h
  · refine .ite h (.ite (.after h) (.ite ?_ ?_))
    · exact .after (.updCopy (.ite (.dropSI (.ite (.releaseFence h) h)) (.ite (.releaseFence h) h)))
    · refine .ite ?_ ?_
      · exact .after (.updCopy (.updCopy (.ite (.dropSI (.ite (.releaseFence h) h)) (.ite (.releaseFence h) h))))
      · exact .beginCopy (.updCopy (.ite (.dropSI (.ite (.releaseFence h) h)) (.ite (.releaseFence h) h)))

theorem State.Inv.copyNotice {id} (h : s.Inv) : (s.copyNotice id).Inv := by
  unfold State.copyNotice
  split
  exacts [.ite (.spill h) (.ite (.copyLearn h) h), h]

theorem State.Inv.copyFail {c va} (h : s.Inv) : (s.copyFail c va).Inv := .ite h (.after (.updCopy h))

theorem State.Inv.logPlace {p core va code detail} (h : s.Inv) : (s.logPlace p core va code detail).Inv := by
  unfold State.logPlace
  split
  exacts [.ite (.logHome h) (.logError h), .logError h, .logError h, .logError h]

theorem State.Inv.engineRead {who tid part core va n} {bad : Nat → State → State} {done : List Byte → State → State} (h : s.Inv)
    (hbad : ∀ x s, s.Inv → (bad x s).Inv) (hdone : ∀ x s, s.Inv → (done x s).Inv) : (s.engineRead who tid part core va n bad done).Inv := by
  unfold State.engineRead
  extract_lets
  split
  · exact hbad _ _ (.logPlace h)
  · split
    · exact hbad _ _ (.logPlace h)
    · refine .ite (hbad _ _ (.logPlace h)) (.ite ?_ ?_)
      · refine .sibGate h (fun _ h1 => hbad _ _ (.logPlace h1)) ?_
        intro _ h2
        extract_lets
        split
        exacts [hbad _ _ (.eccRead (.servedFor h2)), hdone _ _ (.pageRead (.eccRead (.servedFor h2)))]
      · extract_lets
        split
        exacts [hbad _ _ (.eccRead (.servedFor h)), hdone _ _ (.pageRead (.eccRead (.servedFor h)))]
  · extract_lets
    split
    exacts [hbad _ _ (.eccRead h), hdone _ _ (.eccRead h)]

theorem State.Inv.noteEngine {tid key len} (h : s.Inv) : (s.noteEngine tid key len).Inv := .ite (.foldl h (fun _ h1 _ => .noteWrite h1)) h

theorem State.Inv.engineWrite {who tid part core va l} {bad : State → State} {done : State → State} (h : s.Inv) (hbad : ∀ s, s.Inv → (bad s).Inv)
    (hdone : ∀ s, s.Inv → (done s).Inv) : (s.engineWrite who tid part core va l bad done).Inv := by
  unfold State.engineWrite
  extract_lets
  split
  · exact hbad _ (.logPlace h)
  · split
    · exact hbad _ (.logPlace h)
    · refine .ite (hbad _ (.logPlace (.servedFor h))) (.ite ?_ ?_)
      · split
        · refine .ite (hbad _ (.logPlace (.servedFor h))) ?_
          exact .sibStore (.servedFor h) (fun _ h1 => hbad _ (.logPlace h1)) (fun _ h2 => hbad _ (.logPlace h2)) (fun _ h3 => hdone _ (.noteEngine h3))
        · exact hbad _ (.logPlace (.servedFor h))
      · exact hdone _ (.homeWrite (.combineRange (.noteEngine (.servedFor h))))
  · exact hdone _ (.bankWrite (.noteEngine h))

theorem State.Inv.updWord {id i f} (h : s.Inv) : (s.updWord id i f).Inv := .updCopy h
theorem State.Inv.copyCycle {c unit} (h : s.Inv) : (s.copyCycle c unit).Inv :=
  .ite h (.ite (.copyTick h) (.ite (.foldl h (fun _ h1 _ => .after (.updWord h1))) (.copyTick (.foldl h (fun _ h1 _ => .after (.updWord h1))))))

theorem State.Inv.rowsReady_go {c n l} {fail : Nat → State → State} (hfail : ∀ x s, s.Inv → (fail x s).Inv) (h : s.Inv) :
    (State.rowsReady.go c fail n l s).Inv := by
  induction l generalizing s n with
  | nil => exact .makeRows h
  | cons e r ih =>
    unfold State.rowsReady.go
    split
    · next hl => cases hl
    · exact hfail _ _ h
    · next hl =>
      cases hl
      split
      exacts [.ite (ih (.updCore h)) (hfail _ _ (.updCore h)), .after (.afterOnce (.updCopy h))]

theorem State.Inv.rowsReady {c0} (h : s.Inv) : (s.rowsReady c0).Inv := .rowsReady_go (fun _ _ h1 => .copyFail (.logPlace h1)) h

theorem State.Inv.wordDone {id i data} (h : s.Inv) : (s.wordDone id i data).Inv := by
  unfold State.wordDone
  split
  · exact h
  · extract_lets
    split
    · exact .updCopy (.updWord h)
    · exact .ite (.ite (.after (.updCopy (.updWord h))) (.after (.updCopy (.updCopy (.updWord h))))) (.copyTicks (.updCopy (.updWord h)))

theorem State.Inv.copyWord {c i w ev old} (h : s.Inv) : (s.copyWord c i w ev old).Inv := by
  unfold State.copyWord
  extract_lets fail key
  have hfail : ∀ s, s.Inv → (fail s).Inv := by
    intro s h
    unfold fail
    split
    exacts [.copyFail h, h]
  split
  · exact hfail _ (.logPlace h)
  · split
    · exact .spill h
    · split
      · exact hfail _ (.logUnit h)
      · refine .ite (.again h) ?_
        split
        · exact .parkFault (.updWord h)
        · extract_lets item serve
          have hserve : ∀ s, s.Inv → (serve s).Inv := by
            refine fun s h => .atServer h (fun s h => .ite ?_ ?_)
            · exact .engineWrite h hfail (fun _ h => .wordDone h)
            · exact .engineRead h (fun _ _ h => by split; exacts [.copyFail h, h]) (fun _ _ h => .wordDone h)
          split
          exacts [.atSlice h (fun _ h => .updWord h) hserve, hserve _ h]

theorem Keeps.execCopyShare {id} {s0 : State} (hs0 : s0.Inv) : Keeps (execCopyShare id s0) := by
  unfold Machine.execCopyShare
  refine .next ?_
  extract_lets
  split
  · exact .ite (.leaveBank hs0) (.ite (.rowsReady (.leaveBank hs0)) (.copyCycle (.leaveBank hs0)))
  · split
    exacts [.ite (.dropProxy (.leaveBank hs0)) (.copyWord (.leaveBank hs0)), .leaveBank hs0]
  · exact .dropProxy (.leaveBank hs0)

theorem State.Inv.endCopy {c held} (h : s.Inv) : (s.endCopy c held).Inv := .ite (.checkLaunch (.wake (.updThread h))) (.checkLaunch h)
theorem State.Inv.freeEntry {c} (h : s.Inv) : (s.freeEntry c).Inv := .foldl (.restCore (.updCore h)) (fun _ h1 _ => .ite (.wake h1) h1)

theorem Keeps.execCopyComplete {id} (h : s.Inv) : Keeps (execCopyComplete id s) := by
  unfold Machine.execCopyComplete
  refine .next ?_
  split
  · exact h
  · refine .ite h ?_
    extract_lets
    split
    exacts [.endCopy (.freeEntry h), .after (.freeEntry h)]

theorem Keeps.execMcpostDelivery {id} (h : s.Inv) : Keeps (execMcpostDelivery id s) := by
  unfold Machine.execMcpostDelivery
  refine .next ?_
  split
  · exact h
  · refine .ite h ?_
    split
    · exact .copyFail (.nextFree (.logUnit h))
    · extract_lets
      split
      · exact .coreWork (.updCopy (.start (.updCore (.ite (.nextFree (.freeEntry h)) (.freeEntry h)))))
      · exact .ite (.freeEntry h) (.ite (.updCore (.freeEntry h)) (.request (.updCore (.freeEntry h))))

theorem State.Inv.stampPost {t epoch} (h : s.Inv) : (s.stampPost t epoch).Inv := .ite h h

/-! ## The roll unit (Machine/RollUnit) -/

theorem State.Inv.lowRecord {c} (h : s.Inv) : (s.lowRecord c).Inv := .ite (.rollEvent (.updRoll h)) h
theorem State.Inv.serveHeld (h : s.Inv) : s.serveHeld.Inv := .foldl (.foldl h (fun _ h1 _ => .serveWord h1)) (fun _ h2 _ => .wakeWaiters h2)

theorem Keeps.execRollRecordWrite {ctx} (h : s.Inv) : Keeps (execRollRecordWrite ctx s) := by
  unfold Machine.execRollRecordWrite
  refine .next ?_
  refine .ite h ?_
  split
  · exact .afterOnce h
  · refine .ite h (.ite (.afterOnce h) ?_)
    extract_lets written
    have hwritten {s : State} (h : s.Inv) : (written s).Inv := by
      unfold written
      extract_lets s1
      have hs1 : s1.Inv := .serveHeld (.wakeRoll (.lowRecord (.updRoll h)))
      exact .ite hs1 (.afterOnce hs1)
    split
    · exact .parkRoll h
    · next e => exact hwritten (.of_bad e (.globalWrite h))
    · next e => exact hwritten (.of_ok e (.globalWrite h))

theorem State.Inv.lowReplay {c} (h : s.Inv) : (s.lowReplay c).Inv := .ite (.rollEvent (.updRoll h)) h
theorem State.Inv.badRoll {c} (h : s.Inv) : (s.badRoll c).Inv := .rollEvent (.updRoll h)
theorem State.Inv.execRollRecordTake_next {ctx} (h : s.Inv) : (execRollRecordTake.next ctx s).Inv := .afterOnce (.lowReplay h)

theorem Keeps.execRollRecordTake {ctx} (h : s.Inv) : Keeps (execRollRecordTake ctx s) := by
  unfold Machine.execRollRecordTake
  refine .next (.ite h (.ite (.afterOnce h) (.ite (.lowReplay h) (.ite (.afterOnce h) ?_))))
  split
  · exact .parkRoll h
  · next s1 h1 => exact .badRoll (.of_bad h1 (.globalRead h))
  · next l s1 h2 =>
      refine .ite (.badRoll (.of_ok h2 (.globalRead h))) (.ite ?_ ?_)
      · exact .execRollRecordTake_next (.updRoll (.of_ok h2 (.globalRead h)))
      · refine .ite ?_ ?_
        · exact .wakeRoll (.updRoll (.of_ok h2 (.globalRead h)))
        · extract_lets s2
          have hs2 : s2.Inv := .wakeRoll (.updRoll (.of_ok h2 (.globalRead h)))
          refine .execRollRecordTake_next ?_
          split
          exacts [.ite (.request hs2) hs2, hs2]

theorem State.Inv.logTail {c v} (h : s.Inv) : (s.logTail c v).Inv := by
  unfold State.logTail
  refine .ite h (.ite ?_ ?_)
  · exact .afterOnce (.ite (.updRoll (.updRoll h)) (.lowReplay (.updRoll h)))
  · exact .ite (.wakeRoll (.updRoll (.ite (.updRoll h) (.afterOnce (.updRoll h))))) (.ite (.updRoll h) (.afterOnce (.updRoll h)))

theorem State.Inv.resumeRoll {c} (h : s.Inv) : (s.resumeRoll c).Inv :=
  .ite (.afterOnce (.wakeRoll (.updRoll h))) (.afterOnce (.wakeRoll (.updRoll h)))

/-! ## The matrix engine (Machine/Matrix) -/

theorem State.Inv.tick {n i} (h : s.Inv) : (s.tick n i).Inv := .ite h (.after h)
theorem State.Inv.updTile {id f} (h : s.Inv) : (s.updTile id f).Inv := h

theorem State.Inv.tileFault {c addr} (h : s.Inv) : (s.tileFault c addr).Inv := by
  unfold State.tileFault
  refine .after (.updTile (.logError ?_))
  split
  · split
    exacts [.logUnit h, h]
  · exact h

theorem State.Inv.addWords {c ev l} (h : s.Inv) : (s.addWords c ev l).Inv := by
  unfold State.addWords
  extract_lets
  split
  exacts [.updTile h, .tick (.updTile h)]

theorem State.Inv.tileWord {c i w} {failed : State → State} (h : s.Inv) (hfailed : ∀ s, s.Inv → (failed s).Inv) : (s.tileWord c i w failed).Inv := by
  unfold State.tileWord
  extract_lets
  split
  · exact hfailed _ h
  · exact hfailed _ h
  · exact .ite (hfailed _ h) (.ite (.updTile (.bankWrite (.noteEngine h))) (.ite (hfailed _ (.eccRead h)) (.updTile (.eccRead h))))

theorem State.Inv.tileServe {id ev} {s0 : State} {failed : Nat → State → State} (hs0 : s0.Inv) (hfailed : ∀ x s, s.Inv → (failed x s).Inv) :
    (s0.tileServe id ev failed).Inv := by
  unfold State.tileServe
  split
  · exact .leaveBank hs0
  · extract_lets old s here server key heads items seen s1
    have hs : s.Inv := .leaveBank hs0
    have hs1 : s1.Inv := by
      unfold s1
      refine .foldl (.of_mem hs rfl) (fun _ h1 _ => .ite ?_ h1)
      split
      exacts [.ite h1 (.tileWord (.setBank h1) (hfailed _)), h1]
    split
    exacts [.leaveBank hs1, .ite (.leaveBank hs1) (.ite hs1 (.ite (.tick hs1) (.ite (.tick hs1) (.tick hs1))))]

theorem State.Inv.tileServed {id ev} {failed : Nat → State → State} {k : TileCmd → State → State} (h : s.Inv)
    (hfailed : ∀ x s, s.Inv → (failed x s).Inv) (hk : ∀ x s, s.Inv → (k x s).Inv) : (s.tileServed id ev failed k).Inv := by
  unfold State.tileServed
  extract_lets
  split
  exacts [.tileServe h hfailed, .ite (.tileServe h hfailed) (hk _ _ (.tileServe h hfailed))]

theorem State.Inv.answered {c upto ev} {k : State → State} (h : s.Inv) (hk : ∀ s, s.Inv → (k s).Inv) : (s.answered c upto ev k).Inv :=
  .ite (.tick h) (hk _ h)

theorem State.Inv.tilePhase {id upto ev} {failed : Nat → State → State} {k : TileCmd → State → State} (h : s.Inv)
    (hfailed : ∀ x s, s.Inv → (failed x s).Inv) (hk : ∀ x s, s.Inv → (k x s).Inv) : (s.tilePhase id upto ev failed k).Inv :=
  .tileServed h hfailed (fun _ _ h1 => .answered h1 (fun _ h2 => hk _ _ h2))

theorem State.Inv.postTile {cmd ord} (h : s.Inv) : (postTile cmd ord s).Inv := .advance (.after (.upd (.updDie h)))
theorem State.Inv.tileRoom {k : State → State} (hk : ∀ s, s.Inv → (k s).Inv) (h : s.Inv) : (tileRoom k s).Inv :=
  .ite (.parkOn h) (.ite (.parkOn h) (hk _ h))

theorem State.Inv.tileOrdinal {c w0 w1} {k : Option Nat → State → State} (hk : ∀ x s, s.Inv → (k x s).Inv) (h : s.Inv) :
    (tileOrdinal c w0 w1 k s).Inv := by
  unfold Machine.tileOrdinal
  split
  · refine .loggable ?_ h
    intro _ _ h1
    refine .ite (hk _ _ h1) ?_
    extract_lets
    split
    exacts [.ite (.divergeAtIssue h) (.parkOn h), .ite (.divergeAtIssue h) (hk _ _ (.claim h1))]
  · exact .loggable hk h
  · exact .loggable hk h
  · exact .ite (.ordinal hk h) (hk _ _ h)

theorem Keeps.execTqadd {a} (h : s.Inv) : Keeps (execTqadd a s) := by
  unfold Machine.execTqadd
  refine .next (.issue ?_ h)
  intro _ h1
  refine .ite (.trap h1) (.checkAddr ?_ h1)
  exact fun _ _ h2 => .tileRoom (fun _ h3 => .ite (.parkOn h3) (.tileOrdinal (fun _ _ h4 => .postTile h4) (.shortWords (.eccRead h3)))) h2

theorem State.Inv.accMove {kind b a} (h : s.Inv) : (accMove kind b a s).Inv :=
  .issue (fun _ h1 => .ite (.trap h1) (.ite (.trap h1) (.ite (.trap h1) (.tileRoom (fun _ h2 => .ordinal (fun _ _ h3 => .postTile h3) h2) h1)))) h

theorem State.Inv.ttsetEnd {c status t} (h : s.Inv) : (s.ttsetEnd c status t).Inv := by
  unfold State.ttsetEnd
  split
  exacts [h, .after (.updReq (.updCtx h))]

theorem State.Inv.ttsetRead {c l} (h : s.Inv) : (s.ttsetRead c l).Inv := by
  unfold State.ttsetRead
  split <;> exact .ttsetEnd h

theorem Keeps.execTtsetServe {id} {s0 : State} (hs0 : s0.Inv) : Keeps (execTtsetServe id s0) := by
  unfold Machine.execTtsetServe
  refine .next ?_
  extract_lets
  split
  · exact .leaveBank hs0
  · refine .ite (.leaveBank hs0) (.ite (.after (.leaveBank hs0)) (.ite (.after (.leaveBank hs0)) ?_))
    extract_lets
    split
    · exact .ttsetEnd (.logError (.leaveBank hs0))
    · split
      · exact .ttsetEnd (.logUnit (.leaveBank hs0))
      · split
        · refine .ite (.after (.leaveBank hs0)) ?_
          split
          · exact .parkFault (.leaveBank hs0)
          · refine .atSlice (.updTile (.leaveBank hs0)) (fun _ h1 => .updTile h1) ?_
            exact fun _ h2 => .atServer h2 (fun _ h3 => .engineRead h3 (fun _ _ h4 => .ttsetEnd h4) (fun _ _ h5 => .ttsetRead h5))
        · refine .ite (.addWords (.updTile (.leaveBank hs0))) ?_
          exact .tilePhase hs0 (fun _ _ h6 => .ttsetEnd (.logError h6)) (fun _ _ h7 => .ttsetRead h7)

theorem State.Inv.moveHeld {c} (h : s.Inv) : (s.moveHeld c).Inv := by
  unfold State.moveHeld
  split
  · exact h
  · split
    · exact h
    · split
      exacts [h, .updCore (.updCore h)]

theorem State.Inv.trySchedule {c0} (h : s.Inv) : (s.trySchedule c0).Inv := by
  unfold State.trySchedule
  split
  · exact h
  · refine .ite h (.ite (.tileFault h) (.ite (.afterOnce h) ?_))
    extract_lets s1 s2 s3
    have hs1 : s1.Inv := .moveHeld h
    split
    · exact hs1
    · extract_lets test s4
      have hs2 : s2.Inv := .ite (.releaseFence hs1) hs1
      have hs4 : s4.Inv := .updTile (.updCore (.ite (.dropSI hs2) hs2))
      exact .ite (.after hs4) (.after hs4)

theorem State.Inv.schedule {die} (h : s.Inv) : (s.schedule die).Inv := .foldl h (fun _ h1 _ => .trySchedule h1)

theorem State.Inv.tileLearn {c which} (h : s.Inv) : (s.tileLearn c which).Inv := by
  unfold State.tileLearn
  split
  · exact h
  · refine .ite (.wait h) (.ite (.updTile h) ?_)
    split
    exacts [.after h, .ite (.updTile (.record h)) (.updTile h), .ite (.updTile (.unqueue h)) (.after h)]

theorem State.Inv.tileNotice {id} (h : s.Inv) : (s.tileNotice id).Inv := by
  unfold State.tileNotice
  split
  · exact h
  · refine .ite h (.schedule ?_)
    split
    exacts [.tileLearn (.tileLearn h), .tileLearn h]

theorem State.Inv.refuseTile {c} {k : State → State} (h : s.Inv) (hk : ∀ s, s.Inv → (k s).Inv) : (s.refuseTile c k).Inv := by
  unfold State.refuseTile
  extract_lets one
  have hone {wb clear} {k : State → State} {s} (hk : ∀ s, s.Inv → (k s).Inv) (h : s.Inv) : (one wb clear k s).Inv := by
    unfold one
    split
    exacts [.refusedAt h (fun _ h => .after h) (fun _ h => hk _ (.updTile h)), hk _ h]
  exact hone (fun _ h => hone hk h) h

theorem State.Inv.acceptTile {c1} {s0 : State} (hs0 : s0.Inv) : (s0.acceptTile c1).Inv := by
  unfold State.acceptTile
  refine .ite ?_ ?_
  · exact .refuseTile hs0 (fun _ h1 => .tileFault (.updTile h1))
  · refine .ite ?_ ?_
    · refine .schedule ?_
      split
      exacts [.updCtx (.updTile hs0), .updTile hs0]
    · refine .after ?_
      split
      exacts [.updCtx (.updTile hs0), .updTile hs0]

theorem Keeps.execTaskAccept {id} (h : s.Inv) : Keeps (execTaskAccept id s) := by
  unfold Machine.execTaskAccept
  refine .next ?_
  split
  exacts [h, .ite h (.ite (.schedule h) (.ite (.after h) (.ite (.after h) (.acceptTile h))))]

theorem State.Inv.setAcc {eng f} (h : s.Inv) : (s.setAcc eng f).Inv := .updCore h
theorem State.Inv.afterStep {c eng} (h : s.Inv) : (s.afterStep c eng).Inv :=
  .ite h (.ite (.tick (.updTile h)) (.ite (.after (.updTile (.updCore h))) (.tick (.updTile h))))

theorem State.Inv.faultTile {id va} (h : s.Inv) : (s.faultTile id va).Inv := by
  unfold State.faultTile
  split
  exacts [.tileFault h, h]

theorem State.Inv.dispatchGo {c eng} (h : s.Inv) : (s.dispatchGo c eng).Inv := by
  unfold State.dispatchGo
  refine .ite ?_ ?_
  · exact .ite (.addWords h) (.answered h (fun _ h1 => .ite (.tileFault h1) (.tick (.updTile h1))))
  · exact .ite (.addWords h) (.answered h (fun _ h2 => .tick (.ite (.updTile h2) (.setAcc (.updTile h2)))))

theorem State.Inv.stopTile {c ev} (h : s.Inv) : (s.stopTile c ev).Inv := .updTile (.leaveBank h)

theorem Keeps.execTaskDispatch {id} {s0 : State} (hs0 : s0.Inv) : Keeps (execTaskDispatch id s0) := by
  unfold Machine.execTaskDispatch
  refine .next ?_
  extract_lets
  split
  · exact .leaveBank hs0
  · split
    · exact .leaveBank hs0
    · refine .ite (.leaveBank hs0) (.ite (.stopTile hs0) (.ite (.afterOnce (.leaveBank hs0)) (.ite ?_ ?_)))
      · exact .ite (.tileFault (.updTile hs0)) (.after (.updTile hs0))
      · exact .tileServed hs0 (fun _ _ h1 => .faultTile h1) (fun _ _ h2 => .dispatchGo h2)

theorem State.Inv.tileNan {c eng step} (h : s.Inv) : (s.tileNan c eng step).Inv := .after (.updTile (.updCtx (.updCore h)))

theorem State.Inv.stepDone {c core} (h : s.Inv) : (s.stepDone c core).Inv := by
  unfold State.stepDone
  split
  exacts [.ite (.tileNan (.setAcc h)) (.updTile (.setAcc h)), h]

theorem State.Inv.latchMore {c core} (h : s.Inv) : (s.latchMore c core).Inv := .ite h (.ite (.addWords h) (.answered h (fun _ h1 => .updTile h1)))

theorem Keeps.execKStep {core} {s0 : State} (hs0 : s0.Inv) : Keeps (execKStep core s0) := by
  unfold Machine.execKStep
  refine .next ?_
  extract_lets ev
  split
  · exact .leaveBank hs0
  · extract_lets s1 with_
    have hs1 : s1.Inv := .ite (.stepDone hs0) hs0
    have hwith {s : State} {k : TileCmd → State → State} (h : s.Inv) (hk : ∀ c s, s.Inv → (k c s).Inv) : (with_ s k).Inv := by
      unfold with_
      split
      exacts [.ite (.leaveBank h) (hk _ _ h), .leaveBank h]
    clear_value with_ s1
    refine .ite (.leaveBank hs0) ?_
    refine hwith hs1 ?_
    intro c s h
    refine .ite (.leaveBank h) (.ite (.afterOnce (.leaveBank h)) (.ite (.afterStep h) ?_))
    refine hwith (.tileServe h (fun _ _ h => .faultTile h)) ?_
    intro c s h
    refine hwith (.ite h (.latchMore h)) ?_
    exact fun c s h => .ite h (.tick (.tick (.updTile h)))

theorem State.Inv.drainGo {c d core} (h : s.Inv) : (s.drainGo c d core).Inv :=
  .ite (.ite (.tick h) (.after (.updTile h))) (.ite (.addWords h) (.ite (.tileNan h) (.addWords h)))

theorem Keeps.execTaskDrain {core} {s0 : State} (hs0 : s0.Inv) : Keeps (execTaskDrain core s0) := by
  unfold Machine.execTaskDrain
  refine .next ?_
  extract_lets
  split
  · exact .leaveBank hs0
  · split
    · exact .leaveBank hs0
    · refine .ite (.leaveBank hs0) ?_
      exact .ite (.afterOnce (.leaveBank hs0)) (.tilePhase hs0 (fun _ _ h1 => .faultTile h1) (fun _ _ h2 => .drainGo h2))

theorem State.Inv.moveDone {c eng} (h : s.Inv) : (s.moveDone c eng).Inv := by
  unfold State.moveDone
  extract_lets
  split
  exacts [.ite (.tileFault h) (.after (.updTile (.updCore h))), .after (.updTile h), .after (.updTile (.updCtx (.updCore h)))]

theorem Keeps.execAccumulatorMoveRun {id} {s0 : State} (hs0 : s0.Inv) : Keeps (execAccumulatorMoveRun id s0) := by
  unfold Machine.execAccumulatorMoveRun
  refine .next ?_
  extract_lets
  split
  · exact .leaveBank hs0
  · split
    · exact .leaveBank hs0
    · refine .ite (.leaveBank hs0) (.ite (.stopTile hs0) (.ite (.afterOnce (.leaveBank hs0)) ?_))
      exact .ite (.addWords (.updTile hs0)) (.tilePhase hs0 (fun _ _ h1 => .faultTile h1) (fun _ _ h2 => .moveDone h2))

theorem State.Inv.poison {c} (h : s.Inv) : (s.poison c).Inv :=
  .foldl (.ite h (.updCtx h)) (fun _ h1 _ => .ite (.foldl (.updCtx h1) (fun _ h2 _ => .ite (.updCore h2) h2)) h1)

theorem State.Inv.holdNan {c} (h : s.Inv) : (s.holdNan c).Inv := by
  unfold State.holdNan
  split
  exacts [.ite (.updThread h) h, h]

theorem State.Inv.endTile {c held} (h : s.Inv) : (s.endTile c held).Inv := .ite (.checkLaunch (.wake (.updThread h))) (.checkLaunch h)

theorem Keeps.execTaskComplete {id} (h : s.Inv) : Keeps (execTaskComplete id s) := by
  unfold Machine.execTaskComplete
  refine .next ?_
  split
  · exact h
  · extract_lets s1 bell s2 s3 s4 s5
    refine .ite h ?_
    have hs1 : s1.Inv := .updDie h
    have hs2 : s2.Inv := by
      unfold s2
      split
      exacts [.restCore (.after (.updCore hs1)), hs1]
    have hs4 : s4.Inv := .foldl (.holdNan (.poison hs2)) (fun _ h1 _ => .ite (.wake h1) h1)
    have hs5 : s5.Inv := by
      unfold s5
      clear_value bell
      split
      exacts [.endTile hs4, .after hs4]
    exact .schedule (.restCore hs5)

theorem State.Inv.creditWrite {x} (h : s.Inv) : (s.creditWrite x).Inv := by
  unfold State.creditWrite
  extract_lets who n
  clear_value who
  split
  exacts [.foldl h (fun _ h1 _ => .noteWrite h1), h]

theorem State.Inv.applyCredit {x} (h : s.Inv) : (s.applyCredit x).Inv := by
  unfold State.applyCredit
  extract_lets armed sw s2 s3 s1 s4
  have hs2 : s2.Inv := by
    unfold s2
    split
    exacts [.poke (.creditWrite h), .poke (.creditWrite h), .creditWrite h]
  have hs1 : s1.Inv := .ite h (.ite (.bellReport h) (.credit (.ite (.landed hs2) hs2)))
  have hs4 : s4.Inv := by
    unfold s4
    split
    exacts [.ite (.endCopy hs1) hs1, hs1]
  split
  exacts [.ite (.endTile hs4) hs4, hs4]

theorem Keeps.execBellUpdate {x} {s0 : State} (hs0 : s0.Inv) : Keeps (execBellUpdate x s0) := by
  unfold Machine.execBellUpdate
  refine .next ?_
  extract_lets
  split
  exacts [.spill (.leaveBank hs0), .atServer (.leaveBank hs0) (fun _ h1 => .applyCredit h1)]

theorem Keeps.execEngineSelfTest {core failing} (h : s.Inv) : Keeps (execEngineSelfTest core failing s) := by
  unfold Machine.execEngineSelfTest
  refine .next (.ite h (.schedule ?_))
  split
  exacts [.after (.logError (.updCore h)), .logError (.updCore h)]

/-! ## The fabric (Machine/Fabric) -/

theorem State.Inv.hostError {va} (h : s.Inv) : (s.hostError va).Inv := h
theorem State.Inv.hostAnswer {v} (h : s.Inv) : (s.hostAnswer v).Inv := h

theorem State.Inv.hostAt {i a} {k : Nat → State → State} (h : s.Inv) (hk : ∀ x s, s.Inv → (k x s).Inv) : (s.hostAt i a k).Inv := by
  unfold State.hostAt
  split
  · exact hk _ _ h
  · split
    exacts [hk _ _ h, .hostError h]

theorem State.Inv.hostHold {i va} (h : s.Inv) : (s.hostHold i va).Inv := h
theorem State.Inv.hostWait {i va} (h : s.Inv) : (s.hostWait i va).Inv := .after (.hostHold h)
theorem State.Inv.hostRefuse {pg va code} (h : s.Inv) : (s.hostRefuse pg va code).Inv := .hostError (.ite (.logError h) (.logError h))
theorem State.Inv.hostSample {pg va kind} (h : s.Inv) : (s.hostSample pg va kind).Inv := .sample (.countPage (.nextFree h))

theorem State.Inv.hostNotify {pg va part off access} (h : s.Inv) : (s.hostNotify pg va part off access).Inv := by
  unfold State.hostNotify
  refine .ite (.hostRefuse h) ?_
  split
  · split
    · next e => exact .notify h e
    · exact .hostRefuse h
  · split
    exacts [.hostAnswer h, .hostRefuse h]

theorem Keeps.execHostAccess {access} (h : s.Inv) : Keeps (execHostAccess access s) := by
  unfold Machine.execHostAccess
  refine .next (.hostAt h ?_)
  intro _ _ h1
  refine .ite (.hostWait h1) ?_
  split
  · exact .hostError h1
  · split
    · exact .hostNotify h1
    · split
      · exact .hostRefuse h1
      · extract_lets
        split
        · refine .ite ?_ ?_
          · exact .hostRefuse (.ite (.combineLine (.recall (.hostSample h1))) (.hostSample h1))
          · exact .homeWrite (.ite (.combineLine (.recall (.hostSample h1))) (.hostSample h1))
        · refine .ite ?_ ?_
          · exact .hostAnswer (.homeRead (.ite (.combineLine (.recall (.hostSample h1))) (.hostSample h1)))
          · refine .sibGate (.hostHold h1) (fun _ h2 => .hostRefuse h2) ?_
            exact fun _ h3 => .hostAnswer (.homeRead (.ite (.combineLine (.recall (.hostSample h3))) (.hostSample h3)))

theorem Keeps.execHostAtomic {access op wide cmp} (h : s.Inv) : Keeps (execHostAtomic access op wide cmp s) := by
  unfold Machine.execHostAtomic
  refine .next (.hostAt h ?_)
  intro _ _ h1
  refine .ite (.hostWait h1) ?_
  split
  · exact .hostError h1
  · refine .ite (.hostError h1) (.ite (.hostRefuse h1) ?_)
    split
    exacts [.hostRefuse h1, .hostAnswer (.homeWrite (.homeRead (.hostSample h1)))]

theorem Keeps.execSysatomCasLoop {id} (h : s.Inv) : Keeps (execSysatomCasLoop id s) := by
  unfold Machine.execSysatomCasLoop
  refine .next ?_
  split
  · exact h
  · split
    exacts [.atKey (.recall h), h]

theorem State.Inv.portRefused {pg va n read} (h : s.Inv) : (s.portRefused pg va n read).Inv := .ite (.eccRead h) (.logHome h)

theorem State.Inv.portRead {l} (h : s.Inv) : (s.portRead l).2.2.Inv := by
  induction l generalizing s with
  | nil => exact h
  | cons e rest ih =>
    unfold State.portRead
    split
    · exact h
    · split
      exacts [.portRefused h, ih (.pageRead (.countPage h))]

theorem State.Inv.portWrite {l b} (h : s.Inv) : (s.portWrite l b).2.Inv := by
  induction l generalizing s b with
  | nil => exact h
  | cons e rest ih =>
    unfold State.portWrite
    split
    · exact h
    · exact .ite_snd (.portRefused h) (ih (.homeWrite (.combineRange (.countPage h))))

theorem State.Inv.ethDone {port kind r d len ok} (h : s.Inv) : (s.ethDone port kind r d len ok).Inv := by
  unfold State.ethDone
  extract_lets flags s1 s2
  have hs1 : s1.Inv := by
    unfold s1
    split
    · next _ x h1 => exact .of_ok h1 (.globalWrite h)
    · next x h1 => exact .of_bad h1 (.globalWrite h)
    · exact h
  split
  exacts [.credit hs1, hs1]

theorem Keeps.execEthernetTransmit {port} (h : s.Inv) : Keeps (execEthernetTransmit port s) := by
  unfold Machine.execEthernetTransmit
  refine .next ?_
  split
  · exact h
  · extract_lets later
    have hlater {s : State} (h : s.Inv) : (later s).Inv := .afterOnce h
    refine .ite h ?_
    split
    · exact hlater h
    · next e => exact hlater (.of_bad e (.globalRead h))
    · next s1 e =>
      have hs1 : s1.Inv := .of_ok e (.globalRead h)
      extract_lets len frame _ s2
      have hframe : frame.2.2.Inv := by
        unfold frame
        split
        exacts [.portRead hs1, hs1]
      have hs2 : s2.Inv := .ite (.ethDone hframe) (.ethDone hframe)
      exact .ite (hlater hs1) (.afterOnce hs2)

theorem Keeps.execEthernetReceive {port frame fcsGood} (h : s.Inv) : Keeps (execEthernetReceive port frame fcsGood s) := by
  unfold Machine.execEthernetReceive
  refine .next (.ite h (.ite h (.ite h ?_)))
  split
  · exact h
  · split
    · exact h
    · next s1 h1 => exact .of_bad h1 (.globalRead h)
    · next d s1 h2 => exact .ite (.of_ok h2 (.globalRead h)) (.ethDone (.portWrite (.of_ok h2 (.globalRead h))))

/-! ## Reports (Machine/Reports) -/

theorem State.Inv.reportBus {len} {k : State → State} (hk : ∀ s, s.Inv → (k s).Inv) (h : s.Inv) : (reportBus len k s).Inv := by
  unfold Machine.reportBus
  split
  exacts [.trap (.upd h), hk _ h]

theorem State.Inv.reportStores {len} {k : State → State} (hk : ∀ s, s.Inv → (k s).Inv) (h : s.Inv) : (reportStores len k s).Inv := by
  unfold Machine.reportStores
  exact .reportBus (fun _ h1 => by split; exacts [.trap (.upd h1), hk _ h1]) h

theorem State.Inv.reportDiv {len} {k : State → State} (hk : ∀ s, s.Inv → (k s).Inv) (h : s.Inv) : (reportDiv len k s).Inv := by
  unfold Machine.reportDiv
  split
  exacts [.trap (.upd h), hk _ h]

theorem State.Inv.reportSib {len} {k : State → State} (hk : ∀ s, s.Inv → (k s).Inv) (h : s.Inv) : (reportSib len k s).Inv := by
  unfold Machine.reportSib
  split
  · exact .trap (.upd h)
  · split
    exacts [.trap (.upd h), hk _ h]

theorem State.Inv.reportNan {len} {k : State → State} (hk : ∀ s, s.Inv → (k s).Inv) (h : s.Inv) : (reportNan len k s).Inv := by
  unfold Machine.reportNan
  split
  exacts [.trap (.upd h), hk _ h]

theorem State.Inv.endWaitFor {len} {k : State → State} (hk : ∀ s, s.Inv → (k s).Inv) (h : s.Inv) : (endWaitFor len k s).Inv :=
  .ite (.parkOn h) (.reportBus hk h)

/-! ## The net (Machine/Net) -/

theorem State.Inv.updPacket {id f} (h : s.Inv) : (s.updPacket id f).Inv := h
theorem State.Inv.dropPacket {id} (h : s.Inv) : (s.dropPacket id).Inv := h

theorem State.Inv.dropPkt_drop {p unit code} (h : s.Inv) : (State.dropPkt.drop p unit code s).Inv := by
  unfold State.dropPkt.drop
  extract_lets
  split
  exacts [.after (.updReq (.dropPacket (.logError h))), .dropPacket (.logError h)]

theorem State.Inv.dropPkt {p unit code} (h : s.Inv) : (s.dropPkt p unit code).Inv := by
  unfold State.dropPkt
  split
  · exact .refusedAt h (fun _ h1 => .after h1) (fun _ h2 => .dropPkt_drop h2)
  · exact .refusedAt h (fun _ h3 => .after h3) (fun _ h4 => .dropPkt_drop h4)
  · exact .dropPkt_drop h

theorem State.Inv.nextHop {p delay} (h : s.Inv) : (s.nextHop p delay).Inv := by
  unfold State.nextHop
  split <;> exact .after h

theorem State.Inv.hop_enter {id p o esc t stop delay} (h : s.Inv) : (State.hop.enter id s p o esc t stop delay).Inv := .nextHop (.updPacket h)
theorem State.Inv.hop_wait {id p} (h : s.Inv) : (State.hop.wait id s p).Inv := .ite (.after (.after (.updPacket h))) (.after (.updPacket h))

theorem State.Inv.hop {id} (h : s.Inv) : (s.hop id).Inv := by
  unfold State.hop
  split
  · exact h
  · split
    · exact h
    · refine .ite (.after h) (.ite (.dropPkt (.ite (.releaseFence h) h)) ?_)
      exact .ite (.dropPkt (.ite (.releaseFence h) h)) (.nextHop (.updPacket (.ite (.releaseFence h) h)))
    · split
      · exact h
      · exact .dropPkt h
      · split
        · exact .dropPkt h
        · refine .ite (.dropPkt h) ?_
          extract_lets
          split
          exacts [.hop_wait h, .ite (.hop_wait h) (.ite (.dropPkt h) (.hop_enter h))]
      · split
        exacts [.hop_wait h, .ite (.hop_wait h) (.ite (.dropPkt h) (.hop_enter h))]

theorem State.Inv.inject {p} (h : s.Inv) : (s.inject p).Inv := .after h
theorem State.Inv.ack {p status} (h : s.Inv) : (s.ack p status).Inv := .inject h

/-! ## Roll call (Machine/RollCall) -/

theorem State.Inv.rollSend {op node dst cls exiting ord} (h : s.Inv) : (s.rollSend op node dst cls exiting ord).Inv := .after h

theorem State.Inv.rollReply {r0 home} {s0 : State} (hs0 : s0.Inv) : (s0.rollReply r0 home).Inv := by
  unfold State.rollReply
  refine .after (.updReq ?_)
  split
  exacts [.logRoute hs0, hs0]

theorem State.Inv.rollServe_apply {r home c key op} (h : s.Inv) : (State.rollServe.apply r home s c key op).Inv :=
  .ite (.rollReply (.updCore h)) (.ite (.rollReply (.updCore h)) (.ite (.rollReply (.updCore h)) (.rollReply (.updCore h))))

theorem State.Inv.rollServe {r home} (h : s.Inv) : (s.rollServe r home).Inv := by
  unfold State.rollServe
  extract_lets
  split
  · exact .again h
  · exact .ite (.diverge h (fun _ h1 => .again h1) (fun _ _ h2 => .rollReply h2)) (.rollServe_apply (.unqueue h))
  · exact .rollServe_apply (.note h)

theorem State.Inv.rollArrive {id} {s0 : State} (hs0 : s0.Inv) : (s0.rollArrive id).Inv := by
  unfold State.rollArrive
  split
  · exact hs0
  · extract_lets
    split
    · refine .ite (.leaveBank hs0) ?_
      split
      · exact .spill (.leaveBank hs0)
      · split
        · exact .refusedAt (.leaveBank hs0) (fun _ h1 => .again (.updReq h1)) (fun _ h2 => .rollReply (.logRoute h2))
        · refine .ite (.again (.updReq (.leaveBank hs0))) ?_
          exact .atServer (.leaveBank hs0) (fun _ h3 => .ite (.request (.updReq h3)) (.rollServe h3))
    · exact .leaveBank hs0

theorem State.Inv.rollProxy {home} (h : s.Inv) : (s.rollProxy home).Inv := .foldl h (fun _ h1 _ => .rollServe (.updReq h1))

/-! ## Synchronisation (Machine/Sync) -/

theorem State.Inv.fenceProbes {scope} (h : s.Inv) : (fenceProbes scope s).Inv :=
  .foldl (.upd (.ite (.writeBackThread h) h)) (fun _ h1 _ => .after h1)
theorem State.Inv.relFence_go2 {scope} {k : State → State} (hk : ∀ s, s.Inv → (k s).Inv) (h : s.Inv) : (releaseFence.go2 scope k s).Inv :=
  .ite (.parkOn h) (.ite (.parkOn (.ite (.upd h) h)) (.reportStores (fun _ h1 => .reportDiv hk h1) (.ite (.upd h) h)))

theorem State.Inv.relFence {scope} {k : State → State} (hk : ∀ s, s.Inv → (k s).Inv) (h : s.Inv) : (Machine.releaseFence scope k s).Inv := by
  unfold Machine.releaseFence
  split
  exacts [.relFence_go2 hk (.fenceProbes h), .relFence_go2 hk h]

theorem State.Inv.acquireFence {scope} {k : State → State} (hk : ∀ s, s.Inv → (k s).Inv) (h : s.Inv) : (acquireFence scope k s).Inv :=
  .ite (.parkOn h) (hk _ (.ite (.dropSI h) h))
theorem State.Inv.checkObject {va} {k : Place → State → State} (hk : ∀ x s, s.Inv → (k x s).Inv) (h : s.Inv) : (checkObject va k s).Inv :=
  .ite (.trap h) (.checkAddr hk h)

theorem Keeps.execBara {sc a d} (h : s.Inv) : Keeps (execBara sc a d s) := by
  unfold Machine.execBara
  refine .next (.issue ?_ h)
  intro _ h1
  refine .checkObject ?_ h1
  exact fun _ _ h2 => .memIssue (fun _ h3 => .ite (.shortAccess (fun _ _ _ h4 => .done (.arrive (.noteWrite h4))) h3) (.postAccess h3)) h2

theorem State.Inv.waitGen {op gop sc va} {fin : Place → State → State} (hfin : ∀ x s, s.Inv → (fin x s).Inv) (h : s.Inv) :
    (waitGen op gop sc va fin s).Inv := by
  unfold Machine.waitGen
  refine .checkObject ?_ h
  intro _ _ h1
  split
  · exact .parkOn h1
  · exact hfin _ _ h1
  · exact .trap h1
  · refine .memIssue ?_ h1
    exact fun _ h2 => .ite (.shortAccess (fun _ _ _ h3 => hfin _ _ (.served h3)) h2) (.loggable (fun _ _ h4 => .upd (.post h4)) h2)

theorem Keeps.execBelladd {sc b a} (h : s.Inv) : Keeps (execBelladd sc b a s) := by
  unfold Machine.execBelladd
  refine .next (.issue ?_ h)
  intro _ h1
  refine .checkObject ?_ h1
  exact fun _ _ h2 => .memIssue (fun _ h3 => .ite (.shortAccess (fun _ _ _ h4 => .advance (.credit (.noteWrite h4))) h3) (.postAccess h3)) h2

theorem Keeps.execBellwait {sc b a} (h : s.Inv) : Keeps (execBellwait sc b a s) := by
  unfold Machine.execBellwait
  refine .next (.issue ?_ h)
  intro _ h1
  refine .checkObject ?_ h1
  intro _ _ h2
  refine .ite (.advance (.upd h2)) (.ite (.reportNan (fun _ h3 => .advance h3) h2) ?_)
  exact .waitGen (fun _ _ h4 => .ite (.reportNan (fun _ h5 => .advance h5) (.upd h4)) (.advance h4)) h2

theorem Keeps.execWaitk {t c sl l} (h : s.Inv) : Keeps (execWaitk t c sl l s) := by
  unfold Machine.execWaitk
  refine .next (.issue ?_ h)
  intro _ h1
  refine .ite (.parkOn h1) (.ite ?_ ?_)
  · refine .reportStores ?_ (.ite (.dropSI h1) h1)
    intro _ h2
    refine .reportSib ?_ h2
    exact fun _ h3 => .ite (.reportNan (fun _ h4 => .reportDiv (fun _ h5 => .advance h5) h4) h3) (.reportDiv (fun _ h6 => .advance h6) h3)
  · refine .reportSib ?_ (.ite (.dropSI h1) h1)
    intro _ h7
    exact .ite (.reportNan (fun _ h8 => .reportDiv (fun _ h9 => .advance h9) h8) h7) (.reportDiv (fun _ h10 => .advance h10) h7)

/-! ## The hardware's own steps (Machine/Hardware) -/

theorem Keeps.execLentCycle {core} (h : s.Inv) : Keeps (execLentCycle core s) := by
  unfold Machine.execLentCycle
  refine .next (.ite h ?_)
  split
  exacts [.updCore h, h]

theorem Keeps.execFillLands {id} (h : s.Inv) : Keeps (execFillLands id s) := by
  unfold Machine.execFillLands
  refine .next ?_
  split
  exacts [.ite (.atCore h (fun _ h1 => .fillReg h1)) h, h]

theorem Keeps.execErrorResponse {id} (h : s.Inv) : Keeps (execErrorResponse id s) := by
  unfold Machine.execErrorResponse
  refine .next ?_
  split
  exacts [.ite (.atCore h (fun _ h1 => .failReg h1)) h, h]

theorem Keeps.execStoreAck {id} (h : s.Inv) : Keeps (execStoreAck id s) := by
  unfold Machine.execStoreAck
  refine .next ?_
  split
  exacts [.ite (.atCore h (fun _ h1 => .fillReg h1)) h, h]

theorem Keeps.execFaultNotice {id} (h : s.Inv) : Keeps (execFaultNotice id s) := by
  unfold Machine.execFaultNotice
  refine .next ?_
  split
  exacts [.ite (.updThread h) h, h]

theorem State.Inv.takeEntry {t e} (h : s.Inv) : (s.takeEntry t e).Inv :=
  .ite (.afterOnce (.updCore (.startEntry h))) (.coreWork (.updCore (.startEntry h)))

theorem State.Inv.turnSlot {taker deque ctx op} {i : Nat} {x : DequeEntry} {s1 : State} (h : s.Inv)
    (e : s.turnSlot taker deque ctx op = some (i, x, s1)) : s1.Inv := by
  obtain ⟨j, _, e⟩ := List.exists_of_findSome?_eq_some e
  obtain ⟨y, e1, e⟩ := Option.map_eq_some_iff.1 e
  cases e
  exact .takeTurn h e1

theorem State.Inv.placeSteal {t e} (h : s.Inv) : (s.placeSteal t e).Inv := .updRoll h
theorem State.Inv.execDequeTake_steal {core} (h : s.Inv) : (execDequeTake.steal core s).Inv := .ite h (.afterOnce (.updCore h))

theorem Keeps.execDequeTake {core} (h : s.Inv) : Keeps (execDequeTake core s) := by
  unfold Machine.execDequeTake
  refine .next ?_
  refine .ite h ?_
  split
  · exact .takeEntry (.updCore h)
  · split
    · exact h
    · split
      · exact .takeEntry (.placeSteal (.updCore h))
      · refine .ite h ?_
        refine .ite ?_ ?_
        · split
          exacts [.takeEntry (.updCore h), h]
        · refine .ite (.afterOnce h) ?_
          split
          · next e => exact .takeEntry (.updCore (.noteTake (.turnSlot h e)))
          · exact .execDequeTake_steal (.afterOnce h)

theorem Keeps.execStealAttempt {core} (h : s.Inv) : Keeps (execStealAttempt core s) := by
  unfold Machine.execStealAttempt
  refine .next (.ite h (.ite h (.ite (.afterOnce h) ?_)))
  split
  · exact h
  · refine .ite h ?_
    split
    exacts [h, .after (.updCore h)]

theorem Keeps.execStealRequest {thief victim} (h : s.Inv) : Keeps (execStealRequest thief victim s) := by
  unfold Machine.execStealRequest
  refine .next ?_
  split
  · exact h
  · extract_lets part back empty lost ctx got
    have hgot : ∀ i x t, got = some (i, x, t) → t.Inv := by
      intro i x t e
      unfold got at e
      split at e
      · cases e
      · split at e
        · exact .turnSlot h e
        · obtain ⟨y, e1, e⟩ := Option.map_eq_some_iff.1 e
          cases e
          exact .takeTurn h e1
    clear_value lost got
    split
    · exact .spill h
    · split
      · exact .after (.logUnit h)
      · refine .ite (.after h) ?_
        split
        · exact .after h
        · next i x t =>
          extract_lets s2 s3
          have hs2 : s2.Inv := .updCore (.noteTake (hgot _ _ _ rfl))
          exact .after (.updCore (.ite (.afterOnce hs2) hs2))

theorem Keeps.execStealReply {thief victim found} (h : s.Inv) : Keeps (execStealReply thief victim found s) := by
  unfold Machine.execStealReply
  refine .next (.atCore h ?_)
  intro _ h1
  split
  · exact h1
  · split
    · exact .wakeCore (.afterOnce (.updCore h1))
    · refine .ite (.afterOnce (.updCore h1)) ?_
      split
      exacts [.after (.updCore h1), .afterOnce (.updCore h1)]

theorem Keeps.execResourceRequest {die kind addr tid} (h : s.Inv) : Keeps (execResourceRequest die kind addr tid s) := by
  unfold Machine.execResourceRequest
  refine .next ?_
  extract_lets full s1
  have hs1 : s1.Inv := .nextFree (.updDie h)
  exact .ite hs1 (.afterOnce hs1)

theorem State.Inv.execProctorProxyComplete_refill {core} (h : s.Inv) : (execProctorProxyComplete.refill core s).Inv := .ite (.afterOnce h) h

theorem Keeps.execProctorProxyComplete {die} (h : s.Inv) : Keeps (execProctorProxyComplete die s) := by
  unfold Machine.execProctorProxyComplete
  refine .next ?_
  split
  · exact h
  · extract_lets rest s1 s2
    have hs2 : s2.Inv := by
      unfold s2
      split
      · refine .ite ?_ ?_
        · exact .wake (.updThread (.updCore (.updDie h)))
        · exact .execProctorProxyComplete_refill (.after (.ite (.updCore (.updDie h)) (.updDie h)))
      · exact .ite (.updCore (.updDie h)) (.afterOnce (.updCore (.updDie h)))
      · exact .wakeWaiters (.updDie h)
      · exact .sibProxy (.updDie h)
      · exact .rollProxy (.updDie h)
      · exact .foldl (.updDie h) (fun _ h1 _ => .after h1)
      · exact .updDie h
    exact .ite hs2 (.afterOnce hs2)

theorem State.Inv.serve {id i free} {s0 : State} (hs0 : s0.Inv) : (s0.serve id i free).Inv := by
  unfold State.serve
  extract_lets
  split
  · exact .leaveBank hs0
  · refine .ite (.leaveBank hs0) ?_
    split
    · refine .ite (.again (.leaveBank hs0)) ?_
      split
      exacts [.spill (.leaveBank hs0), .perform (.leaveBank hs0)]
    · exact .perform (.leaveBank hs0)

theorem State.Inv.serveAt {id i} (h : s.Inv) : (s.serveAt id i).Inv := .serve h
theorem State.Inv.evictPartials {core p} (h : s.Inv) : (s.evictPartials core p).Inv := .foldl (.ite h (.updCore h)) (fun _ h1 _ => .updSlice h1)
theorem State.Inv.probed {tid group} (h : s.Inv) : (s.probed tid group).Inv := .wake (.updThread h)

theorem Keeps.execFenceProbe {tid epoch group} (h : s.Inv) : Keeps (execFenceProbe tid epoch group s) := by
  unfold Machine.execFenceProbe
  refine .next (.ite h ?_)
  split
  · exact .probed (.updThread (.nextFree (.logUnit h)))
  · refine .ite (.after h) ?_
    split
    exacts [.spill h, .after h]

theorem State.Inv.warmWalk {pg va ctx} (h : s.Inv) : (s.warmWalk pg va ctx).Inv := .cacheWalk (.updSlice h)

theorem State.Inv.warmAt {va ctx} (h : s.Inv) : (s.warmAt va ctx).Inv := by
  unfold State.warmAt
  split
  exacts [.ite h (.warmWalk h), h]

theorem State.Inv.warm {r} (h : s.Inv) : (s.warm r).Inv := by
  unfold State.warm
  extract_lets
  split
  exacts [.warmAt (.updReq h), .updReq h]

theorem Keeps.execAtomicIntervalEnd {interval} (h : s.Inv) : Keeps (execAtomicIntervalEnd interval s) := by
  unfold Machine.execAtomicIntervalEnd
  extract_lets l
  refine .next (.foldl_snd h ?_)
  intro acc h1 _
  dsimp only
  split
  · exact .ite_snd (.afterOnce h1) (.serve (.warm h1))
  · exact h1

theorem Keeps.execRollCallArrival {id} (h : s.Inv) : Keeps (execRollCallArrival id s) := by
  unfold Machine.execRollCallArrival
  refine .next ?_
  split
  · split
    exacts [.rollArrive h, h]
  · exact h

theorem Keeps.execRollCallLeave {id} (h : s.Inv) : Keeps (execRollCallLeave id s) := by
  unfold Machine.execRollCallLeave
  refine .next ?_
  split
  · split
    exacts [.rollArrive h, h]
  · exact h

/-! ## Messages (Machine/Message) -/

theorem State.Inv.openReq {op va core cls dst rel ord val} (h : s.Inv) : (s.openReq op va core cls dst rel ord val).Inv := .upd h

theorem Keeps.execSend {r n b a p} (h : s.Inv) : Keeps (execSend r n b a p s) := by
  unfold Machine.execSend
  refine .next (.issue ?_ h)
  intro _ h1
  extract_lets
  split
  · exact .trap h1
  · refine .ite (.trap h1) (.ite (.trap h1) ?_)
    exact .ite (.trap h1) (.memIssue (fun _ h2 => .loggable (fun _ _ h3 => .advance (.inject (.openReq (.ite (.nextFree h3) h3)))) h2) h1)

theorem State.Inv.rfillOf {cls src a d} (h : s.Inv) : (rfillOf cls src a d s).Inv := by
  unfold Machine.rfillOf
  refine .issue ?_ h
  intro _ h1
  extract_lets
  split
  exacts [.trap h1, .memIssue (fun _ h2 => .loggable (fun _ _ h3 => .advance (.inject (.openReq (.ite (.nextFree h3) h3)))) h2) h1]

theorem State.Inv.execMessageArrival_go {p} (h : s.Inv) : (execMessageArrival.go s p).Inv :=
  .ack (.afterOnce (.wakeCore (.ite (.request (.dropPacket (.updCore (.ite (.record h) h)))) (.dropPacket (.updCore (.ite (.record h) h))))))

theorem Keeps.execMessageArrival {pkt} (h : s.Inv) : Keeps (execMessageArrival pkt s) := by
  unfold Machine.execMessageArrival
  refine .next ?_
  split
  · exact h
  · refine .ite h ?_
    split
    · exact .spill h
    · split
      exacts [.after h, .execMessageArrival_go h, .execMessageArrival_go (.unqueue h)]

theorem Keeps.execHandlerStart {core} (h : s.Inv) : Keeps (execHandlerStart core s) := by
  unfold Machine.execHandlerStart
  refine .next (.ite h ?_)
  split
  exacts [h, .dropSI (.start (.setCore h))]

theorem State.Inv.execRfillArrival_go {p r t reg v status} (h : s.Inv) : (execRfillArrival.go s p r t reg v status).Inv :=
  .ack (.dropPacket (.ite (.wake (.updThread (.ite (.record h) h))) (.ite (.record h) h)))

theorem Keeps.execRfillArrival {pkt} (h : s.Inv) : Keeps (execRfillArrival pkt s) := by
  unfold Machine.execRfillArrival
  refine .next ?_
  split
  · exact h
  · refine .ite h ?_
    split
    · exact .spill h
    · split
      · exact .dropPacket h
      · split
        · extract_lets
          split
          · exact .after h
          · exact .execRfillArrival_go h
          · refine .ite ?_ (.execRfillArrival_go (.unqueue h))
            exact .diverge h (fun _ h1 => .after h1) (fun _ _ h2 => .ack (.dropPacket (.updReq h2)))
        · exact .dropPacket h

theorem Keeps.execPacketDelivery {pkt} (h : s.Inv) : Keeps (execPacketDelivery pkt s) := by
  unfold Machine.execPacketDelivery
  refine .next ?_
  split
  · exact h
  · refine .ite h ?_
    refine .ite (.after h) ?_
    split
    · extract_lets s1 s2
      have hs1 : s1.Inv := .updPacket h
      have hs2 : s2.Inv := .dropPacket hs1
      split
      · exact .after hs1
      · exact .after hs1
      · split
        · exact hs2
        · exact .ite (.atCore hs2 (fun _ h1 => .failReg h1)) (.atCore (.updReq hs2) (fun _ h2 => .fillReg h2))
    · exact h

theorem Keeps.execOutputAging {pkt} (h : s.Inv) : Keeps (execOutputAging pkt s) := by
  unfold Machine.execOutputAging
  refine .next ?_
  split
  exacts [.ite (.updPacket h) h, h]

theorem Keeps.execLturn {b a d} (h : s.Inv) : Keeps (execLturn b a d s) := by
  unfold Machine.execLturn
  refine .next (.issue ?_ h)
  intro _ h1
  exact .ite (.trap h1) (.ite (.trap h1) (.memIssue (fun _ h2 => .loggable (fun _ _ h3 => .advance (.after (.openReq h3))) h2) h1))

theorem State.Inv.execTurnRequest_go {id r ctx status} (h : s.Inv) : (execTurnRequest.go id s r ctx status).Inv := by
  unfold execTurnRequest.go
  extract_lets s1 target q
  have hs1 : s1.Inv := .after (.updReq h)
  clear_value s1
  split
  exacts [.afterOnce hs1, hs1]

theorem Keeps.execTurnRequest {id} (h : s.Inv) : Keeps (execTurnRequest id s) := by
  unfold Machine.execTurnRequest
  refine .next ?_
  split
  · exact h
  · refine .ite h ?_
    split
    · exact .refusedAt h (fun _ h1 => .after h1) (fun _ h2 => .after (.updReq (.logRoute h2)))
    · split
      · extract_lets
        split
        · exact .after h
        · exact .execTurnRequest_go (.note h)
        · exact .ite (.diverge h (fun _ h3 => .after h3) (fun _ _ h4 => .after (.updReq h4))) (.execTurnRequest_go (.unqueue h))
      · exact h

theorem Keeps.execTurnBoundary {link} (h : s.Inv) : Keeps (execTurnBoundary link s) := by
  unfold Machine.execTurnBoundary
  refine .next ?_
  split
  · exact h
  · split
    · exact h
    · extract_lets m out more want running can head n l1 done l2 s1 s2 s3
      refine .ite (.afterOnce h) ?_
      have hs1 : s1.Inv := h
      have hs2 : s2.Inv := .foldl hs1 (fun _ h1 _ => .after h1)
      have hs3 : s3.Inv := by
        refine .ite hs2 (.ite ?_ (.ite (.record hs2) hs2))
        clear_value head
        split
        exacts [.unqueue hs2, hs2]
      exact .ite hs3 (.afterOnce hs3)

theorem Keeps.execGroupTurnDone {link group} (h : s.Inv) : Keeps (execGroupTurnDone link group s) := by
  unfold Machine.execGroupTurnDone
  refine .next ?_
  split
  · split
    exacts [.ite h h, h]
  · exact h

/-! ## System instructions (Machine/System) -/

theorem State.Inv.ctxCsrWrite_compare {c v i} (h : s.Inv) : (State.ctxCsrWrite.compare s c v i).Inv := .updCtx h

theorem State.Inv.ctxCsrWrite {c n v} (h : s.Inv) : (s.ctxCsrWrite c n v).Inv := by
  unfold State.ctxCsrWrite
  extract_lets
  split
  · exact .updCtx h
  · exact .updCtx h
  · exact .ctxCsrWrite_compare h
  · exact .ctxCsrWrite_compare h
  · exact .ctxCsrWrite_compare h
  · exact .ctxCsrWrite_compare h
  · exact .ite h (.updCtx h)
  · exact .ite h (.updCtx h)
  · exact .logTail h
  · exact h

theorem Keeps.execWrs {c g} (h : s.Inv) : Keeps (execWrs c g s) := by
  unfold Machine.execWrs
  refine .next ?_
  split
  exacts [.priv h, .issue (fun _ h1 => .advance (.ite (.ctxCsrWrite h1) (.upd h1))) h]

theorem Keeps.execLogmark {a} (h : s.Inv) : Keeps (execLogmark a s) := by
  unfold Machine.execLogmark
  refine .next (.issue ?_ h)
  intro _ h1
  extract_lets
  split
  exacts [.ite (.divergeAtIssue h1) (.loggable (fun _ _ h2 => .advance (.unqueue h2)) h1), .loggable (fun _ _ h3 => .advance (.note h3)) h1]

theorem Keeps.execEvsig {b a} (h : s.Inv) : Keeps (execEvsig b a s) := by
  unfold Machine.execEvsig
  refine .next (.issue ?_ h)
  intro _ h1
  extract_lets ga gb driver target
  clear_value target
  split
  exacts [.trap h1, .ite (.trap h1) (.memIssue (fun _ h2 => .ordinal (fun _ _ h3 => .advance (.after (.openReq h3))) h2) h1)]

theorem State.Inv.execEvsigDelivery_latch {t} (h : s.Inv) : (execEvsigDelivery.latch s t).Inv := .ite (.ite (.wake (.updThread h)) (.updThread h)) h
theorem State.Inv.execEvsigDelivery_refuse {id r c u} (h : s.Inv) : (execEvsigDelivery.refuse id s r c u).Inv :=
  .after (.updReq (.nextFree (.logRoute h)))

theorem State.Inv.execEvsigDelivery_ack {id r c} (h : s.Inv) : (execEvsigDelivery.ack id s r c).Inv := by
  unfold execEvsigDelivery.ack
  split
  exacts [.execEvsigDelivery_refuse h, .after (.updReq h)]

theorem Keeps.execEvsigDelivery {id} (h : s.Inv) : Keeps (execEvsigDelivery id s) := by
  unfold Machine.execEvsigDelivery
  refine .next ?_
  split
  · exact h
  · split
    · refine .ite ?_ ?_
      · exact .ite (.after h) (.execEvsigDelivery_ack h)
      · refine .ite h (.ite (.after h) (.ite ?_ ?_))
        · exact .ite (.after (.updReq (.postEvent (.releaseFence h)))) (.execEvsigDelivery_ack (.postEvent (.releaseFence h)))
        · split
          · exact .execEvsigDelivery_refuse (.releaseFence h)
          · split
            · exact .spill (.releaseFence h)
            · exact .execEvsigDelivery_ack (.foldl (.releaseFence h) (fun _ h1 _ => .ite (.execEvsigDelivery_latch h1) h1))
    · exact h

/-! ## Queues of the command processor (Machine/Queues) -/

theorem State.Inv.updPart {n f} (h : s.Inv) : (s.updPart n f).Inv := h
theorem State.Inv.updQueue {n q f} (h : s.Inv) : (s.updQueue n q f).Inv := .updPart h
theorem State.Inv.dispatch {die} (h : s.Inv) : (s.dispatch die).Inv := .afterOnce h

theorem State.Inv.dispatchPart {n} (h : s.Inv) : (s.dispatchPart n).Inv := by
  unfold State.dispatchPart
  split
  exacts [.dispatch h, h]

theorem Reach.Inv.cpRead {die va n} (h : s.Inv) : (s.cpRead die va n).Inv := .ite h (.ite (.logHome h) (.globalRead h))

theorem State.Inv.cpReady {part va ev} {k : State → State} (h : s.Inv) (hk : ∀ s, s.Inv → (k s).Inv) : (s.cpReady part va ev k).Inv := by
  unfold State.cpReady
  split
  exacts [hk _ h, .ite (.after h) (.walked h hk)]

theorem State.Inv.parkCp {part va cause kind item} (h : s.Inv) : (s.parkCp part va cause kind item).Inv := by
  unfold State.parkCp
  split
  exacts [h, .ite h (.parkFault h)]

theorem State.Inv.flushQueue {part queue n} (h : s.Inv) : (s.flushQueue part queue n).Inv := by
  induction n generalizing s with
  | zero => exact h
  | succ n ih =>
    unfold State.flushQueue
    split
    · exact h
    · split
      · exact .pollQueue h
      · refine .cpReady h ?_
        intro _ h1
        split
        · exact .parkCp h1
        · next e => exact ih (.updQueue (.of_bad e (.globalWrite h1)))
        · next e => exact ih (.updQueue (.of_ok e (.globalWrite h1)))

theorem State.Inv.cpWrite {part queue l} (h : s.Inv) : (s.cpWrite part queue l).Inv := by
  unfold State.cpWrite
  extract_lets
  split
  exacts [.flushQueue (.updQueue h), .updQueue h]

theorem State.Inv.setStatus {part queue code stops index} (h : s.Inv) : (s.setStatus part queue code stops index).Inv := by
  unfold State.setStatus
  split
  exacts [h, .cpWrite (.updQueue h)]

theorem State.Inv.stopQueue {part queue code index} (h : s.Inv) : (s.stopQueue part queue code index).Inv := by
  unfold State.stopQueue
  split
  exacts [h, .postEvent (.setStatus h)]

theorem Keeps.execLaunch {part queue} (h : s.Inv) : Keeps (execLaunch part queue s) := by
  unfold Machine.execLaunch
  refine .next ?_
  split
  · split
    · refine .ite h ?_
      split
      exacts [.dispatch (.updQueue h), .stopQueue h]
    · exact h
  · exact h

theorem Keeps.execReservedPacketType {part queue} (h : s.Inv) : Keeps (execReservedPacketType part queue s) := by
  unfold Machine.execReservedPacketType
  refine .next ?_
  split
  · split
    exacts [.ite (.stopQueue h) h, h]
  · exact h

theorem Keeps.execNotifyStore {part queue value host} (h : s.Inv) : Keeps (execNotifyStore part queue value host s) := by
  refine .next ?_
  cases e : s.notify part queue value host with
  | none => exact h
  | some t => exact .notify h e

theorem State.Inv.reserveCores {n} (h : s.Inv) : (s.reserveCores n).Inv := by
  unfold State.reserveCores
  split
  · exact h
  · exact .foldl h (fun _ h1 _ => by split; exacts [.ite (.ite h1 (.updQueue h1)) h1, h1])

theorem State.Inv.readSignals {n} (h : s.Inv) : (s.readSignals n).Inv := by
  unfold State.readSignals
  split
  · exact h
  · exact .foldl h (fun _ h1 _ => by split; exacts [.ite (.afterOnce h1) h1, h1])

theorem Keeps.execDispatchOpportunity {die} (h : s.Inv) : Keeps (execDispatchOpportunity die s) := by
  unfold Machine.execDispatchOpportunity
  refine .next ?_
  extract_lets held s ready last
  have hs : s.Inv := .foldl h (fun _ h1 _ => .readSignals (.reserveCores h1))
  refine .ite h (.ite (.dispatch h) ?_)
  split
  · exact hs
  · split
    exacts [hs, .dispatch (.after (.updPart (.updDie hs)))]

theorem Keeps.execQueueAging {part queue} (h : s.Inv) : Keeps (execQueueAging part queue s) := by
  unfold Machine.execQueueAging
  refine .next ?_
  split
  exacts [.ite (.dispatchPart (.updQueue h)) h, h]

theorem State.Inv.consume {part queue q} (h : s.Inv) : (s.consume part queue q).Inv := .cpWrite (.updQueue h)

theorem Reach.Inv.signal {die va} (h : s.Inv) : (s.signal die va).Inv := by
  unfold State.signal
  split
  exacts [.miss, .ite .miss (.ite (.logHome h) (.ite (.eccRead h) (.homeWrite (.homeRead (.countPage h)))))]

theorem State.Inv.afterPacket {n} (h : s.Inv) : (s.afterPacket n).Inv := by
  unfold State.afterPacket
  split
  exacts [h, .foldl h (fun _ h1 _ => .dispatch (.ite (.afterOnce h1) h1))]

theorem State.Inv.endJob {n j} (h : s.Inv) : (s.endJob n j).Inv := by
  unfold State.endJob
  refine .afterPacket ?_
  split
  exacts [.ite (.postEvent (.updPart h)) (.updPart h), .updPart h]

theorem State.Inv.finishJob {n j} (h : s.Inv) : (s.finishJob n j).Inv := by
  unfold State.finishJob
  refine .ite (.endJob h) ?_
  split
  · exact h
  · refine .cpReady (.updPart h) ?_
    intro _ h1
    split
    · next _ s1 h2 => exact .endJob (.of_ok h2 (.signal h1))
    · exact .parkCp h1
    · next s1 h3 => exact .stopQueue (.endJob (.of_bad h3 (.signal h1)))

theorem State.Inv.destroyDone {n} (h : s.Inv) : (s.destroyDone n).Inv := by
  unfold State.destroyDone
  split
  exacts [h, .foldl h (fun _ h1 _ => .ite h1 (.finishJob (.updPart h1)))]

theorem State.Inv.retryJobs {n} (h : s.Inv) : (s.retryJobs n).Inv := by
  unfold State.retryJobs
  split
  exacts [h, .destroyDone (.foldl h (fun _ h1 _ => .finishJob h1))]

theorem State.Inv.failJobs {n block} (h : s.Inv) : (s.failJobs n block).Inv := by
  unfold State.failJobs
  split
  exacts [h, .destroyDone (.foldl h (fun _ h1 _ => .stopQueue (.endJob (.logHome h1))))]

theorem Keeps.execHeaderPoll {part queue} (h : s.Inv) : Keeps (execHeaderPoll part queue s) := by
  unfold Machine.execHeaderPoll
  refine .next ?_
  split
  · refine .ite h (.ite (.flushQueue h) (.cpReady h ?_))
    intro _ h1
    split
    · exact .parkCp h1
    · next s1 h2 => exact .stopQueue (.of_bad h2 (.cpRead h1))
    · next l s1 h3 =>
        refine .ite (.afterOnce (.of_ok h3 (.cpRead h1))) ?_
        extract_lets s2
        have hs2 : s2.Inv := .after (.updQueue (.of_ok h3 (.cpRead h1)))
        split
        · exact .after hs2
        · refine .ite (.after hs2) ?_
          split
          exacts [.dispatch (.updQueue hs2), .stopQueue hs2]
  · refine .ite (.retryJobs h) ?_
    split
    exacts [.ite (.flushQueue h) h, h]
  · exact h

theorem Keeps.execNopPacket {part queue} (h : s.Inv) : Keeps (execNopPacket part queue s) := by
  unfold Machine.execNopPacket
  refine .next ?_
  split
  exacts [.finishJob (.consume h), h]

theorem Keeps.execWaitsig {part queue} (h : s.Inv) : Keeps (execWaitsig part queue s) := by
  unfold Machine.execWaitsig
  refine .next ?_
  split
  · exact .finishJob (.consume h)
  · split
    · exact h
    · split
      · exact h
      · refine .ite h (.cpReady h ?_)
        intro _ h1
        split
        · exact .parkCp h1
        · next s1 h2 => exact .stopQueue (.of_bad h2 (.cpRead h1))
        · next b s1 h3 => exact .ite (.dispatchPart (.updQueue (.of_ok h3 (.cpRead h1)))) (.after (.of_ok h3 (.cpRead h1)))

theorem Keeps.execCsrw {part} (h : s.Inv) : Keeps (execCsrw part s) := by
  unfold Machine.execCsrw
  refine .next ?_
  split
  exacts [.finishJob (.ctxCsrWrite (.consume h)), h]

theorem Keeps.execQcreate {part} (h : s.Inv) : Keeps (execQcreate part s) := by
  unfold Machine.execQcreate
  refine .next ?_
  split
  exacts [.finishJob (.updPart (.consume h)), h]

theorem Keeps.execQdestroy {part} (h : s.Inv) : Keeps (execQdestroy part s) := by
  unfold Machine.execQdestroy
  refine .next ?_
  split
  exacts [.destroyDone (.updQueue (.updPart (.consume h))), h]

theorem State.Inv.clearKeys {key len} (h : s.Inv) : (s.clearKeys key len).Inv := .of_filter h rfl

theorem Keeps.execLaunchStart {part queue} (h : s.Inv) : Keeps (execLaunchStart part queue s) := by
  unfold Machine.execLaunchStart
  refine .next ?_
  split
  · exact h
  · extract_lets x n launch s1 s2
    have hs1 : s1.Inv := .updCtx (.consume h)
    have hs2 : s2.Inv := hs1
    exact .foldl hs2 (fun _ h1 _ => .after (.clearKeys (.updCore h1)))

theorem State.Inv.launchRefill {t va} (h : s.Inv) : (s.launchRefill t va).Inv := by
  unfold State.launchRefill
  split
  exacts [.ite h (.ite (.updCore (.warmAt h)) (.warmAt h)), h]

theorem State.Inv.zeroFrame {t a} (h : s.Inv) : (s.zeroFrame t a).Inv := by
  unfold State.zeroFrame
  extract_lets
  split
  exacts [.updThread h, .ite (.updThread h) (.ite (.updThread h) (.updThread (.postIn (.rightFor (.launchRefill h)))))]

theorem Keeps.execLaunchStateArrival {launch core} (h : s.Inv) : Keeps (execLaunchStateArrival launch core s) := by
  unfold Machine.execLaunchStateArrival
  refine .next ?_
  split
  · exact h
  · refine .ite h (.ite ?_ ?_)
    · exact .ite (.ite (.after (.foldl h (fun _ h1 _ => .updThread h1))) (.foldl h (fun _ h1 _ => .updThread h1))) h
    · extract_lets lci s0 s1 s2 s3
      have hs3 : s3.Inv := by
        unfold s3
        refine .checkLaunch (.coreWork (.launchRefill ?_))
        exact .launchRefill (.foldl (.foldl h (fun _ h2 _ => .dropSI h2)) (fun _ h3 _ => .zeroFrame (.zeroFrame (.start h3))))
      refine .ite ?_ hs3
      extract_lets
      split
      exacts [.foldl hs3 (fun _ h4 _ => .after h4), hs3]

theorem State.Inv.freeCores {n l} (h : s.Inv) : (s.freeCores n l).Inv := by
  unfold State.freeCores
  extract_lets
  split
  · exact h
  · next p _ =>
    extract_lets mine s1 s2 s3 jobs s4 s5
    have hs1 : s1.Inv := .foldl h (fun _ h1 _ => .updCore h1)
    have hs2 : s2.Inv := .updPart hs1
    have hs3 : s3.Inv := .of_mem hs2 rfl
    exact .destroyDone (.afterPacket (.foldl (.updPart hs3) (fun _ h2 _ => .finishJob h2)))

theorem Keeps.execLaunchComplete {launch} (h : s.Inv) : Keeps (execLaunchComplete launch s) := by
  unfold Machine.execLaunchComplete
  refine .next ?_
  split
  · exact h
  · split
    · exact h
    · extract_lets stage c free
      have hfree {s : State} (h : s.Inv) : (free s).Inv := by
        unfold free
        extract_lets s1
        have hs1 : s1.Inv := .ite (.postEvent h) h
        exact .freeCores (.ite (.setStatus hs1) hs1)
      refine .ite (.ite (.after h) (.ite (.after h) h)) (.ite (hfree h) (.cpReady h ?_))
      intro _ h1
      split
      · next e => exact hfree (.of_ok e (.signal h1))
      · exact .parkCp h1
      · next e => exact .stopQueue (hfree (.of_bad e (.signal h1)))

theorem State.Inv.failSignal {launch} (h : s.Inv) : (s.failSignal launch).Inv := by
  unfold State.failSignal
  split
  · exact h
  · split
    exacts [h, .stopQueue (.freeCores (.ite (.postEvent (.logHome h)) (.logHome h)))]

theorem State.Inv.drop {t} (h : s.Inv) : (s.drop t).Inv := .coreWork (.setThread h)
theorem State.Inv.dropCommands {n} (h : s.Inv) : (s.dropCommands n).Inv := .foldl (.foldl h (fun _ h1 _ => .updCore h1)) (fun _ h2 _ => .updDie h2)

theorem Keeps.execAbort {part} (h : s.Inv) : Keeps (execAbort part s) := by
  unfold Machine.execAbort
  refine .next ?_
  split
  · exact h
  · extract_lets s1
    have hs1 : s1.Inv := .consume h
    split
    · exact .finishJob hs1
    · extract_lets gone clear names open_ s0 s2 s3 s4
      have hs0 : s0.Inv := .updRoll hs1
      have hs2 : s2.Inv := .foldl (.of_mem hs0 rfl) (fun _ h1 _ => .updCore h1)
      exact .checkLaunch (.updPart (.dropCommands (.foldl hs2 (fun _ h2 _ => .drop h2))))

theorem Keeps.execSetdet {part} (h : s.Inv) : Keeps (execSetdet part s) := by
  unfold Machine.execSetdet
  refine .next ?_
  split
  exacts [h, .ite (.stopQueue h) (.after (.updPart (.consume h)))]

theorem State.Inv.freeWalks {c} (h : s.Inv) : (s.freeWalks c).Inv := .foldl h (fun _ h1 _ => .updSlice h1)

theorem Keeps.execSetdetComplete {part} (h : s.Inv) : Keeps (execSetdetComplete part s) := by
  unfold Machine.execSetdetComplete
  refine .next ?_
  split
  · exact h
  · split
    · exact h
    · extract_lets c old r s1 fresh s2 s3 s3' s4
      have hs2 : s2.Inv := .updCtx (.ite (.rollEvent h) h)
      have hs3 : s3.Inv := hs2
      have hs3' : s3'.Inv := .ite hs3 (.freeWalks hs3)
      have hs4 : s4.Inv := .ite (.record hs3') (.ite (.lowReplay hs3') hs3')
      exact .ite h (.ite (.afterOnce (.record (.updPart h))) (.ite (.afterOnce h) (.finishJob (.updPart hs4))))

/-! ## Management (Machine/Manage) -/

theorem State.Inv.rejoin {t} (h : s.Inv) : (s.rejoin t).Inv := .after h

theorem State.Inv.wakeItem {i} (h : s.Inv) : (s.wakeItem i).Inv := by
  unfold State.wakeItem
  split
  · split
    exacts [.rejoin (.serveAt (.updReq h)), h]
  · exact .ite (.wake h) h
  · split
    exacts [.after (.updWord h), h]
  · exact .after h
  · split
    · exact .resumeRoll h
    · refine .dispatchPart ?_
      split
      exacts [.flushQueue h, h]
    · exact .after h
    · exact .retryJobs h

theorem State.Inv.failRoll {c block} (h : s.Inv) : (s.failRoll c block).Inv := by
  unfold State.failRoll
  refine .ite (.resumeRoll (.updRoll h)) (.ite ?_ ?_)
  · exact .ite (.updRoll h) (.wakeRoll (.badRoll (.updRoll h)))
  · split
    exacts [.resumeRoll (.updRoll (.updRoll h)), .resumeRoll (.updRoll h)]

theorem State.Inv.failItem {slice block i} (h : s.Inv) : (s.failItem slice block i).Inv := by
  unfold State.failItem
  split
  · split
    exacts [.rejoin (.ite (.failAt h) (.failWord h)), h]
  · exact .ite (.wake (.updThread (.logHome h))) h
  · split
    exacts [.copyFail (.logHome h), h]
  · split
    exacts [.ttsetEnd (.logError h), h]
  · split
    · exact .failRoll h
    · split
      exacts [.stopQueue (.updQueue h), h]
    · exact .failSignal h
    · exact .failJobs h

theorem State.Inv.admitFaults {slice} (h : s.Inv) : (s.admitFaults slice).Inv := .foldl (.setSlice h) (fun _ h1 _ => .wakeItem h1)

theorem Keeps.execWake {die value} (h : s.Inv) : Keeps (execWake die value s) := by
  unfold Machine.execWake
  refine .next ?_
  split
  · exact h
  · refine .ite ?_ ?_
    · split
      exacts [.admitFaults (.foldl (.updSlice h) (fun _ h1 _ => .wakeItem h1)), .writeFault (.updSlice (.updDie h))]
    · exact .admitFaults (.foldl (.updSlice h) (fun _ h2 _ => .failItem h2))

theorem State.Inv.beginInval {page log} (h : s.Inv) : (s.beginInval page log).Inv := by
  unfold State.beginInval
  refine .foldl (.foldl (.foldl ?_ ?_) (fun _ h2 _ => .wake (.updThread h2))) (fun _ h1 _ => .updSlice h1)
  · exact .foldl (.foldl h (fun _ h3 _ => .evictPartials h3)) (fun _ h4 _ => .foldl h4 (fun _ h5 _ => .combineWord h5))
  · exact fun _ h6 _ => .ite h6 (.foldl (.updCore h6) (fun _ h7 _ => .writeBack h7))

theorem State.Inv.moveSib {slice key w} (h : s.Inv) : (s.moveSib slice key w).Inv := by
  unfold State.moveSib
  split
  exacts [h, .ite h (.ite (.updSlice (.updSlice h)) (.logError (.updSlice (.updSlice h))))]

theorem Keeps.execInvalidationDone {die} (h : s.Inv) : Keeps (execInvalidationDone die s) := by
  unfold Machine.execInvalidationDone
  refine .next ?_
  split
  · exact h
  · refine .ite (.after h) ?_
    extract_lets s1 s2
    have hs2 : s2.Inv := .foldl (.updDie h) (fun _ h1 _ => .foldl h1 (fun _ h2 _ => .moveSib h2))
    split
    exacts [.after (.beginInval hs2), hs2]

theorem Keeps.execManagementWrite {reg value} (h : s.Inv) : Keeps (execManagementWrite reg value s) := by
  unfold Machine.execManagementWrite
  refine .next ?_
  extract_lets
  split
  · exact .updDie h
  · exact .updDie h
  · exact h
  · exact .updDie h
  · exact .ite (.updDie h) h
  · exact .ite h h
  · exact .ite h h
  · exact .ite h h
  · exact .ite h h
  · exact h
  · exact h
  · exact h
  · exact .ite h h
  · exact .ite h h
  · exact .ite (.updPart h) h
  · exact .updPart h
  · exact .ite (.updPart h) h
  · exact .updPart h
  · exact .updPart h
  · exact .updPart h
  · exact .ite h h
  · exact h
  · exact .ite (.after h) h

/-! ## Bring-up (Machine/Bringup) -/

theorem State.Inv.fence {f} (h : s.Inv) : (s.fence f).Inv := by
  unfold State.fence
  refine .ite h ?_
  extract_lets
  split <;> exact .logError h

theorem Keeps.execResetStepDone {failed} (h : s.Inv) : Keeps (execResetStepDone failed s) := by
  unfold Machine.execResetStepDone
  refine .next ?_
  extract_lets n bad s1 s2 s3
  refine .ite h (.ite h ?_)
  have hs2 : s2.Inv := by
    unfold s2
    clear_value n
    split
    exacts [h, .of_filter h rfl, .of_filter h rfl, h, h]
  have hs3 : s3.Inv := .foldl hs2 (fun _ h5 _ => .fence h5)
  exact .ite hs3 hs3

theorem Keeps.execScrubRead {word} (h : s.Inv) : Keeps (execScrubRead word s) := by
  unfold Machine.execScrubRead
  refine .ite .fault (.next (.ite (.afterOnce h) ?_))
  split
  exacts [.afterOnce (.eccRead h), .ite (.again h) (.afterOnce (.eccRead (.setBank h)))]

/-! ## Control (Machine/Control) -/

theorem State.Inv.goTo {t len} (h : s.Inv) : (goTo t len s).Inv := .checkTarget (fun _ h1 => .transfer h1) h
theorem State.Inv.branch {cond i b a} (h : s.Inv) : (branch cond i b a s).Inv := .issue (fun _ h1 => .ite (.goTo h1) (.advance h1)) h
theorem State.Inv.branchState {p i a} (h : s.Inv) : (branchState p i a s).Inv := .issue (fun _ h1 => .ite (.goTo h1) (.advance h1)) h
theorem State.Inv.branch16 {p i d} (h : s.Inv) : (branch16 p i d s).Inv := .issue (fun _ h1 => .ite (.goTo h1) (.advance h1)) h
theorem State.Inv.callTo {t} {n : Nat} {d : BitVec n} (h : s.Inv) : (callTo t d s).Inv := .checkTarget (fun _ h1 => .transfer (.upd h1)) h

theorem Keeps.execLoop {i a} (h : s.Inv) : Keeps (execLoop i a s) := by
  unfold Machine.execLoop
  refine .next (.issue ?_ h)
  intro _ h1
  refine .ite (.illegal h1) ?_
  split
  · next body s1 h2 => exact .ite (.upd (.of_pair h2 (.capture h1))) (.illegal (.of_pair h2 (.capture h1)))
  · next c info _ s1 h3 => exact .trap (.of_pair h3 (.capture h1))
  · next _ s1 h4 => exact .of_pair h4 (.capture h1)

/-! ## Integers (Machine/Integer) -/

theorem State.Inv.divide {f b a d} (h : s.Inv) : (divide f b a d s).Inv := .issue (fun _ h1 => .advance (.after (.upd h1))) h

/-! ## Memory (Machine/Memory) -/

theorem State.Inv.syncForm_postPart {r} (h : s.Inv) : (syncForm.postPart r s).Inv := by
  unfold syncForm.postPart
  split
  exacts [.loggable (fun _ _ h1 => .upd (.post h1)) h, .upd (.post h)]

theorem State.Inv.syncForm {op store need a d} (h : s.Inv) : (Machine.syncForm op store need a d s).Inv := by
  unfold Machine.syncForm
  refine .issue ?_ h
  intro _ h1
  extract_lets va o cls
  split
  · exact .parkOn h1
  · exact .advance h1
  · exact .advance (.upd h1)
  · refine .checkAddr ?_ h1
    intro p _ h2
    refine .ite (.memIssue (fun _ h3 => .postAccess h3) h2) (.memIssue ?_ h2)
    refine fun _ h4 => .ite (.shortAccess ?_ h4) (.syncForm_postPart h4)
    intro _ _ _ h5
    extract_lets s1 s2
    have hs1 : s1.Inv := .ite (.served h5) (.eccRead (.served h5))
    clear_value s1
    refine .ite (.done hs1) ?_
    clear_value o
    cases o
    case stf => exact .advance (.bankWrite (.noteWrite hs1))
    case ldtk => exact .serveWord (.done (.breakResv (.setEmpty hs1)))
    all_goals exact .done hs1

theorem State.Inv.reserve {acq a d} (h : s.Inv) : (Machine.reserve acq a d s).Inv := by
  unfold Machine.reserve
  refine .issue ?_ h
  intro _ h1
  refine .checkAddr ?_ h1
  intro _ _ h2
  refine .memIssue ?_ h2
  intro _ h3
  exact .ite (.shortAccess (fun _ _ _ h4 => .ite (.done (.eccRead (.served h4))) (.done (.eccRead (.served h4)))) h3) (.postAccess h3)

theorem State.Inv.condition {rel b a d} (h : s.Inv) : (condition rel b a d s).Inv := by
  unfold Machine.condition
  refine .issue ?_ h
  intro _ h1
  refine .checkAddr ?_ h1
  intro _ _ h2
  refine .memIssue ?_ h2
  intro _ h3
  refine .ite ?_ (.postAccess h3)
  exact .shortAccess (fun _ _ _ h4 => .ite (.done (.bankWrite (.noteWrite (.served (.upd h4))))) (.done (.served (.upd h4)))) h3

theorem State.Inv.cacheOp {keep a} (h : s.Inv) : (cacheOp keep a s).Inv := by
  unfold Machine.cacheOp
  exact .issue (fun _ h1 => .checkAddr (fun _ _ h2 => by split; exacts [.memIssue (fun _ h3 => .postAccess h3) h2, .advance h2]) h1) h

theorem Keeps.execCwball (h : s.Inv) : Keeps (execCwball s) := by
  unfold Machine.execCwball
  refine .next ?_
  exact .issue (fun _ h1 => by split; exacts [.advance h1, .memIssue (fun _ h2 => .postAccess h2) h1]) h

/-! ## Preemption (Machine/Preempt) -/

theorem State.Inv.renameCore {a b} (h : s.Inv) : (s.renameCore a b).Inv := by
  unfold State.renameCore
  refine .foldl (.foldl ?_ (fun _ h2 _ => .updDie h2)) (fun _ h1 _ => .updSlice h1)
  exact .foldl (.setCore (.setCore (.foldl h (fun _ h3 _ => .updCore h3)))) (fun _ h4 _ => .setThread (.setThread h4))

theorem State.Inv.retarget {old new i} (h : s.Inv) : (s.retarget old new i).Inv := by
  unfold State.retarget
  extract_lets
  split
  exacts [.updReq h, .updReq h, .updReq h, .updReq h, .updPacket h, .updPacket h, .updReq h, h]

theorem State.Inv.peDone {die r status} (h : s.Inv) : (s.peDone die r status).Inv := .updDie h

theorem State.Inv.loadImage {core x} (h : s.Inv) : (s.loadImage core x).Inv := by
  unfold State.loadImage
  refine .foldl ?_ (fun _ h1 _ => .of_pokeMem h1 rfl)
  exact .foldl (.foldl (.clearKeys (.clearKeys h)) (fun _ h2 _ => .of_pokeMem h2 rfl)) (fun _ h3 _ => .of_pokeMem h3 rfl)

theorem State.Inv.copyPads {a b} (h : s.Inv) : (s.copyPads a b).Inv := .foldl (.clearKeys (.clearKeys h)) (fun _ h1 _ => .of_tput h1 rfl)
theorem State.Inv.emptyCache {c} (h : s.Inv) : (s.emptyCache c).Inv := .foldl (.updCore (.evictPartials h)) (fun _ h1 _ => .writeBack h1)

theorem State.Inv.loadStep {e l} (h : s.Inv) : (s.loadStep e l).Inv := by
  unfold State.loadStep
  split
  exacts [.ite h (.updTile h), h]

theorem State.Inv.bringBack {core v x wait} {s00 : State} (hs00 : s00.Inv) : (s00.bringBack core v x wait).Inv := by
  unfold State.bringBack
  extract_lets s0 busy kept away s fits s1 s2 s3 s4 _ s5 sw cmds s6
  have hs0 : s0.Inv := .emptyCache hs00
  have hs : s.Inv := by
    unfold s
    split
    exacts [.ite hs0 (.loadStep hs0), hs0]
  have hs2 : s2.Inv := .updCore (.renameCore hs)
  have hs3 : s3.Inv := by
    unfold s3
    split
    · exact .foldl (.loadImage hs2) (fun _ h2 _ => .setThread h2)
    · exact .foldl (.copyPads hs2) (fun _ h3 _ => .updThread h3)
  have hs4 : s4.Inv := .foldl hs3 (fun _ h1 _ => .retarget h1)
  have hs5 : s5.Inv := hs4
  have hsw : sw.Inv := .updCore hs5
  exact .after (.ite (.afterOnce (.of_mem hsw rfl)) hs5)

theorem State.Inv.peStage {die n} (h : s.Inv) : (s.peStage die n).Inv := .updDie h

theorem State.Inv.peResume {die r img} (h : s.Inv) : (s.peResume die r img).Inv := by
  unfold State.peResume
  extract_lets head n bad all
  have hbad {s code} (h : s.Inv) : (bad s code).Inv := .peDone (.logError h)
  have hhead : head.2.Inv := .homeRead h
  have hall : all.2.Inv := .homeRead hhead
  clear_value all
  refine .ite (hbad h) (.ite (hbad hhead) ?_)
  -- the pair is taken apart, so that the kernel meets a variable where the matches below look for the bytes read
  obtain ⟨bytes, t⟩ := all
  split
  · exact .peDone hall
  · split
    · exact .peDone hall
    · exact .ite (.peDone hall) (.ite (hbad hall) (.ite (hbad (.eccRead hall)) (.peStage (.bringBack hall))))

theorem State.Inv.peRetry {die r} (h : s.Inv) : (s.peRetry die r).Inv := .after (.peStage (.writeSpill (.updCore h)))

theorem State.Inv.peBegin {die} (h : s.Inv) : (s.peBegin die).Inv := by
  unfold State.peBegin
  split
  · exact h
  · refine .ite ?_ ?_
    · exact .ite (.peDone h) (.ite (.peRetry h) (.ite (.peDone h) (.after (.peStage h))))
    · split
      · split
        exacts [.ite (.peStage (.bringBack h)) (.peDone h), .peDone h]
      · exact .peResume h

theorem State.Inv.peRun {die n} (h : s.Inv) : (s.peRun die n).Inv := by
  induction n generalizing s with
  | zero => exact h
  | succ n ih =>
    unfold State.peRun
    split
    exacts [.ite (ih (.peBegin h)) h, h]

theorem State.Inv.peRequest {die r} (h : s.Inv) : (s.peRequest die r).Inv := .ite (.ite (.updDie h) h) (.peRun (.updDie h))

theorem Keeps.execPestatRead {die} (h : s.Inv) : Keeps (execPestatRead die s) := by
  unfold Machine.execPestatRead
  refine .next ?_
  extract_lets t
  have ht : t.Inv := .updDie h
  exact ht

theorem Keeps.execMeshInterrupt {die} (h : s.Inv) : Keeps (execMeshInterrupt die s) := by
  unfold Machine.execMeshInterrupt
  refine .next ?_
  split
  exacts [h, .ite (.after (.wakeCore h)) (.after (.peStage h))]

theorem Keeps.execCoreStop {die} (h : s.Inv) : Keeps (execCoreStop die s) := by
  unfold Machine.execCoreStop
  refine .next ?_
  split
  exacts [h, .ite (.after h) (.after (.updCore (.peStage h)))]

theorem Keeps.execQuiesceDone {die} (h : s.Inv) : Keeps (execQuiesceDone die s) := by
  unfold Machine.execQuiesceDone
  refine .next ?_
  split
  exacts [h, .ite (.after h) (.after (.peStage (.updCore (.emptyCache h))))]

theorem State.Inv.saveDone {die r bytes} (h : s.Inv) : (s.saveDone die r bytes).Inv := by
  unfold State.saveDone
  extract_lets c w s1 virt name waiting s2 s3 s4 s5 v s6 e
  have hs1 : s1.Inv := by
    unfold s1
    split
    exacts [.updDie (.homeWrite h), h]
  have hs2 : s2.Inv := .of_mem hs1 rfl
  have hs3 : s3.Inv := .ite hs2 (.foldl hs2 (fun _ h1 _ => .updThread h1))
  have hs4 : s4.Inv := .updCore (.renameCore hs3)
  have hs5 : s5.Inv := .ite (.copyPads hs4) hs4
  have hs6 : s6.Inv := .of_mem hs5 rfl
  exact .ite (.after hs6) hs6

theorem Keeps.execImageWritten {die} (h : s.Inv) : Keeps (execImageWritten die s) := by
  unfold Machine.execImageWritten
  refine .next ?_
  split
  · exact h
  · refine .ite ?_ ?_
    · exact .peRun (.peDone (.foldl h (fun _ h1 _ => .eccRead h1)))
    · exact .ite (.peRun (.peDone (.logError h))) (.peRun (.peDone (.saveDone h)))

theorem State.Inv.resumeTile {c eng} (h : s.Inv) : (s.resumeTile c eng).Inv := .ite (.after h) (.afterStep h)

theorem Keeps.execEngineSectionRestore {die image} (h : s.Inv) : Keeps (execEngineSectionRestore die image s) := by
  unfold Machine.execEngineSectionRestore
  refine .next ?_
  split
  · exact h
  · extract_lets e back ok
    refine .ite h ?_
    split
    · exact .after h
    · extract_lets s1 s2 b s3
      have hs1 : s1.Inv := .updCore (.updCore h)
      have hs2 : s2.Inv := .ite hs1 hs1
      have hs3 : s3.Inv := .ite hs2 (.homeWrite hs2)
      split
      · split
        exacts [.resumeTile (.updTile hs3), hs3]
      · exact .schedule hs3

theorem Keeps.execSpillRedelivery {core} (h : s.Inv) : Keeps (execSpillRedelivery core s) := by
  unfold Machine.execSpillRedelivery
  refine .next (.ite h ?_)
  split
  exacts [.after h, .after (.after (.updCore h))]

theorem Keeps.execResumeDone {core} (h : s.Inv) : Keeps (execResumeDone core s) := by
  unfold Machine.execResumeDone
  refine .next ?_
  extract_lets x s1 waiting s2 s3 s4 s5
  have hs2 : s2.Inv := .foldl (.updCore h) (fun _ h1 _ => .after h1)
  have hs3 : s3.Inv := by
    unfold s3
    split
    · split
      exacts [.resumeTile hs2, hs2]
    · exact hs2
  have hs5 : s5.Inv := .foldl (.ite hs3 (.afterOnce hs3)) (fun _ h2 _ => .updThread h2)
  refine .ite h (.foldl (.restCore (.coreWork hs5)) ?_)
  intro _ h3 _
  split
  exacts [.ite (.peRun (.peDone h3)) h3, h3]

theorem Keeps.execRemapInstallDone {die} (h : s.Inv) : Keeps (execRemapInstallDone die s) := by
  unfold Machine.execRemapInstallDone
  refine .next ?_
  split
  exacts [h, .updPart (.updDie h)]

theorem State.Inv.setTenants {n cores on} (h : s.Inv) : (s.setTenants n cores on).Inv := .foldl h (fun _ h1 _ => h1)

theorem State.Inv.clearCore {c} (h : s.Inv) : (s.clearCore c).Inv := by
  unfold State.clearCore
  extract_lets s1
  have hs1 : s1.Inv := .updCore (.clearKeys (.clearKeys h))
  exact hs1

theorem State.Inv.recheck {n} (h : s.Inv) : (s.recheck n).Inv := by
  unfold State.recheck
  split
  · exact h
  · exact .foldl h (fun _ h1 _ => by split; exacts [.ite (.afterOnce (.updQueue h1)) h1, h1])

theorem State.Inv.shrink {n p r} (h : s.Inv) : (s.shrink n p r).Inv := by
  unfold State.shrink
  extract_lets
  split
  · exact .finishJob (.recheck (.updPart (.setTenants h)))
  · extract_lets
    split
    · exact .ite (.afterOnce (.updPart h)) (.afterOnce (.peRequest (.updPart h)))
    · exact .ite (.afterOnce (.updPart h)) (.ite (.afterOnce h) (.afterOnce (.updPart h)))
    · split
      · exact .afterOnce (.updPart h)
      · split
        exacts [.afterOnce h, .afterOnce (.after (.updDie (.updPart h)))]
    · split
      exacts [.afterOnce (.updPart h), .ite (.afterOnce (.peRequest (.updPart h))) (.afterOnce h)]
    · exact .ite (.ite (.afterOnce h) (.afterOnce (.updPart h))) (.ite (.afterOnce h) (.afterOnce (.updPart h)))

theorem Keeps.execResize {part} (h : s.Inv) : Keeps (execResize part s) := by
  unfold Machine.execResize
  refine .next ?_
  split
  · exact h
  · split
    · exact .shrink h
    · split
      · exact h
      · refine .ite ?_ ?_
        · exact .finishJob (.recheck (.updPart (.foldl (.setTenants (.consume h)) (fun _ h1 _ => .clearCore h1))))
        · exact .ite (.stopQueue h) (.after (.updPart (.consume h)))

/-! ## Scalar floating point (Machine/ScalarFp) -/

theorem State.Inv.fp3 {f p b a d} (h : s.Inv) : (fp3 f p b a d s).Inv := .issue (fun _ h1 => .fpResult h1) h
theorem State.Inv.fp2 {f a d} (h : s.Inv) : (fp2 f a d s).Inv := .issue (fun _ h1 => .fpResult h1) h

/-! ## Tasks (Machine/Task) -/

theorem State.Inv.dequeRestart {c} (h : s.Inv) : (s.dequeRestart c).Inv := .request (.parkOn h)
theorem State.Inv.push {e} (h : s.Inv) : (s.push e).Inv := .coreWork (.updCore h)

theorem Keeps.execSpawn {i} (h : s.Inv) : Keeps (execSpawn i s) := by
  unfold Machine.execSpawn
  refine .next (.issue ?_ h)
  intro _ h1
  extract_lets
  split
  · exact .push (.transfer (.upd h1))
  · exact .parkOn h1
  · exact .ite (.parkOn h1) (.trap h1)
  · refine .ite (.dequeRestart h1) (.checkTarget ?_ h1)
    intro _ h2
    refine .checkAddr ?_ h2
    exact fun _ _ h3 => .checkAddr (fun _ _ h4 => .memIssue (fun _ h5 => .ordinal (fun _ _ h6 => .upd (.post (.post h6))) h5) h4) h3

theorem Keeps.execJoin (h : s.Inv) : Keeps (execJoin s) := by
  unfold Machine.execJoin
  refine .next (.issue ?_ h)
  intro _ h1
  extract_lets
  split
  · exact .advance h1
  · exact .trap h1
  · exact .parkOn h1
  · exact .checkAddr (fun _ _ h2 => .memIssue (fun _ h3 => .loggable (fun _ _ h4 => .upd (.post h4)) h3) h2) h1

theorem State.Inv.exitDeque_resume {e} (h : s.Inv) : (exitDeque.resume s e).Inv :=
  .ite (.afterOnce (.upd (.startEntry (.updCore (.noteTake h))))) (.upd (.startEntry (.updCore (.noteTake h))))

theorem State.Inv.exitDeque {searched} (h : s.Inv) : (exitDeque s searched).Inv := by
  unfold Machine.exitDeque
  extract_lets
  split
  · split
    exacts [.parkOn h, .exitDeque_resume h, .ite (.exitDeque_resume (.unqueue h)) (.retire h)]
  · exact .ite (.request (.upd h)) (.retire h)

theorem State.Inv.exitLink (h : s.Inv) : (exitLink s).Inv :=
  .ite (.exitDeque h) (.checkAddr (fun _ _ h1 => .memIssue (fun _ h2 => .ordinal (fun _ _ h3 => .upd (.post h3)) h2) h1) h)
theorem State.Inv.exitLeave {node} (h : s.Inv) : (exitLeave node s).Inv := .loggable (fun _ _ h1 => .upd (.rollSend h1)) h

theorem State.Inv.exitRule (h : s.Inv) : (exitRule s).Inv := by
  unfold Machine.exitRule
  split
  · exact .parkOn h
  · exact .trap h
  · exact .exitLink h
  · exact .exitDeque h
  · exact .exitDeque h
  · exact .endWaitFor (fun _ h1 => by split; exacts [.exitLeave h1, .exitLink h1]) h

theorem State.Inv.expectReg {r} (h : s.Inv) : (expectReg r s).Inv := .issue (fun _ h1 => .done h1) h

/-! ## Vectors (Machine/Vector) -/

theorem State.Inv.vecOp {legal srcs f k z d} (h : s.Inv) : (vecOp legal srcs f k z d s).Inv := .issue (fun _ h1 => .done h1) h
theorem State.Inv.vec3 {f b a k z d} (h : s.Inv) : (vec3 f b a k z d s).Inv := .vecOp h
theorem State.Inv.vec3s {f g a k z d} (h : s.Inv) : (vec3s f g a k z d s).Inv := .vecOp h
theorem State.Inv.vec2 {f a k z d} (h : s.Inv) : (vec2 f a k z d s).Inv := .vecOp h
theorem State.Inv.vec4 {f b a k z d} (h : s.Inv) : (vec4 f b a k z d s).Inv := .vecOp h
theorem State.Inv.vec4s {f g a k z d} (h : s.Inv) : (vec4s f g a k z d s).Inv := .vecOp h
theorem State.Inv.compare {srcs f c k z d} (h : s.Inv) : (compare srcs f c k z d s).Inv := .issue (fun _ h1 => .done h1) h

theorem State.Inv.checkLanes {g need l} {k : State → State} (hk : ∀ s, s.Inv → (k s).Inv) (h : s.Inv) : (checkLanes g need l k s).Inv := by
  induction l generalizing s with
  | nil => exact hk _ h
  | cons e r ih => exact .ite (.trap h) (.checkAddr (fun _ _ h1 => ih h1) h)

theorem State.Inv.postLanes {r gather} (h : s.Inv) : (postLanes r gather s).Inv := .memIssue (fun _ h1 => .advance (.postWords h1)) h

theorem State.Inv.vecLoad {q gather srcs f g k z d} (h : s.Inv) : (vecLoad q gather srcs f g k z d s).Inv := by
  unfold Machine.vecLoad
  refine .issue ?_ h
  intro _ h1
  extract_lets keep l vas
  clear_value l
  split
  · exact .done h1
  · refine .checkLanes ?_ h1
    refine fun _ h2 => .ite (.memIssue ?_ h2) (.postLanes h2)
    intro _ h3
    split
    · next e => exact .done (.of_pair e (.readShort (.shortWords h3)))
    · next e => exact .done (.of_pair e (.readShort (.shortWords h3)))

theorem State.Inv.vecStore {q gather srcs f g k z d} (h : s.Inv) : (vecStore q gather srcs f g k z d s).Inv := by
  unfold Machine.vecStore
  refine .issue ?_ h
  intro _ h1
  extract_lets l vas data
  clear_value l
  split
  · exact .advance h1
  · exact .checkLanes (fun _ h2 => .ite (.memIssue (fun _ h3 => .advance (.writeShort (.shortWords h3))) h2) (.postLanes h2)) h1

theorem State.Inv.checkSlices {g l} {k : State → State} (hk : ∀ s, s.Inv → (k s).Inv) (h : s.Inv) : (checkSlices g l k s).Inv := by
  unfold Machine.checkSlices
  refine .ite (.trap h) ?_
  split
  exacts [.ite (.trap h) (.trap h), hk _ h]

theorem State.Inv.sliceLoad {srcs f g k z d} (h : s.Inv) : (sliceLoad srcs f g k z d s).Inv := by
  unfold Machine.sliceLoad
  refine .issue ?_ h
  intro _ h1
  refine .checkSlices ?_ h1
  intro _ h2
  extract_lets
  split <;> exact .done (.foldl h2 (fun _ h3 _ => .eccRead h3))

theorem State.Inv.sliceStore {srcs f g k z d} (h : s.Inv) : (sliceStore srcs f g k z d s).Inv :=
  .issue (fun _ h1 => .checkSlices (fun _ h2 => .advance (.foldl h2 (fun _ h3 _ => .putBytes h3))) h1) h
theorem State.Inv.vecReduce {op ident signed g a k} (h : s.Inv) : (vecReduce op ident signed g a k s).Inv := .issue (fun _ h1 => .done h1) h
theorem State.Inv.maskOp {f srcs d} (h : s.Inv) : (maskOp f srcs d s).Inv := .issue (fun _ h1 => .done h1) h

theorem State.Inv.decodeBlock {ints g a k z d} (h : s.Inv) : (decodeBlock ints g a k z d s).Inv := by
  unfold Machine.decodeBlock
  refine .issue ?_ h
  intro _ h1
  refine .checkLanes ?_ h1
  intro _ h2
  refine .ite (.memIssue ?_ h2) (.postLanes h2)
  intro _ h3
  split
  · next e s1 h4 => exact .done (.of_pair h4 (.readShort (.shortWords h3)))
  · next bs s1 h5 => exact .done (.of_pair h5 (.readShort (.shortWords h3)))

/-! ## Traversal (Machine/Traversal) -/

theorem State.Inv.setOp {f srcs d} (h : s.Inv) : (setOp f srcs d s).Inv := .issue (fun _ h1 => .done h1) h
theorem State.Inv.setGet {f srcs d} (h : s.Inv) : (setGet f srcs d s).Inv := .issue (fun _ h1 => .done h1) h
theorem State.Inv.checkImage {va need} {k : Place → State → State} (hk : ∀ x s, s.Inv → (k x s).Inv) (h : s.Inv) : (checkImage va need k s).Inv :=
  .checkAddr (fun _ _ h1 => .checkAddr (fun _ _ h2 => hk _ _ h2) h1) h

theorem Keeps.execMld {a d} (h : s.Inv) : Keeps (execMld a d s) := by
  unfold Machine.execMld
  refine .next (.issue ?_ h)
  intro _ h1
  refine .checkImage ?_ h1
  intro _ _ h2
  refine .ite (.memIssue ?_ h2) (.postLanes h2)
  intro _ h3
  split
  · next e s1 h4 => exact .done (.of_pair h4 (.readShort (.shortWords h3)))
  · next bs s1 h5 => exact .done (.of_pair h5 (.readShort (.shortWords h3)))

theorem Keeps.execMst {b a} (h : s.Inv) : Keeps (execMst b a s) := by
  unfold Machine.execMst
  refine .next (.issue ?_ h)
  exact fun _ h1 => .checkImage (fun _ _ h2 => .ite (.memIssue (fun _ h3 => .advance (.writeShort (.shortWords h3))) h2) (.postLanes h2)) h1

theorem Keeps.execLeave {a} (h : s.Inv) : Keeps (execLeave a s) := by
  unfold Machine.execLeave
  refine .next (.issue ?_ h)
  intro _ h1
  split
  · split
    exacts [.ite (.loggable (fun _ _ h2 => .upd (.rollSend h2)) h1) (.illegal h1), .illegal h1]
  · exact .endWaitFor (fun _ h3 => .exitLink h3) h1
  · exact .exitRule h1

theorem State.Inv.splitInto {slot e} (h : s.Inv) : (s.splitInto slot e).Inv := .updThread (.startEntry h)

theorem State.Inv.splitPlace {mk} {k : State → State} (hk : ∀ s, s.Inv → (k s).Inv) (h : s.Inv) : (splitPlace mk k s).Inv := by
  unfold Machine.splitPlace
  refine .ite (.dequeRestart h) (.loggable ?_ h)
  intro _ _ h1
  extract_lets
  split
  exacts [.splitInto (hk _ (.note h1)), .push (hk _ (.note h1))]

theorem State.Inv.splitReplay {mk} {k : State → State} (hk : ∀ s, s.Inv → (k s).Inv) (h : s.Inv) : (splitReplay mk k s).Inv := by
  unfold Machine.splitReplay
  refine .ite (.dequeRestart h) (.loggable ?_ h)
  intro _ _ h1
  split
  exacts [.ite (.push (hk _ (.unqueue h1))) (.ite (.splitInto (hk _ (.unqueue h1))) (.updCore (hk _ (.unqueue h1)))), .parkOn h]

theorem Keeps.execSplit {r q i} (h : s.Inv) : Keeps (execSplit r q i s) := by
  unfold Machine.execSplit
  refine .next (.issue ?_ h)
  intro _ h1
  refine .checkTarget ?_ h1
  intro _ h2
  refine .ite (.advance h2) ?_
  split
  exacts [.parkOn h2, .ite (.splitReplay (fun _ h3 => .done h3) h2) (.splitPlace (fun _ h4 => .done h4) h2)]

theorem State.Inv.checkRecords {w width} {k : Word → State → State} (hk : ∀ x s, s.Inv → (k x s).Inv) (h : s.Inv) : (checkRecords w width k s).Inv :=
  .ite (.trap h) (.ite (.trap h) (.ite (.trap h) (.ite (.trap h) (.ite (.trap h) (.ite (.trap h) (hk _ _ h))))))

theorem State.Inv.queryField {w a n} {k : Place → Word → State → State} (hk : ∀ x x1 s, s.Inv → (k x x1 s).Inv) (h : s.Inv) :
    (queryField w a n k s).Inv := by
  unfold Machine.queryField
  exact .ite (.trap h) (.checkRecords (fun _ _ h1 => .ite (.trap h1) (by split; exacts [hk _ _ _ h1, .trap h1])) h)

theorem State.Inv.queryLoad {n w a d} (h : s.Inv) : (queryLoad n w a d s).Inv := .issue (fun _ h1 => .queryField (fun _ _ _ h2 => .loadAt h2) h1) h
theorem State.Inv.queryStore {n b a w} (h : s.Inv) : (queryStore n b a w s).Inv :=
  .issue (fun _ h1 => .queryField (fun _ _ _ h2 => .storeAt h2) h1) h

theorem Keeps.execQeval {c b a d w} (h : s.Inv) : Keeps (execQeval c b a d w s) := by
  unfold Machine.execQeval
  refine .next (.issue ?_ h)
  intro _ h1
  refine .checkRecords ?_ h1
  intro _ _ h2
  extract_lets
  split
  exacts [.trap h2, .memIssue (fun _ h3 => .advance (.postWords (.updCore h3))) h2]

/-! ## Versioned words (Machine/Versioned) -/

theorem State.Inv.checkGlobal {va size need} {k : Place → State → State} (hk : ∀ x s, s.Inv → (k x s).Inv) (h : s.Inv) :
    (checkGlobal va size need k s).Inv :=
  .ite (.trap h) (.checkAddr hk h)

theorem State.Inv.verPost {op va p dst k ctx} (h : s.Inv) : (verPost op va p dst k ctx s).Inv := .memIssue (fun _ h1 => .postAccess h1) h
theorem State.Inv.recon {op k a d} (h : s.Inv) : (recon op k a d s).Inv := .issue (fun _ h1 => .checkGlobal (fun _ _ h2 => .verPost h2) h1) h
theorem State.Inv.reduce {wide b a} (h : s.Inv) : (reduce wide b a s).Inv :=
  .issue (fun _ h1 => .checkGlobal (fun _ _ h2 => .memIssue (fun _ h3 => .postAccess h3) h2) h1) h

/-! ## What comes next (Machine/Schedule) -/

theorem State.Inv.settle {t epoch sent word} (h : s.Inv) : (s.settle t epoch sent word).Inv := by
  unfold State.settle
  refine .ite (.stampPost (.updCore h)) ?_
  extract_lets same s0 s1
  have hs1 : s1.Inv := by
    unfold s1
    refine .ite ?_ ?_
    · exact .stampPost (.updThread (.updCore (.updThread h)))
    · split
      exacts [.ite (.updCore (.updThread h)) (.updThread h), .updThread h]
  exact .ite hs1 (.restCore hs1)

theorem State.Inv.comeTo_trapped {t} {x : State} (hx : x.Inv) : (State.comeTo.trapped s t x).Inv := State.Inv.settle hx

theorem State.Inv.comeTo {t} (h : s.Inv) : (s.comeTo t).Inv := by
  unfold State.comeTo
  extract_lets s1
  have hs1 : s1.Inv := h
  split
  · exact State.Inv.comeTo_trapped (.trap (.upd hs1))
  · exact h
  · split
    · next e => exact State.Inv.settle (.of_pair e (.fetch hs1))
    · next e => exact State.Inv.comeTo_trapped (.trap (.of_pair e (.fetch hs1)))
    · next s2 e =>
      have hs2 : s2.Inv := .of_pair e (.fetch hs1)
      split
      exacts [State.Inv.comeTo_trapped (.trap hs2), hs2]

theorem State.Inv.nextCycle (h : s.Inv) : s.nextCycle.Inv := .ite h (.ite h h)

theorem State.Inv.plan (h : s.Inv) : s.plan.Inv := by
  unfold State.plan
  split
  · exact h
  · split
    · exact h
    · split
      · exact h
      · exact State.Inv.comeTo h
      · split
        exacts [h, State.Inv.nextCycle h]

/-! ## The dispatch and the step -/

/-- Every arm of the dispatch keeps the form. -/
theorem Keeps.exec (h : s.Inv) (i : Instr) : Keeps (exec i s) := by
  cases i with
  | lentCycle => exact .execLentCycle h
  | fillLands => exact .execFillLands h
  | errorResponse => exact .execErrorResponse h
  | storeAck => exact .execStoreAck h
  | dividerFill => exact .next (.ite (.restCore (.wake (.updThread h))) h)
  | faultNotice => exact .execFaultNotice h
  | faultWakeRejoin => exact .next (.ite h (.wakeCore (.updThread h)))
  | dequeTake => exact .execDequeTake h
  | stealAttempt => exact .execStealAttempt h
  | stealRequest => exact .execStealRequest h
  | stealReply => exact .execStealReply h
  | dequeRefill => exact .next (.ite h (.coreWork (.updCore h)))
  | resourceRequest => exact .execResourceRequest h
  | resourceRestart => exact .next (.ite (.wake h) h)
  | messageArrival => exact .execMessageArrival h
  | handlerStart => exact .execHandlerStart h
  | rfillArrival => exact .execRfillArrival h
  | evsigDelivery => exact .execEvsigDelivery h
  | bankAccess | homeAccess | barrierArrival => exact .next (.serveAt h)
  | partialEviction => exact .next (.evictPartials h)
  | bellUpdate => exact .execBellUpdate h
  | waitBellNotice => exact .next (.tileNotice (.copyNotice h))
  | fenceProbe => exact .execFenceProbe h
  | fenceEcho => exact .next (.atCore h (fun _ h1 => .ite (.probed h1) h1))
  | atomicIntervalEnd => exact .execAtomicIntervalEnd h
  | plbRefill => exact .next (.ite (.wake (.updCore h)) (.updCore h))
  | copyAccept => exact .execCopyAccept h
  | copyStart => exact .execCopyStart h
  | copyShare => exact .execCopyShare h
  | copyComplete => exact .execCopyComplete h
  | mcpostDelivery => exact .execMcpostDelivery h
  | ttsetServe => exact .execTtsetServe h
  | taskAccept => exact .execTaskAccept h
  | taskDispatch => exact .execTaskDispatch h
  | kStep => exact .execKStep h
  | taskDrain => exact .execTaskDrain h
  | taskComplete => exact .execTaskComplete h
  | accumulatorMoveRun => exact .execAccumulatorMoveRun h
  | engineSelfTest => exact .execEngineSelfTest h
  | rollCallArrival => exact .execRollCallArrival h
  | rollCallLeave => exact .execRollCallLeave h
  | packetHop => exact .next (.hop h)
  | outputAging => exact .execOutputAging h
  | packetDelivery => exact .execPacketDelivery h
  | turnRequest => exact .execTurnRequest h
  | turnBoundary => exact .execTurnBoundary h
  | groupTurnDone => exact .execGroupTurnDone h
  | notifyStore => exact .execNotifyStore h
  | headerPoll => exact .execHeaderPoll h
  | dispatchOpportunity => exact .execDispatchOpportunity h
  | queueAging => exact .execQueueAging h
  | launch => exact .execLaunch h
  | launchStart => exact .execLaunchStart h
  | launchStateArrival => exact .execLaunchStateArrival h
  | launchComplete => exact .execLaunchComplete h
  | waitsig => exact .execWaitsig h
  | nopPacket => exact .execNopPacket h
  | setdet => exact .execSetdet h
  | setdetComplete => exact .execSetdetComplete h
  | csrw => exact .execCsrw h
  | qcreate => exact .execQcreate h
  | qdestroy => exact .execQdestroy h
  | resize => exact .execResize h
  | abort => exact .execAbort h
  | reservedPacketType => exact .execReservedPacketType h
  | eventRetry => exact .next (.flushEvents h)
  | faultRetry => exact .next (.foldl h (fun _ h1 _ => .writeFault h1))
  | fqtailWrite | nqtailWrite | novfWrite | eqtailWrite | eltailWrite => exact .next (.updDie h)
  | wake => exact .execWake h
  | ndone => exact .next (.updSlice h)
  | inval => exact .next (.ite (.after (.beginInval (.updDie h))) (.updDie h))
  | invalidationDone => exact .execInvalidationDone h
  | managementWrite => exact .execManagementWrite h
  | preemptSave | preemptResume => exact .next (.peRequest h)
  | pestatRead => exact .execPestatRead h
  | rmdata => exact .next (.after (.updDie h))
  | remapInstallDone => exact .execRemapInstallDone h
  | meshInterrupt => exact .execMeshInterrupt h
  | coreStop => exact .execCoreStop h
  | quiesceDone => exact .execQuiesceDone h
  | imageWritten => exact .execImageWritten h
  | engineSectionRestore => exact .execEngineSectionRestore h
  | spillRedelivery => exact .execSpillRedelivery h
  | resumeDone => exact .execResumeDone h
  | coreGate => exact .next (.ite h (.ite h (.ite (.afterOnce h) (.updCore h))))
  | coreWake => exact .next (.ite (.updCore h) h)
  | rollRecordWrite => exact .execRollRecordWrite h
  | logtailWrite => exact .next (.logTail h)
  | rollRecordTake => exact .execRollRecordTake h
  | hostAccess => exact .execHostAccess h
  | hostAtomic => exact .execHostAtomic h
  | sysatomCasLoop => exact .execSysatomCasLoop h
  | reductionContribution => exact .next (.ite h (.ite h (.ite (.homeWrite h) (.logError h))))
  | timestampCorrection => exact .next (.ite h (.ite h h))
  | ethernetTransmit => exact .execEthernetTransmit h
  | ethernetReceive => exact .execEthernetReceive h
  | moduleReset | clockLock => exact .next h
  | resetStepDone => exact .execResetStepDone h
  | fwgo => exact .next (.ite h (.updDie h))
  | firmwareReady =>
    exact .next (.ite h (.dispatch (.foldl (.ite (.updDie h) (.afterOnce (.updDie h))) (fun _ h1 _ => .foldl h1 (fun _ h2 _ => .pollQueue h2)))))
  | firmwareFault => exact .next (.ite (.updDie h) h)
  | scrubRead => exact .execScrubRead h
  | illegalEncoding => exact .next (.trap h)
  | proctorProxyComplete => exact .execProctorProxyComplete h
  | overflowMemoryGrant => exact .next (.ite (.updDie h) (.afterOnce (.updDie h)))
  | linkGroupFence => exact .next (.fence h)
  | mv | qdeq | cvclr | vext | vcomp | vpack | rds => exact .next (.issue (fun _ h1 => .done h1) h)
  | li | liu | addpc | lic | licn | qslot | qlink | krd | kpopc | kfirst | rdts => exact .next (.setImm h)
  | addC16 | subC16 | andC16 | orC16 | xorC16 | shlC16 | shrC16 | sarC16 | mulC16 | minC16 | maxC16 | sltC16 => exact .next (.c16Reg h)
  | addiC16 | subi | andiC16 | oriC16 | xoriC16 | shliC16 | shriC16 | sariC16 | muliC16 | mini | maxi | sltiC16 => exact .next (.c16Imm h)
  | lddC16 | lddG2C16 => exact .next (.c16Load h)
  | stdC16 | stdG2C16 => exact .next (.c16Store h)
  | bez | bnz => exact .next (.branch16 h)
  | brkC16 | trap | brk => exact .next (.issue (fun _ h1 => .trap h1) h)
  | add | sub | and | or | xor | shl | shr | sar | mul | min | max | minu | maxu | slt | sltu | seq | sne | addw | subw | rol | ror | andn
  | mulh | mulhu | mulhsu | wing => exact .next (.alu3 h)
  | clz | ctz | popc | brev | bswap | sextb | sexth | sextw | zextw | lico => exact .next (.alu2 h)
  | div | divu | rem | remu => exact .next (.divide h)
  | addi | andi | ori | xori | muli | shli | shri | sari | rori | seqi | snei | slti | sgei | sltui | sgeui => exact .next (.aluImm h)
  | beq | bne | blt | bge | bltu | bgeu => exact .next (.branch h)
  | bfull | bvoid => exact .next (.branchState h)
  | j => exact .next (.issue (fun _ h1 => .goTo h1) h)
  | jal | jalr => exact .next (.issue (fun _ h1 => .callTo h1) h)
  | loop => exact .execLoop h
  | spawn => exact .execSpawn h
  | join => exact .execJoin h
  | exit => exact .next (.issue (fun _ h1 => .exitRule h1) h)
  | expect | expectm | expectv | expectc => exact .next (.expectReg h)
  | fadd | fsub | fmul | fdiv | fmin | fmax | fsgnj | fsgnjn | fsgnjx | feq | flt | fle => exact .next (.fp3 h)
  | fsqrt | fclass | fcvtSD | fcvtDS | fcvtSL | fcvtSLu | fcvtDL | fcvtDLu | fcvtLS | fcvtLuS | fcvtLD | fcvtLuD | fcvtWS | fcvtWD | fcvtHS
  | fcvtSH | fcvtBS | fcvtSB => exact .next (.fp2 h)
  | fma => exact .next (.issue (fun _ h1 => .fpResult h1) h)
  | ldb | ldbu | ldh | ldhu | ldw | ldwu | ldd => exact .next (.fmLoad h)
  | stb | sth | stw | std => exact .next (.fmStore h)
  | ldbx | ldbux | ldhx | ldhux | ldwx | ldwux | lddx => exact .next (.ixLoad h)
  | stbx | sthx | stwx | stdx => exact .next (.ixStore h)
  | ldwo | lddo => exact .next (.scLoad h)
  | stwo | stdo => exact .next (.scStore h)
  | ldf | ldtk | stf => exact .next (.syncForm h)
  | lres | lresAcq => exact .next (.reserve h)
  | scond | scondRel => exact .next (.condition h)
  | cflush | cwb => exact .next (.cacheOp h)
  | cwball => exact .execCwball h
  | amoadd | amoand | amoor | amoxor | amomin | amomax | amominu | amomaxu | amoswap | amocas => exact .next (.atomic h)
  | famoadd | famomin | famomax => exact .next (.atomicF h)
  | ldv | ldvv | stv | reconValue => exact .next (.issue (fun _ h1 => .checkGlobal (fun _ _ h2 => .verPost h2) h1) h)
  | reconMin | reconMax | reconAdd | reconOr | reconAnd | reconLowest | reconHighest => exact .next (.recon h)
  | redW | redD => exact .next (.reduce h)
  | fence => exact .next (.issue (fun _ h1 => .relFence (fun _ h2 => .acquireFence (fun _ h3 => .advance h3) h2) h1) h)
  | fenceAcq => exact .next (.issue (fun _ h1 => .acquireFence (fun _ h2 => .reportDiv (fun _ h3 => .advance h3) h2) h1) h)
  | fenceRel => exact .next (.issue (fun _ h1 => .relFence (fun _ h2 => .advance h2) h1) h)
  | bara => exact .execBara h
  | barw => exact .next (.issue (fun _ h1 => .waitGen (fun _ _ h2 => .advance h2) h1) h)
  | belladd => exact .execBelladd h
  | bellwait => exact .execBellwait h
  | waitres => exact .next (.issue (fun _ h1 => .ite (.parkOn h1) (.advance h1)) h)
  | waitk => exact .execWaitk h
  | vadd | vsub | vmul | vmulh | vmulhu | vmin | vmax | vminu | vmaxu | vand | vor | vxor | vandn | vshl | vshr | vsar | vaddsat | vsubsat
  | vfadd | vfsub | vfmul | vfmin | vfmax => exact .next (.vec3 h)
  | vabs | vmov | vfabs | vfneg | vcvtfi | vcvtif | vcvtuf | vcvtfu => exact .next (.vec2 h)
  | vadds | vsubs | vmuls | vmulhs | vmulhus | vmins | vmaxs | vminus | vmaxus | vands | vors | vxors | vandns | vshls | vshrs | vsars
  | vaddsats | vsubsats | vfadds | vfsubs | vfmuls | vfmins | vfmaxs | vwing => exact .next (.vec3s h)
  | vfma | vfms | vfnma | vfnms | vmad | vdot4i8 => exact .next (.vec4 h)
  | vfmas | vfmss | vfnmas | vfnmss | vmads | vdot4i8s => exact .next (.vec4s h)
  | vcmp | vcmps => exact .next (.compare h)
  | vld | vgath => exact .next (.vecLoad h)
  | vst | vscat => exact .next (.vecStore h)
  | vlds | vldsx => exact .next (.sliceLoad h)
  | vsts | vstsx => exact .next (.sliceStore h)
  | vredadd | vredmin | vredmax | vredminu | vredmaxu | vredor | vredand | vredfadd | vredfmin | vredfmax => exact .next (.vecReduce h)
  | vbcast | vperm | vrotl | viota | vunpk => exact .next (.vecOp h)
  | kand | kor | kxor | kandn | knot | kmovg => exact .next (.maskOp h)
  | vcbd | vcbdi => exact .next (.decodeBlock h)
  | mand | mor | mxor | mandn | mnot | mmov | mclr | mfill | mbset | mbclr | mputw => exact .next (.setOp h)
  | mbtst | mpopc | mfirst | mnext | mgetw => exact .next (.setGet h)
  | mld => exact .execMld h
  | mst => exact .execMst h
  | stand =>
    exact .next (.issue (fun _ h1 => .ite (.trap h1) (.ite (.trap h1) (.ite (.parkOn h1) (.loggable (fun _ _ h2 => .done (.rollSend h2)) h1)))) h)
  | leave => exact .execLeave h
  | split => exact .execSplit h
  | qld | qldd => exact .next (.queryLoad h)
  | qst | qstd => exact .next (.queryStore h)
  | qeval => exact .execQeval h
  | cpy => exact .execCpy h
  | cpyg => exact .execCpyg h
  | mcpost => exact .execMcpost h
  | ttset =>
    exact .next (.issue (fun _ h1 => .ite (.trap h1) (.checkAddr (fun _ _ h2 => .memIssue (fun _ h3 => .advance (.after (.touch (.upd h3)))) h2) h1)) h)
  | tqadd => exact .execTqadd h
  | accsv | accsvk | accld => exact .next (.accMove h)
  | send => exact .execSend h
  | amret => exact .next (.issue (fun _ h1 => .endWaitFor (fun _ h2 => .retire h2) h1) h)
  | rfill | rfillm | rfillv | rfillc => exact .next (.rfillOf h)
  | lturn => exact .execLturn h
  | wrs => exact .execWrs h
  | logmark => exact .execLogmark h
  | rtt => exact .next (.issue (fun _ h1 => .ite (.priv h1) (.checkTarget (fun _ h2 => .upd h2) h1)) h)
  | icinv => exact .next (.issue (fun _ h1 => .ite (.parkOn h1) (.advance (.updCore h1))) h)
  | plbinv => exact .next (.issue (fun _ h1 => .advance (.updCore h1)) h)
  | halt => exact .next (.issue (fun _ h1 => .ite (.advance (.dropSI (.upd h1))) (.parkOn h1)) h)
  | evsig => exact .execEvsig h

/-- A step keeps the form: a step of the hardware is an arm, an issue is an arm and what the attempt leaves at its core. -/
theorem Keeps.step (h : s.Inv) : Keeps (step s) := by
  have hp : s.plan.Inv := State.Inv.plan h
  unfold Machine.step
  split
  · next e =>
    rw [e] at hp
    exact .exec hp _
  · next e =>
    rw [e] at hp
    split
    · next e1 => exact .next (.settle (Keeps.exec hp _ _ e1))
    · next hn => exact fun t e1 => absurd e1 (hn t)
  · next e =>
    rw [e] at hp
    exact .next hp
end

end Sys2Proof.Machine
end

section
open Sys2Proof Sys2Proof.Machine

/-- Settles O58: what comes next has the form (`State.Inv.plan`), and each arm of the dispatch keeps it (`Keeps.exec`). -/
theorem stepKeepsMemory : Obligations.StepKeepsMemory := by
  unfold Obligations.StepKeepsMemory
  exact fun s t h e => Keeps.step h t e

end

section
/-!
O53: what the checks at issue do, in their order (R74 steps 3 to 7), and what a trap of a thread at U leaves (R321).
-/

namespace Sys2Proof.Machine

/-! ## Traps -/

/-- What a thread at U with a handler takes with it into a trap (R321). -/
def State.trapped (s : State) (cause : Nat) (info : Word) (len : Nat) : Thread :=
  Thread.enter { s.me.issued s.now with resv := none } cause info len (s.ctx s.me.ctx).tvec

/-- A trap of a thread at U with a handler changes the thread twice, and nothing else (R321). -/
theorem State.trap_eq (s : State) (h : s.HasHandler) (cause : Nat) (info : Word) (len : Nat) :
    s.trap cause info len = (s.upd (fun x => { x.issued s.now with resv := none })).upd (fun _ => s.trapped cause info len) := by
  obtain ⟨hl, hv⟩ := h
  have hl' : (s.thread s.cur).level = .U := hl
  have hv' : ¬ (s.ctx (s.thread s.cur).ctx).tvec = 0 := hv
  simp only [State.trap, State.takeTrap, hl', hv', if_false]
  simp only [State.updThread, State.upd, State.setThread_cur, State.thread_setThread, if_true]
  rfl

/-- The trap of a thread at U with a handler is the one of R321. -/
theorem trapped_trap (s : State) (h : s.HasHandler) (cause : Nat) (info : Word) (len : Nat) :
    Trapped s (s.trap cause info len) cause info len := by
  have hme : (s.trap cause info len).me = s.trapped cause info len := by rw [s.trap_eq h, State.me_upd]
  constructor
  case loopKept => rw [hme]; simp only [State.trapped, Thread.enter, Thread.issued]; cases s.me.loopU <;> simp
  case others => intro u hu; rw [s.trap_eq h]; simp [hu]
  case bytes => intro a; rw [s.trap_eq h]; rfl
  case regs => intro r; rw [hme]; exact ⟨rfl, rfl⟩
  case masks => intro i; rw [hme]; rfl
  all_goals rw [hme]; rfl

/-! ## The checks in their order -/

section
variable (x : Issue) (k : State → State) (s : State)

theorem issue_illegal_trapped (hl : x.legal = false) (h : s.HasHandler) : Trapped s (issue x k s) cILLEGAL s.insnWord x.len := by
  rw [issue_illegal x k s hl]
  exact trapped_trap s h _ _ _

theorem issue_priv_trapped (hl : x.legal = true) (hm : s.me.level.reaches x.min = false) (h : s.HasHandler) :
    Trapped s (issue x k s) cPRIV s.insnWord x.len := by
  rw [issue_priv x k s hl hm]
  exact trapped_trap s h _ _ _

/-- The first source without a value decides (R74 step 5). -/
theorem issue_void (hl : x.legal = true) (hm : s.me.level.reaches x.min = true) {r : RegRef}
    (hr : x.srcs.find? (fun r => (s.me.stOf r).empty) = some r) : issue x k s = s.voidTrap r x.len := by
  simp [issue, hl, hm, hr]

/-- A source that awaits a fill parks the thread (R74 step 6). -/
theorem issue_pending_src (hl : x.legal = true) (hm : s.me.level.reaches x.min = true) (he : ∀ r ∈ x.srcs, (s.me.stOf r).empty = false)
    {r : RegRef} (hr : x.srcs.find? (fun r => (s.me.stOf r).waits) = some r) : issue x k s = s.parkOn (.reg r) := by
  have h1 : x.srcs.find? (fun r => (s.me.stOf r).empty) = none := by simpa using he
  simp [issue, hl, hm, h1, hr]

/-- So does a destination, once the sources are there (R74 step 7). -/
theorem issue_pending_dst (hl : x.legal = true) (hm : s.me.level.reaches x.min = true) (he : ∀ r ∈ x.srcs, (s.me.stOf r).empty = false)
    (hw : ∀ r ∈ x.srcs, (s.me.stOf r).waits = false) {r : RegRef} (hr : x.dsts.find? (fun r => (s.me.stOf r).waits) = some r) :
    issue x k s = s.parkOn (.reg r) := by
  have h1 : x.srcs.find? (fun r => (s.me.stOf r).empty) = none := by simpa using he
  have h2 : x.srcs.find? (fun r => (s.me.stOf r).waits) = none := by simpa using hw
  simp [issue, hl, hm, h1, h2, hr]

end

/-- What a register without a value raises, by its mark (R22, R125, R325). -/
theorem voidTrap_trapped (s : State) (h : s.HasHandler) (r : RegRef) (len : Nat) :
    (s.me.stOf r = .void → Trapped s (s.voidTrap r len) cREG_VOID r.info len) ∧
    (s.me.stOf r = .errorMark → Trapped s (s.voidTrap r len) cBUS_ERROR (BitVec.ofNat 64 (s.me.valOf r)) len) ∧
    (s.me.stOf r = .refusalMark → Trapped s (s.voidTrap r len) cATOM_SCOPE (BitVec.ofNat 64 (s.me.valOf r)) len) ∧
    (s.me.stOf r = .divergeMark → Trapped s (s.voidTrap r len) cREPLAY_DIV (BitVec.ofNat 64 (s.me.valOf r)) len) := by
  refine ⟨fun e => ?_, fun e => ?_, fun e => ?_, fun e => ?_⟩
  all_goals simp only [State.voidTrap, e]; exact trapped_trap s h _ _ _

/-- Parking changes the issuing thread's reason alone (R22). -/
theorem parkOn_frame (s : State) (p : Park) : (s.parkOn p).me = { s.me with park := some p } ∧ (∀ u, u ≠ s.cur → (s.parkOn p).thread u = s.thread u) ∧
    s.parkOn p = { s with threads := (s.parkOn p).threads } :=
  ⟨State.me_upd s _, fun u hu => by simp [State.parkOn, hu], rfl⟩

end Sys2Proof.Machine
end

section
open Sys2Proof Sys2Proof.Machine

/-- Settles O53: each clause is the check of `issue` at its place. -/
theorem operandStates : Obligations.OperandStates := by
  unfold Obligations.OperandStates
  refine ⟨fun x k s => ⟨issue_illegal_trapped x k s, issue_priv_trapped x k s, fun hl hm => ⟨fun r hr h => ?_, fun he => ⟨fun r hr => ?_, fun hw => ⟨fun r hr => ?_, ?_⟩⟩⟩⟩,
    parkOn_frame, fun b a d s => ⟨fun ha h => ⟨_, rfl, ?_⟩, fun ha hb => ⟨_, rfl, ?_⟩⟩⟩
  · rw [issue_void x k s hl hm hr]
    exact voidTrap_trapped s h r x.len
  · exact issue_pending_src x k s hl hm he hr
  · exact issue_pending_dst x k s hl hm he hw hr
  · exact issue_ready x k s hl hm
  · have hr : [gRef a.toNat, gRef b.toNat].find? (fun r => (s.me.stOf r).empty) = some (gRef a.toNat) := by
      simp [ha, RegState.empty]
    rw [alu3, issue_void _ _ s rfl (by simp) hr]
    simpa [RegRef.info, gRef] using (voidTrap_trapped s h (gRef a.toNat) 4).1 ha
  · have hr : [gRef a.toNat, gRef b.toNat].find? (fun r => (s.me.stOf r).waits) = some (gRef a.toNat) := by
      simp [ha, RegState.waits]
    have he : ∀ r ∈ [gRef a.toNat, gRef b.toNat], (s.me.stOf r).empty = false := by
      simp only [List.forall_mem_cons, ha, hb, List.not_mem_nil, false_implies, implies_true, and_true]
      rfl
    rw [alu3, issue_pending_src _ _ s rfl (by simp) he hr]
    exact (parkOn_frame s _).1

end

section
/-!
Tables that list only what exists (`tfind`): what they read as once an entry is set, changed or erased, and what an unlisted entry of a table with
a default says.
-/

namespace Sys2Proof.Machine

variable {α : Type}

theorem tfind_tins_ne (t : Tbl α) {k j : Nat} (v : α) (h : j ≠ k) : tfind (tins t k v) j = tfind t j := by
  induction t with
  | nil => simp [tins, tfind, Ne.symm h]
  | cons e r ih =>
    unfold tins
    split
    · simp [tfind, Ne.symm h]
    · simp [tfind, ih]

theorem tfind_tins_self (t : Tbl α) (k : Nat) (v : α) (h : ∀ e ∈ t, e.1 ≠ k) : tfind (tins t k v) k = some v := by
  induction t with
  | nil => simp [tins, tfind]
  | cons e r ih =>
    have he : e.1 ≠ k := h e (by simp)
    unfold tins
    split
    · simp [tfind]
    · simpa [tfind, he] using ih (fun e he => h e (by simp [he]))

theorem terase_keys (t : Tbl α) (k : Nat) : ∀ e ∈ terase t k, e.1 ≠ k := by
  intro e he
  simpa [terase] using (List.mem_filter.1 he).2

theorem tfind_terase_ne (t : Tbl α) {k j : Nat} (h : j ≠ k) : tfind (terase t k) j = tfind t j := by
  induction t with
  | nil => rfl
  | cons e r ih =>
    by_cases he : e.1 = k
    · have : e.1 ≠ j := fun x => h (x ▸ he)
      simpa [terase, he, tfind, this, Ne.symm h] using ih
    · simp [terase, he] at ih ⊢
      simp [tfind, ih]

theorem tfind_of_keys (t : Tbl α) (k : Nat) (h : ∀ e ∈ t, e.1 ≠ k) : tfind t k = none := by
  induction t with
  | nil => rfl
  | cons e r ih =>
    have he : e.1 ≠ k := h e (by simp)
    simpa [tfind, he] using ih (fun e he => h e (by simp [he]))

@[simp] theorem tfind_terase_self (t : Tbl α) (k : Nat) : tfind (terase t k) k = none := tfind_of_keys _ _ (terase_keys t k)

/-- An entry set is read back, and leaves the others. -/
theorem tfind_tset (t : Tbl α) (k j : Nat) (v : α) : tfind (tset t k v) j = if j = k then some v else tfind t j := by
  by_cases h : j = k
  · subst h; simp [tset, tfind_tins_self _ _ _ (terase_keys t j)]
  · simp [tset, h, tfind_tins_ne _ _ h, tfind_terase_ne _ h]

@[simp] theorem tfind_tset_self (t : Tbl α) (k : Nat) (v : α) : tfind (tset t k v) k = some v := by simp [tfind_tset]

/-- An entry changed where it exists. -/
theorem tfind_tmod (t : Tbl α) (k j : Nat) (f : α → α) : tfind (tmod t k f) j = if j = k then (tfind t k).map f else tfind t j := by
  unfold tmod
  cases h : tfind t k with
  | some v => simp [tfind_tset]
  | none => by_cases e : j = k <;> simp [e, h]

/-- What a table reads as is its default or one of its entries. -/
theorem tget_mem (d : α) (t : Tbl α) (k : Nat) : tget d t k = d ∨ (k, tget d t k) ∈ t := by
  induction t with
  | nil => exact .inl rfl
  | cons e r ih =>
    by_cases h : e.1 = k
    · subst h; right; simp [tget]
    · simp only [tget, h, if_false]
      exact ih.imp id (List.mem_cons_of_mem _)

/-- An entry of a written table is the one written, or was there. -/
theorem mem_tput [DecidableEq α] {d v : α} {t : Tbl α} {k : Nat} {e : Nat × α} (h : e ∈ tput d t k v) : e = (k, v) ∨ e ∈ t := by
  unfold tput at h
  split at h
  · exact .inr (List.mem_of_mem_filter h)
  · exact ((mem_tins _ k v e).1 h).imp id List.mem_of_mem_filter

end Sys2Proof.Machine
end

section
/-!
O54: what comes next (`State.plan`) as a step runs it, and what an attempt to issue leaves at its core.
-/

namespace Sys2Proof.Machine

/-! ## One step by what comes next -/

section
variable {s : State}

theorem step_hardware {i : Instr} {u : State} (h : s.plan = .hardware i u) : step s = exec i u := by
  simp only [step, h]

theorem step_issue {t : Nat} {i : Instr} {u v : State} (h : s.plan = .issue t i u) (e : exec i u = .next v) :
    step s = .next (v.settle t u.me.epoch (u.sentBy v) (some u.iword)) := by
  simp only [step, h, e]

theorem step_settled {u : State} (h : s.plan = .settled u) : step s = .next u := by
  simp only [step, h]

/-! ## What comes next -/

theorem plan_agenda {i : Instr} {rest : List Instr} (h : s.agenda = i :: rest) : s.plan = .hardware i { s with agenda := rest } := by
  simp only [State.plan, h]

theorem plan_due {i : Instr} {rest : Tbl Instr} (ha : s.agenda = []) (h : s.nextDue = some (i, rest)) :
    s.plan = .hardware i { s with pend := rest } := by
  simp only [State.plan, ha, h]

theorem plan_thread {t : Nat} (ha : s.agenda = []) (hd : s.nextDue = none) (h : s.liveCores.findSome? s.turnsOf = some (.thread t)) :
    s.plan = s.comeTo t := by
  simp only [State.plan, ha, hd, h]

theorem plan_lend {c : Nat} (ha : s.agenda = []) (hd : s.nextDue = none) (h : s.liveCores.findSome? s.turnsOf = some (.lend c)) :
    s.plan = .hardware (.lentCycle c) s := by
  simp only [State.plan, ha, hd, h]

theorem plan_steal {i : Instr} {rest : Tbl Instr} (ha : s.agenda = []) (hd : s.nextDue = none) (h : s.liveCores.findSome? s.turnsOf = none)
    (e : s.dueOf 2 s.pend = some (i, rest)) : s.plan = .hardware i { s with pend := rest } := by
  simp only [State.plan, ha, hd, h, e]

theorem plan_nextCycle (ha : s.agenda = []) (hd : s.nextDue = none) (h : s.liveCores.findSome? s.turnsOf = none)
    (e : s.dueOf 2 s.pend = none) : s.plan = .settled s.nextCycle := by
  simp only [State.plan, ha, hd, h, e]

/-! ## A thread that comes to issue -/

/-- It issues what it has fetched (R50). -/
theorem comeTo_fetched {t w len : Nat} {f : State} (hs : (s.thread t).startFault = none) (hw : (s.thread t).word = none)
    (hf : State.fetch { s with cur := t } = (.code w len, f)) (hd : f.debugMatch = none) :
    s.comeTo t = .issue t (instrOf w len) { f with iword := BitVec.ofNat 32 w } := by
  have hs' : State.me { s with cur := t } = s.thread t := rfl
  simp only [State.comeTo, hs', hs, hw, hf, hd]

/-- One that had parked at its instruction issues the word that it fetched then (R74). -/
theorem comeTo_parked {t : Nat} {w : BitVec 32} (hs : (s.thread t).startFault = none) (hw : (s.thread t).word = some w) :
    s.comeTo t = .issue t (instrOf w.toNat (wordLen w.toNat)) { s with cur := t, iword := w } := by
  have hs' : State.me { s with cur := t } = s.thread t := rfl
  simp only [State.comeTo, hs', hs, hw]

theorem comeTo_code {t w len : Nat} {f : State} (hs : (s.thread t).startFault = none)
    (h : ((s.thread t).word = none ∧ State.fetch { s with cur := t } = (.code w len, f) ∧ f.debugMatch = none) ∨
      ((s.thread t).word = some (BitVec.ofNat 32 w) ∧ w < 2 ^ 32 ∧ len = (if w % 2 = 0 then 2 else 4) ∧ f = { s with cur := t })) :
    s.comeTo t = .issue t (instrOf w len) { f with iword := BitVec.ofNat 32 w } := by
  rcases h with ⟨hw, hf, hd⟩ | ⟨hw, hlt, rfl, rfl⟩
  · exact comeTo_fetched hs hw hf hd
  · have hn : (BitVec.ofNat 32 w).toNat = w := BitVec.toNat_ofNat .. ▸ Nat.mod_eq_of_lt hlt
    rw [comeTo_parked hs hw, hn]
    simp [wordLen, isShort]

/-! ## What an attempt to issue leaves at its core -/

@[simp] theorem State.stampPost_thread (s : State) (t e u : Nat) : (s.stampPost t e).thread u = s.thread u := by
  unfold State.stampPost; split <;> rfl
@[simp] theorem State.stampPost_core (s : State) (t e c : Nat) : (s.stampPost t e).core c = s.core c := by
  unfold State.stampPost; split <;> rfl

@[simp] theorem State.restCore_thread (s : State) (c u : Nat) : (s.restCore c).thread u = s.thread u := by
  unfold State.restCore; split <;> simp

/-- A core at rest counts the cycles from now; nothing else of it changes (R388). -/
theorem State.restCore_core (s : State) (c d : Nat) : (s.restCore c).core d = { s.core d with quiet := ((s.restCore c).core d).quiet } := by
  have key : ∀ (u : State) (n : Nat) (i : Instr), (u.afterOnce n i).core d = u.core d := fun u n i => by simp [State.core]
  unfold State.restCore
  split
  · rfl
  · rw [key, State.core_updCore]
    split
    · next h => subst h; rfl
    · rfl

@[simp] theorem State.restCore_issuedAt (s : State) (c d : Nat) : ((s.restCore c).core d).issuedAt = (s.core d).issuedAt := by
  rw [State.restCore_core]

/-- A thread that issued used its core's cycle, and no thread changes. -/
theorem settle_issued (s : State) (t epoch : Nat) (sent : Bool) (word : Option (BitVec 32)) (h : (s.thread t).park.isNone = true) :
    ((s.settle t epoch sent word).core (coreOf t)).issuedAt = some s.now ∧ ∀ x, (s.settle t epoch sent word).thread x = s.thread x := by
  simp [State.settle, h]

/-- One that parked keeps the word it fetched, and used the cycle if it has sent something. -/
theorem settle_parked (s : State) (t epoch : Nat) (sent : Bool) (word : Option (BitVec 32)) (h : (s.thread t).park.isNone = false) :
    let u := s.settle t epoch sent word
    (u.thread t).word = (if (s.thread t).epoch = epoch then word else none) ∧ (u.thread t).park = (s.thread t).park ∧
      (sent = true → ((s.thread t).epoch = epoch → (u.thread t).lastIssue = some s.now) ∧ (u.core (coreOf t)).issuedAt = some s.now) := by
  have core : ∀ v : State, ((if (List.range 16).any (fun i => v.ready (coreOf t * 16 + i)) then v else v.restCore (coreOf t)).core (coreOf t)).issuedAt =
      (v.core (coreOf t)).issuedAt := fun v => by split <;> simp
  have thread : ∀ v : State, (if (List.range 16).any (fun i => v.ready (coreOf t * 16 + i)) then v else v.restCore (coreOf t)).thread t = v.thread t :=
    fun v => by split <;> simp
  simp only [State.settle, h, Bool.false_eq_true, if_false, core, thread]
  cases sent <;> by_cases he : (s.thread t).epoch = epoch <;> simp [he]
  split
  · split <;> simp
  · simp

end

end Sys2Proof.Machine
end

section
/-!
O54: the code that a thread fetches (R48 to R50). A fetch writes no memory: it changes the PLB's notes and the fetched halfwords of its core
alone, so what a second halfword meets is what the first one met.
-/

namespace Sys2Proof.Machine

/-! ## States that translate and route alike -/

/-- Two states of one memory, with the same tables, slices, partitions, membership bitmaps and links. -/
structure SameMap (s t : State) : Prop where
  mem : t.mem = s.mem
  root : t.root = s.root
  windows : t.windows = s.windows
  slices : t.slices = s.slices
  parts : t.parts = s.parts
  tenants : t.tenants = s.tenants
  links : t.links = s.links

section
variable {s t : State}

theorem SameMap.byte (h : SameMap s t) (k : Nat) : t.byte k = s.byte k := by simp only [State.byte, h.mem]

theorem SameMap.getN (h : SameMap s t) (k n : Nat) : t.getN k n = s.getN k n := by
  induction n generalizing k with
  | zero => rfl
  | succ n ih => simp only [State.getN, h.byte, ih]

theorem SameMap.entry (h : SameMap s t) : walkFrom.entry t = walkFrom.entry s := by
  funext e i
  exact h.getN _ _

theorem SameMap.walkFrom (h : SameMap s t) (n e level : Nat) (c64 : Bool) (va : Nat) :
    walkFrom t n e level c64 va = walkFrom s n e level c64 va := by
  induction n generalizing e level c64 with
  | zero => rfl
  | succ n ih => rw [Machine.walkFrom, Machine.walkFrom, h.entry]; simp only [ih]

theorem SameMap.windowEntry (h : SameMap s t) : t.windowEntry = s.windowEntry := by
  funext pa
  simp only [State.windowEntry, h.windows]

theorem SameMap.walkMem (h : SameMap s t) (va : Nat) : t.walkMem va = s.walkMem va := by
  unfold State.walkMem
  rw [h.walkFrom, h.root, h.windowEntry]

theorem SameMap.walk (h : SameMap s t) (va : Nat) : t.walk va = s.walk va := by
  unfold State.walk State.heldWalk
  rw [h.slices, h.walkMem]

theorem SameMap.hostKind (h : SameMap s t) (pg : Page) : t.hostKind pg = s.hostKind pg := by
  unfold State.hostKind
  rw [h.windowEntry]

theorem SameMap.destOf (h : SameMap s t) (c : Nat) (p : Place) : t.destOf c p = s.destOf c p := by
  cases p with
  | global va => simp only [State.destOf, h.walk, h.hostKind, h.windowEntry]
  | core | die => rfl

theorem SameMap.tenantOk (h : SameMap s t) : t.tenantOk = s.tenantOk := by
  funext u p
  simp only [State.tenantOk, h.tenants]

theorem SameMap.linkAlive (h : SameMap s t) : t.linkAlive = s.linkAlive := by
  funext l
  unfold State.linkAlive
  rw [h.links]

theorem SameMap.blocked (h : SameMap s t) (p : Part) (part n r dst : Nat) (pass : Bool) (inside : Nat → Bool) :
    t.blocked p part n r dst pass inside = s.blocked p part n r dst pass inside := by
  induction n generalizing r pass with
  | zero => rfl
  | succ n ih => rw [State.blocked, State.blocked, h.tenantOk, h.linkAlive]; simp only [ih]

theorem SameMap.routeFault (h : SameMap s t) (part c : Nat) (place : Place) (back : Bool) :
    t.routeFault part c place back = s.routeFault part c place back := by
  simp only [State.routeFault, h.destOf, h.parts, h.blocked]

end

/-! ## Fetching leaves all but two notes of the core -/

/-- A core as it was, but for its PLB's notes of use and the halfwords it holds, of which none is lost. -/
def Core.Fetches (a b : Core) : Prop :=
  b = { a with plb := b.plb, fetched := b.fetched } ∧ (∀ r, b.plbFind r = a.plbFind r) ∧
    ∀ k, (tfind a.fetched k).isSome = true → (tfind b.fetched k).isSome = true

/-- A state in which only cores have changed, each so. -/
structure Fetching (s t : State) : Prop where
  state : t = { s with cores := t.cores }
  core : ∀ c, (s.core c).Fetches (t.core c)
  lines : (∀ e ∈ s.cores, e.2.lines = []) → ∀ e ∈ t.cores, e.2.lines = []

theorem Core.Fetches.refl (a : Core) : a.Fetches a := ⟨rfl, fun _ => rfl, fun _ h => h⟩

theorem Core.Fetches.trans {a b c : Core} (h1 : a.Fetches b) (h2 : b.Fetches c) : a.Fetches c := by
  obtain ⟨e1, p1, f1⟩ := h1
  obtain ⟨e2, p2, f2⟩ := h2
  refine ⟨?_, fun r => (p2 r).trans (p1 r), fun k h => f2 k (f1 k h)⟩
  rw [e2]; conv => lhs; rw [e1]

section
variable {s t u : State}

theorem Fetching.refl (s : State) : Fetching s s := ⟨rfl, fun _ => .refl _, id⟩

theorem Fetching.trans (h1 : Fetching s t) (h2 : Fetching t u) : Fetching s u := by
  refine ⟨?_, fun c => (h1.core c).trans (h2.core c), fun h => h2.lines (h1.lines h)⟩
  rw [h2.state]; conv => lhs; rw [h1.state]

/-- A core's notes changed. -/
theorem Fetching.updCore (c : Nat) (f : Core → Core) (hf : (s.core c).Fetches (f (s.core c))) : Fetching s (s.updCore c f) := by
  refine ⟨rfl, fun d => ?_, fun hl e he => ?_⟩
  · rw [State.core_updCore]
    split
    · next h => subst h; exact hf
    · exact .refl _
  · rcases mem_tput he with rfl | he
    · have h0 : (s.core c).lines = [] := by
        rcases tget_mem {} s.cores c with h | h
        · show (tget {} s.cores c).lines = []; rw [h]
        · exact hl _ h
      show (f (s.core c)).lines = []
      rw [hf.1]; exact h0
    · exact hl e he

theorem Fetching.sameMap (h : Fetching s t) : SameMap s t := by
  have e := h.state
  constructor <;> rw [e]

theorem Fetching.now (h : Fetching s t) : t.now = s.now := by rw [h.state]
theorem Fetching.cur (h : Fetching s t) : t.cur = s.cur := by rw [h.state]
theorem Fetching.me (h : Fetching s t) : t.me = s.me := by rw [h.state]; rfl
theorem Fetching.thread (h : Fetching s t) (x : Nat) : t.thread x = s.thread x := by rw [h.state]; rfl
theorem Fetching.slice (h : Fetching s t) (x : Nat) : t.slice x = s.slice x := by rw [h.state]; rfl
theorem Fetching.die (h : Fetching s t) (x : Nat) : t.die x = s.die x := by rw [h.state]; rfl

theorem Fetching.unchanged (h : Fetching s t) (hs : s.Unchanged) : t.Unchanged := by
  obtain ⟨he, hw, hl⟩ := hs
  exact ⟨by rw [h.state]; exact he, by rw [h.state]; exact hw, h.lines hl⟩

theorem Fetching.invalidating (h : Fetching s t) (va : Nat) : t.invalidating va = s.invalidating va := by rw [h.state]; rfl
theorem Fetching.isParked (h : Fetching s t) (x va : Nat) : t.isParked x va = s.isParked x va := by rw [h.state]; rfl
theorem Fetching.walkCached (h : Fetching s t) (x va ctx : Nat) : t.walkCached x va ctx = s.walkCached x va ctx := by rw [h.state]; rfl
theorem Fetching.plainPage (h : Fetching s t) {pg : Page} {va : Nat} (hp : s.PlainPage pg va) : t.PlainPage pg va := by
  rw [h.state]; exact hp

/-- What a halfword of code needs stays there while others are fetched. -/
theorem Fetching.halfAt (h : Fetching s t) {va key : Nat} (hs : s.HalfAt va key) : t.HalfAt va key := by
  obtain ⟨hg, ⟨r, hr, hx⟩, hi, hroute, pg, levels, hw, hpl, hpk, hcached, hkey⟩ := hs
  obtain ⟨-, hplb, hfetched⟩ := h.core (coreOf s.cur)
  unfold State.HalfAt
  dsimp only
  rw [h.cur, h.invalidating, h.me]
  refine ⟨hg, ⟨r, (hplb _).trans hr, hx⟩, hi, ?_, pg, levels, (h.sameMap.walk va).trans hw, h.plainPage hpl, (h.isParked _ _).trans hpk, ?_, hkey⟩
  · exact hroute.imp (hfetched _) (fun hb back => (h.sameMap.routeFault _ _ _ _).trans (hb back))
  · exact hcached.imp (hfetched _) ((h.walkCached _ _ _).trans ·)

end

/-! ## The bytes of a halfword -/

theorem foldl_id {α β : Type} (l : List β) (f : α → β → α) (a : α) (h : ∀ b ∈ l, f a b = a) : l.foldl f a = a := by
  induction l with
  | nil => rfl
  | cons b l ih => rw [List.foldl_cons, h b (by simp)]; exact ih (fun x hx => h x (by simp [hx]))

/-- Where no copy of a line stands in a data cache, there is none to recall (R39). -/
theorem State.recall_none (s : State) (hl : ∀ e ∈ s.cores, e.2.lines = []) (key : Nat) (write : Bool) (own : Option Nat) :
    s.recall key write own = s := by
  have hh : s.holders (key / 128 * 128) = [] := by
    simp only [State.holders, List.map_eq_nil_iff, List.filter_eq_nil_iff]
    intro e he; simp [hl e he]
  simp only [State.recall, hh, List.foldl_nil]

/-- Without an ECC error a read is a read (R414). -/
theorem State.eccRead_none (s : State) (he : s.ecc = []) (key len detail : Nat) : s.eccRead key len detail = s := by
  simp only [State.eccRead, he, List.filter_nil, List.foldl_nil]

/-- A read at the home of a plain page, with nothing to recall and no error to correct, gives the bytes there and changes nothing. -/
theorem State.pageRead_plain (s : State) (hs : s.Unchanged) {pg : Page} (hp : pg.accum = false) (va n : Nat) :
    s.pageRead pg va n = (s.peek pg.key n, s) := by
  obtain ⟨he, -, hl⟩ := hs
  have hf : ∀ l : List Nat, l.foldl (fun s i => s.recall ((pg.key / 128 + i) * 128) false none) s = s := fun l =>
    foldl_id l _ s (fun i _ => s.recall_none hl _ _ _)
  simp only [State.pageRead, State.combineRange, hp, Bool.false_eq_true, if_false, State.homeRead, hf, s.eccRead_none he]

/-- A page whose die neither counts accesses nor samples them notes none (R366, R370). -/
theorem State.servedFor_plain (s : State) {pg : Page} {va levels : Nat} (hw : s.walk va = .ok (pg, levels)) (hp : s.PlainPage pg va)
    (core slot part typ : Nat) : s.servedFor core slot part va typ = s := by
  obtain ⟨-, -, -, -, -, hm, hh⟩ := hp
  have hbit : ∀ x : Word, x.getLsbD 8 = false → bit x.toNat 8 = false := fun x h => by
    simpa [bit, BitVec.getLsbD, Nat.testBit, Nat.shiftRight_eq_div_pow, Nat.and_comm] using h
  have hc : ∀ d, s.countPage (homeOf pg va) va pg d = s := fun d => by simp [State.countPage, hbit _ hm]
  simp only [State.servedFor, hw, hc]
  split
  · rfl
  · split
    · rfl
    · simp [State.sample, hbit _ hh]

/-! ## The fetch -/

/-- The halfword of two bytes (R4). -/
theorem bytesToNat_pair (a b : Byte) : bytesToNat [a, b] = a.toNat + 256 * b.toNat := rfl

/-- The number of a halfword in storage. -/
def State.halfword (s : State) (key : Nat) : Nat := (s.byte key).toNat + 256 * (s.byte (key + 1)).toNat

theorem State.halfword_lt (s : State) (key : Nat) : s.halfword key < 2 ^ 16 := by
  have h0 := (s.byte key).isLt
  have h1 := (s.byte (key + 1)).isLt
  unfold State.halfword
  omega

/-- A halfword that a core has fetched is among those it holds. -/
theorem Core.fetches_keep (x : Core) (k : Nat) (v : BitVec 16) : x.Fetches { x with fetched := tset x.fetched k v } := by
  refine ⟨rfl, fun _ => rfl, fun j hj => ?_⟩
  show (tfind (tset x.fetched k v) j).isSome = true
  rw [tfind_tset]
  split
  · rfl
  · exact hj

/-- Noting the use of a PLB entry is one of the notes. -/
theorem Core.fetches_touch (x : Core) (region now : Nat) : x.Fetches (x.plbTouch region now) :=
  ⟨rfl, fun r => x.plbFind_touch region now r, fun _ h => h⟩

/-- One halfword at its home, where all is plain (R48, R51). -/
theorem State.fetchHome_plain (s : State) (hs : s.Unchanged) {pg : Page} {va levels : Nat} (hw : s.walk va = .ok (pg, levels))
    (hp : s.PlainPage pg va) (len : Nat) (held : Bool) :
    ∃ t, s.fetchHome pg va len held = (.code (s.halfword pg.key) len, t) ∧ Fetching s t := by
  obtain ⟨hplace, -, hacc, hnote, hdead, -, -⟩ := id hp
  obtain ⟨he, hwas, hl⟩ := id hs
  have hbad : s.hostBad pg va = false := by simp [State.hostBad, hdead, hplace, hnote]
  have hecc : s.eccBad pg.key 2 = false := by simp [State.eccBad, he]
  have hold : s.oldCode (coreOf s.cur) pg.key = [] := by simp [State.oldCode, hwas]
  have hpeek : s.peek pg.key 2 = [s.byte pg.key, s.byte (pg.key + 1)] := rfl
  have hnum : (BitVec.ofNat 16 (bytesToNat (s.peek pg.key 2))).toNat = s.halfword pg.key := by
    rw [hpeek, bytesToNat_pair, BitVec.toNat_ofNat]
    exact Nat.mod_eq_of_lt (s.halfword_lt pg.key)
  have hserved : (if held = true then s else s.servedFor (coreOf s.cur) (slotOf s.cur) s.me.part va 5) = s := by
    rw [s.servedFor_plain hw hp]; exact ite_self _
  simp only [State.fetchHome, hbad, hecc, Bool.false_eq_true, if_false, s.pageRead_plain hs hacc, hserved, hold, hnum]
  split
  · exact ⟨s, rfl, .refl s⟩
  · exact ⟨_, rfl, .updCore _ _ (Core.fetches_keep _ _ _)⟩

/-- A halfword of code is read where it lies (R48, R49). -/
theorem State.fetchHalf_code (s : State) (hs : s.Unchanged) {va key : Nat} (h : s.HalfAt va key) (len : Nat) :
    ∃ t, s.fetchHalf va len = (.code (s.halfword key) len, t) ∧ Fetching s t := by
  obtain ⟨hg, ⟨r, hr, hx⟩, -⟩ := id h
  have hf : Fetching s (s.updCore (coreOf s.cur) (fun y => y.plbTouch (regionOf va) s.now)) := .updCore _ _ (Core.fetches_touch _ _ _)
  generalize hu : s.updCore (coreOf s.cur) (fun y => y.plbTouch (regionOf va) s.now) = u at hf
  obtain ⟨-, -, hi, hroute, pg, levels, hw, hp, hpk, hcached, rfl⟩ := hf.halfAt h
  rw [hf.cur] at hroute hcached
  have hmiss : u.missAt (dieOf (coreOf s.cur)) va = none := by simp [State.missAt, hw, hpk]
  have hway : ∀ back, (if (tfind (u.core (coreOf s.cur)).fetched (va / 2)).isSome = true then none
      else u.routeFault u.me.part (coreOf s.cur) (.global va) back) = none := fun back => by
    split
    · rfl
    · next hn => exact (hroute.resolve_left hn) back
  have hwait : (!(tfind (u.core (coreOf s.cur)).fetched (va / 2)).isSome && !u.walkCached (homeOf pg va) va u.me.ctx) = false := by
    rcases hcached with h | h <;> simp [h]
  obtain ⟨t, ht, hft⟩ := u.fetchHome_plain (hf.unchanged hs) hw hp len (tfind (u.core (coreOf s.cur)).fetched (va / 2)).isSome
  refine ⟨t, ?_, hf.trans hft⟩
  have hbytes : u.halfword pg.key = s.halfword pg.key := by unfold State.halfword; rw [hf.sameMap.byte, hf.sameMap.byte]
  simp only [State.fetchHalf, hg, hr, hu, hx, hi, hway, hmiss, hw, hwait, hp.2.1, ht, hbytes, Bool.not_true, Bool.false_eq_true, if_false,
    Bool.false_and]

/-- A halfword read out of a list of bytes (R4). -/
theorem fieldOf_pair (l : List Byte) (i : Nat) (h : i + 1 < l.length) : fieldOf l i 2 = (l.getD i 0).toNat + 256 * (l.getD (i + 1) 0).toNat := by
  have ht : (l.drop i).take 2 = [l.getD i 0, l.getD (i + 1) 0] := by
    rw [List.drop_eq_getElem_cons (Nat.lt_of_succ_lt h), List.drop_eq_getElem_cons h, List.getD_eq_getElem _ _ h,
      List.getD_eq_getElem _ _ (Nat.lt_of_succ_lt h)]
    rfl
  unfold fieldOf
  rw [ht, bytesToNat_pair]

theorem bytesToNat_append (a b : List Byte) : bytesToNat (a ++ b) = bytesToNat a + 256 ^ a.length * bytesToNat b := by
  induction a with
  | nil => simp [bytesToNat]
  | cons x r ih =>
    have hx : ∀ (y : Byte) (l : List Byte), bytesToNat (y :: l) = y.toNat + 256 * bytesToNat l := fun _ _ => rfl
    rw [List.cons_append, hx, ih, hx, List.length_cons, Nat.pow_succ]
    ring

/-- A word of four bytes is its two halfwords, the lower-addressed one first (R4, R48). -/
theorem fieldOf_word (l : List Byte) (i : Nat) (h : i + 4 ≤ l.length) : fieldOf l i 4 = fieldOf l i 2 + 65536 * fieldOf l (i + 2) 2 := by
  have hs : (l.drop i).take 4 = (l.drop i).take 2 ++ (l.drop (i + 2)).take 2 := by
    rw [show (4 : Nat) = 2 + 2 from rfl, List.take_add, List.drop_drop]
  unfold fieldOf
  rw [hs, bytesToNat_append, List.length_take, List.length_drop, Nat.min_eq_left (by omega)]
  rfl

/-- The halfwords of code at an address are those of its bytes. -/
theorem State.codeAt_half {s : State} {va n : Nat} {body : List Byte} (h : s.CodeAt va n body) {j : Nat} (hj : j < n) :
    ∃ key, s.HalfAt (va + 2 * j) key ∧ s.halfword key = fieldOf body (2 * j) 2 := by
  obtain ⟨hlen, hb⟩ := h
  obtain ⟨key, hk, h0, h1⟩ := hb j hj
  refine ⟨key, hk, ?_⟩
  rw [fieldOf_pair body (2 * j) (by omega), h0, h1]
  rfl

/-- An instruction of code in plain pages is fetched whole (R48, R50). -/
theorem State.fetchAt_code (s : State) (hs : s.Unchanged) {pc n : Nat} {body : List Byte} (h : s.CodeAt pc n body)
    (hn : n = if fieldOf body 0 2 % 2 = 0 then 1 else 2) :
    ∃ t, s.fetchAt pc = (.code (fieldOf body 0 (2 * n)) (2 * n), t) ∧ Fetching s t := by
  obtain ⟨key, hk, hh⟩ := s.codeAt_half h (j := 0) (by split at hn <;> omega)
  obtain ⟨t, ht, hft⟩ := s.fetchHalf_code hs hk 2
  replace ht : s.fetchHalf pc 2 = (.code (fieldOf body 0 2) 2, t) := hh ▸ ht
  by_cases hshort : fieldOf body 0 2 % 2 = 0
  · rw [if_pos hshort] at hn
    subst hn
    refine ⟨t, ?_, hft⟩
    simp only [State.fetchAt, ht, isShort, hshort, decide_true, if_true]
  · rw [if_neg hshort] at hn
    subst hn
    obtain ⟨key2, hk2, hh2⟩ := s.codeAt_half h (j := 1) (by omega)
    obtain ⟨u, hu, hfu⟩ := t.fetchHalf_code (hft.unchanged hs) (hft.halfAt hk2) 4
    have hb : t.halfword key2 = fieldOf body 2 2 := by
      unfold State.halfword at hh2 ⊢
      rw [hft.sameMap.byte, hft.sameMap.byte, hh2]
    refine ⟨u, ?_, hft.trans hfu⟩
    have hw := fieldOf_word body 0 (by rw [h.1])
    rw [Nat.mul_one] at hu
    simp only [State.fetchAt, ht, isShort, hshort, decide_false, Bool.false_eq_true, if_false, hu, hb, hw, Nat.zero_add]

/-- The issuing thread's instruction, where it is in no loop. -/
theorem State.fetch_code (s : State) (hl : s.me.inLoop = false) (hs : s.Unchanged) {n : Nat} {body : List Byte}
    (h : s.CodeAt s.me.pc.toNat n body) (hn : n = if fieldOf body 0 2 % 2 = 0 then 1 else 2) :
    ∃ t, s.fetch = (.code (fieldOf body 0 (2 * n)) (2 * n), t) ∧ t.me = s.me ∧ t.now = s.now ∧ Aside s t [] := by
  obtain ⟨t, ht, hf⟩ := s.fetchAt_code hs h hn
  refine ⟨t, ?_, hf.me, hf.now, hf.sameMap.byte, by rw [hf.state], fun u _ => hf.thread u⟩
  simp only [State.fetch, hl, Bool.false_eq_true, if_false, ht]

/-- In a loop it is read from the loop buffer (R90). -/
theorem State.fetch_loop (s : State) {l : LoopState} (h : s.me.loop = some l) (hl : s.me.inLoop = true) :
    let b := if s.me.level = .S then s.me.bufS else s.me.bufU
    let o := (s.me.pc - l.start).toNat
    s.fetch = (if fieldOf b o 2 % 2 = 0 then .code (fieldOf b o 2) 2 else .code (fieldOf b o 4) 4, s) := by
  simp only [State.fetch, hl, if_true, Thread.fromBuffer, h, isShort, decide_eq_true_eq]

end Sys2Proof.Machine
end

section
open Sys2Proof Sys2Proof.Machine

/-- Settles O54: a step is what `State.plan` says comes next, and what it fetches is the code at its address (`State.fetch_code`). -/
theorem stepRunsDecoded : Obligations.StepRunsDecoded := by
  unfold Obligations.StepRunsDecoded
  refine ⟨⟨fun s i rest h => step_hardware (plan_agenda h), fun s i rest ha h => step_hardware (plan_due ha h),
      fun s t w len f ha hd h hs hc => ?_, fun s c ha hd h => step_hardware (plan_lend ha hd h),
      fun s ha hd h => ⟨fun i rest e => step_hardware (plan_steal ha hd h e), fun e => step_settled (plan_nextCycle ha hd h e)⟩,
      fun s t epoch sent word => ⟨settle_issued s t epoch sent word, settle_parked s t epoch sent word⟩⟩,
    fun s n body hl hs h hn => s.fetch_code hl hs h hn, fun s l h hl => s.fetch_loop h hl⟩
  have hplan : s.plan = .issue t (instrOf w len) { f with iword := BitVec.ofNat 32 w } := (plan_thread ha hd h).trans (comeTo_code hs hc)
  refine ⟨fun i u hi hu => ?_, fun u hi hu => ?_⟩
  · rw [show instrOf w len = i by unfold instrOf; rw [hi]] at hplan
    exact step_issue hplan hu
  · rw [show instrOf w len = .illegalEncoding (BitVec.ofNat 32 w) by unfold instrOf; rw [hi]] at hplan
    exact step_issue hplan hu

end

section
/-!
What the shared operations of the core's own steps leave as it was: work placed for later, cores that wake or come to rest, a core that looks for
work, and threads that wake (R18 to R22, R388).
-/

namespace Sys2Proof.Machine

/-! ## Steps that leave memory and threads -/

section
variable {s t u : State} {l k : List Nat}

theorem Aside.refl (s : State) (l : List Nat) : Aside s s l := ⟨fun _ => rfl, rfl, fun _ _ => rfl⟩

theorem Aside.trans (h1 : Aside s t l) (h2 : Aside t u k) (hl : ∀ x ∈ l, x ∈ k) : Aside s u k :=
  ⟨fun a => (h2.1 a).trans (h1.1 a), h2.2.1.trans h1.2.1, fun x hx => (h2.2.2 x hx).trans (h1.2.2 x (fun h => hx (hl x h)))⟩

theorem Aside.updThread (s : State) (x : Nat) (f : Thread → Thread) : Aside s (s.updThread x f) [x] :=
  ⟨fun _ => rfl, rfl, fun u hu => by rw [State.thread_updThread, if_neg (by simpa using hu)]⟩

end

/-! ## Work placed for later -/

/-- A state that differs in the hardware's own work, of which none is lost, and in what its cores note of their rest: the cycle from which they
are idle or quiet, and whether they are gated. -/
structure OnlyWork (s t : State) : Prop where
  state : t = { s with pend := t.pend, cores := t.cores }
  core : ∀ c, t.core c = { s.core c with idle := (t.core c).idle, quiet := (t.core c).quiet, gated := (t.core c).gated }
  placed : ∀ e ∈ s.pend, e ∈ t.pend

section
variable {s t u : State}

theorem OnlyWork.refl (s : State) : OnlyWork s s := ⟨rfl, fun _ => rfl, fun _ h => h⟩

theorem OnlyWork.trans (h1 : OnlyWork s t) (h2 : OnlyWork t u) : OnlyWork s u := by
  refine ⟨?_, fun c => ?_, fun e h => h2.placed e (h1.placed e h)⟩
  · rw [h2.state]; conv => lhs; rw [h1.state]
  · rw [h2.core c]; conv => lhs; rw [h1.core c]

theorem OnlyWork.byte (h : OnlyWork s t) (a : Nat) : t.byte a = s.byte a := by rw [h.state]; rfl
theorem OnlyWork.thread (h : OnlyWork s t) (x : Nat) : t.thread x = s.thread x := by rw [h.state]; rfl
theorem OnlyWork.me (h : OnlyWork s t) : t.me = s.me := by rw [h.state]; rfl
theorem OnlyWork.die (h : OnlyWork s t) (x : Nat) : t.die x = s.die x := by rw [h.state]; rfl
theorem OnlyWork.req (h : OnlyWork s t) (x : Nat) : t.req x = s.req x := by rw [h.state]; rfl
theorem OnlyWork.aside (h : OnlyWork s t) (l : List Nat) : Aside s t l := ⟨h.byte, by rw [h.state], fun x _ => h.thread x⟩
theorem OnlyWork.isPlaced (h : OnlyWork s t) {n : Nat} {i : Instr} (hp : s.Placed n i) : t.Placed n i := h.placed _ hp

theorem OnlyWork.deque (h : OnlyWork s t) (c : Nat) : (t.core c).deque = (s.core c).deque := by rw [h.core c]
theorem OnlyWork.dequeOvf (h : OnlyWork s t) (c : Nat) : (t.core c).dequeOvf = (s.core c).dequeOvf := by rw [h.core c]
theorem OnlyWork.steal (h : OnlyWork s t) (c : Nat) : (t.core c).steal = (s.core c).steal := by rw [h.core c]
theorem OnlyWork.stolen (h : OnlyWork s t) (c : Nat) : (t.core c).stolen = (s.core c).stolen := by rw [h.core c]
theorem OnlyWork.msgs (h : OnlyWork s t) (c : Nat) : (t.core c).msgs = (s.core c).msgs := by rw [h.core c]
theorem OnlyWork.plb (h : OnlyWork s t) (c : Nat) : (t.core c).plb = (s.core c).plb := by rw [h.core c]

/-- A step placed is there. -/
theorem State.placed_after (s : State) (n : Nat) (i : Instr) : (s.after n i).Placed (s.now + n) i := mem_tins_self _ _ _

/-- A step placed unless one like it is placed already is there in some cycle. -/
theorem State.placed_afterOnce (s : State) (n : Nat) (i : Instr) : ∃ m, (s.afterOnce n i).Placed m i := s.afterOnce_due n i

theorem OnlyWork.after (s : State) (n : Nat) (i : Instr) : OnlyWork s (s.after n i) :=
  ⟨rfl, fun _ => rfl, fun e h => (mem_tins _ _ _ e).2 (.inr h)⟩

theorem OnlyWork.ite {c : Prop} {_ : Decidable c} (h1 : OnlyWork s t) (h2 : OnlyWork s u) : OnlyWork s (if c then t else u) := by
  split <;> assumption

theorem OnlyWork.afterOnce (s : State) (n : Nat) (i : Instr) : OnlyWork s (s.afterOnce n i) := .ite (.refl s) (.after s n i)

theorem OnlyWork.foldl {α : Type} (l : List α) (f : State → α → State) (hf : ∀ s a, OnlyWork s (f s a)) : OnlyWork s (l.foldl f s) := by
  induction l generalizing s with
  | nil => exact .refl s
  | cons a l ih => exact (hf s a).trans ih

/-- A core that notes its rest. -/
theorem OnlyWork.updCore (s : State) (c : Nat) (f : Core → Core)
    (hf : ∀ x : Core, f x = { x with idle := (f x).idle, quiet := (f x).quiet, gated := (f x).gated }) : OnlyWork s (s.updCore c f) := by
  refine ⟨rfl, fun d => ?_, fun e h => h⟩
  rw [State.core_updCore]
  split
  · next h => subst h; exact hf _
  · rfl

theorem OnlyWork.wakeCore (s : State) (c : Nat) : OnlyWork s (s.wakeCore c) := by
  unfold State.wakeCore
  have h1 : OnlyWork s (if s.restedFromReset c then s.updCore c (fun x => { x with gated := true }) else s) :=
    .ite (.updCore s c _ (fun _ => rfl)) (.refl s)
  exact .ite (h1.trans (.afterOnce _ _ _)) h1

theorem OnlyWork.restCore (s : State) (c : Nat) : OnlyWork s (s.restCore c) :=
  .ite (.refl s) ((OnlyWork.updCore s c _ (fun _ => rfl)).trans (.afterOnce _ _ _))

/-- A core that looks for work only places its next step (R18, R20, R232). -/
theorem OnlyWork.coreWork (s : State) (c : Nat) : OnlyWork s (s.coreWork c) := by
  have hidle : OnlyWork s ((s.updCore c (fun y => { y with idle := s.now })).afterOnce Config.stealWait (.stealAttempt c)) :=
    (OnlyWork.updCore s c _ (fun _ => rfl)).trans (.afterOnce _ _ _)
  have hattempt : ∀ b : Bool, OnlyWork s
      (if b then s else (s.updCore c (fun y => { y with idle := s.now })).afterOnce Config.stealWait (.stealAttempt c)) :=
    fun _ => .ite (.refl s) hidle
  have hlast : ∀ v, OnlyWork s v → OnlyWork s (if s.coreBusy c then v else v.restCore c) := fun v h => .ite h (h.trans (.restCore v c))
  unfold State.coreWork
  exact .ite (.refl s) (.ite (.foldl _ _ (fun s a => .afterOnce s _ _)) (.ite (.afterOnce s _ _) (.ite (.refl s) (.ite (.afterOnce s _ _)
    (.ite (.afterOnce s _ _) (hlast _ (hattempt _)))))))

theorem OnlyWork.checkLaunch (s : State) (n : Option Nat) : OnlyWork s (s.checkLaunch n) := by
  unfold State.checkLaunch
  split
  · exact .ite (.afterOnce s _ _) (.refl s)
  · exact .refl s

end

/-! ## Threads that wake -/

/-- A thread that wakes is parked no more, and no other changes (R22, R27). -/
theorem State.thread_wake (s : State) (t u : Nat) : (s.wake t).thread u = if u = t then { s.thread t with park := none } else s.thread u := by
  unfold State.wake
  split
  · rw [(OnlyWork.wakeCore _ _).thread, State.thread_updThread]
  · next h =>
    have hp : (s.thread t).park = none := by simpa using h
    split
    · next e => subst e; rw [← hp]
    · rfl

/-- What a wake changes besides is its core's notes and the hardware's own work. -/
theorem State.wake_eq (s : State) (t : Nat) : ∃ x, (x = s ∨ x = s.updThread t (fun x => { x with park := none })) ∧ OnlyWork x (s.wake t) := by
  unfold State.wake
  split
  · exact ⟨_, .inr rfl, .wakeCore _ _⟩
  · exact ⟨s, .inl rfl, .refl s⟩

theorem Aside.wake (s : State) (t : Nat) : Aside s (s.wake t) [t] := by
  obtain ⟨x, rfl | rfl, h⟩ := s.wake_eq t
  · exact h.aside _
  · exact (Aside.updThread s t _).trans (h.aside _) (fun _ h => h)

theorem State.core_wake (s : State) (t c : Nat) : (s.wake t).core c =
    { s.core c with idle := ((s.wake t).core c).idle, quiet := ((s.wake t).core c).quiet, gated := ((s.wake t).core c).gated } := by
  obtain ⟨x, rfl | rfl, h⟩ := s.wake_eq t <;> exact h.core c

theorem State.req_wake (s : State) (t id : Nat) : (s.wake t).req id = s.req id := by
  obtain ⟨x, rfl | rfl, h⟩ := s.wake_eq t <;> exact h.req id

end Sys2Proof.Machine
end

section
/-!
O24: EXPECT, the deque's queries and SPAWN (R22, R92 to R94, R97, R98).
-/

namespace Sys2Proof.Machine

/-! ## Instructions without a source -/

/-- Reading no register notes nothing. -/
@[simp] theorem State.noteReads_nil (s : State) : s.noteReads [] = s := by simp [State.noteReads]

/-- An EXPECT leaves its register waiting for a fill; `g0` stays FULL (R22, R97). -/
theorem expectReg_expects (s : State) (r : RegRef) (h : s.notAwaited [r]) :
    let t := expectReg r s
    t.me.stOf r = (if r = gRef 0 then .full else .expecting) ∧ t.me.pc = s.me.nextPc 4 ∧ OnlyRegs s t [r] [] := by
  have hi : expectReg r s = (s.noteReads []).done 4 (fun t => t.put r 0 .expecting) := issue_ready _ _ s rfl (by simp) ⟨by simp [State.hasFull], h⟩
  have hme : (expectReg r s).me = (s.me.put r 0 .expecting).advance 4 s.now := by
    rw [hi, State.noteReads_nil, State.done, State.advance, State.me_upd, State.me_upd]; rfl
  refine ⟨?_, ?_, ?_⟩
  · rw [hme, Thread.advance_stOf, Thread.stOf_put, if_pos rfl]
  · rw [hme, Thread.advance_pc]
    simp [Thread.nextPc, Thread.loop]
  · rw [hi]
    refine onlyRegs_done s [] 4 [r] [] _ (fun t => t.onlyRegs_put r 0 .expecting) (fun t q hq => ?_) (fun t i _ => by simp [Thread.kReg])
    simp only [List.mem_singleton] at hq
    simp [Thread.stOf_put, Thread.valOf_put, hq]

/-- A general register written with a value, and on to the next instruction: it is FULL with the value, and all else is as it was (R84, R98). -/
theorem done_setG (s : State) (w : Word) (d : BitVec 6) :
    let t := s.done 4 (fun t => t.setG d w)
    t.me.stOf (gRef d.toNat) = .full ∧ t.me.valOf (gRef d.toNat) = (if gRef d.toNat = gRef 0 then 0 else w.toNat) ∧
      t.me.pc = s.me.nextPc 4 ∧ OnlyRegs s t [gRef d.toNat] [] := by
  have hme : (s.done 4 (fun t => t.setG d w)).me = (s.me.put (gRef d.toNat) w.toNat .full).advance 4 s.now := by
    rw [State.done, State.advance, State.me_upd, State.me_upd, Thread.setG_eq]; rfl
  refine ⟨?_, ?_, ?_, ?_⟩
  · rw [hme, Thread.advance_stOf, Thread.stOf_put]; simp
  · rw [hme, Thread.advance_valOf, Thread.valOf_put, if_pos rfl, show w.toNat % 2 ^ (gRef d.toNat).cls.width = w.toNat from Nat.mod_eq_of_lt w.isLt]
  · rw [hme, Thread.advance_pc]
    simp [Thread.nextPc, Thread.loop]
  · have h := onlyRegs_put s [] 4 (gRef d.toNat) w.toNat (fun t => t.setG d w) (Thread.setG_eq _ _ _)
    rwa [State.noteReads_nil] at h

/-- QSLOT reads the free program slots of the core. -/
theorem qslot_computes (d : BitVec 6) : ComputesG (.qslot d) 4 [] d (fun s =>
    BitVec.ofNat 64 ((List.range 15).filter (fun i => !(s.thread (coreOf s.cur * 16 + i)).occupied)).length) := by
  intro s h
  refine ⟨_, rfl, ?_⟩
  rw [setImm, issue_ready _ _ s rfl (by simp) h, State.noteReads_nil]
  exact done_setG s _ d

/-- QLINK reads the join link. -/
theorem qlink_computes (d : BitVec 6) : ComputesG (.qlink d) 4 [] d (fun s => s.me.link) :=
  computesG_of _ (fun t => t.link) (fun _ => rfl) (fun _ => rfl) (fun _ _ _ => rfl)

/-- QDEQ reads the entries of the core's deque, on a compute core. -/
theorem qdeq_computes (d : BitVec 6) (s : State) (hm : isMem (coreOf s.cur) = false) (h : s.notAwaited [gRef d.toNat]) :
    ∃ t, exec (.qdeq d) s = .next t ∧ t.me.gv d = (if d = 0 then 0 else BitVec.ofNat 64 (s.core (coreOf s.cur)).deque.length) ∧
      t.me.stOf (gRef d.toNat) = .full ∧ t.me.pc = s.me.nextPc 4 ∧ OnlyRegs s t [gRef d.toNat] [] := by
  obtain ⟨hst, hval, hpc, hf⟩ := done_setG s (BitVec.ofNat 64 (s.core (coreOf s.cur)).deque.length) d
  have he : exec (.qdeq d) s = .next (s.done 4 (fun t => t.setG d (BitVec.ofNat 64 (s.core (coreOf s.cur)).deque.length))) := by
    refine congrArg _ ((issue_ready _ _ s (by simp [hm]) (by simp) ⟨by simp [State.hasFull], h⟩).trans ?_)
    rw [State.noteReads_nil]
  have hd : gRef d.toNat = gRef 0 ↔ d = 0 := by
    rw [gRef, gRef, RegRef.mk.injEq]
    exact ⟨fun h => BitVec.eq_of_toNat_eq h.2, fun h => by simp [h]⟩
  refine ⟨_, he, ?_, hst, hpc, hf⟩
  apply BitVec.eq_of_toNat_eq
  rw [Thread.gv_eq, hval]
  by_cases h0 : d = 0
  · simp [h0, gRef]
  · rw [if_neg (mt hd.1 h0), if_neg h0]

/-! ## The checks that SPAWN passes -/

/-- States that differ by bookkeeping alone, with the same rights in every PLB. -/
structure Passes (s t : State) : Prop where
  quiet : Quiet s t
  plb : ∀ c r, (t.core c).plbFind r = (s.core c).plbFind r

section
variable {s t u : State}

theorem Passes.refl (s : State) : Passes s s := ⟨.refl s, fun _ _ => rfl⟩

theorem Passes.trans (h1 : Passes s t) (h2 : Passes t u) : Passes s u := ⟨h1.quiet.trans h2.quiet, fun c r => (h2.plb c r).trans (h1.plb c r)⟩

theorem Passes.noteReads (s : State) (l : List RegRef) : Passes s (s.noteReads l) :=
  ⟨(s.noted l).quiet, fun c r => by rw [(s.noted l).cores c]; rfl⟩

theorem Passes.touch (s : State) (c region now : Nat) : Passes s (s.updCore c (fun x => x.plbTouch region now)) := by
  refine ⟨Quiet.touch s c region now, fun d r => ?_⟩
  rw [State.core_updCore]
  split
  · next h => subst h; exact Core.plbFind_touch _ _ _ _
  · rfl

theorem Passes.reaches (h : Passes s t) {va : Word} {size : Nat} {need : Rights → Bool} {p : Place} (hr : s.Reaches va size need p) :
    t.Reaches va size need p := by
  obtain ⟨hp, ha, hg⟩ := hr
  refine ⟨(h.quiet.resolve _).trans hp, ha, fun hv => ?_⟩
  rw [h.quiet.cur, h.plb]
  exact hg hv

/-- An address that is reached passes its checks: what holds behind them holds of the whole. -/
theorem checkAddr_passes {P : State → Prop} {va : Word} {size : Nat} {need : Rights → Bool} {p : Place} {len : Nat} {k : Place → State → State}
    (h : s.Reaches va size need p) (hk : ∀ t, Passes s t → P (k p t)) : P (checkAddr va size need len k s) := by
  obtain ⟨hp, ha, hr⟩ := h
  unfold checkAddr
  rw [hp]
  simp only [ha, ne_eq, not_true_eq_false, if_false]
  unfold checkRight
  by_cases hg : isGlobal va.toNat = true
  · obtain ⟨r, h1, h2⟩ := hr hg
    simp only [hg, Bool.not_true, Bool.false_eq_true, if_false, h1, h2, if_true]
    exact hk _ (Passes.touch s _ _ _)
  · simp only [Bool.not_eq_true] at hg
    simp only [hg, Bool.not_false, if_true]
    exact hk s (.refl s)

/-- So does a target that may be executed. -/
theorem checkTarget_passes {P : State → Prop} {va : Word} {len : Nat} {k : State → State} (h : s.Executable va) (hk : ∀ t, Passes s t → P (k t)) :
    P (checkTarget va len k s) := by
  obtain ⟨h1, h2, r, h3, h4⟩ := h
  unfold checkTarget checkRight
  simp only [h1, h2, Nat.zero_ne_one, Bool.not_true, Bool.false_eq_true, if_false, h3, h4, if_true]
  exact hk _ (Passes.touch s _ _ _)

theorem Passes.executable (h : Passes s t) {va : Word} (hx : s.Executable va) : t.Executable va := by
  obtain ⟨h1, h2, hr⟩ := hx
  refine ⟨h1, h2, ?_⟩
  rw [h.quiet.cur, h.plb]
  exact hr

end

/-! ## SPAWN -/

/-- An instruction that only passed checks has touched nothing. -/
theorem Quiet.untouched {s t : State} (q : Quiet s t) : Untouched s t [] := by
  obtain ⟨a, b, hm⟩ := q.me
  refine ⟨fun x => ?_, ?_, ?_, q.others, fun r _ => ⟨q.stOf r, q.valOf r⟩, fun i => ?_, ?_, ?_⟩
  · rw [q.state]; rfl
  · rw [q.state]
  · rw [q.state]
  · rw [hm]; rfl
  · rw [hm]; rfl
  · rw [hm]

/-- A part of an instruction sent without a register: nothing of the thread changes but its counts and what it has touched. -/
theorem posted_untouched {s t : State} (h : Untouched s t []) (hc : t.cur = s.cur) (r : Req) (hd : r.dst = none) (hk : r.ctxReg = none) (hcls : r.cls = .none) :
    Untouched s (t.post r) [] := by
  have hme : (t.post r).me = { t.me with acquires := (t.post r).me.acquires, tbanks := (t.post r).me.tbanks } := by
    rw [State.post, State.postIn_me]
    simp only [Thread.posted, hd, hk, hcls, Thread.countUp]
  obtain ⟨hb, he, hx, ho, hr, hm, hs, hl⟩ := h
  refine ⟨fun a => ?_, ?_, ?_, fun u hu => ?_, fun q hq => ?_, fun i => ?_, ?_, ?_⟩
  · rw [← hb a]; simp [State.post, State.byte]
  · rw [← he]; simp [State.post]
  · rw [← hx]; simp [State.post]
  · rw [← ho u hu, State.post, State.postIn_thread, if_neg (hc ▸ hu)]
  · rw [hme]; exact hr q hq
  · rw [hme]; exact hm i
  · rw [hme]; exact hs
  · rw [hme]; exact hl

/-- A table written at a key with an entry that is not counted counts no more than before. -/
theorem length_filter_tput_le {α : Type} [DecidableEq α] (d : α) (t : Tbl α) (k : Nat) (v : α) (p : Nat × α → Bool) (h : p (k, v) = false) :
    ((tput d t k v).filter p).length ≤ (t.filter p).length := by
  have hins : ∀ t : Tbl α, (tins t k v).filter p = t.filter p := fun t => by
    induction t with
    | nil => simp [tins, h]
    | cons e r ih =>
      unfold tins
      split
      · simp [h]
      · simp only [List.filter_cons, ih]
  have hle : ((terase t k).filter p).length ≤ (t.filter p).length := (List.filter_sublist.filter p).length_le
  unfold tput
  split
  · exact hle
  · rw [hins]; exact hle

/-- A thread that is at no SPAWN holds no entry in reserve, however its notes change (R94). -/
theorem State.spawning_upd_le (s : State) (f : Thread → Thread) (h : (f s.me).phase = .idle) (c : Nat) : (s.upd f).spawning c ≤ s.spawning c := by
  unfold State.spawning
  refine length_filter_tput_le {} s.threads s.cur (f s.me) _ ?_
  simp [h]

theorem State.spawning_noteReads_le (s : State) (l : List RegRef) (h : s.me.phase = .idle) (c : Nat) : (s.noteReads l).spawning c ≤ s.spawning c := by
  have hdrop : ∀ u : State, (u.dropSI s.cur).spawning c = u.spawning c := fun u => by rw [State.dropSI_state]; rfl
  have h1 : ∀ u : State, u = (if s.me.sibUnread.any (fun e => l.contains (gRef e.1)) then
      s.upd (fun t => { t with sibUnread := t.sibUnread.filter (fun e => !l.contains (gRef e.1)) }) else s) →
      u.spawning c ≤ s.spawning c ∧ u.me.phase = .idle := by
    rintro u rfl
    split
    · exact ⟨s.spawning_upd_le _ h c, by rw [State.me_upd]; exact h⟩
    · exact ⟨Nat.le_refl _, h⟩
  unfold State.noteReads
  dsimp only
  split
  · rw [hdrop]
    obtain ⟨hle, hph⟩ := h1 _ rfl
    exact (State.spawning_upd_le _ _ hph c).trans hle
  · exact (h1 _ rfl).1

theorem State.dequeFull_noteReads (s : State) (l : List RegRef) (h : s.me.phase = .idle) (c : Nat) (hd : s.dequeFull c = false) :
    (s.noteReads l).dequeFull c = false := by
  have hle := s.spawning_noteReads_le l h c
  simp only [State.dequeFull, decide_eq_false_iff_not, Nat.not_le] at hd ⊢
  rw [(s.noted l).cores c]
  exact Nat.lt_of_le_of_lt (Nat.add_le_add_left hle _) hd

/-- The two operations of a SPAWN's header, sent, and the thread parked on their replies (R93, R94). -/
def State.sendHeader (s : State) (f : Word) (p q : Place) : State :=
  ((s.post (headerReq (.frameLink s.me.link) (f - 16) p)).post (headerReq .frameInc (f - 8) q)).upd
    (fun t => { t with phase := .spawn 2, park := some .reply })

/-- A SPAWN that passes its checks sends its header. -/
theorem spawn_sendHeader (i : BitVec 18) (s : State) (hr : s.Ready [gRef 2] []) (hm : isMem (coreOf s.cur) = false) (hl : s.me.inLoop = false)
    {p q : Place} (hph : s.me.phase = .idle) (hd : s.dequeFull (coreOf s.cur) = false) (hx : s.Executable (s.me.pc + i.signExtend 64 * 2))
    (hp : s.Reaches (s.me.gv (2 : BitVec 6) - 16) 8 Rights.a p) (hq : s.Reaches (s.me.gv (2 : BitVec 6) - 8) 8 Rights.a q) (hu : s.Unrolled)
    (hs : s.MaySend .none) : ∃ t, Passes s t ∧ exec (.spawn i) s = .next (t.sendHeader (s.me.gv (2 : BitVec 6)) p q) := by
  have h1 := Passes.noteReads s [gRef 2]
  have hd1 := s.dequeFull_noteReads [gRef 2] hph _ hd
  rw [← s.noteReads_cur [gRef 2]] at hd1
  obtain ⟨a1, b1, hm1⟩ := h1.quiet.me
  have hph1 : (s.noteReads [gRef 2]).me.phase = .idle := by rw [hm1]; exact hph
  have hf : (s.noteReads [gRef 2]).me.gv (2 : BitVec 6) = s.me.gv (2 : BitVec 6) := by rw [hm1]; rfl
  have hrel : (s.noteReads [gRef 2]).me.rel i = s.me.pc + i.signExtend 64 * 2 := by rw [hm1]; rfl
  have he : exec (.spawn i) s = _ := congrArg Host.Outcome.next (issue_ready _ _ s (by simp [hm, hl]) (by simp) hr)
  simp only [hph1, hd1, Bool.false_eq_true, if_false, hf, hrel] at he
  simp only [he, Host.Outcome.next.injEq]
  refine checkTarget_passes (P := fun x => ∃ t, Passes s t ∧ x = t.sendHeader (s.me.gv (2 : BitVec 6)) p q) (h1.executable hx) (fun s2 h2 => ?_)
  replace h2 := h1.trans h2
  refine checkAddr_passes (P := fun x => ∃ t, Passes s t ∧ x = t.sendHeader (s.me.gv (2 : BitVec 6)) p q) (h2.reaches hp) (fun s3 h3 => ?_)
  replace h3 := h2.trans h3
  refine checkAddr_passes (P := fun x => ∃ t, Passes s t ∧ x = t.sendHeader (s.me.gv (2 : BitVec 6)) p q) (h3.reaches hq) (fun s4 h4 => ?_)
  replace h4 := h3.trans h4
  exact ⟨s4, h4, by rw [memIssue_ok _ _ _ (h4.quiet.maySend hs), ordinal_free _ _ _ (h4.quiet.unrolled hu)]; rfl⟩

/-- What the header's sending leaves: its two requests, and a thread parked at its SPAWN. -/
theorem sendHeader_sent {s t : State} (h : Quiet s t) (f : Word) (p q : Place) :
    let u := t.sendHeader f p q
    u.me.pc = s.me.pc ∧ u.me.park = some .reply ∧ u.me.phase = .spawn 2 ∧
      u.reqs = s.reqs ++ [{ id := s.nextId, tid := s.cur, epoch := s.me.epoch, op := .frameLink s.me.link, va := f - 16, place := p, issued := s.now },
        { id := s.nextId + 1, tid := s.cur, epoch := s.me.epoch, op := .frameInc, va := f - 8, place := q, issued := s.now }] ∧ Untouched s u [] := by
  obtain ⟨a, b, hm⟩ := h.me
  have hreqs : t.reqs = s.reqs := by rw [h.state]
  have hid : t.nextId = s.nextId := by rw [h.state]
  have hme : ∃ c, (t.sendHeader f p q).me = { s.me with sibUnread := a, rfilled := b, tbanks := c, phase := .spawn 2, park := some .reply } := by
    refine ⟨(t.sendHeader f p q).me.tbanks, ?_⟩
    simp only [State.sendHeader, State.me_upd, State.post, State.postIn_me, headerReq, Thread.posted, Thread.countUp, hm, Bool.false_eq_true, if_false]
  obtain ⟨c, hme⟩ := hme
  have hsent := posted_untouched (posted_untouched h.untouched h.cur (headerReq (.frameLink t.me.link) (f - 16) p) rfl rfl rfl)
    ((State.postIn_cur ..).trans h.cur) (headerReq .frameInc (f - 8) q) rfl rfl rfl
  obtain ⟨hb, he, hx, ho, hr, hk, hsp, hlv⟩ := hsent
  refine ⟨by rw [hme], by rw [hme], by rw [hme], ?_, ⟨hb, he, hx, fun u hu => ?_, fun r hr => ?_, fun i => ?_, ?_, ?_⟩⟩
  · simp only [State.sendHeader, State.upd_reqs, State.post, State.postIn_reqs, State.postIn_nextId, State.postIn_cur, State.postIn_now, State.postIn_me,
      headerReq, Thread.posted, Thread.countUp, hm, hreqs, hid, h.cur, h.now, List.append_assoc, List.singleton_append]
  · rw [State.sendHeader, State.thread_upd, if_neg]
    · exact ho u hu
    · simpa [State.post, h.cur] using hu
  · rw [hme]; exact ⟨rfl, rfl⟩
  · rw [hme]; rfl
  · rw [hme]; rfl
  · rw [hme]

/-- SPAWN's first part: its two header operations are sent and the thread parks (R93, R94). -/
theorem spawn_begins (i : BitVec 18) (s : State) (hr : s.Ready [gRef 2] []) (hm : isMem (coreOf s.cur) = false) (hl : s.me.inLoop = false)
    {p q : Place} (hph : s.me.phase = .idle) (hd : s.dequeFull (coreOf s.cur) = false) (hx : s.Executable (s.me.pc + i.signExtend 64 * 2))
    (hp : s.Reaches (s.me.gv (2 : BitVec 6) - 16) 8 Rights.a p) (hq : s.Reaches (s.me.gv (2 : BitVec 6) - 8) 8 Rights.a q) (hu : s.Unrolled)
    (hs : s.MaySend .none) :
    let f := s.me.gv (2 : BitVec 6)
    ∃ t, exec (.spawn i) s = .next t ∧ t.me.pc = s.me.pc ∧ t.me.park = some .reply ∧ t.me.phase = .spawn 2 ∧
        t.reqs = s.reqs ++ [{ id := s.nextId, tid := s.cur, epoch := s.me.epoch, op := .frameLink s.me.link, va := f - 16, place := p, issued := s.now },
          { id := s.nextId + 1, tid := s.cur, epoch := s.me.epoch, op := .frameInc, va := f - 8, place := q, issued := s.now }] ∧ Untouched s t [] := by
  obtain ⟨t, ht, he⟩ := spawn_sendHeader i s hr hm hl hph hd hx hp hq hu hs
  exact ⟨_, he, sendHeader_sent ht.quiet _ p q⟩

/-- A transfer goes to its target. -/
theorem Thread.transfer_pc (t : Thread) (target : Word) (call : Bool) (now : Nat) : (t.transfer target call now).pc = target := by
  unfold Thread.transfer
  dsimp only
  split
  · split <;> rfl
  · rfl

/-- SPAWN's second part: the continuation is pushed and the child goes on at the label (R94). -/
theorem spawn_ends (i : BitVec 18) (s : State) (hr : s.Ready [gRef 2] []) (hm : isMem (coreOf s.cur) = false) (hl : s.me.inLoop = false)
    (hph : s.me.phase = .spawn 0) :
    let f := s.me.gv (2 : BitVec 6)
    ∃ t e, exec (.spawn i) s = .next t ∧ t.me.pc = s.me.pc + i.signExtend 64 * 2 ∧ t.me.link = f ∧
      (t.core (coreOf s.cur)).deque = (s.core (coreOf s.cur)).deque ++ [e] ∧ e.pc = s.me.pc + 4 ∧ e.frame = f ∧ e.isSplit = false ∧
      e.slot = slotOf s.cur ∧ e.core = coreOf s.cur ∧ e.lti = s.me.lti ∧ e.launch = s.me.launch ∧
      (∀ r, t.me.stOf r = s.me.stOf r ∧ t.me.valOf r = s.me.valOf r) ∧ (∀ u, u ≠ s.cur → t.thread u = s.thread u) ∧ (∀ x, t.byte x = s.byte x) := by
  intro f
  have h1 := (Passes.noteReads s [gRef 2]).quiet
  have hc := (s.noted [gRef 2]).cores (coreOf s.cur)
  generalize hs1 : s.noteReads [gRef 2] = s1 at h1 hc
  obtain ⟨a, b, hm1⟩ := h1.me
  have hph1 : s1.me.phase = .spawn 0 := by rw [hm1]; exact hph
  have hpc : s1.me.pc = s.me.pc := by rw [hm1]
  have he : exec (.spawn i) s = _ := congrArg Host.Outcome.next (issue_ready _ _ s (by simp [hm, hl]) (by simp) hr)
  simp only [hs1, hph1] at he
  generalize hs2 : (s1.upd (fun t => { t with link := s1.me.gv (2 : BitVec 6) })).transfer (s1.me.rel i) false = s2 at he
  have hcur2 : s2.cur = s.cur := by rw [← hs2]; exact h1.cur
  have hme : s2.me = { s1.me with link := f }.transfer (s1.me.rel i) false s1.now := by
    rw [← hs2, State.transfer, State.me_upd, State.me_upd, hm1]; rfl
  have hw := OnlyWork.coreWork (s2.updCore s1.spawnEntry.core (fun c => { c with deque := c.deque ++ [s1.spawnEntry] })) s1.spawnEntry.core
  have hcore : s1.spawnEntry.core = coreOf s.cur := congrArg coreOf h1.cur
  refine ⟨_, _, he, ?_, ?_, ?_, ?_, ?_, rfl, ?_, hcore, ?_, ?_, fun r => ?_, fun u hu => ?_, fun x => ?_⟩
  · rw [State.push, hw.me, State.updCore_me, hme, Thread.transfer_pc, hm1]; rfl
  · rw [State.push, hw.me, State.updCore_me, hme, Thread.transfer_link]
  · rw [State.push, hw.deque, State.core_updCore, if_pos hcore.symm, hcore]
    show (s2.core (coreOf s.cur)).deque ++ _ = _
    rw [← hs2]
    show (s1.core (coreOf s.cur)).deque ++ _ = _
    rw [hc]
  · show s1.me.pc + 4 = _; rw [hpc]
  · show s1.me.gv (2 : BitVec 6) = f; rw [hm1]; rfl
  · show slotOf s1.cur = _; rw [h1.cur]
  · show s1.me.lti = _; rw [hm1]
  · show s1.me.launch = _; rw [hm1]
  · rw [State.push, hw.me, State.updCore_me, hme, Thread.transfer_stOf, Thread.transfer_valOf, hm1]; exact ⟨rfl, rfl⟩
  · rw [State.push, hw.thread, State.updCore_thread, ← hs2, State.transfer, State.thread_upd, State.thread_upd]
    simp only [State.upd_cur, h1.cur, hu, if_false]
    exact h1.others u hu
  · rw [State.push, hw.byte, State.updCore_byte, ← hs2]
    show s1.byte x = _
    rw [h1.state]; rfl

end Sys2Proof.Machine
end

section
open Sys2Proof Sys2Proof.Machine

/-- Settles O24: EXPECT and the queries write one register; SPAWN's two parts are `spawn_begins` and `spawn_ends`. -/
theorem threadBegins : Obligations.ThreadBegins := by
  unfold Obligations.ThreadBegins
  refine ⟨⟨fun d m v c e he s h => ?_, fun d => ⟨qslot_computes d, qlink_computes d, qdeq_computes d, fun s hm h => ?_⟩⟩,
    fun i s hr hm hl => ⟨fun p q hph hd hx hp hq hu hs => spawn_begins i s hr hm hl hph hd hx hp hq hu hs, spawn_ends i s hr hm hl⟩⟩
  · have hall := expectReg_expects s e.2 h
    simp only [List.mem_cons, List.not_mem_nil, or_false] at he
    rcases he with rfl | rfl | rfl | rfl <;> exact ⟨_, rfl, hall⟩
  · exact ⟨_, rfl, issue_illegal_trapped _ _ s (by simp [hm]) h⟩

end

section
/-!
O37: what a reply does at its core: the register, the count and the thread of an access that ended (R22, R24, R108, R114), and a PLB's refill (R354).
-/

namespace Sys2Proof.Machine

/-! ## Requests and completions -/

/-- A request that is dropped is found no more. -/
theorem State.req_dropReq (s : State) (id : Nat) : (s.dropReq id).req id = none := by
  refine List.find?_eq_none.2 (fun r hr => ?_)
  simpa [State.dropReq] using (List.mem_filter.1 hr).2

/-- A completion at a core that is not pre-empted is carried out there. -/
theorem State.atCore_here (s : State) (t : Nat) (i : Instr) (k : State → State) (h : (s.core (coreOf t)).diverted = false) : s.atCore t i k = k s := by
  simp only [State.atCore, State.diverts, h, Bool.false_and, Bool.false_eq_true, if_false]

section
variable {s : State} {r : Req}

theorem fillLands_performed (hr : s.req r.id = some r) (hp : r.state = .performed) (hd : (s.core (coreOf r.tid)).diverted = false) :
    exec (.fillLands r.id) s = .next (s.fillReg r.id) := by
  show execFillLands r.id s = _
  simp only [execFillLands, hr, hp, if_true, s.atCore_here _ _ _ hd]

theorem storeAck_performed (hr : s.req r.id = some r) (hp : r.state = .performed) (hd : (s.core (coreOf r.tid)).diverted = false) :
    exec (.storeAck r.id) s = .next (s.fillReg r.id) := by
  show execStoreAck r.id s = _
  simp only [execStoreAck, hr, hp, if_true, s.atCore_here _ _ _ hd]

theorem errorResponse_failed (hr : s.req r.id = some r) (hp : r.state = .failed) (hd : (s.core (coreOf r.tid)).diverted = false) :
    exec (.errorResponse r.id) s = .next (s.failReg r.id) := by
  show execErrorResponse r.id s = _
  simp only [execErrorResponse, hr, hp, true_or, if_true, s.atCore_here _ _ _ hd]

end

/-! ## The end of an access at its thread -/

/-- The end of an acquire changes the accesses that its thread holds back, and lines of its core (R110). -/
theorem State.thread_endAcquire (s : State) (r : Req) : ∃ a, ∀ u, (s.endAcquire r).thread u =
    if u = r.tid then { s.thread r.tid with acquires := a } else s.thread u := by
  by_cases h : r.acq = true
  · refine ⟨(s.thread r.tid).acquires.filter (fun i => i != r.id), fun u => ?_⟩
    simp only [State.endAcquire, h, if_true]
    split
    · rw [State.dropSI_thread, State.thread_updThread]
    · rw [State.thread_updThread]
  · refine ⟨(s.thread r.tid).acquires, fun u => ?_⟩
    simp only [State.endAcquire, h, Bool.false_eq_true, if_false]
    split
    · next e => rw [e]
    · rfl

theorem State.endAcquire_state (s : State) (r : Req) : s.endAcquire r = { s with threads := (s.endAcquire r).threads, cores := (s.endAcquire r).cores } := by
  unfold State.endAcquire
  split
  · split
    · rw [State.dropSI_state]; rfl
    · rfl
  · rfl

/-- A reply: the request goes, its thread changes, its acquire ends, and the thread goes on. -/
def State.replied (s : State) (r : Req) (f : Thread → Thread) : State := (((s.dropReq r.id).updThread r.tid f).endAcquire r).wake r.tid

/-- What a reply leaves: the thread with its change and parked no more, no request, and all else as it was. -/
theorem State.replied_frame (s : State) (r : Req) (f : Thread → Thread) :
    (∃ a, (s.replied r f).thread r.tid = { f (s.thread r.tid) with acquires := a, park := none }) ∧ (s.replied r f).req r.id = none ∧
      Aside s (s.replied r f) [r.tid] := by
  have hu : Aside s ((s.dropReq r.id).updThread r.tid f) [r.tid] := Aside.updThread (s.dropReq r.id) r.tid f
  obtain ⟨a, ha⟩ := ((s.dropReq r.id).updThread r.tid f).thread_endAcquire r
  have hs := ((s.dropReq r.id).updThread r.tid f).endAcquire_state r
  have he : Aside ((s.dropReq r.id).updThread r.tid f) (((s.dropReq r.id).updThread r.tid f).endAcquire r) [r.tid] :=
    ⟨fun x => by rw [hs]; rfl, by rw [hs], fun u h => by rw [ha, if_neg (by simpa using h)]⟩
  refine ⟨⟨a, ?_⟩, ?_, (hu.trans he (fun _ h => h)).trans (Aside.wake _ _) (fun _ h => h)⟩
  · rw [State.replied, State.thread_wake, if_pos rfl, ha, if_pos rfl, State.thread_updThread, if_pos rfl]
    rfl
  · rw [State.replied, State.req_wake, hs]
    exact s.req_dropReq r.id

/-! ## Loads and stores that end -/

section
variable {s : State} {r : Req} {n : Nat}

/-- A load performed fills its register (R22, R108). -/
theorem fillReg_load (hr : s.req r.id = some r) (hl : s.lives r = true) {sg : Bool} {d : RegRef} (hop : r.op = .load n sg) (hcls : r.cls = .loads)
    (hk : r.ctxReg = none) (hd : r.dst = some d) :
    s.fillReg r.id = s.replied r (fun t => ((t.fill d r.val.toNat).refusedSib r).countDown .loads) := by
  unfold State.fillReg
  rw [hr]
  cases r
  dsimp only at hop hcls hk hd
  subst hop hcls hk hd
  simp only [hl, Bool.not_true, Bool.false_eq_true, if_false]
  rfl

/-- A load that fails marks its register (R22, R114). -/
theorem failReg_load (hr : s.req r.id = some r) (hl : s.lives r = true) {sg : Bool} {d : RegRef} (hop : r.op = .load n sg) (hcls : r.cls = .loads)
    (hk : r.ctxReg = none) (hd : r.dst = some d) (hst : r.state = .failed) :
    s.failReg r.id = s.replied r (fun t => ((t.mark d r.errAddr.toNat .errorMark).refusedSib r).countDown .loads) := by
  unfold State.failReg
  rw [hr]
  cases r
  dsimp only at hop hcls hk hd hst
  subst hop hcls hk hd hst
  simp only [hl, Bool.not_true, Bool.false_eq_true, if_false]
  rfl

/-- A store performed leaves its class's count (R108). -/
theorem fillReg_store (hr : s.req r.id = some r) (hl : s.lives r = true) {v : Word} (hop : r.op = .store n v) (hcls : r.cls = .stores)
    (hk : r.ctxReg = none) (hd : r.dst = none) : s.fillReg r.id = s.replied r (fun t => (t.refusedSib r).countDown .stores) := by
  unfold State.fillReg
  rw [hr]
  cases r
  dsimp only at hop hcls hk hd
  subst hop hcls hk hd
  simp only [hl, Bool.not_true, Bool.false_eq_true, if_false]
  rfl

/-- A store that fails leaves a held error besides, of the one whose response came first (R114). -/
theorem failReg_store (hr : s.req r.id = some r) (hl : s.lives r = true) {v : Word} (hop : r.op = .store n v) (hcls : r.cls = .stores)
    (hk : r.ctxReg = none) (hd : r.dst = none) (hst : r.state = .failed) :
    s.failReg r.id = s.replied r (fun t => (Thread.refusedSib { t with storeErr := some (t.storeErr.getD r.errAddr) } r).countDown .stores) := by
  unfold State.failReg
  rw [hr]
  cases r
  dsimp only at hop hcls hk hd hst
  subst hop hcls hk hd hst
  simp only [hl, Bool.not_true, Bool.false_eq_true, if_false]
  rfl

end

/-! ## The registers and counts of a thread that a reply reaches -/

/-- A refused store's report is neither a register nor a count (R165). -/
theorem Thread.refusedSib_eq (t : Thread) (r : Req) : ∃ x, t.refusedSib r = { t with sibLimit := x } := by
  unfold Thread.refusedSib
  split
  · exact ⟨_, rfl⟩
  · exact ⟨t.sibLimit, rfl⟩

/-- A register that awaits a fill is not `g0` (R22, R64). -/
theorem Thread.ne_zero_of_waits {t : Thread} {i : Nat} (h : (t.stOf (gRef i)).waits = true) : i ≠ 0 := by
  rintro rfl
  exact absurd h (by simp [Thread.stOf, Thread.gReg, gRef, RegState.waits])

/-- A write of a general register is read back (R22). -/
theorem Thread.gReg_put (t : Thread) {i : Nat} (h : i ≠ 0) (v : Nat) (st : RegState) : (t.put (gRef i) v st).gReg i = ⟨BitVec.ofNat 64 v, st⟩ := by
  simp [Thread.put, Thread.gReg, gRef, h]

/-- A write of a general register changes no other, and no count. -/
theorem Thread.put_eq (t : Thread) (i v : Nat) (st : RegState) : ∃ g, t.put (gRef i) v st = { t with g := g } := by
  unfold Thread.put gRef
  dsimp only
  split
  · exact ⟨t.g, rfl⟩
  · exact ⟨_, rfl⟩

section
variable {t u : Thread} {r : Req} {i v : Nat} {st : RegState} {a : List Nat}

/-- The thread of a load that ended: the register holds what the reply says, the count is one less, and the thread goes on (R22, R108). -/
theorem Thread.ended_load (hi : i ≠ 0) (hu : u = { ((t.put (gRef i) v st).refusedSib r).countDown .loads with acquires := a, park := none }) :
    u.gReg i = ⟨BitVec.ofNat 64 v, st⟩ ∧ u.loads = t.loads - 1 ∧ u.park = none ∧
      ∀ x, x ≠ gRef i → u.stOf x = t.stOf x ∧ u.valOf x = t.valOf x := by
  subst hu
  obtain ⟨b, hb⟩ := Thread.refusedSib_eq (t.put (gRef i) v st) r
  obtain ⟨g, hg⟩ := t.put_eq i v st
  rw [hb]
  refine ⟨t.gReg_put hi v st, ?_, rfl, fun x hx => ⟨?_, ?_⟩⟩
  · rw [hg]
    rfl
  · exact (Thread.stOf_put t (gRef i) x v st).trans (if_neg hx)
  · exact (Thread.valOf_put t (gRef i) x v st).trans (if_neg hx)

/-- The thread of a store that ended: the count is one less, the thread goes on, and no register changes (R108). -/
theorem Thread.ended_store (hu : u = { (t.refusedSib r).countDown .stores with acquires := a, park := none }) :
    u.stores = t.stores - 1 ∧ u.storeErr = t.storeErr ∧ u.park = none ∧ ∀ x, u.stOf x = t.stOf x ∧ u.valOf x = t.valOf x := by
  subst hu
  obtain ⟨b, hb⟩ := t.refusedSib_eq r
  rw [hb]
  exact ⟨rfl, rfl, rfl, fun x => ⟨rfl, rfl⟩⟩

end

/-! ## The four replies -/

section
variable {s : State} {r : Req} {n i : Nat}

theorem load_fills (hr : s.req r.id = some r) (hl : s.lives r = true) (hdv : (s.core (coreOf r.tid)).diverted = false) {sg : Bool}
    (hop : r.op = .load n sg) (hcls : r.cls = .loads) (hk : r.ctxReg = none) (hd : r.dst = some (gRef i))
    (hw : ((s.thread r.tid).stOf (gRef i)).waits = true) (hp : r.state = .performed) :
    ∃ t, exec (.fillLands r.id) s = .next t ∧ (t.thread r.tid).gReg i = ⟨BitVec.ofNat 64 r.val.toNat, .full⟩ ∧
      (t.thread r.tid).loads = (s.thread r.tid).loads - 1 ∧ (t.thread r.tid).park = none ∧ t.req r.id = none ∧ Aside s t [r.tid] ∧
      (∀ x, x ≠ gRef i → (t.thread r.tid).stOf x = (s.thread r.tid).stOf x ∧ (t.thread r.tid).valOf x = (s.thread r.tid).valOf x) := by
  refine ⟨_, fillLands_performed hr hp hdv, ?_⟩
  rw [fillReg_load hr hl hop hcls hk hd]
  obtain ⟨⟨a, hu⟩, hq, hA⟩ := s.replied_frame r (fun t => ((t.fill (gRef i) r.val.toNat).refusedSib r).countDown .loads)
  rw [Thread.fill, if_pos hw] at hu
  obtain ⟨h1, h2, h3, h4⟩ := Thread.ended_load (Thread.ne_zero_of_waits hw) hu
  exact ⟨h1, h2, h3, hq, hA, h4⟩

theorem load_marks (hr : s.req r.id = some r) (hl : s.lives r = true) (hdv : (s.core (coreOf r.tid)).diverted = false) {sg : Bool}
    (hop : r.op = .load n sg) (hcls : r.cls = .loads) (hk : r.ctxReg = none) (hd : r.dst = some (gRef i))
    (hw : ((s.thread r.tid).stOf (gRef i)).waits = true) (hp : r.state = .failed) :
    ∃ t, exec (.errorResponse r.id) s = .next t ∧ (t.thread r.tid).gReg i = ⟨r.errAddr, .errorMark⟩ ∧
      (t.thread r.tid).loads = (s.thread r.tid).loads - 1 ∧ (t.thread r.tid).park = none ∧ t.req r.id = none ∧ Aside s t [r.tid] := by
  refine ⟨_, errorResponse_failed hr hp hdv, ?_⟩
  rw [failReg_load hr hl hop hcls hk hd hp]
  obtain ⟨⟨a, hu⟩, hq, hA⟩ := s.replied_frame r (fun t => ((t.mark (gRef i) r.errAddr.toNat .errorMark).refusedSib r).countDown .loads)
  rw [Thread.mark, if_pos hw] at hu
  obtain ⟨h1, h2, h3, _⟩ := Thread.ended_load (Thread.ne_zero_of_waits hw) hu
  rw [BitVec.ofNat_toNat, BitVec.setWidth_eq] at h1
  exact ⟨h1, h2, h3, hq, hA⟩

theorem store_acks (hr : s.req r.id = some r) (hl : s.lives r = true) (hdv : (s.core (coreOf r.tid)).diverted = false) {v : Word}
    (hop : r.op = .store n v) (hcls : r.cls = .stores) (hk : r.ctxReg = none) (hd : r.dst = none) (hp : r.state = .performed) :
    ∃ t, exec (.storeAck r.id) s = .next t ∧ (t.thread r.tid).stores = (s.thread r.tid).stores - 1 ∧
      (t.thread r.tid).storeErr = (s.thread r.tid).storeErr ∧ (t.thread r.tid).park = none ∧ t.req r.id = none ∧ Aside s t [r.tid] ∧
      (∀ x, (t.thread r.tid).stOf x = (s.thread r.tid).stOf x ∧ (t.thread r.tid).valOf x = (s.thread r.tid).valOf x) := by
  refine ⟨_, storeAck_performed hr hp hdv, ?_⟩
  rw [fillReg_store hr hl hop hcls hk hd]
  obtain ⟨⟨a, hu⟩, hq, hA⟩ := s.replied_frame r (fun t => (t.refusedSib r).countDown .stores)
  obtain ⟨h1, h2, h3, h4⟩ := Thread.ended_store hu
  exact ⟨h1, h2, h3, hq, hA, h4⟩

theorem store_errs (hr : s.req r.id = some r) (hl : s.lives r = true) (hdv : (s.core (coreOf r.tid)).diverted = false) {v : Word}
    (hop : r.op = .store n v) (hcls : r.cls = .stores) (hk : r.ctxReg = none) (hd : r.dst = none) (hp : r.state = .failed) :
    ∃ t, exec (.errorResponse r.id) s = .next t ∧ (t.thread r.tid).stores = (s.thread r.tid).stores - 1 ∧
      (t.thread r.tid).storeErr = some ((s.thread r.tid).storeErr.getD r.errAddr) ∧ t.req r.id = none ∧ Aside s t [r.tid] := by
  refine ⟨_, errorResponse_failed hr hp hdv, ?_⟩
  rw [failReg_store hr hl hop hcls hk hd hp]
  obtain ⟨⟨a, hu⟩, hq, hA⟩ :=
    s.replied_frame r (fun t => (Thread.refusedSib { t with storeErr := some (t.storeErr.getD r.errAddr) } r).countDown .stores)
  obtain ⟨h1, h2, _, _⟩ := Thread.ended_store hu
  exact ⟨h1, h2, hq, hA⟩

end

/-! ## Fault notices, wakes of faults, and refills -/

theorem faultNotice_leaves {s : State} {r : Req} (hr : s.req r.id = some r) (hl : s.lives r = true) (hp : r.state = .parked) :
    exec (.faultNotice r.id) s = .next (s.updThread r.tid (fun t => { t with faulted := 1 })) := by
  have hk : r.parkedNow = true := by simp only [Req.parkedNow, hp, beq_self_eq_true, Bool.true_or]
  show execFaultNotice r.id s = _
  simp only [execFaultNotice, hr, hk, hl, Bool.and_self, if_true]

theorem faultWakeRejoin_rejoins {s : State} {tid : Nat} (h : ∀ r ∈ s.reqs, ¬ (r.tid = tid ∧ r.epoch = (s.thread tid).epoch ∧ r.parkedNow = true)) :
    exec (.faultWakeRejoin tid) s = .next ((s.updThread tid (fun t => { t with faulted := 0 })).wakeCore (coreOf tid)) := by
  have ho : s.faultsOpen tid = false := by
    refine Bool.eq_false_iff.2 (fun hc => ?_)
    obtain ⟨r, hm, hq⟩ := List.any_eq_true.1 hc
    simp only [Bool.and_eq_true, beq_iff_eq] at hq
    obtain ⟨⟨ht, he⟩, hk⟩ := hq
    exact h r hm ⟨ht, he, hk⟩
  show execFaultWakeRejoin tid s = _
  simp only [execFaultWakeRejoin, ho, Bool.false_eq_true, if_false]

/-- A PLB filled finds what it was filled with (R354). -/
theorem Core.plbFind_plbFill (c : Core) (region : Nat) (r : Rights) (now : Nat) : (c.plbFill region r now).plbFind region = some r := by
  have key : ∀ l : List PlbEntry, (∀ e ∈ l, e.region ≠ region) →
      ((l ++ [({ region := region, rights := r, used := now } : PlbEntry)]).find? (fun e => e.region = region)).map PlbEntry.rights = some r := by
    intro l hl
    rw [List.find?_append, List.find?_eq_none.2 (fun e he => by simpa using hl e he)]
    simp
  have hf : ∀ e ∈ c.plb.filter (fun e => e.region != region), e.region ≠ region := fun e he => by simpa using (List.mem_filter.1 he).2
  unfold Core.plbFind Core.plbFill
  dsimp only
  refine key _ ?_
  split
  · exact hf
  · split
    · exact fun e he => hf e (List.mem_filter.1 he).1
    · exact hf

/-- The rights that a refill puts into the PLB: those of the partition's domain (R354). -/
def State.refillRights (s : State) (tid region : Nat) : Rights := match s.partOf tid with | some p => s.domainRights p.root region | none => {}

theorem plbRefill_fills (s : State) (core tid region : Nat) (h : (s.thread tid).park = some .plb) : ∃ t, exec (.plbRefill core tid region) s = .next t ∧
    (t.core core).plbFind region = some (s.refillRights tid region) ∧ t.thread tid = { s.thread tid with park := none } ∧ Aside s t [tid] := by
  have he : exec (.plbRefill core tid region) s = .next ((s.updCore core (fun c => c.plbFill region (s.refillRights tid region) s.now)).wake tid) := by
    show execPlbRefill core tid region s = _
    unfold execPlbRefill
    dsimp only
    rw [if_pos h]
    rfl
  refine ⟨_, he, ?_, ?_, ?_⟩
  · have hf : ((s.updCore core (fun c => c.plbFill region (s.refillRights tid region) s.now)).core core).plbFind region = some (s.refillRights tid region) := by
      rw [State.core_updCore, if_pos rfl, Core.plbFind_plbFill]
    obtain ⟨x, hx, hw⟩ := State.wake_eq (s.updCore core (fun c => c.plbFill region (s.refillRights tid region) s.now)) tid
    rw [Core.plbFind, hw.plb]
    rcases hx with rfl | rfl
    · exact hf
    · exact hf
  · rw [State.thread_wake, if_pos rfl, State.updCore_thread]
  · exact Aside.trans ⟨fun _ => rfl, rfl, fun _ _ => rfl⟩ (Aside.wake _ _) (fun _ hx => hx)

end Sys2Proof.Machine
end

section
open Sys2Proof Sys2Proof.Machine

/-- Settles O37: a reply to a load or store changes its thread by `State.replied`, whose register, count and wake are read off. -/
theorem replySteps : Obligations.ReplySteps := by
  unfold Obligations.ReplySteps
  refine ⟨fun s r hr hl hd => ⟨fun n sg i hop hc hk hdst hw => ⟨load_fills hr hl hd hop hc hk hdst hw, load_marks hr hl hd hop hc hk hdst hw⟩,
    fun n v hop hc hdst hk _ => ⟨store_acks hr hl hd hop hc hk hdst, store_errs hr hl hd hop hc hk hdst⟩, fun hp => ?_⟩, fun s tid h => ?_,
    fun s core tid region h => plbRefill_fills s core tid region h⟩
  · refine ⟨_, faultNotice_leaves hr hl hp, ?_, rfl, Aside.updThread _ _ _⟩
    rw [State.thread_updThread, if_pos rfl]
  · refine ⟨_, faultWakeRejoin_rejoins h, ?_, (Aside.updThread _ _ _).trans ((OnlyWork.wakeCore _ _).aside [tid]) (fun _ hx => hx)⟩
    rw [(OnlyWork.wakeCore _ _).thread, State.thread_updThread, if_pos rfl]

end

section
/-!
O38: lent cycles, the deque of a core, and the messages of a steal (R13, R17 to R21).
-/

namespace Sys2Proof.Machine

theorem coreOf_slot (c : Nat) {i : Nat} (h : i < 16) : coreOf (c * 16 + i) = c := by
  unfold coreOf
  omega

theorem isMem_of_lt {c : Nat} (h : c < 2048) : isMem c = false := by
  have : c % 65536 = c := Nat.mod_eq_of_lt (by omega)
  simpa [isMem, absentBase, this] using h

theorem removeFirst_head {α : Type} (p : α → Bool) (a : α) (l : List α) (h : p a = true) : removeFirst p (a :: l) = l := by
  simp only [removeFirst, h, if_true]

/-- A step placed after a change of one core: that core, and that memory and threads stay. -/
theorem Aside.updCore (s : State) (c : Nat) (f : Core → Core) (l : List Nat) : Aside s (s.updCore c f) l := ⟨fun _ => rfl, rfl, fun _ _ => rfl⟩

/-! ## Lent cycles -/

/-- The lent cycle goes to the first slot from the lending pointer on that may have it (R13). -/
theorem State.lentSlot_first {s : State} {c i : Nat} {ok : Nat → Prop}
    (hok : ∀ j, ok j ↔ (s.ready (c * 16 + j) = true ∧ s.spaced (c * 16 + j) = true ∧ (s.thread (c * 16 + j)).ownCycle = false ∧
      s.levelOf (s.thread (c * 16 + j)).ctx ≠ 3))
    (hl : (s.core c).lendPtr < 15) (hi : i < 15) (h : ok i) (hf : ∀ k, k < (i + 15 - (s.core c).lendPtr) % 15 → ¬ ok (((s.core c).lendPtr + k) % 15)) :
    s.lentSlot c = some i := by
  have hp : ∀ j, (s.ready (c * 16 + j) && s.spaced (c * 16 + j) && !(s.thread (c * 16 + j)).ownCycle &&
      decide (s.levelOf (s.thread (c * 16 + j)).ctx ≠ 3)) = true ↔ ok j := by
    intro j
    rw [hok]
    simp only [Bool.and_eq_true, Bool.not_eq_true', decide_eq_true_eq, and_assoc]
  have hk : ((s.core c).lendPtr + (i + 15 - (s.core c).lendPtr) % 15) % 15 = i := by omega
  unfold State.lentSlot
  rw [List.find?_map, Option.map_eq_some_iff]
  refine ⟨(i + 15 - (s.core c).lendPtr) % 15, ?_, hk⟩
  rw [List.find?_range_eq_some]
  refine ⟨(hp _).2 (by simpa only [hk] using h), List.mem_range.2 (Nat.mod_lt _ (by omega)), fun j hj => ?_⟩
  rw [Bool.not_eq_true', Bool.eq_false_iff]
  exact fun hc => hf j hj ((hp _).1 hc)

theorem lentCycle_lends {s : State} {c i : Nat} (ho : s.owner c = none) (hn : s.issuedNow c = false) (h : s.lentSlot c = some i) :
    ∃ t, exec (.lentCycle c) s = .next t ∧ (t.core c).grant = some (i, s.now, (s.core c).lendPtr) ∧ (t.core c).lendPtr = (i + 1) % 15 ∧ Aside s t [] := by
  have he : exec (.lentCycle c) s = .next (s.updCore c (fun x => { x with grant := some (i, s.now, x.lendPtr), lendPtr := (i + 1) % 15 })) := by
    show execLentCycle c s = _
    simp only [execLentCycle, ho, hn, h, Option.isSome_none, Bool.or_self, Bool.false_eq_true, if_false]
  refine ⟨_, he, ?_, ?_, Aside.updCore _ _ _ _⟩
  · rw [State.core_updCore, if_pos rfl]
  · rw [State.core_updCore, if_pos rfl]

/-! ## Entries of a deque at no level of the order roll -/

section
variable {s : State} {ctx : Nat} (h0 : s.levelOf ctx = 0)
include h0

theorem State.recording_plain : s.recording ctx = false := by
  unfold State.recording
  rw [h0]
  rfl

theorem State.replaying_plain : s.replaying ctx = false := by
  unfold State.replaying
  rw [h0]
  rfl

theorem State.rollFull_plain (typ obj : Nat) : s.rollFull ctx typ obj = false := by
  unfold State.rollFull
  rw [State.recording_plain h0]
  rfl

/-- A slot takes the oldest entry (R17). -/
theorem State.takeTurn_plain (t deque op : Nat) : s.takeTurn t deque ctx op = (s.core deque).deque.head?.map (fun e => (e, s)) := by
  simp only [State.takeTurn, State.rollFull_plain h0, State.replaying_plain h0, Bool.false_eq_true, if_false, Bool.not_false, if_true]

theorem State.noteTake_plain (t op : Nat) (e : DequeEntry) (deque : Nat) : s.noteTake t op e deque ctx = s := by
  simp only [State.noteTake, State.recording_plain h0, Bool.false_eq_true, if_false]

/-- The first open slot takes the oldest entry (R17). -/
theorem State.turnSlot_plain {c i op : Nat} {e : DequeEntry} {rest : List DequeEntry} {slots : List Nat} (hs : s.openSlots c = i :: slots) (hd : (s.core c).deque = e :: rest) :
    s.turnSlot c c ctx op = some (i, e, s) := by
  unfold State.turnSlot
  rw [hs, List.findSome?_cons, State.takeTurn_plain h0, hd]
  rfl

end

/-- The lowest slot without a thread is the first open one (R10). -/
theorem State.openSlots_first {s : State} {c i : Nat} (hh : (s.core c).held = []) (hi : i < 15) (ho : (s.thread (c * 16 + i)).occupied = false)
    (hj : ∀ j, j < i → (s.thread (c * 16 + j)).occupied = true) : ∃ slots, s.openSlots c = i :: slots := by
  have hf : s.openSlots c = (List.range 15).filter (fun i => !(s.thread (c * 16 + i)).occupied) := by
    unfold State.openSlots
    rw [hh]
    exact List.filter_eq_self.2 (fun _ _ => rfl)
  have hd : ((List.range 15).filter (fun i => !(s.thread (c * 16 + i)).occupied)).head? = some i := by
    rw [List.head?_filter, List.find?_range_eq_some]
    refine ⟨by simp [ho], List.mem_range.2 hi, fun j hl => ?_⟩
    simp [hj j hl]
  rw [hf]
  exact List.head?_eq_some_iff.1 hd

/-! ## The thread that an entry begins -/

/-- What the read of a join link leaves of its thread: all but its fault, what it waits for and the places of its accesses (R93). -/
structure LinkRead (x y : Thread) : Prop where
  thread : y = { x with startFault := y.startFault, park := y.park, acquires := y.acquires, tbanks := y.tbanks }

theorem LinkRead.refl (x : Thread) : LinkRead x x := ⟨rfl⟩
theorem LinkRead.trans {x y z : Thread} (h1 : LinkRead x y) (h2 : LinkRead y z) : LinkRead x z := by
  refine ⟨?_⟩
  rw [h2.thread, h1.thread]

/-- A request that fills no register and counts in no class changes its thread's acquires (R108). -/
theorem LinkRead.posted (x : Thread) (r : Req) (hd : r.dst = none) (hk : r.ctxReg = none) (hc : r.cls = .none) (id : Nat) (w : BitVec 64) :
    LinkRead x { x.posted r id with tbanks := w } := by
  simp only [Thread.posted, hd, hk, hc]
  exact ⟨rfl⟩

/-- A state in which the thread that begins has read its link, and the deques stand as they were. -/
structure Begun (t : Nat) (a b : State) : Prop where
  link : LinkRead (a.thread t) (b.thread t)
  deque : ∀ c, (b.core c).deque = (a.core c).deque

section
variable {t : Nat} {a b c : State}

theorem Begun.refl (t : Nat) (a : State) : Begun t a a := ⟨.refl _, fun _ => rfl⟩
theorem Begun.trans (h1 : Begun t a b) (h2 : Begun t b c) : Begun t a c := ⟨h1.link.trans h2.link, fun x => (h2.deque x).trans (h1.deque x)⟩

theorem Begun.updThread (s : State) (f : Thread → Thread) (hf : LinkRead (s.thread t) (f (s.thread t))) : Begun t s (s.updThread t f) := by
  refine ⟨?_, fun _ => rfl⟩
  rw [State.thread_updThread, if_pos rfl]
  exact hf

theorem Begun.work (h : OnlyWork a b) : Begun t a b := ⟨by rw [h.thread]; exact .refl _, h.deque⟩

theorem Begun.rightFor (s : State) (t u va : Nat) : Begun t s (s.rightFor u va).2.2 := by
  unfold State.rightFor
  dsimp only
  split
  · exact .refl t s
  · split
    · refine ⟨.refl _, fun c => ?_⟩
      rw [State.core_updCore]
      split
      · next h => rw [h]; rfl
      · rfl
    · exact .work (.afterOnce _ _ _)

/-- The request for the link changes its thread's places of accesses (R108). -/
theorem Begun.linkRead (s : State) (t q : Nat) (d : Option Nat) (a : Word) (p : Place) :
    Begun t s { ({ s with cur := t } : State).postIn d { id := 0, tid := 0, epoch := 0, op := .linkRead, va := a, place := p } with cur := q } := by
  refine ⟨?_, fun c => ?_⟩
  · show LinkRead _ ((State.postIn d { s with cur := t } _).thread t)
    rw [State.postIn_thread, if_pos rfl]
    exact .posted _ _ rfl rfl rfl _ _
  · show ((State.postIn d { s with cur := t } _).core c).deque = _
    unfold State.core
    rw [State.postIn_cores]

theorem Begun.readLink (s : State) (t : Nat) (frame : Word) : Begun t s (s.readLink t frame) := by
  unfold State.readLink
  dsimp only
  split
  · exact .updThread s _ ⟨rfl⟩
  · split
    · exact .updThread s _ ⟨rfl⟩
    · split
      · have h1 := (Begun.rightFor s t t (frame - 16).toNat).trans
          (.updThread _ (fun x => { x with startFault := some (cPROT, frame - 16) }) ⟨rfl⟩)
        split
        · exact h1
        · exact h1.trans (.updThread _ _ ⟨rfl⟩)
      · exact ((Begun.rightFor s t t (frame - 16).toNat).trans (.linkRead _ t s.cur _ _ _)).trans (.updThread _ _ ⟨rfl⟩)

end

/-- What an entry begins in a slot: a continuation with its frame in `g2`, or a split thread with the registers and members of its `SPLIT` (R14). -/
structure Entered (old new : Thread) (e : DequeEntry) : Prop where
  occupied : new.occupied = true
  pc : new.pc = e.pc
  lti : new.lti = e.lti
  launch : new.launch = e.launch
  level : new.level = .U
  epoch : new.epoch = old.epoch + 1
  split : e.isSplit = true → new.kind = .split ∧ new.g = e.regs ∧ new.mReg e.msReg = ⟨e.ms, .full⟩
  continuation : e.isSplit = false → new.kind = .continuation ∧ new.gReg 2 = ⟨e.frame, .full⟩ ∧ ∀ j, j ≠ 0 → j ≠ 2 → (new.gReg j).st = .void

theorem Entered.split_thread {old : Thread} {e : DequeEntry} (h : e.isSplit = true) (part ctx : Nat) (a b : Word) :
    Entered old { newThread old .split e.lti part ctx e.launch e.pc with qbase := a, qrec := b, g := e.regs, m := tput {} [] e.msReg ⟨e.ms, .full⟩ } e := by
  refine ⟨rfl, rfl, rfl, rfl, rfl, rfl, fun _ => ⟨rfl, rfl, ?_⟩, fun hc => absurd (h.symm.trans hc) (by decide)⟩
  simp [Thread.mReg]

theorem Entered.continuation_thread {old new : Thread} {e : DequeEntry} (h : e.isSplit = false) {part ctx : Nat} {a b : Word}
    (hl : LinkRead { newThread old .continuation e.lti part ctx e.launch e.pc with qbase := a, qrec := b, g := tput {} [] 2 ⟨e.frame, .full⟩ } new) :
    Entered old new e := by
  have hn := hl.thread
  rw [hn]
  refine ⟨rfl, rfl, rfl, rfl, rfl, rfl, fun hc => absurd (hc.symm.trans h) (by decide), fun _ => ⟨rfl, ?_, fun j h0 h2 => ?_⟩⟩
  · simp [Thread.gReg]
  · simp [Thread.gReg, h0, h2, tget]

/-- An entry begins in its slot, and no deque changes (R14). -/
theorem State.startEntry_enters (s : State) (t : Nat) (e : DequeEntry) (part ctx : Nat) :
    Entered (s.thread t) ((s.startEntry t e part ctx).thread t) e ∧ ∀ c, ((s.startEntry t e part ctx).core c).deque = (s.core c).deque := by
  have hs : ∀ (th : Thread) c, ((s.start t th).core c).deque = (s.core c).deque := fun th c => (OnlyWork.wakeCore s (coreOf t)).deque c
  have ht : ∀ th : Thread, (s.start t th).thread t = th := fun th => by rw [State.start, State.thread_setThread, if_pos rfl]
  unfold State.startEntry
  dsimp only
  by_cases h : e.isSplit = true
  · rw [if_pos h, if_pos h, ht]
    exact ⟨.split_thread h _ _ _ _, hs _⟩
  · rw [if_neg h, if_neg h]
    obtain ⟨hl, hd⟩ := Begun.readLink (s.start t { newThread (s.thread t) .continuation e.lti part ctx e.launch e.pc with
      qbase := (s.launchQ e.launch).1, qrec := (s.launchQ e.launch).2, g := tput {} [] 2 ⟨e.frame, .full⟩ }) t e.frame
    rw [ht] at hl
    exact ⟨.continuation_thread (Bool.eq_false_iff.2 h) hl, fun c => (hd c).trans (hs _ c)⟩

/-- The same of an entry that a core takes. -/
theorem State.takeEntry_enters (s : State) (t : Nat) (e : DequeEntry) :
    Entered (s.thread t) ((s.takeEntry t e).thread t) e ∧ ∀ c, ((s.takeEntry t e).core c).deque = (s.core c).deque := by
  obtain ⟨he, hd⟩ := s.startEntry_enters t e (s.entryHome e).1 (s.entryHome e).2
  have hu := OnlyWork.updCore (s.startEntry t e (s.entryHome e).1 (s.entryHome e).2) (coreOf t) (fun c => { c with idle := s.now }) (fun _ => rfl)
  have hw : OnlyWork (s.startEntry t e (s.entryHome e).1 (s.entryHome e).2) (s.takeEntry t e) :=
    hu.trans (.ite (.afterOnce _ _ _) (.coreWork _ _))
  refine ⟨?_, fun c => (hw.deque c).trans (hd c)⟩
  rw [hw.thread]
  exact he

/-- The oldest entry of a core's deque begins in the lowest free slot (R17). -/
theorem dequeTake_enters {s : State} {core i : Nat} {e : DequeEntry} {rest : List DequeEntry} (hc : core < 2048) (hh : (s.core core).halted = false)
    (hv : (s.core core).diverted = false) (hheld : (s.core core).held = []) (hst : (s.core core).stolen = none)
    (hd : (s.core core).deque = e :: rest) (h0 : s.levelOf (s.dequeCtx core) = 0) (hi : i < 15)
    (ho : (s.thread (core * 16 + i)).occupied = false) (hj : ∀ j, j < i → (s.thread (core * 16 + j)).occupied = true) :
    ∃ t, exec (.dequeTake core) s = .next t ∧ (t.core core).deque = rest ∧ Entered (s.thread (core * 16 + i)) (t.thread (core * 16 + i)) e := by
  obtain ⟨slots, hs⟩ := State.openSlots_first hheld hi ho hj
  have hm := isMem_of_lt hc
  have he : exec (.dequeTake core) s = .next
      ((s.updCore core (fun c => { c with deque := removeFirst (fun y => decide (y = e)) c.deque })).takeEntry (core * 16 + i) e) := by
    show execDequeTake core s = _
    have hlev : ¬ s.levelOf (s.dequeCtx core) = 3 := by rw [h0]; decide
    simp only [execDequeTake, hh, hv, hm, hheld, hst, Bool.or_self, Bool.false_eq_true, if_false, List.find?_nil, hs, List.head?_cons, hd, List.isEmpty_cons,
      hlev, State.rollFull_plain h0, State.turnSlot_plain h0 hs hd, State.noteTake_plain h0]
  obtain ⟨h1, h2⟩ := (s.updCore core (fun c => { c with deque := removeFirst (fun y => decide (y = e)) c.deque })).takeEntry_enters (core * 16 + i) e
  refine ⟨_, he, ?_, h1⟩
  rw [h2, State.core_updCore, if_pos rfl]
  show removeFirst _ (s.core core).deque = rest
  rw [hd]
  exact removeFirst_head _ _ _ (decide_eq_true rfl)

/-! ## Steals -/

/-- An idle core asks its first victim (R20). -/
theorem stealAttempt_asks {s : State} {core k v : Nat} {l : Launch} {rest : List Nat} (hc : core < 2048) (hh : (s.core core).halted = false)
    (hv : (s.core core).diverted = false) (hs : (s.core core).steal = none) (hst : (s.core core).stolen = none) (hd : (s.core core).deque = [])
    (ho : s.openSlots core ≠ []) (hi : (s.core core).idle + 64 ≤ s.now) (hl : s.launchOn core = some (k, l)) (hlev : s.levelOf l.ctx ≠ 3)
    (hvs : s.victims core l = v :: rest) :
    ∃ t n, exec (.stealAttempt core) s = .next t ∧ (t.core core).steal = some { launch := k, victims := rest, carried := none, slot := none } ∧
      t.pend = tins s.pend n (.stealRequest core v) ∧ Aside s t [] := by
  have hm := isMem_of_lt hc
  have hnow : ¬ s.now < (s.core core).idle + Config.stealWait := by
    have : Config.stealWait = 64 := rfl
    omega
  have he : exec (.stealAttempt core) s = .next ((s.updCore core (fun c =>
      { c with steal := some { launch := k, victims := rest, carried := none, slot := none }, steals := c.steals + 1 })).after
        (s.flight l.part core v 1) (.stealRequest core v)) := by
    show execStealAttempt core s = _
    have hopen : (s.openSlots core).isEmpty = false := by simpa using ho
    simp only [execStealAttempt, hm, hh, hv, hs, hst, hopen, hd, Option.isSome_none, List.isEmpty_nil, Bool.or_self, Bool.not_true, Bool.false_and,
      Bool.false_eq_true, if_false, hnow, hl, hlev, hvs]
  refine ⟨_, _, he, ?_, rfl, fun _ => rfl, rfl, fun _ _ => rfl⟩
  rw [(OnlyWork.after _ _ _).steal, State.core_updCore, if_pos rfl]

/-- A record of an error log is in its die alone (R415). -/
theorem State.logError_state (s : State) (d code kind unit addr detail : Nat) : ∃ dies, s.logError d code kind unit addr detail = { s with dies := dies } := by
  unfold State.logError
  dsimp only
  split
  · exact ⟨_, rfl⟩
  · exact ⟨_, rfl⟩

theorem State.logUnit_state (s : State) (tid part c : Nat) (place : Place) (u : Nat × Nat) :
    ∃ dies free, s.logUnit tid part c place u = { s with dies := dies, free := free } := by
  unfold State.logUnit
  dsimp only
  obtain ⟨dies, h⟩ := s.logError_state (if u.1 < 4096 then dieOf u.1 else (u.1 - 4096) / 4) u.2 (if u.1 < 4096 then 1 else 2) (u.1 % 4096) 0 _
  rw [h]
  exact ⟨dies, _, rfl⟩

section
variable {s : State} {thief victim : Nat} {a : StealAttempt}

/-- A victim without an entry for the attempt answers "empty", and so does a way that lets no message through (R20, R285). -/
theorem stealRequest_empty (hs : (s.core thief).steal = some a) (hp : s.spillAt victim (s.stealPart thief) (.stealRequest thief victim) = none)
    (h0 : s.levelOf (s.dequeCtx victim) = 0)
    (h : (s.core victim).deque = [] ∨ s.launchAt thief ≠ some a.launch ∨ s.launchAt victim ≠ some a.launch) :
    ∃ t n, exec (.stealRequest thief victim) s = .next t ∧ t.pend = tins s.pend n (.stealReply thief victim false) ∧ t.cores = s.cores ∧ Aside s t [] := by
  have hgot : (if s.launchAt thief ≠ some a.launch ∨ s.launchAt victim ≠ some a.launch ∨ s.levelOf (s.dequeCtx victim) = 3 then none
      else (s.takeTurn (thief * 16 + 15) victim (s.dequeCtx victim) 1).map (fun x => (15, x.1, x.2))) = none := by
    split
    · rfl
    · next hn =>
      obtain ⟨h1, h2, _⟩ := not_or.1 hn |>.imp_right not_or.1
      have hd := h.resolve_right (not_or.2 ⟨h1, h2⟩)
      rw [State.takeTurn_plain h0, hd]
      rfl
  show ∃ t n, execStealRequest thief victim s = .next t ∧ _
  simp only [execStealRequest, hs, hp, State.rollFull_plain h0, State.replaying_plain h0, Bool.false_eq_true, if_false, hgot]
  split
  · next u _ =>
    obtain ⟨dies, free, hu⟩ := s.logUnit_state (thief * 16) (s.stealPart thief) thief (.core victim 0) u
    rw [hu]
    exact ⟨_, _, rfl, rfl, rfl, fun _ => rfl, rfl, fun _ _ => rfl⟩
  · exact ⟨_, _, rfl, rfl, rfl, fun _ => rfl, rfl, fun _ _ => rfl⟩

/-- A victim gives its oldest entry (R20). -/
theorem stealRequest_gives (hne : thief ≠ victim) (hs : (s.core thief).steal = some a)
    (hp : s.spillAt victim (s.stealPart thief) (.stealRequest thief victim) = none) (h0 : s.levelOf (s.dequeCtx victim) = 0)
    {e : DequeEntry} {rest : List DequeEntry} (hd : (s.core victim).deque = e :: rest) (ht : s.launchAt thief = some a.launch)
    (hv : s.launchAt victim = some a.launch) (hr : ∀ back, s.routeFault (s.stealPart thief) thief (.core victim 0) back = none) :
    ∃ t n, exec (.stealRequest thief victim) s = .next t ∧ t.Placed n (.stealReply thief victim true) ∧
      (t.core victim).deque = rest ∧ (t.core thief).steal = some { a with carried := some e, slot := none } ∧ Aside s t [] := by
  have hlev : ¬ s.levelOf (s.dequeCtx victim) = 3 := by rw [h0]; decide
  show ∃ t n, execStealRequest thief victim s = .next t ∧ _
  simp only [execStealRequest, hs, hp, hr, State.rollFull_plain h0, State.replaying_plain h0, ht, hv, hlev, State.takeTurn_plain h0, hd,
    State.noteTake_plain h0, Bool.false_eq_true, if_false, ne_eq, not_true_eq_false, or_self, List.head?_cons, Option.map_some]
  have hw : ∀ v : State, OnlyWork v (if (v.core victim).deque.isEmpty = true ∧ (!(v.core victim).dequeOvf.isEmpty) = true then
      v.afterOnce 1 (.dequeRefill victim) else v) := fun v => .ite (.afterOnce v _ _) (.refl v)
  have hw := hw (s.updCore victim (fun c => { c with deque := removeFirst (fun y => decide (y = e)) c.deque }))
  refine ⟨_, _, rfl, State.placed_after _ _ _, ?_, ?_, ?_⟩
  · rw [(OnlyWork.after _ _ _).deque, State.core_updCore, if_neg (Ne.symm hne), hw.deque, State.core_updCore, if_pos rfl]
    show removeFirst _ (s.core victim).deque = rest
    rw [hd]
    exact removeFirst_head _ _ _ (decide_eq_true rfl)
  · rw [(OnlyWork.after _ _ _).steal, State.core_updCore, if_pos rfl]
  · exact ((Aside.updCore s victim _ []).trans (hw.aside []) (fun _ h => h)).trans ((Aside.updCore _ thief _ []).trans
      ((OnlyWork.after _ _ _).aside []) (fun _ h => h)) (fun _ h => h)

end

/-! ## The reply of a steal -/

section
variable {s : State} {thief victim : Nat} {found : Bool} {a : StealAttempt}

/-- A change of the thief, with a step placed once. -/
theorem placed_at_core (s : State) (c n : Nat) (f : Core → Core) (i : Instr) : let t := (s.updCore c f).afterOnce n i
    (∃ m, t.Placed m i) ∧ t.core c = f (s.core c) ∧ Aside s t [] := by
  refine ⟨State.placed_afterOnce _ _ _, ?_, (Aside.updCore s c f []).trans ((OnlyWork.afterOnce _ _ _).aside []) (fun _ h => h)⟩
  have h := (State.core_updCore s c c f).trans (if_pos rfl)
  unfold State.afterOnce
  split
  · exact h
  · exact h

theorem stealReply_here (hd : (s.core thief).diverted = false) (k : State → State) :
    s.atCore (thief * 16) (.stealReply thief victim found) k = k s := by
  refine s.atCore_here _ _ _ ?_
  rw [show coreOf (thief * 16) = thief from coreOf_slot thief (i := 0) (by decide)]
  exact hd

/-- The stolen entry waits for a free slot of the thief (R20, R21). -/
theorem stealReply_carries (hd : (s.core thief).diverted = false) (hs : (s.core thief).steal = some a) {e : DequeEntry} (he : a.carried = some e)
    (hn : a.slot = none) : ∃ t n, exec (.stealReply thief victim found) s = .next t ∧ (t.core thief).steal = none ∧
      (t.core thief).stolen = some e ∧ t.Placed n (.dequeTake thief) ∧ Aside s t [] := by
  show ∃ t n, execStealReply thief victim found s = .next t ∧ _
  rw [execStealReply, stealReply_here hd]
  simp only [hs, he, hn]
  obtain ⟨⟨m, hp⟩, hc, hA⟩ := placed_at_core s thief 0 (fun c => { c with steal := none, stolen := some e }) (.dequeTake thief)
  have hw := OnlyWork.wakeCore ((s.updCore thief (fun c => { c with steal := none, stolen := some e })).afterOnce 0 (.dequeTake thief)) thief
  refine ⟨_, m, rfl, ?_, ?_, hw.isPlaced hp, hA.trans (hw.aside []) (fun _ h => h)⟩
  · rw [hw.steal, hc]
  · rw [hw.stolen, hc]

/-- An empty reply sends the request on to the next victim (R20). -/
theorem stealReply_goes_on (hd : (s.core thief).diverted = false) (hs : (s.core thief).steal = some a) (he : a.carried = none)
    (hg : s.stealing thief = true) {v : Nat} {rest : List Nat} (hv : a.victims = v :: rest) :
    ∃ t n, exec (.stealReply thief victim found) s = .next t ∧ (t.core thief).steal = some { a with victims := rest, carried := none, slot := none } ∧
      t.Placed n (.stealRequest thief v) ∧ Aside s t [] := by
  show ∃ t n, execStealReply thief victim found s = .next t ∧ _
  rw [execStealReply, stealReply_here hd]
  simp only [hs, he, hg, hv, Bool.not_true, Bool.false_eq_true, if_false]
  refine ⟨_, _, rfl, ?_, State.placed_after _ _ _, (Aside.updCore s thief _ []).trans ((OnlyWork.after _ _ _).aside []) (fun _ h => h)⟩
  rw [(OnlyWork.after _ _ _).steal, State.core_updCore, if_pos rfl]

/-- An attempt whose launch is over ends (R20). -/
theorem stealReply_over (hd : (s.core thief).diverted = false) (hs : (s.core thief).steal = some a) (he : a.carried = none)
    (hg : s.stealing thief = false) : ∃ t n, exec (.stealReply thief victim found) s = .next t ∧ (t.core thief).steal = none ∧
      t.Placed n (.stealAttempt thief) ∧ Aside s t [] := by
  show ∃ t n, execStealReply thief victim found s = .next t ∧ _
  rw [execStealReply, stealReply_here hd]
  simp only [hs, he, hg, Bool.not_false, if_true]
  obtain ⟨⟨m, hp⟩, hc, hA⟩ := placed_at_core s thief 0 (fun c => { c with steal := none }) (.stealAttempt thief)
  exact ⟨_, m, rfl, by rw [hc], hp, hA⟩

/-- After the last victim the count of idle cycles begins again (R20). -/
theorem stealReply_last (hd : (s.core thief).diverted = false) (hs : (s.core thief).steal = some a) (he : a.carried = none)
    (hg : s.stealing thief = true) (hv : a.victims = []) : ∃ t n, exec (.stealReply thief victim found) s = .next t ∧ (t.core thief).steal = none ∧
      (t.core thief).idle = s.now ∧ t.Placed n (.stealAttempt thief) ∧ Aside s t [] := by
  show ∃ t n, execStealReply thief victim found s = .next t ∧ _
  rw [execStealReply, stealReply_here hd]
  simp only [hs, he, hg, hv, Bool.not_true, Bool.false_eq_true, if_false]
  obtain ⟨⟨m, hp⟩, hc, hA⟩ := placed_at_core s thief Config.stealWait (fun c => { c with steal := none, idle := s.now }) (.stealAttempt thief)
  exact ⟨_, m, rfl, by rw [hc], by rw [hc], hp, hA⟩

end

end Sys2Proof.Machine
end

section
open Sys2Proof Sys2Proof.Machine

/-- Settles O38: the slot, the entry and the victim that each step finds are read off, and what it changes is its core and its own work. -/
theorem workSteps : Obligations.WorkSteps := by
  unfold Obligations.WorkSteps
  refine ⟨?lent, ?take, ?attempt, ?request, ?reply⟩
  case lent =>
    intro s core i ok hl hi ho hn h hf
    exact lentCycle_lends ho hn (State.lentSlot_first (fun _ => Iff.rfl) hl hi h hf)
  case take =>
    intro s core i e rest hc hh hv hheld hst hd h0 hi ho hj
    obtain ⟨t, he, hr, hE⟩ := dequeTake_enters hc hh hv hheld hst hd h0 hi ho hj
    exact ⟨t, he, hr, hE.occupied, hE.pc, hE.lti, hE.launch, hE.level, hE.epoch, hE.split, hE.continuation⟩
  case attempt =>
    intro s core k v l rest hc hh hv hs hst hd ho hi hl hlev hvs
    exact stealAttempt_asks hc hh hv hs hst hd ho hi hl hlev hvs
  case request =>
    intro s thief victim a hne hs hp h0
    exact ⟨stealRequest_empty hs hp h0, fun e rest hd ht hv hr => stealRequest_gives hne hs hp h0 hd ht hv hr⟩
  case reply =>
    intro s thief victim found a hd hs
    exact ⟨fun e he hn => stealReply_carries hd hs he hn, fun v rest he hg hv => stealReply_goes_on hd hs he hg hv, stealReply_over hd hs,
      stealReply_last hd hs⟩

end

section
/-!
O39: the proctor of a die, whose requests wait in its list, and the refill of a deque (R18, R327, R413); and the event records that a unit holds (R330).
-/

namespace Sys2Proof.Machine

theorem OnlyWork.threads {s t : State} (h : OnlyWork s t) : t.threads = s.threads := by rw [h.state]

/-- A change of one die leaves memory and threads. -/
theorem Aside.updDie (s : State) (d : Nat) (f : Die → Die) (l : List Nat) : Aside s (s.updDie d f) l := ⟨fun _ => rfl, rfl, fun _ _ => rfl⟩

/-- An emptied deque takes the oldest overflow entries (R18). -/
theorem dequeRefill_refills {s : State} {core : Nat} (hd : (s.core core).deque = []) (ho : (s.core core).dequeOvf ≠ [])
    (hv : (s.core core).diverted = false) :
    ∃ t, exec (.dequeRefill core) s = .next t ∧ (t.core core).deque = (s.core core).dequeOvf.take (64 - s.spawning core) ∧
      (t.core core).dequeOvf = (s.core core).dequeOvf.drop (64 - s.spawning core) ∧ Aside s t [] := by
  have he : exec (.dequeRefill core) s = .next ((s.updCore core (fun c =>
      { c with deque := c.dequeOvf.take (64 - s.spawning core), dequeOvf := c.dequeOvf.drop (64 - s.spawning core) })).coreWork core) := by
    have hne : (s.core core).dequeOvf.isEmpty = false := by simpa using ho
    show execDequeRefill core s = _
    simp only [execDequeRefill, hd, hv, hne, List.isEmpty_nil, Bool.not_true, Bool.or_self, Bool.false_eq_true, if_false]
    rfl
  have hw := OnlyWork.coreWork (s.updCore core (fun c =>
    { c with deque := c.dequeOvf.take (64 - s.spawning core), dequeOvf := c.dequeOvf.drop (64 - s.spawning core) })) core
  refine ⟨_, he, ?_, ?_, (Aside.updCore s core _ []).trans (hw.aside []) (fun _ h => h)⟩
  · rw [hw.deque, State.core_updCore, if_pos rfl]
  · rw [hw.dequeOvf, State.core_updCore, if_pos rfl]

/-- A die's list with one request more, and the next free value. -/
def State.asked (s : State) (die : Nat) (r : Resource) : State := (s.updDie die (fun d => { d with resources := d.resources ++ [r] })).nextFree

theorem State.asked_resources (s : State) (die : Nat) (r : Resource) : ((s.asked die r).die die).resources = (s.die die).resources ++ [r] :=
  congrArg Die.resources ((State.die_updDie s die die (fun d => { d with resources := d.resources ++ [r] })).trans (if_pos rfl))

theorem Aside.asked (s : State) (die : Nat) (r : Resource) (l : List Nat) : Aside s (s.asked die r) l := ⟨fun _ => rfl, rfl, fun _ _ => rfl⟩

/-- A request joins its die's list, and the proctor's next step is placed or more memory asked for (R327). -/
theorem resourceRequest_joins (s : State) (die kind addr : Nat) (tid : Option Nat) : ∃ t, exec (.resourceRequest die kind addr tid) s = .next t ∧
    (t.die die).resources = (s.die die).resources ++ [{ kind := kind, addr := addr, tid := tid, waits := Config.overflowFull s.free }] ∧
    (Config.overflowFull s.free = false → ∃ n, t.Placed n (.proctorProxyComplete die)) ∧
    (Config.overflowFull s.free = true → t.hostOut = s.hostOut ++ [(3, BitVec.ofNat 64 die)]) ∧ Aside s t [] := by
  have hr := s.asked_resources die { kind := kind, addr := addr, tid := tid, waits := Config.overflowFull s.free }
  have hA := Aside.asked s die { kind := kind, addr := addr, tid := tid, waits := Config.overflowFull s.free } []
  show ∃ t, execResourceRequest die kind addr tid s = .next t ∧ _
  unfold execResourceRequest
  dsimp only
  rw [← State.asked]
  split
  · next h => exact ⟨_, rfl, hr, fun hc => absurd (h.symm.trans hc) (by decide), fun _ => rfl, hA⟩
  · next h =>
    refine ⟨_, rfl, ?_, fun _ => State.placed_afterOnce _ _ _, fun hc => absurd hc h, hA.trans ((OnlyWork.afterOnce _ _ _).aside []) (fun _ h => h)⟩
    rw [(OnlyWork.afterOnce _ _ _).die, hr]

theorem resourceRestart_wakes {s : State} {tid : Nat} (h : (s.thread tid).park = some .restart) :
    ∃ t, exec (.resourceRestart tid) s = .next t ∧ t.thread tid = { s.thread tid with park := none } ∧ Aside s t [tid] := by
  have he : exec (.resourceRestart tid) s = .next (s.wake tid) := by
    show execResourceRestart tid s = _
    rw [execResourceRestart, if_pos h]
  exact ⟨_, he, by rw [State.thread_wake, if_pos rfl], Aside.wake s tid⟩

/-- A proctor whose firmware is not ready serves nothing (R413). -/
theorem proctorProxyComplete_not_ready {s : State} {die : Nat} (h : (s.die die).fwStat ≠ 3) : exec (.proctorProxyComplete die) s = .next s := by
  show execProctorProxyComplete die s = _
  simp only [execProctorProxyComplete, h, if_false]

/-- A request at the head of its list that waits for no memory is the one to serve (R327). -/
theorem State.servable_head (s : State) (r : Resource) (rest : List Resource) (h : r.waits = false) : s.servable (r :: rest) = some r := by
  simp only [State.servable, State.servable.go, h, List.any_nil, Bool.or_self, Bool.false_eq_true, if_false]

/-- The 32 oldest entries of a full deque, moved out (R18). -/
def State.roomMade (s : State) (c : Nat) : State := if s.dequeFull c then s.updCore c Core.makeRoom else s

theorem State.roomMade_full {s : State} {c : Nat} (h : s.dequeFull c = true) :
    ((s.roomMade c).core c).deque = (s.core c).deque.drop 32 ∧ ((s.roomMade c).core c).dequeOvf = (s.core c).dequeOvf ++ (s.core c).deque.take 32 := by
  unfold State.roomMade
  rw [if_pos h, State.core_updCore, if_pos rfl]
  exact ⟨rfl, rfl⟩

theorem State.roomMade_cores {s : State} {c : Nat} (h : s.dequeFull c = false) : (s.roomMade c).cores = s.cores := by
  rw [State.roomMade, if_neg (by rw [h]; decide)]

theorem State.roomMade_dies (s : State) (c : Nat) : (s.roomMade c).dies = s.dies := by
  unfold State.roomMade
  split <;> rfl

theorem Aside.roomMade (s : State) (c : Nat) (l : List Nat) : Aside s (s.roomMade c) l := by
  unfold State.roomMade
  split
  · exact .updCore _ _ _ _
  · exact .refl _ _

/-- A die's list without its oldest request, and room made in the deque of a core. -/
def State.roomServed (s : State) (die c : Nat) (rest : List Resource) : State := (s.updDie die (fun d => { d with resources := rest })).roomMade c

/-- A step that is placed and leaves the cores as they are. -/
structure PlacedOnly (s t : State) : Prop where
  work : OnlyWork s t
  cores : t.cores = s.cores

theorem PlacedOnly.after (s : State) (n : Nat) (i : Instr) : PlacedOnly s (s.after n i) := ⟨.after s n i, rfl⟩
theorem PlacedOnly.afterOnce (s : State) (n : Nat) (i : Instr) : PlacedOnly s (s.afterOnce n i) := ⟨.afterOnce s n i, s.afterOnce_cores n i⟩
theorem PlacedOnly.trans {s t u : State} (h1 : PlacedOnly s t) (h2 : PlacedOnly t u) : PlacedOnly s u :=
  ⟨h1.work.trans h2.work, h2.cores.trans h1.cores⟩
theorem PlacedOnly.ite {s t u : State} {c : Prop} {_ : Decidable c} (h1 : PlacedOnly s t) (h2 : PlacedOnly s u) : PlacedOnly s (if c then t else u) := by
  split <;> assumption
theorem PlacedOnly.refl (s : State) : PlacedOnly s s := ⟨.refl s, rfl⟩

/-- The proctor serves the request of a thread that found its core's deque full: it makes room, and the thread is started again (R18, R327). -/
theorem proctorProxyComplete_makes_room {s : State} {die : Nat} {r : Resource} {rest : List Resource} {tid : Nat} (hf : (s.die die).fwStat = 3)
    (hl : (s.die die).resources = r :: rest) (hw : r.waits = false) (hk : r.kind = 1) (ht : r.tid = some tid) (hp : (s.thread tid).phase ≠ .done) :
    ∃ t n, exec (.proctorProxyComplete die) s = .next t ∧ (t.die die).resources = rest ∧
      (s.dequeFull r.addr = true → (t.core r.addr).deque = (s.core r.addr).deque.drop 32 ∧
        (t.core r.addr).dequeOvf = (s.core r.addr).dequeOvf ++ (s.core r.addr).deque.take 32) ∧
      (s.dequeFull r.addr = false → t.cores = s.cores) ∧ t.Placed n (.resourceRestart tid) ∧ Aside s t [] := by
  have he : ∃ t n, exec (.proctorProxyComplete die) s = .next t ∧
      PlacedOnly ((s.roomServed die r.addr rest).after n (.resourceRestart tid)) t := by
    show ∃ t n, execProctorProxyComplete die s = .next t ∧ _
    simp only [execProctorProxyComplete, hf, if_true, hl, State.servable_head s r rest hw, List.erase_cons_head, hk, ht, hp, false_and, if_false]
    refine ⟨_, s.proctorTrip tid, rfl, ?_⟩
    exact .ite (.ite (.afterOnce _ _ _) (.refl _)) ((PlacedOnly.ite (.afterOnce _ _ _) (.refl _)).trans (.afterOnce _ _ _))
  obtain ⟨t, n, hx, hP⟩ := he
  have hP1 := (PlacedOnly.after (s.roomServed die r.addr rest) n (.resourceRestart tid)).trans hP
  refine ⟨t, _, hx, ?_, fun h => ?_, fun h => ?_, hP.work.isPlaced (State.placed_after _ _ _), ?_⟩
  · rw [hP1.work.die]
    unfold State.die
    rw [State.roomServed, State.roomMade_dies]
    exact congrArg Die.resources ((State.die_updDie s die die _).trans (if_pos rfl))
  · rw [hP1.work.deque, hP1.work.dequeOvf]
    exact State.roomMade_full (s := s.updDie die (fun d => { d with resources := rest })) h
  · rw [hP1.cores]
    exact State.roomMade_cores (s := s.updDie die (fun d => { d with resources := rest })) h
  · exact ((Aside.updDie s die _ []).trans (.roomMade _ _ []) (fun _ h => h)).trans (hP1.work.aside []) (fun _ h => h)

/-- A grant ends the wait of every request of its die (R327). -/
theorem overflowMemoryGrant_grants (s : State) (die amount : Nat) : ∃ t, exec (.overflowMemoryGrant die amount) s = .next t ∧
    (t.die die).memory = (s.die die).memory + amount ∧ (∀ r ∈ (t.die die).resources, r.waits = false) ∧ Aside s t [] := by
  have hw : ∀ u, OnlyWork u (if (s.die die).resources.isEmpty = true then u else u.afterOnce 1 (.proctorProxyComplete die)) :=
    fun u => .ite (.refl u) (.afterOnce u _ _)
  have hw := hw (s.updDie die (fun d => { d with memory := d.memory + amount, resources := d.resources.map (fun r => { r with waits := false }) }))
  refine ⟨_, rfl, ?_, ?_, (Aside.updDie s die _ []).trans (hw.aside []) (fun _ h => h)⟩
  · rw [hw.die, State.die_updDie, if_pos rfl]
  · rw [hw.die, State.die_updDie, if_pos rfl]
    intro r hr
    obtain ⟨x, _, rfl⟩ := List.mem_map.1 hr
    rfl

/-- One held event record is written where the event queue has room (R330). -/
theorem eventRetry_writes {s : State} {die : Nat} {e : List Byte} (h : (s.die die).events = [e]) (hl : e.length = 32) (hf : (s.die die).eq.full = false) :
    ∃ t, exec (.eventRetry die) s = .next t ∧ (t.die die).events = [] ∧ (t.die die).eq.head = (s.die die).eq.head + 1 ∧
      (∀ i, i < 32 → t.byte ((s.die die).eq.slot 32 + i) = e.getD i 0) ∧
      (∀ a, a < (s.die die).eq.slot 32 ∨ (s.die die).eq.slot 32 + 32 ≤ a → t.byte a = s.byte a) := by
  have he : exec (.eventRetry die) s = .next (((s.poke ((s.die die).eq.slot 32) e).updDie die (fun x =>
      { x with eq := { (s.die die).eq with head := (s.die die).eq.head + 1, irq := true } })).updDie die (fun x => { x with events := [] })) := by
    show execEventRetry die s = _
    simp only [execEventRetry, State.flushEvents, h, State.flushEvents.go, hf, Bool.false_eq_true, if_false]
  refine ⟨_, he, ?_, ?_, fun i hi => ?_, fun a ha => ?_⟩
  · rw [State.die_updDie, if_pos rfl]
  · rw [State.die_updDie, if_pos rfl, State.die_updDie, if_pos rfl]
  · rw [State.updDie_byte, State.updDie_byte, State.byte_poke, if_pos (by omega), Nat.add_sub_cancel_left]
  · rw [State.updDie_byte, State.updDie_byte, State.byte_poke, if_neg (by omega)]

end Sys2Proof.Machine
end

section
open Sys2Proof Sys2Proof.Machine

/-- Settles O39: each step's own branch is read off; what it changes is one die's list or one core's deque, and the hardware's own work. -/
theorem proctorSteps : Obligations.ProctorSteps := by
  unfold Obligations.ProctorSteps
  refine ⟨fun s core hd ho hv => dequeRefill_refills hd ho hv, resourceRequest_joins, fun s tid h => resourceRestart_wakes h,
    fun s die h => proctorProxyComplete_not_ready h, fun s die r rest tid hf hl hw hk ht hp => proctorProxyComplete_makes_room hf hl hw hk ht hp,
    overflowMemoryGrant_grants, fun s die e rest h hr hl hf => ?_⟩
  subst hr
  exact eventRetry_writes h hl hf

end

section
/-!
What a write at a home, and the command processor's own writes, leave as they were: launches but for the groups they have touched, the sequence
numbers of contexts, the launches of threads, the packets at the queues' heads and the work placed (R43, R119, R137, R340).
-/

namespace Sys2Proof.Machine

/-- A queue after a change of one. -/
theorem State.queue_updQueue (s : State) (n i m j : Nat) (f : Queue → Queue) :
    (s.updQueue n i f).queue m j = if m = n ∧ j = i then (s.queue n i).map f else s.queue m j := by
  unfold State.queue State.updQueue State.updPart
  dsimp only
  rw [tfind_tmod]
  by_cases hm : m = n
  · subst hm
    rw [if_pos rfl]
    cases tfind s.parts m with
    | none => simp
    | some p =>
      show tfind (tmod p.queues i f) j = _
      rw [tfind_tmod]
      simp
  · rw [if_neg hm, if_neg (fun h => hm h.1)]

/-- The packet at a queue's head and its place. -/
def Queue.head (q : Queue) : Word × Option (List Byte) := (q.read, q.packet)

/-- State `s`, reached from `a`, has the launches, numbers, threads' launches, queue heads and placed work of `a`. -/
structure Landed (a s : State) : Prop where
  gone : ∀ k, tfind a.launches k = none → tfind s.launches k = none
  one : ∀ k r, a.launches = [(k, r)] → ∃ w, s.launches = [(k, { r with touched := w })]
  seq : ∀ c, (s.ctx c).seq = (a.ctx c).seq
  launch : ∀ u, (s.thread u).launch = (a.thread u).launch
  heads : ∀ n i, (s.queue n i).map Queue.head = (a.queue n i).map Queue.head
  pend : ∀ e ∈ a.pend, e ∈ s.pend

namespace Landed

variable {a s t : State}

theorem refl (a : State) : Landed a a := ⟨fun _ h => h, fun _ r h => ⟨r.touched, h⟩, fun _ => rfl, fun _ => rfl, fun _ _ => rfl, fun _ h => h⟩

theorem trans {b : State} (h1 : Landed a s) (h2 : Landed s b) : Landed a b where
  gone k h := h2.gone k (h1.gone k h)
  one k r h := by
    obtain ⟨w, hw⟩ := h1.one k r h
    obtain ⟨v, hv⟩ := h2.one k _ hw
    exact ⟨v, hv⟩
  seq c := (h2.seq c).trans (h1.seq c)
  launch u := (h2.launch u).trans (h1.launch u)
  heads n i := (h2.heads n i).trans (h1.heads n i)
  pend e h := h2.pend e (h1.pend e h)

/-- A state that differs elsewhere. -/
theorem same (h : Landed a s) (hl : t.launches = s.launches) (hc : t.ctxs = s.ctxs) (ht : t.threads = s.threads) (hp : t.parts = s.parts)
    (hd : ∀ e ∈ s.pend, e ∈ t.pend) : Landed a t :=
  h.trans ⟨fun k hk => hl ▸ hk, fun k r hr => ⟨r.touched, hl.trans hr⟩, fun c => by unfold State.ctx; rw [hc], fun u => by unfold State.thread; rw [ht],
    fun n i => by unfold State.queue; rw [hp], hd⟩

theorem ite {c : Prop} {_ : Decidable c} (hs : Landed a s) (ht : Landed a t) : Landed a (if c then s else t) := by
  split <;> assumption

theorem foldl {α : Type} {f : State → α → State} {l : List α} (h : Landed a s) (hf : ∀ s, Landed a s → ∀ x, Landed a (f s x)) :
    Landed a (l.foldl f s) := by
  induction l generalizing s with
  | nil => exact h
  | cons x l ih => exact ih (hf s h x)

/-! ## Parts of the state, and later work -/

theorem setCore {c v} (h : Landed a s) : Landed a (s.setCore c v) := h.same rfl rfl rfl rfl (fun _ h => h)
theorem updCore {c f} (h : Landed a s) : Landed a (s.updCore c f) := h.setCore
theorem setDie {d v} (h : Landed a s) : Landed a (s.setDie d v) := h.same rfl rfl rfl rfl (fun _ h => h)
theorem updDie {d f} (h : Landed a s) : Landed a (s.updDie d f) := h.setDie
theorem setSlice {x v} (h : Landed a s) : Landed a (s.setSlice x v) := h.same rfl rfl rfl rfl (fun _ h => h)
theorem updSlice {x f} (h : Landed a s) : Landed a (s.updSlice x f) := h.setSlice
theorem nextFree (h : Landed a s) : Landed a s.nextFree := h.same rfl rfl rfl rfl (fun _ h => h)

theorem work (h : Landed a s) (hw : OnlyWork s t) : Landed a t :=
  h.same (by rw [hw.state]) (by rw [hw.state]) (by rw [hw.state]) (by rw [hw.state]) hw.placed

theorem after {n i} (h : Landed a s) : Landed a (s.after n i) := h.work (.after s n i)
theorem afterOnce {n i} (h : Landed a s) : Landed a (s.afterOnce n i) := h.work (.afterOnce s n i)

theorem updThread {u f} (h : Landed a s) (hf : ∀ x : Thread, (f x).launch = x.launch := by exact fun _ => rfl) : Landed a (s.updThread u f) := by
  refine h.trans ⟨fun _ h => h, fun _ r h => ⟨r.touched, h⟩, fun _ => rfl, fun v => ?_, fun _ _ => rfl, fun _ h => h⟩
  rw [State.thread_updThread]
  split
  · next e => rw [e]; exact hf _
  · rfl

theorem updCtx {c f} (h : Landed a s) (hf : ∀ x : Ctx, (f x).seq = x.seq := by exact fun _ => rfl) : Landed a (s.updCtx c f) := by
  refine h.trans ⟨fun _ h => h, fun _ r h => ⟨r.touched, h⟩, fun d => ?_, fun _ => rfl, fun _ _ => rfl, fun _ h => h⟩
  rw [State.ctx_updCtx]
  split
  · next e => rw [e]; exact hf _
  · rfl

theorem wake {u} (h : Landed a s) : Landed a (s.wake u) := by
  obtain ⟨x, rfl | rfl, hw⟩ := s.wake_eq u
  · exact h.work hw
  · exact h.updThread.work hw

/-- Bytes written, of which a scratchpad's mark its regions. -/
theorem poke {k l} (h : Landed a s) : Landed a (s.poke k l) :=
  .ite (h.same rfl rfl rfl rfl (fun _ h => h)) (h.same rfl rfl rfl rfl (fun _ h => h))

theorem flushEvents_go {d l} (h : Landed a s) : Landed a (State.flushEvents.go d l s) := by
  induction l generalizing s with
  | nil => exact h.updDie
  | cons r rest ih => exact .ite h.updDie.afterOnce (ih h.poke.updDie)

theorem flushEvents {d} (h : Landed a s) : Landed a (s.flushEvents d) := by
  unfold State.flushEvents
  split
  · exact h
  · exact h.flushEvents_go

theorem postEvent {d source code extra who payload} (h : Landed a s) : Landed a (s.postEvent d source code extra who payload) :=
  flushEvents h.updDie

theorem logError {d code kind unit addr detail} (h : Landed a s) : Landed a (s.logError d code kind unit addr detail) := .ite h.updDie h.updDie

/-! ## The order roll -/

theorem record {c r} (h : Landed a s) : Landed a (s.record c r) := h.updCtx.afterOnce
theorem note {t typ op ord val obj} (h : Landed a s) : Landed a (s.note t typ op ord val obj) := .ite h.record h
theorem unqueue {c idx} (h : Landed a s) : Landed a (s.unqueue c idx) := .foldl h.updCtx (fun _ h1 _ => h1.wake)

theorem noteWrite {t key rel ord rmw} (h : Landed a s) : Landed a (s.noteWrite t key rel ord rmw) :=
  .ite (.ite (h.same rfl rfl rfl rfl (fun _ h => h)) (.ite h (h.same rfl rfl rfl rfl (fun _ h => h)))) h

theorem takeOut {r c typ} (h : Landed a s) : Landed a (State.served.takeOut r c typ s) := by
  unfold State.served.takeOut
  split
  · exact h.unqueue
  · exact h

theorem served {r key val} (h : Landed a s) : Landed a (s.served r key val) := by
  unfold State.served
  split
  · exact h
  · exact .ite (.ite h.note.note h.note) (.ite (.ite h.takeOut.takeOut h.takeOut) h)

/-! ## Replies and waiters -/

theorem updReq {id f} (h : Landed a s) : Landed a (s.updReq id f) := h.same rfl rfl rfl rfl (fun _ h => h)

theorem reply {r0} (h : Landed a s) : Landed a (s.reply r0) := by
  unfold State.reply
  refine after (updReq ?_)
  split
  · exact h.logError.nextFree
  · exact h

theorem endWait {key w} (h : Landed a s) : Landed a (s.endWait key w) := by
  unfold State.endWait
  split
  · split
    · exact h.served.reply
    · exact h
  · split
    · exact h.after
    · exact h
  · split
    · exact h.after
    · exact h

/-- A waiter that waits no more. -/
theorem dropWaiter {p : Nat × Waiter → Bool} (h : Landed a s) : Landed a { s with waiters := s.waiters.filter p } :=
  h.same rfl rfl rfl rfl (fun _ h => h)

theorem wakeWaiters {key} (h : Landed a s) : Landed a (s.wakeWaiters key) := by
  refine .foldl h (fun s h1 w => ?_)
  split
  · exact .ite h1 h1.dropWaiter.endWait
  · exact h1.dropWaiter.endWait

/-! ## Bytes that land (R43, R119, R120) -/

theorem setFull {word} (h : Landed a s) : Landed a (s.setFull word) := .ite (h.same rfl rfl rfl rfl (fun _ h => h)) h
theorem setEmpty {word} (h : Landed a s) : Landed a (s.setEmpty word) := h.same rfl rfl rfl rfl (fun _ h => h)
theorem breakResv {granule own} (h : Landed a s) : Landed a (s.breakResv granule own) :=
  .foldl h (fun _ h1 _ => h1.updThread.wake)
theorem updateCopy {c key l} (h : Landed a s) : Landed a (s.updateCopy c key l) := .ite h.updCore h
theorem dropWt {key own} (h : Landed a s) : Landed a (s.dropWt key own) := .ite (h.same rfl rfl rfl rfl (fun _ h => h)) h
theorem evictSI {c key} (h : Landed a s) : Landed a (s.evictSI c key) := .ite h.updCore h
theorem putRaw {key l} (h : Landed a s) : Landed a (s.putRaw key l) := .ite h.poke (h.poke.same rfl rfl rfl rfl (fun _ h => h))
theorem putBytes {key l} (h : Landed a s) : Landed a (s.putBytes key l) := putRaw (.ite h (h.same rfl rfl rfl rfl (fun _ h => h)))

theorem doSync {r word} (h : Landed a s) : Landed a (s.doSync r word) := by
  unfold State.doSync
  extract_lets
  split
  · exact h.served.evictSI.setEmpty.breakResv.reply
  · extract_lets s0 s1
    have h1 : Landed a s1 := h.served.noteWrite.dropWt.putBytes.updateCopy.setFull.breakResv
    exact reply (.ite h1.wakeWaiters h1.wakeWaiters.wakeWaiters)
  · exact h.served.evictSI.reply

theorem admitSync {v} (h : Landed a s) : Landed a (s.admitSync v) := by
  unfold State.admitSync
  refine .ite ?_ h
  split
  · split
    · exact h.same rfl rfl rfl rfl (fun _ h => h)
    · exact h
  · exact h

theorem serveWord_go {word l} (h : Landed a s) : Landed a (State.serveWord.go word l s) := by
  have hout : ∀ {s id}, Landed a s → Landed a (State.serveWord.out s id) := fun h => h.same rfl rfl rfl rfl (fun _ h => h)
  induction l generalizing s with
  | nil => exact h
  | cons e rest ih =>
    unfold State.serveWord.go
    split
    · exact ih (hout h)
    · exact .ite (ih (hout h).doSync.admitSync) h

theorem landed {key len} (h : Landed a s) : Landed a (s.landed key len) := by
  unfold State.landed
  extract_lets words s1 s2
  have h2 : Landed a s2 := .foldl (.foldl h (fun _ h1 _ => h1.setFull.serveWord_go)) (fun _ h2 _ => h2.breakResv)
  exact .ite h2 (.foldl (.foldl h2 (fun _ h3 _ => h3.wakeWaiters)) (fun _ h4 _ => .ite h4 h4.wakeWaiters))

theorem bankWrite {key l} (h : Landed a s) : Landed a (s.bankWrite key l) := h.putBytes.landed

theorem eccRead {key len detail} (h : Landed a s) : Landed a (s.eccRead key len detail) := by
  refine .foldl h (fun s h1 e => ?_)
  extract_lets u
  split
  · exact h1
  · exact logError (h1.same rfl rfl rfl rfl (fun _ h => h))
  · exact h1.logError

/-! ## Lines taken back, and words of a home (R39, R145, R168) -/

/-- The groups that a launch has touched are noted in its entry. -/
theorem touched {n g} (h : Landed a s) : Landed a { s with launches := tmod s.launches n (fun l => { l with touched := l.touched ||| groupBit g }) } := by
  refine h.trans ⟨fun k hk => ?_, fun k r hr => ?_, fun _ => rfl, fun _ => rfl, fun _ _ => rfl, fun _ h => h⟩
  · show tfind (tmod s.launches n _) k = none
    rw [tfind_tmod]
    split
    · next e => rw [← e, hk]; rfl
    · exact hk
  · show ∃ w, tmod s.launches n _ = _
    rw [hr]
    by_cases hk : k = n
    · subst hk
      exact ⟨r.touched ||| groupBit g, by simp [tmod, tfind, tset, terase, tins]⟩
    · exact ⟨r.touched, by simp [tmod, tfind, hk]⟩

theorem touch {t g} (h : Landed a s) : Landed a (s.touch t g) := by
  unfold State.touch
  extract_lets s1
  have h1 : Landed a s1 := h.updThread
  split
  · exact h1.touched
  · exact h1

theorem writeBack {l} (h : Landed a s) : Landed a (s.writeBack l) :=
  .ite (.foldl (.foldl (.foldl h (fun _ h1 _ => h1.touch)) (fun _ h2 _ => h2.putRaw)) (fun _ h3 _ => h3.landed)) h
theorem dropLine {c key p} (h : Landed a s) : Landed a (s.dropLine c key p) := .foldl h.updCore (fun _ h1 _ => h1.writeBack)
theorem recalls {key write own} (h : Landed a s) : Landed a (s.recall key write own) := .foldl h (fun _ h1 _ => h1.dropLine)
theorem forget {key len} (h : Landed a s) : Landed a (s.forget key len) := .ite h (h.same rfl rfl rfl rfl (fun _ h => h))
theorem combineWord {slice key aop} (h : Landed a s) : Landed a (s.combineWord slice key aop) := .ite h h.updSlice.bankWrite
theorem combineLine {slice key aop} (h : Landed a s) : Landed a (s.combineLine slice key aop) :=
  .foldl (.foldl h (fun _ h1 _ => h1.combineWord)) (fun _ h2 _ => h2.updCore)
theorem combineRange {pg va n} (h : Landed a s) : Landed a (s.combineRange pg va n) := .ite (.foldl h (fun _ h1 _ => h1.combineLine)) h
theorem homeRead {key n} (h : Landed a s) : Landed a (s.homeRead key n).2 := eccRead (.foldl h (fun _ h1 _ => h1.recalls))
theorem homeWrite {key l} (h : Landed a s) : Landed a (s.homeWrite key l) := bankWrite (forget (.foldl h (fun _ h1 _ => h1.recalls)))

/-! ## Translations, faults and counters of pages (R361, R364, R366) -/

theorem cacheWalk {pg va ctx ready} (h : Landed a s) : Landed a (s.cacheWalk pg va ctx ready) :=
  .ite h (updSlice (.ite h (h.same rfl rfl rfl rfl (fun _ h => h))))

theorem walked {ctx va ev} {k : State → State} (h : Landed a s) (hk : ∀ s, Landed a s → Landed a (k s)) : Landed a (s.walked ctx va ev k) := by
  unfold State.walked
  split
  · exact hk _ h
  · exact .ite (hk _ h) h.cacheWalk.after

theorem writeFault {slice block} (h : Landed a s) : Landed a (s.writeFault slice block) := by
  unfold State.writeFault
  extract_lets d
  split
  · exact h
  · exact .ite h.afterOnce h.poke.updDie.updSlice

theorem parkFault {slice va cause who item} (h : Landed a s) : Landed a (s.parkFault slice va cause who item) :=
  .ite h.setSlice (.ite h.setSlice h.updDie.updSlice.writeFault)

theorem countPage {slice va pg from_} (h : Landed a s) : Landed a (s.countPage slice va pg from_) := by
  unfold State.countPage
  extract_lets d mctl m x page free least slot t f q
  refine .ite h ?_
  clear_value slot
  cases slot with
  | none => exact h
  | some i => exact .ite h.updSlice (.ite h.updSlice (.ite h.updSlice.updDie h.poke.updSlice.updDie))

theorem logHome {va slice detail} (h : Landed a s) : Landed a (s.logHome va slice detail) := by
  unfold State.logHome
  split
  · exact .ite h.logError h.logError
  · exact h.logError

/-- What an agent meets at an address, from a state. -/
def Meets (a : State) : Reach → Prop
  | .miss _ => True
  | .bad s => Landed a s
  | .ok _ s => Landed a s

theorem Meets.bad {x : Reach} (h : Meets a x) (e : x = .bad t) : Landed a t := by
  subst e
  exact h

theorem Meets.ok {x : Reach} {l : List Byte} (h : Meets a x) (e : x = .ok l t) : Landed a t := by
  subst e
  exact h

theorem Meets.ite {x y : Reach} {c : Prop} {_ : Decidable c} (hx : Meets a x) (hy : Meets a y) : Meets a (if c then x else y) := by
  split <;> assumption

theorem globalWrite {die va l} (h : Landed a s) : Meets a (s.globalWrite die va l) := by
  unfold State.globalWrite
  split
  · exact trivial
  · exact .ite (show Meets a (.miss 1) from trivial) (.ite (show Meets a (.bad _) from h.logHome)
      (show Meets a (.ok _ _) from h.countPage.combineRange.homeWrite))

theorem signal {die va} (h : Landed a s) : Meets a (s.signal die va) := by
  unfold State.signal
  split
  · exact trivial
  · exact .ite (show Meets a (.miss 1) from trivial) (.ite (show Meets a (.bad _) from h.logHome) (.ite (show Meets a (.bad _) from h.eccRead)
      (show Meets a (.ok _ _) from h.countPage.homeRead.homeWrite)))

/-! ## The command processor's writes (R340) -/

theorem cpReady {part va ev} {k : State → State} (h : Landed a s) (hk : ∀ s, Landed a s → Landed a (k s)) : Landed a (s.cpReady part va ev k) := by
  unfold State.cpReady
  split
  · exact hk _ h
  · exact .ite h.after (h.walked hk)

theorem parkCp {part va cause kind item} (h : Landed a s) : Landed a (s.parkCp part va cause kind item) := by
  unfold State.parkCp
  split
  · exact h
  · exact .ite h h.parkFault

theorem pollQueue {part queue} (h : Landed a s) : Landed a (s.pollQueue part queue) := by
  unfold State.pollQueue
  split
  · exact .ite h h.afterOnce
  · exact h

/-- A queue changed elsewhere than at its head. -/
theorem updQueue {n i f} (h : Landed a s) (hf : ∀ q : Queue, (f q).head = q.head := by exact fun _ => rfl) : Landed a (s.updQueue n i f) := by
  refine h.trans ⟨fun _ h => h, fun _ r h => ⟨r.touched, h⟩, fun _ => rfl, fun _ => rfl, fun m j => ?_, fun _ h => h⟩
  rw [State.queue_updQueue]
  split
  · next e =>
    obtain ⟨rfl, rfl⟩ := e
    cases s.queue m j with
    | none => rfl
    | some q => exact congrArg some (hf q)
  · rfl

theorem flushQueue {part queue n} (h : Landed a s) : Landed a (s.flushQueue part queue n) := by
  induction n generalizing s with
  | zero => exact h
  | succ n ih =>
    unfold State.flushQueue
    split
    · exact h
    · split
      · exact h.pollQueue
      · refine h.cpReady (fun s h1 => ?_)
        split
        · exact h1.parkCp
        · next e => exact ih (h1.globalWrite.bad e).updQueue
        · next e => exact ih (h1.globalWrite.ok e).updQueue

theorem cpWrite {part queue l} (h : Landed a s) : Landed a (s.cpWrite part queue l) := by
  have h1 : Landed a (s.updQueue part queue (fun q => { q with writes := q.writes ++ l })) := h.updQueue
  unfold State.cpWrite
  extract_lets s1
  split
  · exact h1.flushQueue
  · exact h1

end Landed

end Sys2Proof.Machine
end

section
/-!
O46, first part: a launch starts, and its state arrives at its cores (R15, R344, R346).
-/

namespace Sys2Proof.Machine

/-! ## Tables whose entries are filtered by their keys -/

theorem tget_filter {α : Type} (d : α) (t : Tbl α) (q : Nat → Bool) (k : Nat) : tget d (t.filter (fun e => q e.1)) k = if q k then tget d t k else d := by
  induction t with
  | nil => simp [tget]
  | cons e r ih =>
    by_cases he : e.1 = k
    · subst he
      by_cases hq : q e.1 = true
      · simp [tget, hq]
      · simp [hq, ih]
    · by_cases hq : q e.1 = true
      · simp [tget, hq, he, ih]
      · simp [hq, ih, tget, he]

/-- Bytes cleared (R414). -/
theorem State.byte_clearKeys (s : State) (key len j : Nat) : (s.clearKeys key len).byte j = if key ≤ j ∧ j < key + len then 0 else s.byte j := by
  refine (tget_filter 0 s.mem (fun a => !(decide (key ≤ a) && decide (a < key + len))) j).trans ?_
  by_cases h : key ≤ j ∧ j < key + len
  · simp [h]
  · rw [if_neg h]
    refine if_pos ?_
    rw [Bool.not_eq_true', Bool.eq_false_iff]
    simpa using h

/-! ## The packet that starts -/

theorem State.startable_some {s : State} {n i typ : Nat} {p : Part} {q : Queue} {l : List Byte} (h : s.startable n i typ = some (p, q, l)) :
    tfind s.parts n = some p ∧ s.queue n i = some q := by
  unfold State.startable at h
  split at h
  · next hp hq =>
    split at h
    · split at h
      · cases h
        exact ⟨hp, hq⟩
      · cases h
    · cases h
  · cases h

/-- A queue whose head packet has started (R340). -/
def Queue.started (q : Queue) : Queue :=
  { q with packet := none, checked := false, since := none, aged := false, reserves := [], zero := false, read := q.read + 1 }

/-- What the start of a packet leaves (R340). -/
theorem State.landed_consume (s : State) (n i : Nat) (q : Queue) : Landed (s.updQueue n i Queue.started) (s.consume n i q) := .cpWrite (.refl _)

/-- The queue of a packet that has started. -/
theorem State.consume_queue {s : State} {n i : Nat} {q : Queue} (hq : s.queue n i = some q) :
    ∃ y, (s.consume n i q).queue n i = some y ∧ y.read = q.read + 1 ∧ y.packet = none := by
  have h := (s.landed_consume n i q).heads n i
  rw [State.queue_updQueue, if_pos ⟨rfl, rfl⟩, hq] at h
  obtain ⟨y, hy, hh⟩ := Option.map_eq_some_iff.1 h
  exact ⟨y, hy, congrArg Prod.fst hh, congrArg Prod.snd hh⟩

/-! ## The cores of a launch that starts (R344) -/

/-- A core's rings, lending pointer and rights as a launch finds them (R344). -/
def Core.ready (k : Core) : Core := { k with roll := [], rollOvf := [], lendPtr := 0, plb := [] }

/-- A core made ready for a launch of a partition, with its launch state on its way. -/
def State.readyCore (s : State) (p : Part) (n name : Nat) : State :=
  let c := p.phys name
  ((s.updCore c Core.ready).clearKeys (laneKey c 0 0) (2 ^ 17)).after
    (if dieOf c = p.lead then Config.sameDieCore else Config.homeElsewhere) (.launchStateArrival n c)

/-- State `t` follows `s` while cores are made ready: nothing placed is lost, and no roll or byte that is empty changes. -/
structure Readied (s t : State) : Prop where
  state : t = { s with cores := t.cores, mem := t.mem, ecc := t.ecc, pend := t.pend }
  placed : ∀ e ∈ s.pend, e ∈ t.pend
  roll : ∀ c, (s.core c).roll = [] → (t.core c).roll = []
  zero : ∀ a, s.byte a = 0 → t.byte a = 0

theorem Readied.refl (s : State) : Readied s s := ⟨rfl, fun _ h => h, fun _ h => h, fun _ h => h⟩

theorem Readied.trans {s t u : State} (h1 : Readied s t) (h2 : Readied t u) : Readied s u :=
  ⟨by rw [h2.state, h1.state], fun e h => h2.placed e (h1.placed e h), fun c h => h2.roll c (h1.roll c h), fun a h => h2.zero a (h1.zero a h)⟩

/-- A core is ready. -/
def State.CoreReady (t : State) (n c : Nat) : Prop :=
  (∃ m, t.Placed m (.launchStateArrival n c)) ∧ (t.core c).roll = [] ∧ ∀ o, o < 2 ^ 17 → t.byte (laneKey c 0 o) = 0

theorem Readied.coreReady {s t : State} (h : Readied s t) {n c : Nat} (hc : s.CoreReady n c) : t.CoreReady n c := by
  obtain ⟨⟨m, hm⟩, hr, hz⟩ := hc
  exact ⟨⟨m, h.placed _ hm⟩, h.roll c hr, fun o ho => h.zero _ (hz o ho)⟩

theorem State.readied_readyCore (s : State) (p : Part) (n name : Nat) : Readied s (s.readyCore p n name) := by
  refine ⟨rfl, fun e h => (mem_tins _ _ _ e).2 (.inr h), fun c h => ?_, fun a h => ?_⟩
  · show ((s.updCore (p.phys name) Core.ready).core c).roll = []
    rw [State.core_updCore]
    split
    · rfl
    · exact h
  · show (State.clearKeys _ _ _).byte a = 0
    rw [State.byte_clearKeys]
    split
    · rfl
    · exact h

theorem State.coreReady_readyCore (s : State) (p : Part) (n name : Nat) : (s.readyCore p n name).CoreReady n (p.phys name) := by
  refine ⟨⟨_, State.placed_after _ _ _⟩, ?_, fun o ho => ?_⟩
  · show ((s.updCore (p.phys name) Core.ready).core (p.phys name)).roll = []
    rw [State.core_updCore, if_pos rfl]
    rfl
  · show (State.clearKeys _ _ _).byte _ = 0
    rw [State.byte_clearKeys, if_pos]
    unfold laneKey
    omega

/-- Every core of a list is ready in the end. -/
theorem State.readyCores (l : List Nat) (s : State) (p : Part) (n : Nat) : let t := l.foldl (fun s name => s.readyCore p n name) s
    Readied s t ∧ ∀ name ∈ l, t.CoreReady n (p.phys name) := by
  induction l generalizing s with
  | nil => exact ⟨.refl s, fun _ h => absurd h List.not_mem_nil⟩
  | cons x l ih =>
    obtain ⟨hr, hc⟩ := ih (s.readyCore p n x)
    refine ⟨(s.readied_readyCore p n x).trans hr, fun name hm => ?_⟩
    rcases List.mem_cons.1 hm with rfl | h
    · exact hr.coreReady (s.coreReady_readyCore p n name)
    · exact hc name h

/-- The record of a launch that starts from a queue's packet (R342). -/
def State.launchOf (s : State) (n i : Nat) (p : Part) (q : Queue) (l : List Byte) : Launch :=
  let x := pktShape l
  { part := n, ctx := p.ctx, queue := i, index := q.read, seq := (s.ctx p.ctx).seq, entry := BitVec.ofNat 64 (pktBody l),
    args := BitVec.ofNat 64 (pktValue l), signal := BitVec.ofNat 64 (pktSignal l), stack := BitVec.ofNat 64 (fieldOf l 32 8),
    stride := shapeStride x, size16 := shapeSize16 x, steal := shapeSteal x, t := shapeT x, h := shapeH x, w := shapeW x,
    row0 := shapeRow x, col0 := shapeCol x, qbase := BitVec.ofNat 64 (fieldOf l 48 8), intr := pktIntr l, touched := 0, arrived := 0,
    aborted := false, stage := 0 }

/-- A context's next launch number (R342). -/
def Ctx.launched (c : Ctx) : Ctx := { c with seq := (c.seq + 1) % 2 ^ 32 }

/-- The state in which a launch's cores are made ready: its packet has started, and it has its number and its record (R344). -/
def State.launching (s : State) (n i : Nat) (p : Part) (q : Queue) (l : List Byte) : State :=
  let s1 := (s.consume n i q).updCtx p.ctx Ctx.launched
  { s1 with launches := tset s1.launches s.nextLaunch (s.launchOf n i p q l), nextLaunch := s.nextLaunch + 1 }

theorem launchStart_starts {s : State} {n i : Nat} {p : Part} {q : Queue} {l : List Byte} (h : s.startable n i 1 = some (p, q, l)) :
    exec (.launchStart n i) s = .next ((shapeCores (pktShape l)).foldl (fun t name => t.readyCore p s.nextLaunch name) (s.launching n i p q l)) := by
  show execLaunchStart n i s = _
  unfold execLaunchStart
  rw [h]
  rfl

theorem State.launching_seq (s : State) (n i : Nat) (p : Part) (q : Queue) (l : List Byte) :
    ((s.launching n i p q l).ctx p.ctx).seq = ((s.ctx p.ctx).seq + 1) % 2 ^ 32 := by
  have hs : ((s.consume n i q).ctx p.ctx).seq = (s.ctx p.ctx).seq := (s.landed_consume n i q).seq p.ctx
  show (((s.consume n i q).updCtx p.ctx Ctx.launched).ctx p.ctx).seq = _
  rw [State.ctx_updCtx, if_pos rfl]
  exact congrArg (fun k => (k + 1) % 2 ^ 32) hs

end Sys2Proof.Machine
end

section
/-!
O46, second part: the state of a launch arrives at a core, whose threads begin (R15, R346).
-/

namespace Sys2Proof.Machine

/-! ## Steps that leave memory and threads -/

/-- Memory and every thread are as they were. -/
structure Still (s t : State) : Prop where
  mem : t.mem = s.mem
  threads : t.threads = s.threads

section
variable {s t u : State}

theorem Still.refl (s : State) : Still s s := ⟨rfl, rfl⟩
theorem Still.trans (h1 : Still s t) (h2 : Still t u) : Still s u := ⟨h2.mem.trans h1.mem, h2.threads.trans h1.threads⟩
theorem Still.ite {c : Prop} {_ : Decidable c} (h1 : Still s t) (h2 : Still s u) : Still s (if c then t else u) := by split <;> assumption
theorem Still.work (h : OnlyWork s t) : Still s t := ⟨by rw [h.state], h.threads⟩
theorem Still.thread (h : Still s t) (u : Nat) : t.thread u = s.thread u := by unfold State.thread; rw [h.threads]
theorem Still.byte (h : Still s t) (a : Nat) : t.byte a = s.byte a := by unfold State.byte; rw [h.mem]
theorem Still.foldl {α : Type} (l : List α) (f : State → α → State) (hf : ∀ s x, Still s (f s x)) : Still s (l.foldl f s) := by
  induction l generalizing s with
  | nil => exact .refl s
  | cons x l ih => exact (hf s x).trans ih

theorem Still.dropSI (s : State) (x : Nat) : Still s (s.dropSI x) := .ite ⟨rfl, rfl⟩ (.refl s)
theorem Still.allocated (s : State) (pg : Page) (va : Nat) : Still s (s.allocated pg va) := .ite (.refl s) ⟨rfl, rfl⟩
theorem Still.updSlice (s : State) (x : Nat) (f : Slice → Slice) : Still s (s.updSlice x f) := ⟨rfl, rfl⟩
theorem Still.launches (s : State) (x : Tbl Launch) : Still s { s with launches := x } := ⟨rfl, rfl⟩
theorem Still.cacheWalk (s : State) (pg : Page) (va ctx ready : Nat) : Still s (s.cacheWalk pg va ctx ready) :=
  .ite (.refl s) ((Still.allocated s pg va).trans (.updSlice _ _ _))

/-- A translation that is held for a context (R361). -/
theorem Still.warmAt (s : State) (va ctx : Nat) : Still s (s.warmAt va ctx) := by
  unfold State.warmAt
  split
  · exact .ite (.refl s) ((Still.updSlice s _ _).trans (.cacheWalk _ _ _ _ _))
  · exact .refl s

theorem Still.launchRefill (s : State) (x va : Nat) : Still s (s.launchRefill x va) := by
  unfold State.launchRefill
  split
  · exact .ite (.refl s) (.ite ((Still.warmAt s va _).trans ⟨rfl, rfl⟩) (.warmAt s va _))
  · exact .refl s

theorem Still.rightFor (s : State) (x va : Nat) : Still s (s.rightFor x va).2.2 := by
  unfold State.rightFor
  dsimp only
  split
  · exact .refl s
  · split
    · exact ⟨rfl, rfl⟩
    · exact .work (.afterOnce _ _ _)

end

/-! ## The first frame of a thread -/

/-- What the first frame leaves of its thread: all but its fault, what holds it, and the places of its accesses (R346). -/
structure FrameSent (x y : Thread) : Prop where
  thread : y = { x with startFault := y.startFault, hold := y.hold, tbanks := y.tbanks, acquires := y.acquires }

theorem FrameSent.refl (x : Thread) : FrameSent x x := ⟨rfl⟩
theorem FrameSent.trans {x y z : Thread} (h1 : FrameSent x y) (h2 : FrameSent y z) : FrameSent x z := by
  refine ⟨?_⟩
  rw [h2.thread, h1.thread]

/-- One thread has its frame on its way; memory and the other threads are as they were. -/
structure Framed (x : Nat) (s t : State) : Prop where
  mem : t.mem = s.mem
  own : FrameSent (s.thread x) (t.thread x)
  others : ∀ u, u ≠ x → t.thread u = s.thread u

section
variable {x : Nat} {s t u : State}

theorem Framed.trans (h1 : Framed x s t) (h2 : Framed x t u) : Framed x s u :=
  ⟨h2.mem.trans h1.mem, h1.own.trans h2.own, fun v hv => (h2.others v hv).trans (h1.others v hv)⟩

theorem Framed.ite {c : Prop} {_ : Decidable c} (h1 : Framed x s t) (h2 : Framed x s u) : Framed x s (if c then t else u) := by split <;> assumption

theorem Framed.still (h : Still s t) : Framed x s t := ⟨h.mem, by rw [h.thread]; exact .refl _, fun u _ => h.thread u⟩

theorem Framed.updThread (s : State) (f : Thread → Thread) (hf : FrameSent (s.thread x) (f (s.thread x))) : Framed x s (s.updThread x f) := by
  refine ⟨rfl, ?_, fun u hu => ?_⟩
  · rw [State.thread_updThread, if_pos rfl]
    exact hf
  · rw [State.thread_updThread, if_neg hu]

theorem FrameSent.posted (y : Thread) (r : Req) (hd : r.dst = none) (hk : r.ctxReg = none) (hc : r.cls = .none) (id : Nat) (w : Word) :
    FrameSent y { y.posted r id with tbanks := w } := by
  simp only [Thread.posted, hd, hk, hc]
  exact ⟨rfl⟩

/-- The post of a frame's word (R108). -/
theorem Framed.post (s : State) (d : Option Nat) (a : Word) (p : Place) (q : Nat) :
    Framed x s { ({ s with cur := x } : State).postIn d { id := 0, tid := 0, epoch := 0, op := .startZero, va := a, place := p } with cur := q } := by
  refine ⟨State.postIn_mem _ _ _, ?_, fun u hu => ?_⟩
  · show FrameSent _ ((State.postIn d { s with cur := x } _).thread x)
    rw [State.postIn_thread, if_pos rfl]
    exact .posted _ _ rfl rfl rfl _ _
  · show (State.postIn d { s with cur := x } _).thread u = _
    rw [State.postIn_thread, if_neg hu]
    rfl

theorem Framed.zeroFrame (s : State) (x : Nat) (a : Word) : Framed x s (s.zeroFrame x a) := by
  unfold State.zeroFrame
  dsimp only
  split
  · exact .updThread s _ ⟨rfl⟩
  · refine .ite ?_ (.ite ?_ ?_)
    · exact .updThread s _ ⟨rfl⟩
    · exact .updThread s _ ⟨rfl⟩
    · exact (((Framed.still (.launchRefill s x a.toNat)).trans (.still (.rightFor _ x a.toNat))).trans (.post _ _ _ _ _)).trans (.updThread _ _ ⟨rfl⟩)

end

/-! ## The threads of a launch at a core (R15) -/

/-- A thread as a launch makes it in slot `j` of a core with linear index `lci` (R15). -/
structure Begins (l : Launch) (k lci j : Nat) (th : Thread) : Prop where
  occupied : th.occupied = true
  kind : th.kind = .launch
  level : th.level = .U
  pc : th.pc = l.entry
  part : th.part = l.part
  ctx : th.ctx = l.ctx
  launch : th.launch = some k
  lti : th.lti = BitVec.ofNat 32 (lci * 15 + j)
  g2 : th.gReg 2 = ⟨l.stack + BitVec.ofNat 64 ((lci * l.t + j + 1) * l.stride), .full⟩
  g3 : th.gReg 3 = ⟨BitVec.ofNat 64 (lci * 15 + j), .full⟩
  g4 : th.gReg 4 = ⟨l.args, .full⟩
  g5 : th.gReg 5 = ⟨BitVec.ofNat 64 lci, .full⟩
  qbase : th.qbase = l.qbase
  qrec : th.qrec = BitVec.ofNat 64 (l.size16 * 16)
  rest : ∀ x, x ≠ 0 → x ≠ 2 → x ≠ 3 → x ≠ 4 → x ≠ 5 → (th.gReg x).st = .void

/-- What a thread begins with is not what its first frame leaves. -/
theorem Begins.sent {l : Launch} {k lci j : Nat} {x y : Thread} (h : Begins l k lci j x) (hf : FrameSent x y) : Begins l k lci j y := by
  have hy := hf.thread
  rw [hy]
  exact ⟨h.occupied, h.kind, h.level, h.pc, h.part, h.ctx, h.launch, h.lti, h.g2, h.g3, h.g4, h.g5, h.qbase, h.qrec, h.rest⟩

theorem State.launchThread_begins (s : State) (k : Nat) (l : Launch) (lci t hold : Nat) :
    Begins l k lci (slotOf t) { s.launchThread k l lci t with hold := hold } where
  occupied := rfl
  kind := rfl
  level := rfl
  pc := rfl
  part := rfl
  ctx := rfl
  launch := rfl
  lti := rfl
  g2 := by simp [State.launchThread, Thread.gReg]
  g3 := by simp [State.launchThread, Thread.gReg]
  g4 := by simp [State.launchThread, Thread.gReg]
  g5 := by simp [State.launchThread, Thread.gReg]
  qbase := rfl
  qrec := rfl
  rest x h0 h2 h3 h4 h5 := by simp [State.launchThread, Thread.gReg, h0, h2, h3, h4, h5, tget]

/-- A slot's thread begins, with its first frame on its way (R346). -/
def State.beginThread (s : State) (k : Nat) (l : Launch) (lci hold t : Nat) : State :=
  let th := s.launchThread k l lci t
  let sp := th.gv (2 : BitVec 6)
  ((s.start t { th with hold := hold }).zeroFrame t (sp - 16)).zeroFrame t (sp - 8)

section
variable (s : State) (k : Nat) (l : Launch) (lci hold t : Nat)

/-- A thread put into a slot leaves memory and the other threads. -/
theorem State.start_mem (th : Thread) : (s.start t th).mem = s.mem := (Still.work (.wakeCore s (coreOf t))).mem
theorem State.thread_start (th : Thread) (u : Nat) : (s.start t th).thread u = if u = t then th else s.thread u := by
  rw [State.start, State.thread_setThread]
  split
  · rfl
  · exact (OnlyWork.wakeCore s (coreOf t)).thread u

theorem State.beginThread_framed : Framed t (s.start t { s.launchThread k l lci t with hold := hold }) (s.beginThread k l lci hold t) :=
  (Framed.zeroFrame _ _ _).trans (.zeroFrame _ _ _)

theorem State.beginThread_mem : (s.beginThread k l lci hold t).mem = s.mem := (s.beginThread_framed k l lci hold t).mem.trans (s.start_mem t _)

theorem State.beginThread_begins : Begins l k lci (slotOf t) ((s.beginThread k l lci hold t).thread t) := by
  have h := (s.beginThread_framed k l lci hold t).own
  rw [State.thread_start, if_pos rfl] at h
  exact (s.launchThread_begins k l lci t hold).sent h

theorem State.beginThread_others (u : Nat) (hu : u ≠ t) : (s.beginThread k l lci hold t).thread u = s.thread u :=
  ((s.beginThread_framed k l lci hold t).others u hu).trans ((s.thread_start t _ u).trans (if_neg hu))

end

/-- Every thread of a list of slots begins. -/
theorem State.beginThreads (ts : List Nat) (s : State) (k : Nat) (l : Launch) (lci hold : Nat) :
    let t := ts.foldl (fun s t => s.beginThread k l lci hold t) s
    t.mem = s.mem ∧ ∀ u, u ∈ ts ∨ Begins l k lci (slotOf u) (s.thread u) → Begins l k lci (slotOf u) (t.thread u) := by
  induction ts generalizing s with
  | nil => exact ⟨rfl, fun u h => h.resolve_left List.not_mem_nil⟩
  | cons x ts ih =>
    obtain ⟨hm, hb⟩ := ih (s.beginThread k l lci hold x)
    refine ⟨hm.trans (s.beginThread_mem k l lci hold x), fun u hu => hb u ?_⟩
    by_cases hx : u = x
    · subst hx
      exact .inr (s.beginThread_begins k l lci hold u)
    · rw [s.beginThread_others k l lci hold x u hx]
      exact hu.imp_left (fun h => (List.mem_cons.1 h).resolve_left hx)

/-! ## The arrival of a launch's state at a core (R346) -/

/-- The slots of a launch's threads at a core. -/
def Launch.slots (l : Launch) (core : Nat) : List Nat := (List.range l.t).map (fun i => core * 16 + i)

/-- The state with a core's threads of a launch. -/
def State.peopled (s : State) (k : Nat) (l : Launch) (core : Nat) : State :=
  (l.slots core).foldl (fun u t => u.beginThread k l (l.lciOf (s.nameOf core)) 0 t) ((List.range 16).foldl (fun u i => u.dropSI (core * 16 + i)) s)

/-- What follows once a core's threads have begun (R346). -/
def State.arrived (s : State) (k : Nat) (l : Launch) (core : Nat) : State :=
  let s2 := { s with launches := tmod s.launches k (fun x => { x with arrived := x.arrived + 1 }) }
  (((s2.launchRefill (core * 16) l.entry.toNat).launchRefill (core * 16) (l.entry.toNat + 2)).coreWork core).checkLaunch (some k)

theorem Still.arrived (s : State) (k : Nat) (l : Launch) (core : Nat) : Still s (s.arrived k l core) := by
  unfold State.arrived
  exact ((((Still.launches s _).trans (.launchRefill _ _ _)).trans (.launchRefill _ _ _)).trans (.work (.coreWork _ _))).trans (.work (.checkLaunch _ _))

theorem launchStateArrival_peoples {s : State} {k core : Nat} {l : Launch} (hl : tfind s.launches k = some l) (ha : l.aborted = false)
    (h0 : s.levelOf l.ctx = 0) (hk : (s.thread (core * 16)).launch ≠ some k) :
    exec (.launchStateArrival k core) s = .next ((s.peopled k l core).arrived k l core) := by
  show execLaunchStateArrival k core s = _
  have hf : (s.levelOf l.ctx == 3) = false := by rw [h0]; rfl
  simp only [execLaunchStateArrival, hl, ha, hf, hk, and_false, Bool.false_eq_true, false_and, if_false]
  rfl

/-- The state of a launch makes its threads, and writes no byte at once (R346). -/
theorem launchStateArrival_begins {s : State} {k core : Nat} {l : Launch} (hl : tfind s.launches k = some l) (ha : l.aborted = false)
    (h0 : s.levelOf l.ctx = 0) (ht : l.t ≤ 15) (hk : (s.thread (core * 16)).launch ≠ some k) :
    ∃ t, exec (.launchStateArrival k core) s = .next t ∧ (∀ a, t.byte a = s.byte a) ∧
      ∀ j, j < l.t → Begins l k (l.lciOf (s.nameOf core)) j (t.thread (core * 16 + j)) := by
  have hd : Still s ((List.range 16).foldl (fun u i => u.dropSI (core * 16 + i)) s) := .foldl _ _ (fun u i => .dropSI u _)
  obtain ⟨hm, hb⟩ := State.beginThreads (l.slots core) ((List.range 16).foldl (fun u i => u.dropSI (core * 16 + i)) s) k l (l.lciOf (s.nameOf core)) 0
  have hA := Still.arrived (s.peopled k l core) k l core
  refine ⟨_, launchStateArrival_peoples hl ha h0 hk, fun a => ?_, fun j hj => ?_⟩
  · rw [hA.byte]
    exact (congrArg (fun m => tget 0 m a) hm).trans (hd.byte a)
  · have hs : slotOf (core * 16 + j) = j := by unfold slotOf; omega
    have h := hb (core * 16 + j) (.inl (List.mem_map.2 ⟨j, List.mem_range.2 hj, rfl⟩))
    rw [hs] at h
    rw [hA.thread]
    exact h

end Sys2Proof.Machine
end

section
/-!
O46, third part: a launch that is over is completed, and its cores are free (R347).
-/

namespace Sys2Proof.Machine

/-! ## What completion leaves: launches that are gone, and work that is placed -/

/-- State `t` has no launch that `s` has not, and has all its placed work. -/
structure Frees (s t : State) : Prop where
  gone : ∀ k, tfind s.launches k = none → tfind t.launches k = none
  pend : ∀ e ∈ s.pend, e ∈ t.pend

namespace Frees

variable {s t u : State}

theorem refl (s : State) : Frees s s := ⟨fun _ h => h, fun _ h => h⟩
theorem trans (h1 : Frees s t) (h2 : Frees t u) : Frees s u := ⟨fun k h => h2.gone k (h1.gone k h), fun e h => h2.pend e (h1.pend e h)⟩
theorem ite {c : Prop} {_ : Decidable c} (h1 : Frees s t) (h2 : Frees s u) : Frees s (if c then t else u) := by split <;> assumption
theorem foldl {α : Type} {f : State → α → State} {l : List α} (h : Frees s t) (hf : ∀ t, Frees s t → ∀ x, Frees s (f t x)) : Frees s (l.foldl f t) := by
  induction l generalizing t with
  | nil => exact h
  | cons x l ih => exact ih (hf t h x)

theorem landed (h : Frees s t) (hl : Landed t u) : Frees s u := h.trans ⟨hl.gone, hl.pend⟩
theorem updPart {n f} (h : Frees s t) : Frees s (t.updPart n f) := h.trans ⟨fun _ h => h, fun _ h => h⟩
theorem updCore {c f} (h : Frees s t) : Frees s (t.updCore c f) := h.trans ⟨fun _ h => h, fun _ h => h⟩
theorem afterOnce {n i} (h : Frees s t) : Frees s (t.afterOnce n i) := h.landed (.afterOnce (.refl t))

theorem setStatus {part queue code stops index} (h : Frees s t) : Frees s (t.setStatus part queue code stops index) := by
  refine h.landed ?_
  unfold State.setStatus
  split
  · exact .refl t
  · exact Landed.cpWrite (Landed.updQueue (.refl t))

theorem stopQueue {part queue code index} (h : Frees s t) : Frees s (t.stopQueue part queue code index) := by
  unfold State.stopQueue
  split
  · exact h
  · exact h.setStatus.landed (.postEvent (.refl _))

theorem afterPacket {n} (h : Frees s t) : Frees s (t.afterPacket n) := by
  unfold State.afterPacket
  split
  · exact h
  · exact .foldl h (fun t h1 e => afterOnce (.ite h1.afterOnce h1))

theorem endJob {n j} (h : Frees s t) : Frees s (t.endJob n j) := by
  unfold State.endJob
  extract_lets s1 s2
  have h1 : Frees s s1 := h.updPart
  refine afterPacket ?_
  show Frees s (match tfind t.parts n with | some p => _ | none => _)
  split
  · exact .ite (h1.landed (.postEvent (.refl _))) h1
  · exact h1

/-- What the command processor does at an address is done now, or once the page has its translation (R361, R365). -/
theorem cpReady {part va ev} {k : State → State} (h : Frees s t) (hk : Frees s (k t)) : Frees s (t.cpReady part va ev k) := by
  have hw : ∀ ctx, Frees s (t.walked ctx va ev k) := fun ctx => by
    unfold State.walked
    split
    · exact hk
    · exact .ite hk (h.landed (Landed.after (Landed.cacheWalk (.refl t))))
  unfold State.cpReady
  split
  · exact hk
  · exact .ite (h.landed (.after (.refl t))) (hw _)

theorem finishJob {n j} (h : Frees s t) : Frees s (t.finishJob n j) := by
  unfold State.finishJob
  refine .ite h.endJob ?_
  split
  · exact h
  · next p hp =>
    refine cpReady h.updPart ?_
    split
    · next e => exact endJob (h.updPart.landed ((Landed.signal (.refl _)).ok e))
    · exact h.updPart.landed (.parkCp (.refl _))
    · next e => exact stopQueue (endJob (h.updPart.landed ((Landed.signal (.refl _)).bad e)))

theorem destroyDone {n} (h : Frees s t) : Frees s (t.destroyDone n) := by
  unfold State.destroyDone
  split
  · exact h
  · exact .foldl h (fun t h1 d => .ite h1 h1.updPart.finishJob)

end Frees

/-! ## The end of a packet places the next opportunity (R345) -/

/-- What places a step for one entry of a list, and loses none for the others, has placed it in the end. -/
theorem placed_foldl {α : Type} (f : State → α → State) (i : Instr) (x : α) (hx : ∀ s, ∃ m, (f s x).Placed m i) (hf : ∀ s y m, s.Placed m i → (f s y).Placed m i) :
    ∀ (l : List α) (s : State), x ∈ l ∨ (∃ m, s.Placed m i) → ∃ m, (l.foldl f s).Placed m i := by
  intro l
  induction l with
  | nil => exact fun s h => h.resolve_left List.not_mem_nil
  | cons y l ih =>
    intro s h
    refine ih (f s y) ?_
    rcases h with h | ⟨m, hm⟩
    · rcases List.mem_cons.1 h with rfl | h
      · exact .inr (hx s)
      · exact .inl h
    · exact .inr ⟨m, hf s y m hm⟩

theorem tfind_mem {α : Type} {t : Tbl α} {k : Nat} {v : α} (h : tfind t k = some v) : (k, v) ∈ t := by
  induction t with
  | nil => cases h
  | cons e r ih =>
    unfold tfind at h
    split at h
    · next he =>
      obtain ⟨rfl⟩ := Option.some.inj h
      subst he
      exact List.mem_cons_self
    · exact List.mem_cons_of_mem _ (ih h)

theorem afterPacket_dispatches {s : State} {n : Nat} {p : Part} (h : tfind s.parts n = some p) :
    ∃ m, (s.afterPacket n).Placed m (.dispatchOpportunity p.lead) := by
  have hm : (n, p) ∈ s.ctxParts p.ctx := List.mem_filter.2 ⟨tfind_mem h, beq_self_eq_true _⟩
  unfold State.afterPacket
  rw [h]
  refine placed_foldl _ _ (n, p) (fun t => State.placed_afterOnce _ _ _) (fun t y m hp => ?_) _ _ (.inl hm)
  exact (OnlyWork.afterOnce _ _ _).isPlaced ((OnlyWork.ite (.afterOnce t _ _) (.refl t)).isPlaced hp)

/-! ## The two stages of a completion (R347) -/

/-- The state with a launch at a stage of its completion. -/
def State.atStage (s : State) (k n : Nat) : State := { s with launches := tmod s.launches k (fun l => { l with stage := n }) }

theorem launchComplete_probes {s : State} {k : Nat} {l : Launch} {p : Part} (hl : tfind s.launches k = some l) (hp : tfind s.parts l.part = some p)
    (hs : l.stage = 0) (ho : s.launchOver k = true) (hf : s.launchFlights p l = false) :
    ∃ t m, exec (.launchComplete k) s = .next t ∧ tfind t.launches k = some { l with stage := 1 } ∧ t.Placed m (.launchComplete k) ∧ Aside s t [] := by
  have he : ∃ n, exec (.launchComplete k) s = .next ((s.atStage k 1).after n (.launchComplete k)) := by
    show ∃ n, execLaunchComplete k s = _
    simp only [execLaunchComplete, hl, hp, hs, ho, hf, Bool.false_eq_true, and_false, if_false, if_true]
    exact ⟨_, rfl⟩
  obtain ⟨n, he⟩ := he
  refine ⟨_, _, he, ?_, State.placed_after _ _ _, fun _ => rfl, rfl, fun _ _ => rfl⟩
  show tfind (tmod s.launches k _) k = _
  rw [tfind_tmod, if_pos rfl, hl]
  rfl

/-- The state without a launch, whose moved cores have their own names again (R347). -/
def State.coresFreed (s : State) (k : Nat) (l : Launch) (p : Part) : State :=
  let names := rectCores l.col0 l.row0 l.w l.h
  let s1 := (p.remap.filter (fun e => names.contains e.2.1)).foldl (fun s e => s.updCore e.2.2 (fun c => { c with moved := none })) s
  let s2 := s1.updPart l.part (fun p => { p with remap := p.remap.filter (fun e => !names.contains e.2.1) })
  ({ s2 with launches := terase s2.launches k } : State).updPart l.part (fun p => { p with aborts := p.aborts.filter (fun a => a.1 != k) })

theorem State.coresFreed_gone (s : State) (k : Nat) (l : Launch) (p : Part) : tfind (s.coresFreed k l p).launches k = none := tfind_terase_self _ k

/-- A core that has its own name again leaves the partitions. -/
theorem State.parts_unmove {α : Type} (l : List α) (s : State) (f : α → Nat) (g : Core → Core) : (l.foldl (fun s e => s.updCore (f e) g) s).parts = s.parts := by
  induction l generalizing s with
  | nil => rfl
  | cons x l ih => exact ih (s.updCore (f x) g)

theorem State.coresFreed_part {s : State} {k : Nat} {l : Launch} {p : Part} (hp : tfind s.parts l.part = some p) :
    ∃ x, tfind (s.coresFreed k l p).parts l.part = some x ∧ x.lead = p.lead := by
  unfold State.coresFreed State.updPart
  dsimp only
  rw [tfind_tmod, if_pos rfl, tfind_tmod, if_pos rfl, State.parts_unmove, hp]
  exact ⟨_, rfl, rfl⟩

theorem freeCores_of_no_aborts {s : State} {k : Nat} {l : Launch} {p : Part} (hp : tfind s.parts l.part = some p) (ha : p.aborts = []) :
    s.freeCores k l = ((s.coresFreed k l p).afterPacket l.part).destroyDone l.part := by
  unfold State.freeCores
  rw [hp]
  dsimp only
  rw [ha]
  rfl

/-- A completed launch is gone, and the command processor's next opportunity is placed (R345, R347). -/
theorem launchComplete_frees {s : State} {k : Nat} {l : Launch} {p : Part} (hl : tfind s.launches k = some l) (hp : tfind s.parts l.part = some p)
    (hs : l.stage = 1) (hg : l.signal = 0) (hi : l.intr = false) (ha : l.aborted = false) (hn : p.aborts = []) :
    ∃ t m, exec (.launchComplete k) s = .next t ∧ tfind t.launches k = none ∧ t.Placed m (.dispatchOpportunity p.lead) := by
  have he : exec (.launchComplete k) s = .next (s.freeCores k l) := by
    show execLaunchComplete k s = _
    have h0 : ¬ l.stage = 0 := by rw [hs]; decide
    simp only [execLaunchComplete, hl, hp, h0, hg, hi, ha, Bool.false_eq_true, if_false, if_true]
  obtain ⟨x, hx, hlead⟩ := State.coresFreed_part (k := k) hp
  obtain ⟨m, hm⟩ := afterPacket_dispatches hx
  have hD : Frees ((s.coresFreed k l p).afterPacket l.part) (s.freeCores k l) := by
    rw [freeCores_of_no_aborts hp hn]
    exact .destroyDone (.refl _)
  refine ⟨_, m, he, hD.gone k ((Frees.afterPacket (.refl _)).gone k (s.coresFreed_gone k l p)), hD.pend _ ?_⟩
  rw [← hlead]
  exact hm

end Sys2Proof.Machine
end

section
/-!
O46, last part: an abort retires the threads of its launch and drops its deque entries (R349).
-/

namespace Sys2Proof.Machine

/-! ## What an abort takes away -/

/-- No entry of a core is of launch `k`. -/
def Core.Without (c : Core) (k : Nat) : Prop := ∀ e ∈ c.entries, e.launch ≠ some k

/-- A core's places without the entries of a launch (R349). -/
def Core.dropEntries (c : Core) (k : Nat) : Core :=
  let gone : DequeEntry → Bool := fun e => e.launch == some k
  { c with
    deque := c.deque.filter (fun x => !gone x), dequeOvf := c.dequeOvf.filter (fun x => !gone x)
    stolen := c.stolen.filter (fun x => !gone x), held := c.held.filter (fun x => !gone x.2)
    steal := c.steal.map (fun a => { a with carried := a.carried.filter (fun x => !gone x) }) }

theorem Core.without_dropEntries (c : Core) (k : Nat) : (c.dropEntries k).Without k := by
  have hg : ∀ e : DequeEntry, (!(e.launch == some k)) = true → e.launch ≠ some k := fun e h => by simpa using h
  intro e he
  simp only [Core.entries, List.mem_append, Option.mem_toList, List.mem_map] at he
  rcases he with (((h | h) | h) | ⟨x, h, rfl⟩) | h
  · exact hg e (List.mem_filter.1 h).2
  · exact hg e (List.mem_filter.1 h).2
  · exact hg e (Option.mem_filter_iff.1 h).2
  · exact hg x.2 (List.mem_filter.1 h).2
  · unfold Core.dropEntries at h
    dsimp only at h
    cases hs : c.steal with
    | none => rw [hs] at h; exact absurd h List.not_mem_nil
    | some a =>
      rw [hs] at h
      exact hg e (Option.mem_filter_iff.1 (Option.mem_toList.1 h)).2

theorem Core.without_empty (k : Nat) : ({} : Core).Without k := fun _ h => absurd h List.not_mem_nil

/-- A core that changes elsewhere than in its entries. -/
theorem Core.Without.of_entries {c d : Core} {k : Nat} (h : c.Without k) (e : d.entries = c.entries) : d.Without k := fun x hx => h x (e ▸ hx)

/-- State `t` follows `s` while a launch `k` is taken away: launches and partitions stay, no free slot is taken, and no core gets an entry. -/
structure Dropping (k : Nat) (s t : State) : Prop where
  launches : t.launches = s.launches
  parts : t.parts = s.parts
  free : ∀ u, (s.thread u).occupied = false → (t.thread u).occupied = false
  without : ∀ c, (s.core c).Without k → (t.core c).Without k

section
variable {k : Nat} {s t u : State}

theorem Dropping.refl (k : Nat) (s : State) : Dropping k s s := ⟨rfl, rfl, fun _ h => h, fun _ h => h⟩
theorem Dropping.trans (h1 : Dropping k s t) (h2 : Dropping k t u) : Dropping k s u :=
  ⟨h2.launches.trans h1.launches, h2.parts.trans h1.parts, fun u h => h2.free u (h1.free u h), fun c h => h2.without c (h1.without c h)⟩
theorem Dropping.foldl {α : Type} (l : List α) (s : State) (f : State → α → State) (hf : ∀ s x, Dropping k s (f s x)) : Dropping k s (l.foldl f s) := by
  induction l generalizing s with
  | nil => exact .refl k s
  | cons x l ih => exact (hf s x).trans (ih (f s x))

theorem Dropping.work (h : OnlyWork s t) : Dropping k s t := by
  refine ⟨by rw [h.state], by rw [h.state], fun u hu => by rw [h.thread]; exact hu, fun c hc => hc.of_entries ?_⟩
  rw [h.core c]
  rfl

theorem Dropping.updCore (s : State) (c : Nat) (f : Core → Core) (hf : ∀ x : Core, x.Without k → (f x).Without k) : Dropping k s (s.updCore c f) := by
  refine ⟨rfl, rfl, fun _ h => h, fun d hd => ?_⟩
  rw [State.core_updCore]
  split
  · next e => exact hf _ (e ▸ hd)
  · exact hd

/-- A thread of the launch retires at once (R349). -/
theorem State.thread_drop (s : State) (x u : Nat) :
    (s.drop x).thread u = if u = x then { epoch := (s.thread x).epoch + 1, lastIssue := (s.thread x).lastIssue } else s.thread u := by
  unfold State.drop
  rw [(OnlyWork.coreWork _ _).thread, State.thread_setThread]

theorem Dropping.drop (s : State) (x : Nat) : Dropping k s (s.drop x) := by
  have hw : Dropping k (s.setThread x { epoch := (s.thread x).epoch + 1, lastIssue := (s.thread x).lastIssue }) (s.drop x) := .work (.coreWork _ _)
  refine ⟨hw.launches, hw.parts, fun u hu => ?_, hw.without⟩
  rw [State.thread_drop]
  split
  · rfl
  · exact hu

theorem Dropping.dropCommands (s : State) (n : Nat) : Dropping k s (s.dropCommands n) := by
  unfold State.dropCommands
  extract_lets cs ts s1 s2
  have h1 : Dropping k s s1 := ⟨rfl, rfl, fun _ h => h, fun _ h => h⟩
  have h2 : Dropping k s1 s2 := .foldl _ _ _ (fun s e => .updCore s _ _ (fun _ hx => hx.of_entries rfl))
  exact (h1.trans h2).trans (.foldl _ _ _ (fun s e => ⟨rfl, rfl, fun _ h => h, fun _ h => h⟩))

end

/-! ## The entries and the threads of the launch -/

/-- Every core's entries of a launch go, of the cores that a table lists (R349). -/
theorem State.without_foldl (k : Nat) : ∀ (l : Tbl Core) (s : State), (∀ c, (s.core c).Without k ∨ ∃ e ∈ l, e.1 = c) →
    let t := l.foldl (fun s e => s.updCore e.1 (fun x => x.dropEntries k)) s
    (∀ c, (t.core c).Without k) ∧ t.threads = s.threads ∧ t.launches = s.launches ∧ t.parts = s.parts
  | [], s, h => ⟨fun c => (h c).resolve_right (fun ⟨_, he, _⟩ => absurd he List.not_mem_nil), rfl, rfl, rfl⟩
  | x :: l, s, h => by
    refine State.without_foldl k l (s.updCore x.1 (fun y => y.dropEntries k)) (fun c => ?_)
    rw [State.core_updCore]
    by_cases hc : c = x.1
    · rw [if_pos hc]
      exact .inl (Core.without_dropEntries _ k)
    · rw [if_neg hc]
      refine (h c).imp_right (fun ⟨e, he, hec⟩ => ⟨e, (List.mem_cons.1 he).resolve_left ?_, hec⟩)
      rintro rfl
      exact hc hec.symm

theorem State.without_or_listed (s : State) (k c : Nat) : (s.core c).Without k ∨ ∃ e ∈ s.cores, e.1 = c := by
  rcases tget_mem ({} : Core) s.cores c with h | h
  · refine .inl ?_
    unfold State.core
    rw [h]
    exact Core.without_empty k
  · exact .inr ⟨_, h, rfl⟩

/-- The threads of a list retire. -/
theorem State.dropped_foldl {k : Nat} : ∀ (l : Tbl Thread) (s : State) (u : Nat), (s.thread u).occupied = false ∨ (∃ e ∈ l, e.1 = u) →
    ((l.foldl (fun s e => s.drop e.1) s).thread u).occupied = false
  | [], s, u, h => h.resolve_right (fun ⟨_, he, _⟩ => absurd he List.not_mem_nil)
  | x :: l, s, u, h => by
    refine State.dropped_foldl (k := k) l (s.drop x.1) u ?_
    by_cases hu : u = x.1
    · refine .inl ?_
      rw [State.thread_drop, if_pos hu]
    · refine h.imp ((Dropping.drop (k := k) s x.1).free u) (fun ⟨e, he, hec⟩ => ⟨e, (List.mem_cons.1 he).resolve_left ?_, hec⟩)
      rintro rfl
      exact hu hec.symm

/-! ## The abort -/

/-- A launch that is aborted counts as arrived at every core (R349). -/
def Launch.abort (l : Launch) : Launch := { l with aborted := true, arrived := l.w * l.h }

/-- The state whose cores hold no entry of an aborted launch: its packet has started, and its record says that it is aborted. -/
def State.entriesDropped (s : State) (n k : Nat) (q : Queue) (r : Launch) (f : Roll → Roll) : State :=
  let s1 := s.consume n 0 q
  let s0 := s1.updRoll r.ctx f
  s0.cores.foldl (fun s c => s.updCore c.1 (fun x => x.dropEntries k)) { s0 with launches := tmod s1.launches k Launch.abort }

/-- The state whose threads of an aborted launch have retired. -/
def State.threadsDropped (s : State) (k : Nat) : State := (s.threads.filter (fun t => t.2.launch == some k)).foldl (fun s t => s.drop t.1) s

/-- What remains: its commands go, and its packet's end waits for the launch (R347, R349). -/
def State.abortEnds (s : State) (n k : Nat) (q : Queue) (l : List Byte) : State :=
  ((s.dropCommands k).updPart n (fun p => { p with aborts := p.aborts ++ [(k, jobOf 0 q l k)] })).checkLaunch (some k)

theorem abort_drops {s : State} {n k : Nat} {p : Part} {q : Queue} {l : List Byte} {r : Launch} (h : s.startable n 0 13 = some (p, q, l))
    (hl : s.launches = [(k, r)]) (hp : r.part = n) (hs : r.seq = pktBody l % 2 ^ 32) (h0 : r.stage = 0) :
    ∃ f, exec (.abort n) s = .next (((s.entriesDropped n k q r f).threadsDropped k).abortEnds n k q l) := by
  have hf : s.launches.find? (fun e => e.2.part == n && e.2.seq == pktBody l % 2 ^ 32 && e.2.stage == 0) = some (k, r) := by
    rw [hl, List.find?_cons_of_pos]
    simp [hp, hs, h0]
  show ∃ f, execAbort n s = _
  unfold execAbort
  rw [h]
  dsimp only
  rw [hf]
  exact ⟨_, rfl⟩

section
variable {s : State} {n k : Nat} {q y : Queue} {l : List Byte} {r : Launch} {f : Roll → Roll}

/-- What the cores lose is entries; the launch's record says that it is aborted, and threads are as the packet's start left them. -/
theorem State.entriesDropped_spec (hq : s.queue n 0 = some q) (hl : s.launches = [(k, r)]) : let t := s.entriesDropped n k q r f
    (∀ c, (t.core c).Without k) ∧ (∃ x, t.launches = [(k, x)] ∧ x.aborted = true) ∧ (∀ u, (t.thread u).launch = (s.thread u).launch) ∧
      ∃ y, t.queue n 0 = some y ∧ y.read = q.read + 1 := by
  obtain ⟨y, hy, hread, _⟩ := State.consume_queue hq
  have hL := s.landed_consume n 0 q
  obtain ⟨w, hw⟩ := hL.one k r hl
  obtain ⟨hc, ht, hla, hpa⟩ := State.without_foldl k ((s.consume n 0 q).updRoll r.ctx f).cores
    { (s.consume n 0 q).updRoll r.ctx f with launches := tmod (s.consume n 0 q).launches k Launch.abort } (fun c => State.without_or_listed _ k c)
  refine ⟨hc, ⟨Launch.abort { r with touched := w }, hla.trans ?_, rfl⟩, fun u => ?_, y, ?_, hread⟩
  · show tmod (s.consume n 0 q).launches k Launch.abort = _
    rw [hw]
    simp [tmod, tfind, tset, terase, tins]
  · exact (congrArg (fun t => (tget {} t u).launch) ht).trans (hL.launch u)
  · unfold State.queue
    rw [show (s.entriesDropped n k q r f).parts = (s.consume n 0 q).parts from hpa]
    exact hy

theorem State.threadsDropped_spec (s : State) (k : Nat) :
    Dropping k s (s.threadsDropped k) ∧ ∀ u, (s.thread u).launch = some k → ((s.threadsDropped k).thread u).occupied = false := by
  refine ⟨.foldl _ _ _ (fun s e => .drop s _), fun u hu => State.dropped_foldl (k := k) _ s u (.inr ⟨(u, s.thread u), ?_, rfl⟩)⟩
  rcases tget_mem ({} : Thread) s.threads u with h | h
  · exact absurd (h ▸ hu : ({} : Thread).launch = some k) (by rintro ⟨⟩)
  · exact List.mem_filter.2 ⟨h, by simpa using hu⟩

theorem State.abortEnds_spec (s : State) (n k : Nat) (q : Queue) (l : List Byte) : let t := s.abortEnds n k q l
    t.launches = s.launches ∧ (∀ u, (s.thread u).occupied = false → (t.thread u).occupied = false) ∧ (∀ c, (s.core c).Without k → (t.core c).Without k) ∧
      ∀ y, s.queue n 0 = some y → t.queue n 0 = some y := by
  have hd := Dropping.dropCommands (k := k) s k
  have hw : OnlyWork ((s.dropCommands k).updPart n (fun p => { p with aborts := p.aborts ++ [(k, jobOf 0 q l k)] })) (s.abortEnds n k q l) := .checkLaunch _ _
  have hD := Dropping.work (k := k) hw
  refine ⟨hD.launches.trans hd.launches, fun u hu => hD.free u (hd.free u hu), fun c hc => hD.without c (hd.without c hc), fun y hy => ?_⟩
  unfold State.queue at hy ⊢
  rw [hD.parts]
  show (match tfind (tmod (s.dropCommands k).parts n _) n with | some p => tfind p.queues 0 | none => none) = some y
  rw [tfind_tmod, if_pos rfl, hd.parts]
  cases hp : tfind s.parts n with
  | none => rw [hp] at hy; exact hy
  | some p => rw [hp] at hy; exact hy

end

/-- An abort retires its launch's threads and drops its entries; the record says that the launch is aborted (R349). -/
theorem abort_ends {s : State} {n k : Nat} {p : Part} {q : Queue} {l : List Byte} {r : Launch} (h : s.startable n 0 13 = some (p, q, l))
    (hl : s.launches = [(k, r)]) (hp : r.part = n) (hs : r.seq = pktBody l % 2 ^ 32) (h0 : r.stage = 0) :
    ∃ t, exec (.abort n) s = .next t ∧ (∃ y, t.queue n 0 = some y ∧ y.read = q.read + 1) ∧
      (∃ x, tfind t.launches k = some x ∧ x.aborted = true) ∧ (∀ u, (s.thread u).launch = some k → (t.thread u).occupied = false) ∧
      (∀ c, ∀ e ∈ (t.core c).entries, e.launch ≠ some k) := by
  obtain ⟨f, he⟩ := abort_drops h hl hp hs h0
  obtain ⟨hc, ⟨x, hx, hxa⟩, ht, y, hy, hr⟩ := State.entriesDropped_spec (f := f) (State.startable_some h).2 hl
  obtain ⟨hD, hfree⟩ := (s.entriesDropped n k q r f).threadsDropped_spec k
  obtain ⟨hE1, hE2, hE3, hE4⟩ := ((s.entriesDropped n k q r f).threadsDropped k).abortEnds_spec n k q l
  refine ⟨_, he, ⟨y, hE4 y ?_, hr⟩, ⟨x, ?_, hxa⟩, fun u hu => hE2 u (hfree u ((ht u).trans hu)), fun c => hE3 c (hD.without c (hc c))⟩
  · unfold State.queue
    rw [hD.parts]
    exact hy
  · rw [hE1, hD.launches, hx]
    simp [tfind]

end Sys2Proof.Machine
end

section
open Sys2Proof Sys2Proof.Machine

/-- Settles O46: the packet's start leaves launches, threads and queue heads as they were (`Landed`); the cores, threads and entries that each step
goes through are those of its list. -/
theorem launchSteps : Obligations.LaunchSteps := by
  unfold Obligations.LaunchSteps
  refine ⟨?start, ?arrival, ?complete, ?abort⟩
  case start =>
    intro s n i p q l h x
    obtain ⟨hr, hc⟩ := State.readyCores (shapeCores x) (s.launching n i p q l) p s.nextLaunch
    have hst := hr.state
    refine ⟨_, s.launchOf n i p q l, launchStart_starts h, ?_, ?_, ?_, ?_, rfl, rfl, rfl, rfl, rfl, rfl, rfl, rfl, rfl, rfl, rfl, rfl, rfl, rfl, hc⟩
    · obtain ⟨y, hy, h1, h2⟩ := State.consume_queue (State.startable_some h).2
      refine ⟨y, ?_, h1, h2⟩
      rw [hst]
      exact hy
    · rw [hst]
      exact tfind_tset_self _ _ _
    · rw [hst]
      rfl
    · rw [hst]
      exact s.launching_seq n i p q l
  case arrival =>
    intro s k core l hl ha h0 _ _ ht hk
    obtain ⟨t, he, hb, hj⟩ := launchStateArrival_begins hl ha h0 ht hk
    refine ⟨t, he, hb, fun j hlt => ?_⟩
    have h := hj j hlt
    exact ⟨h.occupied, h.kind, h.level, h.pc, h.part, h.ctx, h.launch, h.lti, h.g2, h.g3, h.g4, h.g5, h.qbase, h.qrec, h.rest⟩
  case complete =>
    intro s k l p hl hp
    exact ⟨fun hs ho hf => launchComplete_probes hl hp hs ho hf, fun hs hg hi ha hn => launchComplete_frees hl hp hs hg hi ha hn⟩
  case abort =>
    intro s n k p q l r h hl hp hs h0
    exact abort_ends h hl hp hs h0

end

section
/-!
O32, first part: numbers from lanes and bytes, bytes written one after another, and short accesses of a thread to its own scratchpad (R4, R11, R47).
-/

namespace Sys2Proof.Machine

/-! ## Lanes and bytes as digits -/

theorem ofLanes_number_lt (l : List (BitVec 32)) : ofLanes.bytesToNatLanes l < 2 ^ (32 * l.length) := by
  induction l with
  | nil => decide
  | cons x l ih =>
    have hx := x.isLt
    have hp : 2 ^ (32 * (l.length + 1)) = 2 ^ 32 * 2 ^ (32 * l.length) := by rw [Nat.mul_succ, Nat.add_comm, Nat.pow_add]
    show x.toNat + 2 ^ 32 * ofLanes.bytesToNatLanes l < 2 ^ (32 * (l.length + 1))
    rw [hp]
    calc x.toNat + 2 ^ 32 * ofLanes.bytesToNatLanes l < 2 ^ 32 * (ofLanes.bytesToNatLanes l + 1) := by omega
      _ ≤ 2 ^ 32 * 2 ^ (32 * l.length) := Nat.mul_le_mul_left _ ih

theorem ofLanes_digit : ∀ (l : List (BitVec 32)) (i : Nat), ofLanes.bytesToNatLanes l / 2 ^ (32 * i) % 2 ^ 32 = (l.getD i 0).toNat
  | [], i => by simp [ofLanes.bytesToNatLanes]
  | x :: l, 0 => by
    have hx := x.isLt
    show (x.toNat + 2 ^ 32 * ofLanes.bytesToNatLanes l) / 1 % 2 ^ 32 = x.toNat
    omega
  | x :: l, i + 1 => by
    have hx := x.isLt
    have hp : 2 ^ (32 * (i + 1)) = 2 ^ 32 * 2 ^ (32 * i) := by rw [Nat.mul_succ, Nat.add_comm, Nat.pow_add]
    have hd : (x.toNat + 2 ^ 32 * ofLanes.bytesToNatLanes l) / 2 ^ 32 = ofLanes.bytesToNatLanes l := by omega
    show (x.toNat + 2 ^ 32 * ofLanes.bytesToNatLanes l) / 2 ^ (32 * (i + 1)) % 2 ^ 32 = (l.getD i 0).toNat
    rw [hp, ← Nat.div_div_eq_div_mul, hd]
    exact ofLanes_digit l i

/-- A lane of a vector made lane by lane (R8). -/
theorem lane_ofLanes (f : Nat → BitVec 32) {i : Nat} (hi : i < 32) : lane (ofLanes f) i = f i := by
  have hl := ofLanes_number_lt ((List.range 32).map f)
  have hd := ofLanes_digit ((List.range 32).map f) i
  rw [List.length_map, List.length_range] at hl
  refine BitVec.eq_of_toNat_eq ?_
  unfold lane ofLanes
  rw [BitVec.extractLsb'_toNat, BitVec.toNat_ofNat, Nat.mod_eq_of_lt hl, Nat.shiftRight_eq_div_pow, hd]
  simp [hi]

/-- The bytes of a number give it back (R4). -/
theorem bytesToNat_natToBytes (n v : Nat) : bytesToNat (natToBytes n v) = v % 256 ^ n := by
  induction n generalizing v with
  | zero => simp [natToBytes, bytesToNat, Nat.mod_one]
  | succ n ih =>
    show (BitVec.ofNat 8 v).toNat + 256 * bytesToNat (natToBytes n (v / 256)) = _
    rw [ih, BitVec.toNat_ofNat, show 256 ^ (n + 1) = 256 * 256 ^ n from Nat.pow_succ']
    exact (Nat.mod_mul (x := v) (a := 256) (b := 256 ^ n)).symm

/-- Bytes read as a number (R4). -/
theorem State.getN_eq (s : State) (k n : Nat) : s.getN k n = bytesToNat (s.peek k n) := by
  induction n generalizing k with
  | zero => rfl
  | succ n ih =>
    have hp : s.peek k (n + 1) = s.byte k :: s.peek (k + 1) n := by
      unfold State.peek
      rw [List.range_succ_eq_map, List.map_cons, List.map_map]
      refine congrArg (s.byte k :: ·) (List.map_congr_left (fun i _ => ?_))
      simp [Nat.add_assoc, Nat.add_comm 1]
    rw [State.getN, ih, hp]
    rfl

/-! ## Bytes written one range after another -/

/-- Ranges of bytes written in order. -/
def pokes (m : Memory) (ws : List (Nat × List Byte)) : Memory := ws.foldl (fun m e => pokeMem m e.1 e.2) m

/-- A byte that no range holds stays. -/
theorem tget_pokes_out {a : Nat} : ∀ (ws : List (Nat × List Byte)) (m : Memory), (∀ e ∈ ws, a < e.1 ∨ e.1 + e.2.length ≤ a) → tget 0 (pokes m ws) a = tget 0 m a
  | [], _, _ => rfl
  | e :: ws, m, h => by
    have he := h e List.mem_cons_self
    refine (tget_pokes_out ws (pokeMem m e.1 e.2) (fun x hx => h x (List.mem_cons_of_mem _ hx))).trans ?_
    rw [tget_pokeMem, if_neg (by omega)]

/-- Two ranges of bytes have none in common. -/
def Apart (e f : Nat × List Byte) : Prop := e.1 + e.2.length ≤ f.1 ∨ f.1 + f.2.length ≤ e.1

/-- A byte of a range that lies apart from the later ones is the range's own. -/
theorem tget_pokes_in {e : Nat × List Byte} {a : Nat} (h1 : e.1 ≤ a) (h2 : a < e.1 + e.2.length) :
    ∀ (ws : List (Nat × List Byte)) (m : Memory), ws.Pairwise Apart → e ∈ ws → tget 0 (pokes m ws) a = e.2.getD (a - e.1) 0
  | [], _, _, h => absurd h List.not_mem_nil
  | x :: ws, m, hp, h => by
    obtain ⟨hx, hws⟩ := List.pairwise_cons.1 hp
    rcases List.mem_cons.1 h with rfl | h
    · refine (tget_pokes_out ws (pokeMem m e.1 e.2) (fun f hf => ?_)).trans ?_
      · have := hx f hf
        unfold Apart at this
        omega
      · rw [tget_pokeMem, if_pos ⟨h1, h2⟩]
    · exact tget_pokes_in h1 h2 ws (pokeMem m x.1 x.2) hws h

/-- A range of a word reads back as the word. -/
theorem getN_of_bytes (t : State) (k v : Nat) (h : ∀ i, i < 4 → t.byte (k + i) = (natToBytes 4 v).getD i 0) (hv : v < 2 ^ 32) : t.getN k 4 = v := by
  have hp : t.peek k 4 = natToBytes 4 v := by
    refine List.ext_getElem (by simp [State.peek, natToBytes]) (fun i hi _ => ?_)
    have h4 : i < 4 := by simpa [State.peek] using hi
    have hb := h i h4
    rw [List.getD_eq_getElem?_getD, List.getElem?_eq_getElem (by simpa [natToBytes] using h4)] at hb
    simpa [State.peek] using hb
  rw [State.getN_eq, hp, bytesToNat_natToBytes]
  exact Nat.mod_eq_of_lt hv

end Sys2Proof.Machine
end

section
/-!
O32, second part: the checks of the lanes, and short accesses to the thread's own scratchpad as states (R11, R47, R198).
-/

namespace Sys2Proof.Machine

/-! ## The short window -/

/-- An address in the short window that leads somewhere leads to the issuing core's own scratchpad (R11, R31). -/
theorem State.resolve_short (s : State) {va : Nat} {p : Place} (hs : isShort1 va = true) (hp : s.resolve s.cur va = some p) :
    va / 2 ^ 48 = 0xF1 ∧ va % 2 ^ 48 < 2 ^ 19 ∧ p = .core (coreOf s.cur) (va % 2 ^ 48) := by
  have hw : windowOf va = 0xF1 := by simpa [isShort1] using hs
  unfold State.resolve State.resolveIn at hp
  split at hp
  · cases hp
  · rw [hw] at hp
    split at hp
    · cases hp
    · next hlt =>
      simp only [show ¬ (0xF1 ≤ 0xEF) by decide, if_false, Option.ite_none_left_eq_some, Option.some.injEq, Bool.or_eq_true, not_or] at hp
      obtain ⟨⟨-, ho⟩, rfl⟩ := hp
      unfold windowOf at hw
      refine ⟨by omega, by simpa using ho, rfl⟩

/-- An address in the short window is not global (R31). -/
theorem not_global_short (s : State) {va : Nat} {p : Place} (hs : isShort1 va = true) (hp : s.resolve s.cur va = some p) : isGlobal va = false := by
  obtain ⟨h, -, -⟩ := s.resolve_short hs hp
  simp only [isGlobal, decide_eq_false_iff_not]
  omega

/-! ## The checks of the lanes -/

/-- Lanes in the own scratchpad that are reached pass the checks, and nothing changes (R198). -/
theorem checkLanes_short {g : Word} {need : Rights → Bool} (k : State → State) (s : State) :
    ∀ l : List (Nat × Word), (∀ e ∈ l, isShort1 e.2.toNat = true ∧ sameWindow g.toNat e.2.toNat = true ∧ ∃ p, s.Reaches e.2 4 need p) →
      checkLanes g need l k s = k s
  | [], _ => rfl
  | (i, ea) :: l, h => by
    obtain ⟨hs, hw, p, hr⟩ := h (i, ea) List.mem_cons_self
    obtain ⟨t, -, ht, hc⟩ := checkAddr_ok 4 (fun _ s => checkLanes g need l k s) s hr
    obtain rfl := ht (not_global_short s hs hr.1)
    unfold checkLanes
    rw [hw]
    exact hc.trans (checkLanes_short k t l (fun e he => h e (List.mem_cons_of_mem _ he)))

theorem Quiet.reqs {s t : State} (q : Quiet s t) : t.reqs = s.reqs := by rw [q.state]

/-- What bookkeeping does not touch decides whether words are free (R109). -/
theorem Quiet.padFree {s t : State} (q : Quiet s t) (l : List Nat) : t.padFree l = s.padFree l := by
  have hk : ∀ va, t.wordKey t.cur va = s.wordKey s.cur va := fun va => by unfold State.wordKey; rw [q.resolve]
  have hb : ∀ va, t.busyWord va = s.busyWord va := fun va => by unfold State.busyWord; rw [hk, q.reqs, q.cur]
  unfold State.padFree State.shortOpen
  simp only [hb, q.reqs, q.cur]

/-- An address of the own scratchpad is reached after bookkeeping as before. -/
theorem Quiet.reaches_short {s t : State} (q : Quiet s t) {va : Word} {n : Nat} {need : Rights → Bool} {p : Place} (hs : isShort1 va.toNat = true)
    (h : s.Reaches va n need p) : t.Reaches va n need p := by
  obtain ⟨hp, ha, -⟩ := h
  exact ⟨(q.resolve _).trans hp, ha, fun hg => absurd hg (by simp [not_global_short s hs hp])⟩

/-! ## Banks -/

/-- Taking banks changes nothing but the banks (R47). -/
theorem State.takeShort_eq (s : State) (vs : List Server) : s.takeShort vs = { s with banks := (s.takeShort vs).banks } := by
  unfold State.takeShort
  induction vs generalizing s with
  | nil => rfl
  | cons v vs ih => exact (ih (s.setBank _)).trans rfl

theorem State.shortWords_eq (s : State) (l : List Nat) : s.shortWords l = { s with banks := (s.shortWords l).banks } := s.takeShort_eq _

/-- The banks that a short access takes depend on the banks and the cycle alone. -/
theorem State.takeShort_banks {s t : State} (hb : t.banks = s.banks) (hn : t.now = s.now) (vs : List Server) : (t.takeShort vs).banks = (s.takeShort vs).banks := by
  unfold State.takeShort
  induction vs generalizing s t with
  | nil => exact hb
  | cons v vs ih =>
    refine ih (s := s.setBank _) (t := t.setBank _) ?_ hn
    unfold State.setBank State.bank
    simp only [hb, hn]

/-- Words of the own scratchpad take the same banks after bookkeeping as before. -/
theorem Quiet.shortWords_banks {s t : State} (q : Quiet s t) {l : List Nat} (hl : ∀ va ∈ l, isShort1 va = true) : (t.shortWords l).banks = (s.shortWords l).banks := by
  have hv : l.filterMap (fun va => (t.resolve t.cur va).map t.serverOf) = l.filterMap (fun va => (s.resolve s.cur va).map s.serverOf) := by
    refine List.filterMap_congr (fun va hva => ?_)
    rw [q.resolve]
    cases hp : s.resolve s.cur va with
    | none => rfl
    | some p =>
      obtain ⟨-, -, rfl⟩ := s.resolve_short (hl va hva) hp
      rfl
  unfold State.shortWords
  rw [hv]
  exact State.takeShort_banks (by rw [q.state]) q.now _

/-! ## Lanes read and written -/

/-- The storage key of an address of the issuing thread. -/
def State.keyAt (s : State) (va : Nat) : Nat := match s.resolve s.cur va with | some p => p.chipKey | none => va

theorem State.keyAt_some {s : State} {va : Nat} {p : Place} (h : s.resolve s.cur va = some p) : s.keyAt va = p.chipKey := by
  simp only [State.keyAt, h]

/-- Words of the own scratchpad read, without an ECC error (R11). -/
theorem State.readShort_plain (s : State) (he : s.ecc = []) : ∀ l : List Nat, (∀ va ∈ l, ∃ p, s.resolve s.cur va = some p) →
    s.readShort (l.map (fun va => (va, 4))) = (.ok (l.map (fun va => s.peek (s.keyAt va) 4)), s)
  | [], _ => rfl
  | va :: l, h => by
    obtain ⟨p, hp⟩ := h va List.mem_cons_self
    have ih := State.readShort_plain s he l (fun x hx => h x (List.mem_cons_of_mem _ hx))
    have hb : s.eccBad p.chipKey 4 = false := by simp [State.eccBad, he]
    simp only [List.map_cons, State.readShort, hp, s.eccRead_none he, hb, ih, State.keyAt_some hp, Bool.false_eq_true, if_false]

/-- The entry of a lane among those of the active lanes. -/
theorem find_lane {α : Type} (f : Nat → α) (b : Nat → List Byte) (i : Nat) :
    ∀ l : List Nat, ((l.map (fun j => (j, f j))).zip (l.map b)).find? (fun e => e.1.1 = i) = if i ∈ l then some ((i, f i), b i) else none
  | [] => rfl
  | j :: l => by
    rw [List.map_cons, List.map_cons, List.zip_cons_cons, List.find?_cons, find_lane f b i l]
    by_cases h : j = i
    · subst h; simp
    · have h' : ¬ i = j := fun e => h e.symm
      simp [h, h']

/-- A vector filled with the words of its active lanes (R190, R191). -/
theorem lane_fillLanes {α : Type} (l : List Nat) (f : Nat → α) (b : Nat → List Byte) (keep : Vec) {i : Nat} (hi : i < 32) :
    lane (fillLanes (l.map (fun j => (j, f j))) (l.map b) keep) i = if i ∈ l then BitVec.ofNat 32 (bytesToNat (b i)) else lane keep i := by
  unfold fillLanes
  rw [lane_ofLanes _ hi, find_lane]
  by_cases h : i ∈ l
  · rw [if_pos h, if_pos h]
  · rw [if_neg h, if_neg h]

end Sys2Proof.Machine
end

section
/-!
O32, third part: bytes that land where nothing waits (R11, R43, R119, R120, R137), and a short access's words written one after another.
-/

namespace Sys2Proof.Machine

/-! ## Where nothing waits -/

/-- Nothing waits at a word or an object, and no reservation is held: a write there wakes nothing. -/
structure State.Unwatched (s : State) : Prop where
  syncq : s.syncq = []
  syncIn : s.syncIn = []
  waiters : s.waiters = []
  ecc : s.ecc = []
  resv : ∀ e ∈ s.threads, e.2.resv = none

theorem State.Calm.unwatched {s : State} (h : s.Calm) : s.Unwatched := by
  obtain ⟨h1, h2, h3, h4, h5, -⟩ := h
  exact ⟨h1, h2, h3, h4, h5⟩

/-- What leaves queues, waiters, errors and threads alone leaves nothing waiting. -/
theorem State.Unwatched.same {s t : State} (h : s.Unwatched) (h1 : t.syncq = s.syncq) (h2 : t.syncIn = s.syncIn) (h3 : t.waiters = s.waiters)
    (h4 : t.ecc = s.ecc) (h5 : t.threads = s.threads) : t.Unwatched :=
  ⟨h1.trans h.syncq, h2.trans h.syncIn, h3.trans h.waiters, h4.trans h.ecc, h5 ▸ h.resv⟩

theorem State.Unwatched.serveWord {s : State} (h : s.Unwatched) (w : Nat) : s.serveWord w = s := by
  unfold State.serveWord
  rw [h.syncq, h.syncIn]
  rfl

theorem State.Unwatched.breakResv {s : State} (h : s.Unwatched) (g : Nat) (own : Option Nat) : s.breakResv g own = s := by
  have hf : s.threads.filter (fun e => e.2.resv == some g && some e.1 != own) = [] :=
    List.filter_eq_nil_iff.2 (fun e he => by simp [h.resv e he])
  unfold State.breakResv
  rw [hf]
  rfl

/-- The words of a write become FULL, and that is all (R43). -/
theorem State.Unwatched.fill {s : State} (h : s.Unwatched) (ws : List Nat) :
    ∃ e, ws.foldl (fun s w => (s.setFull w).serveWord w) s = { s with empty := e } := by
  induction ws generalizing s with
  | nil => exact ⟨_, rfl⟩
  | cons w ws ih =>
    obtain ⟨x, hx⟩ : ∃ x, s.setFull w = { s with empty := x } := by
      unfold State.setFull
      split
      · exact ⟨_, rfl⟩
      · exact ⟨_, rfl⟩
    have hu : (s.setFull w).Unwatched := by rw [hx]; exact h.same rfl rfl rfl rfl rfl
    obtain ⟨e, he⟩ := ih hu
    refine ⟨e, ?_⟩
    rw [List.foldl_cons, hu.serveWord, he, hx]

theorem State.Unwatched.landed {s : State} (h : s.Unwatched) (key len : Nat) : ∃ e, s.landed key len = { s with empty := e } := by
  obtain ⟨e, he⟩ := h.fill ((List.range ((key + len + 7) / 8 - key / 8)).map (fun i => (key / 8 + i) * 8))
  have hu : ({ s with empty := e } : State).Unwatched := h.same rfl rfl rfl rfl rfl
  refine ⟨e, ?_⟩
  generalize ({ s with empty := e } : State) = u at he hu ⊢
  have hb : ∀ l : List Nat, l.foldl (fun (s : State) i => s.breakResv (key / 128 + i) none) u = u := fun l => foldl_id l _ _ (fun i _ => hu.breakResv _ _)
  unfold State.landed
  simp only [he, hb, hu.waiters, List.isEmpty_nil, if_true]

/-- Bytes written change memory and mark their core's regions (R379). -/
theorem State.poke_eq (s : State) (key : Nat) (l : List Byte) : s.poke key l = { s with mem := pokeMem s.mem key l, cores := (s.poke key l).cores } := by
  unfold State.poke State.markDirty
  split <;> rfl

theorem State.nameOf_poke (s : State) (key : Nat) (l : List Byte) (c : Nat) : (s.poke key l).nameOf c = s.nameOf c := by
  unfold State.poke State.markDirty
  split
  · unfold State.nameOf
    rw [State.core_updCore]
    split
    · next h => subst h; rfl
    · rfl
  · rfl

/-- Old halfwords that a write remembers (R51). -/
theorem State.noteOld_eq (s : State) (key n : Nat) : s.noteOld key n = { s with was := (s.noteOld key n).was } := by
  unfold State.noteOld
  split <;> rfl

/-! ## Words of the own scratchpad -/

/-- Two states of the issuing thread that differ in memory, its banks and its marks, with nothing waiting in either. -/
structure Wrote (s t : State) : Prop where
  cur : t.cur = s.cur
  now : t.now = s.now
  threads : t.threads = s.threads
  parts : t.parts = s.parts
  names : ∀ c, t.nameOf c = s.nameOf c
  unwatched : t.Unwatched

theorem Wrote.trans {s t u : State} (a : Wrote s t) (b : Wrote t u) : Wrote s u :=
  ⟨b.cur.trans a.cur, b.now.trans a.now, b.threads.trans a.threads, b.parts.trans a.parts, fun c => (b.names c).trans (a.names c), b.unwatched⟩

theorem Wrote.thread {s t : State} (h : Wrote s t) (u : Nat) : t.thread u = s.thread u := by
  unfold State.thread
  rw [h.threads]

theorem Wrote.me {s t : State} (h : Wrote s t) : t.me = s.me := by
  unfold State.me
  rw [h.thread, h.cur]

theorem Wrote.resolve {s t : State} (h : Wrote s t) (va : Nat) : t.resolve t.cur va = s.resolve s.cur va := by
  unfold State.resolve State.resolveIn
  simp only [h.thread, h.cur, h.parts, h.names]

theorem Wrote.keyAt {s t : State} (h : Wrote s t) (va : Nat) : t.keyAt va = s.keyAt va := by
  unfold State.keyAt
  rw [h.resolve]

/-- A write that the order roll remembers changes nothing else (R394). -/
theorem State.noteWrite_eq (s : State) (t key : Nat) (rel : Bool) (ord : Option Nat) (rmw : Bool) :
    s.noteWrite t key rel ord rmw = { s with lastWrite := (s.noteWrite t key rel ord rmw).lastWrite } := by
  unfold State.noteWrite
  split
  · split
    · rfl
    · split <;> rfl
  · rfl

/-- Bytes written at a bank where nothing waits (R43). -/
theorem State.Unwatched.bankWrite {s : State} (h : s.Unwatched) (key : Nat) (l : List Byte) :
    Wrote s (s.bankWrite key l) ∧ (s.bankWrite key l).mem = pokeMem s.mem key l := by
  unfold State.bankWrite State.putBytes
  rw [s.noteOld_eq]
  generalize (s.noteOld key l.length).was = w
  have hp : (({ s with was := w } : State).poke key l).Unwatched := by rw [State.poke_eq]; exact h.same rfl rfl rfl rfl rfl
  have hb : ({ s with was := w } : State).putRaw key l = ({ s with was := w } : State).poke key l := by
    unfold State.putRaw
    simp only [hp.ecc, List.isEmpty_nil, if_true]
  have hn := State.nameOf_poke { s with was := w } key l
  obtain ⟨e, he⟩ := hp.landed key l.length
  rw [hb, he]
  rw [State.poke_eq] at hn ⊢
  exact ⟨⟨rfl, rfl, rfl, rfl, hn, h.same rfl rfl rfl rfl rfl⟩, rfl⟩

/-- One word written at issue. -/
theorem State.Unwatched.writeWord {s : State} (h : s.Unwatched) (key t : Nat) (l : List Byte) :
    Wrote s ((s.noteWrite t key false none false).bankWrite key l) ∧ ((s.noteWrite t key false none false).bankWrite key l).mem = pokeMem s.mem key l := by
  rw [s.noteWrite_eq]
  generalize (s.noteWrite t key false none false).lastWrite = x
  have hu : ({ s with lastWrite := x } : State).Unwatched := h.same rfl rfl rfl rfl rfl
  obtain ⟨hw, hm⟩ := hu.bankWrite key l
  have hx : Wrote s { s with lastWrite := x } := ⟨rfl, rfl, rfl, rfl, fun _ => rfl, hu⟩
  exact ⟨hx.trans hw, hm⟩

/-- The words of a store written at issue, one after another (R11). -/
theorem State.Unwatched.writeShort {s : State} (h : s.Unwatched) (l : List (Nat × List Byte))
    (hl : ∀ e ∈ l, ∃ p, s.resolve s.cur e.1 = some p) :
    Wrote s (s.writeShort l) ∧ (s.writeShort l).mem = pokes s.mem (l.map (fun e => (s.keyAt e.1, e.2))) := by
  induction l generalizing s with
  | nil => exact ⟨⟨rfl, rfl, rfl, rfl, fun _ => rfl, h⟩, rfl⟩
  | cons e l ih =>
    obtain ⟨p, hp⟩ := hl e List.mem_cons_self
    obtain ⟨hw, hm⟩ := h.writeWord p.chipKey s.cur e.2
    have hs : s.writeShort (e :: l) = ((s.noteWrite s.cur p.chipKey false none false).bankWrite p.chipKey e.2).writeShort l := by
      unfold State.writeShort
      rw [List.foldl_cons, hp]
    obtain ⟨hw2, hm2⟩ := ih hw.unwatched (fun x hx => by
      obtain ⟨q, hq⟩ := hl x (List.mem_cons_of_mem _ hx)
      exact ⟨q, (hw.resolve _).trans hq⟩)
    rw [hs]
    refine ⟨hw.trans hw2, ?_⟩
    simp only [hm2, hm, hw.keyAt, List.map_cons, pokes, List.foldl_cons, State.keyAt_some hp]

end Sys2Proof.Machine
end

section
/-!
O32, fourth part: VLD and VST of lanes in the core's own scratchpad (R11, R197, R198).
-/

namespace Sys2Proof.Machine

/-! ## The active lanes -/

/-- The address of a lane of VLD and VST (R197). -/
def State.unit (s : State) (g : BitVec 6) (j : Nat) : Word := s.me.gv g + BitVec.ofNat 64 (4 * j)

/-- The active lanes' addresses. -/
def State.units (s : State) (g : BitVec 6) (k : BitVec 3) : List Nat := (s.activeLanes k).map (fun j => (s.unit g j).toNat)

theorem State.lt_of_active {s : State} {k : BitVec 3} {j : Nat} (h : j ∈ s.activeLanes k) : j < 32 := List.mem_range.1 (List.mem_of_mem_filter h)

/-- Bookkeeping leaves the active lanes and their addresses (R190). -/
theorem Quiet.active {s t : State} (q : Quiet s t) (g : BitVec 6) (k : BitVec 3) :
    t.me.active k (fun i => t.me.gv g + BitVec.ofNat 64 (4 * i)) = (s.activeLanes k).map (fun j => (j, s.unit g j)) := by
  obtain ⟨a, b, hm⟩ := q.me
  rw [hm]
  rfl

theorem State.units_ne {s : State} {k : BitVec 3} (g : BitVec 6) (h : s.activeLanes k ≠ []) :
    ∃ j l, (s.activeLanes k).map (fun j => (j, s.unit g j)) = (j, s.unit g j) :: l ∧ j ∈ s.activeLanes k := by
  obtain ⟨j, l, hl⟩ := List.exists_cons_of_ne_nil h
  exact ⟨j, l.map _, by rw [hl]; rfl, hl ▸ List.mem_cons_self⟩

/-- The lanes of an access performed at issue: they are in the own scratchpad, reached, and their words are free (R11, R109, R198). -/
structure State.OwnLanes (s : State) (g : BitVec 6) (k : BitVec 3) (need : Rights → Bool) : Prop where
  lanes : s.activeLanes k ≠ []
  short : ∀ j ∈ s.activeLanes k, isShort1 (s.unit g j).toNat = true
  free : s.padFree (s.units g k) = true
  reach : s.LanesReach k (s.me.gv g) (s.unit g) need

/-- They pass their checks. -/
theorem State.OwnLanes.checks {s t : State} {g : BitVec 6} {k : BitVec 3} {need : Rights → Bool} (h : s.OwnLanes g k need) (q : Quiet s t)
    (f : State → State) : checkLanes (t.me.gv g) need ((s.activeLanes k).map (fun j => (j, s.unit g j))) f t = f t := by
  refine checkLanes_short f t _ (fun e he => ?_)
  obtain ⟨j, hj, rfl⟩ := List.mem_map.1 he
  obtain ⟨hw, p, hr⟩ := h.reach j hj
  have hg : t.me.gv g = s.me.gv g := by
    obtain ⟨a, b, hm⟩ := q.me
    rw [hm]; rfl
  exact ⟨h.short j hj, hg ▸ hw, p, q.reaches_short (h.short j hj) hr⟩

theorem State.OwnLanes.place {s : State} {g : BitVec 6} {k : BitVec 3} {need : Rights → Bool} (h : s.OwnLanes g k need) {j : Nat} (hj : j ∈ s.activeLanes k) :
    ∃ p, s.resolve s.cur (s.unit g j).toNat = some p ∧ (s.unit g j).toNat % 4 = 0 := by
  obtain ⟨-, p, hp, ha, -⟩ := h.reach j hj
  exact ⟨p, hp, ha⟩

theorem State.OwnLanes.units_short {s : State} {g : BitVec 6} {k : BitVec 3} {need : Rights → Bool} (h : s.OwnLanes g k need) :
    ∀ va ∈ s.units g k, isShort1 va = true := by
  intro va hva
  obtain ⟨j, hj, rfl⟩ := List.mem_map.1 hva
  exact h.short j hj

/-- The words of two active lanes have no byte in common. -/
theorem State.OwnLanes.apart {s : State} {g : BitVec 6} {k : BitVec 3} {need : Rights → Bool} (h : s.OwnLanes g k need) {i j : Nat}
    (hi : i ∈ s.activeLanes k) (hj : j ∈ s.activeLanes k) (hij : i ≠ j) :
    s.keyAt (s.unit g i).toNat + 4 ≤ s.keyAt (s.unit g j).toNat ∨ s.keyAt (s.unit g j).toNat + 4 ≤ s.keyAt (s.unit g i).toNat := by
  obtain ⟨p, hp, hpa⟩ := h.place hi
  obtain ⟨r, hr, hra⟩ := h.place hj
  obtain ⟨hpw, -, rfl⟩ := s.resolve_short (h.short i hi) hp
  obtain ⟨hrw, -, rfl⟩ := s.resolve_short (h.short j hj) hr
  have hi32 := State.lt_of_active hi
  have hj32 := State.lt_of_active hj
  have hu : ∀ j, (s.unit g j).toNat = ((s.me.gv g).toNat + 4 * j % 2 ^ 64) % 2 ^ 64 := fun j => by
    rw [State.unit, BitVec.toNat_add, BitVec.toNat_ofNat]
  rw [State.keyAt_some hp, State.keyAt_some hr]
  simp only [Place.chipKey, coreKey]
  have hui := hu i
  have huj := hu j
  omega

/-! ## VLD -/

/-- What a lane that is not read keeps (R190). -/
def Thread.kept (t : Thread) (z : BitVec 1) (d : BitVec 4) : Vec := if z = 1 then 0 else t.keep d

theorem lane_kept (t : Thread) (z : BitVec 1) (d : BitVec 4) (j : Nat) :
    lane (t.kept z d) j = if z = 1 ∨ (t.stOf (vRef d.toNat)).empty = true then 0 else lane (t.vv d) j := by
  have hz : lane (0 : Vec) j = 0 := by simp [lane]
  show lane (if z = 1 then 0 else if (t.stOf (vRef d.toNat)).empty then 0 else t.vv d) j = _
  by_cases h1 : z = 1
  · rw [if_pos h1, if_pos (.inl h1)]; exact hz
  · rw [if_neg h1]
    by_cases h2 : (t.stOf (vRef d.toNat)).empty = true
    · rw [if_pos h2, if_pos (.inr h2)]; exact hz
    · rw [if_neg h2, if_neg (fun h => h.elim h1 h2)]

/-- The vector that VLD at issue makes. -/
def State.loaded (s : State) (g : BitVec 6) (k : BitVec 3) (z : BitVec 1) (d : BitVec 4) : Vec :=
  fillLanes ((s.activeLanes k).map (fun j => (j, s.unit g j))) ((s.activeLanes k).map (fun j => s.peek (s.keyAt (s.unit g j).toNat) 4)) (s.me.kept z d)

/-- A state whose banks alone differ after bookkeeping reads the same words. -/
theorem Quiet.peek_shortWords {s t : State} (q : Quiet s t) (l : List Nat) (va : Nat) :
    (t.shortWords l).peek ((t.shortWords l).keyAt va) 4 = s.peek (s.keyAt va) 4 := by
  have hk : (t.shortWords l).keyAt va = s.keyAt va := by
    rw [t.shortWords_eq]
    show t.keyAt va = s.keyAt va
    unfold State.keyAt
    rw [q.resolve]
  have hm : (t.shortWords l).mem = s.mem := by rw [t.shortWords_eq, q.state]
  unfold State.peek State.byte
  rw [hk, hm]

theorem Quiet.resolve_shortWords {s t : State} (q : Quiet s t) (l : List Nat) (va : Nat) :
    (t.shortWords l).resolve (t.shortWords l).cur va = s.resolve s.cur va := by
  rw [t.shortWords_eq]
  exact q.resolve va

theorem vld_at_issue {q : BitVec 2} {g : BitVec 6} {d : BitVec 4} {k : BitVec 3} {z : BitVec 1} {s : State} (hl : predOk k z = true)
    (hm : s.MaySend .none) (ho : s.OwnLanes g k Rights.r) (hr : s.Ready [gRef g.toNat] [vRef d.toNat]) (he : s.ecc = []) :
    exec (.vld q g k z d) s = .next (((s.noteReads [gRef g.toNat]).shortWords (s.units g k)).done 4 (fun t => t.setV d (s.loaded g k z d))) := by
  have n := s.noted [gRef g.toNat]
  have hq := n.quiet
  show Host.Outcome.next (vecLoad q false [gRef g.toNat] (fun t i => t.gv g + BitVec.ofNat 64 (4 * i)) g k z d s) = _
  refine congrArg Host.Outcome.next ?_
  obtain ⟨i, rest, hc, hi⟩ := State.units_ne g ho.lanes
  rw [vecLoad, issue_ready _ _ s hl (by simp) hr]
  dsimp only
  rw [hq.active g k, hc]
  dsimp only
  rw [← hc, ho.checks hq]
  have hv : ((s.activeLanes k).map (fun j => (j, s.unit g j))).map (fun e => e.2.toNat) = s.units g k := by rw [List.map_map]; rfl
  have hrd := ((s.noteReads [gRef g.toNat]).shortWords (s.units g k)).readShort_plain (by rw [State.shortWords_eq, n.state]; exact he) (s.units g k)
    (fun va hva => by
      obtain ⟨j, hj, rfl⟩ := List.mem_map.1 hva
      obtain ⟨p, hp, -⟩ := ho.place hj
      exact ⟨p, (hq.resolve_shortWords _ _).trans hp⟩)
  have hkeep : (if z = 1 then 0 else (s.noteReads [gRef g.toNat]).me.keep d) = s.me.kept z d := by
    obtain ⟨a, b, h⟩ := hq.me
    rw [h]; rfl
  rw [hv, hq.padFree, ho.free, ho.short i hi, if_pos (show (!false && true && true) = true from rfl), memIssue_ok _ _ _ (hq.maySend hm), hrd, hkeep]
  simp only [hq.peek_shortWords]
  rw [State.units, List.map_map]
  rfl

theorem Quiet.nextPc {s t : State} (q : Quiet s t) (n : Nat) : t.me.nextPc n = s.me.nextPc n := by
  obtain ⟨a, b, h⟩ := q.me
  rw [h]
  rfl

theorem Thread.nextPc_setV (t : Thread) (d : BitVec 4) (v : Vec) (n : Nat) : (t.setV d v).nextPc n = t.nextPc n := rfl

/-- Registers that change do not change the banks that a thread has touched. -/
theorem Thread.OnlyRegs.tbanks {a b : Thread} (h : a.OnlyRegs b) : b.tbanks = a.tbanks := by
  unfold Thread.OnlyRegs at h
  rw [h]

/-- What a short access at issue leaves, from what its registers leave (R47, R135). -/
theorem OnlyRegs.short {s D : State} {l : List RegRef} (h : OnlyRegs s D l []) (words : List Nat) : ShortRegs s { D with banks := (s.shortWords words).banks } false words l := by
  have hb : ({ ({ D with banks := (s.shortWords words).banks } : State) with banks := s.banks } : State) = D := by
    have hs : D.banks = s.banks := by rw [h.state]
    rw [← hs]
  refine ⟨rfl, fun _ => h.me.tbanks, ?_⟩
  rw [hb]
  have hm : (D.upd (fun x => { x with tbanks := s.me.tbanks })).me = D.me := by rw [State.me_upd, ← h.me.tbanks]
  have hc : D.cur = s.cur := by rw [h.state]
  refine ⟨?_, h.bytes, fun u hu => ?_, h.cores, h.lines, h.plb, hm ▸ h.me, hm ▸ h.regs, hm ▸ h.masks⟩
  · exact congrArg (fun x : State => { x with threads := (D.upd (fun x => { x with tbanks := s.me.tbanks })).threads }) h.state
  · rw [State.thread_upd, if_neg (hc ▸ hu), h.others u hu]

/-- The thread behind VLD. -/
theorem me_done_setV (s : State) (d : BitVec 4) (v : Vec) : (s.done 4 (fun t => t.setV d v)).me = (s.me.setV d v).advance 4 s.now := by
  simp [State.done, State.advance]

theorem vv_done_setV (s : State) (d : BitVec 4) (v : Vec) : (s.done 4 (fun t => t.setV d v)).me.vv d = v := by
  refine BitVec.eq_of_toNat_eq ?_
  rw [Thread.vv_eq, me_done_setV, Thread.advance_valOf, Thread.setV_eq, Thread.valOf_put, if_pos rfl, if_neg (by simp [vRef, gRef])]
  exact Nat.mod_eq_of_lt (BitVec.isLt _)

/-- VLD performed at issue in the core's own scratchpad (R11, R197, R198). -/
theorem vld_reads {q : BitVec 2} {g : BitVec 6} {d : BitVec 4} {k : BitVec 3} {z : BitVec 1} {s : State} (hl : predOk k z = true)
    (hm : s.MaySend .none) (ho : s.OwnLanes g k Rights.r) (hr : s.Ready [gRef g.toNat] [vRef d.toNat]) (he : s.ecc = []) :
    ∃ t, exec (.vld q g k z d) s = .next t ∧ t.me.stOf (vRef d.toNat) = .full ∧
      (∀ j, j < 32 → (j ∈ s.activeLanes k → ∀ p, s.resolve s.cur (s.unit g j).toNat = some p → lane (t.me.vv d) j = BitVec.ofNat 32 (s.getN p.chipKey 4)) ∧
        (j ∉ s.activeLanes k → lane (t.me.vv d) j = if z = 1 ∨ (s.me.stOf (vRef d.toNat)).empty = true then 0 else lane (s.me.vv d) j)) ∧
      t.me.pc = s.me.nextPc 4 ∧ ShortRegs s t false (s.units g k) [vRef d.toNat] := by
  have hq := (s.noted [gRef g.toNat]).quiet
  have hD := onlyRegs_put s [gRef g.toNat] 4 (vRef d.toNat) (s.loaded g k z d).toNat (fun t => t.setV d (s.loaded g k z d)) (Thread.setV_eq _ _ _)
  have hm1 := me_done_setV (s.noteReads [gRef g.toNat]) d (s.loaded g k z d)
  have hv := vv_done_setV (s.noteReads [gRef g.toNat]) d (s.loaded g k z d)
  have hT : ((s.noteReads [gRef g.toNat]).shortWords (s.units g k)).done 4 (fun t => t.setV d (s.loaded g k z d)) =
      { (s.noteReads [gRef g.toNat]).done 4 (fun t => t.setV d (s.loaded g k z d)) with banks := (s.shortWords (s.units g k)).banks } := by
    rw [State.shortWords_eq, hq.shortWords_banks ho.units_short]; rfl
  refine ⟨_, (vld_at_issue hl hm ho hr he).trans (congrArg _ hT), ?_, fun j hj => ⟨fun ha p hp => ?_, fun ha => ?_⟩, ?_, hD.short _⟩
  · refine (congrArg (Thread.stOf · _) hm1).trans ?_
    rw [Thread.advance_stOf, Thread.setV_eq, Thread.stOf_put, if_pos rfl, if_neg (by simp [vRef, gRef])]
  · refine (congrArg (lane · j) hv).trans ?_
    rw [State.loaded, lane_fillLanes _ _ _ _ hj, if_pos ha, State.keyAt_some hp, State.getN_eq]
  · refine (congrArg (lane · j) hv).trans ?_
    rw [State.loaded, lane_fillLanes _ _ _ _ hj, if_neg ha, lane_kept]
  · refine (congrArg Thread.pc hm1).trans ?_
    rw [Thread.advance_pc, Thread.nextPc_setV, hq.nextPc]

/-! ## VST -/

/-- The words that VST writes. -/
def State.stores (s : State) (g : BitVec 6) (k : BitVec 3) (d : BitVec 4) : List (Nat × List Byte) :=
  (s.activeLanes k).map (fun j => ((s.unit g j).toNat, natToBytes 4 (lane (s.me.vv d) j).toNat))

theorem vst_at_issue {q : BitVec 2} {g : BitVec 6} {d : BitVec 4} {k : BitVec 3} {z : BitVec 1} {s : State} (hl : predOk k z = true)
    (hm : s.MaySend .none) (ho : s.OwnLanes g k Rights.w) (hr : s.Ready [vRef d.toNat, gRef g.toNat] []) :
    exec (.vst q g k z d) s = .next ((((s.noteReads [vRef d.toNat, gRef g.toNat]).shortWords (s.units g k)).writeShort (s.stores g k d)).advance 4) := by
  have hq := (s.noted [vRef d.toNat, gRef g.toNat]).quiet
  show Host.Outcome.next (vecStore q false [gRef g.toNat] (fun t i => t.gv g + BitVec.ofNat 64 (4 * i)) g k z d s) = _
  refine congrArg Host.Outcome.next ?_
  obtain ⟨i, rest, hc, hi⟩ := State.units_ne g ho.lanes
  have hv : ((s.activeLanes k).map (fun j => (j, s.unit g j))).map (fun e => e.2.toNat) = s.units g k := by rw [List.map_map]; rfl
  have hd : ((s.activeLanes k).map (fun j => (j, s.unit g j))).map (fun e => (e.2.toNat, natToBytes 4 (lane ((s.noteReads [vRef d.toNat, gRef g.toNat]).me.vv d) e.1).toNat)) =
      s.stores g k d := by
    obtain ⟨a, b, h⟩ := hq.me
    rw [List.map_map, h]; rfl
  rw [vecStore, issue_ready _ _ s hl (by simp) hr]
  dsimp only
  rw [List.singleton_append, hq.active g k, hc]
  dsimp only
  rw [← hc, ho.checks hq, hv, hd, hq.padFree, ho.free, ho.short i hi, if_pos (show (!false && true && true) = true from rfl),
    memIssue_ok _ _ _ (hq.maySend hm)]

/-- The ranges that VST writes are apart. -/
theorem State.OwnLanes.stores_apart {s : State} {g : BitVec 6} {k : BitVec 3} {need : Rights → Bool} (h : s.OwnLanes g k need) (d : BitVec 4) :
    ((s.stores g k d).map (fun e => (s.keyAt e.1, e.2))).Pairwise Apart := by
  have hn : (s.activeLanes k).Pairwise (· ≠ ·) := List.nodup_range.filter _
  rw [State.stores, List.map_map, List.pairwise_map]
  refine List.Pairwise.imp_of_mem (fun {i j} hi hj hij => ?_) hn
  simpa [Apart, natToBytes] using h.apart hi hj hij

/-- A change of the issuing thread that keeps its reservation leaves none held where none was. -/
theorem State.upd_resv {s : State} {f : Thread → Thread} (hf : ∀ t, (f t).resv = t.resv) (h : ∀ e ∈ s.threads, e.2.resv = none) :
    ∀ e ∈ (s.upd f).threads, e.2.resv = none := by
  intro e he
  rcases mem_tput (show e ∈ tput {} s.threads s.cur (f s.me) from he) with rfl | hm
  · refine (hf _).trans ?_
    rcases tget_mem {} s.threads s.cur with hd | hd
    · rw [State.me, State.thread, hd]
    · exact h _ hd
  · exact h e hm

theorem State.dropSI_threads (s : State) (t : Nat) : (s.dropSI t).threads = s.threads := by
  unfold State.dropSI
  split <;> rfl

/-- Noting reads takes and drops no reservation (R139). -/
theorem State.noteReads_resv {s : State} (l : List RegRef) (h : ∀ e ∈ s.threads, e.2.resv = none) : ∀ e ∈ (s.noteReads l).threads, e.2.resv = none := by
  unfold State.noteReads
  extract_lets t s1
  have h1 : ∀ e ∈ s1.threads, e.2.resv = none := by
    by_cases hb : t.sibUnread.any (fun e => l.contains (gRef e.1)) = true
    · simp only [s1, hb, if_true]
      exact State.upd_resv (fun _ => rfl) h
    · simp only [s1, hb]
      exact h
  split
  · rw [State.dropSI_threads]
    exact State.upd_resv (by exact fun _ => rfl) h1
  · exact h1

/-- Nothing waits behind noted reads where nothing did. -/
theorem State.noteReads_unwatched {s : State} (l : List RegRef) (h : s.Unwatched) : (s.noteReads l).Unwatched := by
  have n := s.noted l
  refine ⟨?_, ?_, ?_, ?_, State.noteReads_resv l h.resv⟩
  all_goals rw [n.state]
  · exact h.syncq
  · exact h.syncIn
  · exact h.waiters
  · exact h.ecc

/-- What VST writes, its thread not yet gone on. -/
theorem vst_written {g : BitVec 6} {k : BitVec 3} {s t : State} (d : BitVec 4) (hq : Quiet s t) (ho : s.OwnLanes g k Rights.w) (hu : t.Unwatched) :
    Wrote t ((t.shortWords (s.units g k)).writeShort (s.stores g k d)) ∧
      ((t.shortWords (s.units g k)).writeShort (s.stores g k d)).mem = pokes s.mem ((s.stores g k d).map (fun e => (s.keyAt e.1, e.2))) := by
  have hS : Wrote t (t.shortWords (s.units g k)) := by
    rw [State.shortWords_eq]
    exact ⟨rfl, rfl, rfl, rfl, fun _ => rfl, hu.same rfl rfl rfl rfl rfl⟩
  obtain ⟨hw, hm⟩ := hS.unwatched.writeShort (s.stores g k d) (fun e he => by
    obtain ⟨j, hj, rfl⟩ := List.mem_map.1 he
    obtain ⟨p, hp, -⟩ := ho.place hj
    exact ⟨p, (hq.resolve_shortWords _ _).trans hp⟩)
  have hk : ∀ va, (t.shortWords (s.units g k)).keyAt va = s.keyAt va := fun va => by
    unfold State.keyAt
    rw [hq.resolve_shortWords]
  have hm0 : (t.shortWords (s.units g k)).mem = s.mem := by rw [State.shortWords_eq, hq.state]
  refine ⟨hS.trans hw, ?_⟩
  rw [hm, hm0]
  simp only [hk]

/-- VST performed at issue in the core's own scratchpad (R11, R197, R198). -/
theorem vst_writes {q : BitVec 2} {g : BitVec 6} {d : BitVec 4} {k : BitVec 3} {z : BitVec 1} {s : State} (hl : predOk k z = true)
    (hm : s.MaySend .none) (ho : s.OwnLanes g k Rights.w) (hr : s.Ready [vRef d.toNat, gRef g.toNat] []) (hc : s.Calm) :
    ∃ t, exec (.vst q g k z d) s = .next t ∧ t.me.pc = s.me.nextPc 4 ∧
      (∀ j ∈ s.activeLanes k, ∀ p, s.resolve s.cur (s.unit g j).toNat = some p → t.getN p.chipKey 4 = (lane (s.me.vv d) j).toNat) ∧
      (∀ x, (∀ j ∈ s.activeLanes k, ∀ p, s.resolve s.cur (s.unit g j).toNat = some p → x < p.chipKey ∨ p.chipKey + 4 ≤ x) → t.byte x = s.byte x) ∧
      (∀ r, t.me.stOf r = s.me.stOf r ∧ t.me.valOf r = s.me.valOf r) ∧ (∀ i, t.me.kReg i = s.me.kReg i) ∧ t.me.special = s.me.special ∧
      (∀ u, u ≠ s.cur → t.thread u = s.thread u) := by
  have n := s.noted [vRef d.toNat, gRef g.toNat]
  have hq := n.quiet
  obtain ⟨hw, hmem⟩ := vst_written d hq ho (State.noteReads_unwatched [vRef d.toNat, gRef g.toNat] hc.unwatched)
  have he := vst_at_issue (q := q) hl hm ho hr
  generalize (s.noteReads [vRef d.toNat, gRef g.toNat]) = s1 at *
  generalize ((s1.shortWords (s.units g k)).writeShort (s.stores g k d)) = W at *
  have hme : (W.advance 4).me = s1.me.advance 4 W.now := by rw [State.advance, State.me_upd, hw.me]
  have hb : ∀ x, (W.advance 4).byte x = tget 0 (pokes s.mem ((s.stores g k d).map (fun e => (s.keyAt e.1, e.2)))) x := fun x => by
    rw [← hmem]; rfl
  have hap := ho.stores_apart d
  obtain ⟨a, b, hs1⟩ := hq.me
  refine ⟨_, he, ?_, fun j hj p hp => ?_, fun x hx => ?_, fun r => ?_, fun i => ?_, ?_, fun u hu => ?_⟩
  · rw [hme, Thread.advance_pc, hq.nextPc]
  · refine getN_of_bytes _ _ _ (fun i hi => ?_) (BitVec.isLt _)
    have hin : (p.chipKey, natToBytes 4 (lane (s.me.vv d) j).toNat) ∈ (s.stores g k d).map (fun e => (s.keyAt e.1, e.2)) :=
      List.mem_map.2 ⟨_, List.mem_map.2 ⟨j, hj, rfl⟩, by rw [State.keyAt_some hp]⟩
    rw [hb, tget_pokes_in (a := p.chipKey + i) (Nat.le_add_right _ _) (by simp [natToBytes]; omega) _ _ hap hin, Nat.add_sub_cancel_left]
  · rw [hb]
    refine tget_pokes_out _ _ (fun e he => ?_)
    obtain ⟨y, hy, rfl⟩ := List.mem_map.1 he
    obtain ⟨j, hj, rfl⟩ := List.mem_map.1 hy
    obtain ⟨p, hp, -⟩ := ho.place hj
    simpa [State.keyAt_some hp, natToBytes] using hx j hj p hp
  · rw [hme, Thread.advance_stOf, Thread.advance_valOf]
    exact ⟨hq.stOf r, hq.valOf r⟩
  · rw [hme, Thread.advance_kReg, hs1]
    rfl
  · rw [hme]
    simp [Thread.special, hs1]
  · have hcur : W.cur = s.cur := hw.cur.trans hq.cur
    rw [State.advance, State.thread_upd, if_neg (hcur ▸ hu), hw.thread, hq.others u hu]

end Sys2Proof.Machine
end

section
open Sys2Proof Sys2Proof.Machine

/-- Settles O32: the lanes pass their checks with nothing changed, a load fills the vector from their words, and a store writes ranges that lie
apart. -/
theorem vectorAtIssue : Obligations.VectorAtIssue := by
  unfold Obligations.VectorAtIssue
  intro q g d k z s hl hm hne ea hshort hfree
  exact ⟨fun hr hreach he => vld_reads hl hm ⟨hne, hshort, hfree, hreach⟩ hr he,
    fun hr hreach hc => vst_writes hl hm ⟨hne, hshort, hfree, hreach⟩ hr hc⟩

end

section
/-!
O40, first part: packets enter their source router's pool, hop, wait and are delivered (R277 to R285).
-/

namespace Sys2Proof.Machine

/-! ## Packets and requests in their lists -/

/-- The first entry with a number, changed where it stands. -/
theorem find_updEach {α : Type} (key : α → Nat) (f : α → α) {id : Nat} {a : α} (hf : key (f a) = id) :
    ∀ {l : List α}, l.find? (fun x => decide (key x = id)) = some a → (updEach (fun x => key x == id) f l).find? (fun x => decide (key x = id)) = some (f a)
  | [], h => by cases h
  | x :: l, h => by
    unfold updEach
    rw [List.map_cons]
    by_cases hx : key x = id
    · rw [List.find?_cons_of_pos (by simpa using hx)] at h
      cases h
      rw [if_pos (by simpa using hx), List.find?_cons_of_pos (by simpa using hf)]
    · rw [List.find?_cons_of_neg (by simpa using hx)] at h
      rw [if_neg (by simpa using hx), List.find?_cons_of_neg (by simpa using hx)]
      exact find_updEach key f hf h

theorem State.packet_updPacket {s : State} {id : Nat} {p : Packet} (h : s.packet id = some p) (f : Packet → Packet) (hf : (f p).id = id) :
    (s.updPacket id f).packet id = some (f p) := find_updEach Packet.id f hf h

theorem State.req_updReq {s : State} {id : Nat} {r : Req} (h : s.req id = some r) (f : Req → Req) (hf : (f r).id = id) :
    (s.updReq id f).req id = some (f r) := find_updEach Req.id f hf h

theorem State.packet_dropPacket (s : State) (id : Nat) : (s.dropPacket id).packet id = none := by
  unfold State.dropPacket State.packet
  simp

theorem OnlyWork.packet {s t : State} (h : OnlyWork s t) (id : Nat) : t.packet id = s.packet id := by rw [h.state]; rfl

theorem Aside.updPacket (s : State) (id : Nat) (f : Packet → Packet) (l : List Nat) : Aside s (s.updPacket id f) l := ⟨fun _ => rfl, rfl, fun _ _ => rfl⟩

/-! ## The next attempt -/

theorem OnlyWork.nextHop (s : State) (p : Packet) (d : Nat) : OnlyWork s (s.nextHop p d) := by
  unfold State.nextHop
  split
  · exact .after _ _ _
  · exact .after _ _ _

theorem State.placed_nextHop (s : State) (p : Packet) (d : Nat) : ∃ n, (s.nextHop p d).Placed n (.packetHop p.id) ∨ (s.nextHop p d).Placed n (.packetDelivery p.id) := by
  unfold State.nextHop
  split
  · exact ⟨_, .inr (s.placed_after _ _)⟩
  · exact ⟨_, .inl (s.placed_after _ _)⟩

/-- A packet that has entered an input tries its next one later. -/
theorem hop_enters {s x : State} {p q : Packet} {d : Nat} {l : List Nat}
    (he : exec (.packetHop p.id) s = .next ((x.updPacket p.id (fun _ => q)).nextHop q d)) (hq : q.id = p.id) (hp : x.packet p.id = some p) (ha : Aside s x l) :
    ∃ t n, exec (.packetHop p.id) s = .next t ∧ t.packet p.id = some q ∧ (t.Placed n (.packetHop p.id) ∨ t.Placed n (.packetDelivery p.id)) ∧ Aside s t l := by
  have hw := OnlyWork.nextHop (x.updPacket p.id (fun _ => q)) q d
  obtain ⟨n, hn⟩ := State.placed_nextHop (x.updPacket p.id (fun _ => q)) q d
  refine ⟨_, n, he, ?_, hq ▸ hn, (ha.trans (Aside.updPacket x _ _ l) (fun _ h => h)).trans (hw.aside l) (fun _ h => h)⟩
  rw [hw.packet]
  exact State.packet_updPacket hp _ hq

/-- A release of a thread whose core has no line to write back changes what banks the thread has touched (R135). -/
theorem State.releaseFence_plain (s : State) {t : Nat} (hl : (s.core (coreOf t)).lines = []) :
    ∃ w, s.releaseFence t = s.updThread t (fun x => { x with tbanks := w }) := by
  have hb : s.writeBackThread t = s := by
    unfold State.writeBackThread
    simp only [hl, List.filter_nil, List.isEmpty_nil, if_true]
  unfold State.releaseFence
  rw [hb]
  exact ⟨_, rfl⟩

/-- The three reasons for which an output does not take a packet, as one (R281, R287). -/
theorem out_taken (a b c : Bool) : (!a || b || !c) = !(a && !b && c) := by simp [Bool.not_and]

/-- A packet on its way along a ring: past the ring's end it changes to the other virtual channel (R279). -/
def Packet.along (p : Packet) (column : Bool) (o : Output) : Packet :=
  let here := if column then lrow p.at_ else lcol p.at_
  let cw := o.port % 2 == 1
  { p with onColumn := column, cw := cw, vc := (p.onRing column && p.vc) || ((cw && here == 7) || (!cw && here == 0)) }

/-- A packet whose header has entered its next input. -/
def Packet.into (p : Packet) (o : Output) (esc : Bool) (at_ stop : Nat) : Packet :=
  { p with at_ := o.next, place := if esc then .escape else .pool, entered := at_, waited := 0, aged := false, stop := stop,
           trail := { router := o.next, port := o.port, escape := esc, stop := stop, since := at_ } :: p.trail }

/-- Whether an output takes a packet at a cycle (R281, R287). -/
def State.outFree (s : State) (p : Packet) (o : Output) (at_ : Nat) : Bool := s.mayStart p o && !s.linkBusy p o at_ && s.wins p o at_

section
variable {s : State} {p : Packet} (hp : s.packet p.id = some p)
include hp

/-- A packet that has not won its output waits (R281). -/
theorem hop_waits (he : exec (.packetHop p.id) s = .next (State.hop.wait p.id s p)) : ∃ t, exec (.packetHop p.id) s = .next t ∧
    t.packet p.id = some { p with waited := p.waited + 1 } ∧ t.Placed (s.now + 1) (.packetHop p.id) ∧
    (p.waited = 0 → s.levelOf p.ctx ≠ 3 → t.Placed (s.now + 64) (.outputAging p.id)) ∧ Aside s t [] := by
  let s1 := (s.updPacket p.id (fun q => { q with waited := q.waited + 1 })).after 1 (.packetHop p.id)
  have hw : OnlyWork s1 (State.hop.wait p.id s p) := .ite (.after _ _ _) (.refl _)
  have h1 : OnlyWork (s.updPacket p.id (fun q => { q with waited := q.waited + 1 })) s1 := .after _ _ _
  refine ⟨_, he, ?_, hw.isPlaced (State.placed_after _ _ _), fun h0 hl => ?_,
    (Aside.updPacket s _ _ _).trans ((h1.trans hw).aside _) (fun _ h => h)⟩
  · rw [(h1.trans hw).packet]
    exact State.packet_updPacket hp _ rfl
  · have hf : s.fixedPkt p = false := by simpa [State.fixedPkt] using hl
    have hc : State.hop.wait p.id s p = s1.after Config.outputAge (.outputAging p.id) := by
      unfold State.hop.wait
      rw [h0, hf]
      rfl
    rw [hc]
    exact s1.placed_after _ _

/-- A packet in its pool, its header just entered (R278). -/
def State.pooled (s : State) (p : Packet) : Packet :=
  { p with dst := s.lookup p, place := .pool, entered := s.now, trail := [{ router := p.at_, port := 5, escape := false, stop := 0, since := s.now }] }

/-- What a packet that nothing keeps in its source does (R273, R278). -/
theorem hop_source_eq (hs : p.place = .source) (hst : s.streamAny p (fun q => decide (q.place = .source)) = false)
    (hh : p.typ = 2 ∨ s.req p.req = none ∨ ∃ r, s.req p.req = some r ∧ s.held r = false) {x : State} (hx : (if p.typ ≤ 1 then s.releaseFence p.tid else s) = x) :
    s.hop p.id = if !x.tenantOk p.at_ p.tenant then x.dropPkt p p.at_ 3 else if 11 ≤ p.typ then x.dropPkt p p.at_ 4
      else (x.updPacket p.id (fun _ => x.pooled p)).nextHop (x.pooled p) 0 := by
  have hst' : s.streamAny p (fun q => q.place == .source) = false := hst
  unfold State.hop
  cases hr : s.req p.req with
  | none =>
    simp only [hp, hs, hr, hst', Bool.or_self, Bool.false_eq_true, if_false, hx]
    rfl
  | some r =>
    have hb : (p.typ != 2 && s.held r) = false := by
      rcases hh with h | h | ⟨q, h, hq⟩
      · simp [h]
      · rw [hr] at h; cases h
      · rw [hr] at h; cases h; simp [hq]
    simp only [hp, hs, hr, hb, hst', Bool.or_self, Bool.false_eq_true, if_false, hx]
    rfl

/-- A packet enters its source router's pool (R273, R278). -/
theorem hop_from_source (hs : p.place = .source) (ht : p.typ ≤ 2) (hok : s.tenantOk p.at_ p.tenant = true)
    (hst : s.streamAny p (fun q => decide (q.place = .source)) = false)
    (hh : p.typ = 2 ∨ s.req p.req = none ∨ ∃ r, s.req p.req = some r ∧ s.held r = false) (hl : p.typ = 2 ∨ (s.core (coreOf p.tid)).lines = []) :
    ∃ t n, exec (.packetHop p.id) s = .next t ∧ t.packet p.id = some (s.pooled p) ∧
      (t.Placed n (.packetHop p.id) ∨ t.Placed n (.packetDelivery p.id)) ∧ Aside s t [p.tid] := by
  obtain ⟨x, hx, hxp, hxl, hxt, ha⟩ : ∃ x, (if p.typ ≤ 1 then s.releaseFence p.tid else s) = x ∧ x.packet p.id = some p ∧ x.pooled p = s.pooled p ∧
      x.tenantOk p.at_ p.tenant = true ∧ Aside s x [p.tid] := by
    by_cases h2 : p.typ ≤ 1
    · obtain ⟨w, hw⟩ := s.releaseFence_plain (hl.resolve_left (by omega))
      exact ⟨_, (if_pos h2).trans hw, hp, rfl, hok, Aside.updThread s p.tid _⟩
    · exact ⟨s, if_neg h2, hp, rfl, hok, Aside.refl s _⟩
  have he := hop_source_eq hp hs hst hh hx
  rw [hxt, if_neg (by simp), if_neg (by omega)] at he
  obtain ⟨t, n, h1, h2, h3⟩ := hop_enters (congrArg Host.Outcome.next he) rfl hxp ha
  exact ⟨t, n, h1, hxl ▸ h2, h3⟩

/-- A packet that a source router does not take goes, where no request waits for it (R285). -/
theorem hop_drops (hs : p.place = .source) (ht : p.typ = 2) (hok : s.tenantOk p.at_ p.tenant = false) (hr : s.req p.req = none) :
    ∃ t, exec (.packetHop p.id) s = .next t ∧ t.packet p.id = none ∧ Aside s t [] := by
  have hst : s.streamAny p (fun q => decide (q.place = .source)) = false := by
    unfold State.streamAny sameStream
    rw [ht]
    simp
  have he : s.hop p.id = State.dropPkt.drop p p.at_ 3 s := by
    rw [hop_source_eq hp hs hst (.inl ht) (if_neg (by omega)), hok, Bool.not_false, if_pos rfl]
    unfold State.dropPkt
    rw [ht]
    rfl
  obtain ⟨dies, hd⟩ := s.logError_state (if p.at_ < 4096 then dieOf p.at_ else (p.at_ - 4096) / 4) 3 (if p.at_ < 4096 then 1 else 2) (p.at_ % 4096) 0
    (p.header % 2 ^ 64)
  have hx : State.dropPkt.drop p p.at_ 3 s = ({ s with dies := dies } : State).dropPacket p.id := by
    have hr' : (({ s with dies := dies } : State).dropPacket p.id).req p.req = none := hr
    unfold State.dropPkt.drop
    simp only [show ¬ (3 = 6) by decide, if_false, hd, hr']
  refine ⟨_, congrArg Host.Outcome.next (he.trans hx), State.packet_dropPacket _ _, ?_⟩
  exact ⟨fun _ => rfl, rfl, fun _ _ => rfl⟩

/-! ## Hops on rings and through gateways -/

section
variable {o : Output} (hpl : p.place = .pool ∨ p.place = .escape) (hw : s.wants p = some o)
include hpl hw

section
variable {column : Bool} {toward : Nat} (hh : hopOf p.at_ p.dst = .ring column toward)
include hh

/-- A packet enters the next router of a ring (R277 to R281). -/
theorem hop_ring_enters {esc : Bool} (ha : s.admits p o.next o.port s.now = some esc) (hf : s.outFree p o s.now = true)
    (ht : s.tenantOk o.next p.tenant = true) : ∃ t n, exec (.packetHop p.id) s = .next t ∧
      t.packet p.id = some ((p.along column o).into o esc s.now (p.stopAt o.port)) ∧
      (t.Placed n (.packetHop p.id) ∨ t.Placed n (.packetDelivery p.id)) ∧ Aside s t [] := by
  have hn : (!s.mayStart p o || s.linkBusy p o s.now || !s.wins p o s.now) = false := by
    rw [out_taken]
    exact congrArg Bool.not hf
  refine hop_enters (x := s) (d := 0) (congrArg Host.Outcome.next (?_ : s.hop p.id = _)) rfl hp (Aside.refl s _)
  unfold State.hop
  rcases hpl with h | h <;> simp only [hp, h, hh, hw, ha, hn, ht, Bool.false_eq_true, Bool.not_true, if_false] <;> rfl

/-- A packet that its next router of a ring does not admit, or that has not won the output, waits (R280, R281). -/
theorem hop_ring_waits (hf : s.admits p o.next o.port s.now = none ∨ s.outFree p o s.now = false) : s.hop p.id = State.hop.wait p.id s p := by
  unfold State.hop
  cases ha : s.admits p o.next o.port s.now with
  | none =>
    rcases hpl with h | h <;> simp only [hp, h, hh, hw, ha]
  | some esc =>
    have hn : (!s.mayStart p o || s.linkBusy p o s.now || !s.wins p o s.now) = true := by
      rw [out_taken]
      exact congrArg Bool.not (hf.resolve_left (by rw [ha]; exact Option.some_ne_none esc))
    rcases hpl with h | h <;> simp only [hp, h, hh, hw, ha, hn, if_true]

end

section
variable {next port cost link : Nat} {units : List Nat} (hh : hopOf p.at_ p.dst = .gate next port cost link units)
  (hu : ∀ u ∈ units, s.tenantOk u p.tenant = true) (hl : s.linkAlive link = true)
include hh hu hl

/-- A packet enters the far side of a gateway (R283). -/
theorem hop_gate_enters {esc : Bool} (ha : s.admits p next port (s.now + (cost - 2)) = some esc) (hf : s.outFree p o (s.now + (cost - 2)) = true)
    (ht : port = 7 ∨ s.tenantOk next p.tenant = true) : ∃ t n, exec (.packetHop p.id) s = .next t ∧
      t.packet p.id = some (({ p with vc := false } : Packet).into o esc (s.now + (cost - 2)) 0) ∧
      (t.Placed n (.packetHop p.id) ∨ t.Placed n (.packetDelivery p.id)) ∧ Aside s t [] := by
  have hn : (!s.mayStart p o || s.linkBusy p o (s.now + (cost - 2)) || !s.wins p o (s.now + (cost - 2))) = false := by
    rw [out_taken]
    exact congrArg Bool.not hf
  have hf2 : units.find? (fun u => !s.tenantOk u p.tenant) = none := by
    rw [List.find?_eq_none]
    exact fun u hm => by simp [hu u hm]
  have ht2 : ¬ (port ≠ 7 ∧ (!s.tenantOk next p.tenant) = true) := fun ⟨h1, h2⟩ => by
    rw [ht.resolve_left h1] at h2
    cases h2
  refine hop_enters (x := s) (d := cost - 2) (congrArg Host.Outcome.next (?_ : s.hop p.id = _)) rfl hp (Aside.refl s _)
  unfold State.hop
  rcases hpl with h | h <;> simp only [hp, h, hh, hw, hf2, hl, ha, hn, ht2, Bool.false_eq_true, Bool.not_true, if_false] <;> rfl

/-- A packet that the far side does not admit, or that has not won the gateway, waits (R280, R281). -/
theorem hop_gate_waits (hf : s.admits p next port (s.now + (cost - 2)) = none ∨ s.outFree p o (s.now + (cost - 2)) = false) :
    s.hop p.id = State.hop.wait p.id s p := by
  have hf2 : units.find? (fun u => !s.tenantOk u p.tenant) = none := by
    rw [List.find?_eq_none]
    exact fun u hm => by simp [hu u hm]
  unfold State.hop
  cases ha : s.admits p next port (s.now + (cost - 2)) with
  | none =>
    rcases hpl with h | h <;> simp only [hp, h, hh, hw, hf2, hl, ha, Bool.not_true, Bool.false_eq_true, if_false]
  | some esc =>
    have hn : (!s.mayStart p o || s.linkBusy p o (s.now + (cost - 2)) || !s.wins p o (s.now + (cost - 2))) = true := by
      rw [out_taken]
      exact congrArg Bool.not (hf.resolve_left (by rw [ha]; exact Option.some_ne_none esc))
    rcases hpl with h | h <;> simp only [hp, h, hh, hw, hf2, hl, ha, hn, Bool.not_true, Bool.false_eq_true, if_true, if_false]

end

end

/-! ## Age and delivery -/

/-- A packet that has waited 64 cycles is of class 1 (R281). -/
theorem outputAging_ages (hw : 64 ≤ p.waited) (hl : s.levelOf p.ctx ≠ 3) :
    ∃ t, exec (.outputAging p.id) s = .next t ∧ t.packet p.id = some { p with aged := true } ∧ Aside s t [] := by
  have hc : Config.outputAge ≤ p.waited ∧ (!s.fixedPkt p) = true := ⟨hw, by simpa [State.fixedPkt] using hl⟩
  refine ⟨s.updPacket p.id (fun q => { q with aged := true }), ?_, State.packet_updPacket hp _ rfl, Aside.updPacket s _ _ _⟩
  show execOutputAging p.id s = _
  simp only [execOutputAging, hp, hc, and_self, if_true]

/-- A message or a fill that is at its core's router is delivered behind the earlier packets of its stream (R278, R282). -/
theorem packetDelivery_delivers {i : Instr} (hpl : p.place = .pool) (hh : hopOf p.at_ p.dst = .arrive)
    (hst : s.streamAny p (fun q => decide (q.place ≠ .arrived)) = false) (hi : p.typ = 0 ∧ i = .messageArrival p.id ∨ p.typ = 1 ∧ i = .rfillArrival p.id) :
    ∃ t, exec (.packetDelivery p.id) s = .next t ∧ t.packet p.id = some { p with place := .arrived, trail := [] } ∧ t.pend = tins s.pend s.now i ∧
      Aside s t [] := by
  have hw := OnlyWork.after (s.updPacket p.id (fun q => { q with place := .arrived, trail := [] })) 0 i
  refine ⟨(s.updPacket p.id (fun q => { q with place := .arrived, trail := [] })).after 0 i, ?_, (hw.packet _).trans (State.packet_updPacket hp _ rfl), rfl,
    (Aside.updPacket s _ _ _).trans (hw.aside _) (fun _ h => h)⟩
  show execPacketDelivery p.id s = _
  rcases hi with ⟨ht, rfl⟩ | ⟨ht, rfl⟩
  · simp only [execPacketDelivery, hp, hpl, hst, hh, ht, reduceCtorEq, or_self, Bool.false_eq_true, if_false]
  · simp only [execPacketDelivery, hp, hpl, hst, hh, ht, reduceCtorEq, or_self, Bool.false_eq_true, if_false]

end

end Sys2Proof.Machine
end

section
/-!
O40, second part: what packets bring — messages and their handlers, register fills, and events (R26, R290, R292, R329).
-/

namespace Sys2Proof.Machine

/-! ## Answers -/

/-- What an answer to a packet is (R275). -/
structure Answers (s : State) (p : Packet) (status : Nat) (q : Packet) : Prop where
  id : q.id = s.nextId
  typ : q.typ = 2
  req : q.req = p.req
  arg : q.arg = status % 2
  handler : q.handler = 0
  src : q.src = s.nameOf p.dst
  dst : q.dst = routerOf (coreOf p.tid)

/-- An answer joins the packets on their way, and that is all but its next step. -/
structure Acked (s t : State) (p : Packet) (status : Nat) : Prop where
  answer : ∃ q, Answers s p status q ∧ t.packets = s.packets ++ [q]
  cores : t.cores = s.cores
  threads : t.threads = s.threads
  placed : ∀ n i, s.Placed n i → t.Placed n i
  aside : ∀ l, Aside s t l

theorem State.acked (s : State) (p : Packet) (status : Nat) : Acked s (s.ack p status) p status := by
  refine ⟨⟨_, ?_, rfl⟩, rfl, rfl, fun n i h => (mem_tins _ _ _ _).2 (.inr h), fun _ => ⟨fun _ => rfl, rfl, fun _ _ => rfl⟩⟩
  exact ⟨rfl, rfl, rfl, rfl, rfl, rfl, rfl⟩

section
variable {s : State} {ctx : Nat} (h0 : s.levelOf ctx = 0)
include h0

/-- At no level of the order roll an operation waits for none (R393). -/
theorem State.turnOf_plain (typ obj actor : Nat) (ord : Option Nat) : s.turnOf ctx typ obj actor ord = .free := by
  have hf : s.recordsFirst ctx typ obj actor ord = false := by
    unfold State.recordsFirst
    cases ord with
    | none => rfl
    | some o => simp only [State.recording_plain h0, Bool.not_false, Bool.true_or, if_true]
  unfold State.turnOf
  rw [State.replaying_plain h0, State.rollFull_plain h0, hf]
  rfl

end

theorem OnlyWork.nameOf {s t : State} (h : OnlyWork s t) (c : Nat) : t.nameOf c = s.nameOf c := by
  unfold State.nameOf
  rw [h.core c]

theorem State.nameOf_updCore (s : State) (c d : Nat) (f : Core → Core) (hf : ∀ x, (f x).moved = x.moved) : (s.updCore c f).nameOf d = s.nameOf d := by
  unfold State.nameOf
  rw [State.core_updCore]
  split
  · next h => subst h; rw [hf]
  · rfl

theorem Aside.dropPacket (s : State) (id : Nat) (l : List Nat) : Aside s (s.dropPacket id) l := ⟨fun _ => rfl, rfl, fun _ _ => rfl⟩

/-! ## Messages -/

theorem Core.enqueue_moved (c : Core) (m : Msg) : (c.enqueue m).moved = c.moved := by
  unfold Core.enqueue
  split <;> rfl

theorem Core.enqueue_msgs {c : Core} (m : Msg) (h : c.msgs.length < 32) (hs : c.msgSpill = []) : (c.enqueue m).msgs = c.msgs ++ [m] := by
  have hq : c.msgs.length < Config.msgQueue := h
  unfold Core.enqueue
  simp only [hq, hs, decide_true, List.isEmpty_nil, Bool.and_self, if_true]

/-- A message that finds room is queued at its core and acknowledged (R26, R290). -/
theorem messageArrival_queues {s : State} {p : Packet} (hp : s.packet p.id = some p) (hpl : p.place = .arrived) (ht : p.typ = 0)
    (hsp : s.spillAt p.dst p.tenant (.messageArrival p.id) = none) (h0 : s.levelOf p.ctx = 0) (hid : p.id < s.nextId) (hl : (s.core p.dst).msgs.length < 32)
    (hs : (s.core p.dst).msgSpill = []) :
    ∃ t n, exec (.messageArrival p.id) s = .next t ∧ (t.core p.dst).msgs = (s.core p.dst).msgs ++ [p.msg] ∧ t.packet p.id = none ∧
      t.Placed n (.handlerStart p.dst) ∧
      (∃ q ∈ t.packets, q.typ = 2 ∧ q.req = p.req ∧ q.arg = 0 ∧ q.handler = 0 ∧ q.src = s.nameOf p.dst ∧ q.dst = routerOf (coreOf p.tid)) ∧ Aside s t [] := by
  let s2 := (s.updCore p.dst (fun c => c.enqueue p.msg)).dropPacket p.id
  let s4 := (s2.wakeCore p.dst).afterOnce 0 (.handlerStart p.dst)
  have hw : OnlyWork s2 s4 := (OnlyWork.wakeCore s2 p.dst).trans (.afterOnce _ _ _)
  have hq : ¬ Config.msgQueue ≤ (s.core p.dst).msgs.length := Nat.not_le.2 hl
  have he : exec (.messageArrival p.id) s = .next (s4.ack p 0) := by
    show execMessageArrival p.id s = _
    simp only [execMessageArrival, hp, ht, hpl, ne_eq, not_true_eq_false, or_self, if_false, hsp, State.turnOf_plain h0, execMessageArrival.go,
      State.recording_plain h0, Bool.false_eq_true, hq, hs, decide_false, List.isEmpty_nil, Bool.not_true]
    rfl
  have hA := s4.acked p 0
  obtain ⟨q, hqa, hqs⟩ := hA.answer
  obtain ⟨n, hn⟩ := (s2.wakeCore p.dst).placed_afterOnce 0 (.handlerStart p.dst)
  have hpk : s4.packets = s.packets.filter (fun x => x.id != p.id) := by rw [hw.state]; rfl
  have hnid : s4.nextId = s.nextId := by rw [hw.state]; rfl
  have hc : (s.updCore p.dst (fun c => c.enqueue p.msg)).core p.dst = (s.core p.dst).enqueue p.msg := by rw [State.core_updCore, if_pos rfl]
  refine ⟨_, n, he, ?_, ?_, hA.placed _ _ hn, ⟨q, ?_, hqa.typ, hqa.req, hqa.arg, hqa.handler, ?_, hqa.dst⟩, ?_⟩
  · rw [State.core, hA.cores]
    exact (hw.msgs p.dst).trans ((congrArg Core.msgs hc).trans (Core.enqueue_msgs p.msg hl hs))
  · have hne : q.id ≠ p.id := by rw [hqa.id, hnid]; omega
    rw [State.packet, hqs, hpk, List.find?_append]
    simp [hne]
  · rw [hqs]
    exact List.mem_append_right _ List.mem_cons_self
  · rw [hqa.src, hw.nameOf]
    exact State.nameOf_updCore s p.dst p.dst (fun c => c.enqueue p.msg) (fun x => x.enqueue_moved _)
  · have h1 : Aside s s2 [] := Aside.updCore s p.dst (fun c => c.enqueue p.msg) _
    exact (h1.trans (hw.aside []) (fun _ h => h)).trans (hA.aside _) (fun _ h => h)

/-! ## Register fills -/

/-- A register that `EXPECT` left PENDING is filled, and its thread goes on (R97, R292). -/
def Thread.filledBy (t : Thread) (reg : RegRef) (v : BitVec 1024) : Thread :=
  { t.put reg v.toNat .full with rfilled := if t.rfilled.contains reg then t.rfilled else t.rfilled ++ [reg] }

section
variable {s : State} {p : Packet} (hp : s.packet p.id = some p) (hpl : p.place = .arrived) (ht : p.typ = 1)
  (hsp : s.spillAt p.dst p.tenant (.rfillArrival p.id) = none) (h0 : s.levelOf p.ctx = 0)
  {r : Req} (hr : s.req p.req = some r) {cls : RegClass} {v : BitVec 1024} (hop : r.op = .rfill cls v)
include hp hpl ht hsp h0 hr hop

/-- What a fill does at its core at no level of the order roll (R292). -/
theorem rfillArrival_eq {status : Nat} (hst : (if s.expects (p.dst * 16 + bits r.va.toNat 14 11) (fillTarget r.va cls) then 0 else 1) = status) :
    exec (.rfillArrival p.id) s = .next (((if status = 0 then
      (s.updThread (p.dst * 16 + bits r.va.toNat 14 11) (fun x => x.filledBy (fillTarget r.va cls) v)).wake (p.dst * 16 + bits r.va.toNat 14 11)
      else s).dropPacket p.id).ack p status) := by
  show execRfillArrival p.id s = _
  simp only [execRfillArrival, hp, ht, hpl, ne_eq, not_true_eq_false, or_self, if_false, hsp, hr, hop, State.turnOf_plain h0, execRfillArrival.go,
    State.recording_plain h0, Bool.false_eq_true, hst]
  rfl

/-- A fill for a register that awaits none is dropped, and its sender is told (R292). -/
theorem rfillArrival_drops (hx : (s.thread (p.dst * 16 + bits r.va.toNat 14 11)).occupied = false ∨
    (s.thread (p.dst * 16 + bits r.va.toNat 14 11)).stOf (fillTarget r.va cls) ≠ .expecting) :
    ∃ t, exec (.rfillArrival p.id) s = .next t ∧ (∃ q ∈ t.packets, q.typ = 2 ∧ q.req = p.req ∧ q.arg = 1) ∧ Aside s t [] := by
  have hex : s.expects (p.dst * 16 + bits r.va.toNat 14 11) (fillTarget r.va cls) = false := by
    unfold State.expects
    rcases hx with h | h
    · rw [h, Bool.false_and]
    · simp [h]
  have he := rfillArrival_eq hp hpl ht hsp h0 hr hop (status := 1) (by rw [hex]; rfl)
  rw [if_neg (by decide)] at he
  have hA := (s.dropPacket p.id).acked p 1
  obtain ⟨q, hqa, hqs⟩ := hA.answer
  have h1 : Aside s (s.dropPacket p.id) [] := Aside.dropPacket s _ _
  exact ⟨_, he, ⟨q, hqs ▸ List.mem_append_right _ List.mem_cons_self, hqa.typ, hqa.req, hqa.arg⟩, h1.trans (hA.aside _) (fun _ h => h)⟩

/-- A fill for a register that awaits it (R97, R292). -/
theorem rfillArrival_fills (ho : (s.thread (p.dst * 16 + bits r.va.toNat 14 11)).occupied = true)
    (hx : (s.thread (p.dst * 16 + bits r.va.toNat 14 11)).stOf (fillTarget r.va cls) = .expecting) :
    ∃ t, exec (.rfillArrival p.id) s = .next t ∧ (t.thread (p.dst * 16 + bits r.va.toNat 14 11)).stOf (fillTarget r.va cls) = .full ∧
      (cls = .g → (t.thread (p.dst * 16 + bits r.va.toNat 14 11)).valOf (fillTarget r.va cls) = v.toNat % 2 ^ 64) ∧
      (cls = .m ∨ cls = .v → (t.thread (p.dst * 16 + bits r.va.toNat 14 11)).valOf (fillTarget r.va cls) = v.toNat) ∧
      fillTarget r.va cls ∈ (t.thread (p.dst * 16 + bits r.va.toNat 14 11)).rfilled ∧ (t.thread (p.dst * 16 + bits r.va.toNat 14 11)).park = none ∧
      (∃ q ∈ t.packets, q.typ = 2 ∧ q.req = p.req ∧ q.arg = 0) ∧ Aside s t [p.dst * 16 + bits r.va.toNat 14 11] := by
  have hex : s.expects (p.dst * 16 + bits r.va.toNat 14 11) (fillTarget r.va cls) = true := by
    unfold State.expects
    rw [ho, hx]
    rfl
  have he := rfillArrival_eq hp hpl ht hsp h0 hr hop (status := 0) (by rw [hex]; rfl)
  rw [if_pos rfl] at he
  have hcls : (fillTarget r.va cls).cls = cls := rfl
  generalize p.dst * 16 + bits r.va.toNat 14 11 = tid at *
  generalize fillTarget r.va cls = reg at *
  have h0g : reg ≠ gRef 0 := by
    rintro rfl
    cases hx
  let x := (s.updThread tid (fun x => x.filledBy reg v)).wake tid
  have hxt : x.thread tid = { (s.thread tid).filledBy reg v with park := none } := by
    rw [State.thread_wake, if_pos rfl, State.thread_updThread, if_pos rfl]
  have hA := (x.dropPacket p.id).acked p 0
  obtain ⟨q, hqa, hqs⟩ := hA.answer
  have hth : ((x.dropPacket p.id).ack p 0).thread tid = { (s.thread tid).filledBy reg v with park := none } := by
    rw [State.thread, hA.threads]
    exact hxt
  have hst : (({ (s.thread tid).filledBy reg v with park := none } : Thread)).stOf reg = .full := by
    refine (Thread.stOf_put (s.thread tid) reg reg v.toNat .full).trans ?_
    rw [if_pos rfl, if_neg h0g]
  have hval : (({ (s.thread tid).filledBy reg v with park := none } : Thread)).valOf reg = v.toNat % 2 ^ cls.width := by
    refine (Thread.valOf_put (s.thread tid) reg reg v.toNat .full).trans ?_
    rw [if_pos rfl, if_neg h0g, hcls]
  refine ⟨_, he, ?_, fun hg => ?_, fun hm => ?_, ?_, ?_, ⟨q, hqs ▸ List.mem_append_right _ List.mem_cons_self, hqa.typ, hqa.req, hqa.arg⟩, ?_⟩
  · exact (congrArg (Thread.stOf · reg) hth).trans hst
  · subst hg
    exact (congrArg (Thread.valOf · reg) hth).trans hval
  · refine (congrArg (Thread.valOf · reg) hth).trans (hval.trans (Nat.mod_eq_of_lt ?_))
    rcases hm with rfl | rfl
    · exact v.isLt
    · exact v.isLt
  · refine hth ▸ ?_
    show reg ∈ (if (s.thread tid).rfilled.contains reg then (s.thread tid).rfilled else (s.thread tid).rfilled ++ [reg])
    split
    · next h => simpa using h
    · exact List.mem_append_right _ List.mem_cons_self
  · exact (congrArg Thread.park hth).trans rfl
  · have hu : Aside s (s.updThread tid (fun x => x.filledBy reg v)) [tid] := Aside.updThread s tid _
    have h1 : Aside s x [tid] := hu.trans (Aside.wake (s.updThread tid (fun x => x.filledBy reg v)) tid) (fun _ h => h)
    have h2 : Aside x (x.dropPacket p.id) [tid] := Aside.dropPacket x _ _
    exact (h1.trans h2 (fun _ h => h)).trans (hA.aside _) (fun _ h => h)

end

end Sys2Proof.Machine
end

section
/-!
O40, third part: the handler of slot 15, and events at their core (R26, R290, R329).
-/

namespace Sys2Proof.Machine

/-! ## A handler begins -/

/-- Registers from 8 on written in order (R290). -/
theorem tget_payload (g : Tbl (Reg 64)) (f : Nat → Reg 64) (n j : Nat) :
    tget {} ((List.range n).foldl (fun g i => tput {} g (8 + i) (f i)) g) j = if 8 ≤ j ∧ j < 8 + n then f (j - 8) else tget {} g j := by
  induction n with
  | zero => rw [if_neg (by omega)]; rfl
  | succ n ih =>
    rw [List.range_succ, List.foldl_append, List.foldl_cons, List.foldl_nil, tget_tput, ih]
    by_cases h : j = 8 + n
    · rw [if_pos h, if_pos (by omega), show j - 8 = n by omega]
    · rw [if_neg h]
      by_cases hj : 8 ≤ j ∧ j < 8 + n
      · rw [if_pos hj, if_pos (by omega)]
      · rw [if_neg hj, if_neg (by omega)]

/-- The registers that a handler starts with (R290). -/
theorem tget_handlerRegs (m : Msg) (j : Nat) : tget {} (handlerRegs m) j = if 8 ≤ j ∧ j < 8 + m.payload.length then ⟨m.payload.getD (j - 8) 0, .full⟩
    else if j = 7 then ⟨BitVec.ofNat 64 (m.payload.length / 2), .full⟩ else if j = 6 then ⟨m.lti.setWidth 64, .full⟩
    else if j = 5 then ⟨BitVec.ofNat 64 m.src, .full⟩ else if j = 3 then ⟨0xFFFFFFFF, .full⟩ else {} := by
  unfold handlerRegs
  rw [tget_payload _ (fun i => ⟨m.payload.getD i 0, .full⟩)]
  simp only [tget_tput]
  rfl

section
variable {h : Thread} {m : Msg} (hg : h.g = handlerRegs m)
include hg

theorem gReg_handler {j : Nat} (hj : j ≠ 0) : h.gReg j = tget {} (handlerRegs m) j := by
  rw [Thread.gReg, if_neg hj, hg]

theorem gReg_payload {i : Nat} (hi : i < m.payload.length) : h.gReg (8 + i) = ⟨m.payload.getD i 0, .full⟩ := by
  rw [gReg_handler hg (by omega), tget_handlerRegs, if_pos (by omega), Nat.add_sub_cancel_left]

theorem gReg_length : h.gReg 7 = ⟨BitVec.ofNat 64 (m.payload.length / 2), .full⟩ := by
  rw [gReg_handler hg (by decide), tget_handlerRegs, if_neg (by omega), if_pos rfl]

theorem gReg_lti : h.gReg 6 = ⟨m.lti.setWidth 64, .full⟩ := by
  rw [gReg_handler hg (by decide), tget_handlerRegs, if_neg (by omega), if_neg (by decide), if_pos rfl]

theorem gReg_sender : h.gReg 5 = ⟨BitVec.ofNat 64 m.src, .full⟩ := by
  rw [gReg_handler hg (by decide), tget_handlerRegs, if_neg (by omega), if_neg (by decide), if_neg (by decide), if_pos rfl]

end

/-- Slot 15 takes the oldest queued message (R26, R290). -/
theorem handlerStart_takes {s : State} {core : Nat} {m : Msg} {rest : List Msg} (ho : (s.thread (core * 16 + 15)).occupied = false)
    (hd : (s.core core).diverted = false) (hh : (s.core core).halted = false) (hm : (s.core core).msgs = m :: rest) :
    ∃ t, exec (.handlerStart core) s = .next t ∧
      (t.core core).msgs = rest ++ (s.core core).msgSpill.take (min 1 (s.handed 2 core (s.core core).msgSpill.length)) ∧
      (t.thread (core * 16 + 15)).occupied = true ∧ (t.thread (core * 16 + 15)).kind = .handler ∧ (t.thread (core * 16 + 15)).pc = m.handler ∧
      (t.thread (core * 16 + 15)).level = .U ∧ (t.thread (core * 16 + 15)).g = handlerRegs m ∧ Aside s t [core * 16 + 15] := by
  let n := min 1 (s.handed 2 core (s.core core).msgSpill.length)
  let c1 := { s.core core with msgs := rest ++ (s.core core).msgSpill.take n, msgSpill := (s.core core).msgSpill.drop n }
  let th : Thread := { newThread (s.thread (core * 16 + 15)) .handler 0xFFFFFFFF m.part m.ctx none m.handler with g := handlerRegs m }
  have he : exec (.handlerStart core) s = .next (((s.setCore core c1).start (core * 16 + 15) th).dropSI (core * 16 + 15)) := by
    have hb : ((s.thread (core * 16 + 15)).occupied || (s.core core).diverted || (s.core core).halted) = false := by rw [ho, hd, hh]; rfl
    show execHandlerStart core s = _
    simp only [execHandlerStart, hb, hm, Bool.false_eq_true, if_false]
    rfl
  have hw : OnlyWork (s.setCore core c1) ((s.setCore core c1).wakeCore (coreOf (core * 16 + 15))) := .wakeCore _ _
  have ht : (((s.setCore core c1).start (core * 16 + 15) th).dropSI (core * 16 + 15)).thread (core * 16 + 15) = th := by
    rw [State.dropSI_thread, State.start, State.thread_setThread, if_pos rfl]
  have ha : Aside s (((s.setCore core c1).start (core * 16 + 15) th).dropSI (core * 16 + 15)) [core * 16 + 15] := by
    refine ⟨fun a => ?_, ?_, fun u hu => ?_⟩
    · rw [State.dropSI_state]
      exact hw.byte a
    · rw [State.dropSI_state]
      exact (hw.aside []).2.1
    · rw [State.dropSI_thread, State.start, State.thread_setThread, if_neg (by simpa using hu), hw.thread]
      rfl
  refine ⟨_, he, ?_, congrArg Thread.occupied ht, congrArg Thread.kind ht, congrArg Thread.pc ht, congrArg Thread.level ht, congrArg Thread.g ht, ha⟩
  rw [State.dropSI_core]
  refine (hw.msgs core).trans ?_
  rw [State.core_setCore, if_pos rfl]

/-! ## Events -/

theorem bitVec_zero_ne_one {w : Nat} (hw : 0 < w) : ¬ (0 : BitVec w) = 1 := fun h => by
  have hb : (0 : BitVec w).getLsbD 0 = (1 : BitVec w).getLsbD 0 := congrArg (BitVec.getLsbD · 0) h
  simp at hb
  omega

/-- A way within the machine depends on the partitions, the bitmaps of its units and the links (R285, R411). -/
theorem State.blocked_congr {s t : State} (ht : t.tenants = s.tenants) (hl : t.links = s.links) (p : Part) (part dst : Nat) (inside : Nat → Bool) (n : Nat) :
    ∀ (r : Nat) (pass : Bool), t.blocked p part n r dst pass inside = s.blocked p part n r dst pass inside := by
  induction n with
  | zero => exact fun _ _ => rfl
  | succ n ih =>
    intro r pass
    unfold State.blocked State.tenantOk State.linkAlive
    simp only [ht, hl, ih]

theorem State.routeFault_congr {s t : State} (hp : t.parts = s.parts) (ht : t.tenants = s.tenants) (hl : t.links = s.links) (part c d o : Nat) (back : Bool) :
    t.routeFault part c (.core d o) back = s.routeFault part c (.core d o) back := by
  unfold State.routeFault State.destOf
  simp only [hp, State.blocked_congr ht hl]

/-- Where an event is spilled depends on the cores and on those saved (R377). -/
theorem State.spillAt_event {s t : State} (hc : t.cores = s.cores) (hs : t.saved = s.saved) (c part id : Nat) :
    t.spillAt c part (.evsigDelivery id) = s.spillAt c part (.evsigDelivery id) := by
  have hcore : ∀ d, t.core d = s.core d := fun d => by unfold State.core; rw [hc]
  unfold State.spillAt State.diverts
  simp only [hcore, hs, State.sentTo]

/-- States that differ in latches of the threads `P`, and in what threads do after one is set (R329). -/
structure Latching (s t : State) (P : Nat → Prop) : Prop where
  state : t = { s with threads := t.threads, cores := t.cores, pend := t.pend }
  part : ∀ u, (t.thread u).part = (s.thread u).part
  occupied : ∀ u, (t.thread u).occupied = (s.thread u).occupied
  set : ∀ u, P u → (s.thread u).occupied = true → (t.thread u).latch = true
  kept : ∀ u, ¬ P u → (t.thread u).latch = (s.thread u).latch

theorem Latching.trans {s t u : State} {P Q : Nat → Prop} (a : Latching s t P) (b : Latching t u Q) : Latching s u (fun x => P x ∨ Q x) := by
  refine ⟨?_, fun x => (b.part x).trans (a.part x), fun x => (b.occupied x).trans (a.occupied x), fun x hx ho => ?_, fun x hx => ?_⟩
  · rw [b.state]
    conv => lhs; rw [a.state]
  · by_cases hq : Q x
    · exact b.set x hq ((a.occupied x).trans ho)
    · rw [b.kept x hq]
      exact a.set x (hx.resolve_right hq) ho
  · rw [b.kept x (fun h => hx (.inr h)), a.kept x (fun h => hx (.inl h))]

theorem Latching.refl (s : State) {P : Nat → Prop} (h : ∀ u, ¬ P u) : Latching s s P :=
  ⟨rfl, fun _ => rfl, fun _ => rfl, fun u hu => absurd hu (h u), fun _ _ => rfl⟩

theorem Latching.congr {s t : State} {P Q : Nat → Prop} (h : Latching s t P) (hq : ∀ u, Q u ↔ P u) : Latching s t Q :=
  ⟨h.state, h.part, h.occupied, fun u hu => h.set u ((hq u).1 hu), fun u hu => h.kept u (fun hp => hu ((hq u).2 hp))⟩

/-- A change of one thread that keeps all but its latch and what it waits for. -/
theorem Latching.updThread (s : State) (x : Nat) {f : Thread → Thread} {P : Nat → Prop} (hf : ∀ t, (f t).part = t.part ∧ (f t).occupied = t.occupied)
    (hs : P x → (s.thread x).occupied = true → (f (s.thread x)).latch = true) (hk : ¬ P x → (f (s.thread x)).latch = (s.thread x).latch) (hP : ∀ u, P u → u = x) :
    Latching s (s.updThread x f) P := by
  refine ⟨rfl, fun u => ?_, fun u => ?_, fun u hu ho => ?_, fun u hu => ?_⟩
  all_goals rw [State.thread_updThread]
  · split
    · next h => rw [(hf _).1, h]
    · rfl
  · split
    · next h => rw [(hf _).2, h]
    · rfl
  · obtain rfl := hP u hu
    rw [if_pos rfl]
    exact hs hu ho
  · split
    · next h => subst h; exact hk hu
    · rfl

theorem Latching.onlyWork {s t : State} (h : OnlyWork s t) {P : Nat → Prop} (hP : ∀ u, ¬ P u) : Latching s t P := by
  refine ⟨?_, fun u => by rw [h.thread], fun u => by rw [h.thread], fun u hu => absurd hu (hP u), fun u _ => by rw [h.thread]⟩
  have hth : t.threads = s.threads := by rw [h.state]
  rw [hth]
  exact h.state

theorem Latching.wake (s : State) (x : Nat) : Latching s (s.wake x) (fun _ => False) := by
  obtain ⟨y, hy, hw⟩ := s.wake_eq x
  have h2 := Latching.onlyWork hw (P := fun _ => False) (fun _ => id)
  rcases hy with rfl | rfl
  · exact h2
  · have h1 : Latching s (s.updThread x (fun x => { x with park := none })) (fun _ => False) :=
      .updThread s x (fun _ => ⟨rfl, rfl⟩) (fun h => h.elim) (fun _ => rfl) (fun _ h => h.elim)
    exact (h1.trans h2).congr (fun _ => by simp)

/-- One latch set (R329). -/
theorem Latching.latch (s : State) (x : Nat) : Latching s (execEvsigDelivery.latch s x) (· = x) := by
  unfold execEvsigDelivery.latch
  have h1 : Latching s (s.updThread x (fun x => { x with latch := true })) (· = x) :=
    .updThread s x (fun _ => ⟨rfl, rfl⟩) (fun _ _ => rfl) (fun h => absurd rfl h) (fun _ h => h)
  split
  · dsimp only
    split
    · exact (h1.trans (.wake _ x)).congr (fun _ => by simp)
    · exact h1
  · next ho =>
    exact ⟨rfl, fun _ => rfl, fun _ => rfl, fun u hu h => absurd (hu ▸ h) ho, fun _ _ => rfl⟩

/-- The latches of the threads that an event names (R329). -/
theorem Latching.event (c : Nat) (va : Word) (l : List Nat) : ∀ s : State,
    Latching s (l.foldl (fun s i => if va.getLsbD i then execEvsigDelivery.latch s (c * 16 + i) else s) s) (fun u => ∃ i ∈ l, va.getLsbD i = true ∧ u = c * 16 + i) := by
  induction l with
  | nil => exact fun s => .refl s (fun u ⟨i, hi, _⟩ => absurd hi List.not_mem_nil)
  | cons i l ih =>
    intro s
    rw [List.foldl_cons]
    by_cases hb : va.getLsbD i = true
    · rw [if_pos hb]
      exact ((Latching.latch s (c * 16 + i)).trans (ih _)).congr (fun u => by simp [hb])
    · rw [if_neg hb]
      exact (ih s).congr (fun u => by simp [hb])

/-- An event sets the latches of its core's threads, and is acknowledged (R329). -/
theorem evsigDelivery_latches {s : State} {r : Req} {c : Nat} (hr : s.req r.id = some r) (hop : r.op = .evsig c) (hg : r.state = .going) (hh : s.held r = false)
    (hv : r.val = 0) (hsp : s.spillAt c (s.thread r.tid).part (.evsigDelivery r.id) = none)
    (hw : ∀ back, s.routeFault (s.thread r.tid).part (coreOf r.tid) (.core c 0) back = none) (hl : (s.core (coreOf r.tid)).lines = []) :
    ∃ t n, exec (.evsigDelivery r.id) s = .next t ∧ t.req r.id = some { r with state := .performed } ∧
      t.Placed n (.storeAck r.id) ∧ (∀ i, i < 16 → (s.thread (c * 16 + i)).occupied = true → r.va.getLsbD i = true → (t.thread (c * 16 + i)).latch = true) ∧
      (∀ i, r.va.getLsbD i = false → (t.thread (c * 16 + i)).latch = (s.thread (c * 16 + i)).latch) ∧ (∀ a, t.byte a = s.byte a) := by
  obtain ⟨w, hrf⟩ := s.releaseFence_plain hl
  have h1 : Latching s (s.updThread r.tid (fun x => { x with tbanks := w })) (fun _ => False) :=
    .updThread s r.tid (fun _ => ⟨rfl, rfl⟩) (fun h => h.elim) (fun _ => rfl) (fun _ h => h.elim)
  have hx := h1.trans (Latching.event c r.va (List.range 16) _)
  have hsp1 : (s.updThread r.tid (fun x => { x with tbanks := w })).spillAt c (s.thread r.tid).part (.evsigDelivery r.id) = none :=
    (State.spillAt_event (s := s) (by rfl) (by rfl) _ _ _).trans hsp
  have hw1 : ∀ back, (s.updThread r.tid (fun x => { x with tbanks := w })).routeFault (s.thread r.tid).part (coreOf r.tid) (.core c 0) back = none :=
    fun back => by
      rw [State.routeFault_congr (s := s) (by rfl) (by rfl) (by rfl)]
      exact hw back
  have he : exec (.evsigDelivery r.id) s = .next (execEvsigDelivery.ack r.id ((List.range 16).foldl
      (fun s i => if r.va.getLsbD i then execEvsigDelivery.latch s (c * 16 + i) else s) (s.updThread r.tid (fun x => { x with tbanks := w }))) r c) := by
    have hv1 : ¬ r.val = 1 := fun h => bitVec_zero_ne_one (w := 1024) (Nat.succ_pos _) (hv.symm.trans h)
    show execEvsigDelivery r.id s = _
    simp only [execEvsigDelivery, hr, hop, hg, hh, hv1, hrf, h1.part, hsp1, hw1, reduceCtorEq, ne_eq, not_true_eq_false, if_false, Bool.false_eq_true]
  generalize (List.range 16).foldl (fun s i => if r.va.getLsbD i then execEvsigDelivery.latch s (c * 16 + i) else s)
    (s.updThread r.tid (fun x => { x with tbanks := w })) = x at hx he
  have hback : x.routeFault (x.thread r.tid).part (coreOf r.tid) (.core c 0) true = none := by
    rw [hx.part]
    exact (State.routeFault_congr (s := s) (by rw [hx.state]) (by rw [hx.state]) (by rw [hx.state]) _ _ _ _ _).trans (hw true)
  have hreq : x.req r.id = some r := by rw [hx.state]; exact hr
  have hmem : x.mem = s.mem := by rw [hx.state]
  have hack : execEvsigDelivery.ack r.id x r c = (x.updReq r.id (fun q => { q with state := .performed })).after
      (x.flight (x.thread r.tid).part (coreOf r.tid) c 1) (.storeAck r.id) := by
    unfold execEvsigDelivery.ack
    rw [hback]
  refine ⟨_, _, he.trans (congrArg _ hack), State.req_updReq hreq _ rfl, State.placed_after _ _ _, fun i hi ho hb => ?_, fun i hb => ?_, fun a => ?_⟩
  · exact hx.set _ (.inr ⟨i, List.mem_range.2 hi, hb, rfl⟩) ho
  · refine hx.kept _ (fun h => ?_)
    obtain h | ⟨j, -, hj, hij⟩ := h
    · exact h
    · obtain rfl : i = j := by omega
      rw [hb] at hj
      cases hj
  · show tget 0 x.mem a = _
    rw [hmem]
    rfl

end Sys2Proof.Machine
end

section
/-!
O40, fourth part: turn requests and their status, turn boundaries, and groups that have turned (R293, R294).
-/

namespace Sys2Proof.Machine

theorem tget_of_tfind {α : Type} {d v : α} : ∀ {t : Tbl α} {k : Nat}, tfind t k = some v → tget d t k = v
  | [], _, h => by cases h
  | e :: t, k, h => by
    unfold tfind at h
    unfold tget
    split at h
    · next he => rw [if_pos he]; exact Option.some.inj h
    · next he => rw [if_neg he]; exact tget_of_tfind h

/-! ## The status of a turn request -/

/-- Whether a thread's partition owns a link (R293). -/
def State.ownsLink (s : State) (t l : Nat) : Bool := match s.partOf t with | some p => p.links.contains l | none => false

theorem State.ownsLink_iff (s : State) (t l : Nat) : s.ownsLink t l = true ↔ ∃ p, s.partOf t = some p ∧ p.links.contains l = true := by
  unfold State.ownsLink
  cases s.partOf t with
  | none => simp
  | some p => simp

/-- A link as the turn queues see it. -/
def State.link (s : State) (l : Nat) : Link := tget { groups := [], queue := [] } s.links l

section
variable {s : State} {r : Req} {ga gb : Word}

theorem turnStatus_no_link (hn : linkOf r.va.toNat = none) : s.turnStatus r = 4 := by
  unfold State.turnStatus
  simp only [hn]

/-- The status at a link that exists (R293). -/
theorem turnStatus_link {l : Nat} (hop : r.op = .lturn ga gb) (hl : linkOf r.va.toNat = some l) : s.turnStatus r =
    if !s.ownsLink r.tid l then 1 else if gb.toNat < 4 ∨ (s.link l).workingCount < gb.toNat + 4 then 3
    else if Config.turnEntries ≤ (s.link l).queue.length then 2 else 0 := by
  unfold State.turnStatus
  simp only [hl, hop]
  rfl

/-! ## A turn request at its link -/

/-- The entry of a turn request in its link's queue (R294). -/
def State.turnEntry (s : State) (r : Req) (target : Nat) : TurnReq :=
  { fromLower := r.va.toNat / 32 % 4 = 0 || (r.va.toNat / 32 % 4 == 2 && decide (r.va.toNat % 32 < 16)), target := target,
    ctx := (s.thread r.tid).ctx, actor := s.actorOf r.tid, name := r.va.toNat }

/-- A link's queue with one more entry. -/
def Link.queued (l : Link) (q : TurnReq) : Link := { l with queue := l.queue ++ [q] }

/-- A turn request answered: its status is on its way (R293). -/
def State.turnAnswered (s : State) (r : Req) (status : Nat) : State :=
  (s.updReq r.id (fun q => { q with state := .performed, val := BitVec.ofNat 1024 status })).after (s.turnTrip r.tid r.va.toNat) (.fillLands r.id)

variable (hr : s.req r.id = some r) (hg : r.state = .going) (hop : r.op = .lturn ga gb) (hlost : s.turnLost r = none)
  (h0 : s.levelOf (s.thread r.tid).ctx = 0)
include hr hg hop hlost h0

/-- What a turn request does at its link at no level of the order roll (R293). -/
theorem turnRequest_eq : exec (.turnRequest r.id) s = .next (execTurnRequest.go r.id s r (s.thread r.tid).ctx (s.turnStatus r)) := by
  have hnote : ∀ typ op ord val obj, s.note r.tid typ op ord val obj = s := fun _ _ _ _ _ => by
    unfold State.note
    simp only [State.recording_plain h0, Bool.false_eq_true, if_false]
  show execTurnRequest r.id s = _
  simp only [execTurnRequest, hr, hg, hlost, hop, State.turnOf_plain h0, hnote, ne_eq, not_true_eq_false, if_false]

/-- A request that may be served is queued at its link, one that may not only answered (R293, R294). -/
theorem turnRequest_answers : ∃ t, exec (.turnRequest r.id) s = .next t ∧
    t.req r.id = some { r with state := .performed, val := BitVec.ofNat 1024 (s.turnStatus r) } ∧ (∃ n, t.Placed n (.fillLands r.id)) ∧ Aside s t [] ∧
    (∀ l, s.turnStatus r = 0 → linkOf r.va.toNat = some l → t.links = tmod s.links l (fun x => x.queued (s.turnEntry r gb.toNat)) ∧
      ∃ m, t.Placed m (.turnBoundary l)) := by
  have he := turnRequest_eq hr hg hop hlost h0
  have hreq : ∀ v, (s.turnAnswered r v).req r.id = some { r with state := .performed, val := BitVec.ofNat 1024 v } := fun v =>
    State.req_updReq hr (fun q => { q with state := .performed, val := BitVec.ofNat 1024 v }) rfl
  have hpl : ∀ v, (s.turnAnswered r v).Placed (s.now + s.turnTrip r.tid r.va.toNat) (.fillLands r.id) := fun v => State.placed_after _ _ _
  have has : ∀ v, Aside s (s.turnAnswered r v) [] := fun v => ⟨fun _ => rfl, rfl, fun _ _ => rfl⟩
  by_cases hs : ∃ l, s.turnStatus r = 0 ∧ linkOf r.va.toNat = some l
  · obtain ⟨l, hs, hl⟩ := hs
    let x : State := { s.turnAnswered r 0 with links := tmod s.links l (fun x => x.queued (s.turnEntry r gb.toNat)) }
    have hx : execTurnRequest.go r.id s r (s.thread r.tid).ctx (s.turnStatus r) =
        x.afterOnce ((s.turnAnswered r 0).nextBoundary (s.thread r.tid).ctx) (.turnBoundary l) := by
      unfold execTurnRequest.go
      simp only [hs, hl, hop]
      rfl
    have hw : OnlyWork x (x.afterOnce ((s.turnAnswered r 0).nextBoundary (s.thread r.tid).ctx) (.turnBoundary l)) := .afterOnce _ _ _
    have hax : Aside s x [] := has 0
    refine ⟨_, he.trans (congrArg _ hx), (hw.req _).trans (hs ▸ hreq 0), ⟨_, hw.isPlaced (hpl 0)⟩, hax.trans (hw.aside _) (fun _ h => h), fun l2 _ hl2 => ?_⟩
    obtain rfl : l = l2 := Option.some.inj (hl.symm.trans hl2)
    exact ⟨by rw [hw.state], x.placed_afterOnce _ _⟩
  · have hx : execTurnRequest.go r.id s r (s.thread r.tid).ctx (s.turnStatus r) = s.turnAnswered r (s.turnStatus r) := by
      unfold execTurnRequest.go
      split
      · next hs0 hl => exact absurd ⟨_, hs0, hl⟩ hs
      · rfl
    exact ⟨_, he.trans (congrArg _ hx), hreq _, ⟨_, hpl _⟩, has _, fun l h1 h2 => absurd ⟨l, h1, h2⟩ hs⟩

/-- A turn request is answered with the first status that applies, and queued where that is 0 (R293, R294). -/
theorem turnRequest_status : ∃ t n v, exec (.turnRequest r.id) s = .next t ∧ t.req r.id = some { r with state := .performed, val := BitVec.ofNat 1024 v } ∧
    t.Placed n (.fillLands r.id) ∧ Aside s t [] ∧ (linkOf r.va.toNat = none → v = 4) ∧
    (∀ l, linkOf r.va.toNat = some l →
      ((¬ ∃ p, s.partOf r.tid = some p ∧ p.links.contains l = true) → v = 1) ∧
      ((∃ p, s.partOf r.tid = some p ∧ p.links.contains l = true) → (gb.toNat < 4 ∨ (s.link l).workingCount < gb.toNat + 4) → v = 3) ∧
      ((∃ p, s.partOf r.tid = some p ∧ p.links.contains l = true) → 4 ≤ gb.toNat → gb.toNat + 4 ≤ (s.link l).workingCount →
        (Config.turnEntries ≤ (s.link l).queue.length → v = 2) ∧
        ((s.link l).queue.length < Config.turnEntries → v = 0 ∧ ((tfind s.links l).isSome = true →
          ∃ q m, tfind t.links l = some { s.link l with queue := (s.link l).queue ++ [q] } ∧ q.target = gb.toNat ∧ t.Placed m (.turnBoundary l))))) := by
  obtain ⟨t, he, hq, ⟨n, hn⟩, ha, hl0⟩ := turnRequest_answers hr hg hop hlost h0
  refine ⟨t, n, s.turnStatus r, he, hq, hn, ha, turnStatus_no_link, fun l hl => ?_⟩
  have hst := turnStatus_link (s := s) hop hl
  simp only [← s.ownsLink_iff]
  refine ⟨fun ho => ?_, fun ho hb => ?_, fun ho h4 hw => ⟨fun hf => ?_, fun hf => ?_⟩⟩
  · rw [hst, if_pos (by simpa using ho)]
  · rw [hst, if_neg (by simp [ho]), if_pos hb]
  · rw [hst, if_neg (by simp [ho]), if_neg (by omega), if_pos hf]
  · have h0s : s.turnStatus r = 0 := by rw [hst, if_neg (by simp [ho]), if_neg (by omega), if_neg (by omega)]
    obtain ⟨hlinks, m, hm⟩ := hl0 l h0s hl
    refine ⟨h0s, fun hsome => ⟨s.turnEntry r gb.toNat, m, ?_, rfl, hm⟩⟩
    obtain ⟨x, hx⟩ := Option.isSome_iff_exists.1 hsome
    have hlx : s.link l = x := tget_of_tfind hx
    rw [hlinks, tfind_tmod, if_pos rfl, hx, hlx]
    rfl

end

/-! ## Turning -/

/-- Steps placed in one cycle are all there. -/
theorem placed_after_each {α : Type} (n : Nat) (f : α → Instr) (x : α) : ∀ (l : List α) (s : State), x ∈ l ∨ s.Placed (s.now + n) (f x) →
    (l.foldl (fun s y => s.after n (f y)) s).Placed (s.now + n) (f x)
  | [], s, h => h.resolve_left List.not_mem_nil
  | y :: l, s, h => by
    refine placed_after_each n f x l (s.after n (f y)) ?_
    rcases h with h | h
    · rcases List.mem_cons.1 h with rfl | h
      · exact .inr (s.placed_after n _)
      · exact .inl h
    · exact .inr ((OnlyWork.after s n (f y)).isPlaced h)

/-- At a boundary a link turns the groups that may turn, for the request at its head (R294). -/
theorem turnBoundary_turns {s : State} {link : Nat} {l : Link} {r : TurnReq} {rest : List TurnReq} (hl : tfind s.links link = some l) (hq : l.queue = r :: rest)
    (h0 : s.levelOf r.ctx = 0) (hn : s.now % 256 = 0) :
    let out := if r.fromLower then l.awayCount else l.workingCount - l.awayCount
    let want := if out < r.target then r.target - out else out - r.target
    let can := l.eligible (if out < r.target then !r.fromLower else r.fromLower) s.now
    ∃ t, exec (.turnBoundary link) s = .next t ∧ Aside s t [] ∧
      tfind t.links link = some { l.turn (can.take (min want can.length)) with queue := if want ≤ can.length then rest else r :: rest } ∧
      ∀ g ∈ can.take (min want can.length), t.Placed (s.now + 40) (.groupTurnDone link g) := by
  intro out want can
  let n := min want can.length
  let l2 : Link := if n = want then { l.turn (can.take n) with queue := rest } else l.turn (can.take n)
  let s1 : State := { s with links := tset s.links link l2 }
  let s2 := (can.take n).foldl (fun s g => s.after Config.turnTime (.groupTurnDone link g)) s1
  have he : exec (.turnBoundary link) s = .next (if l2.queue.isEmpty then s2 else s2.afterOnce (s2.nextBoundary r.ctx) (.turnBoundary link)) := by
    have h3 : ¬ s.levelOf r.ctx = 3 := by omega
    show execTurnBoundary link s = _
    simp only [execTurnBoundary, hl, hq, h3, if_false, hn, ne_eq, not_true_eq_false, State.replaying_plain h0, State.recording_plain h0, State.rollFull_plain h0,
      Bool.false_eq_true, ite_self, decide_eq_true_eq]
    rfl
  have hw2 : OnlyWork s1 s2 := .foldl _ _ (fun s g => .after s _ _)
  have hw : OnlyWork s2 (if l2.queue.isEmpty then s2 else s2.afterOnce (s2.nextBoundary r.ctx) (.turnBoundary link)) := .ite (.refl _) (.afterOnce _ _ _)
  have ha : Aside s s1 [] := ⟨fun _ => rfl, rfl, fun _ _ => rfl⟩
  have hl2 : l2 = { l.turn (can.take n) with queue := if want ≤ can.length then rest else r :: rest } := by
    have hturn : (l.turn (can.take n)).queue = r :: rest := hq
    by_cases hd : want ≤ can.length
    · have hnw : n = want := Nat.min_eq_left hd
      simp only [l2, if_pos hnw, if_pos hd]
    · have hnw : ¬ n = want := fun h => hd (h ▸ Nat.min_le_right _ _)
      simp only [l2, if_neg hnw, if_neg hd, ← hturn]
  refine ⟨_, he, (ha.trans (hw2.aside _) (fun _ h => h)).trans (hw.aside _) (fun _ h => h), ?_, fun g hg => hw.isPlaced (placed_after_each _ _ g _ _ (.inl hg))⟩
  have hlinks : (if l2.queue.isEmpty then s2 else s2.afterOnce (s2.nextBoundary r.ctx) (.turnBoundary link)).links = tset s.links link l2 := by
    rw [hw.state]
    show s2.links = _
    rw [hw2.state]
  rw [hlinks, tfind_tset_self, hl2]

/-- A turned group carries flits again (R294). -/
theorem groupTurnDone_carries {s : State} {link group : Nat} {l : Link} {g : Group} (hl : tfind s.links link = some l) (hg : l.groups[group]? = some g)
    (hc : g.carrying = false) : ∃ t, exec (.groupTurnDone link group) s = .next t ∧
      tfind t.links link = some { l with groups := l.groups.set group { g with carrying := true, since := s.now } } ∧ Aside s t [] := by
  refine ⟨{ s with links := tset s.links link { l with groups := l.groups.set group { g with carrying := true, since := s.now } } }, ?_, tfind_tset_self _ _ _,
    fun _ => rfl, rfl, fun _ _ => rfl⟩
  show execGroupTurnDone link group s = _
  simp only [execGroupTurnDone, hl, hg, hc, Bool.false_eq_true, if_false]

end Sys2Proof.Machine
end

section
open Sys2Proof Sys2Proof.Machine

/-- Settles O40: each attempt of a packet enters its input or waits, what arrives is queued, filled or latched and acknowledged, and a link turns the
groups that its head asks for. -/
theorem packetSteps : Obligations.PacketSteps := by
  unfold Obligations.PacketSteps
  refine ⟨⟨fun s p hp => ⟨hop_from_source hp, fun column toward o hpl hh hw => ⟨fun esc ha hf ht => hop_ring_enters hp hpl hw hh ha hf ht, fun hf => ?_⟩,
      fun next port cost link units o hpl hh hw hu hl => ⟨fun esc ha hf ht => hop_gate_enters hp hpl hw hh hu hl ha hf ht, fun hf => ?_⟩,
      hop_drops hp, outputAging_ages hp, fun hpl hh hst => ⟨fun ht => packetDelivery_delivers hp hpl hh hst (.inl ⟨ht, rfl⟩),
        fun ht => packetDelivery_delivers hp hpl hh hst (.inr ⟨ht, rfl⟩)⟩,
      messageArrival_queues hp, fun r cls v hpl ht hsp h0 hr hop => ⟨rfillArrival_fills hp hpl ht hsp h0 hr hop, rfillArrival_drops hp hpl ht hsp h0 hr hop⟩⟩,
    fun s core m rest ho hd hh hm hlen => ?_,
    fun s r c hr hop hg hh hv hsp hw hl => evsigDelivery_latches hr hop hg hh hv hsp hw hl⟩,
    fun s r ga gb hr hg hop hlost h0 => turnRequest_status hr hg hop hlost h0,
    fun s link l r rest hl hq h0 hn => turnBoundary_turns hl hq h0 hn,
    fun s link group l g => groupTurnDone_carries⟩
  · exact hop_waits hp (congrArg _ (hop_ring_waits hp hpl hw hh hf))
  · obtain ⟨t, he, hpk, hpl1, -, ha⟩ := hop_waits hp (congrArg _ (hop_gate_waits hp hpl hw hh hu hl hf))
    exact ⟨t, he, hpk, hpl1, ha⟩
  · obtain ⟨t, he, hms, h1, h2, h3, h4, hg, ha⟩ := handlerStart_takes ho hd hh hm
    exact ⟨t, he, hms, h1, h2, h3, h4, fun i hi => gReg_payload hg hi, gReg_sender hg, gReg_lti hg, gReg_length hg, ha⟩

end

section
/-!
O57: what reset leaves (R43, R412).
-/

namespace Sys2Proof.Machine

/-- An entry of the window table that holds 0 opens no window (R403). -/
theorem windowKind_zero : windowKind 0 = 0 := by decide

end Sys2Proof.Machine

open Sys2Proof Sys2Proof.Machine

/-- Settles O57: every table of the state after reset is empty, so each of its parts reads as its default. -/
theorem resetState : Obligations.ResetState := by
  unfold Obligations.ResetState
  exact ⟨fun _ => rfl, rfl, rfl, rfl, fun _ _ => rfl, fun _ => ⟨rfl, rfl, rfl⟩, fun _ => ⟨rfl, rfl⟩, fun _ => windowKind_zero, fun _ => ⟨rfl, rfl, rfl, rfl⟩, rfl, rfl,
    fun _ => ⟨rfl, rfl⟩, rfl⟩

end

section
/-!
O15 fails: the first read of a register that an `RFILL` filled is an acquire (R292), and an acquire of cluster scope or wider takes away the SI copies
that its thread has loaded (R110). So a load whose address register is so filled does not hit the SI copy that the cache held before it.
-/

namespace Sys2Proof.Machine

/-- An SI copy of the line at 0x40000 that thread 0 has loaded. -/
def loadedCopy : Line :=
  { line := 0x800, key := 0x40000, kind := .si, dirty := false, data := 7, used := 1, siBy := [0], dirtyBy := [], launchSeq := 0, lci := 0, aop := 0, words := 0 }

/-- Thread 0 with the address 0x40000 in `g1`, which an `RFILL` filled and nothing has read, on a core that holds the copy. -/
def freshAddress : State :=
  { State.reset with
    threads := [(0, { occupied := true, g := [(1, ⟨0x40000, .full⟩)], rfilled := [gRef 1] })]
    parts := [(0, { col0 := 0, row0 := 0, w := 1, h := 1, ctx := 0, banks := [], links := [], root := 0, notify := 0, remap := [], queues := [], lastQueue := [],
                    setdet := none, resize := none, destroying := [], aborts := [], finishing := [] })]
    cores := [(0, { plb := [{ region := 0, rights := { r := true }, used := 0 }], lines := [loadedCopy] })] }

/-- The copy would serve the load. -/
theorem freshAddress_holds : (freshAddress.core 0).loadLine 0x40000 (freshAddress.typeAt 0 0x40000 2) false = some loadedCopy := by decide +kernel

/-- No load is performed at issue: the request goes to its home. -/
theorem freshAddress_posts : (match exec (.ldd 0 0 2 1 2) freshAddress with
    | .next t => t.reqs.all (fun q => q.state != .performed)
    | _ => true) = true := by decide +kernel

end Sys2Proof.Machine

open Sys2Proof Sys2Proof.Machine

/-- Refutes O15: `LDD g2, [g1]` of `freshAddress` reads its address from a register that an `RFILL` filled, so the copy goes and the load is posted. -/
theorem not_loadResults : ¬ Obligations.LoadResults := by
  unfold Obligations.LoadResults
  rintro ⟨h, -, -⟩
  obtain ⟨-, hit, -⟩ := h (.ldd, .lddx, 8, false) (by simp) 0 0 2 0 1 2
  have hr : freshAddress.Ready [gRef 1] [gRef 2] :=
    ⟨fun r hr => by rw [List.mem_singleton.1 hr]; decide +kernel, fun r hr => by rw [List.mem_singleton.1 hr]; decide +kernel⟩
  have ha : freshAddress.Reaches (freshAddress.me.gv (1 : BitVec 6) + (0 : BitVec 9).signExtend 64 * BitVec.ofNat 64 8) 8 Rights.r (.global 0x40000) :=
    ⟨by decide +kernel, by decide +kernel, fun _ => ⟨{ r := true }, by decide +kernel, rfl⟩⟩
  obtain ⟨t, q, he, -, hq, -, -, hs, -⟩ := hit rfl freshAddress _ loadedCopy hr ha ⟨by decide +kernel, fun _ => by decide +kernel⟩ (by decide +kernel)
    (by decide +kernel) (by decide +kernel) freshAddress_holds
  have hp := freshAddress_posts
  rw [he] at hp
  simp [hq, hs] at hp

end

section
/-!
O16, first part: the checks of an instruction keep reservations and bring no line, and what a write at issue may change (R11, R43, R74).
-/

namespace Sys2Proof.Machine

/-! ## Bookkeeping of the checks -/

/-- Threads whose entries are old ones, but for the issuing thread's own, which keeps its reservation. -/
def State.Held (s t : State) : Prop := ∀ e ∈ t.threads, (e.1 = s.cur ∧ e.2.resv = s.me.resv) ∨ e ∈ s.threads

theorem State.Held.trans {s t u : State} (h : s.Held t) (h' : t.Held u) (hc : t.cur = s.cur) (hm : t.me.resv = s.me.resv) : s.Held u := by
  intro e he
  rcases h' e he with ⟨h1, h2⟩ | h1
  · exact .inl ⟨h1.trans hc, h2.trans hm⟩
  · exact h e h1

/-- A change of the issuing thread that keeps its reservation. -/
theorem State.Held.upd (s : State) {f : Thread → Thread} (hf : (f s.me).resv = s.me.resv) : s.Held (s.upd f) := by
  intro e he
  rcases mem_tput (show e ∈ tput {} s.threads s.cur (f s.me) from he) with rfl | h
  · exact .inl ⟨rfl, hf⟩
  · exact .inr h

/-- Where no reservation is held, none is held behind such a change. -/
theorem State.Held.unheld {s t : State} (h : s.Held t) (hs : ∀ e ∈ s.threads, e.2.resv = none) : ∀ e ∈ t.threads, e.2.resv = none := by
  have hme : s.me.resv = none := by
    rcases tget_mem {} s.threads s.cur with hd | hd
    · rw [State.me, State.thread, hd]
    · exact hs _ hd
  intro e he
  rcases h e he with ⟨-, h2⟩ | h1
  · exact h2.trans hme
  · exact hs e h1

/-- States that the checks of an instruction lie between (R74): bookkeeping alone, the rights and reservations as they were, and of the lines
at most SI copies gone (R292). -/
structure Checked (s t : State) : Prop where
  passes : Passes s t
  kept : ∀ c, ∃ f : Line → Bool, (∀ x, x.kind ≠ .si → f x = true) ∧ (t.core c).lines = (s.core c).lines.filter f
  held : s.Held t

section
variable {s t u : State}

theorem Checked.quiet (h : Checked s t) : Quiet s t := h.passes.quiet

theorem Checked.resv (h : Checked s t) : t.me.resv = s.me.resv := by
  obtain ⟨a, b, hm⟩ := h.quiet.me
  rw [hm]

theorem Checked.refl (s : State) : Checked s s :=
  ⟨.refl s, fun _ => ⟨fun _ => true, fun _ _ => rfl, by simp⟩, fun _ => .inr⟩

theorem Checked.trans (h : Checked s t) (h' : Checked t u) : Checked s u := by
  refine ⟨h.passes.trans h'.passes, fun c => ?_, h.held.trans h'.held h.quiet.cur h.resv⟩
  obtain ⟨f, hf, h1⟩ := h.kept c
  obtain ⟨g, hg, h2⟩ := h'.kept c
  exact ⟨fun x => g x && f x, fun x hx => by simp [hf x hx, hg x hx], by rw [h2, h1, List.filter_filter]⟩

/-- A line behind the checks was there before. -/
theorem Checked.lines (h : Checked s t) (c : Nat) (x : Line) (hx : x ∈ (t.core c).lines) : x ∈ (s.core c).lines := by
  obtain ⟨f, -, h1⟩ := h.kept c
  rw [h1] at hx
  exact (List.mem_filter.1 hx).1

theorem Checked.touch (s : State) (c region now : Nat) : Checked s (s.updCore c (fun x => x.plbTouch region now)) := by
  refine ⟨Passes.touch s c region now, fun d => ⟨fun _ => true, fun _ _ => rfl, ?_⟩, fun e he => .inr he⟩
  rw [State.core_updCore, List.filter_eq_self.2 (fun _ _ => rfl)]
  split
  · next h => subst h; rfl
  · rfl

theorem State.dropSI_kept (s : State) (t c : Nat) : ∃ f : Line → Bool, (∀ x, x.kind ≠ .si → f x = true) ∧
    ((s.dropSI t).core c).lines = (s.core c).lines.filter f := by
  have hid : ∃ f : Line → Bool, (∀ x, x.kind ≠ .si → f x = true) ∧ (s.core c).lines = (s.core c).lines.filter f :=
    ⟨fun _ => true, fun _ _ => rfl, by simp⟩
  unfold State.dropSI
  split
  · rw [State.core_updCore]
    split
    · next h =>
      subst h
      exact ⟨fun l => !(l.kind == .si && l.siBy.contains t), fun x hx => by simp [hx], rfl⟩
    · exact hid
  · exact hid

theorem Checked.noteReads (s : State) (l : List RegRef) : Checked s (s.noteReads l) := by
  have hp := Passes.noteReads s l
  revert hp
  unfold State.noteReads
  extract_lets t s1
  intro hp
  have h1 : s.Held s1 ∧ s1.cur = s.cur ∧ s1.me.resv = s.me.resv ∧ s1.cores = s.cores := by
    by_cases hb : t.sibUnread.any (fun e => l.contains (gRef e.1)) = true
    · simp only [s1, hb, if_true]
      exact ⟨.upd s rfl, rfl, by rw [State.me_upd], rfl⟩
    · simp only [s1, hb]
      exact ⟨fun _ => .inr, rfl, rfl, rfl⟩
  obtain ⟨hh, hc, hm, hk⟩ := h1
  have hcore : ∀ c, s1.core c = s.core c := fun c => by unfold State.core; rw [hk]
  refine ⟨hp, fun c => ?_, ?_⟩
  · split
    · obtain ⟨f, hf, hl⟩ := State.dropSI_kept (s1.upd (fun t => { t with rfilled := t.rfilled.filter (fun r => !l.contains r) })) s.cur c
      exact ⟨f, hf, hl.trans (by rw [State.upd_core, hcore])⟩
    · exact ⟨fun _ => true, fun _ _ => rfl, by simp [hcore]⟩
  · split
    · intro e he
      rw [State.dropSI_threads] at he
      exact hh.trans (.upd s1 rfl) hc hm e he
    · exact hh

/-- An address that is reached passes its checks: what holds behind them holds of the whole. -/
theorem checkAddr_checked {P : State → Prop} {va : Word} {size : Nat} {need : Rights → Bool} {p : Place} {len : Nat} {k : Place → State → State}
    (h : s.Reaches va size need p) (hk : ∀ t, Checked s t → P (k p t)) : P (checkAddr va size need len k s) := by
  obtain ⟨hp, ha, hr⟩ := h
  unfold checkAddr
  rw [hp]
  simp only [ha, ne_eq, not_true_eq_false, if_false]
  unfold checkRight
  by_cases hg : isGlobal va.toNat = true
  · obtain ⟨r, h1, h2⟩ := hr hg
    simp only [hg, Bool.not_true, Bool.false_eq_true, if_false, h1, h2, if_true]
    exact hk _ (Checked.touch s _ _ _)
  · simp only [Bool.not_eq_true] at hg
    simp only [hg, Bool.not_false, if_true]
    exact hk s (.refl s)

/-- Operands and an address that are there pass the checks of an instruction: what holds behind them holds of the whole (R74). -/
theorem issue_checked {P : State → Prop} {x : Issue} {size : Nat} {need : Rights → Bool} {p : Place} {k : State → Place → State → State}
    {ea : Thread → Word} (hl : x.legal = true) (hm : x.min = .U) (hr : s.Ready x.srcs x.dsts) (hea : ∀ (t : Thread) a b, ea { t with sibUnread := a, rfilled := b } = ea t)
    (h : s.Reaches (ea s.me) size need p) (hk : ∀ u t, Checked s u → Checked s t → P (k u p t)) :
    P (issue x (fun u => checkAddr (ea u.me) size need x.len (k u) u) s) := by
  rw [issue_ready x _ s hl (by rw [hm]; simp) hr]
  have h1 := Checked.noteReads s x.srcs
  obtain ⟨a, b, hab⟩ := h1.quiet.me
  rw [show ea (s.noteReads x.srcs).me = ea s.me by rw [hab, hea]]
  exact checkAddr_checked (h1.passes.reaches h) (fun t ht => hk _ t h1 (h1.trans ht))

/-! ## What decides whether an access is performed at issue -/

theorem Quiet.busyWord (q : Quiet s t) (va : Nat) : t.busyWord va = s.busyWord va := by
  unfold State.busyWord State.wordKey
  rw [q.resolve, q.reqs, q.cur]

theorem Quiet.shortOpen (q : Quiet s t) : t.shortOpen = s.shortOpen := by
  unfold State.shortOpen
  rw [q.reqs, q.cur]

theorem Quiet.atOnce (q : Quiet s t) (p : Place) (va : Word) (rel : Bool) : t.atOnce p va rel = s.atOnce p va rel := by
  unfold State.atOnce
  rw [q.busyWord, q.shortOpen, q.reqs, q.cur]

/-- An access performed at issue is one to the own scratchpad (R11). -/
theorem State.short_of_atOnce {p : Place} {va : Word} {rel : Bool} (h : s.atOnce p va rel = true) : isShort1 va.toNat = true := by
  unfold State.atOnce Place.short at h
  cases p <;> simp_all

end

/-! ## What a write at issue may change -/

/-- Two states of which the second came from the first by bookkeeping of the issuing thread, its banks and caches, and by bytes that land. -/
structure Landing (s t : State) : Prop where
  state : t = { s with threads := t.threads, cores := t.cores, banks := t.banks, mem := t.mem, empty := t.empty, was := t.was, lastWrite := t.lastWrite }
  others : ∀ u, u ≠ s.cur → t.thread u = s.thread u
  me : ∃ a b w, t.me = { s.me with sibUnread := a, rfilled := b, tbanks := w }
  held : s.Held t

section
variable {s t u : State}

theorem Checked.landing (h : Checked s t) : Landing s t := by
  obtain ⟨a, b, hm⟩ := h.quiet.me
  refine ⟨?_, h.quiet.others, ⟨a, b, _, hm⟩, h.held⟩
  rw [h.quiet.state]

theorem Landing.cur (h : Landing s t) : t.cur = s.cur := by rw [h.state]
theorem Landing.reqs (h : Landing s t) : t.reqs = s.reqs := by rw [h.state]
theorem Landing.resv (h : Landing s t) : t.me.resv = s.me.resv := by
  obtain ⟨a, b, w, hm⟩ := h.me
  rw [hm]

theorem Landing.trans (h : Landing s t) (h' : Landing t u) : Landing s u := by
  obtain ⟨a, b, w, hm⟩ := h.me
  obtain ⟨a', b', w', hm'⟩ := h'.me
  refine ⟨?_, fun x hx => ?_, ⟨a', b', w', by rw [hm', hm]⟩, h.held.trans h'.held h.cur h.resv⟩
  · rw [h'.state]; conv => lhs; rw [h.state]
  · rw [h'.others x (by rw [h.cur]; exact hx), h.others x hx]

/-- A change that leaves the threads alone. -/
theorem Landing.of_threads (h : t = { s with cores := t.cores, banks := t.banks, mem := t.mem, empty := t.empty, was := t.was, lastWrite := t.lastWrite }) :
    Landing s t := by
  have ht : t.threads = s.threads := by rw [h]
  have hc : t.cur = s.cur := by rw [h]
  have hth : ∀ u, t.thread u = s.thread u := fun u => by unfold State.thread; rw [ht]
  refine ⟨?_, fun u _ => hth u, ⟨_, _, _, (show t.me = s.me by unfold State.me; rw [hc, hth])⟩, fun e he => .inr (ht ▸ he)⟩
  rw [h]

/-- Nothing waits behind such a change where nothing did. -/
theorem Landing.unwatched (h : Landing s t) (hu : s.Unwatched) : t.Unwatched := by
  refine ⟨?_, ?_, ?_, ?_, h.held.unheld hu.resv⟩
  all_goals rw [h.state]
  · exact hu.syncq
  · exact hu.syncIn
  · exact hu.waiters
  · exact hu.ecc

theorem Landing.shortWords (s : State) (l : List Nat) : Landing s (s.shortWords l) := .of_threads (by rw [s.shortWords_eq])

theorem Landing.noteWrite (s : State) (t key : Nat) (rel : Bool) (ord : Option Nat) (rmw : Bool) : Landing s (s.noteWrite t key rel ord rmw) :=
  .of_threads (by rw [s.noteWrite_eq])

theorem Landing.poke (s : State) (key : Nat) (l : List Byte) : Landing s (s.poke key l) := .of_threads (by rw [s.poke_eq])

/-- What an access leaves of its thread. -/
theorem Landing.thread (h : Landing s t) : (∀ r, t.me.stOf r = s.me.stOf r ∧ t.me.valOf r = s.me.valOf r) ∧ (∀ j, t.me.kReg j = s.me.kReg j) ∧
    t.me.special = s.me.special ∧ t.me.level = s.me.level ∧ ∀ len, t.me.nextPc len = s.me.nextPc len := by
  obtain ⟨a, b, w, hm⟩ := h.me
  rw [hm]
  exact ⟨fun r => ⟨rfl, rfl⟩, fun j => rfl, rfl, rfl, fun len => rfl⟩

end

/-! ## Bytes that land where nothing waits -/

/-- The words that a range of bytes has a part in (R43). -/
def filledWords (key len : Nat) : List Nat := (List.range ((key + len + 7) / 8 - key / 8)).map (fun i => (key / 8 + i) * 8)

theorem filledWords_self {key len : Nat} (h : 0 < len) : key / 8 * 8 ∈ filledWords key len :=
  List.mem_map.2 ⟨0, List.mem_range.2 (by omega), by simp⟩

theorem State.setFull_eq (s : State) (w : Nat) : s.setFull w = { s with empty := serase s.empty w } := by
  unfold State.setFull
  split
  · rfl
  · next h =>
    have hf : serase s.empty w = s.empty := List.filter_eq_self.2 (fun a ha => by
      simp only [List.contains_eq_mem, decide_eq_true_eq] at h
      simp only [bne_iff_ne, ne_eq]
      rintro rfl
      exact h ha)
    rw [hf]

/-- The words of a write become FULL, and nothing else happens (R43). -/
theorem State.Unwatched.landed_eq {s : State} (h : s.Unwatched) (key len : Nat) :
    s.landed key len = { s with empty := s.empty.filter (fun x => !(filledWords key len).contains x) } := by
  have hfill : ∀ (ws : List Nat) (u : State), u.Unwatched →
      ws.foldl (fun s w => (s.setFull w).serveWord w) u = { u with empty := u.empty.filter (fun x => !ws.contains x) } := by
    intro ws
    induction ws with
    | nil => intro u _; simp
    | cons w ws ih =>
      intro u hu
      have hw : (u.setFull w).Unwatched := by rw [u.setFull_eq]; exact hu.same rfl rfl rfl rfl rfl
      rw [List.foldl_cons, hw.serveWord, ih _ hw, u.setFull_eq]
      simp only [serase, List.filter_filter]
      congr 1
      refine List.filter_congr (fun x _ => ?_)
      by_cases hx : x = w <;> simp [hx]
  have hu : ({ s with empty := s.empty.filter (fun x => !(filledWords key len).contains x) } : State).Unwatched := h.same rfl rfl rfl rfl rfl
  have hb : ∀ l : List Nat, l.foldl (fun (s : State) i => s.breakResv (key / 128 + i) none) { s with empty := s.empty.filter (fun x => !(filledWords key len).contains x) } =
      { s with empty := s.empty.filter (fun x => !(filledWords key len).contains x) } := fun l => foldl_id l _ _ (fun i _ => hu.breakResv _ _)
  unfold State.landed
  simp only [show (List.range ((key + len + 7) / 8 - key / 8)).map (fun i => (key / 8 + i) * 8) = filledWords key len from rfl, hfill _ _ h, hb, hu.waiters,
    List.isEmpty_nil, if_true]

/-- Bytes written at a bank where nothing waits: they are there, their words are FULL, and that is all (R43). -/
theorem State.Unwatched.bankWrite_lands {s : State} (h : s.Unwatched) (key : Nat) (l : List Byte) :
    Landing s (s.bankWrite key l) ∧ (s.bankWrite key l).mem = pokeMem s.mem key l ∧
      (s.bankWrite key l).empty = s.empty.filter (fun x => !(filledWords key l.length).contains x) := by
  have h0 : Landing s (s.noteOld key l.length) := .of_threads (by rw [s.noteOld_eq])
  have h1 := h0.trans (Landing.poke (s.noteOld key l.length) key l)
  have hu := h1.unwatched h
  have hm : ((s.noteOld key l.length).poke key l).mem = pokeMem s.mem key l := by rw [State.poke_eq, s.noteOld_eq]
  have he : ((s.noteOld key l.length).poke key l).empty = s.empty := by rw [State.poke_eq, s.noteOld_eq]
  have hb : s.bankWrite key l = ((s.noteOld key l.length).poke key l).landed key l.length := by
    unfold State.bankWrite State.putBytes State.putRaw
    simp only [hu.ecc, List.isEmpty_nil, if_true]
  rw [hb, hu.landed_eq]
  exact ⟨h1.trans (.of_threads rfl), hm, by rw [he]⟩

end Sys2Proof.Machine
end

section
/-!
O16, second part: an access performed at issue, outside RECORD and REPLAY (R7, R11, R110).
-/

namespace Sys2Proof.Machine

/-! ## Accesses that no record orders -/

/-- A context that neither records nor replays. -/
def State.Unordered (s : State) (ctx : Nat) : Prop := s.levelOf ctx ≠ 1 ∧ s.levelOf ctx ≠ 2

section
variable {s : State} {ctx : Nat} (h : s.Unordered ctx)
include h

theorem State.Unordered.recording : s.recording ctx = false := by simpa [State.recording] using h.1

theorem State.Unordered.replaying : s.replaying ctx = false := by simpa [State.replaying] using h.2

theorem State.Unordered.turnOf (typ obj actor : Nat) (ord : Option Nat) : s.turnOf ctx typ obj actor ord = .free := by
  have hf : s.recordsFirst ctx typ obj actor ord = false := by
    unfold State.recordsFirst
    cases ord with
    | none => rfl
    | some o => simp only [h.recording, Bool.not_false, Bool.true_or, if_true]
  have hr : s.rollFull ctx typ obj = false := by
    unfold State.rollFull
    rw [h.recording]
    rfl
  unfold State.turnOf
  rw [h.replaying, hr, hf]
  rfl

end

/-- An access of such a context waits for no turn (R400). -/
theorem State.Unordered.accessTurn {s : State} {r : Req} (h : s.Unordered (s.thread r.tid).ctx) (key : Nat) : s.accessTurn r key = .free := by
  unfold State.accessTurn
  cases recKind r.op r.acq with
  | none => rfl
  | some k => simp only [h.turnOf]

/-- And it writes no record once it is served (R394). -/
theorem State.Unordered.served {s : State} {r : Req} (h : s.Unordered (s.thread r.tid).ctx) (key val : Nat) : s.served r key val = s := by
  unfold State.served
  cases recKind r.op r.acq with
  | none => rfl
  | some k => simp only [h.recording, h.replaying, Bool.false_eq_true, if_false]

theorem State.Unordered.noteWrite {s : State} {t : Nat} (h : s.Unordered (s.thread t).ctx) (key : Nat) (rel : Bool) (ord : Option Nat) (rmw : Bool) :
    s.noteWrite t key rel ord rmw = s := by
  unfold State.noteWrite
  simp only [h.recording, h.replaying, Bool.or_self, Bool.false_eq_true, if_false]

theorem State.Unrolled.unordered {s : State} (h : s.Unrolled) : s.Unordered (s.thread s.cur).ctx := h

/-! ## Performed at issue -/

/-- An access as its outcome at issue sees it. -/
def Req.atIssue (r : Req) (s : State) (short : Bool) : Req := { r with tid := s.cur, epoch := s.me.epoch, ord := none, short := short }

/-- Outside RECORD and REPLAY an access performed at issue is performed (R11). -/
theorem shortAccess_free {s : State} (h : s.Unrolled) (len : Nat) {r : Req} (hr : r.ord = none) (k : Req → Option Bool → State → State) :
    ∃ b, shortAccess len r k s = shortAccess.go k (r.atIssue s b) none s := by
  have h0 : ∀ b, ({ r with tid := s.cur, epoch := s.me.epoch, ord := none, short := b } : Req) = r.atIssue s b := fun _ => rfl
  have h1 : ({ r with tid := s.cur, epoch := s.me.epoch } : Req) = r.atIssue s r.short := by
    rw [← h0]; simp only [← hr]
  unfold shortAccess
  cases hk : recKind r.op r.acq with
  | none =>
    simp only [hk]
    refine ⟨r.short, ?_⟩
    split
    · rw [ordinal_free _ _ s h]
      rfl
    · rw [h1]
  | some e =>
    have ht := State.Unordered.accessTurn (r := r.atIssue s true) h.unordered r.place.chipKey
    simp only [hk, loggable_free _ _ _ _ _ _ _ s h]
    refine ⟨true, ?_⟩
    simp only [h0]
    exact (congrArg (fun x => match x with
      | .wait => if Config.maxOutstanding ≤ s.me.count r.cls then s.parkOn .count else (s.post (r.atIssue s true)).advance len
      | .free => shortAccess.go k (r.atIssue s true) none s
      | .mine _ y => shortAccess.go k (r.atIssue s true) (some (recVal y % 2 = 0)) s) ht :)

/-- The words whose banks an access performed at issue takes. -/
def Req.bankWords (r : Req) : List Nat := r.pieces.flatMap (fun e => (List.range ((e.2 + 7) / 8)).map (fun i => e.1 + 8 * i))

/-- The end of an acquire at issue: no SI copy of the thread stays (R110). -/
def State.acquired (s : State) (r : Req) (t : Nat) : State := if r.acq && decide (2 ≤ r.scope) then s.dropSI t else s

theorem State.acquired_eq (s : State) (r : Req) (t : Nat) : s.acquired r t = { s with cores := (s.acquired r t).cores } := by
  unfold State.acquired
  split
  · rw [State.dropSI_state]
  · rfl

/-- One that is no release finds its banks taken, and no more. -/
theorem shortAccess.go_plain {r : Req} (hr : r.rel = false) (k : Req → Option Bool → State → State) (o : Option Bool) (s : State) :
    shortAccess.go k r o s = (k r o (s.shortWords r.bankWords)).acquired r s.cur := by
  have hs : ∀ x : State, (x.acquired r s.cur) = if r.acq && decide (2 ≤ r.scope) then x.dropSI s.cur else x := fun _ => rfl
  unfold shortAccess.go
  rw [hs]
  simp only [hr, Bool.false_and, Bool.false_eq_true, if_false]
  rfl

/-- A release finds besides what banks its thread has touched written anew, where its core has no line to write back (R135). -/
theorem shortAccess.go_landing {r : Req} {s : State} (hl : (s.core (coreOf s.cur)).lines = []) (k : Req → Option Bool → State → State) (o : Option Bool) :
    ∃ u, Landing s u ∧ u.mem = s.mem ∧ u.empty = s.empty ∧ shortAccess.go k r o s = (k r o u).acquired r s.cur := by
  by_cases hf : (r.rel && decide (2 ≤ r.scope)) = true
  · have hc : ((s.shortWords r.bankWords).core (coreOf s.cur)).lines = [] := by rw [s.shortWords_eq]; exact hl
    obtain ⟨w, hw⟩ := State.releaseFence_plain _ hc
    have h0 := Landing.shortWords s r.bankWords
    have hcur := h0.cur
    refine ⟨(s.shortWords r.bankWords).releaseFence s.cur, ?_, ?_, ?_, ?_⟩
    · refine h0.trans ?_
      rw [hw, ← hcur]
      refine ⟨rfl, fun u hu => ?_, ⟨_, _, w, State.me_upd _ _⟩, .upd _ rfl⟩
      rw [State.thread_updThread, if_neg hu]
    · rw [hw, s.shortWords_eq]; rfl
    · rw [hw, s.shortWords_eq]; rfl
    · unfold shortAccess.go
      simp only [hf, if_true]
      rfl
  · refine ⟨s.shortWords r.bankWords, Landing.shortWords s _, by rw [s.shortWords_eq], by rw [s.shortWords_eq], ?_⟩
    unfold shortAccess.go
    simp only [hf]
    rfl

/-- No line in any cache: none in a core's. -/
theorem State.core_lines {s : State} (h : ∀ e ∈ s.cores, e.2.lines = []) (c : Nat) : (s.core c).lines = [] := by
  rcases tget_mem {} s.cores c with hd | hd
  · rw [State.core, hd]
  · exact h _ hd

theorem Checked.noLines {s t : State} (h : Checked s t) (hs : ∀ e ∈ s.cores, e.2.lines = []) (c : Nat) : (t.core c).lines = [] :=
  List.eq_nil_iff_forall_not_mem.2 (fun x hx => by
    have := h.lines c x hx
    rw [State.core_lines hs] at this
    exact List.not_mem_nil this)

/-- The state `u` in which an access performed at issue meets its word, and the access `q` as it does: `t` is the state behind its checks. -/
structure AtIssue (s t u : State) (r q : Req) : Prop where
  landing : Landing s u
  mem : u.mem = s.mem
  empty : u.empty = s.empty
  req : ∃ b, q = r.atIssue t b
  banks : r.rel = false → u = t.shortWords r.bankWords

theorem AtIssue.tid {s t u : State} {r q : Req} (h : AtIssue s t u r q) (ht : t.cur = s.cur) : q.tid = u.cur := by
  obtain ⟨b, hq⟩ := h.req
  rw [hq, h.landing.cur, ← ht]
  rfl

/-- An access performed at issue behind its checks, in a core without a line: what holds of its outcome, whatever its banks and the groups that its
thread has touched, holds of the whole. -/
theorem shortAccess_landing {P : State → Prop} {s t : State} {r : Req} (h : Checked s t) (hu : s.Unrolled) (hl : r.rel = true → ∀ e ∈ s.cores, e.2.lines = []) {len : Nat}
    {k : Req → Option Bool → State → State} (hr : r.ord = none)
    (hk : ∀ q u, AtIssue s t u r q → P ((k q none u).acquired q t.cur)) : P (shortAccess len r k t) := by
  obtain ⟨b, hb⟩ := shortAccess_free (h.quiet.unrolled hu) len hr k
  rw [hb]
  have hq := h.quiet.state
  cases hrel : r.rel with
  | false =>
    rw [shortAccess.go_plain (r := r.atIssue t b) hrel]
    have hs := t.shortWords_eq r.bankWords
    refine hk (r.atIssue t b) (t.shortWords r.bankWords) ⟨h.landing.trans (Landing.shortWords t _), ?_, ?_, ⟨b, rfl⟩, fun _ => rfl⟩
    · rw [hs, hq]
    · rw [hs, hq]
  | true =>
    obtain ⟨u, hL, hmem, hemp, hgo⟩ := shortAccess.go_landing (r := r.atIssue t b) (h.noLines (hl hrel) (coreOf t.cur)) k none
    rw [hgo]
    exact hk _ u ⟨h.landing.trans hL, hmem.trans (by rw [hq]), hemp.trans (by rw [hq]), ⟨b, rfl⟩, fun h => absurd hrel (by simp [h])⟩

/-! ## Bytes of a number -/

/-- The bytes of a number are its digits (R4). -/
theorem natToBytes_getD (n v i : Nat) (hi : i < n) : (natToBytes n v).getD i 0 = BitVec.ofNat 8 (v / 256 ^ i) := by
  induction n generalizing v i with
  | zero => omega
  | succ n ih =>
    cases i with
    | zero => simp [natToBytes]
    | succ i =>
      show (natToBytes n (v / 256)).getD i 0 = _
      rw [ih _ _ (by omega), Nat.div_div_eq_div_mul, Nat.pow_succ']

theorem natToBytes_slice {n i w : Nat} (v : BitVec w) (hi : i < n) : (natToBytes n v.toNat).getD i 0 = v.extractLsb' (8 * i) 8 := by
  rw [natToBytes_getD n _ i hi]
  apply BitVec.eq_of_toNat_eq
  rw [BitVec.toNat_ofNat, BitVec.extractLsb'_toNat, Nat.shiftRight_eq_div_pow, Nat.pow_mul]

/-! ## A store performed at issue -/

/-- What a store performed at issue leaves. -/
structure StoredAt (s t : State) (key n : Nat) (v : Word) (len : Nat) : Prop where
  pc : t.me.pc = s.me.nextPc len
  bytes : ∀ a, t.byte a = if key ≤ a ∧ a < key + n then v.extractLsb' (8 * (a - key)) 8 else s.byte a
  full : t.isEmpty key = false
  empty : ∀ w, w ∈ t.empty → w ∈ s.empty
  reqs : t.reqs = s.reqs
  regs : ∀ r, t.me.stOf r = s.me.stOf r ∧ t.me.valOf r = s.me.valOf r
  masks : ∀ j, t.me.kReg j = s.me.kReg j
  special : t.me.special = s.me.special
  level : t.me.level = s.me.level
  others : ∀ u, u ≠ s.cur → t.thread u = s.thread u

/-- Bytes that land at issue, behind the checks and the banks, and the thread goes on. -/
theorem Landing.stored {s u : State} (h : Landing s u) (hm : u.mem = s.mem) (he : u.empty = s.empty) (hu : u.Unwatched) (t key n : Nat) (hn : 0 < n) (v : Word)
    (rel : Bool) (ord : Option Nat) (rmw : Bool) (len : Nat) :
    StoredAt s (((u.noteWrite t key rel ord rmw).bankWrite key (natToBytes n v.toNat)).advance len) key n v len := by
  have h1 := h.trans (Landing.noteWrite u t key rel ord rmw)
  have hu1 := (Landing.noteWrite u t key rel ord rmw).unwatched hu
  obtain ⟨hL, hmem, hempty⟩ := hu1.bankWrite_lands key (natToBytes n v.toNat)
  have hlen : (natToBytes n v.toNat).length = n := Laws.natToBytes_length n _
  rw [show (u.noteWrite t key rel ord rmw).mem = s.mem by rw [u.noteWrite_eq]; exact hm] at hmem
  rw [hlen, show (u.noteWrite t key rel ord rmw).empty = s.empty by rw [u.noteWrite_eq]; exact he] at hempty
  have hE : ∀ x, x ∈ ((u.noteWrite t key rel ord rmw).bankWrite key (natToBytes n v.toNat)).empty → x ∈ s.empty ∧ x ∉ filledWords key n := fun x hx => by
    rw [hempty] at hx
    simpa using hx
  have hM : ∀ a, ((u.noteWrite t key rel ord rmw).bankWrite key (natToBytes n v.toNat)).byte a = tget 0 (pokeMem s.mem key (natToBytes n v.toNat)) a := fun a => by
    rw [← hmem]; rfl
  have hX := h1.trans hL
  generalize ((u.noteWrite t key rel ord rmw).bankWrite key (natToBytes n v.toNat)) = X at hX hE hM ⊢
  obtain ⟨hregs, hmasks, hsp, hlv, hpc⟩ := hX.thread
  have hme : (X.advance len).me = X.me.advance len X.now := State.me_upd _ _
  refine ⟨?_, fun a => ?_, ?_, fun w hw => (hE w hw).1, hX.reqs, fun r => ?_, fun j => ?_, ?_, ?_, fun x hx => ?_⟩
  · rw [hme, Thread.advance_pc, hpc]
  · refine (hM a).trans ?_
    rw [tget_pokeMem, hlen]
    split
    · next hr => exact natToBytes_slice v (by omega)
    · rfl
  · unfold State.isEmpty
    simp only [List.contains_eq_mem, decide_eq_false_iff_not]
    exact fun hx => (hE _ hx).2 (filledWords_self hn)
  · rw [hme, Thread.advance_stOf, Thread.advance_valOf]
    exact hregs r
  · rw [hme, Thread.advance_kReg]
    exact hmasks j
  · rw [hme, ← hsp]
    simp [Thread.special]
  · rw [hme, Thread.advance_level]
    exact hlv
  · rw [State.advance, State.thread_upd, if_neg (hX.cur ▸ hx), hX.others x hx]

/-- The end of an acquire changes none of it. -/
theorem StoredAt.acquired {s t : State} {key n : Nat} {v : Word} {len : Nat} (h : StoredAt s t key n v len) (r : Req) (c : Nat) :
    StoredAt s (t.acquired r c) key n v len := by
  rw [t.acquired_eq]
  exact ⟨h.pc, h.bytes, h.full, h.empty, h.reqs, h.regs, h.masks, h.special, h.level, h.others⟩

end Sys2Proof.Machine
end

section
/-!
O16, third part: a long access that leaves its core (R22, R108, R134, R140).
-/

namespace Sys2Proof.Machine

/-! ## The thread of an access that leaves -/

/-- Registers left PENDING change no other part of a thread. -/
theorem Thread.pends_eq (l : List RegRef) (t : Thread) : ∃ g m v c, l.foldl Thread.pendReg t = { t with g := g, m := m, v := v, c := c } := by
  induction l generalizing t with
  | nil => exact ⟨_, _, _, _, rfl⟩
  | cons r l ih =>
    obtain ⟨g, m, v, c, h⟩ := ih (t.pendReg r)
    obtain ⟨g', m', v', c', h'⟩ : ∃ g m v c, t.pendReg r = { t with g := g, m := m, v := v, c := c } := by
      unfold Thread.pendReg Thread.put
      split
      · split
        · exact ⟨_, _, _, _, rfl⟩
        · exact ⟨_, _, _, _, rfl⟩
      all_goals exact ⟨_, _, _, _, rfl⟩
    exact ⟨g, m, v, c, by rw [List.foldl_cons, h, h']⟩

theorem Thread.pends_out (l : List RegRef) (t : Thread) (x : RegRef) (h : x ∉ l) :
    (l.foldl Thread.pendReg t).stOf x = t.stOf x ∧ (l.foldl Thread.pendReg t).valOf x = t.valOf x := by
  induction l generalizing t with
  | nil => exact ⟨rfl, rfl⟩
  | cons r l ih =>
    simp only [List.mem_cons, not_or] at h
    obtain ⟨h1, h2⟩ := ih (t.pendReg r) h.2
    rw [List.foldl_cons, h1, h2, Thread.pendReg, Thread.stOf_put, Thread.valOf_put, if_neg h.1, if_neg h.1]
    exact ⟨rfl, rfl⟩

theorem Thread.pends_in (l : List RegRef) (t : Thread) (x : RegRef) (h : x ∈ l ∨ t.stOf x = .pending) (hx : x ≠ gRef 0) :
    (l.foldl Thread.pendReg t).stOf x = .pending := by
  induction l generalizing t with
  | nil => exact h.resolve_left List.not_mem_nil
  | cons r l ih =>
    refine ih (t.pendReg r) ?_
    rw [Thread.pendReg, Thread.stOf_put]
    by_cases hr : x = r
    · subst hr
      exact .inr (by rw [if_pos rfl, if_neg hx])
    · rw [if_neg hr]
      simpa [hr] using h

/-- The thread's own part of a post: its count, its registers, its acquires. -/
theorem Thread.posted_eq (t : Thread) (r : Req) (id : Nat) :
    t.posted r id = { r.awaits.foldl Thread.pendReg (t.countUp r.cls) with acquires := (t.posted r id).acquires } := by
  unfold Thread.posted Req.awaits
  cases r.dst <;> cases r.ctxReg <;> rfl

/-! ## The state of an access that leaves -/

/-- What the leaving of request `r` makes of the state that its checks left, but for what it places. -/
structure Left (s t : State) (r : Req) : Prop where
  mem : t.mem = s.mem
  empty : t.empty = s.empty
  ctxs : t.ctxs = s.ctxs
  cur : t.cur = s.cur
  now : t.now = s.now
  others : ∀ u, u ≠ s.cur → t.thread u = s.thread u
  me : ∃ a b w, t.me = { s.me.posted r s.nextId with sibUnread := a, rfilled := b, tbanks := w }

/-- What it leaves once the thread goes on. -/
theorem Left.goesOn {s t : State} {r : Req} (h : Left s t r) (len : Nat) :
    (t.advance len).me.pc = s.me.nextPc len ∧ (∀ x ∈ r.awaits, x ≠ gRef 0 → (t.advance len).me.stOf x = .pending) ∧
      (t.advance len).me.count r.cls = s.me.count r.cls + (if r.cls = .none then 0 else 1) ∧ Untouched s (t.advance len) r.awaits := by
  obtain ⟨a, b, w, hm⟩ := h.me
  have hme : (t.advance len).me = t.me.advance len t.now := State.me_upd _ _
  obtain ⟨g, m, v, c, hp⟩ := Thread.pends_eq r.awaits (s.me.countUp r.cls)
  have hst : ∀ x, t.me.stOf x = (r.awaits.foldl Thread.pendReg (s.me.countUp r.cls)).stOf x := fun x => by rw [hm, Thread.posted_eq]; rfl
  have hval : ∀ x, t.me.valOf x = (r.awaits.foldl Thread.pendReg (s.me.countUp r.cls)).valOf x := fun x => by rw [hm, Thread.posted_eq]; rfl
  have hup : ∀ c, (∀ x, (s.me.countUp c).stOf x = s.me.stOf x ∧ (s.me.countUp c).valOf x = s.me.valOf x) ∧ (s.me.countUp c).special = s.me.special ∧
      (∀ i, (s.me.countUp c).kReg i = s.me.kReg i) ∧ (s.me.countUp c).level = s.me.level ∧ (s.me.countUp c).nextPc len = s.me.nextPc len ∧
      (s.me.countUp c).count c = s.me.count c + (if c = .none then 0 else 1) := fun c => by
    cases c <;> exact ⟨fun _ => ⟨rfl, rfl⟩, rfl, fun _ => rfl, rfl, rfl, rfl⟩
  obtain ⟨hu1, hu2, hu3, hu4, hu5, hu6⟩ := hup r.cls
  rw [Thread.posted_eq, hp] at hm
  refine ⟨?_, fun x hx h0 => ?_, ?_, fun x => ?_, h.empty, h.ctxs, fun u hu => ?_, fun x hx => ?_, fun i => ?_, ?_, ?_⟩
  · rw [hme, Thread.advance_pc, hm]
    exact hu5
  · rw [hme, Thread.advance_stOf, hst]
    exact Thread.pends_in _ _ x (.inl hx) h0
  · rw [hme, ← hu6, hm]
    cases r.cls <;> simp [Thread.count]
  · exact congrArg (fun m => tget 0 m x) h.mem
  · rw [State.advance, State.thread_upd, if_neg (h.cur ▸ hu), h.others u hu]
  · obtain ⟨h1, h2⟩ := Thread.pends_out r.awaits (s.me.countUp r.cls) x hx
    rw [hme, Thread.advance_stOf, Thread.advance_valOf, hst, hval, h1, h2]
    exact hu1 x
  · rw [hme, Thread.advance_kReg, hm]
    exact hu3 i
  · rw [hme, ← hu2, hm]
    simp [Thread.special]
  · rw [hme, Thread.advance_level, hm]
    exact hu4

/-- Notes about reads have no part in it. -/
theorem Thread.posted_notes (t : Thread) (r : Req) (id : Nat) (a : List (Nat × Word)) (b : List RegRef) :
    ({ t with sibUnread := a, rfilled := b } : Thread).posted r id = { t.posted r id with sibUnread := a, rfilled := b } := by
  have hp : ∀ (t : Thread) (x : RegRef), ({ t with sibUnread := a, rfilled := b } : Thread).pendReg x = { t.pendReg x with sibUnread := a, rfilled := b } := fun t x => by
    obtain ⟨cls, i⟩ := x
    cases cls <;> simp only [Thread.pendReg, Thread.put]
    split <;> rfl
  have hc : ({ t with sibUnread := a, rfilled := b } : Thread).countUp r.cls = { t.countUp r.cls with sibUnread := a, rfilled := b } := by
    cases r.cls <;> rfl
  unfold Thread.posted
  rw [hc]
  cases r.dst <;> cases r.ctxReg <;> simp only [hp]

theorem Quiet.left {s t u : State} (q : Quiet s t) {r : Req} (h : Left t u r) : Left s u r := by
  obtain ⟨a, b, hm⟩ := q.me
  obtain ⟨a', b', w, hu⟩ := h.me
  have hst := q.state
  refine ⟨?_, ?_, ?_, h.cur.trans q.cur, h.now.trans q.now, fun x hx => ?_, a', b', w, ?_⟩
  · rw [h.mem, hst]
  · rw [h.empty, hst]
  · rw [h.ctxs, hst]
  · rw [h.others x (by rw [q.cur]; exact hx), q.others x hx]
  · rw [hu, show t.nextId = s.nextId by rw [hst], hm, Thread.posted_notes]

theorem State.post_left (s : State) (r : Req) : Left s (s.post r) r :=
  ⟨State.postIn_mem .., State.postIn_empty .., State.postIn_ctxs .., State.postIn_cur .., State.postIn_now ..,
    fun u hu => by rw [State.post, State.postIn_thread, if_neg hu], _, _, _, State.postIn_me ..⟩

/-- A posted request's step is placed, or it waits for the end of its interval (R108, R126). -/
theorem State.post_due (s : State) (r : Req) :
    let q : Req := { r with id := s.nextId, tid := s.cur, epoch := s.me.epoch, issued := s.now }
    ∃ n, (n, q.event 0) ∈ (s.post r).pend ∨ (q.op.batched = true ∧ s.myLevel = 3 ∧ (s.now / 256, s.nextId) ∈ (s.post r).batch ∧
      (n, Instr.atomicIntervalEnd (s.now / 256)) ∈ (s.post r).pend) := by
  intro q
  unfold State.post State.postIn
  have hnow : (s.leave r [s.groupOf (coreOf s.cur) r.place]).2.now = s.now := by unfold State.leave; dsimp only [List.foldl]; rw [State.touch_now]; rfl
  have hx : s.leave r [s.groupOf (coreOf s.cur) r.place] = (q, (s.leave r [s.groupOf (coreOf s.cur) r.place]).2) := rfl
  generalize (s.leave r [s.groupOf (coreOf s.cur) r.place]).2 = u at hnow hx
  rw [hx]
  dsimp only
  split
  · next h =>
    simp only [Bool.and_eq_true, decide_eq_true_eq, Req.longBatch] at h
    obtain ⟨h3, hb, -⟩ := h
    obtain ⟨n, hn⟩ := State.afterOnce_due { u with batch := u.batch ++ [(s.now / 256, s.nextId)] } (256 * (s.now / 256 + 1) - s.now) (.atomicIntervalEnd (s.now / 256))
    refine ⟨n, .inr ⟨hb, h3, ?_, hn⟩⟩
    show _ ∈ (State.afterOnce _ _ _).batch
    rw [State.afterOnce_batch]
    exact List.mem_append_right _ List.mem_cons_self
  · exact ⟨_, .inl (mem_tins_self _ _ _)⟩

/-- A request posted behind its checks, and the thread goes on (R108). -/
theorem Quiet.posted {s t : State} (q : Quiet s t) (r : Req) (len : Nat) :
    ((t.post r).advance len).me.pc = s.me.nextPc len ∧ Posted s ((t.post r).advance len) r r.awaits := by
  obtain ⟨hpc, hst, hc, hu⟩ := (q.left (t.post_left r)).goesOn len
  obtain ⟨n, hn⟩ := t.post_due r
  have hlv : t.myLevel = s.myLevel := by
    obtain ⟨a, b, hm⟩ := q.me
    unfold State.myLevel State.levelOf State.ctx
    rw [hm, q.state]
  have hep : t.me.epoch = s.me.epoch := by
    obtain ⟨a, b, hm⟩ := q.me
    rw [hm]
  have hid : t.nextId = s.nextId := by rw [q.state]
  refine ⟨hpc, ?_, ⟨n, ?_⟩, hst, hc, hu⟩
  · show (t.post r).reqs = _
    rw [State.post, State.postIn_reqs, q.reqs, hid, q.cur, q.now, hep]
  · rw [hid, q.cur, q.now, hep, hlv] at hn
    exact hn

end Sys2Proof.Machine
end

section
/-!
O16, fourth part: a store behind its checks, performed at issue, into a line that the core holds, or posted (R39, R46, R108, R111).
-/

namespace Sys2Proof.Machine

/-! ## Bytes of a line -/

theorem bytesToNat_lt (l : List Byte) : bytesToNat l < 256 ^ l.length := by
  induction l with
  | nil => decide
  | cons b l ih =>
    have hb := b.isLt
    show b.toNat + 256 * bytesToNat l < 256 ^ (l.length + 1)
    rw [Nat.pow_succ']
    omega

theorem bytesToNat_digit : ∀ (l : List Byte) (i : Nat), bytesToNat l / 256 ^ i % 256 = (l.getD i 0).toNat
  | [], i => by simp [bytesToNat]
  | b :: l, 0 => by
    have hb := b.isLt
    show (b.toNat + 256 * bytesToNat l) / 1 % 256 = b.toNat
    omega
  | b :: l, i + 1 => by
    have hb := b.isLt
    have hd : (b.toNat + 256 * bytesToNat l) / 256 = bytesToNat l := by omega
    show (b.toNat + 256 * bytesToNat l) / 256 ^ (i + 1) % 256 = (l.getD i 0).toNat
    rw [Nat.pow_succ', ← Nat.div_div_eq_div_mul, hd]
    exact bytesToNat_digit l i

/-- A byte of a line made from its bytes. -/
theorem slice_ofBytes {l : List Byte} (hl : l.length = 128) (i : Nat) : (BitVec.ofNat 1024 (bytesToNat l)).extractLsb' (8 * i) 8 = l.getD i 0 := by
  have h := bytesToNat_lt l
  rw [hl, show (256 : Nat) = 2 ^ 8 from rfl, ← Nat.pow_mul] at h
  apply BitVec.eq_of_toNat_eq
  rw [BitVec.extractLsb'_toNat, BitVec.toNat_ofNat, Nat.mod_eq_of_lt h, Nat.shiftRight_eq_div_pow, Nat.pow_mul]
  exact bytesToNat_digit l i

/-- Bytes put into a line are there, and its other bytes are as they were. -/
theorem patch_slice (d : BitVec 1024) {off : Nat} {b : List Byte} (h : off + b.length ≤ 128) {j : Nat} (hj : j < 128) :
    (State.updateCopy.patch d off b).extractLsb' (8 * j) 8 = if off ≤ j ∧ j < off + b.length then b.getD (j - off) 0 else d.extractLsb' (8 * j) 8 := by
  have hold := Laws.natToBytes_length 128 d.toNat
  have hd : d.extractLsb' (8 * j) 8 = (natToBytes 128 d.toNat).getD j 0 := (natToBytes_slice d hj).symm
  unfold State.updateCopy.patch
  dsimp only
  rw [slice_ofBytes (by simp [hold]; omega), hd]
  generalize natToBytes 128 d.toNat = old at hold
  simp only [List.getD_eq_getElem?_getD, List.getElem?_append, List.length_append, List.length_take, hold, List.getElem?_take, List.getElem?_drop,
    Nat.min_eq_left (show off ≤ 128 by omega)]
  by_cases h1 : j < off
  · rw [if_pos (by omega), if_pos h1, if_pos h1, if_neg (by omega)]
  · by_cases h2 : j < off + b.length
    · rw [if_pos h2, if_neg h1, if_pos ⟨by omega, h2⟩]
    · rw [if_neg h2, if_neg (by omega), show off + b.length + (j - (off + b.length)) = j by omega]

/-! ## Where no reservation is held and no request waits at a word -/

theorem State.breakResv_none {s : State} (h : ∀ e ∈ s.threads, e.2.resv = none) (g : Nat) (own : Option Nat) : s.breakResv g own = s := by
  have hf : s.threads.filter (fun e => e.2.resv == some g && some e.1 != own) = [] :=
    List.filter_eq_nil_iff.2 (fun e he => by simp [h e he])
  unfold State.breakResv
  rw [hf]
  rfl

/-- The words of a store into a line become FULL (R43). -/
theorem State.lineStored_none {s : State} (hq : s.syncq = []) (hi : s.syncIn = []) (c key len : Nat) :
    s.lineStored c key len = { s with empty := s.empty.filter (fun x => !(filledWords key len).contains x) } := by
  have hfill : ∀ (ws : List Nat) (u : State), ws.foldl (fun s w => s.setFull w) u = { u with empty := u.empty.filter (fun x => !ws.contains x) } := by
    intro ws
    induction ws with
    | nil => intro u; simp
    | cons w ws ih =>
      intro u
      rw [List.foldl_cons, ih, u.setFull_eq]
      simp only [serase, List.filter_filter]
      congr 1
      refine List.filter_congr (fun x _ => ?_)
      by_cases hx : x = w <;> simp [hx]
  unfold State.lineStored
  dsimp only
  rw [if_neg (by rw [hq, hi]; simp), hfill]
  rfl

/-! ## The three cases -/

section
variable {s t : State} {p : Place} {va v : Word} {n : Nat} {typ : BitVec 2} {acq rel : Bool} {scope len : Nat}

/-- The request that a store posts. -/
def storeReq (p : Place) (va v : Word) (n : Nat) (typ : BitVec 2) (acq rel : Bool) (scope : Nat) : Req :=
  { id := 0, tid := 0, epoch := 0, op := .store n v, va := va, place := p, cls := .stores, acq := acq, rel := rel, scope := scope, typ := typ,
    short := p.short va }

/-- No line of the address, none that takes its store (R39). -/
theorem Checked.noStoreLine (h : Checked s t) (hn : s.NoCopy va) : (t.core (coreOf t.cur)).storeLine va.toNat typ = none := by
  unfold Core.storeLine
  split
  · refine List.find?_eq_none.2 (fun x hx => ?_)
    have := hn x (h.quiet.cur ▸ h.lines _ x hx)
    simp [this]
  · rfl

/-- What the checks do not take away: the OW line that takes a store. -/
theorem Checked.storeLine (h : Checked s t) (c n : Nat) : (t.core c).storeLine n typ = (s.core c).storeLine n typ := by
  obtain ⟨f, hf, hl⟩ := h.kept c
  unfold Core.storeLine
  split
  · rw [hl, List.find?_filter]
    congr 1
    funext x
    rw [Bool.eq_iff_iff]
    by_cases hx : x.kind = .ow
    · simp [hx, hf x (by rw [hx]; decide)]
    · simp [hx]
  · rfl

/-- A store that its bank or home serves is posted. -/
theorem storeAt_posts (h : Checked s t) (hu : s.Unrolled) (ho : s.atOnce p va rel = false) (hn : s.NoCopy va) (hm : s.MaySend .stores) :
    storeAt len p va n v typ acq rel scope t = (t.post (storeReq p va v n typ acq rel scope)).advance len := by
  have hl : (if t.busyWord va.toNat = true ∨ (!isGlobal va.toNat) = true ∨ acq = true ∨ rel = true ∨ t.shortOpen = true then none
      else (t.core (coreOf t.cur)).storeLine va.toNat typ) = none := by
    split
    · rfl
    · exact h.noStoreLine hn
  unfold storeAt
  dsimp only
  rw [h.quiet.atOnce, ho]
  simp only [Bool.false_eq_true, if_false]
  rw [memIssue_ok _ _ _ (h.quiet.maySend hm), hl]
  exact postAccess_free len _ t (h.quiet.unrolled hu) rfl

/-- A store performed at issue writes its bytes (R11). -/
theorem storeAt_stores (h : Checked s t) (hu : s.Unrolled) (ho : s.atOnce p va rel = true) (hm : s.MaySend .none) (hc : s.Calm) (hn : 0 < n) :
    StoredAt s (storeAt len p va n v typ acq rel scope t) p.chipKey n v len := by
  unfold storeAt
  dsimp only
  rw [h.quiet.atOnce, ho]
  simp only [if_true]
  rw [memIssue_ok _ _ _ (h.quiet.maySend hm)]
  exact shortAccess_landing (P := fun x => StoredAt s x p.chipKey n v len) h hu (fun _ => hc.2.2.2.2.2) rfl (fun q u hL =>
    (hL.landing.stored hL.mem hL.empty (hL.landing.unwatched hc.unwatched) _ _ _ hn v _ _ _ _).acquired _ _)

/-- What a store into a line that its core holds leaves (R39). -/
structure StoredInLine (s t : State) (va v : Word) (n : Nat) (l : Line) (len : Nat) : Prop where
  pc : t.me.pc = s.me.nextPc len
  req : ∃ q, t.reqs = s.reqs ++ [q] ∧ q.id = s.nextId ∧ q.tid = s.cur ∧ q.state = .performed
  ack : (s.now + 24, Instr.storeAck s.nextId) ∈ t.pend
  count : t.me.stores = s.me.stores + 1
  line : ∃ y, y ∈ (t.core (coreOf s.cur)).lines ∧ y.line = l.line ∧ y.kind = .ow ∧ y.dirty = true ∧
    ∀ j, j < 128 → y.data.extractLsb' (8 * j) 8 =
      if va.toNat % 128 ≤ j ∧ j < va.toNat % 128 + n then v.extractLsb' (8 * (j - va.toNat % 128)) 8 else l.data.extractLsb' (8 * j) 8
  bytes : ∀ a, t.byte a = s.byte a
  empty : ∀ w, w ∈ t.empty → w ∈ s.empty
  others : ∀ u, u ≠ s.cur → t.thread u = s.thread u
  regs : ∀ r, t.me.stOf r = s.me.stOf r ∧ t.me.valOf r = s.me.valOf r

/-- The line that takes a store of a thread. -/
theorem Core.storeLine_some {c : Core} {va : Nat} {l : Line} (h : c.storeLine va typ = some l) : l ∈ c.lines ∧ l.kind = .ow := by
  unfold Core.storeLine at h
  split at h
  · have h2 := List.find?_some h
    simp only [Bool.and_eq_true, beq_iff_eq] at h2
    exact ⟨List.mem_of_find?_eq_some h, h2.2⟩
  · cases h

/-- A store into a line of a core at which nothing waits: the line takes the bytes, the words are FULL, and no more happens. -/
theorem State.storeHit_eq {l : Line} {b : List Byte} {tid a : Nat} (hs : s.syncq = []) (hi : s.syncIn = [])
    (hr : ∀ e ∈ s.threads, e.2.resv = none) (hl : l ∈ (s.core (coreOf tid)).lines) (hk : l.kind = .ow) :
    Landing s (s.storeHit tid a l b) ∧ (s.storeHit tid a l b).mem = s.mem ∧ (∀ w, w ∈ (s.storeHit tid a l b).empty → w ∈ s.empty) ∧
      l.store (a % 128) b tid s.now ∈ ((s.storeHit tid a l b).core (coreOf tid)).lines := by
  unfold State.storeHit
  extract_lets c key s1
  have h1 : Landing s s1 := .of_threads rfl
  rw [State.breakResv_none (h1.held.unheld hr), s1.noteWrite_eq]
  generalize (s1.noteWrite tid key false none false).lastWrite = w
  have h2 : Landing s { s1 with lastWrite := w } := h1.trans (.of_threads rfl)
  rw [State.lineStored_none (by rw [h2.state]; exact hs) (by rw [h2.state]; exact hi)]
  refine ⟨h2.trans (.of_threads rfl), rfl, fun x hx => List.mem_of_mem_filter hx, ?_⟩
  show _ ∈ (s1.core (coreOf tid)).lines
  rw [State.core_updCore, if_pos rfl]
  refine List.mem_map.2 ⟨l, hl, ?_⟩
  rw [if_pos]
  simp [hk]

/-- A store that ended at a line of its core: its acknowledgement comes 24 cycles on, and the thread goes on (R46). -/
def State.storeHitSent (s : State) (q : Req) (len : Nat) : State :=
  (({ s with nextId := s.nextId + 1, reqs := s.reqs ++ [q] }.upd (fun t => t.countUp .stores)).after 24 (.storeAck s.nextId)).advance len

theorem State.storeHitSent_me (s : State) (q : Req) (len : Nat) : (s.storeHitSent q len).me = (s.me.countUp .stores).advance len s.now := by
  rw [State.storeHitSent, State.advance, State.me_upd, State.me, State.after_thread, State.thread_upd, if_pos (by rfl)]
  rfl

theorem State.storeHitSent_others (s : State) (q : Req) (len : Nat) {u : Nat} (hu : u ≠ s.cur) : (s.storeHitSent q len).thread u = s.thread u := by
  rw [State.storeHitSent, State.advance, State.thread_upd, if_neg (by exact hu), State.after_thread, State.thread_upd, if_neg (by exact hu)]
  rfl

theorem State.storeHitSent_rest (s : State) (q : Req) (len : Nat) : (s.storeHitSent q len).empty = s.empty ∧ (s.storeHitSent q len).mem = s.mem ∧
    (s.storeHitSent q len).reqs = s.reqs ++ [q] ∧ (s.storeHitSent q len).cores = s.cores ∧
    (s.storeHitSent q len).pend = tins s.pend (s.now + 24) (.storeAck s.nextId) :=
  by simp [State.storeHitSent, State.advance, State.after]

theorem storeAt_hits {l : Line} (h : Checked s t) (hm : s.MaySend .stores) (hg : isGlobal va.toNat = true) (hb : s.busyWord va.toNat = false)
    (ho : s.shortOpen = false) (hl : (s.core (coreOf s.cur)).storeLine va.toNat typ = some l) (hq : s.syncq = []) (hi : s.syncIn = [])
    (hr : ∀ e ∈ s.threads, e.2.resv = none) (hn : va.toNat % 128 + n ≤ 128) (hp : p.short va = false) :
    StoredInLine s (storeAt len p va n v typ false false scope t) va v n l len := by
  have hcur := h.quiet.cur
  have hl' : (t.core (coreOf t.cur)).storeLine va.toNat typ = some l := by rw [h.storeLine, hcur, hl]
  obtain ⟨hmem, hkind⟩ := Core.storeLine_some hl'
  have hst := h.quiet.state
  obtain ⟨hL, hM, hE, hY⟩ := State.storeHit_eq (b := natToBytes n v.toNat) (a := va.toNat) (by rw [hst]; exact hq) (by rw [hst]; exact hi) (h.held.unheld hr) hmem hkind
  have hX := h.landing.trans hL
  have hlen := Laws.natToBytes_length n v.toNat
  have he : ∃ q : Req, q.id = (t.storeHit t.cur va.toNat l (natToBytes n v.toNat)).nextId ∧ q.tid = t.cur ∧ q.state = .performed ∧
      storeAt len p va n v typ false false scope t = (t.storeHit t.cur va.toNat l (natToBytes n v.toNat)).storeHitSent q len := by
    have ha : t.atOnce p va false = false := by rw [h.quiet.atOnce, State.atOnce, hp]; rfl
    have hcur' : (t.storeHit t.cur va.toNat l (natToBytes n v.toNat)).cur = t.cur := hL.cur
    unfold storeAt
    dsimp only
    rw [ha]
    simp only [Bool.false_eq_true, if_false]
    rw [memIssue_ok _ _ _ (h.quiet.maySend hm), if_neg (by rw [h.quiet.busyWord, h.quiet.shortOpen, hb, ho, hg]; simp), hl']
    exact ⟨_, rfl, rfl, rfl, rfl⟩
  obtain ⟨q, hq1, hq2, hq3, he⟩ := he
  rw [he]
  generalize (t.storeHit t.cur va.toNat l (natToBytes n v.toNat)) = X at *
  have hid : X.nextId = s.nextId := by rw [hX.state]
  have hnow : X.now = s.now := by rw [hX.state]
  obtain ⟨a, b, w, hme⟩ := hX.me
  have hZ := X.storeHitSent_me q len
  obtain ⟨hZe, hZm, hZr, hZc, hZp⟩ := X.storeHitSent_rest q len
  refine ⟨?_, ⟨q, ?_, hq1.trans hid, hq2.trans hcur, hq3⟩, ?_, ?_, ⟨l.store (va.toNat % 128) (natToBytes n v.toNat) t.cur t.now, ?_, rfl, hkind, rfl, ?_⟩, fun a => ?_, ?_, fun u hu => ?_, fun r => ?_⟩
  · rw [hZ, Thread.advance_pc, hme]; rfl
  · rw [hZr, hX.reqs]
  · rw [hZp, hid, hnow]
    exact mem_tins_self _ _ _
  · rw [hZ, Thread.advance_stores, hme]; rfl
  · rw [State.core, hZc, ← hcur]
    exact hY
  · intro j hj
    refine (patch_slice l.data (by rw [hlen]; exact hn) hj).trans ?_
    rw [hlen]
    split
    · next hr => exact natToBytes_slice v (by omega)
    · rfl
  · rw [State.byte, hZm, hM, hst]
    rfl
  · intro w hw
    rw [hZe] at hw
    have := hE w hw
    rw [hst] at this
    exact this
  · rw [X.storeHitSent_others _ _ (hX.cur ▸ hu), hX.others u hu]
  · rw [hZ, Thread.advance_stOf, Thread.advance_valOf, hme]
    exact ⟨rfl, rfl⟩

end

end Sys2Proof.Machine
end

section
/-!
O16, fifth part: the store instructions (R71, R111 to R113, R116, R117).
-/

namespace Sys2Proof.Machine

/-- The part of a store instruction behind its operands. -/
def storeBody (len n : Nat) (ea v : Thread → Word) (typ : BitVec 2) (acq rel : Bool) (scope : Nat) (s : State) : State :=
  checkAddr (ea s.me) n Rights.w len (fun p s => storeAt len p (ea s.me) n (v s.me) typ acq rel scope s) s

/-- A value of a thread that its notes about reads have no part in. -/
def Unnoted {α : Type} (f : Thread → α) : Prop := ∀ (t : Thread) a b, f { t with sibUnread := a, rfilled := b } = f t

theorem Unnoted.checked {α : Type} {f : Thread → α} (hf : Unnoted f) {s t : State} (h : Checked s t) : f t.me = f s.me := by
  obtain ⟨a, b, hm⟩ := h.quiet.me
  rw [hm]
  exact hf s.me a b

/-- A store of a width, its operands and address there: what it does is what `storeAt` does behind the checks. -/
theorem store_checked {P : State → Prop} {i : Instr} {len n : Nat} {srcs : List RegRef} {legal : Bool} {ea v : Thread → Word} {typ : BitVec 2} {acq rel : Bool} {scope : Nat}
    (he : ∀ s, exec i s = .next (issue { len := len, legal := legal, srcs := srcs } (storeBody len n ea v typ acq rel scope) s)) (hl : legal = true)
    (hea : Unnoted ea) (hv : Unnoted v) {s : State} {p : Place} (hr : s.Ready srcs []) (h : s.Reaches (ea s.me) n Rights.w p)
    (hk : ∀ t, Checked s t → P (storeAt len p (ea s.me) n (v s.me) typ acq rel scope t)) : ∃ t, exec i s = .next t ∧ P t := by
  refine ⟨_, he s, ?_⟩
  refine issue_checked (P := P) (x := { len := len, legal := legal, srcs := srcs })
    (k := fun _ p s => storeAt len p (ea s.me) n (v s.me) typ acq rel scope s) hl rfl hr hea h (fun _ t _ ht => ?_)
  rw [hea.checked ht, hv.checked ht]
  exact hk t ht

section
variable {i : Instr} {len n : Nat} {srcs : List RegRef} {legal : Bool} {ea v : Thread → Word} {typ : BitVec 2} {acq rel : Bool} {scope : Nat}
  (he : ∀ s, exec i s = .next (issue { len := len, legal := legal, srcs := srcs } (storeBody len n ea v typ acq rel scope) s)) (hl : legal = true)
  (hea : Unnoted ea) (hv : Unnoted v) (hn : n = 1 ∨ n = 2 ∨ n = 4 ∨ n = 8)
include he hl hea hv

theorem storePosts_of : StorePosts i len n srcs (fun s => ea s.me) (fun s => v s.me) typ acq rel scope := by
  intro s p hr h hu ⟨ho, hc⟩ hm
  refine store_checked he hl hea hv hr h (fun t ht => ?_)
  rw [storeAt_posts ht hu ho hc hm]
  exact ht.quiet.posted (storeReq p (ea s.me) (v s.me) n typ acq rel scope) len

include hn

theorem storeWrites_of : StoreWrites i len n srcs (fun s => ea s.me) (fun s => v s.me) rel := by
  intro s p hr h hu hm ho hc
  have hn0 : 0 < n := by omega
  refine store_checked he hl hea hv hr h (fun t ht => ?_)
  obtain ⟨hpc, hb, hf, hemp, hreqs, hregs, hmasks, hsp, hlv, hoth⟩ :=
    storeAt_stores (len := len) (v := v s.me) (typ := typ) (acq := acq) (scope := scope) ht hu ho hm hc hn0
  exact ⟨hpc, hb, hf, hemp, hreqs, hregs, hmasks, hsp, hlv, hoth⟩

end

theorem storeHits_of {i : Instr} {len n : Nat} {srcs : List RegRef} {legal : Bool} {ea v : Thread → Word} {typ : BitVec 2} {scope : Nat}
    (he : ∀ s, exec i s = .next (issue { len := len, legal := legal, srcs := srcs } (storeBody len n ea v typ false false scope) s)) (hl : legal = true)
    (hea : Unnoted ea) (hv : Unnoted v) (hn : n = 1 ∨ n = 2 ∨ n = 4 ∨ n = 8) : StoreHits i len n srcs (fun s => ea s.me) (fun s => v s.me) typ := by
  intro s p l hr h hm hg hb ho hline hq hi hres
  have hfit : (ea s.me).toNat % 128 + n ≤ 128 := by
    have ha : (ea s.me).toNat % n = 0 := h.2.1
    rcases hn with rfl | rfl | rfl | rfl <;> omega
  have hshort : p.short (ea s.me) = false := by
    unfold Place.short
    split
    · simp only [isGlobal, decide_eq_true_eq] at hg
      simp only [isShort1, windowOf, beq_eq_false_iff_ne]
      omega
    · rfl
  obtain ⟨t, het, hpc, ⟨q, hq1, hq2, hq3, hq4⟩, hack, hcount, ⟨y, hy, hy1, hy2, hy3, hy4⟩, hbytes, hemp, hoth, hregs⟩ :=
    store_checked (P := fun t => StoredInLine s t (ea s.me) (v s.me) n l len) he hl hea hv hr h (fun t ht =>
      storeAt_hits (len := len) (v := v s.me) (scope := scope) ht hm hg hb ho hline hq hi hres hfit hshort)
  exact ⟨t, q, y, het, hpc, hq1, hq2, hq3, hq4, hack, hcount, hy, hy1, hy2, hy3, hy4, hbytes, hemp, hoth, hregs⟩

/-! ## The forms -/

theorem isRel_eq (o : BitVec 2) : isRel o = decide (o = 2 ∨ o = 3) := by
  unfold isRel
  rw [Bool.eq_iff_iff]
  simp

/-- The orders of a store: no acquire but of both (R113). -/
theorem isAcq_store {o : BitVec 2} (h : o ≠ 1) : isAcq o = decide (o = 3) := by
  have h1 : (o == 1) = false := beq_eq_false_iff_ne.2 h
  unfold isAcq
  rw [h1, Bool.false_or]
  rfl

theorem ordStoreOk_of {o : BitVec 2} (h : o ≠ 1) : ordStoreOk o = true := by
  simpa [ordStoreOk] using h

/-- The stores of a width: with an offset, ordered, and indexed. -/
theorem stores_of_width {n : Nat} (hn : n = 1 ∨ n = 2 ∨ n = 4 ∨ n = 8) {st : BitVec 9 → BitVec 2 → BitVec 2 → BitVec 6 → BitVec 6 → Instr}
    {stx : BitVec 2 → BitVec 6 → BitVec 6 → BitVec 6 → Instr} (h : ∀ i o q a d s, exec (st i o q a d) s = .next (fmStore n i o q a d s))
    (hx : ∀ q b a d s, exec (stx q b a d) s = .next (ixStore n q b a d s)) (i : BitVec 9) (o q : BitVec 2) (b a d : BitVec 6) :
    let ea := fun s : State => s.me.gv a + i.signExtend 64 * BitVec.ofNat 64 n
    let ex := fun s : State => s.me.gv a + s.me.gv b * BitVec.ofNat 64 n
    (o ≠ 1 → StorePosts (st i o q a d) 4 n [gRef d.toNat, gRef a.toNat] ea (fun s => s.me.gv d) q (o = 3) (o = 2 ∨ o = 3) 4 ∧
      StoreWrites (st i o q a d) 4 n [gRef d.toNat, gRef a.toNat] ea (fun s => s.me.gv d) (o = 2 ∨ o = 3)) ∧
    (o = 0 → StoreHits (st i o q a d) 4 n [gRef d.toNat, gRef a.toNat] ea (fun s => s.me.gv d) q) ∧
    StoreHits (stx q b a d) 4 n [gRef d.toNat, gRef a.toNat, gRef b.toNat] ex (fun s => s.me.gv d) q ∧
    StorePosts (stx q b a d) 4 n [gRef d.toNat, gRef a.toNat, gRef b.toNat] ex (fun s => s.me.gv d) q false false 4 ∧
    StoreWrites (stx q b a d) 4 n [gRef d.toNat, gRef a.toNat, gRef b.toNat] ex (fun s => s.me.gv d) false := by
  intro ea ex
  have hea : Unnoted (fun t => fmAddr t i n a) := fun _ _ _ => rfl
  have hex : Unnoted (fun t => ixAddr t n b a) := fun _ _ _ => rfl
  have hv : Unnoted (fun t => t.gv d) := fun _ _ _ => rfl
  have hS : ∀ i o q a d s, exec (st i o q a d) s = .next (issue { len := 4, legal := ordStoreOk o, srcs := [gRef d.toNat, gRef a.toNat] }
    (storeBody 4 n (fun t => fmAddr t i n a) (fun t => t.gv d) q (isAcq o) (isRel o) 4) s) := h
  have hX : ∀ q b a d s, exec (stx q b a d) s = .next (issue { len := 4, srcs := [gRef d.toNat, gRef a.toNat, gRef b.toNat] }
    (storeBody 4 n (fun t => ixAddr t n b a) (fun t => t.gv d) q false false 4) s) := hx
  refine ⟨fun ho => ?_, fun ho => ?_, storeHits_of (hX q b a d) rfl hex hv hn, storePosts_of (hX q b a d) rfl hex hv, storeWrites_of (hX q b a d) rfl hex hv hn⟩
  · rw [← isAcq_store ho, ← isRel_eq]
    exact ⟨storePosts_of (hS i o q a d) (ordStoreOk_of ho) hea hv, storeWrites_of (hS i o q a d) (ordStoreOk_of ho) hea hv hn⟩
  · subst ho
    exact storeHits_of (hS i 0 q a d) (by decide) hea hv hn

/-- The scoped stores (R117). -/
theorem stores_scoped {n : Nat} (hn : n = 1 ∨ n = 2 ∨ n = 4 ∨ n = 8) {st : BitVec 2 → BitVec 3 → BitVec 2 → BitVec 6 → BitVec 6 → Instr}
    (h : ∀ q sc o a d s, exec (st q sc o a d) s = .next (scStore n q sc o a d s)) (q : BitVec 2) (sc : BitVec 3) (o : BitVec 2) (a d : BitVec 6)
    (hsc : sc.toNat ≤ 5) (ho : o = 2 ∨ o = 3) :
    StorePosts (st q sc o a d) 4 n [gRef d.toNat, gRef a.toNat] (fun s => s.me.gv a) (fun s => s.me.gv d) q (o = 3) true sc.toNat ∧
    StoreWrites (st q sc o a d) 4 n [gRef d.toNat, gRef a.toNat] (fun s => s.me.gv a) (fun s => s.me.gv d) true := by
  have hea : Unnoted (fun t => t.gv a) := fun _ _ _ => rfl
  have hv : Unnoted (fun t => t.gv d) := fun _ _ _ => rfl
  have hr : isRel o = true := by rw [isRel_eq]; exact decide_eq_true ho
  have hl : scopedStoreOk sc o = true := by
    rcases ho with rfl | rfl <;> simp [scopedStoreOk, scopeOk] <;> bv_omega
  rw [← isAcq_store (o := o) (by rcases ho with rfl | rfl <;> decide), ← hr]
  exact ⟨storePosts_of (h q sc o a d) hl hea hv, storeWrites_of (h q sc o a d) hl hea hv hn⟩

/-- The 16-bit stores (R71). -/
theorem stores_c16 {i : Instr} {srcs : List RegRef} {ea : Thread → Word} {d : BitVec 5} (he : ∀ s, exec i s = .next (c16Store srcs ea d s)) (hea : Unnoted ea) :
    StorePosts i 2 8 srcs (fun s => ea s.me) (fun s => s.me.gv d) 0 false false 4 ∧ StoreWrites i 2 8 srcs (fun s => ea s.me) (fun s => s.me.gv d) false ∧
      StoreHits i 2 8 srcs (fun s => ea s.me) (fun s => s.me.gv d) 0 := by
  have hv : Unnoted (fun t => t.gv d) := fun _ _ _ => rfl
  have hS : ∀ s, exec i s = .next (issue { len := 2, srcs := srcs } (storeBody 2 8 ea (fun t => t.gv d) 0 false false 4) s) := he
  exact ⟨storePosts_of hS rfl hea hv, storeWrites_of hS rfl hea hv (by omega), storeHits_of hS rfl hea hv (by omega)⟩

end Sys2Proof.Machine
end

section
open Sys2Proof Sys2Proof.Machine

/-- Settles O16: behind its checks a store is posted, lands in the own scratchpad (`storeAt_stores`), or goes into its line (`storeAt_hits`). -/
theorem storeResults : Obligations.StoreResults := by
  unfold Obligations.StoreResults
  refine ⟨fun e he i o q b a d => ?_, fun e he q sc o a d hsc ho => ?_, fun x d => ?_⟩
  · simp only [List.mem_cons, List.not_mem_nil, or_false] at he
    rcases he with rfl | rfl | rfl | rfl
    · exact stores_of_width (n := 1) (by omega) (fun _ _ _ _ _ _ => rfl) (fun _ _ _ _ _ => rfl) i o q b a d
    · exact stores_of_width (n := 2) (by omega) (fun _ _ _ _ _ _ => rfl) (fun _ _ _ _ _ => rfl) i o q b a d
    · exact stores_of_width (n := 4) (by omega) (fun _ _ _ _ _ _ => rfl) (fun _ _ _ _ _ => rfl) i o q b a d
    · exact stores_of_width (n := 8) (by omega) (fun _ _ _ _ _ _ => rfl) (fun _ _ _ _ _ => rfl) i o q b a d
  · simp only [List.mem_cons, List.not_mem_nil, or_false] at he
    rcases he with rfl | rfl
    · exact stores_scoped (n := 4) (by omega) (fun _ _ _ _ _ _ => rfl) q sc o a d hsc ho
    · exact stores_scoped (n := 8) (by omega) (fun _ _ _ _ _ _ => rfl) q sc o a d hsc ho
  · obtain ⟨h1, h2, h3⟩ := stores_c16 (i := .stdC16 x d) (d := d) (ea := fun t => t.gv x) (fun _ => rfl) (fun _ _ _ => rfl)
    obtain ⟨h4, h5, h6⟩ := stores_c16 (i := .stdG2C16 x d) (d := d) (ea := fun t => t.gv (2 : BitVec 6) + x.setWidth 64 * 8) (fun _ => rfl) (fun _ _ _ => rfl)
    exact ⟨h1, h2, h4, h5, h3, h6⟩

end

section
/-!
O22, first part: the four words of a barrier or bell (R44, R137, R138), and the traps of their addresses.
-/

namespace Sys2Proof.Machine

/-! ## Numbers in memory -/

/-- A number depends on its bytes alone (R4). -/
theorem getN_congr {s t : State} {k n : Nat} (h : ∀ i, i < n → t.byte (k + i) = s.byte (k + i)) : t.getN k n = s.getN k n := by
  rw [State.getN_eq, State.getN_eq]
  refine congrArg bytesToNat (List.map_congr_left (fun i hi => h i (List.mem_range.1 hi)))

/-- Bytes that are a number's read back as the number. -/
theorem getN_of_digits {t : State} {k n v : Nat} (h : ∀ i, i < n → t.byte (k + i) = (natToBytes n v).getD i 0) (hv : v < 256 ^ n) : t.getN k n = v := by
  have hp : t.peek k n = natToBytes n v := by
    refine List.ext_getElem (by simp [State.peek, Laws.natToBytes_length]) (fun i hi h2 => ?_)
    have hb := h i (by simpa [State.peek] using hi)
    rw [List.getD_eq_getElem?_getD, List.getElem?_eq_getElem h2] at hb
    simpa [State.peek] using hb
  rw [State.getN_eq, hp, bytesToNat_natToBytes]
  exact Nat.mod_eq_of_lt hv

theorem State.getN_lt (s : State) (k n : Nat) : s.getN k n < 256 ^ n := by
  rw [State.getN_eq]
  have := bytesToNat_lt (s.peek k n)
  simpa [State.peek] using this

/-- A number of a memory that other bytes were written to. -/
theorem getN_pokes_out {s t : State} {ws : List (Nat × List Byte)} (hm : t.mem = pokes s.mem ws) {k n : Nat}
    (h : ∀ e ∈ ws, k + n ≤ e.1 ∨ e.1 + e.2.length ≤ k) : t.getN k n = s.getN k n :=
  getN_congr (fun i hi => by
    unfold State.byte
    rw [hm]
    exact tget_pokes_out ws s.mem (fun e he => by have := h e he; omega))

/-- A number of a memory that it was written to, apart from all else. -/
theorem getN_pokes_in {s t : State} {ws : List (Nat × List Byte)} (hm : t.mem = pokes s.mem ws) (hp : ws.Pairwise Apart) {k n v : Nat}
    (h : (k, natToBytes n v) ∈ ws) (hv : v < 256 ^ n) : t.getN k n = v :=
  getN_of_digits (fun i hi => by
    have hlen := Laws.natToBytes_length n v
    unfold State.byte
    rw [hm, tget_pokes_in (e := (k, natToBytes n v)) (Nat.le_add_right _ _) (by simp only [hlen]; omega) ws s.mem hp h, Nat.add_sub_cancel_left]) hv

/-! ## An arrival and a credit where nothing waits -/

section
variable {s : State} (h : s.Unwatched) (key : Nat)
include h

theorem State.Unwatched.landed_landing (len : Nat) : Landing s (s.landed key len) ∧ (s.landed key len).mem = s.mem := by
  rw [h.landed_eq]
  exact ⟨.of_threads rfl, rfl⟩

/-- An arrival writes the count, or, once every participant has come, a count of 0 and the next generation (R137). -/
theorem State.Unwatched.arrive_lands : Landing s (s.arrive key) ∧
    (s.getN key 4 = 0 → (s.arrive key).mem = s.mem) ∧
    (s.getN key 4 ≠ 0 → s.getN (key + 4) 4 + 1 < s.getN key 4 → (s.arrive key).mem = pokes s.mem [(key + 4, natToBytes 4 (s.getN (key + 4) 4 + 1))]) ∧
    (s.getN key 4 ≠ 0 → s.getN key 4 ≤ s.getN (key + 4) 4 + 1 →
      (s.arrive key).mem = pokes s.mem [(key + 4, natToBytes 4 0), (key + 8, natToBytes 4 ((s.getN (key + 8) 4 + 1) % 2 ^ 32))]) := by
  unfold State.arrive
  dsimp only
  by_cases h0 : s.getN key 4 = 0
  · rw [if_pos h0]
    exact ⟨.of_threads rfl, fun _ => rfl, fun h1 => absurd h0 h1, fun h1 => absurd h0 h1⟩
  · rw [if_neg h0]
    by_cases h1 : s.getN (key + 4) 4 + 1 ≥ s.getN key 4
    · rw [if_pos h1]
      have hP := Landing.poke s (key + 4) (natToBytes 4 0 ++ natToBytes 4 ((s.getN (key + 8) 4 + 1) % 2 ^ 32))
      obtain ⟨hL, hM⟩ := (hP.unwatched h).landed_landing key 16
      refine ⟨hP.trans hL, fun h2 => absurd h2 h0, fun _ h2 => absurd h2 (by omega), fun _ _ => ?_⟩
      rw [hM, State.poke_eq]
      rfl
    · rw [if_neg h1]
      obtain ⟨hL, hM, -⟩ := h.bankWrite_lands (key + 4) (natToBytes 4 (s.getN (key + 4) 4 + 1))
      exact ⟨hL, fun h2 => absurd h2 h0, fun _ _ => hM, fun _ h2 => absurd h2 (by omega)⟩

/-- A credit below the target writes the count; one that reaches it a count of 0 and the next generation; with the status, 3 or more past
the target (R45, R138). -/
theorem State.Unwatched.credit_lands (amount code : Nat) : Landing s (s.credit key amount code) ∧
    (s.getN key 4 = 0 → (s.credit key amount code).mem = s.mem) ∧
    (s.getN key 4 ≠ 0 → s.getN (key + 4) 4 + amount < s.getN key 4 → (s.credit key amount code).mem =
      pokes s.mem [(key + 4, natToBytes 4 (s.getN (key + 4) 4 + amount)), (key + 12, natToBytes 4 (max (s.getN (key + 12) 4) code))]) ∧
    (s.getN key 4 ≠ 0 → s.getN key 4 ≤ s.getN (key + 4) 4 + amount → (s.credit key amount code).mem =
      pokes s.mem [(key + 4, natToBytes 4 0), (key + 8, natToBytes 4 ((s.getN (key + 8) 4 + 1) % 2 ^ 32)),
        (key + 12, natToBytes 4 (if s.getN key 4 < s.getN (key + 4) 4 + amount then max (max (s.getN (key + 12) 4) code) 3 else max (s.getN (key + 12) 4) code))]) := by
  unfold State.credit
  dsimp only
  by_cases h0 : s.getN key 4 = 0
  · rw [if_pos h0]
    exact ⟨.of_threads rfl, fun _ => rfl, fun h1 => absurd h0 h1, fun h1 => absurd h0 h1⟩
  · rw [if_neg h0]
    by_cases h1 : s.getN (key + 4) 4 + amount < s.getN key 4
    · rw [if_pos h1]
      have hP := (Landing.poke s (key + 4) (natToBytes 4 (s.getN (key + 4) 4 + amount))).trans (Landing.poke _ (key + 12) (natToBytes 4 (max (s.getN (key + 12) 4) code)))
      obtain ⟨hL, hM⟩ := (hP.unwatched h).landed_landing key 16
      refine ⟨hP.trans hL, fun h2 => absurd h2 h0, fun _ _ => ?_, fun _ h2 => absurd h2 (by omega)⟩
      rw [hM, State.poke_eq, State.poke_eq]
      rfl
    · rw [if_neg h1]
      have hP := ((Landing.poke s (key + 4) (natToBytes 4 0)).trans (Landing.poke _ (key + 8) (natToBytes 4 ((s.getN (key + 8) 4 + 1) % 2 ^ 32)))).trans
        (Landing.poke _ (key + 12) (natToBytes 4 (if s.getN key 4 < s.getN (key + 4) 4 + amount then max (max (s.getN (key + 12) 4) code) 3 else max (s.getN (key + 12) 4) code)))
      obtain ⟨hL, hM⟩ := (hP.unwatched h).landed_landing key 16
      refine ⟨hP.trans hL, fun h2 => absurd h2 h0, fun _ h2 => absurd h2 (by omega), fun _ _ => ?_⟩
      rw [hM, State.poke_eq, State.poke_eq, State.poke_eq]
      rfl

end

/-! ## What the four words hold afterwards -/

/-- An object of which at most its last three words changed. -/
structure ObjectWritten (s t : State) (key : Nat) : Prop where
  limit : t.getN key 4 = s.getN key 4
  bytes : ∀ x, x < key ∨ key + 16 ≤ x → t.byte x = s.byte x

/-- Writes to the last three words of an object leave the first one and all else. -/
theorem ObjectWritten.of_pokes {s t : State} {key : Nat} {ws : List (Nat × List Byte)} (hm : t.mem = pokes s.mem ws)
    (h : ∀ e ∈ ws, key + 4 ≤ e.1 ∧ e.1 + e.2.length ≤ key + 16) : ObjectWritten s t key := by
  refine ⟨getN_pokes_out hm (fun e he => .inl (h e he).1), fun x hx => ?_⟩
  unfold State.byte
  rw [hm]
  exact tget_pokes_out ws s.mem (fun e he => by have := h e he; omega)

theorem ObjectWritten.of_mem {s t : State} {key : Nat} (hm : t.mem = s.mem) : ObjectWritten s t key := .of_pokes (ws := []) hm (fun _ h => absurd h List.not_mem_nil)

/-- What an arrival leaves of its barrier. -/
theorem arrived_words {s t : State} {key : Nat} (h0 : s.getN key 4 = 0 → t.mem = s.mem)
    (h1 : s.getN key 4 ≠ 0 → s.getN (key + 4) 4 + 1 < s.getN key 4 → t.mem = pokes s.mem [(key + 4, natToBytes 4 (s.getN (key + 4) 4 + 1))])
    (h2 : s.getN key 4 ≠ 0 → s.getN key 4 ≤ s.getN (key + 4) 4 + 1 →
      t.mem = pokes s.mem [(key + 4, natToBytes 4 0), (key + 8, natToBytes 4 ((s.getN (key + 8) 4 + 1) % 2 ^ 32))]) :
    t.getN key 4 = s.getN key 4 ∧ (∀ x, x < key ∨ key + 16 ≤ x → t.byte x = s.byte x) ∧ (s.getN key 4 = 0 → ∀ x, t.byte x = s.byte x) ∧
      (s.getN key 4 ≠ 0 → s.getN (key + 4) 4 + 1 < s.getN key 4 → t.getN (key + 4) 4 = s.getN (key + 4) 4 + 1 ∧ t.getN (key + 8) 4 = s.getN (key + 8) 4) ∧
      (s.getN key 4 ≠ 0 → s.getN key 4 ≤ s.getN (key + 4) 4 + 1 → t.getN (key + 4) 4 = 0 ∧ t.getN (key + 8) 4 = (s.getN (key + 8) 4 + 1) % 2 ^ 32) := by
  have hlt := s.getN_lt key 4
  have hw : ObjectWritten s t key := by
    by_cases hz : s.getN key 4 = 0
    · exact .of_mem (h0 hz)
    · by_cases hc : s.getN (key + 4) 4 + 1 < s.getN key 4
      · exact .of_pokes (h1 hz hc) (by simp [Laws.natToBytes_length])
      · exact .of_pokes (h2 hz (by omega)) (by simp [Laws.natToBytes_length])
  refine ⟨hw.limit, hw.bytes, fun hz x => congrArg (fun m => tget 0 m x) (h0 hz), fun hz hc => ?_, fun hz hc => ?_⟩
  · exact ⟨getN_pokes_in (h1 hz hc) (by simp) (by simp) (by omega), getN_pokes_out (h1 hz hc) (by simp [Laws.natToBytes_length])⟩
  · have hap : [(key + 4, natToBytes 4 0), (key + 8, natToBytes 4 ((s.getN (key + 8) 4 + 1) % 2 ^ 32))].Pairwise Apart := by
      simp [Apart, Laws.natToBytes_length]
    exact ⟨getN_pokes_in (h2 hz hc) hap (by simp) (by omega), getN_pokes_in (h2 hz hc) hap (by simp) (Nat.mod_lt _ (by decide))⟩

/-- What a credit leaves of its bell. -/
theorem credited_words {s t : State} {key amount : Nat} (h0 : s.getN key 4 = 0 → t.mem = s.mem)
    (h1 : s.getN key 4 ≠ 0 → s.getN (key + 4) 4 + amount < s.getN key 4 →
      t.mem = pokes s.mem [(key + 4, natToBytes 4 (s.getN (key + 4) 4 + amount)), (key + 12, natToBytes 4 (max (s.getN (key + 12) 4) 0))])
    (h2 : s.getN key 4 ≠ 0 → s.getN key 4 ≤ s.getN (key + 4) 4 + amount →
      t.mem = pokes s.mem [(key + 4, natToBytes 4 0), (key + 8, natToBytes 4 ((s.getN (key + 8) 4 + 1) % 2 ^ 32)),
        (key + 12, natToBytes 4 (if s.getN key 4 < s.getN (key + 4) 4 + amount then max (max (s.getN (key + 12) 4) 0) 3 else max (s.getN (key + 12) 4) 0))]) :
    t.getN key 4 = s.getN key 4 ∧ (∀ x, x < key ∨ key + 16 ≤ x → t.byte x = s.byte x) ∧ (s.getN key 4 = 0 → ∀ x, t.byte x = s.byte x) ∧
      (s.getN key 4 ≠ 0 → s.getN (key + 4) 4 + amount < s.getN key 4 → t.getN (key + 4) 4 = s.getN (key + 4) 4 + amount ∧ t.getN (key + 8) 4 = s.getN (key + 8) 4) ∧
      (s.getN key 4 ≠ 0 → s.getN key 4 ≤ s.getN (key + 4) 4 + amount → t.getN (key + 4) 4 = 0 ∧ t.getN (key + 8) 4 = (s.getN (key + 8) 4 + 1) % 2 ^ 32) ∧
      (s.getN key 4 ≠ 0 → s.getN key 4 < s.getN (key + 4) 4 + amount → 3 ≤ t.getN (key + 12) 4) := by
  have hlt := s.getN_lt key 4
  have hst := s.getN_lt (key + 12) 4
  have hap : ∀ a b c : Nat, [(key + 4, natToBytes 4 a), (key + 8, natToBytes 4 b), (key + 12, natToBytes 4 c)].Pairwise Apart := fun a b c => by
    simp [Apart, Laws.natToBytes_length]
  have hw : ObjectWritten s t key := by
    by_cases hz : s.getN key 4 = 0
    · exact .of_mem (h0 hz)
    · by_cases hc : s.getN (key + 4) 4 + amount < s.getN key 4
      · exact .of_pokes (h1 hz hc) (by simp [Laws.natToBytes_length])
      · exact .of_pokes (h2 hz (by omega)) (by simp [Laws.natToBytes_length])
  refine ⟨hw.limit, hw.bytes, fun hz x => congrArg (fun m => tget 0 m x) (h0 hz), fun hz hc => ?_, fun hz hc => ?_, fun hz hc => ?_⟩
  · exact ⟨getN_pokes_in (h1 hz hc) (by simp [Apart, Laws.natToBytes_length]) (by simp) (by omega), getN_pokes_out (h1 hz hc) (by simp [Laws.natToBytes_length])⟩
  · exact ⟨getN_pokes_in (h2 hz hc) (hap _ _ _) (by simp) (by omega), getN_pokes_in (h2 hz hc) (hap _ _ _) (by simp) (Nat.mod_lt _ (by decide))⟩
  · have hm := h2 hz (by omega)
    rw [if_pos hc] at hm
    rw [getN_pokes_in (n := 4) (v := max (max (s.getN (key + 12) 4) 0) 3) hm (hap _ _ _) (by simp) (by omega)]
    omega

end Sys2Proof.Machine
end

section
/-!
O22, second part: BARA and BELLADD sent or performed at issue, and the traps of barrier and bell addresses (R44, R136 to R138).
-/

namespace Sys2Proof.Machine

/-! ## Traps behind the checks of the operands -/

section
variable {s t u : State}

theorem Quiet.hasHandler (q : Quiet s t) (h : s.HasHandler) : t.HasHandler := by
  obtain ⟨a, b, hm⟩ := q.me
  have hc : t.ctxs = s.ctxs := by rw [q.state]
  unfold State.HasHandler State.ctx at *
  rw [hm, hc]
  exact h

/-- A trap behind bookkeeping is the trap of the instruction. -/
theorem Quiet.trapped (q : Quiet s t) {cause : Nat} {info : Word} {len : Nat} (h : Trapped t u cause info len) : Trapped s u cause info len := by
  obtain ⟨a, b, hm⟩ := q.me
  have hc : t.ctxs = s.ctxs := by rw [q.state]
  have hmem : t.mem = s.mem := by rw [q.state]
  obtain ⟨h1, h2, h3, h4, h5, h6, h7, h8, h9, h10, h11, h12, h13⟩ := h
  unfold State.ctx at h5
  rw [hm, hc] at h5
  rw [hm] at h1 h8
  refine ⟨h1, h2, h3, h4, h5, h6, h7, h8, h9, fun r => ?_, fun i => ?_, fun x => ?_, fun x hx => ?_⟩
  · rw [(h10 r).1, (h10 r).2, q.stOf, q.valOf]
    exact ⟨rfl, rfl⟩
  · rw [h11, hm]; rfl
  · rw [h12, State.byte, hmem]; rfl
  · rw [h13 x (q.cur ▸ hx), q.others x hx]

/-- Operands that are there are there for an instruction that has fewer. -/
theorem State.Ready.mono {srcs dsts srcs' dsts' : List RegRef} (h : s.Ready srcs dsts) (h1 : ∀ r ∈ srcs', r ∈ srcs) (h2 : ∀ r ∈ dsts', r ∈ dsts) :
    s.Ready srcs' dsts' := ⟨fun r hr => h.1 r (h1 r hr), fun r hr => h.2 r (h2 r hr)⟩

/-- A barrier or bell at a global address raises PROT, one that is not a multiple of 16 ALIGN (R44, R136). -/
theorem object_traps {x : Issue} {a : BitVec 6} {k : State → Place → State → State} (hx : x.legal = true) (hm : x.min = .U)
    (hh : s.HasHandler) (hr : s.Ready x.srcs x.dsts) :
    (isGlobal (s.me.gv a).toNat = true → Trapped s (issue x (fun s => checkObject (s.me.gv a) (k s) s) s) cPROT (s.me.gv a) 4) ∧
    (isGlobal (s.me.gv a).toNat = false → (∃ p, s.resolve s.cur (s.me.gv a).toNat = some p) → (s.me.gv a).toNat % 16 ≠ 0 →
      Trapped s (issue x (fun s => checkObject (s.me.gv a) (k s) s) s) cALIGN (s.me.gv a) 4) := by
  rw [issue_ready x _ s hx (by rw [hm]; simp) hr]
  have q := (Checked.noteReads s x.srcs).quiet
  obtain ⟨b, c, hmn⟩ := q.me
  rw [show (s.noteReads x.srcs).me.gv a = s.me.gv a by rw [hmn]; rfl]
  refine ⟨fun hg => ?_, fun hg ⟨p, hp⟩ ha => ?_⟩
  · unfold checkObject
    rw [hg, if_pos rfl]
    exact q.trapped (trapped_trap _ (q.hasHandler hh) _ _ _)
  · unfold checkObject checkAddr
    rw [hg, if_neg (by simp), q.resolve, hp]
    dsimp only
    rw [if_pos ha]
    exact q.trapped (trapped_trap _ (q.hasHandler hh) _ _ _)

/-- Operands and the address of an object that are there pass the checks of an instruction. -/
theorem object_checked {P : State → Prop} {x : Issue} {p : Place} {a : BitVec 6} {k : State → Place → State → State} (hx : x.legal = true) (hm : x.min = .U)
    (hlen : x.len = 4) (hr : s.Ready x.srcs x.dsts) (hg : isGlobal (s.me.gv a).toNat = false) (h : s.Reaches (s.me.gv a) 16 (fun _ => true) p)
    (hk : ∀ u t, Checked s u → Checked s t → P (k u p t)) : P (issue x (fun u => checkObject (u.me.gv a) (k u) u) s) := by
  have h1 : issue x (fun u => checkObject (u.me.gv a) (k u) u) s = issue x (fun u => checkAddr (u.me.gv a) 16 (fun _ => true) x.len (k u) u) s := by
    rw [issue_ready x _ s hx (by rw [hm]; simp) hr, issue_ready x _ s hx (by rw [hm]; simp) hr, hlen]
    obtain ⟨b, c, hmn⟩ := (Checked.noteReads s x.srcs).quiet.me
    unfold checkObject
    rw [show (s.noteReads x.srcs).me.gv a = s.me.gv a by rw [hmn]; rfl, hg, if_neg (by simp)]
  rw [h1]
  exact issue_checked (ea := fun t => t.gv a) hx hm hr (fun _ _ _ => rfl) h hk

end

/-! ## The thread behind an access performed at issue -/

theorem gRef_zero_iff (d : BitVec 6) : gRef d.toNat = gRef 0 ↔ d = 0 := by
  rw [gRef, gRef, RegRef.mk.injEq]
  exact ⟨fun h => BitVec.eq_of_toNat_eq h.2, fun h => by simp [h]⟩

theorem Thread.gv_setG (t : Thread) (d : BitVec 6) (v : Word) : (t.setG d v).gv d = if d = 0 then 0 else v := by
  apply BitVec.eq_of_toNat_eq
  rw [Thread.gv_eq, Thread.setG_eq, Thread.valOf_put, if_pos rfl]
  by_cases h0 : d = 0
  · rw [if_pos ((gRef_zero_iff d).2 h0), if_pos h0]; rfl
  · rw [if_neg (mt (gRef_zero_iff d).1 h0), if_neg h0]
    exact Nat.mod_eq_of_lt v.isLt

theorem Thread.nextPc_setG (t : Thread) (d : BitVec 6) (v : Word) (len : Nat) : (t.setG d v).nextPc len = t.nextPc len := by
  unfold Thread.setG
  split <;> rfl

/-- An access at issue that fills a general register, and the thread goes on. -/
theorem Landing.done_setG {s t : State} (h : Landing s t) (d : BitVec 6) (v : Word) :
    (t.done 4 (fun x => x.setG d v)).me.gv d = (if d = 0 then 0 else v) ∧ (t.done 4 (fun x => x.setG d v)).me.pc = s.me.nextPc 4 ∧
      (t.done 4 (fun x => x.setG d v)).mem = t.mem := by
  have hme : (t.done 4 (fun x => x.setG d v)).me = (t.me.setG d v).advance 4 t.now := by simp [State.done, State.advance]
  refine ⟨?_, ?_, by simp [State.done, State.advance]⟩
  · rw [hme, ← Thread.gv_setG t.me d v]
    apply BitVec.eq_of_toNat_eq
    rw [Thread.gv_eq, Thread.gv_eq, Thread.advance_valOf]
  · rw [hme, Thread.advance_pc, Thread.nextPc_setG]
    exact h.thread.2.2.2.2 4

/-- One that fills none. -/
theorem Landing.advance {s t : State} (h : Landing s t) (len : Nat) : (t.advance len).me.pc = s.me.nextPc len ∧ (t.advance len).mem = t.mem := by
  have hme : (t.advance len).me = t.me.advance len t.now := State.me_upd _ _
  exact ⟨by rw [hme, Thread.advance_pc]; exact h.thread.2.2.2.2 len, by simp [State.advance]⟩

theorem State.acquired_me (s : State) (r : Req) (t : Nat) : (s.acquired r t).me = s.me ∧ (s.acquired r t).mem = s.mem := by
  rw [s.acquired_eq]
  exact ⟨rfl, rfl⟩

/-! ## BARA and BELLADD -/

/-- The request of an arrival. -/
def baraReq (p : Place) (va : Word) (d : BitVec 6) (scope : Nat) : Req :=
  { id := 0, tid := 0, epoch := 0, op := .bara, va := va, place := p, dst := some (gRef d.toNat), cls := .loads, rel := true, scope := scope, short := p.short va }

/-- The request of a credit. -/
def bellAddReq (p : Place) (va : Word) (n : BitVec 32) (scope : Nat) : Req :=
  { id := 0, tid := 0, epoch := 0, op := .bellAdd n, va := va, place := p, cls := .stores, rel := true, scope := scope, short := p.short va }

section
variable {s : State} {p : Place} (sc : BitVec 3) (b a d : BitVec 6) (hsc : sc.toNat ≤ 5) (h : s.Reaches (s.me.gv a) 16 (fun _ => true) p)
  (hg : isGlobal (s.me.gv a).toNat = false) (hu : s.Unrolled)
include hsc h hg hu

theorem bara_posts (hr : s.Ready [gRef a.toNat] [gRef d.toNat]) (ho : s.atOnce p (s.me.gv a) true = false) (hm : s.MaySend .loads) :
    ∃ t, exec (.bara sc a d) s = .next t ∧ t.me.pc = s.me.nextPc 4 ∧ Posted s t (baraReq p (s.me.gv a) d sc.toNat) [gRef d.toNat] := by
  refine ⟨_, rfl, object_checked (P := fun t => t.me.pc = s.me.nextPc 4 ∧ Posted s t (baraReq p (s.me.gv a) d sc.toNat) [gRef d.toNat])
    (by simpa [scopeOk] using hsc) rfl rfl hr hg h (fun u t hcu hct => ?_)⟩
  rw [show u.me.gv a = s.me.gv a from Unnoted.checked (f := fun t => t.gv a) (fun _ _ _ => rfl) hcu, hct.quiet.atOnce, ho]
  simp only [Bool.false_eq_true, if_false]
  rw [memIssue_ok _ _ _ (hct.quiet.maySend hm), postAccess_free _ _ _ (hct.quiet.unrolled hu) rfl]
  exact hct.quiet.posted (baraReq p (s.me.gv a) d sc.toNat) 4

theorem belladd_posts (hr : s.Ready [gRef a.toNat, gRef b.toNat] []) (ho : s.atOnce p (s.me.gv a) true = false) (hm : s.MaySend .stores) :
    ∃ t, exec (.belladd sc b a) s = .next t ∧ t.me.pc = s.me.nextPc 4 ∧ Posted s t (bellAddReq p (s.me.gv a) ((s.me.gv b).setWidth 32) sc.toNat) [] := by
  refine ⟨_, rfl, object_checked (P := fun t => t.me.pc = s.me.nextPc 4 ∧ Posted s t (bellAddReq p (s.me.gv a) ((s.me.gv b).setWidth 32) sc.toNat) [])
    (by simpa [scopeOk] using hsc) rfl rfl hr hg h (fun u t hcu hct => ?_)⟩
  rw [show u.me.gv a = s.me.gv a from Unnoted.checked (f := fun t => t.gv a) (fun _ _ _ => rfl) hcu,
    show u.me.gv b = s.me.gv b from Unnoted.checked (f := fun t => t.gv b) (fun _ _ _ => rfl) hcu, hct.quiet.atOnce, ho]
  simp only [Bool.false_eq_true, if_false]
  rw [memIssue_ok _ _ _ (hct.quiet.maySend hm), postAccess_free _ _ _ (hct.quiet.unrolled hu) rfl]
  exact hct.quiet.posted (bellAddReq p (s.me.gv a) ((s.me.gv b).setWidth 32) sc.toNat) 4

variable (hr : s.Ready [gRef a.toNat, gRef b.toNat] [gRef d.toNat]) (ho : s.atOnce p (s.me.gv a) true = true) (hm : s.MaySend .none) (hc : s.Calm)
include hr ho hm hc

theorem bara_arrives : ∃ t, exec (.bara sc a d) s = .next t ∧ t.me.gv d = (if d = 0 then 0 else BitVec.ofNat 64 (s.getN (p.chipKey + 8) 4)) ∧
    t.me.pc = s.me.nextPc 4 ∧ ∃ u : State, u.Unwatched ∧ u.mem = s.mem ∧ t.mem = (u.arrive p.chipKey).mem := by
  refine ⟨_, rfl, object_checked (P := fun t => t.me.gv d = (if d = 0 then 0 else BitVec.ofNat 64 (s.getN (p.chipKey + 8) 4)) ∧
    t.me.pc = s.me.nextPc 4 ∧ ∃ u : State, u.Unwatched ∧ u.mem = s.mem ∧ t.mem = (u.arrive p.chipKey).mem)
    (by simpa [scopeOk] using hsc) rfl rfl (hr.mono (by simp) (by simp)) hg h (fun v t hcv hct => ?_)⟩
  rw [show v.me.gv a = s.me.gv a from Unnoted.checked (f := fun t => t.gv a) (fun _ _ _ => rfl) hcv, hct.quiet.atOnce, ho]
  simp only [if_true]
  rw [memIssue_ok _ _ _ (hct.quiet.maySend hm)]
  refine shortAccess_landing (P := fun t => t.me.gv d = (if d = 0 then 0 else BitVec.ofNat 64 (s.getN (p.chipKey + 8) 4)) ∧
    t.me.pc = s.me.nextPc 4 ∧ ∃ u : State, u.Unwatched ∧ u.mem = s.mem ∧ t.mem = (u.arrive p.chipKey).mem) hct hu (fun _ => hc.2.2.2.2.2) rfl (fun q u hL => ?_)
  have hms := hL.mem
  rw [(State.acquired_me _ _ _).1, (State.acquired_me _ _ _).2]
  have h1 := hL.landing.trans (Landing.noteWrite u u.cur (p.chipKey + 8) true q.ord true)
  have hun := h1.unwatched hc.unwatched
  obtain ⟨hgv, hpc, hmd⟩ := (h1.trans (hun.arrive_lands p.chipKey).1).done_setG d (BitVec.ofNat 64 (u.getN (p.chipKey + 8) 4))
  refine ⟨hgv.trans ?_, hpc, _, hun, ?_, hmd⟩
  · rw [getN_congr (s := s) (t := u) (fun i _ => congrArg (fun m => tget 0 m _) hms)]
  · rw [u.noteWrite_eq]
    exact hms

omit hr in
theorem belladd_credits (hr : s.Ready [gRef a.toNat, gRef b.toNat] []) : ∃ t, exec (.belladd sc b a) s = .next t ∧ t.me.pc = s.me.nextPc 4 ∧
    ∃ u : State, u.Unwatched ∧ u.mem = s.mem ∧ t.mem = (u.credit p.chipKey ((s.me.gv b).toNat % 2 ^ 32) 0).mem := by
  refine ⟨_, rfl, object_checked (P := fun t => t.me.pc = s.me.nextPc 4 ∧
    ∃ u : State, u.Unwatched ∧ u.mem = s.mem ∧ t.mem = (u.credit p.chipKey ((s.me.gv b).toNat % 2 ^ 32) 0).mem)
    (by simpa [scopeOk] using hsc) rfl rfl hr hg h (fun v t hcv hct => ?_)⟩
  rw [show v.me.gv a = s.me.gv a from Unnoted.checked (f := fun t => t.gv a) (fun _ _ _ => rfl) hcv,
    show v.me.gv b = s.me.gv b from Unnoted.checked (f := fun t => t.gv b) (fun _ _ _ => rfl) hcv, hct.quiet.atOnce, ho]
  simp only [if_true]
  rw [memIssue_ok _ _ _ (hct.quiet.maySend hm)]
  refine shortAccess_landing (P := fun t => t.me.pc = s.me.nextPc 4 ∧
    ∃ u : State, u.Unwatched ∧ u.mem = s.mem ∧ t.mem = (u.credit p.chipKey ((s.me.gv b).toNat % 2 ^ 32) 0).mem) hct hu (fun _ => hc.2.2.2.2.2) rfl (fun q u hL => ?_)
  have hms := hL.mem
  rw [(State.acquired_me _ _ _).1, (State.acquired_me _ _ _).2]
  have h1 := hL.landing.trans (Landing.noteWrite u u.cur p.chipKey true q.ord true)
  have hun := h1.unwatched hc.unwatched
  rw [BitVec.toNat_setWidth]
  obtain ⟨hpc, hmd⟩ := (h1.trans (hun.credit_lands p.chipKey ((s.me.gv b).toNat % 2 ^ 32) 0).1).advance 4
  refine ⟨hpc, _, hun, ?_, hmd⟩
  rw [u.noteWrite_eq]
  exact hms

end

end Sys2Proof.Machine
end

section
open Sys2Proof Sys2Proof.Machine

/-- Settles O22: behind its checks an arrival or credit is posted, or lands at its object (`arrive_lands`, `credit_lands`); the traps are those of the address. -/
theorem barrierSteps : Obligations.BarrierSteps := by
  unfold Obligations.BarrierSteps
  refine ⟨fun sc b a d hsc => ⟨fun s p hr h hu ⟨hg, ho⟩ hm => bara_posts sc a d hsc h hg hu hr ho hm,
    fun s p hr h hu ⟨hg, ho⟩ hm => belladd_posts sc b a hsc h hg hu hr ho hm, fun s hh hr i hi => ?_⟩, fun sc b a d s p hsc hr h hg hu hm hc ho => ⟨?_, ?_⟩⟩
  · have hl : scopeOk sc = true := by simpa [scopeOk] using hsc
    simp only [List.mem_cons, List.not_mem_nil, or_false] at hi
    rcases hi with rfl | rfl | rfl | rfl
    · obtain ⟨h1, h2⟩ := object_traps (x := { len := 4, legal := scopeOk sc, srcs := [gRef a.toNat], dsts := [gRef d.toNat] }) (a := a) hl rfl hh
        (hr.mono (by simp) (by simp))
      exact ⟨fun hg => ⟨_, rfl, h1 hg⟩, fun hg hp ha => ⟨_, rfl, h2 hg hp ha⟩⟩
    · obtain ⟨h1, h2⟩ := object_traps (x := { len := 4, legal := scopeOk sc, srcs := [gRef a.toNat, gRef b.toNat] }) (a := a) hl rfl hh
        (hr.mono (by simp) (by simp))
      exact ⟨fun hg => ⟨_, rfl, h1 hg⟩, fun hg hp ha => ⟨_, rfl, h2 hg hp ha⟩⟩
    · obtain ⟨h1, h2⟩ := object_traps (x := { len := 4, legal := scopeOk sc, srcs := [gRef a.toNat, gRef b.toNat] }) (a := a) hl rfl hh
        (hr.mono (by simp) (by simp))
      exact ⟨fun hg => ⟨_, rfl, h1 hg⟩, fun hg hp ha => ⟨_, rfl, h2 hg hp ha⟩⟩
    · obtain ⟨h1, h2⟩ := object_traps (x := { len := 4, legal := scopeOk sc, srcs := [gRef a.toNat, gRef b.toNat] }) (a := a) hl rfl hh
        (hr.mono (by simp) (by simp))
      exact ⟨fun hg => ⟨_, rfl, h1 hg⟩, fun hg hp ha => ⟨_, rfl, h2 hg hp ha⟩⟩
  · obtain ⟨t, he, hgv, hpc, u, hun, hmu, hmt⟩ := bara_arrives sc b a d hsc h hg hu hr ho hm hc
    have hN : ∀ k, u.getN k 4 = s.getN k 4 := fun k => getN_congr (fun i _ => congrArg (fun m => tget 0 m _) hmu)
    obtain ⟨-, h0, h1, h2⟩ := hun.arrive_lands p.chipKey
    simp only [hN, hmu, ← hmt] at h0 h1 h2
    obtain ⟨w1, w2, w3, w4, w5⟩ := arrived_words h0 h1 h2
    exact ⟨t, he, hgv, hpc, w1, w2, w3, w4, w5⟩
  · obtain ⟨t, he, hpc, u, hun, hmu, hmt⟩ := belladd_credits sc b a hsc h hg hu ho hm hc (hr.mono (by simp) (by simp))
    have hN : ∀ k, u.getN k 4 = s.getN k 4 := fun k => getN_congr (fun i _ => congrArg (fun m => tget 0 m _) hmu)
    obtain ⟨-, h0, h1, h2⟩ := hun.credit_lands p.chipKey ((s.me.gv b).toNat % 2 ^ 32) 0
    simp only [hN, hmu, ← hmt] at h0 h1 h2
    obtain ⟨w1, w2, w3, w4, w5, w6⟩ := credited_words h0 h1 h2
    exact ⟨t, he, hpc, w1, w2, w3, w4, w5, w6⟩

end

section
/-!
O19: synchronising forms and reservations performed at issue (R43, R118 to R121).
-/

namespace Sys2Proof.Machine

/-! ## The own scratchpad -/

section
variable {s t u : State}

theorem State.atOnce_mono {p : Place} {va : Word} (h : s.atOnce p va true = true) (rel : Bool) : s.atOnce p va rel = true := by
  unfold State.atOnce at h ⊢
  simp only [Bool.true_and, Bool.and_eq_true, Bool.not_eq_true'] at h
  obtain ⟨⟨⟨h1, h2⟩, h3⟩, h4⟩ := h
  simp only [h1, h2, h3, h4, Bool.not_false, Bool.and_true, Bool.and_false]

theorem State.short_place {p : Place} {va : Word} {rel : Bool} (h : s.atOnce p va rel = true) : p.short va = true := by
  unfold State.atOnce at h
  simp only [Bool.and_eq_true] at h
  exact h.1.1.1

/-- The word of an address of the own scratchpad that is a multiple of 8. -/
theorem State.Reaches.word {va : Word} {need : Rights → Bool} {p : Place} (h : s.Reaches va 8 need p) (hs : isShort1 va.toNat = true) :
    p.chipKey / 8 * 8 = p.chipKey := by
  obtain ⟨hp, ha, -⟩ := h
  obtain ⟨-, -, rfl⟩ := s.resolve_short hs hp
  simp only [Place.chipKey, coreKey]
  omega

/-! ## What records nothing -/

theorem Landing.unordered (h : Landing s u) (hu : s.Unrolled) : u.Unordered (u.thread u.cur).ctx := by
  obtain ⟨a, b, w, hm⟩ := h.me
  show u.Unordered u.me.ctx
  have hc : u.ctxs = s.ctxs := by rw [h.state]
  unfold State.Unordered State.levelOf State.ctx
  rw [hm, hc]
  exact hu

theorem AtIssue.served {r q : Req} (h : AtIssue s t u r q) (hu : s.Unrolled) (ht : t.cur = s.cur) (key val : Nat) : u.served q key val = u :=
  State.Unordered.served (by rw [h.tid ht]; exact h.landing.unordered hu) key val

theorem State.eccBad_none (he : s.ecc = []) (key len : Nat) : s.eccBad key len = false := by
  unfold State.eccBad
  rw [he]
  rfl

/-! ## The synchronising forms -/

/-- A synchronising form at its word, whose condition holds (R118). -/
def State.syncAt (s : State) (op : MemOp) (word : Nat) (d : BitVec 6) (ord : Option Nat) : State :=
  match op with
  | .stf v => ((s.noteWrite s.cur word true ord false).bankWrite word (natToBytes 8 v.toNat)).advance 4
  | .ldtk => (((s.setEmpty word).breakResv (word / 128) none).done 4 (fun t => t.setG d (BitVec.ofNat 64 (s.getN word 8)))).serveWord word
  | _ => s.done 4 (fun t => t.setG d (BitVec.ofNat 64 (s.getN word 8)))

/-- The request of a synchronising form. -/
def syncReq (op : MemOp) (store : Bool) (va : Word) (p : Place) (d : BitVec 6) : Req :=
  { id := 0, tid := 0, epoch := 0, op := op, va := va, place := p, dst := if store then none else some (gRef d.toNat),
    cls := if store then .stores else .loads, acq := !store, rel := store }

/-- A synchronising form whose word is in the own scratchpad and whose condition holds is performed at issue (R11, R118). -/
theorem syncForm_at {P : State → Prop} {op : Word → MemOp} {store : Bool} {need : Rights → Bool} {a d : BitVec 6} {p : Place} (hop : Unnoted (fun t => op (t.gv d)))
    (hu : s.Unrolled) (hm : s.MaySend .none) (hc : s.Calm) (hph : s.me.phase = .idle) (ho : s.atOnce p (s.me.gv a) true = true)
    (hr : s.Ready (if store then [gRef d.toNat, gRef a.toNat] else [gRef a.toNat]) (if store then [] else [gRef d.toNat]))
    (h : s.Reaches (s.me.gv a) 8 need p)
    (hready : ∀ r : Req, r.op = op (s.me.gv d) → s.syncReady r p.chipKey = true)
    (hk : ∀ q u, AtIssue s (s.noteReads (if store then [gRef d.toNat, gRef a.toNat] else [gRef a.toNat])) u (syncReq (op (s.me.gv d)) store (s.me.gv a) p d) q →
      P ((u.syncAt (op (s.me.gv d)) p.chipKey d q.ord).acquired q s.cur)) : P (syncForm op store need a d s) := by
  have hs := State.short_of_atOnce ho
  have hn := Checked.noteReads s (if store then [gRef d.toNat, gRef a.toNat] else [gRef a.toNat])
  generalize hsrc : (if store then [gRef d.toNat, gRef a.toNat] else [gRef a.toNat]) = srcs at hr hn hk
  obtain ⟨b, c, hme⟩ := hn.quiet.me
  have hph1 : (s.noteReads srcs).me.phase = .idle := by rw [hme]; exact hph
  have hva : (s.noteReads srcs).me.gv a = s.me.gv a := Unnoted.checked (f := fun t => t.gv a) (fun _ _ _ => rfl) hn
  have hv : op ((s.noteReads srcs).me.gv d) = op (s.me.gv d) := hop.checked hn
  have hsync : ∀ r : Req, r.op = op (s.me.gv d) → (s.noteReads srcs).syncReady r p.chipKey = true := fun r hro => by
    have := hready r hro
    unfold State.syncReady State.isEmpty at this ⊢
    rw [show (s.noteReads srcs).empty = s.empty by rw [hn.quiet.state]]
    exact this
  have hd : (if (store || s.me.phase == .done) = true then ([] : List RegRef) else [gRef d.toNat]) = if store then [] else [gRef d.toNat] := by
    rw [hph]; cases store <;> rfl
  unfold syncForm
  rw [hsrc, hd]
  rw [issue_ready _ _ s rfl (by simp) hr]
  dsimp only
  rw [hph1]
  dsimp only
  rw [hva, hv]
  obtain ⟨t, -, ht, hck⟩ := checkAddr_ok 4 (fun p s => _) _ (hn.passes.reaches h)
  rw [hck, ht (not_global_short s hs h.1), State.short_place ho]
  rw [if_neg (by simp), memIssue_ok _ _ _ (hn.quiet.maySend hm), hn.quiet.atOnce, State.atOnce_mono ho store, hsync _ rfl,
    if_pos (show (true && true) = true from rfl)]
  refine shortAccess_landing (P := P) hn hu (fun _ => hc.2.2.2.2.2) rfl (fun q u hA => ?_)
  have he : u.ecc = [] := (hA.landing.unwatched hc.unwatched).ecc
  have hres := hk q u hA
  rw [hn.quiet.cur]
  refine (congrArg (fun x : State => P (x.acquired q s.cur)) ?_).mpr hres
  unfold State.syncAt
  rw [hA.served hu hn.quiet.cur, u.eccRead_none he, u.eccBad_none he, Bool.and_false, if_neg Bool.false_ne_true, ite_self] <;> rfl

/-! ## Reservations -/

/-- The request of an LRES. -/
def lresReq (acq : Bool) (va : Word) (p : Place) (d : BitVec 6) : Req :=
  { id := 0, tid := 0, epoch := 0, op := .lres, va := va, place := p, dst := some (gRef d.toNat), cls := .loads, acq := acq, short := p.short va }

/-- LRES in the own scratchpad is performed at issue (R120). -/
theorem reserve_at {P : State → Prop} {acq : Bool} {a d : BitVec 6} {p : Place} (hu : s.Unrolled) (hm : s.MaySend .none) (hc : s.Calm)
    (ho : s.atOnce p (s.me.gv a) true = true) (hr : s.Ready [gRef a.toNat] [gRef d.toNat]) (h : s.Reaches (s.me.gv a) 8 Rights.r p)
    (hk : ∀ q u, AtIssue s (s.noteReads [gRef a.toNat]) u (lresReq acq (s.me.gv a) p d) q →
      P ((u.done 4 (fun t => { t.setG d (BitVec.ofNat 64 (u.getN p.chipKey 8)) with resv := some (p.chipKey / 128), resvVa := (s.me.gv a).toNat })).acquired q s.cur)) :
    P (reserve acq a d s) := by
  have hs := State.short_of_atOnce ho
  have hn := Checked.noteReads s [gRef a.toNat]
  have hva : (s.noteReads [gRef a.toNat]).me.gv a = s.me.gv a := Unnoted.checked (f := fun t => t.gv a) (fun _ _ _ => rfl) hn
  unfold reserve
  rw [issue_ready _ _ s rfl (by simp) hr]
  dsimp only
  rw [hva]
  obtain ⟨t, -, ht, hck⟩ := checkAddr_ok 4 (fun p s => _) _ (hn.passes.reaches h)
  rw [hck, ht (not_global_short s hs h.1), hn.quiet.atOnce, State.atOnce_mono ho false]
  simp only [if_true]
  rw [memIssue_ok _ _ _ (hn.quiet.maySend hm)]
  refine shortAccess_landing (P := P) hn hu (fun _ => hc.2.2.2.2.2) rfl (fun q u hA => ?_)
  have he : u.ecc = [] := (hA.landing.unwatched hc.unwatched).ecc
  have hres := hk q u hA
  rw [hn.quiet.cur, hA.served hu hn.quiet.cur, u.eccRead_none he, u.eccBad_none he, if_neg Bool.false_ne_true]
  exact hres

/-- The request of an SCOND. -/
def scondReq (rel : Bool) (v va : Word) (p : Place) (d : BitVec 6) : Req :=
  { id := 0, tid := 0, epoch := 0, op := .scond v, va := va, place := p, dst := some (gRef d.toNat), cls := .loads, rel := rel, short := p.short va }

/-- SCOND at its word (R121). -/
def State.scondAt (s : State) (key : Nat) (rel : Bool) (v : Word) (d : BitVec 6) (q : Req) : State :=
  if s.me.resv = some (key / 128) then
    ((((s.upd (fun t => { t with resv := none })).served q key 0).noteWrite s.cur key rel q.ord true).bankWrite key (natToBytes 8 v.toNat)).done 4 (fun t => t.setG d 0)
  else ((s.upd (fun t => { t with resv := none })).served q key 1).done 4 (fun t => t.setG d 1)

/-- SCOND in the own scratchpad is performed at issue. -/
theorem condition_at {P : State → Prop} {rel : Bool} {b a d : BitVec 6} {p : Place} (hu : s.Unrolled) (hm : s.MaySend .none)
    (hl : ∀ e ∈ s.cores, e.2.lines = []) (ho : s.atOnce p (s.me.gv a) true = true) (hr : s.Ready [gRef a.toNat, gRef b.toNat] [gRef d.toNat])
    (h : s.Reaches (s.me.gv a) 8 Rights.w p)
    (hk : ∀ q u, AtIssue s (s.noteReads [gRef a.toNat, gRef b.toNat]) u (scondReq rel (s.me.gv b) (s.me.gv a) p d) q →
      P ((u.scondAt p.chipKey rel (s.me.gv b) d q).acquired q s.cur)) : P (condition rel b a d s) := by
  have hs := State.short_of_atOnce ho
  have hn := Checked.noteReads s [gRef a.toNat, gRef b.toNat]
  have hva : (s.noteReads [gRef a.toNat, gRef b.toNat]).me.gv a = s.me.gv a := Unnoted.checked (f := fun t => t.gv a) (fun _ _ _ => rfl) hn
  have hvb : (s.noteReads [gRef a.toNat, gRef b.toNat]).me.gv b = s.me.gv b := Unnoted.checked (f := fun t => t.gv b) (fun _ _ _ => rfl) hn
  have hrep : (s.noteReads [gRef a.toNat, gRef b.toNat]).replaying (s.noteReads [gRef a.toNat, gRef b.toNat]).me.ctx = false :=
    (hn.quiet.unrolled hu).unordered.replaying
  unfold condition
  rw [issue_ready _ _ s rfl (by simp) hr]
  dsimp only
  rw [hva, hvb]
  obtain ⟨t, -, ht, hck⟩ := checkAddr_ok 4 (fun p s => _) _ (hn.passes.reaches h)
  rw [hck, ht (not_global_short s hs h.1), hn.quiet.atOnce, State.atOnce_mono ho rel, hrep, Bool.not_false, Bool.and_self]
  simp only [if_true]
  rw [memIssue_ok _ _ _ (hn.quiet.maySend hm)]
  refine shortAccess_landing (P := P) hn hu (fun _ => hl) rfl (fun q u hA => ?_)
  have hres := hk q u hA
  rw [hn.quiet.cur]
  exact hres

/-- The issuing thread without its reservation: every entry of the threads is the new one or another's. -/
theorem State.unreserved (h : Landing s u) (hs : ∀ e ∈ s.threads, e.1 ≠ s.cur → e.2.resv = none) :
    ∀ e ∈ (u.upd (fun t => { t with resv := none })).threads, e.2.resv = none := by
  intro e he
  have he' : e ∈ tput {} u.threads u.cur { u.me with resv := none } := he
  unfold tput at he'
  have herase : e ∈ terase u.threads u.cur → e.2.resv = none := fun hm => by
    have hne := terase_keys u.threads u.cur e hm
    rcases h.held e (List.mem_of_mem_filter hm) with ⟨h1, -⟩ | h1
    · exact absurd (h1.trans h.cur.symm) hne
    · exact hs e h1 (h.cur ▸ hne)
  split at he'
  · exact herase he'
  · rcases (mem_tins _ _ _ e).1 he' with rfl | hm
    · rfl
    · exact herase hm

/-- The state behind an SCOND whose reservation stands, before the thread goes on. -/
theorem State.unreserved_served (h : Landing s u) (hu : s.Unrolled) {q : Req} (hq : q.tid = u.cur) (key val : Nat) :
    (u.upd (fun t => { t with resv := none })).served q key val = u.upd (fun t => { t with resv := none }) := by
  refine State.Unordered.served ?_ key val
  rw [State.thread_upd, hq, if_pos rfl]
  exact h.unordered hu

/-! ## The outcomes -/

/-- What an access that fills a general register at issue leaves. -/
theorem Landing.done_frame (h : Landing s u) (d : BitVec 6) (v : Word) :
    (u.done 4 (fun x => x.setG d v)).mem = u.mem ∧ (u.done 4 (fun x => x.setG d v)).empty = u.empty ∧
      ∀ x, x ≠ s.cur → (u.done 4 (fun x => x.setG d v)).thread x = s.thread x := by
  refine ⟨by simp [State.done, State.advance], by simp [State.done, State.advance], fun x hx => ?_⟩
  rw [State.done, State.advance, State.thread_upd, if_neg (by exact h.cur ▸ hx), State.thread_upd, if_neg (by exact h.cur ▸ hx)]
  exact h.others x hx

/-- The end of an acquire drops SI copies, and no more: registers alone have changed behind it, where they alone had before. -/
theorem OnlyRegs.acquired {l : List RegRef} {ks : List Nat} (h : OnlyRegs s t l ks) (q : Req) (c : Nat) : OnlyRegs s (t.acquired q c) l ks := by
  have hline : ∀ k x, x ∈ ((t.acquired q c).core k).lines → x ∈ (t.core k).lines := fun k x hx => by
    unfold State.acquired at hx
    split at hx
    · exact State.dropSI_lines _ _ _ _ hx
    · exact hx
  have hcore : ∀ k, (t.acquired q c).core k = { t.core k with lines := ((t.acquired q c).core k).lines } := fun k => by
    unfold State.acquired
    split
    · exact State.dropSI_core _ _ _
    · rfl
  refine ⟨?_, ?_, ?_, fun k => ?_, fun k x hx => h.lines k x (hline k x hx), fun k r => ?_, ?_, ?_, ?_⟩
  · rw [t.acquired_eq]
    exact congrArg (fun x : State => { x with threads := t.threads, cores := (t.acquired q c).cores }) h.state
  · rw [t.acquired_eq]; exact h.bytes
  · rw [t.acquired_eq]; exact h.others
  · rw [hcore k]; conv => lhs; rw [h.cores k]
  · rw [hcore k]; exact h.plb k r
  · rw [t.acquired_eq]; exact h.me
  · rw [t.acquired_eq]; exact h.regs
  · rw [t.acquired_eq]; exact h.masks

end

end Sys2Proof.Machine
end

section
/-!
O19, second part: the outcomes of the synchronising forms and of SCOND at issue.
-/

namespace Sys2Proof.Machine

theorem State.acquired_banks (s : State) (q : Req) (t : Nat) (b : List Bank) :
    ({ s with banks := b } : State).acquired q t = { s.acquired q t with banks := b } := by
  unfold State.acquired State.dropSI
  split
  · have hc : ({ s with banks := b } : State).core (coreOf t) = s.core (coreOf t) := rfl
    rw [hc]
    split <;> rfl
  · rfl

@[simp] theorem Thread.gv_advance (t : Thread) (len now : Nat) (d : BitVec 6) : (t.advance len now).gv d = t.gv d := by
  simp [Thread.gv, Thread.gReg]

theorem Thread.gv_resv (t : Thread) (r : Option Nat) (va : Nat) (d : BitVec 6) : Thread.gv { t with resv := r, resvVa := va } d = t.gv d := rfl

theorem mem_sinsert (l : List Nat) (k x : Nat) : x ∈ sinsert l k ↔ x = k ∨ x ∈ l := by
  induction l with
  | nil => simp [sinsert]
  | cons a l ih =>
    unfold sinsert
    split
    · simp
    · split
      · next h => simp [h]
      · simp only [List.mem_cons, ih]
        tauto

section
variable {s : State} {a b d : BitVec 6} {p : Place} (hu : s.Unrolled) (hm : s.MaySend .none) (hc : s.Calm) (ho : s.atOnce p (s.me.gv a) true = true)
include hu hm hc ho

/-- LDF reads a FULL word, and is no more than a load. -/
theorem ldf_reads (hph : s.me.phase = .idle) (h0 : d ≠ 0) (hr : s.Ready [gRef a.toNat] [gRef d.toNat]) (h : s.Reaches (s.me.gv a) 8 Rights.r p)
    (hf : s.isEmpty p.chipKey = false) : ∃ t, exec (.ldf a d) s = .next t ∧ t.me.gv d = BitVec.ofNat 64 (s.getN p.chipKey 8) ∧ t.me.pc = s.me.nextPc 4 ∧
      ShortRegs s t false [(s.me.gv a).toNat] [gRef d.toNat] := by
  have hs := State.short_of_atOnce ho
  refine ⟨_, rfl, syncForm_at (P := fun t => t.me.gv d = BitVec.ofNat 64 (s.getN p.chipKey 8) ∧ t.me.pc = s.me.nextPc 4 ∧
    ShortRegs s t false [(s.me.gv a).toNat] [gRef d.toNat]) (fun _ _ _ => rfl) hu hm hc hph ho hr h (fun r hro => ?_) (fun q u hA => ?_)⟩
  · simp only [State.syncReady, hro, hf, Bool.not_false]
  · have hN : u.getN p.chipKey 8 = s.getN p.chipKey 8 := getN_congr (fun _ _ => congrArg (fun m => tget 0 m _) hA.mem)
    obtain ⟨hgv, hpc, -⟩ := hA.landing.done_setG d (BitVec.ofNat 64 (u.getN p.chipKey 8))
    rw [(State.acquired_me _ _ _).1]
    refine ⟨?_, hpc, ?_⟩
    · rw [← hN]
      exact hgv.trans (if_neg h0)
    · have hn := (Checked.noteReads s [gRef a.toNat]).quiet
      have hq := hn.shortWords_banks (l := [(s.me.gv a).toNat]) (by simpa using hs)
      have hreg := (onlyRegs_put s [gRef a.toNat] 4 (gRef d.toNat) (BitVec.ofNat 64 (s.getN p.chipKey 8)).toNat
        (fun t => t.setG d (BitVec.ofNat 64 (s.getN p.chipKey 8))) (Thread.setG_eq _ _ _)).acquired q s.cur
      have hsh := hreg.short [(s.me.gv a).toNat]
      have hub : u = { s.noteReads [gRef a.toNat] with banks := (s.shortWords [(s.me.gv a).toNat]).banks } := by
        have hw : (syncReq .ldf false (s.me.gv a) p d).bankWords = [(s.me.gv a).toNat] := by
          simp [Req.bankWords, Req.pieces, syncReq]
        rw [hA.banks rfl]
        show (s.noteReads [gRef a.toNat]).shortWords _ = _
        rw [hw, State.shortWords_eq, hq]
      refine (congrArg (fun x => ShortRegs s x false [(s.me.gv a).toNat] [gRef d.toNat]) ?_).mp hsh
      rw [← State.acquired_banks]
      refine congrArg (fun x : State => x.acquired q s.cur) ?_
      show _ = u.done 4 (fun t => t.setG d (BitVec.ofNat 64 (u.getN p.chipKey 8)))
      rw [hN]
      conv => rhs; rw [hub]
      unfold State.done State.advance State.upd State.updThread State.setThread
      rfl

/-- LRES reads its word and reserves its granule (R120). -/
theorem lres_reserves (acq : Bool) (h0 : d ≠ 0) (hr : s.Ready [gRef a.toNat] [gRef d.toNat]) (h : s.Reaches (s.me.gv a) 8 Rights.r p) :
    let t := reserve acq a d s
    t.me.gv d = BitVec.ofNat 64 (s.getN p.chipKey 8) ∧ t.me.resv = some (p.chipKey / 128) ∧ t.me.pc = s.me.nextPc 4 ∧ (∀ x, t.byte x = s.byte x) ∧
      t.empty = s.empty := by
  refine reserve_at (P := fun t => t.me.gv d = BitVec.ofNat 64 (s.getN p.chipKey 8) ∧ t.me.resv = some (p.chipKey / 128) ∧ t.me.pc = s.me.nextPc 4 ∧
    (∀ x, t.byte x = s.byte x) ∧ t.empty = s.empty) hu hm hc ho hr h (fun q u hA => ?_)
  have hN : u.getN p.chipKey 8 = s.getN p.chipKey 8 := getN_congr (fun _ _ => congrArg (fun m => tget 0 m _) hA.mem)
  rw [hN, (State.acquired_me _ _ _).1, State.acquired_eq]
  generalize BitVec.ofNat 64 (s.getN p.chipKey 8) = v
  obtain ⟨hme, hmem, hempty⟩ : (u.done 4 (fun t => { t.setG d v with resv := some (p.chipKey / 128), resvVa := (s.me.gv a).toNat })).me =
      Thread.advance { u.me.setG d v with resv := some (p.chipKey / 128), resvVa := (s.me.gv a).toNat } 4 u.now ∧
      (u.done 4 (fun t => { t.setG d v with resv := some (p.chipKey / 128), resvVa := (s.me.gv a).toNat })).mem = u.mem ∧
      (u.done 4 (fun t => { t.setG d v with resv := some (p.chipKey / 128), resvVa := (s.me.gv a).toNat })).empty = u.empty := by
    simp [State.done, State.advance]
  generalize u.done 4 (fun t => { t.setG d v with resv := some (p.chipKey / 128), resvVa := (s.me.gv a).toNat }) = D at hme hmem hempty
  rw [hme]
  refine ⟨?_, Thread.advance_resv _ _ _, ?_, fun x => ?_, ?_⟩
  · exact (Thread.gv_advance _ _ _ d).trans ((Thread.gv_resv _ _ _ d).trans ((Thread.gv_setG u.me d v).trans (if_neg h0)))
  · rw [Thread.advance_pc]
    exact (Thread.nextPc_setG u.me d v 4).trans (hA.landing.thread.2.2.2.2 4)
  · exact congrArg (fun m => tget 0 m x) (hmem.trans hA.mem)
  · exact hempty.trans hA.empty

/-- LDTK reads a FULL word and leaves it EMPTY. -/
theorem ldtk_takes (hph : s.me.phase = .idle) (h0 : d ≠ 0) (hr : s.Ready [gRef a.toNat] [gRef d.toNat]) (h : s.Reaches (s.me.gv a) 8 Rights.a p)
    (hf : s.isEmpty p.chipKey = false) : ∃ t, exec (.ldtk a d) s = .next t ∧ t.me.gv d = BitVec.ofNat 64 (s.getN p.chipKey 8) ∧ t.isEmpty p.chipKey = true ∧
      t.me.pc = s.me.nextPc 4 ∧ ∀ x, t.byte x = s.byte x := by
  have hs := State.short_of_atOnce ho
  refine ⟨_, rfl, syncForm_at (P := fun t => t.me.gv d = BitVec.ofNat 64 (s.getN p.chipKey 8) ∧ t.isEmpty p.chipKey = true ∧
    t.me.pc = s.me.nextPc 4 ∧ ∀ x, t.byte x = s.byte x) (fun _ _ _ => rfl) hu hm hc hph ho hr h (fun r hro => ?_) (fun q u hA => ?_)⟩
  · simp only [State.syncReady, hro, hf, Bool.not_false]
  · have hN : u.getN p.chipKey 8 = s.getN p.chipKey 8 := getN_congr (fun _ _ => congrArg (fun m => tget 0 m _) hA.mem)
    have hL : Landing s (u.setEmpty p.chipKey) := hA.landing.trans (.of_threads rfl)
    have hun := hL.unwatched hc.unwatched
    obtain ⟨hgv, hpc, hmem⟩ := hL.done_setG d (BitVec.ofNat 64 (u.getN p.chipKey 8))
    have hserve : ((u.setEmpty p.chipKey).done 4 (fun t => t.setG d (BitVec.ofNat 64 (u.getN p.chipKey 8)))).serveWord p.chipKey =
        (u.setEmpty p.chipKey).done 4 (fun t => t.setG d (BitVec.ofNat 64 (u.getN p.chipKey 8))) := by
      unfold State.serveWord
      rw [show ((u.setEmpty p.chipKey).done 4 (fun t => t.setG d (BitVec.ofNat 64 (u.getN p.chipKey 8)))).syncq = [] by
          simpa [State.done, State.advance] using hun.syncq,
        show ((u.setEmpty p.chipKey).done 4 (fun t => t.setG d (BitVec.ofNat 64 (u.getN p.chipKey 8)))).syncIn = [] by
          simpa [State.done, State.advance] using hun.syncIn]
      rfl
    have he : ((u.setEmpty p.chipKey).done 4 (fun t => t.setG d (BitVec.ofNat 64 (u.getN p.chipKey 8)))).empty = sinsert u.empty p.chipKey := by
      simp [State.done, State.advance, State.setEmpty]
    have hst : u.syncAt .ldtk p.chipKey d q.ord = (u.setEmpty p.chipKey).done 4 (fun t => t.setG d (BitVec.ofNat 64 (u.getN p.chipKey 8))) := by
      unfold State.syncAt
      dsimp only
      rw [hun.breakResv, hserve]
    rw [hst, (State.acquired_me _ _ _).1, State.acquired_eq]
    generalize (u.setEmpty p.chipKey).done 4 (fun t => t.setG d (BitVec.ofNat 64 (u.getN p.chipKey 8))) = D at hgv hpc hmem he
    refine ⟨?_, ?_, hpc, fun x => congrArg (fun m => tget 0 m x) (hmem.trans hA.mem)⟩
    · rw [← hN]
      exact hgv.trans (if_neg h0)
    · show D.empty.contains (p.chipKey / 8 * 8) = true
      rw [he, h.word hs, List.contains_eq_mem]
      exact decide_eq_true ((mem_sinsert _ _ _).2 (.inl rfl))

/-- STF fills an EMPTY word. -/
theorem stf_fills (hph : s.me.phase = .idle) (hr : s.Ready [gRef d.toNat, gRef a.toNat] []) (h : s.Reaches (s.me.gv a) 8 Rights.w p)
    (hf : s.isEmpty p.chipKey = true) : ∃ t, exec (.stf a d) s = .next t ∧ t.isEmpty p.chipKey = false ∧ t.getN p.chipKey 8 = (s.me.gv d).toNat ∧
      t.me.pc = s.me.nextPc 4 ∧ ∀ x, x < p.chipKey ∨ p.chipKey + 8 ≤ x → t.byte x = s.byte x := by
  refine ⟨_, rfl, syncForm_at (P := fun t => t.isEmpty p.chipKey = false ∧ t.getN p.chipKey 8 = (s.me.gv d).toNat ∧
      t.me.pc = s.me.nextPc 4 ∧ ∀ x, x < p.chipKey ∨ p.chipKey + 8 ≤ x → t.byte x = s.byte x) (fun _ _ _ => rfl) hu hm hc hph ho hr h (fun r hro => ?_) (fun q u hA => ?_)⟩
  · simp only [State.syncReady, hro, hf]
  · have hst := (hA.landing.stored hA.mem hA.empty (hA.landing.unwatched hc.unwatched) u.cur p.chipKey 8 (by decide) (s.me.gv d) true q.ord false 4).acquired q s.cur
    refine ⟨hst.full, getN_of_digits (fun i hi => ?_) (by exact (s.me.gv d).isLt), hst.pc, fun x hx => ?_⟩
    · refine (hst.bytes _).trans ?_
      rw [if_pos ⟨by omega, by omega⟩, Nat.add_sub_cancel_left, natToBytes_slice _ hi]
    · exact (hst.bytes x).trans (if_neg (by omega))

/-- SCOND without its reservation stores nothing. -/
theorem scond_fails (rel : Bool) (h0 : d ≠ 0) (hr : s.Ready [gRef a.toNat, gRef b.toNat] [gRef d.toNat]) (h : s.Reaches (s.me.gv a) 8 Rights.w p) :
    let t := condition rel b a d s
    t.me.resv = none ∧ t.me.pc = s.me.nextPc 4 ∧ t.me.gv d = 1 ∧ ∀ x, t.byte x = s.byte x := by
  refine condition_at (P := fun t => t.me.resv = none ∧ t.me.pc = s.me.nextPc 4 ∧ t.me.gv d = 1 ∧ ∀ x, t.byte x = s.byte x) hu hm hc.2.2.2.2.2 ho hr h (fun q u hA => ?_)
  have hres : u.me.resv = none := by
    rcases tget_mem {} u.threads u.cur with hd | hd
    · rw [State.me, State.thread, hd]
    · exact (hA.landing.unwatched hc.unwatched).resv _ hd
  unfold State.scondAt
  rw [hres, if_neg (by simp), State.unreserved_served hA.landing hu (hA.tid (Checked.noteReads s _).quiet.cur), (State.acquired_me _ _ _).1, State.acquired_eq]
  have hme : ((u.upd (fun t => { t with resv := none })).done 4 (fun t => t.setG d 1)).me = Thread.advance (Thread.setG { u.me with resv := none } d 1) 4 u.now := by
    simp [State.done, State.advance]
  rw [hme]
  refine ⟨?_, ?_, ?_, fun x => ?_⟩
  · rw [Thread.advance_resv]
    unfold Thread.setG
    split <;> rfl
  · rw [Thread.advance_pc, Thread.nextPc_setG]
    exact hA.landing.thread.2.2.2.2 4
  · exact (Thread.gv_advance _ _ _ d).trans ((Thread.gv_setG _ d 1).trans (if_neg h0))
  · show tget 0 ((u.upd (fun t => { t with resv := none })).done 4 (fun t => t.setG d 1)).mem x = _
    rw [show ((u.upd (fun t => { t with resv := none })).done 4 (fun t => t.setG d 1)).mem = u.mem by simp [State.done, State.advance], hA.mem]
    rfl

end

/-- SCOND with its reservation standing stores its value, and the reservation is gone (R121). -/
theorem scond_stores {s : State} {a b d : BitVec 6} {p : Place} (hu : s.Unrolled) (hm : s.MaySend .none) (ho : s.atOnce p (s.me.gv a) true = true)
    (hq : s.syncq = []) (hi : s.syncIn = []) (hw : s.waiters = []) (hecc : s.ecc = []) (hl : ∀ e ∈ s.cores, e.2.lines = [])
    (hoth : ∀ e ∈ s.threads, e.1 ≠ s.cur → e.2.resv = none) (hres : s.me.resv = some (p.chipKey / 128)) (rel : Bool) (h0 : d ≠ 0)
    (hr : s.Ready [gRef a.toNat, gRef b.toNat] [gRef d.toNat]) (h : s.Reaches (s.me.gv a) 8 Rights.w p) :
    let t := condition rel b a d s
    t.me.resv = none ∧ t.me.gv d = 0 ∧ t.me.pc = s.me.nextPc 4 ∧ t.getN p.chipKey 8 = (s.me.gv b).toNat ∧
      (∀ x, x < p.chipKey ∨ p.chipKey + 8 ≤ x → t.byte x = s.byte x) ∧ ∀ u, u ≠ s.cur → t.thread u = s.thread u := by
  refine condition_at (P := fun t => t.me.resv = none ∧ t.me.gv d = 0 ∧ t.me.pc = s.me.nextPc 4 ∧ t.getN p.chipKey 8 = (s.me.gv b).toNat ∧
      (∀ x, x < p.chipKey ∨ p.chipKey + 8 ≤ x → t.byte x = s.byte x) ∧ ∀ u, u ≠ s.cur → t.thread u = s.thread u) hu hm hl ho hr h (fun q u hA => ?_)
  unfold State.scondAt
  rw [hA.landing.resv, hres, if_pos rfl, State.unreserved_served hA.landing hu (hA.tid (Checked.noteReads s _).quiet.cur)]
  have hW : (u.upd (fun t => { t with resv := none })).Unwatched := by
    have hst := hA.landing.state
    refine ⟨?_, ?_, ?_, ?_, State.unreserved hA.landing hoth⟩
    · exact (congrArg State.syncq hst).trans hq
    · exact (congrArg State.syncIn hst).trans hi
    · exact (congrArg State.waiters hst).trans hw
    · exact (congrArg State.ecc hst).trans hecc
  have hWm : (u.upd (fun t => { t with resv := none })).mem = s.mem := hA.mem
  have hWme : (u.upd (fun t => { t with resv := none })).me = { u.me with resv := none } := State.me_upd _ _
  have hWth : ∀ x, x ≠ s.cur → (u.upd (fun t => { t with resv := none })).thread x = s.thread x := fun x hx => by
    rw [State.thread_upd, if_neg (hA.landing.cur ▸ hx), hA.landing.others x hx]
  have hWc : (u.upd (fun t => { t with resv := none })).cur = s.cur := hA.landing.cur
  generalize u.upd (fun t => { t with resv := none }) = W at hW hWm hWme hWth hWc
  have h1 := Landing.noteWrite W u.cur p.chipKey rel q.ord true
  obtain ⟨hL, hM, -⟩ := (h1.unwatched hW).bankWrite_lands p.chipKey (natToBytes 8 (s.me.gv b).toNat)
  have hX := h1.trans hL
  rw [show (W.noteWrite u.cur p.chipKey rel q.ord true).mem = s.mem by rw [W.noteWrite_eq]; exact hWm] at hM
  obtain ⟨hgv, hpc, hmem⟩ := hX.done_setG d 0
  obtain ⟨-, -, hth⟩ := hX.done_frame d 0
  have hrv : (((W.noteWrite u.cur p.chipKey rel q.ord true).bankWrite p.chipKey (natToBytes 8 (s.me.gv b).toNat)).done 4 (fun t => t.setG d 0)).me.resv = none := by
    have hXr := hX.resv
    rw [hWme] at hXr
    generalize ((W.noteWrite u.cur p.chipKey rel q.ord true).bankWrite p.chipKey (natToBytes 8 (s.me.gv b).toNat)) = X at hXr
    rw [show (X.done 4 (fun t => t.setG d 0)).me = (X.me.setG d 0).advance 4 X.now by simp [State.done, State.advance], Thread.advance_resv]
    unfold Thread.setG
    split <;> exact hXr
  rw [(State.acquired_me _ _ _).1, State.acquired_eq]
  generalize ((W.noteWrite u.cur p.chipKey rel q.ord true).bankWrite p.chipKey (natToBytes 8 (s.me.gv b).toNat)).done 4 (fun t => t.setG d 0) = D at *
  have hbyte : ∀ x, D.byte x = if p.chipKey ≤ x ∧ x < p.chipKey + 8 then (natToBytes 8 (s.me.gv b).toNat).getD (x - p.chipKey) 0 else s.byte x := fun x => by
    have hlen := Laws.natToBytes_length 8 (s.me.gv b).toNat
    rw [State.byte, hmem, hM, tget_pokeMem, hlen]
    rfl
  refine ⟨hrv, hgv.trans (if_neg h0), hpc.trans ?_, getN_of_digits (fun i hi => ?_) (s.me.gv b).isLt, fun x hx => ?_, fun x hx => ?_⟩
  · rw [hWme]
    exact hA.landing.thread.2.2.2.2 4
  · refine (hbyte _).trans ?_
    rw [if_pos ⟨by omega, by omega⟩, Nat.add_sub_cancel_left]
  · exact (hbyte x).trans (if_neg (by omega))
  · exact (hth x (hWc.symm ▸ hx)).trans (hWth x hx)

end Sys2Proof.Machine
end

section
open Sys2Proof Sys2Proof.Machine

/-- Settles O19: each form is performed at its word behind its checks (`syncForm_at`, `reserve_at`, `condition_at`), and its outcome is read off. -/
theorem synchronisingResults : Obligations.SynchronisingResults := by
  unfold Obligations.SynchronisingResults
  refine ⟨fun b a d s p hu hm hc hph h0 ho => ⟨fun hr h => ⟨fun hf => ldf_reads hu hm hc ho hph h0 hr h hf, fun i hi => ?_⟩,
    fun hr h hf => ldtk_takes hu hm hc ho hph h0 hr h hf, fun hr h hf => stf_fills hu hm hc ho hph hr h hf, fun hr h i hi => ?_⟩,
    fun b a d s p hu hm hq hi hw he h0 ho hr h hres hoth hl i hmem => ?_⟩
  · simp only [List.mem_cons, List.not_mem_nil, or_false] at hi
    rcases hi with rfl | rfl
    · exact ⟨_, rfl, lres_reserves hu hm hc ho false h0 hr h⟩
    · exact ⟨_, rfl, lres_reserves hu hm hc ho true h0 hr h⟩
  · simp only [List.mem_cons, List.not_mem_nil, or_false] at hi
    rcases hi with rfl | rfl
    · exact ⟨_, rfl, scond_fails hu hm hc ho false h0 hr h⟩
    · exact ⟨_, rfl, scond_fails hu hm hc ho true h0 hr h⟩
  · simp only [List.mem_cons, List.not_mem_nil, or_false] at hmem
    rcases hmem with rfl | rfl
    · exact ⟨_, rfl, scond_stores hu hm ho hq hi hw he hl hoth hres false h0 hr h⟩
    · exact ⟨_, rfl, scond_stores hu hm ho hq hi hw he hl hoth hres true h0 hr h⟩

end

section
/-!
O59: an instruction of a program leaves the management state.

Thirteen fields of the state are written only by steps of the hardware and of the management interface. As for the canonical form of memory
(O58), there is one lemma for each function of the model that an instruction's meaning uses, in the order of the model's files; its proof says
from which functions the state comes, along the branches of the definition.
-/

namespace Sys2Proof.Machine

/-! ## The fields -/

/-- What only the management interface, the driver and the hardware's own steps write. -/
structure Management where
  root : Tbl Word
  windows : Tbl Word
  modnum : Nat
  hapsel : Tbl (BitVec 8)
  ftports : Word
  ptpport : Word
  tenants : Tbl Word
  frames : Tbl Nat
  msgSpillBase : Tbl Word
  eths : Tbl EthRing
  fenced : List FailedPart
  busStat : Nat
  now : Nat

def State.management (s : State) : Management :=
  ⟨s.root, s.windows, s.modnum, s.hapsel, s.ftports, s.ptpport, s.tenants, s.frames, s.msgSpillBase, s.eths, s.fenced, s.busStat, s.now⟩

/-- A state whose management fields are these. -/
def State.Managed (mg : Management) (s : State) : Prop := s.management = mg

section

variable {mg : Management}

theorem State.Managed.of_fields {mg : Management} {s t : State} (h : s.Managed mg) (e : t.management = s.management) : t.Managed mg := e.trans h

/-! ## The fields and the shapes of a meaning -/

theorem State.Managed.ite {a b : State} {c : Prop} {_ : Decidable c} (ha : a.Managed mg) (hb : b.Managed mg) : (if c then a else b).Managed mg := by
  split <;> assumption

theorem State.Managed.ite_snd {α : Type} {a b : α × State} {c : Prop} {_ : Decidable c} (ha : a.2.Managed mg) (hb : b.2.Managed mg) :
    (if c then a else b).2.Managed mg := by
  split <;> assumption

theorem State.Managed.foldl {α : Type} {f : State → α → State} {l : List α} {s : State} (h : s.Managed mg) (hf : ∀ s, s.Managed mg → ∀ a, (f s a).Managed mg) :
    (l.foldl f s).Managed mg := by
  induction l generalizing s with
  | nil => exact h
  | cons a l ih => exact ih (hf s h a)

/-- A state that comes with an answer. -/
theorem State.Managed.of_pair {α : Type} {x : α × State} {a : α} {t : State} (e : x = (a, t)) (h : x.2.Managed mg) : t.Managed mg := by
  subst e
  exact h

/-- What an agent meets at an address has these fields where it comes with a state. -/
def Reach.Managed (mg : Management) : Reach → Prop
  | .miss _ => True
  | .bad s => s.Managed mg
  | .ok _ s => s.Managed mg

theorem Reach.Managed.miss {c : Nat} : (Reach.miss c).Managed mg := trivial

theorem Reach.Managed.ite {a b : Reach} {c : Prop} {_ : Decidable c} (ha : a.Managed mg) (hb : b.Managed mg) : (if c then a else b).Managed mg := by
  split <;> assumption

theorem State.Managed.of_bad {x : Reach} {t : State} (e : x = .bad t) (h : x.Managed mg) : t.Managed mg := by
  subst e
  exact h

theorem State.Managed.of_ok {x : Reach} {l : List Byte} {t : State} (e : x = .ok l t) (h : x.Managed mg) : t.Managed mg := by
  subst e
  exact h

/-- A meaning that answers a state of these fields, if it answers a next state at all. -/
def Manages (mg : Management) (o : Out) : Prop := ∀ t, o = .next t → t.Managed mg

theorem Manages.next {t : State} (h : t.Managed mg) : Manages mg (.next t) := by
  rintro _ ⟨⟩
  exact h

end

section

variable {s : State} {mg : Management}

/-! ## The shared operations (Machine/Ops) -/

theorem State.Managed.setThread {t v} (h : s.Managed mg) : (s.setThread t v).Managed mg := h
theorem State.Managed.setCore {c v} (h : s.Managed mg) : (s.setCore c v).Managed mg := h
theorem State.Managed.setDie {d v} (h : s.Managed mg) : (s.setDie d v).Managed mg := h
theorem State.Managed.setSlice {x v} (h : s.Managed mg) : (s.setSlice x v).Managed mg := h
theorem State.Managed.setCtx {c v} (h : s.Managed mg) : (s.setCtx c v).Managed mg := h
theorem State.Managed.updThread {t f} (h : s.Managed mg) : (s.updThread t f).Managed mg := .setThread h
theorem State.Managed.updCore {c f} (h : s.Managed mg) : (s.updCore c f).Managed mg := .setCore h
theorem State.Managed.updDie {d f} (h : s.Managed mg) : (s.updDie d f).Managed mg := .setDie h
theorem State.Managed.updSlice {x f} (h : s.Managed mg) : (s.updSlice x f).Managed mg := .setSlice h
theorem State.Managed.updCtx {c f} (h : s.Managed mg) : (s.updCtx c f).Managed mg := .setCtx h
theorem State.Managed.upd {f} (h : s.Managed mg) : (s.upd f).Managed mg := .updThread h
theorem State.Managed.after {n i} (h : s.Managed mg) : (s.after n i).Managed mg := h
theorem State.Managed.afterOnce {n i} (h : s.Managed mg) : (s.afterOnce n i).Managed mg := .ite h (.after h)
theorem State.Managed.nextFree (h : s.Managed mg) : s.nextFree.Managed mg := h
theorem State.Managed.wakeCore {c} (h : s.Managed mg) : (s.wakeCore c).Managed mg := .ite (.afterOnce (.ite (.updCore h) h)) (.ite (.updCore h) h)
theorem State.Managed.wake {t} (h : s.Managed mg) : (s.wake t).Managed mg := .ite (.wakeCore (.updThread h)) h
theorem State.Managed.restCore {c} (h : s.Managed mg) : (s.restCore c).Managed mg := .ite h (.afterOnce (.updCore h))
theorem State.Managed.parkOn {p} (h : s.Managed mg) : (s.parkOn p).Managed mg := .upd h
theorem State.Managed.markDirty {k n} (h : s.Managed mg) : (s.markDirty k n).Managed mg := .ite (.updCore h) h
theorem State.Managed.poke {k l} (h : s.Managed mg) : (s.poke k l).Managed mg := .markDirty h

theorem State.Managed.flushEvents_go {d l} (h : s.Managed mg) : (State.flushEvents.go d l s).Managed mg := by
  induction l generalizing s with
  | nil => exact .updDie h
  | cons r rest ih => exact .ite (.afterOnce (.updDie h)) (ih (.updDie (.poke h)))

theorem State.Managed.flushEvents {d} (h : s.Managed mg) : (s.flushEvents d).Managed mg := by
  unfold State.flushEvents
  split
  exacts [h, .flushEvents_go h]

theorem State.Managed.postEvent {d source code extra who payload} (h : s.Managed mg) : (s.postEvent d source code extra who payload).Managed mg :=
  .flushEvents (.updDie h)

theorem State.Managed.logError {d code kind unit addr detail} (h : s.Managed mg) : (s.logError d code kind unit addr detail).Managed mg := .ite (.updDie h) (.updDie h)

theorem State.Managed.takeTrap_stop {t cause th double} {s1 : State} (hs1 : s1.Managed mg) : (State.takeTrap.stop s t cause s1 th double).Managed mg :=
  .postEvent (.updThread hs1)

theorem State.Managed.takeTrap {t cause info len} (h : s.Managed mg) : (s.takeTrap t cause info len).Managed mg := by
  unfold State.takeTrap
  extract_lets
  split
  exacts [.updThread (.updThread h), .takeTrap_stop (.updThread h), .ite (.takeTrap_stop (.updThread h)) (.updThread (.updThread h))]

theorem State.Managed.trap {cause info len} (h : s.Managed mg) : (s.trap cause info len).Managed mg := .takeTrap h
theorem State.Managed.illegal {len} (h : s.Managed mg) : (s.illegal len).Managed mg := .trap h
theorem State.Managed.priv {len} (h : s.Managed mg) : (s.priv len).Managed mg := .trap h

theorem State.Managed.voidTrap {r len} (h : s.Managed mg) : (s.voidTrap r len).Managed mg := by
  unfold State.voidTrap
  extract_lets
  split <;> exact .trap h

theorem State.Managed.dropSI {t} (h : s.Managed mg) : (s.dropSI t).Managed mg := .ite (.updCore h) h
theorem State.Managed.noteReads {l} (h : s.Managed mg) : (s.noteReads l).Managed mg := .ite (.dropSI (.upd (.ite (.upd h) h))) (.ite (.upd h) h)

theorem State.Managed.issue {x} {k : State → State} (hk : ∀ s, s.Managed mg → (k s).Managed mg) (h : s.Managed mg) : (issue x k s).Managed mg := by
  unfold Machine.issue
  refine .ite (.illegal h) (.ite (.priv h) ?_)
  split
  · exact .voidTrap h
  · split
    · exact .parkOn h
    · split
      exacts [.parkOn h, hk _ (.noteReads h)]

theorem State.Managed.advance {len} (h : s.Managed mg) : (s.advance len).Managed mg := .upd h
theorem State.Managed.transfer {target call} (h : s.Managed mg) : (s.transfer target call).Managed mg := .upd h
theorem State.Managed.done {len f} (h : s.Managed mg) : (s.done len f).Managed mg := .advance (.upd h)
theorem State.Managed.request {die kind addr t} (h : s.Managed mg) : (s.request die kind addr t).Managed mg := .after h

/-! ## Flags (Machine/Flags) -/

theorem State.Managed.fpResult {d v f} (h : s.Managed mg) : (fpResult d v f s).Managed mg := .ite (.trap (.upd h)) (.done h)

/-! ## Addresses and rights (Machine/Address) -/

theorem State.Managed.checkRight {va need len} {k : State → State} (hk : ∀ s, s.Managed mg → (k s).Managed mg) (h : s.Managed mg) : (checkRight va need len k s).Managed mg := by
  unfold Machine.checkRight
  refine .ite (hk _ h) ?_
  extract_lets
  split
  exacts [.ite (hk _ (.updCore h)) (.trap (.updCore h)), .afterOnce (.parkOn h)]

theorem State.Managed.checkAddr {va size need len} {k : Place → State → State} (hk : ∀ x s, s.Managed mg → (k x s).Managed mg) (h : s.Managed mg) :
    (checkAddr va size need len k s).Managed mg := by
  unfold Machine.checkAddr
  split
  exacts [.trap h, .ite (.trap h) (.checkRight (fun _ h1 => hk _ _ h1) h)]

theorem State.Managed.checkTarget {t len} {k : State → State} (hk : ∀ s, s.Managed mg → (k s).Managed mg) (h : s.Managed mg) : (checkTarget t len k s).Managed mg :=
  .ite (.trap h) (.ite (.trap h) (.checkRight hk h))

theorem State.Managed.allocated {pg va} (h : s.Managed mg) : (s.allocated pg va).Managed mg := .ite h h
theorem State.Managed.cacheWalk {pg va ctx ready} (h : s.Managed mg) : (s.cacheWalk pg va ctx ready).Managed mg := .ite h (.updSlice (.allocated h))

/-! ## Servers and their queues (Machine/Arbiter) -/

theorem State.Managed.setBank {b} (h : s.Managed mg) : (s.setBank b).Managed mg := h
theorem State.Managed.takeShort {vs} (h : s.Managed mg) : (s.takeShort vs).Managed mg := .foldl h (fun _ h1 _ => .setBank h1)

/-! ## The order that a roll keeps (Machine/Record) -/

theorem State.Managed.nextOrd {t} (h : s.Managed mg) : (s.nextOrd t).Managed mg := .updCtx h
theorem State.Managed.record {c r} (h : s.Managed mg) : (s.record c r).Managed mg := .afterOnce (.updCtx h)
theorem State.Managed.note {t typ op ord val obj} (h : s.Managed mg) : (s.note t typ op ord val obj).Managed mg := .ite (.record h) h
theorem State.Managed.wakeRoll {c} (h : s.Managed mg) : (s.wakeRoll c).Managed mg := .foldl h (fun _ h1 _ => .wake h1)
theorem State.Managed.unqueue {c idx} (h : s.Managed mg) : (s.unqueue c idx).Managed mg := .wakeRoll (.updCtx h)
theorem State.Managed.noteWrite {t key rel ord rmw} (h : s.Managed mg) : (s.noteWrite t key rel ord rmw).Managed mg := .ite (.ite h (.ite h h)) h
theorem State.Managed.forget {key len} (h : s.Managed mg) : (s.forget key len).Managed mg := .ite h h

theorem State.Managed.served_takeOut {r c typ} (h : s.Managed mg) : (State.served.takeOut r c typ s).Managed mg := by
  unfold State.served.takeOut
  split
  exacts [.unqueue h, h]

theorem State.Managed.served {r key val} (h : s.Managed mg) : (s.served r key val).Managed mg := by
  unfold State.served
  split
  exacts [h, .ite (.ite (.note (.note h)) (.note h)) (.ite (.ite (.served_takeOut (.served_takeOut h)) (.served_takeOut h)) h)]

/-! ## Banks (Machine/Bank) -/

theorem State.Managed.updReq {id f} (h : s.Managed mg) : (s.updReq id f).Managed mg := h
theorem State.Managed.logUnit {tid part c place u} (h : s.Managed mg) : (s.logUnit tid part c place u).Managed mg := .nextFree (.logError h)
theorem State.Managed.logRoute {r u} (h : s.Managed mg) : (s.logRoute r u).Managed mg := .logUnit h

theorem State.Managed.reply {r0} (h : s.Managed mg) : (s.reply r0).Managed mg := by
  unfold State.reply
  refine .after (.updReq ?_)
  split
  exacts [.logRoute h, h]

theorem State.Managed.endWait {key w} (h : s.Managed mg) : (s.endWait key w).Managed mg := by
  unfold State.endWait
  split
  · split
    exacts [.reply (.served h), h]
  · split
    exacts [.after h, h]
  · split
    exacts [.after h, h]

theorem State.Managed.wakeWaiters {key} (h : s.Managed mg) : (s.wakeWaiters key).Managed mg := by
  unfold State.wakeWaiters
  exact .foldl h (fun _ h1 _ => by split; exacts [.ite h1 (.endWait h1), .endWait h1])

theorem State.Managed.setFull {word} (h : s.Managed mg) : (s.setFull word).Managed mg := .ite h h
theorem State.Managed.setEmpty {word} (h : s.Managed mg) : (s.setEmpty word).Managed mg := h
theorem State.Managed.breakResv {granule own} (h : s.Managed mg) : (s.breakResv granule own).Managed mg := .foldl h (fun _ h1 _ => .wake (.updThread h1))
theorem State.Managed.updateCopy {c key l} (h : s.Managed mg) : (s.updateCopy c key l).Managed mg := .ite (.updCore h) h
theorem State.Managed.dropWt {key own} (h : s.Managed mg) : (s.dropWt key own).Managed mg := .ite h h
theorem State.Managed.noteOld {key n} (h : s.Managed mg) : (s.noteOld key n).Managed mg := .ite h h
theorem State.Managed.noteLine {l off n} (h : s.Managed mg) : (s.noteLine l off n).Managed mg := h
theorem State.Managed.putRaw {key l} (h : s.Managed mg) : (s.putRaw key l).Managed mg := .ite (.poke h) (.poke h)
theorem State.Managed.putBytes {key l} (h : s.Managed mg) : (s.putBytes key l).Managed mg := .putRaw (.noteOld h)
theorem State.Managed.evictSI {c key} (h : s.Managed mg) : (s.evictSI c key).Managed mg := .ite (.updCore h) h

theorem State.Managed.doSync {r word} (h : s.Managed mg) : (s.doSync r word).Managed mg := by
  unfold State.doSync
  extract_lets
  split
  · exact .reply (.breakResv (.setEmpty (.evictSI (.served h))))
  · extract_lets s0 s1
    have hs1 : s1.Managed mg := .breakResv (.setFull (.updateCopy (.putBytes (.dropWt (.noteWrite (.served h))))))
    exact .reply (.ite (.wakeWaiters hs1) (.wakeWaiters (.wakeWaiters hs1)))
  · exact .reply (.evictSI (.served h))

theorem State.Managed.admitSync {v} (h : s.Managed mg) : (s.admitSync v).Managed mg := by
  unfold State.admitSync
  refine .ite ?_ h
  split
  · split <;> exact h
  · exact h

theorem State.Managed.serveWord_out {id} (h : s.Managed mg) : (State.serveWord.out s id).Managed mg := h

theorem State.Managed.serveWord_go {word l} (h : s.Managed mg) : (State.serveWord.go word l s).Managed mg := by
  induction l generalizing s with
  | nil => exact h
  | cons e rest ih =>
    unfold State.serveWord.go
    split
    · exact ih h
    · exact .ite (ih (.admitSync (.doSync (.serveWord_out h)))) h

theorem State.Managed.serveWord {word} (h : s.Managed mg) : (s.serveWord word).Managed mg := .serveWord_go h

theorem State.Managed.landed {key len} (h : s.Managed mg) : (s.landed key len).Managed mg := by
  unfold State.landed
  extract_lets words s1 s2
  have hs2 : s2.Managed mg := .foldl (.foldl h (fun _ h1 _ => .serveWord (.setFull h1))) (fun _ h2 _ => .breakResv h2)
  exact .ite hs2 (.foldl (.foldl hs2 (fun _ h3 _ => .wakeWaiters h3)) (fun _ h4 _ => .ite h4 (.wakeWaiters h4)))

theorem State.Managed.bankWrite {key l} (h : s.Managed mg) : (s.bankWrite key l).Managed mg := .landed (.putBytes h)

theorem State.Managed.eccRead {key len detail} (h : s.Managed mg) : (s.eccRead key len detail).Managed mg := by
  unfold State.eccRead
  refine .foldl h ?_
  intro _ h1 _
  extract_lets
  split
  exacts [h1, .logError h1, .logError h1]

theorem State.Managed.touch {t g} (h : s.Managed mg) : (s.touch t g).Managed mg := by
  unfold State.touch
  extract_lets s1
  have hs1 : s1.Managed mg := .updThread h
  clear_value s1
  split <;> exact hs1

theorem State.Managed.writeBack {l} (h : s.Managed mg) : (s.writeBack l).Managed mg :=
  .ite (.foldl (.foldl (.foldl h (fun _ h1 _ => .touch h1)) (fun _ h2 _ => .putRaw h2)) (fun _ h3 _ => .landed h3)) h

theorem State.Managed.dropLine {c key p} (h : s.Managed mg) : (s.dropLine c key p).Managed mg := .foldl (.updCore h) (fun _ h1 _ => .writeBack h1)
theorem State.Managed.lineStored {c key len} (h : s.Managed mg) : (s.lineStored c key len).Managed mg := .ite (.dropLine h) (.foldl h (fun _ h1 _ => .setFull h1))
theorem State.Managed.recall {key write own} (h : s.Managed mg) : (s.recall key write own).Managed mg := .foldl h (fun _ h1 _ => .dropLine h1)

theorem State.Managed.install {c ln} (h : s.Managed mg) : (s.install c ln).Managed mg := by
  unfold State.install
  extract_lets x set victim
  cases victim with
  | none => exact .updCore h
  | some v => exact .ite (.after (.updCore h)) (.writeBack (.updCore h))

theorem State.Managed.writeBackThread {t} (h : s.Managed mg) : (s.writeBackThread t).Managed mg := .ite h (.foldl (.updCore h) (fun _ h1 _ => .writeBack h1))

theorem State.Managed.credit {bell amount code} (h : s.Managed mg) : (s.credit bell amount code).Managed mg :=
  .ite h (.landed (.ite (.poke (.poke h)) (.poke (.poke (.poke h)))))

/-! ## Siblings (Machine/Siblings) -/

theorem State.Managed.nextProxy {slice key} (h : s.Managed mg) : (s.nextProxy slice key).Managed mg := .ite h (.request h)

theorem State.Managed.dropProxy {who} (h : s.Managed mg) : (s.dropProxy who).Managed mg := by
  unfold State.dropProxy
  split
  exacts [.nextProxy (.updSlice h), h]

theorem State.Managed.sibGate {slice key who need} {refuse : State → State} {k : State → State} (h : s.Managed mg) (hrefuse : ∀ s, s.Managed mg → (refuse s).Managed mg)
    (hk : ∀ s, s.Managed mg → (k s).Managed mg) : (s.sibGate slice key who need refuse k).Managed mg := by
  unfold State.sibGate
  extract_lets
  split
  · refine .ite h (.ite (hk _ (.dropProxy h)) ?_)
    exact .ite (hrefuse _ (.nextFree (.dropProxy h))) (.ite (hk _ (.nextFree (.dropProxy h))) (hk _ (.updSlice (.nextFree (.dropProxy h)))))
  · exact .ite (hk _ h) (.nextProxy (.updSlice h))

theorem State.Managed.putSib {slice key va w} (h : s.Managed mg) : (s.putSib slice key va w).Managed mg := by
  unfold State.putSib
  extract_lets
  split
  exacts [.bankWrite (.updSlice h), .updSlice h]

theorem State.Managed.sibStore {who slice key va writer value} {refuse : State → State} {full : State → State} {done : State → State} (h : s.Managed mg)
    (hrefuse : ∀ s, s.Managed mg → (refuse s).Managed mg) (hfull : ∀ s, s.Managed mg → (full s).Managed mg) (hdone : ∀ s, s.Managed mg → (done s).Managed mg) :
    (s.sibStore who slice key va writer value refuse full done).Managed mg := by
  unfold State.sibStore
  split
  exacts [.sibGate h hrefuse hfull, .sibGate h hrefuse (fun _ h1 => hdone _ (.putSib h1))]

theorem State.Managed.combineWord {slice key aop} (h : s.Managed mg) : (s.combineWord slice key aop).Managed mg := .ite h (.bankWrite (.updSlice h))

theorem State.Managed.combineLine {slice key aop} (h : s.Managed mg) : (s.combineLine slice key aop).Managed mg :=
  .foldl (.foldl h (fun _ h1 _ => .combineWord h1)) (fun _ h2 _ => .updCore h2)

/-! ## Faults at homes (Machine/Faults) -/

theorem State.Managed.writeFault {slice block} (h : s.Managed mg) : (s.writeFault slice block).Managed mg := by
  unfold State.writeFault
  extract_lets
  split
  exacts [h, .ite (.afterOnce h) (.updSlice (.updDie (.poke h)))]

theorem State.Managed.parkFault {slice va cause who item} (h : s.Managed mg) : (s.parkFault slice va cause who item).Managed mg :=
  .ite (.setSlice h) (.ite (.setSlice h) (.writeFault (.updSlice (.updDie h))))

theorem State.Managed.countPage {slice va pg from_} (h : s.Managed mg) : (s.countPage slice va pg from_).Managed mg := by
  unfold State.countPage
  extract_lets d mctl m x page free least slot t f q
  refine .ite h ?_
  clear_value slot
  cases slot with
  | none => exact h
  | some i =>
    refine .ite (.updSlice h) (.ite (.updSlice h) (.ite (.updDie (.updSlice h)) ?_))
    exact .updDie (.updSlice (.poke h))

theorem State.Managed.homeRead {key n} (h : s.Managed mg) : (s.homeRead key n).2.Managed mg := .eccRead (.foldl h (fun _ h1 _ => .recall h1))
theorem State.Managed.homeWrite {key l} (h : s.Managed mg) : (s.homeWrite key l).Managed mg := .bankWrite (.forget (.foldl h (fun _ h1 _ => .recall h1)))
theorem State.Managed.combineRange {pg va n} (h : s.Managed mg) : (s.combineRange pg va n).Managed mg := .ite (.foldl h (fun _ h1 _ => .combineLine h1)) h

theorem State.Managed.logHome {va slice detail} (h : s.Managed mg) : (s.logHome va slice detail).Managed mg := by
  unfold State.logHome
  split
  exacts [.ite (.logError h) (.logError h), .logError h]

theorem State.Managed.pageRead {pg va n} (h : s.Managed mg) : (s.pageRead pg va n).2.Managed mg := .homeRead (.combineRange h)

theorem Reach.Managed.globalWrite {die va l} (h : s.Managed mg) : (s.globalWrite die va l).Managed mg := by
  unfold State.globalWrite
  split
  exacts [.miss, .ite .miss (.ite (.logHome h) (.homeWrite (.combineRange (.countPage h))))]

/-! ## The roll (Machine/Roll) -/

theorem State.Managed.updRoll {c f} (h : s.Managed mg) : (s.updRoll c f).Managed mg := .updCtx h
theorem State.Managed.rollEvent {c code} (h : s.Managed mg) : (s.rollEvent c code).Managed mg := .postEvent h
theorem State.Managed.parkRoll {c va cause kind} (h : s.Managed mg) : (s.parkRoll c va cause kind).Managed mg := .parkFault (.updRoll h)

theorem State.Managed.report {t expected actual} {a : Word} {s1 : State} (h : s.Managed mg) (e : s.report t expected actual = .ok (a, s1)) : s1.Managed mg := by
  unfold State.report at e
  extract_lets c r a bytes done at e
  have hdone {s} (h : s.Managed mg) : (done s).2.Managed mg := .updCtx h
  split at e
  · cases e
  · next e1 => exact .of_pair (Except.ok.inj e) (hdone (.of_bad e1 (.globalWrite h)))
  · next e1 => exact .of_pair (Except.ok.inj e) (hdone (.of_ok e1 (.globalWrite h)))

theorem State.Managed.diverge {t expected actual} {hold : State → State} {k : Word → State → State} (h : s.Managed mg) (hhold : ∀ s, s.Managed mg → (hold s).Managed mg)
    (hk : ∀ x s, s.Managed mg → (k x s).Managed mg) : (s.diverge t expected actual hold k).Managed mg := by
  unfold State.diverge
  refine .ite (hhold _ h) ?_
  split
  · next e => exact hk _ _ (.report h e)
  · exact hhold _ (.parkRoll h)

theorem State.Managed.divergeAtIssue {len expected actual} (h : s.Managed mg) : (s.divergeAtIssue len expected actual).Managed mg :=
  .diverge h (fun _ h1 => .parkOn h1) (fun _ _ h2 => .trap h2)

theorem State.Managed.claim {c l} (h : s.Managed mg) : (s.claim c l).Managed mg := .updCtx h

theorem State.Managed.loggable {len typ op obj byOp also} {k : Option Nat → State → State} (hk : ∀ x s, s.Managed mg → (k x s).Managed mg) (h : s.Managed mg) :
    (loggable len typ op obj byOp also k s).Managed mg := by
  unfold Machine.loggable
  extract_lets
  split
  · exact .ite (.parkOn h) (.ite (.parkOn (.ite h (.rollEvent (.updCtx h)))) (hk _ _ (.nextOrd h)))
  · refine .ite (.parkOn h) ?_
    split
    · exact .ite (.divergeAtIssue h) (.parkOn h)
    · refine .ite (.divergeAtIssue h) (.ite ?_ (hk _ _ (.nextOrd (.claim h))))
      split
      exacts [.ite (.divergeAtIssue h) (.parkOn h), .ite (.divergeAtIssue h) (hk _ _ (.nextOrd (.claim h)))]
  · exact hk _ _ h

theorem State.Managed.ordinal {len} {k : Option Nat → State → State} (hk : ∀ x s, s.Managed mg → (k x s).Managed mg) (h : s.Managed mg) : (ordinal len k s).Managed mg := by
  unfold Machine.ordinal
  extract_lets
  split
  · exact hk _ _ (.nextOrd h)
  · split
    exacts [.ite (.divergeAtIssue h) (hk _ _ (.nextOrd h)), hk _ _ (.nextOrd h)]
  · exact hk _ _ h

/-! ## Homes (Machine/Home) -/

theorem State.Managed.arrive {key} (h : s.Managed mg) : (s.arrive key).Managed mg := .ite h (.ite (.landed (.poke h)) (.bankWrite h))
theorem State.Managed.useLine {t l} (h : s.Managed mg) : (s.useLine t l).Managed mg := .updCore h
theorem State.Managed.fetchLine {t va key typ} (h : s.Managed mg) : (s.fetchLine t va key typ).Managed mg := .install (.eccRead (.dropLine (.recall h)))
theorem State.Managed.storeHit {t va l b} (h : s.Managed mg) : (s.storeHit t va l b).Managed mg := .lineStored (.noteWrite (.breakResv (.updCore (.noteLine h))))

theorem State.Managed.fetchStore {t va key b rel ord} (h : s.Managed mg) : (s.fetchStore t va key b rel ord).Managed mg :=
  .lineStored (.install (.noteOld (.eccRead (.noteWrite (.breakResv (.dropLine (.recall h)))))))

theorem State.Managed.sample {slice va core slot typ part} (h : s.Managed mg) : (s.sample slice va core slot typ part).Managed mg :=
  .ite h (.ite (.updSlice h) (.ite (.updDie (.updSlice h)) (.updDie (.poke (.updSlice h)))))

theorem State.Managed.releaseFence {t} (h : s.Managed mg) : (s.releaseFence t).Managed mg := .updThread (.writeBackThread h)

theorem State.Managed.servedFor {core slot part va typ} (h : s.Managed mg) : (s.servedFor core slot part va typ).Managed mg := by
  unfold State.servedFor
  refine .ite h ?_
  split
  exacts [.ite h (.sample (.countPage h)), h]

theorem State.Managed.readWord {t q n typ ev} {s0 : State} {k : WordEnd → State → State} (hs0 : s0.Managed mg) (hk : ∀ x s, s.Managed mg → (k x s).Managed mg) :
    (s0.readWord t q n typ ev k).Managed mg := by
  unfold State.readWord
  split
  · split
    · exact hk _ _ hs0
    · extract_lets
      split
      · exact hk _ _ (.useLine hs0)
      · refine .ite (hk _ _ (.servedFor hs0)) (.ite ?_ ?_)
        · refine .sibGate (.servedFor hs0) (fun _ h1 => hk _ _ h1) ?_
          intro _ h2
          refine .ite (hk _ _ (.eccRead h2)) ?_
          extract_lets s1
          have hs1 : s1.Managed mg := .eccRead (.ite (.fetchLine h2) (.evictSI (.recall h2)))
          exact hk _ _ (.ite (.combineLine hs1) hs1)
        · refine .ite (hk _ _ (.eccRead (.servedFor hs0))) ?_
          extract_lets s1
          have hs1 : s1.Managed mg := .eccRead (.ite (.fetchLine (.servedFor hs0)) (.evictSI (.recall (.servedFor hs0))))
          exact hk _ _ (.ite (.combineLine hs1) hs1)
  · exact .ite (hk _ _ (.eccRead hs0)) (hk _ _ (.eccRead hs0))

theorem State.Managed.writeWord {t q l typ ev} {s0 : State} {k : WordEnd → State → State} (hs0 : s0.Managed mg) (hk : ∀ x s, s.Managed mg → (k x s).Managed mg) :
    (s0.writeWord t q l typ ev k).Managed mg := by
  unfold State.writeWord
  split
  · split
    · exact hk _ _ hs0
    · extract_lets
      split
      · exact hk _ _ (.storeHit hs0)
      · refine .ite (hk _ _ (.servedFor hs0)) (.ite ?_ ?_)
        · split
          · refine .ite ?_ (hk _ _ (.servedFor hs0))
            exact .sibStore (.servedFor hs0) (fun _ h1 => hk _ _ h1) (fun _ h2 => hk _ _ (.logError h2)) (fun _ h3 => hk _ _ (.noteWrite h3))
          · exact hk _ _ (.servedFor hs0)
        · refine .ite (hk _ _ (.fetchStore (.servedFor hs0))) ?_
          exact hk _ _ (.updateCopy (.bankWrite (.noteWrite (.ite (.combineLine (.recall (.servedFor hs0))) (.recall (.servedFor hs0))))))
  · exact hk _ _ (.bankWrite (.noteWrite hs0))

/-! ## Accesses (Machine/Access) -/

theorem State.Managed.leave {r0 groups} (h : s.Managed mg) : (s.leave r0 groups).2.Managed mg := .foldl (.upd h) (fun _ h1 _ => .touch h1)

theorem State.Managed.postIn {delay r0} (h : s.Managed mg) : (State.postIn delay s r0).Managed mg := by
  unfold State.postIn
  split
  · next r s1 h1 => exact .ite (.afterOnce (.of_fields (.of_pair h1 (.leave h)) rfl)) (.after (.of_pair h1 (.leave h)))

theorem State.Managed.post {r} (h : s.Managed mg) : (s.post r).Managed mg := .postIn h

theorem State.Managed.memIssue {cls} {k : State → State} (hk : ∀ s, s.Managed mg → (k s).Managed mg) (h : s.Managed mg) : (memIssue cls k s).Managed mg :=
  .ite (.parkOn h) (.ite (.parkOn h) (hk _ h))

theorem State.Managed.postAccess {len r} (h : s.Managed mg) : (postAccess len r s).Managed mg := by
  unfold Machine.postAccess
  split
  exacts [.loggable (fun _ _ h1 => .advance (.post h1)) h, .ite (.ordinal (fun _ _ h2 => .advance (.post h2)) h) (.advance (.post h))]

theorem State.Managed.endWord {id i back f} (h : s.Managed mg) : (s.endWord id i back f).Managed mg := by
  unfold State.endWord
  split
  exacts [h, .ite (.updReq h) (.after (.updReq h))]

theorem State.Managed.postWords {r0 hit delay} (h : s.Managed mg) : (s.postWords r0 hit delay).Managed mg := by
  unfold State.postWords
  extract_lets
  split
  · next r s1 h1 =>
      refine .ite ?_ ?_
      · exact .after (.updReq (.of_pair h1 (.leave h)))
      · refine .foldl (.of_pair h1 (.leave h)) ?_
        exact fun _ h2 _ => .ite (.ite (.writeWord h2 (fun _ _ h3 => .endWord h3)) (.readWord h2 (fun _ _ h4 => .endWord h4))) (.after h2)

theorem State.Managed.readShort {l} (h : s.Managed mg) : (s.readShort l).2.Managed mg := by
  induction l generalizing s with
  | nil => exact h
  | cons e rest ih =>
    obtain ⟨va, n⟩ := e
    unfold State.readShort
    split
    · exact h
    · next p _ =>
      have hx : ((s.eccRead p.chipKey n (s.keyDetail s.cur)).readShort rest).2.Managed mg := ih (.eccRead h)
      refine .ite_snd hx ?_
      split <;> exact hx

theorem State.Managed.writeShort {l} (h : s.Managed mg) : (s.writeShort l).Managed mg := by
  unfold State.writeShort
  exact .foldl h (fun _ h1 _ => by split; exacts [.bankWrite (.noteWrite h1), h1])

theorem State.Managed.shortWords {l} (h : s.Managed mg) : (s.shortWords l).Managed mg := .takeShort h

/-! ## Operand forms (Machine/Operands) -/

theorem State.Managed.alu3 {f b a d} (h : s.Managed mg) : (alu3 f b a d s).Managed mg := .issue (fun _ h1 => .done h1) h
theorem State.Managed.alu2 {f a d} (h : s.Managed mg) : (alu2 f a d s).Managed mg := .issue (fun _ h1 => .done h1) h
theorem State.Managed.aluImm {f imm a d} (h : s.Managed mg) : (aluImm f imm a d s).Managed mg := .issue (fun _ h1 => .done h1) h
theorem State.Managed.setImm {len v} {n : Nat} {d : BitVec n} (h : s.Managed mg) : (setImm len v d s).Managed mg := .issue (fun _ h1 => .done h1) h
theorem State.Managed.c16Reg {f x d} (h : s.Managed mg) : (c16Reg f x d s).Managed mg := .issue (fun _ h1 => .done h1) h
theorem State.Managed.c16Imm {f imm d} (h : s.Managed mg) : (c16Imm f imm d s).Managed mg := .issue (fun _ h1 => .done h1) h

theorem State.Managed.shortAccess_go {r forced} {k : Req → Option Bool → State → State} (hk : ∀ x x1 s, s.Managed mg → (k x x1 s).Managed mg) (h : s.Managed mg) :
    (shortAccess.go k r forced s).Managed mg := by
  unfold shortAccess.go
  refine .ite ?_ ?_
  · exact .dropSI (hk _ _ _ (.ite (.releaseFence (.shortWords h)) (.shortWords h)))
  · exact hk _ _ _ (.ite (.releaseFence (.shortWords h)) (.shortWords h))

theorem State.Managed.shortAccess {len r0} {k : Req → Option Bool → State → State} (hk : ∀ x x1 s, s.Managed mg → (k x x1 s).Managed mg) (h : s.Managed mg) :
    (shortAccess len r0 k s).Managed mg := by
  unfold Machine.shortAccess
  extract_lets
  split
  · exact .ite (.ordinal (fun _ _ h1 => .shortAccess_go hk h1) h) (.shortAccess_go hk h)
  · refine .loggable ?_ h
    intro _ _ h2
    extract_lets
    split
    exacts [.ite (.parkOn h) (.advance (.post h2)), .shortAccess_go hk h2, .shortAccess_go hk h2]

theorem State.Managed.loadAt {len p va n sg typ acq rel scope d} (h : s.Managed mg) : (loadAt len p va n sg typ acq rel scope d s).Managed mg := by
  unfold Machine.loadAt
  refine .memIssue ?_ h
  intro s h1
  refine .ite ?_ ?_
  · exact .shortAccess (fun _ _ _ h2 => .ite (.done (.eccRead (.served h2))) (.done (.eccRead (.served h2)))) h1
  · split
    · next l _ =>
        have h3 : (s.useLine s.cur l).Managed mg := .useLine h1
        exact .advance (.after (.upd (.of_fields h3 rfl)))
    · exact .postAccess h1

theorem State.Managed.storeAt {len p va n v typ acq rel scope} (h : s.Managed mg) : (storeAt len p va n v typ acq rel scope s).Managed mg := by
  unfold Machine.storeAt
  refine .memIssue ?_ h
  intro _ h1
  refine .ite ?_ ?_
  · exact .shortAccess (fun _ _ _ h2 => .advance (.bankWrite (.noteWrite h2))) h1
  · split
    exacts [.advance (.after (.upd (.storeHit h1))), .postAccess h1]

theorem State.Managed.fmLoad {n sg i o q a d} (h : s.Managed mg) : (fmLoad n sg i o q a d s).Managed mg :=
  .issue (fun _ h1 => .checkAddr (fun _ _ h2 => .loadAt h2) h1) h

theorem State.Managed.fmStore {n i o q a d} (h : s.Managed mg) : (fmStore n i o q a d s).Managed mg := .issue (fun _ h1 => .checkAddr (fun _ _ h2 => .storeAt h2) h1) h
theorem State.Managed.ixLoad {n sg q b a d} (h : s.Managed mg) : (ixLoad n sg q b a d s).Managed mg := .issue (fun _ h1 => .checkAddr (fun _ _ h2 => .loadAt h2) h1) h
theorem State.Managed.ixStore {n q b a d} (h : s.Managed mg) : (ixStore n q b a d s).Managed mg := .issue (fun _ h1 => .checkAddr (fun _ _ h2 => .storeAt h2) h1) h
theorem State.Managed.scLoad {n q sc o a d} (h : s.Managed mg) : (scLoad n q sc o a d s).Managed mg := .issue (fun _ h1 => .checkAddr (fun _ _ h2 => .loadAt h2) h1) h

theorem State.Managed.scStore {n q sc o a d} (h : s.Managed mg) : (scStore n q sc o a d s).Managed mg :=
  .issue (fun _ h1 => .checkAddr (fun _ _ h2 => .storeAt h2) h1) h

theorem State.Managed.c16Load {srcs ea d} (h : s.Managed mg) : (c16Load srcs ea d s).Managed mg := .issue (fun _ h1 => .checkAddr (fun _ _ h2 => .loadAt h2) h1) h
theorem State.Managed.c16Store {srcs ea d} (h : s.Managed mg) : (c16Store srcs ea d s).Managed mg := .issue (fun _ h1 => .checkAddr (fun _ _ h2 => .storeAt h2) h1) h

/-! ## Atomics (Machine/Atomic) -/

theorem State.Managed.atomicPost {op o va p d} (h : s.Managed mg) : (atomicPost op o va p d s).Managed mg := .memIssue (fun _ h1 => .postAccess h1) h

theorem State.Managed.atomicShort {op wide f o va p d} (h : s.Managed mg) : (atomicShort op wide f o va p d s).Managed mg := by
  unfold Machine.atomicShort
  refine .memIssue ?_ h
  intro _ h1
  exact .shortAccess (fun _ _ _ h2 => .ite (.done (.served (.eccRead h2))) (.done (.bankWrite (.noteWrite (.served (.eccRead h2)))))) h1

theorem State.Managed.atomic {op sz o b a d} (h : s.Managed mg) : (atomic op sz o b a d s).Managed mg :=
  .issue (fun _ h1 => .checkAddr (fun _ _ h2 => .ite (.atomicShort h2) (.atomicPost h2)) h1) h

theorem State.Managed.atomicF {op sz o b a d} (h : s.Managed mg) : (atomicF op sz o b a d s).Managed mg :=
  .issue (fun _ h1 => .checkAddr (fun _ _ h2 => .ite (.atomicShort h2) (.atomicPost h2)) h1) h

/-! ## Threads (Machine/Threads) -/

theorem State.Managed.checkLaunch {n} (h : s.Managed mg) : (s.checkLaunch n).Managed mg := by
  unfold State.checkLaunch
  split
  exacts [.ite (.afterOnce h) h, h]

theorem State.Managed.coreWork {c} (h : s.Managed mg) : (s.coreWork c).Managed mg := by
  unfold State.coreWork
  refine .ite h (.ite (.foldl h (fun _ h1 _ => .afterOnce h1)) (.ite (.afterOnce h) (.ite h ?_)))
  exact .ite (.afterOnce h) (.ite (.afterOnce h) (.ite (.ite h (.afterOnce (.updCore h))) (.restCore (.ite h (.afterOnce (.updCore h))))))

theorem State.Managed.start {t th} (h : s.Managed mg) : (s.start t th).Managed mg := .setThread (.wakeCore h)

theorem State.Managed.rightFor {t va} (h : s.Managed mg) : (s.rightFor t va).2.2.Managed mg := by
  unfold State.rightFor
  extract_lets
  split
  · exact h
  · split
    exacts [.updCore h, .afterOnce h]

theorem State.Managed.readLink {t frame} (h : s.Managed mg) : (s.readLink t frame).Managed mg := by
  unfold State.readLink
  extract_lets
  split
  · exact .updThread h
  · refine .ite (.updThread h) ?_
    exact .ite (.ite (.updThread (.rightFor h)) (.updThread (.updThread (.rightFor h)))) (.updThread (.postIn (.rightFor h)))

theorem State.Managed.startEntry {t e part ctx} (h : s.Managed mg) : (s.startEntry t e part ctx).Managed mg := .ite (.start h) (.readLink (.start h))
theorem State.Managed.noteTake {t op e deque ctx} (h : s.Managed mg) : (s.noteTake t op e deque ctx).Managed mg := .ite (.record h) h

theorem State.Managed.retire {t} (h : s.Managed mg) : (s.retire t).Managed mg := by
  unfold State.retire
  extract_lets th s1 s1
  have hs1 : s1.Managed mg := by
    unfold s1
    split
    exacts [.after (.setThread h), .setThread h]
  exact .ite (.afterOnce (.checkLaunch (.coreWork hs1))) (.checkLaunch (.coreWork hs1))

theorem State.Managed.pick {ctx} (h : s.Managed mg) : (s.pick ctx).2.Managed mg := .ite_snd (.updCtx h) (.nextFree h)
theorem State.Managed.fetchLater {n} (h : s.Managed mg) : (s.fetchLater n).2.Managed mg := .after (.parkOn h)
theorem State.Managed.fetchFault {slice va cause} (h : s.Managed mg) : (s.fetchFault slice va cause).2.Managed mg := .ite_snd (.parkOn h) (.parkFault (.parkOn h))

theorem State.Managed.fetchHome {pg va len held} (h : s.Managed mg) : (s.fetchHome pg va len held).2.Managed mg := by
  unfold State.fetchHome
  extract_lets c x new s1 keep n
  refine .ite_snd (.logHome h) (.ite_snd (.eccRead h) ?_)
  have hs1 : s1.Managed mg := .ite (.pageRead h) (.servedFor (.pageRead h))
  split
  exacts [.ite hs1 (.updCore hs1), .updCore (.pick hs1)]

theorem State.Managed.fetchHalf {va len} {s0 : State} (hs0 : s0.Managed mg) : (s0.fetchHalf va len).2.Managed mg := by
  unfold State.fetchHalf
  refine .ite_snd hs0 ?_
  split
  · exact .afterOnce (.parkOn hs0)
  · refine .ite_snd (.updCore hs0) (.ite_snd (.fetchLater (.updCore hs0)) ?_)
    split
    · exact .logUnit (.updCore hs0)
    · exact .logUnit (.updCore hs0)
    · split
      · exact .fetchFault (.updCore hs0)
      · exact .fetchFault (.updCore hs0)
      · refine .ite_snd (.fetchLater (.cacheWalk (.updCore hs0))) ?_
        exact .ite_snd (.sibGate (.parkOn (.updCore hs0)) (fun _ h1 => h1) (fun _ h2 => h2)) (.fetchHome (.updCore hs0))

theorem State.Managed.capture {va n} (h : s.Managed mg) : (s.capture va n).2.Managed mg := by
  induction n generalizing s va with
  | zero => exact h
  | succ n ih =>
    unfold State.capture
    split
    · next e =>
      have h1 := ih (va := va + 2) (State.Managed.of_pair e (.fetchHalf h))
      split
      · next e1 => exact .of_pair e1 h1
      · exact h1
    · next e => exact .of_pair e (.fetchHalf h)

/-! ## Copies (Machine/Copy) -/

theorem State.Managed.checkRights_go {len n l} {k : State → State} (hk : ∀ s, s.Managed mg → (k s).Managed mg) (h : s.Managed mg) : (checkRights.go len k n l s).Managed mg := by
  induction l generalizing s n with
  | nil => exact hk _ h
  | cons e r ih =>
    unfold checkRights.go
    dsimp only
    split
    exacts [.ite (ih (.updCore h)) (.trap (.updCore h)), .afterOnce (.parkOn (.upd h))]

theorem State.Managed.checkRights {len l} {k : State → State} (hk : ∀ s, s.Managed mg → (k s).Managed mg) (h : s.Managed mg) : (checkRights len l k s).Managed mg :=
  .checkRights_go hk h

theorem State.Managed.checkLaneBell {va} {k : State → State} (hk : ∀ s, s.Managed mg → (k s).Managed mg) (h : s.Managed mg) : (checkLaneBell va k s).Managed mg :=
  .ite (.trap h) (hk _ h)

theorem State.Managed.checkBell {va align} {k : State → State} (hk : ∀ s, s.Managed mg → (k s).Managed mg) (h : s.Managed mg) : (checkBell va align k s).Managed mg :=
  .ite (hk _ h) (.ite (.trap h) (.ite (.trap h) (hk _ h)))

theorem State.Managed.postCopy {c} (h : s.Managed mg) : (postCopy c s).Managed mg := by
  unfold Machine.postCopy
  refine .ite (.parkOn h) (.ite (.parkOn h) ?_)
  extract_lets
  split
  · exact .loggable (fun _ _ h1 => .advance (.after (.upd (.updCore h1)))) h
  · exact .ite (.ordinal (fun _ _ h2 => .advance (.after (.upd (.updCore h2)))) h) (.advance (.after (.upd (.updCore h))))

theorem Manages.execCpy {sc q r t n} (h : s.Managed mg) : Manages mg (execCpy sc q r t n s) := by
  unfold Machine.execCpy
  refine .next (.issue ?_ h)
  intro _ h1
  refine .ite (.trap h1) (.ite (.trap h1) (.ite (.trap h1) (.checkLaneBell ?_ h1)))
  intro _ h2
  exact .checkLaneBell (fun _ h3 => .checkRights (fun _ h4 => .checkBell (fun _ h5 => .checkBell (fun _ h6 => .postCopy h6) h5) h4) h3) h2

theorem Manages.execCpyg {sc q r t n} (h : s.Managed mg) : Manages mg (execCpyg sc q r t n s) := by
  unfold Machine.execCpyg
  refine .next (.issue ?_ h)
  intro _ h1
  refine .ite (.trap h1) (.ite (.trap h1) (.ite (.trap h1) (.ite (.trap h1) (.ite (.trap h1) ?_))))
  refine .checkLaneBell ?_ h1
  intro _ h2
  refine .checkLaneBell ?_ h2
  exact fun _ h3 => .ite (.trap h3) (.checkRights (fun _ h4 => .checkBell (fun _ h5 => .checkBell (fun _ h6 => .postCopy h6) h5) h4) h3)

theorem Manages.execMcpost {sc q r t n} (h : s.Managed mg) : Manages mg (execMcpost sc q r t n s) := by
  unfold Machine.execMcpost
  refine .next (.issue ?_ h)
  intro _ h1
  refine .ite (.trap h1) (.ite (.trap h1) (.ite (.trap h1) (.ite (.trap h1) ?_)))
  split
  exacts [.trap h1, .checkBell (fun _ h2 => .checkBell (fun _ h3 => .postCopy h3) h2) h1]

/-! ## The roll unit (Machine/RollUnit) -/

theorem State.Managed.lowReplay {c} (h : s.Managed mg) : (s.lowReplay c).Managed mg := .ite (.rollEvent (.updRoll h)) h

theorem State.Managed.logTail {c v} (h : s.Managed mg) : (s.logTail c v).Managed mg := by
  unfold State.logTail
  refine .ite h (.ite ?_ ?_)
  · exact .afterOnce (.ite (.updRoll (.updRoll h)) (.lowReplay (.updRoll h)))
  · exact .ite (.wakeRoll (.updRoll (.ite (.updRoll h) (.afterOnce (.updRoll h))))) (.ite (.updRoll h) (.afterOnce (.updRoll h)))

/-! ## The matrix engine (Machine/Matrix) -/

theorem State.Managed.postTile {cmd ord} (h : s.Managed mg) : (postTile cmd ord s).Managed mg := .advance (.after (.upd (.updDie h)))

theorem State.Managed.tileRoom {k : State → State} (hk : ∀ s, s.Managed mg → (k s).Managed mg) (h : s.Managed mg) : (tileRoom k s).Managed mg :=
  .ite (.parkOn h) (.ite (.parkOn h) (hk _ h))

theorem State.Managed.tileOrdinal {c w0 w1} {k : Option Nat → State → State} (hk : ∀ x s, s.Managed mg → (k x s).Managed mg) (h : s.Managed mg) :
    (tileOrdinal c w0 w1 k s).Managed mg := by
  unfold Machine.tileOrdinal
  split
  · refine .loggable ?_ h
    intro _ _ h1
    refine .ite (hk _ _ h1) ?_
    extract_lets
    split
    exacts [.ite (.divergeAtIssue h) (.parkOn h), .ite (.divergeAtIssue h) (hk _ _ (.claim h1))]
  · exact .loggable hk h
  · exact .loggable hk h
  · exact .ite (.ordinal hk h) (hk _ _ h)

theorem Manages.execTqadd {a} (h : s.Managed mg) : Manages mg (execTqadd a s) := by
  unfold Machine.execTqadd
  refine .next (.issue ?_ h)
  intro _ h1
  refine .ite (.trap h1) (.checkAddr ?_ h1)
  exact fun _ _ h2 => .tileRoom (fun _ h3 => .ite (.parkOn h3) (.tileOrdinal (fun _ _ h4 => .postTile h4) (.shortWords (.eccRead h3)))) h2

theorem State.Managed.accMove {kind b a} (h : s.Managed mg) : (accMove kind b a s).Managed mg :=
  .issue (fun _ h1 => .ite (.trap h1) (.ite (.trap h1) (.ite (.trap h1) (.tileRoom (fun _ h2 => .ordinal (fun _ _ h3 => .postTile h3) h2) h1)))) h

/-! ## Reports (Machine/Reports) -/

theorem State.Managed.reportBus {len} {k : State → State} (hk : ∀ s, s.Managed mg → (k s).Managed mg) (h : s.Managed mg) : (reportBus len k s).Managed mg := by
  unfold Machine.reportBus
  split
  exacts [.trap (.upd h), hk _ h]

theorem State.Managed.reportStores {len} {k : State → State} (hk : ∀ s, s.Managed mg → (k s).Managed mg) (h : s.Managed mg) : (reportStores len k s).Managed mg := by
  unfold Machine.reportStores
  exact .reportBus (fun _ h1 => by split; exacts [.trap (.upd h1), hk _ h1]) h

theorem State.Managed.reportDiv {len} {k : State → State} (hk : ∀ s, s.Managed mg → (k s).Managed mg) (h : s.Managed mg) : (reportDiv len k s).Managed mg := by
  unfold Machine.reportDiv
  split
  exacts [.trap (.upd h), hk _ h]

theorem State.Managed.reportSib {len} {k : State → State} (hk : ∀ s, s.Managed mg → (k s).Managed mg) (h : s.Managed mg) : (reportSib len k s).Managed mg := by
  unfold Machine.reportSib
  split
  · exact .trap (.upd h)
  · split
    exacts [.trap (.upd h), hk _ h]

theorem State.Managed.reportNan {len} {k : State → State} (hk : ∀ s, s.Managed mg → (k s).Managed mg) (h : s.Managed mg) : (reportNan len k s).Managed mg := by
  unfold Machine.reportNan
  split
  exacts [.trap (.upd h), hk _ h]

theorem State.Managed.endWaitFor {len} {k : State → State} (hk : ∀ s, s.Managed mg → (k s).Managed mg) (h : s.Managed mg) : (endWaitFor len k s).Managed mg :=
  .ite (.parkOn h) (.reportBus hk h)

/-! ## The net (Machine/Net) -/

theorem State.Managed.inject {p} (h : s.Managed mg) : (s.inject p).Managed mg := .after h

/-! ## Roll call (Machine/RollCall) -/

theorem State.Managed.rollSend {op node dst cls exiting ord} (h : s.Managed mg) : (s.rollSend op node dst cls exiting ord).Managed mg := .after h

/-! ## Synchronisation (Machine/Sync) -/

theorem State.Managed.fenceProbes {scope} (h : s.Managed mg) : (fenceProbes scope s).Managed mg :=
  .foldl (.upd (.ite (.writeBackThread h) h)) (fun _ h1 _ => .after h1)

theorem State.Managed.relFence_go2 {scope} {k : State → State} (hk : ∀ s, s.Managed mg → (k s).Managed mg) (h : s.Managed mg) : (releaseFence.go2 scope k s).Managed mg :=
  .ite (.parkOn h) (.ite (.parkOn (.ite (.upd h) h)) (.reportStores (fun _ h1 => .reportDiv hk h1) (.ite (.upd h) h)))

theorem State.Managed.relFence {scope} {k : State → State} (hk : ∀ s, s.Managed mg → (k s).Managed mg) (h : s.Managed mg) : (Machine.releaseFence scope k s).Managed mg := by
  unfold Machine.releaseFence
  split
  exacts [.relFence_go2 hk (.fenceProbes h), .relFence_go2 hk h]

theorem State.Managed.acquireFence {scope} {k : State → State} (hk : ∀ s, s.Managed mg → (k s).Managed mg) (h : s.Managed mg) : (acquireFence scope k s).Managed mg :=
  .ite (.parkOn h) (hk _ (.ite (.dropSI h) h))

theorem State.Managed.checkObject {va} {k : Place → State → State} (hk : ∀ x s, s.Managed mg → (k x s).Managed mg) (h : s.Managed mg) : (checkObject va k s).Managed mg :=
  .ite (.trap h) (.checkAddr hk h)

theorem Manages.execBara {sc a d} (h : s.Managed mg) : Manages mg (execBara sc a d s) := by
  unfold Machine.execBara
  refine .next (.issue ?_ h)
  intro _ h1
  refine .checkObject ?_ h1
  exact fun _ _ h2 => .memIssue (fun _ h3 => .ite (.shortAccess (fun _ _ _ h4 => .done (.arrive (.noteWrite h4))) h3) (.postAccess h3)) h2

theorem State.Managed.waitGen {op gop sc va} {fin : Place → State → State} (hfin : ∀ x s, s.Managed mg → (fin x s).Managed mg) (h : s.Managed mg) :
    (waitGen op gop sc va fin s).Managed mg := by
  unfold Machine.waitGen
  refine .checkObject ?_ h
  intro _ _ h1
  split
  · exact .parkOn h1
  · exact hfin _ _ h1
  · exact .trap h1
  · refine .memIssue ?_ h1
    exact fun _ h2 => .ite (.shortAccess (fun _ _ _ h3 => hfin _ _ (.served h3)) h2) (.loggable (fun _ _ h4 => .upd (.post h4)) h2)

theorem Manages.execBelladd {sc b a} (h : s.Managed mg) : Manages mg (execBelladd sc b a s) := by
  unfold Machine.execBelladd
  refine .next (.issue ?_ h)
  intro _ h1
  refine .checkObject ?_ h1
  exact fun _ _ h2 => .memIssue (fun _ h3 => .ite (.shortAccess (fun _ _ _ h4 => .advance (.credit (.noteWrite h4))) h3) (.postAccess h3)) h2

theorem Manages.execBellwait {sc b a} (h : s.Managed mg) : Manages mg (execBellwait sc b a s) := by
  unfold Machine.execBellwait
  refine .next (.issue ?_ h)
  intro _ h1
  refine .checkObject ?_ h1
  intro _ _ h2
  refine .ite (.advance (.upd h2)) (.ite (.reportNan (fun _ h3 => .advance h3) h2) ?_)
  exact .waitGen (fun _ _ h4 => .ite (.reportNan (fun _ h5 => .advance h5) (.upd h4)) (.advance h4)) h2

theorem Manages.execWaitk {t c sl l} (h : s.Managed mg) : Manages mg (execWaitk t c sl l s) := by
  unfold Machine.execWaitk
  refine .next (.issue ?_ h)
  intro _ h1
  refine .ite (.parkOn h1) (.ite ?_ ?_)
  · refine .reportStores ?_ (.ite (.dropSI h1) h1)
    intro _ h2
    refine .reportSib ?_ h2
    exact fun _ h3 => .ite (.reportNan (fun _ h4 => .reportDiv (fun _ h5 => .advance h5) h4) h3) (.reportDiv (fun _ h6 => .advance h6) h3)
  · refine .reportSib ?_ (.ite (.dropSI h1) h1)
    intro _ h7
    exact .ite (.reportNan (fun _ h8 => .reportDiv (fun _ h9 => .advance h9) h8) h7) (.reportDiv (fun _ h10 => .advance h10) h7)

/-! ## Messages (Machine/Message) -/

theorem State.Managed.openReq {op va core cls dst rel ord val} (h : s.Managed mg) : (s.openReq op va core cls dst rel ord val).Managed mg := .upd h

theorem Manages.execSend {r n b a p} (h : s.Managed mg) : Manages mg (execSend r n b a p s) := by
  unfold Machine.execSend
  refine .next (.issue ?_ h)
  intro _ h1
  extract_lets
  split
  · exact .trap h1
  · refine .ite (.trap h1) (.ite (.trap h1) ?_)
    exact .ite (.trap h1) (.memIssue (fun _ h2 => .loggable (fun _ _ h3 => .advance (.inject (.openReq (.ite (.nextFree h3) h3)))) h2) h1)

theorem State.Managed.rfillOf {cls src a d} (h : s.Managed mg) : (rfillOf cls src a d s).Managed mg := by
  unfold Machine.rfillOf
  refine .issue ?_ h
  intro _ h1
  extract_lets
  split
  exacts [.trap h1, .memIssue (fun _ h2 => .loggable (fun _ _ h3 => .advance (.inject (.openReq (.ite (.nextFree h3) h3)))) h2) h1]

theorem Manages.execLturn {b a d} (h : s.Managed mg) : Manages mg (execLturn b a d s) := by
  unfold Machine.execLturn
  refine .next (.issue ?_ h)
  intro _ h1
  exact .ite (.trap h1) (.ite (.trap h1) (.memIssue (fun _ h2 => .loggable (fun _ _ h3 => .advance (.after (.openReq h3))) h2) h1))

/-! ## System instructions (Machine/System) -/

theorem State.Managed.ctxCsrWrite_compare {c v i} (h : s.Managed mg) : (State.ctxCsrWrite.compare s c v i).Managed mg := .updCtx h

theorem State.Managed.ctxCsrWrite {c n v} (h : s.Managed mg) : (s.ctxCsrWrite c n v).Managed mg := by
  unfold State.ctxCsrWrite
  extract_lets
  split
  · exact .updCtx h
  · exact .updCtx h
  · exact .ctxCsrWrite_compare h
  · exact .ctxCsrWrite_compare h
  · exact .ctxCsrWrite_compare h
  · exact .ctxCsrWrite_compare h
  · exact .ite h (.updCtx h)
  · exact .ite h (.updCtx h)
  · exact .logTail h
  · exact h

theorem Manages.execWrs {c g} (h : s.Managed mg) : Manages mg (execWrs c g s) := by
  unfold Machine.execWrs
  refine .next ?_
  split
  exacts [.priv h, .issue (fun _ h1 => .advance (.ite (.ctxCsrWrite h1) (.upd h1))) h]

theorem Manages.execLogmark {a} (h : s.Managed mg) : Manages mg (execLogmark a s) := by
  unfold Machine.execLogmark
  refine .next (.issue ?_ h)
  intro _ h1
  extract_lets
  split
  exacts [.ite (.divergeAtIssue h1) (.loggable (fun _ _ h2 => .advance (.unqueue h2)) h1), .loggable (fun _ _ h3 => .advance (.note h3)) h1]

theorem Manages.execEvsig {b a} (h : s.Managed mg) : Manages mg (execEvsig b a s) := by
  unfold Machine.execEvsig
  refine .next (.issue ?_ h)
  intro _ h1
  extract_lets ga gb driver target
  clear_value target
  split
  exacts [.trap h1, .ite (.trap h1) (.memIssue (fun _ h2 => .ordinal (fun _ _ h3 => .advance (.after (.openReq h3))) h2) h1)]

/-! ## Control (Machine/Control) -/

theorem State.Managed.goTo {t len} (h : s.Managed mg) : (goTo t len s).Managed mg := .checkTarget (fun _ h1 => .transfer h1) h
theorem State.Managed.branch {cond i b a} (h : s.Managed mg) : (branch cond i b a s).Managed mg := .issue (fun _ h1 => .ite (.goTo h1) (.advance h1)) h
theorem State.Managed.branchState {p i a} (h : s.Managed mg) : (branchState p i a s).Managed mg := .issue (fun _ h1 => .ite (.goTo h1) (.advance h1)) h
theorem State.Managed.branch16 {p i d} (h : s.Managed mg) : (branch16 p i d s).Managed mg := .issue (fun _ h1 => .ite (.goTo h1) (.advance h1)) h
theorem State.Managed.callTo {t} {n : Nat} {d : BitVec n} (h : s.Managed mg) : (callTo t d s).Managed mg := .checkTarget (fun _ h1 => .transfer (.upd h1)) h

theorem Manages.execLoop {i a} (h : s.Managed mg) : Manages mg (execLoop i a s) := by
  unfold Machine.execLoop
  refine .next (.issue ?_ h)
  intro _ h1
  refine .ite (.illegal h1) ?_
  split
  · next body s1 h2 => exact .ite (.upd (.of_pair h2 (.capture h1))) (.illegal (.of_pair h2 (.capture h1)))
  · next c info _ s1 h3 => exact .trap (.of_pair h3 (.capture h1))
  · next _ s1 h4 => exact .of_pair h4 (.capture h1)

/-! ## Integers (Machine/Integer) -/

theorem State.Managed.divide {f b a d} (h : s.Managed mg) : (divide f b a d s).Managed mg := .issue (fun _ h1 => .advance (.after (.upd h1))) h

/-! ## Memory (Machine/Memory) -/

theorem State.Managed.syncForm_postPart {r} (h : s.Managed mg) : (syncForm.postPart r s).Managed mg := by
  unfold syncForm.postPart
  split
  exacts [.loggable (fun _ _ h1 => .upd (.post h1)) h, .upd (.post h)]

theorem State.Managed.syncForm {op store need a d} (h : s.Managed mg) : (Machine.syncForm op store need a d s).Managed mg := by
  unfold Machine.syncForm
  refine .issue ?_ h
  intro _ h1
  extract_lets va o cls
  split
  · exact .parkOn h1
  · exact .advance h1
  · exact .advance (.upd h1)
  · refine .checkAddr ?_ h1
    intro p _ h2
    refine .ite (.memIssue (fun _ h3 => .postAccess h3) h2) (.memIssue ?_ h2)
    refine fun _ h4 => .ite (.shortAccess ?_ h4) (.syncForm_postPart h4)
    intro _ _ _ h5
    extract_lets s1 s2
    have hs1 : s1.Managed mg := .ite (.served h5) (.eccRead (.served h5))
    clear_value s1
    refine .ite (.done hs1) ?_
    clear_value o
    cases o
    case stf => exact .advance (.bankWrite (.noteWrite hs1))
    case ldtk => exact .serveWord (.done (.breakResv (.setEmpty hs1)))
    all_goals exact .done hs1

theorem State.Managed.reserve {acq a d} (h : s.Managed mg) : (Machine.reserve acq a d s).Managed mg := by
  unfold Machine.reserve
  refine .issue ?_ h
  intro _ h1
  refine .checkAddr ?_ h1
  intro _ _ h2
  refine .memIssue ?_ h2
  intro _ h3
  exact .ite (.shortAccess (fun _ _ _ h4 => .ite (.done (.eccRead (.served h4))) (.done (.eccRead (.served h4)))) h3) (.postAccess h3)

theorem State.Managed.condition {rel b a d} (h : s.Managed mg) : (condition rel b a d s).Managed mg := by
  unfold Machine.condition
  refine .issue ?_ h
  intro _ h1
  refine .checkAddr ?_ h1
  intro _ _ h2
  refine .memIssue ?_ h2
  intro _ h3
  refine .ite ?_ (.postAccess h3)
  exact .shortAccess (fun _ _ _ h4 => .ite (.done (.bankWrite (.noteWrite (.served (.upd h4))))) (.done (.served (.upd h4)))) h3

theorem State.Managed.cacheOp {keep a} (h : s.Managed mg) : (cacheOp keep a s).Managed mg := by
  unfold Machine.cacheOp
  exact .issue (fun _ h1 => .checkAddr (fun _ _ h2 => by split; exacts [.memIssue (fun _ h3 => .postAccess h3) h2, .advance h2]) h1) h

theorem Manages.execCwball (h : s.Managed mg) : Manages mg (execCwball s) := by
  unfold Machine.execCwball
  refine .next ?_
  exact .issue (fun _ h1 => by split; exacts [.advance h1, .memIssue (fun _ h2 => .postAccess h2) h1]) h

/-! ## Scalar floating point (Machine/ScalarFp) -/

theorem State.Managed.fp3 {f p b a d} (h : s.Managed mg) : (fp3 f p b a d s).Managed mg := .issue (fun _ h1 => .fpResult h1) h
theorem State.Managed.fp2 {f a d} (h : s.Managed mg) : (fp2 f a d s).Managed mg := .issue (fun _ h1 => .fpResult h1) h

/-! ## Tasks (Machine/Task) -/

theorem State.Managed.dequeRestart {c} (h : s.Managed mg) : (s.dequeRestart c).Managed mg := .request (.parkOn h)
theorem State.Managed.push {e} (h : s.Managed mg) : (s.push e).Managed mg := .coreWork (.updCore h)

theorem Manages.execSpawn {i} (h : s.Managed mg) : Manages mg (execSpawn i s) := by
  unfold Machine.execSpawn
  refine .next (.issue ?_ h)
  intro _ h1
  extract_lets
  split
  · exact .push (.transfer (.upd h1))
  · exact .parkOn h1
  · exact .ite (.parkOn h1) (.trap h1)
  · refine .ite (.dequeRestart h1) (.checkTarget ?_ h1)
    intro _ h2
    refine .checkAddr ?_ h2
    exact fun _ _ h3 => .checkAddr (fun _ _ h4 => .memIssue (fun _ h5 => .ordinal (fun _ _ h6 => .upd (.post (.post h6))) h5) h4) h3

theorem Manages.execJoin (h : s.Managed mg) : Manages mg (execJoin s) := by
  unfold Machine.execJoin
  refine .next (.issue ?_ h)
  intro _ h1
  extract_lets
  split
  · exact .advance h1
  · exact .trap h1
  · exact .parkOn h1
  · exact .checkAddr (fun _ _ h2 => .memIssue (fun _ h3 => .loggable (fun _ _ h4 => .upd (.post h4)) h3) h2) h1

theorem State.Managed.exitDeque_resume {e} (h : s.Managed mg) : (exitDeque.resume s e).Managed mg :=
  .ite (.afterOnce (.upd (.startEntry (.updCore (.noteTake h))))) (.upd (.startEntry (.updCore (.noteTake h))))

theorem State.Managed.exitDeque {searched} (h : s.Managed mg) : (exitDeque s searched).Managed mg := by
  unfold Machine.exitDeque
  extract_lets
  split
  · split
    exacts [.parkOn h, .exitDeque_resume h, .ite (.exitDeque_resume (.unqueue h)) (.retire h)]
  · exact .ite (.request (.upd h)) (.retire h)

theorem State.Managed.exitLink (h : s.Managed mg) : (exitLink s).Managed mg :=
  .ite (.exitDeque h) (.checkAddr (fun _ _ h1 => .memIssue (fun _ h2 => .ordinal (fun _ _ h3 => .upd (.post h3)) h2) h1) h)

theorem State.Managed.exitLeave {node} (h : s.Managed mg) : (exitLeave node s).Managed mg := .loggable (fun _ _ h1 => .upd (.rollSend h1)) h

theorem State.Managed.exitRule (h : s.Managed mg) : (exitRule s).Managed mg := by
  unfold Machine.exitRule
  split
  · exact .parkOn h
  · exact .trap h
  · exact .exitLink h
  · exact .exitDeque h
  · exact .exitDeque h
  · exact .endWaitFor (fun _ h1 => by split; exacts [.exitLeave h1, .exitLink h1]) h

theorem State.Managed.expectReg {r} (h : s.Managed mg) : (expectReg r s).Managed mg := .issue (fun _ h1 => .done h1) h

/-! ## Vectors (Machine/Vector) -/

theorem State.Managed.vecOp {legal srcs f k z d} (h : s.Managed mg) : (vecOp legal srcs f k z d s).Managed mg := .issue (fun _ h1 => .done h1) h
theorem State.Managed.vec3 {f b a k z d} (h : s.Managed mg) : (vec3 f b a k z d s).Managed mg := .vecOp h
theorem State.Managed.vec3s {f g a k z d} (h : s.Managed mg) : (vec3s f g a k z d s).Managed mg := .vecOp h
theorem State.Managed.vec2 {f a k z d} (h : s.Managed mg) : (vec2 f a k z d s).Managed mg := .vecOp h
theorem State.Managed.vec4 {f b a k z d} (h : s.Managed mg) : (vec4 f b a k z d s).Managed mg := .vecOp h
theorem State.Managed.vec4s {f g a k z d} (h : s.Managed mg) : (vec4s f g a k z d s).Managed mg := .vecOp h
theorem State.Managed.compare {srcs f c k z d} (h : s.Managed mg) : (compare srcs f c k z d s).Managed mg := .issue (fun _ h1 => .done h1) h

theorem State.Managed.checkLanes {g need l} {k : State → State} (hk : ∀ s, s.Managed mg → (k s).Managed mg) (h : s.Managed mg) : (checkLanes g need l k s).Managed mg := by
  induction l generalizing s with
  | nil => exact hk _ h
  | cons e r ih => exact .ite (.trap h) (.checkAddr (fun _ _ h1 => ih h1) h)

theorem State.Managed.postLanes {r gather} (h : s.Managed mg) : (postLanes r gather s).Managed mg := .memIssue (fun _ h1 => .advance (.postWords h1)) h

theorem State.Managed.vecLoad {q gather srcs f g k z d} (h : s.Managed mg) : (vecLoad q gather srcs f g k z d s).Managed mg := by
  unfold Machine.vecLoad
  refine .issue ?_ h
  intro _ h1
  extract_lets keep l vas
  clear_value l
  split
  · exact .done h1
  · refine .checkLanes ?_ h1
    refine fun _ h2 => .ite (.memIssue ?_ h2) (.postLanes h2)
    intro _ h3
    split
    · next e => exact .done (.of_pair e (.readShort (.shortWords h3)))
    · next e => exact .done (.of_pair e (.readShort (.shortWords h3)))

theorem State.Managed.vecStore {q gather srcs f g k z d} (h : s.Managed mg) : (vecStore q gather srcs f g k z d s).Managed mg := by
  unfold Machine.vecStore
  refine .issue ?_ h
  intro _ h1
  extract_lets l vas data
  clear_value l
  split
  · exact .advance h1
  · exact .checkLanes (fun _ h2 => .ite (.memIssue (fun _ h3 => .advance (.writeShort (.shortWords h3))) h2) (.postLanes h2)) h1

theorem State.Managed.checkSlices {g l} {k : State → State} (hk : ∀ s, s.Managed mg → (k s).Managed mg) (h : s.Managed mg) : (checkSlices g l k s).Managed mg := by
  unfold Machine.checkSlices
  refine .ite (.trap h) ?_
  split
  exacts [.ite (.trap h) (.trap h), hk _ h]

theorem State.Managed.sliceLoad {srcs f g k z d} (h : s.Managed mg) : (sliceLoad srcs f g k z d s).Managed mg := by
  unfold Machine.sliceLoad
  refine .issue ?_ h
  intro _ h1
  refine .checkSlices ?_ h1
  intro _ h2
  extract_lets
  split <;> exact .done (.foldl h2 (fun _ h3 _ => .eccRead h3))

theorem State.Managed.sliceStore {srcs f g k z d} (h : s.Managed mg) : (sliceStore srcs f g k z d s).Managed mg :=
  .issue (fun _ h1 => .checkSlices (fun _ h2 => .advance (.foldl h2 (fun _ h3 _ => .putBytes h3))) h1) h

theorem State.Managed.vecReduce {op ident signed g a k} (h : s.Managed mg) : (vecReduce op ident signed g a k s).Managed mg := .issue (fun _ h1 => .done h1) h
theorem State.Managed.maskOp {f srcs d} (h : s.Managed mg) : (maskOp f srcs d s).Managed mg := .issue (fun _ h1 => .done h1) h

theorem State.Managed.decodeBlock {ints g a k z d} (h : s.Managed mg) : (decodeBlock ints g a k z d s).Managed mg := by
  unfold Machine.decodeBlock
  refine .issue ?_ h
  intro _ h1
  refine .checkLanes ?_ h1
  intro _ h2
  refine .ite (.memIssue ?_ h2) (.postLanes h2)
  intro _ h3
  split
  · next e s1 h4 => exact .done (.of_pair h4 (.readShort (.shortWords h3)))
  · next bs s1 h5 => exact .done (.of_pair h5 (.readShort (.shortWords h3)))

/-! ## Traversal (Machine/Traversal) -/

theorem State.Managed.setOp {f srcs d} (h : s.Managed mg) : (setOp f srcs d s).Managed mg := .issue (fun _ h1 => .done h1) h
theorem State.Managed.setGet {f srcs d} (h : s.Managed mg) : (setGet f srcs d s).Managed mg := .issue (fun _ h1 => .done h1) h

theorem State.Managed.checkImage {va need} {k : Place → State → State} (hk : ∀ x s, s.Managed mg → (k x s).Managed mg) (h : s.Managed mg) : (checkImage va need k s).Managed mg :=
  .checkAddr (fun _ _ h1 => .checkAddr (fun _ _ h2 => hk _ _ h2) h1) h

theorem Manages.execMld {a d} (h : s.Managed mg) : Manages mg (execMld a d s) := by
  unfold Machine.execMld
  refine .next (.issue ?_ h)
  intro _ h1
  refine .checkImage ?_ h1
  intro _ _ h2
  refine .ite (.memIssue ?_ h2) (.postLanes h2)
  intro _ h3
  split
  · next e s1 h4 => exact .done (.of_pair h4 (.readShort (.shortWords h3)))
  · next bs s1 h5 => exact .done (.of_pair h5 (.readShort (.shortWords h3)))

theorem Manages.execMst {b a} (h : s.Managed mg) : Manages mg (execMst b a s) := by
  unfold Machine.execMst
  refine .next (.issue ?_ h)
  exact fun _ h1 => .checkImage (fun _ _ h2 => .ite (.memIssue (fun _ h3 => .advance (.writeShort (.shortWords h3))) h2) (.postLanes h2)) h1

theorem Manages.execLeave {a} (h : s.Managed mg) : Manages mg (execLeave a s) := by
  unfold Machine.execLeave
  refine .next (.issue ?_ h)
  intro _ h1
  split
  · split
    exacts [.ite (.loggable (fun _ _ h2 => .upd (.rollSend h2)) h1) (.illegal h1), .illegal h1]
  · exact .endWaitFor (fun _ h3 => .exitLink h3) h1
  · exact .exitRule h1

theorem State.Managed.splitInto {slot e} (h : s.Managed mg) : (s.splitInto slot e).Managed mg := .updThread (.startEntry h)

theorem State.Managed.splitPlace {mk} {k : State → State} (hk : ∀ s, s.Managed mg → (k s).Managed mg) (h : s.Managed mg) : (splitPlace mk k s).Managed mg := by
  unfold Machine.splitPlace
  refine .ite (.dequeRestart h) (.loggable ?_ h)
  intro _ _ h1
  extract_lets
  split
  exacts [.splitInto (hk _ (.note h1)), .push (hk _ (.note h1))]

theorem State.Managed.splitReplay {mk} {k : State → State} (hk : ∀ s, s.Managed mg → (k s).Managed mg) (h : s.Managed mg) : (splitReplay mk k s).Managed mg := by
  unfold Machine.splitReplay
  refine .ite (.dequeRestart h) (.loggable ?_ h)
  intro _ _ h1
  split
  exacts [.ite (.push (hk _ (.unqueue h1))) (.ite (.splitInto (hk _ (.unqueue h1))) (.updCore (hk _ (.unqueue h1)))), .parkOn h]

theorem Manages.execSplit {r q i} (h : s.Managed mg) : Manages mg (execSplit r q i s) := by
  unfold Machine.execSplit
  refine .next (.issue ?_ h)
  intro _ h1
  refine .checkTarget ?_ h1
  intro _ h2
  refine .ite (.advance h2) ?_
  split
  exacts [.parkOn h2, .ite (.splitReplay (fun _ h3 => .done h3) h2) (.splitPlace (fun _ h4 => .done h4) h2)]

theorem State.Managed.checkRecords {w width} {k : Word → State → State} (hk : ∀ x s, s.Managed mg → (k x s).Managed mg) (h : s.Managed mg) : (checkRecords w width k s).Managed mg :=
  .ite (.trap h) (.ite (.trap h) (.ite (.trap h) (.ite (.trap h) (.ite (.trap h) (.ite (.trap h) (hk _ _ h))))))

theorem State.Managed.queryField {w a n} {k : Place → Word → State → State} (hk : ∀ x x1 s, s.Managed mg → (k x x1 s).Managed mg) (h : s.Managed mg) :
    (queryField w a n k s).Managed mg := by
  unfold Machine.queryField
  exact .ite (.trap h) (.checkRecords (fun _ _ h1 => .ite (.trap h1) (by split; exacts [hk _ _ _ h1, .trap h1])) h)

theorem State.Managed.queryLoad {n w a d} (h : s.Managed mg) : (queryLoad n w a d s).Managed mg := .issue (fun _ h1 => .queryField (fun _ _ _ h2 => .loadAt h2) h1) h

theorem State.Managed.queryStore {n b a w} (h : s.Managed mg) : (queryStore n b a w s).Managed mg :=
  .issue (fun _ h1 => .queryField (fun _ _ _ h2 => .storeAt h2) h1) h

theorem Manages.execQeval {c b a d w} (h : s.Managed mg) : Manages mg (execQeval c b a d w s) := by
  unfold Machine.execQeval
  refine .next (.issue ?_ h)
  intro _ h1
  refine .checkRecords ?_ h1
  intro _ _ h2
  extract_lets
  split
  exacts [.trap h2, .memIssue (fun _ h3 => .advance (.postWords (.updCore h3))) h2]

/-! ## Versioned words (Machine/Versioned) -/

theorem State.Managed.checkGlobal {va size need} {k : Place → State → State} (hk : ∀ x s, s.Managed mg → (k x s).Managed mg) (h : s.Managed mg) :
    (checkGlobal va size need k s).Managed mg :=
  .ite (.trap h) (.checkAddr hk h)

theorem State.Managed.verPost {op va p dst k ctx} (h : s.Managed mg) : (verPost op va p dst k ctx s).Managed mg := .memIssue (fun _ h1 => .postAccess h1) h
theorem State.Managed.recon {op k a d} (h : s.Managed mg) : (recon op k a d s).Managed mg := .issue (fun _ h1 => .checkGlobal (fun _ _ h2 => .verPost h2) h1) h

theorem State.Managed.reduce {wide b a} (h : s.Managed mg) : (reduce wide b a s).Managed mg :=
  .issue (fun _ h1 => .checkGlobal (fun _ _ h2 => .memIssue (fun _ h3 => .postAccess h3) h2) h1) h

/-! ## The dispatch and the step -/

/-- Every arm of a program instruction keeps the fields. -/
theorem Manages.exec (h : s.Managed mg) (i : Instr) (hs : 0 < i.size) : Manages mg (exec i s) := by
  cases i with
  | lentCycle | fillLands | errorResponse | storeAck | dividerFill | faultNotice | faultWakeRejoin | dequeTake | stealAttempt | stealRequest | stealReply
    | dequeRefill | resourceRequest | resourceRestart | messageArrival | handlerStart | rfillArrival | evsigDelivery | bankAccess | homeAccess
    | barrierArrival | partialEviction | bellUpdate | waitBellNotice | fenceProbe | fenceEcho | atomicIntervalEnd | plbRefill | copyAccept | copyStart
    | copyShare | copyComplete | mcpostDelivery | ttsetServe | taskAccept | taskDispatch | kStep | taskDrain | taskComplete | accumulatorMoveRun
    | engineSelfTest | rollCallArrival | rollCallLeave | packetHop | outputAging | packetDelivery | turnRequest | turnBoundary | groupTurnDone
    | notifyStore | headerPoll | dispatchOpportunity | queueAging | launch | launchStart | launchStateArrival | launchComplete | waitsig | nopPacket
    | setdet | setdetComplete | csrw | qcreate | qdestroy | resize | abort | reservedPacketType | eventRetry | faultRetry | fqtailWrite | nqtailWrite
    | novfWrite | eqtailWrite | eltailWrite | wake | ndone | inval | invalidationDone | managementWrite | preemptSave | preemptResume | pestatRead
    | rmdata | remapInstallDone | meshInterrupt | coreStop | quiesceDone | imageWritten | engineSectionRestore | spillRedelivery | resumeDone | coreGate
    | coreWake | rollRecordWrite | logtailWrite | rollRecordTake | hostAccess | hostAtomic | sysatomCasLoop | reductionContribution | timestampCorrection
    | ethernetTransmit | ethernetReceive | moduleReset | clockLock | resetStepDone | fwgo | firmwareReady | firmwareFault | scrubRead | illegalEncoding
    | proctorProxyComplete | overflowMemoryGrant | linkGroupFence => exact absurd hs (Nat.lt_irrefl 0)
  | mv | qdeq | cvclr | vext | vcomp | vpack | rds => exact .next (.issue (fun _ h1 => .done h1) h)
  | li | liu | addpc | lic | licn | qslot | qlink | krd | kpopc | kfirst | rdts => exact .next (.setImm h)
  | addC16 | subC16 | andC16 | orC16 | xorC16 | shlC16 | shrC16 | sarC16 | mulC16 | minC16 | maxC16 | sltC16 => exact .next (.c16Reg h)
  | addiC16 | subi | andiC16 | oriC16 | xoriC16 | shliC16 | shriC16 | sariC16 | muliC16 | mini | maxi | sltiC16 => exact .next (.c16Imm h)
  | lddC16 | lddG2C16 => exact .next (.c16Load h)
  | stdC16 | stdG2C16 => exact .next (.c16Store h)
  | bez | bnz => exact .next (.branch16 h)
  | brkC16 | trap | brk => exact .next (.issue (fun _ h1 => .trap h1) h)
  | add | sub | and | or | xor | shl | shr | sar | mul | min | max | minu | maxu | slt | sltu | seq | sne | addw | subw | rol | ror | andn
  | mulh | mulhu | mulhsu | wing => exact .next (.alu3 h)
  | clz | ctz | popc | brev | bswap | sextb | sexth | sextw | zextw | lico => exact .next (.alu2 h)
  | div | divu | rem | remu => exact .next (.divide h)
  | addi | andi | ori | xori | muli | shli | shri | sari | rori | seqi | snei | slti | sgei | sltui | sgeui => exact .next (.aluImm h)
  | beq | bne | blt | bge | bltu | bgeu => exact .next (.branch h)
  | bfull | bvoid => exact .next (.branchState h)
  | j => exact .next (.issue (fun _ h1 => .goTo h1) h)
  | jal | jalr => exact .next (.issue (fun _ h1 => .callTo h1) h)
  | loop => exact .execLoop h
  | spawn => exact .execSpawn h
  | join => exact .execJoin h
  | exit => exact .next (.issue (fun _ h1 => .exitRule h1) h)
  | expect | expectm | expectv | expectc => exact .next (.expectReg h)
  | fadd | fsub | fmul | fdiv | fmin | fmax | fsgnj | fsgnjn | fsgnjx | feq | flt | fle => exact .next (.fp3 h)
  | fsqrt | fclass | fcvtSD | fcvtDS | fcvtSL | fcvtSLu | fcvtDL | fcvtDLu | fcvtLS | fcvtLuS | fcvtLD | fcvtLuD | fcvtWS | fcvtWD | fcvtHS
  | fcvtSH | fcvtBS | fcvtSB => exact .next (.fp2 h)
  | fma => exact .next (.issue (fun _ h1 => .fpResult h1) h)
  | ldb | ldbu | ldh | ldhu | ldw | ldwu | ldd => exact .next (.fmLoad h)
  | stb | sth | stw | std => exact .next (.fmStore h)
  | ldbx | ldbux | ldhx | ldhux | ldwx | ldwux | lddx => exact .next (.ixLoad h)
  | stbx | sthx | stwx | stdx => exact .next (.ixStore h)
  | ldwo | lddo => exact .next (.scLoad h)
  | stwo | stdo => exact .next (.scStore h)
  | ldf | ldtk | stf => exact .next (.syncForm h)
  | lres | lresAcq => exact .next (.reserve h)
  | scond | scondRel => exact .next (.condition h)
  | cflush | cwb => exact .next (.cacheOp h)
  | cwball => exact .execCwball h
  | amoadd | amoand | amoor | amoxor | amomin | amomax | amominu | amomaxu | amoswap | amocas => exact .next (.atomic h)
  | famoadd | famomin | famomax => exact .next (.atomicF h)
  | ldv | ldvv | stv | reconValue => exact .next (.issue (fun _ h1 => .checkGlobal (fun _ _ h2 => .verPost h2) h1) h)
  | reconMin | reconMax | reconAdd | reconOr | reconAnd | reconLowest | reconHighest => exact .next (.recon h)
  | redW | redD => exact .next (.reduce h)
  | fence => exact .next (.issue (fun _ h1 => .relFence (fun _ h2 => .acquireFence (fun _ h3 => .advance h3) h2) h1) h)
  | fenceAcq => exact .next (.issue (fun _ h1 => .acquireFence (fun _ h2 => .reportDiv (fun _ h3 => .advance h3) h2) h1) h)
  | fenceRel => exact .next (.issue (fun _ h1 => .relFence (fun _ h2 => .advance h2) h1) h)
  | bara => exact .execBara h
  | barw => exact .next (.issue (fun _ h1 => .waitGen (fun _ _ h2 => .advance h2) h1) h)
  | belladd => exact .execBelladd h
  | bellwait => exact .execBellwait h
  | waitres => exact .next (.issue (fun _ h1 => .ite (.parkOn h1) (.advance h1)) h)
  | waitk => exact .execWaitk h
  | vadd | vsub | vmul | vmulh | vmulhu | vmin | vmax | vminu | vmaxu | vand | vor | vxor | vandn | vshl | vshr | vsar | vaddsat | vsubsat
  | vfadd | vfsub | vfmul | vfmin | vfmax => exact .next (.vec3 h)
  | vabs | vmov | vfabs | vfneg | vcvtfi | vcvtif | vcvtuf | vcvtfu => exact .next (.vec2 h)
  | vadds | vsubs | vmuls | vmulhs | vmulhus | vmins | vmaxs | vminus | vmaxus | vands | vors | vxors | vandns | vshls | vshrs | vsars
  | vaddsats | vsubsats | vfadds | vfsubs | vfmuls | vfmins | vfmaxs | vwing => exact .next (.vec3s h)
  | vfma | vfms | vfnma | vfnms | vmad | vdot4i8 => exact .next (.vec4 h)
  | vfmas | vfmss | vfnmas | vfnmss | vmads | vdot4i8s => exact .next (.vec4s h)
  | vcmp | vcmps => exact .next (.compare h)
  | vld | vgath => exact .next (.vecLoad h)
  | vst | vscat => exact .next (.vecStore h)
  | vlds | vldsx => exact .next (.sliceLoad h)
  | vsts | vstsx => exact .next (.sliceStore h)
  | vredadd | vredmin | vredmax | vredminu | vredmaxu | vredor | vredand | vredfadd | vredfmin | vredfmax => exact .next (.vecReduce h)
  | vbcast | vperm | vrotl | viota | vunpk => exact .next (.vecOp h)
  | kand | kor | kxor | kandn | knot | kmovg => exact .next (.maskOp h)
  | vcbd | vcbdi => exact .next (.decodeBlock h)
  | mand | mor | mxor | mandn | mnot | mmov | mclr | mfill | mbset | mbclr | mputw => exact .next (.setOp h)
  | mbtst | mpopc | mfirst | mnext | mgetw => exact .next (.setGet h)
  | mld => exact .execMld h
  | mst => exact .execMst h
  | stand =>
    exact .next (.issue (fun _ h1 => .ite (.trap h1) (.ite (.trap h1) (.ite (.parkOn h1) (.loggable (fun _ _ h2 => .done (.rollSend h2)) h1)))) h)
  | leave => exact .execLeave h
  | split => exact .execSplit h
  | qld | qldd => exact .next (.queryLoad h)
  | qst | qstd => exact .next (.queryStore h)
  | qeval => exact .execQeval h
  | cpy => exact .execCpy h
  | cpyg => exact .execCpyg h
  | mcpost => exact .execMcpost h
  | ttset =>
    exact .next (.issue (fun _ h1 => .ite (.trap h1) (.checkAddr (fun _ _ h2 => .memIssue (fun _ h3 => .advance (.after (.touch (.upd h3)))) h2) h1)) h)
  | tqadd => exact .execTqadd h
  | accsv | accsvk | accld => exact .next (.accMove h)
  | send => exact .execSend h
  | amret => exact .next (.issue (fun _ h1 => .endWaitFor (fun _ h2 => .retire h2) h1) h)
  | rfill | rfillm | rfillv | rfillc => exact .next (.rfillOf h)
  | lturn => exact .execLturn h
  | wrs => exact .execWrs h
  | logmark => exact .execLogmark h
  | rtt => exact .next (.issue (fun _ h1 => .ite (.priv h1) (.checkTarget (fun _ h2 => .upd h2) h1)) h)
  | icinv => exact .next (.issue (fun _ h1 => .ite (.parkOn h1) (.advance (.updCore h1))) h)
  | plbinv => exact .next (.issue (fun _ h1 => .advance (.updCore h1)) h)
  | halt => exact .next (.issue (fun _ h1 => .ite (.advance (.dropSI (.upd h1))) (.parkOn h1)) h)
  | evsig => exact .execEvsig h

end
end Sys2Proof.Machine
end

section
open Sys2Proof Sys2Proof.Machine

/-- Settles O59: each management field is one that no function of an instruction's meaning writes. -/
theorem programsLeaveManagement : Obligations.ProgramsLeaveManagement := by
  intro i s t hs he
  have h := Manages.exec (s := s) rfl i hs t he
  unfold State.Managed State.management at h
  simpa only [Management.mk.injEq] using h
end

section
/-!
O31, first part: an access of several words that leaves its core, its words, and the checks of the active lanes (R36, R190, R198, R199).
-/

namespace Sys2Proof.Machine

/-! ## An access of several words that leaves -/

/-- Banks touched by the issuing thread. -/
def State.touches (s : State) (l : List Nat) : State := l.foldl (fun s g => s.touch s.cur g) s

/-- They leave threads and launches alone changed. -/
theorem State.touches_eq (l : List Nat) (s : State) : s.touches l = { s with threads := (s.touches l).threads, launches := (s.touches l).launches } := by
  induction l generalizing s with
  | nil => rfl
  | cons g l ih =>
    have h : s.touch s.cur g = { s with threads := (s.touch s.cur g).threads, launches := (s.touch s.cur g).launches } := by
      unfold State.touch
      dsimp only
      split <;> rfl
    refine (ih (s.touch s.cur g)).trans ?_
    show _ = { s with threads := ((s.touch s.cur g).touches l).threads, launches := ((s.touch s.cur g).touches l).launches }
    generalize (s.touch s.cur g).touches l = u
    rw [h]

/-- Of the threads they change what the issuing one has touched. -/
theorem State.touches_thread (l : List Nat) (s : State) : (∀ u, u ≠ s.cur → (s.touches l).thread u = s.thread u) ∧ ∃ w, (s.touches l).me = { s.me with tbanks := w } := by
  induction l generalizing s with
  | nil => exact ⟨fun _ _ => rfl, _, rfl⟩
  | cons g l ih =>
    obtain ⟨h1, w, h2⟩ := ih (s.touch s.cur g)
    have hc := State.touch_cur s s.cur g
    refine ⟨fun u hu => ?_, w, ?_⟩
    · exact (h1 u (by rw [hc]; exact hu)).trans (by rw [State.touch_thread, if_neg hu])
    · refine h2.trans ?_
      rw [State.me, hc, State.touch_thread, if_pos rfl]
      rfl

/-- The request that an access becomes as it leaves. -/
def State.leaving (s : State) (r : Req) : Req := { r with id := s.nextId, tid := s.cur, epoch := s.me.epoch, issued := s.now }

/-- What the leaving of a request makes, whatever banks it goes to. -/
theorem State.leave_left (s : State) (r : Req) (groups : List Nat) :
    (s.leave r groups).1 = s.leaving r ∧ Left s (s.leave r groups).2 r ∧ (s.leave r groups).2.reqs = s.reqs ++ [s.leaving r] := by
  refine ⟨rfl, ?_⟩
  have hx : (s.leave r groups).2 =
      (({ s with nextId := s.nextId + 1, reqs := s.reqs ++ [s.leaving r] } : State).upd (fun t => t.posted r s.nextId)).touches groups := rfl
  rw [hx]
  generalize hu : (({ s with nextId := s.nextId + 1, reqs := s.reqs ++ [s.leaving r] } : State).upd (fun t => t.posted r s.nextId)) = u
  have he := State.touches_eq groups u
  obtain ⟨h1, w, h2⟩ := State.touches_thread groups u
  generalize u.touches groups = v at he h1 h2
  have hc : u.cur = s.cur := by rw [← hu]; rfl
  have hth : ∀ x, u.thread x = if x = s.cur then s.me.posted r s.nextId else s.thread x := fun x => by
    rw [← hu, State.thread_upd]; rfl
  have hvc : v.cur = s.cur := by rw [he]; exact hc
  refine ⟨⟨?_, ?_, ?_, hvc, ?_, fun x hx => ?_, (s.me.posted r s.nextId).sibUnread, (s.me.posted r s.nextId).rfilled, w, ?_⟩, ?_⟩
  · rw [he, ← hu]; rfl
  · rw [he, ← hu]; rfl
  · rw [he, ← hu]; rfl
  · rw [he, ← hu]; rfl
  · rw [h1 x (by rw [hc]; exact hx), hth, if_neg hx]
  · rw [h2, State.me, hc, hth, if_pos rfl]
  · rw [he, ← hu]; rfl

/-- Words that go on their way: a step is placed for each, and that is all. -/
theorem placed_words (delay : Nat → Piece → Nat) (ev : Nat → Instr) (l : List (Piece × Nat)) (s : State) :
    ∃ p, l.foldl (fun (s : State) e => s.after (delay e.2 e.1) (ev e.2)) s = { s with pend := p } ∧ (∀ x ∈ s.pend, x ∈ p) ∧ ∀ e ∈ l, ∃ n, (n, ev e.2) ∈ p := by
  induction l generalizing s with
  | nil => exact ⟨s.pend, rfl, fun _ h => h, fun _ h => absurd h List.not_mem_nil⟩
  | cons e l ih =>
    obtain ⟨p, h1, h2, h3⟩ := ih (s.after (delay e.2 e.1) (ev e.2))
    have hin : ∀ x, x ∈ s.pend ∨ x = (s.now + delay e.2 e.1, ev e.2) → x ∈ (s.after (delay e.2 e.1) (ev e.2)).pend := fun x hx => by
      show x ∈ tins s.pend _ _
      rw [mem_tins]
      tauto
    refine ⟨p, h1, fun x hx => h2 x (hin x (.inl hx)), fun x hx => ?_⟩
    rcases List.mem_cons.1 hx with rfl | hx
    · exact ⟨_, h2 _ (hin _ (.inr rfl))⟩
    · exact h3 x hx

theorem Quiet.wordsOf {s t : State} (q : Quiet s t) (r : Req) : t.wordsOf r = s.wordsOf r := by
  unfold State.wordsOf
  simp only [q.resolve]

/-- An access that names words, none of them in the data cache, sent behind its checks, and the thread goes on (R36, R108). -/
theorem Quiet.wordsPosted {s t : State} (q : Quiet s t) (r : Req) (hit : Piece → Bool) (delay : Nat → Piece → Nat) (len : Nat)
    (hne : s.wordsOf r ≠ []) (hhit : ∀ p ∈ s.wordsOf r, hit p = false) :
    ((t.postWords r hit delay).advance len).me.pc = s.me.nextPc len ∧ WordsPosted s ((t.postWords r hit delay).advance len) r r.awaits := by
  have hq : t.leaving { r with words := s.wordsOf r } =
      { r with id := s.nextId, tid := s.cur, epoch := s.me.epoch, issued := s.now, words := s.wordsOf r } := by
    obtain ⟨a, b, hm⟩ := q.me
    unfold State.leaving
    rw [hm, q.cur, q.now, show t.nextId = s.nextId by rw [q.state]]
  obtain ⟨groups, hg⟩ : ∃ groups, t.postWords r hit delay = (s.wordsOf r).zipIdx.foldl
      (fun (x : State) e => x.after (delay e.2 e.1) ((t.leaving { r with words := s.wordsOf r }).event e.2)) (t.leave { r with words := s.wordsOf r } groups).2 := by
    refine ⟨((s.wordsOf r).filterMap (fun p => if hit p then none else some (t.groupOf (coreOf t.cur) p.place))).eraseDups, ?_⟩
    unfold State.postWords
    rw [q.wordsOf]
    dsimp only
    rw [if_neg (by simpa using hne)]
    refine List.foldl_ext _ _ _ (fun x e he => ?_)
    rw [if_neg (by rw [hhit e.1 (List.fst_mem_of_mem_zipIdx he)]; decide)]
    rfl
  obtain ⟨-, hL, hreq⟩ := t.leave_left { r with words := s.wordsOf r } groups
  obtain ⟨p, hp, -, hpl⟩ := placed_words delay (fun i => (t.leaving { r with words := s.wordsOf r }).event i) (s.wordsOf r).zipIdx (t.leave { r with words := s.wordsOf r } groups).2
  rw [hg, hp]
  generalize (t.leave { r with words := s.wordsOf r } groups).2 = u at hL hreq
  have hL' : Left s { u with pend := p } { r with words := s.wordsOf r } :=
    q.left ⟨hL.mem, hL.empty, hL.ctxs, hL.cur, hL.now, hL.others, hL.me⟩
  obtain ⟨hpc, hst, hc, hu⟩ := hL'.goesOn len
  rw [hq] at hpl hreq
  refine ⟨hpc, ?_, fun i hi => ?_, fun h => absurd h hne, hst, hc, hu⟩
  · rw [if_neg hne, ← q.reqs]
    exact hreq
  · obtain ⟨n, hn⟩ := hpl ((s.wordsOf r)[i], i) (by simp [List.mem_zipIdx_iff_getElem?])
    exact ⟨n, hn⟩

/-! ## The words of a vector's lanes -/

/-- The least of addresses that lie in one 8-byte word lies in it. -/
theorem foldl_min_word {w : Nat} (l : List Nat) (x : Nat) (hx : x / 8 = w) (hl : ∀ a ∈ l, a / 8 = w) : l.foldl min x / 8 = w := by
  induction l generalizing x with
  | nil => exact hx
  | cons a l ih =>
    have ha := hl a List.mem_cons_self
    exact ih (min x a) (by omega) (fun b hb => hl b (List.mem_cons_of_mem _ hb))

/-- A word of a load lies in the line of one of its lanes. -/
theorem laneWords_line {l : List (Nat × Nat)} {p : Piece} (h : p ∈ laneWords l) : ∃ e ∈ l, p.va / 128 = e.2 / 128 := by
  unfold laneWords at h
  obtain ⟨w, hw, rfl⟩ := List.mem_map.1 h
  rw [List.mem_eraseDups] at hw
  obtain ⟨e, he, rfl⟩ := List.mem_map.1 hw
  refine ⟨e, he, ?_⟩
  have hm := foldl_min_word (w := e.2 / 8) ((l.filter (fun x => x.2 / 8 == e.2 / 8)).map (fun e => e.2)) (8 * (e.2 / 8) + 4) (by omega) (fun a ha => by
    obtain ⟨x, hx, rfl⟩ := List.mem_map.1 ha
    simpa using (List.mem_filter.1 hx).2)
  dsimp only
  omega

theorem laneWords_ne {l : List (Nat × Nat)} (h : l ≠ []) : laneWords l ≠ [] := by
  obtain ⟨e, l, rfl⟩ := List.exists_cons_of_ne_nil h
  simp [laneWords, List.eraseDups_cons]

/-- A word of a store is that of one of its lanes. -/
theorem pairLanes_line {l : List (Nat × BitVec 32)} {x : Nat × List Byte} (h : x ∈ pairLanes l) : ∃ e ∈ l, x.1 = e.1 := by
  unfold pairLanes at h
  obtain ⟨e, he, hx⟩ := List.mem_filterMap.1 h
  refine ⟨e, he, ?_⟩
  dsimp only at hx
  split at hx
  · split at hx
    · cases hx; rfl
    · cases hx
  · cases hx; rfl

/-- Stores of aligned lanes name a word. -/
theorem pairLanes_ne {l : List (Nat × BitVec 32)} (h : l ≠ []) (ha : ∀ e ∈ l, e.1 % 4 = 0) : pairLanes l ≠ [] := by
  have hlow : ∀ e ∈ l, e.1 % 8 = 0 → pairLanes l ≠ [] := fun e he h8 => by
    cases hf : l.find? (fun x => decide (x.1 = e.1 + 4)) with
    | some x =>
      refine List.ne_nil_of_mem (a := (e.1, natToBytes 4 e.2.toNat ++ natToBytes 4 x.2.toNat)) (List.mem_filterMap.2 ⟨e, he, ?_⟩)
      simp only [h8, if_true, hf]
    | none =>
      refine List.ne_nil_of_mem (a := (e.1, natToBytes 4 e.2.toNat)) (List.mem_filterMap.2 ⟨e, he, ?_⟩)
      simp only [h8, if_true, hf]
  obtain ⟨e, r, rfl⟩ := List.exists_cons_of_ne_nil h
  have he := ha e List.mem_cons_self
  by_cases h8 : e.1 % 8 = 0
  · exact hlow e List.mem_cons_self h8
  · cases hf : (e :: r).find? (fun x => decide (x.1 = e.1 - 4)) with
    | some x =>
      have hx := List.find?_some hf
      simp only [decide_eq_true_eq] at hx
      exact hlow x (List.mem_of_find?_eq_some hf) (by omega)
    | none =>
      refine List.ne_nil_of_mem (a := (e.1, natToBytes 4 e.2.toNat)) (List.mem_filterMap.2 ⟨e, List.mem_cons_self, ?_⟩)
      simp only [h8, if_false, hf]

/-- Of lanes that store one keeps the highest of its element (R199). -/
theorem lastLanes_ne {l : List (Nat × Nat)} (h : l ≠ []) : lastLanes l ≠ [] := by
  obtain ⟨e, he, hmax⟩ := l.toFinset.exists_max_image (fun e => e.1) (by simpa using h)
  rw [List.mem_toFinset] at he
  refine List.ne_nil_of_mem (List.mem_filter.2 ⟨he, ?_⟩)
  simp only [Bool.not_eq_true', List.any_eq_false, Bool.and_eq_true, decide_eq_true_eq, not_and, not_lt]
  exact fun x hx _ => hmax x (List.mem_toFinset.2 hx)

end Sys2Proof.Machine
end

section
/-!
O31, second part: vector loads and stores of lanes that their banks and homes serve (R190, R197 to R199).
-/

namespace Sys2Proof.Machine

/-- Lanes that are reached pass their checks: what holds behind them holds of the whole (R198). -/
theorem checkLanes_checked {P : State → Prop} {g : Word} {need : Rights → Bool} {k : State → State} (l : List (Nat × Word)) {s t : State} (ht : Checked s t)
    (h : ∀ e ∈ l, sameWindow g.toNat e.2.toNat = true ∧ ∃ p, s.Reaches e.2 4 need p) (hk : ∀ u, Checked s u → P (k u)) : P (checkLanes g need l k t) := by
  induction l generalizing t with
  | nil => exact hk t ht
  | cons e l ih =>
    obtain ⟨hw, p, hp⟩ := h e List.mem_cons_self
    unfold checkLanes
    rw [if_neg (by rw [hw]; decide)]
    exact checkAddr_checked (ht.passes.reaches hp) (fun u hu => ih (ht.trans hu) (fun x hx => h x (List.mem_cons_of_mem _ hx)))

/-- Addresses of lanes that notes about reads do not change. -/
def Unnoting (f : Thread → Nat → Word) : Prop := ∀ (t : Thread) a b, f { t with sibUnread := a, rfilled := b } = f t

/-- Bookkeeping leaves the active lanes with their addresses. -/
theorem Quiet.actives {s t : State} (q : Quiet s t) {f : Thread → Nat → Word} (hf : Unnoting f) (k : BitVec 3) :
    t.me.active k (f t.me) = (s.activeLanes k).map (fun j => (j, f s.me j)) := by
  obtain ⟨a, b, hm⟩ := q.me
  rw [hm, hf]
  rfl

section
variable {s t : State} {ea : Nat → Word} {k : BitVec 3} {g : Word} {need : Rights → Bool}

/-- The addresses of the active lanes. -/
def State.laneList (s : State) (k : BitVec 3) (ea : Nat → Word) : List (Nat × Nat) := (s.activeLanes k).map (fun i => (i, (ea i).toNat))

/-- No line of an active lane, none that serves it at issue (R39). -/
theorem Checked.laneMiss (h : Checked s t) (hn : ∀ i ∈ s.activeLanes k, s.NoCopy (ea i)) {e : Nat × Nat} (he : e ∈ s.laneList k ea) {va : Nat}
    (hv : va / 128 = e.2 / 128) (typ : BitVec 2) (load : Bool) : t.laneHit typ load va = false := by
  obtain ⟨i, hi, rfl⟩ := List.mem_map.1 he
  have hno : ∀ x ∈ (t.core (coreOf t.cur)).lines, x.line ≠ va / 128 := fun x hx => hv ▸ hn i hi x (h.quiet.cur ▸ h.lines _ x hx)
  have h1 : ∀ typ acq, (t.core (coreOf t.cur)).loadLine va typ acq = none := fun typ acq =>
    List.find?_eq_none.2 (fun x hx => by simp [hno x hx])
  have h2 : ∀ typ, (t.core (coreOf t.cur)).storeLine va typ = none := fun typ => by
    unfold Core.storeLine
    split
    · exact List.find?_eq_none.2 (fun x hx => by simp [hno x hx])
    · rfl
  unfold State.laneHit
  cases load <;> simp [h1, h2]

/-- Lanes that are not served at issue (R11, R199). -/
theorem Quiet.leaves (h : Quiet s t) {gather : Bool} {j : Nat}
    (hw : gather = true ∨ isShort1 (ea j).toNat = false ∨ s.padFree ((s.activeLanes k).map (fun i => (ea i).toNat)) = false) :
    ¬ (!gather && isShort1 (ea j).toNat && t.padFree (((s.activeLanes k).map (fun j => (j, ea j))).map (fun e => e.2.toNat))) = true := by
  have hl : ((s.activeLanes k).map (fun j => (j, ea j))).map (fun e => e.2.toNat) = (s.activeLanes k).map (fun i => (ea i).toNat) := by
    rw [List.map_map]
    rfl
  rw [hl, h.padFree]
  rcases hw with h | h | h <;> simp [h]

/-- The request of a vector access as its window makes it (R199). -/
def windowed (r : Req) (gather : Bool) : Req :=
  { r with back := if isShort1 r.va.toNat then some (if gather then 8 else 0) else none, short := isShort1 r.va.toNat && !gather }

/-- An access of lanes that the data cache does not hold is sent behind its checks (R36, R199). -/
theorem postLanes_posts (h : Checked s t) {r : Req} {gather : Bool} (hb : r.back = none) (hs : r.short = false) (hm : s.MaySend r.cls)
    (hne : s.wordsOf (windowed r gather) ≠ []) (hhit : ∀ p ∈ s.wordsOf (windowed r gather), t.laneHit r.typ (r.cls == CountClass.loads) p.va = false) :
    (postLanes r gather t).me.pc = s.me.nextPc 4 ∧ WordsPosted s (postLanes r gather t) (windowed r gather) r.awaits := by
  have hw : (if isShort1 r.va.toNat then { r with back := some (if gather then 8 else 0), short := !gather } else r : Req) = windowed r gather := by
    unfold windowed
    cases isShort1 r.va.toNat
    · cases r
      simp only at hb hs
      subst hb hs
      rfl
    · rfl
  unfold postLanes
  rw [memIssue_ok _ _ _ (h.quiet.maySend hm)]
  dsimp only
  rw [hw]
  exact h.quiet.wordsPosted (windowed r gather) _ _ 4 hne hhit

end

/-- The request of a vector load, its first active lane at `j`. -/
def State.vloadReq (s : State) (q : BitVec 2) (k : BitVec 3) (ea : Nat → Word) (z : BitVec 1) (d : BitVec 4) (p : Place) (j : Nat) : Req :=
  { id := 0, tid := 0, epoch := 0, op := .lanesLoad (s.laneList k ea) (s.me.kept z d), va := ea j, place := p, dst := some (vRef d.toNat), cls := .loads, typ := q }

/-- That of a vector store. -/
def State.vstoreReq (s : State) (q : BitVec 2) (k : BitVec 3) (ea : Nat → Word) (d : BitVec 4) (p : Place) (j : Nat) : Req :=
  { id := 0, tid := 0, epoch := 0, op := .lanesStore (s.laneList k ea) (s.me.vv d), va := ea j, place := p, cls := .stores, typ := q }

/-! ## Loads -/

section
variable {q : BitVec 2} {gather : Bool} {srcs : List RegRef} {f : Thread → Nat → Word} {g : BitVec 6} {k : BitVec 3} {z : BitVec 1} {d : BitVec 4} {s : State}
  (hf : Unnoting f) (hl : predOk k z = true)
include hf hl

/-- A vector load without an active lane sends nothing, and its destination holds zero or what it held (R190). -/
theorem vecLoad_idle (hr : s.Ready srcs [vRef d.toNat]) (hn : s.activeLanes k = []) : let t := vecLoad q gather srcs f g k z d s
    t.me.vv d = s.me.kept z d ∧ t.me.stOf (vRef d.toNat) = .full ∧ t.me.pc = s.me.nextPc 4 ∧ OnlyRegs s t [vRef d.toNat] [] := by
  have hq := (Checked.noteReads s srcs).quiet
  have hkeep : (if z = 1 then 0 else (s.noteReads srcs).me.keep d) = s.me.kept z d := by
    obtain ⟨a, b, h⟩ := hq.me
    rw [h]; rfl
  have ht : vecLoad q gather srcs f g k z d s = (s.noteReads srcs).done 4 (fun t => t.setV d (s.me.kept z d)) := by
    rw [vecLoad, issue_ready _ _ s hl (by simp) hr]
    dsimp only
    rw [hq.actives hf, hn, hkeep]
    rfl
  have hm1 := me_done_setV (s.noteReads srcs) d (s.me.kept z d)
  rw [ht]
  refine ⟨vv_done_setV _ _ _, ?_, ?_, onlyRegs_put s srcs 4 (vRef d.toNat) (s.me.kept z d).toNat _ (Thread.setV_eq _ _ _)⟩
  · refine (congrArg (Thread.stOf · _) hm1).trans ?_
    rw [Thread.advance_stOf, Thread.setV_eq, Thread.stOf_put, if_pos rfl, if_neg (by simp [vRef, gRef])]
  · refine (congrArg Thread.pc hm1).trans ?_
    rw [Thread.advance_pc, Thread.nextPc_setV, hq.nextPc]

/-- One with active lanes whose words it does not find at issue sends one request for them (R36, R198, R199). -/
theorem vecLoad_posts (hr : s.Ready srcs [vRef d.toNat]) (hreach : s.LanesReach k (s.me.gv g) (f s.me) Rights.r) {j : Nat} (hj : (s.activeLanes k).head? = some j)
    (hm : s.MaySend .loads) (hn : ∀ i ∈ s.activeLanes k, s.NoCopy (f s.me i))
    (hw : gather = true ∨ isShort1 (f s.me j).toNat = false ∨ s.padFree ((s.activeLanes k).map (fun i => (f s.me i).toNat)) = false)
    {p : Place} (hp : s.resolve s.cur (f s.me j).toNat = some p) : let t := vecLoad q gather srcs f g k z d s
    t.me.pc = s.me.nextPc 4 ∧ WordsPosted s t (windowed (s.vloadReq q k (f s.me) z d p j) gather) [vRef d.toNat] := by
  have hc := Checked.noteReads s srcs
  have hkeep : (if z = 1 then 0 else (s.noteReads srcs).me.keep d) = s.me.kept z d := by
    obtain ⟨a, b, h⟩ := hc.quiet.me
    rw [h]; rfl
  have hg : (s.noteReads srcs).me.gv g = s.me.gv g := by
    obtain ⟨a, b, h⟩ := hc.quiet.me
    rw [h]; rfl
  obtain ⟨rest, hcons⟩ := List.head?_eq_some_iff.1 hj
  have hlist : (s.activeLanes k).map (fun j => (j, f s.me j)) = (j, f s.me j) :: rest.map (fun j => (j, f s.me j)) := by rw [hcons]; rfl
  intro t
  have ht : t = vecLoad q gather srcs f g k z d s := rfl
  clear_value t
  rw [vecLoad, issue_ready _ _ s hl (by simp) hr] at ht
  dsimp only at ht
  rw [hc.quiet.actives hf, hkeep, hg, hlist] at ht
  dsimp only at ht
  rw [ht, ← hlist]
  refine checkLanes_checked (P := fun t => t.me.pc = s.me.nextPc 4 ∧ WordsPosted s t (windowed (s.vloadReq q k (f s.me) z d p j) gather) [vRef d.toNat]) _ hc (fun e he => ?_) (fun u hu => ?_)
  · obtain ⟨i, hi, rfl⟩ := List.mem_map.1 he
    exact hreach i hi
  · rw [if_neg (hu.quiet.leaves hw), hu.quiet.resolve, hp, List.map_map]
    refine postLanes_posts hu rfl rfl hm ?_ (fun x hx => ?_)
    · exact fun h => laneWords_ne (l := s.laneList k (f s.me)) (by simp [State.laneList, hcons]) (List.map_eq_nil_iff.1 h)
    · obtain ⟨y, hy, rfl⟩ := List.mem_map.1 hx
      obtain ⟨e, he, hv⟩ := laneWords_line (l := s.laneList k (f s.me)) hy
      exact hu.laneMiss hn he hv _ _

end

/-! ## Stores -/

section
variable {q : BitVec 2} {gather : Bool} {srcs : List RegRef} {f : Thread → Nat → Word} {g : BitVec 6} {k : BitVec 3} {z : BitVec 1} {d : BitVec 4} {s : State}
  (hf : Unnoting f) (hl : predOk k z = true)
include hf hl

/-- A vector store without an active lane changes nothing (R190). -/
theorem vecStore_idle (hr : s.Ready (vRef d.toNat :: srcs) []) (hn : s.activeLanes k = []) : let t := vecStore q gather srcs f g k z d s
    t.me.pc = s.me.nextPc 4 ∧ OnlyRegs s t [] [] := by
  have hq := (Checked.noteReads s (vRef d.toNat :: srcs)).quiet
  have ht : vecStore q gather srcs f g k z d s = (s.noteReads (vRef d.toNat :: srcs)).advance 4 := by
    rw [vecStore, issue_ready _ _ s hl (by simp) hr]
    dsimp only
    rw [List.singleton_append, hq.actives hf, hn]
    rfl
  rw [ht]
  refine ⟨?_, onlyRegs_on s _ 4⟩
  rw [State.advance, State.me_upd, Thread.advance_pc, hq.nextPc]

/-- One with active lanes whose words it does not store at issue sends one request for them (R36, R198, R199). -/
theorem vecStore_posts (hr : s.Ready (vRef d.toNat :: srcs) []) (hreach : s.LanesReach k (s.me.gv g) (f s.me) Rights.w) {j : Nat} (hj : (s.activeLanes k).head? = some j)
    (hm : s.MaySend .stores) (hn : ∀ i ∈ s.activeLanes k, s.NoCopy (f s.me i))
    (hw : gather = true ∨ isShort1 (f s.me j).toNat = false ∨ s.padFree ((s.activeLanes k).map (fun i => (f s.me i).toNat)) = false)
    {p : Place} (hp : s.resolve s.cur (f s.me j).toNat = some p) : let t := vecStore q gather srcs f g k z d s
    t.me.pc = s.me.nextPc 4 ∧ WordsPosted s t (windowed (s.vstoreReq q k (f s.me) d p j) gather) [] := by
  have hc := Checked.noteReads s (vRef d.toNat :: srcs)
  have hv : (s.noteReads (vRef d.toNat :: srcs)).me.vv d = s.me.vv d := by
    obtain ⟨a, b, h⟩ := hc.quiet.me
    rw [h]; rfl
  have hg : (s.noteReads (vRef d.toNat :: srcs)).me.gv g = s.me.gv g := by
    obtain ⟨a, b, h⟩ := hc.quiet.me
    rw [h]; rfl
  obtain ⟨rest, hcons⟩ := List.head?_eq_some_iff.1 hj
  have hlist : (s.activeLanes k).map (fun j => (j, f s.me j)) = (j, f s.me j) :: rest.map (fun j => (j, f s.me j)) := by rw [hcons]; rfl
  intro t
  have ht : t = vecStore q gather srcs f g k z d s := rfl
  clear_value t
  rw [vecStore, issue_ready _ _ s hl (by simp) hr] at ht
  dsimp only at ht
  rw [List.singleton_append, hc.quiet.actives hf, hv, hg, hlist] at ht
  dsimp only at ht
  rw [ht, ← hlist]
  refine checkLanes_checked (P := fun t => t.me.pc = s.me.nextPc 4 ∧ WordsPosted s t (windowed (s.vstoreReq q k (f s.me) d p j) gather) []) _ hc (fun e he => ?_) (fun u hu => ?_)
  · obtain ⟨i, hi, rfl⟩ := List.mem_map.1 he
    exact hreach i hi
  · rw [if_neg (hu.quiet.leaves hw), hu.quiet.resolve, hp, List.map_map]
    refine postLanes_posts hu rfl rfl hm ?_ (fun x hx => ?_)
    · intro h
      have h1 : pairLanes ((lastLanes (s.laneList k (f s.me))).map (fun e => (e.2, lane (s.me.vv d) e.1))) = [] := List.map_eq_nil_iff.1 (List.map_eq_nil_iff.1 h)
      refine pairLanes_ne ?_ (fun e he => ?_) h1
      · simpa using lastLanes_ne (l := s.laneList k (f s.me)) (by simp [State.laneList, hcons])
      · obtain ⟨x, hx, rfl⟩ := List.mem_map.1 he
        obtain ⟨i, hi, rfl⟩ := List.mem_map.1 (List.mem_filter.1 hx).1
        obtain ⟨-, p, hp⟩ := hreach i hi
        exact hp.2.1
    · obtain ⟨y, hy, rfl⟩ := List.mem_map.1 hx
      obtain ⟨w, hpair, rfl⟩ := List.mem_map.1 (show y ∈ MemOp.wordsAt (.lanesStore (s.laneList k (f s.me)) (s.me.vv d)) _ from hy)
      obtain ⟨e, he, hv⟩ := pairLanes_line hpair
      obtain ⟨x, hx, rfl⟩ := List.mem_map.1 he
      exact hu.laneMiss hn (List.mem_filter.1 hx).1 (by show _ = _; exact congrArg (· / 128) hv) _ _

end

end Sys2Proof.Machine
end

section
open Sys2Proof Sys2Proof.Machine

/-- Settles O31: without an active lane a vector access ends at issue; with one, the words of its lanes lie in no line of the data cache, and one
request leaves for them. -/
theorem vectorSends : Obligations.VectorSends := by
  unfold Obligations.VectorSends
  have hkeep : ∀ (s : State) (z : BitVec 1) (d : BitVec 4), (if z = 1 ∨ (s.me.stOf (vRef d.toNat)).empty = true then (0 : Vec) else s.me.vv d) = s.me.kept z d := fun s z d => by
    show _ = if z = 1 then 0 else if (s.me.stOf (vRef d.toNat)).empty then 0 else s.me.vv d
    by_cases hz : z = 1
    · rw [if_pos (.inl hz), if_pos hz]
    · simp only [hz, false_or, if_false]
  have h1 : ∀ g : BitVec 6, Unnoting (fun t i => t.gv g + BitVec.ofNat 64 (4 * i)) := fun _ _ _ _ => rfl
  have h2 : ∀ (g : BitVec 6) (a : BitVec 4), Unnoting (fun t i => t.gv g + sext (lane (t.vv a) i)) := fun _ _ _ _ _ => rfl
  refine ⟨fun q g a d k z s hl e he hr hreach => ?_, fun q g a d k z s hl e he hr hreach => ?_⟩
  · intro keep
    rw [show keep = s.me.kept z d from hkeep s z d]
    simp only [List.mem_cons, List.not_mem_nil, or_false] at he
    rcases he with rfl | rfl
    · exact ⟨fun hn => ⟨_, rfl, vecLoad_idle (h1 g) hl hr hn⟩, fun j hj hm hc hw p hp => ⟨_, rfl, vecLoad_posts (h1 g) hl hr hreach hj hm hc hw hp⟩⟩
    · exact ⟨fun hn => ⟨_, rfl, vecLoad_idle (h2 g a) hl hr hn⟩, fun j hj hm hc hw p hp => ⟨_, rfl, vecLoad_posts (h2 g a) hl hr hreach hj hm hc hw hp⟩⟩
  · simp only [List.mem_cons, List.not_mem_nil, or_false] at he
    rcases he with rfl | rfl
    · exact ⟨fun hn => ⟨_, rfl, vecStore_idle (h1 g) hl hr hn⟩, fun j hj hm hc hw p hp => ⟨_, rfl, vecStore_posts (h1 g) hl hr hreach hj hm hc hw hp⟩⟩
    · exact ⟨fun hn => ⟨_, rfl, vecStore_idle (h2 g a) hl hr hn⟩, fun j hj hm hc hw p hp => ⟨_, rfl, vecStore_posts (h2 g a) hl hr hreach hj hm hc hw hp⟩⟩
end

section
/-!
O41 and O42 fail: a word of the page tables may be written through the page that it maps. The reply to such a write takes the way back from the home
that the address has now (R37, R285, R357), which the write has moved to another slice, and a unit on that way may lack the partition's bit.

The tables of this state take 16 bytes: the table at 0x1000 names itself in its entry 0, and in its entry 1 maps 1 GiB of the global window from physical
address 0. So the doubleword at 0x1008, this leaf entry, lies at address 0x40001008. Core 0 has its thread at the router of slice 0 of die 0; no other
router has the partition's bit.
-/

namespace Sys2Proof.Machine

/-- The address of the leaf entry through the page that it maps, and the entry that maps the page to slice 1. -/
def leafVa : Nat := 0x40001008
def movedLeaf : Word := 0x20000000B

/-- The page that the leaf maps, at this address. -/
def leafPage : Page := { place := 0, pa := 0x1008, cls := 2, sib := false, accum := false, aop := 0, sysatom := false, bias := 0, homed := false, die := 0, log := 30 }

/-- A write of thread 0 to the leaf entry: a store, or an atomic swap. -/
def leafReq (swap : Bool) : Req :=
  { id := 1, tid := 0, epoch := 0, op := if swap then .amo 8 true movedLeaf 0 else .store 8 movedLeaf, va := BitVec.ofNat 64 leafVa, place := .global leafVa,
    cls := if swap then .loads else .stores, line := true }

/-- Its request at the home slice. -/
def leafItem : BankItem := { server := .home 0, cls := .P, came := 0, key := { lti := 0, name := 0, slot := 0 }, part := 0, ctx := 0, who := .homeAccess ⟨1, 0⟩ }

/-- The state in which the access comes to its home. Slice 0 holds a translation of the block that names another slice's page, and so translates nothing. -/
def selfMapped (swap : Bool) : State :=
  { State.reset with
    mem := [(physKey 0 0x1000, 1), (physKey 0 0x1001, 0x10), (physKey 0 0x1008, 0xB)]
    root := [(0, 0x1001)]
    tenants := [(0, 1)]
    slices := [(0, { walks := [{ block := leafVa / 4096, page := { leafPage with pa := 0x200001000 }, ready := 0, ctx := none }] })]
    threads := [(0, { occupied := true })]
    parts := [(0, { col0 := 0, row0 := 0, w := 1, h := 1, ctx := 0, banks := [], links := [], root := 0, notify := 0, remap := [], queues := [], lastQueue := [],
                    setdet := none, resize := none, destroying := [], aborts := [], finishing := [] })]
    reqs := [leafReq swap]
    bankq := [leafItem] }

theorem selfMapped_walk (swap : Bool) : (selfMapped swap).walk leafVa = .ok (leafPage, 2) := by
  cases swap <;> decide +kernel

/-- The access may go to its home: nothing stops it on its way, nor its reply. -/
theorem selfMapped_arrives (swap : Bool) : (selfMapped swap).Arrives (leafReq swap) := by
  refine ⟨rfl, rfl, rfl, ?_, ?_, ?_, ?_, ?_, ?_, ?_⟩
  · cases swap <;> decide +kernel
  · rintro c o ⟨⟩
  · cases swap <;> decide +kernel
  · cases swap <;> decide +kernel
  · rintro e ⟨⟩
  · intro back
    cases swap <;> cases back <;> decide +kernel
  · cases swap <;> decide +kernel

theorem selfMapped_calm (swap : Bool) : (selfMapped swap).Calm := by
  refine ⟨rfl, rfl, rfl, rfl, ?_, ?_⟩
  · intro e he
    rw [List.mem_singleton.1 he]
  · rintro e ⟨⟩

/-- The request's state after a step. -/
def stateAfter (o : Out) : Option ReqState := match o with | .next t => (t.req 1).map Req.state | _ => none

theorem store_refused : stateAfter (exec (.homeAccess ⟨1, 0⟩) (selfMapped false)) = some .failed := by decide +kernel

theorem swap_refused : stateAfter (exec (.sysatomCasLoop 1) (selfMapped true)) = some .failed := by decide +kernel

end Sys2Proof.Machine
end

section
open Sys2Proof Sys2Proof.Machine

/-- Refutes O41: the store that `selfMapped` describes has the cycle of its home, but its reply is an error response. -/
theorem not_serveSteps : ¬ Obligations.ServeSteps := by
  unfold Obligations.ServeSteps
  intro h
  obtain ⟨-, -, -, hg⟩ := h (selfMapped false) (leafReq false) 8 (by decide) (selfMapped_arrives false) rfl rfl
  obtain ⟨hpage, -⟩ := hg leafVa rfl
  obtain ⟨-, -, -, hserve⟩ := hpage leafPage 2 (selfMapped_walk false) (by decide +kernel)
  obtain ⟨-, hstore⟩ := hserve (by decide +kernel) ⟨leafItem, by decide +kernel, rfl, by decide +kernel⟩ rfl
    ⟨rfl, rfl, rfl, by decide +kernel, by decide +kernel, by decide +kernel, by decide +kernel⟩ (by decide +kernel) (selfMapped_calm false)
  obtain ⟨t, he, -, -, -, hq⟩ := hstore movedLeaf rfl
  have hs := store_refused
  rw [show exec (.homeAccess ⟨1, 0⟩) (selfMapped false) = .next t from he] at hs
  have hq' : t.req 1 = _ := hq
  simp [stateAfter, hq'] at hs

/-- Refutes O42: the device atomic that `selfMapped` describes swaps the entry, but its reply is an error response. -/
theorem not_bankSteps : ¬ Obligations.BankSteps := by
  unfold Obligations.BankSteps
  rintro ⟨⟨-, -, -, h, -⟩, -⟩
  obtain ⟨-, hloop⟩ := h (selfMapped true) (leafReq true) 8 movedLeaf 0 (selfMapped_arrives true) (selfMapped_calm true) rfl rfl rfl
  obtain ⟨t, he, -, -, -, hq⟩ := hloop leafPage 2 (selfMapped_walk true)
  have hs := swap_refused
  rw [show exec (.sysatomCasLoop 1) (selfMapped true) = .next t from he] at hs
  have hq' : t.req 1 = _ := hq
  simp [stateAfter, hq'] at hs
end

section
/-!
O44: what the scheduler's work leaves as it was.

The scheduler sends commands to engines (R257, R258); on the way it may do a thread's release or acquire, write lines back, wake threads and log
errors. None of that removes a command or its acceptance, puts an engine in or out of service, changes the claimed tags, or takes back a step that
is placed. As for the canonical form of memory (O58), there is one lemma for each function used, in the order of the model's files.
-/

namespace Sys2Proof.Machine

/-- Relative to `o`, the same commands are there, accepted when they were, with the same engines in service and the same claimed tags, and every
step that was placed is. -/
def State.Beside (s o : State) : Prop :=
  s.tileCmds.map (fun c => (c.id, c.accepted)) = o.tileCmds.map (fun c => (c.id, c.accepted)) ∧
    (∀ e, (s.core e).engine.out = (o.core e).engine.out ∧ (s.core e).engine.fenced = (o.core e).engine.fenced) ∧
    (∀ c, (s.ctx c).claimed = (o.ctx c).claimed) ∧ ∀ x ∈ o.pend, x ∈ s.pend

variable {s o : State}

theorem State.Beside.refl (s : State) : s.Beside s := ⟨rfl, fun _ => ⟨rfl, rfl⟩, fun _ => rfl, fun _ h => h⟩

/-! ## The shapes of a meaning -/

theorem State.Beside.ite {a b : State} {c : Prop} {_ : Decidable c} (ha : a.Beside o) (hb : b.Beside o) : (if c then a else b).Beside o := by
  split <;> assumption

theorem State.Beside.foldl {α : Type} {f : State → α → State} {l : List α} {s : State} (h : s.Beside o) (hf : ∀ s, s.Beside o → ∀ a, (f s a).Beside o) :
    (l.foldl f s).Beside o := by
  induction l generalizing s with
  | nil => exact h
  | cons a l ih => exact ih (hf s h a)

/-! ## The shared operations -/

theorem State.Beside.updThread {t f} (h : s.Beside o) : (s.updThread t f).Beside o := h
theorem State.Beside.updDie {d f} (h : s.Beside o) : (s.updDie d f).Beside o := h
theorem State.Beside.nextFree (h : s.Beside o) : s.nextFree.Beside o := h

theorem State.Beside.updCore {c} {f : Core → Core} (h : s.Beside o)
    (hf : ∀ k, (f k).engine.out = k.engine.out ∧ (f k).engine.fenced = k.engine.fenced := by exact fun _ => ⟨rfl, rfl⟩) : (s.updCore c f).Beside o := by
  obtain ⟨hc, he, ht, hp⟩ := h
  refine ⟨hc, fun e => ?_, ht, hp⟩
  rw [State.core_updCore]
  split
  case isTrue e1 =>
    obtain ⟨h1, h2⟩ := hf (s.core c)
    rw [h1, h2, e1]
    exact he c
  case isFalse => exact he e

theorem State.Beside.updCtx {c} {f : Ctx → Ctx} (h : s.Beside o) (hf : ∀ x, (f x).claimed = x.claimed := by exact fun _ => rfl) : (s.updCtx c f).Beside o := by
  obtain ⟨hc, he, ht, hp⟩ := h
  refine ⟨hc, he, fun x => ?_, hp⟩
  rw [State.ctx_updCtx]
  split
  case isTrue e1 => rw [hf, e1, ht]
  case isFalse => exact ht x

theorem State.Beside.after {n i} (h : s.Beside o) : (s.after n i).Beside o := by
  obtain ⟨hc, he, ht, hp⟩ := h
  exact ⟨hc, he, ht, fun x hx => (mem_tins _ _ _ x).2 (.inr (hp x hx))⟩

theorem State.Beside.afterOnce {n i} (h : s.Beside o) : (s.afterOnce n i).Beside o := .ite h (.after h)

theorem State.Beside.wakeCore {c} (h : s.Beside o) : (s.wakeCore c).Beside o := .ite (.afterOnce (.ite (.updCore h) h)) (.ite (.updCore h) h)

theorem State.Beside.wake {t} (h : s.Beside o) : (s.wake t).Beside o := .ite (.wakeCore (.updThread h)) h

theorem State.Beside.restCore {c} (h : s.Beside o) : (s.restCore c).Beside o := .ite h (.afterOnce (.updCore h))

theorem State.Beside.markDirty {k n} (h : s.Beside o) : (s.markDirty k n).Beside o := .ite (.updCore h) h

theorem State.Beside.poke {k l} (h : s.Beside o) : (s.poke k l).Beside o := .markDirty h

theorem State.Beside.logError {d code kind unit addr detail} (h : s.Beside o) : (s.logError d code kind unit addr detail).Beside o := .ite (.updDie h) (.updDie h)

theorem State.Beside.dropSI {t} (h : s.Beside o) : (s.dropSI t).Beside o := .ite (.updCore h) h

theorem State.Beside.record {c r} (h : s.Beside o) : (s.record c r).Beside o := .afterOnce (.updCtx h)

theorem State.Beside.note {t typ op ord val obj} (h : s.Beside o) : (s.note t typ op ord val obj).Beside o := .ite (.record h) h

theorem State.Beside.wakeRoll {c} (h : s.Beside o) : (s.wakeRoll c).Beside o := .foldl h (fun _ h1 _ => .wake h1)

theorem State.Beside.unqueue {c idx} (h : s.Beside o) : (s.unqueue c idx).Beside o := .wakeRoll (.updCtx h)

theorem State.Beside.noteWrite {t key rel ord rmw} (h : s.Beside o) : (s.noteWrite t key rel ord rmw).Beside o := .ite (.ite h (.ite h h)) h

theorem State.Beside.served_takeOut {r c typ} (h : s.Beside o) : (State.served.takeOut r c typ s).Beside o := by
  unfold State.served.takeOut
  split
  exacts [.unqueue h, h]

theorem State.Beside.served {r key val} (h : s.Beside o) : (s.served r key val).Beside o := by
  unfold State.served
  split
  exacts [h, .ite (.ite (.note (.note h)) (.note h)) (.ite (.ite (.served_takeOut (.served_takeOut h)) (.served_takeOut h)) h)]

theorem State.Beside.updReq {id f} (h : s.Beside o) : (s.updReq id f).Beside o := h

theorem State.Beside.logUnit {tid part c place u} (h : s.Beside o) : (s.logUnit tid part c place u).Beside o := .nextFree (.logError h)

theorem State.Beside.logRoute {r u} (h : s.Beside o) : (s.logRoute r u).Beside o := .logUnit h

theorem State.Beside.reply {r0} (h : s.Beside o) : (s.reply r0).Beside o := by
  unfold State.reply
  refine .after (.updReq ?_)
  split
  exacts [.logRoute h, h]

theorem State.Beside.endWait {key w} (h : s.Beside o) : (s.endWait key w).Beside o := by
  unfold State.endWait
  split
  · split
    exacts [.reply (.served h), h]
  · split
    exacts [.after h, h]
  · split
    exacts [.after h, h]

theorem State.Beside.wakeWaiters {key} (h : s.Beside o) : (s.wakeWaiters key).Beside o := by
  unfold State.wakeWaiters
  exact .foldl h (fun _ h1 _ => by split; exacts [.ite h1 (.endWait h1), .endWait h1])

theorem State.Beside.setFull {word} (h : s.Beside o) : (s.setFull word).Beside o := .ite h h

theorem State.Beside.setEmpty {word} (h : s.Beside o) : (s.setEmpty word).Beside o := h

theorem State.Beside.breakResv {granule own} (h : s.Beside o) : (s.breakResv granule own).Beside o := .foldl h (fun _ h1 _ => .wake (.updThread h1))

theorem State.Beside.updateCopy {c key l} (h : s.Beside o) : (s.updateCopy c key l).Beside o := .ite (.updCore h) h

/-- What a change of every entry leaves alone is read as before. -/
theorem tget_map_of_proj {α β : Type} (p : α → β) {g : Nat × α → Nat × α} (h1 : ∀ e, (g e).1 = e.1) (h2 : ∀ e, p (g e).2 = p e.2) (d : α) (t : Tbl α) (k : Nat) :
    p (tget d (t.map g) k) = p (tget d t k) := by
  induction t with
  | nil => rfl
  | cons e r ih => simp only [List.map_cons, tget, h1, apply_ite p, h2, ih]

theorem State.core_dropWt_engine (s : State) (key own e : Nat) : ((s.dropWt key own).core e).engine = (s.core e).engine := by
  unfold State.dropWt
  dsimp only
  split
  case isTrue =>
    refine tget_map_of_proj Core.engine (fun x => ?_) (fun x => ?_) _ _ e
    · split <;> rfl
    · split <;> rfl
  case isFalse => rfl

theorem State.Beside.dropWt {key own} (h : s.Beside o) : (s.dropWt key own).Beside o := by
  obtain ⟨hc, he, ht, hp⟩ := h
  have same (f : State → List TileCmd × Tbl Ctx × Tbl Instr) (hf : ∀ l : Tbl Core, f { s with cores := l } = f s) : f (s.dropWt key own) = f s := by
    unfold State.dropWt
    dsimp only
    split
    · exact hf _
    · rfl
  have e := same (fun t => (t.tileCmds, t.ctxs, t.pend)) (fun _ => rfl)
  simp only [Prod.mk.injEq] at e
  obtain ⟨e1, e2, e3⟩ := e
  refine ⟨by rw [e1]; exact hc, fun x => by rw [State.core_dropWt_engine]; exact he x, fun c => ?_, fun x hx => by rw [e3]; exact hp x hx⟩
  unfold State.ctx at ht ⊢
  rw [e2]
  exact ht c

theorem State.Beside.noteOld {key n} (h : s.Beside o) : (s.noteOld key n).Beside o := .ite h h

theorem State.Beside.putRaw {key l} (h : s.Beside o) : (s.putRaw key l).Beside o := .ite (.poke h) (.poke h)

theorem State.Beside.putBytes {key l} (h : s.Beside o) : (s.putBytes key l).Beside o := .putRaw (.noteOld h)

theorem State.Beside.evictSI {c key} (h : s.Beside o) : (s.evictSI c key).Beside o := .ite (.updCore h) h

theorem State.Beside.doSync {r word} (h : s.Beside o) : (s.doSync r word).Beside o := by
  unfold State.doSync
  extract_lets
  split
  · exact .reply (.breakResv (.setEmpty (.evictSI (.served h))))
  · extract_lets s0 s1
    have hs1 : s1.Beside o := .breakResv (.setFull (.updateCopy (.putBytes (.dropWt (.noteWrite (.served h))))))
    exact .reply (.ite (.wakeWaiters hs1) (.wakeWaiters (.wakeWaiters hs1)))
  · exact .reply (.evictSI (.served h))

theorem State.Beside.admitSync {v} (h : s.Beside o) : (s.admitSync v).Beside o := by
  unfold State.admitSync
  refine .ite ?_ h
  split
  · split <;> exact h
  · exact h

theorem State.Beside.serveWord_out {id} (h : s.Beside o) : (State.serveWord.out s id).Beside o := h

theorem State.Beside.serveWord_go {word l} (h : s.Beside o) : (State.serveWord.go word l s).Beside o := by
  induction l generalizing s with
  | nil => exact h
  | cons e rest ih =>
    unfold State.serveWord.go
    split
    · exact ih h
    · exact .ite (ih (.admitSync (.doSync (.serveWord_out h)))) h

theorem State.Beside.serveWord {word} (h : s.Beside o) : (s.serveWord word).Beside o := .serveWord_go h

theorem State.Beside.landed {key len} (h : s.Beside o) : (s.landed key len).Beside o := by
  unfold State.landed
  extract_lets words s1 s2
  have hs2 : s2.Beside o := .foldl (.foldl h (fun _ h1 _ => .serveWord (.setFull h1))) (fun _ h2 _ => .breakResv h2)
  exact .ite hs2 (.foldl (.foldl hs2 (fun _ h3 _ => .wakeWaiters h3)) (fun _ h4 _ => .ite h4 (.wakeWaiters h4)))

theorem State.Beside.touch {t g} (h : s.Beside o) : (s.touch t g).Beside o := by
  unfold State.touch
  extract_lets s1
  have hs1 : s1.Beside o := .updThread h
  clear_value s1
  split <;> exact hs1

theorem State.Beside.writeBack {l} (h : s.Beside o) : (s.writeBack l).Beside o :=
  .ite (.foldl (.foldl (.foldl h (fun _ h1 _ => .touch h1)) (fun _ h2 _ => .putRaw h2)) (fun _ h3 _ => .landed h3)) h

theorem State.Beside.writeBackThread {t} (h : s.Beside o) : (s.writeBackThread t).Beside o := .ite h (.foldl (.updCore h) (fun _ h1 _ => .writeBack h1))

theorem State.Beside.releaseFence {t} (h : s.Beside o) : (s.releaseFence t).Beside o := .updThread (.writeBackThread h)

theorem State.Beside.checkLaunch {n} (h : s.Beside o) : (s.checkLaunch n).Beside o := by
  unfold State.checkLaunch
  split
  exacts [.ite (.afterOnce h) h, h]

/-! ## The scheduler -/

theorem State.Beside.updTile {id} {f : TileCmd → TileCmd} (h : s.Beside o)
    (hf : ∀ c, (f c).id = c.id ∧ (f c).accepted = c.accepted := by exact fun _ => ⟨rfl, rfl⟩) : (s.updTile id f).Beside o := by
  obtain ⟨hc, he, ht, hp⟩ := h
  refine ⟨?_, he, ht, hp⟩
  rw [← hc]
  unfold State.updTile updEach
  rw [List.map_map]
  refine List.map_congr_left fun c _ => ?_
  obtain ⟨h1, h2⟩ := hf c
  dsimp only [Function.comp]
  split
  case isTrue => rw [h1, h2]
  case isFalse => rfl

theorem State.Beside.tileFault {c addr} (h : s.Beside o) : (s.tileFault c addr).Beside o := by
  unfold State.tileFault
  refine .after (.updTile (.logError ?_))
  split
  · split
    exacts [.logUnit h, h]
  · exact h

theorem State.Beside.moveHeld {c} (h : s.Beside o) : (s.moveHeld c).Beside o := by
  unfold State.moveHeld
  split
  · exact h
  · split
    · exact h
    · split
      exacts [h, .updCore (.updCore h)]

theorem State.Beside.trySchedule {c} (h : s.Beside o) : (s.trySchedule c).Beside o := by
  unfold State.trySchedule
  split
  · exact h
  · refine .ite h (.ite (.tileFault h) (.ite (.afterOnce h) ?_))
    extract_lets s1
    have h1 : s1.Beside o := .moveHeld h
    clear_value s1
    split
    · exact h1
    · exact .ite (.after (.updTile (.updCore (.ite (.dropSI (.ite (.releaseFence h1) h1)) (.ite (.releaseFence h1) h1)))))
        (.after (.updTile (.updCore (.ite (.dropSI (.ite (.releaseFence h1) h1)) (.ite (.releaseFence h1) h1)))))

theorem State.Beside.schedule {d} (h : s.Beside o) : (s.schedule d).Beside o := .foldl h (fun _ h1 _ => .trySchedule h1)

end Sys2Proof.Machine
end

section
/-!
O44: a die's one command in flight.

What the machine asks of a command (its place in its thread's order, its words at their banks, the answers they wait for) where it is the only one
and no core's state is kept away.
-/

namespace Sys2Proof.Machine

/-! ## A step placed unless it is already -/

theorem State.tick_spec (s : State) (n : Nat) (i : Instr) :
    ∃ p, s.tick n i = { s with pend := p } ∧ (s.now + n, i) ∈ p ∧ ∀ x ∈ s.pend, x ∈ p := by
  unfold State.tick
  split
  case isTrue h =>
    obtain ⟨e, he, e1⟩ := List.any_eq_true.1 h
    exact ⟨s.pend, rfl, of_decide_eq_true e1 ▸ he, fun _ hx => hx⟩
  case isFalse => exact ⟨_, rfl, mem_tins_self _ _ _, fun x hx => (mem_tins _ _ _ x).2 (.inr hx)⟩

/-! ## The only command -/

section
variable {s : State} {c : TileCmd}

theorem State.tile_single (h : s.tileCmds = [c]) : s.tile c.id = some c := by
  unfold State.tile
  rw [h]
  simp

theorem State.updTile_single (h : s.tileCmds = [c]) (f : TileCmd → TileCmd) : s.updTile c.id f = { s with tileCmds := [f c] } := by
  unfold State.updTile
  rw [h]
  simp [updEach]

theorem State.tileBehind_single (h : s.tileCmds = [c]) : s.tileBehind c = false := by
  unfold State.tileBehind
  rw [h]
  simp

theorem State.tileAway_of_saved (h : s.saved = []) (c : TileCmd) : s.tileAway c = false := by
  unfold State.tileAway
  rw [h]
  rfl

/-! ## Words that all have their answers -/

/-- Each word of the present phase has been performed, and its answer is there. -/
def TileCmd.Answered (c : TileCmd) (n : Nat) : Prop := ∀ w ∈ c.words, w.state = .performed ∧ w.ready ≤ n

theorem TileCmd.Answered.no_waiting {n : Nat} (h : c.Answered n) : c.words.any (fun w => w.state == .waiting) = false := by
  rw [List.any_eq_false]
  intro w hw
  rw [(h w hw).1]
  decide

theorem TileCmd.Answered.filter_waiting {n : Nat} (h : c.Answered n) : c.words.filter (fun w => w.state == .waiting) = [] := by
  rw [List.filter_eq_nil_iff]
  intro w hw
  rw [(h w hw).1]
  decide

theorem TileCmd.Answered.foldl_ready {n : Nat} (h : c.Answered n) (m : Nat) :
    c.words.foldl (fun n w => max n w.ready) m ≤ max m n ∧ m ≤ c.words.foldl (fun n w => max n w.ready) m := by
  unfold TileCmd.Answered at h
  generalize c.words = l at h
  induction l generalizing m with
  | nil => exact ⟨Nat.le_max_left _ _, Nat.le_refl _⟩
  | cons w r ih =>
    obtain ⟨h1, h2⟩ := ih (max m w.ready) (fun x hx => h x (List.mem_cons_of_mem _ hx))
    have := (h w List.mem_cons_self).2
    rw [List.foldl_cons]
    omega

theorem State.answered_go (h : c.Answered s.now) {upto : Nat} (hu : upto ≤ s.now) (ev : Instr) (k : State → State) : s.answered c upto ev k = k s := by
  unfold State.answered
  have := (h.foldl_ready upto).1
  exact if_neg (by omega)

theorem State.answered_wait (h : c.Answered s.now) {upto : Nat} (hu : s.now < upto) (ev : Instr) (k : State → State) :
    s.answered c upto ev k = s.tick (upto - s.now) ev := by
  unfold State.answered
  obtain ⟨h1, h2⟩ := h.foldl_ready upto
  have e : c.words.foldl (fun n w => max n w.ready) upto = upto := by omega
  rw [e]
  exact if_pos hu

/-- A command with no word at a bank only leaves the banks. -/
theorem State.tileServe_answered (h : s.tileCmds = [c]) (he : c.ended = false) (ha : c.Answered s.now) (ev : Instr) (failed : Nat → State → State) :
    ∃ q, s.tileServe c.id ev failed = { s with bankq := q } := by
  have here : (c.words.zipIdx).filter (fun e => e.1.state == .waiting && decide (e.1.sent ≤ s.now)) = [] := by
    rw [List.filter_eq_nil_iff]
    intro e hm
    rw [(ha e.1 (List.fst_mem_of_mem_zipIdx hm)).1]
    simp
  have tile (q : List BankItem) : ({ s with bankq := q } : State).tile c.id = some c := State.tile_single h
  unfold State.tileServe
  rw [State.tile_single h]
  dsimp only [State.leaveBank]
  simp only [here, List.foldl_nil, List.map_nil]
  rw [tile]
  simp only [he, ha.filter_waiting, Bool.false_eq_true, if_false, List.isEmpty_nil, if_true]
  exact ⟨_, rfl⟩

theorem State.tileServed_answered (h : s.tileCmds = [c]) (he : c.ended = false) (ha : c.Answered s.now) (ev : Instr) (failed : Nat → State → State)
    (k : TileCmd → State → State) : ∃ q, s.tileServed c.id ev failed k = k c { s with bankq := q } := by
  obtain ⟨q, e⟩ := State.tileServe_answered h he ha ev failed
  refine ⟨q, ?_⟩
  have tile : ({ s with bankq := q } : State).tile c.id = some c := State.tile_single h
  unfold State.tileServed
  simp only [e, tile, he, ha.no_waiting, Bool.or_self, Bool.false_eq_true, if_false]

theorem State.tilePhase_answered (h : s.tileCmds = [c]) (he : c.ended = false) (ha : c.Answered s.now) {upto : Nat} (hu : upto ≤ s.now) (ev : Instr)
    (failed : Nat → State → State) (k : TileCmd → State → State) : ∃ q, s.tilePhase c.id upto ev failed k = k c { s with bankq := q } := by
  obtain ⟨q, e⟩ := State.tileServed_answered h he ha ev failed (fun c s => s.answered c upto ev (k c))
  refine ⟨q, e.trans ?_⟩
  exact State.answered_go (s := { s with bankq := q }) ha hu _ _

end

/-! ## Queues of the banks and the answers of the address map -/

section
variable (s : State) (q : List BankItem)

theorem State.resolveIn_bankq (part c va : Nat) : ({ s with bankq := q } : State).resolveIn part c va = s.resolveIn part c va := rfl

theorem SameMap.of_bankq : SameMap s { s with bankq := q } := ⟨rfl, rfl, rfl, rfl, rfl, rfl, rfl⟩

theorem State.latency_bankq (c : Nat) (p : Place) : ({ s with bankq := q } : State).latency c p = s.latency c p := by
  cases p with
  | global va => simp only [State.latency, (SameMap.of_bankq s q).walk, (SameMap.of_bankq s q).hostKind]
  | core | die => rfl

theorem State.tensorStatus_bankq (part c : Nat) (l : List Byte) : ({ s with bankq := q } : State).tensorStatus part c l = s.tensorStatus part c l := rfl

theorem State.padLat_bankq (part c e va : Nat) : ({ s with bankq := q } : State).padLat part c e va = s.padLat part c e va := by
  simp only [State.padLat, State.resolveIn_bankq, State.latency_bankq]

theorem State.padWords_bankq (c : TileCmd) (w : Bool) (view : Nat) (sent : Nat → Nat) (va n : Nat) :
    ({ s with bankq := q } : State).padWords c w view sent va n = s.padWords c w view sent va n := by
  simp only [State.padWords, State.padLat_bankq]

theorem State.missing_bankq (c : TileCmd) (view n : Nat) (l : List (Nat × Nat)) :
    ({ s with bankq := q } : State).missing c view n l = s.missing c view n l := by
  simp only [State.missing, State.padWords_bankq]

theorem State.stepWords_bankq (c : TileCmd) (n : Nat) : ({ s with bankq := q } : State).stepWords c n = s.stepWords c n := by
  simp only [State.stepWords, State.missing_bankq]

theorem State.tileWords_bankq (c : TileCmd) (t : Option Tensor) (n : Nat) : ({ s with bankq := q } : State).tileWords c t n = s.tileWords c t n := by
  simp only [State.tileWords, State.missing_bankq]

theorem State.drainWords_bankq (c : TileCmd) (d : Tensor) (n : Nat) (l : List (Nat × List Byte)) :
    ({ s with bankq := q } : State).drainWords c d n l = s.drainWords c d n l := by
  simp only [State.drainWords, State.padWords_bankq]

end

end Sys2Proof.Machine
end

section
/-!
O44: a task is dispatched (R258 to R260, R271).
-/

namespace Sys2Proof.Machine

theorem State.setAcc_acc (s : State) (e : Nat) (f : Tbl (BitVec 32) → Tbl (BitVec 32)) :
    ((s.setAcc e f).core e).engine.acc = f (s.core e).engine.acc := by
  unfold State.setAcc
  rw [State.core_updCore, if_pos rfl]

/-- A command whose words have been taken into its latch at cycle `n`. -/
def TileCmd.started (c : TileCmd) (l : List (List (List Nat × Nat) × List (List Nat × Nat))) (n : Nat) : TileCmd :=
  { c with words := [], from_ := n, latch := l }

section
variable {s : State} {c : TileCmd} {e : Nat}

/-- A task that goes to its engine notes the cycle, and the one in which its operands are there at the earliest. -/
theorem exec_taskDispatch_first (h : s.tileCmds = [c]) (hs : s.saved = []) (he : c.engine = some e) (hk : c.kind = 1) (hend : c.ended = false)
    (hhalt : (s.core e).halted = false) (hd : c.dispatched = none) (hdims : c.chain = false ∨ (s.core e).engine.dims = (c.rows, c.cols)) :
    exec (.taskDispatch c.id) s =
      .next (({ s with tileCmds := [{ c with dispatched := some s.now, from_ := s.now, upto := s.now + s.operandTime c e }] } : State).after 0
        (.taskDispatch c.id)) := by
  have dims : (c.chain && (s.core e).engine.dims != (c.rows, c.cols)) = false := by
    rcases hdims with hc | hc <;> simp [hc]
  show execTaskDispatch c.id s = _
  unfold execTaskDispatch
  simp only [State.tile_single h, he, hk, hend, hhalt, State.tileAway_of_saved hs, hd, dims, State.updTile_single h]
  rfl

/-- A dispatched task whose words are answered looks at its operands. -/
theorem exec_taskDispatch_next (h : s.tileCmds = [c]) (hs : s.saved = []) (he : c.engine = some e) (hk : c.kind = 1) (hend : c.ended = false)
    (hhalt : (s.core e).halted = false) (hd : c.dispatched.isSome = true) (ha : c.Answered s.now) :
    ∃ q, exec (.taskDispatch c.id) s = .next (({ s with bankq := q } : State).dispatchGo c e) := by
  obtain ⟨q, eq⟩ := State.tileServed_answered h hend ha (.taskDispatch c.id) (fun va s => s.faultTile c.id va) (fun c s => s.dispatchGo c e)
  refine ⟨q, ?_⟩
  rw [← eq]
  have hd0 : c.dispatched.isNone = false := by simpa using hd
  show execTaskDispatch c.id s = _
  unfold execTaskDispatch
  simp only [State.tile_single h, he, hk, hend, hhalt, State.tileAway_of_saved hs, hd0]
  rfl

/-- With its operands there it waits until they can be there. -/
theorem State.dispatchGo_wait (hi : c.icnt ≤ c.idx.length) (hw : c.cpres = false ∨ c.chain = true ∨ s.tileWords c c.cT c.from_ = [])
    (hstep : s.stepWords c 0 = []) (ha : c.Answered s.now) (hu : s.now < c.upto) : s.dispatchGo c e = s.tick (c.upto - s.now) (.taskDispatch c.id) := by
  have words : (if c.cpres && !c.chain then s.tileWords c c.cT c.from_ else []) = [] := by
    rcases hw with hc | hc | hc <;> simp [hc]
  unfold State.dispatchGo
  simp only [if_neg (Nat.not_lt.2 hi), words, hstep]
  rw [if_neg (by simp)]
  exact State.answered_wait ha hu _ _

/-- Then it starts its accumulator and takes the first operands into its latch. -/
theorem State.dispatchGo_start (hi : c.icnt ≤ c.idx.length) (hw : c.cpres = false ∨ c.chain = true ∨ s.tileWords c c.cT c.from_ = [])
    (hstep : s.stepWords c 0 = []) (ha : c.Answered s.now) (hu : c.upto ≤ s.now) :
    s.dispatchGo c e =
      (let s1 := s.updTile c.id (fun x => x.started (if 0 < c.steps then [c.latchStep 0] else []) s.now)
       (if c.chain then s1 else s1.setAcc e (fun _ => c.startAcc)).tick 0 (.kStep e)) := by
  have words : (if c.cpres && !c.chain then s.tileWords c c.cT c.from_ else []) = [] := by
    rcases hw with hc | hc | hc <;> simp [hc]
  unfold State.dispatchGo
  simp only [if_neg (Nat.not_lt.2 hi), words, hstep]
  rw [if_neg (by simp)]
  exact State.answered_go ha hu _ _

/-- R258: the dispatch, of a task that was not dispatched before. -/
theorem taskDispatch_sent (h : s.tileCmds = [c]) (hs : s.saved = []) (he : c.engine = some e) (hk : c.kind = 1) (hend : c.ended = false)
    (hhalt : (s.core e).halted = false) (hd : c.dispatched = none) (hdims : c.chain = false ∨ (s.core e).engine.dims = (c.rows, c.cols)) :
    ∃ t x, exec (.taskDispatch c.id) s = .next t ∧ t.tile c.id = some x ∧
      x.dispatched = some s.now ∧ x.upto = s.now + s.operandTime c e ∧ t.Placed s.now (.taskDispatch c.id) ∧ Aside s t [] :=
  ⟨_, _, exec_taskDispatch_first h hs he hk hend hhalt hd hdims,
    State.tile_single (c := { c with dispatched := some s.now, from_ := s.now, upto := s.now + s.operandTime c e }) rfl, rfl, rfl, mem_tins_self _ _ _,
    fun _ => rfl, rfl, fun _ _ => rfl⟩

/-- R271: a task whose operands cannot be there yet. -/
theorem taskDispatch_waits (h : s.tileCmds = [c]) (hs : s.saved = []) (he : c.engine = some e) (hk : c.kind = 1) (hend : c.ended = false)
    (hhalt : (s.core e).halted = false) (hd : c.dispatched.isSome = true) (ha : c.Answered s.now) (hi : c.icnt ≤ c.idx.length)
    (hw : c.cpres = false ∨ c.chain = true ∨ s.tileWords c c.cT c.from_ = []) (hstep : s.stepWords c 0 = []) (hu : s.now < c.upto) :
    ∃ t x, exec (.taskDispatch c.id) s = .next t ∧ t.Placed c.upto (.taskDispatch c.id) ∧ t.tile c.id = some x ∧ x.latch = c.latch ∧ Aside s t [] := by
  obtain ⟨q, eq⟩ := exec_taskDispatch_next h hs he hk hend hhalt hd ha
  rw [State.dispatchGo_wait (s := { s with bankq := q }) hi (by rwa [State.tileWords_bankq]) (by rwa [State.stepWords_bankq]) ha hu] at eq
  obtain ⟨p, ep, hp, -⟩ := State.tick_spec { s with bankq := q } (c.upto - s.now) (.taskDispatch c.id)
  rw [ep] at eq
  rw [show ({ s with bankq := q } : State).now + (c.upto - s.now) = c.upto from Nat.add_sub_cancel' (Nat.le_of_lt hu)] at hp
  exact ⟨_, c, eq, hp, State.tile_single h, rfl, fun _ => rfl, rfl, fun _ _ => rfl⟩

/-- R259, R260: a task whose operands are there starts its accumulator and its k-steps. -/
theorem taskDispatch_starts (h : s.tileCmds = [c]) (hs : s.saved = []) (he : c.engine = some e) (hk : c.kind = 1) (hend : c.ended = false)
    (hhalt : (s.core e).halted = false) (hd : c.dispatched.isSome = true) (ha : c.Answered s.now) (hi : c.icnt ≤ c.idx.length)
    (hw : c.cpres = false ∨ c.chain = true ∨ s.tileWords c c.cT c.from_ = []) (hstep : s.stepWords c 0 = []) (hu : c.upto ≤ s.now) :
    ∃ t x, exec (.taskDispatch c.id) s = .next t ∧ t.tile c.id = some x ∧ x.words = [] ∧ t.Placed s.now (.kStep e) ∧ Aside s t [] ∧
      (0 < c.steps → x.latch = [c.latchStep 0]) ∧ (t.core e).engine.acc = (if c.chain then (s.core e).engine.acc else c.startAcc) := by
  obtain ⟨q, eq⟩ := exec_taskDispatch_next h hs he hk hend hhalt hd ha
  rw [State.dispatchGo_start (s := { s with bankq := q }) hi (by rwa [State.tileWords_bankq]) (by rwa [State.stepWords_bankq]) ha hu] at eq
  rw [State.updTile_single (s := { s with bankq := q }) h] at eq
  have tile {t : State} (ht : t.tileCmds = [c.started (if 0 < c.steps then [c.latchStep 0] else []) s.now]) := State.tile_single ht
  cases hch : c.chain with
  | true =>
    rw [hch] at eq
    obtain ⟨p, ep, hp, -⟩ := State.tick_spec ({ s with bankq := q, tileCmds := [c.started (if 0 < c.steps then [c.latchStep 0] else []) s.now] } : State) 0 (.kStep e)
    exact ⟨_, _, eq.trans (congrArg Host.Outcome.next ep), tile rfl, rfl, hp, ⟨fun _ => rfl, rfl, fun _ _ => rfl⟩, fun h0 => if_pos h0, rfl⟩
  | false =>
    rw [hch] at eq
    obtain ⟨p, ep, hp, -⟩ := State.tick_spec (({ s with bankq := q, tileCmds := [c.started (if 0 < c.steps then [c.latchStep 0] else []) s.now] } : State).setAcc e (fun _ => c.startAcc)) 0 (.kStep e)
    refine ⟨_, _, eq.trans (congrArg Host.Outcome.next ep), tile rfl, rfl, hp, ⟨fun _ => rfl, rfl, fun _ _ => rfl⟩, fun h0 => if_pos h0, ?_⟩
    exact State.setAcc_acc { s with bankq := q, tileCmds := [c.started (if 0 < c.steps then [c.latchStep 0] else []) s.now] } e (fun _ => c.startAcc)

end

end Sys2Proof.Machine
end

section
/-!
O44: an engine's k-steps (R260, R181 to R183).
-/

namespace Sys2Proof.Machine

/-! ## A table filled cell by cell -/

/-- What is put under a key, alike each time, is read there. -/
theorem tget_foldl_tput {α β : Type} [DecidableEq α] (d : α) (k : β → Nat) (v : β → α) {x : β} : ∀ (l : List β) (m : Tbl α),
    (∀ y ∈ l, k y = k x → v y = v x) → (x ∈ l ∨ tget d m (k x) = v x) → tget d (l.foldl (fun m e => tput d m (k e) (v e)) m) (k x) = v x := by
  intro l
  induction l with
  | nil => exact fun m _ h => h.resolve_left List.not_mem_nil
  | cons y r ih =>
    intro m hv h
    refine ih _ (fun z hz => hv z (List.mem_cons_of_mem _ hz)) ?_
    by_cases hk : k x = k y
    · rw [hk, tget_tput_self]
      exact .inr (hv y List.mem_cons_self hk.symm)
    · rw [tget_tput_ne _ _ _ hk]
      refine h.imp (fun hx => ?_) id
      rcases List.mem_cons.1 hx with rfl | hx
      exacts [absurd rfl hk, hx]

theorem TileCmd.cols_le (c : TileCmd) : c.cols ≤ 128 := by
  unfold TileCmd.cols bits
  omega

theorem TileCmd.mem_cells {c : TileCmd} {e : Nat × Nat} : e ∈ c.cells ↔ e.1 < c.rows ∧ e.2 < c.cols := by
  obtain ⟨i, j⟩ := e
  simp [TileCmd.cells]

/-- Every element takes the sum of its row and column. -/
theorem TileCmd.tget_stepAcc (c : TileCmd) (a b : Tensor) (n : Nat) (l : List (List Nat × Nat) × List (List Nat × Nat)) (acc : Tbl (BitVec 32)) {i j : Nat}
    (hi : i < c.rows) (hj : j < c.cols) :
    tget 0 (c.stepAcc a b n l acc) (128 * i + j) =
      kstepAcc (tget 0 acc (128 * i + j)) (stepSum ((l.1.map (feedOf a.fmt n)).getD i ([], 127)).1 ((l.2.map (feedOf b.fmt n)).getD j ([], 127)).1)
        ((l.1.map (feedOf a.fmt n)).getD i ([], 127)).2 ((l.2.map (feedOf b.fmt n)).getD j ([], 127)).2 (if b.fmt = 7 then 1 else 0) := by
  refine tget_foldl_tput 0 (fun e : Nat × Nat => 128 * e.1 + e.2) (fun e => _) (x := (i, j)) c.cells acc (fun y hy hk => ?_)
    (.inl (TileCmd.mem_cells.2 ⟨hi, hj⟩))
  have hy2 := (TileCmd.mem_cells.1 hy).2
  have hc := c.cols_le
  have e : y = (i, j) := by
    refine Prod.ext ?_ ?_ <;> dsimp only at hk ⊢ <;> omega
  rw [e]

/-! ## What a step of the one command leaves -/

/-- The command is `x` now; memory, threads, the accumulators and the placed work are still there. -/
structure Reworks (s t : State) (x : TileCmd) : Prop where
  now : t.now = s.now
  tiles : t.tileCmds = [x]
  mem : t.mem = s.mem
  empty : t.empty = s.empty
  threads : t.threads = s.threads
  acc : ∀ e, (t.core e).engine.acc = (s.core e).engine.acc
  pend : ∀ y ∈ s.pend, y ∈ t.pend

section
variable {s t : State} {c x : TileCmd}

theorem Reworks.refl (h : s.tileCmds = [c]) : Reworks s s c := ⟨rfl, h, rfl, rfl, rfl, fun _ => rfl, fun _ h => h⟩

theorem Reworks.aside (h : Reworks s t x) : Aside s t [] := by
  refine ⟨fun a => ?_, h.empty, fun u _ => ?_⟩
  · unfold State.byte
    rw [h.mem]
  · unfold State.thread
    rw [h.threads]

theorem Reworks.tile (h : Reworks s t x) : t.tile x.id = some x := State.tile_single h.tiles

theorem Reworks.bankq (h : Reworks s t x) (q : List BankItem) : Reworks s { t with bankq := q } x := ⟨h.now, h.tiles, h.mem, h.empty, h.threads, h.acc, h.pend⟩

theorem Reworks.updTile (h : Reworks s t x) (f : TileCmd → TileCmd) : Reworks s (t.updTile x.id f) (f x) := by
  rw [State.updTile_single h.tiles]
  exact ⟨h.now, rfl, h.mem, h.empty, h.threads, h.acc, h.pend⟩

theorem Reworks.tick (h : Reworks s t x) (n : Nat) (i : Instr) : Reworks s (t.tick n i) x := by
  obtain ⟨p, e, -, hp⟩ := t.tick_spec n i
  rw [e]
  exact ⟨h.now, h.tiles, h.mem, h.empty, h.threads, h.acc, fun y hy => hp y (h.pend y hy)⟩

theorem Reworks.after (h : Reworks s t x) (n : Nat) (i : Instr) : Reworks s (t.after n i) x :=
  ⟨h.now, h.tiles, h.mem, h.empty, h.threads, h.acc, fun y hy => (mem_tins _ _ _ y).2 (.inr (h.pend y hy))⟩

theorem Reworks.updCore (h : Reworks s t x) {e : Nat} {f : Core → Core} (hf : ∀ k, (f k).engine.acc = k.engine.acc) : Reworks s (t.updCore e f) x := by
  refine ⟨h.now, h.tiles, h.mem, h.empty, h.threads, fun d => ?_, h.pend⟩
  rw [State.core_updCore]
  split
  case isTrue e1 => rw [hf, ← e1, h.acc]
  case isFalse => exact h.acc d

theorem State.placed_tick (s : State) (n : Nat) (i : Instr) : (s.tick n i).Placed (s.now + n) i := by
  obtain ⟨p, e, hp, -⟩ := s.tick_spec n i
  rw [e]
  exact hp

theorem State.Placed.tick {m : Nat} {j : Instr} (h : s.Placed m j) (n : Nat) (i : Instr) : (s.tick n i).Placed m j := by
  obtain ⟨p, e, -, hp⟩ := s.tick_spec n i
  rw [e]
  exact hp _ h

theorem Reworks.addWords (h : Reworks s t x) (ev : Instr) (l : List CopyWord) : Reworks s (t.addWords x ev l) { x with words := x.words ++ l } := by
  unfold State.addWords
  cases l with
  | nil => exact h.updTile _
  | cons w r => exact (h.updTile _).tick _ _

theorem Reworks.answered (h : Reworks s t x) {upto : Nat} {ev : Instr} {k : State → State} (hk : ∃ y, Reworks s (k t) y ∧ y.id = x.id ∧ y.step = x.step ∧ y.ended = x.ended) :
    ∃ y, Reworks s (t.answered c upto ev k) y ∧ y.id = x.id ∧ y.step = x.step ∧ y.ended = x.ended := by
  unfold State.answered
  dsimp only
  split
  · exact ⟨x, h.tick _ _, rfl, rfl, rfl⟩
  · exact hk

/-- The operands of the next k-step, asked for or taken. -/
theorem Reworks.latchMore (h : Reworks s t x) (e : Nat) : ∃ y, Reworks s (t.latchMore x e) y ∧ y.id = x.id ∧ y.step = x.step ∧ y.ended = x.ended := by
  unfold State.latchMore
  dsimp only
  split
  · exact ⟨x, h, rfl, rfl, rfl⟩
  · split
    · exact ⟨_, h.addWords _ _, rfl, rfl, rfl⟩
    · exact h.answered ⟨_, h.updTile _, rfl, rfl, rfl⟩

end

end Sys2Proof.Machine
end

section
/-!
O44: an engine's k-steps (R260, R181 to R183), continued: the step itself.
-/

namespace Sys2Proof.Machine

/-- What an engine does once its task's words have been served: the latch takes what it lacks, and the next k-step starts (R260). -/
def State.kStepLatch (c : TileCmd) (e : Nat) (s : State) : State :=
  let s3 := if c.words.any (fun w => w.state == .waiting) then s else s.latchMore c e
  match s3.tile c.id with
  | some c =>
    if c.ended then s3.leaveBank (.kStep e)
    else if c.ends.isSome ∨ c.latch.isEmpty then s3
    else ((s3.updTile c.id (fun x => { x with ends := some (s3.now + c.cycles), from_ := s3.now })).tick 0 (.kStep e)).tick c.cycles (.kStep e)
  | none => s3.leaveBank (.kStep e)

section
variable {s s1 : State} {c c1 : TileCmd} {e : Nat}

section
variable (h : s.tileCmds = [c]) (ht : (s.core e).engine.task = some c.id) (hk : c.kind = 1) (hd : c.dispatched.isSome = true) (hend : c.ended = false)
  (h1 : (if c.ends.any (fun n => decide (n ≤ s.now)) then s.stepDone c e else s) = s1) (hc : s1.tileCmds = [c1]) (hid : c1.id = c.id)
  (hend1 : c1.ended = false) (hhalt : (s1.core e).halted = false) (hs : s1.saved = [])
include h ht hk hd hend h1 hc hid hend1 hhalt hs

/-- Behind the sums of a k-step that has ended (`s1` is the state with those, if there are any): a task without a further one drains or ends. -/
theorem exec_kStep_last (hstep : c1.steps ≤ c1.step) : exec (.kStep e) s = .next (s1.afterStep c1 e) := by
  have task : s.engineTask e = some c := by
    unfold State.engineTask
    rw [ht]
    exact State.tile_single h
  have hd0 : c.dispatched.isNone = false := by simpa using hd
  show execKStep e s = _
  unfold execKStep
  simp only [task, hk, hend, hd0, h1, ← hid, State.tile_single hc, hend1, hhalt, State.tileAway_of_saved hs, hstep]
  rfl

/-- One with a further k-step sees to its latch. -/
theorem exec_kStep_more (hstep : c1.step < c1.steps) (ha : c1.Answered s1.now) :
    ∃ q, exec (.kStep e) s = .next (({ s1 with bankq := q } : State).kStepLatch c1 e) := by
  have task : s.engineTask e = some c := by
    unfold State.engineTask
    rw [ht]
    exact State.tile_single h
  have hd0 : c.dispatched.isNone = false := by simpa using hd
  obtain ⟨q, eq⟩ := State.tileServe_answered hc hend1 ha (.kStep e) (fun va s => s.faultTile c1.id va)
  refine ⟨q, ?_⟩
  have tile : ({ s1 with bankq := q } : State).tile c1.id = some c1 := State.tile_single hc
  show execKStep e s = _
  unfold execKStep
  simp only [task, hk, hend, hd0, h1, ← hid, State.tile_single hc, hend1, hhalt, State.tileAway_of_saved hs, if_neg (Nat.not_le.2 hstep), eq, tile]
  rfl

end

/-- Once the latch has its operands, the next k-step starts. -/
theorem Reworks.kStepLatch {t : State} (h : Reworks s t c) (hw : c.words.any (fun w => w.state == .waiting) = false) (hend : c.ended = false) :
    ∃ y, Reworks s (t.kStepLatch c e) y ∧ y.id = c.id ∧ y.step = c.step := by
  obtain ⟨y, hy, hid, hstep, hend1⟩ := h.latchMore e
  have tile : (t.latchMore c e).tile c.id = some y := by rw [← hid]; exact hy.tile
  unfold State.kStepLatch
  simp only [hw, Bool.false_eq_true, if_false, tile, hend1.trans hend]
  split
  · exact ⟨y, hy, hid, hstep⟩
  · exact ⟨_, ((hy.updTile _).tick _ _).tick _ _, hid, hstep⟩

/-- What follows the latest k-step of a task keeps its accumulator. -/
theorem Reworks.afterStep {t : State} (h : Reworks s t c) : ∃ y, Reworks s (t.afterStep c e) y ∧ y.id = c.id ∧ y.step = c.step := by
  unfold State.afterStep
  dsimp only
  split
  · exact ⟨c, h, rfl, rfl⟩
  · split
    · exact ⟨_, (h.updTile _).tick _ _, rfl, rfl⟩
    · split
      · refine ⟨{ c with ended := true }, .after (.updTile (.updCore h ?_) _) _ _, rfl, rfl⟩
        exact fun _ => rfl
      · exact ⟨_, (h.updTile _).tick _ _, rfl, rfl⟩

/-- A k-step starts, with the latch as `y` has it. -/
theorem State.kStepLatch_starts {t u : State} {y : TileCmd} (hw : c.words.any (fun w => w.state == .waiting) = false)
    (hm : t.latchMore c e = u) (hu : u.tileCmds = [y]) (hid : y.id = c.id) (hend : y.ended = false) (hends : y.ends = none) (hl : y.latch ≠ []) :
    t.kStepLatch c e =
      ((u.updTile y.id (fun x => { x with ends := some (u.now + y.cycles), from_ := u.now })).tick 0 (.kStep e)).tick y.cycles (.kStep e) := by
  have tile : u.tile c.id = some y := by
    rw [← hid]
    exact State.tile_single hu
  have hl1 : ¬ (y.ends.isSome = true ∨ y.latch.isEmpty = true) := by simp [hends, hl]
  unfold State.kStepLatch
  simp only [hw, Bool.false_eq_true, if_false, hm, tile, hend, if_neg hl1]

section
variable (h : s.tileCmds = [c]) (ht : (s.core e).engine.task = some c.id) (hk : c.kind = 1) (hd : c.dispatched.isSome = true) (hend : c.ended = false)
  (hhalt : (s.core e).halted = false) (hs : s.saved = []) (hstep : c.step < c.steps) (ha : c.Answered s.now)
include h ht hk hd hend hhalt hs hstep ha

/-- Where no k-step runs and the latch comes to hold operands, the next k-step starts. -/
theorem kStep_starts (hends : c.ends = none) {y : TileCmd} (hid : y.id = c.id) (hend1 : y.ended = false) (hends1 : y.ends = none) (hl : y.latch ≠ [])
    (hm : ∀ q, ({ s with bankq := q } : State).latchMore c e = { s with bankq := q, tileCmds := [y] }) :
    ∃ t, exec (.kStep e) s = .next t ∧ Reworks s t { y with ends := some (s.now + y.cycles), from_ := s.now } ∧
      t.Placed (s.now + y.cycles) (.kStep e) ∧ t.Placed s.now (.kStep e) := by
  have h1 : (if c.ends.any (fun n => decide (n ≤ s.now)) then s.stepDone c e else s) = s := by simp [hends]
  obtain ⟨q, eq⟩ := exec_kStep_more h ht hk hd hend h1 h rfl hend hhalt hs hstep ha
  rw [State.kStepLatch_starts (t := { s with bankq := q }) ha.no_waiting (hm q) rfl hid hend1 hends1 hl] at eq
  have hr0 : Reworks s { s with bankq := q, tileCmds := [y] } y := ⟨rfl, rfl, rfl, rfl, rfl, fun _ => rfl, fun _ h => h⟩
  have hr := hr0.updTile (fun x => { x with ends := some (s.now + y.cycles), from_ := s.now })
  refine ⟨_, eq, (hr.tick _ _).tick _ _, ?_, (State.placed_tick _ _ _).tick _ _⟩
  have hn := State.placed_tick (State.tick (State.updTile { s with bankq := q, tileCmds := [y] } y.id
    (fun x => { x with ends := some (s.now + y.cycles), from_ := s.now })) 0 (.kStep e)) y.cycles (.kStep e)
  rwa [(hr.tick 0 (.kStep e)).now] at hn

/-- R260: with the latch full, or with no k-step behind those it has. -/
theorem kStep_latched (hends : c.ends = none) (hl : c.latch ≠ []) (hfull : 2 ≤ c.latch.length ∨ c.steps ≤ c.step + c.latch.length) :
    ∃ t x, exec (.kStep e) s = .next t ∧ t.tile c.id = some x ∧ x.step = c.step ∧ x.latch = c.latch ∧ x.ends = some (s.now + c.cycles) ∧
      t.Placed (s.now + c.cycles) (.kStep e) ∧ t.Placed s.now (.kStep e) ∧ (t.core e).engine.acc = (s.core e).engine.acc ∧ Aside s t [] := by
  obtain ⟨t, et, hr, hp, hp0⟩ := kStep_starts h ht hk hd hend hhalt hs hstep ha hends (y := c) rfl hend hends hl (fun q => by
    unfold State.latchMore
    dsimp only
    rw [if_pos hfull, ← h])
  exact ⟨t, _, et, hr.tile, rfl, rfl, rfl, hp, hp0, hr.acc e, hr.aside⟩

/-- R260: with an empty latch and the operands there. -/
theorem kStep_latches (hends : c.ends = none) (hl : c.latch = []) (hw : s.stepWords c c.step = []) :
    ∃ t x, exec (.kStep e) s = .next t ∧ t.tile c.id = some x ∧ x.step = c.step ∧ x.latch = [c.latchStep c.step] ∧ x.ends = some (s.now + c.cycles) ∧
      (t.core e).engine.acc = (s.core e).engine.acc ∧ Aside s t [] := by
  obtain ⟨t, et, hr, -, -⟩ := kStep_starts h ht hk hd hend hhalt hs hstep ha hends (y := { c with latch := [c.latchStep c.step], words := [] }) rfl hend hends
    (List.cons_ne_nil _ _) (fun q => by
      have h0 : ¬ (2 ≤ c.latch.length ∨ c.steps ≤ c.step + c.latch.length) := by simp [hl, hstep]
      unfold State.latchMore
      dsimp only
      rw [if_neg h0, hl, List.length_nil, Nat.add_zero, State.stepWords_bankq, hw, if_neg (by simp)]
      rw [State.answered_go (s := { s with bankq := q }) ha (Nat.zero_le _), State.updTile_single (s := { s with bankq := q }) h, List.nil_append])
  exact ⟨t, _, et, hr.tile, rfl, rfl, rfl, hr.acc e, hr.aside⟩

end

/-- The command whose running k-step has ended. -/
def TileCmd.stepped (c : TileCmd) (l : List (List (List Nat × Nat) × List (List Nat × Nat))) : TileCmd := { c with step := c.step + 1, latch := l, ends := none }

/-- A k-step without a NaN among its sums. -/
theorem State.stepDone_sums (h : s.tileCmds = [c]) {a b : Tensor} (hA : c.a = some a) (hB : c.b = some b) {l : List (List Nat × Nat) × List (List Nat × Nat)}
    {rest : List (List (List Nat × Nat) × List (List Nat × Nat))} (hl : c.latch = l :: rest)
    (hnan : ∀ x ∈ c.cells, (f32 (tget 0 (c.stepAcc a b (c.slice c.step).2 l (s.core e).engine.acc) (128 * x.1 + x.2))).isNaN = false) :
    s.stepDone c e = { s.setAcc e (fun _ => c.stepAcc a b (c.slice c.step).2 l (s.core e).engine.acc) with tileCmds := [c.stepped rest] } := by
  unfold State.stepDone
  rw [hA, hB, hl]
  dsimp only
  rw [if_neg, State.updTile_single (s := s.setAcc e _) h]
  · rfl
  · simpa using fun i j hm => hnan (i, j) hm

/-- R181 to R183, R260, R268: a k-step that has run its cycles. -/
theorem kStep_sums (h : s.tileCmds = [c]) (ht : (s.core e).engine.task = some c.id) (hk : c.kind = 1) (hd : c.dispatched.isSome = true)
    (hend : c.ended = false) (hhalt : (s.core e).halted = false) (hs : s.saved = []) (ha : c.Answered s.now)
    {a b : Tensor} (hA : c.a = some a) (hB : c.b = some b) {l : List (List Nat × Nat) × List (List Nat × Nat)}
    {rest : List (List (List Nat × Nat) × List (List Nat × Nat))} (hl : c.latch = l :: rest) {m : Nat} (hends : c.ends = some m) (hm : m ≤ s.now)
    (hnan : ∀ x ∈ c.cells, (f32 (tget 0 (c.stepAcc a b (c.slice c.step).2 l (s.core e).engine.acc) (128 * x.1 + x.2))).isNaN = false) :
    ∃ t x, exec (.kStep e) s = .next t ∧ t.tile c.id = some x ∧ x.step = c.step + 1 ∧ Aside s t [] ∧
      (t.core e).engine.acc = c.stepAcc a b (c.slice c.step).2 l (s.core e).engine.acc := by
  generalize hacc : c.stepAcc a b (c.slice c.step).2 l (s.core e).engine.acc = acc at hnan ⊢
  have h1 : (if c.ends.any (fun n => decide (n ≤ s.now)) then s.stepDone c e else s) = { s.setAcc e (fun _ => acc) with tileCmds := [c.stepped rest] } := by
    rw [hends, if_pos (by simpa using hm), State.stepDone_sums h hA hB hl (hacc ▸ hnan), hacc]
  have hhalt1 : ((s.setAcc e (fun _ => acc)).core e).halted = false := by
    unfold State.setAcc
    rw [State.core_updCore, if_pos rfl]
    exact hhalt
  have aside : Aside s { s.setAcc e (fun _ => acc) with tileCmds := [c.stepped rest] } [] := ⟨fun _ => rfl, rfl, fun _ _ => rfl⟩
  have hacc1 := State.setAcc_acc s e (fun _ => acc)
  have finish {t : State} (et : exec (.kStep e) s = .next t)
      (hr : ∃ y, Reworks { s.setAcc e (fun _ => acc) with tileCmds := [c.stepped rest] } t y ∧ y.id = c.id ∧ y.step = c.step + 1) :
      ∃ t x, exec (.kStep e) s = .next t ∧ t.tile c.id = some x ∧ x.step = c.step + 1 ∧ Aside s t [] ∧ (t.core e).engine.acc = acc := by
    obtain ⟨y, hy, hid, hstep⟩ := hr
    exact ⟨t, y, et, hid ▸ hy.tile, hstep, aside.trans hy.aside (fun _ h => h), (hy.acc e).trans hacc1⟩
  rcases Nat.lt_or_ge (c.step + 1) c.steps with hlt | hge
  · obtain ⟨q, eq⟩ := exec_kStep_more (c1 := c.stepped rest) h ht hk hd hend h1 rfl rfl hend hhalt1 hs hlt ha
    exact finish eq (((Reworks.refl rfl).bankq q).kStepLatch ha.no_waiting hend)
  · exact finish (exec_kStep_last (c1 := c.stepped rest) h ht hk hd hend h1 rfl rfl hend hhalt1 hs hge) (Reworks.refl rfl).afterStep

end

end Sys2Proof.Machine
end

section
/-!
O44: moves of held accumulators (R264, R265), and drains (R261).
-/

namespace Sys2Proof.Machine

/-! ## Moves -/

/-- A core whose engine holds an accumulator. -/
def Core.loaded (acc : Tbl (BitVec 32)) (dims : Nat × Nat) (held : List (Nat × Nat)) (k : Core) : Core :=
  { k with engine := { k.engine with acc := acc, dims := dims, held := held } }

/-- A core whose engine holds its accumulator under a tag no more. -/
def Core.released (tag : Nat × Nat) (k : Core) : Core := { k with engine := { k.engine with held := k.engine.held.filter (fun t => t != tag) } }

/-- A context in which a tag is not claimed. -/
def Ctx.released (tag : Nat) (x : Ctx) : Ctx := { x with claimed := x.claimed.filter (fun t => t != tag) }

theorem Core.loaded_acc (acc : Tbl (BitVec 32)) (dims : Nat × Nat) (held : List (Nat × Nat)) (k : Core) : (k.loaded acc dims held).engine.acc = acc := rfl
theorem Core.released_contains (tag : Nat × Nat) (k : Core) : (k.released tag).engine.held.contains tag = false := by simp [Core.released]
theorem Ctx.released_contains (tag : Nat) (x : Ctx) : (x.released tag).claimed.contains tag = false := by simp [Ctx.released]

section
variable {s : State} {c : TileCmd} {e : Nat}

/-- A command that ends, and completes at once. -/
def State.finishTile (s : State) (c : TileCmd) : State :=
  ({ s with tileCmds := [{ c with ended := true, words := [] }] } : State).after 0 (.taskComplete c.id)

theorem State.finishTile_placed (s : State) (c : TileCmd) : (s.finishTile c).Placed s.now (.taskComplete c.id) := State.placed_after _ 0 _

theorem State.finishTile_tile (s : State) (c : TileCmd) : (s.finishTile c).tile c.id = some { c with ended := true, words := [] } :=
  State.tile_single (c := { c with ended := true, words := [] }) rfl

theorem State.finishTile_core (s : State) (c : TileCmd) (x : Nat) : (s.finishTile c).core x = s.core x := rfl
theorem State.finishTile_ctx (s : State) (c : TileCmd) (x : Nat) : (s.finishTile c).ctx x = s.ctx x := rfl
theorem State.finishTile_aside {s t : State} (h : Aside s t []) (c : TileCmd) : Aside s (t.finishTile c) [] := h

theorem Aside.then_bankq {s t : State} {l : List Nat} (h : Aside s t l) (q : List BankItem) : Aside s { t with bankq := q } l := h
theorem Aside.then_updCore {s t : State} {l : List Nat} (h : Aside s t l) (e : Nat) (f : Core → Core) : Aside s (t.updCore e f) l := h
theorem Aside.then_updCtx {s t : State} {l : List Nat} (h : Aside s t l) (x : Nat) (f : Ctx → Ctx) : Aside s (t.updCtx x f) l := h

/-- A move whose words are answered, and whose time is over. -/
theorem exec_accumulatorMoveRun (h : s.tileCmds = [c]) (hs : s.saved = []) (he : c.engine = some e) (hk : 1 < c.kind) (hend : c.ended = false)
    (hhalt : (s.core e).halted = false) (hd : c.dispatched.isSome = true) (ha : c.Answered s.now) (hu : c.upto ≤ s.now) :
    ∃ q, exec (.accumulatorMoveRun c.id) s = .next (({ s with bankq := q } : State).moveDone c e) := by
  obtain ⟨q, eq⟩ := State.tilePhase_answered h hend ha hu (.accumulatorMoveRun c.id) (fun va s => s.faultTile c.id va) (fun c s => s.moveDone c e)
  refine ⟨q, ?_⟩
  rw [← eq]
  have hd0 : c.dispatched.isNone = false := by simpa using hd
  have hk0 : ¬ (c.kind ≤ 1 ∨ c.ended = true) := by simp [hend, hk]
  show execAccumulatorMoveRun c.id s = _
  unfold execAccumulatorMoveRun
  simp only [State.tile_single h, he, if_neg hk0, hhalt, State.tileAway_of_saved hs, hd0]
  rfl

theorem State.moveDone_load (h : s.tileCmds = [c]) (hk : c.kind = 4) (hpad : fieldOf (c.words.flatMap (fun w => w.data)) 16 48 = 0) {m n : Nat}
    (hm : fieldOf (c.words.flatMap (fun w => w.data)) 1 1 % 128 + 1 = m) (hn : fieldOf (c.words.flatMap (fun w => w.data)) 2 1 % 128 + 1 = n) :
    s.moveDone c e = (s.updCore e (Core.loaded (imageAcc (c.words.flatMap (fun w => w.data)) m n) (m, n) [(c.ctx, c.tag.getD 0)])).finishTile c := by
  subst hm hn
  unfold State.moveDone
  simp only [hk, hpad]
  rw [State.updTile_single (s := s.updCore e _) h]
  rfl

theorem State.moveDone_keep (h : s.tileCmds = [c]) (hk : c.kind = 3) : s.moveDone c e = s.finishTile c := by
  unfold State.moveDone
  simp only [hk]
  rw [State.updTile_single h]
  rfl

theorem State.moveDone_save (h : s.tileCmds = [c]) (hk : c.kind = 2) :
    s.moveDone c e = ((s.updCore e (Core.released (c.ctx, c.chainTag.getD 0))).updCtx c.ctx (Ctx.released (c.tagKey (c.chainTag.getD 0)))).finishTile c := by
  unfold State.moveDone
  simp only [hk]
  rw [State.updTile_single (s := (s.updCore e _).updCtx c.ctx _) h]
  rfl

/-- R265: the elements that an image holds. -/
theorem tget_imageAcc (l : List Byte) {m n i j : Nat} (hm : m ≤ 128) (hn : n ≤ 128) (hi : i < m) (hj : j < n) :
    tget 0 (imageAcc l m n) (128 * i + j) = BitVec.ofNat 32 (fieldOf l (64 + 4 * (128 * i + j)) 4) := by
  unfold imageAcc
  have e := List.foldl_filter (l := List.range 16384) (p := fun k => decide (k / 128 < m ∧ k % 128 < n)) (init := ([] : Tbl (BitVec 32)))
    (f := fun a k => tput 0 a k (BitVec.ofNat 32 (fieldOf l (64 + 4 * k) 4)))
  simp only [decide_eq_true_eq] at e
  rw [← e]
  refine tget_foldl_tput 0 id (fun k => BitVec.ofNat 32 (fieldOf l (64 + 4 * k) 4)) _ [] (fun y _ hy => by rw [show y = 128 * i + j from hy]) (.inl ?_)
  rw [List.mem_filter, List.mem_range, decide_eq_true_eq]
  omega

/-- R264, R265: an `ACCLD`. -/
theorem accumulatorMoveRun_load (h : s.tileCmds = [c]) (hs : s.saved = []) (he : c.engine = some e) (hk : c.kind = 4) (hend : c.ended = false)
    (hhalt : (s.core e).halted = false) (hd : c.dispatched.isSome = true) (ha : c.Answered s.now) (hu : c.upto ≤ s.now) :
    let l := c.words.flatMap (fun w => w.data)
    fieldOf l 16 48 = 0 →
    ∃ t x, exec (.accumulatorMoveRun c.id) s = .next t ∧ t.tile c.id = some x ∧ x.ended = true ∧ t.Placed s.now (.taskComplete c.id) ∧
      (t.core e).engine.held = [(c.ctx, c.tag.getD 0)] ∧ (t.core e).engine.dims = (fieldOf l 1 1 % 128 + 1, fieldOf l 2 1 % 128 + 1) ∧
      (∀ i j, i < fieldOf l 1 1 % 128 + 1 → j < fieldOf l 2 1 % 128 + 1 → tget 0 (t.core e).engine.acc (128 * i + j) =
        BitVec.ofNat 32 (fieldOf l (64 + 4 * (128 * i + j)) 4)) ∧ Aside s t [] := by
  intro l hpad
  obtain ⟨q, eq⟩ := exec_accumulatorMoveRun h hs he (by omega) hend hhalt hd ha hu
  generalize hm : fieldOf l 1 1 % 128 + 1 = m
  generalize hn : fieldOf l 2 1 % 128 + 1 = n
  have hm1 : m ≤ 128 := by omega
  have hn1 : n ≤ 128 := by omega
  have aside : Aside s { s with bankq := q } [] := (Aside.refl s []).then_bankq q
  generalize hu : ({ s with bankq := q } : State) = u at eq aside
  have hc : u.tileCmds = [c] := by rw [← hu]; exact h
  have hnow : u.now = s.now := by rw [← hu]
  rw [State.moveDone_load hc hk hpad hm hn] at eq
  have core := State.core_updCore u e e (Core.loaded (imageAcc l m n) (m, n) [(c.ctx, c.tag.getD 0)])
  rw [if_pos rfl] at core
  refine ⟨_, _, eq, State.finishTile_tile _ c, rfl, hnow ▸ State.finishTile_placed _ c, ?_, ?_, fun i j hi hj => ?_,
    State.finishTile_aside (aside.then_updCore e _) c⟩
  · rw [State.finishTile_core, core]
    rfl
  · rw [State.finishTile_core, core]
    rfl
  · rw [State.finishTile_core, core, Core.loaded_acc]
    exact tget_imageAcc l hm1 hn1 hi hj

/-- R264: an `ACCSV` or `ACCSVK`. -/
theorem accumulatorMoveRun_save (h : s.tileCmds = [c]) (hs : s.saved = []) (he : c.engine = some e) (hk : c.kind = 2 ∨ c.kind = 3) (hend : c.ended = false)
    (hhalt : (s.core e).halted = false) (hd : c.dispatched.isSome = true) (ha : c.Answered s.now) (hu : c.upto ≤ s.now) :
    ∃ t x, exec (.accumulatorMoveRun c.id) s = .next t ∧ t.tile c.id = some x ∧ x.ended = true ∧ t.Placed s.now (.taskComplete c.id) ∧ Aside s t [] ∧
      (c.kind = 3 → (t.core e).engine.held = (s.core e).engine.held ∧ (t.ctx c.ctx).claimed = (s.ctx c.ctx).claimed) ∧
      (c.kind = 2 → (t.core e).engine.held.contains (c.ctx, c.chainTag.getD 0) = false ∧ (t.ctx c.ctx).claimed.contains (c.tagKey (c.chainTag.getD 0)) = false) := by
  obtain ⟨q, eq⟩ := exec_accumulatorMoveRun h hs he (by omega) hend hhalt hd ha hu
  have aside : Aside s { s with bankq := q } [] := (Aside.refl s []).then_bankq q
  have core0 : ({ s with bankq := q } : State).core e = s.core e := rfl
  have ctx0 : ({ s with bankq := q } : State).ctx c.ctx = s.ctx c.ctx := rfl
  generalize hu : ({ s with bankq := q } : State) = u at eq aside core0 ctx0
  have hc : u.tileCmds = [c] := by rw [← hu]; exact h
  have hnow : u.now = s.now := by rw [← hu]
  rcases hk with hk | hk
  · rw [State.moveDone_save hc hk] at eq
    refine ⟨_, _, eq, State.finishTile_tile _ c, rfl, hnow ▸ State.finishTile_placed _ c,
      State.finishTile_aside ((aside.then_updCore e _).then_updCtx c.ctx _) c, fun h3 => by omega, fun _ => ⟨?_, ?_⟩⟩
    · rw [State.finishTile_core, show ∀ (v : State) f, (v.updCtx c.ctx f).core e = v.core e from fun _ _ => rfl, State.core_updCore, if_pos rfl]
      exact Core.released_contains _ _
    · rw [State.finishTile_ctx, State.ctx_updCtx, if_pos rfl]
      exact Ctx.released_contains _ _
  · rw [State.moveDone_keep hc hk] at eq
    refine ⟨_, _, eq, State.finishTile_tile _ c, rfl, hnow ▸ State.finishTile_placed _ c, State.finishTile_aside aside c, fun _ => ⟨?_, ?_⟩, fun h2 => by omega⟩
    · rw [State.finishTile_core, core0]
    · rw [State.finishTile_ctx, ctx0]

end

end Sys2Proof.Machine
end

section
/-!
O44: the word of a command that has its turn at its bank (R240, R260).
-/

namespace Sys2Proof.Machine

/-- The request of a command's word at its bank. -/
def State.tileItem (s : State) (c : TileCmd) (ev : Instr) (w : CopyWord) (v : Server) (n : Nat) : BankItem :=
  { server := v, cls := .T, came := w.sent, key := { lti := c.lti.toNat, name := s.nameOf c.core, slot := slotOf c.tid }, part := c.part, ctx := c.ctx,
    who := ev, turn := n }

/-- It waits there, and the cycle is its own. -/
def State.TileTurn (s : State) (c : TileCmd) (ev : Instr) (w : CopyWord) (v : Server) : Prop :=
  ∃ n, s.bankq.filter (fun x => decide (x.who = ev)) = [s.tileItem c ev w v n] ∧
    ({ s with bankq := (s.leaveBank ev).bankq ++ [s.tileItem c ev w v n] } : State).cycleOf v = some (s.tileItem c ev w v n)

/-- A bank that serves a request of the tile queue in this cycle. -/
def State.tileBank (s : State) (v : Server) : State := s.setBank { s.bank v with served := some s.now, next := BankClass.T.after }

section
variable {s : State} {c : TileCmd}

/-- What replaces the elements of a kind is the first of that kind. -/
theorem find_updEach_const {α : Type} {p : α → Bool} {b : α} (hb : p b = true) : ∀ {l : List α}, l.any p = true → (updEach p (fun _ => b) l).find? p = some b
  | [], h => by cases h
  | x :: l, h => by
    unfold updEach
    rw [List.map_cons]
    by_cases hx : p x = true
    · rw [if_pos hx, List.find?_cons_of_pos hb]
    · rw [if_neg hx, List.find?_cons_of_neg hx]
      refine find_updEach_const hb ?_
      simpa [hx] using h

theorem State.bank_setBank (s : State) (b : Bank) : (s.setBank b).bank b.server = b := by
  unfold State.setBank State.bank
  dsimp only
  split
  case isTrue h => rw [find_updEach_const (by simp) h, Option.getD_some]
  case isFalse h =>
    have hnone : s.banks.find? (fun x => x.server == b.server) = none := List.find?_eq_none.2 (by simpa using h)
    rw [List.find?_append, hnone]
    simp

theorem State.bank_server (s : State) (v : Server) : (s.bank v).server = v := by
  unfold State.bank
  cases hf : s.banks.find? (fun b => b.server == v) with
  | none => rfl
  | some b => simpa using List.find?_some hf

theorem State.bank_tileBank (s : State) (v : Server) : (s.tileBank v).bank v = { s.bank v with served := some s.now, next := .P } := by
  have h := s.bank_setBank { s.bank v with served := some s.now, next := BankClass.T.after }
  rwa [show ({ s.bank v with served := some s.now, next := BankClass.T.after } : Bank).server = v from s.bank_server v] at h

theorem State.serverOf_bankq (s : State) (q : List BankItem) (p : Place) : ({ s with bankq := q } : State).serverOf p = s.serverOf p := by
  cases p with
  | global va => simp only [State.serverOf, (SameMap.of_bankq s q).walk, (SameMap.of_bankq s q).hostKind]
  | core | die => rfl

theorem State.tileServe_turn {w : CopyWord} {p : Place} {ev : Instr} (h : s.tileCmds = [c]) (hend : c.ended = false) (hw : c.words = [w])
    (hstate : w.state = .waiting) (hsent : w.sent < s.now) (hp : s.resolveIn c.part w.unit w.va = some p) (hturn : s.TileTurn c ev w (s.serverOf p))
    (failed : Nat → State → State) {P : State → Prop} (hP : ∀ q u, ((({ s with bankq := q } : State).tileBank (s.serverOf p)).tileWord c 0 w (failed w.va)) = u →
      ∃ c', u.tileCmds = [c'] ∧ c'.id = c.id ∧ c'.ended = false ∧ c'.words.any (fun w => w.state == .waiting) = false ∧ ∀ q, P { u with bankq := q }) :
    P (s.tileServe c.id ev failed) := by
  obtain ⟨n, hold, hcyc⟩ := hturn
  have here : c.words.zipIdx.filter (fun e => e.1.state == .waiting && decide (e.1.sent ≤ s.now)) = [(w, 0)] := by
    rw [hw]
    simp [hstate, hsent.le]
  generalize hr : s.tileServe c.id ev failed = r
  unfold State.tileServe at hr
  rw [State.tile_single h] at hr
  dsimp -zeta only at hr
  extract_lets old s' here' server key heads items seen s1 at hr
  have hserver : server w = s.serverOf p := by
    show (match s'.resolveIn c.part w.unit w.va with | some p => s'.serverOf p | none => Server.home 0) = s.serverOf p
    rw [show s'.resolveIn c.part w.unit w.va = some p from hp]
    exact serverOf_bankq s _ p
  have hheads : heads = [(s.serverOf p, w, 0)] := by
    show here'.foldl _ _ = _
    rw [show here' = [(w, 0)] from here]
    simp [hserver]
  have hitems : items = [s.tileItem c ev w (s.serverOf p) n] := by
    show heads.map _ = _
    have hfind : old.find? (fun x => x.server == s.serverOf p) = some (s.tileItem c ev w (s.serverOf p) n) := by
      rw [show old = _ from hold]
      exact List.find?_cons_of_pos (by simp [State.tileItem])
    rw [hheads, List.map_singleton]
    dsimp only
    rw [hfind]
    rfl
  have hseen : seen (s.serverOf p) w = true := by
    show (decide (w.sent < s'.now) || _) = true
    rw [decide_eq_true (show w.sent < s'.now from hsent), Bool.true_or]
  have hs1 : s1 = (({ s with bankq := (s.leaveBank ev).bankq ++ [s.tileItem c ev w (s.serverOf p) n] } : State).tileBank (s.serverOf p)).tileWord c 0 w
      (failed w.va) := by
    have hmine : (({ s with bankq := (s.leaveBank ev).bankq ++ [s.tileItem c ev w (s.serverOf p) n] } : State).cycleOf (s.serverOf p)).any
        (fun x => decide (x.who = ev)) = true := by
      rw [hcyc, Option.any_some]
      exact decide_eq_true rfl
    have htile : ({ s' with bankq := s'.bankq ++ [s.tileItem c ev w (s.serverOf p) n] } : State).tile c.id = some c := State.tile_single h
    show heads.foldl _ { s' with bankq := s'.bankq ++ items } = _
    rw [hheads, hitems, List.foldl_cons, List.foldl_nil]
    show (if (seen (s.serverOf p) w && (({ s with bankq := (s.leaveBank ev).bankq ++ [s.tileItem c ev w (s.serverOf p) n] } : State).cycleOf
      (s.serverOf p)).any (fun x => decide (x.who = ev))) = true then _ else _) = _
    rw [hseen, hmine, if_pos (show (true && true) = true from rfl), htile]
    dsimp only
    rw [if_neg (by simp [hend])]
    rfl
  obtain ⟨c', hc, hid, hend', hw', hP'⟩ := hP _ s1 hs1.symm
  have htile : s1.tile c.id = some c' := by
    rw [← hid]
    exact State.tile_single hc
  have hrest : c'.words.filter (fun w => w.state == .waiting) = [] := by
    rw [List.filter_eq_nil_iff]
    exact fun x hx => by simpa using (List.any_eq_false.1 hw') x hx
  rw [htile] at hr
  simp only [hend', hrest, Bool.false_eq_true, if_false, List.isEmpty_nil, if_true] at hr
  rw [← hr]
  exact hP' _

/-! ## The word served -/

theorem SameMap.padStop {s t : State} (h : SameMap s t) (part core : Nat) (p : Place) : t.padStop part core p = s.padStop part core p := by
  simp only [State.padStop, h.routeFault]

/-- A word with its answer. -/
def CopyWord.answer (w : CopyWord) (data : List Byte) (ready : Nat) : CopyWord := { w with state := .performed, data := data, ready := ready }

/-- A word read: its bytes are on their way to the engine. -/
theorem State.tileWord_read {w : CopyWord} {k o : Nat} (h : s.tileCmds = [c]) (hw : c.words = [w]) (hread : w.write = false)
    (hp : s.resolveIn c.part w.unit w.va = some (.core k o)) (hstop : s.padStop c.part c.at_ (.core k o) = none) (hecc : s.ecc = [])
    (failed : State → State) :
    ∃ n, s.tileWord c 0 w failed = { s with tileCmds := [{ c with words := [w.answer (s.peek (coreKey k o) w.len) n] }] } := by
  refine ⟨s.now + (s.padLat c.part w.unit c.at_ w.va - halfUp (s.padLat c.part w.unit c.at_ w.va)), ?_⟩
  unfold State.tileWord
  rw [hp]
  dsimp only
  rw [hstop, if_neg (by simp), if_neg (by simp [hread]), s.eccRead_none hecc, s.eccBad_none hecc, if_neg (by simp), State.updTile_single h, hw]
  rfl

/-- Bytes written at a bank where nothing waits. -/
theorem State.Unwatched.bankWrite_eq (h : s.Unwatched) (key : Nat) (l : List Byte) :
    ∃ cs w em, s.bankWrite key l = { s with mem := pokeMem s.mem key l, cores := cs, was := w, empty := em } := by
  have hn : (s.noteOld key l.length).Unwatched := by
    rw [s.noteOld_eq]
    exact h.same rfl rfl rfl rfl rfl
  have hu : ((s.noteOld key l.length).poke key l).Unwatched := by
    rw [State.poke_eq]
    exact hn.same rfl rfl rfl rfl rfl
  obtain ⟨em, e⟩ := hu.landed key l.length
  have hb : s.bankWrite key l = ((s.noteOld key l.length).poke key l).landed key l.length := by
    unfold State.bankWrite State.putBytes State.putRaw
    simp only [hu.ecc, List.isEmpty_nil, if_true]
  obtain ⟨wa, hwa⟩ : ∃ wa, s.noteOld key l.length = { s with was := wa } := ⟨_, s.noteOld_eq key l.length⟩
  rw [hwa] at hb e
  obtain ⟨cs, hcs⟩ : ∃ cs, ({ s with was := wa } : State).poke key l = { s with mem := pokeMem s.mem key l, cores := cs, was := wa } := ⟨_, State.poke_eq _ key l⟩
  rw [hcs] at hb e
  exact ⟨cs, wa, em, hb.trans e⟩

/-- A word written. -/
theorem State.tileWord_write {w : CopyWord} {k o : Nat} (h : s.tileCmds = [c]) (hw : c.words = [w]) (hwrite : w.write = true)
    (hp : s.resolveIn c.part w.unit w.va = some (.core k o)) (hstop : s.padStop c.part c.at_ (.core k o) = none) (hu : s.Unwatched)
    (h1 : s.levelOf (s.thread c.tid).ctx ≠ 1) (h2 : s.levelOf (s.thread c.tid).ctx ≠ 2) (failed : State → State) :
    ∃ cs wa em, s.tileWord c 0 w failed = { s with mem := pokeMem s.mem (coreKey k o) w.data, cores := cs, was := wa, empty := em,
                                                   tileCmds := [{ c with words := [w.answer w.data s.now] }] } := by
  have hnote : s.noteEngine c.tid (coreKey k o) w.len = s := by
    unfold State.noteEngine State.recording State.replaying
    exact if_neg (by simp [h1, h2])
  obtain ⟨cs, wa, em, e⟩ := hu.bankWrite_eq (coreKey k o) w.data
  refine ⟨cs, wa, em, ?_⟩
  unfold State.tileWord
  rw [hp]
  dsimp only
  rw [hstop, if_neg (by simp), if_pos hwrite, show (Place.core k o).chipKey = coreKey k o from rfl, hnote, e]
  rw [State.updTile_single (s := { s with mem := pokeMem s.mem (coreKey k o) w.data, cores := cs, was := wa, empty := em }) h, hw]
  rfl

end

end Sys2Proof.Machine
end

section
/-!
O44: commands with one word at its bank; `TTSET` (R249) and drains (R261).
-/

namespace Sys2Proof.Machine

section
variable {s : State} {c : TileCmd} {w : CopyWord} {k o : Nat} {ev : Instr} {v : Server}

/-! ## A phase with one word at its bank -/

/-- A command whose one word has its answer. -/
def TileCmd.answer (c : TileCmd) (w : CopyWord) (data : List Byte) (ready : Nat) : TileCmd := { c with words := [w.answer data ready] }

theorem State.tileServed_of_serve {u : State} {c1 : TileCmd} {failed : Nat → State → State} (h : s.tileServe c.id ev failed = u) (hc : u.tileCmds = [c1])
    (hid : c1.id = c.id) (hend : c1.ended = false) (hw : c1.words.any (fun w => w.state == .waiting) = false) (k : TileCmd → State → State) :
    s.tileServed c.id ev failed k = k c1 u := by
  have tile : u.tile c.id = some c1 := by
    rw [← hid]
    exact State.tile_single hc
  unfold State.tileServed
  simp only [h, tile, hend, hw, Bool.or_self, Bool.false_eq_true, if_false]

section
variable (h : s.tileCmds = [c]) (hend : c.ended = false) (hw : c.words = [w]) (hstate : w.state = .waiting) (hsent : w.sent < s.now)
  (hp : s.resolveIn c.part w.unit w.va = some (.core k o)) (hstop : s.padStop c.part c.at_ (.core k o) = none)
  (hturn : s.TileTurn c ev w (s.serverOf (.core k o)))
include h hend hw hstate hsent hp hstop hturn

/-- A word read: the phase goes on with its bytes. -/
theorem State.tileServed_read (hread : w.write = false) (hecc : s.ecc = []) (failed : Nat → State → State) (g : TileCmd → State → State) :
    ∃ n q q', s.tileServed c.id ev failed g = g (c.answer w (s.peek (coreKey k o) w.len) n)
      { ({ s with bankq := q } : State).tileBank (s.serverOf (.core k o)) with
          tileCmds := [c.answer w (s.peek (coreKey k o) w.len) n], bankq := q' } := by
  have hserve : ∃ n q q', s.tileServe c.id ev failed = { ({ s with bankq := q } : State).tileBank (s.serverOf (.core k o)) with
      tileCmds := [c.answer w (s.peek (coreKey k o) w.len) n], bankq := q' } := by
    refine State.tileServe_turn h hend hw hstate hsent hp hturn failed (P := fun u => ∃ n q q', u = { ({ s with bankq := q } : State).tileBank
      (s.serverOf (.core k o)) with tileCmds := [c.answer w (s.peek (coreKey k o) w.len) n], bankq := q' }) (fun q u hu => ?_)
    have hmap : SameMap s (({ s with bankq := q } : State).tileBank (s.serverOf (.core k o))) := ⟨rfl, rfl, rfl, rfl, rfl, rfl, rfl⟩
    obtain ⟨n, e⟩ := State.tileWord_read (s := ({ s with bankq := q } : State).tileBank (s.serverOf (.core k o))) h hw hread hp
      ((hmap.padStop _ _ _).trans hstop) hecc (failed w.va)
    rw [← hu, e]
    exact ⟨_, rfl, rfl, hend, rfl, fun q' => ⟨n, q, q', rfl⟩⟩
  obtain ⟨n, q, q', e⟩ := hserve
  exact ⟨n, q, q', State.tileServed_of_serve e rfl rfl hend rfl g⟩

/-- A word written: it is in memory. -/
theorem State.tileServed_write (hwrite : w.write = true) (hcalm : s.Calm) (h1 : s.levelOf (s.thread c.tid).ctx ≠ 1)
    (h2 : s.levelOf (s.thread c.tid).ctx ≠ 2) (failed : Nat → State → State) (g : TileCmd → State → State) :
    ∃ cs wa em q q', s.tileServed c.id ev failed g = g (c.answer w w.data s.now)
      { ({ s with bankq := q } : State).tileBank (s.serverOf (.core k o)) with
          mem := pokeMem s.mem (coreKey k o) w.data, cores := cs, was := wa, empty := em, tileCmds := [c.answer w w.data s.now], bankq := q' } := by
  have hserve : ∃ cs wa em q q', s.tileServe c.id ev failed = { ({ s with bankq := q } : State).tileBank (s.serverOf (.core k o)) with
      mem := pokeMem s.mem (coreKey k o) w.data, cores := cs, was := wa, empty := em, tileCmds := [c.answer w w.data s.now], bankq := q' } := by
    refine State.tileServe_turn h hend hw hstate hsent hp hturn failed (P := fun u => ∃ cs wa em q q', u =
      { ({ s with bankq := q } : State).tileBank (s.serverOf (.core k o)) with
          mem := pokeMem s.mem (coreKey k o) w.data, cores := cs, was := wa, empty := em, tileCmds := [c.answer w w.data s.now], bankq := q' }) (fun q u hu => ?_)
    have hmap : SameMap s (({ s with bankq := q } : State).tileBank (s.serverOf (.core k o))) := ⟨rfl, rfl, rfl, rfl, rfl, rfl, rfl⟩
    obtain ⟨cs, wa, em, e⟩ := State.tileWord_write (s := ({ s with bankq := q } : State).tileBank (s.serverOf (.core k o))) h hw hwrite hp
      ((hmap.padStop _ _ _).trans hstop) (hcalm.unwatched.same rfl rfl rfl rfl rfl) h1 h2 (failed w.va)
    rw [← hu, e]
    exact ⟨_, rfl, rfl, hend, rfl, fun q' => ⟨cs, wa, em, q, q', rfl⟩⟩
  obtain ⟨cs, wa, em, q, q', e⟩ := hserve
  exact ⟨cs, wa, em, q, q', State.tileServed_of_serve e rfl rfl hend rfl g⟩

end

end

end Sys2Proof.Machine
end

section
/-!
O44: `TTSET` at the scheduler (R249).
-/

namespace Sys2Proof.Machine

section
variable {s : State} {c : TileCmd} {w : CopyWord} {r : Req} {p : Place} {k o : Nat}

/-- What ends a `TTSET` whose descriptor cannot be read. -/
def TileCmd.ttsetFailed (c : TileCmd) (va : Nat) (s : State) : State :=
  (s.logError (dieOf c.core) 6 3 c.die va (s.keyDetail c.tid)).ttsetEnd c 4 none

/-- A `TTSET` that has asked for its descriptor goes on with the words of it. -/
theorem exec_ttsetServe (h : s.tileCmds = [c]) (hs : s.saved = []) (hk : c.kind = 0) (hd : c.dispatched.isSome = true) (hw : c.words ≠ [])
    (hp : s.resolveIn c.part c.core c.addr = some p) (hg : ∀ va, p ≠ .global va) (hstop : s.padStop c.part c.core p = none) :
    exec (.ttsetServe c.id) s =
      .next (s.tilePhase c.id 0 (.ttsetServe c.id) c.ttsetFailed (fun c s => s.ttsetRead c (c.words.flatMap (fun w => w.data)))) := by
  have hd0 : c.dispatched.isNone = false := by simpa using hd
  have hw0 : c.words.isEmpty = false := by simpa using hw
  have hl : (s.leaveBank (.ttsetServe c.id)).tileBehind c = false := State.tileBehind_single (s := s.leaveBank (.ttsetServe c.id)) h
  have ha : (s.leaveBank (.ttsetServe c.id)).tileAway c = false := State.tileAway_of_saved (s := s.leaveBank (.ttsetServe c.id)) hs c
  have hp0 : (s.leaveBank (.ttsetServe c.id)).resolveIn c.part c.core c.addr = some p := hp
  have hstop0 : (s.leaveBank (.ttsetServe c.id)).padStop c.part c.core p = none := ((SameMap.of_bankq s _).padStop _ _ _).trans hstop
  show execTtsetServe c.id s = _
  unfold execTtsetServe
  simp only [State.tile_single h, hk, hd0, hl, ha, hp0, hstop0, Bool.false_and, Bool.or_self, Bool.false_eq_true, if_false, ne_eq, not_true]
  cases p with
  | global va => exact absurd rfl (hg va)
  | core | die =>
    rw [if_neg (by simp [hw0])]
    rfl

theorem State.updReq_banks (s : State) (id : Nat) (f : Req → Req) : (s.updReq id f).banks = s.banks := rfl
theorem Aside.then_updReq {s t : State} {l : List Nat} (h : Aside s t l) (id : Nat) (f : Req → Req) : Aside s (t.updReq id f) l := h
theorem Aside.then_after {s t : State} {l : List Nat} (h : Aside s t l) (n : Nat) (i : Instr) : Aside s (t.after n i) l := h

/-- An entry of a context's tensor table, written or made invalid. -/
def Ctx.describe (entry : Nat) (e : Option Tensor) (x : Ctx) : Ctx :=
  { x with tensors := match e with | some t => tset x.tensors entry t | none => terase x.tensors entry }

theorem Ctx.describe_tensors (entry : Nat) (e : Option Tensor) (x : Ctx) : tfind (x.describe entry e).tensors entry = e := by
  cases e with
  | none => exact tfind_terase_self _ _
  | some t => exact tfind_tset_self _ _ _

/-- A request answered with a status. -/
def Req.status (status : Nat) (r : Req) : Req := { r with state := .performed, val := BitVec.ofNat 1024 status }

/-- The end of a `TTSET` in the scheduler (R249): the entry, the status, and the answer on its way. -/
theorem State.ttsetEnd_eq (hr : s.req c.id = some r) (status : Nat) (e : Option Tensor) :
    ∃ n, s.ttsetEnd c status e = ((State.updCtx { s with tileCmds := s.tileCmds.filter (fun x => x.id != c.id) } c.ctx
      (Ctx.describe (c.die * 256 + c.operand.toNat % 256) e)).updReq c.id (Req.status status)).after n (.fillLands c.id) := by
  unfold State.ttsetEnd
  rw [hr]
  exact ⟨_, rfl⟩

theorem State.ttsetEnd_ended (h : s.tileCmds = [c]) (hr : s.req c.id = some r) (status : Nat) (e : Option Tensor) :
    (∃ m, (s.ttsetEnd c status e).Placed m (.fillLands c.id)) ∧
      (s.ttsetEnd c status e).req c.id = some { r with state := .performed, val := BitVec.ofNat 1024 status } ∧
      (s.ttsetEnd c status e).tileCmds = [] ∧ tfind ((s.ttsetEnd c status e).ctx c.ctx).tensors (c.die * 256 + c.operand.toNat % 256) = e := by
  have hid : r.id = c.id := by simpa using List.find?_some hr
  obtain ⟨n, eq⟩ := State.ttsetEnd_eq hr status e
  have hl : s.tileCmds.filter (fun x => x.id != c.id) = [] := by
    rw [h]
    simp
  rw [hl] at eq
  have hreq := State.req_updReq (s := State.updCtx { s with tileCmds := [] } c.ctx (Ctx.describe (c.die * 256 + c.operand.toNat % 256) e)) hr
    (Req.status status) hid
  have hctx := State.ctx_updCtx { s with tileCmds := [] } c.ctx c.ctx (Ctx.describe (c.die * 256 + c.operand.toNat % 256) e)
  rw [if_pos rfl] at hctx
  rw [eq]
  refine ⟨⟨_, State.placed_after _ _ _⟩, hreq, rfl, ?_⟩
  exact (congrArg (fun x : Ctx => tfind x.tensors (c.die * 256 + c.operand.toNat % 256)) hctx).trans (Ctx.describe_tensors _ _ _)

/-- It leaves memory, the threads and the banks. -/
theorem State.ttsetEnd_aside (s : State) (c : TileCmd) (status : Nat) (e : Option Tensor) :
    Aside s (s.ttsetEnd c status e) [] ∧ (s.ttsetEnd c status e).banks = s.banks := by
  cases hr : s.req c.id with
  | none =>
    unfold State.ttsetEnd
    rw [hr]
    exact ⟨.refl s [], rfl⟩
  | some r =>
    obtain ⟨n, eq⟩ := State.ttsetEnd_eq hr status e
    have h0 : Aside s { s with tileCmds := s.tileCmds.filter (fun x => x.id != c.id) } [] := ⟨fun _ => rfl, rfl, fun _ _ => rfl⟩
    rw [eq, State.after_banks, State.updReq_banks, State.updCtx_banks]
    exact ⟨((h0.then_updCtx _ _).then_updReq _ _).then_after _ _, rfl⟩

theorem State.ttsetEnd_tileCmds (h : s.tileCmds = [c]) (status : Nat) (e : Option Tensor) :
    (s.ttsetEnd c status e).tileCmds = [c] ∨ (s.ttsetEnd c status e).tileCmds = [] := by
  cases hr : s.req c.id with
  | none =>
    unfold State.ttsetEnd
    rw [hr]
    exact .inl h
  | some r => exact .inr (State.ttsetEnd_ended h hr status e).2.2.1

/-- A descriptor read decides its status and its entry. -/
theorem State.ttsetRead_eq (s : State) (c : TileCmd) (l : List Byte) :
    s.ttsetRead c l = s.ttsetEnd c (s.tensorStatus c.part c.core l) (if s.tensorStatus c.part c.core l = 0 then some (s.tensorOf c.core l) else none) := by
  unfold State.ttsetRead
  split
  case h_1 h0 => rw [h0, if_pos rfl]
  case h_2 h0 => rw [if_neg h0]

theorem State.tensorOf_bankq (s : State) (q : List BankItem) (core : Nat) (l : List Byte) :
    ({ s with bankq := q } : State).tensorOf core l = s.tensorOf core l := rfl

/-- R249: a `TTSET` whose descriptor has been read. -/
theorem ttsetServe_reads (h : s.tileCmds = [c]) (hs : s.saved = []) (hk : c.kind = 0) (hend : c.ended = false) (hd : c.dispatched.isSome = true)
    (hr : s.req c.id = some r) (hp : s.resolveIn c.part c.core c.addr = some p) (hg : ∀ va, p ≠ .global va) (hstop : s.padStop c.part c.core p = none)
    (hw : c.words ≠ []) (ha : c.Answered s.now) :
    let l := c.words.flatMap (fun w => w.data)
    let status := s.tensorStatus c.part c.core l
    ∃ t m, exec (.ttsetServe c.id) s = .next t ∧ t.req c.id = some { r with state := .performed, val := BitVec.ofNat 1024 status } ∧
      t.Placed m (.fillLands c.id) ∧ Aside s t [] ∧ t.tileCmds = [] ∧
      tfind (t.ctx c.ctx).tensors (c.die * 256 + c.operand.toNat % 256) = if status = 0 then some (s.tensorOf c.core l) else none := by
  intro l status
  have eq := exec_ttsetServe h hs hk hd hw hp hg hstop
  obtain ⟨q, eq1⟩ := State.tilePhase_answered h hend ha (Nat.zero_le _) (.ttsetServe c.id) c.ttsetFailed
    (fun c s => s.ttsetRead c (c.words.flatMap (fun w => w.data)))
  rw [eq1] at eq
  rw [State.ttsetRead_eq, State.tensorStatus_bankq, State.tensorOf_bankq] at eq
  obtain ⟨⟨m, hm⟩, hreq, htiles, htensor⟩ := State.ttsetEnd_ended (s := { s with bankq := q }) h hr status (if status = 0 then some (s.tensorOf c.core l) else none)
  exact ⟨_, m, eq, hreq, hm, (State.ttsetEnd_aside { s with bankq := q } c status (if status = 0 then some (s.tensorOf c.core l) else none)).1, htiles, htensor⟩

/-- R249, R260: a word of a descriptor at its bank. -/
theorem ttsetServe_word (h : s.tileCmds = [c]) (hs : s.saved = []) (hk : c.kind = 0) (hend : c.ended = false) (hw : c.words = [w])
    (hstate : w.state = .waiting) (hsent : w.sent < s.now) (hread : w.write = false) (hpc : s.resolveIn c.part c.core c.addr = some (.core k o))
    (hp : s.resolveIn c.part w.unit w.va = some (.core k o)) (hd : c.dispatched.isSome = true) (hstopc : s.padStop c.part c.core (.core k o) = none)
    (hstop : s.padStop c.part c.at_ (.core k o) = none) (hecc : s.ecc = []) (hturn : s.TileTurn c (.ttsetServe c.id) w (s.serverOf (.core k o))) :
    ∃ t x y, exec (.ttsetServe c.id) s = .next t ∧ (t.tile c.id = some x ∧ x.words = [y] ∨ t.tileCmds = []) ∧
      (t.bank (s.serverOf (.core k o))).served = some s.now ∧ (t.bank (s.serverOf (.core k o))).next = .P ∧ y.state = .performed ∧
      y.data = s.peek (coreKey k o) w.len ∧ Aside s t [] := by
  have eq := exec_ttsetServe h hs hk hd (by simp [hw]) hpc (fun _ => Place.noConfusion) hstopc
  obtain ⟨n, q, q', eq1⟩ := State.tileServed_read h hend hw hstate hsent hp hstop hturn hread hecc c.ttsetFailed
    (fun x s => s.answered x 0 (.ttsetServe c.id) (fun s => s.ttsetRead x (x.words.flatMap (fun w => w.data))))
  replace eq := eq.trans (congrArg Host.Outcome.next eq1)
  have hbank := State.bank_tileBank { s with bankq := q } (s.serverOf (.core k o))
  have aside : Aside s ({ ({ s with bankq := q } : State).tileBank (s.serverOf (.core k o)) with
    tileCmds := [c.answer w (s.peek (coreKey k o) w.len) n], bankq := q' } : State) [] := ⟨fun _ => rfl, rfl, fun _ _ => rfl⟩
  generalize hu : ({ ({ s with bankq := q } : State).tileBank (s.serverOf (.core k o)) with
    tileCmds := [c.answer w (s.peek (coreKey k o) w.len) n], bankq := q' } : State) = u at eq aside
  have hbanks : u.banks = (({ s with bankq := q } : State).tileBank (s.serverOf (.core k o))).banks := by rw [← hu]
  have htiles : u.tileCmds = [c.answer w (s.peek (coreKey k o) w.len) n] := by rw [← hu]
  have served (t : State) (ht : t.banks = u.banks) : t.bank (s.serverOf (.core k o)) = { s.bank (s.serverOf (.core k o)) with served := some s.now, next := .P } := by
    unfold State.bank at hbank ⊢
    rw [ht, hbanks]
    exact hbank
  have finish (t : State) (et : exec (.ttsetServe c.id) s = .next t) (ht : t.banks = u.banks) (ha : Aside u t [])
      (hc : t.tileCmds = [c.answer w (s.peek (coreKey k o) w.len) n] ∨ t.tileCmds = []) :
      ∃ t x y, exec (.ttsetServe c.id) s = .next t ∧ (t.tile c.id = some x ∧ x.words = [y] ∨ t.tileCmds = []) ∧
        (t.bank (s.serverOf (.core k o))).served = some s.now ∧ (t.bank (s.serverOf (.core k o))).next = .P ∧ y.state = .performed ∧
        y.data = s.peek (coreKey k o) w.len ∧ Aside s t [] := by
    refine ⟨t, c.answer w (s.peek (coreKey k o) w.len) n, w.answer (s.peek (coreKey k o) w.len) n, et,
      hc.imp (fun hc => ⟨State.tile_single (c := c.answer w (s.peek (coreKey k o) w.len) n) hc, rfl⟩) id, ?_, ?_, rfl, rfl, aside.trans ha (fun _ h => h)⟩
    · rw [served t ht]
    · rw [served t ht]
  unfold State.answered at eq
  dsimp only at eq
  split at eq
  · obtain ⟨pd, ep, -, -⟩ := u.tick_spec ((c.answer w (s.peek (coreKey k o) w.len) n).words.foldl (fun n w => max n w.ready) 0 - u.now) (.ttsetServe c.id)
    rw [ep] at eq
    exact finish _ eq rfl ⟨fun _ => rfl, rfl, fun _ _ => rfl⟩ (.inl htiles)
  · rw [State.ttsetRead_eq] at eq
    obtain ⟨ha, hb⟩ := u.ttsetEnd_aside (c.answer w (s.peek (coreKey k o) w.len) n) _ _
    exact finish _ eq hb ha (State.ttsetEnd_tileCmds htiles _ _)

end

end Sys2Proof.Machine
end

section
/-!
O44: drains (R261).
-/

namespace Sys2Proof.Machine

section
variable {s : State} {c : TileCmd} {e : Nat} {d : Tensor} {w : CopyWord} {k o : Nat}

/-- A task behind its last k-step goes on with its drain's words. -/
theorem exec_taskDrain (h : s.tileCmds = [c]) (hs : s.saved = []) (ht : (s.core e).engine.task = some c.id) (hD : c.d = some d) (hk : c.kind = 1)
    (hd : c.dispatched.isSome = true) (hend : c.ended = false) (hstep : c.steps ≤ c.step) (hhalt : (s.core e).halted = false) :
    exec (.taskDrain e) s = .next (s.tilePhase c.id 0 (.taskDrain e) (fun va s => s.faultTile c.id va) (fun c s => s.drainGo c d e)) := by
  have task : s.engineTask e = some c := by
    unfold State.engineTask
    rw [ht]
    exact State.tile_single h
  have hd0 : c.dispatched.isNone = false := by simpa using hd
  have hcond : ¬ (c.kind ≠ 1 ∨ c.dispatched.isNone = true ∨ c.ended = true ∨ c.step < c.steps ∨
      ((s.core e).halted = true ∧ (!c.words.any (fun w => w.write)) = true)) := by
    simp [hk, hd0, hend, hstep, hhalt]
  show execTaskDrain e s = _
  unfold execTaskDrain
  simp only [task, hD, State.tileAway_of_saved hs]
  rw [if_neg hcond]
  rfl

/-- The elements of a row where neither residual nor dropout has a part. -/
theorem TileCmd.drained_plain (hr : c.rpres = false) (hdrop : c.drop = false) (acc : Tbl (BitVec 32)) (i : Nat) :
    c.drained acc i = (List.range c.cols).map (fun j => drainY (tget 0 acc (128 * i + j)) none none) := by
  unfold TileCmd.drained
  simp only [hr, hdrop]
  rfl

/-- Without a residual, and with no word yet, the words of D leave the engine. -/
theorem State.drainGo_writes (hr : c.rpres = false) (hdrop : c.drop = false) (hw : c.words = [])
    (hnan : ∀ i j, i < c.rows → j < c.cols → (f32 (drainY (tget 0 (s.core e).engine.acc (128 * i + j)) none none)).isNaN = false) :
    s.drainGo c d e = s.addWords c (.taskDrain e) (s.drainWords c d (max s.now (c.from_ + 16)) (c.drainRows d (s.core e).engine.acc)) := by
  have hn : (List.range c.rows).any (fun i => (c.drained (s.core e).engine.acc i).any (fun y => (f32 y).isNaN)) = false := by
    rw [List.any_eq_false]
    intro i hi
    rw [TileCmd.drained_plain hr hdrop, Bool.not_eq_true, List.any_eq_false]
    intro y hy
    obtain ⟨j, hj, rfl⟩ := List.mem_map.1 hy
    simpa using hnan i j (List.mem_range.1 hi) (List.mem_range.1 hj)
  unfold State.drainGo
  simp only [hw, hr, hn, List.any_nil, Bool.false_eq_true, if_false, List.isEmpty_nil, Bool.not_true, Nat.add_zero]

/-- With its words written, a drain ends, but not before its time. -/
theorem State.drainGo_waits (hw : c.words.any (fun w => w.write) = true) (hu : s.now < c.upto) : s.drainGo c d e = s.tick (c.upto - s.now) (.taskDrain e) := by
  unfold State.drainGo
  simp only [hw, if_true, hu]

theorem State.drainGo_ends (h : s.tileCmds = [c]) (hw : c.words.any (fun w => w.write) = true) (hu : c.upto ≤ s.now) : s.drainGo c d e = s.finishTile c := by
  unfold State.drainGo
  simp only [hw, if_true, if_neg (Nat.not_lt.2 hu)]
  rw [State.updTile_single h]
  rfl

section
variable (h : s.tileCmds = [c]) (hs : s.saved = []) (ht : (s.core e).engine.task = some c.id) (hD : c.d = some d) (hk : c.kind = 1)
  (hd : c.dispatched.isSome = true) (hend : c.ended = false) (hstep : c.steps ≤ c.step) (hhalt : (s.core e).halted = false)
include h hs ht hD hk hd hend hstep hhalt

/-- R261: the words of D. -/
theorem taskDrain_writes (hr : c.rpres = false) (hdrop : c.drop = false) (hw : c.words = [])
    (hnan : ∀ i j, i < c.rows → j < c.cols → (f32 (drainY (tget 0 (s.core e).engine.acc (128 * i + j)) none none)).isNaN = false) :
    ∃ t x, exec (.taskDrain e) s = .next t ∧ t.tile c.id = some x ∧ Aside s t [] ∧ x.words = s.drainWords c d (max s.now (c.from_ + 16))
      ((List.range c.rows).map (fun i => (d.base.toNat + (c.m0 + i) * d.stride + c.n0 * fmtBits d.fmt / 8,
        packRow d.fmt ((List.range c.cols).map (fun j => narrow d.fmt (drainY (tget 0 (s.core e).engine.acc (128 * i + j)) none none)))))) := by
  have ha : c.Answered s.now := by
    intro x hx
    rw [hw] at hx
    exact absurd hx List.not_mem_nil
  have hrows : c.drainRows d (s.core e).engine.acc = (List.range c.rows).map (fun i => (d.base.toNat + (c.m0 + i) * d.stride + c.n0 * fmtBits d.fmt / 8,
      packRow d.fmt ((List.range c.cols).map (fun j => narrow d.fmt (drainY (tget 0 (s.core e).engine.acc (128 * i + j)) none none))))) := by
    unfold TileCmd.drainRows
    simp only [TileCmd.drained_plain hr hdrop, List.map_map]
    rfl
  have eq := exec_taskDrain h hs ht hD hk hd hend hstep hhalt
  obtain ⟨q, eq1⟩ := State.tilePhase_answered h hend ha (Nat.zero_le _) (.taskDrain e) (fun va s => s.faultTile c.id va) (fun c s => s.drainGo c d e)
  rw [eq1, State.drainGo_writes (s := { s with bankq := q }) hr hdrop hw hnan, State.drainWords_bankq] at eq
  have hr0 := ((Reworks.refl h).bankq q).addWords (.taskDrain e) (s.drainWords c d (max s.now (c.from_ + 16)) (c.drainRows d (s.core e).engine.acc))
  refine ⟨_, _, eq, hr0.tile, hr0.aside, ?_⟩
  rw [hw, List.nil_append, hrows]

/-- R261: the end of a drain. -/
theorem taskDrain_ends (hw : ∃ w ∈ c.words, w.write = true) (ha : c.Answered s.now) (hu : c.upto ≤ s.now) :
    ∃ t x, exec (.taskDrain e) s = .next t ∧ t.tile c.id = some x ∧ x.ended = true ∧ t.Placed s.now (.taskComplete c.id) ∧ Aside s t [] := by
  have hw1 : c.words.any (fun w => w.write) = true := by simpa using hw
  have eq := exec_taskDrain h hs ht hD hk hd hend hstep hhalt
  obtain ⟨q, eq1⟩ := State.tilePhase_answered h hend ha (Nat.zero_le _) (.taskDrain e) (fun va s => s.faultTile c.id va) (fun c s => s.drainGo c d e)
  rw [eq1, State.drainGo_ends (s := { s with bankq := q }) h hw1 hu] at eq
  exact ⟨_, _, eq, State.finishTile_tile _ c, rfl, State.finishTile_placed _ c, State.finishTile_aside ((Aside.refl s []).then_bankq q) c⟩

/-- R43, R261: a word of D at its bank. -/
theorem taskDrain_word (hw : c.words = [w]) (hstate : w.state = .waiting) (hwrite : w.write = true) (hsent : w.sent < s.now)
    (hp : s.resolveIn c.part w.unit w.va = some (.core k o)) (hstop : s.padStop c.part c.at_ (.core k o) = none) (hcalm : s.Calm)
    (h1 : s.levelOf (s.thread c.tid).ctx ≠ 1) (h2 : s.levelOf (s.thread c.tid).ctx ≠ 2)
    (hturn : s.TileTurn c (.taskDrain e) w (s.serverOf (.core k o))) :
    let key := coreKey k o
    ∃ t x, exec (.taskDrain e) s = .next t ∧ t.tile c.id = some x ∧ (c.upto ≤ s.now → x.ended = true) ∧
      (s.now < c.upto → ∃ y, x.words = [y] ∧ y.state = .performed) ∧
      (t.bank (s.serverOf (.core k o))).served = some s.now ∧ (∀ u, t.thread u = s.thread u) ∧
      ∀ a, t.byte a = if key ≤ a ∧ a < key + w.data.length then w.data.getD (a - key) 0 else s.byte a := by
  intro key
  have eq := exec_taskDrain h hs ht hD hk hd hend hstep hhalt
  obtain ⟨cs, wa, em, q, q', eq1⟩ := State.tileServed_write h hend hw hstate hsent hp hstop hturn hwrite hcalm h1 h2
    (fun va s => s.faultTile c.id va) (fun x s => s.answered x 0 (.taskDrain e) (fun s => s.drainGo x d e))
  replace eq := eq.trans (congrArg Host.Outcome.next eq1)
  have hbank := State.bank_tileBank { s with bankq := q } (s.serverOf (.core k o))
  generalize hu : ({ ({ s with bankq := q } : State).tileBank (s.serverOf (.core k o)) with
    mem := pokeMem s.mem (coreKey k o) w.data, cores := cs, was := wa, empty := em, tileCmds := [c.answer w w.data s.now], bankq := q' } : State) = u at eq
  have hbanks : u.banks = (({ s with bankq := q } : State).tileBank (s.serverOf (.core k o))).banks := by rw [← hu]
  have htiles : u.tileCmds = [c.answer w w.data s.now] := by rw [← hu]
  have hmem : u.mem = pokeMem s.mem key w.data := by rw [← hu]
  have hthreads : u.threads = s.threads := by rw [← hu]; rfl
  have hnow : u.now = s.now := by rw [← hu]; rfl
  have hfront (t : State) (et : exec (.taskDrain e) s = .next t) (x : TileCmd) (hx : t.tile c.id = some x) (hx1 : c.upto ≤ s.now → x.ended = true)
      (hx2 : s.now < c.upto → ∃ y, x.words = [y] ∧ y.state = .performed) (hb : t.banks = u.banks) (hm : t.mem = u.mem) (hth : t.threads = u.threads) :
      ∃ t x, exec (.taskDrain e) s = .next t ∧ t.tile c.id = some x ∧ (c.upto ≤ s.now → x.ended = true) ∧
        (s.now < c.upto → ∃ y, x.words = [y] ∧ y.state = .performed) ∧
        (t.bank (s.serverOf (.core k o))).served = some s.now ∧ (∀ u, t.thread u = s.thread u) ∧
        ∀ a, t.byte a = if key ≤ a ∧ a < key + w.data.length then w.data.getD (a - key) 0 else s.byte a := by
    refine ⟨t, x, et, hx, hx1, hx2, ?_, fun v => ?_, fun a => ?_⟩
    · have hb1 : t.bank (s.serverOf (.core k o)) = { s.bank (s.serverOf (.core k o)) with served := some s.now, next := .P } := by
        unfold State.bank at hbank ⊢
        rw [hb, hbanks]
        exact hbank
      rw [hb1]
    · unfold State.thread
      rw [hth, hthreads]
    · unfold State.byte
      rw [hm, hmem]
      exact tget_pokeMem _ _ _ _
  have ha : (c.answer w w.data s.now).Answered u.now := by
    intro x hx
    obtain rfl : x = w.answer w.data s.now := List.mem_singleton.1 hx
    exact ⟨rfl, hnow.ge⟩
  have hw1 : (c.answer w w.data s.now).words.any (fun w => w.write) = true := by simpa [TileCmd.answer, CopyWord.answer] using hwrite
  rw [State.answered_go ha (Nat.zero_le _)] at eq
  rcases Nat.lt_or_ge s.now c.upto with hlt | hge
  · rw [State.drainGo_waits hw1 (hnow ▸ hlt)] at eq
    obtain ⟨pd, ep, -, -⟩ := u.tick_spec ((c.answer w w.data s.now).upto - u.now) (.taskDrain e)
    rw [ep] at eq
    exact hfront _ eq (c.answer w w.data s.now) (State.tile_single (c := c.answer w w.data s.now) htiles) (fun hle => absurd hle (Nat.not_le.2 hlt))
      (fun _ => ⟨_, rfl, rfl⟩) rfl rfl rfl
  · rw [State.drainGo_ends htiles hw1 (hnow ▸ hge)] at eq
    exact hfront _ eq _ (State.finishTile_tile u (c.answer w w.data s.now)) (fun _ => rfl) (fun hlt => absurd hge (Nat.not_le.2 hlt)) rfl rfl rfl

end

end

end Sys2Proof.Machine
end

section
/-!
O44: a command is accepted (R255, R263), and an engine tests itself (R270).
-/

namespace Sys2Proof.Machine

section
variable {s t : State} {c c1 : TileCmd}

/-! ## Self-test -/

theorem State.logError_now (s : State) (d code kind unit addr detail : Nat) : (s.logError d code kind unit addr detail).now = s.now := by
  obtain ⟨dies, e⟩ := s.logError_state d code kind unit addr detail
  rw [e]

/-- An engine with failing sub-arrays. -/
def Core.failing (f : BitVec 16) (k : Core) : Core := { k with engine := { k.engine with out := true, fenced := k.engine.fenced ||| f } }

/-- R270: a self-test that finds failing sub-arrays takes the engine out of service. -/
theorem engineSelfTest_fails {e : Nat} {f : BitVec 16} (hf : f ≠ 0) (hm : isMem e = false) (ho : (s.core e).engine.out = false) :
    ∃ t, exec (.engineSelfTest e f) s = .next t ∧ (t.core e).engine.out = true ∧ (t.core e).engine.fenced = (s.core e).engine.fenced ||| f ∧
      ∀ b, (s.core e).engine.lastBell = some b → t.Placed s.now (.bellUpdate ⟨b, 0, 1, none, none, 0⟩) := by
  have hcond : ¬ (f = 0 ∨ isMem e = true ∨ (s.core e).engine.out = true) := by
    rw [hm, ho]
    simpa using hf
  have core : (s.updCore e (Core.failing f)).core e = (s.core e).failing f := by rw [State.core_updCore, if_pos rfl]
  have eq : ∃ unit, exec (.engineSelfTest e f) s = .next (State.schedule (match (s.core e).engine.lastBell with
      | some b => ((s.updCore e (Core.failing f)).logError (dieOf e) 7 3 unit 0 0).after 0 (.bellUpdate ⟨b, 0, 1, none, none, 0⟩)
      | none => (s.updCore e (Core.failing f)).logError (dieOf e) 7 3 unit 0 0) (dieOf e)) := by
    refine ⟨dieOf e * 64 + rowOf e % 8 * 8 + colOf e % 8, ?_⟩
    show execEngineSelfTest e f s = _
    unfold execEngineSelfTest
    dsimp only
    rw [if_neg hcond]
    rfl
  obtain ⟨unit, eq⟩ := eq
  have h1 : State.Beside ((s.updCore e (Core.failing f)).logError (dieOf e) 7 3 unit 0 0) (s.updCore e (Core.failing f)) := .logError (.refl _)
  have hnow : ((s.updCore e (Core.failing f)).logError (dieOf e) 7 3 unit 0 0).now = s.now := State.logError_now _ _ _ _ _ _ _
  have service {u : State} (hu : u.Beside (s.updCore e (Core.failing f))) : (u.core e).engine.out = true ∧ (u.core e).engine.fenced = (s.core e).engine.fenced ||| f := by
    obtain ⟨-, hs, -, -⟩ := hu
    obtain ⟨h2, h3⟩ := hs e
    rw [h2, h3, core]
    exact ⟨rfl, rfl⟩
  cases hb : (s.core e).engine.lastBell with
  | none =>
    rw [hb] at eq
    obtain ⟨h2, h3⟩ := service (State.Beside.schedule (d := dieOf e) h1)
    exact ⟨_, eq, h2, h3, fun b hb => by cases hb⟩
  | some b =>
    rw [hb] at eq
    obtain ⟨h2, h3⟩ := service (State.Beside.schedule (d := dieOf e) (h1.after (n := 0) (i := .bellUpdate ⟨b, 0, 1, none, none, 0⟩)))
    refine ⟨_, eq, h2, h3, fun b' hb' => ?_⟩
    cases hb'
    obtain ⟨-, -, -, hp⟩ := State.Beside.schedule (d := dieOf e)
      (.refl (((s.updCore e (Core.failing f)).logError (dieOf e) 7 3 unit 0 0).after 0 (.bellUpdate ⟨b, 0, 1, none, none, 0⟩)))
    have hp0 := State.placed_after ((s.updCore e (Core.failing f)).logError (dieOf e) 7 3 unit 0 0) 0 (.bellUpdate ⟨b, 0, 1, none, none, 0⟩)
    rw [hnow] at hp0
    exact hp _ hp0

/-! ## Acceptance -/

/-- Beside a state with one command there is one, accepted when that was. -/
theorem State.Beside.tile {o : State} (h : t.Beside o) (hc : o.tileCmds = [c]) : ∃ x, t.tile c.id = some x ∧ x.accepted = c.accepted := by
  obtain ⟨ht, -, -, -⟩ := h
  rw [hc] at ht
  obtain ⟨x, l, hx, hx1, hl⟩ := List.map_eq_cons_iff.1 ht
  rw [List.map_eq_nil_iff.1 hl] at hx
  obtain ⟨hid, hacc⟩ := Prod.mk.inj hx1
  exact ⟨x, hid ▸ State.tile_single hx, hacc⟩

/-- A command ended by a fault: it completes at once. -/
theorem State.tileFault_ended (h : s.tileCmds = [c1]) (hid : c1.id = c.id) (va : Nat) :
    (s.tileFault c va).tile c.id = some { c1 with code := 3, ended := true, words := [] } ∧ (s.tileFault c va).Placed s.now (.taskComplete c.id) := by
  have logged (u : State) (hu : u.tileCmds = [c1] ∧ u.now = s.now) :
      (((u.logError c.die 6 3 c.die va (s.keyDetail c.tid)).updTile c.id (fun x => { x with code := 3, ended := true, words := [] })).after 0
        (.taskComplete c.id)).tile c.id = some { c1 with code := 3, ended := true, words := [] } ∧
      (((u.logError c.die 6 3 c.die va (s.keyDetail c.tid)).updTile c.id (fun x => { x with code := 3, ended := true, words := [] })).after 0
        (.taskComplete c.id)).Placed s.now (.taskComplete c.id) := by
    obtain ⟨hc, hn⟩ := hu
    obtain ⟨dies, e⟩ := u.logError_state c.die 6 3 c.die va (s.keyDetail c.tid)
    rw [e, ← hid, State.updTile_single (s := { u with dies := dies }) hc, ← hn]
    exact ⟨State.tile_single (c := { c1 with code := 3, ended := true, words := [] }) rfl, State.placed_after _ 0 _⟩
  unfold State.tileFault
  refine logged _ ?_
  split
  · split
    · obtain ⟨dies, free, e⟩ := s.logUnit_state c.tid c.part c.at_ _ _
      rw [e]
      exact ⟨h, rfl⟩
    · exact ⟨h, rfl⟩
  · exact ⟨h, rfl⟩

/-- What does not acquire has no record to write for its wait-bells. -/
theorem State.refuseTile_plain (h : c.acq = false) (k : State → State) : s.refuseTile c k = k s := by
  unfold State.refuseTile
  simp only [h]

/-- A command as it is accepted: its place in the order, the cycle, and the snapshots of its tensors (R246, R255). -/
theorem State.acceptTile_spec (h : s.tileCmds = [c]) (hacq : c.acq = false) :
    ∃ x, (s.acceptTile c).tile c.id = some x ∧ x.accepted = some s.now ∧
      (∀ tag, c.kind = 2 ∨ c.kind = 3 → c.chainTag = some tag → (s.ctx c.ctx).claimed.contains (c.tagKey tag) = false → x.ended = true ∧ x.code = 3 ∧
        (s.acceptTile c).Placed s.now (.taskComplete c.id)) ∧
      (∀ tag, c.kind = 4 → c.tag = some tag → c.signal = none → (s.ctx c.ctx).claimed.contains (c.tagKey tag) = false →
        ((s.acceptTile c).ctx c.ctx).claimed.contains (c.tagKey tag) = true) := by
  generalize ht : s.acceptTile c = t
  unfold State.acceptTile at ht
  extract_lets s0 c0 x0 entry c2 s1 claim size sigOk ok refused s2 trip at ht
  have fields : c2.id = c.id ∧ c2.kind = c.kind ∧ c2.ctx = c.ctx ∧ c2.die = c.die ∧ c2.tag = c.tag ∧ c2.chainTag = c.chainTag ∧ c2.signal = c.signal ∧
      c2.acq = c.acq ∧ c2.accepted = some s.now := by
    unfold c2
    split <;> exact ⟨rfl, rfl, rfl, rfl, rfl, rfl, rfl, rfl, rfl⟩
  obtain ⟨hid, hkind, hctx, hdie, htag, hchain, hsig, hacq2, hacc⟩ := fields
  have hkey (n : Nat) : c2.tagKey n = c.tagKey n := by
    unfold TileCmd.tagKey
    rw [hdie]
  have hs1 : s1.tileCmds = [c2] := by
    unfold s1
    rw [hid, State.updTile_single (s := s0) h]
  have ok_of_load (h4 : c.kind = 4) : ok = (sigOk && !(s.ctx c.ctx).claimed.contains (c.tagKey (c.tag.getD 0))) := by
    unfold ok
    rw [hkind.trans h4]
    show (sigOk && !(s.ctx c.ctx).claimed.contains (c2.tagKey (c2.tag.getD 0))) = _
    rw [hkey, htag]
  have ok_of_save (h23 : c.kind = 2 ∨ c.kind = 3) : ok = (sigOk && (s.ctx c.ctx).claimed.contains (c.tagKey (c.chainTag.getD 0))) := by
    have e : ok = (sigOk && (s.ctx c.ctx).claimed.contains (c2.tagKey (c2.chainTag.getD 0))) := by
      unfold ok
      rcases h23 with h2 | h3
      · rw [hkind.trans h2]
        rfl
      · rw [hkind.trans h3]
        rfl
    rw [e, hkey, hchain]
  cases hok : ok with
  | false =>
    rw [hok, if_pos (show (!false) = true from rfl), State.refuseTile_plain (hacq2.trans hacq)] at ht
    generalize hc3 : ({ c2 with wb0 := none, wb1 := none, signal := if sigOk then c2.signal else none, tag := if refused then none else c2.tag } : TileCmd) = c3 at ht
    have hid3 : c3.id = c2.id := by rw [← hc3]
    rw [hid] at ht
    have hu : (s0.updTile c.id (fun _ => c3)).tileCmds = [c3] := by rw [State.updTile_single (s := s0) h]
    obtain ⟨hx, hp⟩ := State.tileFault_ended hu hid3 c2.addr
    rw [ht, hid] at hx hp
    have hacc3 : c3.accepted = some s.now := by rw [← hc3]; exact hacc
    refine ⟨_, hx, hacc3, fun _ _ _ _ => ⟨rfl, rfl, hp⟩, fun tag h4 hc hsn hn => ?_⟩
    have hsig1 : sigOk = true := by
      unfold sigOk
      rw [hsig, hsn]
    rw [ok_of_load h4, hc, Option.getD_some, hn, hsig1] at hok
    cases hok
  | true =>
    rw [hok, if_neg (by decide)] at ht
    have hs2 : s2.tileCmds = [c2] := by
      unfold s2
      split <;> exact hs1
    have hb : t.Beside s2 := by
      rw [← ht]
      exact .ite (.schedule (.refl s2)) (.after (.refl s2))
    obtain ⟨x, hx, hxa⟩ := hb.tile hs2
    rw [hid] at hx
    refine ⟨x, hx, hxa.trans hacc, fun tag h23 hc hn => ?_, fun tag h4 hc hsn hn => ?_⟩
    · rw [ok_of_save h23, hc, Option.getD_some, hn, Bool.and_false] at hok
      cases hok
    · obtain ⟨-, -, hclaims, -⟩ := hb
      rw [hclaims]
      have e : s2 = claim s1 tag := by
        unfold s2
        rw [htag, hc]
      rw [e]
      show ((State.updCtx s1 c2.ctx _).ctx c.ctx).claimed.contains _ = true
      rw [State.ctx_updCtx, hctx, if_pos rfl, hkey]
      dsimp only
      split
      case isTrue hin => exact hin
      case isFalse => simp

/-- R255, R263, R264: the scheduler accepts a command of a thread whose turn it is. -/
theorem taskAccept_accepts (h : s.tileCmds = [c]) (hk : c.kind ≠ 0) (ha : c.accepted = none) (hacq : c.acq = false) (hturn : s.tileTurn c = true) :
    ∃ t x, exec (.taskAccept c.id) s = .next t ∧ t.tile c.id = some x ∧ x.accepted = some s.now ∧
      (∀ tag, c.kind = 2 ∨ c.kind = 3 → c.chainTag = some tag → (s.ctx c.ctx).claimed.contains (c.tagKey tag) = false → x.ended = true ∧ x.code = 3 ∧
        t.Placed s.now (.taskComplete c.id)) ∧
      (∀ tag, c.kind = 4 → c.tag = some tag → c.signal = none → (s.ctx c.ctx).claimed.contains (c.tagKey tag) = false →
        (t.ctx c.ctx).claimed.contains (c.tagKey tag) = true) := by
  have eq : exec (.taskAccept c.id) s = .next (s.acceptTile c) := by
    show execTaskAccept c.id s = _
    unfold execTaskAccept
    simp only [State.tile_single h, if_neg hk, ha, hturn, State.tileBehind_single h]
    rfl
  obtain ⟨x, hx⟩ := State.acceptTile_spec h hacq
  exact ⟨_, x, eq, hx⟩

end

end Sys2Proof.Machine
end

section
/-!
O44: a command completes (R262).

What follows a completed command (its tags and its thread are settled, cores rest, the scheduler looks again) writes no memory, leaves the dies'
queues and what the engines run, adds no command and takes back no step that is placed.
-/

namespace Sys2Proof.Machine

/-- Relative to `o`: the same memory, dies and engines' tasks, no further command, and every placed step. -/
def State.Outside (s o : State) : Prop :=
  s.now = o.now ∧ s.mem = o.mem ∧ s.dies = o.dies ∧ (∀ x ∈ s.tileCmds, x ∈ o.tileCmds) ∧
    (∀ e, (s.core e).engine.task = (o.core e).engine.task ∧ (s.core e).engine.count = (o.core e).engine.count) ∧ ∀ x ∈ o.pend, x ∈ s.pend

section
variable {s o : State} {c : TileCmd}

theorem State.Outside.refl (s : State) : s.Outside s := ⟨rfl, rfl, rfl, fun _ h => h, fun _ => ⟨rfl, rfl⟩, fun _ h => h⟩

theorem State.Outside.ite {a b : State} {p : Prop} {_ : Decidable p} (ha : a.Outside o) (hb : b.Outside o) : (if p then a else b).Outside o := by
  split <;> assumption

theorem State.Outside.foldl {α : Type} {f : State → α → State} {l : List α} {s : State} (h : s.Outside o) (hf : ∀ s, s.Outside o → ∀ a, (f s a).Outside o) :
    (l.foldl f s).Outside o := by
  induction l generalizing s with
  | nil => exact h
  | cons a l ih => exact ih (hf s h a)

theorem State.Outside.updThread {t f} (h : s.Outside o) : (s.updThread t f).Outside o := h
theorem State.Outside.updCtx {x f} (h : s.Outside o) : (s.updCtx x f).Outside o := h

theorem State.Outside.updCore {x} {f : Core → Core} (h : s.Outside o)
    (hf : ∀ k, (f k).engine.task = k.engine.task ∧ (f k).engine.count = k.engine.count := by exact fun _ => ⟨rfl, rfl⟩) : (s.updCore x f).Outside o := by
  obtain ⟨hn, hm, hd, hc, he, hp⟩ := h
  refine ⟨hn, hm, hd, hc, fun e => ?_, hp⟩
  rw [State.core_updCore]
  split
  case isTrue e1 =>
    obtain ⟨h1, h2⟩ := hf (s.core x)
    rw [h1, h2, e1]
    exact he x
  case isFalse => exact he e

theorem State.Outside.after {n i} (h : s.Outside o) : (s.after n i).Outside o := by
  obtain ⟨hn, hm, hd, hc, he, hp⟩ := h
  exact ⟨hn, hm, hd, hc, he, fun x hx => (mem_tins _ _ _ x).2 (.inr (hp x hx))⟩

theorem State.Outside.afterOnce {n i} (h : s.Outside o) : (s.afterOnce n i).Outside o := .ite h (.after h)
theorem State.Outside.wakeCore {x} (h : s.Outside o) : (s.wakeCore x).Outside o := .ite (.afterOnce (.ite (.updCore h) h)) (.ite (.updCore h) h)
theorem State.Outside.wake {t} (h : s.Outside o) : (s.wake t).Outside o := .ite (.wakeCore (.updThread h)) h
theorem State.Outside.restCore {x} (h : s.Outside o) : (s.restCore x).Outside o := .ite h (.afterOnce (.updCore h))

theorem State.Outside.checkLaunch {n} (h : s.Outside o) : (s.checkLaunch n).Outside o := by
  unfold State.checkLaunch
  split
  exacts [.ite (.afterOnce h) h, h]

theorem State.Outside.poison (h : s.Outside o) : (s.poison c).Outside o := by
  unfold State.poison
  refine .foldl (.ite h (.updCtx h)) (fun u hu k => .ite ?_ hu)
  exact .foldl (.updCtx hu) (fun v hv e => .ite (.updCore hv) hv)

theorem State.Outside.holdNan (h : s.Outside o) : (s.holdNan c).Outside o := by
  unfold State.holdNan
  split
  exacts [.ite (.updThread h) h, h]

theorem State.Outside.endTile {held : Bool} (h : s.Outside o) : (s.endTile c held).Outside { o with tileCmds := o.tileCmds.filter (fun x => x.id != c.id) } := by
  have h0 : State.Outside { s with tileCmds := s.tileCmds.filter (fun x => x.id != c.id) } { o with tileCmds := o.tileCmds.filter (fun x => x.id != c.id) } := by
    obtain ⟨hn, hm, hd, hc, he, hp⟩ := h
    refine ⟨hn, hm, hd, fun x hx => ?_, he, hp⟩
    obtain ⟨h1, h2⟩ := List.mem_filter.1 hx
    exact List.mem_filter.2 ⟨hc x h1, h2⟩
  exact .ite (.checkLaunch (.wake (.updThread h0))) (.checkLaunch h0)

/-- The scheduler has nothing to do where every command has ended. -/
theorem State.schedule_ended (h : ∀ x ∈ s.tileCmds, x.ended = true) (die : Nat) : s.schedule die = s := by
  have hl : s.tileCmds.filter (fun c => c.die == die && c.accepted.isSome && c.engine.isNone && !c.ended) = [] := by
    rw [List.filter_eq_nil_iff]
    intro x hx
    simp [h x hx]
  unfold State.schedule
  rw [hl]
  rfl

/-- What lies outside a state with fewer commands. -/
theorem State.Outside.of_filter {p : TileCmd → Bool} (h : s.Outside { o with tileCmds := o.tileCmds.filter p }) : s.Outside o := by
  obtain ⟨hn, hm, hd, hc, he, hp⟩ := h
  exact ⟨hn, hm, hd, fun x hx => (List.mem_filter.1 (hc x hx)).1, he, hp⟩

/-- R262: a command completes. -/
theorem taskComplete_frees {e : Nat} (h : s.tileCmds = [c]) (hend : c.ended = true) (hk : c.kind ≠ 0) (hq : (s.die c.die).tileq.contains c.id = true)
    (hcode : c.code = 0) (he : c.engine = some e) :
    ∃ t, exec (.taskComplete c.id) s = .next t ∧ (t.die c.die).tileq.contains c.id = false ∧ (t.core e).engine.task = none ∧
      (t.core e).engine.count = (s.core e).engine.count + (if c.kind = 1 then 1 else 0) ∧ (∀ a, t.byte a = s.byte a) ∧
      (c.signal = none → t.tile c.id = none) ∧
      (∀ b, c.signal = some b → c.ts = false → t.Placed s.now (.bellUpdate ⟨s.bellKey c.part c.core b, 1, 0, none, none, c.id⟩)) := by
  generalize ht : exec (.taskComplete c.id) s = r
  have ht1 : execTaskComplete c.id s = r := ht
  unfold execTaskComplete at ht1
  rw [State.tile_single h] at ht1
  dsimp -zeta only at ht1
  rw [if_neg (by rw [hend, hq]; simp [hk])] at ht1
  extract_lets s1 bell s2 s3 s4 s5 at ht1
  have h2 : ∃ f : Core → Core, (∀ k, (f k).engine.task = none ∧ (f k).engine.count = k.engine.count + if c.kind = 1 then 1 else 0) ∧
      s2.Outside (s1.updCore e f) := by
    unfold s2
    rw [he]
    exact ⟨_, fun k => ⟨rfl, rfl⟩, .restCore (.after (.refl _))⟩
  obtain ⟨f, hf, h2⟩ := h2
  have h4 : s4.Outside (s1.updCore e f) := .foldl (.holdNan (.poison h2)) (fun u hu _ => .ite (.wake hu) hu)
  have h5 : s5.Outside (s1.updCore e f) := by
    unfold s5
    generalize bell = b
    cases b with
    | none => exact .of_filter (.endTile h4)
    | some b => exact .after h4
  have hall : ∀ x ∈ (s5.restCore c.core).tileCmds, x.ended = true := by
    obtain ⟨-, -, -, hc, -, -⟩ := State.Outside.restCore (x := c.core) h5
    intro x hx
    obtain rfl : x = c := List.mem_singleton.1 (h ▸ hc x hx : x ∈ [c])
    exact hend
  rw [State.schedule_ended hall] at ht1
  obtain ⟨hn, hm, hd, -, hengine, -⟩ := State.Outside.restCore (x := c.core) h5
  obtain ⟨htask, hcount⟩ := hengine e
  have hcore : (s1.updCore e f).core e = f (s.core e) := by
    rw [State.core_updCore, if_pos rfl]
    rfl
  have hdie : (s1.updCore e f).die c.die = { s.die c.die with tileq := (s.die c.die).tileq.filter (fun i => i != c.id) } := by
    show s1.die c.die = _
    unfold s1
    rw [State.die_updDie, if_pos rfl]
  refine ⟨_, ht1.symm, ?_, ?_, ?_, fun a => ?_, fun hs => ?_, fun b hs hts => ?_⟩
  · unfold State.die at hdie ⊢
    rw [hd, hdie]
    simp
  · rw [htask, hcore]
    exact (hf _).1
  · rw [hcount, hcore]
    exact (hf _).2
  · unfold State.byte
    rw [hm]
    rfl
  · have h5' : s5 = s4.endTile c true := by
      unfold s5 bell
      rw [hs]
    obtain ⟨-, -, -, hc, -, -⟩ := State.Outside.restCore (x := c.core) (h5' ▸ State.Outside.endTile (held := true) h4)
    refine List.find?_eq_none.2 (fun x hx => ?_)
    obtain ⟨-, hne⟩ := List.mem_filter.1 (hc x hx)
    simpa using hne
  · have h5' : s5 = s4.after 0 (.bellUpdate ⟨s.bellKey c.part c.core b, 1, 0, none, none, c.id⟩) := by
      unfold s5 bell
      rw [hs]
      dsimp only
      rw [hcode, hts]
      rfl
    obtain ⟨-, -, -, -, -, hp⟩ := State.Outside.restCore (x := c.core) (.refl s5)
    have hp0 := State.placed_after s4 0 (.bellUpdate ⟨s.bellKey c.part c.core b, 1, 0, none, none, c.id⟩)
    rw [← h5', h4.1] at hp0
    exact hp _ hp0

end

end Sys2Proof.Machine
end

section
open Sys2Proof Sys2Proof.Machine

/-- Settles O44: each step of a tile command, with the command as the only one of its module. What comes before its words are answered, and behind that, is
read off the machine's step; where a step ends with the scheduler's work or with a completion's, that is known by what it leaves alone. -/
theorem tileSteps : Obligations.TileSteps := by
  unfold Obligations.TileSteps
  intro s c _ h hs
  refine ⟨?ttset, ?word, ?accept, ?dispatch, ?kstep, ?drain, ?load, ?save, ?complete, ?selfTest⟩
  case ttset => exact fun r p d hk hend hd hr hp hg hstop hw ha => ttsetServe_reads h hs hk hend (hd ▸ rfl) hr hp hg hstop hw ha
  case word =>
    exact fun w k o hk hend hw hstate hsent hread hpc hp hd hstopc hstop hecc hturn =>
      ttsetServe_word h hs hk hend hw hstate hsent hread hpc hp hd hstopc hstop hecc hturn
  case accept => exact fun hk ha hacq hturn => taskAccept_accepts h hk ha hacq hturn
  case dispatch =>
    exact fun e he hk hend hhalt => ⟨fun hd hdims => taskDispatch_sent h hs he hk hend hhalt hd hdims, fun hd ha hi hw hstep =>
      ⟨taskDispatch_waits h hs he hk hend hhalt hd ha hi hw hstep, taskDispatch_starts h hs he hk hend hhalt hd ha hi hw hstep⟩⟩
  case kstep =>
    intro e a b ht hk hd hend hstep hA hB hhalt
    refine ⟨fun l rest hl hends ha hfull => kStep_latched h ht hk hd hend hhalt hs hstep ha hends (hl ▸ List.cons_ne_nil _ _) hfull,
      fun hl hends ha hw => kStep_latches h ht hk hd hend hhalt hs hstep ha hends hl hw, fun l rest m hl hends hm ha hnan => ?_⟩
    obtain ⟨t, x, et, hx, hx1, haside, hacc⟩ := kStep_sums h ht hk hd hend hhalt hs ha hA hB hl hends hm (fun y hy => by
      obtain ⟨hi, hj⟩ := TileCmd.mem_cells.1 hy
      rw [TileCmd.tget_stepAcc c a b _ l _ hi hj]
      exact hnan _ _ hi hj)
    exact ⟨t, x, et, hx, hx1, haside, fun i j hi hj => by
      rw [hacc]
      exact TileCmd.tget_stepAcc c a b _ l _ hi hj⟩
  case drain =>
    exact fun e d ht hD hk hd hend hstep hr hdrop hhalt => ⟨fun hw hnan => taskDrain_writes h hs ht hD hk hd hend hstep hhalt hr hdrop hw hnan,
      fun hw ha hu => taskDrain_ends h hs ht hD hk hd hend hstep hhalt hw ha hu,
      fun w k o hw hstate hwrite hsent hp hstop hcalm h1 h2 hturn =>
        taskDrain_word h hs ht hD hk hd hend hstep hhalt hw hstate hwrite hsent hp hstop hcalm h1 h2 hturn⟩
  case load => exact fun e d he hk hend hd hhalt _ ha hu => accumulatorMoveRun_load h hs he hk hend hhalt (hd ▸ rfl) ha hu
  case save => exact fun e he hk hend hd hhalt ha hu => accumulatorMoveRun_save h hs he hk hend hhalt hd ha hu
  case complete => exact fun e hend hk hq hcode he => taskComplete_frees h hend hk hq hcode he
  case selfTest => exact fun e f hf hm ho => engineSelfTest_fails hf hm ho

end
